-- ==== Sys2Proof/Word.lean ====
section
/-! DEFINITION. The words of the VT8416 and the keyed lists that its memories and tables are held in. -/

namespace Sys2Proof

/-- A 32-bit word: a sample, a scalar, a memory word. -/
abbrev Word := BitVec 32

/-- A tile accumulator lane (R49): 72 bits. -/
abbrev Acc := BitVec 72

/-- A stored Ashlar or DMEM word with its check bits (R96): 32 data bits below 7 check bits. -/
abbrev Codeword := BitVec 39

/-- A keyed list: keys strictly rising; a key that is not listed has the default its reader names. -/
abbrev AMap (α : Type) := List (Nat × α)

end Sys2Proof
end

