-- ==== Sys2Proof/Syntax.lean ====
section
/-! DEFINITION. The commands of the block and the operands they carry. -/

namespace Sys2Proof

/-- A request that the firmware has taken from a seat and is about to carry out: the seat, the sequence number, the
ASAP flag of its header, and its payload words (R343, R359). -/
structure FwReq where
  seat : Nat
  seq : Nat
  asap : Bool
  words : List Nat
  deriving DecidableEq, Repr


/-- The commands of the block, one constructor a row of spec/opcode_table.json. -/
inductive Instr where
  /-- POWER_ON_RESET (R386): VDD_AON crosses its power-on threshold or falls below 85 %, and the whole device is reset. -/
  | powerOnReset
  /-- PIN_RESET (R386): RST_n or PGOOD held low for at least 1 µs resets everything except the fuse shadow and LIFE_CNT. -/
  | pinReset
  /-- CTL_RESET (R325): A lockstep mismatch, watchdog expiry, SYS_RESET write or permitted seat request resets the control domain while the audio side runs on. -/
  | ctlReset
  /-- FAB_RESET (R386): A firmware write of FAB = 1 to PWR_CTL resets the media-side engines, slot plane, calendars and tile state. -/
  | fabReset
  /-- SEAT_RESET (R386): SEAT.BIND, a PCIe link-down or FLR, or a QSPI port's seat reset clears one seat's mailboxes, lease, doorbells and interface. -/
  | seatReset (seat : Nat)
  /-- ASHLAR_FILL_DONE (R109): The zero fill of every present Ashlar bank completes, and FILL_DONE is set. -/
  | ashlarFillDone
  /-- BOOT_WINDOW_POST (R327): A host writes POST while the boot window is open, and the boot ROM authenticates the firmware image placed in the staging banks. -/
  | bootWindowPost (ifc : Nat)
  /-- BOOT_RETRY (R330): After a boot failure, the boot ROM retries the boot sources every 10 s. -/
  | bootRetry
  /-- FIRMWARE_ENTRY (R329): The boot ROM finishes loading an authentic image, saves a copy and enters the firmware; a single unit asserts its claim. -/
  | firmwareEntry
  /-- REMAP_WRITE (R318): A write of SYS_REMAP swaps boot ROM and working RAM at address 0 once accepted transactions have completed. -/
  | remapWrite (value : Nat)
  /-- TRIAL_CONFIRM (R330): The firmware writes CONFIRM, which confirms the trial slot so that TRIAL is cleared in the flash selector. -/
  | trialConfirm
  /-- WATCHDOG_KICK (R324): A matching SYS_WDT_KICK pair restarts the watchdog count; a mismatch sets PAIRWORD. -/
  | watchdogKick (complement : Bool) (value : Nat)
  /-- WATCHDOG_EXPIRY (R324): The watchdog count expires, releases the claim if ESCALATE is set, and requests a CTL reset. -/
  | watchdogExpiry
  /-- LOCKSTEP_MISMATCH (R323): The Birrek checker finds the cores differ, discards the request, releases the claim and requests a CTL reset. -/
  | lockstepMismatch
  /-- REGISTER_WRITE (R9): A write to a register with no row of its own, including W1C and paired writes with their complement check. -/
  | registerWrite (addr value : Nat)
  /-- CPO_WRITE (R25): A write of the FAB_CPO pair is taken only while the fabric is stopped; otherwise it is ignored and CPO_REJ is set. -/
  | cpoWrite (value complement : Nat)
  /-- CI_READ_CAPTURE (R43): A read of FAB_CI_LO captures the CI and the course cycle into FAB_CI_HI and FAB_CYC. -/
  | ciReadCapture
  /-- LIFE_CI_READ (R355): A read of LIFE_CI captures CI_HI for a coherent 64-bit read. -/
  | lifeCiRead (seat : Nat)
  /-- FAB_START (R26): FAB_CTL START begins the fabric at the first course boundary at least 1 ms ahead and latches the anchor CI. -/
  | fabStart
  /-- FAB_STOP (R66): FAB_CTL STOP stops the fabric at the next course boundary. -/
  | fabStop
  /-- COURSE_BOUNDARY (R36): At each course boundary the device carries out the ordered boundary actions before cycle 0 of the new course. -/
  | courseBoundary
  /-- FAMILY_CHANGE_RESTART (R135): Once the PLL has relocked and the gap records are applied, the firmware restarts the fabric anchored afresh. -/
  | familyChangeRestart
  /-- GAP_LOAD_COMPLETE (R133): The gap loader finishes applying the gap records. -/
  | gapLoadComplete
  /-- TILE_ARM (R66): TILEn_CTL ARM moves a stopped tile to ARMED and clears its fault record. -/
  | tileArm (tile : Nat)
  /-- TILE_STOP (R66): TILEn_CTL STOP stops the tile at once, or at the next boundary while it runs. -/
  | tileStop (tile : Nat)
  /-- TILE_BUNDLE_ISSUE (R45): A running tile issues one bundle of four slot operations in a fabric cycle. -/
  | tileBundleIssue (tile : Nat)
  /-- TILE_BANK_ACCESS (R62): A DMEM, slot-plane or Ashlar bank access of an issued operation falls at its later cycle. -/
  | tileBankAccess (tile : Nat)
  /-- ASHLAR_LANDING (R62): An inbound Ashlar transfer lands in DMEM at t + 7. -/
  | ashlarLanding (tile : Nat)
  /-- ENGINE_GRANT_ACCESS (R122): A non-tile engine makes its scheduled bank or slot access at a calendar grant. -/
  | engineGrantAccess (code : Nat) (read bank : Bool) (line cycle : Nat)
  /-- ROUTE_WINDOW (R144): The route engine processes crosspoints, one per cycle of its window, into the destination accumulators. -/
  | routeWindow
  /-- DYN_WINDOW (R158): The dynamics units process instances at two route-port cycles each. -/
  | dynWindow
  /-- ROUTE_RESYNC_DONE (R152): The route shadow recopy completes and RESYNC clears. -/
  | routeResyncDone
  /-- DYN_RESYNC_DONE (R152): A dynamics instance's shadow recopy completes. -/
  | dynResyncDone (instn : Nat)
  /-- SILENCE_COALESCE_EXPIRY (R161): When 100 ms have passed, the firmware raises a SILENCE event if the state differs from the last one reported. -/
  | silenceCoalesceExpiry (dest : Nat)
  /-- RTE_TABLE_WRITE (R163): The write of the last data word commits the selected RTE_ table entry. -/
  | rteTableWrite (n value : Nat)
  /-- DYN_TABLE_WRITE (R163): The write of DYN_DATA7, or DATA0 for tags, commits the selected dynamics entry. -/
  | dynTableWrite (n value : Nat)
  /-- STR_TABLE_WRITE (R219): The write of STR_DATA7 commits the selected stream table entry. -/
  | strTableWrite (n value : Nat)
  /-- AES_DATA_ACCESS (R174): An AES_DATA access reads or writes a buffer word and advances the index. -/
  | aesDataAccess (write : Bool) (value : Nat)
  /-- LOG_POP (R128): A POP write discards the oldest entry of the guard, Ashlar, Voussoir log or stream event queue. -/
  | logPop (which : Nat)
  /-- ASHLAR_BEAT_ACCEPT (R111): The Ashlar port accepts a Voussoir beat into the bank queue. -/
  | ashlarBeatAccept (master id : Nat) (write : Bool) (line strobes : Nat) (data : List Nat)
  /-- ASHLAR_BEAT_SERVE (R114): A queued beat is served in a mortar cycle and its response is returned. -/
  | ashlarBeatServe (bank cycle : Nat)
  /-- MERGED_WRITE (R112): The second cycle of a partial write merges and writes the line. -/
  | mergedWrite (bank : Nat)
  /-- SCRUB_LINE (R101): The scrubber reads one line of an On bank at its pace. -/
  | scrubLine (bank cycle : Nat) (behind : Bool)
  /-- SCRUB_WRITEBACK (R101): The corrected word is written back in the scrubber's next mortar cycle, unless a write reached it first. -/
  | scrubWriteback (bank : Nat)
  /-- SCRUB_PERIOD_START (R102): A scrub period begins, Retain banks are burst-scrubbed, and SCRUB_LAG is set if the last pass is unfinished. -/
  | scrubPeriodStart
  /-- BANK_POWER_WRITE (R106): An ASH_PWR pair requests bank power states, refusing illegal fields. -/
  | bankPowerWrite (n value complement : Nat)
  /-- BANK_TRANSITION_DONE (R107): A bank completes its power transition. -/
  | bankTransitionDone (bank : Nat)
  /-- SERIAL_FRAME_IN (R170): A serial input frame completes and is buffered for presentation. -/
  | serialFrameIn (lane frame cycle ratio : Nat)
  /-- SERIAL_FRAME_OUT (R170): A serial output frame starts and shifts out the sample read. -/
  | serialFrameOut (lane cycle ratio : Nat)
  /-- NONAUDIO_HOLD_EXPIRY (R179): 4,096 frames pass without a preamble and the mute lifts. -/
  | nonaudioHoldExpiry (receiver : Bool) (index : Nat)
  /-- SERIAL_CLOCK_LOSS (R171): A slave group sees no BCLK for 4 frame periods and sets CLK_LOST. -/
  | serialClockLoss (group : Nat)
  /-- AES3_RX_FRAME (R173): An AES3 receiver decodes a frame, checks parity and biphase, and counts toward LOCK. -/
  | aes3RxFrame (receiver a b : Nat) (badA badB validity : Bool) (rate ratio : Nat)
  /-- AES3_LOCK_LOSS (R173): 4 frame periods pass with no valid preamble, and the receiver loses LOCK. -/
  | aes3LockLoss (receiver : Nat)
  /-- AES3_BLOCK_START (R174): At a Z preamble the receiver latches channel status and user bits, and a transmitter takes its committed buffers. -/
  | aes3BlockStart (transmit : Bool) (port csA csB usA usB : Nat)
  /-- AES3_TX_COMMIT (R174): A TX_COMMIT write schedules the staged buffers for the next block. -/
  | aes3TxCommit (transmitter : Nat)
  /-- ASRC_ACQUIRE_LOCK (R177): The ratio estimate and FIFO fill settle and the ASRC goes to LOCKED. -/
  | asrcAcquireLock (instn ratio fill : Nat)
  /-- ASRC_SOURCE_LOST (R177): 4 source frame periods pass without a frame, and the ASRC goes to HELD. -/
  | asrcSourceLost (instn : Nat)
  /-- ASRC_FIFO_EMPTY (R177): A HELD instance drains its FIFO and goes to UNLOCKED. -/
  | asrcFifoEmpty (instn : Nat)
  /-- MAC_LINK_CHANGE (R185): A MAC's link goes up or down; FIFOs are discarded or the new rate is adopted. -/
  | macLinkChange (mac : Nat) (lock report : Bool) (rate : Nat) (receiving : Bool)
  /-- MAC_RX_FRAME (R188): A received frame is stored whole, checked and filtered, and is classified to a stream or a ring. -/
  | macRxFrame (mac : Nat) (bytes : List Nat) (fcsOk codeErr : Bool) (half : Nat)
  /-- RING_FRAME_DELIVER (R193): A ring frame at the FIFO head takes descriptors whole or is dropped as RX_NOBUF. -/
  | ringFrameDeliver (mac : Nat)
  /-- TX_CHAIN_FETCH (R194): The DMA takes a transmit descriptor chain into the FIFO or returns it in error. -/
  | txChainFetch (mac ring : Nat)
  /-- MAC_TX_FRAME_START (R195): At a frame boundary the MAC starts the highest-priority waiting frame, with an optional one-step timestamp. -/
  | macTxFrameStart (mac half : Nat)
  /-- PAUSE_EXPIRY (R197): The pause time runs out and transmission resumes. -/
  | pauseExpiry (mac : Nat)
  /-- PAUSE_WATCHDOG_EXPIRY (R198): Pause has held a waiting frame for WD_US; transmission resumes and PAUSE is ignored for 10 ms. -/
  | pauseWatchdogExpiry (mac : Nat)
  /-- PAUSE_IGNORE_END (R198): The 10 ms ignore period ends and PAUSE is honoured again. -/
  | pauseIgnoreEnd (mac : Nat)
  /-- MAC_COUNTER_SNAP (R199): SNAP copies all 48 counters to the snapshots and clears them. -/
  | macCounterSnap (mac : Nat)
  /-- RING_ENABLE (R193): Enabling a ring sets HEAD to 0; disabling it takes effect at a frame boundary. -/
  | ringEnable (mac : Nat) (tx : Bool) (ring : Nat) (en : Bool)
  /-- MDIO_POLL (R186): A MAC's poll interval expires and a PHY register poll is queued. -/
  | mdioPoll (mac : Nat)
  /-- MDIO_TRANSACTION (R187): A write of MDIOb_CMD queues a transaction behind any running poll. -/
  | mdioTransaction (bus value : Nat)
  /-- MDIO_DONE (R187): An MDIO transaction or poll completes and BUSY clears. -/
  | mdioDone (bus data : Nat)
  /-- INC_WRITE (R221): A PTP_INC_HI write commits INC, or is rejected with INC_REJ. -/
  | incWrite (hi : Nat)
  /-- PTP_TIME_CAPTURE (R222): A read of PTP_TIME_NS captures a coherent time and linear view. -/
  | ptpTimeCapture
  /-- PTP_SET (R223): ADJ_CTL SET loads the staged time at the next tick. -/
  | ptpSet
  /-- PTP_STEP (R223): ADJ_CTL STEP adds or subtracts the staged time at the next tick. -/
  | ptpStep (neg : Bool)
  /-- CSTAMP_READ_CAPTURE (R230): A read of PTP_CSTAMP_CI captures the stamp and its CI. -/
  | cstampReadCapture
  /-- PULSE_ARM (R228): An ARM write to PTPOo_CTL arms or stops an event output. -/
  | pulseArm (output : Nat) (arm pol gate : Bool)
  /-- PULSE_EDGE (R228): An event output's comparator reaches its edge and the output rises. -/
  | pulseEdge (output : Nat)
  /-- PULSE_FALL (R228): WIDTH ns after a rise the pulse falls. -/
  | pulseFall (output : Nat)
  /-- CAPTURE_EDGE (R229): A stable edge on a capture input is timestamped into its FIFO. -/
  | captureEdge (input : Nat) (rise : Bool)
  /-- CAPTURE_FIFO_READ (R229): A read of PTPIi_FIFO_HI removes the oldest entry. -/
  | captureFifoRead (input : Nat)
  /-- SYSTEM_PLL_LOSS (R221): The system PLL loses lock; the counter holds, TICK_LOST is set and ALERT_n asserts. -/
  | systemPllLoss
  /-- PTP_MESSAGE_RX (R232): The firmware processes a PTP message and steers INC or steps the counter. -/
  | ptpMessageRx (isAnnounce : Bool) (gmId gmClass gmAcc prio : Nat) (offset : Int) (delay : Nat)
  /-- ANNOUNCE_TIMEOUT (R237): The Announce receipt timeout expires and the firmware clears ANN_VALID. -/
  | announceTimeout
  /-- REF_PHASE_EVENT (R236): A compared reference phase event yields a phase error for the DPLL. -/
  | refPhaseEvent (ref : Nat) (diff : Int)
  /-- REF_EVAL_TICK (R240): Every 100 ms offsets are computed, windows judged, the drift fitted and selection evaluated. -/
  | refEvalTick (offsets : List (Option Int))
  /-- REF_ABSENCE (R241): A reference misses 2 event periods, or its record or lock, and becomes ABSENT. -/
  | refAbsence (ref : Nat) (pps : Bool)
  /-- REF_WTR_EXPIRY (R242): The wait-to-restore timer expires and the reference is QUALIFIED. -/
  | refWtrExpiry (ref : Nat)
  /-- REF_DQ_EXPIRY (R242): The disqualify timer expires and the reference returns to WTR. -/
  | refDqExpiry (ref : Nat)
  /-- SWITCH_AVERAGING_DONE (R245): Averaging ends, B is set, the loop closes and SWITCHING clears. -/
  | switchAveragingDone
  /-- BUILD_OUT_BLEED_DONE (R247): The build-out offset reaches 0 and BLEEDING clears. -/
  | buildOutBleedDone
  /-- DPLL_LOCK_DETECT (R249): The phase error stays within LOCK_NS for 1 s and the DPLL is LOCKED. -/
  | dpllLockDetect
  /-- DPLL_UNLOCK_DETECT (R249): The phase error exceeds 4 × LOCK_NS for 100 ms and the DPLL is ACQUIRING. -/
  | dpllUnlockDetect
  /-- HOLDOVER_HISTORY_TICK (R251): Each second in LOCKED the mean frequency enters the history, and holdover becomes valid after 10 s. -/
  | holdoverHistoryTick
  /-- OPEN_TIMEOUT (R252): CLK_FREQ is unwritten for 100 ms in OPEN mode and the loop returns to CLOSED. -/
  | openTimeout
  /-- PHASE_STEP_WRITE (R253): A CLK_PSTEP write adds pending phase steps and moves U. -/
  | phaseStepWrite (value : Nat)
  /-- PHASE_STEP_APPLY (R258): Every 2^PS_RATE XO periods one pending step is applied. -/
  | phaseStepApply
  /-- SYNTH_ENABLE (R255): EN set in CLK_SYN_CTL selects a band, or sets BAND_FAIL. -/
  | synthEnable
  /-- SYNTH_LOCK (R255): The synthesis PLL achieves lock after band selection. -/
  | synthLock (margin : Bool)
  /-- SYNTH_LOCK_LOSS (R257): The lock detector or XO loss freezes the loop and declares fabric PLL lost. -/
  | synthLockLoss (xoLost : Bool)
  /-- SYNTH_RELOCK (R257): The error stays within ±0.5 ns for 1,024 XO periods and COAST clears. -/
  | synthRelock
  /-- BAND_CAL_START (R256): A START write measures one band and rail frequency. -/
  | bandCalStart (band rail : Nat)
  /-- BAND_CAL_DONE (R256): The measurement completes, BUSY clears and CLK_CAL_FREQ holds the result. -/
  | bandCalDone (freq : Nat)
  /-- WCO_ARM (R260): EN written to 1 aligns a word clock output to its source. -/
  | wcoArm (output edge : Nat)
  /-- WCO_TRACK_ALIGN (R260): An input edge off place for 4 edges triggers realignment. -/
  | wcoTrackAlign (output edge : Nat)
  /-- CARRIER_PERIOD (R269): At each carrier period each leg's high time is interpolated, clamped and noise-shaped. -/
  | carrierPeriod (channel current voltage : Nat)
  /-- OVERCURRENT_TRIP (R270): A protection filter output exceeds OC_LIMIT, latching a trip and taking GEN low. -/
  | overcurrentTrip (channel level : Nat)
  /-- TRIP_INPUT (R271): TRIPc reaches its active level and GEN falls asynchronously, latching a trip. -/
  | tripInput (channel : Nat) (high : Bool)
  /-- TRIP_HOLD_EXPIRY (R273): At T + H a tripped channel returns to RUN, or counts a strike if the trip persists. -/
  | tripHoldExpiry (channel : Nat)
  /-- MANAGEMENT_SLOT (R280): At 44.8 µs of a setpoint cycle the unit sends a pending DISCOVER or CONFIG. -/
  | managementSlot
  /-- STATUS_SLOT_END (R284): A STATUS slot ends without a valid frame, counting toward LOST. -/
  | statusSlotEnd
  /-- MKL_FRAME_RX (R279): A stage-bus frame is received whole, checked, and STATUS, CAPS or CONFIG_ACK processed. -/
  | mklFrameRx (frame : List Nat)
  /-- DISCOVER_TIMER (R284): Every 100 ms a DISCOVER is queued for an absent or lost module. -/
  | discoverTimer (mdl : Nat)
  /-- AMP_CLEAR_WRITE (R272): An AMP_CLEAR write takes the named channels out of SHORT. -/
  | ampClearWrite (value : Nat)
  /-- EMUTE_INPUT (R358): EMUTE_n changes level and the hard mute takes effect at the next boundary. -/
  | emuteInput (low : Bool)
  /-- CLAIM_IN_FALL (R290): An eligible unit finds CLAIM_IN low and claims, driving CLAIM_OUT and enabling its drivers after the guard. -/
  | claimInFall
  /-- CLAIM_IN_RISE (R293): CLAIM_IN rises within unit B's 24 ns window and B withdraws its claim. -/
  | claimInRise
  /-- CLAIM_WINDOW_END (R293): Unit B's 24 ns window ends and it enables its shared drivers. -/
  | claimWindowEnd
  /-- CLAIM_CLOCK_STOP (R290): The fabric clock shows no edge for 50 ns; CLAIM_OUT falls with cause CLOCK_STOP. -/
  | claimClockStop
  /-- LINK_TRAINING (R297): Soeri training tries a mode: block lock, PRBS31 and identity exchange. -/
  | linkTraining (unit lanes rates delay : Nat)
  /-- TRAINING_MODE_TIMEOUT (R297): A mode fails to train within 5 ms and the next mode is tried. -/
  | trainingModeTimeout
  /-- LINK_FAULT (R297): Block-lock loss or excess CRC errors start training from the mode in force. -/
  | linkFault
  /-- RETRAIN (R297): RETRAIN in PAIR_LINK_CFG starts training from the top. -/
  | retrain
  /-- LINK_FRAME_RX (R303): A link frame arrives; a CRC failure requests a resend. -/
  | linkFrameRx (crcOk : Bool) (kind : Nat) (words : List Nat)
  /-- RECORD_RX (R303): A complete record is checked and replayed or applied by the standby, and its digest compared. -/
  | recordRx (record : List Nat) (arrival : Int)
  /-- RECORD_DEADLINE_MISS (R303): A record misses its deadline; two in a row lose the heartbeat. -/
  | recordDeadlineMiss
  /-- SKEW_TIMER (R298): PAIR_SKEW beyond SKEW_MAX for 100 ms sets SKEWED. -/
  | skewTimer
  /-- VOUSSOIR_REQUEST (R320): A master's request is decoded, checked for reach and arbitrated to its target. -/
  | voussoirRequest (master id : Nat) (write : Bool) (addr size beats : Nat) (data : List Nat) (fetch : Bool)
  /-- MASTER_RESET (R322): A master is reset; it stops issuing and its outstanding transactions complete. -/
  | masterReset (master : Nat)
  /-- MASTER_RESET_CUT (R322): After 2 µs outstanding transactions are cut and logged as CUT. -/
  | masterResetCut (master : Nat)
  /-- PCIE_LINK_DOWN (R334): A PCIe link-down resets the endpoint master and its seats. -/
  | pcieLinkDown
  /-- PCIE_FLR (R334): A function-level reset resets the endpoint master and the function's seat. -/
  | pcieFlr (pf : Nat)
  /-- BAR2_ACCESS (R336): A BAR2 access reaches the seat's window or is refused. -/
  | bar2Access (pf : Nat) (write : Bool) (off count : Nat) (data : List Nat)
  /-- QSPI_WRITE (R337): A QSPI WRITE transaction is buffered whole and applied if CHK, COUNT and CRC pass. -/
  | qspiWrite (port : Nat) (bytes : List Nat)
  /-- QSPI_READ (R338): A QSPI READ returns a marker and data with a CRC, or a refusal marker. -/
  | qspiRead (port : Nat) (header : List Nat) (clocked : Nat)
  /-- QSPI_STATUS (R339): A QSPI STATUS transaction returns the port status word and its complement. -/
  | qspiStatus (port : Nat)
  /-- UDP_MAILBOX_DATAGRAM (R340): A mailbox datagram from a permitted source is taken as a command frame. -/
  | udpMailboxDatagram (mac srcAddr srcPort dstPort : Nat) (words : List Nat)
  /-- MAILBOX_POST (R343): POST sets CMD_BUSY; the firmware checks the header, sequence and lease, and dispatches the command. -/
  | mailboxPost (seat : Nat)
  /-- EV_TAIL_WRITE (R341): A host consumes events; held events are then moved into the ring. -/
  | evTailWrite (seat value : Nat)
  /-- LEASE_WARNING (R349): A quarter of the lease remains and LEASE is raised. -/
  | leaseWarning (seat : Nat)
  /-- LEASE_EXPIRY (R349): A lease expires; staging is discarded and objects become orphans. -/
  | leaseExpiry (seat : Nat)
  /-- LIFE_RELEASE_ARM (R357): A write of the first key arms a seat's release key. -/
  | lifeReleaseArm (seat : Nat)
  /-- LIFE_RELEASE_KEY (R357): The second key within 1 ms releases the claim and darkens the outputs. -/
  | lifeReleaseKey (seat : Nat)
  /-- LIFE_RELEASE_ARM_EXPIRY (R357): The 1 ms arming window passes without the second key. -/
  | lifeReleaseArmExpiry (seat : Nat)
  /-- LIFE_MUTE_WRITE (R358): A seat's LIFE_MUTE pair write sets or clears its mute; a mismatch forces it on. -/
  | lifeMuteWrite (seat value complement : Nat)
  /-- LIFE_BEAT_TICK (R355): The firmware advances LIFE_BEAT every 10 ms. -/
  | lifeBeatTick
  /-- PIECE_VERIFY_DONE (R130): Verification of an image piece completes and CMD_DONE reports the result. -/
  | pieceVerifyDone
  /-- SUPPLY_ALARM (R396): A rail leaves its window for 50 ns; the claimant releases and ALERT_n asserts. -/
  | supplyAlarm (rail : Nat)
  /-- TEMPERATURE_SAMPLE (R397): Every 1 ms the die temperature is measured and the thermal alarms are judged. -/
  | temperatureSample (temp : Int)
  /-- QUIET_ENTRY (R390): ENTER = 1 ramps down, stops the fabric, cancels entries and keeps modules rail-off. -/
  | quietEntry
  /-- QUIET_EXIT (R390): Leaving Quiet recommits the image, starts the fabric and ramps up. -/
  | quietExit
  /-- REST_ENTRY (R391): ENTER = 2 retains banks, switches to VDD_RET, stops the PLLs and gates the domains. -/
  | restEntry
  /-- WAKE_EVENT (R394): An enabled wake source ends Rest and begins the wake sequence. -/
  | wakeEvent (source : Nat)
  /-- WAKE_FABRIC_START (R395): Once the DPLL is LOCKED or WAKE_LOCK_S has passed, the firmware recommits and starts the fabric. -/
  | wakeFabricStart
  /-- SYS_CAPS (R369): Returns the capability word, versions, straps and image state. -/
  | sysCaps (r : FwReq)
  /-- SYS_RESET (R369): Requests a CTL reset 1 ms after the reply. -/
  | sysReset (r : FwReq)
  /-- SYS_LIFE (R369): Returns the lifeline registers. -/
  | sysLife (r : FwReq)
  /-- SYS_MUTE (R369): Writes the sender's mute pair. -/
  | sysMute (r : FwReq)
  /-- SYS_CANCEL (R364): Cancels an armed scheduler entry. -/
  | sysCancel (r : FwReq)
  /-- SYS_SCHED (R369): Lists the armed scheduler entries. -/
  | sysSched (r : FwReq)
  /-- SEAT_ATTACH (R348): Negotiates a version, starts a lease, returns a token and adopts orphans. -/
  | seatAttach (r : FwReq)
  /-- SEAT_RENEW (R349): Restarts the lease. -/
  | seatRenew (r : FwReq)
  /-- SEAT_DETACH (R370): Detaches the seat, freeing or orphaning its objects. -/
  | seatDetach (r : FwReq)
  /-- SEAT_GIVE (R351): Gives an object to another attached seat. -/
  | seatGive (r : FwReq)
  /-- SEAT_TAKE (R354): The steward takes an object by force. -/
  | seatTake (r : FwReq)
  /-- SEAT_ADOPT (R352): Adopts orphans under a token. -/
  | seatAdopt (r : FwReq)
  /-- SEAT_RELEASE (R370): Frees an owned object. -/
  | seatRelease (r : FwReq)
  /-- SEAT_QUOTA (R353): Sets a seat's quota for a kind or for staging. -/
  | seatQuota (r : FwReq)
  /-- SEAT_BIND (R333): Binds an interface to a seat, with SEAT resets. -/
  | seatBind (r : FwReq)
  /-- SEAT_PERM (R356): Sets a seat's lifeline permissions. -/
  | seatPerm (r : FwReq)
  /-- SEAT_SUBSCRIBE (R370): Subscribes the seat to an object's events, or unsubscribes it. -/
  | seatSubscribe (r : FwReq)
  /-- SEAT_LIST (R370): Lists objects and their owners. -/
  | seatList (r : FwReq)
  /-- IMG_BEGIN (R371): Opens an image staging session and its window. -/
  | imgBegin (r : FwReq)
  /-- IMG_PIECE (R130): Submits a piece for verification and staging. -/
  | imgPiece (r : FwReq)
  /-- IMG_DATA (R371): Writes image bytes into the staging window. -/
  | imgData (r : FwReq)
  /-- IMG_COMMIT (R131): Arms a splice or ramped cut-over, or starts a first image. -/
  | imgCommit (r : FwReq)
  /-- IMG_ABORT (R371): Discards the session and cancels an armed commit. -/
  | imgAbort (r : FwReq)
  /-- IMG_STATUS (R371): Reports the image and staging status. -/
  | imgStatus (r : FwReq)
  /-- IMG_PATH (R371): Reports a path's latency terms. -/
  | imgPath (r : FwReq)
  /-- IMG_LEND (R136): Lends declared cycles of a bank to mortar. -/
  | imgLend (r : FwReq)
  /-- IMG_KEY (R371): Installs or deletes an image key and sets the signing policy. -/
  | imgKey (r : FwReq)
  /-- PARAM_WRITE (R373): Writes words into a page's shadow copy. -/
  | paramWrite (r : FwReq)
  /-- PARAM_READ (R373): Reads words of a page. -/
  | paramRead (r : FwReq)
  /-- ROUTE_STAGE (R374): Stages crosspoint changes in the seat's list. -/
  | routeStage (r : FwReq)
  /-- ROUTE_COMMIT (R374): Places staged crosspoints in the shadow and arms a safe-load set. -/
  | routeCommit (r : FwReq)
  /-- ROUTE_DEST (R148): Stages a destination record. -/
  | routeDest (r : FwReq)
  /-- ROUTE_SILENCE (R159): Writes a destination's silence configuration. -/
  | routeSilence (r : FwReq)
  /-- ROUTE_READ (R373): Reads a destination's crosspoints. -/
  | routeRead (r : FwReq)
  /-- ROUTE_DSTAT (R373): Reads, or clears, a destination's status. -/
  | routeDstat (r : FwReq)
  /-- ROUTE_DISCARD (R373): Empties the seat's route staging list. -/
  | routeDiscard (r : FwReq)
  /-- DYN_STAGE (R155): Writes a dynamics shadow record. -/
  | dynStage (r : FwReq)
  /-- DYN_READ (R373): Reads a dynamics record or meter. -/
  | dynRead (r : FwReq)
  /-- PORT_GROUP (R165): Configures a serial clock group. -/
  | portGroup (r : FwReq)
  /-- PORT_LANE (R171): Configures and binds a serial lane. -/
  | portLane (r : FwReq)
  /-- PORT_AESRX (R173): Configures an AES3 receiver. -/
  | portAesrx (r : FwReq)
  /-- PORT_AESTX (R174): Configures an AES3 transmitter. -/
  | portAestx (r : FwReq)
  /-- PORT_CSTAT (R174): Reads or stages channel-status and user buffers, optionally committing them. -/
  | portCstat (r : FwReq)
  /-- PORT_ASRC (R176): Configures an ASRC instance. -/
  | portAsrc (r : FwReq)
  /-- PORT_OUTEN (R181): Writes the serial and AES3 output-enable pairs. -/
  | portOuten (r : FwReq)
  /-- PORT_STATUS (R375): Reads port status and counters. -/
  | portStatus (r : FwReq)
  /-- NET_MAC (R200): Configures a MAC. -/
  | netMac (r : FwReq)
  /-- NET_IP (R376): Sets a MAC's IP configuration. -/
  | netIp (r : FwReq)
  /-- NET_PHY (R186): Sets the PHY poll configuration. -/
  | netPhy (r : FwReq)
  /-- NET_MDIO (R187): Runs an MDIO transaction. -/
  | netMdio (r : FwReq)
  /-- NET_STATS (R199): Reads, or snapshots, the MAC counters. -/
  | netStats (r : FwReq)
  /-- STREAM_RX (R377): Creates or changes a receive stream. -/
  | streamRx (r : FwReq)
  /-- STREAM_TX (R377): Creates or changes a transmit stream. -/
  | streamTx (r : FwReq)
  /-- STREAM_MAP (R215): Writes a stream's channel map. -/
  | streamMap (r : FwReq)
  /-- STREAM_ENABLE (R216): Enables or disables a stream at a boundary. -/
  | streamEnable (r : FwReq)
  /-- STREAM_DELETE (R377): Deletes a disabled stream and frees its resources. -/
  | streamDelete (r : FwReq)
  /-- STREAM_STATUS (R377): Reads, or clears, a stream's status and counters. -/
  | streamStatus (r : FwReq)
  /-- TIME_PTP (R232): Configures the PTP instance. -/
  | timePtp (r : FwReq)
  /-- TIME_STATUS (R378): Reads the PTP state. -/
  | timeStatus (r : FwReq)
  /-- TIME_CPO (R25): Sets the course phase offset while the fabric is stopped. -/
  | timeCpo (r : FwReq)
  /-- TIME_REANCHOR (R31): Arms a re-anchor at a named CI. -/
  | timeReanchor (r : FwReq)
  /-- TIME_PULSE (R228): Configures an event output. -/
  | timePulse (r : FwReq)
  /-- TIME_CAPTURE (R229): Configures a capture input. -/
  | timeCapture (r : FwReq)
  /-- TIME_CAPREAD (R378): Reads and removes capture entries. -/
  | timeCapread (r : FwReq)
  /-- TIME_LATENCY (R226): Sets a MAC's timestamp latencies. -/
  | timeLatency (r : FwReq)
  /-- CLK_REF (R236): Configures a reference. -/
  | clkRef (r : FwReq)
  /-- CLK_SELECT (R244): Writes the CLK_SEL pair. -/
  | clkSelect (r : FwReq)
  /-- CLK_DPLL (R248): Writes the DPLL control settings. -/
  | clkDpll (r : FwReq)
  /-- CLK_FREQ (R252): Writes the output frequency in OPEN mode. -/
  | clkFreq (r : FwReq)
  /-- CLK_STEP (R253): Adds phase steps. -/
  | clkStep (r : FwReq)
  /-- CLK_QUALITY (R238): Sets XO_TRIM, the AES11 quality levels and PTP quality entries. -/
  | clkQuality (r : FwReq)
  /-- CLK_OUTPUT (R259): Configures the output clocks and their enables. -/
  | clkOutput (r : FwReq)
  /-- CLK_STATUS (R379): Reads the clock status. -/
  | clkStatus (r : FwReq)
  /-- AMP_CHANNEL (R380): Configures an amplifier channel. -/
  | ampChannel (r : FwReq)
  /-- AMP_GROUP (R276): Configures a group's envelope boost. -/
  | ampGroup (r : FwReq)
  /-- AMP_BUS (R283): Configures the unit and the stage bus. -/
  | ampBus (r : FwReq)
  /-- AMP_OUTEN (R265): Writes the AMP_OEN pair. -/
  | ampOuten (r : FwReq)
  /-- AMP_CLEAR (R380): Takes channels out of SHORT. -/
  | ampClear (r : FwReq)
  /-- AMP_STATUS (R380): Reads channel or module status. -/
  | ampStatus (r : FwReq)
  /-- PAIR_CONFIG (R315): Writes the pair configuration. -/
  | pairConfig (r : FwReq)
  /-- PAIR_STATUS (R381): Reads the pair status. -/
  | pairStatus (r : FwReq)
  /-- PAIR_REJOIN (R312): Applies a FAB reset and recommits a released unit. -/
  | pairRejoin (r : FwReq)
  /-- PAIR_RESTATE (R313): Starts a restate of an UNFIT partner. -/
  | pairRestate (r : FwReq)
  /-- PAIR_REFRAME (R310): Arms a reframe at a named CI. -/
  | pairReframe (r : FwReq)
  /-- PAIR_RETRAIN (R381): Retrains the Soeri link. -/
  | pairRetrain (r : FwReq)
  /-- PWR_STATE (R389): Requests a power-state change. -/
  | pwrState (r : FwReq)
  /-- PWR_BANKS (R106): Writes an ASH_PWR pair. -/
  | pwrBanks (r : FwReq)
  /-- PWR_SCRUB (R103): Sets the scrub period. -/
  | pwrScrub (r : FwReq)
  /-- PWR_STATUS (R381): Reads the power state and the bank states. -/
  | pwrStatus (r : FwReq)
  /-- DIAG_READ (R382): Reads words at an address. -/
  | diagRead (r : FwReq)
  /-- DIAG_COUNTS (R382): Reads, or clears, a tile's counters. -/
  | diagCounts (r : FwReq)
  /-- DIAG_LOG (R382): Reads and removes log entries. -/
  | diagLog (r : FwReq)
  /-- DIAG_INJECT (R382): Arms an Ashlar error injection. -/
  | diagInject (r : FwReq)
  /-- DIAG_SVN (R328): Raises the SVN floor. -/
  | diagSvn (r : FwReq)
  /-- DIAG_DEBUG (R331): Runs the authenticated debug-open exchange. -/
  | diagDebug (r : FwReq)
  /-- RESET_RELEASE (R387): RST_n and PGOOD are both high again, so the device leaves the PIN reset: the straps are sampled and the start-up sequence begins. -/
  | resetRelease (bootSrc seatMap : Nat) (pairEn unitId : Bool)
  /-- SYSTEM_PLL_RELOCK (R221): The system PLL regains lock, and the PTP counter resumes counting with no step. -/
  | systemPllRelock
  /-- SUPPLY_ALARM_CLEAR (R396): Every monitored rail is back inside its window, so LIFE_FAULT.SUPPLY and PWR_ALARM.SUPPLY clear and the LIFE interrupt is raised. -/
  | supplyAlarmClear
  /-- PCIE_LINK_UP (R334): PCIe link training completes, the endpoint's configuration space answers, and the functions' BAR0 and BAR2 paths reach their seats again. -/
  | pcieLinkUp
  deriving DecidableEq, Repr

end Sys2Proof
end

