-- ==== Sys2Proof/Decode.lean ====
section
/-! DEFINITION. The commands that a table word spells: no row of spec/opcode_table.json gives bits, so none. -/

namespace Sys2Proof

/-- The command that nbits of a word spell by the table: no row has bits. -/
def decodeTableWord (_nbits _w : Nat) : Option Instr := none

end Sys2Proof
end

