-- ==== Sys2Proof/Config.lean ====
section
/-! DEFINITION. What the spec leaves open: free values, opaque constants that nothing can evaluate. -/

namespace Sys2Proof.Config

/-- The 8-byte token that the firmware gives a seat (R348), free: by the counter of free values. (DESIGN CHOICE log 1) -/
opaque seatToken : Nat → BitVec 64

/-- The 16-byte nonce of the debug exchange (R382), free. (DESIGN CHOICE log 1) -/
opaque debugNonce : Nat → BitVec 128

/-- The words of the boot ROM (R317), which the spec does not give, by word address. (DESIGN CHOICE log 5) -/
opaque bootRom : Nat → BitVec 32

/-- A 32-bit word that the spec leaves open, by the counter of free values. (DESIGN CHOICE log 1) -/
opaque freeWord : Nat → BitVec 32

end Sys2Proof.Config
end

