-- ==== Sys2Proof/Machine/Bits.lean ====
section
/-! DEFINITION. Fields of numbers, two's complement, and reading and writing keyed lists. -/

namespace Sys2Proof.Machine

/-- Bits [lo + w - 1 : lo] of a number. -/
def bits (v lo w : Nat) : Nat := v / 2 ^ lo % 2 ^ w

/-- Bit i of a number. -/
def bitOf (v i : Nat) : Bool := v / 2 ^ i % 2 == 1

/-- 1 for true, 0 for false. -/
def b2n (b : Bool) : Nat := if b then 1 else 0

/-- A w-bit number read as two's complement. -/
def toS (w v : Nat) : Int := if v % 2 ^ w < 2 ^ (w - 1) then (v % 2 ^ w : Nat) else ((v % 2 ^ w : Nat) : Int) - 2 ^ w

/-- A whole number as w bits of two's complement. -/
def ofS (w : Nat) (i : Int) : Nat := (i % (2 ^ w : Int)).toNat

/-- A whole number limited to a range. -/
def clampI (lo hi i : Int) : Int := if i < lo then lo else if hi < i then hi else i

/-- The complement of a 32-bit word. -/
def not32 (v : Nat) : Nat := 4294967295 - v % 4294967296

/-- The low 32 bits. -/
def lo32 (v : Nat) : Nat := v % 4294967296

/-- Bits [63:32]. -/
def hi32 (v : Nat) : Nat := v / 4294967296 % 4294967296

/-- The bytes of a word, least significant first. -/
def bytesOf (v : Nat) : Nat → List Nat
  | 0 => []
  | n + 1 => v % 256 :: bytesOf (v / 256) n

/-- The number that bytes spell, least significant first. -/
def ofBytes : List Nat → Nat
  | [] => 0
  | b :: bs => b % 256 + 256 * ofBytes bs

/-- Bits of a list of Booleans, the first at bit 0. -/
def ofBits : List Bool → Nat
  | [] => 0
  | b :: bs => b2n b + 2 * ofBits bs

/-- The positions of the bits that are 1 among the first n bits. -/
def bitsSet (v n : Nat) : List Nat := (List.range n).filter (bitOf v)

end Sys2Proof.Machine

namespace Sys2Proof

/-- The value under a key, or the default. -/
def AMap.get {α : Type} (m : AMap α) (k : Nat) (d : α) : α :=
  match m with
  | [] => d
  | (i, v) :: t => if i = k then v else AMap.get t k d

/-- The value under a key, if one is listed. -/
def AMap.find {α : Type} (m : AMap α) (k : Nat) : Option α :=
  match m with
  | [] => none
  | (i, v) :: t => if i = k then some v else AMap.find t k

/-- The list without a key. -/
def AMap.erase {α : Type} (m : AMap α) (k : Nat) : AMap α :=
  m.filter (fun p => p.1 != k)

/-- The list with a pair put in its place in rising order. -/
def AMap.put {α : Type} (m : AMap α) (k : Nat) (v : α) : AMap α :=
  match m with
  | [] => [(k, v)]
  | (i, w) :: t => if k < i then (k, v) :: (i, w) :: t else if k = i then (k, v) :: t else (i, w) :: AMap.put t k v

/-- The list with a value under a key; the default is not listed. -/
def AMap.set {α : Type} [DecidableEq α] (m : AMap α) (k : Nat) (v d : α) : AMap α :=
  if v = d then m.erase k else m.put k v

/-- Every value of a list changed; the default is not listed. -/
def AMap.mapVals {α : Type} [DecidableEq α] (f : α → α) (d : α) (m : AMap α) : AMap α :=
  m.foldl (fun (a : AMap α) p => a.set p.1 (f p.2) d) []

/-- The canonical form: keys strictly rising, and no pair that equals the default under its key. -/
def AMap.wf {α : Type} [DecidableEq α] (d : Nat → α) (m : AMap α) : Bool :=
  match m with
  | [] => true
  | [(k, v)] => decide (v ≠ d k)
  | (k, v) :: (j, w) :: t => decide (v ≠ d k) && decide (k < j) && AMap.wf d ((j, w) :: t)

end Sys2Proof
end

