-- ==== Sys2Proof/Machine/Flags.lean ====
section
/-! DEFINITION. The computations that rules share: rounding and saturation (R51, R80), the check-bit code (R96, R97),
CRC-32C (R118), SHA-256 and ECDSA on P-256 (R125, R328). -/

namespace Sys2Proof.Machine

/-! ## Rounding and saturation -/

/-- The largest and smallest 32-bit sample. -/
def maxS32 : Int := 2147483647
/-- The smallest 32-bit sample. -/
def minS32 : Int := -2147483648

/-- Whether a whole number lies outside the 32-bit range. -/
def overS32 (i : Int) : Bool := decide (i < minS32) || decide (maxS32 < i)

/-- Saturation to [-2^31, 2^31 - 1]. -/
def satS32 (i : Int) : Int := clampI minS32 maxS32 i

/-- i / 2^k rounded half to even on the k discarded bits (R51, R80). -/
def rne (k : Nat) (i : Int) : Int :=
  let q := i / (2 ^ k : Int)
  let r := i % (2 ^ k : Int)
  let half : Int := 2 ^ k / 2
  if k = 0 then i
  else if half < r || (r == half && q % 2 == 1) then q + 1 else q

/-- a / b rounded half to even, for b > 0. -/
def divRne (a : Int) (b : Nat) : Int :=
  let q := a / (b : Int)
  let r := a % (b : Int)
  if (b : Int) < 2 * r || (2 * r == (b : Int) && q % 2 == 1) then q + 1 else q

/-- The limit of a 72-bit accumulator (R50). -/
def satAcc (i : Int) : Int := clampI (-(2 ^ 71)) (2 ^ 71 - 1) i

/-- Whether an exact sum lies outside the 72-bit range (R50). -/
def overAcc (i : Int) : Bool := decide (i < -(2 ^ 71)) || decide ((2 ^ 71 - 1 : Int) < i)

/-- The sample that an accumulator value gives before saturation (R51): 31 bits discarded, half to even. -/
def accRound (acc : Int) : Int := rne 31 acc

/-! ## The (39,32) code -/

/-- The check columns of data bits 0 to 31 (R96). -/
def eccColumns : List Nat :=
  [0x07, 0x0B, 0x0D, 0x0E, 0x13, 0x15, 0x16, 0x19, 0x1A, 0x1C, 0x23, 0x25, 0x26, 0x29, 0x2A, 0x2C] ++
  [0x31, 0x32, 0x34, 0x38, 0x43, 0x45, 0x46, 0x49, 0x4A, 0x4C, 0x51, 0x52, 0x54, 0x58, 0x61, 0x62]

/-- The exclusive or of the columns whose data bit is 1. -/
def eccFold (v : Nat) : List Nat → Nat
  | [] => 0
  | c :: cs => (if v % 2 = 1 then c else 0) ^^^ eccFold (v / 2) cs

/-- The seven check bits of a data word (R96). -/
def eccCheck (v : Nat) : Nat := eccFold (v % 4294967296) eccColumns

/-- The stored codeword of a data word: check bits above the 32 data bits. -/
def eccEncode (v : Nat) : Nat := v % 4294967296 + 4294967296 * eccCheck v

/-- What a read of a codeword finds (R97). -/
inductive EccRead where
  | ok (v : Nat)
  | corrected (v syndrome : Nat)
  | bad (syndrome : Nat)
  deriving DecidableEq, Repr

/-- The data bit whose column is a syndrome, if one is. -/
def eccBit (syn : Nat) : Option Nat := eccColumns.findIdx? (· == syn)

/-- The syndrome decoding of R97. -/
def eccDecode (c : Nat) : EccRead :=
  let v := c % 4294967296
  let syn := (c / 4294967296 % 128) ^^^ eccCheck v
  if syn = 0 then .ok v
  else if [1, 2, 4, 8, 16, 32, 64].contains syn then .corrected v syn
  else match eccBit syn with
    | some i => .corrected (v ^^^ 2 ^ i) syn
    | none => .bad syn

/-! ## CRC-32C (R118) -/

/-- Eight shifts of the reflected Castagnoli polynomial. -/
def crcShift (c : Nat) : Nat → Nat
  | 0 => c
  | n + 1 => crcShift (if c % 2 = 1 then (c / 2) ^^^ 0x82F63B78 else c / 2) n

/-- The running CRC over bytes. -/
def crcRun (c : Nat) : List Nat → Nat
  | [] => c
  | b :: bs => crcRun (crcShift (c ^^^ (b % 256)) 8) bs

/-- CRC-32C: initial value and final exclusive or 0xFFFF_FFFF. (PRESUMED log 124) -/
def crc32c (bs : List Nat) : Nat := crcRun 0xFFFFFFFF bs ^^^ 0xFFFFFFFF

/-- The bytes of a list of words, each least significant byte first. -/
def wordsToBytes (ws : List Nat) : List Nat := ws.flatMap (fun w => bytesOf w 4)

/-- The words that bytes spell, least significant byte first; a short tail is padded with zeros. -/
def bytesToWords : List Nat → List Nat
  | a :: b :: c :: d :: t => ofBytes [a, b, c, d] :: bytesToWords t
  | [] => []
  | t => [ofBytes t]

/-! ## SHA-256 (FIPS 180-4, named by R119 and R328) -/

/-- The round constants. -/
def shaK : List Nat :=
  [0x428a2f98, 0x71374491, 0xb5c0fbcf, 0xe9b5dba5, 0x3956c25b, 0x59f111f1, 0x923f82a4, 0xab1c5ed5,
   0xd807aa98, 0x12835b01, 0x243185be, 0x550c7dc3, 0x72be5d74, 0x80deb1fe, 0x9bdc06a7, 0xc19bf174] ++
  [0xe49b69c1, 0xefbe4786, 0x0fc19dc6, 0x240ca1cc, 0x2de92c6f, 0x4a7484aa, 0x5cb0a9dc, 0x76f988da,
   0x983e5152, 0xa831c66d, 0xb00327c8, 0xbf597fc7, 0xc6e00bf3, 0xd5a79147, 0x06ca6351, 0x14292967] ++
  [0x27b70a85, 0x2e1b2138, 0x4d2c6dfc, 0x53380d13, 0x650a7354, 0x766a0abb, 0x81c2c92e, 0x92722c85,
   0xa2bfe8a1, 0xa81a664b, 0xc24b8b70, 0xc76c51a3, 0xd192e819, 0xd6990624, 0xf40e3585, 0x106aa070] ++
  [0x19a4c116, 0x1e376c08, 0x2748774c, 0x34b0bcb5, 0x391c0cb3, 0x4ed8aa4a, 0x5b9cca4f, 0x682e6ff3,
   0x748f82ee, 0x78a5636f, 0x84c87814, 0x8cc70208, 0x90befffa, 0xa4506ceb, 0xbef9a3f7, 0xc67178f2]

/-- The initial hash value. -/
def shaH0 : List Nat :=
  [0x6a09e667, 0xbb67ae85, 0x3c6ef372, 0xa54ff53a, 0x510e527f, 0x9b05688c, 0x1f83d9ab, 0x5be0cd19]

/-- Rotation right of a 32-bit word. -/
def rotr (n x : Nat) : Nat := x / 2 ^ n + x % 2 ^ n * 2 ^ (32 - n)

/-- The 64-word message schedule, newest word first, extended n times. -/
def shaExtend : Nat → List Nat → List Nat
  | 0, w => w
  | n + 1, w =>
    let w15 := w.getD 14 0
    let w2 := w.getD 1 0
    let s0 := rotr 7 w15 ^^^ rotr 18 w15 ^^^ w15 / 8
    let s1 := rotr 17 w2 ^^^ rotr 19 w2 ^^^ w2 / 1024
    shaExtend n (((w.getD 15 0 + s0 + w.getD 6 0 + s1) % 4294967296) :: w)

/-- The compression rounds. -/
def shaRounds : List (Nat × Nat) → List Nat → List Nat
  | [], h => h
  | (k, w) :: t, h =>
    let a := h.getD 0 0
    let b := h.getD 1 0
    let c := h.getD 2 0
    let e := h.getD 4 0
    let f := h.getD 5 0
    let g := h.getD 6 0
    let s1 := rotr 6 e ^^^ rotr 11 e ^^^ rotr 25 e
    let ch := (e &&& f) ^^^ ((4294967295 - e) &&& g)
    let t1 := h.getD 7 0 + s1 + ch + k + w
    let s0 := rotr 2 a ^^^ rotr 13 a ^^^ rotr 22 a
    let maj := (a &&& b) ^^^ (a &&& c) ^^^ (b &&& c)
    shaRounds t [(t1 + s0 + maj) % 4294967296, a, b, c, (h.getD 3 0 + t1) % 4294967296, e, f, g]

/-- The big-endian words of a block. -/
def beWords : List Nat → List Nat
  | a :: b :: c :: d :: t => (a * 16777216 + b * 65536 + c * 256 + d) :: beWords t
  | _ => []

/-- The blocks of a padded message, at most n of them. -/
def shaBlocks : Nat → List Nat → List Nat → List Nat
  | 0, _, h => h
  | n + 1, bs, h =>
    if bs.isEmpty then h
    else
      let w := (shaExtend 48 (beWords (bs.take 64)).reverse).reverse
      let r := shaRounds (shaK.zip w) h
      shaBlocks n (bs.drop 64) ((h.zip r).map (fun p => (p.1 + p.2) % 4294967296))

/-- The 32 bytes of a number, most significant first. -/
def beBytes (v n : Nat) : List Nat := (bytesOf v n).reverse

/-- The number that bytes spell, most significant first. -/
def ofBeBytes (bs : List Nat) : Nat := ofBytes bs.reverse

/-- SHA-256 of bytes, as 32 bytes. (PRESUMED log 124) -/
def sha256 (bs : List Nat) : List Nat :=
  let n := bs.length
  let pad := (119 - n % 64) % 64
  let m := bs ++ [0x80] ++ List.replicate pad 0 ++ beBytes (8 * n) 8
  (shaBlocks (m.length / 64 + 1) m shaH0).flatMap (fun w => beBytes w 4)

/-! ## ECDSA on P-256 (named by R120 and R328; the curve's constants are FIPS 186's) -/

/-- The field prime. -/
def p256 : Nat := 2 ^ 256 - 2 ^ 224 + 2 ^ 192 + 2 ^ 96 - 1
/-- The group order. -/
def n256 : Nat := 0xFFFFFFFF00000000FFFFFFFFFFFFFFFFBCE6FAADA7179E84F3B9CAC2FC632551
/-- The curve's b. -/
def b256 : Nat := 0x5AC635D8AA3A93E7B3EBBD55769886BC651D06B0CC53B0F63BCE3C3E27D2604B
/-- The base point. -/
def g256 : Nat × Nat :=
  (0x6B17D1F2E12C4247F8BCE6E563A440F277037D812DEB33A0F4A13945D898C296,
   0x4FE342E2FE1A7F9B8EE7EB4A7C0F9E162BCE33576B315ECECBB6406837BF51F5)

/-- a^e modulo m, over the low n bits of e. -/
def powMod (m : Nat) : Nat → Nat → Nat → Nat
  | 0, _, _ => 1 % m
  | n + 1, a, e =>
    let h := powMod m n (a * a % m) (e / 2)
    if e % 2 = 1 then h * a % m else h

/-- The inverse modulo a prime. -/
def invMod (m a : Nat) : Nat := powMod m 256 (a % m) (m - 2)

/-- The sum of two points; none is the point at infinity. -/
def ecAdd (x y : Option (Nat × Nat)) : Option (Nat × Nat) :=
  match x, y with
  | none, q => q
  | p, none => p
  | some (x1, y1), some (x2, y2) =>
    if x1 = x2 ∧ (y1 + y2) % p256 = 0 then none
    else
      let l := if x1 = x2 then (3 * x1 * x1 + (p256 - 3)) * invMod p256 (2 * y1) % p256
        else (y2 + p256 - y1) * invMod p256 (x2 + p256 - x1) % p256
      let x3 := (l * l + 2 * p256 - x1 - x2) % p256
      some (x3, (l * (x1 + p256 - x3) + p256 - y1) % p256)

/-- The multiple of a point over the low n bits of a scalar. -/
def ecMul : Nat → Nat → Option (Nat × Nat) → Option (Nat × Nat)
  | 0, _, _ => none
  | n + 1, k, p =>
    let h := ecMul n (k / 2) (ecAdd p p)
    if k % 2 = 1 then ecAdd h p else h

/-- Whether a signature (r, s) over a 32-byte hash verifies under a public key (x, y). (PRESUMED log 124) -/
def ecdsaOk (x y : Nat) (hash : List Nat) (r s : Nat) : Bool :=
  let onCurve := x < p256 && y < p256 && (y * y + 3 * x) % p256 == (x * x * x + b256) % p256
  if onCurve && 0 < r && r < n256 && 0 < s && s < n256 then
    let w := invMod n256 s
    let u1 := ofBeBytes hash * w % n256
    let u2 := r * w % n256
    match ecAdd (ecMul 256 u1 (some g256)) (ecMul 256 u2 (some (x, y))) with
    | some (px, _) => px % n256 == r
    | none => false
  else false

end Sys2Proof.Machine
end

