-- ==== Sys2Proof/Machine/Real.lean ====
section
/-! DEFINITION. The real functions that the signal rules use: levels in decibels, gains, exponentials and sines, in fixed
point with many more bits than the rules ask for; where a rule gives a tolerance, the value is free within it. -/

namespace Sys2Proof.Machine

/-- One decibel in the units of levels and gains. -/
def dB : Int := 1099511627776

/-- The binary fraction of log2, bit by bit, of a mantissa in [2^62, 2^63). -/
def log2Frac : Nat → Nat → Nat → Nat
  | 0, _, acc => acc
  | k + 1, m, acc =>
    let q := m * m / 4611686018427387904
    if 9223372036854775808 ≤ q then log2Frac k (q / 2) (2 * acc + 1) else log2Frac k q (2 * acc)

/-- log2 x with 40 fraction bits, for x > 0. -/
def log2Fix (x : Nat) : Nat := Nat.log2 x * 1099511627776 + log2Frac 40 (x * 4611686018427387904 / 2 ^ Nat.log2 x) 0

/-- 20 log10 (x / 2^k) in 2^-40 dB; 20 log10 2 is taken as 6.020599913279624 dB. (DESIGN CHOICE log 36) -/
def levelDb (x k : Nat) : Int := ((log2Fix x : Int) - (k * 1099511627776 : Nat)) * 6020599913279624 / 1000000000000000

/-- Terms n + 1 to n + k of the series of e^-x, given the term before; units of 2^-96. -/
def expTerms (x : Int) : Nat → Nat → Int → Int
  | 0, _, _ => 0
  | k + 1, n, t =>
    let u := -(t * x / 79228162514264337593543950336) / ((n + 1 : Nat) : Int)
    u + expTerms x k (n + 1) u

/-- e^(-num/den) in units of 2^-96, for num ≤ den. -/
def expNeg (num den : Nat) : Int :=
  let one : Int := 79228162514264337593543950336
  one + expTerms (one * num / den) 40 0 one

/-- The coefficient exp(-1 / (τ × fs)) with τ in microseconds, in units of 2^-96; 0 where τ × fs < 1 (R147). -/
def alpha (tauUs fs : Nat) : Int := if tauUs * fs < 1000000 then 0 else expNeg 1000000 (tauUs * fs)

/-- α × g + (1 - α) × target (R147), rounded towards the target. -/
def smooth (a g target : Int) : Int := target + Int.tdiv (a * (g - target)) 79228162514264337593543950336

/-- 2^(i / 2^40) as a mantissa in units of 2^-96 and a power of two. -/
def exp2Fix (i : Int) : Int × Int :=
  let one : Int := 79228162514264337593543950336
  let f := i % 1099511627776
  let x := -(f * 54916777467707473351141471128) / 1099511627776
  (one + expTerms x 40 0 one, i / 1099511627776)

/-- x × 10^(g / 20) rounded half to even, with g in 2^-40 dB; log2 10 / 20 is taken as 0.166096404744368117. -/
def applyDb (x g : Int) : Int :=
  let e := exp2Fix (g * 166096404744368117 / 1000000000000000000)
  if e.2 < -96 then 0
  else if e.2 ≤ 96 then rne (96 - e.2).toNat (x * e.1)
  else x * e.1 * 2 ^ (e.2 - 96).toNat

/-- Terms of the sine series after the one given; units of 2^-128. -/
def sinTerms (x2 : Int) : Nat → Nat → Int → Int
  | 0, _, _ => 0
  | k + 1, n, t =>
    let u := -(t * x2 / 340282366920938463463374607431768211456) / (((n + 1) * (n + 2) : Nat) : Int)
    u + sinTerms x2 k (n + 2) u

/-- sin(π/2 × p / q) in units of 2^-128, for p ≤ q. -/
def sinQuarter (p q : Nat) : Int :=
  if p = q then 340282366920938463463374607431768211456
  else
    let x : Int := 534514292032483373929840186580935391650 * p / q
    x + sinTerms (x * x / 340282366920938463463374607431768211456) 30 1 x

/-- A free value within ±0.0099 dB, the tolerance of R147, by a free word. (DESIGN CHOICE log 36) -/
def tolDb (w : Nat) : Int := ((w % 4294967296 : Nat) : Int) * 5 - 10737418240

/-- Whether 20 log10(a / 2^31) lies below t / 256 dB, exactly (R160): a^5120 against 2^158720 × 10^t. -/
def levelBelow (a : Nat) (t : Int) : Bool :=
  if a = 0 then true
  else if t ≤ 0 then decide (a ^ 5120 * 10 ^ (-t).toNat < 2 ^ 158720)
  else decide (a ^ 5120 < 2 ^ 158720 * 10 ^ t.toNat)

end Sys2Proof.Machine
end

