-- ==== Sys2Proof/Machine/State.lean ====
section
/-! DEFINITION. The state of the block: everything the spec gives it, as plain data, and its value right after reset. -/

namespace Sys2Proof.Machine

/-- Why a step can stop with a fault. No command of this block does: a violation is recorded in a register, a log or an
event and the block goes on. The one name stands for a machine that could not go on. -/
inductive Fault where
  | halted   -- raised by no command; safe
  deriving DecidableEq, Repr

/-- Why a step can be refused. -/
inductive Refusal where
  | notModelled (mnemonic : String)   -- raised by an arm that has no meaning yet; safe: nothing is claimed of it
  deriving DecidableEq, Repr


/-! ## Registers -/

/-- The type codes of the register tables (00_scope). -/
inductive RType where
  | ro | rw | wo | w1c | rwp
  deriving DecidableEq, Repr

/-- Which resets clear a field (its "Cleared by" column): POR; POR and PIN; also FAB; also CTL; also CTL and SEAT; also SEAT. -/
inductive Cleared where
  | por | pp | ppf | ppc | ppcs | pps
  deriving DecidableEq, Repr

/-- A register field: Voussoir address of its register, lowest bit, width, reset value, type, reset classes. -/
structure Fld where
  addr : Nat
  lo : Nat
  width : Nat
  reset : Nat
  typ : RType
  cls : Cleared
  deriving DecidableEq, Repr

/-- A row of a register table: where its registers stand (n1 of them s1 apart, each n2 times s2 apart) and their fields. -/
structure RegRow where
  base : Nat
  n1 : Nat
  s1 : Nat
  n2 : Nat
  s2 : Nat
  fields : Nat → Nat → List Fld

/-! ## What leaves the block -/

/-- The kinds of things that leave the block and that no register shows. -/
inductive OutKind where
  | msix        -- an MSI-X vector: seat, vector (R342)
  | datagram    -- a control datagram of a UDP seat: MAC, address, port, bytes (R340)
  | response    -- a Voussoir or host answer: status, data (R320, R336 to R339)
  | frame       -- an Ethernet frame: MAC, bytes (R195)
  | ringWrite   -- a descriptor or buffer written back
  | serial      -- a serial or AES3 output frame: lane or transmitter, words (R170, R174)
  | record      -- a per-course pair record (R300)
  | linkFrame   -- another link frame: resend request, restate line (R303, R313)
  | stage       -- a stage-bus frame: bytes (R280)
  | gate        -- an amplifier leg's high times: channel, A, B (R269)
  | pulse       -- an event output edge: output, level (R228)
  | clockOut    -- a clock output change: output, level or period (R259, R260)
  | mdio        -- an MDIO transaction (R187)
  | pause       -- a note of the audio side: kind, data
  deriving DecidableEq, Repr

/-- One thing that left the block. -/
structure Out where
  kind : OutKind
  data : List Nat
  deriving DecidableEq, Repr

/-! ## Fuses, straps and pins -/

/-- The fuses (R3, R328, R331): the capability word and its complement, the hash of each of four keys with its revoke
bit, the SVN floor, the debug lock, the serial number, the bank fuse map and the PCIe vendor identifier. -/
structure Fuses where
  cap : Nat
  capC : Nat
  keyHash : List Nat
  keyRevoked : List Bool
  svnFloor : Nat
  dbgLock : Bool
  serial : Nat
  deriving DecidableEq, Repr

/-- The straps and the input pins with a level of their own (R326, R358, R289, R271). -/
structure Pins where
  bootSrc : Nat
  seatMap : Nat
  pairEn : Bool
  unitId : Bool
  emuteLow : Bool
  claimIn : Bool
  trip : Nat
  deriving DecidableEq, Repr

/-! ## The control side -/

/-- Where the boot stands (R327, R329, R330). -/
inductive Boot where
  | inReset      -- RST_n or PGOOD low (R387)
  | capFail      -- the fuse pair failed its check (R5)
  | strapFail    -- BOOT_SRC 1 with SEAT_MAP 3 (R327)
  | romCold      -- the boot ROM after POR or PIN
  | romCtl       -- the boot ROM's CTL path
  | romWake      -- the boot ROM's CTL path on a wake from Rest (R395)
  | failed       -- no source gave an authentic image (R330)
  | firmware     -- the firmware runs
  deriving DecidableEq, Repr

/-- The control domain: boot, the CTL reset requests not yet carried out, the watchdog count in ms, the first word of a
kick pair, working RAM and the boot flash (bytes), the debug-open state, the interface that the boot window serves
(0 PF0, 1 QT0), whether an authentic image lies in the staging banks, the running firmware's SVN and version, and the PCIe
link. -/
structure Ctl where
  boot : Boot
  reqWdt : Bool
  reqLock : Bool
  reqSoft : Bool
  wdtCount : Nat
  kick : Option Nat
  wram : AMap Nat
  flash : AMap Nat
  debugOpen : Bool
  bootIf : Option Nat
  bootPosted : Bool
  svn : Nat
  fwVersion : Nat
  pcieUp : Bool
  deriving DecidableEq, Repr

/-- An outstanding Voussoir transaction (R319, R322): master, ID, write, address, beats not yet answered, and data beats of a
write that its target has not accepted. -/
structure Txn where
  master : Nat
  id : Nat
  write : Bool
  addr : Nat
  beats : Nat
  left : Nat
  deriving DecidableEq, Repr

/-- A request of a master (R319): master, ID, write, address, bytes a beat, beats, data words, and whether it is an
instruction fetch. -/
structure VsrReq where
  master : Nat
  id : Nat
  write : Bool
  addr : Nat
  size : Nat
  beats : Nat
  data : List Nat
  fetch : Bool
  deriving DecidableEq, Repr

/-- A VSR_ log entry (R321). -/
structure VsrEntry where
  kind : Nat
  write : Bool
  master : Nat
  id : Nat
  addr : Nat
  deriving DecidableEq, Repr

/-- The Voussoir matrix: log, outstanding transactions, masters in reset with transactions not yet cut, requests held back
in the order in which they were made (R320), and the master that each kind of target served last (R320). -/
structure Vsr where
  log : List VsrEntry
  outstanding : List Txn
  inReset : List Nat
  held : List VsrReq
  lastGrant : AMap Nat
  deriving DecidableEq, Repr

/-! ## Seats -/

/-- An event as it is raised (R383): code, payload words, CI of its course. -/
structure Ev where
  code : Nat
  words : List Nat
  ci : Nat
  deriving DecidableEq, Repr

/-- A crosspoint change in a seat's staging list (R374): the 128-bit entry of R142 as its value. -/
structure XpChange where
  value : Nat
  deriving DecidableEq, Repr

/-- One seat (R332 to R358): lease, token, sequence numbers, mailbox areas, event ring and hold queue, staging lists,
subscriptions, the UDP binding, whether its release key is armed, MUTE_PW of its view, the reply
kept for a repeat (R345), and where its last command datagram came from (R340). -/
structure Seat where
  lease : Nat
  token : Nat
  expect : Option Nat
  lastExec : Option (Nat × Nat)
  mail : AMap Nat
  hold : List Ev
  dropped : Nat
  routes : List Nat
  dests : List (Nat × Nat)
  subs : List (Nat × Nat)
  udpPort : Nat
  udpSrc : Nat
  udpMask : Nat
  evAddr : Nat
  evPort : Nat
  udpDropped : Nat
  relArmed : Bool
  mutePw : Bool
  stored : List Nat
  srcAddr : Nat
  srcPort : Nat
  deriving DecidableEq, Repr

/-- A seat after reset: detached, everything empty. -/
def Seat.init : Seat :=
  ⟨0, 0, none, none, [], [], 0, [], [], [], 0, 0, 0, 0, 0, 0, false, false, [], 0, 0⟩

/-- A QSPI target port (R337 to R339): its status word's stored bits. -/
structure Qspi where
  busy : Bool
  doneOk : Bool
  crcErr : Bool
  cut : Bool
  refused : Bool
  targetErr : Bool
  deriving DecidableEq, Repr

/-- The owner of an object (R351, R352): its seat, whether it is an orphan, and the token it is owned under. -/
structure Owner where
  seat : Nat
  orphan : Bool
  token : Nat
  deriving DecidableEq, Repr

/-- The PTP instance's settings and its view of the master (R232, R378). -/
structure PtpInst where
  cfg : List Nat
  portState : Nat
  gmId : Nat
  gmClass : Nat
  gmAcc : Nat
  offset : Nat
  pathDelay : Nat
  deriving DecidableEq, Repr

/-- What the firmware keeps (R350 to R354, R366 to R371): object owners by kind × 65,536 + index, tokens oldest first,
quotas by seat × 256 + kind, image keys by slot, the signing policy, the debug nonce, the PTP instance, IP settings by
MAC, SILENCE states reported and pending, an OVERFLOW seen, the sleep mask, and the seat served last (R346). -/
structure Fw where
  owners : AMap Owner
  tokens : List Nat
  quotas : AMap Nat
  imgKeys : AMap Nat
  requireSigned : Bool
  nonce : Option Nat
  ptp : PtpInst
  ip : AMap (List Nat)
  silReported : AMap Nat
  silPending : AMap Nat
  overflowSeen : Bool
  sleepMask : Nat
  turn : Nat
  deriving DecidableEq, Repr

/-! ## Tiles -/

/-- A register write of a tile that is not usable yet (R62, R76): the register-view key, the value, the bundle cycle at
which readers see it, the cycle at which a reader of the same class sees it, the class (0 none, 1 MAC into an
accumulator, 2 BEXP RUN), and the issue cycle and slot rank that order writes usable together (R77). -/
structure PendWrite where
  key : Nat
  val : Nat
  due : Nat
  fwd : Nat
  cls : Nat
  issue : Nat
  rank : Nat
  deriving DecidableEq, Repr

/-- A bank access of an issued operation, made at a later cycle (R62); a mark is a fault found in an access (R67). -/
inductive AccKind where
  | ldv (vd mask addr : Nat)
  | lds (sd addr : Nat)
  | ldb (vd mask addr : Nat)
  | srd (vd mask line : Nat)
  | ard (pd mask word : Nat)
  | stv (mask addr : Nat) (vals : List Nat)
  | sts (addr val : Nat)
  | swr (mask line : Nat) (vals : List Nat)
  | awrRead (pd mask word : Nat)
  | awrWrite (mask word : Nat) (vals : List Nat)
  | mark (cause : Nat)
  deriving DecidableEq, Repr

/-- An access with its cycle and the bundle that issued it. -/
structure TileAcc where
  cycle : Nat
  issue : Nat
  pc : Nat
  kind : AccKind
  deriving DecidableEq, Repr

/-- An inbound Ashlar transfer on its way to DMEM (R62): its landing cycle, line, mask, words and issuing bundle. -/
structure Landing where
  cycle : Nat
  issue : Nat
  pc : Nat
  pd : Nat
  mask : Nat
  vals : List Nat
  deriving DecidableEq, Repr

/-- An active repeat (R90): counter, first and last bundle of the body, cycles to idle after it. -/
structure Rep where
  z : Nat
  first : Nat
  last : Nat
  idle : Nat
  deriving DecidableEq, Repr

/-- One tile (R44): the register view's registers by offset (V, A, S, P, M, B, L, Z, G, bindings), the two physical
IMEM halves and DMEM as codewords, the program position and the cycle of the next issue, repeats innermost first,
results not yet usable, accesses and landings not yet made, a STOP waiting for the boundary, the bundle and cycle of
the recorded fault, and the live signal regions (R73). -/
structure Tile where
  regs : AMap Nat
  imem0 : AMap Nat
  imem1 : AMap Nat
  dmem : AMap Nat
  pc : Nat
  cyc : Nat
  ended : Bool
  reps : List Rep
  pend : List PendWrite
  accs : List TileAcc
  lands : List Landing
  stopReq : Bool
  rgn : List (Nat × Nat)
  deriving DecidableEq, Repr

/-- A tile after POR or PIN (R71): everything zero. -/
def Tile.init : Tile := ⟨[], [], [], [], 0, 0, false, [], [], [], [], false, []⟩

/-! ## Ashlar -/

/-- A beat in a bank's queue (R111): master, transaction ID, write, word address of its line, 32 byte strobes, the eight
words, and whether its transaction has been cut (R322). -/
structure Beat where
  master : Nat
  id : Nat
  write : Bool
  line : Nat
  strobes : Nat
  data : List Nat
  cut : Bool
  deriving DecidableEq, Repr

/-- A merged write between its two cycles (R112): the beat, the eight words read, corrected. -/
structure MergeHold where
  beat : Beat
  base : List Nat
  deriving DecidableEq, Repr

/-- An entry of the Ashlar error log (R116). -/
structure AshLog where
  word : Nat
  syndrome : Nat
  action : Nat
  req : Nat
  ci16 : Nat
  deriving DecidableEq, Repr

/-- A bank in transition (R107): the state it goes to, and whether its contents are lost on the way. -/
structure BankTrans where
  dst : Nat
  lost : Bool
  deriving DecidableEq, Repr

/-- Ashlar (R93 to R116): codewords by word address, beat queues and merge holds by bank, transitions by bank, ASH_PWR
registers waiting for the boundary, the next line to scrub by bank, banks whose pass is done, the write-back waiting
(word, codeword), whether a pass is in progress, the log, and the live signal regions. -/
structure Ash where
  mem : AMap Nat
  queue : AMap (List Beat)
  merge : AMap MergeHold
  trans : AMap BankTrans
  pwrWait : List Nat
  scrubLine : AMap Nat
  scrubDone : List Nat
  scrubWb : AMap (List (Nat × Nat))
  scrubPass : Bool
  log : List AshLog
  rgn : List (Nat × Nat)
  deriving DecidableEq, Repr

/-! ## The fabric, the image and the course scheduler -/

/-- A set of calendars, slot map and engine windows (R122, 06): bank calendar by 64 × bank + cycle (unlisted: mortar
0xFF), slot calendars by 64 × slot bank + cycle (unlisted: none 0xFE), slot map by line as producer + 256 × flags
(unlisted: producer 0xFE), and the windows. -/
structure Cal where
  bank : AMap Nat
  slotW : AMap Nat
  slotR : AMap Nat
  map : AMap Nat
  routeStart : Nat
  routeCap : Nat
  dynStart : Nat
  dynCap : Nat
  deriving DecidableEq, Repr

/-- No calendar: all mortar, no grants. -/
def Cal.init : Cal := ⟨[], [], [], [], 0, 0, 0, 0⟩

/-- An initial-data record (06, 0x03): kind 1 DMEM, 2 register view, 3 Ashlar; the tile; the address; the words (one
word and the count when it is a fill). -/
structure InitRec where
  kind : Nat
  tile : Nat
  addr : Nat
  fill : Bool
  count : Nat
  words : List Nat
  deriving DecidableEq, Repr

/-- A declared region (06, 0x0D). -/
structure Region where
  kind : Nat
  tile : Nat
  first : Nat
  last : Nat
  deriving DecidableEq, Repr

/-- A latency entry (06, 0x0E). -/
structure LatEntry where
  src : Nat
  dst : Nat
  courses : Nat
  drive : Nat
  hops : Nat
  delay : Nat
  env : Bool
  deriving DecidableEq, Repr

/-- A carried-state or digest-map record, or a mortar grant: its three words (06). -/
structure MapRec where
  a : Nat
  b : Nat
  c : Nat
  deriving DecidableEq, Repr

/-- A pavane image as its sections state it (R117 to R123). -/
structure Img where
  id : Nat
  len : Nat
  compat : Nat
  family : Nat
  rm : Nat
  need : Nat
  tileMask : Nat
  recordBytes : Nat
  progs : AMap (List Nat)
  inits : List InitRec
  cal : Cal
  destSlots : List Nat
  routes : List Nat
  hasRoute : Bool
  dyns : List (List Nat)
  hasDyn : Bool
  pages : List (Nat × Nat × Nat)
  carried : List MapRec
  hasCarried : Bool
  digest : List MapRec
  hasDigest : Bool
  lend : List MapRec
  regions : List Region
  latency : List LatEntry
  sha : List Nat
  deriving DecidableEq, Repr

/-- A staging session (R130, R371): the seat, the announced length and identifier, the verified bytes by offset, the
pieces verified (offset, length), and the piece being verified (window offset, length, image offset, sequence number). -/
structure Session where
  seat : Nat
  len : Nat
  id : Nat
  bytes : AMap Nat
  pieces : List (Nat × Nat)
  busy : Option (Nat × Nat × Nat × Nat)
  sections : Nat
  complete : Bool
  deriving DecidableEq, Repr

/-- A change of a double-buffered mask or binding that a batch entry makes at its CI (R34, R363): a register field by
key, a channel-map halfword, a stream's EN, a lend mask. -/
inductive BufChange where
  | fld (key val : Nat)
  | chan (tx : Bool) (stream ch val : Nat)
  | strEn (tx : Bool) (stream : Nat) (en : Bool)
  deriving DecidableEq, Repr

/-- An armed entry of the course scheduler (R34): kind code of R363, seat, target CI, the members of a safe-load set
(route table, pages, dynamics instances), the changes of a batch, and whether a re-anchor skipped it (R31). -/
structure Sched where
  kind : Nat
  seat : Nat
  ci : Nat
  route : Bool
  pages : List Nat
  insts : List Nat
  changes : List BufChange
  skipped : Bool
  deriving DecidableEq, Repr

/-- A ramped change under way (R31, R133, R310, R390): its kind (2 cut-over, 4 re-anchor, 7 reframe, 8 entry of Quiet or
Rest, 9 ramp-up alone), the CI of its swap boundary and the seat. -/
structure Ramp where
  kind : Nat
  ci : Nat
  seat : Nat
  deriving DecidableEq, Repr

/-- An entry of the guard log (R139). -/
structure GuardEntry where
  code : Nat
  req : Nat
  cycle : Nat
  ci : Nat
  deriving DecidableEq, Repr

/-- The fabric: CI and course cycle, the anchor a pending start will run with, a STOP waiting, the active and shadow
calendars, the running image and the completely staged one, the staging session, the last refusal (check, offset), gap
records of the staged image, the scheduler, the ramp and the gain numerator in force (256ths), the family change
awaiting its restart, whether the shadow areas are locked, the guard log, the lines written this course, the mortar
cycles each bank gave in the present step, the line transfers the engines made this course (engine code × 1,024 + line),
the page-copy roles (page → 1 when copy B is active) and the last image committed. -/
structure Fab where
  ci : Nat
  cycle : Nat
  startAt : Option Nat
  stopReq : Bool
  cal : Cal
  shadow : Cal
  img : Option Img
  staged : Option Img
  session : Option Session
  lastCheck : Nat
  lastOffset : Nat
  sched : AMap Sched
  ramp : Option Ramp
  gain : Nat
  family : Option Img
  familyStopped : Bool
  gapLoaded : Bool
  guardLog : List GuardEntry
  written : List Nat
  served : List Nat
  pageB : List Nat
  lastImg : Option Img
  deriving DecidableEq, Repr

/-- The two halves of the slot plane (R37): sample words by slot. -/
structure Plane where
  half0 : AMap Nat
  half1 : AMap Nat
  deriving DecidableEq, Repr

/-- The PTP counter (R220): seconds, nanoseconds, 2^-32 ns. -/
structure PtpCount where
  sec : Nat
  ns : Nat
  frac : Nat
  deriving DecidableEq, Repr

/-! ## The pair -/

/-- An event of a record (R302): type, argument, payload words. -/
structure PairEv where
  typ : Nat
  arg : Nat
  words : List Nat
  deriving DecidableEq, Repr

/-- A record received from the partner (R300, R301): the course, whether it is reduced, the header's fields, the ingress
words, the events, the carried words and the digest. -/
structure PairRec where
  ci : Nat
  reduced : Bool
  state : Nat
  claim : Bool
  eligible : Bool
  unit : Nat
  rsReq : Bool
  lag : Nat
  ql : Nat
  imageId : Nat
  walk : Nat
  ingress : List Nat
  events : List PairEv
  carried : List Nat
  digest : List Nat
  deriving DecidableEq, Repr

/-- A restated line (R313): the course, its grant's number in that course, its word address and eight words. -/
structure RsLine where
  ci : Nat
  grant : Nat
  addr : Nat
  words : List Nat
  deriving DecidableEq, Repr

/-- The fail-over pair (R287 to R315) beside its registers: a cause of R294 since the last FAB reset; the shared drivers
enabled; the frame (true: replay); the lag in force; the event queue and the events of the course; records waiting for their replay; the record being replayed; the last
record; consecutive missing records, one noted in this course; courses that the link has been down; the ingress store,
newest course first; the lines that the record gives for this course; the walk position at the start of the course and now,
its digest CRCs and word count; the carried lines of the course by number; entries fired at this boundary; changes of
double-buffered registers waiting for their ARM; the restate phase (1 pass, 2 verifying walk, 3 its last records), bytes sent
in this course, the courses of the walk still to be compared, own digests by course, whether all matched, restated lines
waiting, suspended; RS_REQ; the training mode; the output hold by engine code × 1,024 + line, newest first; skew over its
limit; B's guard window open; the partner's staged and verified image (IMAGE_ID, checksum); silence mask last sent; MUTE of
the replayed course; a rejoin of a single unit under way; the restate code of PAIR events (R384); whether the walk
has wrapped in this course. -/
structure Pair where
  diag : Bool
  drivers : Bool
  replay : Bool
  lag : Nat
  queue : List PairEv
  now : List PairEv
  recs : AMap PairRec
  cur : Option PairRec
  last : Option PairRec
  missing : Nat
  missNoted : Bool
  down : Nat
  store : List (AMap (List Nat))
  lines : AMap (List Nat)
  walk0 : Nat
  walk : Nat
  dig : List Nat
  count : Nat
  carry : AMap (List Nat)
  fired : List Nat
  waiting : List BufChange
  restate : Nat
  sent : Nat
  vcis : List Nat
  digs : AMap (List Nat)
  allMatch : Bool
  rsLines : List RsLine
  suspended : Bool
  rsReq : Bool
  train : Nat
  hold : AMap (List (List Nat))
  skewOver : Bool
  window : Bool
  partnerImg : Option (Nat × List Nat)
  silSent : Nat
  muteIn : Bool
  rejoin : Bool
  rsCode : Nat
  wrapped : Bool
  deriving DecidableEq, Repr

/-- The pair at reset. -/
def Pair.init : Pair where
  diag := false
  drivers := false
  replay := false
  lag := 2
  queue := []
  now := []
  recs := []
  cur := none
  last := none
  missing := 0
  missNoted := false
  down := 0
  store := []
  lines := []
  walk0 := 0
  walk := 0
  dig := []
  count := 0
  carry := []
  fired := []
  waiting := []
  restate := 0
  sent := 0
  vcis := []
  digs := []
  allMatch := true
  rsLines := []
  suspended := false
  rsReq := false
  train := 0
  hold := []
  skewOver := false
  window := false
  partnerImg := none
  silSent := 0
  muteIn := false
  rejoin := false
  rsCode := 0
  wrapped := false

/-! ## Power -/

/-- The power state beside the PWR_ registers: whether the device is in Rest, an entry to Quiet (1) or Rest (2) whose
ramp-down is under way, a wake source latched before entry completed (R394), whether the fabric is held stopped after a
thermal shutdown (R397), whether a wake waits to start the fabric (R395), whether the image is to be recommitted (R387). -/
structure Pwr where
  rest : Bool
  entering : Nat
  latched : Option Nat
  hotStop : Bool
  waking : Bool
  leaving : Bool
  deriving DecidableEq, Repr

/-! ## The route engine and the dynamics units -/

/-- A 64-bit value word with its stored complement (R142, R143). -/
structure PairWord where
  value : Nat
  comp : Nat
  deriving DecidableEq, Repr

/-- A crosspoint that sounds at an index (R153, R154): source, destination, gain before the swap and gain it goes to
(signed Q2.22), its law (0 linear, 1 equal power in, 2 equal power out), courses since the swap, ramp length, and
whether it goes silent at the end. -/
structure Sounding where
  src : Nat
  dest : Nat
  g0 : Int
  g1 : Int
  law : Nat
  step : Nat
  len : Nat
  vanish : Bool
  deriving DecidableEq, Repr

/-- What the route engine keeps of a destination (R143, R146 to R149, R160): the last record that passed its check, the
look-ahead store newest first, the limiter's applied gain (2^-40 dB) and mode (0 bypassed, 1 active, 2 returning to
0 dB), the clip count, the trip mute (65 held, 64 to 1 in release), the silence state, its count and the CI of its last
change, and the sample of the course. -/
structure DestSt where
  last : Option Nat
  store : List Int
  gain : Int
  lim : Nat
  clip : Nat
  mute : Nat
  silent : Bool
  quiet : Nat
  silCi : Nat
  sample : Nat
  deriving DecidableEq, Repr

/-- A destination at image load (R421). -/
def DestSt.init : DestSt := ⟨none, [], 0, 0, 0, 0, false, 0, 0, 0⟩

/-- The route engine: entries and destination records in both halves, silence configurations in force and waiting for
the boundary, what sounds by index, destinations, sums, destinations written out this course, page tags
(TAG + 64 × ARMED), pages whose shadow copy awaits its recopy, courses left to the recopy of the shadow half, and the
crosspoint changes that the armed set took from a seat's list. -/
structure Rte where
  act : AMap PairWord
  shadow : AMap PairWord
  actRec : AMap PairWord
  shRec : AMap PairWord
  sil : AMap (Nat × Nat)
  silWait : AMap (Nat × Nat)
  snd : AMap Sounding
  dst : AMap DestSt
  acc : AMap Int
  done : List Nat
  tags : AMap Nat
  stale : List Nat
  resync : Nat
  held : List Nat
  deriving DecidableEq, Repr

/-- No route. -/
def Rte.init : Rte := ⟨[], [], [], [], [], [], [], [], [], [], [], [], 0, []⟩

/-- What a dynamics instance keeps (R156, R157): applied gain and detector level (2^-40 dB), the mean square (2^-78 of
full scale squared), and the sample of the course. -/
structure DynSt where
  gain : Int
  level : Int
  mean : Nat
  sample : Nat
  deriving DecidableEq, Repr

/-- The dynamics units: the eight words of each instance's record in both halves, what instances keep, instances that
have run this course, tags (TAG + 64 × ARMED) and instances whose shadow is being recopied. -/
structure Dyn where
  act : AMap (List Nat)
  shadow : AMap (List Nat)
  st : AMap DynSt
  done : List Nat
  tags : AMap Nat
  recopy : List Nat
  deriving DecidableEq, Repr

/-- No dynamics. -/
def Dyn.init : Dyn := ⟨[], [], [], [], [], []⟩

/-! ## Serial lanes and AES3 -/

/-- A serial lane (R167, R170, R179): frames that ended in this course, oldest first, the pair presented in this course, the
pair read for output, and frames ended or started in this course. -/
structure LaneSt where
  arrived : List (Nat × Nat)
  present : Nat × Nat
  out : Nat × Nat
  count : Nat
  deriving DecidableEq, Repr

/-- A lane at reset. -/
def LaneSt.init : LaneSt := ⟨[], (0, 0), (0, 0), 0⟩

/-- Channel status and user bits of both channels, 192 bits each (R174). -/
structure AesBits where
  csA : Nat
  csB : Nat
  usA : Nat
  usB : Nat
  deriving DecidableEq, Repr

/-- An AES3 transceiver (R173, R174, R179, R180): consecutive valid frames and their rate, last good samples, the 4-frame
buffer, the pair presented, the non-audio hold, whether channel status marks non-audio, a validity bit seen in this block,
the received buffers, the staged and sending buffers with a commit waiting, and the pair read for output. -/
structure AesSt where
  good : Nat
  rate : Nat
  lastA : Nat
  lastB : Nat
  buf : List (Nat × Nat)
  present : Nat × Nat
  naMute : Bool
  naHold : Nat
  csMute : Bool
  vNow : Bool
  rx : AesBits
  staged : AesBits
  sending : AesBits
  commit : Bool
  out : Nat × Nat
  deriving DecidableEq, Repr

/-- A transceiver at reset. -/
def AesSt.init : AesSt :=
  ⟨0, 0, 0, 0, [], (0, 0), false, 0, false, false, ⟨0, 0, 0, 0⟩, ⟨0, 0, 0, 0⟩, ⟨0, 0, 0, 0⟩, false, (0, 0)⟩

/-- The port engine: lanes and transceivers. -/
structure Port where
  lane : AMap LaneSt
  aes : AMap AesSt
  deriving DecidableEq, Repr

/-! ## Ethernet -/

/-- A received frame on its way to a ring (R188 to R193): its bytes after the destination address up to the FCS, the TCI
stripped from it, and its ingress timestamp. -/
structure RxFrame where
  bytes : List Nat
  tci : Option Nat
  stamp : Nat
  deriving DecidableEq, Repr

/-- A control frame in the transmit FIFO (R194): its first descriptor, the descriptors of its chain with their lengths, its
bytes, and TS_REQ. -/
structure TxFrame where
  start : Nat
  chain : List (Nat × Nat)
  bytes : List Nat
  tsReq : Bool
  deriving DecidableEq, Repr

/-- An MDIO transaction (R187): who asked (0 to 3 the poll of a MAC, 255 the firmware), PHYAD, DEVAD, CL45, OP, data. -/
structure MdioOp where
  who : Nat
  phy : Nat
  dev : Nat
  cl45 : Nat
  op : Nat
  data : Nat
  deriving DecidableEq, Repr

/-- A MAC beside its registers: what the code word and the poll last reported (a rate code; none: no link), ring frames
held in the receive FIFO, stream frames and control frames in the transmit FIFO, and the PTP time at which PAUSE took
hold. -/
structure MacSt where
  code : Option Nat
  poll : Option Nat
  rx : List RxFrame
  tx : List (Nat × List Nat)
  c0 : List TxFrame
  c1 : List TxFrame
  since : Nat
  deriving DecidableEq, Repr

/-- A MAC at reset. -/
def MacSt.init : MacSt := ⟨none, none, [], [], [], [], 0⟩

/-- The MACs, and the MDIO transactions waiting or running by bus. -/
structure Net where
  mac : AMap MacSt
  mdio : AMap (List MdioOp)
  deriving DecidableEq, Repr

/-! ## Media streams -/

/-- A receive stream beside its table entry (R206 to R212): ACTIVE, SILENT, legs lost, MISS_RUN, the last timestamp,
LEAD_LAST, LEAD_MIN (none: no packet since cleared), the seven counters, courses since each leg delivered, consecutive
packets out of the window, and the samples of the course. -/
structure RxStr where
  active : Bool
  silent : Bool
  lost0 : Bool
  lost1 : Bool
  miss : Nat
  lastTs : Nat
  leadLast : Nat
  leadMin : Option Nat
  cnt : List Nat
  run0 : Nat
  run1 : Nat
  oow : Nat
  cur : List Nat
  deriving DecidableEq, Repr

/-- A receive stream that nothing has reached. -/
def RxStr.init : RxStr := ⟨false, false, false, false, 0, 0, 0, none, [0, 0, 0, 0, 0, 0, 0], 0, 0, 0, []⟩

/-- A transmit stream beside its table entry (R213): ACTIVE, SENDING, TX_PKT, TX_DROP, the sample sets of the packet being
filled, oldest first, and the channels read in this course. -/
structure TxStr where
  active : Bool
  sending : Bool
  pkt : Nat
  drop : Nat
  acc : List (List Nat)
  cur : AMap Nat
  deriving DecidableEq, Repr

/-- A transmit stream that has sent nothing. -/
def TxStr.init : TxStr := ⟨false, false, 0, 0, [], []⟩

/-- The stream tables by index (R219): classifier entries, streams, channel maps; the classifier and maps in force while
the fabric runs (R215); streams and the event queue (stream, TX, kind, CI16). -/
structure Str where
  cls : AMap (List Nat)
  rx : AMap (List Nat)
  tx : AMap (List Nat)
  rxMap : AMap Nat
  txMap : AMap Nat
  clsLive : AMap (List Nat)
  rxMapLive : AMap Nat
  txMapLive : AMap Nat
  rxSt : AMap RxStr
  txSt : AMap TxStr
  evq : List (Nat × Nat × Nat × Nat)
  deriving DecidableEq, Repr

/-- No streams. -/
def Str.init : Str := ⟨[], [], [], [], [], [], [], [], [], [], []⟩

/-! ## What the firmware puts back after a FAB reset -/

/-- What the firmware's object model keeps of the media configuration across a FAB reset (R387, R398): the settings of the
ports, streams and amplifier unit and the silence configurations, until they are put back; and the active route entries,
destination records, dynamics records and lend masks, put back when the image is recommitted. -/
structure Media where
  waiting : Bool
  regs : AMap Nat
  sil : AMap (Nat × Nat)
  cls : AMap (List Nat)
  rx : AMap (List Nat)
  tx : AMap (List Nat)
  rxMap : AMap Nat
  txMap : AMap Nat
  act : AMap PairWord
  records : AMap PairWord
  dyn : AMap (List Nat)
  lend : AMap Nat
  deriving DecidableEq, Repr

/-! ## PTP event outputs and captures -/

/-- An event output beside its registers (R225, R228): armed, the settings in force (START, PERIOD, WIDTH, POL), the next
rising edge and its number, the falling edge of a pulse in progress, settings waiting for the next edge, a stop waiting for the pulse. -/
structure Pulse where
  armed : Bool
  start : Nat
  period : Nat
  width : Nat
  pol : Bool
  next : Nat
  idx : Nat
  fall : Option Nat
  waiting : Option (Nat × Nat × Nat × Bool)
  stopping : Bool
  deriving DecidableEq, Repr

/-- An output that is not armed. -/
def Pulse.init : Pulse := ⟨false, 0, 0, 0, false, 0, 0, none, none, false⟩

/-- A capture (R229): LIN and whether the edge rose. -/
structure Capture where
  lin : Nat
  rise : Bool
  deriving DecidableEq, Repr

/-- Event outputs, capture FIFOs oldest first, and the last course stamp: LIN, sub-nanoseconds, CI (R230). -/
structure PtpIo where
  out : AMap Pulse
  cap : AMap (List Capture)
  stamp : Nat × Nat × Nat
  deriving DecidableEq, Repr

/-! ## Clocks -/

/-- The reference chain beside its registers (R234 to R260): the output offset in force (2^-40), the user offset U (steps),
the build-out B (2^-5 × 1/14,112,000 ns), the sum and count of phase errors being averaged, the frequency history newest
first, seconds spent LOCKED, whether the loop was ever LOCKED, the frequencies of the present second (sum, count), the
reference that a switch goes to, references in window, the drift samples of the selected reference newest first, band
table entries (F_LOW, F_HIGH), word-clock alignments, and what the clock balls show. -/
structure Clk where
  freq : Int
  user : Int
  build : Int
  avgSum : Int
  avgN : Nat
  hist : List Int
  lockedSecs : Nat
  ever : Bool
  secSum : Int
  secN : Nat
  target : Option Nat
  inWin : List Nat
  drift : List Int
  bands : AMap (Nat × Nat)
  align : AMap Nat
  shown : List Nat
  deriving DecidableEq, Repr

/-- The chain at reset. -/
def Clk.init : Clk := ⟨0, 0, 0, 0, 0, [], 0, false, 0, 0, none, [], [], [], [], []⟩

/-! ## The amplifier drive unit -/

/-- An amplifier channel beside its registers (R267 to R273): the latches of TRIPc and of the overcurrent path, a trip that
a record reported for this course, the last output of the protection filter, the course T of its trip, the boundary at
which it last returned from TRIPPED, the strikes of the last W1 courses, the sample before and the sample of the present
span, the next period of the span, whether the span has been counted as clipped, the envelope sample, and the shaper's
e1 and e2 of each leg (2^-36 quarter-cycles). -/
structure AmpCh where
  trip : Bool
  oc : Bool
  fresh : Bool
  level : Nat
  tCi : Nat
  runCi : Option Nat
  strikes : List Nat
  prev : Nat
  cur : Nat
  idx : Nat
  clipped : Bool
  env : Nat
  a1 : Int
  a2 : Int
  b1 : Int
  b2 : Int
  deriving DecidableEq, Repr

/-- A channel at reset. -/
def AmpCh.init : AmpCh := ⟨false, false, false, 0, 0, none, [], 0, 0, 0, false, 0, 0, 0, 0, 0⟩

/-- A stage-bus module (R282 to R284): its capability words, its last STATUS words, a DISCOVER due, a DISCOVER sent and
not answered, CONFIG frames sent, the CONFIG words, STATUS slots missed in a row, and whether it was READY at the last
boundary. -/
structure AmpMod where
  caps : List Nat
  status : List Nat
  due : Bool
  asked : Bool
  tries : Nat
  cfg : List Nat
  miss : Nat
  ready : Bool
  deriving DecidableEq, Repr

/-- A module at reset. -/
def AmpMod.init : AmpMod := ⟨[], [], false, false, 0, [], 0, false⟩

/-- The amplifier drive unit: channels, modules, each group's needs of the last D courses, newest first, and its level
(50 mV / 2^31 / 28,224,000), the channels whose SIL_DEST is SILENT, the channels that AMP_CLEAR names, SEQ of the last
setpoint cycle. -/
structure Amp where
  ch : AMap AmpCh
  mod : AMap AmpMod
  need : AMap (List Nat)
  level : AMap Nat
  sil : Nat
  clear : Nat
  seq : Nat
  deriving DecidableEq, Repr

/-- The unit at reset. -/
def Amp.init : Amp := ⟨[], [], [], [], 0, 0, 0⟩

/-! ## The whole -/

/-- The state of the block. -/
structure State where
  fuses : Fuses
  pins : Pins
  regs : AMap Nat
  live : AMap Nat
  stage : AMap Nat
  ctl : Ctl
  vsr : Vsr
  seats : AMap Seat
  qspi : AMap Qspi
  fw : Fw
  fab : Fab
  plane : Plane
  tiles : AMap Tile
  ash : Ash
  ptp : PtpCount
  media : Option Media
  pair : Pair
  pwr : Pwr
  rte : Rte
  dyn : Dyn
  port : Port
  net : Net
  str : Str
  ptpIo : PtpIo
  clk : Clk
  oenDark : List Nat
  amp : Amp
  out : List Out
  free : Nat
  pending : List Instr
  deriving DecidableEq, Repr

/-- The fuses of the modelled part: a VT8416-F with every resource, no key fused, floor 0, debug lock fused.
DESIGN CHOICE (log 3). -/
def Fuses.part : Fuses :=
  ⟨0x04498080, 0xFBB67F7F, [0, 0, 0, 0], [false, false, false, false], 0, true, 0⟩

/-- The state right after POWER_ON_RESET with RST_n and PGOOD high and every strap low: the boot ROM has loaded the fuses
and waits for the Ashlar fill (R399). (DESIGN CHOICE log 1, 2, 4, 5, 6, 131, PRESUMED log 72) -/
def State.reset : State where
  fuses := Fuses.part
  pins := ⟨0, 0, false, false, false, false, 4294967295⟩
  regs := [(0x2000000C * 32 + 0, 1),
    (0x20000010 * 32 + 2, 32),
    (0x20000010 * 32 + 8, 128),
    (0x20000010 * 32 + 16, 1),
    (0x20000010 * 32 + 17, 4),
    (0x20000010 * 32 + 20, 4),
    (0x20000010 * 32 + 23, 8),
    (0x20010000 * 32 + 3, 1),
    (0x20103000 * 32 + 0, 1),
    (0x20107000 * 32 + 0, 1),
    (0x20107000 * 32 + 2, 1),
    (0x2010B000 * 32 + 0, 1),
    (0x2010B000 * 32 + 2, 2),
    (0x2010F000 * 32 + 0, 1),
    (0x2010F000 * 32 + 2, 3)]
  live := []
  stage := []
  ctl := ⟨.romCold, false, false, false, 2000, none, [], [], false, none, false, 0, 0, false⟩
  vsr := ⟨[], [], [], [], []⟩
  seats := []
  qspi := []
  fw := ⟨[], [], [], [], false, none, ⟨[], 1, 0, 0, 0, 0, 0⟩, [], [], [], false, 0, 3⟩
  fab := ⟨0, 0, none, false, Cal.init, Cal.init, none, none, none, 0, 0, [], none, 256, none, false, false, [], [], [], [], none⟩
  plane := ⟨[], []⟩
  tiles := []
  ash := ⟨[], [], [], [], [], [], [], [], false, [], []⟩
  ptp := ⟨0, 0, 0⟩
  media := none
  pair := Pair.init
  pwr := ⟨false, 0, none, false, false, false⟩
  rte := Rte.init
  dyn := Dyn.init
  port := ⟨[], []⟩
  net := ⟨[], []⟩
  str := Str.init
  ptpIo := ⟨[], [], (0, 0, 0)⟩
  clk := Clk.init
  oenDark := []
  amp := Amp.init
  out := []
  free := 0
  pending := []

end Sys2Proof.Machine
end

