-- ==== Sys2Proof/Machine/Fields.lean ====
section
/-! DEFINITION. The register fields of the VT8416, one definition a field, transcribed from the register tables of
spec/ (02 R43, 03 R72 and R73, 05 R116, 06 R139, 07 R163, 08 R181, 09 R200, 10 R219, 11 R233, 12 R262, 13 R286,
14 R315, 15 R318 to R331, 16 R341 and R355, 18 R385 to R397): the Voussoir address of the register, the lowest bit,
the width, the reset value, the type code and the resets that clear the field.  A register that stands n times takes
its index (a second index m where the table has two).  Reserved bits have no field: they read 0 (R8). -/

namespace Sys2Proof.Machine

/-- The reset values of the eight CLK_PTPQ entries (R238); c: 0 CLASS_MIN, 1 CLASS_MAX, 2 ACC_MAX, 3 QL, 4 VALID. -/
def ptpqReset (e c : Nat) : Nat :=
  match e with
  | 0 => [6, 6, 0x21, 1, 1].getD c 0
  | 1 => [6, 7, 0xFE, 2, 1].getD c 0
  | 2 => [13, 14, 0xFE, 3, 1].getD c 0
  | 3 => [52, 58, 0xFE, 5, 1].getD c 0
  | 4 => [150, 193, 0xFE, 6, 1].getD c 0
  | 5 => [248, 248, 0xFE, 8, 1].getD c 0
  | _ => 0

def SYS_CAP_VARIANT : Fld := ⟨0x20000010, 0, 2, 0, .ro, .por⟩
def SYS_CAP_TILES : Fld := ⟨0x20000010, 2, 6, 0, .ro, .por⟩
def SYS_CAP_ASH_BANKS : Fld := ⟨0x20000010, 8, 8, 0, .ro, .por⟩
def SYS_CAP_AMP : Fld := ⟨0x20000010, 16, 1, 0, .ro, .por⟩
def SYS_CAP_MACS : Fld := ⟨0x20000010, 17, 3, 0, .ro, .por⟩
def SYS_CAP_SOERI_LANES : Fld := ⟨0x20000010, 20, 3, 0, .ro, .por⟩
def SYS_CAP_AES3 : Fld := ⟨0x20000010, 23, 4, 0, .ro, .por⟩
def FAB_CI_LO_CI_LO : Fld := ⟨0x20040100, 0, 32, 0, .ro, .ppf⟩
def FAB_CI_HI_CI_HI : Fld := ⟨0x20040104, 0, 32, 0, .ro, .ppf⟩
def FAB_CYC_CYCLE : Fld := ⟨0x20040108, 0, 15, 0, .ro, .ppf⟩
def FAB_CPO_CPO_NS : Fld := ⟨0x20040110, 0, 15, 0, .rwp, .pp⟩
def FAB_CI_ANCHOR_LO_ANCHOR : Fld := ⟨0x20040118, 0, 32, 0, .ro, .ppf⟩
def FAB_CI_ANCHOR_HI_ANCHOR : Fld := ⟨0x2004011C, 0, 32, 0, .ro, .ppf⟩
def FAB_TL_STATUS_RUNNING : Fld := ⟨0x20040120, 0, 1, 0, .ro, .ppf⟩
def FAB_TL_STATUS_TL_OFFSET : Fld := ⟨0x20040120, 1, 1, 0, .ro, .ppf⟩
def FAB_TL_STATUS_CPO_REJ : Fld := ⟨0x20040120, 2, 1, 0, .w1c, .pp⟩
def FAB_TL_STATUS_LATE_ARM : Fld := ⟨0x20040120, 3, 1, 0, .w1c, .ppf⟩
def FAB_TL_STATUS_PAIRWORD : Fld := ⟨0x20040120, 4, 1, 0, .w1c, .pp⟩
def FAB_TL_STATUS_RM : Fld := ⟨0x20040120, 5, 3, 0, .ro, .ppf⟩
def FAB_TL_STATUS_FAMILY : Fld := ⟨0x20040120, 8, 1, 0, .ro, .ppf⟩
def FAB_TL_OFFSET_OFFSET : Fld := ⟨0x20040124, 0, 32, 0, .ro, .ppf⟩
def TILE_CTL_CMD (n : Nat) : Fld := ⟨0x20041000 + 64 * n, 0, 2, 0, .wo, .pp⟩
def TILE_STAT_STATE (n : Nat) : Fld := ⟨0x20041004 + 64 * n, 0, 2, 0, .ro, .ppf⟩
def TILE_STAT_ACT_HALF (n : Nat) : Fld := ⟨0x20041004 + 64 * n, 2, 1, 0, .ro, .pp⟩
def TILE_STAT_SHADOW_LOCK (n : Nat) : Fld := ⟨0x20041004 + 64 * n, 3, 1, 0, .ro, .ppf⟩
def TILE_STAT_SHADOW_LOCK_ERR (n : Nat) : Fld := ⟨0x20041004 + 64 * n, 4, 1, 0, .w1c, .pp⟩
def TILE_STAT_ENDED (n : Nat) : Fld := ⟨0x20041004 + 64 * n, 5, 1, 0, .ro, .ppf⟩
def TILE_STAT_REP_CLAMP (n : Nat) : Fld := ⟨0x20041004 + 64 * n, 6, 1, 0, .w1c, .ppf⟩
def TILE_STAT_PC (n : Nat) : Fld := ⟨0x20041004 + 64 * n, 16, 12, 0, .ro, .ppf⟩
def TILE_FAULT_CAUSE (n : Nat) : Fld := ⟨0x20041008 + 64 * n, 0, 4, 0, .ro, .ppf⟩
def TILE_FAULT_PC (n : Nat) : Fld := ⟨0x20041008 + 64 * n, 4, 12, 0, .ro, .ppf⟩
def TILE_FAULT_CYCLE (n : Nat) : Fld := ⟨0x20041008 + 64 * n, 16, 15, 0, .ro, .ppf⟩
def TILE_ECC_CORR_CNT (n : Nat) : Fld := ⟨0x2004100C + 64 * n, 0, 16, 0, .rw, .ppf⟩
def TILE_ECC_UNCORR_CNT (n : Nat) : Fld := ⟨0x2004100C + 64 * n, 16, 8, 0, .rw, .ppf⟩
def TILE_ECC_ADDR_ADDR (n : Nat) : Fld := ⟨0x20041010 + 64 * n, 0, 16, 0, .ro, .ppf⟩
def TILE_ECC_ADDR_MEM (n : Nat) : Fld := ⟨0x20041010 + 64 * n, 16, 1, 0, .ro, .ppf⟩
def TILE_ECC_ADDR_UNCORR (n : Nat) : Fld := ⟨0x20041010 + 64 * n, 17, 1, 0, .ro, .ppf⟩
def TILE_SATCNT_STORE_SAT (n : Nat) : Fld := ⟨0x20041014 + 64 * n, 0, 16, 0, .rw, .ppf⟩
def TILE_SATCNT_ACC_SAT (n : Nat) : Fld := ⟨0x20041014 + 64 * n, 16, 16, 0, .rw, .ppf⟩
def TILE_PGBASE_BASE (n : Nat) (m : Nat) : Fld := ⟨0x20041020 + 64 * n + 4 * m, 0, 24, 0, .ro, .ppf⟩
def TILE_PGBASE_VALID (n : Nat) (m : Nat) : Fld := ⟨0x20041020 + 64 * n + 4 * m, 24, 1, 0, .ro, .ppf⟩
def TILE_RGN_LO_FIRST (n : Nat) (m : Nat) : Fld := ⟨0x20041800 + 64 * n + 8 * m, 0, 16, 0, .rw, .ppf⟩
def TILE_RGN_LO_VALID (n : Nat) (m : Nat) : Fld := ⟨0x20041800 + 64 * n + 8 * m, 31, 1, 0, .rw, .ppf⟩
def TILE_RGN_HI_LAST (n : Nat) (m : Nat) : Fld := ⟨0x20041804 + 64 * n + 8 * m, 0, 16, 0, .rw, .ppf⟩
def ASH_STAT_FATAL : Fld := ⟨0x20030000, 0, 1, 0, .ro, .ppf⟩
def ASH_STAT_LATENT : Fld := ⟨0x20030000, 1, 1, 0, .w1c, .pp⟩
def ASH_STAT_PAIRWORD : Fld := ⟨0x20030000, 2, 1, 0, .w1c, .pp⟩
def ASH_STAT_PWR_REFUSED : Fld := ⟨0x20030000, 3, 1, 0, .w1c, .pp⟩
def ASH_STAT_MORTAR_ERR : Fld := ⟨0x20030000, 4, 1, 0, .w1c, .pp⟩
def ASH_STAT_SCRUB_LAG : Fld := ⟨0x20030000, 5, 1, 0, .w1c, .pp⟩
def ASH_STAT_FILL_DONE : Fld := ⟨0x20030000, 6, 1, 0, .ro, .pp⟩
def ASH_CNT_CORR : Fld := ⟨0x20030004, 0, 16, 0, .rw, .ppf⟩
def ASH_CNT_UNCORR_SIG : Fld := ⟨0x20030004, 16, 8, 0, .rw, .ppf⟩
def ASH_CNT_UNCORR_OTHER : Fld := ⟨0x20030004, 24, 8, 0, .rw, .ppf⟩
def ASH_SCRUB_PERIOD : Fld := ⟨0x20030008, 0, 8, 10, .rw, .pp⟩
def ASH_SCRUB_STAT_SCRUB_CORR : Fld := ⟨0x2003000C, 0, 16, 0, .ro, .pp⟩
def ASH_SCRUB_STAT_SCRUB_UNCORR : Fld := ⟨0x2003000C, 16, 8, 0, .ro, .pp⟩
def ASH_SCRUB_STAT_PASSES : Fld := ⟨0x2003000C, 24, 8, 0, .ro, .pp⟩
def ASH_LOG_STAT_COUNT : Fld := ⟨0x20030010, 0, 5, 0, .ro, .ppf⟩
def ASH_LOG_STAT_OVERFLOW : Fld := ⟨0x20030010, 5, 1, 0, .w1c, .ppf⟩
def ASH_LOG_ADDR_WORD : Fld := ⟨0x20030014, 0, 24, 0, .ro, .ppf⟩
def ASH_LOG_INFO_SYNDROME : Fld := ⟨0x20030018, 0, 7, 0, .ro, .ppf⟩
def ASH_LOG_INFO_ACTION : Fld := ⟨0x20030018, 7, 2, 0, .ro, .ppf⟩
def ASH_LOG_INFO_REQ : Fld := ⟨0x20030018, 9, 6, 0, .ro, .ppf⟩
def ASH_LOG_INFO_CI16 : Fld := ⟨0x20030018, 16, 16, 0, .ro, .ppf⟩
def ASH_LOG_POP_POP : Fld := ⟨0x2003001C, 0, 1, 0, .wo, .pp⟩
def ASH_INJ_ADDR_WORD : Fld := ⟨0x20030020, 0, 24, 0, .rw, .ppc⟩
def ASH_INJ_ADDR_CHK_FLIP : Fld := ⟨0x20030020, 24, 7, 0, .rw, .ppc⟩
def ASH_INJ_ADDR_ARM : Fld := ⟨0x20030020, 31, 1, 0, .rw, .ppc⟩
def ASH_INJ_DATA_DATA_FLIP : Fld := ⟨0x20030024, 0, 32, 0, .rw, .ppc⟩
def ASH_PWR_RUN_STATE0 (n : Nat) : Fld := ⟨0x20030100 + 8 * n, 0, 2, 0, .rwp, .pp⟩
def ASH_PWR_RUN_STATE1 (n : Nat) : Fld := ⟨0x20030100 + 8 * n, 4, 2, 0, .rwp, .pp⟩
def ASH_PWR_RUN_STATE2 (n : Nat) : Fld := ⟨0x20030100 + 8 * n, 8, 2, 0, .rwp, .pp⟩
def ASH_PWR_RUN_STATE3 (n : Nat) : Fld := ⟨0x20030100 + 8 * n, 12, 2, 0, .rwp, .pp⟩
def ASH_PWR_RUN_STATE4 (n : Nat) : Fld := ⟨0x20030100 + 8 * n, 16, 2, 0, .rwp, .pp⟩
def ASH_PWR_RUN_STATE5 (n : Nat) : Fld := ⟨0x20030100 + 8 * n, 20, 2, 0, .rwp, .pp⟩
def ASH_PWR_RUN_STATE6 (n : Nat) : Fld := ⟨0x20030100 + 8 * n, 24, 2, 0, .rwp, .pp⟩
def ASH_PWR_RUN_STATE7 (n : Nat) : Fld := ⟨0x20030100 + 8 * n, 28, 2, 0, .rwp, .pp⟩
def ASH_PWR_REST_OFF0 (n : Nat) : Fld := ⟨0x20030100 + 8 * n, 2, 1, 0, .rwp, .pp⟩
def ASH_PWR_REST_OFF1 (n : Nat) : Fld := ⟨0x20030100 + 8 * n, 6, 1, 0, .rwp, .pp⟩
def ASH_PWR_REST_OFF2 (n : Nat) : Fld := ⟨0x20030100 + 8 * n, 10, 1, 0, .rwp, .pp⟩
def ASH_PWR_REST_OFF3 (n : Nat) : Fld := ⟨0x20030100 + 8 * n, 14, 1, 0, .rwp, .pp⟩
def ASH_PWR_REST_OFF4 (n : Nat) : Fld := ⟨0x20030100 + 8 * n, 18, 1, 0, .rwp, .pp⟩
def ASH_PWR_REST_OFF5 (n : Nat) : Fld := ⟨0x20030100 + 8 * n, 22, 1, 0, .rwp, .pp⟩
def ASH_PWR_REST_OFF6 (n : Nat) : Fld := ⟨0x20030100 + 8 * n, 26, 1, 0, .rwp, .pp⟩
def ASH_PWR_REST_OFF7 (n : Nat) : Fld := ⟨0x20030100 + 8 * n, 30, 1, 0, .rwp, .pp⟩
def ASH_PWR_STAT_STATE0 (n : Nat) : Fld := ⟨0x20030180 + 4 * n, 0, 2, 0, .ro, .pp⟩
def ASH_PWR_STAT_STATE1 (n : Nat) : Fld := ⟨0x20030180 + 4 * n, 2, 2, 0, .ro, .pp⟩
def ASH_PWR_STAT_STATE2 (n : Nat) : Fld := ⟨0x20030180 + 4 * n, 4, 2, 0, .ro, .pp⟩
def ASH_PWR_STAT_STATE3 (n : Nat) : Fld := ⟨0x20030180 + 4 * n, 6, 2, 0, .ro, .pp⟩
def ASH_PWR_STAT_STATE4 (n : Nat) : Fld := ⟨0x20030180 + 4 * n, 8, 2, 0, .ro, .pp⟩
def ASH_PWR_STAT_STATE5 (n : Nat) : Fld := ⟨0x20030180 + 4 * n, 10, 2, 0, .ro, .pp⟩
def ASH_PWR_STAT_STATE6 (n : Nat) : Fld := ⟨0x20030180 + 4 * n, 12, 2, 0, .ro, .pp⟩
def ASH_PWR_STAT_STATE7 (n : Nat) : Fld := ⟨0x20030180 + 4 * n, 14, 2, 0, .ro, .pp⟩
def ASH_RGN_LO_FIRST (n : Nat) : Fld := ⟨0x20030400 + 8 * n, 0, 24, 0, .rw, .ppf⟩
def ASH_RGN_LO_VALID (n : Nat) : Fld := ⟨0x20030400 + 8 * n, 31, 1, 0, .rw, .ppf⟩
def ASH_RGN_HI_LAST (n : Nat) : Fld := ⟨0x20030404 + 8 * n, 0, 24, 0, .rw, .ppf⟩
def ASH_FUSEMAP_A_COL_LO (n : Nat) : Fld := ⟨0x20031000 + 8 * n, 0, 9, 0, .ro, .por⟩
def ASH_FUSEMAP_A_USED_LO (n : Nat) : Fld := ⟨0x20031000 + 8 * n, 15, 1, 0, .ro, .por⟩
def ASH_FUSEMAP_A_COL_HI (n : Nat) : Fld := ⟨0x20031000 + 8 * n, 16, 9, 0, .ro, .por⟩
def ASH_FUSEMAP_A_USED_HI (n : Nat) : Fld := ⟨0x20031000 + 8 * n, 31, 1, 0, .ro, .por⟩
def ASH_FUSEMAP_B_COL_LO (n : Nat) : Fld := ⟨0x20031004 + 8 * n, 0, 9, 0, .ro, .por⟩
def ASH_FUSEMAP_B_USED_LO (n : Nat) : Fld := ⟨0x20031004 + 8 * n, 15, 1, 0, .ro, .por⟩
def ASH_FUSEMAP_B_COL_HI (n : Nat) : Fld := ⟨0x20031004 + 8 * n, 16, 9, 0, .ro, .por⟩
def ASH_FUSEMAP_B_USED_HI (n : Nat) : Fld := ⟨0x20031004 + 8 * n, 31, 1, 0, .ro, .por⟩
def FAB_CTL_CMD : Fld := ⟨0x20040000, 0, 2, 0, .wo, .pp⟩
def FAB_STAT_IMG_STATE : Fld := ⟨0x20040004, 0, 3, 0, .ro, .ppf⟩
def FAB_STAT_SHADOW_LOCK : Fld := ⟨0x20040004, 3, 1, 0, .ro, .ppf⟩
def FAB_IMG_ID_IMAGE_ID : Fld := ⟨0x20040008, 0, 32, 0, .ro, .ppf⟩
def FAB_GUARD_STAT_FAULT : Fld := ⟨0x20040010, 0, 1, 0, .w1c, .ppf⟩
def FAB_GUARD_STAT_COUNT : Fld := ⟨0x20040010, 1, 4, 0, .ro, .ppf⟩
def FAB_GUARD_STAT_OVERFLOW : Fld := ⟨0x20040010, 5, 1, 0, .w1c, .ppf⟩
def FAB_GUARD_INFO_CODE : Fld := ⟨0x20040014, 0, 8, 0, .ro, .ppf⟩
def FAB_GUARD_INFO_REQ : Fld := ⟨0x20040014, 8, 8, 0, .ro, .ppf⟩
def FAB_GUARD_INFO_CYCLE : Fld := ⟨0x20040014, 16, 15, 0, .ro, .ppf⟩
def FAB_GUARD_CI_CI_LO : Fld := ⟨0x20040018, 0, 32, 0, .ro, .ppf⟩
def FAB_GUARD_POP_POP : Fld := ⟨0x2004001C, 0, 1, 0, .wo, .pp⟩
def FAB_LEND_LO_LEND (n : Nat) : Fld := ⟨0x20040200 + 8 * n, 0, 32, 0, .rw, .ppf⟩
def FAB_LEND_HI_LEND (n : Nat) : Fld := ⟨0x20040204 + 8 * n, 0, 32, 0, .rw, .ppf⟩
def RTE_STAT_RESYNC : Fld := ⟨0x20050000, 0, 1, 0, .ro, .ppf⟩
def RTE_STAT_PAIRWORD : Fld := ⟨0x20050000, 1, 1, 0, .w1c, .ppf⟩
def RTE_STAT_PW_USE : Fld := ⟨0x20050000, 2, 1, 0, .w1c, .ppf⟩
def RTE_STAT_SL_LOCK_ERR : Fld := ⟨0x20050000, 3, 1, 0, .w1c, .ppf⟩
def RTE_STAT_RETARGET : Fld := ⟨0x20050000, 4, 1, 0, .w1c, .ppf⟩
def RTE_CNT_CLIP_TOTAL : Fld := ⟨0x20050004, 0, 16, 0, .rw, .ppf⟩
def RTE_CNT_ACC_LIMIT : Fld := ⟨0x20050004, 16, 16, 0, .rw, .ppf⟩
def RTE_PW_LOG_INDEX : Fld := ⟨0x20050008, 0, 14, 0, .ro, .ppf⟩
def RTE_PW_LOG_TABLE : Fld := ⟨0x20050008, 14, 1, 0, .ro, .ppf⟩
def RTE_PW_LOG_CI16 : Fld := ⟨0x20050008, 16, 16, 0, .ro, .ppf⟩
def RTE_GEN_SWAPS : Fld := ⟨0x2005000C, 0, 16, 0, .ro, .ppf⟩
def RTE_GEN_ACT_HALF : Fld := ⟨0x2005000C, 16, 1, 0, .ro, .ppf⟩
def RTE_IDX_INDEX : Fld := ⟨0x20050010, 0, 14, 0, .rw, .ppc⟩
def RTE_IDX_SEL : Fld := ⟨0x20050010, 16, 3, 0, .rw, .ppc⟩
def RTE_DATA_DATA (n : Nat) : Fld := ⟨0x20050014 + 4 * n, 0, 32, 0, .rw, .ppc⟩
def RTE_SL_ROUTE_TAG : Fld := ⟨0x20050024, 0, 6, 0, .rw, .ppf⟩
def RTE_SL_ROUTE_ARMED : Fld := ⟨0x20050024, 6, 1, 0, .rw, .ppf⟩
def DYN_STAT_SL_LOCK_ERR : Fld := ⟨0x20060000, 0, 1, 0, .w1c, .ppf⟩
def DYN_STAT_RANGE_ERR : Fld := ⟨0x20060000, 1, 1, 0, .w1c, .ppf⟩
def DYN_CNT_OUT_SAT : Fld := ⟨0x20060004, 0, 16, 0, .rw, .ppf⟩
def DYN_IDX_INDEX : Fld := ⟨0x20060008, 0, 10, 0, .rw, .ppc⟩
def DYN_IDX_SEL : Fld := ⟨0x20060008, 16, 2, 0, .rw, .ppc⟩
def DYN_DATA_DATA (n : Nat) : Fld := ⟨0x20060010 + 4 * n, 0, 32, 0, .rw, .ppc⟩
def SP_OEN_LO_OEN : Fld := ⟨0x20070000, 0, 32, 0, .rwp, .ppf⟩
def SP_OEN_HI_OEN : Fld := ⟨0x20070008, 0, 16, 0, .rwp, .ppf⟩
def SP_STAT_PAIRWORD : Fld := ⟨0x20070010, 0, 1, 0, .w1c, .pp⟩
def SP_GRP_CTL_MASTER (n : Nat) : Fld := ⟨0x20070100 + 8 * n, 0, 1, 0, .rw, .ppf⟩
def SP_GRP_CTL_FRAME (n : Nat) : Fld := ⟨0x20070100 + 8 * n, 1, 2, 0, .rw, .ppf⟩
def SP_GRP_CTL_PHASE (n : Nat) : Fld := ⟨0x20070100 + 8 * n, 3, 9, 0, .rw, .ppf⟩
def SP_GRP_STAT_WS_POS (n : Nat) : Fld := ⟨0x20070104 + 8 * n, 0, 15, 0, .ro, .ppf⟩
def SP_GRP_STAT_NEAR_EDGE (n : Nat) : Fld := ⟨0x20070104 + 8 * n, 15, 1, 0, .ro, .ppf⟩
def SP_GRP_STAT_CLK_LOST (n : Nat) : Fld := ⟨0x20070104 + 8 * n, 16, 1, 0, .ro, .ppf⟩
def SP_GRP_STAT_CFG_ERR (n : Nat) : Fld := ⟨0x20070104 + 8 * n, 17, 1, 0, .w1c, .ppf⟩
def SP_GRP_STAT_SLIP (n : Nat) : Fld := ⟨0x20070104 + 8 * n, 18, 14, 0, .ro, .ppf⟩
def SP_LANE_CFG_EN (n : Nat) : Fld := ⟨0x20070400 + 16 * n, 0, 1, 0, .rw, .ppf⟩
def SP_LANE_CFG_DIR (n : Nat) : Fld := ⟨0x20070400 + 16 * n, 1, 1, 0, .rw, .ppf⟩
def SP_LANE_CFG_FMT (n : Nat) : Fld := ⟨0x20070400 + 16 * n, 2, 2, 0, .rw, .ppf⟩
def SP_LANE_CFG_WL (n : Nat) : Fld := ⟨0x20070400 + 16 * n, 4, 2, 0, .rw, .ppf⟩
def SP_LANE_CFG_NA_EN (n : Nat) : Fld := ⟨0x20070400 + 16 * n, 6, 1, 1, .rw, .ppf⟩
def SP_LANE_CFG_ASRC_EN (n : Nat) : Fld := ⟨0x20070400 + 16 * n, 7, 1, 0, .rw, .ppf⟩
def SP_LANE_CFG_ASRC (n : Nat) : Fld := ⟨0x20070400 + 16 * n, 8, 6, 0, .rw, .ppf⟩
def SP_LANE_BIND_SLOT_A (n : Nat) : Fld := ⟨0x20070404 + 16 * n, 0, 13, 0, .rw, .ppf⟩
def SP_LANE_BIND_SLOT_B (n : Nat) : Fld := ⟨0x20070404 + 16 * n, 16, 13, 0, .rw, .ppf⟩
def SP_LANE_BIND_BOUND (n : Nat) : Fld := ⟨0x20070404 + 16 * n, 31, 1, 0, .rw, .ppf⟩
def SP_LANE_STAT_NONAUDIO (n : Nat) : Fld := ⟨0x20070408 + 16 * n, 0, 1, 0, .ro, .ppf⟩
def SP_LANE_STAT_CLK_LOST (n : Nat) : Fld := ⟨0x20070408 + 16 * n, 1, 1, 0, .ro, .ppf⟩
def SP_LANE_STAT_ACTIVE (n : Nat) : Fld := ⟨0x20070408 + 16 * n, 2, 1, 0, .ro, .ppf⟩
def SP_LANE_STAT_NA_HOLD (n : Nat) : Fld := ⟨0x20070408 + 16 * n, 16, 16, 0, .ro, .ppf⟩
def SP_ASRC_CTL_EN (n : Nat) : Fld := ⟨0x20071000 + 16 * n, 0, 1, 0, .rw, .ppf⟩
def SP_ASRC_CTL_MODE (n : Nat) : Fld := ⟨0x20071000 + 16 * n, 1, 1, 0, .rw, .ppf⟩
def SP_ASRC_CTL_GANG_EN (n : Nat) : Fld := ⟨0x20071000 + 16 * n, 2, 1, 0, .rw, .ppf⟩
def SP_ASRC_CTL_LEADER (n : Nat) : Fld := ⟨0x20071000 + 16 * n, 3, 6, 0, .rw, .ppf⟩
def SP_ASRC_STAT_STATE (n : Nat) : Fld := ⟨0x20071004 + 16 * n, 0, 2, 0, .ro, .ppf⟩
def SP_ASRC_STAT_RANGE (n : Nat) : Fld := ⟨0x20071004 + 16 * n, 2, 1, 0, .w1c, .ppf⟩
def SP_ASRC_STAT_ASRC_CONFLICT (n : Nat) : Fld := ⟨0x20071004 + 16 * n, 3, 1, 0, .w1c, .ppf⟩
def SP_ASRC_STAT_LEADING (n : Nat) : Fld := ⟨0x20071004 + 16 * n, 4, 1, 0, .ro, .ppf⟩
def SP_ASRC_STAT_FILL (n : Nat) : Fld := ⟨0x20071004 + 16 * n, 16, 8, 0, .ro, .ppf⟩
def SP_ASRC_RATIO_RATIO (n : Nat) : Fld := ⟨0x20071008 + 16 * n, 0, 32, 0, .ro, .ppf⟩
def AES_OEN_OEN : Fld := ⟨0x20080000, 0, 8, 0, .rwp, .ppf⟩
def AES_STAT_PAIRWORD : Fld := ⟨0x20080008, 0, 1, 0, .w1c, .pp⟩
def AES_IDX_WORD : Fld := ⟨0x20080010, 0, 3, 0, .rw, .ppc⟩
def AES_IDX_CH : Fld := ⟨0x20080010, 3, 1, 0, .rw, .ppc⟩
def AES_IDX_KIND : Fld := ⟨0x20080010, 4, 2, 0, .rw, .ppc⟩
def AES_IDX_PORT : Fld := ⟨0x20080010, 6, 3, 0, .rw, .ppc⟩
def AES_DATA_DATA : Fld := ⟨0x20080014, 0, 32, 0, .rw, .ppf⟩
def AES_RX_CTL_EN (n : Nat) : Fld := ⟨0x20080100 + 16 * n, 0, 1, 0, .rw, .ppf⟩
def AES_RX_CTL_NA_EN (n : Nat) : Fld := ⟨0x20080100 + 16 * n, 1, 1, 1, .rw, .ppf⟩
def AES_RX_CTL_ASRC_EN (n : Nat) : Fld := ⟨0x20080100 + 16 * n, 2, 1, 0, .rw, .ppf⟩
def AES_RX_CTL_ASRC (n : Nat) : Fld := ⟨0x20080100 + 16 * n, 3, 6, 0, .rw, .ppf⟩
def AES_RX_CTL_SLOT_A (n : Nat) : Fld := ⟨0x20080100 + 16 * n, 16, 13, 0, .rw, .ppf⟩
def AES_RX_STAT_LOCK (n : Nat) : Fld := ⟨0x20080104 + 16 * n, 0, 1, 0, .ro, .ppf⟩
def AES_RX_STAT_RATE (n : Nat) : Fld := ⟨0x20080104 + 16 * n, 1, 3, 0, .ro, .ppf⟩
def AES_RX_STAT_GRADE (n : Nat) : Fld := ⟨0x20080104 + 16 * n, 4, 2, 0, .ro, .ppf⟩
def AES_RX_STAT_NONAUDIO (n : Nat) : Fld := ⟨0x20080104 + 16 * n, 6, 1, 0, .ro, .ppf⟩
def AES_RX_STAT_V_SEEN (n : Nat) : Fld := ⟨0x20080104 + 16 * n, 7, 1, 0, .ro, .ppf⟩
def AES_RX_CNT_PARITY_ERR (n : Nat) : Fld := ⟨0x20080108 + 16 * n, 0, 12, 0, .rw, .ppf⟩
def AES_RX_CNT_SLIP (n : Nat) : Fld := ⟨0x20080108 + 16 * n, 12, 8, 0, .rw, .ppf⟩
def AES_RX_CNT_CS_CRC_ERR (n : Nat) : Fld := ⟨0x20080108 + 16 * n, 20, 8, 0, .rw, .ppf⟩
def AES_TX_CTL_EN (n : Nat) : Fld := ⟨0x2008010C + 16 * n, 0, 1, 0, .rw, .ppf⟩
def AES_TX_CTL_CRC_GEN (n : Nat) : Fld := ⟨0x2008010C + 16 * n, 1, 1, 1, .rw, .ppf⟩
def AES_TX_CTL_V_OUT (n : Nat) : Fld := ⟨0x2008010C + 16 * n, 2, 1, 0, .rw, .ppf⟩
def AES_TX_CTL_TX_COMMIT (n : Nat) : Fld := ⟨0x2008010C + 16 * n, 3, 1, 0, .wo, .pp⟩
def AES_TX_CTL_TX_FOLLOW (n : Nat) : Fld := ⟨0x2008010C + 16 * n, 4, 1, 0, .rw, .ppf⟩
def AES_TX_CTL_FOLLOW_RX (n : Nat) : Fld := ⟨0x2008010C + 16 * n, 5, 3, 0, .rw, .ppf⟩
def AES_TX_CTL_ASRC (n : Nat) : Fld := ⟨0x2008010C + 16 * n, 8, 6, 0, .rw, .ppf⟩
def AES_TX_CTL_SLOT_A (n : Nat) : Fld := ⟨0x2008010C + 16 * n, 16, 13, 0, .rw, .ppf⟩
def MAC_CTL_EN (n : Nat) : Fld := ⟨0x20090000 + 16384 * n, 0, 1, 0, .rw, .pp⟩
def MAC_CTL_MODE (n : Nat) : Fld := ⟨0x20090000 + 16384 * n, 1, 1, 0, .rw, .pp⟩
def MAC_CTL_RATE_SRC (n : Nat) : Fld := ⟨0x20090000 + 16384 * n, 2, 2, 0, .rw, .pp⟩
def MAC_CTL_FIXED_RATE (n : Nat) : Fld := ⟨0x20090000 + 16384 * n, 4, 3, 4, .rw, .pp⟩
def MAC_CTL_LINK_FORCE (n : Nat) : Fld := ⟨0x20090000 + 16384 * n, 7, 1, 0, .rw, .pp⟩
def MAC_CTL_RATE_EN (n : Nat) : Fld := ⟨0x20090000 + 16384 * n, 8, 4, 15, .rw, .pp⟩
def MAC_CTL_BC_EN (n : Nat) : Fld := ⟨0x20090000 + 16384 * n, 12, 1, 1, .rw, .pp⟩
def MAC_CTL_MC_PASS (n : Nat) : Fld := ⟨0x20090000 + 16384 * n, 13, 1, 0, .rw, .pp⟩
def MAC_CTL_STRIP_EN (n : Nat) : Fld := ⟨0x20090000 + 16384 * n, 14, 1, 1, .rw, .pp⟩
def MAC_LINK_LINK_UP (n : Nat) : Fld := ⟨0x20090004 + 16384 * n, 0, 1, 0, .ro, .pp⟩
def MAC_LINK_RATE (n : Nat) : Fld := ⟨0x20090004 + 16384 * n, 1, 3, 0, .ro, .pp⟩
def MAC_LINK_PCS_LOCK (n : Nat) : Fld := ⟨0x20090004 + 16384 * n, 4, 1, 0, .ro, .pp⟩
def MAC_LINK_RATE_MISMATCH (n : Nat) : Fld := ⟨0x20090004 + 16384 * n, 5, 1, 0, .ro, .pp⟩
def MAC_LINK_PAUSED (n : Nat) : Fld := ⟨0x20090004 + 16384 * n, 6, 1, 0, .ro, .pp⟩
def MAC_LINK_WD_HOLD (n : Nat) : Fld := ⟨0x20090004 + 16384 * n, 7, 1, 0, .ro, .pp⟩
def MAC_IRQ_LINK_CHG (n : Nat) : Fld := ⟨0x20090008 + 16384 * n, 0, 1, 0, .w1c, .pp⟩
def MAC_IRQ_RX_DONE (n : Nat) : Fld := ⟨0x20090008 + 16384 * n, 1, 2, 0, .w1c, .pp⟩
def MAC_IRQ_TX_DONE (n : Nat) : Fld := ⟨0x20090008 + 16384 * n, 3, 2, 0, .w1c, .pp⟩
def MAC_IRQ_NOBUF (n : Nat) : Fld := ⟨0x20090008 + 16384 * n, 5, 1, 0, .w1c, .pp⟩
def MAC_IRQ_PAUSE_WD (n : Nat) : Fld := ⟨0x20090008 + 16384 * n, 6, 1, 0, .w1c, .pp⟩
def MAC_IRQ_CNT_HALF (n : Nat) : Fld := ⟨0x20090008 + 16384 * n, 7, 1, 0, .w1c, .pp⟩
def MAC_IRQ_CNT_OVF (n : Nat) : Fld := ⟨0x20090008 + 16384 * n, 8, 1, 0, .w1c, .pp⟩
def MAC_IRQ_CFG_ERR (n : Nat) : Fld := ⟨0x20090008 + 16384 * n, 9, 1, 0, .w1c, .pp⟩
def MAC_IRQ_EN_LINK_CHG (n : Nat) : Fld := ⟨0x2009000C + 16384 * n, 0, 1, 0, .rw, .ppc⟩
def MAC_IRQ_EN_RX_DONE (n : Nat) : Fld := ⟨0x2009000C + 16384 * n, 1, 2, 0, .rw, .ppc⟩
def MAC_IRQ_EN_TX_DONE (n : Nat) : Fld := ⟨0x2009000C + 16384 * n, 3, 2, 0, .rw, .ppc⟩
def MAC_IRQ_EN_NOBUF (n : Nat) : Fld := ⟨0x2009000C + 16384 * n, 5, 1, 0, .rw, .ppc⟩
def MAC_IRQ_EN_PAUSE_WD (n : Nat) : Fld := ⟨0x2009000C + 16384 * n, 6, 1, 0, .rw, .ppc⟩
def MAC_IRQ_EN_CNT_HALF (n : Nat) : Fld := ⟨0x2009000C + 16384 * n, 7, 1, 0, .rw, .ppc⟩
def MAC_IRQ_EN_CNT_OVF (n : Nat) : Fld := ⟨0x2009000C + 16384 * n, 8, 1, 0, .rw, .ppc⟩
def MAC_IRQ_EN_CFG_ERR (n : Nat) : Fld := ⟨0x2009000C + 16384 * n, 9, 1, 0, .rw, .ppc⟩
def MAC_MAXLEN_RX_MAX (n : Nat) : Fld := ⟨0x20090010 + 16384 * n, 0, 14, 9600, .rw, .pp⟩
def MAC_MAXLEN_TX_CTRL_MAX (n : Nat) : Fld := ⟨0x20090010 + 16384 * n, 16, 14, 1522, .rw, .pp⟩
def MAC_PAUSE_PAUSE_EN (n : Nat) : Fld := ⟨0x20090014 + 16384 * n, 0, 1, 1, .rw, .pp⟩
def MAC_PAUSE_WD_US (n : Nat) : Fld := ⟨0x20090014 + 16384 * n, 16, 16, 200, .rw, .pp⟩
def MAC_PHY_PHYAD (n : Nat) : Fld := ⟨0x20090018 + 16384 * n, 0, 5, 0, .rw, .pp⟩
def MAC_PHY_CL45 (n : Nat) : Fld := ⟨0x20090018 + 16384 * n, 5, 1, 1, .rw, .pp⟩
def MAC_PHY_DEVAD (n : Nat) : Fld := ⟨0x20090018 + 16384 * n, 6, 5, 1, .rw, .pp⟩
def MAC_PHY_INTERVAL (n : Nat) : Fld := ⟨0x20090018 + 16384 * n, 11, 5, 10, .rw, .pp⟩
def MAC_PHY_REG (n : Nat) : Fld := ⟨0x20090018 + 16384 * n, 16, 16, 0, .rw, .pp⟩
def MAC_PHY_MAP_LINK_BIT (n : Nat) : Fld := ⟨0x2009001C + 16384 * n, 0, 4, 0, .rw, .pp⟩
def MAC_PHY_MAP_SPD_SHIFT (n : Nat) : Fld := ⟨0x2009001C + 16384 * n, 4, 4, 0, .rw, .pp⟩
def MAC_PHY_MAP_CODE0 (n : Nat) : Fld := ⟨0x2009001C + 16384 * n, 8, 3, 0, .rw, .pp⟩
def MAC_PHY_MAP_CODE1 (n : Nat) : Fld := ⟨0x2009001C + 16384 * n, 11, 3, 0, .rw, .pp⟩
def MAC_PHY_MAP_CODE2 (n : Nat) : Fld := ⟨0x2009001C + 16384 * n, 14, 3, 0, .rw, .pp⟩
def MAC_PHY_MAP_CODE3 (n : Nat) : Fld := ⟨0x2009001C + 16384 * n, 17, 3, 0, .rw, .pp⟩
def MAC_RX_BASE_BASE (n : Nat) (m : Nat) : Fld := ⟨0x20090040 + 16384 * n + 16 * m, 0, 32, 0, .rw, .ppc⟩
def MAC_TX_BASE_BASE (n : Nat) (m : Nat) : Fld := ⟨0x20090060 + 16384 * n + 16 * m, 0, 32, 0, .rw, .ppc⟩
def MAC_RX_CFG_EN (n : Nat) (m : Nat) : Fld := ⟨0x20090044 + 16384 * n + 16 * m, 0, 1, 0, .rw, .ppc⟩
def MAC_RX_CFG_SIZE (n : Nat) (m : Nat) : Fld := ⟨0x20090044 + 16384 * n + 16 * m, 1, 3, 0, .rw, .ppc⟩
def MAC_TX_CFG_EN (n : Nat) (m : Nat) : Fld := ⟨0x20090064 + 16384 * n + 16 * m, 0, 1, 0, .rw, .ppc⟩
def MAC_TX_CFG_SIZE (n : Nat) (m : Nat) : Fld := ⟨0x20090064 + 16384 * n + 16 * m, 1, 3, 0, .rw, .ppc⟩
def MAC_RX_HEAD_HEAD (n : Nat) (m : Nat) : Fld := ⟨0x20090048 + 16384 * n + 16 * m, 0, 10, 0, .ro, .ppc⟩
def MAC_TX_HEAD_HEAD (n : Nat) (m : Nat) : Fld := ⟨0x20090068 + 16384 * n + 16 * m, 0, 10, 0, .ro, .ppc⟩
def MAC_TX_TAG_TCI (n : Nat) (m : Nat) : Fld := ⟨0x2009006C + 16384 * n + 16 * m, 0, 16, 0, .rw, .pp⟩
def MAC_TX_TAG_TAG_INS (n : Nat) (m : Nat) : Fld := ⟨0x2009006C + 16384 * n + 16 * m, 16, 1, 0, .rw, .pp⟩
def MAC_AF_LO_ADDR_LO (n : Nat) (m : Nat) : Fld := ⟨0x20090100 + 16384 * n + 8 * m, 0, 32, 0, .rw, .pp⟩
def MAC_AF_HI_ADDR_HI (n : Nat) (m : Nat) : Fld := ⟨0x20090104 + 16384 * n + 8 * m, 0, 16, 0, .rw, .pp⟩
def MAC_AF_HI_VALID (n : Nat) (m : Nat) : Fld := ⟨0x20090104 + 16384 * n + 8 * m, 31, 1, 0, .rw, .pp⟩
def MAC_CNT_COUNT (n : Nat) (m : Nat) : Fld := ⟨0x20090200 + 16384 * n + 4 * m, 0, 32, 0, .ro, .pp⟩
def MAC_SNAP_COUNT (n : Nat) (m : Nat) : Fld := ⟨0x20090300 + 16384 * n + 4 * m, 0, 32, 0, .ro, .pp⟩
def MAC_CNT_CTL_SNAP (n : Nat) : Fld := ⟨0x200903C0 + 16384 * n, 0, 1, 0, .wo, .pp⟩
def MDIO_CTL_DIV (n : Nat) : Fld := ⟨0x2009F000 + 16 * n, 0, 6, 49, .rw, .pp⟩
def MDIO_CMD_PHYAD (n : Nat) : Fld := ⟨0x2009F004 + 16 * n, 0, 5, 0, .rw, .ppc⟩
def MDIO_CMD_DEVAD (n : Nat) : Fld := ⟨0x2009F004 + 16 * n, 5, 5, 0, .rw, .ppc⟩
def MDIO_CMD_CL45 (n : Nat) : Fld := ⟨0x2009F004 + 16 * n, 10, 1, 0, .rw, .ppc⟩
def MDIO_CMD_OP (n : Nat) : Fld := ⟨0x2009F004 + 16 * n, 11, 2, 0, .rw, .ppc⟩
def MDIO_CMD_BUSY (n : Nat) : Fld := ⟨0x2009F004 + 16 * n, 31, 1, 0, .ro, .ppc⟩
def MDIO_DATA_DATA (n : Nat) : Fld := ⟨0x2009F008 + 16 * n, 0, 16, 0, .rw, .ppc⟩
def STR_STAT_CLS_CONFLICT : Fld := ⟨0x200A0000, 0, 1, 0, .w1c, .ppf⟩
def STR_STAT_CFG_ERR : Fld := ⟨0x200A0000, 1, 1, 0, .w1c, .ppf⟩
def STR_STAT_EVQ_OVF : Fld := ⟨0x200A0000, 2, 1, 0, .w1c, .ppf⟩
def STR_STAT_EVQ_COUNT : Fld := ⟨0x200A0000, 3, 6, 0, .ro, .ppf⟩
def STR_CNT_IP_HDR_ERR : Fld := ⟨0x200A0004, 0, 16, 0, .rw, .ppf⟩
def STR_EVQ_STREAM : Fld := ⟨0x200A0008, 0, 10, 0, .ro, .ppf⟩
def STR_EVQ_TX : Fld := ⟨0x200A0008, 10, 1, 0, .ro, .ppf⟩
def STR_EVQ_KIND : Fld := ⟨0x200A0008, 11, 3, 0, .ro, .ppf⟩
def STR_EVQ_CI16 : Fld := ⟨0x200A0008, 16, 16, 0, .ro, .ppf⟩
def STR_EVQ_POP_POP : Fld := ⟨0x200A000C, 0, 1, 0, .wo, .pp⟩
def STR_IDX_INDEX : Fld := ⟨0x200A0010, 0, 11, 0, .rw, .ppc⟩
def STR_IDX_SEL : Fld := ⟨0x200A0010, 16, 3, 0, .rw, .ppc⟩
def STR_DATA_DATA (n : Nat) : Fld := ⟨0x200A0014 + 4 * n, 0, 32, 0, .rw, .ppc⟩
def STR_IP_SRC_IP (n : Nat) : Fld := ⟨0x200A0040 + 8 * n, 0, 32, 0, .rw, .pp⟩
def STR_IPCFG_TTL (n : Nat) : Fld := ⟨0x200A0044 + 8 * n, 0, 8, 64, .rw, .pp⟩
def PTP_CTL_ONE_STEP : Fld := ⟨0x200B0000, 0, 4, 0, .rw, .pp⟩
def PTP_STAT_INC_REJ : Fld := ⟨0x200B0004, 0, 1, 0, .w1c, .pp⟩
def PTP_STAT_ADJ_REJ : Fld := ⟨0x200B0004, 1, 1, 0, .w1c, .pp⟩
def PTP_STAT_TICK_LOST : Fld := ⟨0x200B0004, 2, 1, 0, .ro, .pp⟩
def PTP_STAT_COARSE : Fld := ⟨0x200B0004, 3, 1, 0, .ro, .pp⟩
def PTP_INC_LO_INC_FRAC : Fld := ⟨0x200B0008, 0, 32, 0, .rw, .pp⟩
def PTP_INC_HI_INC_NS : Fld := ⟨0x200B000C, 0, 8, 4, .rw, .pp⟩
def PTP_TIME_FRAC_FRAC : Fld := ⟨0x200B0010, 0, 32, 0, .ro, .pp⟩
def PTP_TIME_NS_NS : Fld := ⟨0x200B0014, 0, 30, 0, .ro, .pp⟩
def PTP_TIME_SEC_LO_SEC : Fld := ⟨0x200B0018, 0, 32, 0, .ro, .pp⟩
def PTP_TIME_SEC_HI_SEC : Fld := ⟨0x200B001C, 0, 16, 0, .ro, .pp⟩
def PTP_LIN_LO_LIN : Fld := ⟨0x200B0020, 0, 32, 0, .ro, .pp⟩
def PTP_LIN_HI_LIN : Fld := ⟨0x200B0024, 0, 16, 0, .ro, .pp⟩
def PTP_ADJ_NS_NS : Fld := ⟨0x200B0030, 0, 30, 0, .rw, .pp⟩
def PTP_ADJ_SEC_LO_SEC : Fld := ⟨0x200B0034, 0, 32, 0, .rw, .pp⟩
def PTP_ADJ_SEC_HI_SEC : Fld := ⟨0x200B0038, 0, 16, 0, .rw, .pp⟩
def PTP_ADJ_CTL_OP : Fld := ⟨0x200B003C, 0, 2, 0, .wo, .pp⟩
def PTP_ADJ_CTL_NEG : Fld := ⟨0x200B003C, 2, 1, 0, .wo, .pp⟩
def PTP_CSTAMP_CI_CI : Fld := ⟨0x200B0040, 0, 32, 0, .ro, .ppf⟩
def PTP_CSTAMP_LIN_LO_LIN : Fld := ⟨0x200B0044, 0, 32, 0, .ro, .ppf⟩
def PTP_CSTAMP_LIN_HI_LIN : Fld := ⟨0x200B0048, 0, 16, 0, .ro, .ppf⟩
def PTP_CSTAMP_LIN_HI_SUBNS : Fld := ⟨0x200B0048, 16, 16, 0, .ro, .ppf⟩
def PTP_RXLAT_LAT (n : Nat) : Fld := ⟨0x200B0080 + 8 * n, 0, 16, 0, .rw, .pp⟩
def PTP_TXLAT_LAT (n : Nat) : Fld := ⟨0x200B0084 + 8 * n, 0, 16, 0, .rw, .pp⟩
def PTPO_START_LO_START (n : Nat) : Fld := ⟨0x200B0100 + 32 * n, 0, 32, 0, .rw, .pp⟩
def PTPO_START_HI_START (n : Nat) : Fld := ⟨0x200B0104 + 32 * n, 0, 16, 0, .rw, .pp⟩
def PTPO_PERIOD_PERIOD (n : Nat) : Fld := ⟨0x200B0108 + 32 * n, 0, 32, 0, .rw, .pp⟩
def PTPO_WIDTH_WIDTH (n : Nat) : Fld := ⟨0x200B010C + 32 * n, 0, 32, 0, .rw, .pp⟩
def PTPO_CTL_ARM (n : Nat) : Fld := ⟨0x200B0110 + 32 * n, 0, 1, 0, .rw, .pp⟩
def PTPO_CTL_POL (n : Nat) : Fld := ⟨0x200B0110 + 32 * n, 1, 1, 0, .rw, .pp⟩
def PTPO_CTL_CLAIM_GATE (n : Nat) : Fld := ⟨0x200B0110 + 32 * n, 2, 1, 0, .rw, .pp⟩
def PTPO_CTL_LATE (n : Nat) : Fld := ⟨0x200B0110 + 32 * n, 3, 1, 0, .w1c, .pp⟩
def PTPO_CTL_SKIP_CNT (n : Nat) : Fld := ⟨0x200B0110 + 32 * n, 16, 16, 0, .rw, .pp⟩
def PTPI_CTL_EN (n : Nat) : Fld := ⟨0x200B0200 + 16 * n, 0, 1, 0, .rw, .pp⟩
def PTPI_CTL_EDGE (n : Nat) : Fld := ⟨0x200B0200 + 16 * n, 1, 2, 0, .rw, .pp⟩
def PTPI_STAT_COUNT (n : Nat) : Fld := ⟨0x200B0204 + 16 * n, 0, 5, 0, .ro, .pp⟩
def PTPI_STAT_OVF (n : Nat) : Fld := ⟨0x200B0204 + 16 * n, 5, 1, 0, .w1c, .pp⟩
def PTPI_FIFO_LO_LIN (n : Nat) : Fld := ⟨0x200B0208 + 16 * n, 0, 32, 0, .ro, .pp⟩
def PTPI_FIFO_HI_LIN (n : Nat) : Fld := ⟨0x200B020C + 16 * n, 0, 16, 0, .ro, .pp⟩
def PTPI_FIFO_HI_RISE (n : Nat) : Fld := ⟨0x200B020C + 16 * n, 16, 1, 0, .ro, .pp⟩
def CLK_SEL_SEL_MODE : Fld := ⟨0x200C0000, 0, 2, 0, .rwp, .pp⟩
def CLK_SEL_FORCE_REF : Fld := ⟨0x200C0000, 2, 3, 0, .rwp, .pp⟩
def CLK_SEL_REVERTIVE : Fld := ⟨0x200C0000, 5, 1, 1, .rwp, .pp⟩
def CLK_SEL_FAMILY : Fld := ⟨0x200C0000, 6, 1, 0, .rwp, .pp⟩
def CLK_STAT_STATE : Fld := ⟨0x200C0008, 0, 3, 0, .ro, .pp⟩
def CLK_STAT_SELECTED : Fld := ⟨0x200C0008, 3, 3, 0, .ro, .pp⟩
def CLK_STAT_SWITCHING : Fld := ⟨0x200C0008, 6, 1, 0, .ro, .pp⟩
def CLK_STAT_BLEEDING : Fld := ⟨0x200C0008, 7, 1, 0, .ro, .pp⟩
def CLK_STAT_STEER : Fld := ⟨0x200C0008, 8, 1, 0, .ro, .pp⟩
def CLK_STAT_HO_VALID : Fld := ⟨0x200C0008, 9, 1, 0, .ro, .pp⟩
def CLK_STAT_QL_OUT : Fld := ⟨0x200C0008, 10, 4, 15, .ro, .pp⟩
def CLK_STAT_SYN_LOCK : Fld := ⟨0x200C0008, 14, 1, 0, .ro, .pp⟩
def CLK_ALARM_SWITCH : Fld := ⟨0x200C000C, 0, 1, 0, .w1c, .pp⟩
def CLK_ALARM_HOLDOVER : Fld := ⟨0x200C000C, 1, 1, 0, .w1c, .pp⟩
def CLK_ALARM_LOST : Fld := ⟨0x200C000C, 2, 1, 0, .w1c, .pp⟩
def CLK_ALARM_DRIFT : Fld := ⟨0x200C000C, 3, 1, 0, .w1c, .pp⟩
def CLK_ALARM_PLL_UNLOCK : Fld := ⟨0x200C000C, 4, 1, 0, .w1c, .pp⟩
def CLK_ALARM_XO_LOST : Fld := ⟨0x200C000C, 5, 1, 0, .w1c, .pp⟩
def CLK_ALARM_BAND_FAIL : Fld := ⟨0x200C000C, 6, 1, 0, .w1c, .pp⟩
def CLK_ALARM_PAIRWORD : Fld := ⟨0x200C000C, 7, 1, 0, .w1c, .pp⟩
def CLK_ALARM_OPEN_TMO : Fld := ⟨0x200C000C, 8, 1, 0, .w1c, .pp⟩
def CLK_ALARM_BW_CLAMP : Fld := ⟨0x200C000C, 9, 1, 0, .w1c, .pp⟩
def CLK_ALARM_CFG_ERR : Fld := ⟨0x200C000C, 10, 1, 0, .w1c, .pp⟩
def CLK_ALARM_PPS_LOST : Fld := ⟨0x200C000C, 11, 1, 0, .w1c, .pp⟩
def CLK_DPLL_CTL_BW : Fld := ⟨0x200C0010, 0, 4, 3, .rw, .pp⟩
def CLK_DPLL_CTL_STEER : Fld := ⟨0x200C0010, 4, 1, 0, .rw, .pp⟩
def CLK_DPLL_CTL_KEEP : Fld := ⟨0x200C0010, 5, 1, 0, .rw, .pp⟩
def CLK_DPLL_CTL_BLEED_SLEW : Fld := ⟨0x200C0010, 6, 7, 50, .rw, .pp⟩
def CLK_DPLL_CTL_HO_QL : Fld := ⟨0x200C0010, 13, 4, 10, .rw, .pp⟩
def CLK_DPLL_CTL_LOCK_NS : Fld := ⟨0x200C0010, 17, 15, 100, .rw, .pp⟩
def CLK_FREQ_FREQ : Fld := ⟨0x200C0014, 0, 32, 0, .rw, .pp⟩
def CLK_PHASE_ERR_ERR : Fld := ⟨0x200C0018, 0, 28, 0, .ro, .pp⟩
def CLK_PHASE_ERR_SEQ : Fld := ⟨0x200C0018, 28, 4, 0, .ro, .pp⟩
def CLK_HOLDOVER_HO_FREQ : Fld := ⟨0x200C001C, 0, 32, 0, .ro, .pp⟩
def CLK_BUILDOUT_B : Fld := ⟨0x200C0020, 0, 32, 0, .ro, .pp⟩
def CLK_PSTEP_STEP : Fld := ⟨0x200C0024, 0, 16, 0, .rw, .pp⟩
def CLK_PSTEP_PS_RATE : Fld := ⟨0x200C0024, 16, 4, 4, .rw, .pp⟩
def CLK_XO_TRIM_TRIM : Fld := ⟨0x200C0028, 0, 32, 0, .rw, .pp⟩
def CLK_AES11_QL_G1_QL : Fld := ⟨0x200C002C, 0, 4, 2, .rw, .pp⟩
def CLK_AES11_QL_G2_QL : Fld := ⟨0x200C002C, 4, 4, 4, .rw, .pp⟩
def CLK_PTPQ_CLASS_MIN (n : Nat) : Fld := ⟨0x200C0040 + 4 * n, 0, 8, ptpqReset n 0, .rw, .pp⟩
def CLK_PTPQ_CLASS_MAX (n : Nat) : Fld := ⟨0x200C0040 + 4 * n, 8, 8, ptpqReset n 1, .rw, .pp⟩
def CLK_PTPQ_ACC_MAX (n : Nat) : Fld := ⟨0x200C0040 + 4 * n, 16, 8, ptpqReset n 2, .rw, .pp⟩
def CLK_PTPQ_QL (n : Nat) : Fld := ⟨0x200C0040 + 4 * n, 24, 4, ptpqReset n 3, .rw, .pp⟩
def CLK_PTPQ_VALID (n : Nat) : Fld := ⟨0x200C0040 + 4 * n, 31, 1, ptpqReset n 4, .rw, .pp⟩
def CLK_REF0_ANN_CLASS : Fld := ⟨0x200C0060, 0, 8, 0, .rw, .pp⟩
def CLK_REF0_ANN_ACCURACY : Fld := ⟨0x200C0060, 8, 8, 0, .rw, .pp⟩
def CLK_REF0_ANN_ANN_VALID : Fld := ⟨0x200C0060, 16, 1, 0, .rw, .pp⟩
def CLK_REF0_ANN_SERVO_LOCK : Fld := ⟨0x200C0060, 17, 1, 0, .rw, .pp⟩
def CLK_REF_CFG_EN (n : Nat) : Fld := ⟨0x200C0100 + 32 * n, 0, 1, 0, .rw, .pp⟩
def CLK_REF_CFG_PRIO (n : Nat) : Fld := ⟨0x200C0100 + 32 * n, 1, 4, n, .rw, .pp⟩
def CLK_REF_CFG_QL_HOST (n : Nat) : Fld := ⟨0x200C0100 + 32 * n, 5, 4, (if n = 7 then 1 else 15), .rw, .pp⟩
def CLK_REF_CFG_WIN (n : Nat) : Fld := ⟨0x200C0100 + 32 * n, 9, 16, 25000, .rw, .pp⟩
def CLK_REF_TIME_DQ (n : Nat) : Fld := ⟨0x200C0104 + 32 * n, 0, 8, 20, .rw, .pp⟩
def CLK_REF_TIME_WTR (n : Nat) : Fld := ⟨0x200C0104 + 32 * n, 8, 12, 10, .rw, .pp⟩
def CLK_REF_DIVN_N (n : Nat) : Fld := ⟨0x200C0108 + 32 * n, 0, 24, 1, .rw, .pp⟩
def CLK_REF_DIVM_M (n : Nat) : Fld := ⟨0x200C010C + 32 * n, 0, 20, 1, .rw, .pp⟩
def CLK_REF_DIVM_REF_OFS (n : Nat) : Fld := ⟨0x200C010C + 32 * n, 20, 12, 0, .rw, .pp⟩
def CLK_REF_STAT_STATE (n : Nat) : Fld := ⟨0x200C0110 + 32 * n, 0, 3, 0, .ro, .pp⟩
def CLK_REF_STAT_QL_EFF (n : Nat) : Fld := ⟨0x200C0110 + 32 * n, 3, 4, 15, .ro, .pp⟩
def CLK_REF_STAT_DRIFT_WARN (n : Nat) : Fld := ⟨0x200C0110 + 32 * n, 7, 1, 0, .ro, .pp⟩
def CLK_REF_FREQ_OFFSET (n : Nat) : Fld := ⟨0x200C0114 + 32 * n, 0, 32, 0, .ro, .pp⟩
def CLK_SYN_CTL_EN : Fld := ⟨0x200C0200, 0, 1, 0, .rw, .pp⟩
def CLK_SYN_STAT_LOCK : Fld := ⟨0x200C0204, 0, 1, 0, .ro, .pp⟩
def CLK_SYN_STAT_COAST : Fld := ⟨0x200C0204, 1, 1, 0, .ro, .pp⟩
def CLK_SYN_STAT_BAND : Fld := ⟨0x200C0204, 2, 6, 0, .ro, .pp⟩
def CLK_SYN_STAT_VT_MARGIN : Fld := ⟨0x200C0204, 8, 1, 0, .ro, .pp⟩
def CLK_SYN_STAT_UNLOCK_CNT : Fld := ⟨0x200C0204, 16, 16, 0, .ro, .pp⟩
def CLK_SYN_NINT_NINT : Fld := ⟨0x200C0208, 0, 8, 0, .ro, .pp⟩
def CLK_SYN_NFRAC_NFRAC : Fld := ⟨0x200C020C, 0, 32, 0, .ro, .pp⟩
def CLK_CAL_CTL_BAND : Fld := ⟨0x200C0210, 0, 6, 0, .rw, .pp⟩
def CLK_CAL_CTL_RAIL : Fld := ⟨0x200C0210, 6, 1, 0, .rw, .pp⟩
def CLK_CAL_CTL_START : Fld := ⟨0x200C0210, 7, 1, 0, .wo, .pp⟩
def CLK_CAL_CTL_BUSY : Fld := ⟨0x200C0210, 8, 1, 0, .ro, .pp⟩
def CLK_CAL_FREQ_FREQ : Fld := ⟨0x200C0214, 0, 16, 0, .ro, .pp⟩
def CLK_CAL_FREQ_VALID : Fld := ⟨0x200C0214, 16, 1, 0, .ro, .pp⟩
def CLK_BAND_IDX_INDEX : Fld := ⟨0x200C0218, 0, 6, 0, .rw, .pp⟩
def CLK_BAND_DATA_F_LOW : Fld := ⟨0x200C021C, 0, 16, 0, .rw, .pp⟩
def CLK_BAND_DATA_F_HIGH : Fld := ⟨0x200C021C, 16, 16, 0, .rw, .pp⟩
def CLK_OEN_MCLKO : Fld := ⟨0x200C0300, 0, 4, 0, .rwp, .pp⟩
def CLK_OEN_WCO : Fld := ⟨0x200C0300, 4, 2, 0, .rwp, .pp⟩
def CLK_OEN_SDMCLK : Fld := ⟨0x200C0300, 6, 8, 0, .rwp, .pp⟩
def CLK_MCLK_CFG_EN (n : Nat) : Fld := ⟨0x200C0310 + 4 * n, 0, 1, 0, .rw, .pp⟩
def CLK_MCLK_CFG_MULT (n : Nat) : Fld := ⟨0x200C0310 + 4 * n, 1, 1, 0, .rw, .pp⟩
def CLK_MCLK_CFG_K (n : Nat) : Fld := ⟨0x200C0310 + 4 * n, 2, 2, 0, .rw, .pp⟩
def CLK_WCO_CFG_EN (n : Nat) : Fld := ⟨0x200C0320 + 4 * n, 0, 1, 0, .rw, .pp⟩
def CLK_WCO_CFG_K (n : Nat) : Fld := ⟨0x200C0320 + 4 * n, 1, 2, 0, .rw, .pp⟩
def CLK_WCO_CFG_ALIGN_SRC (n : Nat) : Fld := ⟨0x200C0320 + 4 * n, 3, 3, 0, .rw, .pp⟩
def CLK_WCO_CFG_TRACK (n : Nat) : Fld := ⟨0x200C0320 + 4 * n, 6, 1, 0, .rw, .pp⟩
def CLK_WCO_CFG_OFFSET (n : Nat) : Fld := ⟨0x200C0320 + 4 * n, 8, 24, 0, .rw, .pp⟩
def CLK_SDM_CFG_DIV : Fld := ⟨0x200C0328, 0, 2, 0, .rw, .pp⟩
def CLK_SDM_CFG_EN : Fld := ⟨0x200C0328, 2, 1, 0, .rw, .pp⟩
def CLK_CAR_CFG_X16 : Fld := ⟨0x200C032C, 0, 1, 0, .rw, .pp⟩
def AMP_OEN_OEN : Fld := ⟨0x200D0000, 0, 32, 0, .rwp, .ppf⟩
def AMP_CTL_EN : Fld := ⟨0x200D0008, 0, 1, 0, .rw, .ppf⟩
def AMP_CTL_STAGGER : Fld := ⟨0x200D0008, 1, 8, 8, .rw, .ppf⟩
def AMP_CTL_MIN_PULSE : Fld := ⟨0x200D0008, 9, 7, 20, .rw, .ppf⟩
def AMP_STAT_PAIRWORD : Fld := ⟨0x200D000C, 0, 1, 0, .w1c, .ppf⟩
def AMP_STAT_CFG_ERR : Fld := ⟨0x200D000C, 1, 1, 0, .w1c, .ppf⟩
def AMP_CLEAR_CLEAR : Fld := ⟨0x200D0010, 0, 32, 0, .wo, .pp⟩
def AMP_MKL_ERR_FRAME_ERR : Fld := ⟨0x200D0014, 0, 16, 0, .rw, .ppf⟩
def AMP_MKL_CFG_DISC_EN : Fld := ⟨0x200D0018, 0, 1, 0, .rw, .ppf⟩
def AMP_MKL_CFG_ALLOW_3L : Fld := ⟨0x200D0018, 1, 1, 1, .rw, .ppf⟩
def AMP_MKL_CFG_DT_FLOOR : Fld := ⟨0x200D0018, 2, 8, 0, .rw, .ppf⟩
def AMP_MKL_RAIL_LIM_MIN : Fld := ⟨0x200D001C, 0, 12, 0, .rw, .ppf⟩
def AMP_MKL_RAIL_LIM_MAX : Fld := ⟨0x200D001C, 16, 12, 4095, .rw, .ppf⟩
def AMP_MKL_IDX_MODULE : Fld := ⟨0x200D0020, 0, 3, 0, .rw, .ppc⟩
def AMP_MKL_IDX_WORD : Fld := ⟨0x200D0020, 3, 4, 0, .rw, .ppc⟩
def AMP_MKL_DATA_DATA : Fld := ⟨0x200D0024, 0, 32, 0, .ro, .ppf⟩
def AMP_CH_CFG_EN (n : Nat) : Fld := ⟨0x200D0100 + 32 * n, 0, 1, 0, .rw, .ppf⟩
def AMP_CH_CFG_SIL_PD (n : Nat) : Fld := ⟨0x200D0100 + 32 * n, 1, 1, 0, .rw, .ppf⟩
def AMP_CH_CFG_TRIP_POL (n : Nat) : Fld := ⟨0x200D0100 + 32 * n, 2, 1, 0, .rw, .ppf⟩
def AMP_CH_CFG_TRIP_FILT (n : Nat) : Fld := ⟨0x200D0100 + 32 * n, 3, 2, 0, .rw, .ppf⟩
def AMP_CH_SRC_SLOT (n : Nat) : Fld := ⟨0x200D0104 + 32 * n, 0, 13, 0, .rw, .ppf⟩
def AMP_CH_SRC_ENV_SLOT (n : Nat) : Fld := ⟨0x200D0104 + 32 * n, 16, 13, 0, .rw, .ppf⟩
def AMP_CH_DEST_DEST (n : Nat) : Fld := ⟨0x200D0108 + 32 * n, 0, 12, 0, .rw, .ppf⟩
def AMP_CH_DEST_SIL_DEST (n : Nat) : Fld := ⟨0x200D0108 + 32 * n, 16, 12, 0, .rw, .ppf⟩
def AMP_CH_PROT_OC_LIMIT (n : Nat) : Fld := ⟨0x200D010C + 32 * n, 0, 16, 28672, .rw, .ppf⟩
def AMP_CH_PROT_OC_EN (n : Nat) : Fld := ⟨0x200D010C + 32 * n, 16, 1, 1, .rw, .ppf⟩
def AMP_CH_STAT_STATE (n : Nat) : Fld := ⟨0x200D0110 + 32 * n, 0, 3, 0, .ro, .ppf⟩
def AMP_CH_STAT_STRIKES (n : Nat) : Fld := ⟨0x200D0110 + 32 * n, 3, 2, 0, .ro, .ppf⟩
def AMP_CH_STAT_SHORT (n : Nat) : Fld := ⟨0x200D0110 + 32 * n, 5, 1, 0, .ro, .pp⟩
def AMP_CH_STAT_TRIPS (n : Nat) : Fld := ⟨0x200D0110 + 32 * n, 8, 8, 0, .rw, .ppf⟩
def AMP_CH_STAT_CLIP (n : Nat) : Fld := ⟨0x200D0110 + 32 * n, 16, 16, 0, .rw, .ppf⟩
def AMP_CH_MEAS_I_PEAK (n : Nat) : Fld := ⟨0x200D0114 + 32 * n, 0, 16, 0, .ro, .ppf⟩
def AMP_CH_MEAS_V_PEAK (n : Nat) : Fld := ⟨0x200D0114 + 32 * n, 16, 16, 0, .ro, .ppf⟩
def AMP_GRP_ENV_V_FS (n : Nat) : Fld := ⟨0x200D0600 + 16 * n, 0, 12, 0, .rw, .ppf⟩
def AMP_GRP_ENV_HEADROOM (n : Nat) : Fld := ⟨0x200D0600 + 16 * n, 12, 12, 0, .rw, .ppf⟩
def AMP_GRP_ENV2_D (n : Nat) : Fld := ⟨0x200D0604 + 16 * n, 0, 16, 0, .rw, .ppf⟩
def AMP_GRP_ENV2_REL_SLEW (n : Nat) : Fld := ⟨0x200D0604 + 16 * n, 16, 16, 100, .rw, .ppf⟩
def AMP_GRP_SET_SETPOINT (n : Nat) : Fld := ⟨0x200D0608 + 16 * n, 0, 12, 0, .ro, .ppf⟩
def AMP_GRP_SET_RAIL_EN (n : Nat) : Fld := ⟨0x200D0608 + 16 * n, 12, 1, 0, .ro, .ppf⟩
def AMP_GRP_SET_HELD_MIN (n : Nat) : Fld := ⟨0x200D0608 + 16 * n, 13, 1, 0, .ro, .ppf⟩
def AMP_MOD_STAT_STATE (n : Nat) : Fld := ⟨0x200D0700 + 4 * n, 0, 3, 0, .ro, .ppf⟩
def AMP_MOD_STAT_THREE_LEVEL (n : Nat) : Fld := ⟨0x200D0700 + 4 * n, 3, 1, 0, .ro, .ppf⟩
def AMP_MOD_STAT_X16 (n : Nat) : Fld := ⟨0x200D0700 + 4 * n, 4, 1, 0, .ro, .ppf⟩
def AMP_MOD_STAT_DT (n : Nat) : Fld := ⟨0x200D0700 + 4 * n, 8, 8, 0, .ro, .ppf⟩
def PAIR_CFG_LAG : Fld := ⟨0x200E0000, 0, 3, 2, .rwp, .pp⟩
def PAIR_CFG_ELIG_UNFIT : Fld := ⟨0x200E0000, 3, 1, 1, .rwp, .pp⟩
def PAIR_CFG_AUTO_REJOIN : Fld := ⟨0x200E0000, 4, 1, 1, .rwp, .pp⟩
def PAIR_CFG_RS_TRIES : Fld := ⟨0x200E0000, 8, 4, 4, .rwp, .pp⟩
def PAIR_CFG_SKEW_MAX : Fld := ⟨0x200E0000, 16, 8, 50, .rwp, .pp⟩
def PAIR_STAT_STATE : Fld := ⟨0x200E0008, 0, 4, 1, .ro, .pp⟩
def PAIR_STAT_CLAIM : Fld := ⟨0x200E0008, 4, 1, 0, .ro, .pp⟩
def PAIR_STAT_CLAIM_IN : Fld := ⟨0x200E0008, 5, 1, 0, .ro, .pp⟩
def PAIR_STAT_ELIGIBLE : Fld := ⟨0x200E0008, 6, 1, 0, .ro, .pp⟩
def PAIR_STAT_PROTECTED : Fld := ⟨0x200E0008, 7, 1, 0, .ro, .pp⟩
def PAIR_STAT_UNIT : Fld := ⟨0x200E0008, 8, 1, 0, .ro, .pp⟩
def PAIR_STAT_PAIR_EN : Fld := ⟨0x200E0008, 9, 1, 0, .ro, .pp⟩
def PAIR_STAT_BIT_IDENT : Fld := ⟨0x200E0008, 10, 1, 0, .ro, .pp⟩
def PAIR_STAT_SKEWED : Fld := ⟨0x200E0008, 11, 1, 0, .ro, .pp⟩
def PAIR_STAT_HEARTBEAT : Fld := ⟨0x200E0008, 12, 1, 0, .ro, .pp⟩
def PAIR_STAT_UNIT_CLASH : Fld := ⟨0x200E0008, 13, 1, 0, .ro, .pp⟩
def PAIR_STAT_PAIRWORD : Fld := ⟨0x200E0008, 14, 1, 0, .w1c, .pp⟩
def PAIR_STAT_PARTNER_STATE : Fld := ⟨0x200E0008, 16, 4, 0, .ro, .pp⟩
def PAIR_CAUSE_CODE : Fld := ⟨0x200E000C, 0, 8, 0, .ro, .pp⟩
def PAIR_CAUSE_CI16 : Fld := ⟨0x200E000C, 16, 16, 0, .ro, .pp⟩
def PAIR_LINK_CFG_LANE_EN : Fld := ⟨0x200E0010, 0, 4, 15, .rw, .pp⟩
def PAIR_LINK_CFG_RATE_EN : Fld := ⟨0x200E0010, 4, 4, 15, .rw, .pp⟩
def PAIR_LINK_CFG_RETRAIN : Fld := ⟨0x200E0010, 8, 1, 0, .wo, .pp⟩
def PAIR_LINK_STAT_LANES : Fld := ⟨0x200E0014, 0, 3, 0, .ro, .pp⟩
def PAIR_LINK_STAT_RATE : Fld := ⟨0x200E0014, 3, 2, 0, .ro, .pp⟩
def PAIR_LINK_STAT_UP : Fld := ⟨0x200E0014, 5, 1, 0, .ro, .pp⟩
def PAIR_LINK_STAT_TRAINING : Fld := ⟨0x200E0014, 6, 1, 0, .ro, .pp⟩
def PAIR_LINK_STAT_BELOW_BUDGET : Fld := ⟨0x200E0014, 7, 1, 0, .ro, .pp⟩
def PAIR_LINK_DELAY_DELAY : Fld := ⟨0x200E0018, 0, 16, 0, .ro, .pp⟩
def PAIR_SKEW_SKEW : Fld := ⟨0x200E001C, 0, 32, 0, .ro, .pp⟩
def PAIR_BUDGET_BUDGET : Fld := ⟨0x200E0020, 0, 24, 0, .ro, .pp⟩
def PAIR_REPLAY_CI_CI : Fld := ⟨0x200E0024, 0, 32, 0, .ro, .pp⟩
def PAIR_RESTATE_RUNNING : Fld := ⟨0x200E0028, 0, 1, 0, .ro, .pp⟩
def PAIR_RESTATE_FAILED : Fld := ⟨0x200E0028, 1, 1, 0, .w1c, .pp⟩
def PAIR_RESTATE_PASS : Fld := ⟨0x200E0028, 4, 4, 0, .ro, .pp⟩
def PAIR_CNT_REC_MISSING : Fld := ⟨0x200E002C, 0, 16, 0, .rw, .pp⟩
def PAIR_CNT_RETRAINS : Fld := ⟨0x200E002C, 16, 8, 0, .rw, .pp⟩
def PAIR_CNT_DIGEST_ERR : Fld := ⟨0x200E002C, 24, 8, 0, .rw, .pp⟩
def PAIR_CNT2_RESENDS : Fld := ⟨0x200E0030, 0, 16, 0, .rw, .pp⟩
def PAIR_CNT2_REC_HDR_ERR : Fld := ⟨0x200E0030, 16, 16, 0, .rw, .pp⟩
def VSR_STAT_COUNT : Fld := ⟨0x20020000, 0, 5, 0, .ro, .ppc⟩
def VSR_STAT_OVERFLOW : Fld := ⟨0x20020000, 5, 1, 0, .w1c, .ppc⟩
def VSR_STAT_CUTS : Fld := ⟨0x20020000, 16, 16, 0, .ro, .pp⟩
def VSR_LOG_ADDR_ADDR : Fld := ⟨0x20020004, 0, 32, 0, .ro, .ppc⟩
def VSR_LOG_INFO_KIND : Fld := ⟨0x20020008, 0, 3, 0, .ro, .ppc⟩
def VSR_LOG_INFO_WRITE : Fld := ⟨0x20020008, 3, 1, 0, .ro, .ppc⟩
def VSR_LOG_INFO_MASTER : Fld := ⟨0x20020008, 4, 4, 0, .ro, .ppc⟩
def VSR_LOG_INFO_ID : Fld := ⟨0x20020008, 8, 8, 0, .ro, .ppc⟩
def VSR_LOG_POP_POP : Fld := ⟨0x2002000C, 0, 1, 0, .wo, .pp⟩
def SYS_BOOT_STAT_BOOT_SRC : Fld := ⟨0x20000000, 0, 2, 0, .ro, .pp⟩
def SYS_BOOT_STAT_SEAT_MAP : Fld := ⟨0x20000000, 2, 2, 0, .ro, .pp⟩
def SYS_BOOT_STAT_SLOT : Fld := ⟨0x20000000, 4, 1, 0, .ro, .pp⟩
def SYS_BOOT_STAT_FALLBACK : Fld := ⟨0x20000000, 5, 1, 0, .ro, .pp⟩
def SYS_BOOT_STAT_TRIAL : Fld := ⟨0x20000000, 6, 1, 0, .ro, .pp⟩
def SYS_BOOT_STAT_CONFIRM : Fld := ⟨0x20000000, 7, 1, 0, .rw, .pp⟩
def SYS_BOOT_STAT_TRIAL_FAIL : Fld := ⟨0x20000000, 8, 1, 0, .ro, .pp⟩
def SYS_BOOT_STAT_FROM_COPY : Fld := ⟨0x20000000, 9, 1, 0, .ro, .ppc⟩
def SYS_REMAP_REMAP : Fld := ⟨0x20000004, 0, 1, 0, .rw, .ppc⟩
def SYS_WDT_CTL_TIMEOUT : Fld := ⟨0x20000008, 0, 16, 2000, .rw, .pp⟩
def SYS_WDT_CTL_ESCALATE : Fld := ⟨0x20000008, 16, 1, 0, .rw, .pp⟩
def SYS_WDT_CTL_LOCK : Fld := ⟨0x20000008, 17, 1, 0, .rw, .pp⟩
def SYS_WDT_CTL_DBG_PAUSE : Fld := ⟨0x20000008, 18, 1, 0, .rw, .pp⟩
def SYS_WDT_CTL_PAIRWORD : Fld := ⟨0x20000008, 19, 1, 0, .w1c, .pp⟩
def SYS_RESET_CAUSE_POR : Fld := ⟨0x2000000C, 0, 1, 0, .w1c, .por⟩
def SYS_RESET_CAUSE_PIN : Fld := ⟨0x2000000C, 1, 1, 0, .w1c, .por⟩
def SYS_RESET_CAUSE_WATCHDOG : Fld := ⟨0x2000000C, 2, 1, 0, .w1c, .por⟩
def SYS_RESET_CAUSE_LOCKSTEP : Fld := ⟨0x2000000C, 3, 1, 0, .w1c, .por⟩
def SYS_RESET_CAUSE_SOFTWARE : Fld := ⟨0x2000000C, 4, 1, 0, .w1c, .por⟩
def SYS_RESET_CAUSE_CTL_COUNT : Fld := ⟨0x2000000C, 8, 8, 0, .ro, .pp⟩
def SYS_WDT_KICK_KEY : Fld := ⟨0x20000018, 0, 32, 0, .wo, .pp⟩
def SYS_WDT_KICK_C_KEY : Fld := ⟨0x2000001C, 0, 32, 0, .wo, .pp⟩
def SYS_RESET_CTL : Fld := ⟨0x20000020, 0, 1, 0, .wo, .pp⟩
def SYS_DEBUG_OPEN : Fld := ⟨0x20000024, 0, 1, 0, .ro, .pp⟩
def DB_CMD_POST (n : Nat) : Fld := ⟨0x20100100 + 16384 * n, 0, 1, 0, .wo, .pp⟩
def DB_STAT_CMD_BUSY (n : Nat) : Fld := ⟨0x20100104 + 16384 * n, 0, 1, 0, .ro, .ppcs⟩
def DB_STAT_REPLY_READY (n : Nat) : Fld := ⟨0x20100104 + 16384 * n, 1, 1, 0, .ro, .ppcs⟩
def DB_STAT_MB_OVERRUN (n : Nat) : Fld := ⟨0x20100104 + 16384 * n, 2, 1, 0, .w1c, .ppcs⟩
def DB_STAT_ATTACHED (n : Nat) : Fld := ⟨0x20100104 + 16384 * n, 3, 1, 0, .ro, .ppcs⟩
def DB_STAT_LAST_SEQ (n : Nat) : Fld := ⟨0x20100104 + 16384 * n, 8, 8, 0, .ro, .ppcs⟩
def EV_HEAD_HEAD (n : Nat) : Fld := ⟨0x20100108 + 16384 * n, 0, 16, 0, .ro, .ppcs⟩
def EV_TAIL_TAIL (n : Nat) : Fld := ⟨0x2010010C + 16384 * n, 0, 16, 0, .rw, .ppcs⟩
def IRQ_STAT_REPLY (n : Nat) : Fld := ⟨0x20100110 + 16384 * n, 0, 1, 0, .w1c, .ppcs⟩
def IRQ_STAT_EVENT (n : Nat) : Fld := ⟨0x20100110 + 16384 * n, 1, 1, 0, .w1c, .ppcs⟩
def IRQ_STAT_LEASE (n : Nat) : Fld := ⟨0x20100110 + 16384 * n, 2, 1, 0, .w1c, .ppcs⟩
def IRQ_STAT_RESTART (n : Nat) : Fld := ⟨0x20100110 + 16384 * n, 3, 1, 0, .w1c, .pps⟩
def IRQ_STAT_LIFE (n : Nat) : Fld := ⟨0x20100110 + 16384 * n, 4, 1, 0, .w1c, .pps⟩
def IRQ_EN_EN_FW (n : Nat) : Fld := ⟨0x20100114 + 16384 * n, 0, 3, 0, .rw, .ppcs⟩
def IRQ_EN_EN_HW (n : Nat) : Fld := ⟨0x20100114 + 16384 * n, 3, 2, 0, .rw, .pps⟩
def LIFE_STATUS_FABRIC_RUN : Fld := ⟨0x20010000, 0, 1, 0, .ro, .ppf⟩
def LIFE_STATUS_FW_UP : Fld := ⟨0x20010000, 1, 1, 0, .rw, .ppc⟩
def LIFE_STATUS_CTL_RESTART : Fld := ⟨0x20010000, 2, 1, 0, .ro, .pp⟩
def LIFE_STATUS_BOOT_ROM : Fld := ⟨0x20010000, 3, 1, 0, .ro, .pp⟩
def LIFE_STATUS_MUTED : Fld := ⟨0x20010000, 4, 1, 0, .ro, .pp⟩
def LIFE_STATUS_EMUTE : Fld := ⟨0x20010000, 5, 1, 0, .ro, .pp⟩
def LIFE_STATUS_DARK : Fld := ⟨0x20010000, 6, 1, 0, .ro, .ppf⟩
def LIFE_STATUS_ALERT : Fld := ⟨0x20010000, 7, 1, 0, .ro, .pp⟩
def LIFE_STATUS_QUIET : Fld := ⟨0x20010000, 8, 1, 0, .ro, .pp⟩
def LIFE_STATUS_MUTE_PW : Fld := ⟨0x20010000, 9, 1, 0, .w1c, .pp⟩
def LIFE_CI_CI_LO : Fld := ⟨0x20010004, 0, 32, 0, .ro, .ppf⟩
def LIFE_CI_HI_CI_HI : Fld := ⟨0x20010008, 0, 32, 0, .ro, .ppf⟩
def LIFE_FAULT_BOOT : Fld := ⟨0x2001000C, 0, 8, 0, .ro, .pp⟩
def LIFE_FAULT_GUARD : Fld := ⟨0x2001000C, 8, 1, 0, .ro, .ppf⟩
def LIFE_FAULT_ASH_FATAL : Fld := ⟨0x2001000C, 9, 1, 0, .ro, .ppf⟩
def LIFE_FAULT_TILE : Fld := ⟨0x2001000C, 10, 1, 0, .ro, .ppf⟩
def LIFE_FAULT_PLL : Fld := ⟨0x2001000C, 11, 1, 0, .ro, .pp⟩
def LIFE_FAULT_SUPPLY : Fld := ⟨0x2001000C, 12, 1, 0, .ro, .pp⟩
def LIFE_FAULT_THERMAL : Fld := ⟨0x2001000C, 13, 1, 0, .ro, .pp⟩
def LIFE_PAIR_STATE : Fld := ⟨0x20010010, 0, 4, 1, .ro, .pp⟩
def LIFE_PAIR_CLAIM : Fld := ⟨0x20010010, 4, 1, 0, .ro, .pp⟩
def LIFE_PAIR_CLAIM_IN : Fld := ⟨0x20010010, 5, 1, 0, .ro, .pp⟩
def LIFE_PAIR_PROTECTED : Fld := ⟨0x20010010, 6, 1, 0, .ro, .pp⟩
def LIFE_PAIR_HEARTBEAT : Fld := ⟨0x20010010, 7, 1, 0, .ro, .pp⟩
def LIFE_PAIR_CAUSE : Fld := ⟨0x20010010, 8, 8, 0, .ro, .pp⟩
def LIFE_PAIR_CAUSE_CI16 : Fld := ⟨0x20010010, 16, 16, 0, .ro, .pp⟩
def LIFE_CNT_PIN_RESETS : Fld := ⟨0x20010014, 0, 16, 0, .ro, .por⟩
def LIFE_CNT_RELEASES : Fld := ⟨0x20010014, 16, 16, 0, .ro, .por⟩
def LIFE_RELEASE_KEY : Fld := ⟨0x20010018, 0, 32, 0, .wo, .pp⟩
def LIFE_BEAT_BEAT : Fld := ⟨0x2001001C, 0, 32, 0, .rw, .ppc⟩
def LIFE_MUTE_MUTE (n : Nat) : Fld := ⟨0x20010020 + 8 * n, 0, 1, 0, .rwp, .pp⟩
def HOST_BIND_IF (n : Nat) : Fld := ⟨0x20103000 + 16384 * n, 0, 2, 0, .rw, .pp⟩
def HOST_BIND_INDEX (n : Nat) : Fld := ⟨0x20103000 + 16384 * n, 2, 2, 0, .rw, .pp⟩
def HOST_WIN_WIN_BASE (n : Nat) : Fld := ⟨0x20103004 + 16384 * n, 0, 24, 0, .rw, .ppc⟩
def HOST_LIM_WIN_WORDS (n : Nat) : Fld := ⟨0x20103008 + 16384 * n, 0, 23, 0, .rw, .ppc⟩
def HOST_PERM_REL_OK (n : Nat) : Fld := ⟨0x2010300C + 16384 * n, 0, 1, (if n = 0 then 1 else 0), .rw, .pp⟩
def HOST_PERM_MUTE_OK (n : Nat) : Fld := ⟨0x2010300C + 16384 * n, 1, 1, 1, .rw, .pp⟩
def HOST_PERM_CTL_OK (n : Nat) : Fld := ⟨0x2010300C + 16384 * n, 2, 1, (if n = 0 then 1 else 0), .rw, .pp⟩
def PWR_STAT_STATE : Fld := ⟨0x200F0000, 0, 2, 0, .ro, .pp⟩
def PWR_STAT_WOKE : Fld := ⟨0x200F0000, 2, 1, 0, .ro, .pp⟩
def PWR_CTL_FAB : Fld := ⟨0x200F0004, 0, 1, 0, .wo, .pp⟩
def PWR_CTL_ENTER : Fld := ⟨0x200F0004, 1, 2, 0, .wo, .pp⟩
def PWR_ALARM_SUPPLY : Fld := ⟨0x200F0008, 0, 1, 0, .ro, .pp⟩
def PWR_ALARM_THERMAL : Fld := ⟨0x200F0008, 1, 1, 0, .ro, .pp⟩
def PWR_ALARM_CRIT : Fld := ⟨0x200F0008, 2, 1, 0, .ro, .pp⟩
def PWR_ALARM_RAIL_SEEN : Fld := ⟨0x200F0008, 3, 7, 0, .w1c, .pp⟩
def PWR_ALARM_THERMAL_SEEN : Fld := ⟨0x200F0008, 10, 1, 0, .w1c, .pp⟩
def PWR_ALARM_CRIT_SEEN : Fld := ⟨0x200F0008, 11, 1, 0, .w1c, .pp⟩
def PWR_TEMP_TEMP : Fld := ⟨0x200F000C, 0, 12, 0, .ro, .pp⟩
def PWR_THERM_ALARM_C : Fld := ⟨0x200F0010, 0, 8, 108, .rw, .pp⟩
def PWR_THERM_HYST : Fld := ⟨0x200F0010, 8, 4, 5, .rw, .pp⟩
def PWR_WAKE_EN_MASK : Fld := ⟨0x200F0014, 0, 20, 0, .rw, .pp⟩
def PWR_WAKE_STAT_SOURCE : Fld := ⟨0x200F0018, 0, 8, 0, .ro, .pp⟩
def PWR_CFG_WAKE_LOCK_S : Fld := ⟨0x200F001C, 0, 8, 30, .rw, .pp⟩

/-- The register rows of the SYS_ block. -/
def rowsSys : List RegRow := [
  ⟨0x20000010, 1, 0, 1, 0, fun _ _ => [SYS_CAP_VARIANT, SYS_CAP_TILES, SYS_CAP_ASH_BANKS, SYS_CAP_AMP, SYS_CAP_MACS, SYS_CAP_SOERI_LANES, SYS_CAP_AES3]⟩,
  ⟨0x20000000, 1, 0, 1, 0, fun _ _ => [SYS_BOOT_STAT_BOOT_SRC, SYS_BOOT_STAT_SEAT_MAP, SYS_BOOT_STAT_SLOT, SYS_BOOT_STAT_FALLBACK, SYS_BOOT_STAT_TRIAL, SYS_BOOT_STAT_CONFIRM, SYS_BOOT_STAT_TRIAL_FAIL, SYS_BOOT_STAT_FROM_COPY]⟩,
  ⟨0x20000004, 1, 0, 1, 0, fun _ _ => [SYS_REMAP_REMAP]⟩,
  ⟨0x20000008, 1, 0, 1, 0, fun _ _ => [SYS_WDT_CTL_TIMEOUT, SYS_WDT_CTL_ESCALATE, SYS_WDT_CTL_LOCK, SYS_WDT_CTL_DBG_PAUSE, SYS_WDT_CTL_PAIRWORD]⟩,
  ⟨0x2000000C, 1, 0, 1, 0, fun _ _ => [SYS_RESET_CAUSE_POR, SYS_RESET_CAUSE_PIN, SYS_RESET_CAUSE_WATCHDOG, SYS_RESET_CAUSE_LOCKSTEP, SYS_RESET_CAUSE_SOFTWARE, SYS_RESET_CAUSE_CTL_COUNT]⟩,
  ⟨0x20000018, 1, 0, 1, 0, fun _ _ => [SYS_WDT_KICK_KEY]⟩,
  ⟨0x2000001C, 1, 0, 1, 0, fun _ _ => [SYS_WDT_KICK_C_KEY]⟩,
  ⟨0x20000020, 1, 0, 1, 0, fun _ _ => [SYS_RESET_CTL]⟩,
  ⟨0x20000024, 1, 0, 1, 0, fun _ _ => [SYS_DEBUG_OPEN]⟩]

/-- The register rows of the LIFE_ block. -/
def rowsLife : List RegRow := [
  ⟨0x20010000, 1, 0, 1, 0, fun _ _ => [LIFE_STATUS_FABRIC_RUN, LIFE_STATUS_FW_UP, LIFE_STATUS_CTL_RESTART, LIFE_STATUS_BOOT_ROM, LIFE_STATUS_MUTED, LIFE_STATUS_EMUTE, LIFE_STATUS_DARK, LIFE_STATUS_ALERT, LIFE_STATUS_QUIET, LIFE_STATUS_MUTE_PW]⟩,
  ⟨0x20010004, 1, 0, 1, 0, fun _ _ => [LIFE_CI_CI_LO]⟩,
  ⟨0x20010008, 1, 0, 1, 0, fun _ _ => [LIFE_CI_HI_CI_HI]⟩,
  ⟨0x2001000C, 1, 0, 1, 0, fun _ _ => [LIFE_FAULT_BOOT, LIFE_FAULT_GUARD, LIFE_FAULT_ASH_FATAL, LIFE_FAULT_TILE, LIFE_FAULT_PLL, LIFE_FAULT_SUPPLY, LIFE_FAULT_THERMAL]⟩,
  ⟨0x20010010, 1, 0, 1, 0, fun _ _ => [LIFE_PAIR_STATE, LIFE_PAIR_CLAIM, LIFE_PAIR_CLAIM_IN, LIFE_PAIR_PROTECTED, LIFE_PAIR_HEARTBEAT, LIFE_PAIR_CAUSE, LIFE_PAIR_CAUSE_CI16]⟩,
  ⟨0x20010014, 1, 0, 1, 0, fun _ _ => [LIFE_CNT_PIN_RESETS, LIFE_CNT_RELEASES]⟩,
  ⟨0x20010018, 1, 0, 1, 0, fun _ _ => [LIFE_RELEASE_KEY]⟩,
  ⟨0x2001001C, 1, 0, 1, 0, fun _ _ => [LIFE_BEAT_BEAT]⟩,
  ⟨0x20010020, 4, 8, 1, 0, fun n _ => [LIFE_MUTE_MUTE n]⟩]

/-- The register rows of the VSR_ block. -/
def rowsVsr : List RegRow := [
  ⟨0x20020000, 1, 0, 1, 0, fun _ _ => [VSR_STAT_COUNT, VSR_STAT_OVERFLOW, VSR_STAT_CUTS]⟩,
  ⟨0x20020004, 1, 0, 1, 0, fun _ _ => [VSR_LOG_ADDR_ADDR]⟩,
  ⟨0x20020008, 1, 0, 1, 0, fun _ _ => [VSR_LOG_INFO_KIND, VSR_LOG_INFO_WRITE, VSR_LOG_INFO_MASTER, VSR_LOG_INFO_ID]⟩,
  ⟨0x2002000C, 1, 0, 1, 0, fun _ _ => [VSR_LOG_POP_POP]⟩]

/-- The register rows of the ASH_ block. -/
def rowsAsh : List RegRow := [
  ⟨0x20030000, 1, 0, 1, 0, fun _ _ => [ASH_STAT_FATAL, ASH_STAT_LATENT, ASH_STAT_PAIRWORD, ASH_STAT_PWR_REFUSED, ASH_STAT_MORTAR_ERR, ASH_STAT_SCRUB_LAG, ASH_STAT_FILL_DONE]⟩,
  ⟨0x20030004, 1, 0, 1, 0, fun _ _ => [ASH_CNT_CORR, ASH_CNT_UNCORR_SIG, ASH_CNT_UNCORR_OTHER]⟩,
  ⟨0x20030008, 1, 0, 1, 0, fun _ _ => [ASH_SCRUB_PERIOD]⟩,
  ⟨0x2003000C, 1, 0, 1, 0, fun _ _ => [ASH_SCRUB_STAT_SCRUB_CORR, ASH_SCRUB_STAT_SCRUB_UNCORR, ASH_SCRUB_STAT_PASSES]⟩,
  ⟨0x20030010, 1, 0, 1, 0, fun _ _ => [ASH_LOG_STAT_COUNT, ASH_LOG_STAT_OVERFLOW]⟩,
  ⟨0x20030014, 1, 0, 1, 0, fun _ _ => [ASH_LOG_ADDR_WORD]⟩,
  ⟨0x20030018, 1, 0, 1, 0, fun _ _ => [ASH_LOG_INFO_SYNDROME, ASH_LOG_INFO_ACTION, ASH_LOG_INFO_REQ, ASH_LOG_INFO_CI16]⟩,
  ⟨0x2003001C, 1, 0, 1, 0, fun _ _ => [ASH_LOG_POP_POP]⟩,
  ⟨0x20030020, 1, 0, 1, 0, fun _ _ => [ASH_INJ_ADDR_WORD, ASH_INJ_ADDR_CHK_FLIP, ASH_INJ_ADDR_ARM]⟩,
  ⟨0x20030024, 1, 0, 1, 0, fun _ _ => [ASH_INJ_DATA_DATA_FLIP]⟩,
  ⟨0x20030100, 16, 8, 1, 0, fun n _ => [ASH_PWR_RUN_STATE0 n, ASH_PWR_RUN_STATE1 n, ASH_PWR_RUN_STATE2 n, ASH_PWR_RUN_STATE3 n, ASH_PWR_RUN_STATE4 n, ASH_PWR_RUN_STATE5 n, ASH_PWR_RUN_STATE6 n, ASH_PWR_RUN_STATE7 n, ASH_PWR_REST_OFF0 n, ASH_PWR_REST_OFF1 n, ASH_PWR_REST_OFF2 n, ASH_PWR_REST_OFF3 n, ASH_PWR_REST_OFF4 n, ASH_PWR_REST_OFF5 n, ASH_PWR_REST_OFF6 n, ASH_PWR_REST_OFF7 n]⟩,
  ⟨0x20030180, 16, 4, 1, 0, fun n _ => [ASH_PWR_STAT_STATE0 n, ASH_PWR_STAT_STATE1 n, ASH_PWR_STAT_STATE2 n, ASH_PWR_STAT_STATE3 n, ASH_PWR_STAT_STATE4 n, ASH_PWR_STAT_STATE5 n, ASH_PWR_STAT_STATE6 n, ASH_PWR_STAT_STATE7 n]⟩,
  ⟨0x20030400, 64, 8, 1, 0, fun n _ => [ASH_RGN_LO_FIRST n, ASH_RGN_LO_VALID n]⟩,
  ⟨0x20030404, 64, 8, 1, 0, fun n _ => [ASH_RGN_HI_LAST n]⟩,
  ⟨0x20031000, 128, 8, 1, 0, fun n _ => [ASH_FUSEMAP_A_COL_LO n, ASH_FUSEMAP_A_USED_LO n, ASH_FUSEMAP_A_COL_HI n, ASH_FUSEMAP_A_USED_HI n]⟩,
  ⟨0x20031004, 128, 8, 1, 0, fun n _ => [ASH_FUSEMAP_B_COL_LO n, ASH_FUSEMAP_B_USED_LO n, ASH_FUSEMAP_B_COL_HI n, ASH_FUSEMAP_B_USED_HI n]⟩]

/-- The register rows of the FAB_ block. -/
def rowsFab : List RegRow := [
  ⟨0x20040100, 1, 0, 1, 0, fun _ _ => [FAB_CI_LO_CI_LO]⟩,
  ⟨0x20040104, 1, 0, 1, 0, fun _ _ => [FAB_CI_HI_CI_HI]⟩,
  ⟨0x20040108, 1, 0, 1, 0, fun _ _ => [FAB_CYC_CYCLE]⟩,
  ⟨0x20040110, 1, 0, 1, 0, fun _ _ => [FAB_CPO_CPO_NS]⟩,
  ⟨0x20040118, 1, 0, 1, 0, fun _ _ => [FAB_CI_ANCHOR_LO_ANCHOR]⟩,
  ⟨0x2004011C, 1, 0, 1, 0, fun _ _ => [FAB_CI_ANCHOR_HI_ANCHOR]⟩,
  ⟨0x20040120, 1, 0, 1, 0, fun _ _ => [FAB_TL_STATUS_RUNNING, FAB_TL_STATUS_TL_OFFSET, FAB_TL_STATUS_CPO_REJ, FAB_TL_STATUS_LATE_ARM, FAB_TL_STATUS_PAIRWORD, FAB_TL_STATUS_RM, FAB_TL_STATUS_FAMILY]⟩,
  ⟨0x20040124, 1, 0, 1, 0, fun _ _ => [FAB_TL_OFFSET_OFFSET]⟩,
  ⟨0x20041000, 32, 64, 1, 0, fun n _ => [TILE_CTL_CMD n]⟩,
  ⟨0x20041004, 32, 64, 1, 0, fun n _ => [TILE_STAT_STATE n, TILE_STAT_ACT_HALF n, TILE_STAT_SHADOW_LOCK n, TILE_STAT_SHADOW_LOCK_ERR n, TILE_STAT_ENDED n, TILE_STAT_REP_CLAMP n, TILE_STAT_PC n]⟩,
  ⟨0x20041008, 32, 64, 1, 0, fun n _ => [TILE_FAULT_CAUSE n, TILE_FAULT_PC n, TILE_FAULT_CYCLE n]⟩,
  ⟨0x2004100C, 32, 64, 1, 0, fun n _ => [TILE_ECC_CORR_CNT n, TILE_ECC_UNCORR_CNT n]⟩,
  ⟨0x20041010, 32, 64, 1, 0, fun n _ => [TILE_ECC_ADDR_ADDR n, TILE_ECC_ADDR_MEM n, TILE_ECC_ADDR_UNCORR n]⟩,
  ⟨0x20041014, 32, 64, 1, 0, fun n _ => [TILE_SATCNT_STORE_SAT n, TILE_SATCNT_ACC_SAT n]⟩,
  ⟨0x20041020, 32, 64, 8, 4, fun n m => [TILE_PGBASE_BASE n m, TILE_PGBASE_VALID n m]⟩,
  ⟨0x20041800, 32, 64, 8, 8, fun n m => [TILE_RGN_LO_FIRST n m, TILE_RGN_LO_VALID n m]⟩,
  ⟨0x20041804, 32, 64, 8, 8, fun n m => [TILE_RGN_HI_LAST n m]⟩,
  ⟨0x20040000, 1, 0, 1, 0, fun _ _ => [FAB_CTL_CMD]⟩,
  ⟨0x20040004, 1, 0, 1, 0, fun _ _ => [FAB_STAT_IMG_STATE, FAB_STAT_SHADOW_LOCK]⟩,
  ⟨0x20040008, 1, 0, 1, 0, fun _ _ => [FAB_IMG_ID_IMAGE_ID]⟩,
  ⟨0x20040010, 1, 0, 1, 0, fun _ _ => [FAB_GUARD_STAT_FAULT, FAB_GUARD_STAT_COUNT, FAB_GUARD_STAT_OVERFLOW]⟩,
  ⟨0x20040014, 1, 0, 1, 0, fun _ _ => [FAB_GUARD_INFO_CODE, FAB_GUARD_INFO_REQ, FAB_GUARD_INFO_CYCLE]⟩,
  ⟨0x20040018, 1, 0, 1, 0, fun _ _ => [FAB_GUARD_CI_CI_LO]⟩,
  ⟨0x2004001C, 1, 0, 1, 0, fun _ _ => [FAB_GUARD_POP_POP]⟩,
  ⟨0x20040200, 128, 8, 1, 0, fun n _ => [FAB_LEND_LO_LEND n]⟩,
  ⟨0x20040204, 128, 8, 1, 0, fun n _ => [FAB_LEND_HI_LEND n]⟩]

/-- The register rows of the RTE_ block. -/
def rowsRte : List RegRow := [
  ⟨0x20050000, 1, 0, 1, 0, fun _ _ => [RTE_STAT_RESYNC, RTE_STAT_PAIRWORD, RTE_STAT_PW_USE, RTE_STAT_SL_LOCK_ERR, RTE_STAT_RETARGET]⟩,
  ⟨0x20050004, 1, 0, 1, 0, fun _ _ => [RTE_CNT_CLIP_TOTAL, RTE_CNT_ACC_LIMIT]⟩,
  ⟨0x20050008, 1, 0, 1, 0, fun _ _ => [RTE_PW_LOG_INDEX, RTE_PW_LOG_TABLE, RTE_PW_LOG_CI16]⟩,
  ⟨0x2005000C, 1, 0, 1, 0, fun _ _ => [RTE_GEN_SWAPS, RTE_GEN_ACT_HALF]⟩,
  ⟨0x20050010, 1, 0, 1, 0, fun _ _ => [RTE_IDX_INDEX, RTE_IDX_SEL]⟩,
  ⟨0x20050014, 4, 4, 1, 0, fun n _ => [RTE_DATA_DATA n]⟩,
  ⟨0x20050024, 1, 0, 1, 0, fun _ _ => [RTE_SL_ROUTE_TAG, RTE_SL_ROUTE_ARMED]⟩]

/-- The register rows of the DYN_ block. -/
def rowsDyn : List RegRow := [
  ⟨0x20060000, 1, 0, 1, 0, fun _ _ => [DYN_STAT_SL_LOCK_ERR, DYN_STAT_RANGE_ERR]⟩,
  ⟨0x20060004, 1, 0, 1, 0, fun _ _ => [DYN_CNT_OUT_SAT]⟩,
  ⟨0x20060008, 1, 0, 1, 0, fun _ _ => [DYN_IDX_INDEX, DYN_IDX_SEL]⟩,
  ⟨0x20060010, 8, 4, 1, 0, fun n _ => [DYN_DATA_DATA n]⟩]

/-- The register rows of the SP_ block. -/
def rowsSp : List RegRow := [
  ⟨0x20070000, 1, 0, 1, 0, fun _ _ => [SP_OEN_LO_OEN]⟩,
  ⟨0x20070008, 1, 0, 1, 0, fun _ _ => [SP_OEN_HI_OEN]⟩,
  ⟨0x20070010, 1, 0, 1, 0, fun _ _ => [SP_STAT_PAIRWORD]⟩,
  ⟨0x20070100, 6, 8, 1, 0, fun n _ => [SP_GRP_CTL_MASTER n, SP_GRP_CTL_FRAME n, SP_GRP_CTL_PHASE n]⟩,
  ⟨0x20070104, 6, 8, 1, 0, fun n _ => [SP_GRP_STAT_WS_POS n, SP_GRP_STAT_NEAR_EDGE n, SP_GRP_STAT_CLK_LOST n, SP_GRP_STAT_CFG_ERR n, SP_GRP_STAT_SLIP n]⟩,
  ⟨0x20070400, 48, 16, 1, 0, fun n _ => [SP_LANE_CFG_EN n, SP_LANE_CFG_DIR n, SP_LANE_CFG_FMT n, SP_LANE_CFG_WL n, SP_LANE_CFG_NA_EN n, SP_LANE_CFG_ASRC_EN n, SP_LANE_CFG_ASRC n]⟩,
  ⟨0x20070404, 48, 16, 1, 0, fun n _ => [SP_LANE_BIND_SLOT_A n, SP_LANE_BIND_SLOT_B n, SP_LANE_BIND_BOUND n]⟩,
  ⟨0x20070408, 48, 16, 1, 0, fun n _ => [SP_LANE_STAT_NONAUDIO n, SP_LANE_STAT_CLK_LOST n, SP_LANE_STAT_ACTIVE n, SP_LANE_STAT_NA_HOLD n]⟩,
  ⟨0x20071000, 64, 16, 1, 0, fun n _ => [SP_ASRC_CTL_EN n, SP_ASRC_CTL_MODE n, SP_ASRC_CTL_GANG_EN n, SP_ASRC_CTL_LEADER n]⟩,
  ⟨0x20071004, 64, 16, 1, 0, fun n _ => [SP_ASRC_STAT_STATE n, SP_ASRC_STAT_RANGE n, SP_ASRC_STAT_ASRC_CONFLICT n, SP_ASRC_STAT_LEADING n, SP_ASRC_STAT_FILL n]⟩,
  ⟨0x20071008, 64, 16, 1, 0, fun n _ => [SP_ASRC_RATIO_RATIO n]⟩]

/-- The register rows of the AES_ block. -/
def rowsAes : List RegRow := [
  ⟨0x20080000, 1, 0, 1, 0, fun _ _ => [AES_OEN_OEN]⟩,
  ⟨0x20080008, 1, 0, 1, 0, fun _ _ => [AES_STAT_PAIRWORD]⟩,
  ⟨0x20080010, 1, 0, 1, 0, fun _ _ => [AES_IDX_WORD, AES_IDX_CH, AES_IDX_KIND, AES_IDX_PORT]⟩,
  ⟨0x20080014, 1, 0, 1, 0, fun _ _ => [AES_DATA_DATA]⟩,
  ⟨0x20080100, 8, 16, 1, 0, fun n _ => [AES_RX_CTL_EN n, AES_RX_CTL_NA_EN n, AES_RX_CTL_ASRC_EN n, AES_RX_CTL_ASRC n, AES_RX_CTL_SLOT_A n]⟩,
  ⟨0x20080104, 8, 16, 1, 0, fun n _ => [AES_RX_STAT_LOCK n, AES_RX_STAT_RATE n, AES_RX_STAT_GRADE n, AES_RX_STAT_NONAUDIO n, AES_RX_STAT_V_SEEN n]⟩,
  ⟨0x20080108, 8, 16, 1, 0, fun n _ => [AES_RX_CNT_PARITY_ERR n, AES_RX_CNT_SLIP n, AES_RX_CNT_CS_CRC_ERR n]⟩,
  ⟨0x2008010C, 8, 16, 1, 0, fun n _ => [AES_TX_CTL_EN n, AES_TX_CTL_CRC_GEN n, AES_TX_CTL_V_OUT n, AES_TX_CTL_TX_COMMIT n, AES_TX_CTL_TX_FOLLOW n, AES_TX_CTL_FOLLOW_RX n, AES_TX_CTL_ASRC n, AES_TX_CTL_SLOT_A n]⟩]

/-- The register rows of the MAC_ block. -/
def rowsMac : List RegRow := [
  ⟨0x20090000, 4, 16384, 1, 0, fun n _ => [MAC_CTL_EN n, MAC_CTL_MODE n, MAC_CTL_RATE_SRC n, MAC_CTL_FIXED_RATE n, MAC_CTL_LINK_FORCE n, MAC_CTL_RATE_EN n, MAC_CTL_BC_EN n, MAC_CTL_MC_PASS n, MAC_CTL_STRIP_EN n]⟩,
  ⟨0x20090004, 4, 16384, 1, 0, fun n _ => [MAC_LINK_LINK_UP n, MAC_LINK_RATE n, MAC_LINK_PCS_LOCK n, MAC_LINK_RATE_MISMATCH n, MAC_LINK_PAUSED n, MAC_LINK_WD_HOLD n]⟩,
  ⟨0x20090008, 4, 16384, 1, 0, fun n _ => [MAC_IRQ_LINK_CHG n, MAC_IRQ_RX_DONE n, MAC_IRQ_TX_DONE n, MAC_IRQ_NOBUF n, MAC_IRQ_PAUSE_WD n, MAC_IRQ_CNT_HALF n, MAC_IRQ_CNT_OVF n, MAC_IRQ_CFG_ERR n]⟩,
  ⟨0x2009000C, 4, 16384, 1, 0, fun n _ => [MAC_IRQ_EN_LINK_CHG n, MAC_IRQ_EN_RX_DONE n, MAC_IRQ_EN_TX_DONE n, MAC_IRQ_EN_NOBUF n, MAC_IRQ_EN_PAUSE_WD n, MAC_IRQ_EN_CNT_HALF n, MAC_IRQ_EN_CNT_OVF n, MAC_IRQ_EN_CFG_ERR n]⟩,
  ⟨0x20090010, 4, 16384, 1, 0, fun n _ => [MAC_MAXLEN_RX_MAX n, MAC_MAXLEN_TX_CTRL_MAX n]⟩,
  ⟨0x20090014, 4, 16384, 1, 0, fun n _ => [MAC_PAUSE_PAUSE_EN n, MAC_PAUSE_WD_US n]⟩,
  ⟨0x20090018, 4, 16384, 1, 0, fun n _ => [MAC_PHY_PHYAD n, MAC_PHY_CL45 n, MAC_PHY_DEVAD n, MAC_PHY_INTERVAL n, MAC_PHY_REG n]⟩,
  ⟨0x2009001C, 4, 16384, 1, 0, fun n _ => [MAC_PHY_MAP_LINK_BIT n, MAC_PHY_MAP_SPD_SHIFT n, MAC_PHY_MAP_CODE0 n, MAC_PHY_MAP_CODE1 n, MAC_PHY_MAP_CODE2 n, MAC_PHY_MAP_CODE3 n]⟩,
  ⟨0x20090040, 4, 16384, 2, 16, fun n m => [MAC_RX_BASE_BASE n m]⟩,
  ⟨0x20090060, 4, 16384, 2, 16, fun n m => [MAC_TX_BASE_BASE n m]⟩,
  ⟨0x20090044, 4, 16384, 2, 16, fun n m => [MAC_RX_CFG_EN n m, MAC_RX_CFG_SIZE n m]⟩,
  ⟨0x20090064, 4, 16384, 2, 16, fun n m => [MAC_TX_CFG_EN n m, MAC_TX_CFG_SIZE n m]⟩,
  ⟨0x20090048, 4, 16384, 2, 16, fun n m => [MAC_RX_HEAD_HEAD n m]⟩,
  ⟨0x20090068, 4, 16384, 2, 16, fun n m => [MAC_TX_HEAD_HEAD n m]⟩,
  ⟨0x2009006C, 4, 16384, 2, 16, fun n m => [MAC_TX_TAG_TCI n m, MAC_TX_TAG_TAG_INS n m]⟩,
  ⟨0x20090100, 4, 16384, 32, 8, fun n m => [MAC_AF_LO_ADDR_LO n m]⟩,
  ⟨0x20090104, 4, 16384, 32, 8, fun n m => [MAC_AF_HI_ADDR_HI n m, MAC_AF_HI_VALID n m]⟩,
  ⟨0x20090200, 4, 16384, 48, 4, fun n m => [MAC_CNT_COUNT n m]⟩,
  ⟨0x20090300, 4, 16384, 48, 4, fun n m => [MAC_SNAP_COUNT n m]⟩,
  ⟨0x200903C0, 4, 16384, 1, 0, fun n _ => [MAC_CNT_CTL_SNAP n]⟩,
  ⟨0x2009F000, 2, 16, 1, 0, fun n _ => [MDIO_CTL_DIV n]⟩,
  ⟨0x2009F004, 2, 16, 1, 0, fun n _ => [MDIO_CMD_PHYAD n, MDIO_CMD_DEVAD n, MDIO_CMD_CL45 n, MDIO_CMD_OP n, MDIO_CMD_BUSY n]⟩,
  ⟨0x2009F008, 2, 16, 1, 0, fun n _ => [MDIO_DATA_DATA n]⟩]

/-- The register rows of the STR_ block. -/
def rowsStr : List RegRow := [
  ⟨0x200A0000, 1, 0, 1, 0, fun _ _ => [STR_STAT_CLS_CONFLICT, STR_STAT_CFG_ERR, STR_STAT_EVQ_OVF, STR_STAT_EVQ_COUNT]⟩,
  ⟨0x200A0004, 1, 0, 1, 0, fun _ _ => [STR_CNT_IP_HDR_ERR]⟩,
  ⟨0x200A0008, 1, 0, 1, 0, fun _ _ => [STR_EVQ_STREAM, STR_EVQ_TX, STR_EVQ_KIND, STR_EVQ_CI16]⟩,
  ⟨0x200A000C, 1, 0, 1, 0, fun _ _ => [STR_EVQ_POP_POP]⟩,
  ⟨0x200A0010, 1, 0, 1, 0, fun _ _ => [STR_IDX_INDEX, STR_IDX_SEL]⟩,
  ⟨0x200A0014, 8, 4, 1, 0, fun n _ => [STR_DATA_DATA n]⟩,
  ⟨0x200A0040, 4, 8, 1, 0, fun n _ => [STR_IP_SRC_IP n]⟩,
  ⟨0x200A0044, 4, 8, 1, 0, fun n _ => [STR_IPCFG_TTL n]⟩]

/-- The register rows of the PTP_ block. -/
def rowsPtp : List RegRow := [
  ⟨0x200B0000, 1, 0, 1, 0, fun _ _ => [PTP_CTL_ONE_STEP]⟩,
  ⟨0x200B0004, 1, 0, 1, 0, fun _ _ => [PTP_STAT_INC_REJ, PTP_STAT_ADJ_REJ, PTP_STAT_TICK_LOST, PTP_STAT_COARSE]⟩,
  ⟨0x200B0008, 1, 0, 1, 0, fun _ _ => [PTP_INC_LO_INC_FRAC]⟩,
  ⟨0x200B000C, 1, 0, 1, 0, fun _ _ => [PTP_INC_HI_INC_NS]⟩,
  ⟨0x200B0010, 1, 0, 1, 0, fun _ _ => [PTP_TIME_FRAC_FRAC]⟩,
  ⟨0x200B0014, 1, 0, 1, 0, fun _ _ => [PTP_TIME_NS_NS]⟩,
  ⟨0x200B0018, 1, 0, 1, 0, fun _ _ => [PTP_TIME_SEC_LO_SEC]⟩,
  ⟨0x200B001C, 1, 0, 1, 0, fun _ _ => [PTP_TIME_SEC_HI_SEC]⟩,
  ⟨0x200B0020, 1, 0, 1, 0, fun _ _ => [PTP_LIN_LO_LIN]⟩,
  ⟨0x200B0024, 1, 0, 1, 0, fun _ _ => [PTP_LIN_HI_LIN]⟩,
  ⟨0x200B0030, 1, 0, 1, 0, fun _ _ => [PTP_ADJ_NS_NS]⟩,
  ⟨0x200B0034, 1, 0, 1, 0, fun _ _ => [PTP_ADJ_SEC_LO_SEC]⟩,
  ⟨0x200B0038, 1, 0, 1, 0, fun _ _ => [PTP_ADJ_SEC_HI_SEC]⟩,
  ⟨0x200B003C, 1, 0, 1, 0, fun _ _ => [PTP_ADJ_CTL_OP, PTP_ADJ_CTL_NEG]⟩,
  ⟨0x200B0040, 1, 0, 1, 0, fun _ _ => [PTP_CSTAMP_CI_CI]⟩,
  ⟨0x200B0044, 1, 0, 1, 0, fun _ _ => [PTP_CSTAMP_LIN_LO_LIN]⟩,
  ⟨0x200B0048, 1, 0, 1, 0, fun _ _ => [PTP_CSTAMP_LIN_HI_LIN, PTP_CSTAMP_LIN_HI_SUBNS]⟩,
  ⟨0x200B0080, 4, 8, 1, 0, fun n _ => [PTP_RXLAT_LAT n]⟩,
  ⟨0x200B0084, 4, 8, 1, 0, fun n _ => [PTP_TXLAT_LAT n]⟩,
  ⟨0x200B0100, 8, 32, 1, 0, fun n _ => [PTPO_START_LO_START n]⟩,
  ⟨0x200B0104, 8, 32, 1, 0, fun n _ => [PTPO_START_HI_START n]⟩,
  ⟨0x200B0108, 8, 32, 1, 0, fun n _ => [PTPO_PERIOD_PERIOD n]⟩,
  ⟨0x200B010C, 8, 32, 1, 0, fun n _ => [PTPO_WIDTH_WIDTH n]⟩,
  ⟨0x200B0110, 8, 32, 1, 0, fun n _ => [PTPO_CTL_ARM n, PTPO_CTL_POL n, PTPO_CTL_CLAIM_GATE n, PTPO_CTL_LATE n, PTPO_CTL_SKIP_CNT n]⟩,
  ⟨0x200B0200, 8, 16, 1, 0, fun n _ => [PTPI_CTL_EN n, PTPI_CTL_EDGE n]⟩,
  ⟨0x200B0204, 8, 16, 1, 0, fun n _ => [PTPI_STAT_COUNT n, PTPI_STAT_OVF n]⟩,
  ⟨0x200B0208, 8, 16, 1, 0, fun n _ => [PTPI_FIFO_LO_LIN n]⟩,
  ⟨0x200B020C, 8, 16, 1, 0, fun n _ => [PTPI_FIFO_HI_LIN n, PTPI_FIFO_HI_RISE n]⟩]

/-- The register rows of the CLK_ block. -/
def rowsClk : List RegRow := [
  ⟨0x200C0000, 1, 0, 1, 0, fun _ _ => [CLK_SEL_SEL_MODE, CLK_SEL_FORCE_REF, CLK_SEL_REVERTIVE, CLK_SEL_FAMILY]⟩,
  ⟨0x200C0008, 1, 0, 1, 0, fun _ _ => [CLK_STAT_STATE, CLK_STAT_SELECTED, CLK_STAT_SWITCHING, CLK_STAT_BLEEDING, CLK_STAT_STEER, CLK_STAT_HO_VALID, CLK_STAT_QL_OUT, CLK_STAT_SYN_LOCK]⟩,
  ⟨0x200C000C, 1, 0, 1, 0, fun _ _ => [CLK_ALARM_SWITCH, CLK_ALARM_HOLDOVER, CLK_ALARM_LOST, CLK_ALARM_DRIFT, CLK_ALARM_PLL_UNLOCK, CLK_ALARM_XO_LOST, CLK_ALARM_BAND_FAIL, CLK_ALARM_PAIRWORD, CLK_ALARM_OPEN_TMO, CLK_ALARM_BW_CLAMP, CLK_ALARM_CFG_ERR, CLK_ALARM_PPS_LOST]⟩,
  ⟨0x200C0010, 1, 0, 1, 0, fun _ _ => [CLK_DPLL_CTL_BW, CLK_DPLL_CTL_STEER, CLK_DPLL_CTL_KEEP, CLK_DPLL_CTL_BLEED_SLEW, CLK_DPLL_CTL_HO_QL, CLK_DPLL_CTL_LOCK_NS]⟩,
  ⟨0x200C0014, 1, 0, 1, 0, fun _ _ => [CLK_FREQ_FREQ]⟩,
  ⟨0x200C0018, 1, 0, 1, 0, fun _ _ => [CLK_PHASE_ERR_ERR, CLK_PHASE_ERR_SEQ]⟩,
  ⟨0x200C001C, 1, 0, 1, 0, fun _ _ => [CLK_HOLDOVER_HO_FREQ]⟩,
  ⟨0x200C0020, 1, 0, 1, 0, fun _ _ => [CLK_BUILDOUT_B]⟩,
  ⟨0x200C0024, 1, 0, 1, 0, fun _ _ => [CLK_PSTEP_STEP, CLK_PSTEP_PS_RATE]⟩,
  ⟨0x200C0028, 1, 0, 1, 0, fun _ _ => [CLK_XO_TRIM_TRIM]⟩,
  ⟨0x200C002C, 1, 0, 1, 0, fun _ _ => [CLK_AES11_QL_G1_QL, CLK_AES11_QL_G2_QL]⟩,
  ⟨0x200C0040, 8, 4, 1, 0, fun n _ => [CLK_PTPQ_CLASS_MIN n, CLK_PTPQ_CLASS_MAX n, CLK_PTPQ_ACC_MAX n, CLK_PTPQ_QL n, CLK_PTPQ_VALID n]⟩,
  ⟨0x200C0060, 1, 0, 1, 0, fun _ _ => [CLK_REF0_ANN_CLASS, CLK_REF0_ANN_ACCURACY, CLK_REF0_ANN_ANN_VALID, CLK_REF0_ANN_SERVO_LOCK]⟩,
  ⟨0x200C0100, 8, 32, 1, 0, fun n _ => [CLK_REF_CFG_EN n, CLK_REF_CFG_PRIO n, CLK_REF_CFG_QL_HOST n, CLK_REF_CFG_WIN n]⟩,
  ⟨0x200C0104, 8, 32, 1, 0, fun n _ => [CLK_REF_TIME_DQ n, CLK_REF_TIME_WTR n]⟩,
  ⟨0x200C0108, 8, 32, 1, 0, fun n _ => [CLK_REF_DIVN_N n]⟩,
  ⟨0x200C010C, 8, 32, 1, 0, fun n _ => [CLK_REF_DIVM_M n, CLK_REF_DIVM_REF_OFS n]⟩,
  ⟨0x200C0110, 8, 32, 1, 0, fun n _ => [CLK_REF_STAT_STATE n, CLK_REF_STAT_QL_EFF n, CLK_REF_STAT_DRIFT_WARN n]⟩,
  ⟨0x200C0114, 8, 32, 1, 0, fun n _ => [CLK_REF_FREQ_OFFSET n]⟩,
  ⟨0x200C0200, 1, 0, 1, 0, fun _ _ => [CLK_SYN_CTL_EN]⟩,
  ⟨0x200C0204, 1, 0, 1, 0, fun _ _ => [CLK_SYN_STAT_LOCK, CLK_SYN_STAT_COAST, CLK_SYN_STAT_BAND, CLK_SYN_STAT_VT_MARGIN, CLK_SYN_STAT_UNLOCK_CNT]⟩,
  ⟨0x200C0208, 1, 0, 1, 0, fun _ _ => [CLK_SYN_NINT_NINT]⟩,
  ⟨0x200C020C, 1, 0, 1, 0, fun _ _ => [CLK_SYN_NFRAC_NFRAC]⟩,
  ⟨0x200C0210, 1, 0, 1, 0, fun _ _ => [CLK_CAL_CTL_BAND, CLK_CAL_CTL_RAIL, CLK_CAL_CTL_START, CLK_CAL_CTL_BUSY]⟩,
  ⟨0x200C0214, 1, 0, 1, 0, fun _ _ => [CLK_CAL_FREQ_FREQ, CLK_CAL_FREQ_VALID]⟩,
  ⟨0x200C0218, 1, 0, 1, 0, fun _ _ => [CLK_BAND_IDX_INDEX]⟩,
  ⟨0x200C021C, 1, 0, 1, 0, fun _ _ => [CLK_BAND_DATA_F_LOW, CLK_BAND_DATA_F_HIGH]⟩,
  ⟨0x200C0300, 1, 0, 1, 0, fun _ _ => [CLK_OEN_MCLKO, CLK_OEN_WCO, CLK_OEN_SDMCLK]⟩,
  ⟨0x200C0310, 4, 4, 1, 0, fun n _ => [CLK_MCLK_CFG_EN n, CLK_MCLK_CFG_MULT n, CLK_MCLK_CFG_K n]⟩,
  ⟨0x200C0320, 2, 4, 1, 0, fun n _ => [CLK_WCO_CFG_EN n, CLK_WCO_CFG_K n, CLK_WCO_CFG_ALIGN_SRC n, CLK_WCO_CFG_TRACK n, CLK_WCO_CFG_OFFSET n]⟩,
  ⟨0x200C0328, 1, 0, 1, 0, fun _ _ => [CLK_SDM_CFG_DIV, CLK_SDM_CFG_EN]⟩,
  ⟨0x200C032C, 1, 0, 1, 0, fun _ _ => [CLK_CAR_CFG_X16]⟩]

/-- The register rows of the AMP_ block. -/
def rowsAmp : List RegRow := [
  ⟨0x200D0000, 1, 0, 1, 0, fun _ _ => [AMP_OEN_OEN]⟩,
  ⟨0x200D0008, 1, 0, 1, 0, fun _ _ => [AMP_CTL_EN, AMP_CTL_STAGGER, AMP_CTL_MIN_PULSE]⟩,
  ⟨0x200D000C, 1, 0, 1, 0, fun _ _ => [AMP_STAT_PAIRWORD, AMP_STAT_CFG_ERR]⟩,
  ⟨0x200D0010, 1, 0, 1, 0, fun _ _ => [AMP_CLEAR_CLEAR]⟩,
  ⟨0x200D0014, 1, 0, 1, 0, fun _ _ => [AMP_MKL_ERR_FRAME_ERR]⟩,
  ⟨0x200D0018, 1, 0, 1, 0, fun _ _ => [AMP_MKL_CFG_DISC_EN, AMP_MKL_CFG_ALLOW_3L, AMP_MKL_CFG_DT_FLOOR]⟩,
  ⟨0x200D001C, 1, 0, 1, 0, fun _ _ => [AMP_MKL_RAIL_LIM_MIN, AMP_MKL_RAIL_LIM_MAX]⟩,
  ⟨0x200D0020, 1, 0, 1, 0, fun _ _ => [AMP_MKL_IDX_MODULE, AMP_MKL_IDX_WORD]⟩,
  ⟨0x200D0024, 1, 0, 1, 0, fun _ _ => [AMP_MKL_DATA_DATA]⟩,
  ⟨0x200D0100, 32, 32, 1, 0, fun n _ => [AMP_CH_CFG_EN n, AMP_CH_CFG_SIL_PD n, AMP_CH_CFG_TRIP_POL n, AMP_CH_CFG_TRIP_FILT n]⟩,
  ⟨0x200D0104, 32, 32, 1, 0, fun n _ => [AMP_CH_SRC_SLOT n, AMP_CH_SRC_ENV_SLOT n]⟩,
  ⟨0x200D0108, 32, 32, 1, 0, fun n _ => [AMP_CH_DEST_DEST n, AMP_CH_DEST_SIL_DEST n]⟩,
  ⟨0x200D010C, 32, 32, 1, 0, fun n _ => [AMP_CH_PROT_OC_LIMIT n, AMP_CH_PROT_OC_EN n]⟩,
  ⟨0x200D0110, 32, 32, 1, 0, fun n _ => [AMP_CH_STAT_STATE n, AMP_CH_STAT_STRIKES n, AMP_CH_STAT_SHORT n, AMP_CH_STAT_TRIPS n, AMP_CH_STAT_CLIP n]⟩,
  ⟨0x200D0114, 32, 32, 1, 0, fun n _ => [AMP_CH_MEAS_I_PEAK n, AMP_CH_MEAS_V_PEAK n]⟩,
  ⟨0x200D0600, 8, 16, 1, 0, fun n _ => [AMP_GRP_ENV_V_FS n, AMP_GRP_ENV_HEADROOM n]⟩,
  ⟨0x200D0604, 8, 16, 1, 0, fun n _ => [AMP_GRP_ENV2_D n, AMP_GRP_ENV2_REL_SLEW n]⟩,
  ⟨0x200D0608, 8, 16, 1, 0, fun n _ => [AMP_GRP_SET_SETPOINT n, AMP_GRP_SET_RAIL_EN n, AMP_GRP_SET_HELD_MIN n]⟩,
  ⟨0x200D0700, 8, 4, 1, 0, fun n _ => [AMP_MOD_STAT_STATE n, AMP_MOD_STAT_THREE_LEVEL n, AMP_MOD_STAT_X16 n, AMP_MOD_STAT_DT n]⟩]

/-- The register rows of the PAIR_ block. -/
def rowsPair : List RegRow := [
  ⟨0x200E0000, 1, 0, 1, 0, fun _ _ => [PAIR_CFG_LAG, PAIR_CFG_ELIG_UNFIT, PAIR_CFG_AUTO_REJOIN, PAIR_CFG_RS_TRIES, PAIR_CFG_SKEW_MAX]⟩,
  ⟨0x200E0008, 1, 0, 1, 0, fun _ _ => [PAIR_STAT_STATE, PAIR_STAT_CLAIM, PAIR_STAT_CLAIM_IN, PAIR_STAT_ELIGIBLE, PAIR_STAT_PROTECTED, PAIR_STAT_UNIT, PAIR_STAT_PAIR_EN, PAIR_STAT_BIT_IDENT, PAIR_STAT_SKEWED, PAIR_STAT_HEARTBEAT, PAIR_STAT_UNIT_CLASH, PAIR_STAT_PAIRWORD, PAIR_STAT_PARTNER_STATE]⟩,
  ⟨0x200E000C, 1, 0, 1, 0, fun _ _ => [PAIR_CAUSE_CODE, PAIR_CAUSE_CI16]⟩,
  ⟨0x200E0010, 1, 0, 1, 0, fun _ _ => [PAIR_LINK_CFG_LANE_EN, PAIR_LINK_CFG_RATE_EN, PAIR_LINK_CFG_RETRAIN]⟩,
  ⟨0x200E0014, 1, 0, 1, 0, fun _ _ => [PAIR_LINK_STAT_LANES, PAIR_LINK_STAT_RATE, PAIR_LINK_STAT_UP, PAIR_LINK_STAT_TRAINING, PAIR_LINK_STAT_BELOW_BUDGET]⟩,
  ⟨0x200E0018, 1, 0, 1, 0, fun _ _ => [PAIR_LINK_DELAY_DELAY]⟩,
  ⟨0x200E001C, 1, 0, 1, 0, fun _ _ => [PAIR_SKEW_SKEW]⟩,
  ⟨0x200E0020, 1, 0, 1, 0, fun _ _ => [PAIR_BUDGET_BUDGET]⟩,
  ⟨0x200E0024, 1, 0, 1, 0, fun _ _ => [PAIR_REPLAY_CI_CI]⟩,
  ⟨0x200E0028, 1, 0, 1, 0, fun _ _ => [PAIR_RESTATE_RUNNING, PAIR_RESTATE_FAILED, PAIR_RESTATE_PASS]⟩,
  ⟨0x200E002C, 1, 0, 1, 0, fun _ _ => [PAIR_CNT_REC_MISSING, PAIR_CNT_RETRAINS, PAIR_CNT_DIGEST_ERR]⟩,
  ⟨0x200E0030, 1, 0, 1, 0, fun _ _ => [PAIR_CNT2_RESENDS, PAIR_CNT2_REC_HDR_ERR]⟩]

/-- The register rows of the PWR_ block. -/
def rowsPwr : List RegRow := [
  ⟨0x200F0000, 1, 0, 1, 0, fun _ _ => [PWR_STAT_STATE, PWR_STAT_WOKE]⟩,
  ⟨0x200F0004, 1, 0, 1, 0, fun _ _ => [PWR_CTL_FAB, PWR_CTL_ENTER]⟩,
  ⟨0x200F0008, 1, 0, 1, 0, fun _ _ => [PWR_ALARM_SUPPLY, PWR_ALARM_THERMAL, PWR_ALARM_CRIT, PWR_ALARM_RAIL_SEEN, PWR_ALARM_THERMAL_SEEN, PWR_ALARM_CRIT_SEEN]⟩,
  ⟨0x200F000C, 1, 0, 1, 0, fun _ _ => [PWR_TEMP_TEMP]⟩,
  ⟨0x200F0010, 1, 0, 1, 0, fun _ _ => [PWR_THERM_ALARM_C, PWR_THERM_HYST]⟩,
  ⟨0x200F0014, 1, 0, 1, 0, fun _ _ => [PWR_WAKE_EN_MASK]⟩,
  ⟨0x200F0018, 1, 0, 1, 0, fun _ _ => [PWR_WAKE_STAT_SOURCE]⟩,
  ⟨0x200F001C, 1, 0, 1, 0, fun _ _ => [PWR_CFG_WAKE_LOCK_S]⟩]

/-- The register rows of the HOST_ block. -/
def rowsHost : List RegRow := [
  ⟨0x20100100, 4, 16384, 1, 0, fun n _ => [DB_CMD_POST n]⟩,
  ⟨0x20100104, 4, 16384, 1, 0, fun n _ => [DB_STAT_CMD_BUSY n, DB_STAT_REPLY_READY n, DB_STAT_MB_OVERRUN n, DB_STAT_ATTACHED n, DB_STAT_LAST_SEQ n]⟩,
  ⟨0x20100108, 4, 16384, 1, 0, fun n _ => [EV_HEAD_HEAD n]⟩,
  ⟨0x2010010C, 4, 16384, 1, 0, fun n _ => [EV_TAIL_TAIL n]⟩,
  ⟨0x20100110, 4, 16384, 1, 0, fun n _ => [IRQ_STAT_REPLY n, IRQ_STAT_EVENT n, IRQ_STAT_LEASE n, IRQ_STAT_RESTART n, IRQ_STAT_LIFE n]⟩,
  ⟨0x20100114, 4, 16384, 1, 0, fun n _ => [IRQ_EN_EN_FW n, IRQ_EN_EN_HW n]⟩,
  ⟨0x20103000, 4, 16384, 1, 0, fun n _ => [HOST_BIND_IF n, HOST_BIND_INDEX n]⟩,
  ⟨0x20103004, 4, 16384, 1, 0, fun n _ => [HOST_WIN_WIN_BASE n]⟩,
  ⟨0x20103008, 4, 16384, 1, 0, fun n _ => [HOST_LIM_WIN_WORDS n]⟩,
  ⟨0x2010300C, 4, 16384, 1, 0, fun n _ => [HOST_PERM_REL_OK n, HOST_PERM_MUTE_OK n, HOST_PERM_CTL_OK n]⟩]

/-- The rows of the block that holds an address (R317). -/
def rowsOfBlock (blk : Nat) : List RegRow :=
  match blk with
  | 0x2000 => rowsSys
  | 0x2001 => rowsLife
  | 0x2002 => rowsVsr
  | 0x2003 => rowsAsh
  | 0x2004 => rowsFab
  | 0x2005 => rowsRte
  | 0x2006 => rowsDyn
  | 0x2007 => rowsSp
  | 0x2008 => rowsAes
  | 0x2009 => rowsMac
  | 0x200A => rowsStr
  | 0x200B => rowsPtp
  | 0x200C => rowsClk
  | 0x200D => rowsAmp
  | 0x200E => rowsPair
  | 0x200F => rowsPwr
  | 0x2010 => rowsHost
  | _ => []

/-- The indexes (n, m) under which a register row has a register at an address, if it has. -/
def RegRow.indexAt (r : RegRow) (a : Nat) : Option (Nat × Nat) :=
  if a < r.base then none
  else
    let d := a - r.base
    let n := if r.s1 = 0 then 0 else d / r.s1
    let d1 := d - n * r.s1
    let m := if r.s2 = 0 then 0 else d1 / r.s2
    if n < r.n1 ∧ m < r.n2 ∧ d1 = m * r.s2 then some (n, m) else none

/-- The first row of a list that has a register at an address, with that register's fields. -/
def findFields (a : Nat) : List RegRow → List Fld
  | [] => []
  | r :: rs =>
    match r.indexAt a with
    | some (n, m) => r.fields n m
    | none => findFields a rs

/-- The fields of the register at a byte address; none where no register of the tables stands. -/
def fieldsAt (a : Nat) : List Fld := findFields a (rowsOfBlock (a / 0x10000))

/-- The field that a key of the register store names, if the tables have it. -/
def fieldOfKey (k : Nat) : Option Fld := (fieldsAt (k / 32)).find? (fun f => f.lo == k % 32)

end Sys2Proof.Machine
end

