-- ==== Sys2Proof/Machine/Ops.lean ====
section
/-! DEFINITION. The operations that the commands share: register fields, seats and tiles, the running rate and the CI,
interrupts and events, self-diagnosis and the schedule guard. -/

namespace Sys2Proof.Machine

/-! ## Register fields -/

/-- The key of a field in the register store. -/
def Fld.key (f : Fld) : Nat := f.addr * 32 + f.lo

/-- The value of a register field. -/
def getF (s : State) (f : Fld) : Nat := s.regs.get f.key f.reset

/-- A register field set to a value, cut to its width. -/
def putF (f : Fld) (v : Nat) (s : State) : State :=
  { s with regs := s.regs.set f.key (v % 2 ^ f.width) f.reset }

/-- Whether a field is not 0. -/
def flag (s : State) (f : Fld) : Bool := getF s f != 0

/-- A one-bit field set from a condition. -/
def putB (f : Fld) (b : Bool) (s : State) : State := putF f (b2n b) s

/-- A one-bit field set where a condition holds, else unchanged. -/
def setIf (f : Fld) (b : Bool) (s : State) : State := if b then putF f 1 s else s

/-- A counter field advanced by n, holding at its maximum. -/
def bump (f : Fld) (n : Nat) (s : State) : State := putF f (min (getF s f + n) (2 ^ f.width - 1)) s

/-- A counter field advanced by n modulo its width. -/
def wrap (f : Fld) (n : Nat) (s : State) : State := putF f (getF s f + n) s

/-- Fields set one after another. -/
def putFs (l : List (Fld × Nat)) (s : State) : State := l.foldl (fun s p => putF p.1 p.2 s) s

/-- The word that fields spell with given values. -/
def composeFields (fs : List Fld) (v : Fld → Nat) : Nat :=
  fs.foldl (fun a f => a + v f % 2 ^ f.width * 2 ^ f.lo) 0

/-- The stored word of the register at an address. -/
def regWordRaw (s : State) (a : Nat) : Nat := composeFields (fieldsAt a) (getF s)

/-- A field of a double-buffered register as the audio side sees it: the copy taken at the last boundary while the fabric
runs, the register itself while it is stopped (R14, R363). -/
def getL (s : State) (f : Fld) : Nat :=
  if flag s FAB_TL_STATUS_RUNNING then s.live.get f.key f.reset else getF s f

/-- Whether a double-buffered field is not 0 for the audio side. -/
def flagL (s : State) (f : Fld) : Bool := getL s f != 0

/-! ## Parts of the state by index -/

/-- A seat. -/
def seatOf (s : State) (n : Nat) : Seat := s.seats.get n Seat.init

/-- A seat changed. -/
def updSeat (n : Nat) (f : Seat → Seat) (s : State) : State :=
  { s with seats := s.seats.set n (f (seatOf s n)) Seat.init }

/-- A tile. -/
def tileOf (s : State) (n : Nat) : Tile := s.tiles.get n Tile.init

/-- A tile changed. -/
def updTile (n : Nat) (f : Tile → Tile) (s : State) : State :=
  { s with tiles := s.tiles.set n (f (tileOf s n)) Tile.init }

/-- A thing that leaves the block. -/
def emit (k : OutKind) (d : List Nat) (s : State) : State := { s with out := ⟨k, d⟩ :: s.out }

/-- A state after the next free value has been taken. -/
def takeFree (s : State) : Nat × State := (s.free, { s with free := s.free + 1 })

/-! ## Variant, rate and course -/

/-- The fuse-loaded capability word (R3). -/
def cap (s : State) : Nat := s.fuses.cap
/-- Number of tiles (R3). -/
def nTiles (s : State) : Nat := bits (cap s) 2 6
/-- Number of Ashlar banks (R3). -/
def nBanks (s : State) : Nat := bits (cap s) 8 8
/-- Whether the amplifier drive unit is present (R3). -/
def hasAmp (s : State) : Bool := bitOf (cap s) 16
/-- Number of MACs (R3). -/
def nMacs (s : State) : Nat := bits (cap s) 17 3
/-- Number of AES3 transceivers (R3). -/
def nAes (s : State) : Nat := bits (cap s) 23 4
/-- Maximum Soeri lanes (R3). -/
def nSoeri (s : State) : Nat := bits (cap s) 20 3
/-- Whether the part is the smaller die option (R1): VT8408-N. -/
def isSmall (s : State) : Bool := bits (cap s) 0 2 == 2
/-- Number of serial lanes (R1). -/
def nLanes (s : State) : Nat := if isSmall s then 24 else 48
/-- Number of clock groups (R1). -/
def nGroups (s : State) : Nat := if isSmall s then 3 else 6
/-- Number of ASRC instances (R1). -/
def nAsrc (s : State) : Nat := if isSmall s then 32 else 64
/-- Number of receive streams (R1). -/
def nRxs (s : State) : Nat := if isSmall s then 512 else 1024
/-- Number of transmit streams (R1). -/
def nTxs (s : State) : Nat := if isSmall s then 256 else 512
/-- Route crosspoint ceiling (R1). -/
def maxXp (s : State) : Nat := if isSmall s then 8192 else 16384
/-- Dynamics ceiling at 1x (R1). -/
def maxDyn (s : State) : Nat := if isSmall s then 512 else 1024
/-- First staging bank of the firmware partition (R115). -/
def partBank (s : State) : Nat := if isSmall s then 60 else 120
/-- The save-area bank (R115). -/
def saveBank (s : State) : Nat := if isSmall s then 62 else 126

/-- Whether the fabric runs courses. -/
def running (s : State) : Bool := flag s FAB_TL_STATUS_RUNNING
/-- Whether the engines work: the fabric runs and no gap of a cut-over is in progress (R133). -/
def enginesOn (s : State) : Bool := running s && getF s FAB_STAT_IMG_STATE != 3
/-- The base rate of a family (R22). -/
def baseRate (family : Nat) : Nat := if family = 0 then 48000 else 44100
/-- The rate multiple in force; 0 while stopped. -/
def rmOf (s : State) : Nat := getF s FAB_TL_STATUS_RM
/-- The running rate in Hz (R22); 0 while stopped. -/
def fsOf (s : State) : Nat := baseRate (getF s FAB_TL_STATUS_FAMILY) * rmOf s
/-- Fabric cycles in a course (R22). -/
def courseLen (s : State) : Nat := if rmOf s = 0 then 24576 else 24576 / rmOf s

/-- PTP time in units of 2^-32 ns (R220). -/
def ptpUnits (p : PtpCount) : Nat := (p.sec * 1000000000 + p.ns) * 4294967296 + p.frac

/-- floor((t - CPO) × fs) with t in units of 2^-32 ns (R23); times before CPO count as 0. -/
def ciAt (t cpo fs : Nat) : Nat := (t - cpo * 4294967296) * fs / (1000000000 * 4294967296)

/-- The running CI modulo 2^64. -/
def ciWrap (n : Nat) : Nat := n % 18446744073709551616

/-! ## Interrupts -/

/-- The IRQ_STAT bits of a seat in order (R341). -/
def irqField (n bit : Nat) : Fld :=
  match bit with
  | 0 => IRQ_STAT_REPLY n
  | 1 => IRQ_STAT_EVENT n
  | 2 => IRQ_STAT_LEASE n
  | 3 => IRQ_STAT_RESTART n
  | _ => IRQ_STAT_LIFE n

/-- IRQ_EN of a seat as one number (R341). -/
def irqEn (s : State) (n : Nat) : Nat := getF s (IRQ_EN_EN_FW n) + 8 * getF s (IRQ_EN_EN_HW n)

/-- IRQ_STAT of a seat as one number. -/
def irqStat (s : State) (n : Nat) : Nat :=
  ofBits ((List.range 5).map (fun b => flag s (irqField n b)))

/-- Whether HINTn_n is asserted (R342). -/
def hint (s : State) (n : Nat) : Bool := (irqStat s n &&& irqEn s n) != 0

/-- An IRQ_STAT bit set; an enabled bit that rises sends its MSI-X vector once (R342). -/
def irq (n bit : Nat) (s : State) : State :=
  if flag s (irqField n bit) then s
  else
    let s1 := putF (irqField n bit) 1 s
    if bitOf (irqEn s n) bit && getF s (HOST_BIND_IF n) == 1 then emit .msix [n, bit] s1 else s1

/-- An IRQ_STAT bit set in every seat. -/
def irqAll (bit : Nat) (s : State) : State := irq 3 bit (irq 2 bit (irq 1 bit (irq 0 bit s)))

/-! ## The lifeline's own fields -/

/-- The present tile-fault summary (R355): some tile FAULTED. -/
def anyTileFault (s : State) : Bool := (List.range 32).any (fun n => getF s (TILE_STAT_STATE n) == 3)

/-- LIFE_FAULT as a word (R355). -/
def lifeFault (s : State) : Nat :=
  getF s LIFE_FAULT_BOOT + 256 * getF s FAB_GUARD_STAT_FAULT + 512 * getF s ASH_STAT_FATAL
    + 1024 * b2n (anyTileFault s) + 2048 * getF s LIFE_FAULT_PLL + 4096 * getF s LIFE_FAULT_SUPPLY
    + 8192 * getF s LIFE_FAULT_THERMAL

/-- What the LIFE interrupt watches (R341): CLAIM, DARK, MUTED and the LIFE_FAULT fields. -/
def lifeSnap (s : State) : Nat × Nat × Nat × Nat :=
  (getF s PAIR_STAT_CLAIM, getF s LIFE_STATUS_DARK, getF s LIFE_STATUS_MUTED, lifeFault s)

/-- A change after which LIFE is raised to every seat if anything it watches has changed. -/
def watchLife (f : State → State) (s : State) : State :=
  let s1 := f s
  if lifeSnap s1 = lifeSnap s then s1 else irqAll 4 s1

/-- LIFE_STATUS.ALERT from its causes (R5, R221, R257, R327, R396, R397): a boot fault, or a PLL, supply, thermal or tick
condition now present. -/
def setAlert (s : State) : State :=
  putB LIFE_STATUS_ALERT
    (getF s LIFE_FAULT_BOOT != 0 || flag s LIFE_FAULT_PLL || flag s LIFE_FAULT_SUPPLY || flag s LIFE_FAULT_THERMAL
      || flag s PTP_STAT_TICK_LOST) s

/-! ## Events -/

/-- Whether a seat holds a live lease (R341). -/
def attached (s : State) (n : Nat) : Bool := flag s (DB_STAT_ATTACHED n)

/-- The sixteen words of a ring entry (R347). -/
def ringEntry (num : Nat) (e : Ev) : List Nat :=
  let w0 := e.code + 65536 * (4 * e.words.length)
  let body := [w0, not32 w0, num, lo32 e.ci] ++ (e.words.map lo32 ++ List.replicate (11 - e.words.length) 0)
  body ++ [crc32c (wordsToBytes body)]

/-- Words written into a seat's mailbox memory from a byte offset of its view. -/
def putMail (off : Nat) : List Nat → Seat → Seat
  | [], t => t
  | w :: ws, t => putMail (off + 4) ws { t with mail := t.mail.set (off / 4) (lo32 w) 0 }

/-- Words read from a seat's mailbox memory. -/
def getMail (t : Seat) (off n : Nat) : List Nat := (List.range n).map (fun i => t.mail.get (off / 4 + i) 0)

/-- Entries of the ring not yet consumed. -/
def ringUsed (s : State) (n : Nat) : Nat := (getF s (EV_HEAD_HEAD n) + 65536 - getF s (EV_TAIL_TAIL n)) % 65536

/-- An event written into a seat's ring: the entry, then HEAD, then EVENT (R347). A UDP seat gets it as a datagram (R340). -/
def writeRing (n : Nat) (e : Ev) (s : State) : State :=
  let h := getF s (EV_HEAD_HEAD n)
  let ws := ringEntry h e
  if getF s (HOST_BIND_IF n) = 3 then
    wrap (EV_HEAD_HEAD n) 1 (wrap (EV_TAIL_TAIL n) 1
      (emit .datagram (getF s (HOST_BIND_INDEX n) :: (seatOf s n).evAddr :: (seatOf s n).evPort :: ws) s))
  else irq n 1 (wrap (EV_HEAD_HEAD n) 1 (updSeat n (putMail (0x2000 + 64 * (h % 64)) ws) s))

/-- An event for one seat: into the ring, the hold queue of 192, or counted as dropped (R347). -/
def raiseTo (n : Nat) (e : Ev) (s : State) : State :=
  if !attached s n then s
  else
    let t := seatOf s n
    if t.dropped > 0 then updSeat n (fun t => { t with dropped := t.dropped + 1 }) s
    else if t.hold.isEmpty && ringUsed s n < 64 then writeRing n e s
    else if t.hold.length < 192 then updSeat n (fun t => { t with hold := t.hold ++ [e] }) s
    else updSeat n (fun t => { t with dropped := 1 }) s

/-- Held events moved into a ring that has room, then the EV_LOST entry once the hold queue has drained (R347). -/
def pumpEvents (n : Nat) : Nat → State → State
  | 0, s => s
  | k + 1, s =>
    let t := seatOf s n
    if ringUsed s n ≥ 64 then s
    else match t.hold with
      | e :: rest => pumpEvents n k (writeRing n e (updSeat n (fun t => { t with hold := rest }) s))
      | [] =>
        if t.dropped = 0 then s
        else writeRing n ⟨1, [t.dropped], s.fab.ci⟩ (updSeat n (fun t => { t with dropped := 0 }) s)

/-- An event for a list of seats, in seat order. -/
def raiseSeats (ns : List Nat) (code : Nat) (ws : List Nat) (s : State) : State :=
  ns.foldl (fun s n => raiseTo n ⟨code, ws, s.fab.ci⟩ s) s

/-- An event for every attached seat (R383). -/
def raiseAll (code : Nat) (ws : List Nat) (s : State) : State := raiseSeats [0, 1, 2, 3] code ws s

/-- The key of an object: kind and index (R366). -/
def objKey (kind idx : Nat) : Nat := kind * 65536 + idx

/-- The seats that the To column "Owner" names for an object (R383): its owner, the steward for an orphan, nobody for a
free object; and every subscriber. -/
def ownerSeats (s : State) (kind idx : Nat) : List Nat :=
  let o := match s.fw.owners.find (objKey kind idx) with
    | some w => if w.orphan then [0] else [w.seat]
    | none => []
  (List.range 4).filter (fun n => o.contains n || (seatOf s n).subs.contains (kind, idx))

/-- An event for the owner of an object and its subscribers. -/
def raiseOwner (kind idx code : Nat) (ws : List Nat) (s : State) : State :=
  raiseSeats (ownerSeats s kind idx) code ws s

/-! ## Self-diagnosis, the claim and the guard -/

/-- The PAIR event (R384). -/
def pairEvent (s : State) : State :=
  raiseAll 0x0060
    [getF s PAIR_STAT_STATE + 16 * getF s PAIR_STAT_PARTNER_STATE + 256 * getF s PAIR_CAUSE_CODE
      + 65536 * getF s PAIR_STAT_PROTECTED + 131072 * getF s PAIR_STAT_BIT_IDENT, s.pair.rsCode] s

/-- PROTECTED: the unit holds the claim and the partner's record reports HOT_STANDBY (R311). -/
def setProtected (s : State) : State :=
  putB PAIR_STAT_PROTECTED (flag s PAIR_STAT_CLAIM && flag s PAIR_STAT_HEARTBEAT && getF s PAIR_STAT_PARTNER_STATE == 4) s

/-- The pair state changed, and reported (R312). -/
def setPairState (st : Nat) (s : State) : State :=
  if getF s PAIR_STAT_STATE = st then s
  else
    let s1 := putB PAIR_STAT_BIT_IDENT (st == 4) (putF PAIR_STAT_STATE st s)
    pairEvent (setProtected s1)

/-- The claim latch cleared: CLAIM_OUT falls, the drivers are off, RELEASES advances, every output is dark, state
RELEASED (R292, R294, R355). -/
def dropClaim (s : State) : State :=
  let s1 := putF PAIR_STAT_PROTECTED 0 (putF PAIR_STAT_CLAIM 0 s)
  let s2 := bump LIFE_CNT_RELEASES 1 { s1 with pair := { s1.pair with drivers := false, window := false } }
  setPairState 9 (putF LIFE_STATUS_DARK 1 s2)

/-- A self-diagnosis cause (R294): latched with the course; a claimant of a pair releases; a single unit releases only on
LIFE_RELEASE, and otherwise reports. (DEDUCED log 19) -/
def selfDiag (code : Nat) (s : State) : State :=
  watchLife (fun s =>
    let s1 := putF PAIR_CAUSE_CI16 s.fab.ci (putF PAIR_CAUSE_CODE code s)
    let s2 := if code = 9 then s1 else { s1 with pair := { s1.pair with diag := true } }
    if flag s PAIR_STAT_CLAIM && (s.pins.pairEn || code == 9) then dropClaim s2 else pairEvent s2) s

/-- A schedule-guard fault (R128): FAULT, an entry of the 8-entry log or OVERFLOW, the self-diagnosis cause, whose PAIR event
comes first (R384), and the GUARD event of an entry. (DESIGN CHOICE log 110) -/
def guardFault (code req cycle : Nat) (s : State) : State :=
  watchLife (fun s =>
    let s1 := putF FAB_GUARD_STAT_FAULT 1 s
    let e : GuardEntry := ⟨code, req, cycle, s.fab.ci % 4294967296⟩
    if s.fab.guardLog.length < 8 then
      raiseAll 0x0011 [code + 256 * req + 65536 * cycle, e.ci]
        (selfDiag 3 { s1 with fab := { s1.fab with guardLog := s1.fab.guardLog ++ [e] } })
    else selfDiag 3 (putF FAB_GUARD_STAT_OVERFLOW 1 s1)) s

/-- An entry of the Voussoir error log (R321). -/
def vsrLog (kind : Nat) (write : Bool) (master id addr : Nat) (s : State) : State :=
  let s1 := if kind = 5 then bump VSR_STAT_CUTS 1 s else s
  if s.vsr.log.length < 16 then
    { s1 with vsr := { s1.vsr with log := s1.vsr.log ++ [⟨kind, write, master, id, addr⟩] } }
  else putF VSR_STAT_OVERFLOW 1 s1

end Sys2Proof.Machine
end

