-- ==== Sys2Proof/Machine/Slots.lean ====
section
/-! DEFINITION. The slot plane: its halves, ports, producers and written bits (R37, R38, R122, R128, R129). -/

namespace Sys2Proof.Machine

/-- A half of the slot plane. -/
def halfOf (s : State) (i : Nat) : AMap Nat := if i % 2 = 0 then s.plane.half0 else s.plane.half1

/-- A slot of a half. -/
def slotIn (s : State) (i slot : Nat) : Nat := (halfOf s i).get slot 0

/-- A slot of the read half of the running course: index (CI - 1) mod 2 (R37). (DESIGN CHOICE log 113) -/
def slotRead (s : State) (slot : Nat) : Nat := slotIn s (s.fab.ci + 1) slot

/-- A slot of the write half of the running course. -/
def slotWrote (s : State) (slot : Nat) : Nat := slotIn s s.fab.ci slot

/-- A slot of the write half set. -/
def putSlot (slot v : Nat) (s : State) : State :=
  if s.fab.ci % 2 = 0 then { s with plane := { s.plane with half0 := s.plane.half0.set slot (lo32 v) 0 } }
  else { s with plane := { s.plane with half1 := s.plane.half1.set slot (lo32 v) 0 } }

/-- The slot-map entry of a line as producer + 256 × flags; a line with no entry has producer 0xFE (06, 0x06). -/
def mapEntry (c : Cal) (line : Nat) : Nat := c.map.get line 0xFE
/-- The producer of a line. -/
def producer (c : Cal) (line : Nat) : Nat := mapEntry c line % 256
/-- CHAINED. -/
def chained (c : Cal) (line : Nat) : Bool := bitOf (mapEntry c line) 8
/-- BINDABLE. -/
def bindable (c : Cal) (line : Nat) : Bool := bitOf (mapEntry c line) 9
/-- ROUTE_DEST. -/
def routeDest (c : Cal) (line : Nat) : Bool := bitOf (mapEntry c line) 10

/-- The write-port code at a slot bank and course cycle. -/
def wCode (s : State) (line c : Nat) : Nat := s.fab.cal.slotW.get (64 * (line % 32) + c % 64) 0xFE
/-- The read-port code at a slot bank and course cycle. -/
def rCode (s : State) (line c : Nat) : Nat := s.fab.cal.slotR.get (64 * (line % 32) + c % 64) 0xFE

/-- The first write: the written bit of a line set (R129). -/
def markWritten (line : Nat) (s : State) : State :=
  if s.fab.written.contains line then s else { s with fab := { s.fab with written := line :: s.fab.written } }

/-- The enabled words of a line put into the write half, and its written bit. -/
def putLine (line mask : Nat) (vals : List Nat) (s : State) : State :=
  markWritten line
    ([0, 1, 2, 3, 4, 5, 6, 7].foldl (fun s i => if bitOf mask i then putSlot (8 * line + i) (vals.getD i 0) s else s) s)

/-- A line write with its producer check (R128 code 0x13). -/
def writeLine (req line mask : Nat) (vals : List Nat) (c : Nat) (s : State) : State :=
  if producer s.fab.cal line = req then putLine line mask vals s else guardFault 0x13 req c s

/-- A write by an engine at a course cycle: port code first (0x12), then the producer. -/
def engineSlotWrite (req line mask : Nat) (vals : List Nat) (c : Nat) (s : State) : State :=
  if wCode s line c = req then writeLine req line mask vals c s else guardFault 0x12 req c s

/-- The eight words of a line of the read half. (DESIGN CHOICE log 113) -/
def readLine (s : State) (line : Nat) : List Nat := (List.range 8).map (fun i => slotRead s (8 * line + i))

/-- A read by an engine at a course cycle, always of the read half (R122). -/
def engineSlotRead (req line c : Nat) (s : State) : List Nat × State :=
  if rCode s line c = req then (readLine s line, s) else (List.replicate 8 0, guardFault 0x12 req c s)

/-- Whether the zero write of R68 has reached a chained line of a tile that is not RUNNING: a write-port cycle of the tile
in the line's bank before the reader's cycle. -/
def zeroWritten (s : State) (line c : Nat) : Bool :=
  let p := producer s.fab.cal line
  p < 32 && getF s (TILE_STAT_STATE p) != 2 &&
    (List.range 64).any (fun k => k < c && s.fab.cal.slotW.get (64 * (line % 32) + k) 0xFE == p)

/-- A chained line read in the same course (R38): zeros and SLOT_CHAIN while its written bit is clear. -/
def readChained (req line c : Nat) (s : State) : List Nat × State :=
  if s.fab.written.contains line then ((List.range 8).map (fun i => slotWrote s (8 * line + i)), s)
  else if zeroWritten s line c then (List.replicate 8 0, s)
  else (List.replicate 8 0, guardFault 0x14 req c s)

/-- A line of the write half zeroed. -/
def zeroLine (line : Nat) (s : State) : State := (List.range 8).foldl (fun s i => putSlot (8 * line + i) 0 s) s

end Sys2Proof.Machine
end

