-- ==== Sys2Proof/Machine/Route.lean ====
section
/-! DEFINITION. The route engine (R140 to R154), its safe-load members, its tables (R163), and the silence detectors
(R159 to R161). -/

namespace Sys2Proof.Machine

/-! ## Entries and records -/

/-- A pair whose complement matches. -/
def PairWord.ok (p : PairWord) : Bool := p.comp == 18446744073709551615 - p.value % 18446744073709551616

/-- A value with its complement. -/
def PairWord.mk' (v : Nat) : PairWord := ⟨v % 18446744073709551616, 18446744073709551615 - v % 18446744073709551616⟩

/-- An entry that is no crosspoint. -/
def xpNone : PairWord := PairWord.mk' 0
/-- A destination record at image load (R148): L_RELEASE 500. -/
def recReset : PairWord := PairWord.mk' (500 * 281474976710656)

/-- SRC of an entry value (R142). -/
def xpSrc (v : Nat) : Nat := bits v 0 13
/-- DEST. -/
def xpDest (v : Nat) : Nat := bits v 13 12
/-- The signed gain (R144). -/
def xpGain (v : Nat) : Int := if bitOf v 49 then -((bits v 25 24 : Nat) : Int) else ((bits v 25 24 : Nat) : Int)
/-- RAMP. -/
def xpRamp (v : Nat) : Nat := bits v 50 4
/-- LAW. -/
def xpLaw (v : Nat) : Bool := bitOf v 54
/-- VALID. -/
def xpValid (v : Nat) : Bool := bitOf v 55
/-- The ramp length in samples (R142); a reserved code is used as 0. -/
def rampLen (c : Nat) : Nat := if c = 0 ∨ 12 ≤ c then 0 else 2 ^ (c - 1)

/-- The destinations of the active image (R140): the list words by index. -/
def destWords (s : State) : List Nat := match s.fab.img with | some i => i.destSlots | none => []
/-- D. -/
def nDests (s : State) : Nat := (destWords s).length
/-- The slot of a destination (R145). -/
def destSlot (s : State) (d : Nat) : Nat := (destWords s).getD d 0 % 8192
/-- The look-ahead of a code (R145). -/
def lookAhead (w : Nat) : Nat := [0, 1, 2, 4, 8, 16, 32, 64].getD (bits w 13 3) 0
/-- The look-ahead of a destination. -/
def destLa (s : State) (d : Nat) : Nat := lookAhead ((destWords s).getD d 0)

/-- The state of a destination. -/
def dstOf (s : State) (d : Nat) : DestSt := s.rte.dst.get d DestSt.init
/-- A destination changed. -/
def updDst (d : Nat) (f : DestSt → DestSt) (s : State) : State :=
  { s with rte := { s.rte with dst := s.rte.dst.set d (f (dstOf s d)) DestSt.init } }

/-! ## Ramps (R153, R154) -/

/-- The gain that a sounding crosspoint uses in this course. -/
def rampGain (x : Sounding) : Int :=
  if x.len ≤ x.step then x.g1
  else match x.law with
    | 0 => x.g0 + rne (Nat.log2 x.len) ((x.g1 - x.g0) * ((x.step + 1 : Nat) : Int))
    | 1 => rne 128 (x.g1 * sinQuarter (x.step + 1) x.len)
    | _ => rne 128 (x.g0 * sinQuarter (x.len - (x.step + 1)) x.len)

/-- Whether a crosspoint is still ramping. -/
def Sounding.ramping (x : Sounding) : Bool := decide (x.step < x.len)

/-- The gain that a crosspoint used in the course before the boundary at which it has already been stepped. -/
def prevGain (x : Sounding) : Int := if x.step = 0 then rampGain x else rampGain { x with step := x.step - 1 }

/-- An index classed at a swap (R153): what sounds after it, and whether it was re-targeted. -/
def classify (old : Option Sounding) (v : Nat) : Option Sounding × Bool :=
  let n := rampLen (xpRamp v)
  let g := xpGain v
  let eq := xpLaw v
  match old with
  | none => if xpValid v then (some ⟨xpSrc v, xpDest v, 0, g, if eq then 1 else 0, 0, n, false⟩, false) else (none, false)
  | some o =>
    if !xpValid v then
      if n = 0 then (none, false)
      else (some ⟨o.src, o.dest, prevGain o, 0, if eq then 2 else 0, 0, n, true⟩, false)
    else if o.src = xpSrc v ∧ o.dest = xpDest v then
      if o.g1 = g then (some { o with vanish := false }, false)
      else (some ⟨o.src, o.dest, prevGain o, g, 0, 0, n, false⟩, false)
    else (some ⟨xpSrc v, xpDest v, 0, g, if eq then 1 else 0, 0, n, false⟩, true)

/-- The next course of a ramp; one that has vanished falls silent. -/
def stepSounding (p : Nat × Sounding) : Option (Nat × Sounding) :=
  if p.2.step < p.2.len then
    if p.2.step + 1 = p.2.len ∧ p.2.vanish then none else some (p.1, { p.2 with step := p.2.step + 1 })
  else if p.2.vanish then none else some p

/-- ROUTE_RAMP_STEP (R154): every ramp takes its next gain. -/
def stepRamps (s : State) : State := { s with rte := { s.rte with snd := s.rte.snd.filterMap stepSounding } }

/-! ## The route window (R141, R143, R144) -/

/-- A pair that failed its check at use: logged when it is the first, and a self-diagnosis cause. -/
def pwUse (index table : Nat) (s : State) : State :=
  let s1 := if flag s RTE_STAT_PW_USE then s
    else putFs [(RTE_PW_LOG_INDEX, index), (RTE_PW_LOG_TABLE, table), (RTE_PW_LOG_CI16, s.fab.ci)] s
  selfDiag 2 (putF RTE_STAT_PW_USE 1 s1)

/-- A sum limited to 40 bits, with whether it was (R144). -/
def limit40 (i : Int) : Int × Bool :=
  let c := clampI (-549755813888) 549755813887 i
  (c, c != i)

/-- One crosspoint summed into its destination. -/
def sumEntry (i : Nat) (x : Sounding) (s : State) : State :=
  if !(s.rte.act.get i xpNone).ok then pwUse i 0 s
  else if nDests s ≤ x.dest then s
  else
    let q := rne 22 (toS 32 (slotRead s x.src) * rampGain x)
    let a := limit40 (s.rte.acc.get x.dest 0 + q)
    let s1 := { s with rte := { s.rte with acc := s.rte.acc.set x.dest a.1 0 } }
    if a.2 then bump RTE_CNT_ACC_LIMIT 1 s1 else s1

/-- The whole route window of a course: entries 0 to ROUTE_CAP - 1 in index order. -/
def routeWindow (s : State) : State :=
  (s.rte.snd.filter (fun p => p.1 < s.fab.cal.routeCap)).foldl (fun s p => sumEntry p.1 p.2 s)
    { s with rte := { s.rte with acc := [] } }

/-- ROUTE_WINDOW (R144). -/
def execRouteWindow (s : State) : Host.Outcome State Fault Refusal :=
  if enginesOn s && s.fab.cal.routeCap != 0 && s.fab.img.isSome then .next (routeWindow s) else .next s

/-! ## From sum to slot (R146 to R149, R160, R161) -/

/-- THRESH of a record in 2^-40 dB, limited as the hardware does (R148). -/
def recThresh (v : Nat) : Int := clampI (-12288) 0 (toS 16 (bits v 0 16)) * dB / 256
/-- KNEE in 2^-40 dB. -/
def recKnee (v : Nat) : Int := (bits v 16 8 : Nat) * dB / 16
/-- LIM_EN. -/
def recLim (v : Nat) : Bool := bitOf v 24
/-- The attack time in microseconds. -/
def recAttack (v : Nat) : Nat := bits v 32 16
/-- The release time in microseconds, limited as the hardware does. -/
def recRelease (v : Nat) : Nat := 100 * max 50 (min 50000 (bits v 48 16))

/-- The record that a destination uses in this course (R143): the active one if its pair holds, else the last that did,
else the reset values; with a failure noted. -/
def useRec (d : Nat) (s : State) : Nat × State :=
  let r := s.rte.actRec.get d recReset
  if r.ok then (r.value, updDst d (fun t => { t with last := some r.value }) s)
  else (match (dstOf s d).last with | some v => v | none => recReset.value, pwUse d 1 s)

/-- The level of a magnitude with 31 fraction bits, within the tolerance of R147; zero reads -144 dBFS. -/
def peakLevel (m : Nat) (s : State) : Int × State :=
  if m = 0 then (-144 * dB, s)
  else let f := takeFree s; (levelDb m 31 + tolDb (Config.freeWord f.1).toNat, f.2)

/-- The limiter's target gain (R147). (DESIGN CHOICE log 36) -/
def limTarget (l t w : Int) : Int :=
  if 2 * (l - t) < -w then 0
  else if w < 2 * (l - t) then -(l - t)
  else if w = 0 then 0
  else -((l - t + w / 2) * (l - t + w / 2) / (2 * w))

/-- Stages 1 and 2: the sum through the look-ahead store and the coping limiter (R146, R147). -/
def limiter (d v : Nat) (sum : Int) (s : State) : Int × State :=
  let t := dstOf s d
  let la := destLa s d
  let held := (sum :: t.store).take (la + 1)
  let x := if t.store.length < la then 0 else held.getD la 0
  let mode := if recLim v then 1 else if t.lim = 0 then 0 else 2
  let g0 := if mode = 1 ∧ t.lim ≠ 1 then 0 else t.gain
  let s0 := updDst d (fun t => { t with store := held.take la }) s
  if mode = 0 then (x, updDst d (fun t => { t with lim := 0, gain := 0 }) s0)
  else
    let pl := peakLevel (held.foldl (fun m y => max m y.natAbs) 0) s0
    let target := if mode = 1 then limTarget pl.1 (recThresh v) (recKnee v) else 0
    let a := alpha (if target < g0 then recAttack v else recRelease v) (fsOf s)
    let g := smooth a g0 target
    let f := takeFree pl.2
    let y := (limit40 (applyDb x (g + tolDb (Config.freeWord f.1).toNat))).1
    (y, updDst d (fun t => { t with gain := g, lim := if mode = 2 ∧ g = 0 then 0 else mode }) f.2)

/-- The silence configuration in force. -/
def silCfg (s : State) (d : Nat) : Nat × Nat := s.rte.sil.get d (0, 0)

/-- The SILENCE event of a destination (R161, R384): the state it reports and the window of 100 ms that begins.
(DESIGN CHOICE log 127) -/
def silenceEvent (d : Nat) (silent : Bool) (ciHi : Nat) (s : State) : State :=
  raiseOwner 3 d 0x0030 [d + 65536 * b2n silent, ciHi]
    { s with fw := { s.fw with silReported := s.fw.silReported.set d (b2n silent) 0, silPending := s.fw.silPending.set d 1 0 } }

/-- A change of the silence state with its CI; within 100 ms of the last event it waits (R161). (DESIGN CHOICE log 127) -/
def silChange (d : Nat) (silent : Bool) (s : State) : State :=
  let s1 := updDst d (fun t => { t with silent := silent, quiet := 0, silCi := s.fab.ci }) s
  if s1.fw.silPending.get d 0 = 1 then s1 else silenceEvent d silent (hi32 s.fab.ci) s1

/-- Stage 4: the silence detector takes the sample (R160). (DESIGN CHOICE log 127) -/
def silenceStep (d : Nat) (y : Int) (s : State) : State :=
  let c := silCfg s d
  if !bitOf c.2 16 then s
  else
    let th := toS 16 (bits c.1 0 16)
    let wk := max th (toS 16 (bits c.1 16 16))
    let h := (bits c.2 0 16 * fsOf s + 999) / 1000
    let t := dstOf s d
    if t.silent then (if levelBelow y.natAbs wk then s else silChange d false s)
    else if levelBelow y.natAbs th then
      if h ≤ t.quiet + 1 then silChange d true s else updDst d (fun t => { t with quiet := t.quiet + 1 }) s
    else updDst d (fun t => { t with quiet := 0 }) s

/-- The factor of stage 5 in 64ths (R149): 0 while the mute is held. -/
def muteFactor (t : DestSt) : Nat := if t.mute = 0 then 64 else 65 - t.mute

/-- Stages 1 to 5 of one destination, once a course (R146). -/
def destOut (d : Nat) (s : State) : State :=
  let r := useRec d s
  let l := limiter d r.1 (s.rte.acc.get d 0) r.2
  let y := satS32 l.1
  let s1 := if y = l.1 then l.2
    else bump RTE_CNT_CLIP_TOTAL 1 (updDst d (fun t => { t with clip := min 65535 (t.clip + 1) }) l.2)
  let s2 := silenceStep d y s1
  let m := muteFactor (dstOf s2 d)
  let o := if m = 64 then y else rne 6 (y * (m : Int))
  { updDst d (fun t => { t with sample := ofS 32 o }) s2 with rte.done := d :: s2.rte.done }

/-- The destinations whose slots lie in a line. -/
def destsOf (s : State) (line : Nat) : List Nat :=
  (List.range (nDests s)).filter (fun d => destSlot s d / 8 == line)

/-- The eight words of a ROUTE_DEST line: its destinations' samples, 0 elsewhere (R146 stage 6). -/
def destLine (s : State) (line : Nat) : List Nat :=
  (List.range 8).map (fun i =>
    match (destsOf s line).find? (fun d => destSlot s d == 8 * line + i) with
    | some d => (dstOf s d).sample
    | none => 0)

/-- ROUTE_WRITE_OUT (R146): a line of destinations at a write-port grant of code 0x22. -/
def routeWriteOut (line c : Nat) (s : State) : State :=
  let s1 := ((destsOf s line).filter (fun d => !s.rte.done.contains d)).foldl (fun s d => destOut d s) s
  engineSlotWrite 0x22 line 255 (destLine s1 line) c s1

/-- SILENCE_COALESCE_EXPIRY (R161): 100 ms after the last event, one event if the state differs from the one reported.
(DESIGN CHOICE log 127) -/
def execSilenceCoalesceExpiry (dest : Nat) (s : State) : Host.Outcome State Fault Refusal :=
  if s.fw.silPending.get dest 0 = 1 then
    let t := dstOf s dest
    if b2n t.silent = s.fw.silReported.get dest 0 then
      .next { s with fw := { s.fw with silPending := s.fw.silPending.set dest 0 0 } }
    else .next (silenceEvent dest t.silent (hi32 t.silCi) s)
  else .next s

/-! ## At the boundary -/

/-- Trip-mute requests sampled (R149): held, or one course further into the release. -/
def sampleMutes (req : Nat → Bool) (s : State) : State :=
  (List.range (nDests s)).foldl (fun s d =>
    let m := (dstOf s d).mute
    if req d then updDst d (fun t => { t with mute := 65 }) s
    else if m = 0 then s
    else updDst d (fun t => { t with mute := m - 1 }) s) s

/-- Silence configurations written since the last boundary take effect (R159); one that is newly enabled starts SOUND. -/
def applySilence (s : State) : State :=
  s.rte.silWait.foldl (fun s p =>
    let old := silCfg s p.1
    let s1 := { s with rte := { s.rte with sil := s.rte.sil.set p.1 p.2 (0, 0) } }
    if bitOf old.2 16 && bitOf p.2.2 16 then s1
    else updDst p.1 (fun t => { t with silent := false, quiet := 0 }) s1)
    { s with rte := { s.rte with silWait := [] } }

/-- The route table swapped (R151, R152): halves exchanged, every index classed, the recopy begun. -/
def swapRoute (s : State) : State :=
  let keys := ((s.rte.shadow.map Prod.fst) ++ (s.rte.snd.map Prod.fst)).eraseDups
  let cls := keys.map (fun i => (i, classify (s.rte.snd.find i) (s.rte.shadow.get i xpNone).value))
  let snd := cls.foldl (fun (m : AMap Sounding) p =>
    match p.2.1 with | some x => m.put p.1 x | none => m.erase p.1) s.rte.snd
  let s1 := setIf RTE_STAT_RETARGET (cls.any (fun p => p.2.2)) s
  let s2 := { s1 with rte := { s1.rte with
    act := s.rte.shadow, shadow := s.rte.act, actRec := s.rte.shRec, shRec := s.rte.actRec, snd := snd, resync := 3, held := [] } }
  putFs [(RTE_STAT_RESYNC, 1), (RTE_SL_ROUTE_ARMED, 0)]
    (putB RTE_GEN_ACT_HALF (!flag s2 RTE_GEN_ACT_HALF) (wrap RTE_GEN_SWAPS 1 s2))

/-- The recopy of the shadow half completed (R152). (DESIGN CHOICE log 33) -/
def routeResync (s : State) : State :=
  putF RTE_STAT_RESYNC 0 { s with rte := { s.rte with shadow := s.rte.act, shRec := s.rte.actRec, resync := 0 } }

/-- The recopy begun without a swap, after a cancel (R364). (DESIGN CHOICE log 33) -/
def routeRecopy (s : State) : State := putF RTE_STAT_RESYNC 1 { s with rte := { s.rte with resync := 3 } }

/-- The recopy at a boundary: it completes within 3 courses. (DESIGN CHOICE log 33) -/
def resyncBoundary (s : State) : State :=
  if s.rte.resync = 0 then s
  else if s.rte.resync = 1 then routeResync s
  else { s with rte := { s.rte with resync := s.rte.resync - 1 } }

/-- ROUTE_RESYNC_DONE (R152). -/
def execRouteResyncDone (s : State) : Host.Outcome State Fault Refusal :=
  if flag s RTE_STAT_RESYNC then .next (routeResync s) else .next s

/-- The page tag word of a page (R163 SEL 7). -/
def pageTag (s : State) (p : Nat) : Nat := s.rte.tags.get p 0
/-- A page tag set. -/
def putPageTag (p v : Nat) (s : State) : State := { s with rte := { s.rte with tags := s.rte.tags.set p v 0 } }

/-- A parameter page's copies exchange roles (R151); the new shadow copy waits to be recopied (R152). -/
def swapPage (p : Nat) (s : State) : State :=
  let b := if s.fab.pageB.contains p then s.fab.pageB.filter (· != p) else p :: s.fab.pageB
  putPageTag p (pageTag s p % 64)
    { s with fab := { s.fab with pageB := b }, rte := { s.rte with stale := p :: s.rte.stale.filter (· != p) } }

/-- The per-destination state as at image load (R421), the sets of an image loaded into both halves alike (06, 0x07). -/
def loadRoute (img : Img) (s : State) : State :=
  let ents := (List.range img.routes.length).zip img.routes
  let act := ents.foldl (fun (m : AMap PairWord) p => m.set p.1 (PairWord.mk' p.2) xpNone) []
  let snd := ents.foldl (fun (m : AMap Sounding) p =>
    if xpValid p.2 then m.put p.1 ⟨xpSrc p.2, xpDest p.2, 0, xpGain p.2, 0, 0, 0, false⟩ else m) []
  putF RTE_STAT_RESYNC 0 { s with rte := { Rte.init with act := act, shadow := act, snd := snd } }

/-! ## The indexed tables (R163) -/

/-- The number of indexes of a route table. -/
def rteSize (s : State) (sel : Nat) : Nat :=
  match sel with
  | 0 => maxXp s
  | 1 => maxXp s
  | 7 => 256
  | _ => 4096

/-- The destination status word 0 (R163 SEL 5). -/
def destStatus (t : DestSt) : Nat :=
  t.clip + 65536 * b2n t.silent + 131072 * b2n (t.mute != 0) + 262144 * b2n (t.lim != 0 && t.gain != 0)

/-- Word n of a table entry as RTE_DATAn reads. -/
def rteRead (s : State) (sel idx n : Nat) : Nat :=
  let pair := fun (p : PairWord) => [lo32 p.value, hi32 p.value, lo32 p.comp, hi32 p.comp].getD n 0
  if rteSize s sel ≤ idx then 0
  else match sel with
    | 0 => pair (s.rte.shadow.get idx xpNone)
    | 1 => pair (s.rte.act.get idx xpNone)
    | 2 => pair (s.rte.shRec.get idx recReset)
    | 3 => pair (s.rte.actRec.get idx recReset)
    | 4 => let c := (s.rte.silWait.find idx).getD (silCfg s idx); [c.1, c.2].getD n 0
    | 5 => [destStatus (dstOf s idx), lo32 (dstOf s idx).silCi].getD n 0
    | 6 => if n = 0 then (destWords s).getD idx 0 else 0
    | _ => if n = 0 then pageTag s idx + 256 * b2n (s.fab.pageB.contains idx) else 0

/-- A pair write into a shadow table (R143, R150, R152). -/
def rtePair (tbl idx v c : Nat) (s : State) : State :=
  if flag s RTE_SL_ROUTE_ARMED || flag s RTE_STAT_RESYNC then putF RTE_STAT_SL_LOCK_ERR 1 s
  else if !(PairWord.mk v c).ok then putF RTE_STAT_PAIRWORD 1 s
  else if tbl = 0 then { s with rte := { s.rte with shadow := s.rte.shadow.set idx ⟨v, c⟩ xpNone } }
  else { s with rte := { s.rte with shRec := s.rte.shRec.set idx ⟨v, c⟩ recReset } }

/-- The silence configuration of a destination written; it waits for the boundary while the fabric runs (R159). -/
def writeSilence (d a b : Nat) (s : State) : State :=
  let s1 := { s with rte := { s.rte with silWait := s.rte.silWait.put d (a, b % 131072) } }
  if running s then s1 else applySilence s1

/-- RTE_DATAn written: the last data word of a writable table commits the entry that RTE_IDX selects. -/
def rteWrite (n v : Nat) (s : State) : State :=
  let s1 := putF (RTE_DATA_DATA n) v s
  let sel := getF s RTE_IDX_SEL
  let idx := getF s RTE_IDX_INDEX
  let d := fun k => getF s1 (RTE_DATA_DATA k)
  if rteSize s sel ≤ idx then s1
  else match sel, n with
    | 0, 3 => rtePair 0 idx (d 0 + 4294967296 * d 1) (d 2 + 4294967296 * d 3) s1
    | 2, 3 => rtePair 2 idx (d 0 + 4294967296 * d 1) (d 2 + 4294967296 * d 3) s1
    | 4, 1 => writeSilence idx (d 0) (d 1) s1
    | 5, 0 => updDst idx (fun t => { t with clip := 0 }) s1
    | 7, 0 => putPageTag idx (d 0 % 128) s1
    | _, _ => s1

/-- RTE_TABLE_WRITE (R163): a write of RTE_DATAn. -/
def execRteTableWrite (n value : Nat) (s : State) : Host.Outcome State Fault Refusal :=
  if n < 4 then .next (rteWrite n value s) else .next s

end Sys2Proof.Machine
end

