-- ==== Sys2Proof/Machine/Dynamics.lean ====
section
/-! DEFINITION. The dynamics units (R141, R155 to R158) and their tables (R163). -/

namespace Sys2Proof.Machine

/-- The record of an instance that has none. -/
def dynNone : List Nat := []
/-- An instance before it has run (R421): gain 0 dB, level -144 dBFS. -/
def DynSt.init : DynSt := ⟨0, -144 * 1099511627776, 0, 0⟩
/-- The state of an instance. -/
def dynOf (s : State) (i : Nat) : DynSt := s.dyn.st.get i DynSt.init
/-- The active record of an instance. -/
def dynRec (s : State) (i : Nat) : List Nat := s.dyn.act.get i dynNone
/-- Bits of a word of a record. -/
def rf (r : List Nat) (w lo n : Nat) : Nat := bits (r.getD w 0) lo n

/-- The record with every field limited to its range, as the hardware takes it (R155). -/
def dynClamp (r : List Nat) : List Nat :=
  let sl := fun (v : Nat) (lo hi : Int) => ofS 16 (clampI lo hi (toS 16 v))
  [ rf r 0 0 30, rf r 1 0 13,
    sl (rf r 2 0 16) (-24576) 0 + 65536 * rf r 2 16 8,
    max 256 (rf r 3 0 16) + 65536 * sl (rf r 3 16 16) (-6144) 6144,
    min 500000 (rf r 4 0 19), max 500 (min 500000 (rf r 5 0 19)), rf r 6 0 19, rf r 7 0 16 ]

/-- Whether every field of a record is within its range and every other bit 0 (R155). -/
def dynLegal (r : List Nat) : Bool := r == dynClamp r

/-- The detector level of a sample (R156), within the tolerance that R147 gives levels, with the new mean square. -/
def detect (r : List Nat) (x : Int) (i : Nat) (s : State) : Int × Nat × State :=
  if rf r 0 27 1 = 0 then
    let p := peakLevel x.natAbs s
    (p.1, (dynOf s i).mean, p.2)
  else
    let a := alpha (rf r 6 0 19) (fsOf s)
    let m := (smooth a ((dynOf s i).mean : Int) (x * x * 65536)).toNat
    if m = 0 then (-144 * dB, m, s)
    else let f := takeFree s; (levelDb m 78 / 2 + tolDb (Config.freeWord f.1).toNat, m, f.2)

/-- The target gain before RANGE (R157), with a free value where an expander of infinite ratio is below its threshold.
(DESIGN CHOICE log 35, 36) -/
def dynTarget (r : List Nat) (l : Int) (s : State) : Int × State :=
  let t := toS 16 (rf r 2 0 16) * dB / 256
  let w := (rf r 2 16 8 : Nat) * dB / 16
  let q : Int := (rf r 3 0 16 : Nat)
  let d := l - t
  if rf r 0 28 2 = 3 then
    if q = 65535 ∧ 2 * d < w then
      let f := takeFree s
      (-(((Config.freeWord f.1).toNat * 4096 : Nat) : Int), f.2)
    else
      let slope := q - 256
      (if 2 * d < -w then slope * d / 256
       else if 2 * d ≤ w ∧ 0 < w then -(slope * (d - w / 2) * (d - w / 2) / (2 * w) / 256)
       else 0, s)
  else
    let num := if rf r 0 28 2 = 2 ∨ q = 65535 then -1 else 256 - q
    let den := if rf r 0 28 2 = 2 ∨ q = 65535 then 1 else q
    (if w < 2 * d then num * d / den
     else if -w ≤ 2 * d ∧ 0 < w then num * (d + w / 2) * (d + w / 2) / (2 * w) / den
     else 0, s)

/-- One instance in its two route-port cycles (R156 to R158): its gain, level and output sample. -/
def dynRun (i : Nat) (s : State) : State :=
  let raw := dynRec s i
  let r := dynClamp raw
  let s0 := setIf DYN_STAT_RANGE_ERR (raw != r) s
  let x := toS 32 (slotRead s (rf r 0 0 13))
  let c := if rf r 0 26 1 = 1 then toS 32 (slotRead s (rf r 0 13 13)) else x
  let dt := detect r c i s0
  let fin := fun (g : Int) (o : Int) (s : State) =>
    let y := satS32 o
    let s1 := { s with dyn := { s.dyn with st := s.dyn.st.set i ⟨g, dt.1, dt.2.1, ofS 32 y⟩ DynSt.init } }
    if y = o then s1 else bump DYN_CNT_OUT_SAT 1 s1
  if rf r 0 28 2 = 0 then fin 0 x dt.2.2
  else
    let tg := dynTarget r dt.1 dt.2.2
    let rg := (rf r 7 0 16 : Nat) * dB / 256
    let gt := if rg = 0 then tg.1 else max (-rg) tg.1
    let g0 := (dynOf s i).gain
    let g := smooth (if gt < g0 then alpha (rf r 4 0 19) (fsOf s) else alpha (10 * rf r 5 0 19) (fsOf s)) g0 gt
    let f := takeFree tg.2
    fin g (applyDb x (g + toS 16 (rf r 3 16 16) * dB / 256 + tolDb (Config.freeWord f.1).toNat)) f.2

/-- The whole dynamics window of a course: instances 0 to DYN_CAP - 1 that have a record, in index order. -/
def dynWindow (s : State) : State :=
  ((s.dyn.act.map Prod.fst).filter (fun i => i < s.fab.cal.dynCap)).foldl (fun s i => dynRun i s) s

/-- DYN_WINDOW (R158). -/
def execDynWindow (s : State) : Host.Outcome State Fault Refusal :=
  if enginesOn s && s.fab.cal.dynCap != 0 && s.fab.img.isSome then .next (dynWindow s) else .next s

/-- The instances whose OUT lies in a line, in index order. -/
def dynsOf (s : State) (line : Nat) : List (Nat × Nat) :=
  (s.dyn.act.filter (fun p => p.1 < s.fab.cal.dynCap && rf p.2 1 0 13 / 8 == line)).map (fun p => (p.1, rf p.2 1 0 13 % 8))

/-- DYN_WRITE_OUT (R158): the output slots of a line at a write-port grant of code 0x23. -/
def dynWriteOut (line c : Nat) (s : State) : State :=
  let l := dynsOf s line
  let vals := (List.range 8).map (fun k => match l.reverse.find? (fun p => p.2 == k) with
    | some p => (dynOf s p.1).sample
    | none => 0)
  engineSlotWrite 0x23 line (ofBits ((List.range 8).map (fun k => l.any (fun p => p.2 == k)))) vals c s

/-! ## Safe-load swaps and loading -/

/-- The tag of an instance (TAG + 64 × ARMED). -/
def dynTag (s : State) (i : Nat) : Nat := s.dyn.tags.get i 0
/-- A tag set. -/
def putDynTag (i v : Nat) (s : State) : State := { s with dyn := { s.dyn with tags := s.dyn.tags.set i v 0 } }

/-- A record stored under an instance. -/
def putRec (m : AMap (List Nat)) (i : Nat) (r : List Nat) : AMap (List Nat) := m.set i r dynNone

/-- An instance's halves swapped; its shadow is recopied within the course (R151, R152). -/
def swapDyn (i : Nat) (s : State) : State :=
  putDynTag i (dynTag s i % 64)
    { s with dyn := { s.dyn with
        act := putRec s.dyn.act i (s.dyn.shadow.get i dynNone)
        shadow := putRec s.dyn.shadow i (dynRec s i)
        recopy := i :: s.dyn.recopy.filter (· != i) } }

/-- The recopy of an instance's shadow completed. (DESIGN CHOICE log 33) -/
def dynResync (i : Nat) (s : State) : State :=
  { s with dyn := { s.dyn with
      shadow := putRec s.dyn.shadow i (dynRec s i), recopy := s.dyn.recopy.filter (· != i) } }

/-- DYN_RESYNC_DONE (R152). -/
def execDynResyncDone (instn : Nat) (s : State) : Host.Outcome State Fault Refusal :=
  if s.dyn.recopy.contains instn then .next (dynResync instn s) else .next s

/-- The members of the set of a scheduler entry swap (R151). -/
def swapSet (e : Nat) (s : State) : State :=
  let s1 := if flag s RTE_SL_ROUTE_ARMED && getF s RTE_SL_ROUTE_TAG == e then swapRoute s else s
  let pages := (s1.rte.tags.filter (fun p => p.2 == e + 64)).map Prod.fst
  let insts := (s1.dyn.tags.filter (fun p => p.2 == e + 64)).map Prod.fst
  insts.foldl (fun s i => swapDyn i s) (pages.foldl (fun s p => swapPage p s) s1)

/-- The members of a set tagged with its entry (R150). -/
def tagSet (e : Nat) (x : Sched) (s : State) : State :=
  let s1 := if x.route then putFs [(RTE_SL_ROUTE_TAG, e), (RTE_SL_ROUTE_ARMED, 1)] s else s
  x.insts.foldl (fun s i => putDynTag i (e + 64) s) (x.pages.foldl (fun s p => putPageTag p (e + 64) s) s1)

/-- The crosspoint key: SRC and DEST. -/
def xpKey (v : Nat) : Nat := v % 33554432

/-- The tags of a set cleared when it is cancelled (R364); the route shadow is recopied, and the crosspoint changes go back
to the staging list of the seat that armed it, but for those that a later change has replaced (R374). -/
def untagSet (x : Sched) (s : State) : State :=
  let s1 := x.insts.foldl (fun s i => putDynTag i 0 s) (x.pages.foldl (fun s p => putPageTag p 0 s) s)
  if x.route then
    let held := s1.rte.held
    let s2 := updSeat x.seat (fun t => { t with
      routes := held.filter (fun v => !t.routes.any (fun w => xpKey w == xpKey v)) ++ t.routes }) s1
    routeRecopy (putFs [(RTE_SL_ROUTE_TAG, 0), (RTE_SL_ROUTE_ARMED, 0)] { s2 with rte := { s2.rte with held := [] } })
  else s1

/-- The dynamics of an image loaded into both halves (06, 0x08; R421). -/
def loadDyn (img : Img) (s : State) : State :=
  let m := ((List.range img.dyns.length).zip img.dyns).foldl (fun m p => putRec m p.1 p.2) []
  { s with dyn := { Dyn.init with act := m, shadow := m } }

/-! ## The indexed tables -/

/-- Word n of a table entry as DYN_DATAn reads: SEL 0 shadow, 1 active, 2 meter, 3 tag; 0 beyond the variant's instances. -/
def dynRead (s : State) (sel i n : Nat) : Nat :=
  if maxDyn s ≤ i then 0
  else match sel with
    | 0 => (s.dyn.shadow.get i dynNone).getD n 0
    | 1 => (dynRec s i).getD n 0
    | 2 => [ofS 32 ((dynOf s i).gain * 256 / dB), ofS 32 ((dynOf s i).level * 256 / dB)].getD n 0
    | _ => if n = 0 then dynTag s i else 0

/-- Whether an instance's shadow is locked (R150, R152). -/
def dynLocked (s : State) (i : Nat) : Bool := 64 ≤ dynTag s i || s.dyn.recopy.contains i

/-- DYN_DATAn written. -/
def dynWrite (n v : Nat) (s : State) : State :=
  let s1 := putF (DYN_DATA_DATA n) v s
  let sel := getF s DYN_IDX_SEL
  let i := getF s DYN_IDX_INDEX
  if maxDyn s ≤ i then s1
  else match sel, n with
    | 0, 7 =>
      if dynLocked s i then putF DYN_STAT_SL_LOCK_ERR 1 s1
      else { s1 with dyn := { s1.dyn with
        shadow := putRec s1.dyn.shadow i ((List.range 8).map (fun k => getF s1 (DYN_DATA_DATA k))) } }
    | 3, 0 => putDynTag i (v % 128) s1
    | _, _ => s1

/-- DYN_TABLE_WRITE (R163): a write of DYN_DATAn. -/
def execDynTableWrite (n value : Nat) (s : State) : Host.Outcome State Fault Refusal :=
  if n < 8 then .next (dynWrite n value s) else .next s

end Sys2Proof.Machine
end

