-- ==== Sys2Proof/Machine/Port.lean ====
section
/-! DEFINITION. The port engine (R164 to R181): serial lanes, AES3 transceivers and rate conversion. -/

namespace Sys2Proof.Machine

/-! ## What multiplies and gates the outputs -/

/-- A sample under the cut-over gain (R133), rounded half to even. -/
def cutGain (s : State) (v : Nat) : Nat := ofS 32 (rne 8 (toS 32 v * (s.fab.gain : Int)))

/-- Whether the outputs carry sound: no hard mute in force (R358). -/
def audible (s : State) : Bool := !flag s LIFE_STATUS_MUTED

/-- Whether the unit drives its outputs at all: it holds the claim (R171, R289) and nothing has made it dark (R355). -/
def driving (s : State) : Bool := s.pair.drivers && flag s PAIR_STAT_CLAIM && !flag s LIFE_STATUS_DARK

/-! ## Lanes and groups -/

/-- A lane. -/
def laneOf (s : State) (n : Nat) : LaneSt := s.port.lane.get n LaneSt.init
/-- A lane changed. -/
def updLane (n : Nat) (f : LaneSt → LaneSt) (s : State) : State :=
  { s with port := { s.port with lane := s.port.lane.set n (f (laneOf s n)) LaneSt.init } }
/-- A transceiver. -/
def aesOf (s : State) (n : Nat) : AesSt := s.port.aes.get n AesSt.init
/-- A transceiver changed. -/
def updAes (n : Nat) (f : AesSt → AesSt) (s : State) : State :=
  { s with port := { s.port with aes := s.port.aes.set n (f (aesOf s n)) AesSt.init } }

/-- Bits per channel of a FRAME code (R165); a reserved code has none. -/
def chanBits (frame : Nat) : Nat := [32, 24, 16, 0].getD frame 0
/-- The word length of a WL code (R168). -/
def wordLen (wl : Nat) : Nat := [16, 20, 24, 32].getD wl 16

/-- Whether a group runs (R165): FRAME not reserved; a master's PHASE inside the course. -/
def groupRuns (s : State) (g : Nat) : Bool :=
  getL s (SP_GRP_CTL_FRAME g) != 3 && (getL s (SP_GRP_CTL_MASTER g) == 0 || getL s (SP_GRP_CTL_PHASE g) < 384 / max (rmOf s) 1)

/-- Whether a lane's format is one the hardware runs (R168). (DESIGN CHOICE log 54) -/
def laneFormOk (s : State) (n : Nat) : Bool :=
  getL s (SP_LANE_CFG_FMT n) != 3 && wordLen (getL s (SP_LANE_CFG_WL n)) ≤ chanBits (getL s (SP_GRP_CTL_FRAME (n / 8)))

/-- Whether a lane runs: enabled, in a running group, with a legal format. -/
def laneOn (s : State) (n : Nat) : Bool :=
  n < nLanes s && flagL s (SP_LANE_CFG_EN n) && groupRuns s (n / 8) && laneFormOk s n
/-- Whether a lane is an output. -/
def laneIsOut (s : State) (n : Nat) : Bool := flagL s (SP_LANE_CFG_DIR n)
/-- Whether a lane is bound to slots. -/
def laneBound (s : State) (n : Nat) : Bool := flagL s (SP_LANE_BIND_BOUND n)
/-- Whether a lane names an ASRC instance. -/
def laneAsrc (s : State) (n : Nat) : Option Nat := if flagL s (SP_LANE_CFG_ASRC_EN n) then some (getL s (SP_LANE_CFG_ASRC n)) else none

/-- SP_OEN as 48 bits, as the audio side sees it; 0 while a mismatch keeps the lanes dark (R181). (DEDUCED log 55) -/
def spOen (s : State) : Nat :=
  if s.oenDark.contains SP_OEN_LO_OEN.addr || s.oenDark.contains SP_OEN_HI_OEN.addr then 0
  else getL s SP_OEN_LO_OEN + 4294967296 * getL s SP_OEN_HI_OEN
/-- AES_OEN likewise. (DEDUCED log 55) -/
def aesOen (s : State) : Nat := if s.oenDark.contains AES_OEN_OEN.addr then 0 else getL s AES_OEN_OEN

/-- The PORT_STATE event (R384): 0 lane, 1 receiver, 2 ASRC, 3 group. -/
def portState (what idx : Nat) (s : State) : State :=
  let w := what + 256 * idx + match what with
    | 0 => 65536 * getF s (SP_LANE_STAT_CLK_LOST idx)
    | 1 => 131072 * getF s (AES_RX_STAT_LOCK idx)
    | 2 => 262144 * getF s (SP_ASRC_STAT_STATE idx)
    | _ => 65536 * getF s (SP_GRP_STAT_CLK_LOST idx)
  raiseOwner (match what with | 0 => 5 | 1 => 7 | 2 => 8 | _ => 6) idx 0x0032 [w] s

/-- The PORT_NONAUDIO event. -/
def nonAudioEvent (rx : Bool) (idx : Nat) (s : State) : State :=
  let v := if rx then getF s (AES_RX_STAT_NONAUDIO idx) else getF s (SP_LANE_STAT_NONAUDIO idx)
  raiseOwner (if rx then 7 else 5) idx 0x0031 [b2n rx + 256 * idx + 65536 * v] s

/-- A NONAUDIO bit set to a condition, with its event at a change (R180). (DESIGN CHOICE log 56) -/
def setNonAudio (rx : Bool) (idx : Nat) (v : Bool) (s : State) : State :=
  let f := if rx then AES_RX_STAT_NONAUDIO idx else SP_LANE_STAT_NONAUDIO idx
  if flag s f = v then s else nonAudioEvent rx idx (putB f v s)

/-! ## Rate conversion (R176 to R178) -/

/-- The ports that name an instance: lanes, then receivers and transmitters as 48 + n and 64 + n. -/
def asrcPorts (s : State) (i : Nat) : List Nat :=
  (List.range 48).filter (fun n => flagL s (SP_LANE_CFG_EN n) && laneAsrc s n == some i)
    ++ ((List.range 8).filter (fun n => flagL s (AES_RX_CTL_EN n) && flagL s (AES_RX_CTL_ASRC_EN n)
      && getL s (AES_RX_CTL_ASRC n) == i)).map (48 + ·)
    ++ ((List.range 8).filter (fun n => flagL s (AES_TX_CTL_EN n) && flagL s (AES_TX_CTL_TX_FOLLOW n)
      && getL s (AES_TX_CTL_ASRC n) == i)).map (64 + ·)

/-- Whether a port is the one that an instance serves: the lowest-numbered. -/
def asrcServes (s : State) (i p : Nat) : Bool := i < nAsrc s && flagL s (SP_ASRC_CTL_EN i) && (asrcPorts s i).head? == some p

/-- The state of an instance changed, with its event. -/
def setAsrc (i st : Nat) (s : State) : State :=
  if getF s (SP_ASRC_STAT_STATE i) = st then s else portState 2 i (putF (SP_ASRC_STAT_STATE i) st s)

/-- The members of the gang of a leader (R178). -/
def gangOf (s : State) (leader : Nat) : List Nat :=
  (List.range 64).filter (fun i => flagL s (SP_ASRC_CTL_GANG_EN i) && getL s (SP_ASRC_CTL_LEADER i) == leader)

/-- GANG_LEADER_TAKEOVER (R178): the leader leads while it is LOCKED, else the lowest-numbered LOCKED member, with the ratio
as it stands. An instance in no gang leads itself. -/
def setLeading (i : Nat) (s : State) : State :=
  if !flagL s (SP_ASRC_CTL_GANG_EN i) then putB (SP_ASRC_STAT_LEADING i) (getF s (SP_ASRC_STAT_STATE i) == 2) s
  else
    let l := getL s (SP_ASRC_CTL_LEADER i)
    let ms := gangOf s l
    let locked := fun k => getF s (SP_ASRC_STAT_STATE k) == 2
    let lead := if locked l && ms.contains l then some l else ms.find? locked
    ms.foldl (fun s k => putB (SP_ASRC_STAT_LEADING k) (lead == some k) s) s

/-- Whether a ratio in Q2.30 lies in [0.5, 2.0]. -/
def ratioOk (r : Nat) : Bool := 0x20000000 ≤ r && r ≤ 0x80000000

/-- The ratio of an instance taken up; the one that leads a gang gives it to every member. (DESIGN CHOICE log 52) -/
def setRatio (i r : Nat) (s : State) : State :=
  if flagL s (SP_ASRC_CTL_GANG_EN i) then
    if flag s (SP_ASRC_STAT_LEADING i) then
      (gangOf s (getL s (SP_ASRC_CTL_LEADER i))).foldl (fun s k => putF (SP_ASRC_RATIO_RATIO k) r s) s
    else if getF s (SP_ASRC_STAT_STATE i) = 2 then s else putF (SP_ASRC_RATIO_RATIO i) r s
  else putF (SP_ASRC_RATIO_RATIO i) r s

/-- A source frame reaches an instance (R177). (DESIGN CHOICE log 52) -/
def asrcFrame (i r : Nat) (s : State) : State :=
  match getF s (SP_ASRC_STAT_STATE i) with
  | 0 => if ratioOk r then setAsrc i 1 (setRatio i r s) else putF (SP_ASRC_STAT_RANGE i) 1 s
  | 1 => setRatio i r s
  | 2 =>
    if ratioOk r then setRatio i r s
    else setLeading i (setAsrc i 0 (putFs [(SP_ASRC_STAT_RANGE i, 1), (SP_ASRC_STAT_FILL i, 0)] s))
  | _ => setAsrc i 1 (putF (SP_ASRC_STAT_FILL i) 0 (setRatio i r s))

/-- The pair that an instance gives in a course: free samples while it converts or drains, else zeros.
(DESIGN CHOICE log 52) -/
def asrcPair (i : Nat) (s : State) : (Nat × Nat) × State :=
  if 2 ≤ getF s (SP_ASRC_STAT_STATE i) then
    let a := takeFree s
    let b := takeFree a.2
    (((Config.freeWord a.1).toNat, (Config.freeWord b.1).toNat), b.2)
  else ((0, 0), s)

/-- The group delay of an instance at the running rate (R176). -/
def asrcDelay (s : State) (i : Nat) : Nat := if flagL s (SP_ASRC_CTL_MODE i) then 16 else 64

/-- ASRC_ACQUIRE_LOCK (R177): a steady ratio and a FIFO fill within one sample of the group delay; ACQUIRING to LOCKED. -/
def execAsrcAcquireLock (instn ratio fill : Nat) (s : State) : Host.Outcome State Fault Refusal :=
  if getF s (SP_ASRC_STAT_STATE instn) == 1 && instn < nAsrc s && ratioOk ratio && asrcDelay s instn ≤ fill + 1
      && fill ≤ asrcDelay s instn + 1 then
    .next (setLeading instn (setAsrc instn 2 (setRatio instn ratio (putF (SP_ASRC_STAT_FILL instn) fill s))))
  else .next s

/-- ASRC_SOURCE_LOST (R177): LOCKED to HELD; a lost leader hands its ratio on. -/
def execAsrcSourceLost (instn : Nat) (s : State) : Host.Outcome State Fault Refusal :=
  if getF s (SP_ASRC_STAT_STATE instn) == 2 && instn < nAsrc s then .next (setLeading instn (setAsrc instn 3 s)) else .next s

/-- ASRC_FIFO_EMPTY (R177): HELD to UNLOCKED. -/
def execAsrcFifoEmpty (instn : Nat) (s : State) : Host.Outcome State Fault Refusal :=
  if getF s (SP_ASRC_STAT_STATE instn) == 3 && instn < nAsrc s then
    .next (setAsrc instn 0 (putF (SP_ASRC_STAT_FILL instn) 0 s))
  else .next s

/-! ## Non-audio (R179, R180) -/

/-- Whether a pair of words is a preamble frame. -/
def isPreamble (a b : Nat) : Bool := bits a 16 16 == 0xF872 && bits b 16 16 == 0x4E1F

/-- A lane's non-audio state after a frame: a preamble starts or restarts the hold, any other frame counts it down. -/
def laneNa (n a b : Nat) (s : State) : State :=
  if flagL s (SP_LANE_CFG_NA_EN n) then
    if isPreamble a b then setNonAudio false n true (putF (SP_LANE_STAT_NA_HOLD n) 4096 s)
    else putF (SP_LANE_STAT_NA_HOLD n) (getF s (SP_LANE_STAT_NA_HOLD n) - 1) s
  else setNonAudio false n false (putF (SP_LANE_STAT_NA_HOLD n) 0 s)

/-- A receiver's, likewise; its mute ends when the hold and the channel-status mark have both ended. -/
def aesNa (n a b : Nat) (s : State) : State :=
  if flagL s (AES_RX_CTL_NA_EN n) then
    if isPreamble a b then setNonAudio true n true (updAes n (fun t => { t with naMute := true, naHold := 4096 }) s)
    else updAes n (fun t => { t with naHold := t.naHold - 1 }) s
  else setNonAudio true n false (updAes n (fun t => { t with naMute := false, naHold := 0 }) s)

/-- NONAUDIO_HOLD_EXPIRY (R179): 4,096 frames without a preamble have passed and the mute lifts. -/
def execNonaudioHoldExpiry (receiver : Bool) (index : Nat) (s : State) : Host.Outcome State Fault Refusal :=
  if receiver then
    let t := aesOf s index
    if index < nAes s && t.naMute && t.naHold == 0 then
      .next (setNonAudio true index t.csMute (updAes index (fun t => { t with naMute := false }) s))
    else .next s
  else if index < nLanes s && flag s (SP_LANE_STAT_NONAUDIO index) && getF s (SP_LANE_STAT_NA_HOLD index) == 0 then
    .next (setNonAudio false index false s)
  else .next s

/-! ## Serial frames (R167 to R170) -/

/-- The word of a channel in a frame: the frame's bits from the start of channel A's half, first bit most significant, with
the first bit of the next frame at the end (an I2S word may reach into it). (DESIGN CHOICE log 56) -/
def frameWord (frame fbits half wl fm ch : Nat) : Nat :=
  let first := ch * half + (match fm with | 0 => 1 | 1 => 0 | _ => half - wl)
  bits frame (fbits + 1 - first - wl) wl

/-- An input word MSB-aligned in Q1.31 (R169). (DESIGN CHOICE log 56) -/
def alignWord (wl v : Nat) : Nat := lo32 (v * 2 ^ (32 - wl))

/-- An output sample rounded half to even and saturated to a word length (R169). -/
def outWord (wl v : Nat) : Nat :=
  ofS wl (clampI (-(2 ^ (wl - 1))) (2 ^ (wl - 1) - 1) (rne (32 - wl) (toS 32 v)))

/-- A frame start of a slave group noted (R167): its course cycle, whether it is near a boundary, its clock present. -/
def groupFrame (g cycle : Nat) (s : State) : State :=
  if getL s (SP_GRP_CTL_MASTER g) = 1 then s
  else
    let s1 := putB (SP_GRP_STAT_NEAR_EDGE g) (cycle ≤ 128 || courseLen s ≤ cycle + 128) (putF (SP_GRP_STAT_WS_POS g) cycle s)
    if flag s1 (SP_GRP_STAT_CLK_LOST g) then
      portState 3 g ((List.range 8).foldl (fun s k => putF (SP_LANE_STAT_CLK_LOST (8 * g + k)) 0 s) (putF (SP_GRP_STAT_CLK_LOST g) 0 s1))
    else s1

/-- SERIAL_FRAME_IN (R170): an input frame ends on a lane; its pair, muted as R179 says, waits for the boundary or goes to
its ASRC. -/
def execSerialFrameIn (lane frame cycle ratio : Nat) (s : State) : Host.Outcome State Fault Refusal :=
  if running s && laneOn s lane && !laneIsOut s lane then
    let half := chanBits (getL s (SP_GRP_CTL_FRAME (lane / 8)))
    let wl := wordLen (getL s (SP_LANE_CFG_WL lane))
    let w := fun ch => alignWord wl (frameWord frame (2 * half) half wl (getL s (SP_LANE_CFG_FMT lane)) ch)
    let s1 := laneNa lane (w 0) (w 1) (groupFrame (lane / 8) cycle s)
    let pair := if flag s1 (SP_LANE_STAT_NONAUDIO lane) then (0, 0) else (w 0, w 1)
    match laneAsrc s lane with
    | some i => .next (if asrcServes s i lane then asrcFrame i ratio s1 else s1)
    | none => .next (updLane lane (fun t => { t with arrived := t.arrived ++ [pair], count := t.count + 1 }) s1)
  else .next s

/-- Whether a lane's ball is driven (R171). (DESIGN CHOICE log 108) -/
def laneDrives (s : State) (n : Nat) : Bool :=
  laneOn s n && laneIsOut s n && laneBound s n && bitOf (spOen s) n && driving s

/-- SERIAL_FRAME_OUT (R170): an output frame starts and shifts out the pair last read for the lane. -/
def execSerialFrameOut (lane cycle ratio : Nat) (s : State) : Host.Outcome State Fault Refusal :=
  if running s && laneOn s lane && laneIsOut s lane then
    let wl := wordLen (getL s (SP_LANE_CFG_WL lane))
    let s1 := groupFrame (lane / 8) cycle s
    let r := match laneAsrc s lane with
      | some i => if asrcServes s i lane then asrcPair i (asrcFrame i ratio s1) else ((0, 0), s1)
      | none => ((laneOf s1 lane).out, updLane lane (fun t => { t with count := t.count + 1 }) s1)
    let p := if audible r.2 then r.1 else (0, 0)
    if laneDrives r.2 lane then .next (emit .serial [lane, outWord wl p.1, outWord wl p.2] r.2) else .next r.2
  else .next s

/-- SERIAL_CLOCK_LOSS (R171): a slave group without BCLK. -/
def execSerialClockLoss (group : Nat) (s : State) : Host.Outcome State Fault Refusal :=
  if group < nGroups s && getL s (SP_GRP_CTL_MASTER group) == 0 && !flag s (SP_GRP_STAT_CLK_LOST group) then
    let ls := ((List.range 8).map (8 * group + ·)).filter (fun n => flagL s (SP_LANE_CFG_EN n))
    let s1 := ls.foldl (fun s n => putF (SP_LANE_STAT_CLK_LOST n) 1 (updLane n (fun t => { t with arrived := [] }) s))
      (putF (SP_GRP_STAT_CLK_LOST group) 1 s)
    .next (portState 3 group (ls.foldl (fun s n => portState 0 n s) s1))
  else .next s

/-! ## AES3 (R173 to R175) -/

/-- LOCK changed, with its event. -/
def setLock (n : Nat) (v : Bool) (s : State) : State :=
  if flag s (AES_RX_STAT_LOCK n) = v then s else portState 1 n (putB (AES_RX_STAT_LOCK n) v s)

/-- AES3_RX_FRAME (R173, R179): 24-bit subframes, each marked bad by parity or biphase, and the detected rate. -/
def execAes3RxFrame (receiver a b : Nat) (badA badB validity : Bool) (rate ratio : Nat) (s : State) :
    Host.Outcome State Fault Refusal :=
  if receiver < nAes s && flagL s (AES_RX_CTL_EN receiver) then
    let t := aesOf s receiver
    let good := if badA || badB || rate == 0 then 0 else if t.rate = rate then t.good + 1 else 1
    let wa := if badA then t.lastA else alignWord 24 a
    let wb := if badB then t.lastB else alignWord 24 b
    let s1 := updAes receiver (fun t => { t with
      good := min good 16, rate := rate % 8, lastA := wa, lastB := wb, vNow := t.vNow || validity }) s
    let s2 := bump (AES_RX_CNT_PARITY_ERR receiver) (b2n badA + b2n badB) s1
    let s3 := if flag s2 (AES_RX_STAT_LOCK receiver) then
        if rate % 8 != 0 && rate % 8 != getF s2 (AES_RX_STAT_RATE receiver) && 16 ≤ good then putF (AES_RX_STAT_RATE receiver) rate s2 else s2
      else if 16 ≤ good then setLock receiver true (putF (AES_RX_STAT_RATE receiver) rate s2) else s2
    if !flag s3 (AES_RX_STAT_LOCK receiver) then .next s3
    else
      let s4 := aesNa receiver wa wb s3
      let pair := if flag s4 (AES_RX_STAT_NONAUDIO receiver) then (0, 0) else (wa, wb)
      if flagL s (AES_RX_CTL_ASRC_EN receiver) then
        let i := getL s (AES_RX_CTL_ASRC receiver)
        .next (if asrcServes s i (48 + receiver) then asrcFrame i ratio s4 else s4)
      else
        let buf := (aesOf s4 receiver).buf
        if buf.length < 4 then .next (updAes receiver (fun t => { t with buf := t.buf ++ [pair] }) s4)
        else .next (bump (AES_RX_CNT_SLIP receiver) 1 (updAes receiver (fun t => { t with buf := t.buf.drop 1 ++ [pair] }) s4))
  else .next s

/-- AES3_LOCK_LOSS (R173): 4 frame periods without a valid preamble. -/
def execAes3LockLoss (receiver : Nat) (s : State) : Host.Outcome State Fault Refusal :=
  if receiver < nAes s && flag s (AES_RX_STAT_LOCK receiver) then
    .next (setLock receiver false (putF (AES_RX_STAT_RATE receiver) 0
      (updAes receiver (fun t => { t with good := 0, rate := 0, buf := [] }) s)))
  else .next s

/-- The CRCC of channel-status bytes 0 to 22. PRESUMED (AES3): x^8 + x^4 + x^3 + x^2 + 1 from all ones, low bit first.
(PRESUMED log 50) -/
def crcc (cs : Nat) : Nat :=
  (bytesOf cs 23).foldl (fun c b => (List.range 8).foldl (fun c _ => if c % 2 = 1 then c / 2 ^^^ 0xB8 else c / 2) (c ^^^ b)) 0xFF

/-- Whether a channel-status block is latched (R174). -/
def csLatches (cs : Nat) : Bool := !bitOf cs 0 || bits cs 184 8 == crcc cs

/-- A Z preamble at a receiver: the block's bits latched, GRADE, V_SEEN and the non-audio mark (R174, R175, R180). -/
def rxBlock (n csA csB usA usB : Nat) (s : State) : State :=
  let t := aesOf s n
  let rx : AesBits := ⟨if csLatches csA then csA else t.rx.csA, if csLatches csB then csB else t.rx.csB, usA, usB⟩
  let na := flagL s (AES_RX_CTL_NA_EN n) && (bitOf rx.csA 1 || bitOf rx.csB 1)
  let s1 := bump (AES_RX_CNT_CS_CRC_ERR n) (b2n (!csLatches csA) + b2n (!csLatches csB))
    (updAes n (fun t => { t with rx := rx, csMute := na, vNow := false }) s)
  setNonAudio true n (na || (aesOf s1 n).naMute)
    (putFs [(AES_RX_STAT_GRADE n, bits rx.csA 32 2), (AES_RX_STAT_V_SEEN n, b2n t.vNow)] s1)

/-- A block start at a transmitter: committed buffers are taken, and the block is sent (R174). -/
def txBlock (n : Nat) (s : State) : State :=
  let s1 := updAes n (fun t => if t.commit then { t with sending := t.staged, commit := false } else t) s
  let b := (aesOf s1 n).sending
  let fix := fun cs => if flagL s (AES_TX_CTL_CRC_GEN n) then cs % 2 ^ 184 + crcc cs * 2 ^ 184 else cs
  emit .serial [128 + n, fix b.csA, fix b.csB, b.usA, b.usB, b2n (flagL s (AES_TX_CTL_V_OUT n))] s1

/-- Whether a transmitter drives its ball (R173, R181): one that follows a receiver stops without that receiver's LOCK. -/
def txDrives (s : State) (n : Nat) : Bool :=
  n < nAes s && flagL s (AES_TX_CTL_EN n) && bitOf (aesOen s) n && driving s
    && (!flagL s (AES_TX_CTL_TX_FOLLOW n) || flag s (AES_RX_STAT_LOCK (getL s (AES_TX_CTL_FOLLOW_RX n))))

/-- AES3_BLOCK_START (R174). -/
def execAes3BlockStart (transmit : Bool) (port csA csB usA usB : Nat) (s : State) : Host.Outcome State Fault Refusal :=
  if transmit then (if txDrives s port then .next (txBlock port s) else .next s)
  else if port < nAes s && flag s (AES_RX_STAT_LOCK port) then .next (rxBlock port csA csB usA usB s)
  else .next s

/-- TX_COMMIT written (R174). -/
def txCommit (n : Nat) (s : State) : State := updAes n (fun t => { t with commit := true }) s

/-- AES3_TX_COMMIT. -/
def execAes3TxCommit (transmitter : Nat) (s : State) : Host.Outcome State Fault Refusal :=
  if transmitter < nAes s then .next (txCommit transmitter s) else .next s

/-- The 192-bit buffer that AES_IDX selects by kind and channel. -/
def aesBuf (t : AesSt) (kind ch : Nat) : Nat :=
  let b := if kind < 2 then t.rx else t.staged
  if kind % 2 = 0 then (if ch = 0 then b.csA else b.csB) else (if ch = 0 then b.usA else b.usB)

/-- A staged buffer changed. -/
def putAesBuf (kind ch v : Nat) (t : AesSt) : AesSt :=
  let b := t.staged
  let b' := if kind = 2 then (if ch = 0 then { b with csA := v } else { b with csB := v })
    else if kind = 3 then (if ch = 0 then { b with usA := v } else { b with usB := v }) else b
  { t with staged := b' }

/-- A 32-bit word of a buffer replaced. -/
def putWord32 (v w x : Nat) : Nat := v - bits v (32 * w) 32 * 2 ^ (32 * w) + lo32 x * 2 ^ (32 * w)

/-- AES_DATA read or written at AES_IDX; the index then advances by one word. (DESIGN CHOICE log 51) -/
def aesAccess (write : Bool) (value : Nat) (s : State) : Nat × State :=
  let p := getF s AES_IDX_PORT
  let k := getF s AES_IDX_KIND
  let c := getF s AES_IDX_CH
  let w := getF s AES_IDX_WORD
  let t := aesOf s p
  let s1 := putF AES_IDX_WORD (if w < 5 then w + 1 else 0) s
  if nAes s ≤ p ∨ 6 ≤ w then (0, s1)
  else if write then (0, if k < 2 then s1 else updAes p (putAesBuf k c (putWord32 (aesBuf t k c) w value)) s1)
  else (bits (aesBuf t k c) (32 * w) 32, s1)

/-- AES_DATA_ACCESS (R174). -/
def execAesDataAccess (write : Bool) (value : Nat) (s : State) : Host.Outcome State Fault Refusal :=
  let r := aesAccess write value s
  .next (if write then r.2 else emit .response [0, 0, 0, r.1] r.2)

/-! ## The engine's grants (R122, R170, R171) -/

/-- The pair that an input source presents in this course. -/
def inputPair (src : Nat) (s : State) : (Nat × Nat) × State :=
  if src < 48 then
    match laneAsrc s src with
    | some i =>
      if asrcServes s i src then let r := asrcPair i s; (if flag s (SP_LANE_STAT_NONAUDIO src) then (0, 0) else r.1, r.2)
      else ((0, 0), s)
    | none => (if flag s (SP_LANE_STAT_CLK_LOST src) then (0, 0) else (laneOf s src).present, s)
  else
    let n := src - 48
    if flagL s (AES_RX_CTL_ASRC_EN n) then
      let i := getL s (AES_RX_CTL_ASRC n)
      if asrcServes s i src then let r := asrcPair i s; (if flag s (AES_RX_STAT_NONAUDIO n) then (0, 0) else r.1, r.2)
      else ((0, 0), s)
    else (if flag s (AES_RX_STAT_LOCK n) then (aesOf s n).present else (0, 0), s)

/-- The input sources in rising order with the slots they bind: lanes, then receivers as 48 + n. -/
def inputSources (s : State) : List (Nat × Nat × Nat) :=
  ((List.range 48).filter (fun n => laneOn s n && !laneIsOut s n && laneBound s n)).map
      (fun n => (n, getL s (SP_LANE_BIND_SLOT_A n), getL s (SP_LANE_BIND_SLOT_B n)))
    ++ ((List.range (nAes s)).filter (fun n => flagL s (AES_RX_CTL_EN n))).map
      (fun n => (48 + n, getL s (AES_RX_CTL_SLOT_A n), getL s (AES_RX_CTL_SLOT_A n) + 1))

/-- The output sinks: lanes, then transmitters as 48 + n. -/
def outputSinks (s : State) : List (Nat × Nat × Nat) :=
  ((List.range 48).filter (fun n => laneOn s n && laneIsOut s n && laneBound s n)).map
      (fun n => (n, getL s (SP_LANE_BIND_SLOT_A n), getL s (SP_LANE_BIND_SLOT_B n)))
    ++ ((List.range (nAes s)).filter (fun n => flagL s (AES_TX_CTL_EN n))).map
      (fun n => (48 + n, getL s (AES_TX_CTL_SLOT_A n), getL s (AES_TX_CTL_SLOT_A n) + 1))

/-- A line of words with the pair of a source put at its slots, where no lower source has. -/
def placePair (line : Nat) (m : AMap Nat) (x : (Nat × Nat) × (Nat × Nat)) : AMap Nat :=
  let put := fun (m : AMap Nat) (slot v : Nat) =>
    if slot / 8 = line ∧ (m.find (slot % 8)).isNone then m.put (slot % 8) v else m
  put (put m x.1.1 x.2.1) x.1.2 x.2.2

/-- PORT_INPUT_PRESENT (R170, R171): a line of input samples; slots that nothing binds receive zeros. -/
def portLineWords (line : Nat) (s : State) : List Nat × State :=
  let srcs := (inputSources s).filter (fun x => x.2.1 / 8 == line || x.2.2 / 8 == line)
  let r := srcs.foldl (fun (a : AMap Nat × State) x =>
    let p := inputPair x.1 a.2
    (placePair line a.1 ((x.2.1, x.2.2), p.1), p.2)) (([] : AMap Nat), s)
  ((List.range 8).map (fun k => r.1.get k 0), r.2)

/-- A line that an output engine reads, under the cut-over gain, and held for the lag in the direct frame of a pair (R41,
R133, R305). -/
def outWords (code line c : Nat) (s : State) : List Nat × State :=
  let r := engineSlotRead code line c s
  let ws := r.1.map (cutGain s)
  if s.pins.pairEn then
    let k := code * 1024 + line
    let h := (ws :: s.pair.hold.get k []).take 5
    let past := h.getD (if s.pair.replay then 0 else s.pair.lag) []
    (past, { r.2 with pair := { r.2.pair with hold := r.2.pair.hold.put k h } })
  else (ws, r.2)

/-- An output sample taken for the channels of a sink that a line holds. -/
def takeOut (line : Nat) (ws : List Nat) (x : Nat × Nat × Nat) (s : State) : State :=
  let f := fun (p : Nat × Nat) =>
    (if x.2.1 / 8 = line then ws.getD (x.2.1 % 8) 0 else p.1, if x.2.2 / 8 = line then ws.getD (x.2.2 % 8) 0 else p.2)
  if x.1 < 48 then updLane x.1 (fun t => { t with out := f t.out }) s
  else updAes (x.1 - 48) (fun t => { t with out := f t.out }) s

/-- PORT_OUTPUT_READ (R170). -/
def portReadLine (line c : Nat) (s : State) : State :=
  let r := outWords 0x24 line c s
  ((outputSinks s).filter (fun x => x.2.1 / 8 == line || x.2.2 / 8 == line)).foldl (fun s x => takeOut line r.1 x s) r.2

/-- The lines that the port engine must transfer in a course: input, output. -/
def portLines (s : State) : List Nat × List Nat :=
  (((inputSources s).flatMap (fun x => [x.2.1 / 8, x.2.2 / 8])).eraseDups,
   ((outputSinks s).flatMap (fun x => [x.2.1 / 8, x.2.2 / 8])).eraseDups)

/-! ## At the boundary -/

/-- The synchronous lanes of a group. -/
def syncLanes (s : State) (g : Nat) : List Nat :=
  ((List.range 8).map (8 * g + ·)).filter (fun n => laneOn s n && (laneAsrc s n).isNone)

/-- The frames of the ended course taken for presentation in the next, with the slips of slave groups (R167, R170). -/
def portFrames (s : State) : State :=
  let s1 := (List.range (nGroups s)).foldl (fun s g =>
    let ls := syncLanes s g
    let n := ls.foldl (fun m k => max m (laneOf s k).count) 0
    if getL s (SP_GRP_CTL_MASTER g) = 0 && !ls.isEmpty && !flag s (SP_GRP_STAT_CLK_LOST g) && n != 1 then
      bump (SP_GRP_STAT_SLIP g) 1 s else s) s
  let s2 := (List.range (nLanes s)).foldl (fun s n => updLane n (fun t => { t with
    present := t.arrived.getLast?.getD (0, 0), arrived := [], count := 0 }) s) s1
  (List.range (nAes s)).foldl (fun s n =>
    if flag s (AES_RX_STAT_LOCK n) && !flagL s (AES_RX_CTL_ASRC_EN n) then
      match (aesOf s n).buf with
      | p :: rest => updAes n (fun t => { t with present := p, buf := rest }) s
      | [] => bump (AES_RX_CNT_SLIP n) 1 s
    else s) s2

/-- One frame of every transmitter in a course: the pair last read, in 24 bits; one that follows a receiver sends converted
samples. -/
def aesFrames (s : State) : State :=
  ((List.range (nAes s)).filter (txDrives s)).foldl (fun s n =>
    let r := if flagL s (AES_TX_CTL_TX_FOLLOW n) then
        let i := getL s (AES_TX_CTL_ASRC n)
        if asrcServes s i (64 + n) then asrcPair i s else ((0, 0), s)
      else ((aesOf s n).out, s)
    let p := if audible r.2 then r.1 else (0, 0)
    emit .serial [64 + n, outWord 24 p.1, outWord 24 p.2] r.2) s

/-- What the hardware finds when settings come into effect: refused group and lane settings, instances that two ports name,
lanes in effect (R165, R168, R171, R176). (DESIGN CHOICE log 53) -/
def portSettings (s : State) : State :=
  let s1 := (List.range (nGroups s)).foldl (fun s g =>
    let bad := (getL s (SP_GRP_CTL_MASTER g) == 1 && 384 / max (rmOf s) 1 ≤ getL s (SP_GRP_CTL_PHASE g))
      || ((List.range 8).map (8 * g + ·)).any (fun n => flagL s (SP_LANE_CFG_EN n) && !laneFormOk s n)
    setIf (SP_GRP_STAT_CFG_ERR g) bad s) s
  let s2 := (List.range (nLanes s)).foldl (fun s n => putB (SP_LANE_STAT_ACTIVE n) (laneOn s n && laneBound s n) s) s1
  (List.range (nAsrc s)).foldl (fun s i => setIf (SP_ASRC_STAT_ASRC_CONFLICT i) (1 < (asrcPorts s i).length) s) s2

/-! ## Latency terms (R170, R176) -/

/-- The first read-port cycle that the image grants the port engine in a line's slot bank. -/
def firstGrant (s : State) (line : Nat) : Nat :=
  ((List.range 64).find? (fun c => rCode s line c == 0x24)).getD 0

/-- The input port term of the source that binds a slot. (DESIGN CHOICE log 51, 126) -/
def portInTerm (s : State) (slot : Nat) : Option Nat :=
  match (inputSources s).find? (fun x => x.2.1 == slot || x.2.2 == slot) with
  | none => none
  | some x =>
    if x.1 < 48 then
      match laneAsrc s x.1 with
      | some i => some (asrcDelay s i + 1)
      | none =>
        let g := x.1 / 8
        if getL s (SP_GRP_CTL_MASTER g) = 1 then some (if getL s (SP_GRP_CTL_PHASE g) = 0 then 1 else 2)
        else some (if getF s (SP_GRP_STAT_WS_POS g) = 0 then 1 else 2)
    else if flagL s (AES_RX_CTL_ASRC_EN (x.1 - 48)) then some (asrcDelay s (getL s (AES_RX_CTL_ASRC (x.1 - 48))) + 1)
    else some 2

/-- The output port term of the sink that binds a slot. (DESIGN CHOICE log 51, 126) -/
def portOutTerm (s : State) (slot : Nat) : Option Nat :=
  match (outputSinks s).find? (fun x => x.2.1 == slot || x.2.2 == slot) with
  | none => none
  | some x =>
    if x.1 < 48 then
      match laneAsrc s x.1 with
      | some i => some (asrcDelay s i + 1)
      | none =>
        let g := x.1 / 8
        if getL s (SP_GRP_CTL_MASTER g) = 0 && getF s (SP_GRP_STAT_WS_POS g) < firstGrant s (slot / 8) then some 2 else some 1
    else if flagL s (AES_TX_CTL_TX_FOLLOW (x.1 - 48)) then some (asrcDelay s (getL s (AES_TX_CTL_ASRC (x.1 - 48))) + 1)
    else some 1

end Sys2Proof.Machine
end

