-- ==== Sys2Proof/Machine/Relay.lean ====
section
/-! DEFINITION. What a claimant of a pair queues for its partner (R302, R307). -/

namespace Sys2Proof.Machine

/-- Whether changes are relayed: a claimant of a pair whose fabric runs (R307). (DESIGN CHOICE log 84) -/
def relays (s : State) : Bool := s.pins.pairEn && flag s PAIR_STAT_CLAIM && running s

/-- The bytes of an event in a record (R302). -/
def PairEv.bytes (e : PairEv) : Nat := 4 * (1 + e.words.length)

/-- The closings of records that the queued events need, with 704 bytes of each record left to the course's own events
(R302, R307); 0 where nothing is relayed. -/
def queueLag (s : State) : Nat :=
  if relays s then ((s.pair.queue.map PairEv.bytes).sum + 1343) / 1344 else 0

/-- An event put at the end of the claimant's queue. (DESIGN CHOICE log 84) -/
def queueEv (e : PairEv) (s : State) : State :=
  if relays s then { s with pair := { s.pair with queue := s.pair.queue ++ [e] } } else s

end Sys2Proof.Machine
end

