-- ==== Sys2Proof/Machine/Amp.lean ====
section
/-! DEFINITION. The amplifier drive unit: modulation, protection, channel states, envelope-tracking boost and the Maelkel
stage bus (R263 to R286). -/

namespace Sys2Proof.Machine

/-- A channel. -/
def ampCh (s : State) (c : Nat) : AmpCh := s.amp.ch.get c AmpCh.init
/-- A channel changed. -/
def updCh (c : Nat) (f : AmpCh → AmpCh) (s : State) : State :=
  { s with amp := { s.amp with ch := s.amp.ch.set c (f (ampCh s c)) AmpCh.init } }
/-- A module. -/
def ampMod (s : State) (m : Nat) : AmpMod := s.amp.mod.get m AmpMod.init
/-- A module changed. -/
def updMod (m : Nat) (f : AmpMod → AmpMod) (s : State) : State :=
  { s with amp := { s.amp with mod := s.amp.mod.set m (f (ampMod s m)) AmpMod.init } }

/-- An event of the course now beginning for the record (R302). (DESIGN CHOICE log 108) -/
def noteEv (e : PairEv) (s : State) : State :=
  if s.pins.pairEn && flag s PAIR_STAT_CLAIM then { s with pair := { s.pair with now := s.pair.now ++ [e] } } else s

/-! ## Channel conditions -/

/-- Bits of a module's capability block (R282). -/
def capsF (s : State) (m w lo n : Nat) : Nat := bits ((ampMod s m).caps.getD w 0) lo n

/-- Overcurrent protection in force: OC_EN, forced off where the module has no sense (R283). -/
def ocOn (s : State) (c : Nat) : Bool := flag s (AMP_CH_PROT_OC_EN c) && ((ampMod s (c / 4)).caps.isEmpty || capsF s (c / 4) 2 0 2 != 0)

/-- TRIPc at the level that TRIP_POL selects (R271). -/
def tripActive (s : State) (c : Nat) : Bool := bitOf s.pins.trip c == flag s (AMP_CH_CFG_TRIP_POL c)

/-- A trip present now: TRIPc or the overcurrent path; on a standby, a trip that the record reports (R273, R306). -/
def tripPresent (s : State) (c : Nat) : Bool :=
  if s.pins.pairEn && !flag s PAIR_STAT_CLAIM then (ampCh s c).fresh
  else tripActive s c || (ocOn s c && getF s (AMP_CH_PROT_OC_LIMIT c) < (ampCh s c).level)

/-- The AMP_OEN bits in force. -/
def ampOen (s : State) : Nat := if s.oenDark.contains AMP_OEN_OEN.addr then 0 else getL s AMP_OEN_OEN

/-- GENc (R265). -/
def genHigh (s : State) (c : Nat) : Bool :=
  hasAmp s && driving s && bitOf (ampOen s) c && flag s AMP_CTL_EN && flag s (AMP_CH_CFG_EN c)
    && getF s (AMP_CH_STAT_STATE c) == 2 && !tripPresent s c && !(ampCh s c).trip && !(ampCh s c).oc && audible s

/-- Whether a destination is muted by a channel: WAIT_MODULE, TRIPPED or SHORT (R149, R272). -/
def ampMutes (s : State) (d : Nat) : Bool :=
  hasAmp s && (List.range 32).any (fun c =>
    [1, 4, 5].contains (getF s (AMP_CH_STAT_STATE c)) && getL s (AMP_CH_DEST_DEST c) == d)

/-! ## Modulation (R266 to R269) -/

/-- Whether a group runs a ×16 carrier. -/
def groupX16 (s : State) (g : Nat) : Bool := flag s (AMP_MOD_STAT_X16 g) && flag s CLK_CAR_CFG_X16

/-- Q of a channel: quarter-cycles in a carrier period. -/
def carrierQ (s : State) (c : Nat) : Nat := if groupX16 s (c / 4) then 6144 else 12288

/-- Nanoseconds as quarter-cycles, rounded up (R268): a quarter-cycle is 1 / (98,304 × base rate) s. (DESIGN CHOICE log 75) -/
def quarters (s : State) (ns : Nat) : Nat :=
  (ns * 98304 * baseRate (getF s FAB_TL_STATUS_FAMILY) + 999999999) / 1000000000

/-- MINQ (R268). -/
def minQ (s : State) (c : Nat) : Nat :=
  max (quarters s (getF s AMP_CTL_MIN_PULSE)) (quarters s (2 * getF s (AMP_MOD_STAT_DT (c / 4))))

/-- K: the periods of a span (R267). -/
def spanK (s : State) (c : Nat) : Nat := (if groupX16 s (c / 4) then 16 else 8) / max (rmOf s) 1

/-- One requantisation (R269) of an ideal high time in 2^-36 quarter-cycles: the whole high time and the new e1.
(DESIGN CHOICE log 75) -/
def shape (q minq : Nat) (v e1 e2 : Int) : Int × Int :=
  let w := v + 2 * e1 - e2
  let h := rne 36 w
  let h1 := if h < minq then 0 else h
  let h2 := if (q : Int) - minq < h1 then (q : Int) else h1
  (h2, w - h2 * 2 ^ 36)

/-- x × Q of the next period of a channel's span in 2^-35, and whether it was clamped (R267, R268). (DESIGN CHOICE log 133) -/
def periodX (s : State) (c : Nat) : Int × Bool :=
  let t := ampCh s c
  let k := max (spanK s c) 1
  let i := min t.idx (k - 1)
  let x := (toS 32 t.prev * k + (toS 32 t.cur - toS 32 t.prev) * (i + 1)) * (16 / k : Nat)
  let q := carrierQ s c
  let m : Int := ((q : Int) - 2 * minQ s c) * 2 ^ 35
  (clampI (-m) m (x * q), decide (m < x * q) || decide (x * q < -m))

/-- A carrier period of a channel: both legs' high times, CLIP, and what leaves the balls (R265, R268, R269). -/
def carrierPeriod (c : Nat) (s : State) : State :=
  let t := ampCh s c
  let q := carrierQ s c
  let mq := minQ s c
  let x := periodX s c
  let one : Int := q * 2 ^ 35
  let a := shape q mq (one + x.1) t.a1 t.a2
  let three := flag s (AMP_MOD_STAT_THREE_LEVEL (c / 4))
  let b := if three then shape q mq (one - x.1) t.b1 t.b2 else ((q : Int) - a.1, 0)
  let s1 := if x.2 && !t.clipped then bump (AMP_CH_STAT_CLIP c) 1 s else s
  let s2 := updCh c (fun t => { t with
    idx := t.idx + 1, clipped := t.clipped || x.2, a1 := a.2, a2 := t.a1
    b1 := if three then b.2 else t.b1
    b2 := if three then t.b1 else t.b2 }) s1
  emit .gate [c, a.1.toNat, b.1.toNat, b2n (genHigh s c)] s2

/-- CARRIER_PERIOD (R269): a channel's period begins; the measurement filters' outputs of the period raise the peaks (R270).
(DESIGN CHOICE log 75, 76, 133) -/
def execCarrierPeriod (channel current voltage : Nat) (s : State) : Host.Outcome State Fault Refusal :=
  if hasAmp s && channel < 32 && running s && flag s AMP_CTL_EN && flag s (AMP_CH_CFG_EN channel) then
    let s1 := putF (AMP_CH_MEAS_I_PEAK channel) (max (getF s (AMP_CH_MEAS_I_PEAK channel)) (min current 65535)) s
    .next (carrierPeriod channel
      (putF (AMP_CH_MEAS_V_PEAK channel) (max (getF s (AMP_CH_MEAS_V_PEAK channel)) (min voltage 65535)) s1))
  else .next s

/-- The channels whose sample or envelope slot a line holds. -/
def ampSinks (s : State) (line : Nat) : List Nat :=
  if hasAmp s then (List.range 32).filter (fun c => flag s (AMP_CH_CFG_EN c)
    && (getL s (AMP_CH_SRC_SLOT c) / 8 == line || getL s (AMP_CH_SRC_ENV_SLOT c) / 8 == line)) else []

/-- The unit's read of a line at its grant 0x25 (R267, R275): a new span of each channel, and its envelope sample. -/
def ampReadLine (line c : Nat) (s : State) : State :=
  let r := outWords 0x25 line c s
  (ampSinks s line).foldl (fun s n =>
    let s1 := if getL s (AMP_CH_SRC_SLOT n) / 8 = line then
        updCh n (fun t => { t with prev := t.cur, cur := r.1.getD (getL s (AMP_CH_SRC_SLOT n) % 8) 0, idx := 0, clipped := false }) s
      else s
    if getL s (AMP_CH_SRC_ENV_SLOT n) / 8 = line then
      updCh n (fun t => { t with env := r.1.getD (getL s (AMP_CH_SRC_ENV_SLOT n) % 8) 0 }) s1
    else s1) r.2

/-- The lines that the unit must read in a course. -/
def ampLines (s : State) : List Nat :=
  if hasAmp s then (((List.range 32).filter (fun c => flag s (AMP_CH_CFG_EN c))).flatMap
    (fun c => [getL s (AMP_CH_SRC_SLOT c) / 8, getL s (AMP_CH_SRC_ENV_SLOT c) / 8])).eraseDups else []

/-! ## Trips (R270, R271) -/

/-- Whether a unit takes its own TRIP and SDM inputs: not while it is a standby (R306). -/
def ownTrips (s : State) : Bool := hasAmp s && !(s.pins.pairEn && !flag s PAIR_STAT_CLAIM)

/-- OVERCURRENT_TRIP (R270): an output of a channel's protection filter; above OC_LIMIT it latches a trip and GEN falls.
(DESIGN CHOICE log 76) -/
def execOvercurrentTrip (channel level : Nat) (s : State) : Host.Outcome State Fault Refusal :=
  if ownTrips s && channel < 32 then
    let s1 := updCh channel (fun t => { t with level := level }) s
    if ocOn s channel && getF s (AMP_CH_PROT_OC_LIMIT channel) < level then
      .next (emit .gate [channel, 0] (updCh channel (fun t => { t with oc := true }) s1))
    else .next s1
  else .next s

/-- TRIP_INPUT (R271): TRIPc takes a level; at its active level it latches a trip and GEN falls. -/
def execTripInput (channel : Nat) (high : Bool) (s : State) : Host.Outcome State Fault Refusal :=
  if channel < 32 && hasAmp s then
    let v := s.pins.trip - b2n (bitOf s.pins.trip channel) * 2 ^ channel + b2n high * 2 ^ channel
    let s1 := { s with pins := { s.pins with trip := v } }
    if ownTrips s && tripActive s1 channel then
      .next (emit .gate [channel, 0] (updCh channel (fun t => { t with trip := true }) s1))
    else .next s1
  else .next s

/-! ## Channel states (R272 to R274) -/

/-- H: the re-enable hold in courses. -/
def holdH (s : State) : Nat := fsOf s / 100
/-- W2: the re-trip window in courses. -/
def windowW2 (s : State) : Nat := (fsOf s * 2 + 999) / 1000
/-- W1: the strike window in courses. -/
def windowW1 (s : State) : Nat := fsOf s

/-- A trip found at the boundary of the present course (R273): TRIPS, the strike it may count as, TRIPPED or SHORT. -/
def tripFound (c : Nat) (strike : Bool) (s : State) : State :=
  let k := s.fab.ci
  let t := ampCh s c
  let l := (if strike then [k] else []) ++ t.strikes.filter (fun x => k < x + windowW1 s)
  let short := strike && 3 ≤ l.length
  let s1 := bump (AMP_CH_STAT_TRIPS c) 1 (putFs [(AMP_CH_STAT_STRIKES c, min l.length 3),
    (AMP_CH_STAT_STATE c, if short then 5 else 4)] s)
  let s2 := if short then putF (AMP_CH_STAT_SHORT c) 1 s1 else s1
  let s3 := noteEv ⟨5, c, [b2n (t.trip || tripActive s c) + 2 * b2n t.oc]⟩ (updCh c (fun t => { t with tCi := k, strikes := l, fresh := false }) s2)
  let s4 := raiseOwner 16 c 0x0050 [c + 32 * b2n (t.trip || tripActive s c) + 64 * b2n t.oc + 256 * min l.length 3,
    getF s1 (AMP_CH_STAT_TRIPS c)] s3
  if short then raiseAll 0x0051 [c] s4 else s4

/-- The end of the hold (R272, R273): back to RUN with the latches released, or a strike where a trip is still present.
(DESIGN CHOICE log 77) -/
def tripHold (c : Nat) (s : State) : State :=
  if getF s (AMP_CH_STAT_STATE c) = 4 ∧ (ampCh s c).tCi + holdH s ≤ s.fab.ci then
    if tripPresent s c then tripFound c true s
    else putF (AMP_CH_STAT_STATE c) 2 (updCh c (fun t => { t with trip := false, oc := false, runCi := some s.fab.ci }) s)
  else s

/-- TRIP_HOLD_EXPIRY (R273). -/
def execTripHoldExpiry (channel : Nat) (s : State) : Host.Outcome State Fault Refusal :=
  if hasAmp s && channel < 32 && running s then .next (tripHold channel s) else .next s

/-- Whether a channel's module serves it: READY, and the channel declared (R264, R272). -/
def served (s : State) (c : Nat) : Bool := getF s (AMP_MOD_STAT_STATE (c / 4)) == 2 && c % 4 < capsF s (c / 4) 0 8 3

/-- A channel's state at the boundary of the present course (R272). (DESIGN CHOICE log 77) -/
def channelStep (c : Nat) (s : State) : State :=
  let t := ampCh s c
  let go := fun v => putF (AMP_CH_STAT_STATE c) v s
  if !flag s (AMP_CH_CFG_EN c) then go 0
  else match getF s (AMP_CH_STAT_STATE c) with
    | 0 => go (if flag s (AMP_CH_STAT_SHORT c) then 5 else 1)
    | 1 => if served s c then go 2 else s
    | 2 =>
      if t.trip || t.oc then
        tripFound c (match t.runCi with | some r => s.fab.ci ≤ r + windowW2 s | none => false) s
      else if getF s (AMP_MOD_STAT_STATE (c / 4)) != 2 then go 1
      else if flag s (AMP_CH_CFG_SIL_PD c) && bitOf s.amp.sil c then go 3
      else s
    | 3 => if bitOf s.amp.sil c then s else go 2
    | 4 => tripHold c s
    | _ => if bitOf s.amp.clear c then putF (AMP_CH_STAT_SHORT c) 0 (go 1) else s

/-- AMP_CLEAR (R286): the channels named leave SHORT at the next course boundary. (DESIGN CHOICE log 77) -/
def ampClear (v : Nat) (s : State) : State :=
  if hasAmp s then { s with amp := { s.amp with clear := s.amp.clear ||| lo32 v } } else s

/-- AMP_CLEAR_WRITE. -/
def execAmpClearWrite (value : Nat) (s : State) : Host.Outcome State Fault Refusal := .next (ampClear value s)

/-- The channels whose SIL_DEST is SILENT (R277). -/
def silMask (s : State) : Nat :=
  ofBits ((List.range 32).map (fun c => (s.rte.dst.get (getL s (AMP_CH_DEST_SIL_DEST c)) DestSt.init).silent))

/-! ## Envelope-tracking boost (R274, R275) -/

/-- The channels of a group. -/
def groupCh (g : Nat) : List Nat := (List.range 4).map (4 * g + ·)

/-- 50 mV as a level: 2^31 × 28,224,000. (DESIGN CHOICE log 78) -/
def volt50 : Nat := 2147483648 * 28224000

/-- What a group needs for the envelope samples of this course (R275), in 50 mV / 2^31. -/
def groupNeed (s : State) (g : Nat) : Nat :=
  ((groupCh g).filter (fun c => flag s (AMP_CH_CFG_EN c))).foldl (fun m c =>
    max m (getF s (AMP_GRP_ENV_HEADROOM g) * 2147483648 + (toS 32 (ampCh s c).env).natAbs * getF s (AMP_GRP_ENV_V_FS g))) 0

/-- The negotiated rail range of a module, in 50 mV. -/
def railRange (s : State) (g : Nat) : Nat × Nat := (bits ((ampMod s g).cfg.getD 1 0) 0 12, bits ((ampMod s g).cfg.getD 1 0) 16 12)

/-- Whether R274 holds a group at RAIL_MIN. -/
def heldMin (s : State) (g : Nat) : Bool := (groupCh g).any (fun c => [4, 5].contains (getF s (AMP_CH_STAT_STATE c)))

/-- A group's level after one more course (R274, R275). (DESIGN CHOICE log 78) -/
def groupStep (g : Nat) (s : State) : State :=
  let w := (groupNeed s g :: s.amp.need.get g []).take (getL s (AMP_GRP_ENV2_D g))
  let r := railRange s g
  let target := max (r.1 * volt50) (min (r.2 * volt50) (w.foldl max 0 * 28224000))
  let old := s.amp.level.get g 0
  let slew := 20 * getL s (AMP_GRP_ENV2_REL_SLEW g) * volt50 / max (fsOf s) 1
  let lvl := if heldMin s g then r.1 * volt50 else if old ≤ target then target else max target (old - slew)
  { s with amp := { s.amp with need := s.amp.need.set g w [], level := s.amp.level.set g lvl 0 } }

/-- The setpoint word of a group (R281), recorded in AMP_GRPg_SET. A level between two steps of 50 mV is sent as either: the
spec names no rounding. (DESIGN CHOICE log 78) -/
def setpointWord (g : Nat) (s : State) : Nat × State :=
  let l := s.amp.level.get g 0
  let f := takeFree s
  let v := if l % volt50 = 0 then l / volt50 else l / volt50 + (Config.freeWord f.1).toNat % 2
  let v := min v 4095
  let en := (groupCh g).any (fun c => [2, 4, 5].contains (getF s (AMP_CH_STAT_STATE c))) && getF s PWR_STAT_STATE == 0
  let stage := (groupCh g).any (fun c => getF s (AMP_CH_STAT_STATE c) == 2)
  (v + 4096 * b2n en + 8192 * b2n stage,
   putFs [(AMP_GRP_SET_SETPOINT g, v), (AMP_GRP_SET_RAIL_EN g, b2n en), (AMP_GRP_SET_HELD_MIN g, b2n (heldMin s g))]
     (if l % volt50 = 0 then s else f.2))

/-! ## Stage-bus frames (R279) -/

/-- A frame: SOF, header pair, payload words each with its complement, CRC. -/
def mklFrame (addr typ seq : Nat) (ws : List Nat) : List Nat :=
  let h := addr + 256 * typ + 65536 * (8 * ws.length) + 16777216 * (seq % 256)
  let body := bytesOf h 4 ++ bytesOf (not32 h) 4 ++ ws.flatMap (fun w => bytesOf w 4 ++ bytesOf (not32 w) 4)
  0xD5 :: body ++ bytesOf (crc32c body) 4

/-- Value words of a payload whose words are each followed by their complement. -/
def pairWords : List Nat → Option (List Nat)
  | [] => some []
  | w :: c :: t => if c = not32 w then (pairWords t).map (w :: ·) else none
  | _ => none

/-- A received frame that passes its header pair, its length and its CRC: ADDR, TYPE, SEQ, payload words as sent. -/
def mklParse (b : List Nat) : Option (Nat × Nat × Nat × List Nat) :=
  let h := ofBytes ((b.drop 1).take 4)
  let n := bits h 16 8
  let body := (b.drop 1).take (8 + n)
  if b.head? = some 0xD5 ∧ ofBytes ((b.drop 5).take 4) = not32 h ∧ n ≤ 64 ∧ n % 8 = 0 ∧ b.length = 13 + n
      ∧ bits h 4 4 = 0 ∧ ofBytes (b.drop (9 + n)) = crc32c body then
    some (bits h 0 4, bits h 8 8, bits h 24 8, bytesToWords (body.drop 8))
  else none

/-- A module's state changed, its owner told (R284). -/
def setMod (m st : Nat) (s : State) : State :=
  if getF s (AMP_MOD_STAT_STATE m) = st then s
  else raiseOwner 17 m 0x0052 [m + 8 * st] (putF (AMP_MOD_STAT_STATE m) st s)

/-- Whether the unit drives the bus: enabled, with the fabric running or in Quiet, and the claim held (R278, R390). -/
def busDrives (s : State) : Bool := hasAmp s && flag s AMP_CTL_EN && (running s || flag s LIFE_STATUS_QUIET) && driving s

/-- A setpoint cycle begins (R280): the SETPOINT frame. (DESIGN CHOICE log 78) -/
def setpointCycle (s : State) : State :=
  let seq := s.fab.ci / max (rmOf s) 1 / 4 % 256
  let r := (List.range 8).foldl (fun (a : List Nat × State) g =>
    let w := setpointWord g a.2
    (a.1 ++ [w.1], w.2)) (([] : List Nat), { s with amp := { s.amp with seq := seq } })
  if busDrives s then emit .stage (mklFrame 0xF 1 seq r.1) r.2 else r.2

/-- A setpoint cycle in Quiet (R390): rails off, no stage enabled, the lower rail limit as the setpoint.
(DESIGN CHOICE log 94) -/
def quietCycle (s : State) : State :=
  let seq := (s.amp.seq + 1) % 256
  let s1 := { s with amp := { s.amp with seq := seq } }
  if busDrives s then
    emit .stage (mklFrame 0xF 1 seq ((List.range 8).map (fun g => (railRange s g).1))) s1
  else s1

/-- The mode that R283 settles for a capability block: the two CONFIG words, or none where a row yields nothing. -/
def settle (s : State) (caps : List Nat) : Option (List Nat) :=
  let w := fun i lo n => bits (caps.getD i 0) lo n
  let three := w 1 0 1 == 1 && flag s AMP_MKL_CFG_ALLOW_3L
  let x16 := w 1 3 1 == 1 && flag s CLK_CAR_CFG_X16
  let dt := max (w 1 8 8) (getF s AMP_MKL_CFG_DT_FLOOR)
  let lo := max (w 3 0 12) (getF s AMP_MKL_RAIL_LIM_MIN)
  let hi := min (w 3 16 12) (getF s AMP_MKL_RAIL_LIM_MAX)
  if (three || w 1 1 1 == 1) && (x16 || w 1 2 1 == 1) && dt ≤ w 1 16 8 && lo ≤ hi && w 2 0 2 != 3 then
    some [b2n three + 2 * b2n x16 + 256 * dt, lo + 65536 * hi]
  else none

/-- A valid CAPS from a module (R283, R284): FOUND with its mode, or INCOMPAT. (DESIGN CHOICE log 79) -/
def takeCaps (m : Nat) (caps : List Nat) (s : State) : State :=
  let s1 := updMod m (fun t => { t with caps := caps, asked := false, due := false, tries := 0, miss := 0 }) s
  match settle s caps with
  | some cfg =>
    setMod m 1 (putFs [(AMP_MOD_STAT_THREE_LEVEL m, bits (cfg.getD 0 0) 0 1), (AMP_MOD_STAT_X16 m, bits (cfg.getD 0 0) 1 1),
      (AMP_MOD_STAT_DT m, bits (cfg.getD 0 0) 8 8)] (updMod m (fun t => { t with cfg := cfg }) s1))
  | none => setMod m 4 (updMod m (fun t => { t with cfg := [] }) s1)

/-- A STATUS frame of a module (R284): its words, and LOST where READY is 0. A standby's READY and LOST follow the record. -/
def takeStatus (m : Nat) (ws : List Nat) (s : State) : State :=
  let s1 := updMod m (fun t => { t with status := ws, miss := 0 }) s
  if getF s (AMP_MOD_STAT_STATE m) = 2 ∧ !bitOf (ws.getD 0 0) 0 ∧ ownTrips s then setMod m 3 s1 else s1

/-- A module's frame taken (R279, R284). -/
def mklTake (m typ : Nat) (ws : List Nat) (s : State) : State :=
  let st := getF s (AMP_MOD_STAT_STATE m)
  if !flag s AMP_MKL_CFG_DISC_EN then s
  else match typ with
    | 2 => if ws.length = 2 then takeStatus m ws s else s
    | 4 => if ws.length = 6 ∧ (st = 0 ∨ st = 3) ∧ ((ampMod s m).asked ∨ !ownTrips s) then takeCaps m ws s else s
    | 6 => if st = 1 ∧ ws = (ampMod s m).cfg ∧ ownTrips s then setMod m 2 (updMod m (fun t => { t with tries := 0, miss := 0 }) s) else s
    | _ => s

/-- MKL_FRAME_RX (R279): a frame received whole; one that fails its header pair, CRC or length is discarded and counted. -/
def execMklFrameRx (frame : List Nat) (s : State) : Host.Outcome State Fault Refusal :=
  if !hasAmp s || !flag s AMP_CTL_EN then .next s
  else match mklParse frame with
    | none => .next (bump AMP_MKL_ERR_FRAME_ERR 1 s)
    | some (m, typ, _, ws) =>
      if m < 8 then
        match pairWords ws with
        | some vs => .next (mklTake m typ vs s)
        | none => .next s
      else .next s

/-- STATUS_SLOT_END (R284): the slot of module SEQ mod 8 ends without a valid frame; three in a row lose a READY module. -/
def execStatusSlotEnd (s : State) : Host.Outcome State Fault Refusal :=
  let m := s.amp.seq % 8
  if ownTrips s && flag s AMP_CTL_EN && flag s AMP_MKL_CFG_DISC_EN && getF s (AMP_MOD_STAT_STATE m) == 2 then
    let n := (ampMod s m).miss + 1
    let s1 := updMod m (fun t => { t with miss := n }) s
    .next (if 3 ≤ n then setMod m 3 s1 else s1)
  else .next s

/-- A module that did not answer four CONFIG frames is ABSENT (R284). (DESIGN CHOICE log 79) -/
def giveUp (m : Nat) (s : State) : State :=
  if getF s (AMP_MOD_STAT_STATE m) = 1 ∧ 4 ≤ (ampMod s m).tries then setMod m 0 (updMod m (fun t => { t with tries := 0 }) s) else s

/-- MANAGEMENT_SLOT (R280, R284): the pending request of the lowest address, a CONFIG for a FOUND module, a DISCOVER that is
due. (DESIGN CHOICE log 79) -/
def execManagementSlot (s : State) : Host.Outcome State Fault Refusal :=
  if busDrives s && flag s AMP_MKL_CFG_DISC_EN then
    let s1 := (List.range 8).foldl (fun s m => giveUp m s) s
    match (List.range 8).find? (fun m => getF s1 (AMP_MOD_STAT_STATE m) == 1 || (ampMod s1 m).due) with
    | none => .next s1
    | some m =>
      if getF s1 (AMP_MOD_STAT_STATE m) = 1 then
        .next (emit .stage (mklFrame m 5 s1.amp.seq (ampMod s1 m).cfg) (updMod m (fun t => { t with tries := t.tries + 1 }) s1))
      else
        .next (emit .stage (mklFrame m 3 s1.amp.seq []) (updMod m (fun t => { t with due := false, asked := true }) s1))
  else .next s

/-- DISCOVER_TIMER (R284): a DISCOVER is due for a module that is ABSENT or LOST. -/
def execDiscoverTimer (mdl : Nat) (s : State) : Host.Outcome State Fault Refusal :=
  if hasAmp s && mdl < 8 && flag s AMP_MKL_CFG_DISC_EN && [0, 3].contains (getF s (AMP_MOD_STAT_STATE mdl)) then
    .next (updMod mdl (fun t => { t with due := true }) s)
  else .next s

/-- What a write of the bus settings does to INCOMPAT modules (R284). -/
def busRewritten (disc : Bool) (old new : State) : State :=
  let ch := disc || getF old AMP_MKL_RAIL_LIM_MIN != getF new AMP_MKL_RAIL_LIM_MIN
    || getF old AMP_MKL_RAIL_LIM_MAX != getF new AMP_MKL_RAIL_LIM_MAX || getF old AMP_MKL_CFG_ALLOW_3L != getF new AMP_MKL_CFG_ALLOW_3L
  if ch then (List.range 8).foldl (fun s m => if getF s (AMP_MOD_STAT_STATE m) = 4 then setMod m 0 s else s) new else new

/-- The value word that AMP_MKL_IDX selects (R286). -/
def mklData (s : State) : Nat :=
  let t := ampMod s (getF s AMP_MKL_IDX_MODULE)
  let w := getF s AMP_MKL_IDX_WORD
  if w < 6 then t.caps.getD w 0 else t.status.getD (w - 6) 0

/-! ## The boundary -/

/-- The READY and LOST of modules since the last boundary, for the record (R274). (DESIGN CHOICE log 79) -/
def noteModules (s : State) : State :=
  (List.range 8).foldl (fun s m =>
    let r := getF s (AMP_MOD_STAT_STATE m) == 2
    if r = (ampMod s m).ready then s
    else noteEv ⟨6, m, [getF s (AMP_MOD_STAT_STATE m)]⟩ (updMod m (fun t => { t with ready := r }) s)) s

/-- The silence states sampled and recorded on change (R277, R302); a standby keeps the record's. -/
def sampleSil (s : State) : State :=
  if ownTrips s then
    let m := silMask s
    let s1 := { s with amp := { s.amp with sil := m } }
    if m = s.pair.silSent then s1 else noteEv ⟨7, 0, [m]⟩ { s1 with pair := { s1.pair with silSent := m } }
  else s

/-- The unit at the boundary that begins the present course (R272 to R275, R280). -/
def ampBoundary (s : State) : State :=
  if hasAmp s then
    let s1 := sampleSil (noteModules s)
    let s2 := (List.range 32).foldl (fun s c => channelStep c s) s1
    let s3 := (List.range 32).foldl (fun s c => if (ampCh s c).fresh then updCh c (fun t => { t with fresh := false }) s else s)
      { s2 with amp := { s2.amp with clear := 0 } }
    let s4 := (List.range 8).foldl (fun s g => groupStep g s) s3
    let n := s4.fab.ci
    if flag s4 AMP_CTL_EN && n % max (rmOf s4) 1 == 0 && n / max (rmOf s4) 1 % 4 == 0 then setpointCycle s4 else s4
  else s

end Sys2Proof.Machine
end

