-- ==== Sys2Proof/Machine/AshOps.lean ====
section
/-! DEFINITION. Reads and writes of Ashlar words with their check bits, the error treatment of R97 to R99, and the
scheduled line accesses that the bank calendar grants (R93, R108). -/

namespace Sys2Proof.Machine

/-- The bank of a word address (R93). -/
def bankOf (w : Nat) : Nat := bits w 17 7

/-- The first word of a word's line. -/
def lineOf (w : Nat) : Nat := w % 16777216 / 8 * 8

/-- The power-state field of a bank (R116): 0 On, 1 Retain, 2 Off, 3 in transition. -/
def bankField (b : Nat) : Fld := ⟨0x20030180 + 4 * (b / 8), 2 * (b % 8), 2, 0, .ro, .pp⟩

/-- The state of a bank; an absent bank reads 3 (R116). -/
def bankState (s : State) (b : Nat) : Nat := if b < nBanks s then getF s (bankField b) else 3

/-- A stored codeword. -/
def ashCode (s : State) (w : Nat) : Nat := s.ash.mem.get w 0

/-- A codeword stored; it cancels a scrubber write-back that waits for the same word (R101). -/
def putCode (w code : Nat) (s : State) : State :=
  let a := s.ash
  { s with ash := { a with
      mem := a.mem.set w (code % 2 ^ 39) 0
      scrubWb := match a.scrubWb.find (bankOf w) with
        | some l => a.scrubWb.set (bankOf w) (l.filter (fun p => p.1 != w)) []
        | none => a.scrubWb } }

/-- A data word stored with its check bits. -/
def putAsh (w v : Nat) (s : State) : State := putCode w (eccEncode v) s

/-- Data words stored at rising word addresses. -/
def putAshWords (w : Nat) : List Nat → State → State
  | [], s => s
  | v :: vs, s => putAshWords (w + 1) vs (putAsh w v s)

/-- The data bits of a word as they stand corrected, zero where uncorrectable. -/
def ashPeek (s : State) (w : Nat) : Nat :=
  match eccDecode (ashCode s w) with
  | .ok v => v
  | .corrected v _ => v
  | .bad _ => 0

/-- Whether a live signal region covers an Ashlar word (R100). -/
def ashSignal (s : State) (w : Nat) : Bool := s.ash.rgn.any (fun r => r.1 ≤ w && w ≤ r.2)

/-- An entry of the Ashlar log, or OVERFLOW (R116). (DESIGN CHOICE log 18, 128) -/
def ashLogPush (word syn action req : Nat) (s : State) : State :=
  if s.ash.log.length < 16 then
    { s with ash := { s.ash with log := s.ash.log ++ [⟨word, syn, action, req, s.fab.ci % 65536⟩] } }
  else putF ASH_LOG_STAT_OVERFLOW 1 s

/-- FATAL set, with its event at the first word and the self-diagnosis cause (R99). (DESIGN CHOICE log 110) -/
def ashFatal (word : Nat) (s : State) : State :=
  watchLife (fun s =>
    let s1 := selfDiag 1 (putF ASH_STAT_FATAL 1 s)
    if flag s ASH_STAT_FATAL then s1 else raiseAll 0x0013 [1, word] s1) s

/-- One word read by a scheduled requester (R97 to R99): its value, whether a fatal-class word was met, the state. -/
def ashReadSched (req w : Nat) (s : State) : Nat × Bool × State :=
  match eccDecode (ashCode s w) with
  | .ok v => (v, false, s)
  | .corrected v _ => (v, false, bump ASH_CNT_CORR 1 s)
  | .bad syn =>
    if ashSignal s w then (0, false, ashLogPush w syn 1 req (bump ASH_CNT_UNCORR_SIG 1 s))
    else (0, true, ashFatal w (ashLogPush w syn 2 req (bump ASH_CNT_UNCORR_OTHER 1 s)))

/-- The enabled words of a line read by a scheduled requester; a word left out reads 0. -/
def ashReadLine (req line mask : Nat) : List Nat → State → List Nat × Bool × State
  | [], s => ([], false, s)
  | i :: is, s =>
    let r := if bitOf mask i then ashReadSched req (line + i) s else (0, false, s)
    let t := ashReadLine req line mask is r.2.2
    (r.1 :: t.1, r.2.1 || t.2.1, t.2.2)

/-- A merged write between its cycles takes the data of a scheduled write to its words as its base (R112). -/
def mergeBase (w v : Nat) (s : State) : State :=
  match s.ash.merge.find (bankOf w) with
  | some h =>
    if lineOf w = h.beat.line then
      { s with ash := { s.ash with merge := s.ash.merge.put (bankOf w) { h with base := h.base.set (w % 8) v } } }
    else s
  | none => s

/-- The enabled words of a line written by a scheduled requester. -/
def ashWriteLine (line mask : Nat) (vals : List Nat) : List Nat → State → State
  | [], s => s
  | i :: is, s =>
    ashWriteLine line mask vals is
      (if bitOf mask i then mergeBase (line + i) (vals.getD i 0) (putAsh (line + i) (vals.getD i 0) s) else s)

/-- The lanes of a line. -/
def lanes : List Nat := [0, 1, 2, 3, 4, 5, 6, 7]

/-- Whether the lend mask in force gives a bank cycle to mortar (R136). -/
def lent (s : State) (b c : Nat) : Bool :=
  let c := c % 64
  if c < 32 then bitOf (getL s (FAB_LEND_LO_LEND b)) c else bitOf (getL s (FAB_LEND_HI_LEND b)) (c - 32)

/-- The bank-calendar code in force at a course cycle: mortar where the cycle is lent (06, R136). -/
def bankCode (s : State) (b c : Nat) : Nat :=
  if lent s b c then 0xFF else s.fab.cal.bank.get (64 * b + c % 64) 0xFF

/-- Whether an image grants a bank to any scheduled requester. -/
def bankGranted (c : Cal) (b : Nat) : Bool := c.bank.any (fun p => p.1 / 64 == b && p.2 != 0xFF)

/-- How a scheduled access to a bank cycle is judged (R108). -/
inductive BankJudge where
  | granted | notGranted | notOn
  deriving DecidableEq, Repr

/-- The guard's judgement of a scheduled access: the calendar first, then the bank's state (R108). -/
def judgeBank (s : State) (req w c : Nat) : BankJudge :=
  if bankCode s (bankOf w) c ≠ req then .notGranted
  else if bankState s (bankOf w) = 0 then .granted
  else .notOn

/-- A line read by the stream or pair engine at a course cycle (R108, R128). -/
def engineRead (req w mask c : Nat) (s : State) : List Nat × State :=
  match judgeBank s req w c with
  | .granted => let r := ashReadLine req (lineOf w) mask lanes s; (r.1, r.2.2)
  | .notGranted => (List.replicate 8 0, guardFault 0x10 req c s)
  | .notOn => (List.replicate 8 0, guardFault 0x11 req c s)

/-- A line write by the stream or pair engine at a course cycle. -/
def engineWrite (req w mask : Nat) (vals : List Nat) (c : Nat) (s : State) : State :=
  match judgeBank s req w c with
  | .granted => ashWriteLine (lineOf w) mask vals lanes s
  | .notGranted => guardFault 0x10 req c s
  | .notOn => guardFault 0x11 req c s

end Sys2Proof.Machine
end

