-- ==== Sys2Proof/Machine/Ashlar.lean ====
section
/-! DEFINITION. Ashlar's own commands: mortar beats and merged writes (R110 to R113), the scrubber (R101 to R103), bank
power states (R105 to R108) and the zero fill (R109). -/

namespace Sys2Proof.Machine

/-! ## Mortar beats -/

/-- A Voussoir answer: master, transaction ID, status (0 OK, else the KIND of R321), data words. A master in reset gets
none (R322). -/
def respond (master id status : Nat) (data : List Nat) (s : State) : State :=
  if s.vsr.inReset.contains master then s else emit .response (master :: id :: status :: data) s

/-- The oldest transaction of a master, ID and direction changed, or removed. -/
def onTxn (master id : Nat) (write : Bool) (f : Txn → Option Txn) : List Txn → List Txn
  | [] => []
  | t :: ts =>
    if t.master = master ∧ t.id = id ∧ t.write = write then (match f t with | some u => u :: ts | none => ts)
    else t :: onTxn master id write f ts

/-- One beat of an outstanding transaction finished; the last one removes it, and the reset of a master with none left
takes effect (R322). -/
def beatDone (master id : Nat) (write : Bool) (s : State) : State :=
  let o := onTxn master id write (fun t => if t.beats ≤ 1 then none else some { t with beats := t.beats - 1 }) s.vsr.outstanding
  { s with vsr := { s.vsr with outstanding := o, inReset := s.vsr.inReset.filter (fun m => o.any (fun t => t.master == m)) } }

/-- The end of a beat: its answer, unless its transaction has been cut. -/
def beatEnd (b : Beat) (status : Nat) (data : List Nat) (s : State) : State :=
  if b.cut then s else beatDone b.master b.id b.write (respond b.master b.id status data s)

/-- The Voussoir byte address of an Ashlar word (R93). -/
def ashByte (w : Nat) : Nat := 0x40000000 + 4 * w

/-- A beat answered with an error response (R321). -/
def beatError (b : Beat) (s : State) : State :=
  beatEnd b 3 (if b.write then [] else List.replicate 8 0) (vsrLog 3 b.write b.master b.id (ashByte b.line) s)

/-- A beat answered. -/
def beatOk (b : Beat) (data : List Nat) (s : State) : State := beatEnd b 0 data s

/-- A data word written in a mortar cycle: an armed injection inverts the masked bits of its codeword (R116). -/
def putMortar (w v : Nat) (s : State) : State :=
  if flag s ASH_INJ_ADDR_ARM && getF s ASH_INJ_ADDR_WORD == w then
    putF ASH_INJ_ADDR_ARM 0
      (putCode w (eccEncode v ^^^ (getF s ASH_INJ_DATA_DATA_FLIP + 4294967296 * getF s ASH_INJ_ADDR_CHK_FLIP)) s)
  else putAsh w v s

/-- The four strobes of a word of a beat. -/
def strobesOf (b : Beat) (i : Nat) : Nat := bits b.strobes (4 * i) 4

/-- Whether a beat is a partial write (R111): some word has some but not all strobes. -/
def isPartial (b : Beat) : Bool := lanes.any (fun i => strobesOf b i != 0 && strobesOf b i != 15)

/-- A word merged byte by byte under its strobes. -/
def mergeWord (old new strobes : Nat) : Nat :=
  ofBytes ([0, 1, 2, 3].map (fun k => if bitOf strobes k then bits new (8 * k) 8 else bits old (8 * k) 8))

/-- One word read in a mortar cycle (R98, R99): its value and whether it is uncorrectable. -/
def ashReadMortar (master w : Nat) (s : State) : Nat × Bool × State :=
  match eccDecode (ashCode s w) with
  | .ok v => (v, false, s)
  | .corrected v _ => (v, false, bump ASH_CNT_CORR 1 s)
  | .bad syn => (0, true, ashLogPush w syn 3 (48 + master) (bump ASH_CNT_UNCORR_OTHER 1 s))

/-- The words of a line that a mask enables, read in a mortar cycle. -/
def ashReadMortarLine (master line mask : Nat) : List Nat → State → List Nat × Bool × State
  | [], s => ([], false, s)
  | i :: is, s =>
    let r := if bitOf mask i then ashReadMortar master (line + i) s else (0, false, s)
    let t := ashReadMortarLine master line mask is r.2.2
    (r.1 :: t.1, r.2.1 || t.2.1, t.2.2)

/-- The whole words of a beat written. -/
def writeBeat (b : Beat) (s : State) : State :=
  lanes.foldl (fun s i => if strobesOf b i = 15 then putMortar (b.line + i) (b.data.getD i 0) s else s) s

/-- Whether a bank cycle is mortar (R110): while the fabric runs, by the calendar and the lend mask; else always. -/
def isMortar (s : State) (b c : Nat) : Bool := !running s || bankCode s b c == 0xFF

/-- The queue of a bank. -/
def bankQueue (s : State) (b : Nat) : List Beat := s.ash.queue.get b []

/-- The queue of a bank set. -/
def putQueue (b : Nat) (q : List Beat) (s : State) : State :=
  { s with ash := { s.ash with queue := s.ash.queue.set b q [] } }

/-- The oldest write of a master and ID with data beats to come has one fewer. -/
def takeBeat (master id : Nat) : List Txn → List Txn
  | [] => []
  | t :: ts =>
    if t.master = master ∧ t.id = id ∧ t.write ∧ 0 < t.left then { t with left := t.left - 1 } :: ts
    else t :: takeBeat master id ts

/-- A data beat of a write taken by the port (R320). -/
def beatTaken (master id : Nat) (s : State) : State :=
  { s with vsr := { s.vsr with outstanding := takeBeat master id s.vsr.outstanding } }

/-- A beat joins its bank's queue while the bank holds fewer than 32 and the port fewer than 64 (R111); of a master in reset
it changes no byte (R322). (DESIGN CHOICE log 97) -/
def acceptBeat (master id : Nat) (write : Bool) (line strobes : Nat) (data : List Nat) (s : State) : State :=
  let st := if s.vsr.inReset.contains master then 0 else strobes
  let b : Beat := ⟨master, id, write, lineOf line, st, data, false⟩
  let take := fun (s : State) => if write then beatTaken master id s else s
  if nBanks s ≤ bankOf line then beatError b (take s)
  else if (bankQueue s (bankOf line)).length < 32 && (s.ash.queue.map (fun p => p.2.length)).sum < 64 then
    take (putQueue (bankOf line) (bankQueue s (bankOf line) ++ [b]) s)
  else s

/-- A beat carried out in its mortar cycle (R108, R111, R112). (DESIGN CHOICE log 97) -/
def serveBeat (bank : Nat) (b : Beat) (s : State) : State :=
  if bankState s bank ≠ 0 then beatError b (putF ASH_STAT_MORTAR_ERR 1 s)
  else if !b.write then
    let r := ashReadMortarLine b.master b.line 255 lanes s
    if r.2.1 then
      beatEnd b 3 r.1 (vsrLog 3 false b.master b.id (ashByte b.line) r.2.2)
    else beatOk b r.1 r.2.2
  else if isPartial b then
    let m := ofBits (lanes.map (fun i => strobesOf b i != 0 && strobesOf b i != 15))
    let r := ashReadMortarLine b.master b.line m lanes s
    if r.2.1 then beatError b r.2.2
    else { r.2.2 with ash := { r.2.2.ash with merge := r.2.2.ash.merge.put bank ⟨b, r.1⟩ } }
  else beatOk b [] (writeBeat b s)

/-- The oldest beat of a bank's queue is carried out in a mortar cycle; the bank does nothing else between the two cycles
of a merged write (R110 to R114). -/
def serveQueue (bank cycle : Nat) (s : State) : State :=
  match bankQueue s bank with
  | [] => s
  | b :: q => if isMortar s bank cycle && (s.ash.merge.find bank).isNone then serveBeat bank b (putQueue bank q s) else s

/-- The second cycle of a partial write (R112): strobed bytes over the base, other words whole. -/
def mergeDone (bank : Nat) (s : State) : State :=
  match s.ash.merge.find bank with
  | none => s
  | some h =>
    let s1 := { s with ash := { s.ash with merge := s.ash.merge.erase bank } }
    beatOk h.beat [] (lanes.foldl (fun s i =>
      let st := strobesOf h.beat i
      if st = 0 then s else putMortar (h.beat.line + i) (mergeWord (h.base.getD i 0) (h.beat.data.getD i 0) st) s) s1)

/-! ## The scrubber -/

/-- What the scrubber does with one word (R99, R101); in Rest only ASH_SCRUB_STAT counts (R116). -/
def scrubWord (w : Nat) (s : State) : State :=
  let note := fun (f : State → State) (s : State) => if s.pwr.rest then s else f s
  match eccDecode (ashCode s w) with
  | .ok _ => s
  | .corrected v syn =>
    let s1 := note (fun s => ashLogPush w syn 0 34 (bump ASH_CNT_CORR 1 s)) (bump ASH_SCRUB_STAT_SCRUB_CORR 1 s)
    { s1 with ash := { s1.ash with
        scrubWb := s1.ash.scrubWb.put (bankOf w) (s1.ash.scrubWb.get (bankOf w) [] ++ [(w, eccEncode v)]) } }
  | .bad syn =>
    let s1 := bump ASH_SCRUB_STAT_SCRUB_UNCORR 1 s
    if ashSignal s w then putAsh w 0 (note (fun s => ashLogPush w syn 1 34 (bump ASH_CNT_UNCORR_SIG 1 s)) s1)
    else note (fun s => ashLogPush w syn 3 34 (bump ASH_CNT_UNCORR_OTHER 1
      (if flag s ASH_STAT_LATENT then s else raiseAll 0x0013 [2, w] (putF ASH_STAT_LATENT 1 s)))) s1

/-- The write-backs waiting in a bank made (R101). -/
def scrubWriteback (bank : Nat) (s : State) : State :=
  (s.ash.scrubWb.get bank []).foldl (fun s p => putCode p.1 p.2 s) s

/-- A bank's pass finished; when every present bank that is On or Retain is done, the pass is (R101). -/
def scrubBankDone (bank : Nat) (s : State) : State :=
  let done := bank :: s.ash.scrubDone
  let all := (List.range (nBanks s)).all (fun b => done.contains b || 2 ≤ bankState s b)
  let s1 := { s with ash := { s.ash with scrubDone := done, scrubLine := s.ash.scrubLine.erase bank } }
  if all then wrap ASH_SCRUB_STAT_PASSES 1 { s1 with ash := { s1.ash with scrubPass := false } } else s1

/-- SCRUB_LINE (R101): one line of an On bank read in a mortar cycle, ahead of waiting beats only when behind its pace. -/
def execScrubLine (bank cycle : Nat) (behind : Bool) (s : State) : Host.Outcome State Fault Refusal :=
  if flag s ASH_SCRUB_PERIOD && s.ash.scrubPass && bankState s bank == 0 && !s.ash.scrubDone.contains bank
      && isMortar s bank cycle && (behind || (bankQueue s bank).isEmpty) && (s.ash.merge.find bank).isNone then
    let l := s.ash.scrubLine.get bank 0
    let s1 := lanes.foldl (fun s i => scrubWord (131072 * bank + 8 * l + i) s) s
    if l = 16383 then .next (scrubBankDone bank s1)
    else .next { s1 with ash := { s1.ash with scrubLine := s1.ash.scrubLine.set bank (l + 1) 0 } }
  else .next s

/-- SCRUB_WRITEBACK (R101): corrected words go back in the scrubber's next mortar cycle, unless a write came first. -/
def execScrubWriteback (bank : Nat) (s : State) : Host.Outcome State Fault Refusal :=
  if bankState s bank = 0 then .next (scrubWriteback bank s) else .next s

/-- The burst scrub of a Retain bank (R102): every listed word, with its write-backs; unlisted words are clean zeros. -/
def burstScrub (bank : Nat) (s : State) : State :=
  let ws := (s.ash.mem.map Prod.fst).filter (fun w => bankOf w == bank)
  scrubBankDone bank (scrubWriteback bank (ws.foldl (fun s w => scrubWord w s) s))

/-- SCRUB_PERIOD_START (R102): an unfinished pass sets SCRUB_LAG and goes on; otherwise a pass begins, and the Retain banks
are burst-scrubbed in ascending order. -/
def execScrubPeriodStart (s : State) : Host.Outcome State Fault Refusal :=
  if getF s ASH_SCRUB_PERIOD = 0 then .next s
  else
    let s1 :=
      if s.ash.scrubPass then raiseAll 0x0013 [4, 0] (putF ASH_STAT_SCRUB_LAG 1 s)
      else { s with ash := { s.ash with scrubPass := true, scrubDone := [], scrubLine := [] } }
    .next (((List.range (nBanks s)).filter (fun b => bankState s b == 1 && !s1.ash.scrubDone.contains b)).foldl
      (fun s b => burstScrub b s) s1)

/-- ASH_SCRUB written: period 0 switches the scrubber off and raises the warning event (R103). -/
def setScrub (p : Nat) (s : State) : State :=
  let s1 := putF ASH_SCRUB_PERIOD p s
  if p % 256 = 0 then raiseAll 0x0013 [3, 0] s1 else s1

/-! ## Bank power (R106, R107) -/

/-- The RUN_STATE field of a bank. -/
def runStateFld (b : Nat) : Fld := ⟨0x20030100 + 8 * (b / 8), 4 * (b % 8), 2, 0, .rwp, .pp⟩
/-- The REST_OFF field of a bank. -/
def restOffFld (b : Nat) : Fld := ⟨0x20030100 + 8 * (b / 8), 4 * (b % 8) + 2, 1, 0, .rwp, .pp⟩

/-- The contents of a bank lost; it reads as zeros with valid check bits when it is On again. -/
def loseBank (b : Nat) (s : State) : State :=
  { s with ash := { s.ash with mem := s.ash.mem.filter (fun p => bankOf p.1 != b) } }

/-- A bank put into transition to a state. -/
def startTrans (b dst : Nat) (s : State) : State :=
  let from' := bankState s b
  if from' = dst ∨ from' = 3 then s
  else
    let s1 := if dst = 2 then loseBank b s else s
    putF (bankField b) 3 { s1 with ash := { s1.ash with trans := s1.ash.trans.put b ⟨dst, dst == 2⟩ } }

/-- The requested run states of the eight banks of an ASH_PWR register taken up. -/
def applyPwr (n : Nat) (s : State) : State :=
  (List.range 8).foldl (fun s j =>
    let b := 8 * n + j
    if b < nBanks s then startTrans b (getF s (runStateFld b)) s else s) s

/-- One bank's fields of a matching ASH_PWR pair, refused field by field (R106). -/
def writePwrBank (b v : Nat) (s : State) : State :=
  let run := bits v (4 * (b % 8)) 2
  let rest := bits v (4 * (b % 8) + 2) 1
  let part := partBank s ≤ b
  let badRun := run == 3 || (run != 0 && (part || bankGranted s.fab.cal b))
  let badRest := rest == 1 && part
  let s1 := if badRun then s else putF (runStateFld b) run s
  let s2 := if badRest then s1 else putF (restOffFld b) rest s1
  if badRun || badRest then
    (if flag s2 ASH_STAT_PWR_REFUSED then s2 else raiseAll 0x0013 [5, 0] (putF ASH_STAT_PWR_REFUSED 1 s2))
  else s2

/-- An ASH_PWR pair written: PAIRWORD on a mismatch; else each field is taken or refused, and the states change at the
next boundary, or at once while the fabric is stopped. (DESIGN CHOICE log 96) -/
def writePwr (n v c : Nat) (s : State) : State :=
  if lo32 c ≠ not32 v then putF ASH_STAT_PAIRWORD 1 s
  else
    let s1 := (List.range 8).foldl (fun s j => writePwrBank (8 * n + j) v s) s
    if running s1 then
      { s1 with ash := { s1.ash with pwrWait := if s1.ash.pwrWait.contains n then s1.ash.pwrWait else s1.ash.pwrWait ++ [n] } }
    else applyPwr n s1

/-- BANK_POWER_WRITE (R106). -/
def execBankPowerWrite (n value complement : Nat) (s : State) : Host.Outcome State Fault Refusal :=
  if n < 16 then .next (writePwr n value complement s) else .next s

/-- The requests of R106 that waited for the boundary. -/
def boundaryPwr (s : State) : State :=
  s.ash.pwrWait.foldl (fun s n => applyPwr n s) { s with ash := { s.ash with pwrWait := [] } }

/-- BANK_TRANSITION_DONE (R107): the bank is in its new state; one whose request has changed meanwhile goes on to it. -/
def execBankTransitionDone (bank : Nat) (s : State) : Host.Outcome State Fault Refusal :=
  match s.ash.trans.find bank with
  | none => .next s
  | some t =>
    let s1 := putF (bankField bank) t.dst { s with ash := { s.ash with trans := s.ash.trans.erase bank } }
    if s.pwr.rest then .next s1 else .next (if s1.ash.pwrWait.contains (bank / 8) then s1 else startTrans bank (getF s1 (runStateFld bank)) s1)

/-- ASHLAR_FILL_DONE (R109): every present bank is On and holds zeros; FILL_DONE is set. -/
def execAshlarFillDone (s : State) : Host.Outcome State Fault Refusal :=
  if flag s ASH_STAT_FILL_DONE || s.ctl.boot == .inReset then .next s
  else .next (putF ASH_STAT_FILL_DONE 1 { s with ash := { s.ash with mem := [] } })

end Sys2Proof.Machine
end

