-- ==== Sys2Proof/Machine/Stage.lean ====
section
/-! DEFINITION. The STAGE events of a claimant (R302, R307): what a command of the firmware has written to shadow and
double-buffered locations, as writes that the partner's firmware repeats. -/

namespace Sys2Proof.Machine

/-- The keys whose values differ between two keyed lists. -/
def diffKeys {α : Type} [DecidableEq α] (m m1 : AMap α) : List Nat :=
  if m = m1 then []
  else (m1.filter (fun p => m.find p.1 != some p.2)).map Prod.fst ++ (m.filter (fun p => (m1.find p.1).isNone)).map Prod.fst

/-- Words at rising addresses put together into runs of at most 64. -/
def stageRuns (v : Nat → Nat) : List Nat → List (List Nat)
  | [] => []
  | w :: t =>
    match stageRuns v t with
    | (k :: l) :: r => if k = 0x40000000 + 4 * (w + 1) ∧ l.length < 64 then ((0x40000000 + 4 * w) :: v w :: l) :: r
      else [0x40000000 + 4 * w, v w] :: (k :: l) :: r
    | r => [0x40000000 + 4 * w, v w] :: r

/-- A register pair whose complement word a write carries. -/
def relayPair (a : Nat) : Bool := [0x20070000, 0x20070008, 0x20080000, 0x200D0000].contains a

/-- The lend masks and the registers of the port and amplifier blocks (R302). -/
def relayReg (a : Nat) : Bool :=
  (0x20040200 ≤ a && a < 0x20040600) || a / 65536 == 0x2007 || (a / 65536 == 0x2008 && a != 0x20080010 && a != 0x20080014)
    || a / 65536 == 0x200D

/-- A register write as the words of a STAGE event. -/
def stageReg (a v : Nat) : List Nat := if relayPair a then [a, v, not32 v] else [a, v]

/-- The word of a register with the fields of a batch laid over what stands. -/
def overlaid (s : State) (cs : List BufChange) (a : Nat) : Nat :=
  composeFields (fieldsAt a) (fun f => cs.foldl (fun v c => match c with | .fld k x => if k = f.key then x else v | _ => v) (getF s f))

/-- The changes of a batch entry as STAGE words. (DESIGN CHOICE log 103) -/
def stageBatch (s : State) (cs : List BufChange) : List (List Nat) :=
  let regs := (cs.filterMap (fun c => match c with | .fld k _ => some (k / 32) | _ => none)).eraseDups
  regs.map (fun a => stageReg a (overlaid s cs a)) ++ cs.filterMap (fun c => match c with
    | .fld _ _ => none
    | .chan tx _ ch v => some [0x200A0010, (if tx then 7 else 4) * 65536 + ch, v]
    | .strEn tx i en =>
      let e := ((if tx then s.str.tx else s.str.rx).find i).getD []
      some [0x200A0010, (if tx then 5 else 1) * 65536 + i, e.getD 0 0 / 2 * 2 + b2n en])

/-- An indexed table entry as STAGE words: the index register, then the data registers. -/
def stageTable (idx sel i : Nat) (ws : List Nat) : List Nat := idx :: (sel * 65536 + i) :: ws

/-- A pair word as its data registers. -/
def valueWords (p : PairWord) : List Nat := [lo32 p.value, hi32 p.value, lo32 p.comp, hi32 p.comp]

/-- Words filled up to eight, so that the write of the last data register commits them. -/
def eight (ws : List Nat) : List Nat := (List.range 8).map (fun k => ws.getD k 0)

/-- The user and channel-status words that a transmitter's staged buffers differ in. -/
def stageAes (s s1 : State) : List (List Nat) :=
  (diffKeys s.port.aes s1.port.aes).flatMap (fun p =>
    let a := (s.port.aes.find p).getD AesSt.init
    let b := (s1.port.aes.find p).getD AesSt.init
    let buf := fun (kind ch x y : Nat) => if x = y then [] else (List.range 6).map (fun w =>
      [0x20080010, w + 8 * ch + 16 * kind + 64 * p, bits y (32 * w) 32])
    buf 2 0 a.staged.csA b.staged.csA ++ buf 2 1 a.staged.csB b.staged.csB ++ buf 3 0 a.staged.usA b.staged.usA
      ++ buf 3 1 a.staged.usB b.staged.usB
      ++ (if b.commit && !a.commit then [[0x2008010C + 16 * p, regWordRaw s1 (0x2008010C + 16 * p) + 8]] else []))

/-- The writes of a command as STAGE words: shadow pages, route and dynamics shadows, silence configurations, stream tables,
transmit buffers, registers, clears, then the tags of a set and the changes of batches. -/
def stageWords (s s1 : State) : List (List Nat) :=
  let rte := 0x20050010
  let dyn := 0x20060008
  let str := 0x200A0010
  let ash := (diffKeys s.ash.mem s1.ash.mem).filter (fun w => w < 131072 * partBank s)
  stageRuns (fun w => s1.ash.mem.get w 0 % 4294967296) ash
    ++ (diffKeys s.rte.shadow s1.rte.shadow).map (fun i => stageTable rte 0 i (valueWords (s1.rte.shadow.get i xpNone)))
    ++ (diffKeys s.rte.shRec s1.rte.shRec).map (fun i => stageTable rte 2 i (valueWords (s1.rte.shRec.get i recReset)))
    ++ (diffKeys s.rte.silWait s1.rte.silWait).map (fun i =>
      let c := s1.rte.silWait.get i (0, 0); stageTable rte 4 i [c.1, c.2])
    ++ (diffKeys s.dyn.shadow s1.dyn.shadow).map (fun i => stageTable dyn 0 i (0 :: eight (s1.dyn.shadow.get i [])))
    ++ (diffKeys s.str.cls s1.str.cls).map (fun i => stageTable str 0 i (eight (s1.str.cls.get i [])))
    ++ (diffKeys s.str.rx s1.str.rx).map (fun i => stageTable str 1 i (eight (s1.str.rx.get i [])))
    ++ (diffKeys s.str.rxMap s1.str.rxMap).map (fun i => stageTable str 4 i (eight [s1.str.rxMap.get i 0]))
    ++ (diffKeys s.str.tx s1.str.tx).map (fun i => stageTable str 5 i (eight (s1.str.tx.get i [])))
    ++ (diffKeys s.str.txMap s1.str.txMap).map (fun i => stageTable str 7 i (eight [s1.str.txMap.get i 0]))
    ++ stageAes s s1
    ++ ((diffKeys s.regs s1.regs).map (· / 32)).eraseDups.filterMap (fun a =>
      if relayReg a && (fieldsAt a).any (fun f => f.typ == .rw || f.typ == .rwp) then some (stageReg a (regWordRaw s1 a)) else none)
    ++ (if s1.amp.clear = s.amp.clear then [] else [[0x200D0010, s1.amp.clear]])
    ++ (if flag s1 RTE_SL_ROUTE_ARMED && !flag s RTE_SL_ROUTE_ARMED then
        [[RTE_SL_ROUTE_TAG.addr, regWordRaw s1 RTE_SL_ROUTE_TAG.addr]] else [])
    ++ (diffKeys s.rte.tags s1.rte.tags).map (fun p => stageTable rte 7 p [s1.rte.tags.get p 0])
    ++ (diffKeys s.dyn.tags s1.dyn.tags).map (fun i => stageTable dyn 3 i [0, s1.dyn.tags.get i 0])
    ++ s1.fab.sched.flatMap (fun p => match s.fab.sched.find p.1 with
      | some e => stageBatch s1 (p.2.changes.drop e.changes.length)
      | none => stageBatch s1 p.2.changes)

/-- The STAGE events of a command. A splice loads its sets on both units, and a cancel undoes a set on both, at its own
event. -/
def stageEvents (s s1 : State) : List PairEv :=
  if s1.fab.sched.any (fun p => p.2.kind == 3 && (s.fab.sched.find p.1).isNone) || s.fab.sched.any (fun p => (s1.fab.sched.find p.1).isNone)
  then [] else (stageWords s s1).map (fun ws => ⟨1, 0, ws⟩)

end Sys2Proof.Machine
end

