-- ==== Sys2Proof/Machine/Fw.lean ====
section
/-! DEFINITION. What the firmware's commands share: status codes, checks in the order of R361, replies (R343, R360),
ownership and quotas (R351 to R354, R367), and course-index targets (R33 to R35, R363). -/

namespace Sys2Proof.Machine

/-! ## Status codes (R362) -/

/-- OK. -/
def eOk : Nat := 0x00
/-- E_BUSY. -/
def eBusy : Nat := 0x01
/-- E_RANGE. -/
def eRange : Nat := 0x02
/-- E_ABSENT. -/
def eAbsent : Nat := 0x03
/-- E_OWNED. -/
def eOwned : Nat := 0x04
/-- E_LEASE. -/
def eLease : Nat := 0x05
/-- E_PAIRWORD. -/
def ePairword : Nat := 0x06
/-- E_CRC. -/
def eCrc : Nat := 0x07
/-- E_STATE. -/
def eState : Nat := 0x08
/-- E_LATE. -/
def eLate : Nat := 0x09
/-- E_CONTRACT. -/
def eContract : Nat := 0x0A
/-- E_AUTH. -/
def eAuth : Nat := 0x0B
/-- E_NOSPACE. -/
def eNospace : Nat := 0x0C
/-- E_VERSION. -/
def eVersion : Nat := 0x0D

/-- A refusal: status, DETAIL, FIELD, CHECK and ARG of the error payload (R360). -/
structure FwErr where
  status : Nat
  detail : Nat
  field : Nat
  check : Nat
  arg : Nat
  deriving DecidableEq, Repr

/-- A refusal with a status and no more. -/
def err (st : Nat) : FwErr := ⟨st, 0, 0xFF, 0, 0⟩
/-- A refusal that names the request word at fault. -/
def errAt (st field : Nat) : FwErr := ⟨st, 0, field, 0, 0⟩
/-- A refusal that names the failing record of a list. -/
def errRec (st idx : Nat) : FwErr := ⟨st, 0, 0xFF, 0, idx⟩

/-- What a command of the firmware gives: the state after it and the payload words of the reply, or a refusal, after
which nothing has changed (R361). (DESIGN CHOICE log 8) -/
abbrev FwM := Except FwErr (State × List Nat)

/-- A check: the refusal unless the condition holds. (DESIGN CHOICE log 9) -/
def need (b : Bool) (e : FwErr) : Except FwErr Unit := if b then .ok () else .error e

end Sys2Proof.Machine

namespace Sys2Proof
open Machine

/-- A payload word of a request. -/
def FwReq.w (r : FwReq) (i : Nat) : Nat := r.words.getD i 0

/-- Bits of a payload word. -/
def FwReq.f (r : FwReq) (i lo w : Nat) : Nat := bits (r.w i) lo w

/-- The payload has exactly n words (R359). (DESIGN CHOICE log 9) -/
def FwReq.len (r : FwReq) (n : Nat) : Except FwErr Unit := need (r.words.length == n) (err eRange)

/-- The reserved bits of words are 0: pairs of a word index and the mask of the bits it may use (R359).
(DESIGN CHOICE log 9) -/
def FwReq.only (r : FwReq) : List (Nat × Nat) → Except FwErr Unit
  | [] => .ok ()
  | (i, m) :: t => do need ((r.w i &&& (4294967295 - m)) == 0) (errAt eRange i); r.only t

/-- A 64-bit CI from two request words. (DEDUCED log 24) -/
def FwReq.ci (r : FwReq) (i : Nat) : Nat := r.w i + 4294967296 * r.w (i + 1)

end Sys2Proof

namespace Sys2Proof.Machine

/-- Bits [hi:lo] as a mask. -/
def mask (hi lo : Nat) : Nat := 2 ^ (hi + 1) - 2 ^ lo

/-- An index within the variant: E_RANGE beyond every variant's count, E_ABSENT beyond this one's (R368). -/
def inVariant (idx here most : Nat) : Except FwErr Unit := do
  need (idx < most) (err eRange)
  need (idx < here) (err eAbsent)

/-! ## Roles -/

/-- Whether the firmware takes commands: it has been entered and has set FW_UP (R355). (DESIGN CHOICE log 16) -/
def fwUp (s : State) : Bool := s.ctl.boot == .firmware && flag s LIFE_STATUS_FW_UP

/-- Whether the unit is a standby: in a pair without the claim in a standby state (R311). -/
def isStandby (s : State) : Bool := s.pins.pairEn && [4, 5, 6, 7, 8].contains (getF s PAIR_STAT_STATE)

/-- Check 9: an audio-side command on a standby is refused (R365). -/
def audioSide (s : State) : Except FwErr Unit := need (!isStandby s) (err eState)

/-- A steward-only command (R354). -/
def steward (r : FwReq) : Except FwErr Unit := need (r.seat == 0) (err eAuth)

/-! ## Ownership (R351, R353, R367) -/

/-- The number of objects of a kind that a seat owns. -/
def holdings (s : State) (seat kind : Nat) : Nat :=
  (s.fw.owners.filter (fun p => p.1 / 65536 == kind && p.2.seat == seat && !p.2.orphan)).length

/-- Whether a seat may acquire n more objects of a kind (R353). -/
def quotaRoom (s : State) (seat kind n : Nat) : Bool :=
  match s.fw.quotas.find (seat * 256 + kind) with
  | none => true
  | some q => holdings s seat kind + n ≤ q

/-- Whether a seat owns an object. -/
def owns (s : State) (seat kind idx : Nat) : Bool :=
  match s.fw.owners.find (objKey kind idx) with
  | some o => o.seat == seat && !o.orphan
  | none => false

/-- Whether an owner lets a seat change its object: the seat itself, or an orphan under the seat's token (R362).
(DESIGN CHOICE log 58) -/
def Owner.lets (o : Owner) (s : State) (seat : Nat) : Bool :=
  if o.orphan then o.token == (seatOf s seat).token else o.seat == seat

/-- Check 10 for a changing command: the object is the seat's own or free (R367). (DESIGN CHOICE log 58) -/
def mayOwn (s : State) (r : FwReq) (kind idx : Nat) : Except FwErr Unit :=
  match s.fw.owners.find (objKey kind idx) with
  | some o => need (o.lets s r.seat) (err eOwned)
  | none => .ok ()

/-- Check 14 for a free object: the seat's quota has room (R353, R367). -/
def quotaFor (s : State) (r : FwReq) (kind idx : Nat) : Except FwErr Unit :=
  need ((s.fw.owners.find (objKey kind idx)).isSome || quotaRoom s r.seat kind 1) (err eNospace)

/-- An object made the sender's. -/
def setOwner (kind idx seat : Nat) (s : State) : State :=
  { s with fw := { s.fw with owners := s.fw.owners.put (objKey kind idx) ⟨seat, false, (seatOf s seat).token⟩ } }

/-- A free object becomes the sender's when a changing command on it succeeds (R367). -/
def acquire (r : FwReq) (kind idx : Nat) (s : State) : State :=
  if (s.fw.owners.find (objKey kind idx)).isSome then s else setOwner kind idx r.seat s

/-- An object made free. -/
def freeObj (kind idx : Nat) (s : State) : State :=
  { s with fw := { s.fw with owners := s.fw.owners.erase (objKey kind idx) } }

/-- Check 10 for every object of a list; the error names the record. -/
def mayOwnAll (s : State) (r : FwReq) (kind : Nat) : List Nat → Nat → Except FwErr Unit
  | [], _ => .ok ()
  | i :: is, n =>
    match s.fw.owners.find (objKey kind i) with
    | some o => if o.lets s r.seat then mayOwnAll s r kind is (n + 1) else .error (errRec eOwned n)
    | none => mayOwnAll s r kind is (n + 1)

/-- Check 14 for the free objects among several. -/
def quotaForAll (s : State) (r : FwReq) (kind : Nat) (is : List Nat) : Except FwErr Unit :=
  let n := (is.eraseDups.filter (fun i => (s.fw.owners.find (objKey kind i)).isNone)).length
  need (n == 0 || quotaRoom s r.seat kind n) (err eNospace)

/-- The free objects of a list become the sender's. -/
def acquireAll (r : FwReq) (kind : Nat) (is : List Nat) (s : State) : State := is.foldl (fun s i => acquire r kind i s) s

/-! ## The course scheduler (R33 to R35, R363) -/

/-- The lowest free entry of the 64 (R34). -/
def freeEntry (s : State) : Option Nat := (List.range 64).find? (fun e => (s.fab.sched.find e).isNone)

/-- The courses of the gap of a cut-over (R133). -/
def gapCourses (s : State) : Nat := (if getF s FAB_TL_STATUS_FAMILY = 0 then 96 else 88) * rmOf s

/-- The courses by which a claimant in the replay frame trails the CI of a reframe or cut-over, which is that of the direct
frame it returns to (R310). -/
def frameLead (s : State) : Nat := if s.pair.replay && flag s PAIR_STAT_CLAIM then s.pair.lag else 0

/-- The arming lead of a kind of entry (R31, R33, R133, R310): 2 courses, or the whole ramp-down and 2. -/
def armLead (s : State) (kind : Nat) : Nat :=
  match kind with
  | 2 => 256 + gapCourses s + 2 + frameLead s
  | 7 => 256 + gapCourses s + 2 + frameLead s
  | 4 => 258
  | _ => 2

/-- The lead with the closings that the events ahead of an ARM event need in a pair (R307). -/
def leadOf (s : State) (kind : Nat) : Nat := armLead s kind + queueLag s

/-- Whether a kind is an image cut-over, splice, re-anchor or reframe (R35). -/
def bigKind (k : Nat) : Bool := [2, 3, 4, 7].contains k

/-- Whether two safe-load sets share a member. -/
def shareMember (a b : Sched) : Bool :=
  (a.route && b.route) || a.pages.any (b.pages.contains ·) || a.insts.any (b.insts.contains ·)

/-- The conflicts of R35 that refuse an entry with E_STATE. -/
def schedConflict (s : State) (e : Sched) : Bool :=
  s.fab.sched.any (fun p =>
    let o := p.2
    (o.ci == e.ci && (bigKind o.kind || bigKind e.kind || (o.kind == 1 && e.kind == 1 && shareMember o e)))
      || (bigKind o.kind && bigKind e.kind))
  || (bigKind e.kind && (s.fab.ramp.isSome || s.fab.family.isSome))

/-- The CI that an arming command aims at (R33): the named one, or with ASAP the earliest with the kind's lead.
(DEDUCED log 24) -/
def aimed (s : State) (r : FwReq) (kind t : Nat) : Nat :=
  if t < s.fab.ci + leadOf s kind ∧ r.asap then s.fab.ci + leadOf s kind else t

/-- Check 15 (R33, R31, R133): the lead of the kind, and the comparator window. (DEDUCED log 24) -/
def inTime (s : State) (kind t : Nat) : Except FwErr Unit := do
  need (s.fab.ci + leadOf s kind ≤ t) (err (if t = 0 then eRange else eLate))
  need (t - s.fab.ci < 2147483648) (err eRange)

/-- An entry armed for a named CI (R33 to R35) in the order of R361: a running fabric and no conflict, room among the 64,
the target in time. Answers the entry number, its CI and the state. -/
def arm (s : State) (r : FwReq) (e : Sched) : Except FwErr (Nat × Nat × State) := do
  need (running s) (err eState)
  let e := { e with ci := aimed s r e.kind e.ci, seat := r.seat }
  need (!schedConflict s e) (err eState)
  match freeEntry s with
  | none => .error (err eNospace)
  | some i => do
    inTime s e.kind e.ci
    .ok (i, e.ci, queueEv ⟨2, i, [e.kind, lo32 e.ci, hi32 e.ci]⟩ { s with fab := { s.fab with sched := s.fab.sched.put i e } })

/-- A double-buffered change made in the store that the boundary copies from (R36 item 5), or in the channel maps. -/
def applyFld (c : BufChange) (s : State) : State :=
  match c with
  | .fld k v => match fieldOfKey k with
    | some f => putF f v s
    | none => s
  | _ => s

/-- The batch entry that a seat already has for a CI (R363). -/
def batchFor (s : State) (seat ci : Nat) : Option Nat :=
  (s.fab.sched.find? (fun p => p.2.kind == 5 && p.2.seat == seat && p.2.ci == ci)).map Prod.fst

/-- The reply of a scheduled command: the entry and the CI armed (R363). (DEDUCED log 57) -/
def schedReply (e ci : Nat) : List Nat := [e, lo32 ci, hi32 ci]

/-- Changes with an optional target (R33, R363): at 0 unscheduled, applied by `now`, entry 0xFF; else merged into the
seat's batch for that CI or armed as one. A claimant of a pair makes an unscheduled change a batch at the earliest CI
(R307). (DEDUCED log 57) -/
def optionalBatch (s : State) (r : FwReq) (t : Nat) (cs : List BufChange) (now : State → State) :
    Except FwErr (State × List Nat) := do
  if t = 0 && !relays s then return (now s, [0xFF, 0, 0])
  need (running s) (err eState)
  let r := { r with asap := r.asap || t == 0 }
  let ci := aimed s r 5 t
  match batchFor s r.seat ci with
  | some i => do
    inTime s 5 ci
    let e := s.fab.sched.get i ⟨5, r.seat, ci, false, [], [], [], false⟩
    return (queueEv ⟨2, i, [5, lo32 ci, hi32 ci]⟩
      { s with fab := { s.fab with sched := s.fab.sched.put i { e with changes := e.changes ++ cs } } }, schedReply i ci)
  | none => do
    let a ← arm s r ⟨5, r.seat, ci, false, [], [], cs, false⟩
    return (a.2.2, schedReply a.1 a.2.1)

/-! ## Replies (R343, R360) -/

/-- The words of a frame with a header, payload and CRC. -/
def frameWords (w0 len seat status : Nat) (payload : List Nat) : List Nat :=
  let w2 := len + 65536 * seat + 16777216 * status
  let body := [w0, not32 w0, w2, not32 w2] ++ payload
  body ++ [crc32c (wordsToBytes body)]

/-- A reply put in a seat's reply area: REPLY_READY and LAST_SEQ set, CMD_BUSY cleared, REPLY raised; to a UDP seat it
goes as a datagram (R340, R343). (DESIGN CHOICE log 110) -/
def postReply (seat w0 status : Nat) (payload : List Nat) (s : State) : State :=
  let ws := (frameWords w0 (4 * payload.length) seat status payload).map lo32
  let s1 := updSeat seat (putMail 0x1400 ws) s
  let s2 := putFs [(DB_STAT_REPLY_READY seat, 1), (DB_STAT_CMD_BUSY seat, 0), (DB_STAT_LAST_SEQ seat, bits w0 8 8)] s1
  if getF s (HOST_BIND_IF seat) = 3 then
    emit .datagram (getF s (HOST_BIND_INDEX seat) :: (seatOf s seat).srcAddr :: (seatOf s seat).srcPort :: ws) s2
  else irq seat 0 s2

/-- The two words of an error payload (R360). -/
def FwErr.words (e : FwErr) : List Nat := [e.detail + 256 * e.field + 65536 * e.check, e.arg]

/-- A command of the firmware on a claimant that relays: once its writes are known, their STAGE events go into the queue ahead
of what it arms (R307). -/
def relayed (f : State → FwM) (s : State) : FwM :=
  if !relays s then f s
  else match f s with
    | .error e => .error e
    | .ok x =>
      let evs := stageEvents s x.1
      if evs.isEmpty then .ok x else f { s with pair := { s.pair with queue := s.pair.queue ++ evs } }

/-- A command of the firmware carried out and answered: the state and reply of success, or the untouched state and the
error payload. (DESIGN CHOICE log 8) -/
def answer (op : Nat) (r : FwReq) (f : State → FwM) (s : State) : State :=
  let w0 := op * 65536 + r.seq % 256 * 256 + b2n r.asap
  match relayed f s with
  | .ok (s1, ws) => postReply r.seat w0 eOk ws s1
  | .error e => postReply r.seat w0 e.status e.words s

/-- A row of the firmware's command reference as a command of the block: nothing happens while the firmware is not up; else
the checks of R361 and the command, answered in the seat's reply area. (DEDUCED log 28, DESIGN CHOICE log 9) -/
def fwRow (op : Nat) (r : FwReq) (f : FwReq → State → FwM) (s : State) : Host.Outcome State Fault Refusal :=
  if fwUp s && r.seat < 4 then .next (answer op r (f r) s) else .next s

/-- CMD_DONE (R384): opcode, sequence, status and error payload of a long command. -/
def cmdDone (seat op seq status : Nat) (e : List Nat) (s : State) : State :=
  raiseTo seat ⟨0x0002, [op + 65536 * (seq % 256) + 16777216 * status] ++ e, s.fab.ci⟩ s

/-- The OBJECT event (R384). (DESIGN CHOICE log 18, 125) -/
def objectEvent (dst kind fromSeat toSeat idx what : Nat) (s : State) : State :=
  raiseTo dst ⟨0x0006, [kind + 256 * fromSeat + 4096 * toSeat + 65536 * idx, what], s.fab.ci⟩ s

/-! ## Scheduler entries removed (R364) -/

/-- Whether a ramp of an entry has begun (R364). -/
def rampBegun (s : State) (e : Sched) : Bool :=
  match s.fab.ramp with
  | some r => bigKind e.kind && r.ci == e.ci && r.kind == e.kind
  | none => false

/-- The SCHED_CANCELLED event of an entry. (DESIGN CHOICE log 31) -/
def cancelledEvent (i status : Nat) (e : Sched) (s : State) : State :=
  raiseTo e.seat ⟨0x0004, [i + 256 * e.kind + 65536 * status], s.fab.ci⟩ s

end Sys2Proof.Machine
end

