-- ==== Sys2Proof/Machine/Tick.lean ====
section
/-! DEFINITION. The system-clock tick (R220, R221, R231): what a step does on an empty queue. -/

namespace Sys2Proof.Machine

/-- The counter advanced by a number of units of 2^-32 ns, with its carries (R220). -/
def PtpCount.advance (p : PtpCount) (u : Nat) : PtpCount :=
  let f := p.ns * 4294967296 + p.frac + u
  let n := f / 4294967296
  ⟨(p.sec + n / 1000000000) % 281474976710656, n % 1000000000, f % 4294967296⟩

/-- INC as units of 2^-32 ns (R221). -/
def incUnits (s : State) : Nat := getF s PTP_INC_HI_INC_NS * 4294967296 + getF s PTP_INC_LO_INC_FRAC

/-- One tick of the 250 MHz clock, or of the 25 MHz oscillator while counting coarsely; the counter holds while the tick is
lost (R221, R231). (DESIGN CHOICE log 10) -/
def countTick (s : State) : State :=
  if flag s PTP_STAT_TICK_LOST then s
  else { s with ptp := s.ptp.advance (if flag s PTP_STAT_COARSE then 10 * incUnits s else incUnits s) }

/-- The accesses to Ashlar that QSPI ports wait for finish (R338). (DESIGN CHOICE log 10, 99) -/
def qspiFinish (s : State) : State :=
  { s with qspi := s.qspi.map (fun p => (p.1, if p.2.busy then { p.2 with busy := false, doneOk := !p.2.refused } else p.2)) }

/-- What a step does on an empty queue: one tick, and what the ports waited for has been done. (DESIGN CHOICE log 10) -/
def sysTick (s : State) : State := qspiFinish (countTick s)

end Sys2Proof.Machine
end

