-- ==== Sys2Proof/Machine/NetOps.lean ====
section
/-! DEFINITION. Frames, counters and FIFOs of the MACs (R182 to R200), and the timestamps of frames (R226). -/

namespace Sys2Proof.Machine

/-- A MAC. -/
def macOf (s : State) (m : Nat) : MacSt := s.net.mac.get m MacSt.init
/-- A MAC changed. -/
def updMac (m : Nat) (f : MacSt → MacSt) (s : State) : State :=
  { s with net := { s.net with mac := s.net.mac.set m (f (macOf s m)) MacSt.init } }

/-- A statistics counter advanced (R199): it holds at its maximum with CNT_OVF; bit 31 becoming 1 sets CNT_HALF. -/
def cntAdd (m i n : Nat) (s : State) : State :=
  let v := getF s (MAC_CNT_COUNT m i)
  let w := min (v + n) 4294967295
  setIf (MAC_IRQ_CNT_OVF m) (4294967295 < v + n) (setIf (MAC_IRQ_CNT_HALF m) (v < 2147483648 && 2147483648 ≤ w)
    (putF (MAC_CNT_COUNT m i) w s))

/-- The size counter of a length, from the first of seven (R199). -/
def sizeBucket (len : Nat) : Nat :=
  if len ≤ 64 then 0 else if len ≤ 127 then 1 else if len ≤ 255 then 2 else if len ≤ 511 then 3
  else if len ≤ 1023 then 4 else if len ≤ 1518 then 5 else 6

/-! ## Frames as bytes -/

/-- A big-endian number in a frame. -/
def be (b : List Nat) (off n : Nat) : Nat := ofBeBytes ((b.drop off).take n)
/-- The destination address. -/
def dstMac (b : List Nat) : Nat := be b 0 6
/-- The type after the addresses. -/
def etherType (b : List Nat) : Nat := be b 12 2
/-- Whether the first type is an IEEE 802.1Q tag. -/
def isTagged (b : List Nat) : Bool := etherType b == 0x8100
/-- A frame without its first tag. -/
def stripTag (b : List Nat) : List Nat := b.take 12 ++ b.drop 16
/-- A frame with a tag. -/
def putTag (tci : Nat) (b : List Nat) : List Nat := b.take 12 ++ [0x81, 0x00] ++ beBytes tci 2 ++ b.drop 12
/-- Unicast, multicast or broadcast: 0, 1, 2. -/
def castOf (b : List Nat) : Nat :=
  if dstMac b = 281474976710655 then 2 else if be b 0 1 % 2 = 1 then 1 else 0

/-- The frame check sequence. PRESUMED (IEEE 802.3): the reflected CRC-32. (PRESUMED log 61) -/
def fcsShift (c : Nat) : Nat → Nat
  | 0 => c
  | n + 1 => fcsShift (if c % 2 = 1 then c / 2 ^^^ 0xEDB88320 else c / 2) n
/-- Its four bytes, as sent. (PRESUMED log 61) -/
def fcsOf (b : List Nat) : List Nat :=
  bytesOf (b.foldl (fun c x => fcsShift (c ^^^ x % 256) 8) 0xFFFFFFFF ^^^ 0xFFFFFFFF) 4

/-- The one's complement sum of 16-bit words, folded. -/
def ipSum : List Nat → Nat → Nat
  | a :: b :: t, acc => let v := acc + 256 * a + b; ipSum t (v % 65536 + v / 65536)
  | _, acc => acc
/-- The IPv4 header checksum. -/
def ipChecksum (h : List Nat) : Nat := 65535 - ipSum h 0

/-- The counters of a frame that is counted as good, from an index (0 receive, 24 transmit). -/
def countGood (m base : Nat) (b : List Nat) (len : Nat) (s : State) : State :=
  let s1 := cntAdd m (base + 1) 1 (cntAdd m base len s)
  cntAdd m (base + 7 + sizeBucket len) 1 (cntAdd m (base + 2 + castOf b) 1 s1)

/-! ## Timestamps (R226) -/

/-- LIN of a time in units of 2^-32 ns (R224). -/
def linOf (u : Nat) : Nat := u / 4294967296 % 281474976710656

/-- The counter at half nanoseconds after its last tick. -/
def nowAt (s : State) (half : Nat) : Nat := ptpUnits s.ptp + half * 2147483648

/-- The wire time of a received frame: the capture less RXLAT (1/16 ns). -/
def ingressTime (s : State) (m half : Nat) : Nat := nowAt s half - getF s (PTP_RXLAT_LAT m) * 268435456
/-- The wire time of a sent frame: the capture plus TXLAT. -/
def egressTime (s : State) (m half : Nat) : Nat := nowAt s half + getF s (PTP_TXLAT_LAT m) * 268435456

/-! ## FIFOs -/

/-- The bytes held in the receive FIFO. (DESIGN CHOICE log 60) -/
def rxHeld (t : MacSt) : Nat := (t.rx.map (fun f => f.bytes.length + 4)).sum
/-- The bytes held in the transmit FIFO. (DESIGN CHOICE log 60) -/
def txHeld (t : MacSt) : Nat :=
  (t.tx.map (fun f => f.2.length + 4)).sum + ((t.c0 ++ t.c1).map (fun f => f.bytes.length + 4)).sum

/-- A stream frame handed to a MAC (R195): dropped and counted when it does not fit or the link is down. Whether it was
taken, and the state. (DESIGN CHOICE log 60) -/
def macTake (m stream : Nat) (b : List Nat) (s : State) : Bool × State :=
  if flag s (MAC_LINK_LINK_UP m) && txHeld (macOf s m) + b.length + 4 ≤ 16384 then
    (true, updMac m (fun t => { t with tx := t.tx ++ [(stream, b)] }) s)
  else (false, cntAdd m 39 1 s)

/-- The MAC_LINK event (R384). -/
def macLinkEvent (m : Nat) (s : State) : State :=
  raiseOwner 11 m 0x0044 [m + 4 * getF s (MAC_LINK_LINK_UP m) + 8 * getF s (MAC_LINK_RATE m)
    + 64 * getF s (MAC_LINK_RATE_MISMATCH m)] s

end Sys2Proof.Machine
end

