-- ==== Sys2Proof/Machine/Clock.lean ====
section
/-! DEFINITION. References, the DPLL and the synthesis PLL (R234 to R262). -/

namespace Sys2Proof.Machine

/-! ## Units -/

/-- Units of the build-out in a sixteenth of a nanosecond. -/
def bUnit : Int := 28224000

/-- The base rate of the family that CLK_SEL names. -/
def clkBase (s : State) : Nat := baseRate (getF s CLK_SEL_FAMILY)

/-- A comparison period of a reference in units of B: N base courses, or one course for REF0 and REF7 (R236). -/
def refPeriod (s : State) (r : Nat) : Int :=
  let fs := if r = 0 ∨ r = 7 then clkBase s * max (rmOf s) 1 else clkBase s
  let n := if r = 0 ∨ r = 7 then 1 else getF s (CLK_REF_DIVN_N r)
  ((16000000000 * n * 28224000 / fs : Nat) : Int)

/-- An error reduced into (-P/2, P/2]. -/
def reduceErr (p e : Int) : Int :=
  let m := e % p
  if p < 2 * m then m - p else m

/-- One step of the user offset in units of B: 1/64 of a VCO period (R253, R258). -/
def userErr (s : State) (u : Int) : Int :=
  let vco : Nat := if getF s CLK_SEL_FAMILY = 0 then 4718592000 else 5419008000
  divRne (u * (16000000000 * 28224000 : Nat)) (64 * vco)

/-- ppb as units of 2^-40. -/
def ppb40 (p : Int) : Int := p * 1099511627776 / 1000000000

/-! ## Events and registers -/

/-- The CLK event (R384): the DPLL, the alarms, and a reference with its state. (DESIGN CHOICE log 59) -/
def clkEvent (r : Nat) (s : State) : State :=
  raiseAll 0x0022 [getF s CLK_STAT_STATE + 8 * getF s CLK_STAT_SELECTED + 64 * getF s CLK_STAT_QL_OUT,
    regWordRaw s CLK_ALARM_SWITCH.addr, r + 8 * getF s (CLK_REF_STAT_STATE r)] s

/-- The divider ratio for the offset in force (R254), while the PLL is enabled. -/
def setRatioRegs (s : State) : State :=
  if flag s CLK_SYN_CTL_EN then
    let nom : Int := if getF s CLK_SEL_FAMILY = 0 then 18874368 else 21676032
    let num := nom * (1099511627776 * 1000000000 + s.clk.freq * 1000000000 - toS 32 (getF s CLK_XO_TRIM_TRIM) * 1099511627776)
    let n := divRne (num * 4294967296) (100000 * 1099511627776 * 1000000000)
    putFs [(CLK_SYN_NINT_NINT, (n / 4294967296).toNat), (CLK_SYN_NFRAC_NFRAC, (n % 4294967296).toNat)] s
  else putFs [(CLK_SYN_NINT_NINT, 0), (CLK_SYN_NFRAC_NFRAC, 0)] s

/-- The clamp of R250: the selected reference's window, and 200 ppm in all cases. (DESIGN CHOICE log 69) -/
def clampFreq (s : State) (f : Int) : Int :=
  let lim : Int := 219902325
  let w := if getF s CLK_STAT_STATE = 1 ∨ getF s CLK_STAT_STATE = 2 then ppb40 (getF s (CLK_REF_CFG_WIN (getF s CLK_STAT_SELECTED))) else lim
  clampI (-(min lim w)) (min lim w) f

/-- The output offset set. (DESIGN CHOICE log 69) -/
def setFreq (f : Int) (s : State) : State :=
  setRatioRegs { s with clk := { s.clk with freq := f, secSum := s.clk.secSum + f, secN := s.clk.secN + 1 } }

/-! ## Quality (R237 to R239) -/

/-- The first matching quality entry (R238). -/
def ptpQuality (s : State) : Nat :=
  let c := getF s CLK_REF0_ANN_CLASS
  match (List.range 8).find? (fun e => flag s (CLK_PTPQ_VALID e) && getF s (CLK_PTPQ_CLASS_MIN e) ≤ c
      && c ≤ getF s (CLK_PTPQ_CLASS_MAX e) && getF s CLK_REF0_ANN_ACCURACY ≤ getF s (CLK_PTPQ_ACC_MAX e)) with
  | some e => getF s (CLK_PTPQ_QL e)
  | none => 15

/-- The effective quality level of a reference (R237). -/
def refQl (s : State) (r : Nat) : Nat :=
  match r with
  | 0 => if flag s CLK_REF0_ANN_ANN_VALID && flag s CLK_REF0_ANN_SERVO_LOCK then ptpQuality s else 15
  | 3 => (match getF s (AES_RX_STAT_GRADE 0) with | 1 => getF s CLK_AES11_QL_G1_QL | 2 => getF s CLK_AES11_QL_G2_QL | _ => 15)
  | 4 => (match getF s (AES_RX_STAT_GRADE 1) with | 1 => getF s CLK_AES11_QL_G1_QL | 2 => getF s CLK_AES11_QL_G2_QL | _ => 15)
  | 7 =>
    (match s.pair.last with
    | some p => if p.ql = 15 then 15 else min 14 (p.ql + getF s (CLK_REF_CFG_QL_HOST 7))
    | none => 15)
  | _ => getF s (CLK_REF_CFG_QL_HOST r)

/-- QL_OUT (R239). -/
def qlOut (s : State) : Nat :=
  let r := getF s CLK_STAT_SELECTED
  match getF s CLK_STAT_STATE with
  | 1 => if r = 7 then 15 else refQl s r
  | 2 => if r = 7 then 15 else refQl s r
  | 3 => getF s CLK_DPLL_CTL_HO_QL
  | _ => 15

/-- Whether a reference's divisors break R236. -/
def refBroken (s : State) (r : Nat) : Bool :=
  1 ≤ r && r ≤ 6 && (clkBase s < getF s (CLK_REF_DIVN_N r) || !flag s (CLK_REF_DIVN_N r) || !flag s (CLK_REF_DIVM_M r))

/-- A reference's state changed, with its event. -/
def setRef (r st : Nat) (s : State) : State :=
  if getF s (CLK_REF_STAT_STATE r) = st then s else clkEvent r (putF (CLK_REF_STAT_STATE r) st s)

/-- Whether a reference is a candidate (R242). -/
def isCandidate (s : State) (r : Nat) : Bool := 3 ≤ getF s (CLK_REF_STAT_STATE r)

/-! ## DPLL states (R249, R251) -/

/-- The holdover frequency (R251): the mean over the 30 s ending 1 s before entry, or of all entries but the last. -/
def holdMean (s : State) : Int :=
  let l := (s.clk.hist.drop 1).take 30
  if l.isEmpty then s.clk.freq else divRne l.sum l.length

/-- The DPLL's state changed, with its event. -/
def setDpll (st : Nat) (s : State) : State :=
  if getF s CLK_STAT_STATE = st then s
  else
    let s1 := putF CLK_STAT_STATE st s
    let s2 := match st with
      | 3 => let f := holdMean s1
             setFreq f (putFs [(CLK_HOLDOVER_HO_FREQ, ofS 32 f), (CLK_ALARM_HOLDOVER, 1), (CLK_STAT_STEER, 0)] s1)
      | 4 => putF CLK_ALARM_LOST 1 s1
      | 0 => setFreq 0 s1
      | 2 => { s1 with clk := { s1.clk with ever := true } }
      | _ => s1
    clkEvent (getF s CLK_STAT_SELECTED) (putF CLK_STAT_QL_OUT (qlOut s2) s2)

/-- No reference is left (R244, R249): HOLDOVER with valid history, else LOST, or FREE if never LOCKED. -/
def loseRefs (s : State) : State :=
  let st := getF s CLK_STAT_STATE
  if st = 1 ∨ st = 2 then
    setDpll (if flag s CLK_STAT_HO_VALID then 3 else if s.clk.ever then 4 else 0) s
  else s

/-- A switch to a reference committed (R245): the frequency is held while its error is averaged. -/
def commitSwitch (r : Nat) (s : State) : State :=
  let s1 := putFs [(CLK_STAT_SELECTED, r), (CLK_STAT_SWITCHING, 1), (CLK_STAT_BLEEDING, 0)]
    { s with clk := { s.clk with target := some r, avgSum := 0, avgN := 0, drift := [] } }
  setDpll (if getF s CLK_STAT_STATE = 2 then 2 else 1) s1

/-- Whether candidate a ranks before b (R244). -/
def refBefore (s : State) (a b : Nat) : Bool :=
  let k := fun r => (refQl s r * 16 + getF s (CLK_REF_CFG_PRIO r)) * 8 + r
  k a < k b

/-- The best-ranked candidate. -/
def bestRef (s : State) : Option Nat :=
  ((List.range 8).filter (isCandidate s)).foldl (fun m r =>
    match m with | none => some r | some b => if refBefore s r b then some r else some b) none

/-- Whether the loop follows a reference. -/
def following (s : State) : Bool := getF s CLK_STAT_STATE == 1 || getF s CLK_STAT_STATE == 2

/-- Selection (R244, R246). -/
def selectRef (s : State) : State :=
  if flag s CLK_STAT_SWITCHING then s
  else match getF s CLK_SEL_SEL_MODE with
    | 3 => setDpll 0 s
    | 2 => loseRefs s
    | 1 =>
      let f := getF s CLK_SEL_FORCE_REF
      if isCandidate s f then (if following s && getF s CLK_STAT_SELECTED == f then s else commitSwitch f s) else loseRefs s
    | _ =>
      match bestRef s with
      | none => loseRefs s
      | some b =>
        let cur := getF s CLK_STAT_SELECTED
        if following s && isCandidate s cur then
          let better := refQl s b < refQl s cur
            || (refQl s b == refQl s cur && getF s (CLK_REF_CFG_PRIO b) < getF s (CLK_REF_CFG_PRIO cur) && flag s CLK_SEL_REVERTIVE)
          if better then commitSwitch b s else s
        else commitSwitch b s

/-- Everything that follows from the settings and levels as they stand: effective levels, disabled and absent references,
selection, QL_OUT (R236, R237, R241, R242, R244). -/
def refreshClk (s : State) : State :=
  let s1 := (List.range 8).foldl (fun s r =>
    let s1 := putF (CLK_REF_STAT_QL_EFF r) (refQl s r) s
    if !flag s (CLK_REF_CFG_EN r) then setRef r 0 s1
    else if refBroken s r then setRef r 0 (putF CLK_ALARM_CFG_ERR 1 s1)
    else if getF s (CLK_REF_STAT_STATE r) = 0 ∨ refQl s r = 15 then setRef r 1 s1
    else s1) s
  let s2 := selectRef s1
  putF CLK_STAT_QL_OUT (qlOut s2) s2

/-! ## References -/

/-- Seconds as a reference of the DPLL: the raw error of REF0 from the last stamp (R236): stamp - n / fs - CPO.
(DESIGN CHOICE log 70) -/
def ptpError (s : State) : Int :=
  let fs := max (fsOf s) 1
  let stamp := s.ptpIo.stamp.1 * 65536 + s.ptpIo.stamp.2.1
  let grid := s.fab.ci * 1000000000 * 65536 / fs + getF s FAB_CPO_CPO_NS * 65536
  toS 64 (stamp + 18446744073709551616 - grid % 18446744073709551616) * 28224000 / 4096

/-- The build-out moved towards 0 for one comparison (R247). (DEDUCED log 68) -/
def bleed (s : State) (p : Int) : State :=
  if flag s CLK_STAT_BLEEDING then
    let d := p * (getF s CLK_DPLL_CTL_BLEED_SLEW : Int) / 100000000
    let b := if 0 < s.clk.build then max 0 (s.clk.build - d) else min 0 (s.clk.build + d)
    putF CLK_BUILDOUT_B (ofS 32 (divRne b 28224000)) { s with clk := { s.clk with build := b } }
  else s

/-- A compared phase event of the selected reference: averaged during a switch; else the phase error shown and, in CLOSED
mode, a new output offset of the loop, which the spec bounds and does not state (R248, R250).
(DEDUCED log 68, DESIGN CHOICE log 70) -/
def phaseEvent (r : Nat) (e : Int) (s : State) : State :=
  let p := refPeriod s r
  let e := reduceErr p e
  let s0 := wrap CLK_PHASE_ERR_SEQ 1 s
  if flag s CLK_STAT_SWITCHING then { s0 with clk := { s0.clk with avgSum := s0.clk.avgSum + e, avgN := s0.clk.avgN + 1 } }
  else
    let s1 := bleed s0 p
    let err := e - s1.clk.build - userErr s1 s1.clk.user
    let s2 := putF CLK_PHASE_ERR_ERR (ofS 28 (divRne err 28224000)) s1
    if flag s2 CLK_STAT_STEER then s2
    else let f := takeFree s2; setFreq (clampFreq f.2 (toS 32 (Config.freeWord f.1).toNat)) f.2

/-- REF_PHASE_EVENT (R236): the raw difference of an event and its grid point in sixteenths of a nanosecond; REF0 takes the
course stamp. -/
def execRefPhaseEvent (ref : Nat) (diff : Int) (s : State) : Host.Outcome State Fault Refusal :=
  if following s && getF s CLK_STAT_SELECTED == ref && ref < 8 then
    let ofs := toS 12 (getF s (CLK_REF_DIVM_REF_OFS ref)) * ((16000000000 * 28224000 / (24576 * clkBase s) : Nat) : Int)
    .next (phaseEvent ref (if ref = 0 then ptpError s else if ref = 7 then diff * bUnit else diff * bUnit - ofs) s)
  else .next s

/-- The slope of a least-squares line through samples a tenth of a second apart, newest first, as a numerator over a
positive denominator, per second. -/
def fitSlope (l : List Int) : Int × Int :=
  let n : Int := l.length
  let ys := l.reverse
  let idx := (List.range l.length).map Int.ofNat
  let sx := idx.sum
  let sxx := (idx.map (fun k => k * k)).sum
  let sxy := ((idx.zip ys).map (fun p => p.1 * p.2)).sum
  (10 * (n * sxy - sx * ys.sum), n * sxx - sx * sx)

/-- DRIFT_WARN of the selected reference (R243), once 10 s of samples exist. -/
def judgeDrift (r : Nat) (s : State) : State :=
  let l := s.clk.drift
  if l.length < 100 then s
  else
    let sl := fitSlope l
    let off := l.headD 0
    let room := ((16 * getF s (CLK_REF_CFG_WIN r) : Nat) : Int) - off.natAbs
    let toEdge := (0 < off && 0 < sl.1) || (off < 0 && sl.1 < 0)
    let reach := room * sl.2
    let rate : Int := sl.1.natAbs
    if toEdge && reach < 60 * rate then putFs [(CLK_REF_STAT_DRIFT_WARN r, 1), (CLK_ALARM_DRIFT, 1)] s
    else if !toEdge || 120 * rate < reach then putF (CLK_REF_STAT_DRIFT_WARN r) 0 s
    else s

/-- The window and the state of one reference at an evaluation (R240, R242): its raw offset against XO_IN in sixteenths of a
ppb, none when it has delivered no events. -/
def evalRef (r : Nat) (raw : Option Int) (s : State) : State :=
  if getF s (CLK_REF_STAT_STATE r) = 0 then s
  else match raw with
    | none => s
    | some x =>
      let off := x + 16 * toS 32 (getF s CLK_XO_TRIM_TRIM)
      let win := decide (off.natAbs ≤ 16 * getF s (CLK_REF_CFG_WIN r))
      let s1 := putF (CLK_REF_FREQ_OFFSET r) (ofS 32 off) s
      let s2 := { s1 with clk := { s1.clk with
        inWin := if win then (if s1.clk.inWin.contains r then s1.clk.inWin else r :: s1.clk.inWin) else s1.clk.inWin.filter (· != r) } }
      let s3 := match getF s (CLK_REF_STAT_STATE r), win with
        | 1, true => if refQl s r = 15 then s2 else setRef r (if getF s (CLK_REF_TIME_WTR r) = 0 then 3 else 2) s2
        | 2, true => if getF s (CLK_REF_TIME_WTR r) = 0 then setRef r 3 s2 else s2
        | 3, false => setRef r (if getF s (CLK_REF_TIME_DQ r) = 0 then 2 else 4) s2
        | 4, true => setRef r 3 s2
        | _, _ => s2
      if following s3 && getF s3 CLK_STAT_SELECTED == r then
        judgeDrift r { s3 with clk := { s3.clk with drift := (off :: s3.clk.drift).take 600 } }
      else putF (CLK_REF_STAT_DRIFT_WARN r) 0 s3

/-- Offsets of the references in order. -/
def evalRefs : Nat → List (Option Int) → State → State
  | _, [], s => s
  | r, x :: xs, s => if r < 8 then evalRefs (r + 1) xs (evalRef r x s) else s

/-- REF_EVAL_TICK (R240 to R244). -/
def execRefEvalTick (offsets : List (Option Int)) (s : State) : Host.Outcome State Fault Refusal :=
  .next (refreshClk (evalRefs 0 offsets (refreshClk s)))

/-- REF_ABSENCE (R241): a reference without events; for REF6 whether it is the pulse input. -/
def execRefAbsence (ref : Nat) (pps : Bool) (s : State) : Host.Outcome State Fault Refusal :=
  if ref < 8 && getF s (CLK_REF_STAT_STATE ref) != 0 then
    .next (refreshClk (setRef ref 1 (setIf CLK_ALARM_PPS_LOST (ref == 6 && pps)
      { s with clk := { s.clk with inWin := s.clk.inWin.filter (· != ref) } })))
  else .next s

/-- REF_WTR_EXPIRY (R242). -/
def execRefWtrExpiry (ref : Nat) (s : State) : Host.Outcome State Fault Refusal :=
  if ref < 8 && getF s (CLK_REF_STAT_STATE ref) == 2 && s.clk.inWin.contains ref then .next (refreshClk (setRef ref 3 s)) else .next s

/-- REF_DQ_EXPIRY (R242). -/
def execRefDqExpiry (ref : Nat) (s : State) : Host.Outcome State Fault Refusal :=
  if ref < 8 && getF s (CLK_REF_STAT_STATE ref) == 4 then .next (refreshClk (setRef ref 2 s)) else .next s

/-- SWITCH_AVERAGING_DONE (R245 to R247): B takes the average and the loop closes; a reference lost meanwhile leaves the loop
open. (DEDUCED log 68, DESIGN CHOICE log 70) -/
def execSwitchAveragingDone (s : State) : Host.Outcome State Fault Refusal :=
  if flag s CLK_STAT_SWITCHING then
    let r := getF s CLK_STAT_SELECTED
    let s1 := putF CLK_STAT_SWITCHING 0 { s with clk := { s.clk with target := none } }
    if getF s (CLK_REF_STAT_STATE r) ≤ 1 then .next (refreshClk (loseRefs s1))
    else
      let avg := if s.clk.avgN = 0 then 0 else divRne s.clk.avgSum s.clk.avgN
      let b0 := avg - userErr s s.clk.user
      let b := if r = 0 then reduceErr (refPeriod s 0) b0 else b0
      let s2 := putFs [(CLK_BUILDOUT_B, ofS 32 (divRne b 28224000)), (CLK_ALARM_SWITCH, 1), (CLK_PHASE_ERR_ERR, 0),
        (CLK_STAT_BLEEDING, b2n ((r == 0 || !flag s CLK_DPLL_CTL_KEEP) && b != 0))] { s1 with clk := { s1.clk with build := b } }
      .next (refreshClk s2)
  else .next s

/-- BUILD_OUT_BLEED_DONE (R247). -/
def execBuildOutBleedDone (s : State) : Host.Outcome State Fault Refusal :=
  if flag s CLK_STAT_BLEEDING then
    .next (putFs [(CLK_STAT_BLEEDING, 0), (CLK_BUILDOUT_B, 0)] { s with clk := { s.clk with build := 0 } })
  else .next s

/-- The phase error in sixteenths of a nanosecond. -/
def phaseErr (s : State) : Int := toS 28 (getF s CLK_PHASE_ERR_ERR)

/-- DPLL_LOCK_DETECT (R249). -/
def execDpllLockDetect (s : State) : Host.Outcome State Fault Refusal :=
  if getF s CLK_STAT_STATE == 1 && !flag s CLK_STAT_SWITCHING && (phaseErr s).natAbs ≤ 16 * getF s CLK_DPLL_CTL_LOCK_NS then
    .next (setDpll 2 s)
  else .next s

/-- DPLL_UNLOCK_DETECT (R249). -/
def execDpllUnlockDetect (s : State) : Host.Outcome State Fault Refusal :=
  if getF s CLK_STAT_STATE == 2 && 64 * getF s CLK_DPLL_CTL_LOCK_NS < (phaseErr s).natAbs then .next (setDpll 1 s) else .next s

/-- HOLDOVER_HISTORY_TICK (R251): the mean of the second, without the bleed's part, enters the history. -/
def execHoldoverHistoryTick (s : State) : Host.Outcome State Fault Refusal :=
  if getF s CLK_STAT_STATE == 2 && !flag s CLK_STAT_SWITCHING then
    let mean := if s.clk.secN = 0 then s.clk.freq else divRne s.clk.secSum s.clk.secN
    let part := ppb40 (10 * (getF s CLK_DPLL_CTL_BLEED_SLEW : Int))
    let clean := if !flag s CLK_STAT_BLEEDING then mean else if 0 < s.clk.build then mean + part else mean - part
    let n := s.clk.lockedSecs + 1
    .next (setIf CLK_STAT_HO_VALID (decide (10 ≤ n)) { s with clk := { s.clk with
      hist := (clean :: s.clk.hist).take 32, lockedSecs := n, secSum := 0, secN := 0 } })
  else .next s

/-- STEER requested (R252): entry to OPEN takes the frequency in force; return loads the loop with CLK_FREQ. -/
def setSteer (b : Bool) (s : State) : State :=
  if b && !flag s CLK_STAT_STEER && getF s CLK_STAT_STATE != 3 then putFs [(CLK_STAT_STEER, 1), (CLK_FREQ_FREQ, ofS 32 s.clk.freq)] s
  else if !b && flag s CLK_STAT_STEER then putF CLK_STAT_STEER 0 s
  else s

/-- CLK_FREQ written in OPEN mode (R252); ignored while switching and in CLOSED mode. -/
def writeFreq (v : Nat) (s : State) : State :=
  if flag s CLK_STAT_STEER && !flag s CLK_STAT_SWITCHING then
    if (toS 32 v).natAbs ≤ 219902325 then setFreq (clampFreq s (toS 32 v)) (putF CLK_FREQ_FREQ v s) else putF CLK_ALARM_CFG_ERR 1 s
  else s

/-- OPEN_TIMEOUT (R252). -/
def execOpenTimeout (s : State) : Host.Outcome State Fault Refusal :=
  if flag s CLK_STAT_STEER then .next (setSteer false (putF CLK_ALARM_OPEN_TMO 1 s)) else .next s

/-! ## Phase steps (R253, R258) -/

/-- CLK_PSTEP written. -/
def phaseStep (v : Nat) (s : State) : State :=
  let s1 := putF CLK_PSTEP_PS_RATE (bits v 16 4) s
  let d := toS 16 v
  let n := toS 16 (getF s CLK_PSTEP_STEP) + d
  if 32767 < n.natAbs then putF CLK_ALARM_CFG_ERR 1 s1
  else putF CLK_PSTEP_STEP (ofS 16 n) { s1 with clk := { s1.clk with user := s1.clk.user + d } }

/-- PHASE_STEP_WRITE. -/
def execPhaseStepWrite (value : Nat) (s : State) : Host.Outcome State Fault Refusal := .next (phaseStep value s)

/-- PHASE_STEP_APPLY (R258): one pending step is applied. -/
def execPhaseStepApply (s : State) : Host.Outcome State Fault Refusal :=
  let n := toS 16 (getF s CLK_PSTEP_STEP)
  .next (putF CLK_PSTEP_STEP (ofS 16 (if 0 < n then n - 1 else if n < 0 then n + 1 else 0)) s)

/-! ## Synthesis PLL (R254 to R257) -/

/-- The target VCO frequency in kHz. -/
def vcoTarget (s : State) : Int := if getF s CLK_SEL_FAMILY = 0 then 4718592 else 5419008

/-- The margin of a band in kHz; none for an invalid entry (R255). (DESIGN CHOICE log 71) -/
def bandMargin (s : State) (b : Nat) : Option Int :=
  let e := s.clk.bands.get b (0, 0)
  if e.2 ≤ e.1 then none else some (min (vcoTarget s - 1000 * (e.1 : Int)) (1000 * (e.2 : Int) - vcoTarget s))

/-- The valid band with the largest margin, the lowest of equals. (DESIGN CHOICE log 71) -/
def bestBand (s : State) : Option (Nat × Int) :=
  (List.range 64).foldl (fun m b =>
    match bandMargin s b, m with
    | some x, none => some (b, x)
    | some x, some y => if y.2 < x then some (b, x) else some y
    | none, m => m) none

/-- EN set in CLK_SYN_CTL (R255). -/
def synEnable (s : State) : State :=
  if flag s CLK_SYN_CTL_EN then s
  else
    let s1 := putF CLK_SYN_CTL_EN 1 s
    match bestBand s with
    | some (b, x) => if x < 5000 then putF CLK_ALARM_BAND_FAIL 1 s1 else setRatioRegs (putF CLK_SYN_STAT_BAND b s1)
    | none => putF CLK_ALARM_BAND_FAIL 1 s1

/-- EN cleared: the PLL stops. -/
def synDisable (s : State) : State :=
  setRatioRegs (putFs [(CLK_SYN_CTL_EN, 0), (CLK_SYN_STAT_LOCK, 0), (CLK_SYN_STAT_COAST, 0), (CLK_STAT_SYN_LOCK, 0),
    (CLK_SYN_STAT_VT_MARGIN, 0)] s)

/-- SYNTH_ENABLE. -/
def execSynthEnable (s : State) : Host.Outcome State Fault Refusal := .next (synEnable s)

/-- SYNTH_LOCK (R255): whether the control lies within 10 % of a rail. -/
def execSynthLock (margin : Bool) (s : State) : Host.Outcome State Fault Refusal :=
  let ok := match bestBand s with | some (_, x) => decide (5000 ≤ x) | none => false
  if flag s CLK_SYN_CTL_EN && ok && !flag s CLK_SYN_STAT_COAST then
    .next (putFs [(CLK_SYN_STAT_LOCK, 1), (CLK_STAT_SYN_LOCK, 1), (CLK_SYN_STAT_VT_MARGIN, b2n margin)] s)
  else .next s

/-- SYNTH_LOCK_LOSS (R257): the loop coasts, and fabric PLL lost releases the claim. -/
def execSynthLockLoss (xoLost : Bool) (s : State) : Host.Outcome State Fault Refusal :=
  if flag s CLK_SYN_STAT_LOCK then
    let s1 := bump CLK_SYN_STAT_UNLOCK_CNT 1 (setIf CLK_ALARM_XO_LOST xoLost
      (putFs [(CLK_SYN_STAT_LOCK, 0), (CLK_STAT_SYN_LOCK, 0), (CLK_SYN_STAT_COAST, 1), (CLK_ALARM_PLL_UNLOCK, 1)] s))
    .next (selfDiag 5 (watchLife (fun s => setAlert (putF LIFE_FAULT_PLL 1 s)) s1))
  else .next s

/-- SYNTH_RELOCK (R257). -/
def execSynthRelock (s : State) : Host.Outcome State Fault Refusal :=
  if flag s CLK_SYN_STAT_COAST then
    .next (watchLife (fun s => setAlert (putF LIFE_FAULT_PLL 0 s))
      (putFs [(CLK_SYN_STAT_LOCK, 1), (CLK_STAT_SYN_LOCK, 1), (CLK_SYN_STAT_COAST, 0)] s))
  else .next s

/-- BAND_CAL_START (R256). -/
def bandCal (band rail : Nat) (s : State) : State :=
  if flag s CLK_SYN_CTL_EN then putF CLK_ALARM_CFG_ERR 1 s
  else putFs [(CLK_CAL_CTL_BAND, band), (CLK_CAL_CTL_RAIL, rail), (CLK_CAL_CTL_BUSY, 1), (CLK_CAL_FREQ_VALID, 0)] s

/-- BAND_CAL_START. -/
def execBandCalStart (band rail : Nat) (s : State) : Host.Outcome State Fault Refusal := .next (bandCal band rail s)

/-- BAND_CAL_DONE (R256): the measured frequency in MHz. -/
def execBandCalDone (freq : Nat) (s : State) : Host.Outcome State Fault Refusal :=
  if flag s CLK_CAL_CTL_BUSY then
    .next (putFs [(CLK_CAL_CTL_BUSY, 0), (CLK_CAL_FREQ_FREQ, freq), (CLK_CAL_FREQ_VALID, 1)] s)
  else .next s

/-- CLK_BAND_DATA written at the entry of CLK_BAND_IDX. (DESIGN CHOICE log 71) -/
def writeBand (v : Nat) (s : State) : State :=
  { s with clk := { s.clk with bands := s.clk.bands.set (getF s CLK_BAND_IDX_INDEX) (bits v 0 16, bits v 16 16) (0, 0) } }

/-- CLK_BAND_DATA read. -/
def readBand (s : State) : Nat := let e := s.clk.bands.get (getF s CLK_BAND_IDX_INDEX) (0, 0); e.1 + 65536 * e.2

/-! ## Output clocks (R259 to R261) -/

/-- The period of a word clock output in fabric cycles. -/
def wcoPeriod (s : State) (w : Nat) : Nat := 24576 / 2 ^ min (getF s (CLK_WCO_CFG_K w)) 2

/-- A word clock aligned: OFFSET cycles after its source's edge, or after the base boundary. -/
def alignWco (w edge : Nat) (s : State) : State :=
  let p : Int := wcoPeriod s w
  let base : Int := if getF s (CLK_WCO_CFG_ALIGN_SRC w) = 0 then 0 else edge
  let a := ((base + toS 24 (getF s (CLK_WCO_CFG_OFFSET w))) % p).toNat
  { s with clk := { s.clk with align := s.clk.align.put w a } }

/-- CLK_OEN in force: nothing without the claim, or while a mismatch darkens the clock balls. -/
def clkOen (s : State) : Nat :=
  if s.oenDark.contains CLK_OEN_MCLKO.addr || !s.pair.drivers || !flag s PAIR_STAT_CLAIM || flag s LIFE_STATUS_DARK then 0
  else getF s CLK_OEN_MCLKO + 16 * getF s CLK_OEN_WCO + (if hasAmp s then 64 * getF s CLK_OEN_SDMCLK else 0)

/-- The dividers of the fourteen balls in order, 0 for a ball that does not drive, then the word-clock alignments. -/
def clkBalls (s : State) : List Nat :=
  let oen := clkOen s
  let m := (List.range 4).map (fun k =>
    if bitOf oen k && flag s (CLK_MCLK_CFG_EN k) then
      24576 / ((if flag s (CLK_MCLK_CFG_MULT k) then 512 else 256) * 2 ^ min (getF s (CLK_MCLK_CFG_K k)) 2) else 0)
  let w := (List.range 2).map (fun k => if bitOf oen (4 + k) && flag s (CLK_WCO_CFG_EN k) then wcoPeriod s k else 0)
  let d := (List.range 8).map (fun k =>
    if bitOf oen (6 + k) && flag s CLK_SDM_CFG_EN then [48, 64, 96, 128].getD (getF s CLK_SDM_CFG_DIV) 48 else 0)
  m ++ w ++ d ++ [s.clk.align.get 0 0, s.clk.align.get 1 0]

/-- The clock balls changed to what the settings give, at a base boundary (R259). -/
def clkBoundary (s : State) : State :=
  let b := clkBalls s
  if b = s.clk.shown then s else emit .clockOut b { s with clk := { s.clk with shown := b } }

/-- WCO_ARM (R260): EN written to 1; the cycle of the source's last edge in the output's period. -/
def execWcoArm (output edge : Nat) (s : State) : Host.Outcome State Fault Refusal :=
  if output < 2 then .next (alignWco output edge (putF (CLK_WCO_CFG_EN output) 1 s)) else .next s

/-- WCO_TRACK_ALIGN (R260): four edges off place. -/
def execWcoTrackAlign (output edge : Nat) (s : State) : Host.Outcome State Fault Refusal :=
  if output < 2 && flag s (CLK_WCO_CFG_EN output) && flag s (CLK_WCO_CFG_TRACK output) && getF s (CLK_WCO_CFG_ALIGN_SRC output) != 0 then
    .next (alignWco output edge s)
  else .next s

end Sys2Proof.Machine
end

