-- ==== Sys2Proof/Machine/Bus.lean ====
section
/-! DEFINITION. The address map (R317, R318), the reach of masters (R316), and the memory that the ring DMAs reach. -/

namespace Sys2Proof.Machine

/-- What an address decodes to (R317): boot ROM and working RAM by offset, a register, a tile window by tile and offset,
Ashlar by word address, or the default target. -/
inductive BusTgt where
  | rom (off : Nat)
  | ram (off : Nat)
  | reg (addr : Nat)
  | tile (n off : Nat)
  | ash (word : Nat)
  | default
  deriving DecidableEq, Repr

/-- The decode of R317. -/
def busTarget (s : State) (a : Nat) : BusTgt :=
  let low := fun (remapped : Bool) (off : Nat) =>
    if remapped then BusTgt.ram off else if off < 0x20000 then .rom off else .default
  if a < 0x80000 then low (flag s SYS_REMAP_REMAP) a
  else if 0x100000 ≤ a ∧ a < 0x180000 then low (!flag s SYS_REMAP_REMAP) (a - 0x100000)
  else if 0x10000000 ≤ a ∧ a < 0x10080000 then .ram (a - 0x10000000)
  else if 0x20000000 ≤ a ∧ a < 0x20110000 then .reg a
  else if 0x30000000 ≤ a ∧ a < 0x30000000 + nTiles s * 0x100000 then .tile ((a - 0x30000000) / 0x100000) (a % 0x100000)
  else if 0x40000000 ≤ a ∧ a < 0x40000000 + nBanks s * 0x80000 then .ash ((a - 0x40000000) / 4)
  else .default

/-- Whether a master reaches a target (R316, R331). -/
def reaches (s : State) (m : Nat) (fetch : Bool) (t : BusTgt) : Bool :=
  let part := fun w => partBank s ≤ bankOf w
  match m, t with
  | 0, .rom _ => fetch
  | 0, .ram _ => fetch
  | 0, _ => false
  | 1, _ => true
  | 10, _ => s.ctl.debugOpen
  | 9, .ash w => !part w
  | 9, _ => false
  | _, .ash w => m ≤ 8 && part w
  | _, .ram _ => 5 ≤ m && m ≤ 8
  | _, .reg a => 2 ≤ m && m ≤ 4 && 0x20100000 ≤ a
  | _, _ => false

/-- A byte of working RAM. (DESIGN CHOICE log 5) -/
def ramByte (s : State) (off : Nat) : Nat := s.ctl.wram.get off 0

/-- Bytes written into working RAM. -/
def putRam (off : Nat) : List Nat → State → State
  | [], s => s
  | b :: bs, s => putRam (off + 1) bs { s with ctl := { s.ctl with wram := s.ctl.wram.set off (b % 256) 0 } }

/-- Ashlar words read by a master at once (R99, R108): the words, whether every one was answered, the state. -/
def ashWordsBy (m w : Nat) : Nat → State → List Nat × Bool × State
  | 0, s => ([], true, s)
  | n + 1, s =>
    if bankState s (bankOf w) = 0 then
      let r := ashReadMortar m w s
      let t := ashWordsBy m (w + 1) n r.2.2
      (r.1 :: t.1, !r.2.1 && t.2.1, t.2.2)
    else
      let t := ashWordsBy m (w + 1) n (putF ASH_STAT_MORTAR_ERR 1 s)
      (0 :: t.1, false, t.2.2)

/-- Bytes read by a ring DMA; what it cannot read is zeros and an entry of the log. -/
def dmaRead (m a n : Nat) (s : State) : List Nat × State :=
  let t := busTarget s a
  if !reaches s m false t then (List.replicate n 0, vsrLog (if t = .default then 1 else 2) false m 0 a s)
  else match t with
    | .ram off => ((List.range n).map (fun k => ramByte s (off + k)), s)
    | .ash w =>
      let r := ashWordsBy m w ((a % 4 + n + 3) / 4) s
      let bs := ((wordsToBytes r.1).drop (a % 4)).take n
      (bs, if r.2.1 then r.2.2 else vsrLog 3 false m 0 a r.2.2)
    | _ => (List.replicate n 0, s)

/-- Bytes written into one Ashlar line, the first at byte `o` of the line, as one beat (R111, R112): whole words are stored, others
merged with what they hold; where one of those cannot be read the beat ends with an error response and nothing is written.
(DESIGN CHOICE log 101) -/
def putLineBytes (m line o : Nat) (bs : List Nat) (s : State) : Bool × State :=
  let b : Beat := ⟨m, 0, true, line, (2 ^ bs.length - 1) * 2 ^ o, bytesToWords (List.replicate o 0 ++ bs), false⟩
  let r := ashReadMortarLine m line (ofBits (lanes.map (fun i => strobesOf b i != 0 && strobesOf b i != 15))) lanes s
  if r.2.1 then (false, vsrLog 3 true m 0 (ashByte line + o) r.2.2)
  else (true, lanes.foldl (fun s i =>
    let st := strobesOf b i
    if st = 0 then s else putMortar (line + i) (mergeWord (r.1.getD i 0) (b.data.getD i 0) st) s) r.2.2)

/-- Bytes written by a master from an Ashlar byte address, line by line; whether every beat was answered OK.
(DESIGN CHOICE log 101) -/
def putAshBytes (m a : Nat) (bs : List Nat) (s : State) : Bool × State :=
  let off := a - 0x40000000
  let o := off % 32
  (List.range ((o + bs.length + 31) / 32)).foldl (fun (x : Bool × State) i =>
    let y := putLineBytes m (8 * (off / 32 + i)) (if i = 0 then o else 0)
      (if i = 0 then bs.take (32 - o) else (bs.drop (32 * i - o)).take 32) x.2
    (x.1 && y.1, y.2)) (true, s)

/-- Bytes written by a ring DMA. (DESIGN CHOICE log 101) -/
def dmaWrite (m a : Nat) (bs : List Nat) (s : State) : State :=
  let t := busTarget s a
  if !reaches s m false t then vsrLog (if t = .default then 1 else 2) true m 0 a s
  else match t with
    | .ram off => putRam off bs s
    | .ash w => if bankState s (bankOf w) = 0 then (putAshBytes m a bs s).2 else vsrLog 3 true m 0 a (putF ASH_STAT_MORTAR_ERR 1 s)
    | _ => s

/-- A word read by a ring DMA. -/
def dmaWord (m a : Nat) (s : State) : Nat × State := let r := dmaRead m a 4 s; (ofBytes r.1, r.2)

end Sys2Proof.Machine
end

