-- ==== Sys2Proof/Machine/FwRoute.lean ====
section
/-! DEFINITION. The PARAM, ROUTE and DYN commands (R373, R374). -/

namespace Sys2Proof.Machine

/-! ## Ashlar as the firmware reaches it: mortar accesses of the Birrek data port (R99, R108, R316) -/

/-- A word read. (DESIGN CHOICE log 101) -/
def fwAshRead (w : Nat) (s : State) : Nat × State :=
  if bankState s (bankOf w) = 0 then
    let r := ashReadMortar 1 w s
    (r.1, if r.2.1 then vsrLog 3 false 1 0 (ashByte w) r.2.2 else r.2.2)
  else (0, vsrLog 3 false 1 0 (ashByte w) (putF ASH_STAT_MORTAR_ERR 1 s))

/-- Words read at rising addresses. -/
def fwAshReads (w : Nat) : Nat → State → List Nat × State
  | 0, s => ([], s)
  | n + 1, s =>
    let r := fwAshRead w s
    let t := fwAshReads (w + 1) n r.2
    (r.1 :: t.1, t.2)

/-- Words written at rising addresses. (DESIGN CHOICE log 101) -/
def fwAshWrites (w : Nat) : List Nat → State → State
  | [], s => s
  | v :: vs, s =>
    fwAshWrites (w + 1) vs (if bankState s (bankOf w) = 0 then putMortar w v s
      else vsrLog 3 true 1 0 (ashByte w) (putF ASH_STAT_MORTAR_ERR 1 s))

/-! ## Pages -/

/-- The copies of a page in the running image. -/
def pageCopies (s : State) (p : Nat) : Option (Nat × Nat) :=
  match s.fab.img with
  | some i => (i.pages.find? (fun x => x.1 == p)).map (fun x => x.2)
  | none => none

/-- A page that the running image defines, as its active and shadow copy (R367). -/
def pageOf (s : State) (p : Nat) : Except FwErr (Nat × Nat) :=
  match pageCopies s p with
  | some (a, b) => .ok (if s.fab.pageB.contains p then (b, a) else (a, b))
  | none => .error (err eContract)

/-- The recopy of a page that has swapped since its last write (R152). (DESIGN CHOICE log 89) -/
def freshenPage (p active shadow : Nat) (s : State) : State :=
  if s.rte.stale.contains p then
    let r := fwAshReads active 1024 s
    let s1 := fwAshWrites shadow r.1 r.2
    { s1 with rte := { s1.rte with stale := s1.rte.stale.filter (· != p) } }
  else s

/-- PARAM.WRITE. -/
def fwParamWrite (r : FwReq) (s : State) : FwM := do
  r.len (2 + r.w 1)
  let p := r.f 0 0 8
  audioSide s
  mayOwn s r 2 p
  r.only [(0, mask 7 0 + mask 25 16)]
  need (r.w 1 ≤ 248) (errAt eRange 1)
  need (r.f 0 16 10 + r.w 1 ≤ 1024) (errAt eRange 0)
  need (pageTag s p < 64) (err eState)
  let c ← pageOf s p
  quotaFor s r 2 p
  let s1 := freshenPage p c.1 c.2 (acquire r 2 p s)
  return (fwAshWrites (c.2 + r.f 0 16 10) (r.words.drop 2) s1, [])

/-- PARAM.READ. -/
def fwParamRead (r : FwReq) (s : State) : FwM := do
  r.len 2
  r.only [(0, mask 8 0 + mask 25 16)]
  need (r.w 1 ≤ 248) (errAt eRange 1)
  need (r.f 0 16 10 + r.w 1 ≤ 1024) (errAt eRange 0)
  let c ← pageOf s (r.f 0 0 8)
  let x := fwAshReads ((if r.f 0 8 1 = 1 then c.2 else c.1) + r.f 0 16 10) (r.w 1) s
  return (x.2, x.1)

/-! ## Crosspoints -/

/-- Entry k of a request of 16-byte entries from a word on: value and complement. -/
def entryAt (r : FwReq) (w k : Nat) : PairWord := ⟨r.ci (w + 4 * k), r.ci (w + 4 * k + 2)⟩

/-- A change put into a staging list; it replaces an earlier one for the same crosspoint (R374). (DESIGN CHOICE log 30) -/
def stageXp (l : List Nat) (v : Nat) : List Nat :=
  if l.any (fun x => xpKey x == xpKey v) then l.map (fun x => if xpKey x = xpKey v then v else x) else l ++ [v]

/-- The field checks of the entries of ROUTE.STAGE (R142, R143), naming the record. (DEDUCED log 32) -/
def xpLegal (s : State) : List PairWord → Nat → Except FwErr Unit
  | [], _ => .ok ()
  | e :: es, k => do
    need (bits e.value 56 8 == 0 && xpRamp e.value < 12 && xpDest e.value < nDests s) (errRec eRange k)
    need e.ok (errRec ePairword k)
    xpLegal s es (k + 1)

/-- No source lies in a chained line. (DEDUCED log 32) -/
def xpContract (s : State) : List PairWord → Nat → Except FwErr Unit
  | [], _ => .ok ()
  | e :: es, k => do
    need (!(chained s.fab.cal (xpSrc e.value / 8))) (errRec eContract k)
    xpContract s es (k + 1)

/-- ROUTE.STAGE. (DEDUCED log 32) -/
def fwRouteStage (r : FwReq) (s : State) : FwM := do
  let n := r.f 0 0 16
  r.len (1 + 4 * n)
  audioSide s
  let es := (List.range n).map (entryAt r 1)
  let ds := es.map (fun e => xpDest e.value)
  mayOwnAll s r 3 ds 0
  r.only [(0, mask 15 0)]
  need (n ≤ 62) (errAt eRange 0)
  xpLegal s es 0
  xpContract s es 0
  quotaForAll s r 3 ds
  let l := es.foldl (fun l e => stageXp l e.value) (seatOf s r.seat).routes
  need (l.length ≤ 4096) (err eNospace)
  return (updSeat r.seat (fun t => { t with routes := l }) (acquireAll r 3 ds s), [])

/-- The crosspoint that a staged change finds sounding. -/
def soundingAt (s : State) (v : Nat) : Option Nat :=
  (s.rte.snd.find? (fun p => p.2.src == xpSrc v && p.2.dest == xpDest v)).map Prod.fst

/-- The lowest index below a limit that is neither valid in the active half, nor sounding, nor taken by this commit.
(DESIGN CHOICE log 30) -/
def freeIndex (s : State) (used : List Nat) : Option Nat :=
  (List.range s.fab.cal.routeCap).find? (fun i =>
    !(xpValid (s.rte.act.get i xpNone).value || (s.rte.snd.find i).isSome || used.contains i))

/-- The staged changes placed at indexes (R374 step 2); none when a new crosspoint finds no index. (DESIGN CHOICE log 30) -/
def placeXps (s : State) : List Nat → List Nat → List (Nat × Nat) → Option (List (Nat × Nat))
  | [], _, acc => some acc
  | v :: vs, used, acc =>
    match soundingAt s v with
    | some i => placeXps s vs (i :: used) ((i, v) :: acc)
    | none =>
      if xpValid v then
        match freeIndex s used with
        | some i => placeXps s vs (i :: used) ((i, v) :: acc)
        | none => none
      else placeXps s vs used acc

/-- Bytes packed into words from a word on. -/
def bytesAt (r : FwReq) (w n : Nat) : List Nat := (List.range n).map (fun k => r.f (w + k / 4) (8 * (k % 4)) 8)
/-- Halfwords packed into words from a word on. -/
def halvesAt (r : FwReq) (w n : Nat) : List Nat := (List.range n).map (fun k => r.f (w + k / 2) (16 * (k % 2)) 16)

/-- ROUTE.COMMIT (R150, R374): a set with its members tagged, or a marker. -/
def fwRouteCommit (r : FwReq) (s : State) : FwM := do
  let np := r.f 2 8 8
  let nd := r.f 2 16 10
  r.len (3 + (np + 3) / 4 + (nd + 1) / 2)
  let pages := bytesAt r 3 np
  let insts := halvesAt r (3 + (np + 3) / 4) nd
  let route := r.f 2 0 1 == 1
  need (insts.all (· < 1024)) (err eRange)
  need (insts.all (· < maxDyn s)) (err eAbsent)
  audioSide s
  mayOwnAll s r 2 pages 0
  mayOwnAll s r 4 insts 0
  r.only [(2, 1 + mask 15 8 + mask 25 16)]
  need (running s) (err eState)
  need (pages.all (fun p => pageTag s p < 64) && insts.all (fun i => dynTag s i < 64)
    && !(route && flag s RTE_SL_ROUTE_ARMED)) (err eState)
  let kind := if route || !pages.isEmpty || !insts.isEmpty then 1 else 6
  let e : Sched := ⟨kind, r.seat, r.ci 0, route, pages, insts, [], false⟩
  need (!schedConflict s { e with ci := aimed s r kind (r.ci 0) }) (err eState)
  need (!(route && flag s RTE_STAT_RESYNC) && insts.all (fun i => !s.dyn.recopy.contains i)) (err eBusy)
  need (pages.all (fun p => (pageCopies s p).isSome) && insts.all (· < s.fab.cal.dynCap)) (err eContract)
  quotaForAll s r 2 pages
  quotaForAll s r 4 insts
  let t := seatOf s r.seat
  match (if route then placeXps s t.routes [] [] else some []) with
  | none => .error (err eNospace)
  | some pl => do
    let a ← arm s r e
    let s1 := acquireAll r 4 insts (acquireAll r 2 pages a.2.2)
    let s2 := if route then
        updSeat r.seat (fun t => { t with routes := [], dests := [] })
          { s1 with rte := { s1.rte with
              shadow := pl.foldl (fun m p => m.set p.1 (PairWord.mk' p.2) xpNone) s1.rte.shadow
              shRec := t.dests.foldl (fun m p => m.set p.1 (PairWord.mk' p.2) recReset) s1.rte.shRec
              held := t.routes } }
      else s1
    return (tagSet a.1 e s2, schedReply a.1 a.2.1)

/-- A destination that the running image defines (R367). (DEDUCED log 32) -/
def destDefined (s : State) (d : Nat) : Except FwErr Unit := need (d < nDests s) (err eContract)

/-- ROUTE.DEST (R148). (DEDUCED log 32) -/
def fwRouteDest (r : FwReq) (s : State) : FwM := do
  r.len 5
  let d := r.f 0 0 12
  let v := r.ci 1
  audioSide s
  mayOwn s r 3 d
  r.only [(0, mask 11 0), (1, 0xFFFFFFFF - mask 31 25)]
  need (-12288 ≤ toS 16 (bits v 0 16) && toS 16 (bits v 0 16) ≤ 0) (errAt eRange 1)
  need (50 ≤ bits v 48 16 && bits v 48 16 ≤ 50000) (errAt eRange 2)
  need (PairWord.mk v (r.ci 3)).ok (err ePairword)
  destDefined s d
  quotaFor s r 3 d
  let l := (seatOf s r.seat).dests.filter (fun p => p.1 != d) ++ [(d, v)]
  need (l.length ≤ 1024) (err eNospace)
  return (updSeat r.seat (fun t => { t with dests := l }) (acquire r 3 d s), [])

/-- ROUTE.SILENCE (R159). -/
def fwRouteSilence (r : FwReq) (s : State) : FwM := do
  r.len 3
  let d := r.f 0 0 12
  audioSide s
  mayOwn s r 3 d
  r.only [(0, mask 11 0), (2, mask 16 0)]
  destDefined s d
  quotaFor s r 3 d
  return (writeSilence d (r.w 1) (r.w 2) (acquire r 3 d s), [])

/-- ROUTE.READ: the crosspoints of a destination in one half, by position. (DESIGN CHOICE log 29) -/
def fwRouteRead (r : FwReq) (s : State) : FwM := do
  r.len 1
  r.only [(0, mask 12 0 + mask 31 16)]
  let d := r.f 0 0 12
  destDefined s d
  let half := if r.f 0 12 1 = 1 then s.rte.shadow else s.rte.act
  let all := half.filter (fun p => xpValid p.2.value && xpDest p.2.value == d)
  let start := r.f 0 16 16
  let part := (all.drop start).take 62
  let next := if start + part.length < all.length then start + part.length else 0xFFFF
  return (s, (part.length + 65536 * next) ::
    (part.map (fun p => [lo32 p.2.value, hi32 p.2.value, lo32 p.2.comp, hi32 p.2.comp])).flatten)

/-- ROUTE.DSTAT. (DESIGN CHOICE log 29) -/
def fwRouteDstat (r : FwReq) (s : State) : FwM := do
  r.len 1
  let d := r.f 0 0 12
  let clear := r.f 0 16 1 == 1
  need (!clear || owns s r.seat 3 d) (err eOwned)
  r.only [(0, mask 11 0 + 65536)]
  destDefined s d
  let v := (s.rte.actRec.get d recReset).value
  let ws := [destStatus (dstOf s d), lo32 (dstOf s d).silCi, lo32 v, hi32 v]
  return (if clear then updDst d (fun t => { t with clip := 0 }) s else s, ws)

/-- ROUTE.DISCARD. -/
def fwRouteDiscard (r : FwReq) (s : State) : FwM := do
  r.len 0
  audioSide s
  let t := seatOf s r.seat
  return (updSeat r.seat (fun t => { t with routes := [], dests := [] }) s, [t.routes.length + t.dests.length])

/-! ## Dynamics -/

/-- DYN.STAGE. -/
def fwDynStage (r : FwReq) (s : State) : FwM := do
  r.len 9
  let i := r.f 0 0 10
  let rc := (List.range 8).map (fun k => r.w (k + 1))
  inVariant i (maxDyn s) 1024
  audioSide s
  mayOwn s r 4 i
  r.only [(0, mask 9 0)]
  need (dynLegal rc) (err eRange)
  need (i < s.fab.cal.dynCap || rf rc 0 28 2 == 0) (err eRange)
  need (dynTag s i < 64) (err eState)
  need (!s.dyn.recopy.contains i) (err eBusy)
  need (i < s.fab.cal.dynCap && producer s.fab.cal (rf rc 1 0 13 / 8) == 0x23
    && !chained s.fab.cal (rf rc 0 0 13 / 8) && !chained s.fab.cal (rf rc 0 13 13 / 8)) (err eContract)
  quotaFor s r 4 i
  let s1 := acquire r 4 i s
  return ({ s1 with dyn := { s1.dyn with shadow := putRec s1.dyn.shadow i rc } }, [])

/-- DYN.READ. -/
def fwDynRead (r : FwReq) (s : State) : FwM := do
  r.len 1
  let i := r.f 0 0 10
  inVariant i (maxDyn s) 1024
  r.only [(0, mask 9 0 + mask 17 16)]
  need (r.f 0 16 2 ≤ 2) (errAt eRange 0)
  need (i < s.fab.cal.dynCap) (err eContract)
  return (s, (List.range (if r.f 0 16 2 = 2 then 2 else 8)).map (dynRead s (r.f 0 16 2) i))

/-- PARAM_WRITE. -/
def execParamWrite (r : FwReq) (s : State) : Host.Outcome State Fault Refusal := fwRow 0x0300 r fwParamWrite s
/-- PARAM_READ. -/
def execParamRead (r : FwReq) (s : State) : Host.Outcome State Fault Refusal := fwRow 0x0301 r fwParamRead s
/-- ROUTE_STAGE. -/
def execRouteStage (r : FwReq) (s : State) : Host.Outcome State Fault Refusal := fwRow 0x0400 r fwRouteStage s
/-- ROUTE_COMMIT. -/
def execRouteCommit (r : FwReq) (s : State) : Host.Outcome State Fault Refusal := fwRow 0x0401 r fwRouteCommit s
/-- ROUTE_DEST. -/
def execRouteDest (r : FwReq) (s : State) : Host.Outcome State Fault Refusal := fwRow 0x0402 r fwRouteDest s
/-- ROUTE_SILENCE. -/
def execRouteSilence (r : FwReq) (s : State) : Host.Outcome State Fault Refusal := fwRow 0x0403 r fwRouteSilence s
/-- ROUTE_READ. -/
def execRouteRead (r : FwReq) (s : State) : Host.Outcome State Fault Refusal := fwRow 0x0404 r fwRouteRead s
/-- ROUTE_DSTAT. -/
def execRouteDstat (r : FwReq) (s : State) : Host.Outcome State Fault Refusal := fwRow 0x0405 r fwRouteDstat s
/-- ROUTE_DISCARD. -/
def execRouteDiscard (r : FwReq) (s : State) : Host.Outcome State Fault Refusal := fwRow 0x0406 r fwRouteDiscard s
/-- DYN_STAGE. -/
def execDynStage (r : FwReq) (s : State) : Host.Outcome State Fault Refusal := fwRow 0x0500 r fwDynStage s
/-- DYN_READ. -/
def execDynRead (r : FwReq) (s : State) : Host.Outcome State Fault Refusal := fwRow 0x0501 r fwDynRead s

end Sys2Proof.Machine
end

