-- ==== Sys2Proof/Machine/Operands.lean ====
section
/-! DEFINITION. The operand forms of the tile instruction set (R78, R84, R89) and the registers of a tile by their offset
in the register view (R70). -/

namespace Sys2Proof.Machine

/-! ## Register-view offsets (R70) -/

/-- Lane i of V register v. -/
def kV (v i : Nat) : Nat := 32 * v + 4 * i
/-- Lane i of accumulator a, held under the offset of its first word. -/
def kA (a i : Nat) : Nat := 0x400 + 128 * a + 16 * i
/-- S register. -/
def kS (r : Nat) : Nat := 0x800 + 4 * r
/-- P register. -/
def kP (r : Nat) : Nat := 0x840 + 4 * r
/-- M register. -/
def kM (r : Nat) : Nat := 0x880 + 4 * r
/-- B register. -/
def kB (r : Nat) : Nat := 0x8C0 + 4 * r
/-- L register. -/
def kL (r : Nat) : Nat := 0x900 + 4 * r
/-- Z counter. -/
def kZ (r : Nat) : Nat := 0x940 + 4 * r
/-- G register: page in [7:0], valid in [8]. -/
def kG (r : Nat) : Nat := 0x950 + 4 * r
/-- Binding of a pointer. -/
def kBind (r : Nat) : Nat := 0x970 + 4 * r

/-- A register as committed. -/
def tReg (t : Tile) (k : Nat) : Nat := t.regs.get k 0

/-- A register as its class sees it at bundle cycle `now` (R62, R76): a pending result of the same class that is already
forwarded, the latest issued of them, else the committed value. -/
def tRegFwd (t : Tile) (cls now k : Nat) : Nat :=
  match (t.pend.filter (fun p => p.key == k && p.cls == cls && p.fwd ≤ now)).getLast? with
  | some p => p.val
  | none => tReg t k

/-- A lane of a V register as a signed number. -/
def vLane (t : Tile) (v i : Nat) : Int := toS 32 (tReg t (kV v i))

/-- A lane of an accumulator as a signed number. -/
def aLane (t : Tile) (a i : Nat) : Int := toS 72 (tReg t (kA a i))

/-! ## Fields of a slot word -/

/-- The opcode of a slot word (R74). -/
def opOf (w : Nat) : Nat := bits w 26 6
/-- d of format VR. -/
def fD (w : Nat) : Nat := bits w 21 5
/-- a of format VR and VM. -/
def fA (w : Nat) : Nat := bits w 16 5
/-- b of format VR and VM. -/
def fB (w : Nat) : Nat := bits w 11 5
/-- Sd of a V-slot operation. -/
def fSd (w : Nat) : Nat := bits w 21 4
/-- Ss of a V-slot operation. -/
def fSs (w : Nat) : Nat := bits w 16 4
/-- Aa in [23:21]. -/
def fAcc (w : Nat) : Nat := bits w 21 3
/-- reg of an L or S operation. -/
def fReg (w : Nat) : Nat := bits w 21 5
/-- P of an L or S operation. -/
def fP (w : Nat) : Nat := bits w 17 4
/-- M of an L or S operation. -/
def fM (w : Nat) : Nat := bits w 13 4
/-- mode of an L or S operation. -/
def fMode (w : Nat) : Nat := bits w 11 2
/-- Lane mask of an L or S operation. -/
def fMask (w : Nat) : Nat := bits w 3 8
/-- opt of an L or S operation. -/
def fOpt (w : Nat) : Nat := bits w 0 3
/-- Slot-plane line of SRD and SWR. -/
def fLine (w : Nat) : Nat := bits w 11 10
/-- The register field [25:22] of a C operation. -/
def fC (w : Nat) : Nat := bits w 22 4
/-- The register field [21:18] of a C operation. -/
def fC2 (w : Nat) : Nat := bits w 18 4
/-- The 24-bit value of an immediate form: imm [20:0], shifted left by 3 when sc = 1; signed for M (R89). -/
def fImm (w : Nat) (signed : Bool) : Nat :=
  let v : Int := if signed then toS 21 (bits w 0 21) else (bits w 0 21 : Nat)
  ofS 24 (if bitOf w 21 then v * 8 else v)

/-- The coefficient of a lane in format VM (R78): lane i, or lane j for all when bc = 1, as a whole number. -/
def coef (t : Tile) (w i : Nat) : Int := vLane t (fB w) (if bitOf w 10 then bits w 7 3 else i)

/-- The product in the accumulator's scale (R49): Q3.29 coefficients are shifted left by 2; neg subtracts. -/
def product (t : Tile) (w : Nat) (x : Int) (i : Nat) : Int :=
  let p := x * coef t w i * (if bitOf w 6 then 4 else 1)
  if bitOf w 5 then -p else p

/-! ## Address generation -/

/-- The low k bits reversed. -/
def brev : Nat → Nat → Nat
  | 0, _ => 0
  | k + 1, v => v % 2 * 2 ^ k + brev k (v / 2)

/-- The exponent of a power of two of at least 2, if a length is one. -/
def lenExp (l : Nat) : Option Nat := (List.range 24).find? (fun k => k ≥ 1 && l == 2 ^ k)

/-- The new pointer value of R56 and the fault it meets (R57): 4 MODRANGE, 5 BREV_LEN, 0 none. -/
def postModify (mode p m b l : Nat) : Nat × Nat :=
  let mi := toS 24 m
  match mode with
  | 0 => (p, 0)
  | 1 => (ofS 24 ((p : Int) + mi), 0)
  | 2 =>
    if l = 0 then (ofS 24 ((p : Int) + mi), 0)
    else
      let t := (p : Int) + mi
      let v := if (b : Int) + l ≤ t then t - l else if t < b then t + l else t
      (ofS 24 v, if (l : Int) ≤ mi.natAbs then 4 else 0)
  | _ =>
    match lenExp l with
    | none => (p, 5)
    | some k =>
      let o := brev k (ofS 24 ((p : Int) - b) % 2 ^ k)
      (ofS 24 ((b : Int) + brev k (ofS k ((o : Int) + mi))), 0)

/-- The post-modify of pointer p by modifier m in a tile, through the pair its binding names (R55). -/
def tilePostModify (t : Tile) (p m mode : Nat) : Nat × Nat :=
  let pair := tReg t (kBind p)
  postModify mode (tReg t (kP p)) (tReg t (kM m)) (tReg t (kB pair)) (tReg t (kL pair))

/-- The pointers bound to a pair. -/
def boundTo (t : Tile) (l : Nat) : List Nat := (List.range 16).filter (fun p => tReg t (kBind p) == l)

/-- Renormalisation by SETL (R58): B + ((P - B) mod L'), nothing when L' is 0. -/
def renorm (b l p : Nat) : Nat :=
  if l = 0 then p else ofS 24 ((b : Int) + (((p : Int) - b) % (l : Int)))

/-- The move by SETB (R59). -/
def moveBase (b b' p : Nat) : Nat := ofS 24 ((p : Int) + ((b' : Int) - b))

/-- Headroom of a word (R82): leading bits equal to bit 31, minus 1. -/
def headroom (x : Int) : Nat :=
  let v := if x < 0 then (-x - 1).toNat else x.toNat
  31 - (if v = 0 then 0 else Nat.log2 v + 1)

/-- The conditions of VCMP (R83). -/
def vcond (c : Nat) (x y : Int) : Bool :=
  match c with
  | 0 => x == y
  | 1 => x != y
  | 2 => decide (x < y)
  | 3 => decide (x ≤ y)
  | 4 => decide (y < x)
  | 5 => decide (y ≤ x)
  | _ => false

/-- The lane that VPERM takes (R83). -/
def permLane (pat i : Nat) : Nat :=
  if pat = 1 then i ^^^ 1
  else if pat = 2 then i ^^^ 2
  else if pat = 3 then i ^^^ 4
  else if pat = 4 then 7 - i
  else if 8 ≤ pat ∧ pat ≤ 15 then pat - 8
  else if 16 ≤ pat ∧ pat ≤ 23 then (i + (pat - 16)) % 8
  else i

end Sys2Proof.Machine
end

