-- ==== Sys2Proof/Machine/Tile.lean ====
section
/-! DEFINITION. The tiles: issue of a bundle (R45 to R51, R74 to R92), the later bank accesses and Ashlar landings of what
was issued (R52 to R65), tile faults (R67), and the ARM and STOP commands (R66). -/

namespace Sys2Proof.Machine

/-! ## Results on their way -/

/-- A pending write put in its place by the bundle at which it becomes usable, after those already there. -/
def insertDue (p : PendWrite) : List PendWrite → List PendWrite
  | [] => [p]
  | q :: t => if p.due < q.due then p :: q :: t else q :: insertDue p t

/-- Pending writes in the order in which they become usable; those usable together stay in issue order (R77). -/
def sortDue (l : List PendWrite) : List PendWrite := l.foldl (fun acc p => insertDue p acc) []

/-- Results usable at bundle cycle `now` committed to the register file. -/
def commitPend (now : Nat) (t : Tile) : Tile :=
  let due := sortDue (t.pend.filter (fun p => p.due ≤ now))
  { t with
    regs := due.foldl (fun r p => r.set p.key p.val 0) t.regs
    pend := t.pend.filter (fun p => now < p.due) }

/-- Every result committed, for a tile that issues no more. -/
def commitAll (t : Tile) : Tile := commitPend (t.pend.foldl (fun m p => max m p.due) 0) t

/-! ## Tile faults (R67) -/

/-- TILEn_FAULT as a word. -/
def tileFaultWord (s : State) (n : Nat) : Nat :=
  getF s (TILE_FAULT_CAUSE n) + 16 * getF s (TILE_FAULT_PC n) + 65536 * getF s (TILE_FAULT_CYCLE n)

/-- The fault record of a tile. -/
def recordFault (n cause pc cyc : Nat) (s : State) : State :=
  putFs [(TILE_FAULT_CAUSE n, cause), (TILE_FAULT_PC n, pc), (TILE_FAULT_CYCLE n, cyc), (TILE_STAT_PC n, pc)] s

/-- A tile fault: FAULTED with the faulting bundle and its cycle, the lowest cause when one bundle meets several; every cause
but ECC_FATAL is a guard fault of the same code (R67, R128). (DEDUCED log 111, DESIGN CHOICE log 110) -/
def tileFault (n cause pc cyc : Nat) (s : State) : State :=
  watchLife (fun s =>
    let was := getF s (TILE_STAT_STATE n) == 3
    let s1 :=
      if was then
        if getF s (TILE_FAULT_PC n) = pc ∧ getF s (TILE_FAULT_CYCLE n) = cyc ∧ cause < getF s (TILE_FAULT_CAUSE n) then
          recordFault n cause pc cyc s
        else s
      else putF (TILE_STAT_STATE n) 3 (recordFault n cause pc cyc s)
    if cause = 7 then selfDiag 1 s1 else guardFault cause n s.fab.cycle s1) s

/-- What happens to a tile in one cycle, with the TILE_FAULT event when it ends the cycle newly FAULTED (R67, R384).
(DEDUCED log 111) -/
def faultCycle (n : Nat) (f : State → State) (s : State) : State :=
  let t := f s
  if getF s (TILE_STAT_STATE n) != 3 && getF t (TILE_STAT_STATE n) == 3 then raiseAll 0x0012 [n, tileFaultWord t n] t else t

/-! ## V slot (R78 to R83) -/

/-- What a slot contributes: results, and the lanes that saturated on the way to 32 and to 72 bits. -/
structure SlotRes where
  pend : List PendWrite
  sat : Nat
  acc : Nat

/-- No effect. -/
def SlotRes.none : SlotRes := ⟨[], 0, 0⟩

/-- A result of the V slot with no forwarding, usable after `lat` bundles. -/
def vres (now lat key : Nat) (v : Nat) : PendWrite := ⟨key, v, now + lat, now + lat, 0, now, 1⟩

/-- A lane-wise operation into Vd: each lane's exact result, saturated, counting the saturated lanes. -/
def laneSat (now w : Nat) (f : Nat → Int) : SlotRes :=
  ⟨lanes.map (fun i => vres now 2 (kV (fD w) i) (ofS 32 (satS32 (f i)))), (lanes.filter (fun i => overS32 (f i))).length, 0⟩

/-- A lane-wise operation into Vd that cannot saturate. -/
def lanePlain (now w : Nat) (f : Nat → Nat) : SlotRes :=
  ⟨lanes.map (fun i => vres now 2 (kV (fD w) i) (lo32 (f i))), 0, 0⟩

/-- The accumulator lane that MAC and FTAP add to, with the forwarding of R62; nothing when clr = 1. -/
def macBase (t : Tile) (now w i : Nat) : Int :=
  if bitOf w 4 then 0 else toS 72 (tRegFwd t 1 now (kA (fAcc w) i))

/-- A multiply-accumulate of Vx by the coefficient operand (R79, R50). -/
def macRes (t : Tile) (now w x : Nat) : SlotRes :=
  let sum := fun i => macBase t now w i + product t w (vLane t x i) i
  ⟨lanes.map (fun i => ⟨kA (fAcc w) i, ofS 72 (satAcc (sum i)), now + 3, now + 1, 1, now, 1⟩), 0,
   (lanes.filter (fun i => overAcc (sum i))).length⟩

/-- The move of FTAP, Vd into V(d+1), unless nomove = 1 or d = 31 (R81). -/
def tapMove (t : Tile) (now w : Nat) : List PendWrite :=
  let d := fA w
  if bitOf w 3 || d == 31 then [] else lanes.map (fun i => vres now 2 (kV (d + 1) i) (tReg t (kV d i)))

/-- Lane results converted from an accumulator scale as R51, usable after `lat` bundles. -/
def convRes (now lat vd : Nat) (f : Nat → Int) : SlotRes :=
  ⟨lanes.map (fun i => vres now lat (kV vd i) (ofS 32 (satS32 (accRound (f i))))),
   (lanes.filter (fun i => overS32 (accRound (f i)))).length, 0⟩

/-- The lowest headroom over the lanes of Va (R82). -/
def minHeadroom (t : Tile) (v : Nat) : Nat := lanes.foldl (fun m i => min m (headroom (vLane t v i))) 31

/-- A shift by a signed amount limited to [-31, 31]: left with saturation, right with rounding (R80). -/
def bscl (x sh : Int) : Int :=
  let k := clampI (-31) 31 sh
  if 0 ≤ k then x * (2 ^ k.toNat : Int) else rne (-k).toNat x

/-- The V-slot operation of a slot word at bundle cycle `now` (R79). -/
def vSlot (t : Tile) (now w : Nat) : SlotRes :=
  let a := fun i => vLane t (fA w) i
  let b := fun i => vLane t (fB w) i
  let an := fun i => tReg t (kV (fA w) i)
  let bn := fun i => tReg t (kV (fB w) i)
  let x := bits w 0 11
  match opOf w with
  | 0x01 => laneSat now w (fun i => a i + b i)
  | 0x02 => laneSat now w (fun i => a i - b i)
  | 0x03 => lanePlain now w (fun i => ofS 32 (rne 1 (a i + b i)))
  | 0x04 => lanePlain now w (fun i => ofS 32 (rne 1 (a i - b i)))
  | 0x05 => laneSat now w (fun i => -(a i))
  | 0x06 => laneSat now w (fun i => ((a i).natAbs : Int))
  | 0x07 => lanePlain now w (fun i => if a i ≤ b i then an i else bn i)
  | 0x08 => lanePlain now w (fun i => if b i ≤ a i then an i else bn i)
  | 0x09 => lanePlain now w (fun i => an i &&& bn i)
  | 0x0A => lanePlain now w (fun i => an i ||| bn i)
  | 0x0B => lanePlain now w (fun i => an i ^^^ bn i)
  | 0x0C => laneSat now w (fun i => a i * (2 ^ bits x 0 5 : Int))
  | 0x0D => lanePlain now w (fun i => ofS 32 (rne (bits x 0 5) (a i)))
  | 0x0E => lanePlain now w (fun i => if vcond (bits x 0 3) (a i) (if bitOf x 3 then 0 else b i) then 0xFFFFFFFF else 0)
  | 0x0F => lanePlain now w (fun i => if tReg t (kV (bits x 6 5) i) = 0 then bn i else an i)
  | 0x10 => lanePlain now w (fun i => tReg t (kV (fA w) (permLane (bits x 0 5) i)))
  | 0x11 => lanePlain now w (fun _ => tReg t (kS (fSs w)))
  | 0x12 => ⟨[vres now 2 (kV (fD w) (bits x 0 3)) (tReg t (kS (fSs w)))], 0, 0⟩
  | 0x13 => ⟨[vres now 2 (kS (fSd w)) (an (bits x 0 3))], 0, 0⟩
  | 0x14 => convRes now 3 (fD w) (fun i => product t w (a i) i)
  | 0x18 => macRes t now w (fA w)
  | 0x19 => let m := macRes t now w (fA w); { m with pend := m.pend ++ tapMove t now w }
  | 0x1A => convRes now 2 (fD w) (fun i => aLane t (bits w 16 3) i * (2 ^ bits w 0 3 : Int))
  | 0x1B => ⟨lanes.map (fun i => vres now 2 (kA (fAcc w) i) (ofS 72 (a i * 2147483648))), 0, 0⟩
  | 0x1C =>
    let h := minHeadroom t (fA w)
    if bits x 0 2 = 0 then ⟨[vres now 2 (kS (fSd w)) h], 0, 0⟩
    else ⟨[⟨kS (fSd w), min (tRegFwd t 2 now (kS (fSd w))) h, now + 2, now + 1, 2, now, 1⟩], 0, 0⟩
  | 0x1D =>
    let sh := if bitOf x 10 then toS 6 (bits x 0 6) else toS 32 (tReg t (kS (bits w 11 4)))
    laneSat now w (fun i => bscl (a i) sh)
  | _ => SlotRes.none

/-! ## L and S slots (R84 to R88) -/

/-- What an L or S operation contributes: the accesses it will make, landings, its pointer's new value, saturated lanes. -/
structure MemRes where
  accs : List TileAcc
  lands : List Landing
  ptr : List (Nat × Nat)
  sat : Nat

/-- No effect. -/
def MemRes.none : MemRes := ⟨[], [], [], 0⟩

/-- Whether an L or S operation addresses through P (SRD and SWR do not). -/
def agRes (t : Tile) (w : Nat) : List (Nat × Nat) × List Nat :=
  let r := tilePostModify t (fP w) (fM w) (fMode w)
  ([(kP (fP w), r.1)], if r.2 = 0 then [] else [r.2])

/-- The L-slot operation of a slot word (R85, R88). -/
def lSlot (s : State) (n : Nat) (t : Tile) (now w : Nat) : MemRes :=
  let p := tReg t (kP (fP w))
  let ag := agRes t w
  let marks := fun c (l : List Nat) => l.map (fun x => (⟨now + c, now, t.pc, .mark x⟩ : TileAcc))
  let acc := fun c k => (⟨⟨now + c, now, t.pc, k⟩ :: marks c ag.2, [], ag.1, 0⟩ : MemRes)
  match opOf w with
  | 0x01 => acc 1 (.ldv (fReg w) (fMask w) (p % 65536))
  | 0x02 => acc 1 (.lds (fSd w) (p % 65536))
  | 0x03 => acc 1 (.ldb (fReg w) (fMask w) (p % 65536))
  | 0x04 => ⟨[⟨now + 1, now, t.pc, .srd (fReg w) (fMask w) (fLine w)⟩], [], [], 0⟩
  | 0x05 => acc 2 (.ard (tReg t (kP (fSd w)) % 65536) (fMask w) p)
  | 0x06 =>
    let pd := tReg t (kP (fSd w)) % 65536
    let g := fOpt w
    if getF s (TILE_PGBASE_VALID n g) = 0 ∨ 1024 ≤ p then
      ⟨marks 2 (6 :: ag.2), [⟨now + 7, now, t.pc, pd, fMask w, List.replicate 8 0⟩], ag.1, 0⟩
    else acc 2 (.ard pd (fMask w) (getF s (TILE_PGBASE_BASE n g) + p % 1024))
  | _ => MemRes.none

/-- The S-slot operation of a slot word (R86). -/
def sSlot (t : Tile) (now w : Nat) : MemRes :=
  let p := tReg t (kP (fP w))
  let ag := agRes t w
  let marks := ag.2.map (fun x => (⟨now + 1, now, t.pc, .mark x⟩ : TileAcc))
  let acc := fun sat k => (⟨⟨now + 1, now, t.pc, k⟩ :: marks, [], ag.1, sat⟩ : MemRes)
  match opOf w with
  | 0x01 => acc 0 (.stv (fMask w) (p % 65536) (lanes.map (fun i => tReg t (kV (fReg w) i))))
  | 0x02 => acc 0 (.sts (p % 65536) (tReg t (kS (fSd w))))
  | 0x03 =>
    let v := fun i => accRound (aLane t (fAcc w) i * (2 ^ fOpt w : Int))
    acc (lanes.filter (fun i => bitOf (fMask w) i && overS32 (v i))).length
      (.stv (fMask w) (p % 65536) (lanes.map (fun i => ofS 32 (satS32 (v i)))))
  | 0x04 => ⟨[⟨now + 1, now, t.pc, .swr (fMask w) (fLine w) (lanes.map (fun i => tReg t (kV (fReg w) i)))⟩], [], [], 0⟩
  | 0x05 => acc 0 (.awrRead (tReg t (kP (fSd w)) % 65536) (fMask w) p)
  | _ => MemRes.none

/-! ## C slot (R89 to R92) -/

/-- What a C operation contributes: registers written directly, the base or length written with the pair it belongs to
(renormalising or moving its pointers), a repeat started, ENDC, REP_CLAMP, where issue goes on after a body that runs
zero times with the cycles idled, and fault causes. -/
structure CRes where
  regs : List (Nat × Nat)
  base : Option (Nat × Nat)
  len : Option (Nat × Nat)
  rep : Option Rep
  skip : Option (Nat × Nat)
  endc : Bool
  clamp : Bool
  causes : List Nat

/-- No effect. -/
def CRes.none : CRes := ⟨[], Option.none, Option.none, Option.none, Option.none, false, false, []⟩

/-- The source value of XMOV by class (R89): 32 bits. -/
def xmovSrc (t : Tile) (cls r : Nat) : Nat :=
  match cls with
  | 0 => tReg t (kS r)
  | 1 => tReg t (kP r)
  | 2 => ofS 32 (toS 24 (tReg t (kM r)))
  | 3 => if r < 4 then tReg t (kZ r) else 0
  | _ => 0

/-- A repeat bundle with count n over a body of len bundles, idling after it (R90). -/
def startRep (t : Tile) (z n len idle : Nat) (clamp : Bool) : CRes :=
  if len = 0 then { CRes.none with regs := [(kZ z, 0)], clamp := clamp }
  else if n = 0 then { CRes.none with regs := [(kZ z, 0)], skip := some (t.pc + len, idle), clamp := clamp }
  else { CRes.none with regs := [(kZ z, n)], rep := some ⟨z, t.pc + 1, t.pc + len, idle⟩, clamp := clamp }

/-- The C-slot operation of a slot word (R89). -/
def cSlot (t : Tile) (w : Nat) : CRes :=
  let sreg := fun r => tReg t (kS r)
  match opOf w with
  | 0x01 => { CRes.none with endc := true }
  | 0x02 => startRep t (bits w 24 2) (bits w 0 16) (bits w 16 8) 0 false
  | 0x03 =>
    let m := bits w 0 12
    let v := sreg (bits w 12 4)
    let len := bits w 16 8
    startRep t (bits w 24 2) (min v m) len ((m - min v m) * len) (decide (m < v) && len != 0)
  | 0x04 => { CRes.none with regs := [(kP (fC w), fImm w false)] }
  | 0x05 => { CRes.none with regs := [(kM (fC w), fImm w true)] }
  | 0x06 => { CRes.none with base := some (fC w, fImm w false) }
  | 0x07 => { CRes.none with len := some (fC w, fImm w false) }
  | 0x08 => { CRes.none with base := some (fC w, sreg (fC2 w) % 16777216) }
  | 0x09 => { CRes.none with len := some (fC w, sreg (fC2 w) % 16777216) }
  | 0x0A => { CRes.none with regs := [(kBind (fC w), fC2 w)] }
  | 0x0B =>
    let v := xmovSrc t (bits w 16 3) (bits w 12 4)
    let d := bits w 19 4
    match bits w 23 3 with
    | 0 => { CRes.none with regs := [(kS d, v)] }
    | 1 => { CRes.none with regs := [(kP d, v % 16777216)] }
    | 2 => { CRes.none with regs := [(kM d, v % 16777216)] }
    | _ => CRes.none
  | 0x0C =>
    let r := tilePostModify t (fC w) (fC2 w) (bits w 16 2)
    { CRes.none with regs := [(kP (fC w), r.1)], causes := if r.2 = 0 then [] else [r.2] }
  | 0x0D => { CRes.none with regs := [(kS (fC w), ofS 32 (toS 16 (bits w 0 16)))] }
  | 0x0E => { CRes.none with regs := [(kS (fC w), sreg (fC w) % 65536 + 65536 * bits w 0 16)] }
  | 0x0F => { CRes.none with regs := [(kS (fC w), lo32 (sreg (fC2 w) + sreg (bits w 14 4)))] }
  | 0x10 => { CRes.none with regs := [(kS (fC w), ofS 32 ((sreg (fC2 w) : Int) - sreg (bits w 14 4)))] }
  | 0x11 => { CRes.none with regs := [(kS (fC w), ofS 32 ((sreg (fC2 w) : Int) + toS 12 (bits w 0 12)))] }
  | 0x12 => { CRes.none with regs := [(kG (bits w 23 3), bits w 0 8 + 256 * bits w 16 1)] }
  | _ => CRes.none

/-- Registers written at once. -/
def setRegs (l : List (Nat × Nat)) (t : Tile) : Tile := { t with regs := l.foldl (fun r p => r.set p.1 p.2 0) t.regs }

/-- A base register written with its move of the bound pointers (R59); the pointers as the bundle leaves them. -/
def applyBase (o : Option (Nat × Nat)) (t : Tile) : Tile :=
  match o with
  | none => t
  | some (b, v) =>
    let old := tReg t (kB b)
    setRegs ((kB b, v) :: (boundTo t b).map (fun p => (kP p, moveBase old v (tReg t (kP p))))) t

/-- A length register written with its renormalisation of the bound pointers (R58). -/
def applyLen (o : Option (Nat × Nat)) (t : Tile) : Tile :=
  match o with
  | none => t
  | some (l, v) =>
    setRegs ((kL l, v) :: (boundTo t l).map (fun p => (kP p, renorm (tReg t (kB l)) v (tReg t (kP p))))) t

/-- The end tests of R90 and R91 at bundle pc, innermost repeat first: the remaining repeats, the next bundle, the idle
cycles, and the Z counters written. -/
def endTests (t : Tile) (pc : Nat) : List Rep → AMap Nat → Nat → List Rep × Nat × Nat × AMap Nat
  | [], z, idle => ([], pc + 1, idle, z)
  | r :: rs, z, idle =>
    if r.last = pc then
      let v := z.get (kZ r.z) 0
      if 1 < v then (r :: rs, r.first, idle, z.set (kZ r.z) (v - 1) 0)
      else endTests t pc rs (z.set (kZ r.z) 0 0) (idle + r.idle)
    else (r :: rs, pc + 1, idle, z)

/-! ## Issue -/

/-- The physical IMEM half that is active (R69). -/
def activeImem (s : State) (n : Nat) (t : Tile) : AMap Nat := if flag s (TILE_STAT_ACT_HALF n) then t.imem1 else t.imem0

/-- A corrected or uncorrectable word noted in a tile's error registers (R54, R69). -/
def tileEccNote (n addr mem : Nat) (uncorr : Bool) (s : State) : State :=
  let s1 := putFs [(TILE_ECC_ADDR_ADDR n, addr), (TILE_ECC_ADDR_MEM n, mem), (TILE_ECC_ADDR_UNCORR n, b2n uncorr)] s
  if uncorr then s1 else bump (TILE_ECC_CORR_CNT n) 1 s1

/-- The four slot words of a bundle as fetched: an uncorrectable word acts as a NOP of a bundle that faults (R54). -/
def fetchWords (n : Nat) (m : AMap Nat) (pc : Nat) : List Nat → State → List Nat × Bool × State
  | [], s => ([], false, s)
  | i :: is, s =>
    let a := 4 * pc + i
    let r := match eccDecode (m.get a 0) with
      | .ok v => (v, false, s)
      | .corrected v _ => (v, false, tileEccNote n a 1 false s)
      | .bad _ => (0, true, tileEccNote n a 1 true s)
    let t := fetchWords n m pc is r.2.2
    (r.1 :: t.1, r.2.1 || t.2.1, t.2.2)

/-- BEXP RUN results are not forwarded over a C-slot write of the same S register in the same bundle (R77). -/
def noFwd (keys : List Nat) (p : PendWrite) : PendWrite :=
  if p.cls = 2 ∧ keys.contains p.key then { p with fwd := p.due, cls := 0 } else p

/-- One bundle carried out in a tile whose earlier results are committed: the tile after it, the saturation counts, REP_CLAMP
and the fault causes found at issue. -/
def runBundle (s : State) (n : Nat) (t : Tile) (ws : List Nat) : Tile × Nat × Nat × Bool × List Nat :=
  let now := t.cyc
  let v := vSlot t now (ws.getD 0 0)
  let l := lSlot s n t now (ws.getD 1 0)
  let st := sSlot t now (ws.getD 2 0)
  let c := cSlot t (ws.getD 3 0)
  let t1 := applyLen c.len (applyBase c.base (setRegs (l.ptr ++ c.regs ++ st.ptr) t))
  let skipPc := match c.skip with | some (e, _) => e | none => t.pc
  let skipIdle := match c.skip with | some (_, i) => i | none => 0
  let ends := endTests t1 skipPc t1.reps t1.regs skipIdle
  let t2 := match c.rep with
    | some r => { t1 with reps := r :: t1.reps, pc := t.pc + 1, cyc := now + 1 }
    | none => { t1 with reps := ends.1, pc := ends.2.1, cyc := now + 1 + ends.2.2.1, regs := ends.2.2.2 }
  let t3 := if c.endc then { t1 with ended := true, reps := [], pc := t.pc, cyc := now + 1 } else t2
  let t4 := { t3 with
    pend := t3.pend ++ v.pend.map (noFwd (c.regs.map Prod.fst))
    accs := t3.accs ++ l.accs ++ st.accs
    lands := t3.lands ++ l.lands }
  let past := if !c.endc && 4095 < t4.pc then [2] else []
  (t4, v.sat + st.sat, v.acc, c.clamp, c.causes ++ past)

/-- Fault causes of one bundle raised, lowest first. -/
def raiseCauses (n pc cyc : Nat) (cs : List Nat) (s : State) : State :=
  [1, 2, 3, 4, 5, 6, 7, 8].foldl (fun s c => if cs.contains c then tileFault n c pc cyc s else s) s

/-- The issue of one bundle by a running tile (R45, R48). -/
def issueBundle (n : Nat) : State → State := faultCycle n (fun s =>
  let t0 := tileOf s n
  if courseLen s ≤ t0.cyc then tileFault n 1 t0.pc t0.cyc { s with fab := { s.fab with cycle := t0.cyc } }
  else
    let t := commitPend t0.cyc t0
    let f := fetchWords n (activeImem s n t) t.pc [0, 1, 2, 3] s
    let r := runBundle s n t f.1
    let s1 := updTile n (fun _ => r.1) f.2.2
    let s2 := bump (TILE_SATCNT_ACC_SAT n) r.2.2.1 (bump (TILE_SATCNT_STORE_SAT n) r.2.1 s1)
    let s3 := setIf (TILE_STAT_REP_CLAMP n) r.2.2.2.1 s2
    let cs := r.2.2.2.2 ++ (if f.2.1 then [7] else [])
    raiseCauses n t.pc t0.cyc cs { s3 with fab := { s3.fab with cycle := t0.cyc } })

end Sys2Proof.Machine
end

