-- ==== Sys2Proof/Machine/TileAcc.lean ====
section
/-! DEFINITION. The bank accesses that issued operations make at their later cycles, the DMEM bank ranking, Ashlar
landings, and the tile commands TILE_BUNDLE_ISSUE, TILE_BANK_ACCESS, ASHLAR_LANDING, TILE_ARM and TILE_STOP. -/

namespace Sys2Proof.Machine

/-- The DMEM bank of a word address (R52). -/
def dmemBank (a : Nat) : Nat := a / 8 % 8

/-- Whether a live region of the tile covers a DMEM word (R73). (DESIGN CHOICE log 22) -/
def dmemSignal (t : Tile) (a : Nat) : Bool := t.rgn.any (fun r => r.1 ≤ a && a ≤ r.2)

/-- A DMEM word stored with its check bits. -/
def putDmem (a v : Nat) (t : Tile) : Tile := { t with dmem := t.dmem.set (a % 65536) (eccEncode v) 0 }

/-- The enabled words of a DMEM line stored. -/
def putDmemLine (a mask : Nat) (vals : List Nat) (t : Tile) : Tile :=
  lanes.foldl (fun t i => if bitOf mask i then putDmem (a / 8 * 8 + i) (vals.getD i 0) t else t) t

/-- One DMEM word read by a tile (R54): its value and whether it is fatal. An uncorrectable word outside a signal region
delivers a free value: the spec gives none. (DESIGN CHOICE log 22) -/
def readDmem (n a : Nat) (s : State) : Nat × Bool × State :=
  let t := tileOf s n
  match eccDecode (t.dmem.get a 0) with
  | .ok v => (v, false, s)
  | .corrected v _ => (v, false, tileEccNote n a 0 false s)
  | .bad _ =>
    if dmemSignal t a then (0, false, bump (TILE_ECC_UNCORR_CNT n) 1 (tileEccNote n a 0 true s))
    else
      let f := takeFree (tileEccNote n a 0 true s)
      ((Config.freeWord f.1).toNat, true, f.2)

/-- The enabled words of a DMEM line read by a tile. -/
def readDmemLine (n line mask : Nat) : List Nat → State → List Nat × Bool × State
  | [], s => ([], false, s)
  | i :: is, s =>
    let r := if bitOf mask i then readDmem n (line + i) s else (0, false, s)
    let t := readDmemLine n line mask is r.2.2
    (r.1 :: t.1, r.2.1 || t.2.1, t.2.2)

/-- A pending result of the L slot: usable 3 bundles after issue (R62). -/
def lres (issue key v : Nat) : PendWrite := ⟨key, v, issue + 3, issue + 3, 0, issue, 0⟩

/-- Pending results added in issue order; the L slot ranks below the V slot of its bundle (R77). -/
def addPend (l : List PendWrite) (t : Tile) : Tile :=
  l.foldl (fun t p =>
    let before := t.pend.filter (fun q => q.issue < p.issue || (q.issue == p.issue && q.rank ≤ p.rank))
    let after := t.pend.filter (fun q => !(q.issue < p.issue || (q.issue == p.issue && q.rank ≤ p.rank)))
    { t with pend := before ++ [p] ++ after }) t

/-- The masked lanes of a V register as results of the L slot. -/
def laneRes (issue vd mask : Nat) (vals : List Nat) : List PendWrite :=
  (lanes.filter (bitOf mask)).map (fun i => lres issue (kV vd i) (vals.getD i 0))

/-- The DMEM bank that an access uses at its cycle, if it uses one, and its rank in R53. -/
def accBank (k : AccKind) : Option (Nat × Nat) :=
  match k with
  | .ldv _ _ a => some (dmemBank a, 2)
  | .lds _ a => some (dmemBank a, 2)
  | .ldb _ _ a => some (dmemBank a, 2)
  | .stv _ a _ => some (dmemBank a, 3)
  | .sts a _ => some (dmemBank a, 3)
  | .awrRead pd _ _ => some (dmemBank pd, 4)
  | _ => none

/-- One access made at its cycle, `served` telling whether its DMEM bank serves it (R53). -/
def makeAcc (n : Nat) (served : Bool) (a : TileAcc) (s : State) : State :=
  let fatal := fun (b : Bool) (s : State) => if b then tileFault n 7 a.pc a.issue s else s
  match a.kind with
  | .ldv vd mask ad =>
    if served then
      let r := readDmemLine n (ad / 8 * 8) mask lanes s
      fatal r.2.1 (updTile n (addPend (laneRes a.issue vd mask r.1)) r.2.2)
    else updTile n (addPend (laneRes a.issue vd mask (List.replicate 8 0))) s
  | .lds sd ad =>
    if served then
      let r := readDmem n ad s
      fatal r.2.1 (updTile n (addPend [lres a.issue (kS sd) r.1]) r.2.2)
    else updTile n (addPend [lres a.issue (kS sd) 0]) s
  | .ldb vd mask ad =>
    if served then
      if mask = 0 then s
      else
        let r := readDmem n ad s
        fatal r.2.1 (updTile n (addPend (laneRes a.issue vd mask (List.replicate 8 r.1))) r.2.2)
    else updTile n (addPend (laneRes a.issue vd mask (List.replicate 8 0))) s
  | .srd vd mask line =>
    let ch := chained s.fab.cal line
    let code := if ch then wCode s line a.cycle else rCode s line a.cycle
    if code = n then
      let r := if ch then readChained n line a.cycle s else (readLine s line, s)
      updTile n (addPend (laneRes a.issue vd mask r.1)) r.2
    else tileFault n 8 a.pc a.issue (updTile n (addPend (laneRes a.issue vd mask (List.replicate 8 0))) s)
  | .ard pd mask w =>
    let land := fun vals (s : State) =>
      updTile n (fun t => { t with lands := t.lands ++ [⟨a.issue + 7, a.issue, a.pc, pd, mask, vals⟩] }) s
    match judgeBank s n w a.cycle with
    | .granted =>
      let r := ashReadLine n (lineOf w) mask lanes s
      fatal r.2.1 (land r.1 r.2.2)
    | .notGranted => tileFault n 8 a.pc a.issue (land (List.replicate 8 0) s)
    | .notOn => guardFault 0x11 n a.cycle (land (List.replicate 8 0) s)
  | .stv mask ad vals => if served then updTile n (putDmemLine ad mask vals) s else s
  | .sts ad v => if served then updTile n (putDmem ad v) s else s
  | .swr mask line vals =>
    if wCode s line a.cycle = n then writeLine n line mask vals a.cycle s
    else tileFault n 8 a.pc a.issue s
  | .awrRead pd mask w =>
    let send := fun vals (s : State) =>
      updTile n (fun t => { t with accs := t.accs ++ [⟨a.issue + 2, a.issue, a.pc, .awrWrite mask w vals⟩] }) s
    if served then
      let r := readDmemLine n (pd / 8 * 8) mask lanes s
      fatal r.2.1 (send r.1 r.2.2)
    else send (List.replicate 8 0) s
  | .awrWrite mask w vals =>
    match judgeBank s n w a.cycle with
    | .granted => ashWriteLine (lineOf w) mask vals lanes s
    | .notGranted => tileFault n 8 a.pc a.issue s
    | .notOn => guardFault 0x11 n a.cycle s
  | .mark cause => tileFault n cause a.pc a.issue s

/-- Accesses of one cycle in DMEM rank order: loads, stores, outbound reads, then those with no DMEM bank. -/
def byRank (l : List TileAcc) : List TileAcc :=
  let rk := fun (a : TileAcc) => match accBank a.kind with | some (_, r) => r | none => 5
  [2, 3, 4, 5].flatMap (fun k => l.filter (fun a => rk a == k))

/-- Accesses of one cycle made in order, `busy` listing the DMEM banks already used; the first access a bank does not
serve is the faulting one (R53, R67). -/
def makeAccs (n : Nat) : List TileAcc → List Nat → Bool → State → State
  | [], _, _, s => s
  | a :: as, busy, blamed, s =>
    match accBank a.kind with
    | none => makeAccs n as busy blamed (makeAcc n true a s)
    | some (b, _) =>
      if busy.contains b then
        let s1 := makeAcc n false a s
        makeAccs n as busy true (if blamed then s1 else tileFault n 3 a.pc a.issue s1)
      else makeAccs n as (b :: busy) blamed (makeAcc n true a s)

/-- Everything of a tile that falls at one course cycle: landings first, then the accesses. (DEDUCED log 111) -/
def tileCycle (n c : Nat) : State → State := faultCycle n (fun s =>
  let t := tileOf s n
  let ls := t.lands.filter (fun l => l.cycle == c)
  let as := t.accs.filter (fun a => a.cycle == c)
  let t1 := ls.foldl (fun t l => putDmemLine l.pd l.mask l.vals t)
    { t with lands := t.lands.filter (fun l => l.cycle != c), accs := t.accs.filter (fun a => a.cycle != c) }
  let s1 := updTile n (fun _ => t1) { s with fab := { s.fab with cycle := c } }
  makeAccs n (byRank as) (ls.map (fun l => dmemBank l.pd)) false s1)

/-- The smallest of a list of cycles. -/
def minCycle : List Nat → Option Nat
  | [] => none
  | c :: cs => match minCycle cs with | none => some c | some d => some (min c d)

/-- The earliest cycle at which a tile has something waiting. -/
def nextCycle (t : Tile) : Option Nat := minCycle (t.accs.map TileAcc.cycle ++ t.lands.map Landing.cycle)

/-- Everything waiting at cycles up to a limit, in cycle order; at most `fuel` cycles. (DESIGN CHOICE log 112) -/
def drainTo (n limit : Nat) : Nat → State → State
  | 0, s => s
  | k + 1, s =>
    match nextCycle (tileOf s n) with
    | some c => if c ≤ limit then drainTo n limit k (tileCycle n c s) else s
    | none => s

/-- More cycles than a tile can have waiting: every access of the last seven bundles and what they start. -/
def drainFuel : Nat := 64

/-- The latest cycle whose accesses may be made: those before the next issue of a tile that issues on, all of the course
otherwise (R48: what would fall into the next course is not made). -/
def openLimit (s : State) (n : Nat) : Nat :=
  let t := tileOf s n
  if getF s (TILE_STAT_STATE n) = 2 && !t.ended then min (t.cyc - 1) (courseLen s - 1) else courseLen s - 1

/-- TILE_BUNDLE_ISSUE (R45): a running tile that has not ended its course makes the accesses that fall before the next
issue, and, unless one of them faulted it, issues its next bundle. -/
def execTileBundleIssue (tile : Nat) (s : State) : Host.Outcome State Fault Refusal :=
  if running s && tile < nTiles s && getF s (TILE_STAT_STATE tile) == 2 && !(tileOf s tile).ended then
    let t := tileOf s tile
    let s1 := if t.cyc = 0 then s else drainTo tile (t.cyc - 1) drainFuel s
    if getF s1 (TILE_STAT_STATE tile) = 2 then .next (issueBundle tile s1) else .next s1
  else .next s

/-- TILE_BANK_ACCESS (R62): the accesses of the earliest waiting access cycle of a tile are made, with everything of the
tile that falls before them. -/
def execTileBankAccess (tile : Nat) (s : State) : Host.Outcome State Fault Refusal :=
  match minCycle ((tileOf s tile).accs.map TileAcc.cycle) with
  | some c => if running s && c ≤ openLimit s tile then .next (drainTo tile c drainFuel s) else .next s
  | none => .next s

/-- ASHLAR_LANDING (R62): the earliest inbound Ashlar transfer of a tile lands in DMEM at t + 7, with everything of the
tile that falls at or before its cycle. -/
def execAshlarLanding (tile : Nat) (s : State) : Host.Outcome State Fault Refusal :=
  match minCycle ((tileOf s tile).lands.map Landing.cycle) with
  | some c => if running s && c ≤ openLimit s tile then .next (drainTo tile c drainFuel s) else .next s
  | none => .next s

/-! ## ARM and STOP (R66) -/

/-- The fault record of a tile cleared. (DESIGN CHOICE log 112) -/
def clearFault (n : Nat) (s : State) : State :=
  putFs [(TILE_FAULT_CAUSE n, 0), (TILE_FAULT_PC n, 0), (TILE_FAULT_CYCLE n, 0)] s

/-- CMD = ARM: STOPPED to ARMED, the fault record cleared. -/
def tileArm (n : Nat) (s : State) : State :=
  if n < nTiles s && getF s (TILE_STAT_STATE n) == 0 then clearFault n (putF (TILE_STAT_STATE n) 1 s) else s

/-- CMD = STOP: at once when ARMED or FAULTED, at the next boundary when RUNNING; a FAULTED tile whose STOP was written
while it ran keeps waiting for the boundary. -/
def tileStop (n : Nat) (s : State) : State :=
  watchLife (fun s =>
    if n < nTiles s then
      match getF s (TILE_STAT_STATE n) with
      | 1 => putF (TILE_STAT_STATE n) 0 s
      | 2 => updTile n (fun t => { t with stopReq := true }) s
      | 3 => updTile n (fun t => { commitAll t with stopReq := false }) (clearFault n (putF (TILE_STAT_STATE n) 0 s))
      | _ => s
    else s) s

/-- TILE_ARM (R66). -/
def execTileArm (tile : Nat) (s : State) : Host.Outcome State Fault Refusal := .next (tileArm tile s)

/-- TILE_STOP (R66). -/
def execTileStop (tile : Nat) (s : State) : Host.Outcome State Fault Refusal := .next (tileStop tile s)

/-! ## At the course boundary -/

/-- The end of a tile's course: what falls inside it is made; what would fall into the next is dropped and faults with
OVERRUN (R48); results on their way carry over. (DESIGN CHOICE log 112) -/
def tileCourseEnd (n : Nat) (s : State) : State :=
  let len := courseLen s
  let s1 := drainTo n (len - 1) drainFuel s
  let t := tileOf s1 n
  let late := t.accs.map (fun a => (a.cycle, a.pc, a.issue)) ++ t.lands.map (fun l => (l.cycle, l.pc, l.issue))
  let s2 := putB (TILE_STAT_ENDED n) t.ended
    (updTile n (fun t => { t with
      accs := [], lands := []
      pend := t.pend.map (fun p => { p with due := p.due - len, fwd := p.fwd - len, issue := 0 }) }) s1)
  match minCycle (late.map Prod.fst) with
  | none => s2
  | some c => match late.find? (fun l => l.1 == c) with
    | some l => faultCycle n (tileFault n 1 l.2.1 l.2.2) s2
    | none => s2

/-- The start of a tile's course: program position and repeat state cleared (R46). -/
def tileRestart (n : Nat) (s : State) : State :=
  updTile n (fun t => { t with pc := 0, cyc := 0, ended := false, reps := [] }) s

/-- The state changes of R66 that wait for a boundary: a STOP takes effect. -/
def tileBoundaryStop (n : Nat) (s : State) : State :=
  watchLife (fun s =>
    if (tileOf s n).stopReq then
      updTile n (fun t => { commitAll t with stopReq := false }) (putF (TILE_STAT_PC n) (tileOf s n).pc (putF (TILE_STAT_STATE n) 0 s))
    else s) s

end Sys2Proof.Machine
end

