-- ==== Sys2Proof/Machine/TileWin.lean ====
section
/-! DEFINITION. The tile windows: the register view, DMEM and the IMEM halves as Voussoir and the image's initial data
reach them (R69, R70). -/

namespace Sys2Proof.Machine

/-- A register-view offset as a register's key, its width and the part of it that the word holds: bits from a position; none
where the table lists nothing (R70). -/
def viewSlot (off : Nat) : Option (Nat × Nat × Nat) :=
  if off < 0x400 then some (off, 0, 32)
  else if off < 0x800 then
    match off % 16 / 4 with
    | 0 => some (off, 0, 32)
    | 1 => some (off - 4, 32, 32)
    | 2 => some (off - 8, 64, 8)
    | _ => none
  else if off < 0x840 then some (off, 0, 32)
  else if off < 0x8C0 then some (off, 0, 24)
  else if off < 0x940 then some (off, 0, 24)
  else if off < 0x950 then some (off, 0, 16)
  else if off < 0x970 then some (off, 0, 9)
  else if off < 0x9B0 then some (off, 0, 4)
  else none

/-- A word of the register view. -/
def viewRead (t : Tile) (off : Nat) : Nat :=
  if off = 0x9B0 then t.pc % 4096
  else match viewSlot off with
    | none => 0
    | some (k, lo, w) =>
      let v := bits (tReg t k) lo w
      if (0x400 ≤ off ∧ off < 0x800 ∧ w = 8) ∨ (0x880 ≤ off ∧ off < 0x8C0) then ofS 32 (toS w v) else v

/-- A word of the register view written; bits outside the stated ones are ignored. -/
def viewWrite (off v : Nat) (t : Tile) : Tile :=
  match viewSlot off with
  | none => t
  | some (k, lo, w) =>
    let old := tReg t k
    let v' := if k < 0x800 ∧ 0x400 ≤ k then old - bits old lo w * 2 ^ lo + v % 2 ^ w * 2 ^ lo
      else if 0x950 ≤ k ∧ k < 0x970 then v % 512 else v % 2 ^ w
    { t with regs := t.regs.set k v' 0 }

/-- A DMEM word written with its check bits. -/
def dmemWrite (w v : Nat) (t : Tile) : Tile := { t with dmem := t.dmem.set (w % 65536) (eccEncode v) 0 }

/-- The physical half that holds the shadow IMEM, changed (R69). -/
def onShadow (act : Bool) (f : AMap Nat → AMap Nat) (t : Tile) : Tile :=
  if act then { t with imem0 := f t.imem0 } else { t with imem1 := f t.imem1 }

/-- The active half changed. -/
def onActive (act : Bool) (f : AMap Nat → AMap Nat) (t : Tile) : Tile := onShadow (!act) f t

/-- The memory words of a program with check bits. (DESIGN CHOICE log 121) -/
def progMem (ws : List Nat) : AMap Nat :=
  ((List.range ws.length).zip ws).filterMap (fun p => if eccEncode p.2 = 0 then none else some (p.1, eccEncode p.2))

/-- An initial-data record applied (06, 0x03): DMEM words, register-view words, or Ashlar words. (DESIGN CHOICE log 121) -/
def applyInit (x : InitRec) (s : State) : State :=
  (List.range x.count).foldl (fun s k =>
    let v := if x.fill then x.words.getD 0 0 else x.words.getD k 0
    match x.kind with
    | 1 => updTile x.tile (dmemWrite (x.addr + k) v) s
    | 2 => updTile x.tile (viewWrite (x.addr % 524288 + 4 * k) v) s
    | _ => putAsh (x.addr + k) v s) s

/-! ## The windows on Voussoir (R69) -/

/-- What a window access gives: a word, or an error response of the target. -/
inductive WinAns where
  | word (v : Nat)
  | error
  deriving DecidableEq, Repr

/-- A stored codeword read through the window (R69): corrected and counted, or an error response with UNCORR. -/
def winEcc (n addr mem code : Nat) (s : State) : WinAns × State :=
  match eccDecode code with
  | .ok v => (.word v, s)
  | .corrected v _ => (.word v, tileEccNote n addr mem false s)
  | .bad _ => (.error, tileEccNote n addr mem true s)

/-- Whether a tile is STOPPED or ARMED. -/
def tileIdle (s : State) (n : Nat) : Bool := getF s (TILE_STAT_STATE n) < 2

/-- A read of a tile window. -/
def tileWinRead (n off : Nat) (s : State) : WinAns × State :=
  let t := tileOf s n
  let act := flag s (TILE_STAT_ACT_HALF n)
  if off < 0x10000 then
    if tileIdle s n then winEcc n (off / 4) 1 ((if act then t.imem1 else t.imem0).get (off / 4) 0) s else (.error, s)
  else if off < 0x20000 then winEcc n (off % 65536 / 4) 1 ((if act then t.imem0 else t.imem1).get (off % 65536 / 4) 0) s
  else if off < 0x40000 then (.error, s)
  else if off < 0x80000 then
    if tileIdle s n then winEcc n (off % 262144 / 4) 0 (t.dmem.get (off % 262144 / 4) 0) s else (.error, s)
  else if off < 0x81000 then
    if tileIdle s n then (.word (viewRead t (off % 4096 / 4 * 4)), s) else (.error, s)
  else (.error, s)

/-- A write of a tile window. -/
def tileWinWrite (n off v : Nat) (s : State) : WinAns × State :=
  let act := flag s (TILE_STAT_ACT_HALF n)
  if off < 0x10000 then
    if tileIdle s n then (.word 0, updTile n (onActive act (fun m => m.set (off / 4) (eccEncode v) 0)) s) else (.error, s)
  else if off < 0x20000 then
    if flag s (TILE_STAT_SHADOW_LOCK n) then (.error, putF (TILE_STAT_SHADOW_LOCK_ERR n) 1 s)
    else (.word 0, updTile n (onShadow act (fun m => m.set (off % 65536 / 4) (eccEncode v) 0)) s)
  else if off < 0x40000 then (.error, s)
  else if off < 0x80000 then
    if tileIdle s n then (.word 0, updTile n (dmemWrite (off % 262144 / 4) v) s) else (.error, s)
  else if off < 0x81000 then
    if tileIdle s n then (.word 0, updTile n (viewWrite (off % 4096 / 4 * 4) v) s) else (.error, s)
  else (.error, s)

end Sys2Proof.Machine
end

