-- ==== Sys2Proof/Machine/ImgParse.lean ====
section
/-! DEFINITION. The image file (R117 to R122): header, directory and sections, read from its bytes, with the integrity and
format rules of R125 that a piece is checked by on its own. -/

namespace Sys2Proof.Machine

/-- A refusal of an image: status, check code of R372, byte offset. -/
structure VErr where
  status : Nat
  check : Nat
  offset : Nat
  deriving DecidableEq, Repr

/-- A check of the verifier. -/
def vneed (b : Bool) (st chk off : Nat) : Except VErr Unit := if b then .ok () else .error ⟨st, chk, off⟩

/-- A check for every element of a list. -/
def vall {α : Type} (f : α → Except VErr Unit) : List α → Except VErr Unit
  | [] => .ok ()
  | x :: xs => do f x; vall f xs

/-- A Format failure (check 2). -/
def fmt (b : Bool) (off : Nat) : Except VErr Unit := vneed b eContract 2 off

/-! ## Bytes -/

/-- A byte of an image. -/
def ib (m : AMap Nat) (o : Nat) : Nat := m.get o 0
/-- A 16-bit field. -/
def ih (m : AMap Nat) (o : Nat) : Nat := ib m o + 256 * ib m (o + 1)
/-- A 32-bit field. -/
def iw (m : AMap Nat) (o : Nat) : Nat := ih m o + 65536 * ih m (o + 2)
/-- Words at rising offsets. -/
def iws (m : AMap Nat) (o n : Nat) : List Nat := (List.range n).map (fun k => iw m (o + 4 * k))
/-- Bytes of a range. -/
def ibs (m : AMap Nat) (o n : Nat) : List Nat := (List.range n).map (fun k => ib m (o + k))

/-- A value word and its complement (R118). -/
def ipair (m : AMap Nat) (o : Nat) : Bool := iw m (o + 4) == not32 (iw m o)

/-! ## Header and directory -/

/-- A directory entry (R119) with the offset at which it stands. -/
structure DirEnt where
  typ : Nat
  crit : Bool
  res : Nat
  off : Nat
  len : Nat
  scrc : Nat
  pos : Nat
  deriving DecidableEq, Repr

/-- SECTIONS: the number of directory entries. -/
def hdrCount (m : AMap Nat) : Nat := iw m 0x18 % 256
/-- SIGNED. -/
def hdrSigned (m : AMap Nat) : Bool := bitOf (iw m 0x18) 8
/-- The end of the directory. -/
def dirEnd (m : AMap Nat) : Nat := 0x40 + 16 * hdrCount m

/-- The directory. -/
def directory (m : AMap Nat) : List DirEnt :=
  (List.range (hdrCount m)).map (fun k =>
    let o := 0x40 + 16 * k
    ⟨iw m o % 256, bitOf (iw m o) 8, iw m o / 512, iw m (o + 4), iw m (o + 8), iw m (o + 12), o⟩)

/-- A type that format version 1 defines (R120). -/
def knownType (t : Nat) : Bool := (1 ≤ t && t ≤ 15) || t == 0x7E || t == 0x7F

/-- The sections that are present. -/
def sections (m : AMap Nat) : List DirEnt := (directory m).filter (fun e => e.len != 0)

/-- A section by type. -/
def sect (m : AMap Nat) (t : Nat) : Option DirEnt := (sections m).find? (fun e => e.typ == t)

/-- The mandatory sections. -/
def mandatory : List Nat := [0x01, 0x02, 0x04, 0x05, 0x06, 0x0E, 0x0F, 0x7E]

/-- Steps 1 and 2 of R124: pairs, MAGIC, HDR_CRC, version and count, and the agreement with IMG.BEGIN (R130).
(DESIGN CHOICE log 120) -/
def checkHeader (m : AMap Nat) (len id : Nat) : Except VErr Unit := do
  vall (fun o => vneed (ipair m o) ePairword 1 o) [0x00, 0x08, 0x10, 0x18, 0x20, 0x28, 0x30, 0x38]
  vneed (iw m 0 == 0x50415631) eCrc 1 0
  vneed (iw m 0x38 == crc32c (ibs m 0 0x38)) eCrc 1 0x38
  vneed (iw m 8 / 256 % 256 == 1) eVersion 2 8
  fmt (iw m 8 / 65536 == 64) 8
  fmt (1 ≤ hdrCount m && hdrCount m ≤ 32 && iw m 0x18 < 512) 0x18
  fmt (iw m 0x10 ≤ 0x03000000 && iw m 0x10 == len) 0x10
  fmt (iw m 0x20 == id) 0x20

/-- Step 3 of R124: DIR_CRC and the directory. -/
def checkDir (m : AMap Nat) (len : Nat) : Except VErr Unit := do
  vneed (iw m 0x30 == crc32c (ibs m 0x40 (16 * hdrCount m))) eCrc 1 0x30
  let d := directory m
  let ps := sections m
  vall (fun e => do
    fmt (e.res == 0) e.pos
    (if knownType e.typ then fmt e.crit e.pos else vneed (!e.crit) eVersion 2 e.pos)) d
  vall (fun p => fmt (p.1.typ < p.2.typ) p.2.pos) (d.zip (d.drop 1))
  vall (fun e => fmt (e.off % 32 == 0 && e.len % 4 == 0 && dirEnd m ≤ e.off && e.off + e.len ≤ len) e.pos) ps
  vall (fun p => fmt (p.1.off + p.1.len ≤ p.2.off) p.2.pos) (ps.zip (ps.drop 1))
  vall (fun t => fmt (sect m t).isSome 0x40) mandatory
  fmt ((sect m 0x7F).isSome == hdrSigned m) 0x18
  vall (fun e => fmt ((e.typ != 0x7E && e.typ != 0x7F) || e.scrc == 0) e.pos) ps
  vall (fun e =>
    fmt ((e.typ != 0x01 || e.len == 32) && (e.typ != 0x0F || e.len == 32) && (e.typ != 0x7E || e.len == 36)
      && (e.typ != 0x7F || e.len == 72)) e.pos) ps

/-! ## Sections -/

/-- The count of a section that begins with a count word, with its length checked against records of a size. -/
def countOf (m : AMap Nat) (e : DirEnt) (size : Nat) : Except VErr Nat := do
  let w := iw m e.off
  fmt (w < 65536) e.off
  fmt (e.len == 4 + w * size) e.off
  return w

/-- The offsets of the records of a section. -/
def recs (e : DirEnt) (n size : Nat) : List Nat := (List.range n).map (fun k => e.off + 4 + k * size)

/-- Whether no element stands twice. -/
def distinct (l : List Nat) : Bool := l.eraseDups.length == l.length

/-- Tile programs (0x02): from an offset on, at most `fuel` records: tile and words. -/
def parseProgs (m : AMap Nat) (lim : Nat) : Nat → Nat → Except VErr (AMap (List Nat))
  | 0, o => do fmt (o == lim) o; return []
  | k + 1, o =>
    if o = lim then .ok []
    else do
      fmt (o + 16 ≤ lim) o
      let n := iw m (o + 4)
      fmt (iw m o < 32 && 1 ≤ n && n ≤ 4096 && iw m (o + 8) == 0 && iw m (o + 12) == 0) o
      fmt (o + 16 + 16 * n ≤ lim) o
      let t ← parseProgs m lim k (o + 16 + 16 * n)
      fmt (match t with | (j, _) :: _ => iw m o < j | [] => true) o
      return (iw m o, iws m (o + 16) (4 * n)) :: t

/-- Initial-data records (0x03) from an offset on, at most `fuel` of them. -/
def parseInits (m : AMap Nat) (lim tileMask : Nat) : Nat → Nat → Except VErr (List InitRec)
  | 0, o => do fmt (o == lim) o; return []
  | k + 1, o =>
    if o = lim then .ok []
    else do
      fmt (o + 12 ≤ lim) o
      let h := iw m o
      let kind := h % 16
      let fill := bitOf h 4
      let tile := bits h 8 5
      let addr := iw m (o + 4)
      let count := iw m (o + 8)
      let words := if count = 0 then 0 else if fill then 1 else count
      fmt (1 ≤ kind && kind ≤ 3 && bits h 5 3 == 0 && bits h 13 19 == 0 && (kind != 3 || tile == 0)) o
      fmt (o + 12 + 4 * words ≤ lim) o
      fmt (kind == 3 || bitOf tileMask tile) o
      fmt (kind != 1 || addr + count ≤ 65536) o
      fmt (kind != 2 || (0x80000 ≤ addr && addr % 4 == 0 && addr + 4 * count ≤ 0x81000)) o
      fmt (kind != 3 || addr + count ≤ 16777216) o
      let t ← parseInits m lim tileMask k (o + 12 + 4 * words)
      return ⟨kind, tile, addr, fill, count, iws m (o + 12) words⟩ :: t

/-- The bytes of a code table as a keyed list under 64 × index + cycle, leaving out the default code. -/
def codeTable (m : AMap Nat) (idx o dflt : Nat) : AMap Nat :=
  (List.range 64).filterMap (fun c => if ib m (o + c) = dflt then none else some (64 * idx + c, ib m (o + c)))

/-- Keyed lists put together in key order. -/
def joinMaps (l : List (AMap Nat)) : AMap Nat := l.flatten.foldl (fun m p => m.put p.1 p.2) []

/-- Bank calendar (0x04). -/
def parseBanks (m : AMap Nat) (e : DirEnt) : Except VErr (AMap Nat × List Nat) := do
  let n ← countOf m e 68
  let rs := recs e n 68
  vall (fun o => do
    fmt (iw m o < 128) o
    fmt ((List.range 64).all (fun c => let v := ib m (o + 4 + c); v ≤ 0x21 || v == 0xFF)) o) rs
  fmt (distinct (rs.map (iw m))) e.off
  return (joinMaps (rs.map (fun o => codeTable m (iw m o) (o + 4) 0xFF)), rs.map (iw m))

/-- Slot calendar (0x05). -/
def parseSlots (m : AMap Nat) (e : DirEnt) : Except VErr (AMap Nat × AMap Nat) := do
  let n ← countOf m e 132
  let rs := recs e n 132
  vall (fun o => do
    fmt (iw m o < 32) o
    fmt ((List.range 64).all (fun c =>
      let w := ib m (o + 4 + c)
      let r := ib m (o + 68 + c)
      (w ≤ 0x20 || w == 0x22 || w == 0x23 || w == 0x24 || w == 0xFE)
        && (r ≤ 0x21 || r == 0x24 || r == 0x25 || r == 0xFE))) o) rs
  fmt (distinct (rs.map (iw m))) e.off
  return (joinMaps (rs.map (fun o => codeTable m (iw m o) (o + 4) 0xFE)),
    joinMaps (rs.map (fun o => codeTable m (iw m o) (o + 68) 0xFE)))

/-- Slot map (0x06). -/
def parseMap (m : AMap Nat) (e : DirEnt) : Except VErr (AMap Nat) := do
  let n ← countOf m e 4
  let rs := recs e n 4
  vall (fun o => do
    let p := ib m (o + 2)
    fmt (ih m o < 1024) o
    fmt (p ≤ 0x20 || p == 0x22 || p == 0x23 || p == 0x24 || p == 0xFE) o
    fmt (ib m (o + 3) < 8) o) rs
  fmt (distinct (rs.map (ih m))) e.off
  return rs.foldl (fun (acc : AMap Nat) o => acc.set (ih m o) (ib m (o + 2) + 256 * ib m (o + 3)) 0xFE) []

/-- Route initial set (0x07): destination words, entry values. -/
def parseRoute (m : AMap Nat) (e : DirEnt) : Except VErr (List Nat × List Nat) := do
  let d := iw m e.off
  let n := iw m (e.off + 4)
  fmt (8 ≤ e.len && d < 65536) e.off
  let pad := (d + 1) / 2 * 4
  fmt (e.len == 8 + pad + 16 * n) e.off
  fmt (d % 2 == 0 || ih m (e.off + 8 + 2 * d) == 0) e.off
  let os := (List.range n).map (fun k => e.off + 8 + pad + 16 * k)
  let val := fun o => iw m o + 4294967296 * iw m (o + 4)
  vall (fun o => do
    fmt (PairWord.mk (val o) (iw m (o + 8) + 4294967296 * iw m (o + 12))).ok o
    fmt (bits (val o) 56 8 == 0 && xpRamp (val o) < 12 && (!xpValid (val o) || xpDest (val o) < d)) o) os
  return ((List.range d).map (fun k => ih m (e.off + 8 + 2 * k)), os.map val)

/-- Dynamics initial set (0x08). -/
def parseDyn (m : AMap Nat) (e : DirEnt) : Except VErr (List (List Nat)) := do
  let n ← countOf m e 32
  let rs := recs e n 32
  vall (fun o => fmt (dynLegal (iws m o 8)) o) rs
  return rs.map (fun o => iws m o 8)

/-- Parameter page map (0x09). -/
def parsePages (m : AMap Nat) (e : DirEnt) : Except VErr (List (Nat × Nat × Nat)) := do
  let n ← countOf m e 12
  let rs := recs e n 12
  vall (fun o => fmt (iw m o < 256 && iw m (o + 4) % 8 == 0 && iw m (o + 8) % 8 == 0
    && iw m (o + 4) < 16777216 && iw m (o + 8) < 16777216) o) rs
  fmt (distinct (rs.map (iw m))) e.off
  return rs.map (fun o => (iw m o, iw m (o + 4), iw m (o + 8)))

/-- The three-word records of the carried-state, digest and mortar sections. -/
def parseTriples (m : AMap Nat) (e : DirEnt) (ok : Nat → Nat → Nat → Bool) : Except VErr (List MapRec) := do
  let n ← countOf m e 12
  let rs := recs e n 12
  vall (fun o => fmt (ok (iw m o) (iw m (o + 4)) (iw m (o + 8))) o) rs
  return rs.map (fun o => ⟨iw m o, iw m (o + 4), iw m (o + 8)⟩)

/-- Declared regions (0x0D). -/
def parseRegions (m : AMap Nat) (e : DirEnt) : Except VErr (List Region) := do
  let n ← countOf m e 12
  let rs := recs e n 12
  vall (fun o => do
    let k := iw m o % 16
    fmt (1 ≤ k && k ≤ 4 && bits (iw m o) 4 4 == 0 && iw m o < 8192 && (k == 2 || bits (iw m o) 8 5 == 0)) o
    fmt (iw m (o + 8) < (if k = 2 then 65536 else 16777216)) o) rs
  return rs.map (fun o => ⟨iw m o % 16, bits (iw m o) 8 5, iw m (o + 4), iw m (o + 8)⟩)

/-- Latency report (0x0E). -/
def parseLatency (m : AMap Nat) (e : DirEnt) : Except VErr (List LatEntry) := do
  let n ← countOf m e 16
  let rs := recs e n 16
  vall (fun o => fmt (bits (iw m o) 13 3 == 0 && iw m o < 536870912 && iw m (o + 4) < 2147483648 && iw m (o + 12) < 2) o) rs
  return rs.map (fun o => ⟨iw m o % 8192, bits (iw m o) 16 13, iw m (o + 4) % 65536, bits (iw m (o + 4)) 16 15,
    iw m (o + 8) % 256, iw m (o + 8) / 256, bitOf (iw m (o + 12)) 0⟩)

/-- A section's record list, or the empty one where it is absent. -/
def optSect {α : Type} (m : AMap Nat) (t : Nat) (f : DirEnt → Except VErr (List α)) : Except VErr (List α) :=
  match sect m t with
  | some e => f e
  | none => .ok []

/-- A mandatory section; the directory check has found it. -/
def mustSect (m : AMap Nat) (t : Nat) : DirEnt := (sect m t).getD ⟨t, true, 0, 0, 0, 0, 0⟩

/-- The variant descriptor's own form (0x01). -/
def checkVariantForm (m : AMap Nat) : Except VErr Unit := do
  let o := (mustSect m 0x01).off
  vneed (ipair m o && ipair m (o + 8) && ipair m (o + 16)) ePairword 1 o
  fmt (iw m o < 16 && [1, 2, 4].contains (bits (iw m o) 1 3)) o
  fmt (iw m (o + 8) < 134217728) (o + 8)
  fmt (iw m (o + 24) < 16777216) (o + 24)

/-- One section well formed, with its SCRC (R119, R125 Format); types that the format does not define are ignored. -/
def checkSection (m : AMap Nat) (e : DirEnt) : Except VErr Unit := do
  vneed (!knownType e.typ || e.typ == 0x7E || e.typ == 0x7F || e.scrc == crc32c (ibs m e.off e.len)) eCrc 1 e.pos
  match e.typ with
  | 0x01 => checkVariantForm m
  | 0x02 => do let _ ← parseProgs m (e.off + e.len) 33 e.off
  | 0x03 => do let _ ← parseInits m (e.off + e.len) (iw m ((mustSect m 0x01).off + 16)) e.len e.off
  | 0x04 => do let _ ← parseBanks m e
  | 0x05 => do let _ ← parseSlots m e
  | 0x06 => do let _ ← parseMap m e
  | 0x07 => do let _ ← parseRoute m e
  | 0x08 => do let _ ← parseDyn m e
  | 0x09 => do let _ ← parsePages m e
  | 0x0A => do let _ ← parseTriples m e (fun a b _ => a % 8 == 0 && b % 8 == 0 && a + b ≤ 16777216)
  | 0x0B => do let _ ← parseTriples m e (fun a b c => (a == 1 && b + c ≤ 16777216) || (a == 2 && b + c ≤ 1024))
  | 0x0C => do
    let l ← parseTriples m e (fun a _ _ => a < 128)
    fmt (distinct (l.map (fun x => x.a))) e.off
  | 0x0D => do let _ ← parseRegions m e
  | 0x0E => do let _ ← parseLatency m e
  | 0x0F => do
    fmt ((iws m (e.off + 16) 4).all (· == 0)) (e.off + 16)
  | 0x7F => do
    fmt (bits (iw m e.off) 10 22 == 0 && iw m e.off % 256 == 1 && iw m (e.off + 4) == 0) e.off
  | _ => return ()

/-- The image that well-formed bytes state. -/
def parseImg (m : AMap Nat) : Except VErr Img := do
  let v := (mustSect m 0x01).off
  let mask := iw m (v + 16)
  let p := mustSect m 0x02
  let progs ← parseProgs m (p.off + p.len) 33 p.off
  let inits ← optSect m 0x03 (fun e => parseInits m (e.off + e.len) mask e.len e.off)
  let bank ← parseBanks m (mustSect m 0x04)
  let slot ← parseSlots m (mustSect m 0x05)
  let map ← parseMap m (mustSect m 0x06)
  let route ← (match sect m 0x07 with | some e => parseRoute m e | none => .ok ([], []))
  let dyns ← optSect m 0x08 (parseDyn m)
  let pages ← optSect m 0x09 (parsePages m)
  let carried ← optSect m 0x0A (fun e => parseTriples m e (fun _ _ _ => true))
  let digest ← optSect m 0x0B (fun e => parseTriples m e (fun _ _ _ => true))
  let lend ← optSect m 0x0C (fun e => parseTriples m e (fun _ _ _ => true))
  let regions ← optSect m 0x0D (parseRegions m)
  let lat ← parseLatency m (mustSect m 0x0E)
  let w := (mustSect m 0x0F).off
  return {
    id := iw m 0x20, len := iw m 0x10, compat := iw m 0x28
    family := iw m v % 2, rm := bits (iw m v) 1 3, need := iw m (v + 8), tileMask := mask, recordBytes := iw m (v + 24)
    progs := progs, inits := inits
    cal := ⟨bank.1, slot.1, slot.2, map, iw m w, iw m (w + 4), iw m (w + 8), iw m (w + 12)⟩
    destSlots := route.1, routes := route.2, hasRoute := (sect m 0x07).isSome
    dyns := dyns, hasDyn := (sect m 0x08).isSome
    pages := pages
    carried := carried, hasCarried := (sect m 0x0A).isSome
    digest := digest, hasDigest := (sect m 0x0B).isSome
    lend := lend, regions := regions, latency := lat
    sha := ibs m ((mustSect m 0x7E).off + 4) 32 }

end Sys2Proof.Machine
end

