-- ==== Sys2Proof/Machine/Verify.lean ====
section
/-! DEFINITION. The image verifier (R124 to R126): the rules of R125 in the order of its table, each with the check code of
R372, and the dry run of the tile programs that Course fit, DMEM banks and Tile grants are judged by. -/

namespace Sys2Proof.Machine

/-! ## Program words (R74, R75) -/

/-- Whether a slot word uses only the bits of a mask below its opcode. -/
def onlyBits (w m : Nat) : Bool := (w % 67108864 &&& (67108863 - m)) == 0

/-- A V-slot word that R75 allows. -/
def legalV (w : Nat) : Bool :=
  let x := bits w 0 11
  match opOf w with
  | 0x00 => w == 0
  | 0x01 | 0x02 | 0x03 | 0x04 | 0x07 | 0x08 | 0x09 | 0x0A | 0x0B => onlyBits w (mask 25 11)
  | 0x05 | 0x06 => onlyBits w (mask 25 16)
  | 0x0C | 0x0D => onlyBits w (mask 25 16 + mask 4 0)
  | 0x0E => onlyBits w (mask 25 11 + mask 3 0) && bits x 0 3 < 6
  | 0x0F => onlyBits w (mask 25 6)
  | 0x10 => onlyBits w (mask 25 16 + mask 4 0) && (bits x 0 5 ≤ 4 || (8 ≤ bits x 0 5 && bits x 0 5 < 24))
  | 0x11 => onlyBits w (mask 25 21 + mask 19 16)
  | 0x12 => onlyBits w (mask 25 21 + mask 19 16 + mask 2 0)
  | 0x13 => onlyBits w (mask 24 16 + mask 2 0)
  | 0x14 => onlyBits w (mask 25 5)
  | 0x18 => onlyBits w (mask 23 4)
  | 0x19 => onlyBits w (mask 23 3)
  | 0x1A => onlyBits w (mask 25 21 + mask 18 16 + mask 2 0)
  | 0x1B => onlyBits w (mask 23 16)
  | 0x1C => onlyBits w (mask 24 16 + mask 1 0) && bits x 0 2 < 2
  | 0x1D => if bitOf x 10 then onlyBits w (mask 25 16 + 1024 + mask 5 0) else onlyBits w (mask 25 16 + mask 14 11)
  | _ => false

/-- An L-slot word that R75 allows. -/
def legalL (w : Nat) : Bool :=
  match opOf w with
  | 0x00 => w == 0
  | 0x01 | 0x03 => onlyBits w (mask 25 3)
  | 0x02 => onlyBits w (mask 24 11)
  | 0x04 => onlyBits w (mask 25 21 + mask 20 3)
  | 0x05 => onlyBits w (mask 24 3)
  | 0x06 => onlyBits w (mask 24 0)
  | _ => false

/-- An S-slot word that R75 allows. -/
def legalS (w : Nat) : Bool :=
  match opOf w with
  | 0x00 => w == 0
  | 0x01 => onlyBits w (mask 25 3)
  | 0x02 => onlyBits w (mask 24 11)
  | 0x03 => onlyBits w (mask 23 0)
  | 0x04 => onlyBits w (mask 25 3)
  | 0x05 => onlyBits w (mask 24 3)
  | _ => false

/-- A C-slot word that R75 allows. -/
def legalC (w : Nat) : Bool :=
  match opOf w with
  | 0x00 => w == 0
  | 0x01 => onlyBits w 0
  | 0x02 | 0x03 | 0x04 | 0x05 | 0x06 | 0x07 => onlyBits w (mask 25 0)
  | 0x08 | 0x09 | 0x0A => onlyBits w (mask 25 18)
  | 0x0B => onlyBits w (mask 25 12) && bits w 23 3 < 3 && bits w 16 3 < 4 && (bits w 16 3 != 3 || bits w 12 4 < 4)
  | 0x0C => onlyBits w (mask 25 16)
  | 0x0D | 0x0E => onlyBits w (mask 25 22 + mask 15 0)
  | 0x0F | 0x10 => onlyBits w (mask 25 14)
  | 0x11 => onlyBits w (mask 25 18 + mask 11 0)
  | 0x12 => onlyBits w (mask 25 23 + 65536 + mask 7 0)
  | _ => false

/-- The pointer that an L or S word post-modifies. -/
def ptrL (w : Nat) : Option Nat := if [1, 2, 3, 5, 6].contains (opOf w) && fMode w != 0 then some (fP w) else none
/-- The pointer that an S word post-modifies. -/
def ptrS (w : Nat) : Option Nat := if [1, 2, 3, 5].contains (opOf w) && fMode w != 0 then some (fP w) else none
/-- The pointer that a C word writes directly. -/
def ptrC (w : Nat) : Option Nat :=
  match opOf w with
  | 0x04 => some (fC w)
  | 0x0B => if bits w 23 3 = 1 then some (bits w 19 4) else none
  | 0x0C => some (fC w)
  | _ => none

/-- The pointer rule of R60 in a bundle. -/
def ptrOk (ws : List Nat) : Bool :=
  let l := ptrL (ws.getD 1 0)
  let s := ptrS (ws.getD 2 0)
  let c := ptrC (ws.getD 3 0)
  !((l.isSome && l == s) || (l.isSome && l == c) || (s.isSome && s == c))

/-- Bundle b of a program. -/
def bundleAt (p : List Nat) (b : Nat) : List Nat := (p.drop (4 * b)).take 4

/-- The repeats of a program: bundle, Z counter, body length. -/
def repeats (p : List Nat) : List (Nat × Nat × Nat) :=
  (List.range (p.length / 4)).filterMap (fun b =>
    let w := p.getD (4 * b + 3) 0
    if (opOf w = 2 ∨ opOf w = 3) ∧ bits w 16 8 ≠ 0 then some (b, bits w 24 2, bits w 16 8) else none)

/-- R91: bodies inside IMEM, nested, and with a Z counter of their own. -/
def nestOk (p : List Nat) : Bool :=
  let rs := repeats p
  rs.all (fun r => r.1 + r.2.2 ≤ 4095 && rs.all (fun q =>
    !(r.1 < q.1 && q.1 ≤ r.1 + r.2.2) || (q.1 + q.2.2 ≤ r.1 + r.2.2 && q.2.1 != r.2.1)))

/-- Whether a bundle lies in some body. -/
def inBody (p : List Nat) (b : Nat) : Bool := (repeats p).any (fun r => r.1 < b && b ≤ r.1 + r.2.2)

/-- The ENDC bundles of a program. -/
def endcs (p : List Nat) : List Nat := (List.range (p.length / 4)).filter (fun b => opOf (p.getD (4 * b + 3) 0) == 1)

/-! ## The dry run (R126)

A tile's course is carried out by the machine's own rules in a scratch state: the incoming image's calendars and slot
map, its initial data, all-zero slots, every bank On.  The REPS bundles take given counts. -/

/-- A count for each REPS bundle. -/
abbrev Counts := List (Nat × Nat)

/-- Every assignment of counts 0 to the maximum to the REPS bundles of a program. -/
def allCounts : List (Nat × Nat) → List Counts
  | [] => [[]]
  | (b, m) :: t => (List.range (m + 1)).flatMap (fun c => (allCounts t).map (fun l => (b, c) :: l))

/-- The REPS bundles of a program with their maxima. -/
def repsOf (p : List Nat) : List (Nat × Nat) :=
  (List.range (p.length / 4)).filterMap (fun b =>
    let w := p.getD (4 * b + 3) 0
    if opOf w = 3 then some (b, bits w 0 12) else none)

/-- What a dry run finds: the accesses with their cycles, whether two writes of a register became usable together (R77),
the fault, and whether it ended. (DESIGN CHOICE log 38) -/
structure Dry where
  accs : List TileAcc
  clash : Bool
  cause : Nat
  ended : Bool
  deriving DecidableEq, Repr

/-- Two pending writes of one register usable at the same bundle. -/
def clashes : List PendWrite → Bool
  | [] => false
  | p :: ps => ps.any (fun q => q.key == p.key && q.due == p.due) || clashes ps

/-- The scratch state for an image. -/
def scratch (img : Img) (s : State) : State :=
  let s0 : State := { s with
    regs := [], live := [], tiles := [], plane := ⟨[], []⟩
    ash := ⟨[], [], [], [], [], [], [], [], false, [], []⟩
    fab := { s.fab with ci := 1, cal := img.cal, img := some img, guardLog := [], written := List.range 1024, pageB := [] } }
  let s1 := putFs [(FAB_TL_STATUS_RUNNING, 1), (FAB_TL_STATUS_RM, img.rm), (FAB_TL_STATUS_FAMILY, img.family)] s0
  let s2 := img.inits.foldl (fun s x => applyInit x s) s1
  img.progs.foldl (fun s p =>
    let s3 := putF (TILE_STAT_STATE p.1) 2 (updTile p.1 (fun t => { t with imem0 := progMem p.2 }) s)
    (List.range 8).foldl (fun s g =>
      let v := tReg (tileOf s3 p.1) (kG g)
      match img.pages.find? (fun x => x.1 == v % 256) with
      | some (_, a, _) => putFs [(TILE_PGBASE_BASE p.1 g, a), (TILE_PGBASE_VALID p.1 g, v / 256)] s
      | none => s) s3) s2

/-- The scalar register of the REPS bundle that is about to issue set to its count. -/
def forceCount (n : Nat) (p : List Nat) (cs : Counts) (s : State) : State :=
  let b := (tileOf s n).pc
  match cs.find? (fun c => c.1 == b) with
  | some c => updTile n (fun t => { t with regs := t.regs.set (kS (bits (p.getD (4 * b + 3) 0) 12 4)) c.2 0 }) s
  | none => s

/-- The course of a tile: at most `fuel` bundles. (DESIGN CHOICE log 38) -/
def dryRun (n : Nat) (p : List Nat) (cs : Counts) : Nat → State → List TileAcc → Bool → Dry
  | 0, s, accs, clash => ⟨accs, clash, getF s (TILE_FAULT_CAUSE n), false⟩
  | k + 1, s, accs, clash =>
    let t := tileOf s n
    let s1 := if t.ended then drainTo n (courseLen s - 1) drainFuel s
      else if t.cyc = 0 then s else drainTo n (t.cyc - 1) drainFuel s
    let c1 := clash || clashes (tileOf s1 n).pend
    if t.ended || getF s1 (TILE_STAT_STATE n) != 2 then
      let t1 := tileOf s1 n
      let late := !t1.accs.isEmpty || !t1.lands.isEmpty
      let f := getF s1 (TILE_FAULT_CAUSE n)
      ⟨accs, c1, if f = 0 ∧ late then 1 else f, t1.ended⟩
    else
      let old := tReg (tileOf s1 n)
      let s2 := issueBundle n (forceCount n p cs s1)
      let r := kS (bits (p.getD (4 * t.pc + 3) 0) 12 4)
      let s3 := if cs.any (fun c => c.1 == t.pc) then updTile n (fun t => { t with regs := t.regs.set r (old r) 0 }) s2 else s2
      let t3 := tileOf s3 n
      dryRun n p cs k s3 (accs ++ t3.accs.filter (fun a => a.issue == t.cyc)) (c1 || clashes t3.pend)

/-- Every dry run of a tile's program. (DESIGN CHOICE log 38) -/
def dryRuns (img : Img) (s : State) (n : Nat) (p : List Nat) : List Dry :=
  let s0 := scratch img s
  (allCounts (repsOf p)).map (fun cs => dryRun n p cs (courseLen s0 + 2) s0 [] false)

/-! ## Banks, lines and grants -/

/-- The banks that a range of words touches. -/
def banksOf (first count : Nat) : List Nat :=
  if count = 0 then [] else (List.range (bankOf (first + count - 1) + 1)).filter (fun b => bankOf first ≤ b)

/-- Every Ashlar bank that an image grants or addresses. -/
def imgBanks (i : Img) : List Nat :=
  (i.cal.bank.map (fun p => p.1 / 64))
    ++ (i.regions.filter (fun r => r.kind != 2)).flatMap (fun r => banksOf r.first (r.last + 1 - r.first))
    ++ i.pages.flatMap (fun p => banksOf p.2.1 1024 ++ banksOf p.2.2 1024)
    ++ i.carried.flatMap (fun c => banksOf c.a c.b)
    ++ (i.digest.filter (fun d => d.a == 1)).flatMap (fun d => banksOf d.b d.c)
    ++ (i.inits.filter (fun r => r.kind == 3)).flatMap (fun r => banksOf r.addr r.count)

/-- Cycles of a course at a rate multiple. -/
def courseOf (rm : Nat) : Nat := 24576 / (max rm 1)

/-- The lines of the slot map that satisfy a condition on line and entry. -/
def mapLines (c : Cal) (f : Nat → Nat → Bool) : List Nat := (c.map.filter (fun p => f p.1 p.2)).map Prod.fst

/-- Write-port grants of a code in a slot bank from a course cycle on. (DEDUCED log 39) -/
def wGrants (c : Cal) (code bank start len : Nat) : Nat :=
  ((List.range len).filter (fun k => start ≤ k && c.slotW.get (64 * bank + k % 64) 0xFE == code)).length

/-- Read-port grants of a code in a slot bank in a course. -/
def rGrants (c : Cal) (code bank len : Nat) : Nat :=
  ((List.range len).filter (fun k => c.slotR.get (64 * bank + k % 64) 0xFE == code)).length

/-- The cycle at which an engine has written a line: its lines of a slot bank in rising order take the engine's grants of
the bank one by one, from the end of its window. (DEDUCED log 39) -/
def engineWriteCycle (c : Cal) (line len : Nat) : Nat :=
  let code := producer c line
  let start := if code = 0x22 then c.routeStart + c.routeCap else if code = 0x23 then c.dynStart + 2 * c.dynCap else 0
  let pos := (mapLines c (fun l e => e % 256 == code && l % 32 == line % 32 && l < line)).length
  (((List.range len).filter (fun k => start ≤ k && c.slotW.get (64 * (line % 32) + k % 64) 0xFE == code)).getD pos len)

/-- The first cycle at which a tile's dry runs write a line; the latest over the counts. -/
def tileWriteCycle (rs : List Dry) (line len : Nat) : Nat :=
  rs.foldl (fun m d =>
    max m ((minCycle (d.accs.filterMap (fun a => match a.kind with
      | .swr _ l _ => if l = line then some a.cycle else none
      | _ => none))).getD len)) 0

/-! ## The rules of R125 in order -/

/-- Rule 3, Variant (R121); the tiles used exist. -/
def vVariant (s : State) (i : Img) : Except VErr Unit :=
  let c := cap s
  vneed (bits c 0 2 ≤ bits i.need 0 2 && bits i.need 0 2 != 3 && bits i.need 2 6 ≤ bits c 2 6 && bits i.need 8 8 ≤ bits c 8 8
    && bits i.need 16 1 ≤ bits c 16 1 && bits i.need 17 3 ≤ bits c 17 3 && bits i.need 20 3 ≤ bits c 20 3
    && bits i.need 23 4 ≤ bits c 23 4 && (bitsSet i.tileMask 32).all (· < nTiles s)) eAbsent 3 0

/-- Format across sections: one program for each tile of TILE_MASK, and no calendar grants another tile anything. -/
def vFormat (i : Img) : Except VErr Unit := do
  fmt (i.progs.map Prod.fst == bitsSet i.tileMask 32) 0
  fmt ((i.cal.bank ++ i.cal.slotW ++ i.cal.slotR).all (fun p => 32 ≤ p.2 || bitOf i.tileMask p.2)) 0

/-- Rule 5, Programs. -/
def vPrograms (i : Img) (runs : Nat → List Dry) : Except VErr Unit :=
  vall (fun (p : Nat × List Nat) => do
    let ok := (List.range (p.2.length / 4)).all (fun b =>
      let w := bundleAt p.2 b
      legalV (w.getD 0 0) && legalL (w.getD 1 0) && legalS (w.getD 2 0) && legalC (w.getD 3 0) && ptrOk w)
    vneed (ok && nestOk p.2 && !(endcs p.2).isEmpty && (endcs p.2).all (fun b => !inBody p.2 b)) eContract 5 0
    vneed ((runs p.1).all (fun d => !d.clash && !([2, 4, 5] : List Nat).contains d.cause)) eContract 5 0) i.progs

/-- Rules 6 to 8, Course fit, DMEM banks and Tile grants: the dry runs meet no OVERRUN, BANK or CAL. -/
def vRuns (i : Img) (runs : Nat → List Dry) : Except VErr Unit := do
  vall (fun (p : Nat × List Nat) => vneed ((runs p.1).all (fun d => d.cause != 1)) eContract 6 0) i.progs
  vall (fun (p : Nat × List Nat) => vneed ((runs p.1).all (fun d => d.cause != 3)) eContract 7 0) i.progs
  vall (fun (p : Nat × List Nat) => vneed ((runs p.1).all (fun d => d.cause != 8)) eContract 8 0) i.progs

/-- Rules 9 and 10, Mortar floor and Partition. -/
def vBanks (s : State) (i : Img) : Except VErr Unit := do
  vall (fun b => vneed (4 ≤ 64 - (i.cal.bank.filter (fun p => p.1 / 64 == b)).length) eContract 9 0) (List.range 128)
  vall (fun b => do
    vneed (b < nBanks s) eAbsent 10 0
    vneed (b < partBank s) eContract 10 0) (imgBanks i)

/-- Rule 11, Slot ownership. -/
def vOwner (i : Img) (runs : Nat → List Dry) : Except VErr Unit := do
  vneed (i.cal.map.all (fun p => (p.2 % 256 == 0x22) == bitOf p.2 10)) eContract 11 0
  vall (fun (p : Nat × List Nat) => vneed ((runs p.1).all (fun d => d.accs.all (fun a => match a.kind with
    | .swr _ l _ => producer i.cal l == p.1
    | _ => true))) eContract 11 0) i.progs
  vneed (i.destSlots.all (fun w => routeDest i.cal (w % 8192 / 8)) && distinct (i.destSlots.map (· % 8192))) eContract 11 0
  vneed (i.dyns.all (fun r => producer i.cal (rf r 1 0 13 / 8) == 0x23)) eContract 11 0

/-- Rule 12, Chaining. -/
def vChain (i : Img) (runs : Nat → List Dry) : Except VErr Unit := do
  let len := courseOf i.rm
  let wrote := fun l => if producer i.cal l < 32 then tileWriteCycle (runs (producer i.cal l)) l len
    else engineWriteCycle i.cal l len
  vall (fun (p : Nat × List Nat) => vneed ((runs p.1).all (fun d => d.accs.all (fun a => match a.kind with
    | .srd _ _ l => !chained i.cal l || wrote l < a.cycle
    | _ => true))) eContract 12 0) i.progs
  vneed (i.routes.all (fun v => !xpValid v || !chained i.cal (xpSrc v / 8))) eContract 12 0
  vneed (i.dyns.all (fun r => !chained i.cal (rf r 0 0 13 / 8) && !chained i.cal (rf r 0 13 13 / 8))) eContract 12 0

/-- The ceilings of R140 for a full-size or small part: crosspoints, destinations, instances. -/
def ceilings (small : Bool) (rm : Nat) : Nat × Nat × Nat :=
  let k := max rm 1
  (if small then min 8192 (16384 / k) else 16384 / k, 4096 / k, (if small then 512 else 1024) / k)

/-- Rule 13, Windows, with the look-ahead sum of R145. -/
def vWindows (s : State) (i : Img) : Except VErr Unit := do
  let len := courseOf i.rm
  let c := ceilings (isSmall s) i.rm
  let r0 := i.cal.routeStart
  let r1 := r0 + i.cal.routeCap
  let d0 := i.cal.dynStart
  let d1 := d0 + 2 * i.cal.dynCap
  vneed (i.cal.routeCap == 0 || r1 ≤ len) eContract 13 0
  vneed (i.cal.dynCap == 0 || d1 ≤ len) eContract 13 8
  vneed (i.cal.routeCap == 0 || i.cal.dynCap == 0 || r1 ≤ d0 || d1 ≤ r0) eContract 13 0
  vneed (i.cal.routeCap ≤ c.1 && i.cal.dynCap ≤ c.2.2 && i.destSlots.length ≤ c.2.1) eContract 13 0
  vneed (i.routes.length ≤ i.cal.routeCap && i.dyns.length ≤ i.cal.dynCap) eContract 13 0
  vneed ((i.destSlots.map lookAhead).sum ≤ 65536) eContract 13 0

/-- Rule 14, Write-out. -/
def vWriteOut (i : Img) : Except VErr Unit := do
  let len := courseOf i.rm
  vall (fun b => do
    vneed (i.cal.routeCap == 0 || (mapLines i.cal (fun l e => e % 256 == 0x22 && l % 32 == b)).length
      ≤ wGrants i.cal 0x22 b (i.cal.routeStart + i.cal.routeCap) len) eContract 14 0
    vneed (i.cal.dynCap == 0 || (mapLines i.cal (fun l e => e % 256 == 0x23 && l % 32 == b)).length
      ≤ wGrants i.cal 0x23 b (i.cal.dynStart + 2 * i.cal.dynCap) len) eContract 14 0) (List.range 32)

/-- Rule 15, Port grants. -/
def vPorts (i : Img) : Except VErr Unit := do
  let len := courseOf i.rm
  vall (fun b => do
    vall (fun code => vneed ((mapLines i.cal (fun l e => e % 256 == code && bitOf e 9 && l % 32 == b)).length
      ≤ wGrants i.cal code b 0 len) eContract 15 0) [0x20, 0x24]
    let outs := (mapLines i.cal (fun l e => e % 256 != 0x20 && e % 256 != 0x24 && bitOf e 9 && l % 32 == b)).length
    vall (fun code => vneed (rGrants i.cal code b len == 0 || outs ≤ rGrants i.cal code b len) eContract 15 0)
      [0x20, 0x24, 0x25]) (List.range 32)

/-- Whether two ranges of words share one. -/
def ranges (a b c d : Nat) : Bool := a ≤ d && c ≤ b

/-- The G registers of a tile that a PRD names and that no page of the map is loaded into. -/
def badPageRegs (i : Img) (n : Nat) (p : List Nat) : List Nat :=
  let view := i.inits.foldl (fun (m : AMap Nat) x =>
    if x.kind = 2 ∧ x.tile = n then
      (List.range x.count).foldl (fun (m : AMap Nat) k =>
        m.set (x.addr % 524288 + 4 * k) (if x.fill then x.words.getD 0 0 else x.words.getD k 0) 0) m
    else m) []
  let bs := List.range (p.length / 4)
  let used := (bs.filterMap (fun b => let w := p.getD (4 * b + 1) 0; if opOf w = 6 then some (fOpt w) else none)).eraseDups
  let known := fun v => bitOf v 8 && i.pages.any (fun x => x.1 == v % 256)
  used.filter (fun g => !(known (view.get (kG g) 0) || bs.any (fun b =>
    let w := p.getD (4 * b + 3) 0
    opOf w == 0x12 && bits w 23 3 == g && known (w % 256 + 256 * bits w 16 1))))

/-- Rule 16, Pages (R65). -/
def vPages (i : Img) : Except VErr Unit := do
  vneed (i.pages.all (fun p => (banksOf p.2.1 1024).all (· == bankOf p.2.1) && (banksOf p.2.2 1024).all (· == bankOf p.2.1)))
    eContract 16 0
  let cs := i.pages.flatMap (fun p => [p.2.1, p.2.2])
  vneed (((List.range cs.length).zip cs).all (fun a => ((List.range cs.length).zip cs).all (fun b =>
    a.1 == b.1 || !ranges a.2 (a.2 + 1023) b.2 (b.2 + 1023)))) eContract 16 0
  vall (fun (p : Nat × List Nat) => vneed (badPageRegs i p.1 p.2).isEmpty eContract 16 0) i.progs

/-- Rule 17, Regions. -/
def vRegions (i : Img) : Except VErr Unit := do
  let of := fun (ks : List Nat) => i.regions.filter (fun r => ks.contains r.kind)
  vneed ((of [1, 3]).length ≤ 64) eContract 17 0
  vneed ((List.range 32).all (fun t => ((of [2]).filter (fun r => r.tile == t)).length ≤ 8)) eContract 17 0
  vneed ((of [1, 3]).all (fun a => (of [4]).all (fun b => !ranges a.first a.last b.first b.last))) eContract 17 0
  vneed ((of [3]).all (fun r => (banksOf r.first (r.last + 1 - r.first)).all (fun b =>
    i.cal.bank.any (fun p => p.1 / 64 == b && p.2 == 0x20)))) eContract 17 0
  vneed ((of [4]).all (fun r => r.last < r.first ||
    i.digest.any (fun d => d.a == 1 && d.b ≤ r.first && r.last < d.b + d.c))) eContract 17 0

/-- The lines of a bank that a carried-state record still needs. -/
def carriedLines (b : Nat) (c : MapRec) : Nat :=
  ((List.range (c.b / 8)).filter (fun k => bankOf (c.a + 8 * k) == b)).length

/-- One pair-engine grant of a step given to the open record whose window ends first. (DEDUCED log 39) -/
def giveGrant (step : Nat) (rs : List (MapRec × Nat)) : List (MapRec × Nat) :=
  let live := rs.filter (fun r => 0 < r.2 && r.1.c % 65536 ≤ step && step < r.1.c / 65536)
  match minCycle (live.map (fun r => r.1.c / 65536)) with
  | none => rs
  | some e =>
    match rs.findIdx? (fun r => 0 < r.2 && r.1.c % 65536 ≤ step && step < r.1.c / 65536 && r.1.c / 65536 == e) with
    | some k => rs.modify k (fun r => (r.1, r.2 - 1))
    | none => rs

/-- Rule 18, Carried state. (DESIGN CHOICE log 120) -/
def vCarried (i : Img) : Except VErr Unit := do
  let steps := courseOf i.rm / 64
  vneed (i.carried.all (fun c => c.c % 65536 < c.c / 65536 && c.c / 65536 ≤ steps)) eContract 18 0
  vall (fun b =>
    let g := ((List.range 64).filter (fun c => i.cal.bank.get (64 * b + c) 0xFF == 0x21)).length
    let rs := (i.carried.map (fun c => (c, carriedLines b c))).filter (fun r => r.2 != 0)
    let left := (List.range steps).foldl (fun rs st => (List.range g).foldl (fun rs _ => giveGrant st rs) rs) rs
    vneed (left.all (fun r => r.2 == 0)) eContract 18 0) ((i.carried.flatMap (fun c => banksOf c.a c.b)).eraseDups)

/-- Rule 19, Lending. -/
def vLend (i : Img) (runs : Nat → List Dry) : Except VErr Unit :=
  vall (fun (l : MapRec) => vneed ((bitsSet (l.b + 4294967296 * l.c) 64).all (fun c =>
    let t := i.cal.bank.get (64 * l.a + c) 0xFF
    t < 32 && (runs t).all (fun d => d.accs.all (fun a => match a.kind with
      | .ard _ _ w => !(bankOf w == l.a && a.cycle % 64 == c)
      | .awrRead _ _ w => !(bankOf w == l.a && (a.cycle + 1) % 64 == c)
      | .awrWrite _ w _ => !(bankOf w == l.a && a.cycle % 64 == c)
      | _ => true)))) eContract 19 0) i.lend

/-- Rule 20, Latency, with the look-ahead rule of R145. -/
def vLatency (i : Img) : Except VErr Unit :=
  vall (fun (e : LatEntry) => do
    vneed (e.courses == 2 + e.hops + e.delay) eContract 20 0
    vneed (bindable i.cal (e.dst / 8) && (e.env || bindable i.cal (e.src / 8))) eContract 20 0
    vneed (i.destSlots.all (fun w => w % 8192 != e.dst || lookAhead w ≤ e.delay)) eContract 20 0) i.latency

/-- RECORD_BYTES by R137. -/
def recordSize (i : Img) : Nat :=
  64 + 32 * (mapLines i.cal (fun _ e => e % 256 == 0x20 || e % 256 == 0x24)).length + 2048
    + 4 * (i.carried.map (fun c => c.b)).sum + 16

/-- The literal words of gap records in bytes: DMEM, register-view, and Ashlar in banks that the running image grants.
(DESIGN CHOICE log 40) -/
def isGap (s : State) (x : InitRec) : Bool :=
  running s && (x.kind != 3 || (banksOf x.addr x.count).any (fun b => bankGranted s.fab.cal b))

/-- Rule 22, Signature. (DESIGN CHOICE log 40) -/
def vSign (s : State) (m : AMap Nat) (i : Img) : Except VErr Unit :=
  match sect m 0x7F with
  | none => vneed (!s.fw.requireSigned) eAuth 22 0x18
  | some e =>
    let slot := ib m (e.off + 1)
    let k := s.fw.imgKeys.find slot
    vneed (k.isSome && ecdsaOk ((k.getD 0) / 2 ^ 256) (k.getD 0 % 2 ^ 256) i.sha (ofBeBytes (ibs m (e.off + 8) 32))
      (ofBeBytes (ibs m (e.off + 40) 32))) eAuth 22 e.off

/-- The rules that are judged on the whole image, in the order of R125. (DESIGN CHOICE log 37) -/
def verifyWhole (s : State) (m : AMap Nat) : Except VErr Img := do
  let cs := (mustSect m 0x7E).off
  let compat := match sect m 0x0A with | some e => crc32c (ibs m e.off e.len) | none => 0
  vneed (iw m 0x28 == compat) eCrc 1 0x28
  vneed (iw m cs == crc32c (ibs m 0 cs) && ibs m (cs + 4) 32 == sha256 (ibs m 0 cs)) eCrc 1 cs
  let gaps := (sections m).foldl (fun (a : List Nat × Nat) e => (a.1 ++ (List.range (e.off - a.2)).map (· + a.2), e.off + e.len))
    ([], dirEnd m)
  fmt (gaps.1.all (fun o => ib m o == 0)) (dirEnd m)
  fmt ((List.range (iw m 0x10 - gaps.2)).all (fun k => ib m (gaps.2 + k) == 0)) gaps.2
  let i ← parseImg m
  vFormat i
  vVariant s i
  let all := i.progs.map (fun p => (p.1, dryRuns i s p.1 p.2))
  let runs := fun n => AMap.get all n []
  vPrograms i runs
  vRuns i runs
  vBanks s i
  vOwner i runs
  vChain i runs
  vWindows s i
  vWriteOut i
  vPorts i
  vPages i
  vRegions i
  vCarried i
  vLend i runs
  vLatency i
  vneed (i.recordBytes == recordSize i) eContract 21 0
  vSign s m i
  return i

/-! ## Pieces (R124, R130) -/

/-- The sections that lie whole in a range. -/
def sectionsIn (m : AMap Nat) (first last : Nat) : List DirEnt := (sections m).filter (fun e => first ≤ e.off && e.off + e.len ≤ last)

/-- The end of what the verified pieces hand over without a hole. -/
def covered : List (Nat × Nat) → Nat → Nat
  | [], c => c
  | (o, l) :: t, c => covered t (if o ≤ c then max c (o + l) else c)

/-- The first byte past the last piece. (DESIGN CHOICE log 37) -/
def lastPiece (ps : List (Nat × Nat)) : Nat := ps.foldl (fun m p => max m (p.1 + p.2)) 0

/-- A piece checked as it arrives: header and directory in the first, whole sections in order, each well formed, and the
literal gap records of the image's initial data within 768 KiB. (DESIGN CHOICE log 37, 46) -/
def verifyPiece (s : State) (x : Session) (m : AMap Nat) (off len : Nat) : Except VErr Unit := do
  fmt (off + len ≤ x.len) off
  (if off = 0 then do
    vneed (64 ≤ len) eContract 25 0
    checkHeader m x.len x.id
    vneed (dirEnd m ≤ len) eContract 25 0x40
    checkDir m x.len
  else vneed (!x.pieces.isEmpty) eContract 25 off)
  vneed (lastPiece x.pieces ≤ off) eContract 25 off
  vneed ((sections m).all (fun e => e.off + e.len ≤ off || off + len ≤ e.off || (off ≤ e.off && e.off + e.len ≤ off + len)))
    eContract 25 off
  vall (checkSection m) (sectionsIn m off (off + len))
  match (sectionsIn m off (off + len)).find? (fun e => e.typ == 0x03) with
  | some e => do
    let l ← parseInits m (e.off + e.len) (iw m ((mustSect m 0x01).off + 16)) e.len e.off
    vneed (4 * ((l.filter (fun r => isGap s r && !r.fill)).map (fun r => r.count)).sum ≤ 786432) eNospace 23 e.off
  | none => return ()

end Sys2Proof.Machine
end

