-- ==== Sys2Proof/Machine/FwPort.lean ====
section
/-! DEFINITION. The PORT commands (R375). -/

namespace Sys2Proof.Machine

/-! ## What the image allows (R123) -/

/-- An input binding: a BINDABLE line that the engine produces. -/
def inBindOk (s : State) (code slot : Nat) : Bool :=
  bindable s.fab.cal (slot / 8) && producer s.fab.cal (slot / 8) == code

/-- An output binding: a BINDABLE line that neither the port nor the stream engine produces, in a slot bank where the
engine has a read-port grant. -/
def outBindOk (s : State) (code slot : Nat) : Bool :=
  bindable s.fab.cal (slot / 8) && producer s.fab.cal (slot / 8) != 0x20 && producer s.fab.cal (slot / 8) != 0x24
    && 0 < rGrants s.fab.cal code (slot / 8 % 32) (min (courseLen s) 64)

/-- PHASE of a group (R165): the largest DRIVE_CYCLE of its output lanes' slots, rounded up to 64 cycles.
(DESIGN CHOICE log 54) -/
def phaseFor (s : State) (g : Nat) : Nat :=
  let slots := (((List.range 8).map (8 * g + ·)).filter (fun n =>
      flag s (SP_LANE_CFG_EN n) && flag s (SP_LANE_CFG_DIR n) && flag s (SP_LANE_BIND_BOUND n))).flatMap
    (fun n => [getF s (SP_LANE_BIND_SLOT_A n), getF s (SP_LANE_BIND_SLOT_B n)])
  match s.fab.img with
  | some i => (i.latency.foldl (fun m e => if !e.env && slots.contains e.dst then max m e.drive else m) 0 + 63) / 64
  | none => 0

/-- Fields as changes of a batch. -/
def fldChanges (l : List (Fld × Nat)) : List BufChange := l.map (fun p => .fld p.1.key p.2)

/-- Port settings with an optional target: the fields, and the PHASE that the group then needs. -/
def portBatch (s : State) (r : FwReq) (t : Nat) (g : Option Nat) (l : List (Fld × Nat)) : Except FwErr (State × List Nat) :=
  let s1 := putFs l s
  let l := match g with
    | some g => if getF s1 (SP_GRP_CTL_MASTER g) = 1 then l ++ [(SP_GRP_CTL_PHASE g, phaseFor s1 g)] else l
    | none => l
  optionalBatch s r t (fldChanges l) (putFs l)

/-- Whether the ports of the registers other than one name an ASRC instance (R176). -/
def asrcElsewhere (s : State) (i self : Nat) : Bool :=
  (List.range 48).any (fun n => n != self && flag s (SP_LANE_CFG_EN n) && flag s (SP_LANE_CFG_ASRC_EN n) && getF s (SP_LANE_CFG_ASRC n) == i)
    || (List.range 8).any (fun n => 48 + n != self && flag s (AES_RX_CTL_EN n) && flag s (AES_RX_CTL_ASRC_EN n)
      && getF s (AES_RX_CTL_ASRC n) == i)
    || (List.range 8).any (fun n => 64 + n != self && flag s (AES_TX_CTL_EN n) && flag s (AES_TX_CTL_TX_FOLLOW n)
      && getF s (AES_TX_CTL_ASRC n) == i)

/-- PORT.GROUP. -/
def fwPortGroup (r : FwReq) (s : State) : FwM := do
  r.len 1
  let g := r.f 0 0 3
  inVariant g (nGroups s) 6
  audioSide s
  mayOwn s r 6 g
  r.only [(0, mask 5 0)]
  need (r.f 0 4 2 != 3) (errAt eRange 0)
  quotaFor s r 6 g
  let x ← portBatch s r 0 (some g) [(SP_GRP_CTL_MASTER g, r.f 0 3 1), (SP_GRP_CTL_FRAME g, r.f 0 4 2), (SP_GRP_CTL_PHASE g, 0)]
  return (acquire r 6 g x.1, [])

/-- PORT.LANE. (DESIGN CHOICE log 54) -/
def fwPortLane (r : FwReq) (s : State) : FwM := do
  r.len 4
  let n := r.f 0 0 6
  let a := r.f 0 14 6
  let useA := r.f 0 13 1 == 1
  let out := r.f 0 7 1 == 1
  inVariant n (nLanes s) 48
  (if useA then inVariant a (nAsrc s) 64 else .ok ())
  audioSide s
  mayOwn s r 5 n
  (if useA then mayOwn s r 8 a else .ok ())
  r.only [(0, mask 19 0), (1, mask 12 0 + mask 28 16)]
  need (r.f 0 8 2 != 3) (errAt eRange 0)
  need (r.f 0 6 1 == 0 || wordLen (r.f 0 10 2) ≤ chanBits (getF s (SP_GRP_CTL_FRAME (n / 8)))) (errAt eRange 0)
  need (!(flag s (SP_LANE_CFG_EN n) && flag s (SP_LANE_CFG_DIR n) != out)) (err eState)
  need (!(useA && asrcElsewhere s a n)) (err eState)
  need (r.f 0 6 1 == 0 || [r.f 1 0 13, r.f 1 16 13].all (fun k => if out then outBindOk s 0x24 k else inBindOk s 0x24 k))
    (errAt eContract 1)
  quotaFor s r 5 n
  (if useA then quotaFor s r 8 a else .ok ())
  let x ← portBatch s r (r.ci 2) (some (n / 8))
    [(SP_LANE_CFG_EN n, r.f 0 6 1), (SP_LANE_CFG_DIR n, r.f 0 7 1), (SP_LANE_CFG_FMT n, r.f 0 8 2), (SP_LANE_CFG_WL n, r.f 0 10 2),
     (SP_LANE_CFG_NA_EN n, r.f 0 12 1), (SP_LANE_CFG_ASRC_EN n, r.f 0 13 1), (SP_LANE_CFG_ASRC n, a),
     (SP_LANE_BIND_SLOT_A n, r.f 1 0 13), (SP_LANE_BIND_SLOT_B n, r.f 1 16 13), (SP_LANE_BIND_BOUND n, r.f 0 6 1)]
  let s1 := acquire r 5 n x.1
  return (if useA then acquire r 8 a s1 else s1, x.2)

/-- PORT.AESRX. -/
def fwPortAesrx (r : FwReq) (s : State) : FwM := do
  r.len 3
  let n := r.f 0 0 3
  let a := r.f 0 6 6
  let useA := r.f 0 5 1 == 1
  let slot := r.f 0 16 13
  inVariant n (nAes s) 8
  (if useA then inVariant a (nAsrc s) 64 else .ok ())
  audioSide s
  mayOwn s r 7 n
  (if useA then mayOwn s r 8 a else .ok ())
  r.only [(0, mask 11 0 + mask 28 16)]
  need (slot % 8 != 7) (errAt eRange 0)
  need (!(useA && asrcElsewhere s a (48 + n))) (err eState)
  need (r.f 0 3 1 == 0 || inBindOk s 0x24 slot) (errAt eContract 0)
  quotaFor s r 7 n
  (if useA then quotaFor s r 8 a else .ok ())
  let x ← portBatch s r (r.ci 1) none
    [(AES_RX_CTL_EN n, r.f 0 3 1), (AES_RX_CTL_NA_EN n, r.f 0 4 1), (AES_RX_CTL_ASRC_EN n, r.f 0 5 1),
     (AES_RX_CTL_ASRC n, a), (AES_RX_CTL_SLOT_A n, slot)]
  let s1 := acquire r 7 n x.1
  return (if useA then acquire r 8 a s1 else s1, x.2)

/-- PORT.AESTX. -/
def fwPortAestx (r : FwReq) (s : State) : FwM := do
  r.len 3
  let n := r.f 0 0 3
  let a := r.f 0 10 6
  let follow := r.f 0 6 1 == 1
  let slot := r.f 0 16 13
  inVariant n (nAes s) 8
  (if follow then do inVariant a (nAsrc s) 64; inVariant (r.f 0 7 3) (nAes s) 8 else .ok ())
  audioSide s
  mayOwn s r 7 n
  (if follow then mayOwn s r 8 a else .ok ())
  r.only [(0, mask 28 0)]
  need (slot % 8 != 7) (errAt eRange 0)
  need (!(follow && asrcElsewhere s a (64 + n))) (err eState)
  need (r.f 0 3 1 == 0 || outBindOk s 0x24 slot) (errAt eContract 0)
  quotaFor s r 7 n
  (if follow then quotaFor s r 8 a else .ok ())
  let x ← portBatch s r (r.ci 1) none
    [(AES_TX_CTL_EN n, r.f 0 3 1), (AES_TX_CTL_CRC_GEN n, r.f 0 4 1), (AES_TX_CTL_V_OUT n, r.f 0 5 1),
     (AES_TX_CTL_TX_FOLLOW n, r.f 0 6 1), (AES_TX_CTL_FOLLOW_RX n, r.f 0 7 3), (AES_TX_CTL_ASRC n, a), (AES_TX_CTL_SLOT_A n, slot)]
  let s1 := acquire r 7 n x.1
  return (if follow then acquire r 8 a s1 else s1, x.2)

/-- The six words of a channel-status or user buffer. -/
def bufWords (v : Nat) : List Nat := (List.range 6).map (fun w => bits v (32 * w) 32)

/-- PORT.CSTAT: kinds 0 and 1 read the received buffers; kinds 2 and 3 stage, and COMMIT sends what is staged.
(DESIGN CHOICE log 53) -/
def fwPortCstat (r : FwReq) (s : State) : FwM := do
  let n := r.f 0 0 3
  let k := r.f 0 4 2
  let ch := r.f 0 3 1
  r.len (if k < 2 then 1 else 7)
  inVariant n (nAes s) 8
  (if k < 2 then .ok () else audioSide s)
  (if k < 2 then .ok () else mayOwn s r 7 n)
  r.only [(0, mask 5 0 + 256)]
  need (2 ≤ k || r.f 0 8 1 == 0) (errAt eRange 0)
  if k < 2 then return (s, bufWords (aesBuf (aesOf s n) k ch))
  quotaFor s r 7 n
  let v := ((List.range 6).map (fun w => r.w (w + 1) % 4294967296 * 2 ^ (32 * w))).sum
  let s1 := updAes n (putAesBuf k ch v) (acquire r 7 n s)
  return (if r.f 0 8 1 = 1 then txCommit n s1 else s1, bufWords v)

/-- PORT.ASRC. -/
def fwPortAsrc (r : FwReq) (s : State) : FwM := do
  r.len 1
  let i := r.f 0 0 6
  inVariant i (nAsrc s) 64
  (if r.f 0 8 1 = 1 then inVariant (r.f 0 9 6) (nAsrc s) 64 else .ok ())
  audioSide s
  mayOwn s r 8 i
  r.only [(0, mask 14 0)]
  quotaFor s r 8 i
  let x ← portBatch s r 0 none [(SP_ASRC_CTL_EN i, r.f 0 6 1), (SP_ASRC_CTL_MODE i, r.f 0 7 1), (SP_ASRC_CTL_GANG_EN i, r.f 0 8 1),
    (SP_ASRC_CTL_LEADER i, r.f 0 9 6)]
  return (acquire r 8 i x.1, [])

/-- Every changed bit belongs to an object of the seat. (DEDUCED log 55) -/
def ownsBits (s : State) (seat kind old new n : Nat) : Bool :=
  (bitsSet (old ^^^ new) n).all (owns s seat kind)

/-- PORT.OUTEN. (DEDUCED log 55) -/
def fwPortOuten (r : FwReq) (s : State) : FwM := do
  r.len 6
  let lanes := r.w 0 + 4294967296 * r.w 2
  need ((bitsSet lanes 48).all (· < nLanes s) && (bitsSet (r.w 4) 8).all (· < nAes s)) (err eAbsent)
  audioSide s
  let old := getF s SP_OEN_LO_OEN + 4294967296 * getF s SP_OEN_HI_OEN
  need (ownsBits s r.seat 5 old lanes 48 && ownsBits s r.seat 7 (getF s AES_OEN_OEN) (r.w 4) 8) (err eOwned)
  r.only [(2, mask 15 0), (4, mask 7 0)]
  need (r.w 1 == not32 (r.w 0)) (errAt ePairword 1)
  need (r.w 3 == not32 (r.w 2)) (errAt ePairword 3)
  need (r.w 5 == not32 (r.w 4)) (errAt ePairword 5)
  let x ← portBatch s r 0 none [(SP_OEN_LO_OEN, r.w 0), (SP_OEN_HI_OEN, r.w 2), (AES_OEN_OEN, r.w 4)]
  return ({ x.1 with oenDark := x.1.oenDark.filter (fun a =>
    !([SP_OEN_LO_OEN.addr, SP_OEN_HI_OEN.addr, AES_OEN_OEN.addr] : List Nat).contains a) }, [])

/-- PORT.STATUS: three words, the object's status and counter registers first and its settings after them
(DESIGN CHOICE: the row does not list the registers). (DESIGN CHOICE log 53) -/
def fwPortStatus (r : FwReq) (s : State) : FwM := do
  r.len 1
  let k := r.f 0 0 2
  let i := r.f 0 8 8
  (match k with
    | 0 => inVariant i (nLanes s) 48
    | 1 => inVariant i (nAes s) 8
    | 2 => inVariant i (nAsrc s) 64
    | _ => inVariant i (nGroups s) 6)
  r.only [(0, mask 1 0 + mask 15 8)]
  let ws := match k with
    | 0 => [SP_LANE_STAT_NONAUDIO i, SP_LANE_CFG_EN i, SP_LANE_BIND_SLOT_A i]
    | 1 => [AES_RX_STAT_LOCK i, AES_RX_CNT_PARITY_ERR i, AES_RX_CTL_EN i]
    | 2 => [SP_ASRC_STAT_STATE i, SP_ASRC_RATIO_RATIO i, SP_ASRC_CTL_EN i]
    | _ => [SP_GRP_STAT_WS_POS i, SP_GRP_CTL_MASTER i]
  return (s, ws.map (fun f => regWordRaw s f.addr) ++ List.replicate (3 - ws.length) 0)

/-- PORT_GROUP. -/
def execPortGroup (r : FwReq) (s : State) : Host.Outcome State Fault Refusal := fwRow 0x0600 r fwPortGroup s
/-- PORT_LANE. -/
def execPortLane (r : FwReq) (s : State) : Host.Outcome State Fault Refusal := fwRow 0x0601 r fwPortLane s
/-- PORT_AESRX. -/
def execPortAesrx (r : FwReq) (s : State) : Host.Outcome State Fault Refusal := fwRow 0x0602 r fwPortAesrx s
/-- PORT_AESTX. -/
def execPortAestx (r : FwReq) (s : State) : Host.Outcome State Fault Refusal := fwRow 0x0603 r fwPortAestx s
/-- PORT_CSTAT. -/
def execPortCstat (r : FwReq) (s : State) : Host.Outcome State Fault Refusal := fwRow 0x0604 r fwPortCstat s
/-- PORT_ASRC. -/
def execPortAsrc (r : FwReq) (s : State) : Host.Outcome State Fault Refusal := fwRow 0x0605 r fwPortAsrc s
/-- PORT_OUTEN. -/
def execPortOuten (r : FwReq) (s : State) : Host.Outcome State Fault Refusal := fwRow 0x0606 r fwPortOuten s
/-- PORT_STATUS. -/
def execPortStatus (r : FwReq) (s : State) : Host.Outcome State Fault Refusal := fwRow 0x0607 r fwPortStatus s

end Sys2Proof.Machine
end

