-- ==== Sys2Proof/Machine/FwAmp.lean ====
section
/-! DEFINITION. The AMP commands (R380, R276). -/

namespace Sys2Proof.Machine

/-- The courses by which a channel's SLOT follows its ENV_SLOT in an image, if it has the entry (R276). -/
def envDelay (img : Option Img) (env slot : Nat) : Option Nat :=
  match img with
  | some i => (i.latency.find? (fun e => e.env && e.src == env && e.dst == slot)).map (fun e => e.hops + e.delay)
  | none => none

/-- The enabled channels of a group as the registers name them. -/
def enabledCh (s : State) (g : Nat) : List Nat := (groupCh g).filter (fun c => flag s (AMP_CH_CFG_EN c))

/-- D of a group under an image (R276): the smallest among its enabled channels; 0 where none has an entry.
(DESIGN CHOICE log 80) -/
def groupD (s : State) (img : Option Img) (g : Nat) : Nat :=
  ((enabledCh s g).filterMap (fun c => envDelay img (getF s (AMP_CH_SRC_ENV_SLOT c)) (getF s (AMP_CH_SRC_SLOT c)))).min?.getD 0

/-- Whether D of a group is long enough under an image (R276), at its rate. -/
def groupOk (s : State) (img : Option Img) (g : Nat) : Bool :=
  match img with
  | none => (enabledCh s g).isEmpty
  | some i =>
    let d := groupD s img g
    let need := fun us => 4 * i.rm + 2 + (us * baseRate i.family * i.rm + 999999) / 1000000
    (enabledCh s g).isEmpty || (need (capsF s g 4 0 16) ≤ d
      && (!(enabledCh s g).any (fun c => flag s (AMP_CH_CFG_SIL_PD c)) || need (capsF s g 4 16 16) ≤ d))

/-- Whether every group holds R276 under an image, each enabled channel with its envelope entry (R134, R276).
(DESIGN CHOICE log 80) -/
def ampFits (s : State) (img : Img) : Bool :=
  !hasAmp s || (List.range 8).all (fun g => groupOk s (some img) g
    && (enabledCh s g).all (fun c => (envDelay (some img) (getF s (AMP_CH_SRC_ENV_SLOT c)) (getF s (AMP_CH_SRC_SLOT c))).isSome))

/-- AMP.CHANNEL. (DESIGN CHOICE log 80) -/
def fwAmpChannel (r : FwReq) (s : State) : FwM := do
  r.len 5
  let c := r.f 0 0 5
  let en := r.f 0 5 1
  let slot := r.f 1 0 13
  let env := r.f 1 16 13
  need (hasAmp s) (err eAbsent)
  need (r.f 2 0 12 < max (nDests s) 1 && r.f 2 16 12 < max (nDests s) 1) (errAt eRange 2)
  audioSide s
  mayOwn s r 16 c
  need (owns s r.seat 3 (r.f 2 0 12)) (err eOwned)
  r.only [(0, mask 10 0 + mask 31 16), (1, mask 12 0 + mask 28 16), (2, mask 11 0 + mask 27 16)]
  need (en == 0 || outBindOk s 0x25 slot) (errAt eContract 1)
  need (en == 0 || (envDelay s.fab.img env slot).isSome) (errAt eContract 1)
  let l := [(AMP_CH_CFG_EN c, en), (AMP_CH_CFG_SIL_PD c, r.f 0 6 1), (AMP_CH_CFG_TRIP_POL c, r.f 0 7 1),
    (AMP_CH_CFG_TRIP_FILT c, r.f 0 8 2), (AMP_CH_PROT_OC_EN c, r.f 0 10 1), (AMP_CH_PROT_OC_LIMIT c, r.f 0 16 16),
    (AMP_CH_SRC_SLOT c, slot), (AMP_CH_SRC_ENV_SLOT c, env), (AMP_CH_DEST_DEST c, r.f 2 0 12), (AMP_CH_DEST_SIL_DEST c, r.f 2 16 12)]
  let s1 := putFs l s
  need (groupOk s1 s.fab.img (c / 4)) (err eContract)
  quotaFor s r 16 c
  let x ← portBatch s r (r.ci 3) none (l ++ [(AMP_GRP_ENV2_D (c / 4), min (groupD s1 s.fab.img (c / 4)) 65535)])
  return (acquire r 16 c x.1, x.2)

/-- AMP.GROUP. -/
def fwAmpGroup (r : FwReq) (s : State) : FwM := do
  r.len 3
  let g := r.f 0 0 3
  need (hasAmp s) (err eAbsent)
  audioSide s
  mayOwn s r 17 g
  r.only [(0, mask 2 0), (1, mask 23 0), (2, mask 15 0)]
  need (groupOk s s.fab.img g) (err eContract)
  quotaFor s r 17 g
  let x ← portBatch s r 0 none [(AMP_GRP_ENV_V_FS g, r.f 1 0 12), (AMP_GRP_ENV_HEADROOM g, r.f 1 12 12),
    (AMP_GRP_ENV2_REL_SLEW g, r.f 2 0 16), (AMP_GRP_ENV2_D g, min (groupD s s.fab.img g) 65535)]
  return (acquire r 17 g x.1, [])

/-- AMP.BUS. -/
def fwAmpBus (r : FwReq) (s : State) : FwM := do
  r.len 3
  need (hasAmp s) (err eAbsent)
  audioSide s
  mayOwn s r 18 0
  r.only [(0, mask 18 0), (1, mask 6 0), (2, mask 11 0 + mask 27 16)]
  quotaFor s r 18 0
  let s1 := putFs [(AMP_CTL_EN, r.f 0 0 1), (AMP_MKL_CFG_DISC_EN, r.f 0 1 1), (AMP_MKL_CFG_ALLOW_3L, r.f 0 2 1),
    (AMP_MKL_CFG_DT_FLOOR, r.f 0 3 8), (AMP_CTL_STAGGER, r.f 0 11 8), (AMP_CTL_MIN_PULSE, r.f 1 0 7),
    (AMP_MKL_RAIL_LIM_MIN, r.f 2 0 12), (AMP_MKL_RAIL_LIM_MAX, r.f 2 16 12)] s
  return (acquire r 18 0 (busRewritten (r.f 0 1 1 == 1) s s1), [])

/-- AMP.OUTEN. -/
def fwAmpOuten (r : FwReq) (s : State) : FwM := do
  r.len 2
  need (hasAmp s) (err eAbsent)
  audioSide s
  need (ownsBits s r.seat 16 (getF s AMP_OEN_OEN) (r.w 0) 32) (err eOwned)
  need (r.w 1 == not32 (r.w 0)) (errAt ePairword 1)
  let x ← portBatch s r 0 none [(AMP_OEN_OEN, r.w 0)]
  return ({ x.1 with oenDark := x.1.oenDark.filter (· != AMP_OEN_OEN.addr) }, [])

/-- AMP.CLEAR. -/
def fwAmpClear (r : FwReq) (s : State) : FwM := do
  r.len 1
  need (hasAmp s) (err eAbsent)
  audioSide s
  let cs := bitsSet (r.w 0) 32
  need (cs.all (owns s r.seat 16)) (err eOwned)
  need (cs.all (fun c => getF s (AMP_CH_STAT_STATE c) == 5)) (err eState)
  return (ampClear (r.w 0) s, [])

/-- AMP.STATUS. -/
def fwAmpStatus (r : FwReq) (s : State) : FwM := do
  r.len 1
  let i := r.f 0 0 5
  let m := r.f 0 8 1 == 1
  need (hasAmp s) (err eAbsent)
  need (!m || i < 8) (errAt eRange 0)
  r.only [(0, mask 4 0 + 256)]
  let raw := fun f => regWordRaw s (Fld.addr f)
  if m then
    let t := ampMod s i
    return (s, raw (AMP_MOD_STAT_STATE i) :: ((List.range 6).map (fun k => t.caps.getD k 0) ++ [t.status.getD 0 0, t.status.getD 1 0]))
  return (putFs [(AMP_CH_MEAS_I_PEAK i, 0), (AMP_CH_MEAS_V_PEAK i, 0)] s,
    [raw (AMP_CH_STAT_STATE i), raw (AMP_CH_MEAS_I_PEAK i), raw (AMP_GRP_SET_SETPOINT (i / 4))])

/-- AMP_CHANNEL. -/
def execAmpChannel (r : FwReq) (s : State) : Host.Outcome State Fault Refusal := fwRow 0x0B00 r fwAmpChannel s
/-- AMP_GROUP. -/
def execAmpGroup (r : FwReq) (s : State) : Host.Outcome State Fault Refusal := fwRow 0x0B01 r fwAmpGroup s
/-- AMP_BUS. -/
def execAmpBus (r : FwReq) (s : State) : Host.Outcome State Fault Refusal := fwRow 0x0B02 r fwAmpBus s
/-- AMP_OUTEN. -/
def execAmpOuten (r : FwReq) (s : State) : Host.Outcome State Fault Refusal := fwRow 0x0B03 r fwAmpOuten s
/-- AMP_CLEAR. -/
def execAmpClear (r : FwReq) (s : State) : Host.Outcome State Fault Refusal := fwRow 0x0B04 r fwAmpClear s
/-- AMP_STATUS. -/
def execAmpStatus (r : FwReq) (s : State) : Host.Outcome State Fault Refusal := fwRow 0x0B05 r fwAmpStatus s

end Sys2Proof.Machine
end

