-- ==== Sys2Proof/Machine/FwClk.lean ====
section
/-! DEFINITION. The CLK commands (R379): they act on the receiving unit. -/

namespace Sys2Proof.Machine

/-- The ownership of CLOCK that every changing command needs. -/
def clockOwner (s : State) (r : FwReq) : Except FwErr Unit := mayOwn s r 15 0

/-- CLK.REF (R236). -/
def fwClkRef (r : FwReq) (s : State) : FwM := do
  r.len 5
  let k := r.f 0 0 3
  clockOwner s r
  r.only [(0, mask 11 0), (1, mask 15 0), (2, mask 19 0), (3, mask 23 0)]
  need (r.w 1 != 0) (errAt eRange 1)
  let ext := 1 ≤ k && k ≤ 6
  need (!ext || (1 ≤ r.w 3 && r.w 3 ≤ clkBase s)) (errAt eRange 3)
  need (!ext || r.f 4 0 20 != 0) (errAt eRange 4)
  quotaFor s r 15 0
  let s1 := putFs [(CLK_REF_CFG_EN k, r.f 0 3 1), (CLK_REF_CFG_PRIO k, r.f 0 4 4), (CLK_REF_CFG_QL_HOST k, r.f 0 8 4),
    (CLK_REF_CFG_WIN k, r.w 1), (CLK_REF_TIME_DQ k, r.f 2 0 8), (CLK_REF_TIME_WTR k, r.f 2 8 12), (CLK_REF_DIVN_N k, r.w 3),
    (CLK_REF_DIVM_M k, r.f 4 0 20), (CLK_REF_DIVM_REF_OFS k, r.f 4 20 12)] (acquire r 15 0 s)
  return (refreshClk s1, [])

/-- CLK.SELECT (R244): the family stays the running one. -/
def fwClkSelect (r : FwReq) (s : State) : FwM := do
  r.len 2
  clockOwner s r
  r.only [(0, mask 6 0)]
  need (r.w 1 == not32 (r.w 0)) (errAt ePairword 1)
  let fam := if running s then getF s FAB_TL_STATUS_FAMILY else getF s CLK_SEL_FAMILY
  need (r.f 0 6 1 == fam) (errAt eContract 0)
  quotaFor s r 15 0
  return (refreshClk (putFs [(CLK_SEL_SEL_MODE, r.f 0 0 2), (CLK_SEL_FORCE_REF, r.f 0 2 3), (CLK_SEL_REVERTIVE, r.f 0 5 1),
    (CLK_SEL_FAMILY, r.f 0 6 1)] (acquire r 15 0 s)), [])

/-- CLK_DPLL_CTL written: the fields, and the steering mode. -/
def writeDpll (v : Nat) (s : State) : State :=
  let s1 := putFs [(CLK_DPLL_CTL_BW, bits v 0 4), (CLK_DPLL_CTL_STEER, bits v 4 1), (CLK_DPLL_CTL_KEEP, bits v 5 1),
    (CLK_DPLL_CTL_HO_QL, bits v 13 4)] s
  let slew := bits v 6 7
  let ns := bits v 17 15
  let s2 := if 1 ≤ slew ∧ slew ≤ 100 then putF CLK_DPLL_CTL_BLEED_SLEW slew s1 else putF CLK_ALARM_CFG_ERR 1 s1
  let s3 := if ns = 0 then putF CLK_ALARM_CFG_ERR 1 s2 else putF CLK_DPLL_CTL_LOCK_NS ns s2
  setSteer (bits v 4 1 == 1) s3

/-- CLK.DPLL. -/
def fwClkDpll (r : FwReq) (s : State) : FwM := do
  r.len 1
  clockOwner s r
  need (1 ≤ r.f 0 6 7 && r.f 0 6 7 ≤ 100 && r.f 0 17 15 != 0) (errAt eRange 0)
  quotaFor s r 15 0
  return (refreshClk (writeDpll (r.w 0) (acquire r 15 0 s)), [])

/-- CLK.FREQ (R252). -/
def fwClkFreq (r : FwReq) (s : State) : FwM := do
  r.len 1
  clockOwner s r
  need ((toS 32 (r.w 0)).natAbs ≤ 219902325) (errAt eRange 0)
  need (flag s CLK_STAT_STEER) (err eState)
  quotaFor s r 15 0
  return (writeFreq (r.w 0) (acquire r 15 0 s), [])

/-- CLK.STEP (R253, R258). -/
def fwClkStep (r : FwReq) (s : State) : FwM := do
  r.len 1
  clockOwner s r
  r.only [(0, mask 19 0)]
  need ((toS 16 (getF s CLK_PSTEP_STEP) + toS 16 (r.w 0)).natAbs ≤ 32767) (errAt eRange 0)
  quotaFor s r 15 0
  let s1 := phaseStep (r.w 0) (acquire r 15 0 s)
  return (s1, [ofS 32 (toS 16 (getF s1 CLK_PSTEP_STEP))])

/-- CLK.QUALITY. -/
def fwClkQuality (r : FwReq) (s : State) : FwM := do
  r.len 4
  clockOwner s r
  r.only [(1, mask 7 0), (2, mask 3 0), (3, mask 27 0 + mask 31 31)]
  need ((toS 32 (r.w 0)).natAbs ≤ 100000) (errAt eRange 0)
  quotaFor s r 15 0
  let s1 := putFs [(CLK_XO_TRIM_TRIM, r.w 0), (CLK_AES11_QL_G1_QL, r.f 1 0 4), (CLK_AES11_QL_G2_QL, r.f 1 4 4)] (acquire r 15 0 s)
  let e := r.f 2 0 3
  let s2 := if r.f 2 3 1 = 1 then putFs [(CLK_PTPQ_CLASS_MIN e, r.f 3 0 8), (CLK_PTPQ_CLASS_MAX e, r.f 3 8 8),
    (CLK_PTPQ_ACC_MAX e, r.f 3 16 8), (CLK_PTPQ_QL e, r.f 3 24 4), (CLK_PTPQ_VALID e, r.f 3 31 1)] s1 else s1
  return (refreshClk (setRatioRegs s2), [])

/-- CLK.OUTPUT (R259 to R261). -/
def fwClkOutput (r : FwReq) (s : State) : FwM := do
  r.len 10
  need (hasAmp s || (r.f 0 6 8 == 0 && r.w 8 == 0 && r.w 9 == 0)) (err eAbsent)
  clockOwner s r
  r.only [(0, mask 13 0), (2, mask 3 0), (3, mask 3 0), (4, mask 3 0), (5, mask 3 0), (6, mask 6 0 + mask 31 8),
    (7, mask 6 0 + mask 31 8), (8, mask 2 0), (9, 1)]
  need (r.w 1 == not32 (r.w 0)) (errAt ePairword 1)
  need ([2, 3, 4, 5].all (fun k => r.f k 2 2 != 3)) (err eRange)
  need ([6, 7].all (fun k => r.f k 1 2 != 3 && r.f k 3 3 ≤ 4
    && (toS 24 (r.f k 8 24)).natAbs < 24576 / 2 ^ min (r.f k 1 2) 2)) (err eRange)
  quotaFor s r 15 0
  let s1 := putFs [(CLK_OEN_MCLKO, r.f 0 0 4), (CLK_OEN_WCO, r.f 0 4 2), (CLK_OEN_SDMCLK, r.f 0 6 8), (CLK_SDM_CFG_DIV, r.f 8 0 2),
    (CLK_SDM_CFG_EN, r.f 8 2 1), (CLK_CAR_CFG_X16, r.w 9)] (acquire r 15 0 s)
  let s2 := (List.range 4).foldl (fun s k => putFs [(CLK_MCLK_CFG_EN k, r.f (2 + k) 0 1), (CLK_MCLK_CFG_MULT k, r.f (2 + k) 1 1),
    (CLK_MCLK_CFG_K k, r.f (2 + k) 2 2)] s) s1
  let s3 := (List.range 2).foldl (fun s k =>
    let s1 := putFs [(CLK_WCO_CFG_EN k, r.f (6 + k) 0 1), (CLK_WCO_CFG_K k, r.f (6 + k) 1 2), (CLK_WCO_CFG_ALIGN_SRC k, r.f (6 + k) 3 3),
      (CLK_WCO_CFG_TRACK k, r.f (6 + k) 6 1), (CLK_WCO_CFG_OFFSET k, r.f (6 + k) 8 24)] s
    if r.f (6 + k) 0 1 = 1 ∧ r.f (6 + k) 3 3 = 0 then alignWco k 0 s1 else s1) s2
  return ({ s3 with oenDark := s3.oenDark.filter (· != CLK_OEN_MCLKO.addr) }, [])

/-- CLK.STATUS. -/
def fwClkStatus (r : FwReq) (s : State) : FwM := do
  r.len 1
  r.only [(0, 7)]
  let k := r.f 0 0 3
  return (s, [CLK_STAT_STATE, CLK_ALARM_SWITCH, CLK_PHASE_ERR_ERR, CLK_BUILDOUT_B, CLK_HOLDOVER_HO_FREQ, CLK_REF_STAT_STATE k,
    CLK_REF_FREQ_OFFSET k, CLK_SYN_STAT_LOCK].map (fun f => regWordRaw s f.addr))

/-- CLK_REF. -/
def execClkRef (r : FwReq) (s : State) : Host.Outcome State Fault Refusal := fwRow 0x0A00 r fwClkRef s
/-- CLK_SELECT. -/
def execClkSelect (r : FwReq) (s : State) : Host.Outcome State Fault Refusal := fwRow 0x0A01 r fwClkSelect s
/-- CLK_DPLL. -/
def execClkDpll (r : FwReq) (s : State) : Host.Outcome State Fault Refusal := fwRow 0x0A02 r fwClkDpll s
/-- CLK_FREQ. -/
def execClkFreq (r : FwReq) (s : State) : Host.Outcome State Fault Refusal := fwRow 0x0A03 r fwClkFreq s
/-- CLK_STEP. -/
def execClkStep (r : FwReq) (s : State) : Host.Outcome State Fault Refusal := fwRow 0x0A04 r fwClkStep s
/-- CLK_QUALITY. -/
def execClkQuality (r : FwReq) (s : State) : Host.Outcome State Fault Refusal := fwRow 0x0A05 r fwClkQuality s
/-- CLK_OUTPUT. -/
def execClkOutput (r : FwReq) (s : State) : Host.Outcome State Fault Refusal := fwRow 0x0A06 r fwClkOutput s
/-- CLK_STATUS. -/
def execClkStatus (r : FwReq) (s : State) : Host.Outcome State Fault Refusal := fwRow 0x0A07 r fwClkStatus s

end Sys2Proof.Machine
end

