-- ==== Sys2Proof/Machine/Stream.lean ====
section
/-! DEFINITION. The stream engine (R201 to R219). -/

namespace Sys2Proof.Machine

/-! ## Tables -/

/-- The words of a table entry (R219). -/
def clsEntry (s : State) (i : Nat) : List Nat := s.str.cls.get i [0, 0, 0]
/-- A receive stream's words. -/
def rxEntry (s : State) (i : Nat) : List Nat := s.str.rx.get i [0, 0, 0, 0, 0, 0]
/-- A transmit stream's words. -/
def txEntry (s : State) (i : Nat) : List Nat := s.str.tx.get i [0, 0, 0, 0, 0, 0, 0, 0]
/-- Bits of a word of an entry. -/
def ef (e : List Nat) (w lo n : Nat) : Nat := bits (e.getD w 0) lo n

/-- A receive stream's state. -/
def rxStr (s : State) (i : Nat) : RxStr := s.str.rxSt.get i RxStr.init
/-- It changed. -/
def updRx (i : Nat) (f : RxStr → RxStr) (s : State) : State :=
  { s with str := { s.str with rxSt := s.str.rxSt.set i (f (rxStr s i)) RxStr.init } }
/-- A transmit stream's state. -/
def txStr (s : State) (i : Nat) : TxStr := s.str.txSt.get i TxStr.init
/-- It changed. -/
def updTx (i : Nat) (f : TxStr → TxStr) (s : State) : State :=
  { s with str := { s.str with txSt := s.str.txSt.set i (f (txStr s i)) TxStr.init } }

/-- Bytes per sample of a FORMAT (R201). -/
def sampleBytes (fmt : Nat) : Nat := [2, 3, 4, 4].getD fmt 4
/-- Samples per packet of a PTIME (R202); 0 for a reserved code. -/
def packetLen (s : State) (ptime : Nat) : Nat := [3, 6, 12, 16, 48].getD ptime 0 * rmOf s

/-- A classifier entry in force (R215). -/
def clsInForce (s : State) (i : Nat) : List Nat := (if running s then s.str.clsLive else s.str.cls).get i [0, 0, 0]
/-- A receive channel-map entry in force. -/
def rxMapInForce (s : State) (i : Nat) : Nat := (if running s then s.str.rxMapLive else s.str.rxMap).get i 0
/-- A transmit channel-map entry in force. -/
def txMapInForce (s : State) (i : Nat) : Nat := (if running s then s.str.txMapLive else s.str.txMap).get i 0

/-- The CI of the unit itself: the media timeline, which a replay frame runs ahead of the course computed (R305). -/
def localCi (s : State) : Nat := if s.pins.pairEn && s.pair.replay then s.fab.ci + s.pair.lag else s.fab.ci

/-- An event of the stream engine: the firmware takes it at once where it runs, else the queue of 32 holds it.
(DESIGN CHOICE log 59, 125) -/
def strEvent (i : Nat) (tx : Bool) (kind : Nat) (s : State) : State :=
  let w0 := i + 1024 * b2n tx
  let obj := if tx then 10 else 9
  if fwUp s then
    match kind with
    | 0 => raiseOwner obj i 0x0040 [w0, (rxStr s i).miss] s
    | 1 => raiseOwner obj i 0x0041 [w0] s
    | 2 => raiseOwner obj i 0x0042 [w0, ef (rxEntry s i) 5 0 32] s
    | k => raiseOwner obj i 0x0043 [i + 65536 * ((k - 3) / 2) + 131072 * (1 - (k - 3) % 2)] s
  else if s.str.evq.length < 32 then
    { s with str := { s.str with evq := s.str.evq ++ [(i, b2n tx, kind, s.fab.ci % 65536)] } }
  else putF STR_STAT_EVQ_OVF 1 s

/-- A receive counter advanced (R219): holds at its maximum. -/
def rxCount (i k : Nat) (s : State) : State :=
  updRx i (fun t => { t with cnt := t.cnt.set k (min (t.cnt.getD k 0 + 1) 4294967295) }) s

/-! ## The classifier (R205) -/

/-- An IPv4 header without options and the rest of a UDP frame: source, destination, destination port, fragmented. -/
def udpOf (b : List Nat) : Option (Nat × Nat × Nat) :=
  if etherType b = 0x0800 ∧ be b 14 1 = 0x45 ∧ be b 20 2 % 16384 = 0 ∧ be b 23 1 = 17 ∧ 42 ≤ b.length then
    some (be b 26 4, be b 30 4, be b 36 2)
  else none

/-- Whether an entry matches a frame. -/
def clsMatch (e : List Nat) (m src dst port : Nat) : Bool :=
  ef e 1 20 1 == 1 && ef e 1 16 2 == m && ef e 0 0 32 == dst && ef e 1 0 16 == port && (ef e 1 18 1 == 0 || ef e 2 0 32 == src)

/-- The entry that a frame on a MAC matches: one with SRC_EN first, then the lowest. -/
def classifyFrame (s : State) (m : Nat) (b : List Nat) : Option (List Nat) :=
  match udpOf b with
  | none => none
  | some (src, dst, port) =>
    let hits := ((if running s then s.str.clsLive else s.str.cls).map Prod.snd).filter (fun e => clsMatch e m src dst port)
    match hits.find? (fun e => ef e 1 18 1 == 1) with
    | some e => some e
    | none => hits.head?

/-! ## Receive (R206 to R212) -/

/-- Lines of a playout entry. -/
def entryLines (ch : Nat) : Nat := (ch + 8) / 8

/-- The word address of the playout entry of a course. -/
def entryAddr (e : List Nat) (course : Nat) : Nat :=
  ef e 3 0 24 + course % 2 ^ (ef e 3 24 4 + 6) * entryLines (ef e 0 6 7) * 8

/-- A sample of a payload by format, as a slot word. -/
def payloadSample (fmt : Nat) (b : List Nat) : Nat :=
  match fmt with
  | 0 => alignWord 16 (ofBeBytes b)
  | 1 => alignWord 24 (ofBeBytes b)
  | 2 => ofBeBytes b
  | _ => alignWord 24 (ofBeBytes (b.drop 1))

/-- The payload after the RTP header, and its header words: payload type and timestamp; none for a bad header. -/
def rtpOf (u : List Nat) : Option (Nat × Nat × List Nat) :=
  let x := bitOf (be u 0 1) 4
  let ext := if x then 4 + 4 * be u 14 2 else 0
  if u.length < 12 ∨ be u 0 1 / 64 ≠ 2 ∨ bitOf (be u 0 1) 5 ∨ be u 0 1 % 16 ≠ 0 ∨ u.length < 12 + ext ∨ (x ∧ u.length < 16) then none
  else some (be u 1 1 % 128, be u 4 4, u.drop (12 + ext))

/-- One sample set placed into its course's entry; a copy for a course already filled is a DUP of a merged stream. -/
def placeSet (i course : Nat) (e : List Nat) (vals : List Nat) (s : State) : State :=
  let a := entryAddr e course
  if ef e 0 14 1 = 1 ∧ ashPeek s a = course % 4294967296 then rxCount i 4 s
  else putAshWords a (course % 4294967296 :: vals) s

/-- The sample sets of a payload, oldest first. -/
def sampleSets (fmt ch : Nat) : Nat → List Nat → List (List Nat)
  | 0, _ => []
  | n + 1, b =>
    let k := sampleBytes fmt
    (List.range ch).map (fun c => payloadSample fmt ((b.drop (c * k)).take k)) :: sampleSets fmt ch n (b.drop (ch * k))

/-- Sample sets placed from a course on. -/
def placeSets (i course : Nat) (e : List Nat) : List (List Nat) → State → State
  | [], s => s
  | v :: vs, s => placeSets i (course + 1) e vs (placeSet i course e v s)

/-- The lead of a packet (R207, R208). -/
def leadOf' (s : State) (e : List Nat) (ts : Nat) : Int :=
  toS 32 (ts + 4294967296 - ef e 2 0 32 + ef e 5 0 32 + (4294967296 - localCi s % 4294967296))
    + (packetLen s (ef e 0 3 3) : Int) + (ef e 1 0 16 : Int)

/-- A leg that delivered: its run restarts and its mark clears with an event (R212). -/
def legBack (i leg : Nat) (s : State) : State :=
  let t := rxStr s i
  if leg = 0 then
    let s1 := updRx i (fun t => { t with run0 := 0, lost0 := false }) s
    if t.lost0 then strEvent i false 4 s1 else s1
  else
    let s1 := updRx i (fun t => { t with run1 := 0, lost1 := false }) s
    if t.lost1 then strEvent i false 6 s1 else s1

/-- A packet accepted with a lead (R207 to R209). -/
def acceptPacket (i leg ts lead : Nat) (e : List Nat) (body : List Nat) (s : State) : State :=
  let sets := sampleSets (ef e 0 1 2) (ef e 0 6 7) (packetLen s (ef e 0 3 3)) body
  let s1 := placeSets i (localCi s + lead) e sets s
  legBack i leg (rxCount i 0 (updRx i (fun t => { t with
    lastTs := ts, leadLast := lead, leadMin := some (min lead (t.leadMin.getD lead)), oow := 0 }) s1))

/-- The acceptance window, with the rebase at the eighth packet out of it (R208, R211). -/
def judgePacket (i leg ts : Nat) (body : List Nat) (s : State) : State :=
  let e := rxEntry s i
  let a := leadOf' s e ts
  let lo := ef e 1 0 16
  if 2 ≤ a ∧ a ≤ ((lo + ef e 1 16 16 : Nat) : Int) then acceptPacket i leg ts a.toNat e body s
  else
    let n := (rxStr s i).oow + 1
    if ef e 0 13 1 = 1 ∧ n = 8 then
      let e' := e.set 5 (ofS 32 ((ef e 5 0 32 : Int) + (lo : Int) - a))
      let s1 := strEvent i false 2 (rxCount i 6 { s with str := { s.str with rx := s.str.rx.put i e' } })
      let a' := leadOf' s1 e' ts
      if 2 ≤ a' then acceptPacket i leg ts a'.toNat e' body s1
      else updRx i (fun t => { t with oow := 0 }) (rxCount i 1 s1)
    else updRx i (fun t => { t with oow := if ef e 0 13 1 = 1 then n else 0 }) (rxCount i (if a < 2 then 1 else 2) s)

/-- The checks of R206 on a matched frame (tag stripped). -/
def strFrame (cls b : List Nat) (s : State) : State :=
  let i := ef cls 1 21 10
  let e := rxEntry s i
  if i < nRxs s ∧ (rxStr s i).active then
    if ipSum ((b.drop 14).take 20) 0 ≠ 65535 then bump STR_CNT_IP_HDR_ERR 1 s
    else match rtpOf (((b.drop 42)).take (be b 38 2 - 8)) with
      | none => rxCount i 5 s
      | some (pt, ts, body) =>
        if (ef e 0 15 1 = 1 ∧ pt ≠ ef e 4 0 7)
            ∨ body.length ≠ ef e 0 6 7 * sampleBytes (ef e 0 1 2) * packetLen s (ef e 0 3 3) then rxCount i 5 s
        else judgePacket i (ef cls 1 19 1) ts body s
  else s

/-! ## Presentation (R209, R210) -/

/-- Ashlar words that a scheduled requester reads. -/
def ashWordsSched (req w : Nat) : Nat → State → List Nat × State
  | 0, s => ([], s)
  | n + 1, s =>
    let r := ashReadSched req w s
    let t := ashWordsSched req (w + 1) n r.2.2
    (r.1 :: t.1, t.2)

/-- The stream's samples for the course that begins: its entry when the tag is the course's, else zeros and a missed
course. -/
def presentRx (i : Nat) (s : State) : State :=
  let e := rxEntry s i
  let c := localCi s
  let ch := ef e 0 6 7
  let p := packetLen s (ef e 0 3 3)
  let r := ashWordsSched 0x20 (entryAddr e c) (ch + 1) s
  if r.1.head? = some (c % 4294967296) then
    let s1 := updRx i (fun t => { t with cur := r.1.drop 1, silent := false, run0 := t.run0 + 1, run1 := t.run1 + 1 }) r.2
    let s2 := if (rxStr s i).silent then strEvent i false 1 s1 else s1
    updRx i (fun t => { t with miss := 0 }) s2
  else
    let s1 := rxCount i 3 (updRx i (fun t => { t with
      cur := [], miss := min (t.miss + 1) 65535, run0 := t.run0 + 1, run1 := t.run1 + 1 }) r.2)
    if (rxStr s1 i).miss = 8 * p ∧ !(rxStr s1 i).silent then strEvent i false 0 (updRx i (fun t => { t with silent := true }) s1)
    else s1

/-- LEGn_LOST of a merged stream that is not SILENT (R212). -/
def legLoss (i : Nat) (s : State) : State :=
  let e := rxEntry s i
  let t := rxStr s i
  let lim := 8 * packetLen s (ef e 0 3 3)
  if ef e 0 14 1 = 0 ∨ t.silent then s
  else
    let s1 := if lim ≤ t.run0 ∧ !t.lost0 then strEvent i false 3 (updRx i (fun t => { t with lost0 := true }) s) else s
    if lim ≤ t.run1 ∧ !t.lost1 then strEvent i false 5 (updRx i (fun t => { t with lost1 := true }) s1) else s1

/-- The bound channels of an active receive stream: slot, channel, enabled. -/
def rxBindings (s : State) (i : Nat) : List (Nat × Nat × Bool) :=
  let e := rxEntry s i
  (List.range (ef e 0 6 7)).map (fun c =>
    let m := rxMapInForce s (ef e 0 16 11 + c)
    (bits m 0 13, c, bitOf m 15))

/-- A line that the stream engine writes: enabled channels of streams in ascending order, zeros elsewhere. -/
def strLine (s : State) (line : Nat) : List Nat :=
  let m := s.str.rxSt.foldl (fun (m : AMap Nat) p =>
    if p.2.active then
      (rxBindings s p.1).foldl (fun m b =>
        if b.1 / 8 = line ∧ b.2.2 ∧ (m.find (b.1 % 8)).isNone then m.put (b.1 % 8) (p.2.cur.getD b.2.1 0) else m) m
    else m) ([] : AMap Nat)
  (List.range 8).map (fun k => m.get k 0)

/-- A line written at a grant of the stream engine. -/
def strWriteLine (line c : Nat) (s : State) : State := engineSlotWrite 0x20 line 255 (strLine s line) c s

/-! ## Transmit (R213, R214) -/

/-- The bound channels of a transmit stream. -/
def txBindings (s : State) (i : Nat) : List (Nat × Nat × Bool) :=
  let e := txEntry s i
  (List.range (ef e 0 6 7)).map (fun c =>
    let m := txMapInForce s (ef e 0 16 11 + c)
    (bits m 0 13, c, bitOf m 15))

/-- A line read at a grant: its samples go to the channels that bind it. -/
def strReadLine (line c : Nat) (s : State) : State :=
  let r := outWords 0x20 line c s
  (s.str.txSt.filter (fun p => p.2.active)).foldl (fun s p =>
    (txBindings s p.1).foldl (fun s b =>
      if b.1 / 8 = line ∧ b.2.2 then updTx p.1 (fun t => { t with cur := t.cur.put b.2.1 (r.1.getD (b.1 % 8) 0) }) s else s) s) r.2

/-- The lines that the stream engine must transfer in a course: input, output. -/
def strLines (s : State) : List Nat × List Nat :=
  (((s.str.rxSt.filter (fun p => p.2.active)).flatMap (fun p => (rxBindings s p.1).map (fun b => b.1 / 8))).eraseDups,
   ((s.str.txSt.filter (fun p => p.2.active)).flatMap (fun p =>
     ((txBindings s p.1).filter (fun b => b.2.2)).map (fun b => b.1 / 8))).eraseDups)

/-- Even parity over a byte's bits. -/
def oddOnes (v : Nat) : Bool := (bitsSet v 32).length % 2 == 1

/-- A sample as payload bytes; AM824 with its label (R201): B in the frame of a stamped course that is a multiple of 192,
P even over label and data. (PRESUMED log 67) -/
def sampleBytesOf (fmt stamped v : Nat) : List Nat :=
  match fmt with
  | 0 => beBytes (outWord 16 v) 2
  | 1 => beBytes (outWord 24 v) 3
  | 2 => beBytes v 4
  | _ =>
    let d := outWord 24 v
    let lbl := if stamped % 192 = 0 then 32 else 0
    (lbl + if oddOnes (d + lbl * 16777216) then 8 else 0) :: beBytes d 3

/-- The payload of a packet whose first stamped course is t. (PRESUMED log 67) -/
def payloadOf (fmt t : Nat) : List (List Nat) → List Nat
  | [] => []
  | v :: vs => v.flatMap (sampleBytesOf fmt t) ++ payloadOf fmt (t + 1) vs

/-- The frame of a packet (R214), up to the FCS. -/
def strPacket (s : State) (e : List Nat) (t : Nat) (sets : List (List Nat)) : List Nat :=
  let m := ef e 0 13 2
  let body := payloadOf (ef e 0 1 2) t sets
  let p := packetLen s (ef e 0 3 3)
  let rtp := [0x80, ef e 4 22 7] ++ beBytes (ef e 6 0 16 + t / max p 1) 2 ++ beBytes (t + ef e 7 0 32) 4 ++ beBytes (ef e 5 0 32) 4
  let udp := beBytes (ef e 2 16 16) 2 ++ beBytes (ef e 2 0 16) 2 ++ beBytes (8 + 12 + body.length) 2 ++ [0, 0]
  let h := fun (ck : Nat) => [0x45, 4 * ef e 4 16 6] ++ beBytes (40 + body.length) 2 ++ [0, 0, 0x40, 0]
    ++ [getF s (STR_IPCFG_TTL m), 17] ++ beBytes ck 2 ++ beBytes (getF s (STR_IP_SRC_IP m)) 4 ++ beBytes (ef e 1 0 32) 4
  let ip := h (ipChecksum (h 0))
  let src := getF s (MAC_AF_LO_ADDR_LO m 0) + 4294967296 * getF s (MAC_AF_HI_ADDR_HI m 0)
  let dst := ef e 3 0 32 + 4294967296 * ef e 4 0 16
  let b := beBytes dst 6 ++ beBytes src 6 ++ [0x08, 0x00] ++ ip ++ udp ++ rtp ++ body
  if ef e 0 27 1 = 1 then putTag (ef e 6 16 16) b else b

/-- A packet sent, shadowed or discarded (R213, R214, R218). -/
def sendPacket (i t : Nat) (sets : List (List Nat)) (s : State) : State :=
  let e := txEntry s i
  if flag s PAIR_STAT_CLAIM || ef e 0 15 1 == 1 then
    let r := macTake (ef e 0 13 2) i (strPacket s e t sets) s
    updTx i (fun x => { x with
      sending := r.1,
      pkt := if r.1 then min (x.pkt + 1) 4294967295 else x.pkt,
      drop := if r.1 then x.drop else min (x.drop + 1) 4294967295 }) r.2
  else updTx i (fun x => { x with sending := false }) s

/-- The stamped course that has ended taken into the packet of a stream; a packet begins at t mod P = 0, and is handed to
its MAC when P courses are full. -/
def txCourse (i t : Nat) (s : State) : State :=
  let x := txStr s i
  let e := txEntry s i
  let p := packetLen s (ef e 0 3 3)
  let set := (List.range (ef e 0 6 7)).map (fun c => if audible s then x.cur.get c 0 else 0)
  let acc := if t % max p 1 = 0 then [set] else if x.acc.isEmpty then [] else x.acc ++ [set]
  if acc.length = p ∧ 0 < p then sendPacket i (t + 1 - p) acc (updTx i (fun x => { x with acc := [], cur := [] }) s)
  else updTx i (fun x => { x with acc := acc, cur := [] }) s

/-! ## At the boundary (R215, R216) -/

/-- Packets of the course that ended, in ascending stream order; the local CI has not advanced yet. -/
def strEnd (s : State) : State :=
  (s.str.txSt.filter (fun p => p.2.active)).foldl (fun s p => txCourse p.1 (localCi s) s) s

/-- Enables, classifier and maps come into force; streams that stop fall silent (R216). -/
def strSettings (s : State) : State :=
  let on := fun (e : List Nat) => ef e 0 0 1 == 1 && ef e 0 3 3 < 5
  let s1 := { s with str := { s.str with clsLive := s.str.cls, rxMapLive := s.str.rxMap, txMapLive := s.str.txMap } }
  let s2 := s1.str.rx.foldl (fun s p =>
    let t := rxStr s p.1
    if on p.2 = t.active then s
    else updRx p.1 (fun t => { t with active := on p.2, cur := [], miss := 0, silent := false, lost0 := false, lost1 := false, run0 := 0, run1 := 0, oow := 0 }) s) s1
  s2.str.tx.foldl (fun s p =>
    let t := txStr s p.1
    if on p.2 = t.active then s else updTx p.1 (fun t => { t with active := on p.2, sending := false, acc := [], cur := [] }) s) s2

/-- Every active receive stream presents its course, the CI having advanced. -/
def strPresent (s : State) : State :=
  (s.str.rxSt.filter (fun p => p.2.active)).foldl (fun s p => legLoss p.1 (presentRx p.1 s)) s

/-- A change of a batch made in the store that the boundary copies from (R36 item 5): a register field, a channel-map
entry, a stream's EN. -/
def applyChange (c : BufChange) (s : State) : State :=
  match c with
  | .fld _ _ => applyFld c s
  | .chan tx _ ch v =>
    if tx then { s with str := { s.str with txMap := s.str.txMap.set ch v 0 } }
    else { s with str := { s.str with rxMap := s.str.rxMap.set ch v 0 } }
  | .strEn tx i en =>
    let put := fun (e : List Nat) => e.set 0 (e.getD 0 0 / 2 * 2 + b2n en)
    if tx then { s with str := { s.str with tx := s.str.tx.set i (put (txEntry s i)) [0, 0, 0, 0, 0, 0, 0, 0] } }
    else { s with str := { s.str with rx := s.str.rx.set i (put (rxEntry s i)) [0, 0, 0, 0, 0, 0] } }

/-! ## The table port (R219) -/

/-- Entries of a table. -/
def tableSize (s : State) (sel : Nat) : Nat :=
  match sel with
  | 0 => 1024
  | 1 => nRxs s
  | 2 => nRxs s
  | 3 => nRxs s
  | 5 => nTxs s
  | 6 => nTxs s
  | _ => 2048

/-- A word of a table entry. -/
def strRead (s : State) (sel i w : Nat) : Nat :=
  if tableSize s sel ≤ i then 0
  else match sel with
    | 0 => (clsEntry s i).getD w 0
    | 1 => (rxEntry s i).getD w 0
    | 2 =>
      let t := rxStr s i
      [b2n t.active + 2 * b2n t.silent + 4 * b2n t.lost0 + 8 * b2n t.lost1 + 65536 * t.miss, t.lastTs,
        t.leadLast % 65536 + 65536 * (t.leadMin.getD 0 % 65536)].getD w 0
    | 3 => (rxStr s i).cnt.getD w 0
    | 4 => if w = 0 then s.str.rxMap.get i 0 else 0
    | 5 => (txEntry s i).getD w 0
    | 6 => let t := txStr s i; [b2n t.active + 2 * b2n t.sending, t.pkt, t.drop].getD w 0
    | _ => if w = 0 then s.str.txMap.get i 0 else 0

/-- The words of a table with their reserved bits at 0. -/
def strMasked (sel : Nat) (ws : List Nat) : List Nat :=
  let m := match sel with
    | 0 => [0xFFFFFFFF, 0x7FFFFFFF, 0xFFFFFFFF]
    | 1 => [0x07FFFFFF, 0xFFFFFFFF, 0xFFFFFFFF, 0x0FFFFFFF, 0x7F, 0xFFFFFFFF]
    | 5 => [0x0FFFFFFF, 0xFFFFFFFF, 0xFFFFFFFF, 0xFFFFFFFF, 0x1FFFFFFF, 0xFFFFFFFF, 0xFFFFFFFF, 0xFFFFFFFF]
    | _ => [0x9FFF]
  (m.zip ws).map (fun p => p.1 &&& p.2)

/-- Whether a valid classifier entry other than one has the key of some words. -/
def clsTwin (s : State) (i : Nat) (e : List Nat) : Bool :=
  s.str.cls.any (fun p => p.1 != i && ef p.2 1 20 1 == 1 && ef e 1 20 1 == 1 && ef p.2 0 0 32 == ef e 0 0 32
    && ef p.2 1 0 19 == ef e 1 0 19 && (ef e 1 18 1 == 0 || ef p.2 2 0 32 == ef e 2 0 32))

/-- A stream entry written: of an enabled stream only EN may change; a reserved PTIME keeps it disabled (R202, R216). -/
def streamWrite (old new : List Nat) (put : State → State) (s : State) : State :=
  let bare := fun (e : List Nat) => e.set 0 (e.getD 0 0 / 2 * 2)
  if ef old 0 0 1 = 1 ∧ bare old ≠ bare new then putF STR_STAT_CFG_ERR 1 s
  else setIf STR_STAT_CFG_ERR (ef new 0 0 1 == 1 && 5 ≤ ef new 0 3 3) (put s)

/-- The eight words committed to an entry at the write of STR_DATA7; a change while the fabric is stopped is in force at
once. -/
def strWrite (sel i : Nat) (ws : List Nat) (s : State) : State :=
  let e := strMasked sel ws
  let s1 :=
    if tableSize s sel ≤ i then s
    else match sel with
      | 0 => setIf STR_STAT_CLS_CONFLICT (clsTwin s i e) { s with str := { s.str with cls := s.str.cls.set i e [0, 0, 0] } }
      | 1 => streamWrite (rxEntry s i) e (fun s => { s with str := { s.str with rx := s.str.rx.set i e [0, 0, 0, 0, 0, 0] } }) s
      | 4 => { s with str := { s.str with rxMap := s.str.rxMap.set i (e.getD 0 0) 0 } }
      | 5 => streamWrite (txEntry s i) e
          (fun s => { s with str := { s.str with tx := s.str.tx.set i e [0, 0, 0, 0, 0, 0, 0, 0] } }) s
      | 7 => { s with str := { s.str with txMap := s.str.txMap.set i (e.getD 0 0) 0 } }
      | _ => s
  if running s1 then s1 else strSettings s1

/-- A write of STR_DATA0 in SEL 3: the counters and LEAD_MIN of a stream cleared. -/
def strClear (i : Nat) (s : State) : State :=
  if i < nRxs s then updRx i (fun t => { t with cnt := [0, 0, 0, 0, 0, 0, 0], leadMin := none }) s else s

/-- STR_TABLE_WRITE (R219): STR_DATAn written; the write of STR_DATA7 commits, and of STR_DATA0 in SEL 3 clears. -/
def execStrTableWrite (n value : Nat) (s : State) : Host.Outcome State Fault Refusal :=
  if n < 8 then
    let s1 := putF (STR_DATA_DATA n) value s
    let sel := getF s STR_IDX_SEL
    let i := getF s STR_IDX_INDEX
    if sel = 3 then .next (if n = 0 then strClear i s1 else s1)
    else if n = 7 then .next (strWrite sel i ((List.range 8).map (fun k => getF s1 (STR_DATA_DATA k))) s1)
    else .next s1
  else .next s

/-! ## Latency terms (R207, R213) -/

/-- The input port term of the stream that binds a slot. (DESIGN CHOICE log 126) -/
def strInTerm (s : State) (slot : Nat) : Option Nat :=
  (s.str.rxSt.find? (fun p => p.2.active && (rxBindings s p.1).any (fun b => b.1 == slot))).map (fun p =>
    let e := rxEntry s p.1
    packetLen s (ef e 0 3 3) + ef e 1 0 16)

/-- The output port term of the stream that binds a slot. (DESIGN CHOICE log 126) -/
def strOutTerm (s : State) (slot : Nat) : Option Nat :=
  (s.str.txSt.find? (fun p => p.2.active && (txBindings s p.1).any (fun b => b.1 == slot))).map (fun p =>
    packetLen s (ef (txEntry s p.1) 0 3 3))

end Sys2Proof.Machine
end

