-- ==== Sys2Proof/Machine/FwStream.lean ====
section
/-! DEFINITION. The STREAM commands (R377). -/

namespace Sys2Proof.Machine

/-- The words of a stream entry in either direction. -/
def strEntry (s : State) (tx : Bool) (i : Nat) : List Nat := if tx then txEntry s i else rxEntry s i
/-- Whether a stream has been created. -/
def strExists (s : State) (tx : Bool) (i : Nat) : Bool := ef (strEntry s tx i) 0 6 7 != 0
/-- The object kind of a stream. -/
def strKind (tx : Bool) : Nat := if tx then 10 else 9
/-- Streams of the variant, and of the largest. -/
def strCounts (s : State) (tx : Bool) : Nat × Nat := if tx then (nTxs s, 512) else (nRxs s, 1024)

/-- The index that STREAM.RX and STREAM.TX name or, with ALLOC, the lowest without stream and owner. (DESIGN CHOICE log 65) -/
def strIndex (s : State) (r : FwReq) (tx : Bool) : Except FwErr Nat :=
  if r.f 0 31 1 = 1 then
    match (List.range (strCounts s tx).1).find? (fun i =>
        !strExists s tx i && (s.fw.owners.find (objKey (strKind tx) i)).isNone) with
    | some i => .ok i
    | none => .error (err eNospace)
  else do
    inVariant (r.f 0 0 10) (strCounts s tx).1 (strCounts s tx).2
    .ok (r.f 0 0 10)

/-- Samples per packet with the multiple of the running image, 1 while none runs. (DESIGN CHOICE log 65) -/
def fwPacketLen (s : State) (ptime : Nat) : Nat := [3, 6, 12, 16, 48].getD ptime 0 * max (rmOf s) 1

/-- The frame length of R203. -/
def strFrameLen (s : State) (fmt ptime ch : Nat) (tag : Bool) : Nat :=
  14 + 4 * b2n tag + 20 + 8 + 12 + ch * sampleBytes fmt * fwPacketLen s ptime + 4

/-- The lowest start at or above a bound where a span fits beside spans in use, below a limit. (DESIGN CHOICE log 65) -/
def fitSpan (used : List (Nat × Nat)) (lo hi size align : Nat) : Option Nat :=
  let up := fun x => (x + align - 1) / align * align
  let starts := up lo :: used.map (fun u => up (u.1 + u.2))
  let ok := starts.filter (fun a => lo ≤ a && a + size ≤ hi && used.all (fun u => a + size ≤ u.1 || u.1 + u.2 ≤ a))
  ok.foldl (fun m a => match m with | none => some a | some b => some (min a b)) none

/-- Map spans in use by other streams of a direction. -/
def mapSpans (s : State) (tx : Bool) (self : Nat) : List (Nat × Nat) :=
  ((if tx then s.str.tx else s.str.rx).filter (fun p => p.1 != self && ef p.2 0 6 7 != 0)).map
    (fun p => (ef p.2 0 16 11, ef p.2 0 6 7))

/-- Words of a playout buffer. -/
def bufferWords (depth ch : Nat) : Nat := 2 ^ (depth + 6) * entryLines ch * 8

/-- Buffers in use by other streams. -/
def bufferSpans (s : State) (self : Nat) : List (Nat × Nat) :=
  (s.str.rx.filter (fun p => p.1 != self && ef p.2 0 6 7 != 0)).map
    (fun p => (ef p.2 3 0 24, bufferWords (ef p.2 3 24 4) (ef p.2 0 6 7)))

/-- The lowest place for a buffer in the playout regions of the running image. (DESIGN CHOICE log 65) -/
def fitBuffer (s : State) (self size : Nat) : Option Nat :=
  match s.fab.img with
  | none => none
  | some i => (i.regions.filter (fun g => g.kind == 3)).findSome? (fun g => fitSpan (bufferSpans s self) g.first (g.last + 1) size 8)

/-- The classifier words of a leg from a request word on. -/
def legEntry (r : FwReq) (w i leg : Nat) : List Nat :=
  [r.w w, r.f (w + 1) 0 16 + 65536 * r.f (w + 1) 16 2 + 262144 * r.f (w + 1) 18 1 + 524288 * leg + 1048576 + 2097152 * i,
   if r.f (w + 1) 18 1 = 1 then r.w (w + 2) else 0]

/-- The key of a classifier entry. -/
def clsKey (e : List Nat) : Nat × Nat × Nat := (ef e 0 0 32, ef e 1 0 19, if ef e 1 18 1 = 1 then ef e 2 0 32 else 0)

/-- The table without the entries of a stream. -/
def clsWithout (s : State) (i : Nat) : AMap (List Nat) :=
  s.str.cls.filter (fun p => !(ef p.2 1 20 1 == 1 && ef p.2 1 21 10 == i))

/-- Entries put at the lowest free indexes. -/
def clsInsert (t : AMap (List Nat)) : List (List Nat) → Option (AMap (List Nat))
  | [] => some t
  | e :: es =>
    match (List.range 1024).find? (fun k => (t.find k).isNone || ef (t.get k []) 1 20 1 == 0) with
    | some k => clsInsert (t.put k e) es
    | none => none

/-- STREAM.RX. (DESIGN CHOICE log 66) -/
def fwStreamRx (r : FwReq) (s : State) : FwM := do
  r.len 10
  let i ← strIndex s r false
  let merge := r.f 1 13 1 == 1
  let legs := if merge then [4, 7] else [4]
  need (legs.all (fun w => r.f (w + 1) 16 2 < nMacs s)) (err eAbsent)
  audioSide s
  mayOwn s r 9 i
  r.only [(0, mask 9 0 + mask 31 31), (1, mask 25 0), (5, mask 18 0), (8, mask 18 0)]
  let fmt := r.f 1 0 2
  let pt := r.f 1 2 3
  let ch := r.f 1 5 7
  need (pt ≤ 4 && 1 ≤ ch && ch ≤ 64 && (r.f 1 22 4 ≤ 7 || r.f 1 22 4 == 15)) (errAt eRange 1)
  need (legs.all (fun w => strFrameLen s fmt pt ch true ≤ getF s (MAC_MAXLEN_RX_MAX (r.f (w + 1) 16 2)))) (errAt eRange 1)
  let old := rxEntry s i
  need (ef old 0 0 1 == 0) (err eState)
  need (merge || (r.w 7 == 0 && r.w 8 == 0 && r.w 9 == 0)) (errAt eState 7)
  let es := legs.map (fun w => legEntry r w i (b2n (w == 7)))
  let tab := clsWithout s i
  need ((es.map clsKey).eraseDups.length == es.length
    && !tab.any (fun p => ef p.2 1 20 1 == 1 && es.any (fun e => clsKey e == clsKey p.2))) (err eState)
  quotaFor s r 9 i
  let want := r.f 2 0 16 + r.f 2 16 16 + fwPacketLen s pt + 2
  let d := if r.f 1 22 4 = 15 then ((List.range 8).find? (fun d => want ≤ 2 ^ (d + 6))).getD 8 else r.f 1 22 4
  need (d ≤ 7 && want ≤ 2 ^ (d + 6)) (err eNospace)
  match clsInsert tab es, fitBuffer s i (bufferWords d ch), fitSpan (mapSpans s false i) 0 2048 ch 1 with
  | some tab, some buf, some map =>
    let e := [2 * fmt + 8 * pt + 64 * ch + 8192 * r.f 1 12 1 + 16384 * r.f 1 13 1 + 32768 * r.f 1 14 1 + 65536 * map,
      r.w 2, r.w 3, buf + 16777216 * d, r.f 1 15 7, 0]
    let s1 := acquire r 9 i { s with str := { s.str with cls := tab, rx := s.str.rx.put i e } }
    return (if running s1 then s1 else strSettings s1, [i, buf, d, map])
  | _, _, _ => .error (err eNospace)

/-- STREAM.TX. -/
def fwStreamTx (r : FwReq) (s : State) : FwM := do
  r.len 9
  let i ← strIndex s r true
  need (r.f 1 12 2 < nMacs s) (err eAbsent)
  audioSide s
  mayOwn s r 10 i
  r.only [(0, mask 9 0 + mask 31 31), (1, mask 28 0), (7, mask 15 0)]
  let fmt := r.f 1 0 2
  let pt := r.f 1 2 3
  let ch := r.f 1 5 7
  need (pt ≤ 4 && 1 ≤ ch && ch ≤ 64 && strFrameLen s fmt pt ch (r.f 1 15 1 == 1) ≤ 9600) (errAt eRange 1)
  need (ef (txEntry s i) 0 0 1 == 0) (err eState)
  quotaFor s r 10 i
  match fitSpan (mapSpans s true i) 0 2048 ch 1 with
  | some map =>
    let e := [2 * fmt + 8 * pt + 64 * ch + 8192 * r.f 1 12 2 + 32768 * r.f 1 14 1 + 65536 * map + 134217728 * r.f 1 15 1,
      r.w 2, r.w 3, r.w 4, r.f 5 0 16 + 65536 * r.f 1 23 6 + 4194304 * r.f 1 16 7, r.w 6, r.f 7 0 16 + 65536 * r.f 5 16 16, r.w 8]
    let s1 := acquire r 10 i { s with str := { s.str with tx := s.str.tx.put i e } }
    return (if running s1 then s1 else strSettings s1, [i, map])
  | none => .error (err eNospace)

/-- The checks that commands on a stream share: index, role, ownership, reserved bits, existence. -/
def strRef (s : State) (r : FwReq) (m : Nat) : Except FwErr Unit := do
  let tx := r.f 0 16 1 == 1
  let i := r.f 0 0 10
  inVariant i (strCounts s tx).1 (strCounts s tx).2
  audioSide s
  mayOwn s r (strKind tx) i
  r.only [(0, m)]

/-- STREAM.MAP (R215, R123). (DESIGN CHOICE log 66) -/
def fwStreamMap (r : FwReq) (s : State) : FwM := do
  let n := r.f 1 8 6
  r.len (4 + (n + 1) / 2)
  let tx := r.f 0 16 1 == 1
  let i := r.f 0 0 10
  strRef s r (mask 9 0 + 65536)
  r.only [(1, mask 5 0 + mask 13 8)]
  let hs := halvesAt' r 4 n
  need (hs.all (fun h => bits h 13 2 == 0)) (err eRange)
  if n = 0 then return (s, [0xFF, 0, 0])
  need (strExists s tx i) (err eState)
  let e := strEntry s tx i
  need (r.f 1 0 6 + n ≤ ef e 0 6 7) (errAt eRange 1)
  need (hs.all (fun h => !bitOf h 15 || (if tx then outBindOk s 0x20 (bits h 0 13) else inBindOk s 0x20 (bits h 0 13)))) (err eContract)
  quotaFor s r (strKind tx) i
  let first := ef e 0 16 11 + r.f 1 0 6
  let cs := ((List.range n).zip hs).map (fun p => BufChange.chan tx i (first + p.1) p.2)
  let now := fun (s : State) => let s1 := cs.foldl (fun s c => applyChange c s) s; if running s1 then s1 else strSettings s1
  let x ← optionalBatch s r (r.ci 2) cs now
  return (acquire r (strKind tx) i x.1, x.2)
where
  /-- Halfwords packed into words from a word on. -/
  halvesAt' (r : FwReq) (w n : Nat) : List Nat := (List.range n).map (fun k => r.f (w + k / 2) (16 * (k % 2)) 16)

/-- The ceilings of R204 with one more enabled stream. -/
def strRoom (s : State) (tx : Bool) (i : Nat) : Bool :=
  let on := (if tx then s.str.tx else s.str.rx).filter (fun p => p.1 != i && ef p.2 0 0 1 == 1)
  let ch := (on.map (fun p => ef p.2 0 6 7)).sum + ef (strEntry s tx i) 0 6 7
  on.length + 1 ≤ (strCounts s tx).1 && ch ≤ (if isSmall s then 1024 else 2048) / max (rmOf s) 1

/-- STREAM.ENABLE (R204, R216). -/
def fwStreamEnable (r : FwReq) (s : State) : FwM := do
  r.len 3
  let tx := r.f 0 16 1 == 1
  let en := r.f 0 17 1 == 1
  let i := r.f 0 0 10
  strRef s r (mask 9 0 + mask 17 16)
  need (strExists s tx i) (err eState)
  quotaFor s r (strKind tx) i
  need (!en || ef (strEntry s tx i) 0 0 1 == 1 || strRoom s tx i) (err eNospace)
  let c := BufChange.strEn tx i en
  let now := fun (s : State) => let s1 := applyChange c s; if running s1 then s1 else strSettings s1
  let x ← optionalBatch s r (r.ci 1) [c] now
  return (acquire r (strKind tx) i x.1, x.2)

/-- STREAM.DELETE: the object ceases with its stream. -/
def fwStreamDelete (r : FwReq) (s : State) : FwM := do
  r.len 1
  let tx := r.f 0 16 1 == 1
  let i := r.f 0 0 10
  strRef s r (mask 9 0 + 65536)
  let e := strEntry s tx i
  need (strExists s tx i && ef e 0 0 1 == 0 && !(if tx then (txStr s i).active else (rxStr s i).active)) (err eState)
  let clear := fun (m : AMap Nat) => m.filter (fun p => p.1 < ef e 0 16 11 || ef e 0 16 11 + ef e 0 6 7 ≤ p.1)
  let str := if tx then { s.str with tx := s.str.tx.erase i, txSt := s.str.txSt.erase i, txMap := clear s.str.txMap }
    else { s.str with rx := s.str.rx.erase i, rxSt := s.str.rxSt.erase i, rxMap := clear s.str.rxMap, cls := clsWithout s i }
  return (freeObj (strKind tx) i { s with str := str }, [])

/-- STREAM.STATUS. -/
def fwStreamStatus (r : FwReq) (s : State) : FwM := do
  r.len 1
  let tx := r.f 0 16 1 == 1
  let clear := r.f 0 18 1 == 1
  let i := r.f 0 0 10
  inVariant i (strCounts s tx).1 (strCounts s tx).2
  (if clear then audioSide s else .ok ())
  need (!clear || owns s r.seat (strKind tx) i) (err eOwned)
  r.only [(0, mask 9 0 + 65536 + 262144)]
  if tx then
    return (if clear then updTx i (fun t => { t with pkt := 0, drop := 0 }) s else s, (List.range 3).map (strRead s 6 i))
  return (if clear then strClear i s else s, (List.range 3).map (strRead s 2 i) ++ (List.range 7).map (strRead s 3 i))

/-- STREAM_RX. -/
def execStreamRx (r : FwReq) (s : State) : Host.Outcome State Fault Refusal := fwRow 0x0800 r fwStreamRx s
/-- STREAM_TX. -/
def execStreamTx (r : FwReq) (s : State) : Host.Outcome State Fault Refusal := fwRow 0x0801 r fwStreamTx s
/-- STREAM_MAP. -/
def execStreamMap (r : FwReq) (s : State) : Host.Outcome State Fault Refusal := fwRow 0x0802 r fwStreamMap s
/-- STREAM_ENABLE. -/
def execStreamEnable (r : FwReq) (s : State) : Host.Outcome State Fault Refusal := fwRow 0x0803 r fwStreamEnable s
/-- STREAM_DELETE. -/
def execStreamDelete (r : FwReq) (s : State) : Host.Outcome State Fault Refusal := fwRow 0x0804 r fwStreamDelete s
/-- STREAM_STATUS. -/
def execStreamStatus (r : FwReq) (s : State) : Host.Outcome State Fault Refusal := fwRow 0x0805 r fwStreamStatus s

end Sys2Proof.Machine
end

