-- ==== Sys2Proof/Machine/Load.lean ====
section
/-! DEFINITION. Moving an image into place: what a verified piece goes to (R130), the swap of a splice (R132), an image loaded
whole (R131, R133, R421), the start of the fabric (R26) and scheduler entries cancelled (R364). -/

namespace Sys2Proof.Machine

/-- Whether the fabric is stopped and no image runs, so that no record is a gap record (R130). -/
def noImage (s : State) : Bool := !running s && s.fab.startAt.isNone

/-! ## Shadow state -/

/-- The signal regions of an image in the shadow region tables (R73, R100). -/
def loadRegions (rs : List Region) (s : State) : State :=
  let ash := rs.filter (fun r => r.kind == 1 || r.kind == 3)
  let put := fun (lo hi v : Fld) (x : Option Region) (s : State) =>
    match x with
    | some r => putFs [(lo, r.first), (hi, r.last), (v, 1)] s
    | none => putFs [(lo, 0), (hi, 0), (v, 0)] s
  let s1 := (List.range 64).foldl (fun s k => put (ASH_RGN_LO_FIRST k) (ASH_RGN_HI_LAST k) (ASH_RGN_LO_VALID k) ash[k]? s) s
  (List.range (nTiles s)).foldl (fun s n =>
    let l := rs.filter (fun r => r.kind == 2 && r.tile == n)
    (List.range 8).foldl (fun s k => put (TILE_RGN_LO_FIRST n k) (TILE_RGN_HI_LAST n k) (TILE_RGN_LO_VALID n k) l[k]? s) s) s1

/-- The shadow region tables become live (R73, R100). -/
def liveRegions (s : State) : State :=
  let get := fun (lo hi v : Fld) => if flag s v && getF s lo ≤ getF s hi then some (getF s lo, getF s hi) else none
  let ash := (List.range 64).filterMap (fun k => get (ASH_RGN_LO_FIRST k) (ASH_RGN_HI_LAST k) (ASH_RGN_LO_VALID k))
  (List.range (nTiles s)).foldl (fun s n =>
    let l := (List.range 8).filterMap (fun k => get (TILE_RGN_LO_FIRST n k) (TILE_RGN_HI_LAST n k) (TILE_RGN_LO_VALID n k))
    updTile n (fun t => { t with rgn := l }) s) { s with ash := { s.ash with rgn := ash } }

/-- The programs of an image in shadow IMEM; beyond the last bundle zeros (06, 0x02). -/
def loadProgs (ps : AMap (List Nat)) (s : State) : State :=
  ps.foldl (fun s p => updTile p.1 (onShadow (flag s (TILE_STAT_ACT_HALF p.1)) (fun _ => progMem p.2)) s) s

/-- An initial-data record of a verified piece: applied unless it is a gap record (R130). -/
def stageInit (s : State) (x : InitRec) : State :=
  if isGap s x then s
  else if x.kind = 3 then
    (List.range x.count).foldl (fun s k =>
      fwAshWrites (x.addr + k) [if x.fill then x.words.getD 0 0 else x.words.getD k 0] s) s
  else applyInit x s

/-- One verified section moved to its place. (DESIGN CHOICE log 34, 120) -/
def placeSection (m : AMap Nat) (e : DirEnt) (s : State) : State :=
  let cal := s.fab.shadow
  let put := fun (c : Cal) => { s with fab := { s.fab with shadow := c } }
  match e.typ with
  | 0x02 => match parseProgs m (e.off + e.len) 33 e.off with | .ok p => loadProgs p s | .error _ => s
  | 0x03 => match parseInits m (e.off + e.len) (iw m ((mustSect m 0x01).off + 16)) e.len e.off with
    | .ok l => l.foldl stageInit s
    | .error _ => s
  | 0x04 => match parseBanks m e with | .ok p => put { cal with bank := p.1 } | .error _ => s
  | 0x05 => match parseSlots m e with | .ok p => put { cal with slotW := p.1, slotR := p.2 } | .error _ => s
  | 0x06 => match parseMap m e with | .ok p => put { cal with map := p } | .error _ => s
  | 0x0D => match parseRegions m e with | .ok p => loadRegions p s | .error _ => s
  | 0x0F => put { cal with routeStart := iw m e.off, routeCap := iw m (e.off + 4), dynStart := iw m (e.off + 8), dynCap := iw m (e.off + 12) }
  | _ => s

/-! ## Swaps -/

/-- The tiles of the variant. -/
def allTiles (s : State) : List Nat := List.range (nTiles s)

/-- What swaps at a splice and at every load (R132): IMEM halves, calendars, slot map, windows, region tables; the lend masks
clear; the incoming image is the active one. (DEDUCED log 44, DESIGN CHOICE log 102) -/
def swapImage (img : Img) (s : State) : State :=
  let s1 := (allTiles s).foldl (fun s n => putB (TILE_STAT_ACT_HALF n) (!flag s (TILE_STAT_ACT_HALF n)) s) s
  let clr := fun (s : State) (f : Fld) => { putF f 0 s with live := s.live.erase f.key }
  let s2 := (List.range 128).foldl (fun s b => clr (clr s (FAB_LEND_LO_LEND b)) (FAB_LEND_HI_LEND b)) s1
  putF FAB_IMG_ID_IMAGE_ID img.id (liveRegions
    { s2 with fab := { s2.fab with cal := s.fab.shadow, shadow := s.fab.cal, img := some img, staged := none, session := none, lastImg := some img } })

/-- The pages whose copy roles an incoming image keeps (R132): listed by both maps with the same copies.
(DESIGN CHOICE log 34) -/
def keptPages (old new : Img) (b : List Nat) : List Nat :=
  b.filter (fun p => new.pages.any (fun x => x.1 == p && old.pages.contains x))

/-- A splice at its boundary, item 3 (R132). Per-destination state is kept for destinations of both images.
(DESIGN CHOICE log 43, 102, 122) -/
def spliceSwap (img : Img) (s : State) : State :=
  let old := s.fab.img
  let s1 := swapImage img s
  let b := match old with | some o => keptPages o img s.fab.pageB | none => []
  let d := match old with | some o => min o.destSlots.length img.destSlots.length | none => 0
  let keep := if img.hasRoute then s1.rte.dst.filter (fun p => p.1 < d) else s1.rte.dst
  let s2 := (allTiles s1).foldl (fun s n => putF (TILE_STAT_SHADOW_LOCK n) 0 s) s1
  putFs [(FAB_STAT_IMG_STATE, 1), (FAB_STAT_SHADOW_LOCK, 0)]
    { s2 with fab := { s2.fab with pageB := b }, rte := { s2.rte with dst := keep } }

/-- The route and dynamics sets of a splice in the shadow halves, tagged with its entry (R132): destination records are
carried over for the destinations that both images have. -/
def loadSpliceSets (e : Nat) (img : Img) (s : State) : State :=
  let s1 := if img.hasRoute then
      let ents := (List.range img.routes.length).zip img.routes
      let sh := ents.foldl (fun (m : AMap PairWord) p => m.set p.1 (PairWord.mk' p.2) xpNone) []
      let d := min (nDests s) img.destSlots.length
      putFs [(RTE_SL_ROUTE_TAG, e), (RTE_SL_ROUTE_ARMED, 1)]
        { s with rte := { s.rte with shadow := sh, shRec := s.rte.actRec.filter (fun p => p.1 < d), held := [] } }
    else s
  if img.hasDyn then
    let m := ((List.range img.dyns.length).zip img.dyns).foldl (fun m p => putRec m p.1 p.2) []
    let all := ((m.map Prod.fst) ++ (s1.dyn.act.map Prod.fst)).eraseDups
    all.foldl (fun s i => putDynTag i (e + 64) s) { s1 with dyn := { s1.dyn with shadow := m } }
  else s1

/-- The slot plane with zeros in both halves (R39). -/
def clearPlane (s : State) : State := { s with plane := ⟨[], []⟩ }

/-- The sets of an image loaded whole, with the per-destination and per-instance state afresh (R421), copies A active.
(DESIGN CHOICE log 34) -/
def loadSets (img : Img) (s : State) : State :=
  let s1 := loadDyn img (loadRoute img s)
  { s1 with fab := { s1.fab with pageB := [] } }

/-- The tiles of an image put in a state. (DESIGN CHOICE log 41) -/
def setTiles (img : Img) (st : Nat) (s : State) : State :=
  (bitsSet img.tileMask 32).foldl (fun s n => if n < nTiles s then putF (TILE_STAT_STATE n) st s else s) s

/-- Every tile STOPPED, its fault record cleared. -/
def stopTiles (s : State) : State :=
  (allTiles s).foldl (fun s n => updTile n (fun t => { commitAll t with stopReq := false, accs := [], lands := [] })
    (clearFault n (putF (TILE_STAT_STATE n) 0 s))) s

/-- An image committed afresh (R387): its programs, initial data and sets loaded whole into a stopped fabric.
(DEDUCED log 44) -/
def recommit (img : Img) (s : State) : State :=
  let s1 := loadRegions img.regions (loadProgs img.progs (stopTiles { s with fab := { s.fab with shadow := img.cal } }))
  setTiles img 1 (loadSets img (swapImage img (img.inits.foldl (fun s x => applyInit x s) s1)))

/-! ## The start of the fabric (R25, R26) -/

/-- The first CI whose boundary lies at least a millisecond after a PTP time in units of 2^-32 ns. (DESIGN CHOICE log 13) -/
def anchorFor (t cpo fs : Nat) : Nat :=
  let u := 1000000000 * 4294967296
  ((t + 1000000 * 4294967296 - cpo * 4294967296) * fs + u - 1) / u

/-- Whether CPO lies below 1 / fs (R25). -/
def cpoFits (cpo fs : Nat) : Bool := cpo * fs < 1000000000

/-- FAB_CTL START (R26): a stopped fabric with an image and a locked synthesis PLL takes its anchor and will start there;
a CPO that does not fit the image's rate is cleared. (DESIGN CHOICE log 13) -/
def startFabric (s : State) : State :=
  match s.fab.img with
  | none => s
  | some img =>
    if running s || s.fab.startAt.isSome || !flag s CLK_SYN_STAT_LOCK || s.pwr.hotStop || getF s PWR_STAT_STATE != 0 then s
    else
      let fs := baseRate img.family * img.rm
      let bad := !cpoFits (getF s FAB_CPO_CPO_NS) fs
      let s1 := if bad then putFs [(FAB_CPO_CPO_NS, 0), (FAB_TL_STATUS_CPO_REJ, 1)] s else s
      let a := anchorFor (ptpUnits s1.ptp) (getF s1 FAB_CPO_CPO_NS) fs
      putFs [(FAB_CI_ANCHOR_LO_ANCHOR, lo32 a), (FAB_CI_ANCHOR_HI_ANCHOR, hi32 a)]
        { s1 with fab := { s1.fab with startAt := some a } }

/-- The IMG_STATE event (R384), with the anchor at a fabric start. -/
def imgEvent (anchor : Nat) (s : State) : State :=
  raiseAll 0x0010 [getF s FAB_STAT_IMG_STATE, getF s FAB_IMG_ID_IMAGE_ID, lo32 anchor, hi32 anchor] s

/-- IMG_STATE changed, with its event. -/
def setImgState (st : Nat) (s : State) : State :=
  if getF s FAB_STAT_IMG_STATE = st then s else imgEvent 0 (putF FAB_STAT_IMG_STATE st s)

/-! ## Entries cancelled (R364) -/

/-- An entry removed: the tags of a set clear, a splice unlocks the shadow areas. (DESIGN CHOICE log 31) -/
def dropEntry (i : Nat) (x : Sched) (s : State) : State :=
  let s1 := { s with fab := { s.fab with sched := s.fab.sched.erase i } }
  match x.kind with
  | 1 => untagSet x s1
  | 3 =>
    let s2 := (allTiles s1).foldl (fun s n => putF (TILE_STAT_SHADOW_LOCK n) 0 s) (putF FAB_STAT_SHADOW_LOCK 0 s1)
    let route := flag s2 RTE_SL_ROUTE_ARMED && getF s2 RTE_SL_ROUTE_TAG == i
    let insts := (s2.dyn.tags.filter (fun p => p.2 == i + 64)).map Prod.fst
    let s3 := untagSet { x with route := route, insts := insts } s2
    setImgState 1 { s3 with dyn := { s3.dyn with shadow := if insts.isEmpty then s3.dyn.shadow else s3.dyn.act } }
  | _ => s1

/-- An entry cancelled, its arming seat told. (DESIGN CHOICE log 31) -/
def cancelEntry (i status : Nat) (x : Sched) (s : State) : State := cancelledEvent i status x (dropEntry i x s)

end Sys2Proof.Machine
end

