-- ==== Sys2Proof/Machine/Pair.lean ====
section
/-! DEFINITION. The fail-over pair: the claim, the Soeri link, the per-course record and the pair engine (R287 to R304, R311
to R314, R138). -/

namespace Sys2Proof.Machine

/-! ## Eligibility and the claim (R289 to R293) -/

/-- Whether the running image carries both maps (R312). -/
def hasMaps (s : State) : Bool := match s.fab.img with | some i => i.hasCarried && i.hasDigest | none => false

/-- What R289 asks of the fabric and of the unit whatever its state: a committed image runs, the PLL is locked and does not
coast, no cause has arisen since the last FAB reset, no clash. (DEDUCED log 104) -/
def soundUnit (s : State) : Bool :=
  running s && s.fab.img.isSome && flag s CLK_SYN_STAT_LOCK && !flag s CLK_SYN_STAT_COAST && !s.pair.diag
    && !flag s PAIR_STAT_UNIT_CLASH

/-- Claim-eligible (R289). (DEDUCED log 104) -/
def eligible (s : State) : Bool :=
  s.pins.pairEn && soundUnit s && getF s PAIR_STAT_STATE != 1 && getF s PAIR_STAT_STATE != 9
    && (!([5, 6].contains (getF s PAIR_STAT_STATE)) || flagL s PAIR_CFG_ELIG_UNFIT)

/-- The state of a new claimant (R309): ACTIVE_LAGGED from the replay frame, ACTIVE from the direct frame. Its unreplayed
records are discarded. (DEDUCED log 104) -/
def becomeActive (s : State) : State :=
  setPairState (if s.pair.replay then 3 else 2)
    { s with pair := { s.pair with drivers := true, window := false, recs := [], waiting := [], muteIn := false } }

/-- The claim asserted (R290, R293): unit A drives after its guard; unit B first waits for its window. (DEDUCED log 104) -/
def takeClaim (s : State) : State :=
  watchLife (fun s =>
    let s1 := putF PAIR_STAT_CLAIM 1 s
    if s.pins.unitId then { s1 with pair := { s1.pair with window := true } } else becomeActive s1) s

/-- CLAIM_IN_FALL (R290): an eligible unit that finds CLAIM_IN low claims. -/
def execClaimInFall (s : State) : Host.Outcome State Fault Refusal :=
  let s1 := putF PAIR_STAT_CLAIM_IN 0 { s with pins := { s.pins with claimIn := false } }
  .next (if eligible s1 && !flag s1 PAIR_STAT_CLAIM then takeClaim s1 else s1)

/-- CLAIM_IN_RISE (R293): within B's window the claim is withdrawn; otherwise a claimant keeps it. -/
def execClaimInRise (s : State) : Host.Outcome State Fault Refusal :=
  let s1 := putF PAIR_STAT_CLAIM_IN 1 { s with pins := { s.pins with claimIn := true } }
  .next (if s1.pair.window then
      watchLife (fun s => putF PAIR_STAT_CLAIM 0 { s with pair := { s.pair with window := false } }) s1
    else s1)

/-- CLAIM_WINDOW_END (R293): B's 24 ns have passed and it enables its shared drivers. -/
def execClaimWindowEnd (s : State) : Host.Outcome State Fault Refusal :=
  .next (if s.pair.window then becomeActive s else s)

/-- CLAIM_CLOCK_STOP (R290): the fabric clock shows no edge for 50 ns. -/
def execClaimClockStop (s : State) : Host.Outcome State Fault Refusal := .next (selfDiag 0x0A s)

/-- A standby-only cause (R294, R312): latched; a hot standby becomes UNFIT and asks for a restate. -/
def standbyFault (code : Nat) (s : State) : State :=
  if getF s PAIR_STAT_STATE = 4 then
    setPairState 5 (putFs [(PAIR_CAUSE_CODE, code), (PAIR_CAUSE_CI16, s.fab.ci)] { s with pair := { s.pair with rsReq := true, rsCode := 0 } })
  else s

/-! ## The Soeri link (R296 to R299) -/

/-- The modes in order: lanes and rate code (R296). (DESIGN CHOICE log 81) -/
def linkModes : List (Nat × Nat) :=
  [(4, 0), (4, 1), (4, 2), (2, 0), (4, 3), (2, 1), (2, 2), (1, 0), (2, 3), (1, 1), (1, 2), (1, 3)]

/-- Whether offered lanes and rates hold a mode (R296). -/
def offers (most lanes rates : Nat) (m : Nat × Nat) : Bool :=
  m.1 ≤ most && (List.range m.1).all (bitOf lanes) && bitOf rates m.2

/-- Whether this unit offers a mode. -/
def offersOwn (s : State) (m : Nat × Nat) : Bool :=
  offers (nSoeri s) (getF s PAIR_LINK_CFG_LANE_EN) (getF s PAIR_LINK_CFG_RATE_EN) m

/-- Ten times the rate of a rate code in half Gb/s (R315). -/
def halfRate (r : Nat) : Nat := [320, 250, 200, 125].getD r 125

/-- The budget of a mode at a rate (R299). -/
def budgetOf (lanes rate fs : Nat) : Nat :=
  if fs = 0 then 0 else 9 * lanes * (halfRate rate * 50000000) * 64 / (10 * 66 * 8 * fs) / 1024 * 1024

/-- RECORD_BYTES of the running image. -/
def recordBytes (s : State) : Nat := match s.fab.img with | some i => i.recordBytes | none => 0

/-- PAIR_BUDGET and BELOW_BUDGET as they stand (R299). (DESIGN CHOICE log 116) -/
def setBudget (s : State) : State :=
  let b := if flag s PAIR_LINK_STAT_UP then budgetOf (getF s PAIR_LINK_STAT_LANES) (getF s PAIR_LINK_STAT_RATE) (fsOf s) else 0
  putFs [(PAIR_BUDGET_BUDGET, b), (PAIR_LINK_STAT_BELOW_BUDGET, b2n (running s && b < recordBytes s))] s

/-- The first mode offered from a place in the order. (DESIGN CHOICE log 81) -/
def nextMode (s : State) (k : Nat) : Option Nat :=
  (List.range 12).find? (fun i => k ≤ i && offersOwn s (linkModes.getD i (4, 0)))

/-- Training from a place in the order (R297); a pair whose modes are exhausted has no link. (DESIGN CHOICE log 81) -/
def trainFrom (k : Nat) (s : State) : State :=
  if !s.pins.pairEn then s
  else
    let s1 := putFs [(PAIR_LINK_STAT_UP, 0), (PAIR_LINK_STAT_LANES, 0)] s
    setBudget (match nextMode s k with
      | some i => putF PAIR_LINK_STAT_TRAINING 1 { s1 with pair := { s1.pair with train := i } }
      | none => putF PAIR_LINK_STAT_TRAINING 0 { s1 with pair := { s1.pair with train := 12 } })

/-- The identity of the partner checked (R293): equal straps clash. (DESIGN CHOICE log 115) -/
def checkUnit (unit : Nat) (s : State) : State := setIf PAIR_STAT_UNIT_CLASH (unit == getF s PAIR_STAT_UNIT) s

/-- The image this unit has staged and verified, or runs, reported to the partner over the control channel (R134, R307).
(DESIGN CHOICE log 84, 115) -/
def reportImage (s : State) : State :=
  match s.fab.staged.or s.fab.img with
  | some img =>
    if s.pins.pairEn && flag s PAIR_LINK_STAT_UP then emit .linkFrame ([2, img.id] ++ bytesToWords img.sha) s else s
  | none => s

/-- LINK_TRAINING (R297): the mode being tried has locked and passed; the identity words give the partner's UNIT_ID and the
lanes and rates it offers, the timed echo the delay (R298). The firmware then reports its image to the partner. -/
def execLinkTraining (unit lanes rates delay : Nat) (s : State) : Host.Outcome State Fault Refusal :=
  if flag s PAIR_LINK_STAT_TRAINING then
    let m := linkModes.getD s.pair.train (4, 0)
    let s1 := checkUnit unit s
    if offers (nSoeri s) lanes rates m then
      .next (reportImage (setBudget (putFs [(PAIR_LINK_STAT_TRAINING, 0), (PAIR_LINK_STAT_UP, 1), (PAIR_LINK_STAT_LANES, m.1),
        (PAIR_LINK_STAT_RATE, m.2), (PAIR_LINK_DELAY_DELAY, min delay 65535)] { s1 with pair := { s1.pair with down := 0 } })))
    else .next (trainFrom (s.pair.train + 1) s1)
  else .next s

/-- TRAINING_MODE_TIMEOUT (R297). -/
def execTrainingModeTimeout (s : State) : Host.Outcome State Fault Refusal :=
  if flag s PAIR_LINK_STAT_TRAINING then .next (trainFrom (s.pair.train + 1) s) else .next s

/-- LINK_FAULT (R297): training from the mode in force. -/
def execLinkFault (s : State) : Host.Outcome State Fault Refusal :=
  if flag s PAIR_LINK_STAT_UP then .next (trainFrom s.pair.train (bump PAIR_CNT_RETRAINS 1 s)) else .next s

/-- RETRAIN (R297): training from the top. (DESIGN CHOICE log 81) -/
def retrain (s : State) : State := trainFrom 0 s

/-- RETRAIN. -/
def execRetrain (s : State) : Host.Outcome State Fault Refusal := .next (retrain s)

/-- SKEW_TIMER (R298): the skew has been beyond SKEW_MAX for 100 ms. -/
def execSkewTimer (s : State) : Host.Outcome State Fault Refusal :=
  if s.pair.skewOver then .next (putF PAIR_STAT_SKEWED 1 s) else .next s

/-- PAIR_SKEW from a record's arrival (R298): 1/16 ns after the own boundary, less the link delay and the course cycle at
which it left. The last sixteenth is open. It is the phase event of REF7 (R236). (DESIGN CHOICE log 83) -/
def takeSkew (arrival : Int) (cycle : Nat) (s : State) : State :=
  let f := takeFree s
  let base := baseRate (getF s FAB_TL_STATUS_FAMILY)
  let at' : Int := (cycle * 16000000000 / (24576 * base) + (Config.freeWord f.1).toNat % 2 : Nat)
  let k := arrival - 16 * (getF s PAIR_LINK_DELAY_DELAY : Int) - at'
  let past := decide (16 * getL s PAIR_CFG_SKEW_MAX < k.natAbs)
  let s1 := putF PAIR_SKEW_SKEW (ofS 32 k) f.2
  let s2 := if past then { s1 with pair := { s1.pair with skewOver := true } }
    else putF PAIR_STAT_SKEWED 0 { s1 with pair := { s1.pair with skewOver := false } }
  if following s2 && getF s2 CLK_STAT_SELECTED == 7 then phaseEvent 7 (k * bUnit) s2 else s2

/-! ## Events of a record (R302) -/

/-- An event as words. -/
def PairEv.words' (e : PairEv) : List Nat := (e.typ + 256 * e.words.length + 65536 * e.arg) :: e.words

/-- The events that words spell; none where a reserved type occurs. (DESIGN CHOICE log 83) -/
def parseEvents : Nat → List Nat → Option (List PairEv)
  | 0, _ => some []
  | n + 1, ws =>
    match ws with
    | [] => some []
    | h :: t =>
      if h % 256 = 0 then some []
      else if 8 < h % 256 then none
      else (parseEvents n (t.drop (bits h 8 8))).map (⟨h % 256, bits h 16 16, t.take (bits h 8 8)⟩ :: ·)

/-- Queued events that fit into a number of bytes, and those left. -/
def fitEvents : Nat → List PairEv → List PairEv × List PairEv
  | _, [] => ([], [])
  | room, e :: t =>
    if e.bytes ≤ room then let r := fitEvents (room - e.bytes) t; (e :: r.1, r.2) else ([], e :: t)

/-! ## The digest walk and the carried state (R138, R304) -/

/-- Words of the digest map. -/
def mapWords (m : List MapRec) : Nat := (m.map (fun r => if r.a = 2 then 8 * r.c else r.c)).sum

/-- The item at a walk position: kind, word address or line, words from there to the end of its line or record. -/
def walkItem : List MapRec → Nat → Option (Nat × Nat × Nat)
  | [], _ => none
  | r :: t, p =>
    let n := if r.a = 2 then 8 * r.c else r.c
    if p < n then
      some (if r.a = 2 then (2, r.b + p / 8, 8) else (1, r.b + p, min (8 - (r.b + p) % 8) (n - p)))
    else walkItem t (p - n)

/-- The lines of the carried-state records in record order: number, word address, first step, end step. -/
def carriedList (img : Img) : List (Nat × Nat × Nat × Nat) :=
  let l := img.carried.flatMap (fun c => (List.range (c.b / 8)).map (fun k => (c.a + 8 * k, c.c % 65536, c.c / 65536)))
  (List.range l.length).zip l

/-- The carried line that a pair-engine grant of a bank serves (R125, R138): of the lines still open whose window holds the
step, the one whose window ends first. (DESIGN CHOICE log 120) -/
def carriedAt (s : State) (img : Img) (bank c : Nat) : Option (Nat × Nat) :=
  let open' := (carriedList img).filter (fun x => bankOf x.2.1 == bank && (s.pair.carry.find x.1).isNone
    && x.2.2.1 ≤ c / 64 && c / 64 < x.2.2.2)
  match minCycle (open'.map (fun x => x.2.2.2)) with
  | some e => (open'.find? (fun x => x.2.2.2 == e)).map (fun x => (x.1, x.2.1))
  | none => none

/-- Words that the walk has read, entered into the digest. -/
def digestWords : List Nat → State → State
  | [], s => s
  | w :: ws, s =>
    let k := s.pair.count % 4
    let d := (List.range 4).map (fun i =>
      let o := s.pair.dig.getD i 0xFFFFFFFF
      if i = k then crcRun o (bytesOf w 4) else o)
    digestWords ws { s with pair := { s.pair with dig := d, count := s.pair.count + 1 } }

/-- The digest of the course. -/
def digestNow (s : State) : List Nat := (List.range 4).map (fun i => s.pair.dig.getD i 0xFFFFFFFF ^^^ 0xFFFFFFFF)

/-- The walk moved on past words read, wrapping at the end. (DESIGN CHOICE log 117) -/
def walkOn (img : Img) (n : Nat) (s : State) : State :=
  let p := s.pair.walk + n
  if mapWords img.digest ≤ p then { s with pair := { s.pair with walk := 0, wrapped := true } }
  else { s with pair := { s.pair with walk := p } }

/-- Whether the pair engine works in this course: the claimant, and a standby that replays a full record. -/
def engineWorks (s : State) : Bool :=
  s.pins.pairEn && (flag s PAIR_STAT_CLAIM || (match s.pair.cur with | some r => !r.reduced | none => false))

/-- Whether the course belongs to a pass: on the claimant by the phase of the restate, on the standby by the restated lines
it holds for the course. -/
def passCourse (s : State) : Bool :=
  if flag s PAIR_STAT_CLAIM then s.pair.restate == 1 else s.pair.rsLines.any (fun x => x.ci == s.fab.ci)

/-- Whether the walk goes on in this course: a pass stops at the link's room and at its wrap (R313). (DESIGN CHOICE log 117) -/
def walkGoes (s : State) : Bool :=
  !(passCourse s && (getF s PAIR_BUDGET_BUDGET - recordBytes s ≤ s.pair.sent || s.pair.wrapped))

/-- A grant of the pair engine in a bank (R138, R306, R313): carried state first, then the digest walk. -/
def pairBankGrant (bank c : Nat) (s : State) : State :=
  match s.fab.img with
  | none => s
  | some img =>
    if !engineWorks s then s
    else match carriedAt s img bank c with
      | some (j, w) =>
        match s.pair.cur with
        | some r =>
          let vals := (List.range 8).map (fun i => r.carried.getD (8 * j + i) 0)
          engineWrite 0x21 w 255 vals c { s with pair := { s.pair with carry := s.pair.carry.put j vals } }
        | none =>
          let r := engineRead 0x21 w 255 c s
          { r.2 with pair := { r.2.pair with carry := r.2.pair.carry.put j r.1 } }
      | none =>
        match walkItem img.digest s.pair.walk with
        | some (1, w, n) =>
          if bankOf w = bank ∧ walkGoes s then
            let given := s.pair.rsLines.find? (fun x => x.ci == s.fab.ci && x.grant == c && x.addr == lineOf w)
            let r := match given with
              | some x => (x.words, engineWrite 0x21 w 255 x.words c s)
              | none => engineRead 0x21 w 255 c s
            let s0 := if passCourse s then { r.2 with pair := { r.2.pair with sent := r.2.pair.sent + 32 } } else r.2
            let s1 := if s.pair.restate = 1 then emit .linkFrame ([1, lo32 s.fab.ci, hi32 s.fab.ci, c, lineOf w] ++ r.1) s0
              else s0
            walkOn img n (digestWords ((r.1.drop (w % 8)).take n) s1)
          else s
        | _ => s

/-- A read-port grant of the pair engine in a slot bank (R138). -/
def pairPortGrant (line c : Nat) (s : State) : State :=
  match s.fab.img with
  | none => s
  | some img =>
    if !engineWorks s then s
    else match walkItem img.digest s.pair.walk with
      | some (2, l, n) =>
        if l % 32 = line % 32 ∧ walkGoes s then
          let r := engineSlotRead 0x21 l c s
          walkOn img n (digestWords r.1 r.2)
        else s
      | _ => s

/-! ## The record (R300, R301) -/

/-- The lines that a record carries as ingress, in rising order. -/
def ingressLines (s : State) : List Nat :=
  (List.range 1024).filter (fun l => producer s.fab.cal l == 0x20 || producer s.fab.cal l == 0x24)

/-- A header pair as bytes. -/
def pairBytes (w : Nat) : List Nat := bytesOf w 4 ++ bytesOf (not32 w) 4

/-- The header of a record. (DESIGN CHOICE log 83) -/
def recordHead (s : State) (size used : Nat) (reduced : Bool) (body : List Nat) : List Nat :=
  let st := getF s PAIR_STAT_STATE + 16 * getF s PAIR_STAT_CLAIM + 32 * b2n (eligible s) + 64 * getF s PAIR_STAT_UNIT
    + 128 * b2n s.pair.rsReq + 256 * getL s PAIR_CFG_LAG + 2048 * getF s CLK_STAT_QL_OUT
  pairBytes (lo32 s.fab.ci) ++ pairBytes (hi32 s.fab.ci) ++ pairBytes (size + 16777216 * b2n reduced) ++ pairBytes st
    ++ pairBytes (getF s FAB_IMG_ID_IMAGE_ID) ++ pairBytes s.pair.walk0 ++ pairBytes (65536 * used)
    ++ pairBytes (crc32c body)

/-- The events that the claimant's record carries: those of the course, then the queue as far as it fits. -/
def recordEvents (s : State) : List PairEv × List PairEv :=
  let room := 2048 - (s.pair.now.map PairEv.bytes).sum
  let r := fitEvents room s.pair.queue
  (s.pair.now ++ r.1, r.2)

/-- The body of the record of the course, whether it is reduced, and its event bytes. (DESIGN CHOICE log 129) -/
def recordBody (s : State) : List Nat × Bool × Nat :=
  let dig := wordsToBytes (digestNow s)
  if !flag s PAIR_STAT_CLAIM then (dig, true, 0)
  else
    let evs := wordsToBytes ((recordEvents s).1.flatMap PairEv.words')
    let pad := evs ++ List.replicate (2048 - evs.length) 0
    if getF s PAIR_STAT_PARTNER_STATE = 7 then (pad ++ dig, true, evs.length)
    else
      let ing := wordsToBytes ((ingressLines s).flatMap (fun l => (List.range 8).map (fun i => slotWrote s (8 * l + i))))
      let n := match s.fab.img with | some i => (carriedList i).length | none => 0
      let car := wordsToBytes ((List.range n).flatMap (fun j => s.pair.carry.get j (List.replicate 8 0)))
      (ing ++ pad ++ car ++ dig, false, evs.length)

/-- The restate's step at the end of a course (R313, R314). (DESIGN CHOICE log 117) -/
def restateStep (s : State) : State :=
  let s1 := if s.pair.restate = 2 then { s with pair := { s.pair with vcis := s.fab.ci :: s.pair.vcis } } else s
  if s1.pair.restate ≠ 0 ∧ s1.pair.restate ≠ 3 ∧ s1.pair.wrapped then
    { s1 with pair := { s1.pair with restate := s1.pair.restate + 1 } }
  else s1

/-- The digest of a replayed course compared with the claimant's (R304). -/
def compareDigest (s : State) : State :=
  match s.pair.cur with
  | some r =>
    if !flag s PAIR_STAT_CLAIM && !r.reduced && (r.digest != digestNow s || r.walk != s.pair.walk0) then
      standbyFault 0x10 (bump PAIR_CNT_DIGEST_ERR 1 s)
    else s
  | none => s

/-- The record of the course closed for the partner, item 1 of the boundary (R36, R300). -/
def closeRecord (s : State) : State :=
  if !s.pins.pairEn || !running s then s
  else
    let s0 := compareDigest s
    let b := recordBody s0
    let bytes := recordHead s0 (64 + b.1.length) b.2.2 b.2.1 b.1 ++ b.1
    let claim := flag s0 PAIR_STAT_CLAIM
    let s1 := if flag s0 PAIR_LINK_STAT_UP then emit .record bytes s0 else s0
    let s2 := if claim then
        { s1 with pair := { s1.pair with
          queue := (recordEvents s0).2
          digs := (s1.pair.digs.put s0.fab.ci (s0.pair.walk0 :: digestNow s0)).filter (fun p => s0.fab.ci < p.1 + 64) } }
      else s1
    let s3 := if claim then restateStep s2 else s2
    { s3 with pair := { s3.pair with now := [], dig := [], count := 0, carry := [], sent := 0, wrapped := false, walk0 := s3.pair.walk } }

/-- The value of a header pair at a byte offset, if the pair holds. (DESIGN CHOICE log 117) -/
def headPair (b : List Nat) (o : Nat) : Option Nat :=
  let w := ofBytes ((b.drop o).take 4)
  if ofBytes ((b.drop (o + 4)).take 4) = not32 w then some w else none

/-- A record as its bytes spell it (R300, R301); none where a pair, the CRC or a size fails; a reserved event type leaves the
sole event 255. -/
def parseRecord (s : State) (b : List Nat) : Option PairRec :=
  match headPair b 0, headPair b 8, headPair b 16, headPair b 24, headPair b 32, headPair b 40, headPair b 48, headPair b 56 with
  | some lo, some hi, some size, some st, some img, some walk, some _, some crc =>
    let body := b.drop 64
    let red := bitOf size 24
    let ni := 32 * (ingressLines s).length
    let nc := match s.fab.img with | some i => 32 * (carriedList i).length | none => 0
    let want := if !red then ni + 2048 + nc + 16 else if bitOf st 4 then 2064 else 16
    if crc ≠ crc32c body ∨ bits size 0 24 ≠ b.length ∨ body.length ≠ want then none
    else
      let o := if red then 0 else ni
      let ev := if bitOf st 4 then bytesToWords ((body.drop o).take 2048) else []
      let evs := (parseEvents 512 ev).getD [⟨255, 0, []⟩]
      some ⟨lo + 4294967296 * hi, red, bits st 0 4, bitOf st 4, bitOf st 5, bits st 6 1, bitOf st 7, bits st 8 3, bits st 11 4,
          img, walk, if red then [] else bytesToWords (body.take ni), evs,
          if red then [] else bytesToWords ((body.drop (ni + 2048)).take nc), bytesToWords (body.drop (body.length - 16))⟩
  | _, _, _, _, _, _, _, _ => none

/-! ## The restate on the claimant (R313, R314) -/

/-- A restate begins at the start of the digest map: of an UNFIT partner whose records arrive. (DESIGN CHOICE log 82) -/
def startRestate (s : State) : State :=
  if flag s PAIR_STAT_CLAIM && getF s PAIR_STAT_PARTNER_STATE == 5 && flag s PAIR_STAT_HEARTBEAT && !s.pair.suspended
      && s.pair.restate == 0 && hasMaps s && running s then
    pairEvent (putFs [(PAIR_RESTATE_RUNNING, 1), (PAIR_RESTATE_PASS, 1)]
      { s with pair := { s.pair with restate := 1, rsCode := 1, walk := 0, walk0 := 0, sent := 0, vcis := [], allMatch := true } })
  else s

/-- A restate given up: its partner has left it, or its records no longer arrive. -/
def dropRestate (s : State) : State :=
  if s.pair.restate = 0 then s
  else pairEvent (putFs [(PAIR_RESTATE_RUNNING, 0), (PAIR_RESTATE_PASS, 0)] { s with pair := { s.pair with restate := 0, rsCode := 0, vcis := [] } })

/-- A pass restarted from its beginning after a CTL reset (R313). (DESIGN CHOICE log 82) -/
def restartPass (s : State) : State :=
  if s.pair.restate = 0 then s
  else { s with pair := { s.pair with restate := 1, walk := 0, walk0 := 0, vcis := [], allMatch := true } }

/-- The verifying walk judged once its last record has come (R314). -/
def judgeRestate (s : State) : State :=
  if s.pair.restate = 3 ∧ s.pair.vcis = [] then
    if s.pair.allMatch then
      emit .linkFrame [3, 1] (pairEvent (putFs [(PAIR_RESTATE_RUNNING, 0), (PAIR_RESTATE_PASS, 0)]
        { s with pair := { s.pair with restate := 0, rsCode := 2 } }))
    else if getL s PAIR_CFG_RS_TRIES ≤ getF s PAIR_RESTATE_PASS then
      emit .linkFrame [3, 2] (pairEvent (putFs [(PAIR_RESTATE_RUNNING, 0), (PAIR_RESTATE_PASS, 0), (PAIR_RESTATE_FAILED, 1)]
        { s with pair := { s.pair with restate := 0, rsCode := 3, suspended := true } }))
    else
      wrap PAIR_RESTATE_PASS 1 { s with pair := { s.pair with restate := 1, walk := 0, walk0 := 0, allMatch := true } }
  else s

/-- A standby's digest of a course of the verifying walk. (DESIGN CHOICE log 82) -/
def verifyDigest (r : PairRec) (s : State) : State :=
  if flag s PAIR_STAT_CLAIM && s.pair.vcis.contains r.ci then
    let ok := s.pair.digs.find r.ci == some (r.walk :: r.digest)
    judgeRestate { s with pair := { s.pair with vcis := s.pair.vcis.filter (· != r.ci), allMatch := s.pair.allMatch && ok } }
  else s

/-- Courses of the verifying walk whose record has not come in time count as different. (DESIGN CHOICE log 82) -/
def expireVerify (s : State) : State :=
  let old := s.pair.vcis.filter (fun c => c + 16 < s.fab.ci)
  if old = [] then s
  else judgeRestate { s with pair := { s.pair with vcis := s.pair.vcis.filter (fun c => s.fab.ci ≤ c + 16), allMatch := false } }

/-! ## Records that arrive, and that do not (R303) -/

/-- The heartbeat lost: any standby is an orphan, REF7 is ABSENT (R241, R312). -/
def loseHeartbeat (s : State) : State :=
  if flag s PAIR_STAT_HEARTBEAT then
    let s1 := setProtected (dropRestate (putF PAIR_STAT_HEARTBEAT 0 s))
    let s2 := if getF s1 (CLK_REF_STAT_STATE 7) = 0 then s1
      else refreshClk (setRef 7 1 { s1 with clk := { s1.clk with inWin := s1.clk.inWin.filter (· != 7) } })
    if isStandby s2 then
      setPairState 8 { s2 with pair := { s2.pair with muteIn := false } }
    else s2
  else s

/-- A record missing (R303). -/
def recordMiss (s : State) : State :=
  let s1 := standbyFault 0x11 (bump PAIR_CNT_REC_MISSING 1
    { s with pair := { s.pair with missing := s.pair.missing + 1, missNoted := true } })
  if 2 ≤ s1.pair.missing then loseHeartbeat s1 else s1

/-- RECORD_DEADLINE_MISS (R303). -/
def execRecordDeadlineMiss (s : State) : Host.Outcome State Fault Refusal :=
  if s.pins.pairEn && running s then .next (recordMiss s) else .next s

/-- RECORD_RX (R301, R303): a complete record and its arrival after the own boundary in 1/16 ns. -/
def execRecordRx (record : List Nat) (arrival : Int) (s : State) : Host.Outcome State Fault Refusal :=
  if !s.pins.pairEn || !flag s PAIR_LINK_STAT_UP then .next s
  else match parseRecord s record with
    | none => .next (bump PAIR_CNT2_REC_HDR_ERR 1 s)
    | some r =>
      if r.events.any (fun e => e.typ == 255) then .next (recordMiss s)
      else
      let cycle := bits (ofBytes ((record.drop 48).take 4)) 0 15
      let s1 := takeSkew arrival cycle (checkUnit r.unit
        { s with pair := { s.pair with last := some r, missing := 0 } })
      let s2 := setProtected (putFs [(PAIR_STAT_PARTNER_STATE, r.state), (PAIR_STAT_HEARTBEAT, 1)] s1)
      if r.claim && !flag s2 PAIR_STAT_CLAIM then
        let old := s2.pair.replay && r.ci ≤ s2.fab.ci
        .next (if old then s2 else { s2 with pair := { s2.pair with recs := (s2.pair.recs.put r.ci r).drop (s2.pair.recs.length - 15) } })
      else .next (verifyDigest r s2)

end Sys2Proof.Machine
end

