-- ==== Sys2Proof/Machine/SeatOps.lean ====
section
/-! DEFINITION. The end of an attachment, orphans and adoption, SEAT resets and interface bindings (R332, R333, R348 to
R352, R386), and the lease events. -/

namespace Sys2Proof.Machine

/-- Whether an image cut-over or splice is armed or under way. -/
def commitArmed (s : State) : Bool :=
  s.fab.sched.any (fun p => p.2.kind == 2 || p.2.kind == 3) || (match s.fab.ramp with | some r => r.kind == 2 | none => false)
    || s.fab.family.isSome

/-- The image staging session of a seat discarded with what it has staged, but for a commit already armed (R130, R349). -/
def dropSession (seat : Nat) (s : State) : State :=
  match s.fab.session with
  | some x =>
    if x.seat = seat then
      let s1 := putFs [(HOST_LIM_WIN_WORDS seat, 0), (HOST_WIN_WIN_BASE seat, 0)] { s with fab := { s.fab with session := none } }
      if commitArmed s then s1 else { s1 with fab := { s1.fab with staged := none, shadow := s.fab.cal } }
    else s
  | none => s

/-- The objects of a seat, by key. -/
def objectsOf (s : State) (seat : Nat) : List Nat :=
  (s.fw.owners.filter (fun p => p.2.seat == seat && !p.2.orphan)).map Prod.fst

/-- An object made an orphan; the steward is told (R352, R384). -/
def orphan (key : Nat) (s : State) : State :=
  match s.fw.owners.find key with
  | some o =>
    objectEvent 0 (key / 65536) o.seat 0xF (key % 65536) 3
      { s with fw := { s.fw with owners := s.fw.owners.put key { o with orphan := true } } }
  | none => s

/-- The end of an attachment as at a lease expiry (R349): uncommitted staging discarded, objects orphaned, ATTACHED
cleared; armed entries stay. -/
def endAttach (seat : Nat) (s : State) : State :=
  let s1 := dropSession seat (updSeat seat (fun t => { t with routes := [], dests := [], expect := none, lastExec := none, stored := [], lease := 0 }) s)
  putF (DB_STAT_ATTACHED seat) 0 ((objectsOf s1 seat).foldl (fun s k => orphan k s) s1)

/-- The fields of the seat registers that a SEAT reset clears (R341). -/
def seatFields (n : Nat) : List Fld :=
  [DB_STAT_CMD_BUSY n, DB_STAT_REPLY_READY n, DB_STAT_MB_OVERRUN n, DB_STAT_ATTACHED n, DB_STAT_LAST_SEQ n,
   EV_HEAD_HEAD n, EV_TAIL_TAIL n, IRQ_STAT_REPLY n, IRQ_STAT_EVENT n, IRQ_STAT_LEASE n, IRQ_STAT_RESTART n,
   IRQ_STAT_LIFE n, IRQ_EN_EN_FW n, IRQ_EN_EN_HW n, HOST_WIN_WIN_BASE n, HOST_LIM_WIN_WORDS n]

/-- A master reset begins (R322): requests not yet accepted are dropped, the outstanding transactions complete or are cut. -/
def masterReset (m : Nat) (s : State) : State :=
  let v := { s.vsr with held := s.vsr.held.filter (fun r => r.master != m) }
  if v.outstanding.any (fun t => t.master == m) then
    { s with vsr := { v with inReset := m :: v.inReset.filter (· != m) } }
  else { s with vsr := v }

/-- A SEAT reset (R386, R398): the attachment ends; mailboxes, doorbells, ring, hold queue and window are cleared, the
release key disarmed, and a bound QSPI port reset with its master (R322, R339). The UDP binding stays with the seat. -/
def seatReset (n : Nat) (s : State) : State :=
  let s1 := if attached s n then endAttach n s else s
  let t := seatOf s1 n
  let s2 := updSeat n (fun _ => { Seat.init with
    udpPort := t.udpPort, udpSrc := t.udpSrc, udpMask := t.udpMask, udpDropped := t.udpDropped, mutePw := t.mutePw }) s1
  let s3 := (seatFields n).foldl (fun s f => putF f f.reset s) s2
  if getF s3 (HOST_BIND_IF n) = 2 then
    let p := getF s3 (HOST_BIND_INDEX n)
    masterReset (3 + p) { s3 with qspi := s3.qspi.erase p }
  else s3

/-- The seat that an interface is bound to. -/
def boundSeat (s : State) (ifc idx : Nat) : Option Nat :=
  [0, 1, 2, 3].find? (fun n => getF s (HOST_BIND_IF n) == ifc && getF s (HOST_BIND_INDEX n) == idx)

/-- The bindings that SEAT_MAP gives (R332). -/
def bindBySeatMap (m : Nat) (s : State) : State :=
  let b := fun n (ifc idx : Nat) (s : State) => putFs [(HOST_BIND_IF n, ifc), (HOST_BIND_INDEX n, idx)] s
  match m with
  | 0 => b 3 1 3 (b 2 1 2 (b 1 1 1 (b 0 1 0 s)))
  | 1 => b 3 1 3 (b 2 1 2 (b 1 1 1 (b 0 2 0 s)))
  | 2 => b 3 1 3 (b 2 1 2 (b 1 2 1 (b 0 2 0 s)))
  | _ => b 3 0 0 (b 2 0 0 (b 1 2 1 (b 0 2 0 s)))

/-- A binding changed, with SEAT resets of the seats it touches (R333). -/
def bindSeat (seat ifc idx udpPort udpSrc udpMask : Nat) (s : State) : State :=
  let other := if ifc = 0 then none else boundSeat s ifc idx
  let s1 := seatReset seat s
  let s2 := match other with
    | some o => if o = seat then s1 else putFs [(HOST_BIND_IF o, 0), (HOST_BIND_INDEX o, 0)] (seatReset o s1)
    | none => s1
  updSeat seat (fun t => { t with udpPort := udpPort, udpSrc := udpSrc, udpMask := udpMask })
    (putFs [(HOST_BIND_IF seat, ifc), (HOST_BIND_INDEX seat, idx)] s2)

/-- Orphans that match moved to a seat: under a token (0: any), of a kind (0: any) and index (0xFFFF: any). -/
def orphanKeys (s : State) (tok kind idx : Nat) : List Nat :=
  (s.fw.owners.filter (fun p => p.2.orphan && (tok == 0 || p.2.token == tok)
    && (kind == 0 || p.1 / 65536 == kind) && (idx == 0xFFFF || p.1 % 65536 == idx))).map Prod.fst

/-- An object moved to a seat, both seats told (R384). -/
def moveObj (what dst key : Nat) (s : State) : State :=
  let old := match s.fw.owners.find key with | some o => o.seat | none => 0xF
  let s1 := setOwner (key / 65536) (key % 65536) dst s
  let s2 := objectEvent dst (key / 65536) old dst (key % 65536) what s1
  if old = dst ∨ 4 ≤ old then s2 else objectEvent old (key / 65536) old dst (key % 65536) what s2

/-- Orphans adopted by a seat. -/
def adopt (dst : Nat) (keys : List Nat) (s : State) : State := keys.foldl (fun s k => moveObj 4 dst k s) s

/-- LEASE_WARNING (R349): LEASE is raised when a quarter of the lease remains. -/
def execLeaseWarning (seat : Nat) (s : State) : Host.Outcome State Fault Refusal :=
  if seat < 4 && attached s seat then .next (irq seat 2 s) else .next s

/-- LEASE_EXPIRY (R349): the lease of a seat with no command outstanding ends. -/
def execLeaseExpiry (seat : Nat) (s : State) : Host.Outcome State Fault Refusal :=
  if seat < 4 && attached s seat && !flag s (DB_STAT_CMD_BUSY seat) then .next (endAttach seat s) else .next s

/-- SEAT_RESET (R386): the SEAT reset of one seat. -/
def execSeatReset (seat : Nat) (s : State) : Host.Outcome State Fault Refusal :=
  if seat < 4 && !s.pwr.rest then .next (seatReset seat s) else .next s

end Sys2Proof.Machine
end

