-- ==== Sys2Proof/Machine/FwImg.lean ====
section
/-! DEFINITION. The IMG commands (R371) and the verification of a piece (R130 to R134). -/

namespace Sys2Proof.Machine

/-! ## Staging (R130) -/

/-- The bytes of a seat's staging window: the staging banks (R115), within the seat's allotment (R353).
(DESIGN CHOICE log 48) -/
def stagingBytes (s : State) (seat : Nat) : Nat :=
  let all := if isSmall s then 1048576 else 3145728
  match s.fw.quotas.find (seat * 256) with
  | some q => min all (q * 1024 / 32 * 32)
  | none => all

/-- IMG.BEGIN. -/
def fwImgBegin (r : FwReq) (s : State) : FwM := do
  r.len 2
  audioSide s
  mayOwn s r 1 0
  need (0 < r.w 0 && r.w 0 ≤ 0x03000000) (errAt eRange 0)
  need (!commitArmed s) (err eState)
  need (0 < stagingBytes s r.seat) (err eNospace)
  quotaFor s r 1 0
  let s0 := match s.fab.session with | some x => dropSession x.seat s | none => s
  let s1 := [0, 1, 2, 3].foldl (fun s n => putFs [(HOST_WIN_WIN_BASE n, 0), (HOST_LIM_WIN_WORDS n, 0)] s) s0
  let s2 := acquire r 1 0 { s1 with fab := { s1.fab with
    staged := none
    session := some { seat := r.seat, len := r.w 0, id := r.w 1, bytes := [], pieces := [], busy := none, sections := 0, complete := false } } }
  return (putFs [(HOST_WIN_WIN_BASE r.seat, partBank s * 131072), (HOST_LIM_WIN_WORDS r.seat, stagingBytes s r.seat / 4)] s2,
    [stagingBytes s r.seat, 32])

/-- IMG.PIECE: the result follows as CMD_DONE. (DESIGN CHOICE log 45) -/
def fwImgPiece (r : FwReq) (s : State) : FwM := do
  r.len 3
  audioSide s
  mayOwn s r 1 0
  need (r.w 0 % 32 == 0 && r.w 0 + r.w 1 ≤ 4 * getF s (HOST_LIM_WIN_WORDS r.seat)) (errAt eRange 0)
  need (r.w 1 != 0) (errAt eRange 1)
  match s.fab.session with
  | none => .error (err eState)
  | some x => do
    need (x.seat == r.seat && !commitArmed s) (err eState)
    need x.busy.isNone (err eBusy)
    quotaFor s r 1 0
    let s1 := acquire r 1 0 s
    return ({ s1 with fab := { s1.fab with session := some { x with busy := some (r.w 0, r.w 1, r.w 2, r.seq) } } }, [])

/-- IMG.DATA: bytes written into the window. -/
def fwImgData (r : FwReq) (s : State) : FwM := do
  let n := r.f 1 0 10
  need (2 ≤ r.words.length) (err eRange)
  r.len (2 + (n + 3) / 4)
  audioSide s
  mayOwn s r 1 0
  r.only [(1, mask 9 0)]
  need (1 ≤ n && n ≤ 992) (errAt eRange 1)
  need (r.w 0 + n ≤ 4 * getF s (HOST_LIM_WIN_WORDS r.seat)) (errAt eRange 0)
  quotaFor s r 1 0
  return ((putAshBytes 1 (0x40000000 + 4 * getF s (HOST_WIN_WIN_BASE r.seat) + r.w 0) ((wordsToBytes (r.words.drop 2)).take n) (acquire r 1 0 s)).2, [])

/-- A refused piece: every shadow state and staged data of the image is discarded, and the session ends (R130).
(DESIGN CHOICE log 45) -/
def refusePiece (x : Session) (seq : Nat) (e : VErr) (s : State) : State :=
  let s1 := dropSession x.seat s
  cmdDone x.seat 0x0201 seq e.status [256 * 255 + 65536 * e.check, e.offset]
    { s1 with fab := { s1.fab with lastCheck := e.check, lastOffset := e.offset } }

/-- The words of a verified piece sent to the partner over the control channel (R307, R371): the image's length and
identifier, the piece's place, its bytes. -/
def relayPiece (x : Session) (off : Nat) (bs : List Nat) (s : State) : State :=
  if s.pins.pairEn && flag s PAIR_STAT_CLAIM && flag s PAIR_LINK_STAT_UP then
    emit .linkFrame ([4, x.len, x.id, off, bs.length] ++ bytesToWords bs) s
  else s

/-- A piece judged, its sections put in place, and at the last one the whole image judged (R130).
(DESIGN CHOICE log 46, 102) -/
def judgePiece (x : Session) (off : Nat) (bs : List Nat) (s : State) : Except VErr State := do
  let m := ((List.range bs.length).zip bs).foldl (fun (m : AMap Nat) p => m.set (off + p.1) p.2 0) x.bytes
  verifyPiece s x m off bs.length
  let es := sectionsIn m off (off + bs.length)
  let ps := (off, bs.length) :: x.pieces
  let full := covered ps.reverse 0 == x.len
  let y := { x with bytes := m, pieces := ps, busy := none, sections := x.sections + es.length, complete := full }
  let s1 := es.foldl (fun s e => placeSection m e s) s
  let s2 := { s1 with fab := { s1.fab with session := some y } }
  if full then do
    let img ← verifyWhole s m
    return reportImage { s2 with fab := { s2.fab with staged := some img, shadow := img.cal } }
  else return s2

/-- PIECE_VERIFY_DONE (R130): the piece under verification is read from the window, judged and answered with CMD_DONE. -/
def execPieceVerifyDone (s : State) : Host.Outcome State Fault Refusal :=
  match s.fab.session with
  | none => .next s
  | some x => match x.busy with
    | none => .next s
    | some (win, len, off, seq) =>
      let w := getF s (HOST_WIN_WIN_BASE x.seat) + win / 4
      let r := fwAshReads w ((len + 3) / 4) s
      let bs := (wordsToBytes r.1).take len
      match judgePiece x off bs r.2 with
      | .ok t => .next (cmdDone x.seat 0x0201 seq eOk [0, 0] (relayPiece x off bs t))
      | .error e => .next (refusePiece x seq e r.2)

/-! ## Commit (R131 to R135) -/

/-- The BINDABLE lines with their producers, and the playout regions, of an image (R132). -/
def externals (i : Img) : List (Nat × Nat) × List Region :=
  ((i.cal.map.filter (fun p => bitOf p.2 9)).map (fun p => (p.1, p.2 % 256)), i.regions.filter (fun r => r.kind == 3))

/-- Whether a splice is allowed (R132). (DESIGN CHOICE log 40) -/
def spliceOk (old new : Img) : Bool :=
  old.family == new.family && old.rm == new.rm
    && old.compat == new.compat && old.hasCarried == new.hasCarried && old.carried == new.carried
    && old.tileMask == new.tileMask
    && (externals old).1 == (externals new).1
    && (externals old).2.all ((externals new).2.contains ·) && (externals new).2.all ((externals old).2.contains ·)
    && new.inits.all (fun x => x.count == 0 || (x.kind == 3 && !(banksOf x.addr x.count).any (bankGranted old.cal)))

/-- Whether the partner reports the image staged and verified (R134). -/
def partnerHas (s : State) (i : Img) : Bool := !s.pins.pairEn || s.pair.partnerImg == some (i.id, i.sha)

/-- The synthesis PLL turned to a family: EN cleared, FAMILY written, EN set again (12, band table; R135).
(DESIGN CHOICE log 42) -/
def turnFamily (f : Nat) (s : State) : State := synEnable (putF CLK_SEL_FAMILY f (synDisable s))

/-- An image committed into a stopped fabric (R131): loaded whole and started, once the PLL of its family is locked.
(DEDUCED log 44, DESIGN CHOICE log 42, 122) -/
def commitStopped (img : Img) (s : State) : State :=
  let s1 := recommit img s
  let s2 := if getF s1 CLK_SEL_FAMILY = img.family then s1 else turnFamily img.family s1
  if flag s2 CLK_SYN_STAT_LOCK then startFabric s2
  else { s2 with fab := { s2.fab with family := some img, familyStopped := true, gapLoaded := true } }

/-- A splice armed (R132, R139): the shadow areas locked, the sets in the shadow halves. (DESIGN CHOICE log 43) -/
def armSplice (e : Nat) (img : Img) (s : State) : State :=
  let s1 := (allTiles s).foldl (fun s n => putF (TILE_STAT_SHADOW_LOCK n) 1 s) (loadSpliceSets e img s)
  setImgState 5 (putF FAB_STAT_SHADOW_LOCK 1 s1)

/-- The CI that a cut-over to a lower rate can have (R29): with ASAP the next that divides exactly. (DESIGN CHOICE log 47) -/
def dividing (old new t : Nat) (asap : Bool) (least : Nat) : Nat :=
  let k := if new < old ∧ new ≠ 0 then old / new else 1
  if asap ∧ t < least then (least + k - 1) / k * k else t

/-- The commit of an image while the fabric runs. (DESIGN CHOICE log 43, 47) -/
def commitRunning (r : FwReq) (old img : Img) (s : State) : FwM := do
  let m := r.f 2 0 2
  need (m != 3) (errAt eRange 2)
  need (r.ci 0 != 0 || r.asap) (errAt eRange 0)
  let ok := spliceOk old img
  let splice := m == 1 || (m == 0 && ok)
  let kind := if splice then 3 else 2
  let t := if splice then r.ci 0 else dividing old.rm img.rm (r.ci 0) r.asap (s.fab.ci + leadOf s 2)
  let drop := if img.rm < old.rm ∧ img.rm ≠ 0 ∧ img.family = old.family then old.rm / img.rm else 1
  need (splice || t % drop == 0) (errAt eRange 0)
  let e : Sched := ⟨kind, r.seat, t, false, [], [], [], false⟩
  need (!schedConflict s { e with ci := aimed s r kind t }) (err eState)
  need (!splice || !ok || ((!img.hasRoute || !flag s RTE_SL_ROUTE_ARMED) && (!img.hasDyn || s.dyn.tags.all (fun p => p.2 < 64)))) (err eState)
  need (!splice || !ok || ((!img.hasRoute || !flag s RTE_STAT_RESYNC) && (!img.hasDyn || s.dyn.recopy.isEmpty))) (err eBusy)
  need (!splice || ok) ⟨eContract, 0, 0xFF, 24, 0⟩
  need (splice || (cpoFits (getF s FAB_CPO_CPO_NS) (baseRate img.family * img.rm) && ampFits s img)) (err eContract)
  need (!splice || ampFits s img) (err eContract)
  quotaFor s r 1 0
  let a ← arm s r e
  let s1 := acquire r 1 0 a.2.2
  return (if splice then armSplice a.1 img s1 else s1, schedReply a.1 a.2.1 ++ [if splice then 1 else 2])

/-- IMG.COMMIT. (DESIGN CHOICE log 42, 45) -/
def fwImgCommit (r : FwReq) (s : State) : FwM := do
  r.len 3
  audioSide s
  mayOwn s r 1 0
  r.only [(2, 3)]
  match s.fab.staged with
  | none => .error (err eState)
  | some img => do
    need (match s.fab.session with | some x => x.seat == r.seat && x.busy.isNone | none => false) (err eState)
    match s.fab.img with
    | some old =>
      if running s then do
        need (partnerHas s img) (err eState)
        commitRunning r old img s
      else stopped img
    | none => stopped img
where
  stopped (img : Img) : FwM := do
    need (r.w 0 == 0 && r.w 1 == 0 && r.w 2 == 0) (errAt eRange 0)
    need (partnerHas s img) (err eState)
    need (!running s && s.fab.startAt.isNone && s.fab.family.isNone && !s.pwr.hotStop && s.pwr.entering == 0
      && getF s PWR_STAT_STATE == 0) (err eState)
    need (ampFits s img) (err eContract)
    quotaFor s r 1 0
    return (commitStopped img (acquire r 1 0 s), [0xFF, 0, 0, 0])

/-- A cancel under R364: the entry's seat or the steward, 2 courses ahead, no ramp begun. -/
def mayCancel (s : State) (seat i : Nat) : Except FwErr Sched :=
  match s.fab.sched.find i with
  | none => .error (err eState)
  | some e => do
    need (e.seat == seat || seat == 0) (err eOwned)
    need (!rampBegun s e) (err eState)
    need (s.fab.ci + 2 ≤ e.ci) (err eLate)
    return e

/-- An entry cancelled at a seat's command, with the CANCEL event of a pair (R364). -/
def cancelAsked (i : Nat) (e : Sched) (s : State) : State := queueEv ⟨3, i, []⟩ (cancelEntry i eOk e s)

/-- IMG.ABORT. -/
def fwImgAbort (r : FwReq) (s : State) : FwM := do
  r.len 0
  audioSide s
  mayOwn s r 1 0
  let armed := s.fab.sched.find? (fun p => p.2.kind == 2 || p.2.kind == 3)
  let s1 ← match armed with
    | some (i, _) => do
      let e ← mayCancel s r.seat i
      pure (cancelAsked i e s)
    | none => do
      need (!commitArmed s) (err eState)
      pure s
  quotaFor s r 1 0
  let s2 := acquire r 1 0 s1
  return (match s2.fab.session with | some x => dropSession x.seat s2 | none => s2, [])

/-- IMG.STATUS. (DESIGN CHOICE log 48) -/
def fwImgStatus (r : FwReq) (s : State) : FwM := do
  r.len 0
  let x := s.fab.session
  return (s, [regWordRaw s FAB_STAT_IMG_STATE.addr, getF s FAB_IMG_ID_IMAGE_ID,
    (match x, s.fab.staged with | some y, _ => y.id | none, some i => i.id | none, none => 0),
    (match x with | some y => min y.sections 255 + 256 * b2n (y.complete && s.fab.staged.isSome) | none => 256 * b2n s.fab.staged.isSome),
    s.fab.lastCheck, s.fab.lastOffset])

/-- IMG.PATH (R17, R41). -/
def fwImgPath (r : FwReq) (s : State) : FwM := do
  r.len 1
  r.only [(0, mask 12 0 + mask 28 16)]
  let src := r.f 0 0 13
  let dst := r.f 0 16 13
  let found : Option LatEntry := match s.fab.img with
    | some i => i.latency.find? (fun (e : LatEntry) => !e.env && e.src == src && e.dst == dst)
    | none => none
  match found with
  | none => .error (errAt eContract 0)
  | some (e : LatEntry) =>
    let tin := (portInTerm s src).getD ((strInTerm s src).getD 0)
    let tout := (portOutTerm s dst).getD ((strOutTerm s dst).getD 0)
    let lag := if s.pins.pairEn then s.pair.lag else 0
    return (s, [e.courses, tin, tout, lag, e.courses + tin + tout + lag, e.drive])

/-- The cycles that an image declares lendable in a bank (R136). (DESIGN CHOICE log 48) -/
def declared (s : State) (b : Nat) : Nat × Nat :=
  match s.fab.img with
  | some i => match i.lend.find? (fun x => x.a == b) with | some x => (x.b, x.c) | none => (0, 0)
  | none => (0, 0)

/-- IMG.LEND (R136). (DESIGN CHOICE log 48) -/
def fwImgLend (r : FwReq) (s : State) : FwM := do
  r.len 5
  let b := r.f 0 0 7
  inVariant b (nBanks s) 128
  audioSide s
  mayOwn s r 1 0
  r.only [(0, mask 6 0)]
  need ((r.w 1 &&& (declared s b).1) == r.w 1) (errAt eContract 1)
  need ((r.w 2 &&& (declared s b).2) == r.w 2) (errAt eContract 2)
  quotaFor s r 1 0
  let x ← portBatch s r (r.ci 3) none [(FAB_LEND_LO_LEND b, r.w 1), (FAB_LEND_HI_LEND b, r.w 2)]
  return (acquire r 1 0 x.1, x.2)

/-- IMG.KEY: keys held in the firmware partition. -/
def fwImgKey (r : FwReq) (s : State) : FwM := do
  r.len 17
  steward r
  mayOwn s r 1 0
  r.only [(0, 3 + 256 + 65536)]
  quotaFor s r 1 0
  let k := r.f 0 0 2
  let key := ofBeBytes (wordsToBytes (r.words.drop 1))
  let s1 := acquire r 1 0 s
  return ({ s1 with fw := { s1.fw with
    imgKeys := if r.f 0 8 1 = 1 then s1.fw.imgKeys.erase k else s1.fw.imgKeys.put k key
    requireSigned := r.f 0 16 1 == 1 } }, [])

/-- IMG_BEGIN. -/
def execImgBegin (r : FwReq) (s : State) : Host.Outcome State Fault Refusal := fwRow 0x0200 r fwImgBegin s
/-- IMG_PIECE. -/
def execImgPiece (r : FwReq) (s : State) : Host.Outcome State Fault Refusal := fwRow 0x0201 r fwImgPiece s
/-- IMG_DATA. -/
def execImgData (r : FwReq) (s : State) : Host.Outcome State Fault Refusal := fwRow 0x0202 r fwImgData s
/-- IMG_COMMIT. -/
def execImgCommit (r : FwReq) (s : State) : Host.Outcome State Fault Refusal := fwRow 0x0203 r fwImgCommit s
/-- IMG_ABORT. -/
def execImgAbort (r : FwReq) (s : State) : Host.Outcome State Fault Refusal := fwRow 0x0204 r fwImgAbort s
/-- IMG_STATUS. -/
def execImgStatus (r : FwReq) (s : State) : Host.Outcome State Fault Refusal := fwRow 0x0205 r fwImgStatus s
/-- IMG_PATH. -/
def execImgPath (r : FwReq) (s : State) : Host.Outcome State Fault Refusal := fwRow 0x0206 r fwImgPath s
/-- IMG_LEND. -/
def execImgLend (r : FwReq) (s : State) : Host.Outcome State Fault Refusal := fwRow 0x0207 r fwImgLend s
/-- IMG_KEY. -/
def execImgKey (r : FwReq) (s : State) : Host.Outcome State Fault Refusal := fwRow 0x0208 r fwImgKey s

end Sys2Proof.Machine
end

