-- ==== Sys2Proof/Machine/Mac.lean ====
section
/-! DEFINITION. The MACs' commands (R182 to R200). -/

namespace Sys2Proof.Machine

/-! ## Link (R182 to R185) -/

/-- Whether a rate code is one that RATE_EN enables and the line mode carries (R182, R184). -/
def rateOk (s : State) (m r : Nat) : Bool :=
  1 ≤ r && r ≤ 4 && bitOf (getF s (MAC_CTL_RATE_EN m)) (r - 1) && (r == 4 || flag s (MAC_CTL_MODE m))

/-- The link state and rate that the source gives (R184): none is no link. -/
def linkSource (s : State) (m : Nat) : Option Nat :=
  match getF s (MAC_CTL_RATE_SRC m) with
  | 0 => if flag s (MAC_CTL_MODE m) then (macOf s m).code else some 4
  | 1 => (macOf s m).poll
  | _ => if flag s (MAC_CTL_LINK_FORCE m) then some (getF s (MAC_CTL_FIXED_RATE m)) else none

/-- The link goes down (R185): the transmit FIFO is discarded, and the rings will send its control frames again. -/
def linkDown (m : Nat) (s : State) : State :=
  let t := macOf s m
  let back := fun (r : Nat) (l : List TxFrame) (s : State) =>
    match l with
    | f :: _ => putF (MAC_TX_HEAD_HEAD m r) f.start s
    | [] => s
  let s1 := back 1 t.c1 (back 0 t.c0 (cntAdd m 46 1 (cntAdd m 39 t.tx.length s)))
  updMac m (fun t => { t with tx := [], c0 := [], c1 := [] })
    (putFs [(MAC_LINK_LINK_UP m, 0), (MAC_LINK_RATE m, 0), (MAC_LINK_PAUSED m, 0)] s1)

/-- The link re-judged (R184, R185): LINK_UP, RATE, RATE_MISMATCH, LINK_CHG and the event. (DESIGN CHOICE log 60) -/
def judgeLink (m : Nat) (s : State) : State :=
  let src := if flag s (MAC_CTL_EN m) && flag s (MAC_LINK_PCS_LOCK m) then linkSource s m else none
  let ok := match src with | some r => rateOk s m r | none => false
  let s1 := putB (MAC_LINK_RATE_MISMATCH m) (src.isSome && !ok) s
  let was := flag s (MAC_LINK_LINK_UP m)
  if was && !ok then macLinkEvent m (putF (MAC_IRQ_LINK_CHG m) 1 (linkDown m s1))
  else if !was && ok then
    macLinkEvent m (putF (MAC_IRQ_LINK_CHG m) 1 (putFs [(MAC_LINK_LINK_UP m, 1), (MAC_LINK_RATE m, src.getD 0)] s1))
  else if was && src.getD 0 != getF s (MAC_LINK_RATE m) then
    macLinkEvent m (putF (MAC_IRQ_LINK_CHG m) 1 (putFs [(MAC_LINK_LINK_UP m, 1), (MAC_LINK_RATE m, src.getD 0)] (linkDown m s1)))
  else s1

/-- MAC_LINK_CHANGE: the PCS's lock and its code word's report; a frame being received when the link falls is lost. -/
def execMacLinkChange (mac : Nat) (lock report : Bool) (rate : Nat) (receiving : Bool) (s : State) :
    Host.Outcome State Fault Refusal :=
  if mac < nMacs s then
    let s1 := judgeLink mac (updMac mac (fun t => { t with code := if report then some rate else none })
      (putB (MAC_LINK_PCS_LOCK mac) lock s))
    .next (if receiving && flag s (MAC_LINK_LINK_UP mac) && !flag s1 (MAC_LINK_LINK_UP mac) then cntAdd mac 15 1 s1 else s1)
  else .next s

/-! ## Receive (R188 to R193) -/

/-- A PAUSE frame consumed (R189, R197). (DESIGN CHOICE log 62) -/
def pauseFrame (m q : Nat) (s : State) : State :=
  let s1 := cntAdd m 5 1 s
  if !flag s (MAC_PAUSE_PAUSE_EN m) || flag s (MAC_LINK_WD_HOLD m) then s1
  else if q = 0 then
    if flag s (MAC_LINK_PAUSED m) then
      cntAdd m 44 ((ptpUnits s.ptp - (macOf s m).since) / 4294967296000) (putF (MAC_LINK_PAUSED m) 0 s1)
    else s1
  else if flag s (MAC_LINK_PAUSED m) then s1
  else updMac m (fun t => { t with since := ptpUnits s.ptp }) (putF (MAC_LINK_PAUSED m) 1 s1)

/-- Whether a valid perfect-match entry holds an address. -/
def perfectMatch (s : State) (m a : Nat) : Bool :=
  (List.range 32).any (fun e => flag s (MAC_AF_HI_VALID m e)
    && getF s (MAC_AF_LO_ADDR_LO m e) + 4294967296 * getF s (MAC_AF_HI_ADDR_HI m e) == a)

/-- Whether a frame goes to receive ring 0 (R191): type 0x88F7, or IPv4 UDP to port 319. -/
def toRing0 (b : List Nat) : Bool :=
  etherType b == 0x88F7
    || (etherType b == 0x0800 && be b 14 1 / 16 == 4 && be b 23 1 == 17 && be b 20 2 % 8192 == 0
      && be b (14 + 4 * (be b 14 1 % 16) + 2) 2 == 319)

/-- The ring of a frame, if an enabled one takes it (R191). -/
def ringOf (s : State) (m : Nat) (b : List Nat) : Option Nat :=
  if toRing0 b && flag s (MAC_RX_CFG_EN m 0) then some 0
  else if flag s (MAC_RX_CFG_EN m 1) then some 1 else none

/-- RX_NOBUF counted. -/
def noBuf (m : Nat) (s : State) : State := putF (MAC_IRQ_NOBUF m) 1 (cntAdd m 23 1 s)

/-- An accepted frame offered to the classifier and else to the rings (R189 to R191). -/
def offer (m stamp : Nat) (mcOnly : Bool) (b : List Nat) (s : State) : State :=
  let strip := isTagged b && flag s (MAC_CTL_STRIP_EN m)
  let f := if strip then stripTag b else b
  match classifyFrame s m f with
  | some e => strFrame e f (cntAdd m 40 1 s)
  | none =>
    if mcOnly then cntAdd m 21 1 s
    else match ringOf s m f with
      | some _ => updMac m (fun t => { t with rx := t.rx ++ [⟨f, if strip then some (be b 14 2) else none, stamp⟩] }) s
      | none => noBuf m s

/-- The address filter (R189). -/
def filterFrame (m stamp : Nat) (b : List Nat) (s : State) : State :=
  let match1 := perfectMatch s m (dstMac b)
  match castOf b with
  | 0 => if match1 then offer m stamp false b s else cntAdd m 20 1 s
  | 2 => if flag s (MAC_CTL_BC_EN m) then offer m stamp false b s else cntAdd m 20 1 s
  | _ =>
    if match1 then offer m stamp false b s
    else if flag s (MAC_CTL_MC_PASS m) then offer m stamp true b s
    else cntAdd m 20 1 s

/-- MAC_RX_FRAME (R188): the bytes up to the FCS, whether the FCS is good, a PCS error inside, and half nanoseconds from the
last tick to the delimiter. -/
def execMacRxFrame (mac : Nat) (bytes : List Nat) (fcsOk codeErr : Bool) (half : Nat) (s : State) :
    Host.Outcome State Fault Refusal :=
  if mac < nMacs s && flag s (MAC_LINK_LINK_UP mac) then
    let len := bytes.length + 4
    if codeErr then .next (cntAdd mac 15 1 s)
    else if len < 64 then .next (cntAdd mac (if fcsOk then 16 else 17) 1 s)
    else if getF s (MAC_MAXLEN_RX_MAX mac) < len then .next (cntAdd mac (if fcsOk then 18 else 19) 1 s)
    else if !fcsOk then .next (cntAdd mac 14 1 s)
    else if 16384 < rxHeld (macOf s mac) + len then .next (cntAdd mac 22 1 s)
    else
      let s1 := countGood mac 0 bytes len s
      let s2 := if isTagged bytes then cntAdd mac 6 1 s1 else s1
      if etherType bytes = 0x8808 ∧ be bytes 14 2 ≠ 1 then .next (cntAdd mac 20 1 s2)
      else if etherType bytes = 0x8808 ∧ dstMac bytes = 0x0180C2000001 then .next (pauseFrame mac (be bytes 16 2) s2)
      else .next (filterFrame mac (linOf (ingressTime s mac half) % 4294967296) bytes s2)
  else .next s

/-- The address of a descriptor of a ring. -/
def descAddr (base size i : Nat) : Nat := base + 16 * (i % 2 ^ (size + 3))

/-- The descriptors from HEAD that a frame takes (R193): indexes with address and length; none when they do not reach its
length. -/
def takeDescs (m base size i need got : Nat) : Nat → State → Option (List (Nat × Nat × Nat)) × State
  | 0, s => (none, s)
  | n + 1, s =>
    let w := dmaWord (5 + m) (descAddr base size i + 4) s
    if !bitOf w.1 31 then (none, w.2)
    else
      let a := dmaWord (5 + m) (descAddr base size i) w.2
      let l := bits w.1 0 14
      if need ≤ got + l then (some [(i, a.1, l)], a.2)
      else
        let r := takeDescs m base size (i + 1) need (got + l) n a.2
        (r.1.map (fun t => (i, a.1, l) :: t), r.2)

/-- A frame written across its descriptors in order: the bytes written into each. -/
def fillDescs (m : Nat) (b : List Nat) : List (Nat × Nat × Nat) → State → List (Nat × Nat) × State
  | [], s => ([], s)
  | (i, a, l) :: t, s =>
    let part := b.take l
    let r := fillDescs m (b.drop l) t (dmaWrite (5 + m) a part s)
    ((i, part.length) :: r.1, r.2)

/-- RING_FRAME_DELIVER (R191 to R193): the ring frame at the head of the FIFO takes its descriptors whole, or is dropped. -/
def deliver (m : Nat) (f : RxFrame) (r : Nat) (s : State) : State :=
  let base := getF s (MAC_RX_BASE_BASE m r)
  let size := getF s (MAC_RX_CFG_SIZE m r)
  let head := getF s (MAC_RX_HEAD_HEAD m r)
  let x := takeDescs m base size head f.bytes.length 0 32 s
  match x.1 with
  | none => noBuf m x.2
  | some ds =>
    let y := fillDescs m f.bytes ds x.2
    let back := fun (d : Nat × Nat) (s : State) =>
      let first := d.1 = head
      let last := d.1 + 1 = head + ds.length
      let empty := (ds.getD (d.1 - head) (0, 0, 0)).2.2 = 0
      let w := d.2 + 16384 * b2n first + 32768 * b2n last + 65536 * b2n empty + 131072 * b2n (f.tci.isSome && last)
      let a := descAddr base size d.1
      let tail := if last then [w, f.tci.getD 0, f.stamp] else [w]
      let s1 := dmaWrite (5 + m) (a + 4) (wordsToBytes tail) s
      if empty then cntAdd m 42 1 s1 else s1
    let s1 := y.1.foldr back y.2
    cntAdd m 41 1 (putF (MAC_RX_HEAD_HEAD m r) ((head + ds.length) % 2 ^ (size + 3))
      (putF (MAC_IRQ_RX_DONE m) (getF s1 (MAC_IRQ_RX_DONE m) ||| 2 ^ r) s1))

/-- RING_FRAME_DELIVER. -/
def execRingFrameDeliver (mac : Nat) (s : State) : Host.Outcome State Fault Refusal :=
  match (macOf s mac).rx with
  | [] => .next s
  | f :: rest =>
    let s1 := updMac mac (fun t => { t with rx := rest }) s
    match ringOf s mac f.bytes with
    | some r => .next (deliver mac f r s1)
    | none => .next (noBuf mac s1)

/-! ## Transmit (R194, R195, R227) -/

/-- Descriptors of a chain from an index: (index, address, control word), up to LAST; none while one is not handed over. -/
def readChain (m base size i : Nat) : Nat → State → Option (List (Nat × Nat × Nat)) × State
  | 0, s => (some [], s)
  | n + 1, s =>
    let w := dmaWord (5 + m) (descAddr base size i + 4) s
    if !bitOf w.1 31 then (none, w.2)
    else
      let a := dmaWord (5 + m) (descAddr base size i) w.2
      if bitOf w.1 15 && bits w.1 0 14 != 0 then (some [(i, a.1, w.1)], a.2)
      else
        let r := readChain m base size (i + 1) n a.2
        (r.1.map (fun t => (i, a.1, w.1) :: t), r.2)

/-- A descriptor returned (R194): ERR and SENT, OWN cleared, other bits as they were. -/
def returnDesc (m base size i : Nat) (bad sent : Bool) (s : State) : State :=
  let a := descAddr base size i + 4
  let w := dmaWord (5 + m) a s
  dmaWrite (5 + m) a (bytesOf (bits w.1 0 17 + 131072 * b2n bad + 262144 * b2n sent + bits w.1 19 12 * 524288) 4) w.2

/-- TX_DONE of a ring. -/
def txDone (m r : Nat) (s : State) : State := putF (MAC_IRQ_TX_DONE m) (getF s (MAC_IRQ_TX_DONE m) ||| 2 ^ r) s

/-- A chain returned in error (R194). -/
def errChain (m r base size : Nat) (ds : List (Nat × Nat × Nat)) (s : State) : State :=
  let s1 := ds.foldl (fun s d =>
    let s1 := returnDesc m base size d.1 true false s
    if bits d.2.2 0 14 = 0 then cntAdd m 43 1 s1 else s1) s
  txDone m r (cntAdd m 38 1 s1)

/-- The bytes of a chain's descriptors in order. (DESIGN CHOICE log 62) -/
def gatherChain (m : Nat) : List (Nat × Nat × Nat) → State → List Nat × State
  | [], s => ([], s)
  | d :: t, s =>
    let x := dmaRead (5 + m) d.2.1 (bits d.2.2 0 14) s
    let y := gatherChain m t x.2
    (x.1 ++ y.1, y.2)

/-- TX_CHAIN_FETCH (R194): a chain moved whole into the FIFO, or returned in error; an empty descriptor at HEAD returned. -/
def fetchChain (m r : Nat) (s : State) : State :=
  let base := getF s (MAC_TX_BASE_BASE m r)
  let size := getF s (MAC_TX_CFG_SIZE m r)
  let head := getF s (MAC_TX_HEAD_HEAD m r)
  let adv := fun n (s : State) => putF (MAC_TX_HEAD_HEAD m r) ((head + n) % 2 ^ (size + 3)) s
  let w := dmaWord (5 + m) (descAddr base size head + 4) s
  if !bitOf w.1 31 then w.2
  else if bits w.1 0 14 = 0 then txDone m r (adv 1 (cntAdd m 43 1 (returnDesc m base size head false false w.2)))
  else
    let c := readChain m base size head 32 w.2
    match c.1 with
    | none => c.2
    | some ds =>
      let full := ds.filter (fun d => bits d.2.2 0 14 != 0)
      let n := (full.map (fun d => bits d.2.2 0 14)).sum
      let ins := flag s (MAC_TX_TAG_TAG_INS m r)
      let hasLast := match ds.getLast? with | some d => bitOf d.2.2 15 && bits d.2.2 0 14 != 0 | none => false
      if !bitOf w.1 14 || !hasLast || getF s (MAC_MAXLEN_TX_CTRL_MAX m) < n + 4 + 4 * b2n ins then
        adv ds.length (errChain m r base size ds c.2)
      else
        let g := gatherChain m full c.2
        let t := if ins then putTag (getF s (MAC_TX_TAG_TCI m r)) g.1 else g.1
        let b := t ++ List.replicate (60 - t.length) 0
        if 16384 < txHeld (macOf s m) + b.length + 4 then c.2
        else
          let f : TxFrame := ⟨head, ds.map (fun d => (d.1, bits d.2.2 0 14)), b, ds.any (fun d => bitOf d.2.2 16)⟩
          adv ds.length (updMac m (fun t => if r = 0 then { t with c0 := t.c0 ++ [f] } else { t with c1 := t.c1 ++ [f] }) g.2)

/-- TX_CHAIN_FETCH: rings do not advance while the link is down (R185). -/
def execTxChainFetch (mac ring : Nat) (s : State) : Host.Outcome State Fault Refusal :=
  if mac < nMacs s && ring < 2 && flag s (MAC_TX_CFG_EN mac ring) && flag s (MAC_LINK_LINK_UP mac) then .next (fetchChain mac ring s)
  else .next s

/-- Where a PTP message begins in a frame and whether UDP carries it (R227); at most one tag is passed over. -/
def ptpAt (b : List Nat) : Option (Nat × Bool) :=
  let o := if isTagged b then 4 else 0
  if be b (12 + o) 2 = 0x88F7 then some (14 + o, false)
  else if be b (12 + o) 2 = 0x0800 ∧ be b (14 + o) 1 = 0x45 ∧ be b (23 + o) 1 = 17 ∧ be b (36 + o) 2 = 319 then some (42 + o, true)
  else none

/-- Bytes replaced at an offset. -/
def patch (b : List Nat) (off : Nat) (x : List Nat) : List Nat := b.take off ++ x ++ b.drop (off + x.length)

/-- The one-step Sync insertion (R227). (DESIGN CHOICE log 62) -/
def oneStep (s : State) (m time : Nat) (f : TxFrame) : List Nat :=
  match ptpAt f.bytes with
  | some (o, udp) =>
    if f.tsReq && bitOf (getF s PTP_CTL_ONE_STEP) m && be f.bytes o 1 % 16 == 0 then
      let ns := time / 4294967296
      let b := patch f.bytes (o + 34) (beBytes (ns / 1000000000) 6 ++ beBytes (ns % 1000000000) 4)
      if udp then patch b (o - 2) [0, 0] else b
    else f.bytes
  | none => f.bytes

/-- A frame on the wire with its FCS, counted. (DESIGN CHOICE log 60) -/
def wire (m : Nat) (b : List Nat) (s : State) : State :=
  let s1 := countGood m 24 b (b.length + 4) s
  emit .frame (m :: (b ++ fcsOf b)) (if isTagged b then cntAdd m 29 1 s1 else s1)

/-- A control frame sent: its descriptors returned with SENT, and the timestamp of one with TS_REQ (R194, R226). -/
def sendCtrl (m r half : Nat) (f : TxFrame) (s : State) : State :=
  let time := egressTime s m half
  let base := getF s (MAC_TX_BASE_BASE m r)
  let size := getF s (MAC_TX_CFG_SIZE m r)
  let s1 := f.chain.foldl (fun s d =>
    if d.2 = 0 then cntAdd m 43 1 (returnDesc m base size d.1 false false s) else returnDesc m base size d.1 false true s)
    (wire m (oneStep s m time f) s)
  let s2 := if f.tsReq then
      f.chain.foldl (fun s d =>
        let w := dmaWord (5 + m) (descAddr base size d.1 + 4) s
        if bitOf w.1 16 && d.2 != 0 then dmaWrite (5 + m) (descAddr base size d.1 + 12) (bytesOf (linOf time) 4) w.2 else w.2) s1
    else s1
  txDone m r s2

/-- MAC_TX_FRAME_START (R195): the first waiting of stream frames, ring 0 and ring 1. -/
def execMacTxFrameStart (mac half : Nat) (s : State) : Host.Outcome State Fault Refusal :=
  let t := macOf s mac
  if mac < nMacs s && flag s (MAC_LINK_LINK_UP mac) && !flag s (MAC_LINK_PAUSED mac) then
    match t.tx, t.c0, t.c1 with
    | f :: rest, _, _ => .next (wire mac f.2 (cntAdd mac 30 1 (updMac mac (fun t => { t with tx := rest }) s)))
    | [], f :: rest, _ => .next (sendCtrl mac 0 half f (updMac mac (fun t => { t with c0 := rest }) s))
    | [], [], f :: rest => .next (sendCtrl mac 1 half f (updMac mac (fun t => { t with c1 := rest }) s))
    | [], [], [] => .next s
  else .next s

/-! ## PAUSE (R197, R198) -/

/-- Microseconds that PAUSE has held, by the PTP counter. (DESIGN CHOICE log 62) -/
def pausedFor (s : State) (m : Nat) : Nat := (ptpUnits s.ptp - (macOf s m).since) / 4294967296000

/-- PAUSE_EXPIRY (R197). -/
def execPauseExpiry (mac : Nat) (s : State) : Host.Outcome State Fault Refusal :=
  if mac < nMacs s && flag s (MAC_LINK_PAUSED mac) then .next (cntAdd mac 44 (pausedFor s mac) (putF (MAC_LINK_PAUSED mac) 0 s))
  else .next s

/-- PAUSE_WATCHDOG_EXPIRY (R198): PAUSE has held a waiting frame for WD_US. -/
def execPauseWatchdogExpiry (mac : Nat) (s : State) : Host.Outcome State Fault Refusal :=
  if mac < nMacs s && flag s (MAC_LINK_PAUSED mac) && flag s (MAC_PAUSE_WD_US mac) && 0 < txHeld (macOf s mac) then
    let s1 := cntAdd mac 45 1 (cntAdd mac 44 (pausedFor s mac)
      (putFs [(MAC_LINK_PAUSED mac, 0), (MAC_LINK_WD_HOLD mac, 1), (MAC_IRQ_PAUSE_WD mac, 1)] s))
    .next (raiseOwner 11 mac 0x0045 [mac, getF s1 (MAC_CNT_COUNT mac 45)] s1)
  else .next s

/-- PAUSE_IGNORE_END (R198). -/
def execPauseIgnoreEnd (mac : Nat) (s : State) : Host.Outcome State Fault Refusal :=
  if mac < nMacs s then .next (putF (MAC_LINK_WD_HOLD mac) 0 s) else .next s

/-! ## Counters and rings (R193, R199) -/

/-- All 48 counters copied to the snapshots and cleared. -/
def snapCounters (m : Nat) (s : State) : State :=
  (List.range 48).foldl (fun s i => putF (MAC_CNT_COUNT m i) 0 (putF (MAC_SNAP_COUNT m i) (getF s (MAC_CNT_COUNT m i)) s)) s

/-- MAC_COUNTER_SNAP (R199). -/
def execMacCounterSnap (mac : Nat) (s : State) : Host.Outcome State Fault Refusal :=
  if mac < nMacs s then .next (snapCounters mac s) else .next s

/-- A ring's EN written; enabling sets HEAD to 0. -/
def ringEnable (m : Nat) (tx : Bool) (r : Nat) (en : Bool) (s : State) : State :=
  let f := if tx then MAC_TX_CFG_EN m r else MAC_RX_CFG_EN m r
  let h := if tx then MAC_TX_HEAD_HEAD m r else MAC_RX_HEAD_HEAD m r
  if en && !flag s f then putF h 0 (putF f 1 s) else putB f en s

/-- RING_ENABLE. -/
def execRingEnable (mac : Nat) (tx : Bool) (ring : Nat) (en : Bool) (s : State) : Host.Outcome State Fault Refusal :=
  if mac < nMacs s && ring < 2 then .next (ringEnable mac tx ring en s) else .next s

/-! ## MDIO (R186, R187) -/

/-- MDIO masters present. -/
def nMdio (s : State) : Nat := nMacs s / 2

/-- A transaction starts on the bus. -/
def mdioStart (bus : Nat) (o : MdioOp) (s : State) : State :=
  emit .mdio [bus, o.phy, o.dev, o.cl45, o.op, o.data] s

/-- A transaction queued; it starts when the bus is free. -/
def mdioQueue (bus : Nat) (o : MdioOp) (s : State) : State :=
  let q := s.net.mdio.get bus []
  let s1 := { s with net := { s.net with mdio := s.net.mdio.put bus (q ++ [o]) } }
  if q.isEmpty then mdioStart bus o s1 else s1

/-- MDIO_POLL (R186): a poll falls due; it waits for its turn. -/
def execMdioPoll (mac : Nat) (s : State) : Host.Outcome State Fault Refusal :=
  if mac < nMacs s && flag s (MAC_PHY_INTERVAL mac) then
    .next (mdioQueue (mac / 2) ⟨mac, getF s (MAC_PHY_PHYAD mac), getF s (MAC_PHY_DEVAD mac), getF s (MAC_PHY_CL45 mac), 2,
      getF s (MAC_PHY_REG mac)⟩ s)
  else .next s

/-- MDIOb_CMD written (R187). (DESIGN CHOICE log 63) -/
def mdioCommand (bus value : Nat) (s : State) : State :=
  let s1 := putFs [(MDIO_CMD_PHYAD bus, bits value 0 5), (MDIO_CMD_DEVAD bus, bits value 5 5), (MDIO_CMD_CL45 bus, bits value 10 1),
    (MDIO_CMD_OP bus, bits value 11 2), (MDIO_CMD_BUSY bus, 1)] s
  mdioQueue bus ⟨255, bits value 0 5, bits value 5 5, bits value 10 1, bits value 11 2, getF s (MDIO_DATA_DATA bus)⟩ s1

/-- MDIO_TRANSACTION. -/
def execMdioTransaction (bus value : Nat) (s : State) : Host.Outcome State Fault Refusal :=
  if bus < nMdio s then .next (mdioCommand bus value s) else .next s

/-- What a polled register says (R186): none without a link, else the rate code. -/
def decodePoll (s : State) (m v : Nat) : Option Nat :=
  if bitOf v (getF s (MAC_PHY_MAP_LINK_BIT m)) then
    some (match bits v (getF s (MAC_PHY_MAP_SPD_SHIFT m)) 2 with
      | 0 => getF s (MAC_PHY_MAP_CODE0 m)
      | 1 => getF s (MAC_PHY_MAP_CODE1 m)
      | 2 => getF s (MAC_PHY_MAP_CODE2 m)
      | _ => getF s (MAC_PHY_MAP_CODE3 m))
  else none

/-- MDIO_DONE (R187): the running transaction ends with the data read, and the next starts. -/
def execMdioDone (bus data : Nat) (s : State) : Host.Outcome State Fault Refusal :=
  match s.net.mdio.get bus [] with
  | [] => .next s
  | o :: rest =>
    let s1 := { s with net := { s.net with mdio := s.net.mdio.put bus rest } }
    let s2 :=
      if o.who < 4 then judgeLink o.who (updMac o.who (fun t => { t with poll := decodePoll s o.who data }) s1)
      else
        let s2 := if 2 ≤ o.op then putF (MDIO_DATA_DATA bus) data s1 else s1
        putB (MDIO_CMD_BUSY bus) (rest.any (fun x => x.who == 255)) s2
    match rest with
    | n :: _ => .next (mdioStart bus n s2)
    | [] => .next s2

end Sys2Proof.Machine
end

