-- ==== Sys2Proof/Machine/Reset.lean ====
section
/-! DEFINITION. The resets and the boot: POR, PIN, CTL and FAB resets (R386, R387, R398, R18 to R20, R325), the straps (R287,
R326, R332), the boot ROM (R5, R327 to R330), the firmware's entry, and what the firmware puts back after a FAB reset. -/

namespace Sys2Proof.Machine

/-! ## Registers by reset class -/

/-- The registers without the fields that a reset clears, by their Cleared-by column. (DESIGN CHOICE log 74) -/
def clearClasses (cs : List Cleared) (m : AMap Nat) : AMap Nat :=
  m.filter (fun p => match fieldOfKey p.1 with | some f => !cs.contains f.cls | none => true)

/-! ## The FAB reset -/

/-- Whether a register address holds a setting that the firmware rebuilds: SP_, AES_, STR_ and AMP_ registers, but for
their counters and data windows (R398). -/
def rebuilt (a : Nat) : Bool :=
  [0x2007, 0x2008, 0x200A, 0x200D].contains (a / 65536) && a != 0x20080014 && a != 0x200A0004 && a != 0x200D0014
    && !(a / 65536 == 0x2008 && 0x100 ≤ a % 65536 && a % 16 == 8) && !(0x200D0100 ≤ a && a < 0x200D0500 && a % 32 == 16)

/-- The settings that the firmware holds in its object model. -/
def settings (m : AMap Nat) : AMap Nat :=
  m.filter (fun p => rebuilt (p.1 / 32) && (match fieldOfKey p.1 with
    | some f => f.cls == .ppf && (f.typ == .rw || f.typ == .rwp)
    | none => false))

/-- The lend masks (R136). -/
def lendMasks (m : AMap Nat) : AMap Nat := m.filter (fun p => 0x20040200 ≤ p.1 / 32 && p.1 / 32 < 0x20040600)

/-- The object model of the media configuration as it stands; a table without a running image keeps what it had.
(DESIGN CHOICE log 87) -/
def mediaNow (s : State) : Media :=
  let new : Media := ⟨true, settings s.regs, s.rte.sil, s.str.cls, s.str.rx, s.str.tx, s.str.rxMap, s.str.txMap,
    s.rte.act, s.rte.actRec, s.dyn.act, lendMasks s.regs⟩
  match s.media with
  | some m =>
    let base := if m.waiting then m else new
    if s.fab.img.isSome then { base with act := new.act, records := new.records, dyn := new.dyn, lend := new.lend }
    else { base with act := m.act, records := m.records, dyn := m.dyn, lend := m.lend }
  | none => new

/-- A tile after a FAB reset (R71): state, position, repeats and fault cleared, memories and registers kept.
(DESIGN CHOICE log 88) -/
def tileFabReset (t : Tile) : Tile :=
  { t with pc := 0, cyc := 0, ended := false, reps := [], pend := [], accs := [], lands := [], stopReq := false, rgn := [] }

/-- The FAB reset (R386, R398): media-side engines, slot plane, calendars and tile state; not MAC configuration, PTP, CLK or
PAIR. On the way to Quiet the stage-bus modules stay READY (R390). (DESIGN CHOICE log 88) -/
def fabReset (quiet : Bool) (s : State) : State :=
  watchLife (fun s =>
    let s1 := match s.fab.session with | some x => dropSession x.seat s | none => s
    let keep := if quiet then s.regs.filter (fun p => 0x200D0700 ≤ p.1 / 32 && p.1 / 32 < 0x200D0720) else []
    let regs := keep.foldl (fun (m : AMap Nat) p => m.put p.1 p.2) ((clearClasses [.ppf] s1.regs).filter (fun p => !(lendMasks s.regs).any (· == p)))
    let fab := { s.fab with
      ci := 0, cycle := 0, startAt := none, stopReq := false, cal := Cal.init, shadow := Cal.init, img := none, staged := none,
      sched := [], ramp := none, gain := 256, family := none, familyStopped := false, gapLoaded := false, guardLog := [],
      written := [], served := [], pageB := [] }
    let pair := { Pair.init with
      drivers := s.pair.drivers, window := s.pair.window, lag := s.pair.lag, last := s.pair.last, missing := s.pair.missing,
      down := s.pair.down, train := s.pair.train, skewOver := s.pair.skewOver, partnerImg := s.pair.partnerImg,
      rsReq := s.pair.rsReq, suspended := s.pair.suspended, rejoin := s.pair.rejoin }
    { s1 with
      regs := regs
      live := []
      fab := { fab with session := none }
      media := some (mediaNow s)
      plane := ⟨[], []⟩
      tiles := s.tiles.mapVals tileFabReset Tile.init
      ash := { s.ash with rgn := [], log := [] }
      rte := Rte.init
      dyn := Dyn.init
      port := ⟨[], []⟩
      str := Str.init
      amp := { Amp.init with mod := if quiet then s.amp.mod else [] }
      oenDark := s.oenDark.filter (fun a => a / 65536 == 0x200C)
      pair := pair
      fw := { s1.fw with silReported := [], silPending := [] } }) s

/-! ## What the firmware does after a FAB reset (R387) -/

/-- Registers put back. -/
def putRegs (l : AMap Nat) (s : State) : State := { s with regs := l.foldl (fun (m : AMap Nat) p => m.put p.1 p.2) s.regs }

/-- The settings put back from the object model. (DESIGN CHOICE log 87) -/
def rebuildSettings (s : State) : State :=
  match s.media with
  | some m =>
    if m.waiting then
      let str := { Str.init with cls := m.cls, rx := m.rx, tx := m.tx, rxMap := m.rxMap, txMap := m.txMap }
      putRegs m.regs { s with media := some { m with waiting := false }, str := str, rte := { s.rte with sil := m.sil } }
    else s
  | none => s

/-- The route, dynamics and lend masks of the object model put back behind a recommitted image. (DESIGN CHOICE log 87) -/
def rebuildSets (sil : AMap (Nat × Nat)) (s : State) : State :=
  let s0 := { s with rte := { s.rte with sil := sil } }
  match s0.media with
  | some m =>
    let snd := m.act.foldl (fun (a : AMap Sounding) p =>
      let v := p.2.value
      if xpValid v then a.put p.1 ⟨xpSrc v, xpDest v, 0, xpGain v, 0, 0, 0, false⟩ else a) []
    putRegs m.lend { s0 with
      media := none
      rte := { s0.rte with act := m.act, shadow := m.act, actRec := m.records, shRec := m.records, snd := snd }
      dyn := { s0.dyn with act := m.dyn, shadow := m.dyn } }
  | none => s0

/-- The image that the firmware held committed again, with its sets (R387). (DESIGN CHOICE log 87) -/
def recommitHeld (s : State) : State :=
  match s.fab.lastImg with
  | some img => rebuildSets s.rte.sil (recommit img s)
  | none => s

/-- The firmware after a FAB reset: the settings at once; the image, and the start of the fabric, unless the device sleeps or
the fabric is held stopped (R387, R390, R397). (DESIGN CHOICE log 87) -/
def fwRecover (s : State) : State :=
  if !fwUp s then s
  else
    let s1 := rebuildSettings s
    if s1.fab.img.isSome || s1.pwr.entering != 0 || getF s1 PWR_STAT_STATE != 0 || s1.pwr.hotStop || s1.pwr.waking then s1
    else startFabric (recommitHeld s1)

/-- FAB_RESET (R386, R387): the firmware writes FAB = 1 to PWR_CTL. -/
def execFabReset (s : State) : Host.Outcome State Fault Refusal :=
  if fwUp s then .next (fwRecover (fabReset false s)) else .next s

/-! ## The CTL reset -/

/-- A seat's part of a CTL reset (R325, R348): mailbox, ring and hold queue cleared, lists lost, the attachment over.
(DESIGN CHOICE log 21, 89) -/
def seatCtlReset (t : Seat) : Seat :=
  { t with lease := 0, expect := none, lastExec := none, mail := [], hold := [], dropped := 0, routes := [], dests := [], subs := [] }

/-- Staging that no armed entry needs is discarded (R19): the session, unarmed images and dynamics records, and unarmed
parameter pages, whose shadow copies are recopied before their next write. (DESIGN CHOICE log 88) -/
def dropStaging (s : State) : State :=
  let armed := commitArmed s
  let pages := match s.fab.img with | some i => i.pages.map Prod.fst | none => []
  let free := pages.filter (fun p => pageTag s p < 64 && !s.rte.stale.contains p)
  let dynSh := s.dyn.shadow.filter (fun p => 64 ≤ dynTag s p.1)
  let dyn := ((s.dyn.act.map Prod.fst).filter (fun i => dynTag s i < 64)).foldl (fun m i => putRec m i (dynRec s i)) dynSh
  let fab := if armed then { s.fab with session := none }
    else { s.fab with session := none, staged := none, shadow := s.fab.cal }
  { s with fab := fab, rte := { s.rte with stale := free ++ s.rte.stale }, dyn := { s.dyn with shadow := dyn } }

/-- The CTL reset (R325, R18 to R20, R398): masters reset, the control domain cleared, the boot ROM on its CTL path; the audio
side runs on. (DESIGN CHOICE log 15, 74, 89) -/
def ctlReset (s : State) : State :=
  let s1 := [0, 1, 5, 6, 7, 8, 9].foldl (fun s m => masterReset m s) s
  let fail := flag s1 SYS_BOOT_STAT_TRIAL && !flag s1 SYS_BOOT_STAT_CONFIRM && (s1.ctl.reqWdt || s1.ctl.reqLock)
  let s2 := setIf SYS_BOOT_STAT_TRIAL_FAIL fail (setIf SYS_RESET_CAUSE_WATCHDOG s1.ctl.reqWdt
    (setIf SYS_RESET_CAUSE_LOCKSTEP s1.ctl.reqLock (setIf SYS_RESET_CAUSE_SOFTWARE s1.ctl.reqSoft (wrap SYS_RESET_CAUSE_CTL_COUNT 1 s1))))
  let s3 := { s2 with regs := clearClasses [.ppc, .ppcs] s2.regs, seats := s2.seats.mapVals seatCtlReset Seat.init }
  let ctl := { s3.ctl with boot := .romCtl, reqWdt := false, reqLock := false, reqSoft := false, kick := none, wram := [] }
  let fw := { s3.fw with
    owners := s3.fw.owners.map (fun p => (p.1, { p.2 with orphan := true }))
    nonce := none, silReported := [], silPending := [], overflowSeen := false }
  let net := { s3.net with
    mac := s3.net.mac.mapVals (fun m => { m with c0 := [], c1 := [] }) MacSt.init
    mdio := s3.net.mdio.mapVals (fun q => q.filter (fun o => o.who != 255)) [] }
  let s4 := { s3 with ctl := ctl, vsr := { s3.vsr with log := [], held := [] }, fw := fw, net := net }
  irqAll 3 (restartPass (setSteer false (dropStaging
    (putFs [(LIFE_STATUS_CTL_RESTART, 1), (LIFE_STATUS_BOOT_ROM, 1), (CLK_DPLL_CTL_STEER, 0)] s4))))

/-- CTL_RESET (R325): a requested CTL reset runs; causes that arrived together are recorded together (R387). -/
def execCtlReset (s : State) : Host.Outcome State Fault Refusal :=
  if s.ctl.reqWdt || s.ctl.reqLock || s.ctl.reqSoft then .next (ctlReset s) else .next s

/-- WATCHDOG_EXPIRY (R324): the release with ESCALATE, the request for a CTL reset, and the count from TIMEOUT again. -/
def execWatchdogExpiry (s : State) : Host.Outcome State Fault Refusal :=
  if s.ctl.boot == .inReset || s.pwr.rest || (s.ctl.debugOpen && flag s SYS_WDT_CTL_DBG_PAUSE) then .next s
  else
    let s1 := if flag s SYS_WDT_CTL_ESCALATE then selfDiag 8 s else s
    .next { s1 with ctl := { s1.ctl with reqWdt := true, wdtCount := getF s SYS_WDT_CTL_TIMEOUT } }

/-- LOCKSTEP_MISMATCH (R323): the release, and the request for a CTL reset. -/
def execLockstepMismatch (s : State) : Host.Outcome State Fault Refusal :=
  if s.ctl.boot == .inReset || s.pwr.rest then .next s
  else
    let s1 := selfDiag 4 s
    .next { s1 with ctl := { s1.ctl with reqLock := true } }

/-- The word that completes a matching kick pair (R324). (DESIGN CHOICE log 15, 17) -/
def wdtKey : Nat := 0x00004B1C

/-- SYS_WDT_KICK and SYS_WDT_KICK_C written (R324). (DESIGN CHOICE log 17) -/
def kickWrite (complement : Bool) (v : Nat) (s : State) : State :=
  if !complement then { s with ctl := { s.ctl with kick := some v } }
  else
    let s1 := { s with ctl := { s.ctl with kick := none } }
    if s.ctl.kick = some wdtKey ∧ v = not32 wdtKey then
      { s1 with ctl := { s1.ctl with wdtCount := getF s SYS_WDT_CTL_TIMEOUT } }
    else putF SYS_WDT_CTL_PAIRWORD 1 s1

/-- WATCHDOG_KICK (R324): the Birrek writes one word of the pair. -/
def execWatchdogKick (complement : Bool) (value : Nat) (s : State) : Host.Outcome State Fault Refusal :=
  if s.ctl.boot == .inReset || s.pwr.rest then .next s else .next (kickWrite complement (lo32 value) s)

/-! ## POR and PIN -/

/-- What both resets leave (R386, R398): every block as at reset, the pins as they are, the external flash, what has left the
block, the counter of free values and the queue. -/
def chipReset (regs : AMap Nat) (s : State) : State :=
  { State.reset with
    fuses := s.fuses, pins := s.pins, regs := regs, out := s.out, free := s.free, pending := s.pending
    ctl := { State.reset.ctl with boot := .inReset, flash := s.ctl.flash, debugOpen := !s.fuses.dbgLock } }

/-- The lifeline counts that a PIN reset keeps. (DESIGN CHOICE log 90) -/
def pinReset (s : State) : State :=
  let kept := s.regs.filter (fun p => match fieldOfKey p.1 with | some f => f.cls == .por | none => false)
  putF SYS_RESET_CAUSE_PIN 1 (bump LIFE_CNT_PIN_RESETS 1 (chipReset kept s))

/-- PIN_RESET (R386): RST_n or PGOOD low for 1 µs. The device stays in it until RESET_RELEASE. -/
def execPinReset (s : State) : Host.Outcome State Fault Refusal := .next (pinReset s)

/-- The capability word shown in SYS_CAP (R3). (DESIGN CHOICE log 3, 90) -/
def loadCap (s : State) : State :=
  putFs [(SYS_CAP_VARIANT, bits (cap s) 0 2), (SYS_CAP_TILES, nTiles s), (SYS_CAP_ASH_BANKS, nBanks s), (SYS_CAP_AMP, b2n (hasAmp s)),
    (SYS_CAP_MACS, nMacs s), (SYS_CAP_SOERI_LANES, nSoeri s), (SYS_CAP_AES3, nAes s)] s

/-- POR (R386): everything, the fuses loaded again; a PIN reset that was running is recorded with it (R387).
(DESIGN CHOICE log 90) -/
def porReset (s : State) : State :=
  let pin := s.ctl.boot == .inReset && flag s SYS_RESET_CAUSE_PIN
  loadCap (setIf SYS_RESET_CAUSE_PIN pin (putF SYS_RESET_CAUSE_POR 1 (chipReset [] s)))

/-- POWER_ON_RESET (R386): the device stays in reset until RESET_RELEASE. -/
def execPowerOnReset (s : State) : Host.Outcome State Fault Refusal := .next (porReset s)

/-- The straps sampled (R287, R326, R332): BOOT_SRC, SEAT_MAP, PAIR_EN and UNIT_ID, and the levels of EMUTE_n and CLAIM_IN.
(DESIGN CHOICE log 4, 90) -/
def sampleStraps (bootSrc seatMap : Nat) (pairEn unitId : Bool) (s : State) : State :=
  let s1 := { s with pins := { s.pins with bootSrc := bootSrc % 4, seatMap := seatMap % 4, pairEn := pairEn, unitId := unitId } }
  bindBySeatMap (seatMap % 4)
    (putFs [(SYS_BOOT_STAT_BOOT_SRC, bootSrc), (SYS_BOOT_STAT_SEAT_MAP, seatMap), (PAIR_STAT_PAIR_EN, b2n pairEn),
      (PAIR_STAT_UNIT, b2n unitId), (LIFE_STATUS_EMUTE, b2n s.pins.emuteLow), (PAIR_STAT_CLAIM_IN, b2n s.pins.claimIn)] s1)

/-- A boot fault recorded (R5, R327, R330): LIFE_FAULT.BOOT and ALERT_n. (DESIGN CHOICE log 86) -/
def bootFault (code : Nat) (s : State) : State := watchLife (fun s => setAlert (putF LIFE_FAULT_BOOT code s)) s

/-- RESET_RELEASE (R387, R399): the straps are sampled and the boot ROM begins; a fuse pair that fails its check (R5) or a
strap conflict (R327) ends it there. -/
def execResetRelease (bootSrc seatMap : Nat) (pairEn unitId : Bool) (s : State) : Host.Outcome State Fault Refusal :=
  if s.ctl.boot ≠ .inReset then .next s
  else
    let s1 := putF LIFE_STATUS_BOOT_ROM 1 (sampleStraps bootSrc seatMap pairEn unitId s)
    if s.fuses.capC ≠ not32 s.fuses.cap then .next (bootFault 1 { s1 with ctl := { s1.ctl with boot := .capFail } })
    else if bootSrc % 4 = 1 ∧ seatMap % 4 = 3 then .next (bootFault 3 { s1 with ctl := { s1.ctl with boot := .strapFail } })
    else .next { s1 with ctl := { s1.ctl with boot := .romCold } }

/-! ## Firmware images (R328, R329) -/

/-- A source of firmware bytes. -/
inductive FwSrc where
  | flash (base : Nat)
  | ashlar (word : Nat)
  deriving DecidableEq, Repr

/-- A byte of a source. (DESIGN CHOICE log 5) -/
def FwSrc.byte (x : FwSrc) (s : State) (o : Nat) : Nat :=
  match x with
  | .flash b => s.ctl.flash.get (b + o) 0
  | .ashlar w => bits (ashPeek s (w + o / 4)) (8 * (o % 4)) 8

/-- Bytes of a source. -/
def FwSrc.bytes (x : FwSrc) (s : State) (o n : Nat) : List Nat := (List.range n).map (fun k => x.byte s (o + k))

/-- A word of a source. -/
def FwSrc.word (x : FwSrc) (s : State) (o : Nat) : Nat := ofBytes (x.bytes s o 4)

/-- Whether a header word is followed by its complement. -/
def FwSrc.pair (x : FwSrc) (s : State) (o : Nat) : Bool := x.word s (o + 4) == not32 (x.word s o)

/-- LENGTH. -/
def FwSrc.len (x : FwSrc) (s : State) : Nat := x.word s 0x18

/-- Whether a source holds an authentic image (R328). (DESIGN CHOICE log 85) -/
def authentic (x : FwSrc) (s : State) : Bool :=
  let n := x.len s
  let key := x.word s 0x28
  let pub := x.bytes s 0x30 65
  let hash := x.bytes s (0x74 + n) 32
  [0x00, 0x08, 0x10, 0x18, 0x20].all (x.pair s) && x.word s 0 == 0x4249524B && n % 4 == 0 && n ≤ 393216 && key < 4
    && x.word s 0x10 < 64 && s.fuses.svnFloor ≤ x.word s 0x10
    && !s.fuses.keyRevoked.getD key true && ofBeBytes (sha256 pub) == s.fuses.keyHash.getD key 0 && pub.getD 0 0 == 4
    && sha256 (x.bytes s 0 (0x74 + n)) == hash
    && ecdsaOk (ofBeBytes ((pub.drop 1).take 32)) (ofBeBytes (pub.drop 33)) hash
      (ofBeBytes (x.bytes s (0x94 + n) 32)) (ofBeBytes (x.bytes s (0xB4 + n) 32))

/-- The flash slots (R329). -/
def slotSrc (b : Bool) : FwSrc := .flash (if b then 0x80000 else 0x10000)
/-- What the host has written to the start of the staging banks (R327). -/
def stagedSrc (s : State) : FwSrc := .ashlar (131072 * partBank s)
/-- The save-area copy (R329). -/
def copySrc (s : State) : FwSrc := .ashlar (131072 * saveBank s)

/-- The flash selector: PREFER_B and TRIAL; a word without its complement gives neither (R329). -/
def selector (s : State) : Nat :=
  let x : FwSrc := .flash 0
  if x.pair s 0 then x.word s 0 % 4 else 0

/-- The slot tried first (R329): the preferred one, or the other where its unconfirmed trial failed. -/
def firstSlot (s : State) : Bool :=
  (bitOf (selector s) 0) != (bitOf (selector s) 1 && flag s SYS_BOOT_STAT_TRIAL_FAIL)

/-- Whether the CTL path may load the saved copy (R329). (DESIGN CHOICE log 85) -/
def copyUsable (s : State) : Bool :=
  authentic (copySrc s) s && !(flag s SYS_BOOT_STAT_TRIAL && !flag s SYS_BOOT_STAT_CONFIRM)

/-- Whether the boot stands on the CTL path, after a CTL reset or a wake. (DESIGN CHOICE log 86) -/
def ctlPath (s : State) : Bool := s.ctl.boot == .romCtl || s.ctl.boot == .romWake

/-- Where the boot ROM takes the firmware from: the saved copy on the CTL path, the host's image once posted, else the flash:
the first slot, or the other where only that is authentic. (DESIGN CHOICE log 85) -/
def bootSource (s : State) : FwSrc :=
  if ctlPath s && copyUsable s then copySrc s
  else if s.ctl.bootPosted then stagedSrc s
  else
    let f := firstSlot s
    if !authentic (slotSrc f) s && authentic (slotSrc (!f)) s then slotSrc (!f) else slotSrc f

/-- What SYS_BOOT_STAT shows of the source taken (R326, R330). -/
def bootStat (x : FwSrc) (s : State) : State :=
  let f := firstSlot s
  if x = copySrc s then putF SYS_BOOT_STAT_FROM_COPY 1 s
  else if x = stagedSrc s then putFs [(SYS_BOOT_STAT_SLOT, 0), (SYS_BOOT_STAT_FALLBACK, 0), (SYS_BOOT_STAT_TRIAL, 0)] s
  else
    putFs [(SYS_BOOT_STAT_SLOT, b2n (x == slotSrc true)), (SYS_BOOT_STAT_FALLBACK, b2n (x != slotSrc f)),
      (SYS_BOOT_STAT_TRIAL, b2n (bitOf (selector s) 1))] s

/-- The claim that a single unit asserts once the boot ROM completes, unless it was released (R287). -/
def singleClaim (s : State) : State :=
  if s.pins.pairEn || flag s PAIR_STAT_CLAIM || getF s PAIR_STAT_STATE == 9 then s
  else watchLife (fun s => setPairState 0 (putF PAIR_STAT_CLAIM 1 { s with pair := { s.pair with drivers := true } })) s

/-- The firmware entered from a source (R329): its body in working RAM, the verified image in the save area, REMAP 0, the boot
window closed, a boot fault cleared; a pair begins to train its link (R297). (DESIGN CHOICE log 16, 85, 134) -/
def enterFirmware (x : FwSrc) (s : State) : State :=
  let n := x.len s
  let body := x.bytes s 0x74 (min n 393216)
  let all := bytesToWords (x.bytes s 0 (0xD4 + min n 393216))
  let ram := ((List.range body.length).zip body).foldl (fun (m : AMap Nat) p => m.set p.1 p.2 0) []
  let s1 := bootStat x s
  let s2 := if x = copySrc s then s1 else putAshWords (131072 * saveBank s) all s1
  let s3 := putFs [(LIFE_STATUS_BOOT_ROM, 0), (SYS_REMAP_REMAP, 0)]
    { s2 with ctl := { s2.ctl with
      boot := .firmware, wram := ram, svn := x.word s 0x10, fwVersion := x.word s 0x08, bootIf := none, bootPosted := false
      wdtCount := getF s2 SYS_WDT_CTL_TIMEOUT } }
  let s4 := singleClaim (bootFault 0 s3)
  if s4.pins.pairEn && !flag s4 PAIR_LINK_STAT_UP then trainFrom 0 s4 else s4

/-- Whether the boot ROM runs and may enter a firmware: not before the Ashlar fill on a cold start (R109), nor from a host
that has not posted (R327). (DESIGN CHOICE log 86) -/
def romReady (s : State) : Bool :=
  ([Boot.romCold, .romCtl, .romWake, .failed].contains s.ctl.boot)
    && (flag s ASH_STAT_FILL_DONE || ctlPath s)
    && ([0, 3].contains s.pins.bootSrc || s.ctl.bootPosted || ctlPath s)

/-- FIRMWARE_ENTRY (R329): the boot ROM has loaded an authentic image and enters it. -/
def execFirmwareEntry (s : State) : Host.Outcome State Fault Refusal :=
  if romReady s then .next (enterFirmware (bootSource s) s) else .next s

/-- BOOT_RETRY (R330): the boot ROM tries its sources. Without an authentic one it leaves the fabric as it is and reports
BOOT_FAIL. -/
def execBootRetry (s : State) : Host.Outcome State Fault Refusal :=
  if !romReady s then .next s
  else
    let x := bootSource s
    if authentic x s then .next (enterFirmware x s)
    else .next (bootFault 2 { s with ctl := { s.ctl with boot := .failed } })

/-- The boot interfaces (R327): 0 PF0, 1 QT0. (DESIGN CHOICE log 86) -/
def bootWindowOpen (s : State) (ifc : Nat) : Bool :=
  let src := s.pins.bootSrc
  ([Boot.romCold, .romCtl, .failed].contains s.ctl.boot) && (flag s ASH_STAT_FILL_DONE || ctlPath s)
    && (match src, ifc with
      | 1, 0 => true
      | 2, 1 => true
      | 3, 0 => s.ctl.boot == .failed && s.pins.seatMap != 3 && s.ctl.bootIf != some 1
      | 3, 1 => s.ctl.boot == .failed && s.ctl.bootIf != some 0
      | _, _ => false)

/-- BOOT_WINDOW_POST (R327): POST of the boot interface; an image that is not authentic is reported and waited for again. -/
def execBootWindowPost (ifc : Nat) (s : State) : Host.Outcome State Fault Refusal :=
  if !bootWindowOpen s ifc then .next s
  else
    let s1 := { s with ctl := { s.ctl with bootIf := some ifc } }
    if authentic (stagedSrc s) s then .next (bootFault 0 { s1 with ctl := { s1.ctl with bootPosted := true } })
    else .next (bootFault 2 s1)

/-- TRIAL_CONFIRM (R330): CONFIRM, and TRIAL cleared in the flash selector. -/
def trialConfirm (s : State) : State :=
  let w := selector s % 2
  let put := fun (m : AMap Nat) (o v : Nat) => ((List.range 4).zip (bytesOf v 4)).foldl (fun (m : AMap Nat) p => m.set (o + p.1) p.2 0) m
  let s1 := putF SYS_BOOT_STAT_CONFIRM 1 s
  if bitOf (selector s) 1 then { s1 with ctl := { s1.ctl with flash := put (put s.ctl.flash 0 w) 4 (not32 w) } } else s1

/-- TRIAL_CONFIRM. -/
def execTrialConfirm (s : State) : Host.Outcome State Fault Refusal :=
  if s.ctl.boot == .firmware then .next (trialConfirm s) else .next s

/-! ## The lifeline's fields that the firmware writes -/

/-- The PWR event (R384): the state entered and the wake source. -/
def pwrEvent (st src : Nat) (s : State) : State := raiseAll 0x0070 [st + 256 * src] s

/-- The end of a wake (R395): Run, WOKE, and the PWR event. -/
def wakeDone (s : State) : State :=
  if getF s PWR_STAT_STATE = 3 then
    pwrEvent 0 (getF s PWR_WAKE_STAT_SOURCE) (putFs [(PWR_STAT_STATE, 0), (PWR_STAT_WOKE, 1)] s)
  else s

/-- FW_UP written (R355, R341): CTL_RESTART ends and RESTART is raised; a wake is over; the firmware puts back what a FAB
reset cleared. (DESIGN CHOICE log 16) -/
def writeFwUp (b : Bool) (s : State) : State :=
  if !b then putF LIFE_STATUS_FW_UP 0 s
  else if s.ctl.boot ≠ .firmware then s
  else if flag s LIFE_STATUS_FW_UP then s
  else fwRecover (wakeDone (irqAll 3 (putFs [(LIFE_STATUS_FW_UP, 1), (LIFE_STATUS_CTL_RESTART, 0)] s)))

/-- LIFE_BEAT_TICK (R355): the firmware advances BEAT every 10 ms. -/
def execLifeBeatTick (s : State) : Host.Outcome State Fault Refusal :=
  if s.ctl.boot == .firmware && !s.pwr.rest then .next (wrap LIFE_BEAT_BEAT 1 s) else .next s

end Sys2Proof.Machine
end

