-- ==== Sys2Proof/Machine/Power.lean ====
section
/-! DEFINITION. Sleep and its end (R388 to R395), the supply and temperature alarms (R396, R397), and the PWR commands
(R383). -/

namespace Sys2Proof.Machine

/-! ## The fabric stopped -/

/-- The fabric stopped at a boundary (R26, R43): no running rate, CI 0, no tile RUNNING. (DESIGN CHOICE log 14) -/
def stopFabric (s : State) : State :=
  let s1 := (allTiles s).foldl (fun s n =>
    if getF s (TILE_STAT_STATE n) = 2 then tileBoundaryStop n (updTile n (fun t => { t with stopReq := true }) s)
    else tileBoundaryStop n s) s
  let s2 := putFs [(FAB_TL_STATUS_RUNNING, 0), (FAB_TL_STATUS_RM, 0), (LIFE_STATUS_FABRIC_RUN, 0), (FAB_TL_STATUS_TL_OFFSET, 0),
    (FAB_TL_OFFSET_OFFSET, 0)] s1
  setBudget { s2 with
    live := []
    fab := { s2.fab with ci := 0, cycle := 0, startAt := none, stopReq := false, ramp := none, gain := 256, written := [], served := [] } }

/-! ## Quiet and Rest entered (R389 to R391) -/

/-- The MACs and the Soeri link without their links (R391 item 4). (DESIGN CHOICE log 93) -/
def dropLinks (s : State) : State :=
  let s1 := (List.range (nMacs s)).foldl (fun s m => if flag s (MAC_LINK_LINK_UP m) then linkDown m s else s) s
  if s.pins.pairEn then
    loseHeartbeat (putFs [(PAIR_LINK_STAT_UP, 0), (PAIR_LINK_STAT_TRAINING, 0), (PAIR_LINK_STAT_LANES, 0)] s1)
  else s1

/-- The sleep entry once the fabric stands: the FAB reset; Quiet is then complete, Rest goes on to end leases and links
(R390, R391). (DESIGN CHOICE log 93) -/
def finishSleep (k : Nat) (s : State) : State :=
  let s1 := rebuildSettings (fabReset true (if running s then stopFabric s else s))
  let s2 := { s1 with pwr := { s1.pwr with entering := 0, leaving := false } }
  if k = 1 then pwrEvent 1 0 (putFs [(PWR_STAT_STATE, 1), (LIFE_STATUS_QUIET, 1)] s2)
  else
    let s3 := match s2.fab.session with | some x => dropSession x.seat s2 | none => s2
    dropLinks (putF LIFE_STATUS_QUIET 0 ([0, 1, 2, 3].foldl (fun s n => if attached s n then endAttach n s else s) s3))

/-- A sleep begun (R389 to R391): armed entries cancelled with E_STATE, a standby to STARTING; a running fabric ramps down
over 256 samples first. 1 Quiet, 2 Rest. (DESIGN CHOICE log 93) -/
def enterSleep (k : Nat) (s : State) : State :=
  let s1 := s.fab.sched.foldl (fun s p => cancelEntry p.1 eState p.2 s) s
  let s2 := if isStandby s1 then setPairState 1 s1 else s1
  let s3 := if k = 2 then pwrEvent 2 0 (putF PWR_STAT_STATE 2 s2) else s2
  let s4 := { s3 with fab := { s3.fab with startAt := none }, pwr := { s3.pwr with entering := k } }
  if running s4 then imgEvent 0 (putF FAB_STAT_IMG_STATE 2 { s4 with fab := { s4.fab with ramp := some ⟨8, s4.fab.ci + 257, 0⟩ } })
  else finishSleep k s4

/-- QUIET_ENTRY (R390): ENTER = 1 from Run. (DESIGN CHOICE log 88) -/
def quietEntry (s : State) : State :=
  if getF s PWR_STAT_STATE = 0 ∧ s.pwr.entering = 0 ∧ !s.pwr.rest then enterSleep 1 s else s

/-- QUIET_ENTRY. -/
def execQuietEntry (s : State) : Host.Outcome State Fault Refusal := .next (quietEntry s)

/-- QUIET_EXIT (R390): the image recommitted, the fabric started under R26, and the ramp-up to come. -/
def quietExit (s : State) : State :=
  if getF s PWR_STAT_STATE = 1 then
    let s1 := pwrEvent 0 0 (putFs [(PWR_STAT_STATE, 0), (LIFE_STATUS_QUIET, 0)] s)
    startFabric (recommitHeld { s1 with pwr := { s1.pwr with leaving := true } })
  else s

/-- QUIET_EXIT. -/
def execQuietExit (s : State) : Host.Outcome State Fault Refusal := .next (quietExit s)

/-! ## Rest (R391 to R394) -/

/-- The wake sources of a mask bit (R394): bit to SOURCE code. -/
def wakeBit (src : Nat) : Option Nat :=
  if src = 1 then some 0
  else if src = 2 then some 1
  else if src = 3 then some 2
  else if 0x10 ≤ src ∧ src < 0x18 then some (src - 0x10 + 4)
  else if 0x20 ≤ src ∧ src < 0x28 then some (src - 0x20 + 12)
  else none

/-- Whether a source is enabled. -/
def wakeEnabled (s : State) (src : Nat) : Bool :=
  match wakeBit src with | some b => bitOf (getF s PWR_WAKE_EN_MASK) b | none => false

/-- The wake begun (R394, R395): domains powered, Retain banks On again, the boot ROM on its CTL path, the DPLL in FREE with
an empty holdover history. (DESIGN CHOICE log 95) -/
def wake (src : Nat) (s : State) : State :=
  let s1 := (List.range (nBanks s)).foldl (fun s b =>
    startTrans b (getF s (runStateFld b)) (putF (bankField b) (if bankState s b = 2 then 2 else 1) s)) s
  let refs := (List.range 8).foldl (fun s r => if getF s (CLK_REF_STAT_STATE r) = 0 then s else setRef r 1 s) s1
  let s2 := refreshClk { refs with clk := { refs.clk with hist := [], inWin := [], target := none, ever := false, lockedSecs := 0 } }
  let s3 := putFs [(PWR_STAT_STATE, 3), (PWR_WAKE_STAT_SOURCE, src), (PTP_STAT_COARSE, 0), (LIFE_STATUS_BOOT_ROM, 1)] s2
  { s3 with
    pwr := { s3.pwr with rest := false, latched := none, waking := true }
    ctl := { s3.ctl with boot := .romWake, wdtCount := getF s3 SYS_WDT_CTL_TIMEOUT } }

/-- What the gated domains lose for good in Rest (R398): mailboxes, rings and windows, the slot plane, MAC counters, the
Voussoir's transactions and log, working RAM. (DESIGN CHOICE log 93) -/
def gateDomains (s : State) : State :=
  let seat := fun (n : Nat) (s : State) => putFs
    [(DB_STAT_CMD_BUSY n, 0), (DB_STAT_REPLY_READY n, 0), (DB_STAT_MB_OVERRUN n, 0), (DB_STAT_LAST_SEQ n, 0), (EV_HEAD_HEAD n, 0),
     (EV_TAIL_TAIL n, 0), (HOST_WIN_WIN_BASE n, 0), (HOST_LIM_WIN_WORDS n, 0)] s
  let s1 := [0, 1, 2, 3].foldl (fun s n => seat n s) s
  let s2 := (List.range (nMacs s)).foldl (fun s m => (List.range 48).foldl (fun s i => putF (MAC_CNT_COUNT m i) 0 s) s) s1
  let s3 := putFs [(LIFE_STATUS_FW_UP, 0), (SYS_REMAP_REMAP, 0), (VSR_STAT_OVERFLOW, 0)] s2
  { s3 with
    seats := s3.seats.mapVals (fun t => { seatCtlReset t with relArmed := false }) Seat.init
    qspi := []
    plane := ⟨[], []⟩
    vsr := { s3.vsr with log := [], outstanding := [], inReset := [], held := [] }
    ash := { s3.ash with queue := [], merge := [] }
    ctl := { s3.ctl with wram := [], kick := none } }

/-- Rest entered by the hardware (R391 item 5): the claim released in a pair and in a single unit alike (R389), banks to
Retain or Off, the PTP counter to coarse counting, both PLLs stopped, the domains gated. (DESIGN CHOICE log 93) -/
def restEntry (s : State) : State :=
  let s1 := if flag s PAIR_STAT_CLAIM then
      watchLife (fun s => bump LIFE_CNT_RELEASES 1 (putFs [(PAIR_STAT_CLAIM, 0), (PAIR_STAT_PROTECTED, 0)] s)) s
    else s
  let s2 := putF PAIR_STAT_STATE (if s.pins.pairEn then 1 else getF s1 PAIR_STAT_STATE)
    { s1 with pair := { s1.pair with drivers := false, window := false } }
  let s3 := (List.range (nBanks s2)).foldl (fun s b =>
    let off := bankState s b = 2 || (flag s (restOffFld b) && b < partBank s)
    putF (bankField b) (if off then 2 else 1) (if off then loseBank b s else s)) s2
  let s4 := gateDomains (synDisable (putFs [(PTP_STAT_COARSE, 1), (PAIR_STAT_BIT_IDENT, 0)] s3))
  let s5 := { s4 with pwr := { s4.pwr with rest := true }, ash := { s4.ash with trans := [] } }
  match s5.pwr.latched with
  | some src => wake src s5
  | none => s5

/-- REST_ENTRY (R391): ENTER = 2, once the fabric stands. -/
def execRestEntry (s : State) : Host.Outcome State Fault Refusal :=
  if getF s PWR_STAT_STATE = 2 ∧ s.pwr.entering = 0 ∧ !s.pwr.rest then .next (restEntry s) else .next s

/-- WAKE_EVENT (R394): an enabled source; one that comes before entry completes is latched, except PCIE and QT0/QT1. -/
def wakeEvent (src : Nat) (s : State) : State :=
  if !wakeEnabled s src then s
  else if s.pwr.rest then wake src s
  else if getF s PWR_STAT_STATE = 2 ∧ 3 < src ∧ s.pwr.latched = none then { s with pwr := { s.pwr with latched := some src } }
  else s

/-- WAKE_EVENT. -/
def execWakeEvent (source : Nat) (s : State) : Host.Outcome State Fault Refusal := .next (wakeEvent source s)

/-- WAKE_FABRIC_START (R395): the DPLL is LOCKED or WAKE_LOCK_S has passed; the image is recommitted and the fabric started
under R26, with the ramp-up to come. -/
def execWakeFabricStart (s : State) : Host.Outcome State Fault Refusal :=
  if s.pwr.waking && fwUp s && flag s CLK_SYN_STAT_LOCK then
    .next (startFabric (recommitHeld { s with pwr := { s.pwr with waking := false, leaving := true } }))
  else .next s

/-! ## Alarms (R396, R397) -/

/-- SUPPLY_ALARM (R396): a rail (0 VDD_CORE, 1 VDD_ASH, 2 VDD_AON, 3 VDDIO, 4 VDD_SDS, 5 VDD_SDS_H, 6 VDD_PLL) left its window.
(DESIGN CHOICE log 94) -/
def execSupplyAlarm (rail : Nat) (s : State) : Host.Outcome State Fault Refusal :=
  if s.pwr.rest || s.ctl.boot == .inReset || 7 ≤ rail then .next s
  else
    let s1 := putFs [(PWR_ALARM_SUPPLY, 1), (PWR_ALARM_RAIL_SEEN, getF s PWR_ALARM_RAIL_SEEN ||| 2 ^ rail)] s
    .next (selfDiag 6 (watchLife (fun s => setAlert (putF LIFE_FAULT_SUPPLY 1 s)) s1))

/-- SUPPLY_ALARM_CLEAR (R396): every rail is inside its window. -/
def execSupplyAlarmClear (s : State) : Host.Outcome State Fault Refusal :=
  if s.pwr.rest then .next s
  else .next (watchLife (fun s => setAlert (putFs [(PWR_ALARM_SUPPLY, 0), (LIFE_FAULT_SUPPLY, 0)] s)) s)

/-- TEMPERATURE_SAMPLE (R397): a measured die temperature in 1/8 °C. (DESIGN CHOICE log 94, 95) -/
def execTemperatureSample (temp : Int) (s : State) : Host.Outcome State Fault Refusal :=
  if s.pwr.rest || s.ctl.boot == .inReset then .next s
  else
    let t := clampI (-2048) 2047 temp
    let s1 := putB PWR_ALARM_CRIT (decide (1000 ≤ t)) (putF PWR_TEMP_TEMP (ofS 12 t) s)
    let alarm : Int := 8 * (getF s PWR_THERM_ALARM_C : Int)
    let low : Int := alarm - 8 * (getF s PWR_THERM_HYST : Int)
    let s2 :=
      if alarm ≤ t ∧ !flag s1 PWR_ALARM_THERMAL then
        selfDiag 7 (watchLife (fun s => setAlert (putFs [(PWR_ALARM_THERMAL, 1), (PWR_ALARM_THERMAL_SEEN, 1), (LIFE_FAULT_THERMAL, 1)] s)) s1)
      else s1
    if 1000 ≤ t then
      let s3 := putF PWR_ALARM_CRIT_SEEN 1 s2
      if s3.pwr.hotStop then .next s3
      else
        let s4 := { s3 with pwr := { s3.pwr with hotStop := true } }
        .next (rebuildSettings (fabReset false (if running s4 then stopFabric s4 else s4)))
    else if t < low then
      let s3 := watchLife (fun s => setAlert (putFs [(PWR_ALARM_THERMAL, 0), (LIFE_FAULT_THERMAL, 0)] s)) s2
      if s3.pwr.hotStop then .next (fwRecover { s3 with pwr := { s3.pwr with hotStop := false } }) else .next s3
    else .next s2

/-! ## The PWR commands (R383, R389) -/

/-- Whether the partner's last record calls it claim-eligible (R289, R389). -/
def partnerEligible (s : State) : Bool :=
  flag s PAIR_STAT_HEARTBEAT && (match s.pair.last with | some r => r.eligible | none => false)

/-- PWR.STATE (R389). (DESIGN CHOICE log 96) -/
def fwPwrState (r : FwReq) (s : State) : FwM := do
  r.len 2
  mayOwn s r 20 0
  r.only [(0, mask 1 0), (1, mask 19 0 - 8)]
  let dst := r.w 0
  need (dst < 3) (errAt eRange 0)
  need (dst != 2 || r.w 1 != 0) (errAt eRange 1)
  let here := getF s PWR_STAT_STATE
  need (s.pwr.entering == 0 && (here == 0 || here == 1) && here != dst) (err eState)
  need (!([2, 3, 4] : List Nat).contains (getF s FAB_STAT_IMG_STATE)) (err eState)
  need (!(flag s PAIR_STAT_CLAIM && partnerEligible s)) (err eState)
  quotaFor s r 20 0
  let s1 := acquire r 20 0 s
  match dst with
  | 0 => return (quietExit s1, [])
  | 1 => return (quietEntry s1, [])
  | _ =>
    let s2 := putF PWR_WAKE_EN_MASK (r.w 1) { s1 with pwr := { s1.pwr with latched := none } }
    return (enterSleep 2 s2, [])

/-- PWR.BANKS (R106). (DESIGN CHOICE log 96) -/
def fwPwrBanks (r : FwReq) (s : State) : FwM := do
  r.len 3
  let n := r.f 0 0 4
  need (8 * n < nBanks s) (err eAbsent)
  mayOwn s r 20 0
  r.only [(0, mask 3 0)]
  need (r.w 2 == not32 (r.w 1)) (errAt ePairword 2)
  quotaFor s r 20 0
  let s1 := writePwr n (r.w 1) (r.w 2) (acquire r 20 0 s)
  return (s1, [regWordRaw s1 ASH_STAT_FATAL.addr])

/-- PWR.SCRUB (R103). -/
def fwPwrScrub (r : FwReq) (s : State) : FwM := do
  r.len 1
  mayOwn s r 20 0
  r.only [(0, mask 7 0)]
  quotaFor s r 20 0
  return (setScrub (r.w 0) (acquire r 20 0 s), [])

/-- PWR.STATUS. -/
def fwPwrStatus (r : FwReq) (s : State) : FwM := do
  r.len 0
  return (s, getF s PWR_STAT_STATE :: (List.range 16).map (fun n => regWordRaw s (ASH_PWR_STAT_STATE0 n).addr))

/-- PWR_STATE. -/
def execPwrState (r : FwReq) (s : State) : Host.Outcome State Fault Refusal := fwRow 0x0D00 r fwPwrState s
/-- PWR_BANKS. -/
def execPwrBanks (r : FwReq) (s : State) : Host.Outcome State Fault Refusal := fwRow 0x0D01 r fwPwrBanks s
/-- PWR_SCRUB. -/
def execPwrScrub (r : FwReq) (s : State) : Host.Outcome State Fault Refusal := fwRow 0x0D02 r fwPwrScrub s
/-- PWR_STATUS. -/
def execPwrStatus (r : FwReq) (s : State) : Host.Outcome State Fault Refusal := fwRow 0x0D03 r fwPwrStatus s

end Sys2Proof.Machine
end

