-- ==== Sys2Proof/Machine/Ptp.lean ====
section
/-! DEFINITION. The PTP time counter (R220 to R233). -/

namespace Sys2Proof.Machine

/-- LIN now (R224). -/
def lin (s : State) : Nat := linOf (ptpUnits s.ptp)

/-- The signed distance of a target from LIN (R224): fired when not positive. -/
def linDist (t l : Nat) : Int := toS 48 (t + 281474976710656 - l % 281474976710656)

/-! ## Increment, captures (R221, R222, R230) -/

/-- PTP_INC_HI written: INC committed with the staged fraction, or rejected. (DESIGN CHOICE log 12) -/
def writeInc (hi : Nat) (s : State) : State :=
  let v := hi % 256 * 4294967296 + s.stage.get PTP_INC_LO_INC_FRAC.addr (getF s PTP_INC_LO_INC_FRAC)
  if 0x03E6666666 ≤ v ∧ v ≤ 0x041999999A then putFs [(PTP_INC_HI_INC_NS, v / 4294967296), (PTP_INC_LO_INC_FRAC, v % 4294967296)] s
  else putF PTP_STAT_INC_REJ 1 s

/-- INC_WRITE. -/
def execIncWrite (hi : Nat) (s : State) : Host.Outcome State Fault Refusal := .next (writeInc hi s)

/-- A read of PTP_TIME_NS: a coherent time captured. -/
def captureTime (s : State) : State :=
  putFs [(PTP_TIME_NS_NS, s.ptp.ns), (PTP_TIME_FRAC_FRAC, s.ptp.frac), (PTP_TIME_SEC_LO_SEC, s.ptp.sec),
    (PTP_TIME_SEC_HI_SEC, s.ptp.sec / 4294967296), (PTP_LIN_LO_LIN, lin s), (PTP_LIN_HI_LIN, lin s / 4294967296)] s

/-- PTP_TIME_CAPTURE. -/
def execPtpTimeCapture (s : State) : Host.Outcome State Fault Refusal :=
  .next (emit .response [0, 0, 0, s.ptp.ns] (captureTime s))

/-- A read of PTP_CSTAMP_CI: the last stamp captured. -/
def captureStamp (s : State) : State :=
  let x := s.ptpIo.stamp
  putFs [(PTP_CSTAMP_CI_CI, x.2.2), (PTP_CSTAMP_LIN_LO_LIN, x.1), (PTP_CSTAMP_LIN_HI_LIN, x.1 / 4294967296),
    (PTP_CSTAMP_LIN_HI_SUBNS, x.2.1)] s

/-- CSTAMP_READ_CAPTURE. -/
def execCstampReadCapture (s : State) : Host.Outcome State Fault Refusal :=
  .next (emit .response [0, 0, 0, s.ptpIo.stamp.2.2] (captureStamp s))

/-- The course stamp taken at a boundary (R230): LIN, 16 bits below the nanosecond, and the CI of the course it begins. -/
def takeStamp (ci : Nat) (s : State) : State :=
  { s with ptpIo := { s.ptpIo with stamp := (lin s, s.ptp.frac / 65536, ci % 4294967296) } }

/-- The course cycle (R43): that of the PTP time since the course stamp, or the later one that a grant or an issue of the course
has named. (DESIGN CHOICE log 114) -/
def courseCycle (s : State) : Nat :=
  let gone := (ptpUnits s.ptp % (281474976710656 * 4294967296) + 281474976710656 * 4294967296
    - (s.ptpIo.stamp.1 * 4294967296 + s.ptpIo.stamp.2.1 * 65536)) % (281474976710656 * 4294967296)
  min (courseLen s - 1) (max s.fab.cycle (gone * 24576 * baseRate (getF s FAB_TL_STATUS_FAMILY) / (1000000000 * 4294967296)))

/-! ## Event outputs (R225, R228) -/

/-- An output. -/
def pulseOf (s : State) (o : Nat) : Pulse := s.ptpIo.out.get o Pulse.init
/-- An output changed. -/
def updPulse (o : Nat) (f : Pulse → Pulse) (s : State) : State :=
  { s with ptpIo := { s.ptpIo with out := s.ptpIo.out.set o (f (pulseOf s o)) Pulse.init } }

/-- The level on the ball: 0, 1, or 2 for high impedance. -/
def showPulse (o : Nat) (active : Bool) (s : State) : State :=
  let gated := flag s (PTPO_CTL_CLAIM_GATE o) && !(s.pair.drivers && flag s PAIR_STAT_CLAIM)
  emit .pulse [o, if gated then 2 else b2n (active != (pulseOf s o).pol)] s

/-- Settings put into force: the first edge is START, or the next grid point ahead when START has passed; a one-shot that
has passed gives no pulse and sets LATE. -/
def armPulse (o : Nat) (p : Nat × Nat × Nat × Bool) (s : State) : State :=
  let d := linDist p.1 (lin s)
  let k := if p.2.1 = 0 ∨ 0 ≤ d then 0 else ((-d).toNat + p.2.1 - 1) / p.2.1
  let late := decide (p.2.1 = 0) && decide (d < 0)
  setIf (PTPO_CTL_LATE o) late (updPulse o (fun t => { t with
    armed := !late, start := p.1, period := p.2.1, width := p.2.2.1, pol := p.2.2.2,
    next := (p.1 + k * p.2.1) % 281474976710656, idx := k, waiting := none, stopping := false }) s)

/-- The control register of an output written (R228). -/
def pulseControl (o : Nat) (arm pol gate : Bool) (s : State) : State :=
  let s1 := putFs [(PTPO_CTL_ARM o, b2n arm), (PTPO_CTL_POL o, b2n pol), (PTPO_CTL_CLAIM_GATE o, b2n gate)] s
  let busy := (pulseOf s o).fall.isSome
  if arm then
    let p := (getF s (PTPO_START_LO_START o) + 4294967296 * getF s (PTPO_START_HI_START o), getF s (PTPO_PERIOD_PERIOD o),
      getF s (PTPO_WIDTH_WIDTH o), pol)
    if busy then updPulse o (fun t => { t with waiting := some p, stopping := false }) s1 else armPulse o p s1
  else if busy then updPulse o (fun t => { t with stopping := true, waiting := none }) s1
  else showPulse o false (updPulse o (fun t => { t with armed := false, waiting := none }) s1)

/-- PULSE_ARM. -/
def execPulseArm (output : Nat) (arm pol gate : Bool) (s : State) : Host.Outcome State Fault Refusal :=
  if output < 8 then .next (pulseControl output arm pol gate s) else .next s

/-- An edge: the output rises for WIDTH, or for good when WIDTH reaches PERIOD; the next edge follows by PERIOD. -/
def pulseRise (o : Nat) (s : State) : State :=
  let t := pulseOf s o
  if t.width = 0 then updPulse o (fun t => { t with next := (t.next + t.period) % 281474976710656, idx := t.idx + 1 }) s
  else
    let hold := 0 < t.period ∧ t.period ≤ t.width
    showPulse o true (updPulse o (fun t => { t with
      armed := t.period != 0
      fall := if hold then t.fall else some ((t.next + t.width) % 281474976710656)
      next := (t.next + t.period) % 281474976710656, idx := t.idx + 1 }) s)

/-- PULSE_EDGE (R224, R228): the comparator has reached the edge. -/
def execPulseEdge (output : Nat) (s : State) : Host.Outcome State Fault Refusal :=
  let t := pulseOf s output
  if output < 8 && t.armed && !t.stopping && !flag s PTP_STAT_COARSE && decide (linDist t.next (lin s) ≤ 0) then .next (pulseRise output s)
  else .next s

/-- The end of a pulse: the output falls; a stop or new settings that waited for it take hold. -/
def pulseDown (o : Nat) (s : State) : State :=
  let t := pulseOf s o
  let s1 := showPulse o false (updPulse o (fun t => { t with fall := none }) s)
  if t.stopping then updPulse o (fun t => { t with armed := false, stopping := false }) s1
  else match t.waiting with
    | some p => armPulse o p s1
    | none => s1

/-- PULSE_FALL (R228). -/
def execPulseFall (output : Nat) (s : State) : Host.Outcome State Fault Refusal :=
  match (pulseOf s output).fall with
  | some t => if output < 8 && decide (linDist t (lin s) ≤ 0) then .next (pulseDown output s) else .next s
  | none => .next s

/-- An output after a step of the counter (R225). (DESIGN CHOICE log 73) -/
def stepPulse (o : Nat) (s : State) : State :=
  let l := lin s
  let s1 := match (pulseOf s o).fall with
    | some t => if linDist t l ≤ 0 then pulseDown o s else s
    | none => s
  let t := pulseOf s1 o
  let d := linDist t.next l
  if !t.armed then s1
  else if t.period = 0 then
    if d < 0 then pulseRise o (putF (PTPO_CTL_LATE o) 1 s1) else s1
  else if d < 0 then
    let k := ((-d).toNat + t.period - 1) / t.period
    bump (PTPO_CTL_SKIP_CNT o) k (updPulse o (fun t => { t with
      next := (t.next + k * t.period) % 281474976710656, idx := t.idx + k }) s1)
  else
    let k := min t.idx (d.toNat / t.period)
    updPulse o (fun t => { t with
      next := (t.next + 281474976710656 - k * t.period % 281474976710656) % 281474976710656, idx := t.idx - k }) s1

/-- Every comparator re-evaluated. (DESIGN CHOICE log 73) -/
def stepPulses (s : State) : State := (List.range 8).foldl (fun s o => stepPulse o s) s

/-! ## Set and step (R223) -/

/-- The staged seconds and nanoseconds. -/
def stagedSec (s : State) : Nat := getF s PTP_ADJ_SEC_LO_SEC + 4294967296 * getF s PTP_ADJ_SEC_HI_SEC

/-- SET: the staged time is loaded, FRAC becomes 0. (DESIGN CHOICE log 12) -/
def ptpSet (s : State) : State :=
  if 1000000000 ≤ getF s PTP_ADJ_NS_NS then putF PTP_STAT_ADJ_REJ 1 s
  else stepPulses { s with ptp := ⟨stagedSec s, getF s PTP_ADJ_NS_NS, 0⟩ }

/-- STEP: the staged time is added or subtracted, FRAC is kept. (DESIGN CHOICE log 12) -/
def ptpStep (neg : Bool) (s : State) : State :=
  let d : Int := ((stagedSec s * 1000000000 + getF s PTP_ADJ_NS_NS : Nat) : Int)
  let n : Int := ((s.ptp.sec * 1000000000 + s.ptp.ns : Nat) : Int) + (if neg then -d else d)
  if 1000000000 ≤ getF s PTP_ADJ_NS_NS ∨ n < 0 ∨ 281474976710656 * 1000000000 ≤ n then putF PTP_STAT_ADJ_REJ 1 s
  else stepPulses { s with ptp := ⟨n.toNat / 1000000000, n.toNat % 1000000000, s.ptp.frac⟩ }

/-- PTP_SET. -/
def execPtpSet (s : State) : Host.Outcome State Fault Refusal := .next (ptpSet s)
/-- PTP_STEP. -/
def execPtpStep (neg : Bool) (s : State) : Host.Outcome State Fault Refusal := .next (ptpStep neg s)

/-! ## Capture inputs (R229) -/

/-- A capture FIFO put back, its count and oldest entry shown. -/
def putCaptures (i : Nat) (q : List Capture) (s : State) : State :=
  let s1 := { s with ptpIo := { s.ptpIo with cap := s.ptpIo.cap.put i q } }
  let h := q.headD ⟨0, false⟩
  putFs [(PTPI_STAT_COUNT i, q.length), (PTPI_FIFO_LO_LIN i, h.lin), (PTPI_FIFO_HI_LIN i, h.lin / 4294967296),
    (PTPI_FIFO_HI_RISE i, b2n h.rise)] s1

/-- The entries of a capture FIFO, oldest first. -/
def captures (s : State) (i : Nat) : List Capture := s.ptpIo.cap.get i []

/-- CAPTURE_EDGE. -/
def execCaptureEdge (input : Nat) (rise : Bool) (s : State) : Host.Outcome State Fault Refusal :=
  let kind := getF s (PTPI_CTL_EDGE input)
  if input < 8 && flag s (PTPI_CTL_EN input) && !flag s PTP_STAT_COARSE && (kind == 3 || (kind == 1 && rise) || (kind == 2 && !rise)) then
    if (captures s input).length < 16 then .next (putCaptures input (captures s input ++ [⟨lin s, rise⟩]) s)
    else .next (putF (PTPI_STAT_OVF input) 1 s)
  else .next s

/-- A read of PTPIi_FIFO_HI removes the oldest entry. -/
def readCapture (i : Nat) (s : State) : Nat × State :=
  (getF s (PTPI_FIFO_HI_LIN i) + 65536 * getF s (PTPI_FIFO_HI_RISE i), putCaptures i ((captures s i).drop 1) s)

/-- CAPTURE_FIFO_READ. -/
def execCaptureFifoRead (input : Nat) (s : State) : Host.Outcome State Fault Refusal :=
  if input < 8 then let r := readCapture input s; .next (emit .response [0, 0, 0, r.1] r.2) else .next s

/-! ## The system PLL (R221) -/

/-- SYSTEM_PLL_LOSS: the counter holds. -/
def execSystemPllLoss (s : State) : Host.Outcome State Fault Refusal := .next (setAlert (putF PTP_STAT_TICK_LOST 1 s))
/-- SYSTEM_PLL_RELOCK: counting resumes, with no step. -/
def execSystemPllRelock (s : State) : Host.Outcome State Fault Refusal := .next (setAlert (putF PTP_STAT_TICK_LOST 0 s))

/-! ## What the firmware runs (R232, R237) -/

/-- Bits of a word of the PTP instance's settings (TIME.PTP). -/
def ptpCfg (s : State) (w lo n : Nat) : Nat := bits (s.fw.ptp.cfg.getD w 0) lo n

/-- The PTP event (R384). -/
def ptpEvent (s : State) : State :=
  let p := s.fw.ptp
  raiseOwner 12 0 0x0021 [p.portState, lo32 p.gmId, hi32 p.gmId, p.gmClass + 256 * p.gmAcc] s

/-- The instance changed, with the event when its state or master changed. (PRESUMED log 72) -/
def setPtp (p : PtpInst) (s : State) : State :=
  let o := s.fw.ptp
  let s1 := { s with fw := { s.fw with ptp := p } }
  if o.portState = p.portState ∧ o.gmId = p.gmId ∧ o.gmClass = p.gmClass ∧ o.gmAcc = p.gmAcc then s1 else ptpEvent s1

/-- An Announce: a better master is followed and feeds the mapping of REF0; a worse one leaves a master-capable clock MASTER.
(PRESUMED log 72) -/
def announce (gmId gmClass gmAcc prio : Nat) (s : State) : State :=
  let own := (ptpCfg s 1 8 8 * 256 + 248) * 256 + 0xFE
  let theirs := (prio * 256 + gmClass) * 256 + gmAcc
  if ptpCfg s 0 4 1 = 1 ∧ own < theirs then setPtp { s.fw.ptp with portState := 6 } s
  else
    let s1 := setPtp { s.fw.ptp with portState := 9, gmId := gmId, gmClass := gmClass % 256, gmAcc := gmAcc % 256 } s
    refreshClk (putFs [(CLK_REF0_ANN_CLASS, gmClass), (CLK_REF0_ANN_ACCURACY, gmAcc), (CLK_REF0_ANN_ANN_VALID, 1)] s1)

/-- A measured offset: a STEP past the threshold, else a new INC of the servo, which the spec does not state.
(DESIGN CHOICE log 69) -/
def steerPtp (offset : Int) (delay : Nat) (s : State) : State :=
  let limit := if s.fw.ptp.cfg.getD 3 0 = 0 then 100000 else s.fw.ptp.cfg.getD 3 0
  let s1 := { s with fw := { s.fw with ptp := { s.fw.ptp with offset := ofS 32 offset, pathDelay := delay } } }
  if (limit : Int) < offset.natAbs then
    let a := offset.natAbs
    let s2 := putFs [(PTP_ADJ_NS_NS, a % 1000000000), (PTP_ADJ_SEC_LO_SEC, a / 1000000000), (PTP_ADJ_SEC_HI_SEC, a / 1000000000 / 4294967296)] s1
    refreshClk (putF CLK_REF0_ANN_SERVO_LOCK 0 (ptpStep (0 < offset) s2))
  else
    let f := takeFree s1
    let inc := 0x03E6666666 + (Config.freeWord f.1).toNat % 858993461
    refreshClk (putF CLK_REF0_ANN_SERVO_LOCK 1 (putFs [(PTP_INC_HI_INC_NS, inc / 4294967296), (PTP_INC_LO_INC_FRAC, inc % 4294967296)] f.2))

/-- PTP_MESSAGE_RX (R232): an Announce (its master's identity, class, accuracy and priority1), or a message that completes a
measurement of the offset in nanoseconds and the path delay. -/
def execPtpMessageRx (isAnnounce : Bool) (gmId gmClass gmAcc prio : Nat) (offset : Int) (delay : Nat) (s : State) :
    Host.Outcome State Fault Refusal :=
  if fwUp s && ptpCfg s 0 5 1 == 1 then
    if isAnnounce then .next (announce gmId gmClass gmAcc prio s)
    else if s.fw.ptp.portState = 9 then .next (steerPtp offset delay s)
    else .next s
  else .next s

/-- ANNOUNCE_TIMEOUT (R237): the firmware clears ANN_VALID; the port listens, or becomes MASTER where it may. -/
def execAnnounceTimeout (s : State) : Host.Outcome State Fault Refusal :=
  if fwUp s && ptpCfg s 0 5 1 == 1 then
    let s1 := setPtp { s.fw.ptp with portState := if ptpCfg s 0 4 1 = 1 then 6 else 4 } s
    .next (refreshClk (putFs [(CLK_REF0_ANN_ANN_VALID, 0), (CLK_REF0_ANN_SERVO_LOCK, 0)] s1))
  else .next s

end Sys2Proof.Machine
end

