-- ==== Sys2Proof/Machine/Regs.lean ====
section
/-! DEFINITION. The registers as software reads and writes them: what a read computes or captures, what a write does besides
storing, paired writes (R9), ranges, and the registers of absent units (R72, R233, R263). -/

namespace Sys2Proof.Machine

/-! ## Reads -/

/-- Whether an address belongs to a unit that the variant lacks: its registers read 0 and ignore writes (R72, R233, R263).
(DEDUCED log 92) -/
def absentReg (s : State) (a : Nat) : Bool :=
  let o := a % 65536
  match a / 65536 with
  | 0x2004 => 0x1000 ≤ o && o < 0x2000 && nTiles s ≤ o % 0x800 / 64
  | 0x2007 => (0x100 ≤ o && o < 0x400 && nGroups s ≤ (o - 0x100) / 8) || (0x400 ≤ o && o < 0x1000 && nLanes s ≤ (o - 0x400) / 16)
      || (0x1000 ≤ o && nAsrc s ≤ (o - 0x1000) / 16)
  | 0x2008 => 0x100 ≤ o && nAes s ≤ (o - 0x100) / 16
  | 0x2009 => if 0xF000 ≤ o then nMdio s ≤ (o - 0xF000) / 16 else nMacs s ≤ o / 0x4000
  | 0x200A => 0x40 ≤ o && nMacs s ≤ (o - 0x40) / 8
  | 0x200B => 0x80 ≤ o && o < 0x100 && nMacs s ≤ (o - 0x80) / 8
  | 0x200D => !hasAmp s
  | _ => false

/-- The word that fields spell without their write-only ones. (DEDUCED log 92) -/
def readWord (s : State) (fs : List Fld) : Nat := composeFields (fs.filter (fun f => f.typ != .wo)) (getF s)

/-- The lifeline registers at an offset (R355): for the Birrek, or for a seat with that seat's own mute pair and flag. A read
of LIFE_CI captures LIFE_CI_HI. -/
def lifeRead (who : Option Nat) (o : Nat) (s : State) : Nat × State :=
  let fs := fieldsAt (0x20010000 + o)
  match o with
  | 0x00 =>
    let pw := match who with
      | some n => (seatOf s n).mutePw
      | none => s.seats.any (fun p => p.2.mutePw)
    (composeFields (fs.filter (fun f => f != LIFE_STATUS_MUTE_PW)) (getF s) + 512 * b2n pw, s)
  | 0x04 =>
    let ci := if running s then localCi s else 0
    (lo32 ci, putF LIFE_CI_HI_CI_HI (hi32 ci) s)
  | 0x0C => (lifeFault s, s)
  | 0x10 => (getF s PAIR_STAT_STATE + 16 * getF s PAIR_STAT_CLAIM + 32 * getF s PAIR_STAT_CLAIM_IN + 64 * getF s PAIR_STAT_PROTECTED
      + 128 * getF s PAIR_STAT_HEARTBEAT + 256 * getF s PAIR_CAUSE_CODE + 65536 * getF s PAIR_CAUSE_CI16, s)
  | _ =>
    let m := fun (n : Nat) => getF s (LIFE_MUTE_MUTE n)
    match who with
    | some n => if o = 0x20 then (m n, s) else if o = 0x24 then (not32 (m n), s) else if o < 0x20 then (readWord s fs, s) else (0, s)
    | none =>
      if 0x20 ≤ o ∧ o < 0x40 then ((if o % 8 = 0 then m ((o - 0x20) / 8) else not32 (m ((o - 0x20) / 8))), s)
      else (readWord s fs, s)

/-- A seat view at an offset below 0x3000: lifeline, doorbells, mailbox and ring memory (R341, R343, R347, R355).
(DESIGN CHOICE log 91) -/
def seatViewRead (who : Option Nat) (n o : Nat) (s : State) : Nat × State :=
  if o < 0x100 then lifeRead who o s
  else if o < 0x1000 then (readWord s (fieldsAt (0x20100000 + 0x4000 * n + o)), s)
  else ((seatOf s n).mail.get (o / 4) 0, s)

/-- Four calendar codes as a word. -/
def calWord (m : AMap Nat) (k d : Nat) : Nat := ofBytes ((List.range 4).map (fun i => m.get (k + i) d))

/-- The calendar and slot-map view at an offset below 0x4000 (R139). -/
def calRead (c : Cal) (o : Nat) : Nat :=
  if o < 0x2000 then calWord c.bank o 0xFF
  else if o < 0x2800 then calWord c.slotW (o - 0x2000) 0xFE
  else if o < 0x3000 then calWord c.slotR (o - 0x2800) 0xFE
  else let l := (o - 0x3000) / 4; l + 65536 * mapEntry c l

/-- A calendar byte stored. -/
def putCodes (k v d : Nat) (m : AMap Nat) : AMap Nat :=
  ((List.range 4).zip (bytesOf v 4)).foldl (fun (m : AMap Nat) p => m.set (k + p.1) p.2 d) m

/-- The shadow calendars and slot map written (R139). -/
def calWrite (o v : Nat) (c : Cal) : Cal :=
  if o < 0x2000 then { c with bank := putCodes o v 0xFF c.bank }
  else if o < 0x2800 then { c with slotW := putCodes (o - 0x2000) v 0xFE c.slotW }
  else if o < 0x3000 then { c with slotR := putCodes (o - 0x2800) v 0xFE c.slotR }
  else { c with map := c.map.set ((o - 0x3000) / 4) (v / 65536 % 65536) 0xFE }

/-- The course that the audio side computes (R305): the CI, behind by the lag in the replay frame. -/
def replayCi (s : State) : Nat := if running s then s.fab.ci else 0

/-- A read of a register (R8, R43, R128, R163, R174, R222, R229, R230, R321, R355): its value, and what the read changes. -/
def regRead (a : Nat) (s : State) : Nat × State :=
  let fs := fieldsAt a
  let raw := readWord s fs
  let o := a % 65536
  if absentReg s a then (0, s)
  else match a / 65536 with
    | 0x2000 =>
      if o = 0x14 then (not32 (readWord s (fieldsAt 0x20000010)), s)
      else if o = 0x24 then (b2n s.ctl.debugOpen, s)
      else (raw, s)
    | 0x2001 => lifeRead none o s
    | 0x2002 =>
      let e := s.vsr.log.headD ⟨0, false, 0, 0, 0⟩
      if o = 0 then (raw + s.vsr.log.length, s)
      else if o = 4 then (e.addr, s)
      else if o = 8 then (e.kind + 8 * b2n e.write + 16 * e.master + 256 * (e.id % 256), s)
      else (raw, s)
    | 0x2003 =>
      let e := s.ash.log.headD ⟨0, 0, 0, 0, 0⟩
      if o = 0x10 then (raw + s.ash.log.length, s)
      else if o = 0x14 then (e.word, s)
      else if o = 0x18 then (e.syndrome % 128 + 128 * (e.action % 4) + 512 * (e.req % 64) + 65536 * (e.ci16 % 65536), s)
      else if 0x100 ≤ o ∧ o < 0x180 ∧ o % 8 = 4 then (not32 (readWord s (fieldsAt (a - 4))), s)
      else (raw, s)
    | 0x2004 =>
      let e := s.fab.guardLog.headD ⟨0, 0, 0, 0⟩
      if o = 0x100 then
        let ci := if running s then s.fab.ci else 0
        (lo32 ci, putFs [(FAB_CI_HI_CI_HI, hi32 ci), (FAB_CYC_CYCLE, if running s then courseCycle s else 0)] s)
      else if (o = 0x104 ∨ o = 0x108) ∧ !running s then (0, s)
      else if o = 0x10 then (raw + 2 * s.fab.guardLog.length, s)
      else if o = 0x14 then (e.code + 256 * e.req + 65536 * e.cycle, s)
      else if o = 0x18 then (lo32 e.ci, s)
      else if o = 0x114 then (not32 (readWord s (fieldsAt 0x20040110)), s)
      else if 0x4000 ≤ o ∧ o < 0x8000 then (calRead s.fab.shadow (o - 0x4000), s)
      else if 0xC000 ≤ o then (calRead s.fab.cal (o - 0xC000), s)
      else (raw, s)
    | 0x2005 =>
      if 0x14 ≤ o ∧ o < 0x24 then (rteRead s (getF s RTE_IDX_SEL) (getF s RTE_IDX_INDEX) ((o - 0x14) / 4), s) else (raw, s)
    | 0x2006 =>
      if 0x10 ≤ o ∧ o < 0x30 then (dynRead s (getF s DYN_IDX_SEL) (getF s DYN_IDX_INDEX) ((o - 0x10) / 4), s) else (raw, s)
    | 0x2007 =>
      if o = 4 ∨ o = 0xC then (not32 (readWord s (fieldsAt (a - 4))), s) else (raw, s)
    | 0x2008 =>
      if o = 4 then (not32 (readWord s (fieldsAt 0x20080000)), s)
      else if o = 0x14 then aesAccess false 0 s
      else (raw, s)
    | 0x200A =>
      let e := s.str.evq.headD (0, 0, 0, 0)
      if o = 0 then (raw + 8 * s.str.evq.length, s)
      else if o = 8 then (e.1 + 1024 * e.2.1 + 2048 * e.2.2.1 + 65536 * e.2.2.2, s)
      else if 0x14 ≤ o ∧ o < 0x34 then (strRead s (getF s STR_IDX_SEL) (getF s STR_IDX_INDEX) ((o - 0x14) / 4), s)
      else (raw, s)
    | 0x200B =>
      if o = 0x14 then (s.ptp.ns, captureTime s)
      else if o = 0x40 then (s.ptpIo.stamp.2.2, captureStamp s)
      else if 0x200 ≤ o ∧ o < 0x280 ∧ o % 16 = 12 then readCapture ((o - 0x200) / 16) s
      else (raw, s)
    | 0x200C =>
      if o = 4 ∨ o = 0x304 then (not32 (readWord s (fieldsAt (a - 4))), s)
      else if o = 0x21C then (readBand s, s)
      else (raw, s)
    | 0x200D =>
      if o = 4 then (not32 (readWord s (fieldsAt 0x200D0000)), s)
      else if o = 0x24 then (mklData s, s)
      else if 0x100 ≤ o ∧ o < 0x500 ∧ o % 32 = 20 then (raw, fs.foldl (fun s f => putF f 0 s) s)
      else (raw, s)
    | 0x200E =>
      if o = 4 then (not32 (readWord s (fieldsAt 0x200E0000)), s)
      else if o = 8 then (raw - 64 * getF s PAIR_STAT_ELIGIBLE + 64 * b2n (eligible s), s)
      else if o = 0x24 then (lo32 (replayCi s), s)
      else (raw, s)
    | 0x2010 =>
      let n := o / 0x4000
      if o % 0x4000 < 0x3000 then seatViewRead (some n) n (o % 0x4000) s else (raw, s)
    | _ => (raw, s)

/-! ## Writes -/

/-- Whether a field refuses a value, and the flag that the refusal sets (R25, R171, R200, R262, R286, R315, R324, R397). -/
def refuses (s : State) (f : Fld) (v : Nat) : Option (Option Fld) :=
  let o := f.addr % 65536
  let bad := fun (b : Bool) (e : Option Fld) => if b then some e else none
  match f.addr / 65536 with
  | 0x2000 =>
    if o = 8 ∧ f.lo = 0 then bad (v == 0 || flag s SYS_WDT_CTL_LOCK) none
    else if o = 8 ∧ (f.lo = 16 ∨ f.lo = 17) then bad (flag s SYS_WDT_CTL_LOCK) none
    else none
  | 0x2007 =>
    if 0x400 ≤ o ∧ o < 0x1000 ∧ o % 16 = 0 ∧ f.lo = 1 then
      let n := (o - 0x400) / 16
      bad (flag s (SP_LANE_CFG_EN n) && v != getF s f) (some (SP_GRP_STAT_CFG_ERR (n / 8)))
    else none
  | 0x2009 =>
    let m := o / 0x4000
    if o % 0x4000 = 0 ∧ [1, 2, 4, 8].contains f.lo then bad (flag s (MAC_CTL_EN m) && v != getF s f) (some (MAC_IRQ_CFG_ERR m))
    else if o % 0x4000 = 0x10 ∧ f.lo = 0 then bad (v < 1518 || 9600 < v) (some (MAC_IRQ_CFG_ERR m))
    else if o % 0x4000 = 0x10 then bad (v < 64 || 9600 < v) (some (MAC_IRQ_CFG_ERR m))
    else none
  | 0x200C =>
    let e := some CLK_ALARM_CFG_ERR
    if o = 0x28 then bad (100000 < (toS 32 v).natAbs) e
    else if 0x100 ≤ o ∧ o < 0x200 ∧ o % 32 = 0 ∧ f.lo = 9 then bad (v == 0) e
    else if 0x310 ≤ o ∧ o < 0x320 ∧ f.lo = 2 then bad (v == 3) e
    else if 0x320 ≤ o ∧ o < 0x328 ∧ f.lo = 1 then bad (v == 3) e
    else if 0x320 ≤ o ∧ o < 0x328 ∧ f.lo = 3 then bad (4 < v) e
    else if 0x320 ≤ o ∧ o < 0x328 ∧ f.lo = 8 then bad (wcoPeriod s ((o - 0x320) / 4) ≤ (toS 24 v).natAbs) e
    else none
  | 0x200D =>
    if 0x100 ≤ o ∧ o < 0x500 ∧ o % 32 = 4 ∧ f.lo = 0 then bad (s.fab.img.isSome && !outBindOk s 0x25 v) (some AMP_STAT_CFG_ERR)
    else none
  | 0x200E =>
    if o = 0 ∧ f.lo = 0 then bad (v < 2 || 4 < v) none
    else if o = 0 ∧ f.lo = 8 then bad (v == 0) none
    else none
  | 0x200F =>
    if o = 0x10 ∧ f.lo = 0 then bad (v < 85 || 115 < v) none
    else if o = 0x10 ∧ f.lo = 8 then bad (v == 0) none
    else none
  | _ => none

/-- A field written with its part of a word: stored unless refused; a W1C field cleared by a 1; read-only and write-only
fields hold nothing. -/
def writeField (v : Nat) (f : Fld) (s : State) : State :=
  let x := bits v f.lo f.width
  match f.typ with
  | .rw => match refuses s f x with
    | none => putF f x s
    | some none => s
    | some (some e) => putF e 1 s
  | .w1c => putF f (bitsSet (getF s f) f.width |>.foldl (fun a i => if bitOf x i then a else a + 2 ^ i) 0) s
  | _ => s

/-- A register written with no effect but that of its fields. -/
def writePlain (a v : Nat) (s : State) : State := (fieldsAt a).foldl (fun s f => writeField v f s) s

/-- A matching pair taken into its fields. (DESIGN CHOICE log 23) -/
def takePair (a v : Nat) (s : State) : State :=
  (fieldsAt a).foldl (fun s f =>
    let x := bits v f.lo f.width
    match refuses s f x with
    | none => putF f x s
    | some none => s
    | some (some e) => putF e 1 s) s

/-- The PAIRWORD flag of a paired register. -/
def pairFlag (a : Nat) : Option Fld :=
  match a / 65536 with
  | 0x2004 => some FAB_TL_STATUS_PAIRWORD
  | 0x2007 => some SP_STAT_PAIRWORD
  | 0x2008 => some AES_STAT_PAIRWORD
  | 0x200C => some CLK_ALARM_PAIRWORD
  | 0x200D => some AMP_STAT_PAIRWORD
  | 0x200E => some PAIR_STAT_PAIRWORD
  | _ => none

/-- Whether a paired register is of the output-enable class (R9, R169, R173, R261, R265). -/
def isOen (a : Nat) : Bool := [0x20070000, 0x20070008, 0x20080000, 0x200C0300, 0x200D0000].contains a

/-- The pairs (R9), by the address of NAME. -/
def isPair (a : Nat) : Bool := isOen a || [0x20040110, 0x200C0000, 0x200E0000].contains a

/-- The first word of a pair kept until its complement comes. -/
def stageWord (a v : Nat) (s : State) : State := { s with stage := s.stage.put a (lo32 v) }

/-- A completed pair (R9, R25): a match is taken; a mismatch sets PAIRWORD, and for an output enable darkens its outputs.
(DESIGN CHOICE log 23) -/
def pairDone (a v c : Nat) (s : State) : State :=
  if lo32 c ≠ not32 v then
    let s1 := match pairFlag a with | some f => putF f 1 s | none => s
    if isOen a then { s1 with oenDark := a :: s1.oenDark.filter (· != a) } else s1
  else if a = 0x20040110 then
    if running s then putF FAB_TL_STATUS_CPO_REJ 1 s else takePair a v s
  else if a = 0x200C0000 then refreshClk (setRatioRegs (takePair a v s))
  else if isOen a then { takePair a v s with oenDark := s.oenDark.filter (· != a) }
  else takePair a v s

/-- The complement of a pair written: it completes the pair with the word staged before; with none staged, with the value
that stands. (DESIGN CHOICE log 23, 98) -/
def pairComplement (a c : Nat) (s : State) : State :=
  pairDone a (s.stage.get a (regWordRaw s a)) c { s with stage := s.stage.erase a }

/-- MUTED and the hard mute of a seat (R358): a matching pair writes MUTE; a mismatch forces it on and sets the seat's
MUTE_PW. (DESIGN CHOICE log 23, 91) -/
def muteDone (n v c : Nat) (s : State) : State :=
  if lo32 c = not32 v then putF (LIFE_MUTE_MUTE n) (v % 2) s
  else putF LIFE_STATUS_MUTE_PW 1 (putF (LIFE_MUTE_MUTE n) 1 (updSeat n (fun t => { t with mutePw := true }) s))

/-- A word of a seat's mute pair written. -/
def muteWrite (n : Nat) (complement : Bool) (v : Nat) (s : State) : State :=
  let a := (LIFE_MUTE_MUTE n).addr
  if complement then muteDone n (s.stage.get a (getF s (LIFE_MUTE_MUTE n))) v { s with stage := s.stage.erase a }
  else stageWord a v s

/-- MUTE_PW cleared for a seat by a 1; the Birrek's view clears every seat's. (DESIGN CHOICE log 91) -/
def clearMutePw (ns : List Nat) (s : State) : State :=
  let s1 := ns.foldl (fun s n => updSeat n (fun t => { t with mutePw := false }) s) s
  putB LIFE_STATUS_MUTE_PW (s1.seats.any (fun p => p.2.mutePw)) s1

/-- EV_TAIL written (R341, R347): refused where it would place TAIL after HEAD; held events then move into the ring. -/
def writeTail (n v : Nat) (s : State) : State :=
  let used := ringUsed s n
  let fwd := (v + 65536 - getF s (EV_TAIL_TAIL n)) % 65536
  if used < fwd then s else pumpEvents n 193 (putF (EV_TAIL_TAIL n) v s)

/-- POST = 1 (R343): the hardware's part; ignored while CMD_BUSY, with MB_OVERRUN. (DESIGN CHOICE log 18, 98, 125) -/
def postHw (n : Nat) (s : State) : State :=
  if flag s (DB_STAT_CMD_BUSY n) then putF (DB_STAT_MB_OVERRUN n) 1 s
  else putFs [(DB_STAT_CMD_BUSY n, 1), (DB_STAT_REPLY_READY n, 0)] s

/-- The doorbell registers of a seat written (R341). (DESIGN CHOICE log 98) -/
def doorWrite (n o v : Nat) (s : State) : State :=
  match o with
  | 0x100 => if bitOf v 0 then postHw n s else s
  | 0x10C => writeTail n (v % 65536) s
  | _ => writePlain (0x20100000 + 0x4000 * n + o) v s

/-- A pop of a log (R128, R163, R217, R321). -/
def popLog (a : Nat) (s : State) : State :=
  match a with
  | 0x2002000C => { s with vsr := { s.vsr with log := s.vsr.log.drop 1 } }
  | 0x2003001C => { s with ash := { s.ash with log := s.ash.log.drop 1 } }
  | 0x2004001C => { s with fab := { s.fab with guardLog := s.fab.guardLog.drop 1 } }
  | 0x200A000C => { s with str := { s.str with evq := s.str.evq.drop 1 } }
  | _ => s

/-- FAB_CTL written (R26, R66). (DESIGN CHOICE log 14) -/
def fabCtl (v : Nat) (s : State) : State :=
  match v % 4 with
  | 1 => startFabric s
  | 2 => if running s then { s with fab := { s.fab with stopReq := true } } else { s with fab := { s.fab with startAt := none } }
  | _ => s

/-- PWR_CTL written (R386, R390, R391). -/
def pwrCtl (v : Nat) (s : State) : State :=
  let s1 := if bitOf v 0 then fwRecover (fabReset false s) else s
  match bits v 1 2 with
  | 1 => quietEntry s1
  | 2 => if getF s1 PWR_STAT_STATE = 2 ∧ s1.pwr.entering = 0 ∧ !s1.pwr.rest then restEntry s1 else s1
  | 3 => quietExit s1
  | _ => s1

/-- A MAC register written (R185, R193, R199, R200). -/
def macWrite (m o v : Nat) (s : State) : State :=
  let a := 0x20090000 + 0x4000 * m + o
  if o = 0 then judgeLink m (writePlain a v s)
  else if o = 0x3C0 then (if bitOf v 0 then snapCounters m s else s)
  else if 0x40 ≤ o ∧ o < 0x80 ∧ o % 16 = 4 then
    let tx := decide (0x60 ≤ o)
    let r := o % 32 / 16
    ringEnable m tx r (bitOf v 0) (putF (if tx then MAC_TX_CFG_SIZE m r else MAC_RX_CFG_SIZE m r) (bits v 1 3) s)
  else writePlain a v s

/-- A CLK_ register written (R244 to R262). -/
def clkWrite (o v : Nat) (s : State) : State :=
  let a := 0x200C0000 + o
  match o with
  | 0x10 => refreshClk (writeDpll v s)
  | 0x14 => writeFreq v s
  | 0x24 => phaseStep v s
  | 0x200 => if bitOf v 0 then synEnable s else synDisable s
  | 0x210 => if bitOf v 7 then bandCal (bits v 0 6) (bits v 6 1) s else writePlain a v s
  | 0x21C => writeBand v s
  | _ =>
    if 0x320 ≤ o ∧ o < 0x328 then
      let w := (o - 0x320) / 4
      let s1 := writePlain a v s
      if bitOf v 0 ∧ getF s1 (CLK_WCO_CFG_ALIGN_SRC w) = 0 then alignWco w 0 s1 else s1
    else if o < 0x200 ∧ o != 0x0C then refreshClk (setRatioRegs (writePlain a v s))
    else writePlain a v s

/-- A PTP_ register written (R221, R223, R228). -/
def ptpWrite (o v : Nat) (s : State) : State :=
  let a := 0x200B0000 + o
  match o with
  | 0x08 => stageWord a v s
  | 0x0C => writeInc v s
  | 0x3C => match v % 4 with
    | 1 => ptpSet s
    | 2 => ptpStep (bitOf v 2) s
    | _ => s
  | _ =>
    if 0x100 ≤ o ∧ o < 0x200 ∧ o % 32 = 0x10 then
      let n := (o - 0x100) / 32
      pulseControl n (bitOf v 0) (bitOf v 1) (bitOf v 2)
        (putF (PTPO_CTL_SKIP_CNT n) (bits v 16 16) (writeField v (PTPO_CTL_LATE n) s))
    else writePlain a v s

/-- A register written (R9, R14, R139, R163, R174, R216 and the tables): whether it was taken, and the state. A locked shadow
answers with an error. -/
def regWrite (a v : Nat) (s : State) : Bool × State :=
  let o := a % 65536
  let v := lo32 v
  let ok := fun (s : State) => (true, s)
  if absentReg s a then (true, s)
  else if isPair a then ok (stageWord a v s)
  else if isPair (a - 4) ∧ 4 ≤ a then ok (pairComplement (a - 4) v s)
  else match a / 65536 with
    | 0x2000 => match o with
      | 0x00 => ok (if bitOf v 7 then trialConfirm s else s)
      | 0x18 => ok (kickWrite false v s)
      | 0x1C => ok (kickWrite true v s)
      | 0x20 => ok (if bitOf v 0 then { s with ctl := { s.ctl with reqSoft := true } } else s)
      | _ => ok (writePlain a v s)
    | 0x2001 =>
      if o = 0 then
        let s1 := if bitOf v 9 then clearMutePw [0, 1, 2, 3] s else s
        ok (if bitOf v 1 != flag s1 LIFE_STATUS_FW_UP then writeFwUp (bitOf v 1) s1 else s1)
      else if 0x20 ≤ o ∧ o < 0x40 then ok (muteWrite ((o - 0x20) / 8) (o % 8 == 4) v s)
      else ok (writePlain a v s)
    | 0x2002 => ok (if o = 0xC then (if bitOf v 0 then popLog a s else s) else writePlain a v s)
    | 0x2003 =>
      if o = 0x08 then ok (setScrub v s)
      else if o = 0x1C then ok (if bitOf v 0 then popLog a s else s)
      else if 0x100 ≤ o ∧ o < 0x180 then
        if o % 8 = 0 then ok (stageWord a v s)
        else ok (writePwr ((o - 0x100) / 8) (s.stage.get (a - 4) (regWordRaw s (a - 4))) v { s with stage := s.stage.erase (a - 4) })
      else ok (writePlain a v s)
    | 0x2004 =>
      if o = 0 then ok (fabCtl v s)
      else if o = 0x1C then ok (if bitOf v 0 then popLog a s else s)
      else if 0x1000 ≤ o ∧ o < 0x1800 ∧ o % 64 = 0 then
        ok (match v % 4 with | 1 => tileArm ((o - 0x1000) / 64) s | 2 => tileStop ((o - 0x1000) / 64) s | _ => s)
      else if 0x4000 ≤ o ∧ o < 0x8000 then
        if flag s FAB_STAT_SHADOW_LOCK then (false, s)
        else ok { s with fab := { s.fab with shadow := calWrite (o - 0x4000) v s.fab.shadow } }
      else ok (writePlain a v s)
    | 0x2005 => ok (if 0x14 ≤ o ∧ o < 0x24 then rteWrite ((o - 0x14) / 4) v s else writePlain a v s)
    | 0x2006 => ok (if 0x10 ≤ o ∧ o < 0x30 then dynWrite ((o - 0x10) / 4) v s else writePlain a v s)
    | 0x2008 =>
      if o = 0x14 then ok (aesAccess true v s).2
      else if 0x100 ≤ o ∧ o % 16 = 12 then
        let s1 := writePlain a v s
        ok (if bitOf v 3 then txCommit ((o - 0x100) / 16) s1 else s1)
      else ok (writePlain a v s)
    | 0x2009 =>
      if 0xF000 ≤ o then ok (if o % 16 = 4 then mdioCommand ((o - 0xF000) / 16) v s else writePlain a v s)
      else ok (macWrite (o / 0x4000) (o % 0x4000) v s)
    | 0x200A =>
      if o = 0xC then ok (if bitOf v 0 then popLog a s else s)
      else if 0x14 ≤ o ∧ o < 0x34 then
        match execStrTableWrite ((o - 0x14) / 4) v s with
        | .next t => ok t
        | _ => ok s
      else ok (writePlain a v s)
    | 0x200B => ok (ptpWrite o v s)
    | 0x200C => ok (clkWrite o v s)
    | 0x200D =>
      if o = 0x10 then ok (ampClear v s)
      else
        let s1 := writePlain a v s
        ok (if o = 0x18 ∨ o = 0x1C then busRewritten (o == 0x18 && bitOf v 0) s s1 else s1)
    | 0x200E =>
      let s1 := writePlain a v s
      ok (if o = 0x10 ∧ bitOf v 8 then retrain s1 else s1)
    | 0x200F =>
      if o = 4 then ok (pwrCtl v s)
      else if o = 0x14 then ok (writePlain a v { s with pwr := { s.pwr with latched := none } })
      else ok (writePlain a v s)
    | 0x2010 =>
      let n := o / 0x4000
      let x := o % 0x4000
      if x < 0x100 then ok s
      else if x < 0x1000 then ok (doorWrite n x v s)
      else if x < 0x3000 then ok (updSeat n (putMail x [v]) s)
      else ok (writePlain a v s)
    | _ => ok (writePlain a v s)

/-- Whether the map has a register, a table or a seat area at an address (R317); the unused part of a block goes to the
default target. (DEDUCED log 92) -/
def regExists (a : Nat) : Bool :=
  let o := a % 65536
  !(fieldsAt a).isEmpty || isPair (a - 4) || a == 0x20000014
    || (a / 65536 == 0x2001 && 0x20 ≤ o && o < 0x40)
    || (a / 65536 == 0x2003 && 0x100 ≤ o && o < 0x180)
    || (a / 65536 == 0x2004 && ((0x4000 ≤ o && o < 0x8000) || 0xC000 ≤ o))
    || (a / 65536 == 0x2010 && o % 0x4000 < 0x3000)

/-! ## Commands of single registers -/

/-- REMAP_WRITE (R318): the transactions accepted for the two rows have completed, so the swap takes effect. -/
def execRemapWrite (value : Nat) (s : State) : Host.Outcome State Fault Refusal :=
  .next (if s.pwr.rest || s.ctl.boot == .inReset then s else (regWrite 0x20000004 value s).2)

/-- CPO_WRITE (R25): the FAB_CPO pair. -/
def execCpoWrite (value complement : Nat) (s : State) : Host.Outcome State Fault Refusal :=
  .next (if s.pwr.rest || s.ctl.boot == .inReset then s else pairDone 0x20040110 (lo32 value) complement s)

/-- LOG_POP (R128): 0 guard log, 1 Ashlar log, 2 Voussoir log, 3 stream event queue. -/
def execLogPop (which : Nat) (s : State) : Host.Outcome State Fault Refusal :=
  .next (popLog ([0x2004001C, 0x2003001C, 0x2002000C, 0x200A000C].getD which 0) s)

/-- CI_READ_CAPTURE (R43): a read of FAB_CI_LO. -/
def execCiReadCapture (s : State) : Host.Outcome State Fault Refusal :=
  let r := regRead 0x20040100 s
  .next (emit .response [0, 0, 0, r.1] r.2)

/-- LIFE_CI_READ (R355): a read of LIFE_CI in a seat's view. -/
def execLifeCiRead (seat : Nat) (s : State) : Host.Outcome State Fault Refusal :=
  if s.pwr.rest then .next (emit .response [0, 0, 0, 0xFFFFFFFF] s)
  else
    let r := lifeRead (some (seat % 4)) 4 s
    .next (emit .response [0, 0, 0, r.1] r.2)

end Sys2Proof.Machine
end

