-- ==== Sys2Proof/Machine/FwSys.lean ====
section
/-! DEFINITION. The SYS commands (R369, R364). -/

namespace Sys2Proof.Machine

/-- SYS.CAPS. -/
def fwSysCaps (r : FwReq) (s : State) : FwM := do
  r.len 0
  let c := readWord s (fieldsAt SYS_CAP_VARIANT.addr)
  return (s, [c, not32 c, s.ctl.fwVersion,
    s.ctl.svn % 64 + 256 * getF s SYS_BOOT_STAT_SLOT + 512 * getF s SYS_BOOT_STAT_TRIAL + 1024 * getF s SYS_BOOT_STAT_FROM_COPY,
    65537, b2n s.pins.pairEn + 2 * b2n s.pins.unitId + 4 * s.pins.seatMap + 16 * s.pins.bootSrc,
    getF s FAB_IMG_ID_IMAGE_ID, (if running s then rmOf s else 0) + 256 * getF s FAB_TL_STATUS_FAMILY,
    if isSmall s then 1048576 else 3145728, lo32 s.fuses.serial, hi32 s.fuses.serial])

/-- SYS.RESET: the CTL reset is asked for. (DESIGN CHOICE log 15) -/
def fwSysReset (r : FwReq) (s : State) : FwM := do
  r.len 1
  need (r.seat == 0 || flag s (HOST_PERM_CTL_OK r.seat)) (err eAuth)
  need (r.w 0 == 1) (errAt eRange 0)
  return ({ s with ctl := { s.ctl with reqSoft := true } }, [])

/-- SYS.LIFE. -/
def fwSysLife (r : FwReq) (s : State) : FwM := do
  r.len 0
  let ci := if running s then localCi s else 0
  let at' := fun o => (lifeRead (some r.seat) o s).1
  return (s, [at' 0, lo32 ci, hi32 ci, at' 0xC, at' 0x10, at' 0x14, at' 0x1C])

/-- SYS.MUTE (R358): the sender's mute pair. (DEDUCED log 130) -/
def fwSysMute (r : FwReq) (s : State) : FwM := do
  r.len 2
  need (flag s (HOST_PERM_MUTE_OK r.seat)) (err eAuth)
  r.only [(0, 1)]
  need (r.w 1 == not32 (r.w 0)) (errAt ePairword 1)
  return (muteDone r.seat (r.w 0) (r.w 1) s, [])

/-- SYS.CANCEL (R364). -/
def fwSysCancel (r : FwReq) (s : State) : FwM := do
  r.len 1
  r.only [(0, mask 5 0)]
  let e ← mayCancel s r.seat (r.w 0)
  return (cancelAsked (r.w 0) e s, [])

/-- SYS.SCHED. -/
def fwSysSched (r : FwReq) (s : State) : FwM := do
  r.len 0
  let l := s.fab.sched
  return (s, l.length :: l.flatMap (fun p => [p.1 + 256 * p.2.kind + 4096 * p.2.seat, lo32 p.2.ci, hi32 p.2.ci]))

/-- SYS_CAPS. -/
def execSysCaps (r : FwReq) (s : State) : Host.Outcome State Fault Refusal := fwRow 0x0000 r fwSysCaps s
/-- SYS_RESET. -/
def execSysReset (r : FwReq) (s : State) : Host.Outcome State Fault Refusal := fwRow 0x0001 r fwSysReset s
/-- SYS_LIFE. -/
def execSysLife (r : FwReq) (s : State) : Host.Outcome State Fault Refusal := fwRow 0x0002 r fwSysLife s
/-- SYS_MUTE. -/
def execSysMute (r : FwReq) (s : State) : Host.Outcome State Fault Refusal := fwRow 0x0003 r fwSysMute s
/-- SYS_CANCEL. -/
def execSysCancel (r : FwReq) (s : State) : Host.Outcome State Fault Refusal := fwRow 0x0004 r fwSysCancel s
/-- SYS_SCHED. -/
def execSysSched (r : FwReq) (s : State) : Host.Outcome State Fault Refusal := fwRow 0x0005 r fwSysSched s

end Sys2Proof.Machine
end

