-- ==== Sys2Proof/Machine/Voussoir.lean ====
section
/-! DEFINITION. The Voussoir matrix: requests decoded, held back, arbitrated and answered (R316 to R321), master resets and
cuts (R322), and what a host writes into its seat view (R341, R343, R355 to R358). -/

namespace Sys2Proof.Machine

/-! ## Host writes into a seat view -/

/-- The first release key (R357). -/
def relKey1 : Nat := 0x5AFE0A11
/-- The second release key (R357). -/
def relKey2 : Nat := 0xA501F5EE

/-- A write of LIFE_RELEASE by a seat (R356, R357). -/
def keyWrite (n v : Nat) (s : State) : State :=
  if !flag s (HOST_PERM_REL_OK n) then s
  else if v = relKey1 then updSeat n (fun t => { t with relArmed := true }) s
  else
    let s1 := updSeat n (fun t => { t with relArmed := false }) s
    if v = relKey2 ∧ (seatOf s n).relArmed then selfDiag 9 s1 else s1

/-- A write of a seat's mute pair (R356, R358). -/
def seatMute (n : Nat) (complement : Bool) (v : Nat) (s : State) : State :=
  if flag s (HOST_PERM_MUTE_OK n) then muteWrite n complement v s else s

/-- A host's write into its seat view (R335, R341, R343): lifeline, doorbells, and the command area unless CMD_BUSY. -/
def seatViewWrite (n o v : Nat) (s : State) : State :=
  if o = 0 then (if bitOf v 9 then clearMutePw [n] s else s)
  else if o = 0x18 then keyWrite n v s
  else if o = 0x20 ∨ o = 0x24 then seatMute n (o == 0x24) v s
  else if o < 0x100 then s
  else if o < 0x118 then doorWrite n o v s
  else if 0x1000 ≤ o ∧ o < 0x1400 then
    if flag s (DB_STAT_CMD_BUSY n) then putF (DB_STAT_MB_OVERRUN n) 1 s else updSeat n (putMail o [v]) s
  else s

/-! ## Requests -/

/-- The kind of a target, for arbitration and the ordering hold. -/
def tgtKind : BusTgt → Nat
  | .rom _ => 0
  | .ram _ => 1
  | .reg _ => 2
  | .tile _ _ => 3
  | .ash _ => 4
  | .default => 5

/-- Whether a request is held back (R319, R320): 16 outstanding of its direction, an earlier request of its master waiting,
the same ID outstanding at another target, or a write behind a write to another target whose data has not all been taken.
Only Ashlar keeps transactions outstanding. -/
def heldBack (s : State) (ahead : List VsrReq) (r : VsrReq) : Bool :=
  let mine := s.vsr.outstanding.filter (fun t => t.master == r.master)
  let ash := tgtKind (busTarget s r.addr) == 4
  16 ≤ (mine.filter (fun t => t.write == r.write)).length || ahead.any (fun h => h.master == r.master)
    || (!ash && mine.any (fun t => t.id == r.id && t.write == r.write))
    || (!ash && r.write && mine.any (fun t => t.write && 0 < t.left))

/-- Bytes that a request moves. -/
def VsrReq.bytes (r : VsrReq) : Nat := r.size * r.beats

/-- The error response of a request (R321): zeros for a read, an entry of the log. -/
def refuseReq (kind : Nat) (r : VsrReq) (s : State) : State :=
  respond r.master r.id kind (if r.write then [] else List.replicate ((r.bytes + 3) / 4) 0) (vsrLog kind r.write r.master r.id r.addr s)

/-- Words of a tile window read one after another; whether any was refused. -/
def tileReads (n off : Nat) : Nat → State → List Nat × Bool × State
  | 0, s => ([], false, s)
  | k + 1, s =>
    let a := tileWinRead n off s
    let t := tileReads n (off + 4) k a.2
    match a.1 with
    | .word v => (v :: t.1, t.2.1, t.2.2)
    | .error => (0 :: t.1, true, t.2.2)

/-- Words of a tile window written one after another; whether any was refused. -/
def tileWrites (n off : Nat) : List Nat → State → Bool × State
  | [], s => (false, s)
  | w :: ws, s =>
    let a := tileWinWrite n off (lo32 w) s
    let t := tileWrites n (off + 4) ws a.2
    (t.1 || a.1 == .error, t.2)

/-- A request carried out at its target (R317 to R321). Ashlar keeps it outstanding until its beats have been answered.
(DESIGN CHOICE log 97) -/
def perform (r : VsrReq) (s : State) : State :=
  let t := busTarget s r.addr
  let s := { s with vsr := { s.vsr with lastGrant := s.vsr.lastGrant.put (tgtKind t) r.master } }
  let answer := fun (d : List Nat) (s : State) => respond r.master r.id 0 (if r.write then [] else d) s
  let nw := (r.bytes + 3) / 4
  if t = .default then refuseReq 1 r s
  else if !reaches s r.master r.fetch t then refuseReq 2 r s
  else match t with
    | .default => s
    | .rom off => answer ((List.range nw).map (fun k => (Config.bootRom (off / 4 + k)).toNat)) s
    | .ram off =>
      if r.write then answer [] (putRam off ((wordsToBytes r.data).take r.bytes) s)
      else answer (bytesToWords ((List.range r.bytes).map (fun k => ramByte s (off + k)))) s
    | .reg a =>
      if r.size != 4 || r.beats != 1 || a % 4 != 0 then refuseReq 4 r s
      else if !regExists a then refuseReq 1 r s
      else
        let host := 2 ≤ r.master && r.master ≤ 4
        let n := (a - 0x20100000) / 0x4000
        let o := a % 0x4000
        let v := r.data.headD 0
        if host && 0x3000 ≤ o then answer [0] s
        else if host then
          if r.write then answer [] (seatViewWrite n o (lo32 v) s)
          else let x := seatViewRead (some n) n o s; answer [x.1] x.2
        else if r.write then
          let x := regWrite a v s
          if x.1 then answer [] x.2 else refuseReq 3 r x.2
        else let x := regRead a s; answer [x.1] x.2
    | .tile n off =>
      if r.write then
        let x := tileWrites n off (r.data.take nw) s
        if x.1 then refuseReq 3 r x.2 else answer [] x.2
      else
        let x := tileReads n off nw s
        if x.2.1 then refuseReq 3 r x.2.2 else answer x.1 x.2.2
    | .ash _ =>
      let lines := if r.bytes = 0 then 1 else (r.addr + r.bytes - 1) / 32 - r.addr / 32 + 1
      { s with vsr := { s.vsr with
        outstanding := s.vsr.outstanding ++ [⟨r.master, r.id, r.write, r.addr, lines, if r.write then lines else 0⟩] } }

/-- The held requests that may go now, each with its place. -/
def grantable (s : State) : List (Nat × VsrReq) :=
  ((List.range s.vsr.held.length).zip s.vsr.held).filter (fun p => !heldBack s (s.vsr.held.take p.1) p.2)

/-- Round-robin among the masters that wait for the first target with one that may go (R320). -/
def nextGrant (s : State) : Option (Nat × VsrReq) :=
  match grantable s with
  | [] => none
  | p :: ps =>
    let k := tgtKind (busTarget s p.2.addr)
    let turn := fun (q : Nat × VsrReq) => (q.2.master + 11 - s.vsr.lastGrant.get k 10 - 1) % 11
    some (ps.foldl (fun best q =>
      if tgtKind (busTarget s q.2.addr) = k ∧ turn q < turn best then q else best) p)

/-- Held requests released one after another while any may go. -/
def releaseHeld : Nat → State → State
  | 0, s => s
  | k + 1, s =>
    match nextGrant s with
    | none => s
    | some p => releaseHeld k (perform p.2 { s with vsr := { s.vsr with held := s.vsr.held.eraseIdx p.1 } })

/-- Every held request that may go. -/
def releaseAll (s : State) : State := releaseHeld (s.vsr.held.length + 1) s

/-- Whether a master can issue: not in a reset (R322), not gated in Rest, not in reset itself, the PCIe endpoint only while
its link is up. -/
def canIssue (s : State) (m : Nat) : Bool :=
  m ≤ 10 && !s.vsr.inReset.contains m && !s.pwr.rest && s.ctl.boot != .inReset && (m != 2 || s.ctl.pcieUp)

/-- A request made (R320): carried out at once, or held in its master's order. (DESIGN CHOICE log 97) -/
def request (r : VsrReq) (s : State) : State :=
  if !canIssue s r.master then s
  else if heldBack s s.vsr.held r then { s with vsr := { s.vsr with held := s.vsr.held ++ [r] } }
  else releaseAll (perform r s)

/-! ## Master resets (R322) -/

/-- The cut after 2 µs: a CUT record for each transaction of the master, its queued beats complete unanswered, and the reset
takes effect. -/
def cutMaster (m : Nat) (s : State) : State :=
  if !s.vsr.inReset.contains m then s
  else
    let mine := s.vsr.outstanding.filter (fun t => t.master == m)
    let s1 := mine.foldl (fun s t => vsrLog 5 t.write m t.id t.addr s) s
    let mark := fun (b : Beat) => if b.master = m then { b with cut := true } else b
    { s1 with
      vsr := { s1.vsr with
        outstanding := s1.vsr.outstanding.filter (fun t => t.master != m)
        inReset := s1.vsr.inReset.filter (· != m) }
      ash := { s1.ash with
        queue := s1.ash.queue.map (fun p => (p.1, p.2.map mark))
        merge := s1.ash.merge.map (fun p => (p.1, { p.2 with beat := mark p.2.beat })) } }

/-- MASTER_RESET (R322). -/
def execMasterReset (master : Nat) (s : State) : Host.Outcome State Fault Refusal :=
  .next (if master ≤ 10 then masterReset master s else s)

end Sys2Proof.Machine
end

