-- ==== Sys2Proof/Machine/FwDiag.lean ====
section
/-! DEFINITION. The DIAG commands (R382, R328, R331). -/

namespace Sys2Proof.Machine

/-- A word read over the Voussoir matrix by the Birrek: zeros, with an entry of the log, where the target refuses it.
(DEDUCED log 92) -/
def diagWord (a : Nat) (s : State) : Nat × State :=
  match busTarget s a with
  | .default => (0, vsrLog 1 false 1 0 a s)
  | .rom off => ((Config.bootRom (off / 4)).toNat, s)
  | .ram off => (ofBytes ((List.range 4).map (fun k => ramByte s (off + k))), s)
  | .reg x => if regExists x then regRead x s else (0, vsrLog 1 false 1 0 a s)
  | .tile n off =>
    let r := tileWinRead n off s
    match r.1 with
    | .word v => (v, r.2)
    | .error => (0, vsrLog 3 false 1 0 a r.2)
  | .ash w =>
    let r := ashWordsBy 1 w 1 s
    (r.1.headD 0, if r.2.1 then r.2.2 else vsrLog 3 false 1 0 a r.2.2)

/-- Words read one after another. -/
def diagWords (a : Nat) : Nat → State → List Nat × State
  | 0, s => ([], s)
  | n + 1, s =>
    let r := diagWord a s
    let t := diagWords (a + 4) n r.2
    (r.1 :: t.1, t.2)

/-- A register whose read removes or clears what it shows (R382). -/
def diagRefuses (a : Nat) : Bool :=
  (List.range 8).any (fun i => a == 0x200B020C + 16 * i) || (List.range 32).any (fun c => a == (AMP_CH_MEAS_I_PEAK c).addr)

/-- DIAG.READ. -/
def fwDiagRead (r : FwReq) (s : State) : FwM := do
  r.len 2
  need (r.w 0 % 4 == 0) (errAt eRange 0)
  need (1 ≤ r.w 1 && r.w 1 ≤ 248 && r.w 0 + 4 * r.w 1 ≤ 4294967296) (errAt eRange 1)
  need ((List.range (r.w 1)).all (fun k => !diagRefuses (r.w 0 + 4 * k))) (errAt eRange 0)
  let x := diagWords (r.w 0) (r.w 1) s
  return (x.2, x.1)

/-- DIAG.COUNTS. -/
def fwDiagCounts (r : FwReq) (s : State) : FwM := do
  r.len 1
  let n := r.f 0 0 5
  let clr := r.f 0 8 1 == 1
  inVariant n (nTiles s) 32
  (if clr then mayOwn s r 1 0 else .ok ())
  r.only [(0, mask 4 0 + 256)]
  (if clr then quotaFor s r 1 0 else .ok ())
  let base := (TILE_STAT_STATE n).addr
  let ws := (List.range 5).map (fun k => (regRead (base + 4 * k) s).1)
  let s1 := if clr then putFs [(TILE_ECC_CORR_CNT n, 0), (TILE_ECC_UNCORR_CNT n, 0), (TILE_SATCNT_STORE_SAT n, 0),
    (TILE_SATCNT_ACC_SAT n, 0)] (acquire r 1 0 s) else s
  return (s1, ws)

/-- Up to n entries of a log as its three registers show them, each removed (R382). (DESIGN CHOICE log 128) -/
def logTake (base pop : Nat) (held : State → Nat) : Nat → State → List Nat × State
  | 0, s => ([], s)
  | n + 1, s =>
    if held s = 0 then ([], s)
    else
      let ws := [(regRead base s).1, (regRead (base + 4) s).1, (regRead (base + 8) s).1]
      let t := logTake base pop held n (popLog pop s)
      (ws ++ t.1, t.2)

/-- DIAG.LOG. (DESIGN CHOICE log 128) -/
def fwDiagLog (r : FwReq) (s : State) : FwM := do
  r.len 1
  steward r
  r.only [(0, 3 + mask 15 8)]
  need (r.f 0 0 2 != 3 && r.f 0 8 8 ≤ 16) (errAt eRange 0)
  let n := r.f 0 8 8
  let x := match r.f 0 0 2 with
    | 0 => logTake 0x20040010 0x2004001C (fun s => s.fab.guardLog.length) n s
    | 1 => logTake 0x20030010 0x2003001C (fun s => s.ash.log.length) n s
    | _ => logTake 0x20020000 0x2002000C (fun s => s.vsr.log.length) n s
  return (x.2, x.1.length / 3 :: x.1)

/-- DIAG.INJECT. -/
def fwDiagInject (r : FwReq) (s : State) : FwM := do
  r.len 2
  steward r
  return (writePlain 0x20030024 (r.w 1) (writePlain 0x20030020 (r.w 0) s), [])

/-- DIAG.SVN (R328): the floor rises, at most to the running SVN, and never falls. -/
def fwDiagSvn (r : FwReq) (s : State) : FwM := do
  r.len 1
  steward r
  r.only [(0, mask 5 0)]
  need (r.w 0 ≤ s.ctl.svn) (errAt eRange 0)
  return ({ s with fuses := { s.fuses with svnFloor := max s.fuses.svnFloor (r.w 0) } }, [])

/-- Whether a debug attempt is signed under an unrevoked key slot, over the hash of nonce and serial (R328, R382).
(DESIGN CHOICE log 49) -/
def debugOk (s : State) (r : FwReq) (nonce : Nat) : Bool :=
  let k := r.f 1 0 2
  let b := wordsToBytes (r.words.drop 2)
  let key := b.take 65
  let n := fun (o : Nat) => ofBeBytes ((b.drop o).take 32)
  s.fuses.keyHash.getD k 0 == ofBeBytes (sha256 key) && !s.fuses.keyRevoked.getD k true && b.getD 0 0 == 4
    && ecdsaOk (n 1) (n 33) (sha256 (bytesOf nonce 16 ++ bytesOf s.fuses.serial 8)) (n 68) (n 100)

/-- DIAG.DEBUG: phase 0 gives a nonce, phase 1 opens debug. -/
def fwDiagDebug (r : FwReq) (s : State) : FwM := do
  r.len (if r.f 0 0 1 = 0 then 1 else 35)
  steward r
  r.only [(0, 1)]
  if r.w 0 = 0 then
    let f := takeFree s
    let n := (Config.debugNonce f.1).toNat
    return ({ f.2 with fw := { f.2.fw with nonce := some n } }, (List.range 4).map (fun k => bits n (32 * k) 32))
  else do
    r.only [(1, 3), (18, 255)]
    match s.fw.nonce with
    | none => .error (err eAuth)
    | some n => do
      need (debugOk s r n) (err eAuth)
      return ({ s with ctl := { s.ctl with debugOpen := true } }, [])

/-- A nonce serves one attempt, whatever its outcome (R382). -/
def spendNonce (r : FwReq) (s : State) : State :=
  if r.seat = 0 ∧ r.words.length = 35 ∧ r.w 0 = 1 then { s with fw := { s.fw with nonce := none } } else s

/-- DIAG_READ. -/
def execDiagRead (r : FwReq) (s : State) : Host.Outcome State Fault Refusal := fwRow 0x0E00 r fwDiagRead s
/-- DIAG_COUNTS. -/
def execDiagCounts (r : FwReq) (s : State) : Host.Outcome State Fault Refusal := fwRow 0x0E01 r fwDiagCounts s
/-- DIAG_LOG. -/
def execDiagLog (r : FwReq) (s : State) : Host.Outcome State Fault Refusal := fwRow 0x0E02 r fwDiagLog s
/-- DIAG_INJECT. -/
def execDiagInject (r : FwReq) (s : State) : Host.Outcome State Fault Refusal := fwRow 0x0E03 r fwDiagInject s
/-- DIAG_SVN. -/
def execDiagSvn (r : FwReq) (s : State) : Host.Outcome State Fault Refusal := fwRow 0x0E04 r fwDiagSvn s
/-- DIAG_DEBUG. -/
def execDiagDebug (r : FwReq) (s : State) : Host.Outcome State Fault Refusal :=
  .next (if fwUp s && r.seat < 4 then spendNonce r (answer 0x0E05 r (fwDiagDebug r) s) else s)

end Sys2Proof.Machine
end

