-- ==== Sys2Proof/Machine/FwNet.lean ====
section
/-! DEFINITION. The NET commands (R376): they act on the receiving unit. -/

namespace Sys2Proof.Machine

/-- NET.MAC. -/
def fwNetMac (r : FwReq) (s : State) : FwM := do
  r.len 5
  let m := r.f 0 0 2
  inVariant m (nMacs s) 4
  mayOwn s r 11 m
  r.only [(0, mask 17 0), (1, mask 13 0 + mask 29 16), (2, mask 15 0), (4, mask 15 0)]
  need (1518 ≤ r.f 1 0 14 && r.f 1 0 14 ≤ 9600 && 64 ≤ r.f 1 16 14 && r.f 1 16 14 ≤ 9600) (errAt eRange 1)
  let same := getF s (MAC_CTL_MODE m) == r.f 0 3 1 && getF s (MAC_CTL_RATE_SRC m) == r.f 0 4 2
    && getF s (MAC_CTL_FIXED_RATE m) == r.f 0 6 3 && getF s (MAC_CTL_RATE_EN m) == r.f 0 9 4
  need (!flag s (MAC_CTL_EN m) || same) (err eState)
  quotaFor s r 11 m
  let s1 := putFs [(MAC_CTL_EN m, r.f 0 2 1), (MAC_CTL_MODE m, r.f 0 3 1), (MAC_CTL_RATE_SRC m, r.f 0 4 2),
    (MAC_CTL_FIXED_RATE m, r.f 0 6 3), (MAC_CTL_RATE_EN m, r.f 0 9 4), (MAC_CTL_BC_EN m, r.f 0 13 1),
    (MAC_CTL_MC_PASS m, r.f 0 14 1), (MAC_CTL_STRIP_EN m, r.f 0 15 1), (MAC_PAUSE_PAUSE_EN m, r.f 0 16 1),
    (MAC_CTL_LINK_FORCE m, r.f 0 17 1), (MAC_MAXLEN_RX_MAX m, r.f 1 0 14), (MAC_MAXLEN_TX_CTRL_MAX m, r.f 1 16 14),
    (MAC_PAUSE_WD_US m, r.f 2 0 16), (MAC_AF_LO_ADDR_LO m 0, r.w 3), (MAC_AF_HI_ADDR_HI m 0, r.f 4 0 16), (MAC_AF_HI_VALID m 0, 1)]
    (acquire r 11 m s)
  return (judgeLink m s1, [])

/-- NET.IP: the transmit source address and TTL, and the tag of the control-plane rings. (DESIGN CHOICE log 64) -/
def fwNetIp (r : FwReq) (s : State) : FwM := do
  r.len 5
  let m := r.f 0 0 2
  inVariant m (nMacs s) 4
  mayOwn s r 11 m
  r.only [(0, 3), (4, mask 8 0 + mask 31 16)]
  quotaFor s r 11 m
  let s1 := putFs [(STR_IP_SRC_IP m, r.w 1), (STR_IPCFG_TTL m, r.f 4 0 8), (MAC_TX_TAG_TCI m 0, r.f 4 16 16),
    (MAC_TX_TAG_TAG_INS m 0, r.f 4 8 1), (MAC_TX_TAG_TCI m 1, r.f 4 16 16), (MAC_TX_TAG_TAG_INS m 1, r.f 4 8 1)] (acquire r 11 m s)
  return ({ s1 with fw := { s1.fw with ip := s1.fw.ip.put m [r.w 1, r.w 2, r.w 3] } }, [])

/-- NET.PHY. -/
def fwNetPhy (r : FwReq) (s : State) : FwM := do
  r.len 3
  let m := r.f 0 0 2
  inVariant m (nMacs s) 4
  mayOwn s r 11 m
  r.only [(0, 3), (2, mask 19 0)]
  quotaFor s r 11 m
  return (putFs [(MAC_PHY_PHYAD m, r.f 1 0 5), (MAC_PHY_CL45 m, r.f 1 5 1), (MAC_PHY_DEVAD m, r.f 1 6 5),
    (MAC_PHY_INTERVAL m, r.f 1 11 5), (MAC_PHY_REG m, r.f 1 16 16), (MAC_PHY_MAP_LINK_BIT m, r.f 2 0 4),
    (MAC_PHY_MAP_SPD_SHIFT m, r.f 2 4 4), (MAC_PHY_MAP_CODE0 m, r.f 2 8 3), (MAC_PHY_MAP_CODE1 m, r.f 2 11 3),
    (MAC_PHY_MAP_CODE2 m, r.f 2 14 3), (MAC_PHY_MAP_CODE3 m, r.f 2 17 3)] (acquire r 11 m s), [])

/-- NET.MDIO: one transaction; what a PHY answers is a free value. (DESIGN CHOICE log 63) -/
def fwNetMdio (r : FwReq) (s : State) : FwM := do
  r.len 2
  let b := r.f 0 0 1
  need (b < nMdio s) (err eAbsent)
  need (owns s r.seat 11 (2 * b) || owns s r.seat 11 (2 * b + 1)) (err eOwned)
  r.only [(0, mask 13 0), (1, mask 15 0)]
  let op : MdioOp := ⟨255, r.f 0 1 5, r.f 0 6 5, r.f 0 11 1, r.f 0 12 2, r.f 1 0 16⟩
  let s1 := mdioStart b op (putFs [(MDIO_CMD_PHYAD b, op.phy), (MDIO_CMD_DEVAD b, op.dev), (MDIO_CMD_CL45 b, op.cl45),
    (MDIO_CMD_OP b, op.op), (MDIO_DATA_DATA b, op.data)] s)
  if op.op < 2 then return (s1, [op.data])
  let f := takeFree s1
  let v := (Config.freeWord f.1).toNat % 65536
  return (putF (MDIO_DATA_DATA b) v f.2, [v])

/-- NET.STATS. -/
def fwNetStats (r : FwReq) (s : State) : FwM := do
  r.len 1
  let m := r.f 0 0 2
  let snap := r.f 0 8 1 == 1
  inVariant m (nMacs s) 4
  need (!snap || owns s r.seat 11 m) (err eOwned)
  r.only [(0, mask 1 0 + 256)]
  let s1 := if snap then snapCounters m s else s
  return (s1, regWordRaw s (MAC_LINK_LINK_UP m).addr ::
    (List.range 48).map (fun i => if snap then getF s1 (MAC_SNAP_COUNT m i) else getF s (MAC_CNT_COUNT m i)))

/-- NET_MAC. -/
def execNetMac (r : FwReq) (s : State) : Host.Outcome State Fault Refusal := fwRow 0x0700 r fwNetMac s
/-- NET_IP. -/
def execNetIp (r : FwReq) (s : State) : Host.Outcome State Fault Refusal := fwRow 0x0701 r fwNetIp s
/-- NET_PHY. -/
def execNetPhy (r : FwReq) (s : State) : Host.Outcome State Fault Refusal := fwRow 0x0702 r fwNetPhy s
/-- NET_MDIO. -/
def execNetMdio (r : FwReq) (s : State) : Host.Outcome State Fault Refusal := fwRow 0x0703 r fwNetMdio s
/-- NET_STATS. -/
def execNetStats (r : FwReq) (s : State) : Host.Outcome State Fault Refusal := fwRow 0x0704 r fwNetStats s

end Sys2Proof.Machine
end

