-- ==== Sys2Proof/Machine/Replay.lean ====
section
/-! DEFINITION. What a unit of a pair does with what comes over the link: the control channel, the events of records, the
ingress store, the two frames and the states of the pair (R303 to R314, R134). -/

namespace Sys2Proof.Machine

/-! ## STAGE events (R302, R306, R307) -/

/-- A change of a double-buffered register or entry that waits for its ARM event. -/
def waitFor (cs : List BufChange) (s : State) : State := { s with pair := { s.pair with waiting := s.pair.waiting ++ cs } }

/-- Whether a STAGE write waits for the ARM of its batch: lend masks and the port and amplifier settings, but not index and
data registers, a commit of transmit buffers, and the amplifier registers that take effect at once. -/
def batchReg (a v : Nat) : Bool :=
  let o := a % 65536
  (0x20040200 ≤ a && a < 0x20040600) || a / 65536 == 0x2007
    || (a / 65536 == 0x2008 && o != 0x10 && o != 0x14 && !(0x100 ≤ o && o % 16 == 12 && bitOf v 3))
    || (a / 65536 == 0x200D && !([0x08, 0x10, 0x18, 0x1C, 0x20] : List Nat).contains o)

/-- The fields of a register that a written word would change. (DESIGN CHOICE log 103) -/
def wordChanges (s : State) (a v : Nat) : List BufChange :=
  ((fieldsAt a).filter (fun f => (f.typ == .rw || f.typ == .rwp) && bits v f.lo f.width != getF s f)).map
    (fun f => .fld f.key (bits v f.lo f.width))

/-- Words written to registers at rising addresses. -/
def writeWords (a : Nat) : List Nat → State → State
  | [], s => s
  | v :: vs, s => writeWords (a + 4) vs (regWrite a v s).2

/-- A STAGE event: its words written to the shadow or double-buffered location at its address. (DESIGN CHOICE log 103) -/
def applyStage (ws : List Nat) (s : State) : State :=
  match ws with
  | [] => s
  | [_] => s
  | a :: v :: vs =>
    if 0x40000000 ≤ a then fwAshWrites ((a - 0x40000000) / 4) (v :: vs) s
    else if a = 0x200A0010 ∧ vs.length = 1 then
      let sel := v / 65536
      let i := v % 65536
      let x := vs.headD 0
      if sel = 4 ∨ sel = 7 then waitFor [.chan (sel == 7) 0 i x] s else waitFor [.strEn (sel == 5) i (bitOf x 0)] s
    else if batchReg a v then
      waitFor (wordChanges s a v) (if isOen a then { s with oenDark := s.oenDark.filter (· != a) } else s)
    else writeWords a (v :: vs) s

/-! ## ARM, CANCEL and the other events -/

/-- An entry put into the standby's own scheduler; a set's members are those tagged with it. (DESIGN CHOICE log 103) -/
def putArmed (e kind ci : Nat) (late : Bool) (s : State) : State :=
  let x : Sched := ⟨kind, 0, ci, false, [], [], [], late⟩
  let put := fun (x : Sched) (s : State) => { s with fab := { s.fab with sched := s.fab.sched.put e x } }
  match kind with
  | 1 => put { x with
      route := flag s RTE_SL_ROUTE_ARMED && getF s RTE_SL_ROUTE_TAG == e
      pages := (s.rte.tags.filter (fun p => p.2 == e + 64)).map Prod.fst
      insts := (s.dyn.tags.filter (fun p => p.2 == e + 64)).map Prod.fst } s
  | 5 =>
    let old := match s.fab.sched.find e with | some y => if y.kind = 5 then y.changes else [] | none => []
    put { x with changes := old ++ s.pair.waiting } { s with pair := { s.pair with waiting := [] } }
  | 2 => if s.fab.staged.isSome then put x s else s
  | 3 => match s.fab.staged with
    | some img => armSplice e img (put x s)
    | none => s
  | 7 => s
  | _ => put x s

/-- An ARM event (R302, R306). Late, it does not fire and is reported (R32); a cold standby carries it out at the first
boundary after its arrival (R308). (DESIGN CHOICE log 103) -/
def applyArm (e kind ci : Nat) (s : State) : State :=
  if s.fab.ci < ci then putArmed e kind ci false s
  else if getF s PAIR_STAT_STATE = 7 then putArmed e kind ci true s
  else raiseTo 0 ⟨0x0005, [e, lo32 ci], s.fab.ci⟩ (putF FAB_TL_STATUS_LATE_ARM 1 s)

/-- STAGE, ARM and CANCEL. (DESIGN CHOICE log 119) -/
def applyQueued (e : PairEv) (s : State) : State :=
  match e.typ with
  | 1 => applyStage e.words s
  | 2 => applyArm (e.arg % 64) (e.words.getD 0 0) (e.words.getD 1 0 + 4294967296 * e.words.getD 2 0) s
  | 3 => match s.fab.sched.find e.arg with
    | some x => cancelEntry e.arg eOk x s
    | none => s
  | _ => s

/-- TRIP, MODULE, SIL and MUTE, at the boundary of their course. -/
def applyNow (e : PairEv) (s : State) : State :=
  let w := e.words.getD 0 0
  match e.typ with
  | 5 => updCh (e.arg % 32) (fun t => { t with fresh := true, trip := t.trip || bitOf w 0, oc := t.oc || bitOf w 1 }) s
  | 6 => setMod (e.arg % 8) (w % 8) s
  | 7 => { s with amp := { s.amp with sil := w } }
  | 8 => { s with pair := { s.pair with muteIn := s.pair.muteIn || bitOf w 0 } }
  | _ => s

/-- Own firings of the boundary compared with the FIRED events of the course (R306). -/
def compareFired (s : State) : State :=
  match s.pair.cur with
  | none => s
  | some r =>
    let f := (r.events.filter (fun e => e.typ == 4)).map (fun e => e.arg)
    if f.all (s.pair.fired.contains ·) && s.pair.fired.all (f.contains ·) then s else standbyFault 0x12 s

/-! ## The ingress store (R306, R309) -/

/-- The own inputs of the local course that begins, kept for 5 courses in the replay frame. -/
def captureIngress (s : State) : State :=
  if s.pins.pairEn && s.pair.replay then
    let r := (ingressLines s).foldl (fun (a : AMap (List Nat) × State) l =>
      if producer s.fab.cal l = 0x20 then (a.1.put l (strLine a.2 l), a.2)
      else
        let p := portLineWords l a.2
        (a.1.put l p.1, p.2)) (([] : AMap (List Nat)), s)
    { r.2 with pair := { r.2.pair with store := (r.1 :: r.2.pair.store).take 5 } }
  else { s with pair := { s.pair with store := [] } }

/-- The ingress lines of the course that is computed: those of its record, or the own ones of P courses ago. -/
def setLines (s : State) : State :=
  let own := s.pair.store.getD s.pair.lag []
  let l := match s.pair.cur with
    | some r => if r.reduced then own else
        ((List.range (ingressLines s).length).zip (ingressLines s)).foldl (fun (m : AMap (List Nat)) p =>
          m.put p.2 ((r.ingress.drop (8 * p.1)).take 8)) []
    | none => own
  { s with pair := { s.pair with lines := l } }

/-! ## The record of the course that begins -/

/-- Whether the unit replays its partner's records (R306). -/
def replaysRecords (s : State) : Bool :=
  s.pair.replay && !flag s PAIR_STAT_CLAIM && [4, 5, 6].contains (getF s PAIR_STAT_STATE)

/-- The lag that a change of P brings into force: the own setting, or on a standby that of the last record (R42).
(DESIGN CHOICE log 118) -/
def lagNext (s : State) : Nat :=
  match s.pair.last with
  | some r => if isStandby s && flag s PAIR_STAT_HEARTBEAT && 2 ≤ r.lag && r.lag ≤ 4 then r.lag else getF s PAIR_CFG_LAG
  | none => getF s PAIR_CFG_LAG

/-- The record of the course that begins taken up, with the events that belong to its boundary and to boundaries that a new
lag passes over; one that is not there is missing (R303), but a course that a new lag repeats keeps its record (R42). A
standby that is not hot takes the place of its digest walk from the record. (DESIGN CHOICE log 119) -/
def takeRecord (s : State) : State :=
  let s0 := { s with pair := { s.pair with cur := none, fired := [], muteIn := false, missNoted := false } }
  let due := fun (s : State) => (s.pair.recs.filter (fun p => p.1 ≤ s.fab.ci)).foldl
    (fun s p => p.2.events.foldl (fun s e => applyNow e s) s) s
  let keep := fun (s : State) => { s with pair := { s.pair with
    recs := s.pair.recs.filter (fun p => s.fab.ci < p.1), rsLines := s.pair.rsLines.filter (fun x => s.fab.ci ≤ x.ci) } }
  let again := match s.pair.cur with
    | some r => if r.ci = s.fab.ci then some { r with events := [] } else none
    | none => none
  if replaysRecords s then
    match (s.pair.recs.find s.fab.ci).or again with
    | some r => keep (due { s0 with pair := (if getF s0 PAIR_STAT_STATE = 4 then { s0.pair with cur := some r }
          else { s0.pair with cur := some r, walk0 := r.walk, walk := r.walk }) })
    | none =>
      if s.pair.missNoted then s0
      else let s1 := recordMiss s0; { s1 with pair := { s1.pair with missNoted := false } }
  else if getF s PAIR_STAT_STATE = 7 then keep (due s0)
  else s0

/-- What the records stage and arm (R306, R308). (DESIGN CHOICE log 119) -/
def takeQueued (old : AMap PairRec) (s : State) : State :=
  if s.pair.cur.isSome || getF s PAIR_STAT_STATE == 7 then
    (old.filter (fun p => p.1 ≤ s.fab.ci)).foldl (fun s p => p.2.events.foldl (fun s e => applyQueued e s) s) s
  else s

/-! ## The frame that a start takes (R305, R312) -/

/-- The state in which a unit that finds the claim taken joins the pair (R312). (DESIGN CHOICE log 116) -/
def joinState (s : State) : Nat :=
  if !flag s PAIR_LINK_STAT_UP then 8
  else if flag s PAIR_LINK_STAT_BELOW_BUDGET || getF s PAIR_STAT_PARTNER_STATE == 3 || !hasMaps s then 7
  else 5

/-- The pair at the first course of the fabric, before its CI is set: who claims, which state a standby begins in, and the
frame. (DESIGN CHOICE log 105) -/
def startFrame (s : State) : State :=
  let stand := fun (st : Nat) (replay : Bool) (s : State) =>
    setPairState st { s with pair := { s.pair with replay := replay, rsReq := st == 5, rsCode := 0 } }
  let direct := fun (s : State) => { s with pair := { s.pair with replay := false } }
  if !s.pins.pairEn then
    if s.pair.rejoin then
      setPairState 0 (putF PAIR_STAT_CLAIM 1 { s with pair := { s.pair with rejoin := false, drivers := true, replay := false } })
    else direct s
  else match getF s PAIR_STAT_STATE with
    | 1 =>
      if !soundUnit s then direct s
      else if !s.pins.claimIn then takeClaim (direct s)
      else stand (joinState s) (joinState s == 5) s
    | 2 => direct s
    | 3 => setPairState 2 (direct s)
    | 4 => stand 5 true s
    | 5 => stand 5 true s
    | 6 => stand 5 true s
    | 7 => direct s
    | _ => s

/-- The firmware reloads the fabric in the frame of a state (R312). (DESIGN CHOICE log 105) -/
def reload (st : Nat) (s : State) : State := startFabric (recommitHeld (stopFabric (setPairState st s)))

/-- A unit that was released joins again by itself (R312). (DESIGN CHOICE log 105) -/
def autoRejoin (s : State) : State :=
  if s.pins.pairEn && getF s PAIR_STAT_STATE == 9 && flag s PAIR_CFG_AUTO_REJOIN && fwUp s && !s.pwr.rest then
    fwRecover (fabReset false (setPairState 1 s))
  else s

/-- The changes of state that a boundary finds (R312). (DESIGN CHOICE log 84) -/
def pairStates (s : State) : State :=
  if !s.pins.pairEn then s
  else
    let fits := !flag s PAIR_LINK_STAT_BELOW_BUDGET && hasMaps s
    match getF s PAIR_STAT_STATE with
    | 1 =>
      if !soundUnit s then s
      else if !s.pins.claimIn then takeClaim s
      else if joinState s = 5 then reload 5 s
      else setPairState (joinState s) s
    | 7 => if !s.pins.claimIn && eligible s then takeClaim s
      else if flag s PAIR_LINK_STAT_UP && fits && getF s PAIR_STAT_PARTNER_STATE == 2 then reload 5 s else s
    | 8 => if !s.pins.claimIn && eligible s then takeClaim s
      else if flag s PAIR_STAT_HEARTBEAT then
        if fits then
          if s.pair.replay then setPairState 5 { s with pair := { s.pair with rsReq := true } } else reload 5 s
        else if s.pair.replay then reload 7 s else setPairState 7 s
      else s
    | 9 => autoRejoin s
    | st => if [4, 5, 6].contains st then
        if !s.pins.claimIn && eligible s then takeClaim s
        else if fits || (!flag s PAIR_LINK_STAT_UP && hasMaps s) then s else reload 7 s
      else s

/-- The heartbeat of a link that has been down for 2 courses (R303). -/
def linkBoundary (s : State) : State :=
  if !s.pins.pairEn then s
  else if flag s PAIR_LINK_STAT_UP then { s with pair := { s.pair with down := 0 } }
  else
    let s1 := { s with pair := { s.pair with down := s.pair.down + 1 } }
    if 2 ≤ s1.pair.down then loseHeartbeat s1 else s1

/-! ## The control channel -/

/-- A piece of the partner's image staged on a standby (R134, R307): judged as on the claimant. (DESIGN CHOICE log 84) -/
def relayedPiece (ws : List Nat) (s : State) : State :=
  let len := ws.getD 0 0
  let id := ws.getD 1 0
  let off := ws.getD 2 0
  let bs := (wordsToBytes (ws.drop 4)).take (ws.getD 3 0)
  let fresh : Session := { seat := 4, len := len, id := id, bytes := [], pieces := [], busy := none, sections := 0, complete := false }
  let x := if off = 0 then some fresh else s.fab.session
  match x with
  | none => s
  | some x =>
    if x.seat ≠ 4 ∨ commitArmed s then s
    else match judgePiece x off bs s with
      | .ok t => match t.fab.staged with
        | some img => emit .linkFrame ([2, img.id] ++ bytesToWords img.sha) t
        | none => t
      | .error _ => { s with fab := { s.fab with session := none, staged := none, shadow := s.fab.cal } }

/-- What was last sent over the link, sent again. (DESIGN CHOICE log 83) -/
def resend (s : State) : State :=
  match s.out.find? (fun o => (o.kind == .linkFrame && o.data != [0]) || o.kind == .record) with
  | some o => bump PAIR_CNT2_RESENDS 1 (emit o.kind o.data s)
  | none => s

/-- A link frame taken by kind: 0 resend, 1 a restated line, 2 the partner's staged image, 3 the verdict of a restate, 4 a
piece of an image. -/
def takeFrame (kind : Nat) (ws : List Nat) (s : State) : State :=
  let st := getF s PAIR_STAT_STATE
  match kind with
  | 0 => resend s
  | 1 =>
    if st = 5 ∨ st = 6 then
      let x : RsLine := ⟨ws.getD 0 0 + 4294967296 * ws.getD 1 0, ws.getD 2 0, ws.getD 3 0, (ws.drop 4).take 8⟩
      setPairState 6 (putF PAIR_RESTATE_RUNNING 1
        { s with pair := { s.pair with rsReq := false, rsCode := 1, rsLines := s.pair.rsLines ++ [x] } })
    else s
  | 2 => { s with pair := { s.pair with partnerImg := some (ws.getD 0 0, wordsToBytes (ws.drop 1)) } }
  | 3 =>
    if st = 6 then
      let ok := ws.getD 0 0 == 1
      setPairState (if ok then 4 else 5) (putF PAIR_RESTATE_RUNNING 0 (setIf PAIR_RESTATE_FAILED (!ok)
        { s with pair := { s.pair with rsReq := false, rsCode := if ok then 2 else 3, rsLines := [] } }))
    else s
  | 4 => if flag s PAIR_STAT_CLAIM then s else relayedPiece ws s
  | _ => s

/-- LINK_FRAME_RX (R303): a frame whose CRC fails is requested again. -/
def execLinkFrameRx (crcOk : Bool) (kind : Nat) (words : List Nat) (s : State) : Host.Outcome State Fault Refusal :=
  if !s.pins.pairEn || !flag s PAIR_LINK_STAT_UP then .next s
  else if !crcOk then .next (emit .linkFrame [0] s)
  else .next (takeFrame kind (words.map lo32) s)

end Sys2Proof.Machine
end

