-- ==== Sys2Proof/Machine/FwPair.lean ====
section
/-! DEFINITION. The PAIR commands (R381). -/

namespace Sys2Proof.Machine

/-- PAIR.CONFIG (R315): the pair register as the firmware writes it, and the lanes and rates offered. -/
def fwPairConfig (r : FwReq) (s : State) : FwM := do
  r.len 3
  mayOwn s r 19 0
  r.only [(0, mask 4 0 + mask 11 8 + mask 23 16), (2, mask 7 0)]
  need (r.f 0 8 4 != 0) (errAt eRange 0)
  need (2 ≤ r.f 0 0 3 && r.f 0 0 3 ≤ 4) (errAt eRange 0)
  need (r.w 1 == not32 (r.w 0)) (errAt ePairword 1)
  quotaFor s r 19 0
  return (putFs [(PAIR_LINK_CFG_LANE_EN, r.f 2 0 4), (PAIR_LINK_CFG_RATE_EN, r.f 2 4 4)]
    (pairDone 0x200E0000 (r.w 0) (r.w 1) (acquire r 19 0 s)), [])

/-- PAIR.STATUS. -/
def fwPairStatus (r : FwReq) (s : State) : FwM := do
  r.len 0
  return (s, [0x08, 0x0C, 0x14, 0x18, 0x1C, 0x20, 0x28, 0x2C, 0x30].map (fun o => (regRead (0x200E0000 + o) s).1))

/-- PAIR.REJOIN (R312, R357): a FAB reset and the image recommitted; a single unit claims at its first course.
(DESIGN CHOICE log 105) -/
def fwPairRejoin (r : FwReq) (s : State) : FwM := do
  r.len 0
  mayOwn s r 19 0
  need (getF s PAIR_STAT_STATE == 9) (err eState)
  quotaFor s r 19 0
  let s1 := acquire r 19 0 s
  let s2 := if s1.pins.pairEn then setPairState 1 s1 else { s1 with pair := { s1.pair with rejoin := true } }
  return (fwRecover (fabReset false s2), [])

/-- PAIR.RESTATE (R312, R313): the restate of an UNFIT partner, also one that was suspended. (DESIGN CHOICE log 110) -/
def fwPairRestate (r : FwReq) (s : State) : FwM := do
  r.len 0
  mayOwn s r 19 0
  need (flag s PAIR_STAT_CLAIM && s.pins.pairEn) (err eState)
  need (getF s PAIR_STAT_PARTNER_STATE == 5) (err eState)
  quotaFor s r 19 0
  need (s.pair.restate == 0) (err eBusy)
  let s1 := acquire r 19 0 s
  return (startRestate { s1 with pair := { s1.pair with suspended := false } }, [])

/-- PAIR.REFRAME (R310). -/
def fwPairReframe (r : FwReq) (s : State) : FwM := do
  r.len 2
  mayOwn s r 19 0
  need (r.ci 0 != 0 || r.asap) (errAt eRange 0)
  need (flag s PAIR_STAT_CLAIM && getF s PAIR_STAT_STATE == 3) (err eState)
  quotaFor s r 19 0
  let a ← arm s r ⟨7, r.seat, r.ci 0, false, [], [], [], false⟩
  return (acquire r 19 0 a.2.2, schedReply a.1 a.2.1)

/-- PAIR.RETRAIN (R297). -/
def fwPairRetrain (r : FwReq) (s : State) : FwM := do
  r.len 0
  mayOwn s r 19 0
  quotaFor s r 19 0
  return (retrain (acquire r 19 0 s), [])

/-- PAIR_CONFIG. -/
def execPairConfig (r : FwReq) (s : State) : Host.Outcome State Fault Refusal := fwRow 0x0C00 r fwPairConfig s
/-- PAIR_STATUS. -/
def execPairStatus (r : FwReq) (s : State) : Host.Outcome State Fault Refusal := fwRow 0x0C01 r fwPairStatus s
/-- PAIR_REJOIN. -/
def execPairRejoin (r : FwReq) (s : State) : Host.Outcome State Fault Refusal := fwRow 0x0C02 r fwPairRejoin s
/-- PAIR_RESTATE. -/
def execPairRestate (r : FwReq) (s : State) : Host.Outcome State Fault Refusal := fwRow 0x0C03 r fwPairRestate s
/-- PAIR_REFRAME. -/
def execPairReframe (r : FwReq) (s : State) : Host.Outcome State Fault Refusal := fwRow 0x0C04 r fwPairReframe s
/-- PAIR_RETRAIN. -/
def execPairRetrain (r : FwReq) (s : State) : Host.Outcome State Fault Refusal := fwRow 0x0C05 r fwPairRetrain s

end Sys2Proof.Machine
end

