-- ==== Sys2Proof/Machine/FwSeat.lean ====
section
/-! DEFINITION. The SEAT commands (R370, R348 to R354). -/

namespace Sys2Proof.Machine

/-- An object that exists in the variant (R366, R368). -/
def objIndex (s : State) (kind idx : Nat) : Except FwErr Unit :=
  match kind with
  | 1 => inVariant idx 1 1
  | 2 => inVariant idx 256 256
  | 3 => inVariant idx 4096 4096
  | 4 => inVariant idx (maxDyn s) 1024
  | 5 => inVariant idx (nLanes s) 48
  | 6 => inVariant idx (nGroups s) 6
  | 7 => inVariant idx (nAes s) 8
  | 8 => inVariant idx (nAsrc s) 64
  | 9 => inVariant idx (nRxs s) 1024
  | 10 => inVariant idx (nTxs s) 512
  | 11 => inVariant idx (nMacs s) 4
  | 12 => inVariant idx 1 1
  | 13 => inVariant idx 8 8
  | 14 => inVariant idx 8 8
  | 15 => inVariant idx 1 1
  | 16 => inVariant idx (if hasAmp s then 32 else 0) 32
  | 17 => inVariant idx (if hasAmp s then 8 else 0) 8
  | 18 => inVariant idx (if hasAmp s then 1 else 0) 1
  | 19 => inVariant idx 1 1
  | 20 => inVariant idx 1 1
  | _ => .error (err eRange)

/-- A free value made a new token: the first value from it on that is neither 0 nor held (R348, R350). -/
def unheld (held : List Nat) (v : Nat) : Nat :=
  let next := (List.range 18).map (fun i => (v + i) % 18446744073709551616)
  (next.find? (fun t => t != 0 && !held.contains t)).getD v

/-- A token for an attach without one (R350): a fresh one; of 16 held, the oldest with no orphans makes room. -/
def newToken (s : State) : Except FwErr (Nat × State) :=
  let f := takeFree s
  let t := unheld s.fw.tokens (Config.seatToken f.1).toNat
  if s.fw.tokens.length < 16 then .ok (t, { f.2 with fw := { f.2.fw with tokens := f.2.fw.tokens ++ [t] } })
  else match s.fw.tokens.find? (fun k => (orphanKeys s k 0 0xFFFF).isEmpty) with
    | some k => .ok (t, { f.2 with fw := { f.2.fw with tokens := f.2.fw.tokens.erase k ++ [t] } })
    | none => .error (err eNospace)

/-- SEAT.ATTACH (R348, R370): interface version 1 is the one there is. (DESIGN CHOICE log 20) -/
def fwSeatAttach (r : FwReq) (s : State) : FwM := do
  r.len 6
  r.only [(5, mask 15 0)]
  let tok := r.w 2 + 4294967296 * r.w 3
  need (tok == 0 || s.fw.tokens.contains tok) (err eAuth)
  need (100 ≤ r.w 1 && r.w 1 ≤ 60000) (errAt eRange 1)
  need (r.f 0 0 16 ≤ 1 && 1 ≤ r.f 0 16 16) (err eVersion)
  let s1 := if attached s r.seat then endAttach r.seat s else s
  let p ← if tok = 0 then newToken s1 else .ok (tok, s1)
  let s2 := putF (DB_STAT_ATTACHED r.seat) 1 (updSeat r.seat (fun t => { t with
    lease := r.w 1, token := p.1, expect := some ((r.seq + 1) % 256), evAddr := r.w 4, evPort := r.w 5 }) p.2)
  let keys := if tok = 0 then [] else orphanKeys s2 tok 0 0xFFFF
  return (adopt r.seat keys s2, [1, r.w 1, lo32 p.1, hi32 p.1, keys.length + 65536 * r.seat])

/-- SEAT.RENEW (R349). -/
def fwSeatRenew (r : FwReq) (s : State) : FwM := do
  r.len 0
  return (s, [(seatOf s r.seat).lease])

/-- SEAT.DETACH (R370): objects become free or orphans; the token is kept. -/
def fwSeatDetach (r : FwReq) (s : State) : FwM := do
  r.len 1
  r.only [(0, 1)]
  let s1 := if r.f 0 0 1 = 1 then (objectsOf s r.seat).foldl (fun s k => freeObj (k / 65536) (k % 65536) s) s else s
  return (endAttach r.seat s1, [])

/-- SEAT.GIVE (R351). -/
def fwSeatGive (r : FwReq) (s : State) : FwM := do
  r.len 1
  r.only [(0, mask 9 0 + mask 31 16)]
  let kind := r.f 0 0 8
  let dst := r.f 0 8 2
  let idx := r.f 0 16 16
  objIndex s kind idx
  need (owns s r.seat kind idx) (err eOwned)
  need (attached s dst) (err eState)
  need (dst == r.seat || quotaRoom s dst kind 1) (err eNospace)
  return (moveObj 1 dst (objKey kind idx) s, [])

/-- SEAT.TAKE (R354). -/
def fwSeatTake (r : FwReq) (s : State) : FwM := do
  r.len 1
  r.only [(0, mask 7 0 + mask 31 16)]
  let kind := r.f 0 0 8
  let idx := r.f 0 16 16
  objIndex s kind idx
  steward r
  need (owns s r.seat kind idx || quotaRoom s r.seat kind 1) (err eNospace)
  return (moveObj 2 r.seat (objKey kind idx) s, [])

/-- SEAT.ADOPT (R352): the holder of a token, or the steward with token 0. -/
def fwSeatAdopt (r : FwReq) (s : State) : FwM := do
  r.len 3
  r.only [(2, mask 7 0 + mask 31 16)]
  let tok := r.w 0 + 4294967296 * r.w 1
  let kind := r.f 2 0 8
  need (kind ≤ 20) (errAt eRange 2)
  need (if tok = 0 then r.seat == 0 else s.fw.tokens.contains tok) (err eAuth)
  let keys := orphanKeys s tok kind (r.f 2 16 16)
  need ((List.range 21).all (fun k => quotaRoom s r.seat k (keys.filter (fun x => x / 65536 == k)).length
    || (keys.filter (fun x => x / 65536 == k)).isEmpty)) (err eNospace)
  return (adopt r.seat keys s, [keys.length])

/-- SEAT.RELEASE (R370): the object becomes free and runs on. -/
def fwSeatRelease (r : FwReq) (s : State) : FwM := do
  r.len 1
  r.only [(0, mask 7 0 + mask 31 16)]
  let kind := r.f 0 0 8
  let idx := r.f 0 16 16
  objIndex s kind idx
  need (owns s r.seat kind idx) (err eOwned)
  return (objectEvent r.seat kind r.seat 0xF idx 5 (freeObj kind idx s), [])

/-- SEAT.QUOTA (R353). -/
def fwSeatQuota (r : FwReq) (s : State) : FwM := do
  r.len 2
  r.only [(0, mask 1 0 + mask 15 8)]
  steward r
  need (r.f 0 8 8 ≤ 20) (errAt eRange 0)
  let k := r.f 0 0 2 * 256 + r.f 0 8 8
  let q := if r.w 1 = 4294967295 then s.fw.quotas.erase k else s.fw.quotas.put k (r.w 1)
  return ({ s with fw := { s.fw with quotas := q } }, [])

/-- SEAT.BIND checked (R333, R370); the change and its SEAT resets follow the reply (bindAfter). (DESIGN CHOICE log 25) -/
def fwSeatBind (r : FwReq) (s : State) : FwM := do
  r.len 4
  r.only [(0, mask 5 0), (1, mask 15 0)]
  (if r.f 0 2 2 = 3 then inVariant (r.f 0 4 2) (nMacs s) 4 else .ok ())
  steward r
  need (r.f 0 2 2 != 2 || r.f 0 4 2 ≤ 1) (errAt eRange 0)
  return (s, [])

/-- The binding of an accepted SEAT.BIND (R333). (DESIGN CHOICE log 25) -/
def bindAfter (r : FwReq) (s : State) : State :=
  bindSeat (r.f 0 0 2) (r.f 0 2 2) (r.f 0 4 2) (r.w 1) (r.w 2) (r.w 3) s

/-- SEAT.PERM (R356): seat 0 keeps all three. -/
def fwSeatPerm (r : FwReq) (s : State) : FwM := do
  r.len 1
  r.only [(0, mask 4 0)]
  steward r
  let n := r.f 0 0 2
  let v := fun i => if n = 0 then 1 else r.f 0 i 1
  return (putFs [(HOST_PERM_REL_OK n, v 2), (HOST_PERM_MUTE_OK n, v 3), (HOST_PERM_CTL_OK n, v 4)] s, [])

/-- SEAT.SUBSCRIBE (R370). (DESIGN CHOICE log 21) -/
def fwSeatSubscribe (r : FwReq) (s : State) : FwM := do
  r.len 1
  r.only [(0, mask 8 0 + mask 31 16)]
  let o := (r.f 0 0 8, r.f 0 16 16)
  objIndex s o.1 o.2
  let subs := (seatOf s r.seat).subs
  if r.f 0 8 1 = 0 then return (updSeat r.seat (fun t => { t with subs := t.subs.filter (· != o) }) s, [])
  if subs.contains o then return (s, [])
  need (subs.length < 256) (err eNospace)
  return (updSeat r.seat (fun t => { t with subs := t.subs ++ [o] }) s, [])

/-- SEAT.LIST (R370). (DESIGN CHOICE log 29) -/
def fwSeatList (r : FwReq) (s : State) : FwM := do
  r.len 1
  r.only [(0, mask 1 0 + 16 + mask 31 16)]
  let all := s.fw.owners.filter (fun p => p.2.seat == r.f 0 0 2 && (r.f 0 4 1 == 0 || p.2.orphan))
  let start := r.f 0 16 16
  let part := (all.drop start).take 240
  let next := if start + part.length < all.length then start + part.length else 0xFFFF
  return (s, (part.length + 65536 * next) ::
    part.map (fun p => p.1 / 65536 + 256 * p.2.seat + 4096 * b2n p.2.orphan + 65536 * (p.1 % 65536)))

/-- SEAT_ATTACH. -/
def execSeatAttach (r : FwReq) (s : State) : Host.Outcome State Fault Refusal := fwRow 0x0100 r fwSeatAttach s
/-- SEAT_RENEW. -/
def execSeatRenew (r : FwReq) (s : State) : Host.Outcome State Fault Refusal := fwRow 0x0101 r fwSeatRenew s
/-- SEAT_DETACH. -/
def execSeatDetach (r : FwReq) (s : State) : Host.Outcome State Fault Refusal := fwRow 0x0102 r fwSeatDetach s
/-- SEAT_GIVE. -/
def execSeatGive (r : FwReq) (s : State) : Host.Outcome State Fault Refusal := fwRow 0x0103 r fwSeatGive s
/-- SEAT_TAKE. -/
def execSeatTake (r : FwReq) (s : State) : Host.Outcome State Fault Refusal := fwRow 0x0104 r fwSeatTake s
/-- SEAT_ADOPT. -/
def execSeatAdopt (r : FwReq) (s : State) : Host.Outcome State Fault Refusal := fwRow 0x0105 r fwSeatAdopt s
/-- SEAT_RELEASE. -/
def execSeatRelease (r : FwReq) (s : State) : Host.Outcome State Fault Refusal := fwRow 0x0106 r fwSeatRelease s
/-- SEAT_QUOTA. -/
def execSeatQuota (r : FwReq) (s : State) : Host.Outcome State Fault Refusal := fwRow 0x0107 r fwSeatQuota s
/-- SEAT_BIND: the SEAT resets follow the reply (R370). -/
def execSeatBind (r : FwReq) (s : State) : Host.Outcome State Fault Refusal :=
  if fwUp s && r.seat < 4 then
    match fwSeatBind r s with
    | .ok o => .next (bindAfter r (answer 0x0108 r (fun _ => .ok o) s))
    | .error e => .next (answer 0x0108 r (fun _ => .error e) s)
  else .next s
/-- SEAT_PERM. -/
def execSeatPerm (r : FwReq) (s : State) : Host.Outcome State Fault Refusal := fwRow 0x0109 r fwSeatPerm s
/-- SEAT_SUBSCRIBE. -/
def execSeatSubscribe (r : FwReq) (s : State) : Host.Outcome State Fault Refusal := fwRow 0x010A r fwSeatSubscribe s
/-- SEAT_LIST. -/
def execSeatList (r : FwReq) (s : State) : Host.Outcome State Fault Refusal := fwRow 0x010B r fwSeatList s

end Sys2Proof.Machine
end

