-- ==== Sys2Proof/Machine/FwTime.lean ====
section
/-! DEFINITION. The TIME commands (R378). -/

namespace Sys2Proof.Machine

/-- TIME.PTP (R232). -/
def fwTimePtp (r : FwReq) (s : State) : FwM := do
  r.len 4
  inVariant (r.f 0 0 2) (nMacs s) 4
  mayOwn s r 12 0
  r.only [(0, mask 5 0), (1, mask 23 0)]
  quotaFor s r 12 0
  let on := r.f 0 5 1 == 1
  let s1 := acquire r 12 0 s
  let s2 := setPtp { s1.fw.ptp with cfg := r.words, portState := if on then 4 else 3 } s1
  return (if on then s2 else refreshClk (putFs [(CLK_REF0_ANN_ANN_VALID, 0), (CLK_REF0_ANN_SERVO_LOCK, 0)] s2), [])

/-- TIME.STATUS. (DESIGN CHOICE log 73) -/
def fwTimeStatus (r : FwReq) (s : State) : FwM := do
  r.len 0
  let p := s.fw.ptp
  return (s, [p.portState, lo32 p.gmId, hi32 p.gmId, p.gmClass + 256 * p.gmAcc, p.offset, p.pathDelay,
    lo32 s.ptp.sec, hi32 s.ptp.sec, s.ptp.ns])

/-- The rate that judges CPO while the fabric is stopped (R25): of the staged image, else of the last committed, else 44.1
kHz. -/
def nextRate (s : State) : Nat :=
  match s.fab.staged, s.fab.lastImg with
  | some i, _ => baseRate i.family * i.rm
  | none, some i => baseRate i.family * i.rm
  | none, none => 44100

/-- TIME.CPO (R25). -/
def fwTimeCpo (r : FwReq) (s : State) : FwM := do
  r.len 2
  audioSide s
  mayOwn s r 1 0
  mayOwn s r 12 0
  need (r.w 0 < 32768) (errAt eRange 0)
  need (r.w 1 == not32 (r.w 0)) (errAt ePairword 1)
  need (r.w 0 * nextRate s < 1000000000) (errAt eRange 0)
  need (!running s) (err eState)
  quotaFor s r 1 0
  quotaFor s r 12 0
  return (putF FAB_CPO_CPO_NS (r.w 0) (acquire r 12 0 (acquire r 1 0 s)), [])

/-- TIME.REANCHOR (R31). -/
def fwTimeReanchor (r : FwReq) (s : State) : FwM := do
  r.len 2
  audioSide s
  mayOwn s r 1 0
  mayOwn s r 12 0
  need (running s) (err eState)
  quotaFor s r 1 0
  quotaFor s r 12 0
  let a ← arm s r ⟨4, r.seat, r.ci 0, false, [], [], [], false⟩
  return (acquire r 12 0 (acquire r 1 0 a.2.2), schedReply a.1 a.2.1)

/-- TIME.PULSE (R228): the start becomes linear nanoseconds. -/
def fwTimePulse (r : FwReq) (s : State) : FwM := do
  r.len 6
  let o := r.f 0 0 3
  mayOwn s r 13 o
  r.only [(0, mask 5 0), (2, mask 15 0)]
  need (r.w 3 < 1000000000) (errAt eRange 3)
  quotaFor s r 13 o
  let start := ((r.w 1 + 4294967296 * r.w 2) * 1000000000 + r.w 3) % 281474976710656
  let s1 := putFs [(PTPO_START_LO_START o, start), (PTPO_START_HI_START o, start / 4294967296), (PTPO_PERIOD_PERIOD o, r.w 4),
    (PTPO_WIDTH_WIDTH o, r.w 5)] (acquire r 13 o s)
  return (pulseControl o (r.f 0 3 1 == 1) (r.f 0 4 1 == 1) (r.f 0 5 1 == 1) s1, [])

/-- TIME.CAPTURE. -/
def fwTimeCapture (r : FwReq) (s : State) : FwM := do
  r.len 1
  let i := r.f 0 0 3
  mayOwn s r 14 i
  r.only [(0, mask 5 0)]
  quotaFor s r 14 i
  return (putFs [(PTPI_CTL_EN i, r.f 0 3 1), (PTPI_CTL_EDGE i, r.f 0 4 2)] (acquire r 14 i s), [])

/-- The PTP time of a linear stamp near the present, in nanoseconds. -/
def timeOfLin (s : State) (l : Nat) : Nat :=
  (((s.ptp.sec * 1000000000 + s.ptp.ns : Nat) : Int) + linDist l (lin s)).toNat

/-- TIME.CAPREAD: the entries are removed. -/
def fwTimeCapread (r : FwReq) (s : State) : FwM := do
  r.len 1
  let i := r.f 0 0 3
  mayOwn s r 14 i
  r.only [(0, 7)]
  quotaFor s r 14 i
  let q := captures s i
  let rec' := fun (c : Capture) =>
    let t := timeOfLin s c.lin
    [t / 1000000000 % 4294967296, t / 1000000000 / 4294967296 + 65536 * b2n c.rise, t % 1000000000]
  return (putCaptures i [] (acquire r 14 i s), (q.length + 32 * getF s (PTPI_STAT_OVF i)) :: (q.map rec').flatten)

/-- TIME.LATENCY (R226). (DESIGN CHOICE log 126) -/
def fwTimeLatency (r : FwReq) (s : State) : FwM := do
  r.len 3
  let m := r.f 0 0 2
  inVariant m (nMacs s) 4
  mayOwn s r 12 0
  r.only [(0, 3), (1, mask 15 0), (2, mask 15 0)]
  quotaFor s r 12 0
  return (putFs [(PTP_RXLAT_LAT m, r.w 1), (PTP_TXLAT_LAT m, r.w 2)] (acquire r 12 0 s), [])

/-- TIME_PTP. -/
def execTimePtp (r : FwReq) (s : State) : Host.Outcome State Fault Refusal := fwRow 0x0900 r fwTimePtp s
/-- TIME_STATUS. -/
def execTimeStatus (r : FwReq) (s : State) : Host.Outcome State Fault Refusal := fwRow 0x0901 r fwTimeStatus s
/-- TIME_CPO. -/
def execTimeCpo (r : FwReq) (s : State) : Host.Outcome State Fault Refusal := fwRow 0x0902 r fwTimeCpo s
/-- TIME_REANCHOR. -/
def execTimeReanchor (r : FwReq) (s : State) : Host.Outcome State Fault Refusal := fwRow 0x0903 r fwTimeReanchor s
/-- TIME_PULSE. -/
def execTimePulse (r : FwReq) (s : State) : Host.Outcome State Fault Refusal := fwRow 0x0904 r fwTimePulse s
/-- TIME_CAPTURE. -/
def execTimeCapture (r : FwReq) (s : State) : Host.Outcome State Fault Refusal := fwRow 0x0905 r fwTimeCapture s
/-- TIME_CAPREAD. -/
def execTimeCapread (r : FwReq) (s : State) : Host.Outcome State Fault Refusal := fwRow 0x0906 r fwTimeCapread s
/-- TIME_LATENCY. -/
def execTimeLatency (r : FwReq) (s : State) : Host.Outcome State Fault Refusal := fwRow 0x0907 r fwTimeLatency s

end Sys2Proof.Machine
end

