-- ==== Sys2Proof/Machine/Host.lean ====
section
/-! DEFINITION. The host interfaces: the mailbox exchange (R343 to R346), PCIe (R334 to R336), QSPI (R337 to R339), UDP
(R340), the lifeline's writes (R357, R358), and the Voussoir rows. -/

namespace Sys2Proof.Machine

/-! ## The mailbox exchange -/

/-- Commands by opcode. -/
abbrev FwTable := AMap (FwReq → State → FwM)

/-- The SYS commands. -/
def sysRows : FwTable :=
  [(0x0000, fwSysCaps), (0x0001, fwSysReset), (0x0002, fwSysLife), (0x0003, fwSysMute), (0x0004, fwSysCancel),
   (0x0005, fwSysSched)]

/-- The SEAT commands. -/
def seatRows : FwTable :=
  [(0x0100, fwSeatAttach), (0x0101, fwSeatRenew), (0x0102, fwSeatDetach), (0x0103, fwSeatGive),
   (0x0104, fwSeatTake), (0x0105, fwSeatAdopt), (0x0106, fwSeatRelease), (0x0107, fwSeatQuota),
   (0x0108, fwSeatBind), (0x0109, fwSeatPerm), (0x010A, fwSeatSubscribe), (0x010B, fwSeatList)]

/-- The IMG commands. -/
def imgRows : FwTable :=
  [(0x0200, fwImgBegin), (0x0201, fwImgPiece), (0x0202, fwImgData), (0x0203, fwImgCommit),
   (0x0204, fwImgAbort), (0x0205, fwImgStatus), (0x0206, fwImgPath), (0x0207, fwImgLend), (0x0208, fwImgKey)]

/-- The PARAM commands. -/
def paramRows : FwTable :=
  [(0x0300, fwParamWrite), (0x0301, fwParamRead)]

/-- The ROUTE commands. -/
def routeRows : FwTable :=
  [(0x0400, fwRouteStage), (0x0401, fwRouteCommit), (0x0402, fwRouteDest), (0x0403, fwRouteSilence),
   (0x0404, fwRouteRead), (0x0405, fwRouteDstat), (0x0406, fwRouteDiscard)]

/-- The DYN commands. -/
def dynRows : FwTable :=
  [(0x0500, fwDynStage), (0x0501, fwDynRead)]

/-- The PORT commands. -/
def portRows : FwTable :=
  [(0x0600, fwPortGroup), (0x0601, fwPortLane), (0x0602, fwPortAesrx), (0x0603, fwPortAestx),
   (0x0604, fwPortCstat), (0x0605, fwPortAsrc), (0x0606, fwPortOuten), (0x0607, fwPortStatus)]

/-- The NET commands. -/
def netRows : FwTable :=
  [(0x0700, fwNetMac), (0x0701, fwNetIp), (0x0702, fwNetPhy), (0x0703, fwNetMdio), (0x0704, fwNetStats)]

/-- The STREAM commands. -/
def streamRows : FwTable :=
  [(0x0800, fwStreamRx), (0x0801, fwStreamTx), (0x0802, fwStreamMap), (0x0803, fwStreamEnable),
   (0x0804, fwStreamDelete), (0x0805, fwStreamStatus)]

/-- The TIME commands. -/
def timeRows : FwTable :=
  [(0x0900, fwTimePtp), (0x0901, fwTimeStatus), (0x0902, fwTimeCpo), (0x0903, fwTimeReanchor),
   (0x0904, fwTimePulse), (0x0905, fwTimeCapture), (0x0906, fwTimeCapread), (0x0907, fwTimeLatency)]

/-- The CLK commands. -/
def clkRows : FwTable :=
  [(0x0A00, fwClkRef), (0x0A01, fwClkSelect), (0x0A02, fwClkDpll), (0x0A03, fwClkFreq), (0x0A04, fwClkStep),
   (0x0A05, fwClkQuality), (0x0A06, fwClkOutput), (0x0A07, fwClkStatus)]

/-- The AMP commands. -/
def ampRows : FwTable :=
  [(0x0B00, fwAmpChannel), (0x0B01, fwAmpGroup), (0x0B02, fwAmpBus), (0x0B03, fwAmpOuten),
   (0x0B04, fwAmpClear), (0x0B05, fwAmpStatus)]

/-- The PAIR commands. -/
def pairRows : FwTable :=
  [(0x0C00, fwPairConfig), (0x0C01, fwPairStatus), (0x0C02, fwPairRejoin), (0x0C03, fwPairRestate),
   (0x0C04, fwPairReframe), (0x0C05, fwPairRetrain)]

/-- The PWR commands. -/
def pwrRows : FwTable :=
  [(0x0D00, fwPwrState), (0x0D01, fwPwrBanks), (0x0D02, fwPwrScrub), (0x0D03, fwPwrStatus)]

/-- The DIAG commands. -/
def diagRows : FwTable :=
  [(0x0E00, fwDiagRead), (0x0E01, fwDiagCounts), (0x0E02, fwDiagLog), (0x0E03, fwDiagInject),
   (0x0E04, fwDiagSvn), (0x0E05, fwDiagDebug)]

/-- The command reference by opcode (R362 to R382). -/
def fwRows : FwTable :=
  sysRows ++ seatRows ++ imgRows ++ paramRows ++ routeRows ++ dynRows ++ portRows ++ netRows
    ++ streamRows ++ timeRows ++ clkRows ++ ampRows ++ pairRows ++ pwrRows ++ diagRows

/-- A command carried out and answered; a nonce of DIAG.DEBUG is spent with its attempt (R382).
(DESIGN CHOICE log 7, 8, 134) -/
def carryOut (op : Nat) (f : FwReq → State → FwM) (r : FwReq) (s : State) : State :=
  let t := answer op r (f r) s
  if op = 0x0E05 then spendNonce r t else t

/-- The frame in a seat's reply area (R343). -/
def replyFrame (s : State) (n : Nat) : List Nat :=
  let t := seatOf s n
  let len := bits (t.mail.get (0x1408 / 4) 0) 0 16
  getMail t 0x1400 (5 + (len + 3) / 4)

/-- The status of the reply that stands in a seat's reply area. -/
def replyStatus (s : State) (n : Nat) : Nat := bits ((seatOf s n).mail.get (0x1408 / 4) 0) 24 8

/-- Opcodes accepted from a seat that is not attached: SYS.CAPS and SYS.LIFE (R345). (DESIGN CHOICE log 26) -/
def openOp (op : Nat) : Bool := op == 0x0000 || op == 0x0002

/-- The stored reply given again with REPEAT set (R345). (DEDUCED log 27) -/
def repeatReply (n : Nat) (s : State) : State :=
  let ws := (seatOf s n).stored
  let w0 := ws.getD 0 0 ||| 128
  postReply n w0 (bits (ws.getD 2 0) 24 8) ((ws.drop 4).dropLast) s

/-- What execution leaves for the sequence check (R345, R346): the expected value advances unless the reply is E_BUSY, an
attach counts only when it succeeds, and an open command of a detached seat changes nothing.
(DEDUCED log 27, DESIGN CHOICE log 20) -/
def noteExecuted (n op seq crc : Nat) (was : Bool) (s : State) : State :=
  let st := replyStatus s n
  if st = eBusy ∨ (op = 0x0100 ∧ st ≠ eOk) ∨ (openOp op ∧ !was) then s
  else updSeat n (fun t => { t with
    expect := if attached s n then some ((seq + 1) % 256) else none
    lastExec := if attached s n then some (seq, crc) else none
    stored := if attached s n then replyFrame s n else [] }) s

/-- A command frame of a seat checked in the order of R344, and carried out.
(DEDUCED log 27, 28, DESIGN CHOICE log 7, 8, 26) -/
def serveFrame (n : Nat) (ws : List Nat) (s : State) : State :=
  let w := fun i => ws.getD i 0
  let op := bits (w 0) 16 16
  let seq := bits (w 0) 8 8
  let flags := bits (w 0) 0 8
  let len := bits (w 2) 0 16
  let k := (len + 3) / 4
  let crc := w (4 + k)
  let t := seatOf s n
  let refuse := fun (st : Nat) => postReply n (65536 * op + 256 * seq) st (err st).words s
  let att := op == 0x0100
  let open' := openOp op && !attached s n
  if w 1 ≠ not32 (w 0) ∨ w 3 ≠ not32 (w 2) then postReply n 0x40 ePairword (err ePairword).words s
  else if 1000 < len then refuse eRange
  else if crc32c (wordsToBytes (ws.take (4 + k))) ≠ crc then refuse eCrc
  else if bits (w 2) 16 4 ≠ n then refuse eAuth
  else if !att && !open' && t.expect.isSome && t.expect != some seq then
    if t.lastExec = some (seq, crc) then repeatReply n s else refuse eState
  else if !att && !openOp op && !attached s n then refuse eLease
  else if 1 < flags then refuse eRange
  else match fwRows.find op with
    | none => refuse eRange
    | some f =>
      let r : FwReq := ⟨n, seq, flags == 1, (ws.drop 4).take k⟩
      let f := if len % 4 = 0 then f else fun _ _ => .error (err eRange)
      let s1 := noteExecuted n op seq crc (attached s n) (carryOut op f r s)
      if op = 0x0108 ∧ replyStatus s1 n = eOk then bindAfter r s1 else s1

/-- The command frame in a seat's command area. (DESIGN CHOICE log 26) -/
def commandFrame (s : State) (n : Nat) : List Nat := getMail (seatOf s n) 0x1000 256

/-- Posted commands taken from the seats in turn while the firmware is up (R346). (DESIGN CHOICE log 6, 7) -/
def servePosted : Nat → State → State
  | 0, s => s
  | k + 1, s =>
    if !fwUp s then s
    else
      let order := (List.range 4).map (fun i => (s.fw.turn + 1 + i) % 4)
      match order.find? (fun n => flag s (DB_STAT_CMD_BUSY n)) with
      | none => s
      | some n => servePosted k (serveFrame n (commandFrame s n) { s with fw := { s.fw with turn := n } })

/-- What follows any change from outside: requests that may go now do, and posted commands are served.
(DESIGN CHOICE log 6, 7) -/
def settleAll (s : State) : State := servePosted 4 (releaseAll s)

/-! ## Rows of the host interface -/

/-- Whether the seat view of a seat can be reached from outside (R333, R334, R355): the device is out of reset and Rest,
and the seat is bound to a QSPI port or to a PCIe function with the link up. (DESIGN CHOICE log 98) -/
def viewReach (s : State) (n : Nat) : Bool :=
  !s.pwr.rest && s.ctl.boot != .inReset && n < 4
    && (getF s (HOST_BIND_IF n) == 2 || (getF s (HOST_BIND_IF n) == 1 && s.ctl.pcieUp))

/-- MAILBOX_POST (R343): POST = 1, and the firmware, once up, serves the command. -/
def execMailboxPost (seat : Nat) (s : State) : Host.Outcome State Fault Refusal :=
  .next (if viewReach s seat then settleAll (postHw seat s) else s)

/-- EV_TAIL_WRITE (R341, R347). -/
def execEvTailWrite (seat value : Nat) (s : State) : Host.Outcome State Fault Refusal :=
  .next (if viewReach s seat then writeTail seat (value % 65536) s else s)

/-- LIFE_RELEASE_ARM (R357): the first key. -/
def execLifeReleaseArm (seat : Nat) (s : State) : Host.Outcome State Fault Refusal :=
  .next (if viewReach s seat then keyWrite seat relKey1 s else s)

/-- LIFE_RELEASE_KEY (R357): the second key. -/
def execLifeReleaseKey (seat : Nat) (s : State) : Host.Outcome State Fault Refusal :=
  .next (if viewReach s seat then keyWrite seat relKey2 s else s)

/-- LIFE_RELEASE_ARM_EXPIRY (R357): 1 ms without the second key. -/
def execLifeReleaseArmExpiry (seat : Nat) (s : State) : Host.Outcome State Fault Refusal :=
  .next (if seat < 4 then updSeat seat (fun t => { t with relArmed := false }) s else s)

/-- LIFE_MUTE_WRITE (R358): a seat's pair. -/
def execLifeMuteWrite (seat value complement : Nat) (s : State) : Host.Outcome State Fault Refusal :=
  .next (if viewReach s seat then seatMute seat true complement (seatMute seat false (lo32 value) s) else s)

/-- EMUTE_INPUT (R358): the level of EMUTE_n; the hard mute follows at the next boundary. -/
def execEmuteInput (low : Bool) (s : State) : Host.Outcome State Fault Refusal :=
  .next (putB LIFE_STATUS_EMUTE low { s with pins := { s.pins with emuteLow := low } })

/-- UDP_MAILBOX_DATAGRAM (R340): one frame; a source that the binding does not permit is dropped and counted. -/
def execUdpMailboxDatagram (mac srcAddr srcPort dstPort : Nat) (words : List Nat) (s : State) :
    Host.Outcome State Fault Refusal :=
  if !fwUp s || s.pwr.rest then .next s
  else match [0, 1, 2, 3].find? (fun n => getF s (HOST_BIND_IF n) == 3 && getF s (HOST_BIND_INDEX n) == mac
      && (seatOf s n).udpPort == dstPort) with
    | none => .next s
    | some n =>
      let t := seatOf s n
      if (srcAddr &&& t.udpMask) ≠ (t.udpSrc &&& t.udpMask) then
        .next (updSeat n (fun t => { t with udpDropped := t.udpDropped + 1 }) s)
      else .next (serveFrame n (words.map lo32) (updSeat n (fun t => { t with srcAddr := srcAddr, srcPort := srcPort }) s))

/-! ## PCIe -/

/-- SEAT resets of the seats bound to PCIe functions. (DESIGN CHOICE log 109) -/
def resetPcieSeats (fs : List Nat) (s : State) : State :=
  ((List.range 4).filter (fun n => getF s (HOST_BIND_IF n) == 1 && fs.contains (getF s (HOST_BIND_INDEX n)))).foldl
    (fun s n => seatReset n s) s

/-- PCIE_LINK_DOWN (R334, R322). -/
def execPcieLinkDown (s : State) : Host.Outcome State Fault Refusal :=
  .next (resetPcieSeats [0, 1, 2, 3] (masterReset 2 { s with ctl := { s.ctl with pcieUp := false } }))

/-- PCIE_FLR (R334). -/
def execPcieFlr (pf : Nat) (s : State) : Host.Outcome State Fault Refusal :=
  .next (if s.ctl.pcieUp && pf < 4 then resetPcieSeats [pf] (masterReset 2 s) else s)

/-- PCIE_LINK_UP (R334): SEAT_MAP 3 holds the endpoint in reset (R332). (DESIGN CHOICE log 109) -/
def execPcieLinkUp (s : State) : Host.Outcome State Fault Refusal :=
  .next (if s.pins.seatMap = 3 ∨ s.pwr.rest ∨ s.ctl.boot = .inReset then s else { s with ctl := { s.ctl with pcieUp := true } })

/-- Whether an access to a seat's window is within it and its banks are On; else the kind of the log (R336).
(DESIGN CHOICE log 100) -/
def windowOk (s : State) (n off count : Nat) : Nat :=
  let base := 4 * getF s (HOST_WIN_WIN_BASE n)
  if 4 * getF s (HOST_LIM_WIN_WORDS n) < off + count ∨ count = 0 then 2
  else if bankState s (bankOf ((base + off) / 4)) = 0 ∧ bankState s (bankOf ((base + off + count - 1) / 4)) = 0 then 0 else 3

/-- A read of bytes of a seat's window: whether it was answered, the bytes (zeros when refused), the state.
(DESIGN CHOICE log 100) -/
def windowRead (m n off count : Nat) (s : State) : Bool × List Nat × State :=
  let a := 4 * getF s (HOST_WIN_WIN_BASE n) + off
  if windowOk s n off count ≠ 0 then (false, List.replicate count 0, s)
  else
    let r := ashWordsBy m (a / 4) ((a % 4 + count + 3) / 4) s
    if r.2.1 then (true, ((wordsToBytes r.1).drop (a % 4)).take count, r.2.2)
    else (false, List.replicate count 0, vsrLog 3 false m 0 (0x40000000 + a) r.2.2)

/-- A write of bytes into a seat's window; one refused changes nothing and is logged. (DESIGN CHOICE log 100) -/
def windowWrite (m n off : Nat) (bs : List Nat) (s : State) : Bool × State :=
  let a := 0x40000000 + 4 * getF s (HOST_WIN_WIN_BASE n) + off
  let k := windowOk s n off bs.length
  if k ≠ 0 then (false, vsrLog k true m 0 a s) else putAshBytes m a bs s

/-- BAR2_ACCESS (R336): a function's access to its seat's window. (DESIGN CHOICE log 100) -/
def execBar2Access (pf : Nat) (write : Bool) (off count : Nat) (data : List Nat) (s : State) :
    Host.Outcome State Fault Refusal :=
  if !canIssue s 2 || 4 ≤ pf then .next s
  else match boundSeat s 1 pf with
    | none => .next (if write then vsrLog 2 true 2 0 0x40000000 s else emit .response (2 :: 0 :: 2 :: List.replicate count 0) s)
    | some n =>
      if write then .next (windowWrite 2 n off (data.take count) s).2
      else
        let r := windowRead 2 n off count s
        .next (emit .response (2 :: 0 :: (if r.1 then 0 else 2) :: r.2.1) r.2.2)

/-! ## QSPI -/

/-- The port at reset. -/
def Qspi.init : Qspi := ⟨false, false, false, false, false, false⟩

/-- A QSPI target port. -/
def qspiOf (s : State) (p : Nat) : Qspi := s.qspi.get p Qspi.init

/-- A QSPI target port changed. -/
def updQspi (p : Nat) (f : Qspi → Qspi) (s : State) : State :=
  { s with qspi := s.qspi.set p (f (qspiOf s p)) Qspi.init }

/-- A word read by a port (R333, R335, R336): none for an error response. -/
def qspiReadWord (p a : Nat) (s : State) : Option Nat × State :=
  let m := 3 + p
  let seat := boundSeat s 2 p
  if a % 4 ≠ 0 then (none, vsrLog 4 false m 0 a s)
  else if a < 0x10000 then
    match seat with
    | some n => if a < 0x3000 then let r := seatViewRead (some n) n a s; (some r.1, r.2) else (some 0, s)
    | none => if a < 0x100 then let r := lifeRead (some 4) a s; (some r.1, r.2) else (some 0, s)
  else if 0x1000000 ≤ a ∧ a < 0x2000000 then
    match seat with
    | some n => let r := windowRead m n (a - 0x1000000) 4 s; (if r.1 then some (ofBytes r.2.1) else none, r.2.2)
    | none => (none, s)
  else (none, vsrLog 1 false m 0 a s)

/-- A word written by a port: whether it met no error response. -/
def qspiWriteWord (p a v : Nat) (s : State) : Bool × State :=
  let m := 3 + p
  let seat := boundSeat s 2 p
  if a % 4 ≠ 0 then (false, vsrLog 4 true m 0 a s)
  else if a < 0x10000 then
    match seat with
    | some n => (true, if a < 0x3000 then settleAll (seatViewWrite n a v s) else s)
    | none => (true, s)
  else if 0x1000000 ≤ a ∧ a < 0x2000000 then
    match seat with
    | some n => windowWrite m n (a - 0x1000000) (bytesOf v 4) s
    | none => (false, vsrLog 2 true m 0 a s)
  else (false, vsrLog 1 true m 0 a s)

/-- Words read one after another; none once one met an error response. (DESIGN CHOICE log 99) -/
def qspiReads (p a : Nat) : Nat → State → Option (List Nat) × State
  | 0, s => (some [], s)
  | k + 1, s =>
    let r := qspiReadWord p a s
    let t := qspiReads p (a + 4) k r.2
    (match r.1, t.1 with | some v, some vs => some (v :: vs) | _, _ => none, t.2)

/-- Words written one after another. (DESIGN CHOICE log 99) -/
def qspiWrites (p a : Nat) : List Nat → State → Bool × State
  | [], s => (true, s)
  | v :: vs, s =>
    let r := qspiWriteWord p a v s
    let t := qspiWrites p (a + 4) vs r.2
    (r.1 && t.1, t.2)

/-- Whether a port answers at all: it exists, and the device is out of reset and Rest (R355). (DESIGN CHOICE log 99) -/
def qspiOn (s : State) (p : Nat) : Bool := p < 2 && !s.pwr.rest && s.ctl.boot != .inReset && !s.vsr.inReset.contains (3 + p)

/-- QSPI_WRITE (R337, R339): every byte from the opcode to the rise of CS_n. -/
def execQspiWrite (port : Nat) (bytes : List Nat) (s : State) : Host.Outcome State Fault Refusal :=
  let op := bytes.headD 0
  let b := fun i => bytes.getD i 0
  let addr := ofBytes ((bytes.drop 1).take 4)
  let n := b 5 + 256 * b 6
  if !qspiOn s port || !(op == 0x02 || op == 0x32) then .next s
  else if (qspiOf s port).busy then .next (updQspi port (fun q => { q with refused := true }) s)
  else
    let put := fun (q : Qspi) (s : State) => .next (updQspi port (fun _ => q) s)
    if bytes.length < 8 then put ⟨false, false, false, true, false, false⟩ s
    else if b 7 ≠ 255 - op ∨ n = 0 ∨ 256 < n then put ⟨false, false, true, false, false, false⟩ s
    else if bytes.length < 12 + 4 * n then put ⟨false, false, false, true, false, false⟩ s
    else if 12 + 4 * n < bytes.length then put Qspi.init s
    else if crc32c (bytes.take (8 + 4 * n)) ≠ ofBytes (bytes.drop (8 + 4 * n)) then
      put ⟨false, false, true, false, false, false⟩ s
    else
      let r := qspiWrites port addr (bytesToWords ((bytes.drop 8).take (4 * n))) s
      put ⟨true, false, false, false, false, !r.1⟩ r.2

/-- QSPI_READ (R338): the header, and the bytes that the host clocks out from the marker on. -/
def execQspiRead (port : Nat) (header : List Nat) (clocked : Nat) (s : State) : Host.Outcome State Fault Refusal :=
  let op := header.headD 0
  let b := fun i => header.getD i 0
  let n := b 5 + 256 * b 6
  if !qspiOn s port || !(op == 0x0B || op == 0x6B) then .next s
  else if header.length < 8 then .next (updQspi port (fun q => { q with cut := true }) s)
  else
    let out := fun (bad : Bool) (bs : List Nat) (s : State) =>
      emit .response ((3 + port) :: 0 :: 0 :: bs.take clocked)
        (updQspi port (fun q => { q with targetErr := bad, cut := decide (clocked < bs.length) }) s)
    if b 7 ≠ 255 - op ∨ n = 0 ∨ 256 < n then .next (out false [0xE5] s)
    else
      let r := qspiReads port (ofBytes ((header.drop 1).take 4)) n s
      match r.1 with
      | none => .next (out true [0xE5] r.2)
      | some ws =>
        let d := wordsToBytes ws
        .next (out false (0x5A :: d ++ bytesOf (crc32c (header.take 8 ++ d)) 4) r.2)

/-- The status word of a port (R339). (DESIGN CHOICE log 99) -/
def qspiStatus (s : State) (p : Nat) : Nat :=
  let q := qspiOf s p
  let flags := ofBits [q.busy, q.doneOk, q.crcErr, q.cut, q.refused, q.targetErr]
  match boundSeat s 2 p with
  | some n => flags + 64 * b2n (hint s n) + 128 + 256 * n
  | none => flags

/-- QSPI_STATUS (R338): the word and its complement. -/
def execQspiStatus (port : Nat) (s : State) : Host.Outcome State Fault Refusal :=
  if !qspiOn s port then .next s
  else .next (emit .response [3 + port, 0, 0, qspiStatus s port, not32 (qspiStatus s port)] s)

/-! ## Voussoir and Ashlar rows -/

/-- REGISTER_WRITE (R9, R10): the Birrek's write of a register. -/
def execRegisterWrite (addr value : Nat) (s : State) : Host.Outcome State Fault Refusal :=
  .next (settleAll (request ⟨1, 0, true, addr, 4, 1, [lo32 value], false⟩ s))

/-- VOUSSOIR_REQUEST (R316, R319 to R321). -/
def execVoussoirRequest (master id : Nat) (write : Bool) (addr size beats : Nat) (data : List Nat) (fetch : Bool) (s : State) :
    Host.Outcome State Fault Refusal :=
  .next (settleAll (request ⟨master, id, write, addr, size, beats, data.map lo32, fetch⟩ s))

/-- MASTER_RESET_CUT (R322). -/
def execMasterResetCut (master : Nat) (s : State) : Host.Outcome State Fault Refusal := .next (settleAll (cutMaster master s))

/-- ASHLAR_BEAT_ACCEPT (R111, R320). -/
def execAshlarBeatAccept (master id : Nat) (write : Bool) (line strobes : Nat) (data : List Nat) (s : State) :
    Host.Outcome State Fault Refusal :=
  .next (settleAll (acceptBeat master id write line strobes (data.map lo32) s))

/-- ASHLAR_BEAT_SERVE (R110, R114). -/
def execAshlarBeatServe (bank cycle : Nat) (s : State) : Host.Outcome State Fault Refusal := .next (settleAll (serveQueue bank cycle s))

/-- MERGED_WRITE (R112). -/
def execMergedWrite (bank : Nat) (s : State) : Host.Outcome State Fault Refusal := .next (settleAll (mergeDone bank s))

end Sys2Proof.Machine
end

