-- ==== Sys2Proof/Machine/Course.lean ====
section
/-! DEFINITION. Courses: engine accesses at their grants (R122), the start and stop of the fabric (R26, R66), the ordered
actions of a boundary (R36), ramped changes (R31, R133, R310), the gap loader and a family change (R133, R135). -/

namespace Sys2Proof.Machine

/-! ## Engine accesses -/

/-- The key of a line transfer of an engine in the course: its code, 1 for a read, the line. -/
def servedKey (code : Nat) (read : Bool) (line : Nat) : Nat := code * 2048 + 1024 * b2n read + line

/-- A line transfer marked as made when the calendar grants it. (DESIGN CHOICE log 108) -/
def markServed (code : Nat) (read : Bool) (line c : Nat) (s : State) : State :=
  if (if read then rCode s line c else wCode s line c) = code then
    { s with fab := { s.fab with served := servedKey code read line :: s.fab.served } }
  else s

/-- Whether an engine has made a transfer in the course. (DESIGN CHOICE log 108) -/
def wasServed (s : State) (code : Nat) (read : Bool) (line : Nat) : Bool := s.fab.served.contains (servedKey code read line)

/-- The stream engine's access to an Ashlar line of a playout buffer, judged by the guard (R128, R204). -/
def strBank (read : Bool) (w c : Nat) (s : State) : State :=
  if read then (engineRead 0x20 w 255 c s).2
  else match judgeBank s 0x20 w c with
    | .granted => s
    | .notGranted => guardFault 0x10 0x20 c s
    | .notOn => guardFault 0x11 0x20 c s

/-- The words of an input line in the replay frame: those of the record or of the ingress store (R306, R309). -/
def replayLine (s : State) (line : Nat) : List Nat := s.pair.lines.get line []

/-- A slot line transferred by an engine, once a course. -/
def slotGrant (code : Nat) (read : Bool) (line c : Nat) (s : State) : State :=
  if wasServed s code read line then s
  else
    let s1 := markServed code read line c s
    let replay := s1.pins.pairEn && s1.pair.replay
    match code, read with
    | 0x20, true => strReadLine line c s1
    | 0x20, false => if replay then engineSlotWrite 0x20 line 255 (replayLine s1 line) c s1 else strWriteLine line c s1
    | 0x22, false => routeWriteOut line c s1
    | 0x23, false => dynWriteOut line c s1
    | 0x24, true => portReadLine line c s1
    | 0x24, false =>
      if replay then engineSlotWrite 0x24 line 255 (replayLine s1 line) c s1
      else
        let r := portLineWords line s1
        engineSlotWrite 0x24 line 255 r.1 c r.2
    | 0x25, true => if hasAmp s1 then ampReadLine line c s1 else s1
    | _, _ => s1

/-- An access of a scheduled engine other than a tile (R122): a slot line, or with `bank` the line of an Ashlar word. -/
def engineGrant (code : Nat) (read bank : Bool) (line cycle : Nat) (s : State) : State :=
  if !enginesOn s || courseLen s ≤ cycle then s
  else
    let s1 := { s with fab := { s.fab with cycle := cycle } }
    if bank then
      if code = 0x20 then strBank read line cycle s1
      else if code = 0x21 then pairBankGrant (bankOf line) cycle s1
      else s1
    else if 1024 ≤ line then s1
    else if code = 0x21 then (if read then pairPortGrant line cycle s1 else s1)
    else slotGrant code read line cycle s1

/-- ENGINE_GRANT_ACCESS (R122). -/
def execEngineGrantAccess (code : Nat) (read bank : Bool) (line cycle : Nat) (s : State) : Host.Outcome State Fault Refusal :=
  .next (engineGrant code read bank line cycle s)

/-! ## Start and stop -/

/-- FAB_START (R26). -/
def execFabStart (s : State) : Host.Outcome State Fault Refusal :=
  .next (if s.pwr.rest || s.ctl.boot == .inReset then s else fabCtl 1 s)

/-- FAB_STOP (R66). -/
def execFabStop (s : State) : Host.Outcome State Fault Refusal :=
  .next (if s.pwr.rest || s.ctl.boot == .inReset then s else fabCtl 2 s)

/-! ## The end of a course -/

/-- The tiles whose state satisfies a condition. -/
def tilesIn (s : State) (f : Nat → Bool) : List Nat := (allTiles s).filter (fun n => f (getF s (TILE_STAT_STATE n)))

/-- The lines of the running slot map with a producer. -/
def linesOf (s : State) (code : Nat) : List Nat := (s.fab.cal.map.filter (fun p => p.2 % 256 == code)).map Prod.fst

/-- Lines of tiles that do not run read as silence (R68). -/
def silenceTiles (s : State) : State :=
  (tilesIn s (· != 2)).foldl (fun s n =>
    ((linesOf s n).filter (fun l => !s.fab.written.contains l)).foldl (fun s l => zeroLine l s) s) s

/-- A late line of an engine whose output its readers then find silent (R128 codes 0x15 and 0x16). -/
def lateLine (code req : Nat) (s : State) (l : Nat) : State := zeroLine l (guardFault code req (courseLen s - 1) s)

/-- Lines of the route engine and the dynamics units not written by the end of the course (R141). -/
def lateOutputs (s : State) : State :=
  let left := fun (s : State) (code : Nat) => (linesOf s code).filter (fun l => !s.fab.written.contains l)
  let s1 := if s.fab.cal.routeCap = 0 then s else (left s 0x22).foldl (lateLine 0x15 0x22) s
  if s1.fab.cal.dynCap = 0 then s1
  else ((left s1 0x23).filter (fun l => !(dynsOf s1 l).isEmpty)).foldl (lateLine 0x16 0x23) s1

/-- Bound lines of the port, stream and amplifier engines not transferred in their grants (R128 code 0x17): outputs read
zeros. -/
def lateEngines (s : State) : State :=
  let c := courseLen s - 1
  let zeros := List.replicate 8 0
  let miss := fun (s : State) (code : Nat) (read : Bool) (ls : List Nat) => ls.filter (fun l => !wasServed s code read l)
  let p := portLines s
  let t := strLines s
  let s1 := (miss s 0x24 false p.1).foldl (fun s _ => guardFault 0x17 0x24 c s) s
  let s2 := (miss s1 0x24 true p.2).foldl (fun s l =>
    ((outputSinks s).filter (fun x => x.2.1 / 8 == l || x.2.2 / 8 == l)).foldl (fun s x => takeOut l zeros x s)
      (guardFault 0x17 0x24 c s)) s1
  let s3 := (miss s2 0x20 false t.1 ++ miss s2 0x20 true t.2).foldl (fun s _ => guardFault 0x17 0x20 c s) s2
  (miss s3 0x25 true (ampLines s3)).foldl (fun s l =>
    (ampSinks s l).foldl (fun s n => updCh n (fun t => { t with prev := t.cur, cur := 0, idx := 0, clipped := false, env := 0 }) s)
      (guardFault 0x17 0x25 c s)) s3

/-- Banks with a grant that give fewer than 4 mortar cycles in a step (R128 code 0x19). -/
def starved (s : State) : State :=
  ((List.range (nBanks s)).filter (fun b => bankGranted s.fab.cal b
      && ((List.range 64).filter (fun c => bankCode s b c == 0xFF)).length < 4)).foldl
    (fun s _ => guardFault 0x19 0xFF (courseLen s - 1) s) s

/-- What the end of a course settles: tiles, late lines, frames sent and received, packets (R48, R128, R170, R213). -/
def courseEnd (s : State) : State :=
  let s1 := if enginesOn s then
      let s2 := (tilesIn s (2 ≤ ·)).foldl (fun s n => tileCourseEnd n s) s
      starved (lateEngines (silenceTiles (lateOutputs s2)))
    else s
  strEnd (portFrames (aesFrames s1))

/-- Per-course marks cleared. -/
def clearMarks (s : State) : State :=
  { s with
    fab := { s.fab with cycle := 0, written := [], served := [] }
    rte := { s.rte with done := [], acc := [] }
    dyn := { s.dyn with done := [] } }

/-! ## The course index -/

/-- The signed difference of R32 between a target and the CI. -/
def ciDist (s : State) (t : Nat) : Int := toS 32 ((t % 4294967296 + 4294967296 - s.fab.ci % 4294967296) % 4294967296)

/-- The CI whose boundary is nearest to the PTP time (R23, R30). (DESIGN CHOICE log 107) -/
def nearestCi (s : State) : Nat :=
  let u := 1000000000 * 4294967296
  ((ptpUnits s.ptp - getF s FAB_CPO_CPO_NS * 4294967296) * fsOf s + u / 2) / u

/-- The local CI set; in the replay frame of a pair the course computed trails it by the lag. -/
def setLocalCi (n : Nat) (s : State) : State :=
  { s with fab := { s.fab with ci := ciWrap (if s.pins.pairEn && s.pair.replay then n + 18446744073709551616 - s.pair.lag else n) } }

/-- The anchor registers (R26, R31). (DESIGN CHOICE log 107) -/
def setAnchor (n : Nat) (s : State) : State := putFs [(FAB_CI_ANCHOR_LO_ANCHOR, lo32 n), (FAB_CI_ANCHOR_HI_ANCHOR, hi32 n)] s

/-- The timeline offset after the stamp, its flag and its event on a change (R30). (DESIGN CHOICE log 107) -/
def timeline (s : State) : State :=
  let d := ofS 32 ((nearestCi s : Int) - (localCi s : Int))
  let old := getF s FAB_TL_OFFSET_OFFSET
  let s1 := putB FAB_TL_STATUS_TL_OFFSET (d != 0) (putF FAB_TL_OFFSET_OFFSET d s)
  if d = old then s1 else raiseAll 0x0020 [d] s1

/-- Entries whose target a reload of the CI (R29, R31, R310) has skipped over: SCHED_LATE now, SCHED_FIRED at the next boundary.
(DESIGN CHOICE log 106) -/
def skipEntries (old : State) (s : State) : State :=
  s.fab.sched.foldl (fun s p =>
    let e := p.2
    if !e.skipped && decide (0 < ciDist old e.ci) && decide (ciDist s e.ci < 0) then
      raiseTo e.seat ⟨0x0005, [p.1, lo32 e.ci], s.fab.ci⟩
        { s with fab := { s.fab with sched := s.fab.sched.put p.1 { e with skipped := true } } }
    else s) s

/-! ## Ramped changes (R31, R133, R310, R390) -/

/-- The CI by which a ramped change is timed: the local one for a cut-over or reframe of a claimant in the replay frame.
(DESIGN CHOICE log 107) -/
def rampClock (s : State) (kind : Nat) : Nat :=
  if (kind == 2 || kind == 7) && s.pair.replay && flag s PAIR_STAT_CLAIM then localCi s else s.fab.ci

/-- The CI at which the ramp-down of a change begins. -/
def rampStart (s : State) (kind ci : Nat) : Nat := if kind = 2 ∨ kind = 7 then ci - 256 - gapCourses s else ci - 256

/-- A ramp-down begins for an armed entry whose time has come. -/
def beginRamp (s : State) : State :=
  if s.fab.ramp.isSome then s
  else match s.fab.sched.find? (fun p => [2, 4, 7].contains p.2.kind
      && rampStart s p.2.kind p.2.ci ≤ rampClock s p.2.kind && rampClock s p.2.kind < p.2.ci) with
    | some p => setImgState 2 { s with fab := { s.fab with ramp := some ⟨p.2.kind, p.2.ci, p.2.seat⟩ } }
    | none => s

/-- What every output holds in a gap: zeros (R133). -/
def silenceOutputs (s : State) : State :=
  let s1 := (List.range (nLanes s)).foldl (fun s n => updLane n (fun t => { t with out := (0, 0) }) s) s
  let s2 := (List.range (nAes s)).foldl (fun s n => updAes n (fun t => { t with out := (0, 0) }) s) s1
  let s3 := (List.range 32).foldl (fun s n => updCh n (fun t => { t with prev := 0, cur := 0, env := 0 }) s) s2
  { s3 with pair := { s3.pair with hold := [] } }

/-- The gap of a cut-over begins: the tiles stop, those of the incoming image are ARMED, outputs drive zeros.
(DESIGN CHOICE log 41) -/
def beginGap (img : Img) (s : State) : State :=
  setImgState 3 (silenceOutputs (setTiles img 1 (stopTiles { s with fab := { s.fab with gapLoaded := false } })))

/-- The gain of a ramp at its clock, and the begin of a gap; the ramp-up ends after 256 courses. -/
def rampGainStep (s : State) : State :=
  match s.fab.ramp with
  | none => s
  | some r =>
    if r.kind = 9 then
      let n := s.fab.ci - r.ci
      if 256 ≤ n then setImgState 1 { s with fab := { s.fab with ramp := none, gain := 256 } }
      else { s with fab := { s.fab with gain := n + 1 } }
    else
      let n := rampClock s r.kind - rampStart s r.kind r.ci
      let s1 := { s with fab := { s.fab with gain := 256 - min n 256 } }
      match s.fab.staged with
      | some img => if r.kind = 2 ∧ 256 ≤ n ∧ getF s FAB_STAT_IMG_STATE = 2 then beginGap img s1 else s1
      | none => s1

/-- The ramp-up from the present course on. -/
def rampUp (seat : Nat) (s : State) : State :=
  setImgState 4 { s with fab := { s.fab with ramp := some ⟨9, s.fab.ci, seat⟩, gain := 1 } }

/-- The gap records of an image applied by the loader (R133). (DESIGN CHOICE log 41) -/
def applyGap (img : Img) (s : State) : State :=
  let gap := img.inits.filter (fun x => x.kind != 3 || (banksOf x.addr x.count).any (bankGranted s.fab.cal))
  let s1 := gap.foldl (fun s x => applyInit x s) s
  { s1 with fab := { s1.fab with gapLoaded := true } }

/-- GAP_LOAD_COMPLETE (R133, R135). -/
def execGapLoadComplete (s : State) : Host.Outcome State Fault Refusal :=
  let img := if s.fab.familyStopped then s.fab.family else if getF s FAB_STAT_IMG_STATE = 3 then s.fab.staged else none
  match img with
  | some i => .next (if s.fab.gapLoaded then s else applyGap i s)
  | none => .next s

/-- The tiles that wait in ARMED begin (R66). -/
def runTiles (s : State) : State := (tilesIn s (· == 1)).foldl (fun s n => tileRestart n (putF (TILE_STAT_STATE n) 2 s)) s

/-- Every armed entry for which a condition holds cancelled with E_STATE (R35, R135). -/
def cancelWhere (f : Sched → Bool) (s : State) : State :=
  (s.fab.sched.filter (fun p => f p.2)).foldl (fun s p => cancelEntry p.1 eState p.2 s) s

/-- A family change at its boundary (R135 items 1 and 2): the fabric stops, and the synthesis PLL is turned. -/
def stopForFamily (img : Img) (s : State) : State :=
  let s1 := turnFamily img.family (stopFabric (cancelWhere (fun _ => true) s))
  { s1 with fab := { s1.fab with family := some img, familyStopped := true } }

/-- The multiple of an image in force: the CI becomes that of R23 at the new rate (R29). (DESIGN CHOICE log 106) -/
def newRate (rm : Nat) (s : State) : State :=
  let old := rmOf s
  if old = rm then s
  else
    let t : Int := (localCi s : Int) + toS 32 (getF s FAB_TL_OFFSET_OFFSET)
    let n := t.toNat * rm / max old 1
    setAnchor n (setLocalCi n (putF FAB_TL_STATUS_RM rm s))

/-- The direct frame taken up (R310): the course computed is the local one, and outputs carry zeros for the lag. -/
def directFrame (s : State) : State :=
  let n := localCi s
  setPairState 2 { s with
    fab := { s.fab with ci := n }
    pair := { s.pair with replay := false, hold := [] } }

/-- The swap of a ramped cut-over (R133, R29, R39, R42, R66). (DESIGN CHOICE log 106, 118) -/
def cutOver (seat ci : Nat) (img : Img) (s : State) : State :=
  let s1 := if s.fab.gapLoaded then s else applyGap img s
  if img.family ≠ getF s FAB_TL_STATUS_FAMILY then stopForFamily img s1
  else
    let s2 := cancelWhere (fun e => e.kind != 6 && ci < e.ci) s1
    let n := localCi s2
    let s3 := if s2.pair.replay && flag s2 PAIR_STAT_CLAIM then directFrame s2 else s2
    let s4 := if replaysRecords s3 then s3 else setLocalCi n { s3 with pair := { s3.pair with lag := lagNext s3 } }
    let s5 := newRate img.rm (clearPlane (loadSets img (swapImage img s4)))
    rampUp seat (setBudget (runTiles { s5 with fab := { s5.fab with gapLoaded := false } }))

/-- A ramped change at its own boundary: item 3. -/
def swapStep (s : State) : State :=
  match s.fab.ramp with
  | none => s
  | some r =>
    if r.kind = 9 ∨ rampClock s r.kind ≠ r.ci then s
    else
      let done := { s with fab := { s.fab with ramp := none } }
      match r.kind with
      | 2 => match s.fab.staged with
        | some img => skipEntries s (cutOver r.seat r.ci img done)
        | none => setImgState 1 { done with fab := { done.fab with gain := 256 } }
      | 4 =>
        let n := nearestCi s
        let t := clearPlane (setAnchor n (setLocalCi n done))
        rampUp r.seat (skipEntries s t)
      | 7 => rampUp r.seat (skipEntries s (directFrame done))
      | _ => finishSleep s.pwr.entering done

/-! ## Firing -/

/-- Whether an entry fires at this boundary, as it stood before it (R31, R32): its target is the course, or a reload had
skipped it at an earlier one. -/
def dueAt (s : State) (e : Sched) : Bool := e.skipped || decide (ciDist s e.ci = 0)

/-- The entries that fire: those of an accomplished ramped change by their target, the others by the CI. -/
def dueEntries (before : State) (swapped : Option Ramp) (s : State) : List (Nat × Sched) :=
  s.fab.sched.filter (fun p =>
    if [2, 4, 7].contains p.2.kind then
      (match swapped with | some r => r.kind == p.2.kind && r.ci == p.2.ci | none => false)
    else match before.fab.sched.find p.1 with
      | some e => if e.skipped then true else !p.2.skipped && dueAt s p.2
      | none => false)

/-- A splice of the boundary: item 3 (R132). -/
def spliceStep (due : List (Nat × Sched)) (s : State) : State :=
  match s.fab.staged with
  | some img => if due.any (fun p => p.2.kind == 3) then imgEvent 0 (spliceSwap img s) else s
  | none => s

/-- The page bases that each tile latches (R64). (DEDUCED log 44) -/
def latchBases (s : State) : State :=
  let pages := match s.fab.img with | some i => i.pages | none => []
  (allTiles s).foldl (fun s n =>
    (List.range 8).foldl (fun s g =>
      let v := tReg (tileOf s n) (kG g)
      let p := v % 256
      match pages.find? (fun x => x.1 == p) with
      | some (_, a, b) =>
        if bitOf v 8 then putFs [(TILE_PGBASE_BASE n g, if s.fab.pageB.contains p then b else a), (TILE_PGBASE_VALID n g, 1)] s
        else putFs [(TILE_PGBASE_BASE n g, 0), (TILE_PGBASE_VALID n g, 0)] s
      | none => putFs [(TILE_PGBASE_BASE n g, 0), (TILE_PGBASE_VALID n g, 0)] s) s) s

/-- Item 4: recopies that a boundary ends, ramps of crosspoints, the sets that fire, page bases. -/
def setStep (due : List (Nat × Sched)) (s : State) : State :=
  let s1 := s.dyn.recopy.foldl (fun s i => dynResync i s) (stepRamps (resyncBoundary s))
  latchBases ((due.filter (fun p => p.2.kind == 1 || p.2.kind == 3)).foldl (fun s p => swapSet p.1 s) s1)

/-- Item 5: the changes of batches, and what was written in the course that ended. -/
def changeStep (due : List (Nat × Sched)) (s : State) : State :=
  let s1 := (due.filter (fun p => p.2.kind == 5)).foldl (fun s p => p.2.changes.foldl (fun s c => applyChange c s) s) s
  applySilence { s1 with live := s1.regs }

/-- Item 6: the entries that fired are freed and reported; a pair hears of them (R302, R384). -/
def fireStep (due : List (Nat × Sched)) (s : State) : State :=
  due.foldl (fun s p =>
    let s1 := { s with
      fab := { s.fab with sched := s.fab.sched.erase p.1 }
      pair := { s.pair with fired := s.pair.fired ++ [p.1] } }
    noteEv ⟨4, p.1, []⟩ (raiseTo p.2.seat ⟨0x0003, [p.1 + 256 * p.2.kind, hi32 s.fab.ci], s.fab.ci⟩ s1)) s

/-- Whether the hard mute is in force from this boundary (R358). (DESIGN CHOICE log 129) -/
def hardMute (s : State) : Bool :=
  s.pins.emuteLow || (List.range 4).any (fun n => flag s (LIFE_MUTE_MUTE n)) || s.pair.muteIn

/-- The hard mute of the course (R358), recorded for the partner while in force (R302). (DESIGN CHOICE log 129) -/
def muteStep (s : State) : State :=
  let m := hardMute s
  let s1 := putB LIFE_STATUS_MUTED m s
  if m then noteEv ⟨8, 0, [1]⟩ s1 else s1

/-! ## The course that begins -/

/-- What every course begins with once its CI stands: items 4 to 6, and the engines. -/
def beginCourse (old : AMap PairRec) (due : List (Nat × Sched)) (s : State) : State :=
  let s1 := muteStep (takeQueued old (compareFired (fireStep due (changeStep due (setStep due s)))))
  let s2 := (allTiles s1).foldl (fun s n => tileBoundaryStop n s) s1
  let s3 := (tilesIn s2 (· == 2)).foldl (fun s n => tileRestart n s) s2
  let s4 := ampBoundary s3
  let s5 := sampleMutes (ampMutes s4) s4
  let s6 := setLines (captureIngress (strPresent (strSettings (portSettings s5))))
  let s7 := if localCi s6 % max (rmOf s6) 1 = 0 then clkBoundary s6 else s6
  pairStates (startRestate (expireVerify (timeline (takeStamp (localCi s7) (boundaryPwr s7)))))

/-- The first course of a start (R26): anchored, from zeros, with the tiles that wait; after sleep or a family change under a
ramp-up. (DESIGN CHOICE log 13, 116) -/
def firstCourse (a : Nat) (s : State) : State :=
  match s.fab.img with
  | none => s
  | some img =>
    let s1 := setBudget (putFs [(FAB_TL_STATUS_RUNNING, 1), (FAB_TL_STATUS_RM, img.rm), (FAB_TL_STATUS_FAMILY, img.family),
      (LIFE_STATUS_FABRIC_RUN, 1)]
      { s with pair := { s.pair with lag := getF s PAIR_CFG_LAG }, fab := { s.fab with startAt := none } })
    let s2 := startFrame (setLocalCi a s1)
    let s3 := setLocalCi a (clearMarks (clearPlane s2))
    let s4 := runTiles (liveRegions s3)
    let up := s4.pwr.leaving
    let s5 := imgEvent a (putF FAB_STAT_IMG_STATE (if up then 4 else 1)
      { s4 with
        pwr := { s4.pwr with leaving := false }
        fab := { s4.fab with ramp := if up then some ⟨9, s4.fab.ci, 0⟩ else none, gain := if up then 1 else 256 } })
    let old := s5.pair.recs
    let s6 := takeRecord s5
    beginCourse old (dueEntries s6 none s6) s6

/-- A standby in the replay frame takes a new lag at the boundary of the claimant's swap, in its own gap (R42).
(DESIGN CHOICE log 118) -/
def standbyLag (s : State) : State :=
  let n := localCi s
  if replaysRecords s && s.fab.sched.any (fun p => p.2.kind == 2 && p.2.ci == n) then
    skipEntries s (setLocalCi n { s with pair := { s.pair with lag := lagNext s } })
  else s

/-- A boundary of a running fabric (R36). (DESIGN CHOICE log 14) -/
def runBoundary (s : State) : State :=
  let s1 := closeRecord (courseEnd s)
  if s1.fab.stopReq then stopFabric s1
  else
    let s2 := clearMarks (standbyLag { s1 with fab := { s1.fab with ci := ciWrap (s1.fab.ci + 1) } })
    let old := s2.pair.recs
    let s3 := beginRamp (takeRecord (linkBoundary s2))
    let swapped := match s3.fab.ramp with
      | some r => if r.kind ≠ 9 ∧ rampClock s3 r.kind = r.ci then some r else none
      | none => none
    let s4 := if swapped.isSome then swapStep s3 else rampGainStep s3
    if !running s4 then s4
    else
      let due := dueEntries s3 swapped s4
      beginCourse old due (spliceStep due s4)

/-- A boundary that finds the fabric stopped: its start, a setpoint cycle in Quiet, the link, and the states of the pair.
(DESIGN CHOICE log 94) -/
def idleBoundary (s : State) : State :=
  let s1 := linkBoundary (putB LIFE_STATUS_MUTED (hardMute s) s)
  let s2 := if getF s1 PWR_STAT_STATE = 1 && hasAmp s1 && flag s1 AMP_CTL_EN then quietCycle s1 else s1
  match s2.fab.startAt with
  | some a => firstCourse a s2
  | none => boundaryPwr (pairStates s2)

/-- COURSE_BOUNDARY (R36). -/
def courseBoundary (s : State) : State :=
  if s.pwr.rest || s.ctl.boot == .inReset then s
  else watchLife (fun s => if running s then runBoundary s else idleBoundary s) s

/-- COURSE_BOUNDARY. -/
def execCourseBoundary (s : State) : Host.Outcome State Fault Refusal := .next (courseBoundary s)

/-- FAMILY_CHANGE_RESTART (R135 items 3 and 4): the PLL has locked and the gap records are applied; the incoming image becomes
active and the fabric starts afresh, with a ramp-up after a cut-over. -/
def execFamilyChangeRestart (s : State) : Host.Outcome State Fault Refusal :=
  match s.fab.family with
  | some img =>
    if fwUp s && s.fab.familyStopped && s.fab.gapLoaded && flag s CLK_SYN_STAT_LOCK && !running s && s.fab.startAt.isNone
        && !s.pwr.hotStop && getF s PWR_STAT_STATE == 0 then
      let s1 := if getF s FAB_STAT_IMG_STATE = 3 then
          let t := setTiles img 1 (loadSets img (swapImage img s))
          { t with pwr := { t.pwr with leaving := true } }
        else s
      .next (startFabric { s1 with fab := { s1.fab with family := none, familyStopped := false, gapLoaded := false } })
    else .next s
  | none => .next s

end Sys2Proof.Machine
end

