-- ==== Sys2Proof/Machine/Dispatch.lean ====
section
/-! DEFINITION. The dispatch: one arm a constructor of Instr, each one direct call of that command's meaning. -/

namespace Sys2Proof.Machine

/-- What a command does to everything but the queue. -/
def exec (i : Instr) (s : State) : Host.Outcome State Fault Refusal :=
  match i with
  | .powerOnReset => Sys2Proof.Machine.execPowerOnReset s
  | .pinReset => Sys2Proof.Machine.execPinReset s
  | .ctlReset => Sys2Proof.Machine.execCtlReset s
  | .fabReset => Sys2Proof.Machine.execFabReset s
  | .seatReset seat => Sys2Proof.Machine.execSeatReset seat s
  | .ashlarFillDone => Sys2Proof.Machine.execAshlarFillDone s
  | .bootWindowPost ifc => Sys2Proof.Machine.execBootWindowPost ifc s
  | .bootRetry => Sys2Proof.Machine.execBootRetry s
  | .firmwareEntry => Sys2Proof.Machine.execFirmwareEntry s
  | .remapWrite value => Sys2Proof.Machine.execRemapWrite value s
  | .trialConfirm => Sys2Proof.Machine.execTrialConfirm s
  | .watchdogKick complement value => Sys2Proof.Machine.execWatchdogKick complement value s
  | .watchdogExpiry => Sys2Proof.Machine.execWatchdogExpiry s
  | .lockstepMismatch => Sys2Proof.Machine.execLockstepMismatch s
  | .registerWrite addr value => Sys2Proof.Machine.execRegisterWrite addr value s
  | .cpoWrite value complement => Sys2Proof.Machine.execCpoWrite value complement s
  | .ciReadCapture => Sys2Proof.Machine.execCiReadCapture s
  | .lifeCiRead seat => Sys2Proof.Machine.execLifeCiRead seat s
  | .fabStart => Sys2Proof.Machine.execFabStart s
  | .fabStop => Sys2Proof.Machine.execFabStop s
  | .courseBoundary => Sys2Proof.Machine.execCourseBoundary s
  | .familyChangeRestart => Sys2Proof.Machine.execFamilyChangeRestart s
  | .gapLoadComplete => Sys2Proof.Machine.execGapLoadComplete s
  | .tileArm tile => Sys2Proof.Machine.execTileArm tile s
  | .tileStop tile => Sys2Proof.Machine.execTileStop tile s
  | .tileBundleIssue tile => Sys2Proof.Machine.execTileBundleIssue tile s
  | .tileBankAccess tile => Sys2Proof.Machine.execTileBankAccess tile s
  | .ashlarLanding tile => Sys2Proof.Machine.execAshlarLanding tile s
  | .engineGrantAccess code read bank line cycle => Sys2Proof.Machine.execEngineGrantAccess code read bank line cycle s
  | .routeWindow => Sys2Proof.Machine.execRouteWindow s
  | .dynWindow => Sys2Proof.Machine.execDynWindow s
  | .routeResyncDone => Sys2Proof.Machine.execRouteResyncDone s
  | .dynResyncDone instn => Sys2Proof.Machine.execDynResyncDone instn s
  | .silenceCoalesceExpiry dest => Sys2Proof.Machine.execSilenceCoalesceExpiry dest s
  | .rteTableWrite n value => Sys2Proof.Machine.execRteTableWrite n value s
  | .dynTableWrite n value => Sys2Proof.Machine.execDynTableWrite n value s
  | .strTableWrite n value => Sys2Proof.Machine.execStrTableWrite n value s
  | .aesDataAccess write value => Sys2Proof.Machine.execAesDataAccess write value s
  | .logPop which => Sys2Proof.Machine.execLogPop which s
  | .ashlarBeatAccept master id write line strobes data => Sys2Proof.Machine.execAshlarBeatAccept master id write line strobes data s
  | .ashlarBeatServe bank cycle => Sys2Proof.Machine.execAshlarBeatServe bank cycle s
  | .mergedWrite bank => Sys2Proof.Machine.execMergedWrite bank s
  | .scrubLine bank cycle behind => Sys2Proof.Machine.execScrubLine bank cycle behind s
  | .scrubWriteback bank => Sys2Proof.Machine.execScrubWriteback bank s
  | .scrubPeriodStart => Sys2Proof.Machine.execScrubPeriodStart s
  | .bankPowerWrite n value complement => Sys2Proof.Machine.execBankPowerWrite n value complement s
  | .bankTransitionDone bank => Sys2Proof.Machine.execBankTransitionDone bank s
  | .serialFrameIn lane frame cycle ratio => Sys2Proof.Machine.execSerialFrameIn lane frame cycle ratio s
  | .serialFrameOut lane cycle ratio => Sys2Proof.Machine.execSerialFrameOut lane cycle ratio s
  | .nonaudioHoldExpiry receiver index => Sys2Proof.Machine.execNonaudioHoldExpiry receiver index s
  | .serialClockLoss group => Sys2Proof.Machine.execSerialClockLoss group s
  | .aes3RxFrame receiver a b badA badB validity rate ratio => Sys2Proof.Machine.execAes3RxFrame receiver a b badA badB validity rate ratio s
  | .aes3LockLoss receiver => Sys2Proof.Machine.execAes3LockLoss receiver s
  | .aes3BlockStart transmit port csA csB usA usB => Sys2Proof.Machine.execAes3BlockStart transmit port csA csB usA usB s
  | .aes3TxCommit transmitter => Sys2Proof.Machine.execAes3TxCommit transmitter s
  | .asrcAcquireLock instn ratio fill => Sys2Proof.Machine.execAsrcAcquireLock instn ratio fill s
  | .asrcSourceLost instn => Sys2Proof.Machine.execAsrcSourceLost instn s
  | .asrcFifoEmpty instn => Sys2Proof.Machine.execAsrcFifoEmpty instn s
  | .macLinkChange mac lock report rate receiving => Sys2Proof.Machine.execMacLinkChange mac lock report rate receiving s
  | .macRxFrame mac bytes fcsOk codeErr half => Sys2Proof.Machine.execMacRxFrame mac bytes fcsOk codeErr half s
  | .ringFrameDeliver mac => Sys2Proof.Machine.execRingFrameDeliver mac s
  | .txChainFetch mac ring => Sys2Proof.Machine.execTxChainFetch mac ring s
  | .macTxFrameStart mac half => Sys2Proof.Machine.execMacTxFrameStart mac half s
  | .pauseExpiry mac => Sys2Proof.Machine.execPauseExpiry mac s
  | .pauseWatchdogExpiry mac => Sys2Proof.Machine.execPauseWatchdogExpiry mac s
  | .pauseIgnoreEnd mac => Sys2Proof.Machine.execPauseIgnoreEnd mac s
  | .macCounterSnap mac => Sys2Proof.Machine.execMacCounterSnap mac s
  | .ringEnable mac tx ring en => Sys2Proof.Machine.execRingEnable mac tx ring en s
  | .mdioPoll mac => Sys2Proof.Machine.execMdioPoll mac s
  | .mdioTransaction bus value => Sys2Proof.Machine.execMdioTransaction bus value s
  | .mdioDone bus data => Sys2Proof.Machine.execMdioDone bus data s
  | .incWrite hi => Sys2Proof.Machine.execIncWrite hi s
  | .ptpTimeCapture => Sys2Proof.Machine.execPtpTimeCapture s
  | .ptpSet => Sys2Proof.Machine.execPtpSet s
  | .ptpStep neg => Sys2Proof.Machine.execPtpStep neg s
  | .cstampReadCapture => Sys2Proof.Machine.execCstampReadCapture s
  | .pulseArm output arm pol gate => Sys2Proof.Machine.execPulseArm output arm pol gate s
  | .pulseEdge output => Sys2Proof.Machine.execPulseEdge output s
  | .pulseFall output => Sys2Proof.Machine.execPulseFall output s
  | .captureEdge input rise => Sys2Proof.Machine.execCaptureEdge input rise s
  | .captureFifoRead input => Sys2Proof.Machine.execCaptureFifoRead input s
  | .systemPllLoss => Sys2Proof.Machine.execSystemPllLoss s
  | .ptpMessageRx isAnnounce gmId gmClass gmAcc prio offset delay => Sys2Proof.Machine.execPtpMessageRx isAnnounce gmId gmClass gmAcc prio offset delay s
  | .announceTimeout => Sys2Proof.Machine.execAnnounceTimeout s
  | .refPhaseEvent ref diff => Sys2Proof.Machine.execRefPhaseEvent ref diff s
  | .refEvalTick offsets => Sys2Proof.Machine.execRefEvalTick offsets s
  | .refAbsence ref pps => Sys2Proof.Machine.execRefAbsence ref pps s
  | .refWtrExpiry ref => Sys2Proof.Machine.execRefWtrExpiry ref s
  | .refDqExpiry ref => Sys2Proof.Machine.execRefDqExpiry ref s
  | .switchAveragingDone => Sys2Proof.Machine.execSwitchAveragingDone s
  | .buildOutBleedDone => Sys2Proof.Machine.execBuildOutBleedDone s
  | .dpllLockDetect => Sys2Proof.Machine.execDpllLockDetect s
  | .dpllUnlockDetect => Sys2Proof.Machine.execDpllUnlockDetect s
  | .holdoverHistoryTick => Sys2Proof.Machine.execHoldoverHistoryTick s
  | .openTimeout => Sys2Proof.Machine.execOpenTimeout s
  | .phaseStepWrite value => Sys2Proof.Machine.execPhaseStepWrite value s
  | .phaseStepApply => Sys2Proof.Machine.execPhaseStepApply s
  | .synthEnable => Sys2Proof.Machine.execSynthEnable s
  | .synthLock margin => Sys2Proof.Machine.execSynthLock margin s
  | .synthLockLoss xoLost => Sys2Proof.Machine.execSynthLockLoss xoLost s
  | .synthRelock => Sys2Proof.Machine.execSynthRelock s
  | .bandCalStart band rail => Sys2Proof.Machine.execBandCalStart band rail s
  | .bandCalDone freq => Sys2Proof.Machine.execBandCalDone freq s
  | .wcoArm output edge => Sys2Proof.Machine.execWcoArm output edge s
  | .wcoTrackAlign output edge => Sys2Proof.Machine.execWcoTrackAlign output edge s
  | .carrierPeriod channel current voltage => Sys2Proof.Machine.execCarrierPeriod channel current voltage s
  | .overcurrentTrip channel level => Sys2Proof.Machine.execOvercurrentTrip channel level s
  | .tripInput channel high => Sys2Proof.Machine.execTripInput channel high s
  | .tripHoldExpiry channel => Sys2Proof.Machine.execTripHoldExpiry channel s
  | .managementSlot => Sys2Proof.Machine.execManagementSlot s
  | .statusSlotEnd => Sys2Proof.Machine.execStatusSlotEnd s
  | .mklFrameRx frame => Sys2Proof.Machine.execMklFrameRx frame s
  | .discoverTimer mdl => Sys2Proof.Machine.execDiscoverTimer mdl s
  | .ampClearWrite value => Sys2Proof.Machine.execAmpClearWrite value s
  | .emuteInput low => Sys2Proof.Machine.execEmuteInput low s
  | .claimInFall => Sys2Proof.Machine.execClaimInFall s
  | .claimInRise => Sys2Proof.Machine.execClaimInRise s
  | .claimWindowEnd => Sys2Proof.Machine.execClaimWindowEnd s
  | .claimClockStop => Sys2Proof.Machine.execClaimClockStop s
  | .linkTraining unit lanes rates delay => Sys2Proof.Machine.execLinkTraining unit lanes rates delay s
  | .trainingModeTimeout => Sys2Proof.Machine.execTrainingModeTimeout s
  | .linkFault => Sys2Proof.Machine.execLinkFault s
  | .retrain => Sys2Proof.Machine.execRetrain s
  | .linkFrameRx crcOk kind words => Sys2Proof.Machine.execLinkFrameRx crcOk kind words s
  | .recordRx record arrival => Sys2Proof.Machine.execRecordRx record arrival s
  | .recordDeadlineMiss => Sys2Proof.Machine.execRecordDeadlineMiss s
  | .skewTimer => Sys2Proof.Machine.execSkewTimer s
  | .voussoirRequest master id write addr size beats data fetch => Sys2Proof.Machine.execVoussoirRequest master id write addr size beats data fetch s
  | .masterReset master => Sys2Proof.Machine.execMasterReset master s
  | .masterResetCut master => Sys2Proof.Machine.execMasterResetCut master s
  | .pcieLinkDown => Sys2Proof.Machine.execPcieLinkDown s
  | .pcieFlr pf => Sys2Proof.Machine.execPcieFlr pf s
  | .bar2Access pf write off count data => Sys2Proof.Machine.execBar2Access pf write off count data s
  | .qspiWrite port bytes => Sys2Proof.Machine.execQspiWrite port bytes s
  | .qspiRead port header clocked => Sys2Proof.Machine.execQspiRead port header clocked s
  | .qspiStatus port => Sys2Proof.Machine.execQspiStatus port s
  | .udpMailboxDatagram mac srcAddr srcPort dstPort words => Sys2Proof.Machine.execUdpMailboxDatagram mac srcAddr srcPort dstPort words s
  | .mailboxPost seat => Sys2Proof.Machine.execMailboxPost seat s
  | .evTailWrite seat value => Sys2Proof.Machine.execEvTailWrite seat value s
  | .leaseWarning seat => Sys2Proof.Machine.execLeaseWarning seat s
  | .leaseExpiry seat => Sys2Proof.Machine.execLeaseExpiry seat s
  | .lifeReleaseArm seat => Sys2Proof.Machine.execLifeReleaseArm seat s
  | .lifeReleaseKey seat => Sys2Proof.Machine.execLifeReleaseKey seat s
  | .lifeReleaseArmExpiry seat => Sys2Proof.Machine.execLifeReleaseArmExpiry seat s
  | .lifeMuteWrite seat value complement => Sys2Proof.Machine.execLifeMuteWrite seat value complement s
  | .lifeBeatTick => Sys2Proof.Machine.execLifeBeatTick s
  | .pieceVerifyDone => Sys2Proof.Machine.execPieceVerifyDone s
  | .supplyAlarm rail => Sys2Proof.Machine.execSupplyAlarm rail s
  | .temperatureSample temp => Sys2Proof.Machine.execTemperatureSample temp s
  | .quietEntry => Sys2Proof.Machine.execQuietEntry s
  | .quietExit => Sys2Proof.Machine.execQuietExit s
  | .restEntry => Sys2Proof.Machine.execRestEntry s
  | .wakeEvent source => Sys2Proof.Machine.execWakeEvent source s
  | .wakeFabricStart => Sys2Proof.Machine.execWakeFabricStart s
  | .sysCaps r => Sys2Proof.Machine.execSysCaps r s
  | .sysReset r => Sys2Proof.Machine.execSysReset r s
  | .sysLife r => Sys2Proof.Machine.execSysLife r s
  | .sysMute r => Sys2Proof.Machine.execSysMute r s
  | .sysCancel r => Sys2Proof.Machine.execSysCancel r s
  | .sysSched r => Sys2Proof.Machine.execSysSched r s
  | .seatAttach r => Sys2Proof.Machine.execSeatAttach r s
  | .seatRenew r => Sys2Proof.Machine.execSeatRenew r s
  | .seatDetach r => Sys2Proof.Machine.execSeatDetach r s
  | .seatGive r => Sys2Proof.Machine.execSeatGive r s
  | .seatTake r => Sys2Proof.Machine.execSeatTake r s
  | .seatAdopt r => Sys2Proof.Machine.execSeatAdopt r s
  | .seatRelease r => Sys2Proof.Machine.execSeatRelease r s
  | .seatQuota r => Sys2Proof.Machine.execSeatQuota r s
  | .seatBind r => Sys2Proof.Machine.execSeatBind r s
  | .seatPerm r => Sys2Proof.Machine.execSeatPerm r s
  | .seatSubscribe r => Sys2Proof.Machine.execSeatSubscribe r s
  | .seatList r => Sys2Proof.Machine.execSeatList r s
  | .imgBegin r => Sys2Proof.Machine.execImgBegin r s
  | .imgPiece r => Sys2Proof.Machine.execImgPiece r s
  | .imgData r => Sys2Proof.Machine.execImgData r s
  | .imgCommit r => Sys2Proof.Machine.execImgCommit r s
  | .imgAbort r => Sys2Proof.Machine.execImgAbort r s
  | .imgStatus r => Sys2Proof.Machine.execImgStatus r s
  | .imgPath r => Sys2Proof.Machine.execImgPath r s
  | .imgLend r => Sys2Proof.Machine.execImgLend r s
  | .imgKey r => Sys2Proof.Machine.execImgKey r s
  | .paramWrite r => Sys2Proof.Machine.execParamWrite r s
  | .paramRead r => Sys2Proof.Machine.execParamRead r s
  | .routeStage r => Sys2Proof.Machine.execRouteStage r s
  | .routeCommit r => Sys2Proof.Machine.execRouteCommit r s
  | .routeDest r => Sys2Proof.Machine.execRouteDest r s
  | .routeSilence r => Sys2Proof.Machine.execRouteSilence r s
  | .routeRead r => Sys2Proof.Machine.execRouteRead r s
  | .routeDstat r => Sys2Proof.Machine.execRouteDstat r s
  | .routeDiscard r => Sys2Proof.Machine.execRouteDiscard r s
  | .dynStage r => Sys2Proof.Machine.execDynStage r s
  | .dynRead r => Sys2Proof.Machine.execDynRead r s
  | .portGroup r => Sys2Proof.Machine.execPortGroup r s
  | .portLane r => Sys2Proof.Machine.execPortLane r s
  | .portAesrx r => Sys2Proof.Machine.execPortAesrx r s
  | .portAestx r => Sys2Proof.Machine.execPortAestx r s
  | .portCstat r => Sys2Proof.Machine.execPortCstat r s
  | .portAsrc r => Sys2Proof.Machine.execPortAsrc r s
  | .portOuten r => Sys2Proof.Machine.execPortOuten r s
  | .portStatus r => Sys2Proof.Machine.execPortStatus r s
  | .netMac r => Sys2Proof.Machine.execNetMac r s
  | .netIp r => Sys2Proof.Machine.execNetIp r s
  | .netPhy r => Sys2Proof.Machine.execNetPhy r s
  | .netMdio r => Sys2Proof.Machine.execNetMdio r s
  | .netStats r => Sys2Proof.Machine.execNetStats r s
  | .streamRx r => Sys2Proof.Machine.execStreamRx r s
  | .streamTx r => Sys2Proof.Machine.execStreamTx r s
  | .streamMap r => Sys2Proof.Machine.execStreamMap r s
  | .streamEnable r => Sys2Proof.Machine.execStreamEnable r s
  | .streamDelete r => Sys2Proof.Machine.execStreamDelete r s
  | .streamStatus r => Sys2Proof.Machine.execStreamStatus r s
  | .timePtp r => Sys2Proof.Machine.execTimePtp r s
  | .timeStatus r => Sys2Proof.Machine.execTimeStatus r s
  | .timeCpo r => Sys2Proof.Machine.execTimeCpo r s
  | .timeReanchor r => Sys2Proof.Machine.execTimeReanchor r s
  | .timePulse r => Sys2Proof.Machine.execTimePulse r s
  | .timeCapture r => Sys2Proof.Machine.execTimeCapture r s
  | .timeCapread r => Sys2Proof.Machine.execTimeCapread r s
  | .timeLatency r => Sys2Proof.Machine.execTimeLatency r s
  | .clkRef r => Sys2Proof.Machine.execClkRef r s
  | .clkSelect r => Sys2Proof.Machine.execClkSelect r s
  | .clkDpll r => Sys2Proof.Machine.execClkDpll r s
  | .clkFreq r => Sys2Proof.Machine.execClkFreq r s
  | .clkStep r => Sys2Proof.Machine.execClkStep r s
  | .clkQuality r => Sys2Proof.Machine.execClkQuality r s
  | .clkOutput r => Sys2Proof.Machine.execClkOutput r s
  | .clkStatus r => Sys2Proof.Machine.execClkStatus r s
  | .ampChannel r => Sys2Proof.Machine.execAmpChannel r s
  | .ampGroup r => Sys2Proof.Machine.execAmpGroup r s
  | .ampBus r => Sys2Proof.Machine.execAmpBus r s
  | .ampOuten r => Sys2Proof.Machine.execAmpOuten r s
  | .ampClear r => Sys2Proof.Machine.execAmpClear r s
  | .ampStatus r => Sys2Proof.Machine.execAmpStatus r s
  | .pairConfig r => Sys2Proof.Machine.execPairConfig r s
  | .pairStatus r => Sys2Proof.Machine.execPairStatus r s
  | .pairRejoin r => Sys2Proof.Machine.execPairRejoin r s
  | .pairRestate r => Sys2Proof.Machine.execPairRestate r s
  | .pairReframe r => Sys2Proof.Machine.execPairReframe r s
  | .pairRetrain r => Sys2Proof.Machine.execPairRetrain r s
  | .pwrState r => Sys2Proof.Machine.execPwrState r s
  | .pwrBanks r => Sys2Proof.Machine.execPwrBanks r s
  | .pwrScrub r => Sys2Proof.Machine.execPwrScrub r s
  | .pwrStatus r => Sys2Proof.Machine.execPwrStatus r s
  | .diagRead r => Sys2Proof.Machine.execDiagRead r s
  | .diagCounts r => Sys2Proof.Machine.execDiagCounts r s
  | .diagLog r => Sys2Proof.Machine.execDiagLog r s
  | .diagInject r => Sys2Proof.Machine.execDiagInject r s
  | .diagSvn r => Sys2Proof.Machine.execDiagSvn r s
  | .diagDebug r => Sys2Proof.Machine.execDiagDebug r s
  | .resetRelease bootSrc seatMap pairEn unitId => Sys2Proof.Machine.execResetRelease bootSrc seatMap pairEn unitId s
  | .systemPllRelock => Sys2Proof.Machine.execSystemPllRelock s
  | .supplyAlarmClear => Sys2Proof.Machine.execSupplyAlarmClear s
  | .pcieLinkUp => Sys2Proof.Machine.execPcieLinkUp s

end Sys2Proof.Machine
end

