-- ==== Sys2Proof/Safety.lean ====
section
/-! DEFINITION. What the claims call a safe state: the register store in rising order, and the memories that the spec gives the
block (Ashlar, the tiles' IMEM and DMEM, working RAM, the boot flash) in their canonical form. -/

namespace Sys2Proof.Machine

/-- A memory in its canonical form: addresses strictly rising, no entry that equals the 0 of an unlisted address. -/
abbrev memWf (m : AMap Nat) : Prop := m.wf (fun _ => 0) = true

/-- A tile whose three memories are in canonical form. -/
abbrev tileWf (t : Tile) : Prop := memWf t.dmem ∧ memWf t.imem0 ∧ memWf t.imem1

/-- The invariant of the stores: register keys strictly rise, and every memory is in canonical form. -/
structure StoresWf (s : State) : Prop where
  regs : s.regs.Pairwise (fun a b => a.1 < b.1)
  ashlar : memWf s.ash.mem
  wram : memWf s.ctl.wram
  flash : memWf s.ctl.flash
  tiles : ∀ p ∈ s.tiles, tileWf p.2

/-- Fuses that changed at most by a higher floor of the security version number (R328). -/
abbrev FusesKept (a b : Fuses) : Prop := b = { a with svnFloor := b.svnFloor } ∧ a.svnFloor ≤ b.svnFloor

/-! ## What the statements say of one command -/

/-- From `s` to `t` the listed register fields take the listed values (cut to their width), every other register field reads as
before, and nothing but the registers changes. -/
structure OnlyFields (s t : State) (l : List (Fld × Nat)) : Prop where
  rest : t = { s with regs := t.regs }
  written : ∀ p ∈ l, getF t p.1 = p.2 % 2 ^ p.1.width
  others : ∀ f, (∀ p ∈ l, f.key ≠ p.1.key) → getF t f = getF s f

/-- Whether a key of the register store belongs to the fields that telling a seat writes: EV_HEAD, EV_TAIL and IRQ_STAT of the seats
(R341, R347). -/
def tellKey (k : Nat) : Bool := decide (0x20100000 * 32 ≤ k) && [0x108, 0x10C, 0x110].contains (k / 32 % 16384)

/-- From `s` to `t` nothing has happened but that seats were told something (R341, R342, R347): event rings, hold queues and their
count of dropped events, EV_HEAD, EV_TAIL and IRQ_STAT, and what left the block. -/
structure Told (s t : State) : Prop where
  rest : t = { s with regs := t.regs, seats := t.seats, out := t.out }
  regs : ∀ k d, tellKey k = false → t.regs.get k d = s.regs.get k d
  seats : ∀ n, seatOf t n = { seatOf s n with
    mail := (seatOf t n).mail
    hold := (seatOf t n).hold
    dropped := (seatOf t n).dropped }

/-- A request that the firmware takes: it has been entered and has set FW_UP (R355), and the request comes from one of the four
seats (R332). -/
structure Asks (r : FwReq) (s : State) : Prop where
  up : fwUp s = true
  seat : r.seat < 4

/-- The ownership and quota checks of R361 pass for an object (R353, R367). -/
structure MayChange (r : FwReq) (s : State) (kind idx : Nat) : Prop where
  own : mayOwn s r kind idx = .ok ()
  quota : quotaFor s r kind idx = .ok ()

/-- STAGE events put into the queue of a claimant that relays its changes (R307). -/
def noted (q : List PairEv) (s : State) : State := { s with pair := { s.pair with queue := s.pair.queue ++ q } }

/-- The outcome is the answer OK, with reply words `ws`, of a command whose own effect takes each state `x` to one that `P` relates
to it. On a claimant that relays its changes the command runs with the STAGE events of its writes queued (R307), so the effect is
that of `noted q s`; else `q` is empty. What the answer adds is said by `Obligations.AnswersAndArming`. -/
def Replies (op : Nat) (r : FwReq) (s : State) (o : Host.Outcome State Fault Refusal) (ws : List Nat)
    (P : State → State → Prop) : Prop :=
  ∃ e : State → State, o = .next (answer op r (fun x => .ok (e x, ws)) s) ∧ ∀ q, P (noted q s) (e (noted q s))

/-- The outcome of a command that leaves the state `t` and is answered OK with the words `ws` (R343, R360). -/
def replied (op : Nat) (r : FwReq) (ws : List Nat) (t : State) : Host.Outcome State Fault Refusal :=
  .next (postReply r.seat (op * 65536 + r.seq % 256 * 256 + b2n r.asap) eOk ws t)

/-- Nothing waits in the block: no request is held back (R320), and no seat has a command posted (R343). -/
abbrev Quiescent (s : State) : Prop := s.vsr.held = [] ∧ ∀ n, n < 4 → flag s (DB_STAT_CMD_BUSY n) = false

/-- A change of the stream engine's settings: while the fabric is stopped it is what a start begins with. -/
def settled (s : State) : State := if running s then s else strSettings s

/-- The effect of a command that only reports: none. -/
def Same (s t : State) : Prop := t = s

end Sys2Proof.Machine
end

