-- ==== Sys2Proof/Certificates/Slice0/Obligations.lean ====
section
/-! DEFINITION. The statements for the provers. -/

open Sys2Proof Sys2Proof.Machine

/-- While the firmware is up, SYS.CAPS and SYS.LIFE and SYS.SCHED of any seat report the words of their tables and change
nothing; SYS.RESET of the steward or of a seat with CTL_OK requests the CTL reset; SYS.MUTE of a seat with MUTE_OK writes
exactly the sender's MUTE bit; SYS.CANCEL by the arming seat or the steward removes an entry 2 courses ahead whose ramp
has not begun. The model's choices that it rests on: log entries 8, 15, 31, 130. (R369, R364, R358, R361, R386) -/
def Obligations.SysCommands : Prop :=
  (∀ r s, Asks r s → r.words.length = 0 →
    Replies 0x0000 r s (exec (.sysCaps r) s)
      [readWord s (fieldsAt SYS_CAP_VARIANT.addr), not32 (readWord s (fieldsAt SYS_CAP_VARIANT.addr)), s.ctl.fwVersion,
        s.ctl.svn % 64 + 256 * getF s SYS_BOOT_STAT_SLOT + 512 * getF s SYS_BOOT_STAT_TRIAL + 1024 * getF s SYS_BOOT_STAT_FROM_COPY,
        65537, b2n s.pins.pairEn + 2 * b2n s.pins.unitId + 4 * s.pins.seatMap + 16 * s.pins.bootSrc,
        getF s FAB_IMG_ID_IMAGE_ID, (if running s then rmOf s else 0) + 256 * getF s FAB_TL_STATUS_FAMILY,
        if isSmall s then 1048576 else 3145728, lo32 s.fuses.serial, hi32 s.fuses.serial] Same)
  ∧ (∀ r s, Asks r s → r.words.length = 1 → r.w 0 = 1 → (r.seat = 0 ∨ getF s (HOST_PERM_CTL_OK r.seat) ≠ 0) →
    Replies 0x0001 r s (exec (.sysReset r) s) [] (fun x t => t = { x with ctl := { x.ctl with reqSoft := true } }))
  ∧ (∀ r s, Asks r s → r.words.length = 0 →
    Replies 0x0002 r s (exec (.sysLife r) s)
      [(lifeRead (some r.seat) 0 s).1, lo32 (if running s then localCi s else 0), hi32 (if running s then localCi s else 0),
        (lifeRead (some r.seat) 0xC s).1, (lifeRead (some r.seat) 0x10 s).1, (lifeRead (some r.seat) 0x14 s).1,
        (lifeRead (some r.seat) 0x1C s).1] Same)
  ∧ (∀ r s, Asks r s → r.words.length = 2 → getF s (HOST_PERM_MUTE_OK r.seat) ≠ 0 → r.only [(0, 1)] = .ok () → r.w 1 = not32 (r.w 0) →
    Replies 0x0003 r s (exec (.sysMute r) s) [] (fun x t => OnlyFields x t [(LIFE_MUTE_MUTE r.seat, r.w 0)]))
  ∧ (∀ r s e, Asks r s → r.words.length = 1 → r.only [(0, mask 5 0)] = .ok () → s.fab.sched.find (r.w 0) = some e → (e.seat = r.seat ∨ r.seat = 0) →
    rampBegun s e = false → s.fab.ci + 2 ≤ e.ci →
    Replies 0x0004 r s (exec (.sysCancel r) s) [] (fun x t => t = cancelAsked (r.w 0) e x))
  ∧ (∀ r s, Asks r s → r.words.length = 0 →
    Replies 0x0005 r s (exec (.sysSched r) s)
      (s.fab.sched.length :: s.fab.sched.flatMap (fun p => [p.1 + 256 * p.2.kind + 4096 * p.2.seat, lo32 p.2.ci, hi32 p.2.ci])) Same)

/-- SEAT.ATTACH with a version range that holds 1 and a lease of 100 to 60,000 ms ends the seat's former attachment, sets
ATTACHED, the lease, the token and the event address: without a token the token is a new one, with a known token it is
that one and its orphans are adopted. SEAT.RENEW reports the lease. SEAT.DETACH ends the attachment, its objects becoming
orphans, or free where RELEASE is 1. SEAT.ADOPT moves the matching orphans to the holder of a token, or to the steward
with token 0. SEAT.LIST reports a seat's objects. The model's choices that it rests on: log entries 1, 20, 21, 27, 29,
58. (R348, R349, R350, R352, R370) -/
def Obligations.SeatAttachment : Prop :=
  (∀ r s t ws, Asks r s → r.words.length = 6 → r.only [(5, mask 15 0)] = .ok () → 100 ≤ r.w 1 → r.w 1 ≤ 60000 → r.f 0 0 16 ≤ 1 → 1 ≤ r.f 0 16 16 →
    r.w 2 + 4294967296 * r.w 3 = 0 →
    relayed (fun y => do
      let p ← newToken (if attached y r.seat then endAttach r.seat y else y)
      .ok (putF (DB_STAT_ATTACHED r.seat) 1 (updSeat r.seat (fun t => { t with
          lease := r.w 1, token := p.1, expect := some ((r.seq + 1) % 256), evAddr := r.w 4, evPort := r.w 5 }) p.2), [1, r.w 1, lo32 p.1, hi32 p.1, 65536 * r.seat])) s = .ok (t, ws) →
    exec (.seatAttach r) s = replied 0x0100 r ws t)
  ∧ (∀ r s tok f, Asks r s → r.words.length = 6 → r.only [(5, mask 15 0)] = .ok () → 100 ≤ r.w 1 → r.w 1 ≤ 60000 → r.f 0 0 16 ≤ 1 →
    1 ≤ r.f 0 16 16 → tok = r.w 2 + 4294967296 * r.w 3 → tok ≠ 0 → s.fw.tokens.contains tok = true →
    f = (fun s => putF (DB_STAT_ATTACHED r.seat) 1 (updSeat r.seat (fun t => { t with
        lease := r.w 1, token := tok, expect := some ((r.seq + 1) % 256), evAddr := r.w 4, evPort := r.w 5 }) (if attached s r.seat then endAttach r.seat s else s))) →
    exec (.seatAttach r) s = .next (answer 0x0100 r (fun x => .ok (adopt r.seat (orphanKeys (f x) tok 0 0xFFFF) (f x),
      [1, r.w 1, lo32 tok, hi32 tok, (orphanKeys (f x) tok 0 0xFFFF).length + 65536 * r.seat])) s))
  ∧ (∀ r s, Asks r s → r.words.length = 0 →
    Replies 0x0101 r s (exec (.seatRenew r) s) [(seatOf s r.seat).lease] Same)
  ∧ (∀ r s, Asks r s → r.words.length = 1 → r.w 0 = 0 →
    Replies 0x0102 r s (exec (.seatDetach r) s) [] (fun x t => t = endAttach r.seat x))
  ∧ (∀ r s, Asks r s → r.words.length = 1 → r.w 0 = 1 →
    Replies 0x0102 r s (exec (.seatDetach r) s) [] (fun x t =>
      t = endAttach r.seat ((objectsOf x r.seat).foldl (fun y k => freeObj (k / 65536) (k % 65536) y) x)))
  ∧ (∀ r s tok keys, Asks r s → r.words.length = 3 → r.only [(2, mask 7 0 + mask 31 16)] = .ok () → r.f 2 0 8 ≤ 20 →
    tok = r.w 0 + 4294967296 * r.w 1 → (if tok = 0 then r.seat = 0 else s.fw.tokens.contains tok = true) →
    keys = orphanKeys s tok (r.f 2 0 8) (r.f 2 16 16) →
    (∀ k, quotaRoom s r.seat k (keys.filter (fun x => x / 65536 == k)).length = true) →
    Replies 0x0105 r s (exec (.seatAdopt r) s) [keys.length] (fun x t => t = adopt r.seat keys x))
  ∧ (∀ r s all part, Asks r s → r.words.length = 1 → r.only [(0, mask 1 0 + 16 + mask 31 16)] = .ok () →
    all = s.fw.owners.filter (fun p => p.2.seat == r.f 0 0 2 && (r.f 0 4 1 == 0 || p.2.orphan)) →
    part = (all.drop (r.f 0 16 16)).take 240 →
    Replies 0x010B r s (exec (.seatList r) s)
      ((part.length + 65536 * (if r.f 0 16 16 + part.length < all.length then r.f 0 16 16 + part.length else 0xFFFF)) ::
        part.map (fun p => p.1 / 65536 + 256 * p.2.seat + 4096 * b2n p.2.orphan + 65536 * (p.1 % 65536))) Same)

/-- SEAT.GIVE moves an object of the sender to an attached seat with room in its quota; SEAT.TAKE moves any object to the
steward; SEAT.RELEASE frees an object of the sender and tells it; SEAT.QUOTA sets or removes a limit; SEAT.BIND replies
and then changes the binding with the SEAT resets; SEAT.PERM writes exactly the three permissions, which seat 0 keeps;
SEAT.SUBSCRIBE adds or removes one subscription, of at most 256. The model's choices that it rests on: log entries 21,
25, 58. (R351, R352, R353, R354, R356, R333, R367, R370) -/
def Obligations.SeatObjects : Prop :=
  (∀ r s, Asks r s → r.words.length = 1 → r.only [(0, mask 9 0 + mask 31 16)] = .ok () → objIndex s (r.f 0 0 8) (r.f 0 16 16) = .ok () →
    owns s r.seat (r.f 0 0 8) (r.f 0 16 16) = true → attached s (r.f 0 8 2) = true →
    (r.f 0 8 2 = r.seat ∨ quotaRoom s (r.f 0 8 2) (r.f 0 0 8) 1 = true) →
    Replies 0x0103 r s (exec (.seatGive r) s) [] (fun x t => t = moveObj 1 (r.f 0 8 2) (objKey (r.f 0 0 8) (r.f 0 16 16)) x))
  ∧ (∀ r s, Asks r s → r.words.length = 1 → r.only [(0, mask 7 0 + mask 31 16)] = .ok () →
    objIndex s (r.f 0 0 8) (r.f 0 16 16) = .ok () → r.seat = 0 →
    (owns s 0 (r.f 0 0 8) (r.f 0 16 16) = true ∨ quotaRoom s 0 (r.f 0 0 8) 1 = true) →
    Replies 0x0104 r s (exec (.seatTake r) s) [] (fun x t => t = moveObj 2 0 (objKey (r.f 0 0 8) (r.f 0 16 16)) x))
  ∧ (∀ r s, Asks r s → r.words.length = 1 → r.only [(0, mask 7 0 + mask 31 16)] = .ok () →
    objIndex s (r.f 0 0 8) (r.f 0 16 16) = .ok () → owns s r.seat (r.f 0 0 8) (r.f 0 16 16) = true →
    Replies 0x0106 r s (exec (.seatRelease r) s) [] (fun x t =>
      t = objectEvent r.seat (r.f 0 0 8) r.seat 0xF (r.f 0 16 16) 5 (freeObj (r.f 0 0 8) (r.f 0 16 16) x)))
  ∧ (∀ r s k, Asks r s → r.words.length = 2 → r.only [(0, mask 1 0 + mask 15 8)] = .ok () → r.seat = 0 → r.f 0 8 8 ≤ 20 →
    k = r.f 0 0 2 * 256 + r.f 0 8 8 →
    Replies 0x0107 r s (exec (.seatQuota r) s) [] (fun x t => t = { x with fw := { x.fw with
      quotas := if r.w 1 = 0xFFFFFFFF then x.fw.quotas.erase k else x.fw.quotas.put k (r.w 1) } }))
  ∧ (∀ r s, Asks r s → r.words.length = 4 → r.only [(0, mask 5 0), (1, mask 15 0)] = .ok () → r.seat = 0 →
    (r.f 0 2 2 = 2 → r.f 0 4 2 ≤ 1) → (r.f 0 2 2 = 3 → r.f 0 4 2 < nMacs s) → nMacs s ≤ 4 →
    exec (.seatBind r) s = .next (bindSeat (r.f 0 0 2) (r.f 0 2 2) (r.f 0 4 2) (r.w 1) (r.w 2) (r.w 3)
      (answer 0x0108 r (fun _ => .ok (s, [])) s)))
  ∧ (∀ r s n, Asks r s → r.words.length = 1 → r.only [(0, mask 4 0)] = .ok () → r.seat = 0 → n = r.f 0 0 2 →
    Replies 0x0109 r s (exec (.seatPerm r) s) [] (fun x t => OnlyFields x t
      [(HOST_PERM_REL_OK n, if n = 0 then 1 else r.f 0 2 1), (HOST_PERM_MUTE_OK n, if n = 0 then 1 else r.f 0 3 1),
       (HOST_PERM_CTL_OK n, if n = 0 then 1 else r.f 0 4 1)]))
  ∧ (∀ r s o, Asks r s → r.words.length = 1 → r.only [(0, mask 8 0 + mask 31 16)] = .ok () → o = (r.f 0 0 8, r.f 0 16 16) →
    objIndex s o.1 o.2 = .ok () → r.f 0 8 1 = 0 →
    Replies 0x010A r s (exec (.seatSubscribe r) s) [] (fun x t =>
      t = updSeat r.seat (fun y => { y with subs := y.subs.filter (· != o) }) x))
  ∧ (∀ r s o, Asks r s → r.words.length = 1 → r.only [(0, mask 8 0 + mask 31 16)] = .ok () → o = (r.f 0 0 8, r.f 0 16 16) →
    objIndex s o.1 o.2 = .ok () → r.f 0 8 1 = 1 → (seatOf s r.seat).subs.contains o = false → (seatOf s r.seat).subs.length < 256 →
    Replies 0x010A r s (exec (.seatSubscribe r) s) [] (fun x t =>
      t = updSeat r.seat (fun y => { y with subs := y.subs ++ [o] }) x))
  ∧ (∀ r s o, Asks r s → r.words.length = 1 → r.only [(0, mask 8 0 + mask 31 16)] = .ok () → o = (r.f 0 0 8, r.f 0 16 16) →
    objIndex s o.1 o.2 = .ok () → r.f 0 8 1 = 1 → (seatOf s r.seat).subs.contains o = true →
    Replies 0x010A r s (exec (.seatSubscribe r) s) [] Same)

/-- IMG.BEGIN opens the sender's session with its window over the staging banks and discards what was staged; IMG.PIECE
gives the session a piece to verify; IMG.DATA writes its bytes into the window; IMG.ABORT discards the session, after
cancelling an armed commit; IMG.STATUS and IMG.PATH report; IMG.KEY of the steward stores or deletes a key and sets
REQUIRE_SIGNED. The model's choices that it rests on: log entries 45, 46, 48. (R371, R130, R353, R361, R367, R137) -/
def Obligations.ImageStaging : Prop :=
  (∀ r s, Asks r s → r.words.length = 2 → isStandby s = false → MayChange r s 1 0 → 0 < r.w 0 → r.w 0 ≤ 0x03000000 →
    commitArmed s = false → 0 < stagingBytes s r.seat →
    Replies 0x0200 r s (exec (.imgBegin r) s) [stagingBytes s r.seat, 32] (fun _ t => t.fab.staged = none
      ∧ t.fab.session = some ⟨r.seat, r.w 0, r.w 1, [], [], none, 0, false⟩
      ∧ getF t (HOST_WIN_WIN_BASE r.seat) = partBank s * 131072 ∧ getF t (HOST_LIM_WIN_WORDS r.seat) = stagingBytes s r.seat / 4))
  ∧ (∀ r s x, Asks r s → r.words.length = 3 → isStandby s = false → MayChange r s 1 0 → r.w 0 % 32 = 0 →
    r.w 0 + r.w 1 ≤ 4 * getF s (HOST_LIM_WIN_WORDS r.seat) → r.w 1 ≠ 0 → s.fab.session = some x → x.seat = r.seat →
    commitArmed s = false → x.busy = none →
    Replies 0x0201 r s (exec (.imgPiece r) s) [] (fun y t => t = { acquire r 1 0 y with fab := { y.fab with
      session := some { x with busy := some (r.w 0, r.w 1, r.w 2, r.seq) } } }))
  ∧ (∀ r s, Asks r s → r.words.length = 2 + (r.f 1 0 10 + 3) / 4 → isStandby s = false → MayChange r s 1 0 →
    r.only [(1, mask 9 0)] = .ok () → 1 ≤ r.f 1 0 10 → r.f 1 0 10 ≤ 992 →
    r.w 0 + r.f 1 0 10 ≤ 4 * getF s (HOST_LIM_WIN_WORDS r.seat) →
    Replies 0x0202 r s (exec (.imgData r) s) [] (fun y t =>
      t = (putAshBytes 1 (0x40000000 + 4 * getF s (HOST_WIN_WIN_BASE r.seat) + r.w 0)
        ((wordsToBytes (r.words.drop 2)).take (r.f 1 0 10)) (acquire r 1 0 y)).2))
  ∧ (∀ r s, Asks r s → r.words.length = 0 → isStandby s = false → MayChange r s 1 0 → commitArmed s = false →
    s.fab.sched.find? (fun p => p.2.kind == 2 || p.2.kind == 3) = none →
    Replies 0x0204 r s (exec (.imgAbort r) s) [] (fun x t =>
      t = (match x.fab.session with | some y => dropSession y.seat (acquire r 1 0 x) | none => acquire r 1 0 x)))
  ∧ (∀ r s i e, Asks r s → r.words.length = 0 → isStandby s = false → MayChange r s 1 0 →
    s.fab.sched.find? (fun p => p.2.kind == 2 || p.2.kind == 3) = some (i, e) → mayCancel s r.seat i = .ok e →
    (∀ q, quotaFor (cancelAsked i e (noted q s)) r 1 0 = .ok ()) →
    Replies 0x0204 r s (exec (.imgAbort r) s) [] (fun x t =>
      t = (match (acquire r 1 0 (cancelAsked i e x)).fab.session with
        | some y => dropSession y.seat (acquire r 1 0 (cancelAsked i e x))
        | none => acquire r 1 0 (cancelAsked i e x))))
  ∧ (∀ r s, Asks r s → r.words.length = 0 → ∃ ws, Replies 0x0205 r s (exec (.imgStatus r) s) ws Same ∧ ws.length = 6
      ∧ ws.getD 0 0 = regWordRaw s FAB_STAT_IMG_STATE.addr ∧ ws.getD 1 0 = getF s FAB_IMG_ID_IMAGE_ID
      ∧ ws.getD 4 0 = s.fab.lastCheck ∧ ws.getD 5 0 = s.fab.lastOffset)
  ∧ (∀ r s i e, Asks r s → r.words.length = 1 → r.only [(0, mask 12 0 + mask 28 16)] = .ok () → s.fab.img = some i →
    i.latency.find? (fun e => !e.env && e.src == r.f 0 0 13 && e.dst == r.f 0 16 13) = some e →
    ∃ tin tout, Replies 0x0206 r s (exec (.imgPath r) s) [e.courses, tin, tout, if s.pins.pairEn then s.pair.lag else 0,
      e.courses + tin + tout + (if s.pins.pairEn then s.pair.lag else 0), e.drive] Same)
  ∧ (∀ r s, Asks r s → r.words.length = 17 → r.seat = 0 → MayChange r s 1 0 → r.only [(0, 3 + 256 + 65536)] = .ok () →
    Replies 0x0208 r s (exec (.imgKey r) s) [] (fun x t => t = { acquire r 1 0 x with fw := { (acquire r 1 0 x).fw with
      imgKeys := if r.f 0 8 1 = 1 then (acquire r 1 0 x).fw.imgKeys.erase (r.f 0 0 2)
        else (acquire r 1 0 x).fw.imgKeys.put (r.f 0 0 2) (ofBeBytes (wordsToBytes (r.words.drop 1)))
      requireSigned := r.f 0 16 1 == 1 } }))

/-- With a complete staged image, IMG.COMMIT of a stopped fabric whose words are 0 loads the image whole and starts; of a
running fabric it arms a splice where MODE is 1, or 0 and the splice conditions hold, else a ramped cut-over, in the
entry that it reports. IMG.LEND writes the two lend masks of a bank at once or as a batch. The model's choices that it
rests on: log entries 42, 43, 44, 47, 48. (R371, R130, R131, R132, R133, R136, R35, R367) -/
def Obligations.ImageCommit : Prop :=
  (∀ r s x img, Asks r s → r.words.length = 3 → isStandby s = false → MayChange r s 1 0 → s.fab.staged = some img →
    s.fab.session = some x → x.seat = r.seat → x.busy = none → r.w 0 = 0 → r.w 1 = 0 → r.w 2 = 0 → partnerHas s img = true →
    running s = false → s.fab.startAt = none → s.fab.family = none → s.pwr.hotStop = false → s.pwr.entering = 0 →
    getF s PWR_STAT_STATE = 0 → ampFits s img = true →
    Replies 0x0203 r s (exec (.imgCommit r) s) [0xFF, 0, 0, 0] (fun y t => t = commitStopped img (acquire r 1 0 y)))
  ∧ (∀ r s x old img t ws, Asks r s → r.words.length = 3 → isStandby s = false → MayChange r s 1 0 → r.only [(2, 3)] = .ok () →
    s.fab.staged = some img → s.fab.session = some x → x.seat = r.seat → x.busy = none → s.fab.img = some old → running s = true →
    partnerHas s img = true → r.f 2 0 2 ≤ 1 → spliceOk old img = true → r.ci 0 ≠ 0 →
    (img.hasRoute = true → getF s RTE_SL_ROUTE_ARMED = 0 ∧ getF s RTE_STAT_RESYNC = 0) →
    (img.hasDyn = true → s.dyn.tags.all (fun p => decide (p.2 < 64)) = true ∧ s.dyn.recopy = []) → ampFits s img = true →
    relayed (fun y => do
      let a ← arm y r ⟨3, r.seat, r.ci 0, false, [], [], [], false⟩
      .ok (armSplice a.1 img (acquire r 1 0 a.2.2), (schedReply a.1 a.2.1 ++ [1]))) s = .ok (t, ws) →
    exec (.imgCommit r) s = replied 0x0203 r ws t)
  ∧ (∀ r s x old img t ws, Asks r s → r.words.length = 3 → isStandby s = false → MayChange r s 1 0 → r.only [(2, 3)] = .ok () →
    s.fab.staged = some img → s.fab.session = some x → x.seat = r.seat → x.busy = none → s.fab.img = some old → running s = true →
    partnerHas s img = true → (r.f 2 0 2 = 2 ∨ r.f 2 0 2 = 0 ∧ spliceOk old img = false) → r.asap = false → r.ci 0 ≠ 0 →
    (img.rm < old.rm ∧ img.rm ≠ 0 ∧ img.family = old.family → r.ci 0 % (old.rm / img.rm) = 0) →
    cpoFits (getF s FAB_CPO_CPO_NS) (baseRate img.family * img.rm) = true → ampFits s img = true →
    relayed (fun y => do
      let a ← arm y r ⟨2, r.seat, r.ci 0, false, [], [], [], false⟩
      .ok (acquire r 1 0 a.2.2, (schedReply a.1 a.2.1 ++ [2]))) s = .ok (t, ws) →
    exec (.imgCommit r) s = replied 0x0203 r ws t)
  ∧ (∀ r s t ws, Asks r s → r.words.length = 5 → r.f 0 0 7 < nBanks s → nBanks s ≤ 128 → isStandby s = false → MayChange r s 1 0 →
    r.only [(0, mask 6 0)] = .ok () → r.w 1 &&& (declared s (r.f 0 0 7)).1 = r.w 1 → r.w 2 &&& (declared s (r.f 0 0 7)).2 = r.w 2 →
    relayed (fun y => do
      let x ← portBatch y r (r.ci 3) none [(FAB_LEND_LO_LEND (r.f 0 0 7), r.w 1), (FAB_LEND_HI_LEND (r.f 0 0 7), r.w 2)]
      .ok (acquire r 1 0 x.1, x.2)) s = .ok (t, ws) →
    exec (.imgLend r) s = replied 0x0207 r ws t)

/-- PARAM.WRITE writes its words into the shadow copy of an untagged page, after the recopy that a swap made due;
PARAM.READ reads either copy; DYN.STAGE puts a legal record into the shadow of an untagged instance; DYN.READ reports.
The model's choices that it rests on: log entries 8, 33. (R373, R374, R152, R361, R367, R190) -/
def Obligations.ParametersAndDynamics : Prop :=
  (∀ r s c, Asks r s → r.words.length = 2 + r.w 1 → isStandby s = false → MayChange r s 2 (r.f 0 0 8) →
    r.only [(0, mask 7 0 + mask 25 16)] = .ok () → r.w 1 ≤ 248 → r.f 0 16 10 + r.w 1 ≤ 1024 → pageTag s (r.f 0 0 8) < 64 →
    pageOf s (r.f 0 0 8) = .ok c →
    Replies 0x0300 r s (exec (.paramWrite r) s) [] (fun x t => t = fwAshWrites (c.2 + r.f 0 16 10) (r.words.drop 2)
      (freshenPage (r.f 0 0 8) c.1 c.2 (acquire r 2 (r.f 0 0 8) x))))
  ∧ (∀ r s c, Asks r s → r.words.length = 2 → r.only [(0, mask 8 0 + mask 25 16)] = .ok () → r.w 1 ≤ 248 →
    r.f 0 16 10 + r.w 1 ≤ 1024 → pageOf s (r.f 0 0 8) = .ok c →
    exec (.paramRead r) s = .next (answer 0x0301 r (fun x =>
      let v := fwAshReads ((if r.f 0 8 1 = 1 then c.2 else c.1) + r.f 0 16 10) (r.w 1) x
      .ok (v.2, v.1)) s))
  ∧ (∀ r s i rc, Asks r s → r.words.length = 9 → i = r.f 0 0 10 → rc = (List.range 8).map (fun k => r.w (k + 1)) → i < maxDyn s →
    isStandby s = false → MayChange r s 4 i → r.only [(0, mask 9 0)] = .ok () → dynLegal rc = true → i < s.fab.cal.dynCap →
    dynTag s i < 64 → s.dyn.recopy.contains i = false → producer s.fab.cal (rf rc 1 0 13 / 8) = 0x23 →
    chained s.fab.cal (rf rc 0 0 13 / 8) = false → chained s.fab.cal (rf rc 0 13 13 / 8) = false →
    Replies 0x0500 r s (exec (.dynStage r) s) [] (fun x t => t = { acquire r 4 i x with dyn := { x.dyn with
      shadow := putRec x.dyn.shadow i rc } }))
  ∧ (∀ r s i, Asks r s → r.words.length = 1 → i = r.f 0 0 10 → i < maxDyn s → r.only [(0, mask 9 0 + mask 17 16)] = .ok () →
    r.f 0 16 2 ≤ 2 → i < s.fab.cal.dynCap →
    Replies 0x0501 r s (exec (.dynRead r) s)
      ((List.range (if r.f 0 16 2 = 2 then 2 else 8)).map (dynRead s (r.f 0 16 2) i)) Same)

/-- ROUTE.STAGE merges its crosspoint changes into the sender's staging list and acquires their destinations; ROUTE.DEST
stages one destination record; ROUTE.SILENCE writes the silence detector of a destination; ROUTE.READ and ROUTE.DSTAT
report; ROUTE.DISCARD empties the sender's staging lists. The model's choices that it rests on: log entries 29, 30, 32.
(R374, R142, R143, R148, R159, R361, R367) -/
def Obligations.RouteStaging : Prop :=
  (∀ r s n es ds l, Asks r s → n = r.f 0 0 16 → r.words.length = 1 + 4 * n → isStandby s = false →
    es = (List.range n).map (entryAt r 1) → ds = es.map (fun e => xpDest e.value) → mayOwnAll s r 3 ds 0 = .ok () →
    r.only [(0, mask 15 0)] = .ok () → n ≤ 62 → xpLegal s es 0 = .ok () → xpContract s es 0 = .ok () →
    quotaForAll s r 3 ds = .ok () → l = es.foldl (fun l e => stageXp l e.value) (seatOf s r.seat).routes → l.length ≤ 4096 →
    Replies 0x0400 r s (exec (.routeStage r) s) [] (fun x t =>
      t = updSeat r.seat (fun y => { y with routes := l }) (acquireAll r 3 ds x)))
  ∧ (∀ r s d v l, Asks r s → r.words.length = 5 → d = r.f 0 0 12 → v = r.ci 1 → isStandby s = false → MayChange r s 3 d →
    r.only [(0, mask 11 0), (1, 0xFFFFFFFF - mask 31 25)] = .ok () → -12288 ≤ toS 16 (bits v 0 16) → toS 16 (bits v 0 16) ≤ 0 →
    50 ≤ bits v 48 16 → bits v 48 16 ≤ 50000 → (PairWord.mk v (r.ci 3)).ok = true → d < nDests s →
    l = (seatOf s r.seat).dests.filter (fun p => p.1 != d) ++ [(d, v)] → l.length ≤ 1024 →
    Replies 0x0402 r s (exec (.routeDest r) s) [] (fun x t =>
      t = updSeat r.seat (fun y => { y with dests := l }) (acquire r 3 d x)))
  ∧ (∀ r s d, Asks r s → r.words.length = 3 → d = r.f 0 0 12 → isStandby s = false → MayChange r s 3 d →
    r.only [(0, mask 11 0), (2, mask 16 0)] = .ok () → d < nDests s →
    Replies 0x0403 r s (exec (.routeSilence r) s) [] (fun x t => t = writeSilence d (r.w 1) (r.w 2) (acquire r 3 d x)))
  ∧ (∀ r s d half all part, Asks r s → r.words.length = 1 → r.only [(0, mask 12 0 + mask 31 16)] = .ok () → d = r.f 0 0 12 →
    d < nDests s → half = (if r.f 0 12 1 = 1 then s.rte.shadow else s.rte.act) →
    all = half.filter (fun p => xpValid p.2.value && xpDest p.2.value == d) → part = (all.drop (r.f 0 16 16)).take 62 →
    Replies 0x0404 r s (exec (.routeRead r) s)
      ((part.length + 65536 * (if r.f 0 16 16 + part.length < all.length then r.f 0 16 16 + part.length else 0xFFFF)) ::
        (part.map (fun p => [lo32 p.2.value, hi32 p.2.value, lo32 p.2.comp, hi32 p.2.comp])).flatten) Same)
  ∧ (∀ r s d v, Asks r s → r.words.length = 1 → d = r.f 0 0 12 → (r.f 0 16 1 = 1 → owns s r.seat 3 d = true) →
    r.only [(0, mask 11 0 + 65536)] = .ok () → d < nDests s → v = (s.rte.actRec.get d recReset).value →
    Replies 0x0405 r s (exec (.routeDstat r) s) [destStatus (dstOf s d), lo32 (dstOf s d).silCi, lo32 v, hi32 v]
      (fun x t => t = if r.f 0 16 1 = 1 then updDst d (fun y => { y with clip := 0 }) x else x))
  ∧ (∀ r s, Asks r s → r.words.length = 0 → isStandby s = false →
    Replies 0x0406 r s (exec (.routeDiscard r) s) [(seatOf s r.seat).routes.length + (seatOf s r.seat).dests.length]
      (fun x t => t = updSeat r.seat (fun y => { y with routes := [], dests := [] }) x))

/-- On a running fabric, for members that are untagged, defined, not resynchronising and the sender's, ROUTE.COMMIT arms
one entry: the kind is 1 where the set has members, 6 (a marker) where it has none; its members are tagged with the
entry; with ROUTE the staged crosspoints and records are placed in the shadow and the staging lists emptied. The model's
choices that it rests on: log entries 24, 30, 33, 57. (R374, R150, R151, R34, R35, R361, R367) -/
def Obligations.RouteCommit : Prop :=
  (∀ r s pages insts e t ws, Asks r s → pages = bytesAt r 3 (r.f 2 8 8) →
    insts = halvesAt r (3 + (r.f 2 8 8 + 3) / 4) (r.f 2 16 10) →
    r.words.length = 3 + (r.f 2 8 8 + 3) / 4 + (r.f 2 16 10 + 1) / 2 → r.f 2 0 1 = 0 →
    insts.all (fun i => decide (i < 1024)) = true → insts.all (fun i => decide (i < maxDyn s)) = true → isStandby s = false →
    mayOwnAll s r 2 pages 0 = .ok () → mayOwnAll s r 4 insts 0 = .ok () → r.only [(2, 1 + mask 15 8 + mask 25 16)] = .ok () →
    pages.all (fun p => decide (pageTag s p < 64)) = true → insts.all (fun i => decide (dynTag s i < 64)) = true →
    insts.all (fun i => !s.dyn.recopy.contains i) = true → pages.all (fun p => (pageCopies s p).isSome) = true →
    insts.all (fun i => decide (i < s.fab.cal.dynCap)) = true → quotaForAll s r 2 pages = .ok () → quotaForAll s r 4 insts = .ok () →
    e = ⟨if pages = [] ∧ insts = [] then 6 else 1, r.seat, r.ci 0, false, pages, insts, [], false⟩ →
    relayed (fun y => do
      let a ← arm y r e
      .ok (tagSet a.1 e (acquireAll r 4 insts (acquireAll r 2 pages a.2.2)), schedReply a.1 a.2.1)) s = .ok (t, ws) →
    exec (.routeCommit r) s = replied 0x0401 r ws t)
  ∧ (∀ r s pages insts e pl t ws, Asks r s → pages = bytesAt r 3 (r.f 2 8 8) →
    insts = halvesAt r (3 + (r.f 2 8 8 + 3) / 4) (r.f 2 16 10) →
    r.words.length = 3 + (r.f 2 8 8 + 3) / 4 + (r.f 2 16 10 + 1) / 2 → r.f 2 0 1 = 1 →
    insts.all (fun i => decide (i < 1024)) = true → insts.all (fun i => decide (i < maxDyn s)) = true → isStandby s = false →
    mayOwnAll s r 2 pages 0 = .ok () → mayOwnAll s r 4 insts 0 = .ok () → r.only [(2, 1 + mask 15 8 + mask 25 16)] = .ok () →
    pages.all (fun p => decide (pageTag s p < 64)) = true → insts.all (fun i => decide (dynTag s i < 64)) = true →
    getF s RTE_SL_ROUTE_ARMED = 0 → getF s RTE_STAT_RESYNC = 0 →
    insts.all (fun i => !s.dyn.recopy.contains i) = true → pages.all (fun p => (pageCopies s p).isSome) = true →
    insts.all (fun i => decide (i < s.fab.cal.dynCap)) = true → quotaForAll s r 2 pages = .ok () → quotaForAll s r 4 insts = .ok () →
    e = ⟨1, r.seat, r.ci 0, true, pages, insts, [], false⟩ → placeXps s (seatOf s r.seat).routes [] [] = some pl →
    relayed (fun y => do
      let a ← arm y r e
      .ok (tagSet a.1 e (updSeat r.seat (fun t => { t with routes := [], dests := [] })
        { acquireAll r 4 insts (acquireAll r 2 pages a.2.2) with rte := { a.2.2.rte with
            shadow := pl.foldl (fun m p => m.set p.1 (PairWord.mk' p.2) xpNone) a.2.2.rte.shadow
            shRec := (seatOf s r.seat).dests.foldl (fun m p => m.set p.1 (PairWord.mk' p.2) recReset) a.2.2.rte.shRec
            held := (seatOf s r.seat).routes } }), schedReply a.1 a.2.1)) s = .ok (t, ws) →
    exec (.routeCommit r) s = replied 0x0401 r ws t)

/-- Each of the five setting commands, with its index in the variant, its objects the sender's or free, its words in
range and its bindings allowed by the image, answers what its batch of field changes answers (at target 0 at once, else
in the seat's batch for that course index) and leaves the state of that batch with the objects acquired. The model's
choices that it rests on: log entries 54, 57. (R375, R165, R176, R363, R123, R361, R367, R34) -/
def Obligations.PortSettings : Prop :=
  (∀ r s g t ws, Asks r s → r.words.length = 1 → g = r.f 0 0 3 → g < nGroups s → isStandby s = false → MayChange r s 6 g →
    r.only [(0, mask 5 0)] = .ok () → r.f 0 4 2 ≠ 3 →
    relayed (fun y => do
      let x ← portBatch y r 0 (some g) [(SP_GRP_CTL_MASTER g, r.f 0 3 1), (SP_GRP_CTL_FRAME g, r.f 0 4 2), (SP_GRP_CTL_PHASE g, 0)]
      .ok (acquire r 6 g x.1, [])) s = .ok (t, ws) →
    exec (.portGroup r) s = replied 0x0600 r ws t)
  ∧ (∀ r s n a t ws, Asks r s → r.words.length = 4 → n = r.f 0 0 6 → a = r.f 0 14 6 → n < nLanes s → isStandby s = false →
    MayChange r s 5 n → r.only [(0, mask 19 0), (1, mask 12 0 + mask 28 16)] = .ok () → r.f 0 8 2 ≠ 3 →
    (r.f 0 13 1 = 1 → a < nAsrc s ∧ MayChange r s 8 a ∧ asrcElsewhere s a n = false) →
    (r.f 0 6 1 = 1 → wordLen (r.f 0 10 2) ≤ chanBits (getF s (SP_GRP_CTL_FRAME (n / 8))) ∧
      (∀ k ∈ [r.f 1 0 13, r.f 1 16 13], (if r.f 0 7 1 = 1 then outBindOk s 0x24 k else inBindOk s 0x24 k) = true)) →
    (getF s (SP_LANE_CFG_EN n) = 0 ∨ getF s (SP_LANE_CFG_DIR n) = r.f 0 7 1) →
    relayed (fun y => do
      let x ← portBatch y r (r.ci 2) (some (n / 8))
          [(SP_LANE_CFG_EN n, r.f 0 6 1), (SP_LANE_CFG_DIR n, r.f 0 7 1), (SP_LANE_CFG_FMT n, r.f 0 8 2), (SP_LANE_CFG_WL n, r.f 0 10 2),
           (SP_LANE_CFG_NA_EN n, r.f 0 12 1), (SP_LANE_CFG_ASRC_EN n, r.f 0 13 1), (SP_LANE_CFG_ASRC n, a),
           (SP_LANE_BIND_SLOT_A n, r.f 1 0 13), (SP_LANE_BIND_SLOT_B n, r.f 1 16 13), (SP_LANE_BIND_BOUND n, r.f 0 6 1)]
      .ok ((if r.f 0 13 1 = 1 then acquire r 8 a (acquire r 5 n x.1) else acquire r 5 n x.1), x.2)) s = .ok (t, ws) →
    exec (.portLane r) s = replied 0x0601 r ws t)
  ∧ (∀ r s n a t ws, Asks r s → r.words.length = 3 → n = r.f 0 0 3 → a = r.f 0 6 6 → n < nAes s → nAes s ≤ 8 → isStandby s = false →
    MayChange r s 7 n → r.only [(0, mask 11 0 + mask 28 16)] = .ok () → r.f 0 16 13 % 8 ≠ 7 →
    (r.f 0 5 1 = 1 → a < nAsrc s ∧ MayChange r s 8 a ∧ asrcElsewhere s a (48 + n) = false) →
    (r.f 0 3 1 = 1 → inBindOk s 0x24 (r.f 0 16 13) = true) →
    relayed (fun y => do
      let x ← portBatch y r (r.ci 1) none
          [(AES_RX_CTL_EN n, r.f 0 3 1), (AES_RX_CTL_NA_EN n, r.f 0 4 1), (AES_RX_CTL_ASRC_EN n, r.f 0 5 1),
           (AES_RX_CTL_ASRC n, a), (AES_RX_CTL_SLOT_A n, r.f 0 16 13)]
      .ok ((if r.f 0 5 1 = 1 then acquire r 8 a (acquire r 7 n x.1) else acquire r 7 n x.1), x.2)) s = .ok (t, ws) →
    exec (.portAesrx r) s = replied 0x0602 r ws t)
  ∧ (∀ r s n a t ws, Asks r s → r.words.length = 3 → n = r.f 0 0 3 → a = r.f 0 10 6 → n < nAes s → nAes s ≤ 8 → isStandby s = false →
    MayChange r s 7 n → r.only [(0, mask 28 0)] = .ok () → r.f 0 16 13 % 8 ≠ 7 →
    (r.f 0 6 1 = 1 → a < nAsrc s ∧ r.f 0 7 3 < nAes s ∧ MayChange r s 8 a ∧ asrcElsewhere s a (64 + n) = false) →
    (r.f 0 3 1 = 1 → outBindOk s 0x24 (r.f 0 16 13) = true) →
    relayed (fun y => do
      let x ← portBatch y r (r.ci 1) none
          [(AES_TX_CTL_EN n, r.f 0 3 1), (AES_TX_CTL_CRC_GEN n, r.f 0 4 1), (AES_TX_CTL_V_OUT n, r.f 0 5 1),
           (AES_TX_CTL_TX_FOLLOW n, r.f 0 6 1), (AES_TX_CTL_FOLLOW_RX n, r.f 0 7 3), (AES_TX_CTL_ASRC n, a),
           (AES_TX_CTL_SLOT_A n, r.f 0 16 13)]
      .ok ((if r.f 0 6 1 = 1 then acquire r 8 a (acquire r 7 n x.1) else acquire r 7 n x.1), x.2)) s = .ok (t, ws) →
    exec (.portAestx r) s = replied 0x0603 r ws t)
  ∧ (∀ r s i t ws, Asks r s → r.words.length = 1 → i = r.f 0 0 6 → i < nAsrc s → (r.f 0 8 1 = 1 → r.f 0 9 6 < nAsrc s) →
    isStandby s = false → MayChange r s 8 i → r.only [(0, mask 14 0)] = .ok () →
    relayed (fun y => do
      let x ← portBatch y r 0 none [(SP_ASRC_CTL_EN i, r.f 0 6 1), (SP_ASRC_CTL_MODE i, r.f 0 7 1), (SP_ASRC_CTL_GANG_EN i, r.f 0 8 1),
          (SP_ASRC_CTL_LEADER i, r.f 0 9 6)]
      .ok (acquire r 8 i x.1, [])) s = .ok (t, ws) →
    exec (.portAsrc r) s = replied 0x0605 r ws t)

/-- PORT.CSTAT kinds 0 and 1 report a received buffer and change nothing; kinds 2 and 3 stage six words and, with COMMIT,
hand them to the transmitter. PORT.OUTEN with its three complements right and every changed bit the sender's writes the
output enables in one batch. PORT.STATUS reports the registers of one object and changes nothing. The model's choices
that it rests on: log entries 53, 55. (R375, R171, R174, R168, R358, R361, R367) -/
def Obligations.PortBuffersAndEnables : Prop :=
  (∀ r s, Asks r s → r.words.length = 1 → r.f 0 0 3 < nAes s → nAes s ≤ 8 → r.f 0 4 2 < 2 → r.f 0 8 1 = 0 →
    r.only [(0, mask 5 0 + 256)] = .ok () →
    Replies 0x0604 r s (exec (.portCstat r) s) (bufWords (aesBuf (aesOf s (r.f 0 0 3)) (r.f 0 4 2) (r.f 0 3 1))) Same)
  ∧ (∀ r s v, Asks r s → r.words.length = 7 → r.f 0 0 3 < nAes s → nAes s ≤ 8 → 2 ≤ r.f 0 4 2 → isStandby s = false →
    MayChange r s 7 (r.f 0 0 3) → r.only [(0, mask 5 0 + 256)] = .ok () →
    v = ((List.range 6).map (fun w => r.w (w + 1) % 4294967296 * 2 ^ (32 * w))).sum →
    Replies 0x0604 r s (exec (.portCstat r) s) (bufWords v) (fun x t =>
      t = (if r.f 0 8 1 = 1 then txCommit (r.f 0 0 3) (updAes (r.f 0 0 3) (putAesBuf (r.f 0 4 2) (r.f 0 3 1) v) (acquire r 7 (r.f 0 0 3) x))
        else updAes (r.f 0 0 3) (putAesBuf (r.f 0 4 2) (r.f 0 3 1) v) (acquire r 7 (r.f 0 0 3) x))))
  ∧ (∀ r s lanes t ws, Asks r s → r.words.length = 6 → lanes = r.w 0 + 4294967296 * r.w 2 → isStandby s = false →
    (∀ b ∈ bitsSet lanes 48, b < nLanes s) → (∀ b ∈ bitsSet (r.w 4) 8, b < nAes s) →
    ownsBits s r.seat 5 (getF s SP_OEN_LO_OEN + 4294967296 * getF s SP_OEN_HI_OEN) lanes 48 = true →
    ownsBits s r.seat 7 (getF s AES_OEN_OEN) (r.w 4) 8 = true → r.only [(2, mask 15 0), (4, mask 7 0)] = .ok () →
    r.w 1 = not32 (r.w 0) → r.w 3 = not32 (r.w 2) → r.w 5 = not32 (r.w 4) →
    relayed (fun y => do
      let x ← portBatch y r 0 none [(SP_OEN_LO_OEN, r.w 0), (SP_OEN_HI_OEN, r.w 2), (AES_OEN_OEN, r.w 4)]
      .ok ({ x.1 with oenDark := x.1.oenDark.filter (fun a =>
      !([SP_OEN_LO_OEN.addr, SP_OEN_HI_OEN.addr, AES_OEN_OEN.addr] : List Nat).contains a) }, [])) s = .ok (t, ws) →
    exec (.portOuten r) s = replied 0x0606 r ws t)
  ∧ (∀ r s i, Asks r s → r.words.length = 1 → i = r.f 0 8 8 → r.only [(0, mask 1 0 + mask 15 8)] = .ok () → r.f 0 0 2 = 0 → i < nLanes s →
    Replies 0x0607 r s (exec (.portStatus r) s)
      ([SP_LANE_STAT_NONAUDIO i, SP_LANE_CFG_EN i, SP_LANE_BIND_SLOT_A i].map (fun f => regWordRaw s f.addr)) Same)
  ∧ (∀ r s i, Asks r s → r.words.length = 1 → i = r.f 0 8 8 → r.only [(0, mask 1 0 + mask 15 8)] = .ok () → r.f 0 0 2 = 1 → i < nAes s →
    nAes s ≤ 8 →
    Replies 0x0607 r s (exec (.portStatus r) s)
      ([AES_RX_STAT_LOCK i, AES_RX_CNT_PARITY_ERR i, AES_RX_CTL_EN i].map (fun f => regWordRaw s f.addr)) Same)
  ∧ (∀ r s i, Asks r s → r.words.length = 1 → i = r.f 0 8 8 → r.only [(0, mask 1 0 + mask 15 8)] = .ok () → r.f 0 0 2 = 2 → i < nAsrc s →
    Replies 0x0607 r s (exec (.portStatus r) s)
      ([SP_ASRC_STAT_STATE i, SP_ASRC_RATIO_RATIO i, SP_ASRC_CTL_EN i].map (fun f => regWordRaw s f.addr)) Same)
  ∧ (∀ r s i, Asks r s → r.words.length = 1 → i = r.f 0 8 8 → r.only [(0, mask 1 0 + mask 15 8)] = .ok () → r.f 0 0 2 = 3 → i < nGroups s →
    Replies 0x0607 r s (exec (.portStatus r) s)
      [regWordRaw s (SP_GRP_STAT_WS_POS i).addr, regWordRaw s (SP_GRP_CTL_MASTER i).addr, 0] Same)

/-- AMP.CHANNEL, with its bindings allowed and D of its group long enough under the image, writes the channel and D in
one batch; AMP.GROUP writes the envelope of a group; AMP.BUS writes the bus settings at once; AMP.OUTEN the output
enables; AMP.CLEAR clears the channels named, all TRIPPED and the sender's; AMP.STATUS reports a channel and clears its
peaks, or reports a module. The model's choices that it rests on: log entries 55, 57, 80. (R380, R276, R277, R262, R358,
R363, R361, R367) -/
def Obligations.AmplifierCommands : Prop :=
  (∀ r s c l t ws, Asks r s → r.words.length = 5 → hasAmp s = true → c = r.f 0 0 5 → r.f 2 0 12 < nDests s → r.f 2 16 12 < nDests s →
    isStandby s = false → MayChange r s 16 c → owns s r.seat 3 (r.f 2 0 12) = true →
    r.only [(0, mask 10 0 + mask 31 16), (1, mask 12 0 + mask 28 16), (2, mask 11 0 + mask 27 16)] = .ok () →
    (r.f 0 5 1 = 1 → outBindOk s 0x25 (r.f 1 0 13) = true ∧ (envDelay s.fab.img (r.f 1 16 13) (r.f 1 0 13)).isSome = true) →
    l = [(AMP_CH_CFG_EN c, r.f 0 5 1), (AMP_CH_CFG_SIL_PD c, r.f 0 6 1), (AMP_CH_CFG_TRIP_POL c, r.f 0 7 1),
      (AMP_CH_CFG_TRIP_FILT c, r.f 0 8 2), (AMP_CH_PROT_OC_EN c, r.f 0 10 1), (AMP_CH_PROT_OC_LIMIT c, r.f 0 16 16),
      (AMP_CH_SRC_SLOT c, r.f 1 0 13), (AMP_CH_SRC_ENV_SLOT c, r.f 1 16 13), (AMP_CH_DEST_DEST c, r.f 2 0 12),
      (AMP_CH_DEST_SIL_DEST c, r.f 2 16 12)] →
    groupOk (putFs l s) s.fab.img (c / 4) = true →
    relayed (fun y => do
      let x ← portBatch y r (r.ci 3) none (l ++ [(AMP_GRP_ENV2_D (c / 4), min (groupD (putFs l s) s.fab.img (c / 4)) 65535)])
      .ok (acquire r 16 c x.1, x.2)) s = .ok (t, ws) →
    exec (.ampChannel r) s = replied 0x0B00 r ws t)
  ∧ (∀ r s g t ws, Asks r s → r.words.length = 3 → hasAmp s = true → g = r.f 0 0 3 → isStandby s = false → MayChange r s 17 g →
    r.only [(0, mask 2 0), (1, mask 23 0), (2, mask 15 0)] = .ok () → groupOk s s.fab.img g = true →
    relayed (fun y => do
      let x ← portBatch y r 0 none [(AMP_GRP_ENV_V_FS g, r.f 1 0 12), (AMP_GRP_ENV_HEADROOM g, r.f 1 12 12),
          (AMP_GRP_ENV2_REL_SLEW g, r.f 2 0 16), (AMP_GRP_ENV2_D g, min (groupD s s.fab.img g) 65535)]
      .ok (acquire r 17 g x.1, [])) s = .ok (t, ws) →
    exec (.ampGroup r) s = replied 0x0B01 r ws t)
  ∧ (∀ r s, Asks r s → r.words.length = 3 → hasAmp s = true → isStandby s = false → MayChange r s 18 0 →
    r.only [(0, mask 18 0), (1, mask 6 0), (2, mask 11 0 + mask 27 16)] = .ok () →
    Replies 0x0B02 r s (exec (.ampBus r) s) [] (fun x t => t = acquire r 18 0 (busRewritten (r.f 0 1 1 == 1) x
      (putFs [(AMP_CTL_EN, r.f 0 0 1), (AMP_MKL_CFG_DISC_EN, r.f 0 1 1), (AMP_MKL_CFG_ALLOW_3L, r.f 0 2 1),
        (AMP_MKL_CFG_DT_FLOOR, r.f 0 3 8), (AMP_CTL_STAGGER, r.f 0 11 8), (AMP_CTL_MIN_PULSE, r.f 1 0 7),
        (AMP_MKL_RAIL_LIM_MIN, r.f 2 0 12), (AMP_MKL_RAIL_LIM_MAX, r.f 2 16 12)] x))))
  ∧ (∀ r s t ws, Asks r s → r.words.length = 2 → hasAmp s = true → isStandby s = false →
    ownsBits s r.seat 16 (getF s AMP_OEN_OEN) (r.w 0) 32 = true → r.w 1 = not32 (r.w 0) →
    relayed (fun y => do
      let x ← portBatch y r 0 none [(AMP_OEN_OEN, r.w 0)]
      .ok ({ x.1 with oenDark := x.1.oenDark.filter (· != AMP_OEN_OEN.addr) }, [])) s = .ok (t, ws) →
    exec (.ampOuten r) s = replied 0x0B03 r ws t)
  ∧ (∀ r s, Asks r s → r.words.length = 1 → hasAmp s = true → isStandby s = false →
    (∀ c ∈ bitsSet (r.w 0) 32, owns s r.seat 16 c = true ∧ getF s (AMP_CH_STAT_STATE c) = 5) →
    Replies 0x0B04 r s (exec (.ampClear r) s) [] (fun x t => t = ampClear (r.w 0) x))
  ∧ (∀ r s i, Asks r s → r.words.length = 1 → hasAmp s = true → i = r.f 0 0 5 → r.f 0 8 1 = 0 → r.only [(0, mask 4 0 + 256)] = .ok () →
    Replies 0x0B05 r s (exec (.ampStatus r) s) ([AMP_CH_STAT_STATE i, AMP_CH_MEAS_I_PEAK i, AMP_GRP_SET_SETPOINT (i / 4)].map
      (fun f => regWordRaw s f.addr)) (fun x t => OnlyFields x t [(AMP_CH_MEAS_I_PEAK i, 0), (AMP_CH_MEAS_V_PEAK i, 0)]))
  ∧ (∀ r s i, Asks r s → r.words.length = 1 → hasAmp s = true → i = r.f 0 0 5 → r.f 0 8 1 = 1 → i < 8 → r.only [(0, mask 4 0 + 256)] = .ok () →
    Replies 0x0B05 r s (exec (.ampStatus r) s) (regWordRaw s (AMP_MOD_STAT_STATE i).addr ::
      ((List.range 6).map (fun k => (ampMod s i).caps.getD k 0) ++ [(ampMod s i).status.getD 0 0, (ampMod s i).status.getD 1 0])) Same)

/-- STREAM.RX of a stream index that is not enabled puts its classifier entries at the lowest free indexes, takes the
lowest playout buffer and channel map span that fit and writes the receive entry disabled; STREAM.TX takes the lowest
channel map span and writes the transmit entry disabled. Both reply the index and the places, and the stream becomes the
sender's. The model's choices that it rests on: log entries 65, 66. (R377, R203, R204, R207, R361, R367, R353) -/
def Obligations.StreamSetup : Prop :=
  (∀ r s i fmt pt ch legs es want d tab buf map t, Asks r s → r.words.length = 10 → strIndex s r false = .ok i →
    legs = (if r.f 1 13 1 == 1 then [4, 7] else [4]) → legs.all (fun w => decide (r.f (w + 1) 16 2 < nMacs s)) = true →
    isStandby s = false → MayChange r s 9 i →
    r.only [(0, mask 9 0 + mask 31 31), (1, mask 25 0), (5, mask 18 0), (8, mask 18 0)] = .ok () →
    fmt = r.f 1 0 2 → pt = r.f 1 2 3 → ch = r.f 1 5 7 → pt ≤ 4 → 1 ≤ ch → ch ≤ 64 → (r.f 1 22 4 ≤ 7 ∨ r.f 1 22 4 = 15) →
    legs.all (fun w => decide (strFrameLen s fmt pt ch true ≤ getF s (MAC_MAXLEN_RX_MAX (r.f (w + 1) 16 2)))) = true →
    ef (rxEntry s i) 0 0 1 = 0 → (r.f 1 13 1 = 1 ∨ r.w 7 = 0 ∧ r.w 8 = 0 ∧ r.w 9 = 0) →
    es = legs.map (fun w => legEntry r w i (b2n (w == 7))) → (es.map clsKey).eraseDups.length = es.length →
    (clsWithout s i).any (fun p => ef p.2 1 20 1 == 1 && es.any (fun e => clsKey e == clsKey p.2)) = false →
    want = r.f 2 0 16 + r.f 2 16 16 + fwPacketLen s pt + 2 →
    d = (if r.f 1 22 4 = 15 then ((List.range 8).find? (fun d => want ≤ 2 ^ (d + 6))).getD 8 else r.f 1 22 4) →
    d ≤ 7 → want ≤ 2 ^ (d + 6) → clsInsert (clsWithout s i) es = some tab → fitBuffer s i (bufferWords d ch) = some buf →
    fitSpan (mapSpans s false i) 0 2048 ch 1 = some map →
    t = [2 * fmt + 8 * pt + 64 * ch + 8192 * r.f 1 12 1 + 16384 * r.f 1 13 1 + 32768 * r.f 1 14 1 + 65536 * map,
      r.w 2, r.w 3, buf + 16777216 * d, r.f 1 15 7, 0] →
    Replies 0x0800 r s (exec (.streamRx r) s) [i, buf, d, map] (fun x u =>
      u = settled (acquire r 9 i { x with str := { x.str with cls := tab, rx := x.str.rx.put i t } })))
  ∧ (∀ r s i fmt pt ch map t, Asks r s → r.words.length = 9 → strIndex s r true = .ok i → r.f 1 12 2 < nMacs s →
    isStandby s = false → MayChange r s 10 i → r.only [(0, mask 9 0 + mask 31 31), (1, mask 28 0), (7, mask 15 0)] = .ok () →
    fmt = r.f 1 0 2 → pt = r.f 1 2 3 → ch = r.f 1 5 7 → pt ≤ 4 → 1 ≤ ch → ch ≤ 64 →
    strFrameLen s fmt pt ch (r.f 1 15 1 == 1) ≤ 9600 → ef (txEntry s i) 0 0 1 = 0 → fitSpan (mapSpans s true i) 0 2048 ch 1 = some map →
    t = [2 * fmt + 8 * pt + 64 * ch + 8192 * r.f 1 12 2 + 32768 * r.f 1 14 1 + 65536 * map + 134217728 * r.f 1 15 1,
      r.w 2, r.w 3, r.w 4, r.f 5 0 16 + 65536 * r.f 1 23 6 + 4194304 * r.f 1 16 7, r.w 6, r.f 7 0 16 + 65536 * r.f 5 16 16, r.w 8] →
    Replies 0x0801 r s (exec (.streamTx r) s) [i, map] (fun x u =>
      u = settled (acquire r 10 i { x with str := { x.str with tx := x.str.tx.put i t } })))

/-- STREAM.MAP writes consecutive map entries of an existing stream as one batch, and with no entries nothing;
STREAM.ENABLE starts or stops one within the ceilings; STREAM.DELETE removes a disabled stream with its classifier
entries and map span, and its object; STREAM.STATUS reports the counters and clears them where asked by the owner. The
model's choices that it rests on: log entries 57, 65, 66. (R377, R204, R215, R216, R123, R353, R361, R363, R367) -/
def Obligations.StreamOperation : Prop :=
  (∀ r s, Asks r s → r.words.length = 4 → r.f 1 8 6 = 0 → strRef s r (mask 9 0 + 65536) = .ok () →
    r.only [(1, mask 5 0 + mask 13 8)] = .ok () →
    Replies 0x0802 r s (exec (.streamMap r) s) [0xFF, 0, 0] Same)
  ∧ (∀ r s n tx i e hs t ws, Asks r s → n = r.f 1 8 6 → n ≠ 0 → r.words.length = 4 + (n + 1) / 2 → tx = (r.f 0 16 1 == 1) → i = r.f 0 0 10 →
    strRef s r (mask 9 0 + 65536) = .ok () → r.only [(1, mask 5 0 + mask 13 8)] = .ok () → hs = fwStreamMap.halvesAt' r 4 n →
    (∀ h ∈ hs, bits h 13 2 = 0) → strExists s tx i = true → e = strEntry s tx i → r.f 1 0 6 + n ≤ ef e 0 6 7 →
    (∀ h ∈ hs, bitOf h 15 = true → (if tx then outBindOk s 0x20 (bits h 0 13) else inBindOk s 0x20 (bits h 0 13)) = true) →
    quotaFor s r (strKind tx) i = .ok () →
    relayed (fun y => do
      let x ← optionalBatch y r (r.ci 2) (((List.range n).zip hs).map (fun p => BufChange.chan tx i (ef e 0 16 11 + r.f 1 0 6 + p.1) p.2))
          (fun y => settled ((((List.range n).zip hs).map (fun p => BufChange.chan tx i (ef e 0 16 11 + r.f 1 0 6 + p.1) p.2)).foldl
            (fun y c => applyChange c y) y))
      .ok (acquire r (strKind tx) i x.1, x.2)) s = .ok (t, ws) →
    exec (.streamMap r) s = replied 0x0802 r ws t)
  ∧ (∀ r s tx en i t ws, Asks r s → r.words.length = 3 → tx = (r.f 0 16 1 == 1) → en = (r.f 0 17 1 == 1) → i = r.f 0 0 10 →
    strRef s r (mask 9 0 + mask 17 16) = .ok () → strExists s tx i = true → quotaFor s r (strKind tx) i = .ok () →
    (en = true → ef (strEntry s tx i) 0 0 1 = 1 ∨ strRoom s tx i = true) →
    relayed (fun y => do
      let x ← optionalBatch y r (r.ci 1) [.strEn tx i en]
          (fun y => settled (applyChange (.strEn tx i en) y))
      .ok (acquire r (strKind tx) i x.1, x.2)) s = .ok (t, ws) →
    exec (.streamEnable r) s = replied 0x0803 r ws t)
  ∧ (∀ r s i e, Asks r s → r.words.length = 1 → r.f 0 16 1 = 1 → i = r.f 0 0 10 → strRef s r (mask 9 0 + 65536) = .ok () →
    e = txEntry s i → ef e 0 6 7 ≠ 0 → ef e 0 0 1 = 0 → (txStr s i).active = false →
    Replies 0x0804 r s (exec (.streamDelete r) s) [] (fun x t => t = freeObj 10 i { x with str := { x.str with
      tx := x.str.tx.erase i
      txSt := x.str.txSt.erase i
      txMap := x.str.txMap.filter (fun p => decide (p.1 < ef e 0 16 11) || decide (ef e 0 16 11 + ef e 0 6 7 ≤ p.1)) } }))
  ∧ (∀ r s i e, Asks r s → r.words.length = 1 → r.f 0 16 1 = 0 → i = r.f 0 0 10 → strRef s r (mask 9 0 + 65536) = .ok () →
    e = rxEntry s i → ef e 0 6 7 ≠ 0 → ef e 0 0 1 = 0 → (rxStr s i).active = false →
    Replies 0x0804 r s (exec (.streamDelete r) s) [] (fun x t => t = freeObj 9 i { x with str := { x.str with
      rx := x.str.rx.erase i
      rxSt := x.str.rxSt.erase i
      rxMap := x.str.rxMap.filter (fun p => decide (p.1 < ef e 0 16 11) || decide (ef e 0 16 11 + ef e 0 6 7 ≤ p.1))
      cls := clsWithout s i } }))
  ∧ (∀ r s i, Asks r s → r.words.length = 1 → r.f 0 16 1 = 1 → i = r.f 0 0 10 → i < nTxs s →
    r.only [(0, mask 9 0 + 65536 + 262144)] = .ok () → (r.f 0 18 1 = 1 → isStandby s = false ∧ owns s r.seat 10 i = true) →
    Replies 0x0805 r s (exec (.streamStatus r) s) ((List.range 3).map (strRead s 6 i))
      (fun x t => t = if r.f 0 18 1 = 1 then updTx i (fun y => { y with pkt := 0, drop := 0 }) x else x))
  ∧ (∀ r s i, Asks r s → r.words.length = 1 → r.f 0 16 1 = 0 → i = r.f 0 0 10 → i < nRxs s →
    r.only [(0, mask 9 0 + 65536 + 262144)] = .ok () → (r.f 0 18 1 = 1 → isStandby s = false ∧ owns s r.seat 9 i = true) →
    Replies 0x0805 r s (exec (.streamStatus r) s) ((List.range 3).map (strRead s 2 i) ++ (List.range 7).map (strRead s 3 i))
      (fun x t => t = if r.f 0 18 1 = 1 then strClear i x else x))

/-- With CLOCK the sender's or free and the words in range, CLK.REF configures a reference, SELECT the selection without
a change of the family, DPLL the loop, FREQ the steered frequency, STEP a phase step with the sum still in range, QUALITY
the trim, the quality levels and one table entry, OUTPUT every clock output; STATUS reports. Each then lets the state
machine judge what it wrote. The model's choices that it rests on: log entry 9. (R379, R236, R239, R240, R244, R252,
R253, R258, R259, R260, R261, R367) -/
def Obligations.ClockCommands : Prop :=
  (∀ r s k, Asks r s → r.words.length = 5 → k = r.f 0 0 3 → MayChange r s 15 0 →
    r.only [(0, mask 11 0), (1, mask 15 0), (2, mask 19 0), (3, mask 23 0)] = .ok () → r.w 1 ≠ 0 →
    (1 ≤ k ∧ k ≤ 6 → 1 ≤ r.w 3 ∧ r.w 3 ≤ clkBase s ∧ r.f 4 0 20 ≠ 0) →
    Replies 0x0A00 r s (exec (.clkRef r) s) [] (fun x t => t = refreshClk (putFs [(CLK_REF_CFG_EN k, r.f 0 3 1),
      (CLK_REF_CFG_PRIO k, r.f 0 4 4), (CLK_REF_CFG_QL_HOST k, r.f 0 8 4), (CLK_REF_CFG_WIN k, r.w 1), (CLK_REF_TIME_DQ k, r.f 2 0 8),
      (CLK_REF_TIME_WTR k, r.f 2 8 12), (CLK_REF_DIVN_N k, r.w 3), (CLK_REF_DIVM_M k, r.f 4 0 20),
      (CLK_REF_DIVM_REF_OFS k, r.f 4 20 12)] (acquire r 15 0 x))))
  ∧ (∀ r s, Asks r s → r.words.length = 2 → MayChange r s 15 0 → r.only [(0, mask 6 0)] = .ok () → r.w 1 = not32 (r.w 0) →
    r.f 0 6 1 = (if running s then getF s FAB_TL_STATUS_FAMILY else getF s CLK_SEL_FAMILY) →
    Replies 0x0A01 r s (exec (.clkSelect r) s) [] (fun x t => t = refreshClk (putFs [(CLK_SEL_SEL_MODE, r.f 0 0 2),
      (CLK_SEL_FORCE_REF, r.f 0 2 3), (CLK_SEL_REVERTIVE, r.f 0 5 1), (CLK_SEL_FAMILY, r.f 0 6 1)] (acquire r 15 0 x))))
  ∧ (∀ r s, Asks r s → r.words.length = 1 → MayChange r s 15 0 → 1 ≤ r.f 0 6 7 → r.f 0 6 7 ≤ 100 → r.f 0 17 15 ≠ 0 →
    Replies 0x0A02 r s (exec (.clkDpll r) s) [] (fun x t => t = refreshClk (writeDpll (r.w 0) (acquire r 15 0 x))))
  ∧ (∀ r s, Asks r s → r.words.length = 1 → MayChange r s 15 0 → (toS 32 (r.w 0)).natAbs ≤ 219902325 → getF s CLK_STAT_STEER ≠ 0 →
    Replies 0x0A03 r s (exec (.clkFreq r) s) [] (fun x t => t = writeFreq (r.w 0) (acquire r 15 0 x)))
  ∧ (∀ r s, Asks r s → r.words.length = 1 → MayChange r s 15 0 → r.only [(0, mask 19 0)] = .ok () →
    (toS 16 (getF s CLK_PSTEP_STEP) + toS 16 (r.w 0)).natAbs ≤ 32767 →
    exec (.clkStep r) s = .next (answer 0x0A04 r (fun x => .ok (phaseStep (r.w 0) (acquire r 15 0 x),
      [ofS 32 (toS 16 (getF (phaseStep (r.w 0) (acquire r 15 0 x)) CLK_PSTEP_STEP))])) s))
  ∧ (∀ r s e, Asks r s → r.words.length = 4 → MayChange r s 15 0 → r.only [(1, mask 7 0), (2, mask 3 0), (3, mask 27 0 + mask 31 31)] = .ok () →
    (toS 32 (r.w 0)).natAbs ≤ 100000 → e = r.f 2 0 3 →
    Replies 0x0A05 r s (exec (.clkQuality r) s) [] (fun x t => t = refreshClk (setRatioRegs (putFs
      ([(CLK_XO_TRIM_TRIM, r.w 0), (CLK_AES11_QL_G1_QL, r.f 1 0 4), (CLK_AES11_QL_G2_QL, r.f 1 4 4)] ++
        (if r.f 2 3 1 = 1 then [(CLK_PTPQ_CLASS_MIN e, r.f 3 0 8), (CLK_PTPQ_CLASS_MAX e, r.f 3 8 8), (CLK_PTPQ_ACC_MAX e, r.f 3 16 8),
          (CLK_PTPQ_QL e, r.f 3 24 4), (CLK_PTPQ_VALID e, r.f 3 31 1)] else [])) (acquire r 15 0 x)))))
  ∧ (∀ r s, Asks r s → r.words.length = 10 → (hasAmp s = true ∨ r.f 0 6 8 = 0 ∧ r.w 8 = 0 ∧ r.w 9 = 0) → MayChange r s 15 0 →
    r.only [(0, mask 13 0), (2, mask 3 0), (3, mask 3 0), (4, mask 3 0), (5, mask 3 0), (6, mask 6 0 + mask 31 8),
      (7, mask 6 0 + mask 31 8), (8, mask 2 0), (9, 1)] = .ok () → r.w 1 = not32 (r.w 0) → (∀ k ∈ [2, 3, 4, 5], r.f k 2 2 ≠ 3) →
    (∀ k ∈ [6, 7], r.f k 1 2 ≠ 3 ∧ r.f k 3 3 ≤ 4 ∧ (toS 24 (r.f k 8 24)).natAbs < 24576 / 2 ^ min (r.f k 1 2) 2) →
    Replies 0x0A06 r s (exec (.clkOutput r) s) [] (fun _ t => getF t CLK_OEN_MCLKO = r.f 0 0 4 ∧ getF t CLK_OEN_WCO = r.f 0 4 2
      ∧ getF t CLK_OEN_SDMCLK = r.f 0 6 8 ∧ getF t CLK_SDM_CFG_EN = r.f 8 2 1
      ∧ (∀ k, k < 4 → getF t (CLK_MCLK_CFG_EN k) = r.f (2 + k) 0 1 ∧ getF t (CLK_MCLK_CFG_K k) = r.f (2 + k) 2 2)
      ∧ (∀ k, k < 2 → getF t (CLK_WCO_CFG_EN k) = r.f (6 + k) 0 1 ∧ getF t (CLK_WCO_CFG_OFFSET k) = r.f (6 + k) 8 24)))
  ∧ (∀ r s, Asks r s → r.words.length = 1 → r.only [(0, 7)] = .ok () →
    Replies 0x0A07 r s (exec (.clkStatus r) s) ([CLK_STAT_STATE, CLK_ALARM_SWITCH, CLK_PHASE_ERR_ERR, CLK_BUILDOUT_B, CLK_HOLDOVER_HO_FREQ,
      CLK_REF_STAT_STATE (r.f 0 0 3), CLK_REF_FREQ_OFFSET (r.f 0 0 3), CLK_SYN_STAT_LOCK].map (fun f => regWordRaw s f.addr)) Same)

/-- With the MAC the sender's or free, NET.MAC writes its settings, limits and first address filter and lets the link be
judged, NET.IP the source address, TTL and tags, NET.PHY the polling descriptor and map. NET.MDIO performs one
transaction, replying the word written or, for a read, what the PHY answers, a free value. NET.STATS reports the link and
the 48 counters, after a snapshot where asked. The model's choices that it rests on: log entries 63, 64. (R376, R182,
R183, R187, R192, R218, R361, R367) -/
def Obligations.NetCommands : Prop :=
  (∀ r s m, Asks r s → r.words.length = 5 → m = r.f 0 0 2 → m < nMacs s → MayChange r s 11 m →
    r.only [(0, mask 17 0), (1, mask 13 0 + mask 29 16), (2, mask 15 0), (4, mask 15 0)] = .ok () →
    1518 ≤ r.f 1 0 14 → r.f 1 0 14 ≤ 9600 → 64 ≤ r.f 1 16 14 → r.f 1 16 14 ≤ 9600 →
    (getF s (MAC_CTL_EN m) = 0 ∨ getF s (MAC_CTL_MODE m) = r.f 0 3 1 ∧ getF s (MAC_CTL_RATE_SRC m) = r.f 0 4 2 ∧
      getF s (MAC_CTL_FIXED_RATE m) = r.f 0 6 3 ∧ getF s (MAC_CTL_RATE_EN m) = r.f 0 9 4) →
    Replies 0x0700 r s (exec (.netMac r) s) [] (fun x t => t = judgeLink m (putFs
      [(MAC_CTL_EN m, r.f 0 2 1), (MAC_CTL_MODE m, r.f 0 3 1), (MAC_CTL_RATE_SRC m, r.f 0 4 2), (MAC_CTL_FIXED_RATE m, r.f 0 6 3),
        (MAC_CTL_RATE_EN m, r.f 0 9 4), (MAC_CTL_BC_EN m, r.f 0 13 1), (MAC_CTL_MC_PASS m, r.f 0 14 1), (MAC_CTL_STRIP_EN m, r.f 0 15 1),
        (MAC_PAUSE_PAUSE_EN m, r.f 0 16 1), (MAC_CTL_LINK_FORCE m, r.f 0 17 1), (MAC_MAXLEN_RX_MAX m, r.f 1 0 14),
        (MAC_MAXLEN_TX_CTRL_MAX m, r.f 1 16 14), (MAC_PAUSE_WD_US m, r.f 2 0 16), (MAC_AF_LO_ADDR_LO m 0, r.w 3),
        (MAC_AF_HI_ADDR_HI m 0, r.f 4 0 16), (MAC_AF_HI_VALID m 0, 1)] (acquire r 11 m x))))
  ∧ (∀ r s m, Asks r s → r.words.length = 5 → m = r.f 0 0 2 → m < nMacs s → MayChange r s 11 m →
    r.only [(0, 3), (4, mask 8 0 + mask 31 16)] = .ok () →
    Replies 0x0701 r s (exec (.netIp r) s) [] (fun x t => ∃ y, t = { y with fw := { y.fw with ip := y.fw.ip.put m [r.w 1, r.w 2, r.w 3] } } ∧
      OnlyFields (acquire r 11 m x) y [(STR_IP_SRC_IP m, r.w 1), (STR_IPCFG_TTL m, r.f 4 0 8), (MAC_TX_TAG_TCI m 0, r.f 4 16 16),
        (MAC_TX_TAG_TAG_INS m 0, r.f 4 8 1), (MAC_TX_TAG_TCI m 1, r.f 4 16 16), (MAC_TX_TAG_TAG_INS m 1, r.f 4 8 1)]))
  ∧ (∀ r s m, Asks r s → r.words.length = 3 → m = r.f 0 0 2 → m < nMacs s → MayChange r s 11 m → r.only [(0, 3), (2, mask 19 0)] = .ok () →
    Replies 0x0702 r s (exec (.netPhy r) s) [] (fun x t => OnlyFields (acquire r 11 m x) t
      [(MAC_PHY_PHYAD m, r.f 1 0 5), (MAC_PHY_CL45 m, r.f 1 5 1), (MAC_PHY_DEVAD m, r.f 1 6 5), (MAC_PHY_INTERVAL m, r.f 1 11 5),
       (MAC_PHY_REG m, r.f 1 16 16), (MAC_PHY_MAP_LINK_BIT m, r.f 2 0 4), (MAC_PHY_MAP_SPD_SHIFT m, r.f 2 4 4),
       (MAC_PHY_MAP_CODE0 m, r.f 2 8 3), (MAC_PHY_MAP_CODE1 m, r.f 2 11 3), (MAC_PHY_MAP_CODE2 m, r.f 2 14 3),
       (MAC_PHY_MAP_CODE3 m, r.f 2 17 3)]))
  ∧ (∀ r s b op, Asks r s → r.words.length = 2 → b = r.f 0 0 1 → b < nMdio s →
    (owns s r.seat 11 (2 * b) = true ∨ owns s r.seat 11 (2 * b + 1) = true) → r.only [(0, mask 13 0), (1, mask 15 0)] = .ok () →
    op = ⟨255, r.f 0 1 5, r.f 0 6 5, r.f 0 11 1, r.f 0 12 2, r.f 1 0 16⟩ →
    exec (.netMdio r) s = .next (answer 0x0703 r (fun y =>
      let t := mdioStart b op (putFs [(MDIO_CMD_PHYAD b, r.f 0 1 5), (MDIO_CMD_DEVAD b, r.f 0 6 5), (MDIO_CMD_CL45 b, r.f 0 11 1),
        (MDIO_CMD_OP b, r.f 0 12 2), (MDIO_DATA_DATA b, r.f 1 0 16)] y)
      .ok (if r.f 0 12 2 < 2 then (t, [r.f 1 0 16])
        else (putF (MDIO_DATA_DATA b) ((Config.freeWord (takeFree t).1).toNat % 65536) (takeFree t).2,
          [(Config.freeWord (takeFree t).1).toNat % 65536]))) s))
  ∧ (∀ r s m, Asks r s → r.words.length = 1 → m = r.f 0 0 2 → m < nMacs s → r.only [(0, mask 1 0 + 256)] = .ok () → r.f 0 8 1 = 0 →
    Replies 0x0704 r s (exec (.netStats r) s)
      (regWordRaw s (MAC_LINK_LINK_UP m).addr :: (List.range 48).map (fun i => getF s (MAC_CNT_COUNT m i))) Same)
  ∧ (∀ r s m, Asks r s → r.words.length = 1 → m = r.f 0 0 2 → m < nMacs s → r.only [(0, mask 1 0 + 256)] = .ok () → r.f 0 8 1 = 1 →
    owns s r.seat 11 m = true →
    Replies 0x0704 r s (exec (.netStats r) s)
      (regWordRaw s (MAC_LINK_LINK_UP m).addr :: (List.range 48).map (fun i => getF (snapCounters m s) (MAC_SNAP_COUNT m i)))
      (fun x t => t = snapCounters m x))

/-- TIME.PTP writes the PTP settings of the firmware; STATUS reports; CPO, while stopped, writes FAB_CPO within the next
start's rate; REANCHOR arms an entry of kind 4; PULSE writes start, period and width and controls one output; CAPTURE
sets an input; CAPREAD reads and empties its FIFO; LATENCY writes the two latencies of a MAC. The model's choices that it
rests on: log entries 72, 73, 126. (R378, R25, R31, R226, R228, R229, R230, R232, R361, R363, R367) -/
def Obligations.TimeCommands : Prop :=
  (∀ r s, Asks r s → r.words.length = 4 → r.f 0 0 2 < nMacs s → MayChange r s 12 0 → r.only [(0, mask 5 0), (1, mask 23 0)] = .ok () →
    Replies 0x0900 r s (exec (.timePtp r) s) [] (fun x t =>
      t = (if r.f 0 5 1 = 1 then setPtp { (acquire r 12 0 x).fw.ptp with cfg := r.words, portState := 4 } (acquire r 12 0 x)
        else refreshClk (putFs [(CLK_REF0_ANN_ANN_VALID, 0), (CLK_REF0_ANN_SERVO_LOCK, 0)]
          (setPtp { (acquire r 12 0 x).fw.ptp with cfg := r.words, portState := 3 } (acquire r 12 0 x))))))
  ∧ (∀ r s, Asks r s → r.words.length = 0 →
    Replies 0x0901 r s (exec (.timeStatus r) s) [s.fw.ptp.portState, lo32 s.fw.ptp.gmId, hi32 s.fw.ptp.gmId,
      s.fw.ptp.gmClass + 256 * s.fw.ptp.gmAcc, s.fw.ptp.offset, s.fw.ptp.pathDelay, lo32 s.ptp.sec, hi32 s.ptp.sec, s.ptp.ns] Same)
  ∧ (∀ r s, Asks r s → r.words.length = 2 → isStandby s = false → MayChange r s 1 0 → MayChange r s 12 0 → r.w 0 < 32768 →
    r.w 1 = not32 (r.w 0) → r.w 0 * nextRate s < 1000000000 → running s = false →
    Replies 0x0902 r s (exec (.timeCpo r) s) [] (fun x t => OnlyFields (acquire r 12 0 (acquire r 1 0 x)) t [(FAB_CPO_CPO_NS, r.w 0)]))
  ∧ (∀ r s t ws, Asks r s → r.words.length = 2 → isStandby s = false → MayChange r s 1 0 → MayChange r s 12 0 → running s = true →
    relayed (fun y => do
      let a ← arm y r ⟨4, r.seat, r.ci 0, false, [], [], [], false⟩
      .ok (acquire r 12 0 (acquire r 1 0 a.2.2), (schedReply a.1 a.2.1))) s = .ok (t, ws) →
    exec (.timeReanchor r) s = replied 0x0903 r ws t)
  ∧ (∀ r s o start, Asks r s → r.words.length = 6 → o = r.f 0 0 3 → MayChange r s 13 o → r.only [(0, mask 5 0), (2, mask 15 0)] = .ok () →
    r.w 3 < 1000000000 → start = ((r.w 1 + 4294967296 * r.w 2) * 1000000000 + r.w 3) % 281474976710656 →
    Replies 0x0904 r s (exec (.timePulse r) s) [] (fun x t =>
      t = pulseControl o (r.f 0 3 1 == 1) (r.f 0 4 1 == 1) (r.f 0 5 1 == 1) (putFs [(PTPO_START_LO_START o, start),
        (PTPO_START_HI_START o, start / 4294967296), (PTPO_PERIOD_PERIOD o, r.w 4), (PTPO_WIDTH_WIDTH o, r.w 5)] (acquire r 13 o x))))
  ∧ (∀ r s i, Asks r s → r.words.length = 1 → i = r.f 0 0 3 → MayChange r s 14 i → r.only [(0, mask 5 0)] = .ok () →
    Replies 0x0905 r s (exec (.timeCapture r) s) [] (fun x t => OnlyFields (acquire r 14 i x) t [(PTPI_CTL_EN i, r.f 0 3 1),
      (PTPI_CTL_EDGE i, r.f 0 4 2)]))
  ∧ (∀ r s i, Asks r s → r.words.length = 1 → i = r.f 0 0 3 → MayChange r s 14 i → r.only [(0, 7)] = .ok () →
    Replies 0x0906 r s (exec (.timeCapread r) s) (((captures s i).length + 32 * getF s (PTPI_STAT_OVF i)) ::
      ((captures s i).map (fun c => [timeOfLin s c.lin / 1000000000 % 4294967296,
        timeOfLin s c.lin / 1000000000 / 4294967296 + 65536 * b2n c.rise, timeOfLin s c.lin % 1000000000])).flatten)
      (fun x t => t = putCaptures i [] (acquire r 14 i x)))
  ∧ (∀ r s m, Asks r s → r.words.length = 3 → m = r.f 0 0 2 → m < nMacs s → MayChange r s 12 0 →
    r.only [(0, 3), (1, mask 15 0), (2, mask 15 0)] = .ok () →
    Replies 0x0907 r s (exec (.timeLatency r) s) [] (fun x t => OnlyFields (acquire r 12 0 x) t [(PTP_RXLAT_LAT m, r.w 1), (PTP_TXLAT_LAT m, r.w 2)]))

/-- DIAG.READ reads aligned words with the effects that their reads have, and refuses none but the ones whose read
removes; DIAG.COUNTS reports five registers of a tile and clears its counters where asked; DIAG.LOG takes entries from
one of three logs; DIAG.INJECT writes the error injection registers; DIAG.SVN raises the floor of the security version;
DIAG.DEBUG hands out a nonce, a free value, and with a signature over it opens debug, the nonce being spent by any second
phase. The model's choices that it rests on: log entries 49, 92, 124, 128. (R382, R328, R331, R45, R96, R102, R361, R367) -/
def Obligations.DiagCommands : Prop :=
  (∀ r s, Asks r s → r.words.length = 2 → r.w 0 % 4 = 0 → 1 ≤ r.w 1 → r.w 1 ≤ 248 → r.w 0 + 4 * r.w 1 ≤ 4294967296 →
    (∀ k, k < r.w 1 → diagRefuses (r.w 0 + 4 * k) = false) →
    exec (.diagRead r) s = .next (answer 0x0E00 r (fun x =>
      .ok ((diagWords (r.w 0) (r.w 1) x).2, (diagWords (r.w 0) (r.w 1) x).1)) s))
  ∧ (∀ r s n, Asks r s → r.words.length = 1 → n = r.f 0 0 5 → n < nTiles s → nTiles s ≤ 32 → r.only [(0, mask 4 0 + 256)] = .ok () →
    (r.f 0 8 1 = 1 → MayChange r s 1 0) →
    Replies 0x0E01 r s (exec (.diagCounts r) s) ((List.range 5).map (fun k => (regRead ((TILE_STAT_STATE n).addr + 4 * k) s).1))
      (fun x t => if r.f 0 8 1 = 1 then OnlyFields (acquire r 1 0 x) t [(TILE_ECC_CORR_CNT n, 0), (TILE_ECC_UNCORR_CNT n, 0),
        (TILE_SATCNT_STORE_SAT n, 0), (TILE_SATCNT_ACC_SAT n, 0)] else t = x))
  ∧ (∀ r s f, Asks r s → r.words.length = 1 → r.seat = 0 → r.only [(0, 3 + mask 15 8)] = .ok () → r.f 0 0 2 ≠ 3 → r.f 0 8 8 ≤ 16 →
    f = (fun s => match r.f 0 0 2 with
      | 0 => logTake 0x20040010 0x2004001C (fun s => s.fab.guardLog.length) (r.f 0 8 8) s
      | 1 => logTake 0x20030010 0x2003001C (fun s => s.ash.log.length) (r.f 0 8 8) s
      | _ => logTake 0x20020000 0x2002000C (fun s => s.vsr.log.length) (r.f 0 8 8) s) →
    exec (.diagLog r) s = .next (answer 0x0E02 r (fun x => .ok ((f x).2, (f x).1.length / 3 :: (f x).1)) s))
  ∧ (∀ r s, Asks r s → r.words.length = 2 → r.seat = 0 →
    Replies 0x0E03 r s (exec (.diagInject r) s) [] (fun x t => t = writePlain 0x20030024 (r.w 1) (writePlain 0x20030020 (r.w 0) x)))
  ∧ (∀ r s, Asks r s → r.words.length = 1 → r.seat = 0 → r.only [(0, mask 5 0)] = .ok () → r.w 0 ≤ s.ctl.svn →
    Replies 0x0E04 r s (exec (.diagSvn r) s) [] (fun x t =>
      t = { x with fuses := { x.fuses with svnFloor := max x.fuses.svnFloor (r.w 0) } }))
  ∧ (∀ r s n, Asks r s → r.words.length = 1 → r.seat = 0 → r.w 0 = 0 → n = (Config.debugNonce (takeFree s).1).toNat →
    Replies 0x0E05 r s (exec (.diagDebug r) s) ((List.range 4).map (fun k => bits n (32 * k) 32))
      (fun x t => t = { (takeFree x).2 with fw := { (takeFree x).2.fw with nonce := some n } }))
  ∧ (∀ r s n, Asks r s → r.words.length = 35 → r.seat = 0 → r.w 0 = 1 → r.only [(1, 3), (18, 255)] = .ok () → s.fw.nonce = some n →
    debugOk s r n = true →
    ∃ t, exec (.diagDebug r) s = .next t ∧ t.ctl.debugOpen = true ∧ t.fw.nonce = none)

/-- PAIR.CONFIG writes the pair register with its complement and the lanes and rates offered; STATUS reports nine
registers; REJOIN of a failed unit performs a FAB reset and begins again as STARTING, or as a single unit that will
claim; RESTATE of the claimant starts the restate of an UNFIT partner; REFRAME of an active claimant arms an entry of
kind 7; RETRAIN trains the link again. The model's choices that it rests on: log entries 82, 105, 110. (R381, R297, R310,
R312, R313, R315, R357, R363, R361, R367) -/
def Obligations.PairCommands : Prop :=
  (∀ r s, Asks r s → r.words.length = 3 → MayChange r s 19 0 → r.only [(0, mask 4 0 + mask 11 8 + mask 23 16), (2, mask 7 0)] = .ok () →
    r.f 0 8 4 ≠ 0 → 2 ≤ r.f 0 0 3 → r.f 0 0 3 ≤ 4 → r.w 1 = not32 (r.w 0) →
    Replies 0x0C00 r s (exec (.pairConfig r) s) [] (fun x t => t = putFs [(PAIR_LINK_CFG_LANE_EN, r.f 2 0 4), (PAIR_LINK_CFG_RATE_EN, r.f 2 4 4)]
      (pairDone 0x200E0000 (r.w 0) (r.w 1) (acquire r 19 0 x))))
  ∧ (∀ r s, Asks r s → r.words.length = 0 →
    exec (.pairStatus r) s = .next (answer 0x0C01 r (fun x =>
      .ok (x, [0x08, 0x0C, 0x14, 0x18, 0x1C, 0x20, 0x28, 0x2C, 0x30].map (fun o => (regRead (0x200E0000 + o) x).1))) s))
  ∧ (∀ r s, Asks r s → r.words.length = 0 → MayChange r s 19 0 → getF s PAIR_STAT_STATE = 9 →
    Replies 0x0C02 r s (exec (.pairRejoin r) s) [] (fun x t => t = fwRecover (fabReset false
      (if s.pins.pairEn then setPairState 1 (acquire r 19 0 x)
        else { acquire r 19 0 x with pair := { x.pair with rejoin := true } }))))
  ∧ (∀ r s, Asks r s → r.words.length = 0 → MayChange r s 19 0 → getF s PAIR_STAT_CLAIM ≠ 0 → s.pins.pairEn = true →
    getF s PAIR_STAT_PARTNER_STATE = 5 → s.pair.restate = 0 →
    Replies 0x0C03 r s (exec (.pairRestate r) s) [] (fun x t => t = startRestate { acquire r 19 0 x with pair := { x.pair with
      suspended := false } }))
  ∧ (∀ r s t ws, Asks r s → r.words.length = 2 → MayChange r s 19 0 → (r.ci 0 ≠ 0 ∨ r.asap = true) → getF s PAIR_STAT_CLAIM ≠ 0 →
    getF s PAIR_STAT_STATE = 3 → relayed (fun y => do
      let a ← arm y r ⟨7, r.seat, r.ci 0, false, [], [], [], false⟩
      .ok (acquire r 19 0 a.2.2, schedReply a.1 a.2.1)) s = .ok (t, ws) →
    exec (.pairReframe r) s = replied 0x0C04 r ws t)
  ∧ (∀ r s, Asks r s → r.words.length = 0 → MayChange r s 19 0 →
    Replies 0x0C05 r s (exec (.pairRetrain r) s) [] (fun x t => t = retrain (acquire r 19 0 x)))

/-- PWR.STATE from Run or Quiet, with no image change in progress and no claim over an eligible partner, enters the other
state: Quiet by its entry, Run by its exit, Rest with the wake mask written and no wake source latched. PWR.BANKS writes
one bank power register and replies the Ashlar status; PWR.SCRUB sets the scrub period; PWR.STATUS reports the state and
the sixteen bank power registers. The model's choices that it rests on: log entry 96. (R383, R389, R390, R391, R106,
R103, R361, R367) -/
def Obligations.PowerCommands : Prop :=
  (∀ r s, Asks r s → r.words.length = 2 → MayChange r s 20 0 → r.only [(0, mask 1 0), (1, mask 19 0 - 8)] = .ok () → r.w 0 < 3 →
    (r.w 0 = 2 → r.w 1 ≠ 0) → s.pwr.entering = 0 → (getF s PWR_STAT_STATE = 0 ∨ getF s PWR_STAT_STATE = 1) → getF s PWR_STAT_STATE ≠ r.w 0 →
    getF s FAB_STAT_IMG_STATE ∉ [2, 3, 4] → (getF s PAIR_STAT_CLAIM = 0 ∨ partnerEligible s = false) →
    Replies 0x0D00 r s (exec (.pwrState r) s) [] (fun x t => t = (match r.w 0 with
      | 0 => quietExit (acquire r 20 0 x)
      | 1 => quietEntry (acquire r 20 0 x)
      | _ => enterSleep 2 (putF PWR_WAKE_EN_MASK (r.w 1) { acquire r 20 0 x with pwr := { x.pwr with latched := none } }))))
  ∧ (∀ r s n, Asks r s → r.words.length = 3 → n = r.f 0 0 4 → 8 * n < nBanks s → MayChange r s 20 0 → r.only [(0, mask 3 0)] = .ok () →
    r.w 2 = not32 (r.w 1) →
    exec (.pwrBanks r) s = .next (answer 0x0D01 r (fun x => .ok (writePwr n (r.w 1) (r.w 2) (acquire r 20 0 x),
      [regWordRaw (writePwr n (r.w 1) (r.w 2) (acquire r 20 0 x)) ASH_STAT_FATAL.addr])) s))
  ∧ (∀ r s, Asks r s → r.words.length = 1 → MayChange r s 20 0 → r.only [(0, mask 7 0)] = .ok () →
    Replies 0x0D02 r s (exec (.pwrScrub r) s) [] (fun x t => t = setScrub (r.w 0) (acquire r 20 0 x)))
  ∧ (∀ r s, Asks r s → r.words.length = 0 →
    Replies 0x0D03 r s (exec (.pwrStatus r) s)
      (getF s PWR_STAT_STATE :: (List.range 16).map (fun n => regWordRaw s (ASH_PWR_STAT_STATE0 n).addr)) Same)

/-- POWER_ON_RESET and PIN_RESET always leave the block in reset with every part as at reset, but for the fuses, the
pins, the external flash and what has left the block. After POR the cause POR stands, SYS_CAP shows the fuses and every
other field has its reset value; after PIN the cause PIN stands, PIN_RESETS has advanced, the fields that only POR clears
are kept and every other one has its reset value. The model's choices that it rests on: log entries 2, 3, 4, 90. (R386,
R387, R398, R3) -/
def Obligations.PowerOnAndPinReset : Prop :=
  (∀ s, ∃ t, exec .powerOnReset s = .next t ∧ t = chipReset t.regs s ∧ t.ctl.boot = .inReset ∧ t.fuses = s.fuses
    ∧ t.pins = s.pins ∧ t.ctl.flash = s.ctl.flash ∧ t.out = s.out
    ∧ getF t SYS_RESET_CAUSE_POR = 1 ∧ getF t SYS_CAP_TILES = nTiles s ∧ getF t SYS_CAP_ASH_BANKS = nBanks s
    ∧ getF t SYS_CAP_MACS = nMacs s ∧ getF t SYS_CAP_AES3 = nAes s ∧ getF t SYS_CAP_AMP = b2n (hasAmp s)
    ∧ getF t SYS_CAP_SOERI_LANES = nSoeri s ∧ getF t SYS_CAP_VARIANT = bits (cap s) 0 2
    ∧ ∀ f : Fld, f.key / 32 ≠ 0x2000000C → f.key / 32 ≠ 0x20000010 → getF t f = f.reset)
  ∧ (∀ s, ∃ t, exec .pinReset s = .next t ∧ t = chipReset t.regs s ∧ t.ctl.boot = .inReset ∧ t.fuses = s.fuses
    ∧ t.pins = s.pins ∧ t.ctl.flash = s.ctl.flash ∧ t.out = s.out
    ∧ getF t SYS_RESET_CAUSE_PIN = 1 ∧ getF t LIFE_CNT_PIN_RESETS = min (getF s LIFE_CNT_PIN_RESETS + 1) 65535
    ∧ ∀ f : Fld, f.key ≠ SYS_RESET_CAUSE_PIN.key → f.key ≠ LIFE_CNT_PIN_RESETS.key →
        getF t f = if (fieldOfKey f.key).any (fun g => g.cls == .por) then getF s f else f.reset)

/-- A CTL reset that has been requested starts the boot ROM on its CTL path with no request left, CTL_RESTART and
BOOT_ROM set, STEER clear and CTL_COUNT advanced; with none requested nothing happens. FAB_RESET by a running firmware is
the FAB reset and what the firmware puts back after it. SEAT_RESET outside Rest leaves the seat detached with its
mailbox, hold queue, staging lists and doorbells empty. A FAB reset itself leaves PTP, the clocks, the control domain and
Ashlar's contents alone, and no image, calendar, armed entry, route, dynamics record or slot plane content. The model's
choices that it rests on: log entries 15, 87, 88, 89. (R386, R387, R325, R398, R71) -/
def Obligations.ControlFabAndSeatReset : Prop :=
  (∀ s, (s.ctl.reqWdt || s.ctl.reqLock || s.ctl.reqSoft) = true → ∃ t, exec .ctlReset s = .next t
    ∧ t.ctl.boot = .romCtl ∧ t.ctl.reqWdt = false ∧ t.ctl.reqLock = false ∧ t.ctl.reqSoft = false ∧ t.ctl.wram = []
    ∧ getF t LIFE_STATUS_CTL_RESTART = 1 ∧ getF t LIFE_STATUS_BOOT_ROM = 1 ∧ getF t LIFE_STATUS_FW_UP = 0
    ∧ getF t SYS_RESET_CAUSE_CTL_COUNT = (getF s SYS_RESET_CAUSE_CTL_COUNT + 1) % 256 ∧ getF t CLK_DPLL_CTL_STEER = 0
    ∧ ∀ n, n < 4 → attached t n = false)
  ∧ (∀ s, (s.ctl.reqWdt || s.ctl.reqLock || s.ctl.reqSoft) = false → exec .ctlReset s = .next s)
  ∧ (∀ s, fwUp s = true → exec .fabReset s = .next (fwRecover (fabReset false s)))
  ∧ (∀ q s, ∃ r, r = fabReset q s ∧ r.ptp = s.ptp ∧ r.ptpIo = s.ptpIo ∧ r.clk = s.clk ∧ r.ctl = s.ctl ∧ r.ash.mem = s.ash.mem
    ∧ r.net = s.net ∧ r.fuses = s.fuses ∧ r.fab.img = none ∧ r.fab.cal = Cal.init ∧ r.fab.sched = [] ∧ r.fab.session = none
    ∧ r.rte = Rte.init ∧ r.dyn = Dyn.init ∧ r.plane = ⟨[], []⟩ ∧ running r = false ∧ getF r LIFE_STATUS_FABRIC_RUN = 0)
  ∧ (∀ n s, n < 4 → s.pwr.rest = false → ∃ t, exec (.seatReset n) s = .next t ∧ attached t n = false
    ∧ (seatOf t n).mail = [] ∧ (seatOf t n).hold = [] ∧ (seatOf t n).routes = [] ∧ (seatOf t n).dests = []
    ∧ (seatOf t n).subs = [] ∧ (seatOf t n).lease = 0 ∧ getF t (DB_STAT_CMD_BUSY n) = 0 ∧ getF t (DB_STAT_REPLY_READY n) = 0
    ∧ getF t (EV_HEAD_HEAD n) = 0 ∧ getF t (EV_TAIL_TAIL n) = 0 ∧ t.plane = s.plane ∧ t.tiles = s.tiles ∧ t.rte = s.rte
    ∧ t.fab.ci = s.fab.ci ∧ t.fab.img = s.fab.img)

/-- Whatever the state, a CTL reset leaves alone the CI and the course position, the running image and its calendars, the
armed entries, the slot plane, the tiles, the active route and dynamics records, ports, streams, amplifier channels, PTP
time and event outputs, and the fields that show the fabric RUNNING, the claim, DARK, MUTED and each tile's state. The
model's choices that it rests on: log entries 74, 89. (R18, R19, R20, R325, R398) -/
def Obligations.CtlResetKeepsAudio : Prop :=
  ∀ s, ∃ t, exec .ctlReset s = .next t
    ∧ t.fab.ci = s.fab.ci ∧ t.fab.cycle = s.fab.cycle ∧ t.fab.img = s.fab.img ∧ t.fab.cal = s.fab.cal ∧ t.fab.sched = s.fab.sched
    ∧ t.fab.gain = s.fab.gain ∧ t.fab.ramp = s.fab.ramp ∧ t.plane = s.plane ∧ t.tiles = s.tiles ∧ t.rte.act = s.rte.act
    ∧ t.rte.snd = s.rte.snd ∧ t.dyn.act = s.dyn.act ∧ t.port = s.port ∧ t.str = s.str ∧ t.amp = s.amp ∧ t.ptp = s.ptp
    ∧ t.ptpIo = s.ptpIo ∧ t.ash = s.ash ∧ t.live = s.live ∧ t.oenDark = s.oenDark
    ∧ running t = running s ∧ getF t PAIR_STAT_CLAIM = getF s PAIR_STAT_CLAIM ∧ getF t PAIR_STAT_STATE = getF s PAIR_STAT_STATE
    ∧ getF t LIFE_STATUS_DARK = getF s LIFE_STATUS_DARK ∧ getF t LIFE_STATUS_MUTED = getF s LIFE_STATUS_MUTED
    ∧ ∀ n, n < 32 → getF t (TILE_STAT_STATE n) = getF s (TILE_STAT_STATE n)

/-- RESET_RELEASE samples the straps, binds the seats by SEAT_MAP and starts the boot ROM; a fuse pair that fails its
check or a strap conflict ends it there with its BOOT fault and ALERT. ASHLAR_FILL_DONE ends the zero fill. The boot
window's POST, a retry of the boot ROM and the firmware's entry take an authentic source or report BOOT_FAIL. REMAP_WRITE
writes REMAP, and a confirmed trial sets CONFIRM. The model's choices that it rests on: log entries 5, 16, 85, 86. (R326,
R327, R328, R329, R330, R332, R387, R109, R318, R5) -/
def Obligations.BootSequence : Prop :=
  (∀ b m p u s, s.ctl.boot = .inReset → s.fuses.capC = not32 s.fuses.cap → ¬ (b % 4 = 1 ∧ m % 4 = 3) →
    ∃ t, exec (.resetRelease b m p u) s = .next t ∧ t.ctl.boot = .romCold ∧ t.pins = { s.pins with
        bootSrc := b % 4, seatMap := m % 4, pairEn := p, unitId := u }
      ∧ getF t LIFE_STATUS_BOOT_ROM = 1 ∧ getF t SYS_BOOT_STAT_BOOT_SRC = b % 4 ∧ getF t SYS_BOOT_STAT_SEAT_MAP = m % 4
      ∧ getF t PAIR_STAT_PAIR_EN = b2n p ∧ getF t PAIR_STAT_UNIT = b2n u
      ∧ (List.range 4).map (fun n => (getF t (HOST_BIND_IF n), getF t (HOST_BIND_INDEX n)))
        = [[(1, 0), (1, 1), (1, 2), (1, 3)], [(2, 0), (1, 1), (1, 2), (1, 3)], [(2, 0), (2, 1), (1, 2), (1, 3)],
          [(2, 0), (2, 1), (0, 0), (0, 0)]].getD (m % 4) [])
  ∧ (∀ b m p u s, s.ctl.boot = .inReset → s.fuses.capC ≠ not32 s.fuses.cap →
    ∃ t, exec (.resetRelease b m p u) s = .next t ∧ t.ctl.boot = .capFail ∧ getF t LIFE_FAULT_BOOT = 1 ∧ getF t LIFE_STATUS_ALERT = 1)
  ∧ (∀ b m p u s, s.ctl.boot = .inReset → s.fuses.capC = not32 s.fuses.cap → b % 4 = 1 → m % 4 = 3 →
    ∃ t, exec (.resetRelease b m p u) s = .next t ∧ t.ctl.boot = .strapFail ∧ getF t LIFE_FAULT_BOOT = 3 ∧ getF t LIFE_STATUS_ALERT = 1)
  ∧ (∀ s, s.ctl.boot ≠ .inReset → getF s ASH_STAT_FILL_DONE = 0 →
    ∃ t, exec .ashlarFillDone s = .next t ∧ OnlyFields { s with ash := { s.ash with mem := [] } } t [(ASH_STAT_FILL_DONE, 1)])
  ∧ (∀ i s, bootWindowOpen s i = true → ∃ t, exec (.bootWindowPost i) s = .next t ∧ t.ctl.bootIf = some i
    ∧ t.ctl.bootPosted = (s.ctl.bootPosted || authentic (stagedSrc s) s)
    ∧ getF t LIFE_FAULT_BOOT = if authentic (stagedSrc s) s then 0 else 2)
  ∧ (∀ s, romReady s = true → exec .bootRetry s = .next (if authentic (bootSource s) s then enterFirmware (bootSource s) s
      else bootFault 2 { s with ctl := { s.ctl with boot := .failed } }))
  ∧ (∀ s, romReady s = true → exec .firmwareEntry s = .next (enterFirmware (bootSource s) s))
  ∧ (∀ x s, ∃ t, t = enterFirmware x s ∧ t.ctl.boot = .firmware ∧ t.ctl.svn = x.word s 0x10 ∧ t.ctl.fwVersion = x.word s 0x08
    ∧ t.ctl.bootPosted = false ∧ getF t LIFE_STATUS_BOOT_ROM = 0 ∧ getF t SYS_REMAP_REMAP = 0 ∧ getF t LIFE_FAULT_BOOT = 0)
  ∧ (∀ v s, s.pwr.rest = false → s.ctl.boot ≠ .inReset → ∃ t, exec (.remapWrite v) s = .next t ∧ OnlyFields s t [(SYS_REMAP_REMAP, v)])
  ∧ (∀ s, s.ctl.boot = .firmware → ∃ t, exec .trialConfirm s = .next t ∧ OnlyFields s { t with ctl := s.ctl } [(SYS_BOOT_STAT_CONFIRM, 1)]
    ∧ t.ctl = { s.ctl with flash := t.ctl.flash } ∧ (bitOf (selector s) 1 = false → t.ctl.flash = s.ctl.flash))

/-- The first kick word waits for its complement; a matching pair restarts the count from TIMEOUT, any other pair sets
PAIRWORD. The watchdog's expiry requests a CTL reset and counts from TIMEOUT again, with ESCALATE after the
self-diagnosis of cause 8; a lockstep mismatch latches cause 4 and requests a CTL reset. The model's choices that it
rests on: log entries 15, 17. (R323, R324, R294) -/
def Obligations.WatchdogAndLockstep : Prop :=
  (∀ v s, s.ctl.boot ≠ .inReset → s.pwr.rest = false →
    exec (.watchdogKick false v) s = .next { s with ctl := { s.ctl with kick := some (lo32 v) } })
  ∧ (∀ s, s.ctl.boot ≠ .inReset → s.pwr.rest = false → s.ctl.kick = some wdtKey →
    exec (.watchdogKick true (not32 wdtKey)) s = .next { s with ctl := { s.ctl with kick := none, wdtCount := getF s SYS_WDT_CTL_TIMEOUT } })
  ∧ (∀ v s, s.ctl.boot ≠ .inReset → s.pwr.rest = false → (s.ctl.kick ≠ some wdtKey ∨ lo32 v ≠ not32 wdtKey) →
    ∃ t, exec (.watchdogKick true v) s = .next t ∧ OnlyFields { s with ctl := { s.ctl with kick := none } } t [(SYS_WDT_CTL_PAIRWORD, 1)])
  ∧ (∀ s, s.ctl.boot ≠ .inReset → s.pwr.rest = false → (s.ctl.debugOpen && flag s SYS_WDT_CTL_DBG_PAUSE) = false →
    flag s SYS_WDT_CTL_ESCALATE = false →
    exec .watchdogExpiry s = .next { s with ctl := { s.ctl with reqWdt := true, wdtCount := getF s SYS_WDT_CTL_TIMEOUT } })
  ∧ (∀ s, s.ctl.boot ≠ .inReset → s.pwr.rest = false → (s.ctl.debugOpen && flag s SYS_WDT_CTL_DBG_PAUSE) = false →
    flag s SYS_WDT_CTL_ESCALATE = true → ∃ t, exec .watchdogExpiry s = .next t ∧ t.ctl.reqWdt = true
      ∧ getF t PAIR_CAUSE_CODE = 8 ∧ getF t PAIR_CAUSE_CI16 = s.fab.ci % 65536)
  ∧ (∀ s, s.ctl.boot ≠ .inReset → s.pwr.rest = false → ∃ t, exec .lockstepMismatch s = .next t ∧ t.ctl.reqLock = true
      ∧ getF t PAIR_CAUSE_CODE = 4 ∧ getF t PAIR_CAUSE_CI16 = s.fab.ci % 65536)

/-- REGISTER_WRITE by a Birrek that can issue and is not held back is the register's write, answered OK, or with the
error response of a refused word, of an address without a register (DECODE) or one that is not a multiple of four (SIZE);
then waiting requests and posted commands are served. CPO_WRITE completes the FAB_CPO pair. CI_READ_CAPTURE and
LIFE_CI_READ answer with the low word and capture the high one: of the CI, with the course cycle of the read, so that
FAB_CI_LO and then FAB_CI_HI give one coherent CI; while the fabric is stopped all three registers read as 0. LOG_POP
removes the oldest entry of its log and nothing else. The model's choices that it rests on: log entries 23, 92, 97, 114.
(R9, R10, R317, R319, R320, R321, R43, R355) -/
def Obligations.RegisterRequests : Prop :=
  (∀ a v s, canIssue s 1 = true → heldBack s s.vsr.held ⟨1, 0, true, a, 4, 1, [lo32 v], false⟩ = false → busTarget s a = .reg a →
    ∃ u, u = { s with vsr := { s.vsr with lastGrant := s.vsr.lastGrant.put 2 1 } }
      ∧ exec (.registerWrite a v) s = .next (settleAll (releaseAll (
        if a % 4 ≠ 0 then respond 1 0 4 [] (vsrLog 4 true 1 0 a u)
        else if regExists a = false then respond 1 0 1 [] (vsrLog 1 true 1 0 a u)
        else if (regWrite a (lo32 v) u).1 = true then respond 1 0 0 [] (regWrite a (lo32 v) u).2
        else respond 1 0 3 [] (vsrLog 3 true 1 0 a (regWrite a (lo32 v) u).2)))))
  ∧ (∀ v c s, s.pwr.rest = false → s.ctl.boot ≠ .inReset → exec (.cpoWrite v c) s = .next (pairDone 0x20040110 (lo32 v) c s))
  ∧ (∀ s, exec .ciReadCapture s = .next (emit .response [0, 0, 0, (regRead 0x20040100 s).1] (regRead 0x20040100 s).2))
  ∧ (∀ n s, n < 4 → s.pwr.rest = false → ∃ t, exec (.lifeCiRead n) s = .next t
    ∧ t.out = ⟨.response, [0, 0, 0, if running s then lo32 (localCi s) else 0]⟩ :: s.out
    ∧ OnlyFields s { t with out := s.out } [(LIFE_CI_HI_CI_HI, if running s then hi32 (localCi s) else 0)])
  ∧ (∀ s, exec (.logPop 0) s = .next { s with fab := { s.fab with guardLog := s.fab.guardLog.drop 1 } })
  ∧ (∀ s, exec (.logPop 1) s = .next { s with ash := { s.ash with log := s.ash.log.drop 1 } })
  ∧ (∀ s, exec (.logPop 2) s = .next { s with vsr := { s.vsr with log := s.vsr.log.drop 1 } })
  ∧ (∀ s, exec (.logPop 3) s = .next { s with str := { s.str with evq := s.str.evq.drop 1 } })
  ∧ (∀ s, running s = true → s.fab.ci < 2 ^ 64 → ∃ t, regRead 0x20040100 s = (lo32 s.fab.ci, t)
    ∧ OnlyFields s t [(FAB_CI_HI_CI_HI, hi32 s.fab.ci), (FAB_CYC_CYCLE, courseCycle s)]
    ∧ regRead 0x20040104 t = (hi32 s.fab.ci, t) ∧ regRead 0x20040108 t = (courseCycle s, t)
    ∧ (regRead 0x20040104 t).1 * 2 ^ 32 + lo32 s.fab.ci = s.fab.ci)
  ∧ (∀ s, running s = true → regRead 0x20040104 s = (getF s FAB_CI_HI_CI_HI % 2 ^ 32, s)
    ∧ regRead 0x20040108 s = (getF s FAB_CYC_CYCLE % 2 ^ 15, s))
  ∧ (∀ s, running s = false → (regRead 0x20040100 s).1 = 0 ∧ (regRead 0x20040104 s).1 = 0 ∧ (regRead 0x20040108 s).1 = 0)

/-- The first word of a pair changes no register. A mismatching complement leaves the register's fields as they are, sets
the PAIRWORD flag of its block and, for an output-enable register, forces its outputs dark. A matching complement of an
output-enable register writes its fields and ends that darkness; of FAB_CPO it writes CPO while the fabric is stopped and
is refused with CPO_REJ while it runs. So for FAB_CPO, CLK_SEL, PAIR_CFG and the five output-enable registers; an
amplifier enable only where the unit exists. The model's choices that it rests on: log entry 23. (R9, R25, R262, R173,
R265) -/
def Obligations.PairedRegisters : Prop :=
  (∀ a v s, isPair a = true → absentReg s a = false →
    regWrite a v s = (true, { s with stage := s.stage.put a (lo32 v) }))
  ∧ (∀ a c s, isPair a = true → absentReg s (a + 4) = false → lo32 c ≠ not32 (s.stage.get a (regWordRaw s a)) →
    ∃ t f, regWrite (a + 4) c s = (true, t) ∧ pairFlag a = some f ∧ f ∉ fieldsAt a
      ∧ OnlyFields { s with stage := s.stage.erase a, oenDark := if isOen a then a :: s.oenDark.filter (· != a) else s.oenDark } t [(f, 1)])
  ∧ (∀ a v s, isOen a = true → absentReg s (a + 4) = false → s.stage.get a (regWordRaw s a) = lo32 v →
    ∃ t, regWrite (a + 4) (not32 v) s = (true, t) ∧ a ∉ t.oenDark ∧ t.stage = s.stage.erase a
      ∧ (∀ f ∈ fieldsAt a, getF t f = bits (lo32 v) f.lo f.width)
      ∧ (∀ f : Fld, (∀ g ∈ fieldsAt a, f.key ≠ g.key) → getF t f = getF s f))
  ∧ (∀ v s, running s = false → s.stage.get 0x20040110 (regWordRaw s 0x20040110) = lo32 v →
    ∃ t, regWrite 0x20040114 (not32 v) s = (true, t) ∧ OnlyFields { s with stage := s.stage.erase 0x20040110 } t [(FAB_CPO_CPO_NS, v)])
  ∧ (∀ v s, running s = true → s.stage.get 0x20040110 (regWordRaw s 0x20040110) = lo32 v →
    ∃ t, regWrite 0x20040114 (not32 v) s = (true, t)
      ∧ OnlyFields { s with stage := s.stage.erase 0x20040110 } t [(FAB_TL_STATUS_CPO_REJ, 1)])

/-- The columns of data bits 0 to 31 are the first 32 seven-bit values of weight 3 in ascending order; the check bits of
a word are the exclusive or of the columns of its data bits that are 1, and 0 for the word 0; a check bit has the column
of its own power of two, so that a stored word with any one of its 39 bits inverted reads back corrected with that bit's
column as the syndrome. Ashlar words, DMEM words and program words are stored with these check bits. (R96) -/
def Obligations.CheckBits : Prop :=
  eccColumns = ((List.range 128).filter (fun x => decide ((bitsSet x 7).length = 3))).take 32
  ∧ (∀ v, eccCheck v = (bitsSet v 32).foldl (fun a i => a ^^^ eccColumns.getD i 0) 0) ∧ eccCheck 0 = 0
  ∧ (∀ v, eccDecode (eccEncode v) = .ok (lo32 v))
  ∧ (∀ v i, i < 32 → eccDecode (eccEncode v ^^^ 2 ^ i) = .corrected (lo32 v) (eccColumns.getD i 0))
  ∧ (∀ v j, j < 7 → eccDecode (eccEncode v ^^^ 2 ^ (32 + j)) = .corrected (lo32 v) (2 ^ j))
  ∧ (∀ s w v, ashCode (putAsh w v s) w = eccEncode v) ∧ (∀ t a v, a < 65536 → (putDmem a v t).dmem.get a 0 = eccEncode v)
  ∧ (∀ l k, (progMem l).get k 0 = eccEncode (l.getD k 0))

/-- FAB_START of a stopped fabric with an image, a locked synthesis PLL and the device in Run takes the anchor, the first
CI whose boundary lies at least a millisecond ahead, and waits to start there; a CPO that does not fit the image's rate
is cleared with CPO_REJ. FAB_STOP asks a running fabric to stop at its next boundary and withdraws a start.
COURSE_BOUNDARY stops a fabric so asked: no CI, no rate, not RUNNING; and it puts the hard mute in force while stopped.
The gap records are applied once; a family change ends in a fresh start. The model's choices that it rests on: log
entries 13, 14, 41, 42. (R25, R26, R27, R36, R66, R133, R135, R358) -/
def Obligations.FabricControl : Prop :=
  (∀ s img, s.pwr.rest = false → s.ctl.boot ≠ .inReset → s.fab.img = some img → running s = false → s.fab.startAt = none →
    flag s CLK_SYN_STAT_LOCK = true → s.pwr.hotStop = false → getF s PWR_STAT_STATE = 0 →
    ∃ t a cpo early, exec .fabStart s = .next t ∧ t = { s with
        regs := t.regs
        fab := { s.fab with startAt := some a } }
      ∧ cpo = (if cpoFits (getF s FAB_CPO_CPO_NS) (baseRate img.family * img.rm) then getF s FAB_CPO_CPO_NS else 0)
      ∧ early = ptpUnits s.ptp + 1000000 * 2 ^ 32 - cpo * 2 ^ 32
      ∧ early * (baseRate img.family * img.rm) ≤ a * (1000000000 * 2 ^ 32)
      ∧ (∀ b, early * (baseRate img.family * img.rm) ≤ b * (1000000000 * 2 ^ 32) → a ≤ b)
      ∧ getF t FAB_CI_ANCHOR_LO_ANCHOR = lo32 a ∧ getF t FAB_CI_ANCHOR_HI_ANCHOR = hi32 a
      ∧ (cpoFits (getF s FAB_CPO_CPO_NS) (baseRate img.family * img.rm) = false → getF t FAB_CPO_CPO_NS = 0 ∧ getF t FAB_TL_STATUS_CPO_REJ = 1))
  ∧ (∀ s, s.pwr.rest = false → s.ctl.boot ≠ .inReset → running s = true →
    exec .fabStop s = .next { s with fab := { s.fab with stopReq := true } })
  ∧ (∀ s, s.pwr.rest = false → s.ctl.boot ≠ .inReset → running s = false →
    exec .fabStop s = .next { s with fab := { s.fab with startAt := none } })
  ∧ (∀ s, s.pwr.rest = false → s.ctl.boot ≠ .inReset →
    exec .courseBoundary s = .next (watchLife (fun s => if running s then runBoundary s else idleBoundary s) s))
  ∧ (∀ s, (closeRecord (courseEnd s)).fab.stopReq = true → runBoundary s = stopFabric (closeRecord (courseEnd s)))
  ∧ (∀ s, running (stopFabric s) = false ∧ rmOf (stopFabric s) = 0 ∧ (stopFabric s).fab.ci = 0 ∧ (stopFabric s).fab.startAt = none
    ∧ (stopFabric s).fab.stopReq = false ∧ getF (stopFabric s) LIFE_STATUS_FABRIC_RUN = 0)
  ∧ (∀ s, getF (muteStep s) LIFE_STATUS_MUTED = b2n (hardMute s))
  ∧ (∀ s img, s.fab.familyStopped = true → s.fab.family = some img → s.fab.gapLoaded = false →
    ∃ t, exec .gapLoadComplete s = .next t ∧ t = applyGap img s ∧ t.fab.gapLoaded = true)
  ∧ (∀ s img, s.fab.familyStopped = false → getF s FAB_STAT_IMG_STATE = 3 → s.fab.staged = some img → s.fab.gapLoaded = false →
    ∃ t, exec .gapLoadComplete s = .next t ∧ t = applyGap img s ∧ t.fab.gapLoaded = true)
  ∧ (∀ s img, fwUp s = true → s.fab.family = some img → s.fab.familyStopped = true → s.fab.gapLoaded = true →
    flag s CLK_SYN_STAT_LOCK = true → running s = false → s.fab.startAt = none → s.pwr.hotStop = false → getF s PWR_STAT_STATE = 0 →
    getF s FAB_STAT_IMG_STATE ≠ 3 → exec .familyChangeRestart s
      = .next (startFabric { s with fab := { s.fab with family := none, familyStopped := false, gapLoaded := false } }))
  ∧ (∀ s img, fwUp s = true → s.fab.family = some img → s.fab.familyStopped = true → s.fab.gapLoaded = true →
    flag s CLK_SYN_STAT_LOCK = true → running s = false → s.fab.startAt = none → s.pwr.hotStop = false → getF s PWR_STAT_STATE = 0 →
    getF s FAB_STAT_IMG_STATE = 3 → ∃ u, u = setTiles img 1 (loadSets img (swapImage img s)) ∧ exec .familyChangeRestart s
      = .next (startFabric { u with
        pwr := { u.pwr with leaving := true }
        fab := { u.fab with family := none, familyStopped := false, gapLoaded := false } }))

/-- TILE_ARM takes a STOPPED tile to ARMED and clears its fault record. TILE_STOP takes an ARMED tile to STOPPED at once,
leaves a RUNNING one to the next boundary, and a FAULTED one to STOPPED at once without its fault record. A bundle of
four empty slots advances the tile by one bundle and one cycle and does nothing else to it. Waiting accesses and landings
are made in the order of their cycles. An engine's access in a course runs at its cycle; a second transfer of a line in a
course does nothing. The model's choices that it rests on: log entries 11, 111, 112. (R45, R46, R62, R66, R68, R74, R122,
R128) -/
def Obligations.TileControl : Prop :=
  (∀ n s, n < nTiles s → getF s (TILE_STAT_STATE n) = 0 → ∃ t, exec (.tileArm n) s = .next t
    ∧ OnlyFields s t [(TILE_STAT_STATE n, 1), (TILE_FAULT_CAUSE n, 0), (TILE_FAULT_PC n, 0), (TILE_FAULT_CYCLE n, 0)])
  ∧ (∀ n s, n < nTiles s → getF s (TILE_STAT_STATE n) = 1 →
    ∃ t, exec (.tileStop n) s = .next t ∧ OnlyFields s t [(TILE_STAT_STATE n, 0)])
  ∧ (∀ n s, n < nTiles s → getF s (TILE_STAT_STATE n) = 2 →
    exec (.tileStop n) s = .next (updTile n (fun x => { x with stopReq := true }) s))
  ∧ (∀ n s, n < nTiles s → getF s (TILE_STAT_STATE n) = 3 → ∃ u t, exec (.tileStop n) s = .next t ∧ Told u t
    ∧ OnlyFields (updTile n (fun x => { commitAll x with stopReq := false }) s) u
      [(TILE_STAT_STATE n, 0), (TILE_FAULT_CAUSE n, 0), (TILE_FAULT_PC n, 0), (TILE_FAULT_CYCLE n, 0)])
  ∧ (∀ n s x, running s = true → n < nTiles s → getF s (TILE_STAT_STATE n) = 2 → x = tileOf s n → x.ended = false → x.accs = [] →
    x.lands = [] → x.pend = [] → x.reps = [] → x.pc < 4095 → x.cyc < courseLen s →
    (∀ i, i < 4 → eccDecode ((activeImem s n x).get (4 * x.pc + i) 0) = .ok 0) →
    ∃ t, exec (.tileBundleIssue n) s = .next t ∧ tileOf t n = { x with
        pc := x.pc + 1
        cyc := x.cyc + 1 }
      ∧ getF t (TILE_STAT_STATE n) = 2 ∧ t.fab = { s.fab with cycle := x.cyc } ∧ t.plane = s.plane ∧ t.ash = s.ash)
  ∧ (∀ n s, running s = true → n < nTiles s → getF s (TILE_STAT_STATE n) = 2 → (tileOf s n).ended = false → 0 < (tileOf s n).cyc →
    ∃ u, u = drainTo n ((tileOf s n).cyc - 1) drainFuel s
      ∧ exec (.tileBundleIssue n) s = .next (if getF u (TILE_STAT_STATE n) = 2 then issueBundle n u else u))
  ∧ (∀ n s c, minCycle ((tileOf s n).accs.map TileAcc.cycle) = some c → running s = true → c ≤ openLimit s n →
    exec (.tileBankAccess n) s = .next (drainTo n c drainFuel s))
  ∧ (∀ n s c, minCycle ((tileOf s n).lands.map Landing.cycle) = some c → running s = true → c ≤ openLimit s n →
    exec (.ashlarLanding n) s = .next (drainTo n c drainFuel s))
  ∧ (∀ code read line c s, enginesOn s = true → c < courseLen s → line < 1024 → code ≠ 0x21 →
    exec (.engineGrantAccess code read false line c) s = .next (slotGrant code read line c { s with fab := { s.fab with cycle := c } })
    ∧ (wasServed s code read line = true →
      exec (.engineGrantAccess code read false line c) s = .next { s with fab := { s.fab with cycle := c } }))
  ∧ (∀ line c s, enginesOn s = true → c < courseLen s → line < 1024 →
    exec (.engineGrantAccess 0x21 true false line c) s = .next (pairPortGrant line c { s with fab := { s.fab with cycle := c } }))
  ∧ (∀ read w c s, enginesOn s = true → c < courseLen s →
    exec (.engineGrantAccess 0x20 read true w c) s = .next (strBank read w c { s with fab := { s.fab with cycle := c } })
    ∧ exec (.engineGrantAccess 0x21 read true w c) s = .next (pairBankGrant (bankOf w) c { s with fab := { s.fab with cycle := c } }))

/-- Rounding by k bits moves a value by at most half a step and takes a tie to even. A saturated sum reads back as the
exact sum limited to 32 bits, and the lanes that were limited are counted; an accumulation reads back limited to 72 bits,
and each lane that was limited counts once in ACC_SAT. SETL leaves every bound pointer inside its buffer at the same
offset modulo the new length, and an L' of 0 leaves it alone; SETB moves it by the change of the base. No other operation
of the C slot writes a length or a base register. (R49, R50, R51, R58, R59, R79, R80) -/
def Obligations.TileArithmetic : Prop :=
  (∀ k i, (rne k i * 2 ^ k - i).natAbs * 2 ≤ 2 ^ k ∧ ((rne k i * 2 ^ k - i).natAbs * 2 = 2 ^ k → 0 < k → rne k i % 2 = 0))
  ∧ (∀ t now w, opOf w = 0x01 → (vSlot t now w).pend.map (fun p => (p.key, toS 32 p.val))
      = lanes.map (fun i => (kV (fD w) i, max (-(2 ^ 31)) (min (2 ^ 31 - 1) (vLane t (fA w) i + vLane t (fB w) i))))
    ∧ (vSlot t now w).sat = (lanes.filter (fun i => decide (vLane t (fA w) i + vLane t (fB w) i < -(2 ^ 31))
        || decide (2 ^ 31 ≤ vLane t (fA w) i + vLane t (fB w) i))).length
    ∧ (vSlot t now w).acc = 0)
  ∧ (∀ t now w, opOf w = 0x18 → (vSlot t now w).pend.map (fun p => (p.key, toS 72 p.val))
      = lanes.map (fun i => (kA (fAcc w) i, max (-(2 ^ 71)) (min (2 ^ 71 - 1) (macBase t now w i + product t w (vLane t (fA w) i) i))))
    ∧ (vSlot t now w).acc = (lanes.filter (fun i => decide (macBase t now w i + product t w (vLane t (fA w) i) i < -(2 ^ 71))
        || decide (2 ^ 71 ≤ macBase t now w i + product t w (vLane t (fA w) i) i))).length
    ∧ (vSlot t now w).sat = 0)
  ∧ (∀ b l p, 0 < l → b + l ≤ 2 ^ 24 → b ≤ renorm b l p ∧ renorm b l p < b + l ∧ ((renorm b l p : Int) - p) % l = 0)
  ∧ (∀ b p, renorm b 0 p = p)
  ∧ (∀ b b' p, p < 2 ^ 24 → ((moveBase b b' p : Int) - b') % 2 ^ 24 = ((p : Int) - b) % 2 ^ 24 ∧ moveBase b b' p < 2 ^ 24)
  ∧ (∀ t l v, l < 16 → tReg (applyLen (some (l, v)) t) (kL l) = v
    ∧ ∀ p, p < 16 → tReg (applyLen (some (l, v)) t) (kP p)
        = if tReg t (kBind p) = l then renorm (tReg t (kB l)) v (tReg t (kP p)) else tReg t (kP p))
  ∧ (∀ t l v, l < 16 → tReg (applyBase (some (l, v)) t) (kB l) = v
    ∧ ∀ p, p < 16 → tReg (applyBase (some (l, v)) t) (kP p)
        = if tReg t (kBind p) = l then moveBase (tReg t (kB l)) v (tReg t (kP p)) else tReg t (kP p))
  ∧ (∀ t w, ((cSlot t w).len ≠ none → opOf w = 0x07 ∨ opOf w = 0x09) ∧ ((cSlot t w).base ≠ none → opOf w = 0x06 ∨ opOf w = 0x08)
    ∧ ∀ p ∈ (cSlot t w).regs, ∀ l, l < 16 → p.1 ≠ kL l ∧ p.1 ≠ kB l)

/-- While the engines work, ROUTE_WINDOW sums every sounding crosspoint into its destination: the sample times the gain
rounded to even at 22 bits, each sum limited to 40 bits; without one, the sums are zero. DYN_WINDOW runs the instances
that have a record, and one whose mode is bypass gives its sample unchanged. A recopy that is done leaves the shadow half
equal to the active one. A swap of the route table exchanges the halves. After 100 ms a silence report is sent again only
if the state differs from the one reported. The model's choices that it rests on: log entries 33, 36, 127. (R141, R142,
R144, R151, R152, R157, R158, R160, R161) -/
def Obligations.RouteAndDynamicsWindows : Prop :=
  (∀ s, enginesOn s = true → s.fab.cal.routeCap ≠ 0 → s.fab.img.isSome = true → exec .routeWindow s = .next (routeWindow s)
    ∧ (s.rte.snd = [] → exec .routeWindow s = .next { s with rte := { s.rte with acc := [] } }))
  ∧ (∀ s i x, enginesOn s = true → s.fab.img.isSome = true → s.rte.snd = [(i, x)] → i < s.fab.cal.routeCap →
    (s.rte.act.get i xpNone).ok = true → x.dest < nDests s → ∃ t, exec .routeWindow s = .next t
      ∧ t.rte.acc.get x.dest 0 = max (-(2 ^ 39)) (min (2 ^ 39 - 1) (rne 22 (toS 32 (slotRead s x.src) * rampGain x)))
      ∧ (∀ d, d ≠ x.dest → t.rte.acc.get d 0 = 0) ∧ t.plane = s.plane ∧ t.rte.act = s.rte.act ∧ t.rte.snd = s.rte.snd)
  ∧ (∀ s, enginesOn s = true → s.fab.cal.dynCap ≠ 0 → s.fab.img.isSome = true → exec .dynWindow s = .next (dynWindow s))
  ∧ (∀ s i, rf (dynRec s i) 0 28 2 = 0 → (dynOf (dynRun i s) i).sample = lo32 (slotRead s (rf (dynRec s i) 0 0 13))
    ∧ (dynOf (dynRun i s) i).gain = 0)
  ∧ (∀ s, flag s RTE_STAT_RESYNC = true → ∃ t, exec .routeResyncDone s = .next t ∧ OnlyFields { s with rte := { s.rte with
        shadow := s.rte.act
        shRec := s.rte.actRec
        resync := 0 } } t [(RTE_STAT_RESYNC, 0)])
  ∧ (∀ i s, s.dyn.recopy.contains i = true → ∃ t, exec (.dynResyncDone i) s = .next t ∧ t = { s with dyn := t.dyn }
    ∧ t.dyn.act = s.dyn.act ∧ t.dyn.shadow.get i dynNone = dynRec s i ∧ (∀ j, j ≠ i → t.dyn.shadow.get j dynNone = s.dyn.shadow.get j dynNone)
    ∧ t.dyn.recopy.contains i = false)
  ∧ (∀ s, (swapRoute s).rte.act = s.rte.shadow ∧ (swapRoute s).rte.shadow = s.rte.act ∧ (swapRoute s).rte.actRec = s.rte.shRec
    ∧ (swapRoute s).rte.shRec = s.rte.actRec ∧ getF (swapRoute s) RTE_STAT_RESYNC = 1 ∧ getF (swapRoute s) RTE_SL_ROUTE_ARMED = 0)
  ∧ (∀ d s, s.fw.silPending.get d 0 = 1 → b2n (dstOf s d).silent = s.fw.silReported.get d 0 →
    ∃ t, exec (.silenceCoalesceExpiry d) s = .next t ∧ t = { s with fw := t.fw } ∧ t.fw.silPending.get d 0 = 0)
  ∧ (∀ d s, s.fw.silPending.get d 0 = 1 → b2n (dstOf s d).silent ≠ s.fw.silReported.get d 0 → ∃ u t,
    exec (.silenceCoalesceExpiry d) s = .next t ∧ Told u t ∧ u = { s with fw := u.fw } ∧ u.fw.silPending.get d 0 = 1
      ∧ u.fw.silReported.get d 0 = b2n (dstOf s d).silent)

/-- A write of RTE_DATAn or DYN_DATAn stores the word. The last word of the shadow route entry or destination record that
RTE_IDX selects commits it: refused with SL_LOCK_ERR while its set is armed or the recopy runs, with PAIRWORD where value
and complement do not match, else stored. The eighth word of a dynamics record commits it the same way, refused with
SL_LOCK_ERR while the instance is tagged by an armed entry or being recopied. The eighth STR_DATA word commits a
stream-table entry: of an enabled stream only EN may change, a twin of a valid classifier entry sets CLS_CONFLICT, a
reserved PTIME CFG_ERR; a write with SEL 3 clears a stream's counters. The model's choices that it rests on: log entry
102. (R143, R150, R152, R155, R163, R199, R200, R202, R215, R216, R219) -/
def Obligations.TableWrites : Prop :=
  (∀ n v s, n < 4 → exec (.rteTableWrite n v) s = .next (rteWrite n v s))
  ∧ (∀ n v s, n < 3 → (getF s RTE_IDX_SEL = 0 ∨ getF s RTE_IDX_SEL = 2) →
    ∃ t, exec (.rteTableWrite n v) s = .next t ∧ OnlyFields s t [(RTE_DATA_DATA n, v)])
  ∧ (∀ v s, (getF s RTE_IDX_SEL = 0 ∨ getF s RTE_IDX_SEL = 2) → getF s RTE_IDX_INDEX < rteSize s (getF s RTE_IDX_SEL) →
    (flag s RTE_SL_ROUTE_ARMED || flag s RTE_STAT_RESYNC) = true →
    ∃ t, exec (.rteTableWrite 3 v) s = .next t ∧ OnlyFields s t [(RTE_DATA_DATA 3, v), (RTE_STAT_SL_LOCK_ERR, 1)])
  ∧ (∀ v s lo hi, (getF s RTE_IDX_SEL = 0 ∨ getF s RTE_IDX_SEL = 2) → getF s RTE_IDX_INDEX < rteSize s (getF s RTE_IDX_SEL) →
    (flag s RTE_SL_ROUTE_ARMED || flag s RTE_STAT_RESYNC) = false →
    lo = getF s (RTE_DATA_DATA 0) + 2 ^ 32 * getF s (RTE_DATA_DATA 1) → hi = getF s (RTE_DATA_DATA 2) + 2 ^ 32 * lo32 v →
    hi ≠ 2 ^ 64 - 1 - lo % 2 ^ 64 →
    ∃ t, exec (.rteTableWrite 3 v) s = .next t ∧ OnlyFields s t [(RTE_DATA_DATA 3, v), (RTE_STAT_PAIRWORD, 1)])
  ∧ (∀ v s i lo hi, i = getF s RTE_IDX_INDEX → i < rteSize s (getF s RTE_IDX_SEL) →
    (flag s RTE_SL_ROUTE_ARMED || flag s RTE_STAT_RESYNC) = false →
    lo = getF s (RTE_DATA_DATA 0) + 2 ^ 32 * getF s (RTE_DATA_DATA 1) → hi = getF s (RTE_DATA_DATA 2) + 2 ^ 32 * lo32 v →
    hi = 2 ^ 64 - 1 - lo % 2 ^ 64 →
    (getF s RTE_IDX_SEL = 0 → ∃ t, exec (.rteTableWrite 3 v) s = .next t
      ∧ OnlyFields { s with rte := { s.rte with shadow := t.rte.shadow } } t [(RTE_DATA_DATA 3, v)]
      ∧ t.rte.shadow.get i xpNone = ⟨lo, hi⟩ ∧ ∀ j, j ≠ i → t.rte.shadow.get j xpNone = s.rte.shadow.get j xpNone)
    ∧ (getF s RTE_IDX_SEL = 2 → ∃ t, exec (.rteTableWrite 3 v) s = .next t
      ∧ OnlyFields { s with rte := { s.rte with shRec := t.rte.shRec } } t [(RTE_DATA_DATA 3, v)]
      ∧ t.rte.shRec.get i recReset = ⟨lo, hi⟩ ∧ ∀ j, j ≠ i → t.rte.shRec.get j recReset = s.rte.shRec.get j recReset))
  ∧ (∀ n v s, n < 8 → exec (.dynTableWrite n v) s = .next (dynWrite n v s))
  ∧ (∀ n v s, n < 7 → getF s DYN_IDX_SEL = 0 → ∃ t, exec (.dynTableWrite n v) s = .next t ∧ OnlyFields s t [(DYN_DATA_DATA n, v)])
  ∧ (∀ v s i, i = getF s DYN_IDX_INDEX → getF s DYN_IDX_SEL = 0 → i < maxDyn s → dynLocked s i = true →
    ∃ t, exec (.dynTableWrite 7 v) s = .next t ∧ OnlyFields s t [(DYN_DATA_DATA 7, v), (DYN_STAT_SL_LOCK_ERR, 1)])
  ∧ (∀ v s i, i = getF s DYN_IDX_INDEX → getF s DYN_IDX_SEL = 0 → i < maxDyn s → dynLocked s i = false →
    ∃ t, exec (.dynTableWrite 7 v) s = .next t ∧ OnlyFields { s with dyn := { s.dyn with shadow := t.dyn.shadow } } t [(DYN_DATA_DATA 7, v)]
      ∧ t.dyn.shadow.get i dynNone = (List.range 8).map (fun k => getF t (DYN_DATA_DATA k))
      ∧ ∀ j, j ≠ i → t.dyn.shadow.get j dynNone = s.dyn.shadow.get j dynNone)
  ∧ (∀ n v s, n < 7 → getF s STR_IDX_SEL ≠ 3 → ∃ t, exec (.strTableWrite n v) s = .next t ∧ OnlyFields s t [(STR_DATA_DATA n, v)])
  ∧ (∀ n v s i, n < 8 → getF s STR_IDX_SEL = 3 → i = getF s STR_IDX_INDEX → ∃ t, exec (.strTableWrite n v) s = .next t
    ∧ OnlyFields { s with str := { s.str with rxSt := t.str.rxSt } } t [(STR_DATA_DATA n, v)]
    ∧ (n ≠ 0 ∨ nRxs s ≤ i → t.str = s.str) ∧ (n = 0 → i < nRxs s → rxStr t i = { rxStr s i with
        cnt := [0, 0, 0, 0, 0, 0, 0]
        leadMin := none } ∧ ∀ j, j ≠ i → rxStr t j = rxStr s j))
  ∧ (∀ v s i k e, k = getF s STR_IDX_SEL → i = getF s STR_IDX_INDEX → i < tableSize s k → 
      e = strMasked k ((List.range 7).map (fun n => getF s (STR_DATA_DATA n)) ++ [lo32 v]) →
    (k = 0 → ∃ t, exec (.strTableWrite 7 v) s = .next (settled t) ∧ t.str = { s.str with cls := s.str.cls.set i e [0, 0, 0] }
      ∧ OnlyFields { s with str := t.str } t ((STR_DATA_DATA 7, v) :: if clsTwin s i e then [(STR_STAT_CLS_CONFLICT, 1)] else []))
    ∧ (k = 4 → ∃ t, exec (.strTableWrite 7 v) s = .next (settled t) ∧ t.str = { s.str with rxMap := s.str.rxMap.set i (e.getD 0 0) 0 }
      ∧ OnlyFields { s with str := t.str } t [(STR_DATA_DATA 7, v)])
    ∧ (k = 7 → ∃ t, exec (.strTableWrite 7 v) s = .next (settled t) ∧ t.str = { s.str with txMap := s.str.txMap.set i (e.getD 0 0) 0 }
      ∧ OnlyFields { s with str := t.str } t [(STR_DATA_DATA 7, v)])
    ∧ (k = 1 → (ef (rxEntry s i) 0 0 1 = 1 → (rxEntry s i).set 0 ((rxEntry s i).getD 0 0 / 2) ≠ e.set 0 (e.getD 0 0 / 2) →
        ∃ t, exec (.strTableWrite 7 v) s = .next (settled t) ∧ OnlyFields s t [(STR_DATA_DATA 7, v), (STR_STAT_CFG_ERR, 1)])
      ∧ (ef (rxEntry s i) 0 0 1 = 0 ∨ (rxEntry s i).set 0 ((rxEntry s i).getD 0 0 / 2) = e.set 0 (e.getD 0 0 / 2) → ∃ t, exec (.strTableWrite 7 v) s = .next (settled t) ∧ rxEntry t i = e
        ∧ (∀ j, j ≠ i → rxEntry t j = rxEntry s j) ∧ OnlyFields { s with str := t.str } t
          ((STR_DATA_DATA 7, v) :: if ef e 0 0 1 = 1 ∧ 5 ≤ ef e 0 3 3 then [(STR_STAT_CFG_ERR, 1)] else [])))
    ∧ (k = 5 → (ef (txEntry s i) 0 0 1 = 1 → (txEntry s i).set 0 ((txEntry s i).getD 0 0 / 2) ≠ e.set 0 (e.getD 0 0 / 2) →
        ∃ t, exec (.strTableWrite 7 v) s = .next (settled t) ∧ OnlyFields s t [(STR_DATA_DATA 7, v), (STR_STAT_CFG_ERR, 1)])
      ∧ (ef (txEntry s i) 0 0 1 = 0 ∨ (txEntry s i).set 0 ((txEntry s i).getD 0 0 / 2) = e.set 0 (e.getD 0 0 / 2) → ∃ t, exec (.strTableWrite 7 v) s = .next (settled t) ∧ txEntry t i = e
        ∧ (∀ j, j ≠ i → txEntry t j = txEntry s j) ∧ OnlyFields { s with str := t.str } t
          ((STR_DATA_DATA 7, v) :: if ef e 0 0 1 = 1 ∧ 5 ≤ ef e 0 3 3 then [(STR_STAT_CFG_ERR, 1)] else []))))

/-- An input frame of a running lane without an ASRC adds its two words, MSB-aligned, to what waits for the boundary, or
zeros where the frame is a preamble of a lane that looks for one, which starts its hold of 4,096 frames. A driven output
lane without an ASRC shifts out the pair last read, rounded and saturated to its word length, or zeros under the hard
mute; one not driven shifts out nothing. A slave group without its clock loses CLK, and its enabled lanes with it. After
the hold the mute lifts. The model's choices that it rests on: log entries 11, 56. (R165, R167, R168, R169, R170, R171,
R179, R358) -/
def Obligations.SerialPorts : Prop :=
  (∀ n frame c ratio s half wl w, running s = true → laneOn s n = true → laneIsOut s n = false → laneAsrc s n = none →
    half = chanBits (getL s (SP_GRP_CTL_FRAME (n / 8))) → wl = wordLen (getL s (SP_LANE_CFG_WL n)) →
    w = (fun ch => alignWord wl (frameWord frame (2 * half) half wl (getL s (SP_LANE_CFG_FMT n)) ch)) →
    (flagL s (SP_LANE_CFG_NA_EN n) = false → ∃ t, exec (.serialFrameIn n frame c ratio) s = .next t
      ∧ (laneOf t n).arrived = (laneOf s n).arrived ++ [(w 0, w 1)] ∧ (laneOf t n).count = (laneOf s n).count + 1
      ∧ getF t (SP_LANE_STAT_NONAUDIO n) = 0 ∧ (∀ m, m ≠ n → laneOf t m = laneOf s m))
    ∧ (flagL s (SP_LANE_CFG_NA_EN n) = true → isPreamble (w 0) (w 1) = true → ∃ t, exec (.serialFrameIn n frame c ratio) s = .next t
      ∧ (laneOf t n).arrived = (laneOf s n).arrived ++ [(0, 0)] ∧ getF t (SP_LANE_STAT_NONAUDIO n) = 1
      ∧ getF t (SP_LANE_STAT_NA_HOLD n) = 4096))
  ∧ (∀ n c ratio s wl, running s = true → laneOn s n = true → laneIsOut s n = true → laneAsrc s n = none →
    wl = wordLen (getL s (SP_LANE_CFG_WL n)) → ∃ t, exec (.serialFrameOut n c ratio) s = .next t
      ∧ (laneOf t n).count = (laneOf s n).count + 1 ∧ (laneOf t n).out = (laneOf s n).out
      ∧ (laneDrives s n = true → t.out.head? = some ⟨.serial, [n, outWord wl (if audible s then (laneOf s n).out.1 else 0),
          outWord wl (if audible s then (laneOf s n).out.2 else 0)]⟩)
      ∧ (laneDrives s n = false → ∀ x ∈ t.out, x.kind = .serial → x ∈ s.out))
  ∧ (∀ wl v, 16 ≤ wl → wl ≤ 32 → toS wl (outWord wl v) = max (-(2 ^ (wl - 1))) (min (2 ^ (wl - 1) - 1) (rne (32 - wl) (toS 32 v))))
  ∧ (∀ g s, g < nGroups s → getL s (SP_GRP_CTL_MASTER g) = 0 → flag s (SP_GRP_STAT_CLK_LOST g) = false →
    ∃ t, exec (.serialClockLoss g) s = .next t ∧ getF t (SP_GRP_STAT_CLK_LOST g) = 1
      ∧ ∀ k, k < 8 → flagL s (SP_LANE_CFG_EN (8 * g + k)) = true →
          getF t (SP_LANE_STAT_CLK_LOST (8 * g + k)) = 1 ∧ (laneOf t (8 * g + k)).arrived = [])
  ∧ (∀ n s, n < nLanes s → flag s (SP_LANE_STAT_NONAUDIO n) = true → getF s (SP_LANE_STAT_NA_HOLD n) = 0 →
    ∃ u t, exec (.nonaudioHoldExpiry false n) s = .next t ∧ Told u t ∧ OnlyFields s u [(SP_LANE_STAT_NONAUDIO n, 0)])
  ∧ (∀ n s, n < nAes s → (aesOf s n).naMute = true → (aesOf s n).naHold = 0 → ∃ t, exec (.nonaudioHoldExpiry true n) s = .next t
    ∧ (aesOf t n).naMute = false ∧ flag t (AES_RX_STAT_NONAUDIO n) = (aesOf s n).csMute)

/-- A good frame of a locked receiver without an ASRC or a non-audio search joins its buffer of four, MSB-aligned from 24
bits; when the buffer is full the oldest goes and CNT_SLIP counts. The sixteenth good frame of one rate in a row sets
LOCK and RATE; a loss of lock clears both and the buffer. A block start latches a receiver's channel status where its CRC
holds, and user bits, and starts a driving transmitter's next block with the buffers committed. TX_COMMIT commits the
staged buffers. AES_DATA reads the word that AES_IDX names or writes it in a staged buffer, and the word index advances,
5 to 0. The model's choices that it rests on: log entries 50, 51. (R173, R174, R175, R179, R180, R181) -/
def Obligations.Aes3Ports : Prop :=
  (∀ n a b v s, n < nAes s → flagL s (AES_RX_CTL_EN n) = true → flag s (AES_RX_STAT_LOCK n) = true →
    flagL s (AES_RX_CTL_ASRC_EN n) = false → flagL s (AES_RX_CTL_NA_EN n) = false → ∀ rate ratio,
    ∃ t, exec (.aes3RxFrame n a b false false v rate ratio) s = .next t ∧ flag t (AES_RX_STAT_LOCK n) = true
      ∧ (aesOf t n).buf = (if (aesOf s n).buf.length < 4 then (aesOf s n).buf else (aesOf s n).buf.drop 1)
          ++ [(alignWord 24 a, alignWord 24 b)]
      ∧ (4 ≤ (aesOf s n).buf.length →
          getF t (AES_RX_CNT_SLIP n) = min (getF s (AES_RX_CNT_SLIP n) + 1) (2 ^ (AES_RX_CNT_SLIP n).width - 1)))
  ∧ (∀ n a b v rate ratio s, n < nAes s → flagL s (AES_RX_CTL_EN n) = true → flag s (AES_RX_STAT_LOCK n) = false →
    0 < rate → rate < 8 → (aesOf s n).rate = rate → 15 ≤ (aesOf s n).good →
    ∃ t, exec (.aes3RxFrame n a b false false v rate ratio) s = .next t ∧ getF t (AES_RX_STAT_LOCK n) = 1 ∧ getF t (AES_RX_STAT_RATE n) = rate)
  ∧ (∀ n s, n < nAes s → flag s (AES_RX_STAT_LOCK n) = true → ∃ t, exec (.aes3LockLoss n) s = .next t
    ∧ getF t (AES_RX_STAT_LOCK n) = 0 ∧ getF t (AES_RX_STAT_RATE n) = 0 ∧ (aesOf t n).buf = [] ∧ (aesOf t n).good = 0)
  ∧ (∀ n ca cb ua ub s, n < nAes s → flag s (AES_RX_STAT_LOCK n) = true → ∃ t, exec (.aes3BlockStart false n ca cb ua ub) s = .next t
    ∧ (aesOf t n).rx = ⟨if csLatches ca then ca else (aesOf s n).rx.csA, if csLatches cb then cb else (aesOf s n).rx.csB, ua, ub⟩
    ∧ getF t (AES_RX_STAT_GRADE n) = bits (aesOf t n).rx.csA 32 2 ∧ getF t (AES_RX_STAT_V_SEEN n) = b2n (aesOf s n).vNow)
  ∧ (∀ n ca cb ua ub s b, txDrives s n = true → b = (if (aesOf s n).commit then (aesOf s n).staged else (aesOf s n).sending) →
    ∃ t, exec (.aes3BlockStart true n ca cb ua ub) s = .next t ∧ (aesOf t n).sending = b ∧ (aesOf t n).commit = false
      ∧ (flagL s (AES_TX_CTL_CRC_GEN n) = false → t.out = ⟨.serial, [128 + n, b.csA, b.csB, b.usA, b.usB, b2n (flagL s (AES_TX_CTL_V_OUT n))]⟩ :: s.out))
  ∧ (∀ n s, n < nAes s → exec (.aes3TxCommit n) s = .next (updAes n (fun x => { x with commit := true }) s))
  ∧ (∀ v s p k c w, p = getF s AES_IDX_PORT → k = getF s AES_IDX_KIND → c = getF s AES_IDX_CH → w = getF s AES_IDX_WORD → p < nAes s → w < 6 →
    (∃ t, exec (.aesDataAccess false v) s = .next t ∧ t.out = ⟨.response, [0, 0, 0, bits (aesBuf (aesOf s p) k c) (32 * w) 32]⟩ :: s.out
      ∧ OnlyFields s { t with out := s.out } [(AES_IDX_WORD, (w + 1) % 6)])
    ∧ (2 ≤ k → ∃ t, exec (.aesDataAccess true v) s = .next t ∧ getF t AES_IDX_WORD = (w + 1) % 6
      ∧ aesOf t p = putAesBuf k c (putWord32 (aesBuf (aesOf s p) k c) w v) (aesOf s p)))

/-- An instance that is ACQUIRING locks on a ratio in [0.5, 2] with its FIFO within one sample of the group delay. One
that is LOCKED and loses its source holds, and no longer leads. One that holds and runs empty is UNLOCKED with FILL 0.
The model's choices that it rests on: log entry 52. (R176, R177, R178) -/
def Obligations.RateConversion : Prop :=
  (∀ i r f s, i < nAsrc s → getF s (SP_ASRC_STAT_STATE i) = 1 → ratioOk r = true → asrcDelay s i ≤ f + 1 → f ≤ asrcDelay s i + 1 →
    ∃ t, exec (.asrcAcquireLock i r f) s = .next t ∧ getF t (SP_ASRC_STAT_STATE i) = 2 ∧ getF t (SP_ASRC_STAT_FILL i) = f
      ∧ (flagL s (SP_ASRC_CTL_GANG_EN i) = false → getF t (SP_ASRC_RATIO_RATIO i) = r ∧ getF t (SP_ASRC_STAT_LEADING i) = 1))
  ∧ (∀ i s, i < nAsrc s → getF s (SP_ASRC_STAT_STATE i) = 2 → ∃ t, exec (.asrcSourceLost i) s = .next t
    ∧ getF t (SP_ASRC_STAT_STATE i) = 3 ∧ (flagL s (SP_ASRC_CTL_GANG_EN i) = false → getF t (SP_ASRC_STAT_LEADING i) = 0))
  ∧ (∀ i s, i < nAsrc s → getF s (SP_ASRC_STAT_STATE i) = 3 → ∃ t, exec (.asrcFifoEmpty i) s = .next t
    ∧ getF t (SP_ASRC_STAT_STATE i) = 0 ∧ getF t (SP_ASRC_STAT_FILL i) = 0)

/-- A locked MAC whose code word reports an enabled rate brings its link up at that rate; a lost lock takes it down and
empties its transmit FIFO; both set LINK_CHG. A PAUSE frame of a quantum above 0 pauses an enabled MAC that its watchdog
does not hold; an expiry resumes it, and the watchdog's expiry with a waiting frame resumes it, holds further PAUSE off
until PAUSE_IGNORE_END, and sets PAUSE_WD. A snapshot copies and clears the 48 counters. Enabling a ring sets its HEAD to
0. A counter holds at its maximum with CNT_OVF. The model's choices that it rests on: log entries 60, 62. (R182, R184,
R185, R189, R197, R198, R199) -/
def Obligations.MacLinkAndPause : Prop :=
  (∀ m r rx s, m < 4 → m < nMacs s → flag s (MAC_CTL_EN m) = true → getF s (MAC_CTL_RATE_SRC m) = 0 → flag s (MAC_CTL_MODE m) = true →
    flag s (MAC_LINK_LINK_UP m) = false → rateOk s m r = true → ∃ t, exec (.macLinkChange m true true r rx) s = .next t
      ∧ getF t (MAC_LINK_LINK_UP m) = 1 ∧ getF t (MAC_LINK_RATE m) = r ∧ getF t (MAC_IRQ_LINK_CHG m) = 1
      ∧ getF t (MAC_LINK_RATE_MISMATCH m) = 0 ∧ getF t (MAC_LINK_PCS_LOCK m) = 1)
  ∧ (∀ m rep r rx s, m < 4 → m < nMacs s → flag s (MAC_LINK_LINK_UP m) = true → ∃ t, exec (.macLinkChange m false rep r rx) s = .next t
      ∧ getF t (MAC_LINK_LINK_UP m) = 0 ∧ getF t (MAC_LINK_RATE m) = 0 ∧ getF t (MAC_LINK_PAUSED m) = 0 ∧ getF t (MAC_IRQ_LINK_CHG m) = 1
      ∧ (macOf t m).tx = [] ∧ (macOf t m).c0 = [] ∧ (macOf t m).c1 = [] ∧ (macOf t m).rx = (macOf s m).rx)
  ∧ (∀ m b half s, m < 4 → m < nMacs s → flag s (MAC_LINK_LINK_UP m) = true → 60 ≤ b.length → b.length + 4 ≤ getF s (MAC_MAXLEN_RX_MAX m) →
    rxHeld (macOf s m) + b.length + 4 ≤ 16384 → etherType b = 0x8808 → be b 14 2 = 1 → dstMac b = 0x0180C2000001 →
    flag s (MAC_PAUSE_PAUSE_EN m) = true → flag s (MAC_LINK_WD_HOLD m) = false → be b 16 2 ≠ 0 →
    ∃ t, exec (.macRxFrame m b true false half) s = .next t ∧ flag t (MAC_LINK_PAUSED m) = true ∧ (macOf t m).rx = (macOf s m).rx
      ∧ getF t (MAC_CNT_COUNT m 5) = min (getF s (MAC_CNT_COUNT m 5) + 1) 4294967295)
  ∧ (∀ m s, m < nMacs s → flag s (MAC_LINK_PAUSED m) = true → exec (.pauseExpiry m) s
      = .next (cntAdd m 44 (pausedFor s m) (putF (MAC_LINK_PAUSED m) 0 s)))
  ∧ (∀ m s, m < 4 → m < nMacs s → flag s (MAC_LINK_PAUSED m) = true → flag s (MAC_PAUSE_WD_US m) = true → 0 < txHeld (macOf s m) →
    ∃ t, exec (.pauseWatchdogExpiry m) s = .next t ∧ getF t (MAC_LINK_PAUSED m) = 0 ∧ getF t (MAC_LINK_WD_HOLD m) = 1
      ∧ getF t (MAC_IRQ_PAUSE_WD m) = 1 ∧ getF t (MAC_CNT_COUNT m 45) = min (getF s (MAC_CNT_COUNT m 45) + 1) 4294967295)
  ∧ (∀ m s, m < nMacs s → ∃ t, exec (.pauseIgnoreEnd m) s = .next t ∧ OnlyFields s t [(MAC_LINK_WD_HOLD m, 0)])
  ∧ (∀ m s, m < 4 → m < nMacs s → ∃ t, exec (.macCounterSnap m) s = .next t ∧ t = { s with regs := t.regs }
      ∧ ∀ i, i < 48 → getF t (MAC_CNT_COUNT m i) = 0 ∧ getF t (MAC_SNAP_COUNT m i) = getF s (MAC_CNT_COUNT m i) % 2 ^ 32)
  ∧ (∀ m r s, m < nMacs s → r < 2 → flag s (MAC_RX_CFG_EN m r) = false →
    ∃ t, exec (.ringEnable m false r true) s = .next t ∧ OnlyFields s t [(MAC_RX_CFG_EN m r, 1), (MAC_RX_HEAD_HEAD m r, 0)])
  ∧ (∀ m r s, m < nMacs s → r < 2 → flag s (MAC_TX_CFG_EN m r) = false →
    ∃ t, exec (.ringEnable m true r true) s = .next t ∧ OnlyFields s t [(MAC_TX_CFG_EN m r, 1), (MAC_TX_HEAD_HEAD m r, 0)])
  ∧ (∀ m r s, m < nMacs s → r < 2 →
    (∃ t, exec (.ringEnable m false r false) s = .next t ∧ OnlyFields s t [(MAC_RX_CFG_EN m r, 0)])
    ∧ (∃ t, exec (.ringEnable m true r false) s = .next t ∧ OnlyFields s t [(MAC_TX_CFG_EN m r, 0)]))
  ∧ (∀ m i n s, m < 4 → i < 48 → getF (cntAdd m i n s) (MAC_CNT_COUNT m i) = min (getF s (MAC_CNT_COUNT m i) + n) 4294967295
    ∧ (4294967295 < getF s (MAC_CNT_COUNT m i) + n → getF (cntAdd m i n s) (MAC_IRQ_CNT_OVF m) = 1))

/-- A frame with an error is counted and dropped: an error inside, too short, too long, a bad FCS, no room. A good
untagged unicast frame that matches a perfect entry, that no classifier entry takes and that a ring takes joins the
receive FIFO with its timestamp. Its delivery takes whole descriptors and advances HEAD, or drops it without a buffer. A
transmit ring that is enabled on a live link fetches its chain; one not handed over leaves everything but the read. The
next frame to start is that of the streams, then ring 0, then ring 1; it leaves with its FCS. The model's choices that it
rests on: log entries 60, 61. (R188, R189, R190, R191, R193, R194, R195, R197) -/
def Obligations.MacFrames : Prop :=
  (∀ m b ok half s, m < nMacs s → flag s (MAC_LINK_LINK_UP m) = true → exec (.macRxFrame m b ok true half) s = .next (cntAdd m 15 1 s))
  ∧ (∀ m b ok half s, m < nMacs s → flag s (MAC_LINK_LINK_UP m) = true → b.length < 60 →
    exec (.macRxFrame m b ok false half) s = .next (cntAdd m (if ok then 16 else 17) 1 s))
  ∧ (∀ m b ok half s, m < nMacs s → flag s (MAC_LINK_LINK_UP m) = true → 60 ≤ b.length → getF s (MAC_MAXLEN_RX_MAX m) < b.length + 4 →
    exec (.macRxFrame m b ok false half) s = .next (cntAdd m (if ok then 18 else 19) 1 s))
  ∧ (∀ m b half s, m < nMacs s → flag s (MAC_LINK_LINK_UP m) = true → 60 ≤ b.length → b.length + 4 ≤ getF s (MAC_MAXLEN_RX_MAX m) →
    exec (.macRxFrame m b false false half) s = .next (cntAdd m 14 1 s)
    ∧ (16384 < rxHeld (macOf s m) + (b.length + 4) → exec (.macRxFrame m b true false half) s = .next (cntAdd m 22 1 s)))
  ∧ (∀ m b half s, m < 4 → m < nMacs s → flag s (MAC_LINK_LINK_UP m) = true → 60 ≤ b.length → b.length + 4 ≤ getF s (MAC_MAXLEN_RX_MAX m) →
    rxHeld (macOf s m) + (b.length + 4) ≤ 16384 → etherType b ≠ 0x8808 → etherType b ≠ 0x8100 → castOf b = 0 → perfectMatch s m (dstMac b) = true →
    classifyFrame s m b = none → (ringOf s m b).isSome = true → ∃ t, exec (.macRxFrame m b true false half) s = .next t
      ∧ (macOf t m).rx = (macOf s m).rx ++ [⟨b, none, linOf (ingressTime s m half) % 2 ^ 32⟩])
  ∧ (∀ m s f q, (macOf s m).rx = f :: q → ringOf s m f.bytes = none →
    exec (.ringFrameDeliver m) s = .next (noBuf m (updMac m (fun x => { x with rx := q }) s)))
  ∧ (∀ m s f q r, (macOf s m).rx = f :: q → ringOf s m f.bytes = some r →
    exec (.ringFrameDeliver m) s = .next (deliver m f r (updMac m (fun x => { x with rx := q }) s)))
  ∧ (∀ m s f r x u ds, m < 4 → r < 2 → x = takeDescs m (getF s (MAC_RX_BASE_BASE m r)) (getF s (MAC_RX_CFG_SIZE m r)) (getF s (MAC_RX_HEAD_HEAD m r))
      f.bytes.length 0 32 s → (x = (none, u) → deliver m f r s = noBuf m u)
    ∧ (x = (some ds, u) → getF (deliver m f r s) (MAC_RX_HEAD_HEAD m r)
      = (getF s (MAC_RX_HEAD_HEAD m r) + ds.length) % 2 ^ (getF s (MAC_RX_CFG_SIZE m r) + 3) % 1024))
  ∧ (∀ m r s, m < nMacs s → r < 2 → flag s (MAC_TX_CFG_EN m r) = true → flag s (MAC_LINK_LINK_UP m) = true →
    exec (.txChainFetch m r) s = .next (fetchChain m r s)
    ∧ ∀ w, w = dmaWord (5 + m) (descAddr (getF s (MAC_TX_BASE_BASE m r)) (getF s (MAC_TX_CFG_SIZE m r)) (getF s (MAC_TX_HEAD_HEAD m r)) + 4) s →
        bitOf w.1 31 = false → exec (.txChainFetch m r) s = .next w.2)
  ∧ (∀ m half s f q, m < nMacs s → flag s (MAC_LINK_LINK_UP m) = true → flag s (MAC_LINK_PAUSED m) = false → (macOf s m).tx = f :: q →
    ∃ t, exec (.macTxFrameStart m half) s = .next t ∧ t.out = ⟨.frame, m :: (f.2 ++ fcsOf f.2)⟩ :: s.out ∧ (macOf t m).tx = q
      ∧ (macOf t m).c0 = (macOf s m).c0 ∧ (macOf t m).c1 = (macOf s m).c1)
  ∧ (∀ m half s f q, m < nMacs s → flag s (MAC_LINK_LINK_UP m) = true → flag s (MAC_LINK_PAUSED m) = false → (macOf s m).tx = [] →
    (macOf s m).c0 = f :: q → exec (.macTxFrameStart m half) s = .next (sendCtrl m 0 half f (updMac m (fun x => { x with c0 := q }) s)))
  ∧ (∀ m half s f q, m < nMacs s → flag s (MAC_LINK_LINK_UP m) = true → flag s (MAC_LINK_PAUSED m) = false → (macOf s m).tx = [] →
    (macOf s m).c0 = [] → (macOf s m).c1 = f :: q →
    exec (.macTxFrameStart m half) s = .next (sendCtrl m 1 half f (updMac m (fun x => { x with c1 := q }) s)))
  ∧ (∀ m r half f s, f.tsReq = false → f.chain = [] → ∃ t, t = sendCtrl m r half f s ∧ t.out = ⟨.frame, m :: (f.bytes ++ fcsOf f.bytes)⟩ :: s.out)

/-- A poll that falls due and a transaction that MDIOb_CMD starts join the queue of their bus, and start at once on an
idle one; the transaction sets BUSY. When the running one ends the next starts; a read of MDIOb_CMD stores its data, and
BUSY is clear unless another command waits; a poll's data set what the MAC's link is judged by. The model's choices that
it rests on: log entry 11. (R186, R187) -/
def Obligations.MdioBuses : Prop :=
  (∀ m s, m < nMacs s → flag s (MAC_PHY_INTERVAL m) = true → ∃ t, exec (.mdioPoll m) s = .next t
    ∧ t.net.mdio.get (m / 2) [] = s.net.mdio.get (m / 2) [] ++ [⟨m, getF s (MAC_PHY_PHYAD m), getF s (MAC_PHY_DEVAD m), getF s (MAC_PHY_CL45 m), 2,
        getF s (MAC_PHY_REG m)⟩]
    ∧ (s.net.mdio.get (m / 2) [] ≠ [] → t.out = s.out)
    ∧ (s.net.mdio.get (m / 2) [] = [] → t.out = ⟨.mdio, [m / 2, getF s (MAC_PHY_PHYAD m), getF s (MAC_PHY_DEVAD m), getF s (MAC_PHY_CL45 m), 2,
        getF s (MAC_PHY_REG m)]⟩ :: s.out))
  ∧ (∀ b v s, b < nMdio s → ∃ t, exec (.mdioTransaction b v) s = .next t ∧ getF t (MDIO_CMD_BUSY b) = 1
    ∧ t.net.mdio.get b [] = s.net.mdio.get b [] ++ [⟨255, bits v 0 5, bits v 5 5, bits v 10 1, bits v 11 2, getF s (MDIO_DATA_DATA b)⟩])
  ∧ (∀ b d s o q, s.net.mdio.get b [] = o :: q → 4 ≤ o.who → ∃ t, exec (.mdioDone b d) s = .next t ∧ t.net.mdio.get b [] = q
    ∧ getF t (MDIO_CMD_BUSY b) = b2n (q.any (fun x => x.who == 255)) ∧ (2 ≤ o.op → getF t (MDIO_DATA_DATA b) = d % 65536)
    ∧ (o.op < 2 → getF t (MDIO_DATA_DATA b) = getF s (MDIO_DATA_DATA b))
    ∧ t.out = (match q with | n :: _ => [⟨.mdio, [b, n.phy, n.dev, n.cl45, n.op, n.data]⟩] | [] => []) ++ s.out)
  ∧ (∀ b d s o q, s.net.mdio.get b [] = o :: q → o.who < 4 → ∃ t, exec (.mdioDone b d) s = .next t ∧ t.net.mdio.get b [] = q
    ∧ (macOf t o.who).poll = decodePoll s o.who d)

/-- INC_WRITE commits an increment in the range of R221, with the staged fraction, or sets INC_REJ. A read of PTP_TIME_NS
captures the whole time and the linear view, a read of PTP_CSTAMP_CI the last course stamp. SET loads the staged time
with FRAC 0, STEP moves the time by it and keeps FRAC; nanoseconds of a second or more, or a time outside the range, set
ADJ_REJ and change nothing else. A lost system PLL holds the counter and raises ALERT until it is locked again. The
model's choices that it rests on: log entry 12. (R220, R221, R222, R223, R224, R230) -/
def Obligations.PtpCounter : Prop :=
  (∀ hi s v, v = hi % 256 * 2 ^ 32 + s.stage.get PTP_INC_LO_INC_FRAC.addr (getF s PTP_INC_LO_INC_FRAC) →
    (0x03E6666666 ≤ v → v ≤ 0x041999999A → ∃ t, exec (.incWrite hi) s = .next t
      ∧ OnlyFields s t [(PTP_INC_HI_INC_NS, v / 2 ^ 32), (PTP_INC_LO_INC_FRAC, v % 2 ^ 32)])
    ∧ (v < 0x03E6666666 ∨ 0x041999999A < v → ∃ t, exec (.incWrite hi) s = .next t ∧ OnlyFields s t [(PTP_STAT_INC_REJ, 1)]))
  ∧ (∀ s, ∃ t, exec .ptpTimeCapture s = .next t ∧ t.out = ⟨.response, [0, 0, 0, s.ptp.ns]⟩ :: s.out
    ∧ OnlyFields s { t with out := s.out } [(PTP_TIME_NS_NS, s.ptp.ns), (PTP_TIME_FRAC_FRAC, s.ptp.frac), (PTP_TIME_SEC_LO_SEC, s.ptp.sec),
      (PTP_TIME_SEC_HI_SEC, s.ptp.sec / 2 ^ 32), (PTP_LIN_LO_LIN, lin s), (PTP_LIN_HI_LIN, lin s / 2 ^ 32)])
  ∧ (∀ s, lin s = (s.ptp.sec * 1000000000 + s.ptp.ns + s.ptp.frac / 2 ^ 32) % 2 ^ 48)
  ∧ (∀ s, ∃ t, exec .cstampReadCapture s = .next t ∧ t.out = ⟨.response, [0, 0, 0, s.ptpIo.stamp.2.2]⟩ :: s.out
    ∧ OnlyFields s { t with out := s.out } [(PTP_CSTAMP_CI_CI, s.ptpIo.stamp.2.2), (PTP_CSTAMP_LIN_LO_LIN, s.ptpIo.stamp.1),
      (PTP_CSTAMP_LIN_HI_LIN, s.ptpIo.stamp.1 / 2 ^ 32), (PTP_CSTAMP_LIN_HI_SUBNS, s.ptpIo.stamp.2.1)])
  ∧ (∀ s, getF s PTP_ADJ_NS_NS < 1000000000 → ∃ t, exec .ptpSet s = .next t ∧ t.ptp = ⟨stagedSec s, getF s PTP_ADJ_NS_NS, 0⟩
    ∧ t.clk = s.clk ∧ t.fab = s.fab)
  ∧ (∀ s, 1000000000 ≤ getF s PTP_ADJ_NS_NS → ∃ t, exec .ptpSet s = .next t ∧ OnlyFields s t [(PTP_STAT_ADJ_REJ, 1)])
  ∧ (∀ neg s (n : Int), n = s.ptp.sec * 1000000000 + s.ptp.ns
      + (if neg then -1 else 1) * (stagedSec s * 1000000000 + getF s PTP_ADJ_NS_NS : Int) →
    (getF s PTP_ADJ_NS_NS < 1000000000 → 0 ≤ n → n < 2 ^ 48 * 1000000000 → ∃ t, exec (.ptpStep neg) s = .next t
      ∧ (t.ptp.sec * 1000000000 + t.ptp.ns : Int) = n ∧ t.ptp.ns < 1000000000 ∧ t.ptp.frac = s.ptp.frac ∧ t.clk = s.clk ∧ t.fab = s.fab)
    ∧ (1000000000 ≤ getF s PTP_ADJ_NS_NS ∨ n < 0 ∨ 2 ^ 48 * 1000000000 ≤ n →
      ∃ t, exec (.ptpStep neg) s = .next t ∧ OnlyFields s t [(PTP_STAT_ADJ_REJ, 1)]))
  ∧ (∀ s, ∃ t, exec .systemPllLoss s = .next t ∧ OnlyFields s t [(PTP_STAT_TICK_LOST, 1), (LIFE_STATUS_ALERT, 1)] ∧ countTick t = t)
  ∧ (∀ s, ∃ t, exec .systemPllRelock s = .next t ∧ OnlyFields s t [(PTP_STAT_TICK_LOST, 0), (LIFE_STATUS_ALERT,
      b2n (getF s LIFE_FAULT_BOOT != 0 || flag s LIFE_FAULT_PLL || flag s LIFE_FAULT_SUPPLY || flag s LIFE_FAULT_THERMAL))])

/-- Arming an idle output takes its settings: a periodic one starts at START or the next grid point after it, a one-shot
that has passed sets LATE. At its edge an output shows its active level and the next edge follows by PERIOD; at its fall
it shows the other level. A captured edge joins a FIFO of 16 or sets OVF; a read takes the oldest. An Announce to a port
that may not be MASTER makes its sender the master of a SLAVE port, with ANN_VALID; a timeout clears that. A measured
offset beyond the threshold steps the counter. The model's choices that it rests on: log entries 12, 72, 73. (R224, R225,
R228, R229, R232, R237) -/
def Obligations.PtpEventsAndMessages : Prop :=
  (∀ o pol gate s p w, o < 8 → (pulseOf s o).fall = none → p = getF s (PTPO_PERIOD_PERIOD o) →
    w = getF s (PTPO_START_LO_START o) + 2 ^ 32 * getF s (PTPO_START_HI_START o) →
    (0 < p → ∃ t k, exec (.pulseArm o true pol gate) s = .next t ∧ getF t (PTPO_CTL_ARM o) = 1 ∧ (pulseOf t o).armed = true
      ∧ (pulseOf t o).start = w ∧ (pulseOf t o).period = p ∧ (pulseOf t o).next = (w + k * p) % 2 ^ 48 ∧ (pulseOf t o).idx = k
      ∧ -linDist w (lin s) ≤ k * p ∧ (0 ≤ linDist w (lin s) → k = 0) ∧ (k : Int) * p < max 0 (-linDist w (lin s)) + p)
    ∧ (p = 0 → linDist w (lin s) < 0 → ∃ t, exec (.pulseArm o true pol gate) s = .next t ∧ (pulseOf t o).armed = false
      ∧ getF t (PTPO_CTL_LATE o) = 1))
  ∧ (∀ o pol gate s, o < 8 → (pulseOf s o).fall = none → ∃ t, exec (.pulseArm o false pol gate) s = .next t
    ∧ (pulseOf t o).armed = false ∧ getF t (PTPO_CTL_ARM o) = 0 ∧ t.out.length = s.out.length + 1)
  ∧ (∀ o s, o < 8 → (pulseOf s o).armed = true → (pulseOf s o).stopping = false → flag s PTP_STAT_COARSE = false →
    linDist (pulseOf s o).next (lin s) ≤ 0 → 0 < (pulseOf s o).width → ∃ t, exec (.pulseEdge o) s = .next t
      ∧ (pulseOf t o).next = ((pulseOf s o).next + (pulseOf s o).period) % 2 ^ 48 ∧ (pulseOf t o).idx = (pulseOf s o).idx + 1
      ∧ t.out = ⟨.pulse, [o, if flag s (PTPO_CTL_CLAIM_GATE o) && !(s.pair.drivers && flag s PAIR_STAT_CLAIM) then 2
          else b2n (!(pulseOf s o).pol)]⟩ :: s.out)
  ∧ (∀ o s e, o < 8 → (pulseOf s o).fall = some e → linDist e (lin s) ≤ 0 → (pulseOf s o).waiting = none → ∃ t, exec (.pulseFall o) s = .next t
      ∧ (pulseOf t o).fall = none ∧ t.out = ⟨.pulse, [o, if flag s (PTPO_CTL_CLAIM_GATE o) && !(s.pair.drivers && flag s PAIR_STAT_CLAIM) then 2
          else b2n (pulseOf s o).pol]⟩ :: s.out)
  ∧ (∀ i rise s, i < 8 → flag s (PTPI_CTL_EN i) = true → flag s PTP_STAT_COARSE = false →
    (getF s (PTPI_CTL_EDGE i) = 3 ∨ getF s (PTPI_CTL_EDGE i) = (if rise then 1 else 2)) →
    ((captures s i).length < 16 → ∃ t, exec (.captureEdge i rise) s = .next t ∧ captures t i = captures s i ++ [⟨lin s, rise⟩]
      ∧ getF t (PTPI_STAT_COUNT i) = (captures s i).length + 1)
    ∧ (16 ≤ (captures s i).length → ∃ t, exec (.captureEdge i rise) s = .next t ∧ OnlyFields s t [(PTPI_STAT_OVF i, 1)]))
  ∧ (∀ i s, i < 8 → ∃ t, exec (.captureFifoRead i) s = .next t ∧ captures t i = (captures s i).drop 1
    ∧ t.out = ⟨.response, [0, 0, 0, getF s (PTPI_FIFO_HI_LIN i) + 65536 * getF s (PTPI_FIFO_HI_RISE i)]⟩ :: s.out)
  ∧ (∀ id c a prio off d s, fwUp s = true → ptpCfg s 0 5 1 = 1 → ptpCfg s 0 4 1 = 0 → ∃ t, exec (.ptpMessageRx true id c a prio off d) s = .next t
    ∧ t.fw.ptp = { s.fw.ptp with
        portState := 9
        gmId := id
        gmClass := c % 256
        gmAcc := a % 256 }
    ∧ getF t CLK_REF0_ANN_ANN_VALID = 1 ∧ getF t CLK_REF0_ANN_CLASS = c % 256 ∧ getF t CLK_REF0_ANN_ACCURACY = a % 256)
  ∧ (∀ id c a prio off d s, fwUp s = true → ptpCfg s 0 5 1 = 1 → s.fw.ptp.portState = 9 → ∃ t, exec (.ptpMessageRx false id c a prio off d) s = .next t
    ∧ t.fw.ptp = { s.fw.ptp with
        offset := ofS 32 off
        pathDelay := d }
    ∧ getF t CLK_REF0_ANN_SERVO_LOCK = b2n (decide ((off.natAbs : Int) ≤ if s.fw.ptp.cfg.getD 3 0 = 0 then 100000 else s.fw.ptp.cfg.getD 3 0)))
  ∧ (∀ s, fwUp s = true → ptpCfg s 0 5 1 = 1 → ∃ t, exec .announceTimeout s = .next t ∧ getF t CLK_REF0_ANN_ANN_VALID = 0
    ∧ getF t CLK_REF0_ANN_SERVO_LOCK = 0 ∧ t.fw.ptp = { s.fw.ptp with portState := if ptpCfg s 0 4 1 = 1 then 6 else 4 })

/-- At an evaluation an enabled reference with a usable level moves between UNQUALIFIED, WTR, QUALIFIED and DISQUALIFYING
as R242 says, by whether its offset against the trimmed XO_IN is in its window; its offset shows in CLK_REF_FREQ_OFFSET.
A reference without events becomes ABSENT; the wait-to-restore timer qualifies it, the disqualify timer sends it back to
WTR. During a switch its phase errors are summed; the build-out B then takes their average less the user offset, and
bleeds towards 0 unless KEEP is set. None of these events changes anything but the clock chain, its registers, the seats'
rings and the count of free values. The model's choices that it rests on: log entries 68, 70. (R236, R240, R241, R242,
R244, R245, R247) -/
def Obligations.ClockReferences : Prop :=
  (∀ l s r x st w, r < 8 → flag s (CLK_REF_CFG_EN r) = true → refBroken s r = false → refQl s r ≠ 15 →
    l[r]? = some (some x) → st = getF s (CLK_REF_STAT_STATE r) → 1 ≤ st → st ≤ 4 →
    w = decide ((x + 16 * toS 32 (getF s CLK_XO_TRIM_TRIM)).natAbs ≤ 16 * getF s (CLK_REF_CFG_WIN r)) →
    ∃ t, exec (.refEvalTick l) s = .next t
      ∧ getF t (CLK_REF_FREQ_OFFSET r) = ofS 32 (x + 16 * toS 32 (getF s CLK_XO_TRIM_TRIM)) ∧ (r ∈ t.clk.inWin ↔ w = true)
      ∧ getF t (CLK_REF_STAT_QL_EFF r) = refQl s r % 16
      ∧ getF t (CLK_REF_STAT_STATE r) = if w then (if st = 1 then (if getF s (CLK_REF_TIME_WTR r) = 0 then 3 else 2)
          else if st = 2 then (if getF s (CLK_REF_TIME_WTR r) = 0 then 3 else 2) else 3)
        else if st = 3 then (if getF s (CLK_REF_TIME_DQ r) = 0 then 2 else 4) else st)
  ∧ (∀ r pps s, r < 8 → flag s (CLK_REF_CFG_EN r) = true → refBroken s r = false → getF s (CLK_REF_STAT_STATE r) ≠ 0 →
    ∃ t, exec (.refAbsence r pps) s = .next t ∧ getF t (CLK_REF_STAT_STATE r) = 1 ∧ r ∉ t.clk.inWin
      ∧ (r = 6 → pps = true → getF t CLK_ALARM_PPS_LOST = 1))
  ∧ (∀ r s, r < 8 → flag s (CLK_REF_CFG_EN r) = true → refBroken s r = false → refQl s r ≠ 15 → getF s (CLK_REF_STAT_STATE r) = 2 →
    r ∈ s.clk.inWin → ∃ t, exec (.refWtrExpiry r) s = .next t ∧ getF t (CLK_REF_STAT_STATE r) = 3)
  ∧ (∀ r s, r < 8 → flag s (CLK_REF_CFG_EN r) = true → refBroken s r = false → refQl s r ≠ 15 → getF s (CLK_REF_STAT_STATE r) = 4 →
    ∃ t, exec (.refDqExpiry r) s = .next t ∧ getF t (CLK_REF_STAT_STATE r) = 2)
  ∧ (∀ r d s, following s = true → getF s CLK_STAT_SELECTED = r → 1 ≤ r → r ≤ 6 → flag s CLK_STAT_SWITCHING = true →
    ∃ t, exec (.refPhaseEvent r d) s = .next t ∧ t.clk = { s.clk with
        avgSum := s.clk.avgSum + reduceErr (refPeriod s r) (d * bUnit
          - toS 12 (getF s (CLK_REF_DIVM_REF_OFS r)) * ((16000000000 * 28224000 / (24576 * clkBase s) : Nat) : Int))
        avgN := s.clk.avgN + 1 }
      ∧ OnlyFields s { t with clk := s.clk } [(CLK_PHASE_ERR_SEQ, getF s CLK_PHASE_ERR_SEQ + 1)])
  ∧ (∀ s r b, r = getF s CLK_STAT_SELECTED → flag s CLK_STAT_SWITCHING = true → 2 ≤ getF s (CLK_REF_STAT_STATE r) → 1 ≤ r → r < 8 → s.clk.avgN ≠ 0 →
    b = divRne s.clk.avgSum s.clk.avgN - userErr s s.clk.user → ∃ t, exec .switchAveragingDone s = .next t ∧ t.clk.build = b
      ∧ getF t CLK_BUILDOUT_B = ofS 32 (divRne b 28224000) ∧ getF t CLK_ALARM_SWITCH = 1
      ∧ (getF s CLK_SEL_SEL_MODE = 1 → getF s CLK_SEL_FORCE_REF = r → following s = true → flag s (CLK_REF_CFG_EN r) = true →
        refBroken s r = false → refQl s r ≠ 15 → 3 ≤ getF s (CLK_REF_STAT_STATE r) → getF t CLK_STAT_SWITCHING = 0
        ∧ getF t CLK_STAT_BLEEDING = (if flag s CLK_DPLL_CTL_KEEP = false ∧ b ≠ 0 then 1 else 0)))
  ∧ (∀ s, flag s CLK_STAT_BLEEDING = true → ∃ t, exec .buildOutBleedDone s = .next t ∧ t.clk = { s.clk with build := 0 }
      ∧ OnlyFields s { t with clk := s.clk } [(CLK_STAT_BLEEDING, 0), (CLK_BUILDOUT_B, 0)])
  ∧ (∀ c s, (∃ l, c = Instr.refEvalTick l) ∨ (∃ r p, c = .refAbsence r p) ∨ (∃ r, c = .refWtrExpiry r) ∨ (∃ r, c = .refDqExpiry r)
      ∨ (∃ r d, c = .refPhaseEvent r d) ∨ c = .switchAveragingDone ∨ c = .buildOutBleedDone ∨ c = .dpllLockDetect ∨ c = .dpllUnlockDetect
      ∨ c = .holdoverHistoryTick ∨ c = .openTimeout → ∃ t, exec c s = .next t
      ∧ t = { s with
          regs := t.regs
          clk := t.clk
          seats := t.seats
          out := t.out
          free := t.free }
      ∧ ∀ k d, k < 0x200C0000 * 32 ∨ 0x200C0200 * 32 ≤ k → k / 32 ≠ CLK_SYN_NINT_NINT.addr → k / 32 ≠ CLK_SYN_NFRAC_NFRAC.addr →
        tellKey k = false → t.regs.get k d = s.regs.get k d)

/-- A compared event of the selected reference shows its phase error less B and U; in CLOSED mode the loop then sets an
output offset that the spec bounds and does not state: within the reference's window and 200 ppm; in OPEN mode it sets
none. ACQUIRING becomes LOCKED when the error is within LOCK_NS, and LOCKED becomes ACQUIRING beyond four times that.
Each second LOCKED its mean frequency enters the history; ten of them make it valid. The open mode ends at its timeout
with an alarm. The model's choices that it rests on: log entries 68, 69, 70. (R248, R249, R250, R251, R252, R384) -/
def Obligations.DpllLoopAndHoldover : Prop :=
  (∀ r d s e, following s = true → getF s CLK_STAT_SELECTED = r → 1 ≤ r → r ≤ 6 → flag s CLK_STAT_SWITCHING = false →
    flag s CLK_STAT_BLEEDING = false → e = reduceErr (refPeriod s r) (d * bUnit
      - toS 12 (getF s (CLK_REF_DIVM_REF_OFS r)) * ((16000000000 * 28224000 / (24576 * clkBase s) : Nat) : Int)) →
    ∃ t, exec (.refPhaseEvent r d) s = .next t ∧ getF t CLK_PHASE_ERR_ERR = ofS 28 (divRne (e - s.clk.build - userErr s s.clk.user) 28224000)
      ∧ getF t CLK_PHASE_ERR_SEQ = (getF s CLK_PHASE_ERR_SEQ + 1) % 16
      ∧ (flag s CLK_STAT_STEER = true → t.clk = s.clk ∧ t.free = s.free)
      ∧ (flag s CLK_STAT_STEER = false → t.free = s.free + 1 ∧ t.clk.freq.natAbs ≤ 219902325
        ∧ (t.clk.freq.natAbs : Int) ≤ ppb40 (getF s (CLK_REF_CFG_WIN r)) ∧ t.clk.build = s.clk.build ∧ t.clk.user = s.clk.user))
  ∧ (∀ r d s, following s = false ∨ getF s CLK_STAT_SELECTED ≠ r → exec (.refPhaseEvent r d) s = .next s)
  ∧ (∀ s, getF s CLK_STAT_STATE = 1 → flag s CLK_STAT_SWITCHING = false → (phaseErr s).natAbs ≤ 16 * getF s CLK_DPLL_CTL_LOCK_NS →
    ∃ t, exec .dpllLockDetect s = .next t ∧ getF t CLK_STAT_STATE = 2 ∧ t.clk = { s.clk with ever := true }
      ∧ getF t CLK_STAT_QL_OUT = (if getF s CLK_STAT_SELECTED = 7 then 15 else refQl s (getF s CLK_STAT_SELECTED) % 16)
      ∧ getF t CLK_STAT_SELECTED = getF s CLK_STAT_SELECTED)
  ∧ (∀ s, getF s CLK_STAT_STATE = 2 → 64 * getF s CLK_DPLL_CTL_LOCK_NS < (phaseErr s).natAbs →
    ∃ t, exec .dpllUnlockDetect s = .next t ∧ getF t CLK_STAT_STATE = 1 ∧ t.clk = s.clk ∧ getF t CLK_STAT_SELECTED = getF s CLK_STAT_SELECTED)
  ∧ (∀ s, getF s CLK_STAT_STATE = 2 → (phaseErr s).natAbs ≤ 64 * getF s CLK_DPLL_CTL_LOCK_NS → exec .dpllUnlockDetect s = .next s)
  ∧ (∀ s, getF s CLK_STAT_STATE = 2 → flag s CLK_STAT_SWITCHING = false → flag s CLK_STAT_BLEEDING = false → s.clk.secN ≠ 0 →
    ∃ t, exec .holdoverHistoryTick s = .next t ∧ t.clk = { s.clk with
        hist := (divRne s.clk.secSum s.clk.secN :: s.clk.hist).take 32
        lockedSecs := s.clk.lockedSecs + 1
        secSum := 0
        secN := 0 }
      ∧ (9 ≤ s.clk.lockedSecs → OnlyFields s { t with clk := s.clk } [(CLK_STAT_HO_VALID, 1)])
      ∧ (s.clk.lockedSecs < 9 → { t with clk := s.clk } = s))
  ∧ (∀ s, flag s CLK_STAT_STEER = true → ∃ t, exec .openTimeout s = .next t ∧ OnlyFields s t [(CLK_STAT_STEER, 0), (CLK_ALARM_OPEN_TMO, 1)])

/-- A phase step adds to the user offset, and its count shows what is still to be applied. Enabling the PLL selects the
valid band with the largest margin and sets the divider ratio, or sets BAND_FAIL. Lock loss makes the loop coast, is
counted and raises ALERT and the self-diagnosis cause; relock ends it. Calibration runs only while the PLL is disabled.
Arming a word clock aligns it OFFSET cycles after its source's edge. The model's choices that it rests on: log entry 71.
(R253, R254, R255, R256, R257, R258, R260, R294) -/
def Obligations.SynthesisAndOutputClocks : Prop :=
  (∀ v s n, n = toS 16 (getF s CLK_PSTEP_STEP) + toS 16 v →
    (n.natAbs ≤ 32767 → ∃ t, exec (.phaseStepWrite v) s = .next t ∧ t.clk = { s.clk with user := s.clk.user + toS 16 v }
      ∧ OnlyFields s { t with clk := s.clk } [(CLK_PSTEP_PS_RATE, bits v 16 4), (CLK_PSTEP_STEP, ofS 16 n)])
    ∧ (32767 < n.natAbs → ∃ t, exec (.phaseStepWrite v) s = .next t
      ∧ OnlyFields s t [(CLK_PSTEP_PS_RATE, bits v 16 4), (CLK_ALARM_CFG_ERR, 1)]))
  ∧ (∀ s n, n = toS 16 (getF s CLK_PSTEP_STEP) → ∃ t, exec .phaseStepApply s = .next t
    ∧ OnlyFields s t [(CLK_PSTEP_STEP, if 0 < n then getF s CLK_PSTEP_STEP - 1 else if n < 0 then getF s CLK_PSTEP_STEP + 1 else 0)])
  ∧ (∀ s b x r, flag s CLK_SYN_CTL_EN = false → b < 64 → bandMargin s b = some x → 5000 ≤ x →
    (∀ k y, k < 64 → bandMargin s k = some y → y < x ∨ y = x ∧ b ≤ k) →
    r = (divRne ((if getF s CLK_SEL_FAMILY = 0 then 18874368 else 21676032) * (2 ^ 40 * 1000000000 + s.clk.freq * 1000000000
      - toS 32 (getF s CLK_XO_TRIM_TRIM) * 2 ^ 40) * 2 ^ 32) (100000 * 2 ^ 40 * 1000000000)) →
    ∃ t, exec .synthEnable s = .next t ∧ OnlyFields s t [(CLK_SYN_CTL_EN, 1), (CLK_SYN_STAT_BAND, b),
      (CLK_SYN_NINT_NINT, (r / 2 ^ 32).toNat), (CLK_SYN_NFRAC_NFRAC, (r % 2 ^ 32).toNat)])
  ∧ (∀ s, flag s CLK_SYN_CTL_EN = false → (∀ k y, k < 64 → bandMargin s k = some y → y < 5000) →
    ∃ t, exec .synthEnable s = .next t ∧ OnlyFields s t [(CLK_SYN_CTL_EN, 1), (CLK_ALARM_BAND_FAIL, 1)])
  ∧ (∀ m s, flag s CLK_SYN_CTL_EN = true → (∃ k y, k < 64 ∧ bandMargin s k = some y ∧ 5000 ≤ y) → flag s CLK_SYN_STAT_COAST = false →
    ∃ t, exec (.synthLock m) s = .next t ∧ OnlyFields s t [(CLK_SYN_STAT_LOCK, 1), (CLK_STAT_SYN_LOCK, 1), (CLK_SYN_STAT_VT_MARGIN, b2n m)])
  ∧ (∀ x s, flag s CLK_SYN_STAT_LOCK = true → ∃ t, exec (.synthLockLoss x) s = .next t ∧ getF t CLK_SYN_STAT_LOCK = 0
    ∧ getF t CLK_STAT_SYN_LOCK = 0 ∧ getF t CLK_SYN_STAT_COAST = 1 ∧ getF t CLK_ALARM_PLL_UNLOCK = 1 ∧ getF t LIFE_FAULT_PLL = 1
    ∧ getF t LIFE_STATUS_ALERT = 1 ∧ getF t CLK_SYN_STAT_UNLOCK_CNT = min (getF s CLK_SYN_STAT_UNLOCK_CNT + 1) 65535
    ∧ getF t PAIR_CAUSE_CODE = 5 ∧ t.pair.diag = true ∧ (x = true → getF t CLK_ALARM_XO_LOST = 1) ∧ t.clk = s.clk
    ∧ (flag s PAIR_STAT_CLAIM = true → s.pins.pairEn = true → getF t PAIR_STAT_CLAIM = 0 ∧ t.pair.drivers = false)
    ∧ (s.pins.pairEn = false → getF t PAIR_STAT_CLAIM = getF s PAIR_STAT_CLAIM ∧ t.pair.drivers = s.pair.drivers))
  ∧ (∀ s, flag s CLK_SYN_STAT_COAST = true → ∃ t, exec .synthRelock s = .next t ∧ getF t CLK_SYN_STAT_LOCK = 1 ∧ getF t CLK_STAT_SYN_LOCK = 1
    ∧ getF t CLK_SYN_STAT_COAST = 0 ∧ getF t LIFE_FAULT_PLL = 0
    ∧ getF t LIFE_STATUS_ALERT = b2n (getF s LIFE_FAULT_BOOT != 0 || flag s LIFE_FAULT_SUPPLY || flag s LIFE_FAULT_THERMAL || flag s PTP_STAT_TICK_LOST)
    ∧ t.clk = s.clk ∧ t.fab = s.fab ∧ getF t PAIR_STAT_CLAIM = getF s PAIR_STAT_CLAIM)
  ∧ (∀ b r s, (flag s CLK_SYN_CTL_EN = true → ∃ t, exec (.bandCalStart b r) s = .next t ∧ OnlyFields s t [(CLK_ALARM_CFG_ERR, 1)])
    ∧ (flag s CLK_SYN_CTL_EN = false → ∃ t, exec (.bandCalStart b r) s = .next t ∧ OnlyFields s t [(CLK_CAL_CTL_BAND, b),
      (CLK_CAL_CTL_RAIL, r), (CLK_CAL_CTL_BUSY, 1), (CLK_CAL_FREQ_VALID, 0)]))
  ∧ (∀ f s, flag s CLK_CAL_CTL_BUSY = true → ∃ t, exec (.bandCalDone f) s = .next t ∧ OnlyFields s t [(CLK_CAL_CTL_BUSY, 0),
      (CLK_CAL_FREQ_FREQ, f), (CLK_CAL_FREQ_VALID, 1)])
  ∧ (∀ w e s a p, w < 2 → p = ((24576 / 2 ^ min (getF s (CLK_WCO_CFG_K w)) 2 : Nat) : Int) →
    a = ((((if getF s (CLK_WCO_CFG_ALIGN_SRC w) = 0 then 0 else e : Nat) : Int) + toS 24 (getF s (CLK_WCO_CFG_OFFSET w))) % p).toNat →
    (∃ t, exec (.wcoArm w e) s = .next t ∧ t.clk = { s.clk with align := s.clk.align.put w a }
      ∧ OnlyFields s { t with clk := s.clk } [(CLK_WCO_CFG_EN w, 1)])
    ∧ (flag s (CLK_WCO_CFG_EN w) = true → flag s (CLK_WCO_CFG_TRACK w) = true → getF s (CLK_WCO_CFG_ALIGN_SRC w) ≠ 0 →
      exec (.wcoTrackAlign w e) s = .next { s with clk := { s.clk with align := s.clk.align.put w a } }))

/-- A carrier period sends both legs' high times: leg A's is 0, Q or between MINQ and Q - MINQ, its error is fed back
into the next two, and the two-level leg B is its complement. A protection filter's output above OC_LIMIT, or TRIPc at
its active level, latches a trip and GEN falls. The hold of H courses over, a channel without a trip runs again with its
latches released; with one still present it counts a strike, and the third strike within W1 is SHORT. The model's choices
that it rests on: log entries 75, 76, 77. (R265, R267, R268, R269, R270, R271, R272, R273, R286, R358) -/
def Obligations.ModulationAndProtection : Prop :=
  (∀ c i v s q e, c < 32 → hasAmp s = true → running s = true → flag s AMP_CTL_EN = true → flag s (AMP_CH_CFG_EN c) = true →
    q = carrierQ s c → e = q * 2 ^ 35 + (periodX s c).1 + 2 * (ampCh s c).a1 - (ampCh s c).a2 → ∃ t h b, exec (.carrierPeriod c i v) s = .next t
      ∧ (h = 0 ∨ h = q ∨ minQ s c ≤ h ∧ h + minQ s c ≤ q) ∧ t.out = ⟨.gate, [c, h, b, b2n (genHigh s c)]⟩ :: s.out
      ∧ (ampCh t c).a1 = e - h * 2 ^ 36 ∧ (ampCh t c).a2 = (ampCh s c).a1 ∧ (ampCh t c).idx = (ampCh s c).idx + 1
      ∧ (flag s (AMP_MOD_STAT_THREE_LEVEL (c / 4)) = false → b = q - h ∧ (ampCh t c).b1 = (ampCh s c).b1)
      ∧ OnlyFields s { t with
          amp := s.amp
          out := s.out } ([(AMP_CH_MEAS_I_PEAK c, max (getF s (AMP_CH_MEAS_I_PEAK c)) (min i 65535)),
        (AMP_CH_MEAS_V_PEAK c, max (getF s (AMP_CH_MEAS_V_PEAK c)) (min v 65535))] ++
        (if (periodX s c).2 && !(ampCh s c).clipped then [(AMP_CH_STAT_CLIP c, min (getF s (AMP_CH_STAT_CLIP c) + 1) 65535)] else []))
      ∧ (∀ d, d ≠ c → ampCh t d = ampCh s d))
  ∧ (∀ c l s, c < 32 → ownTrips s = true →
    (ocOn s c = true → getF s (AMP_CH_PROT_OC_LIMIT c) < l → exec (.overcurrentTrip c l) s = .next (emit .gate [c, 0]
      (updCh c (fun x => { x with
          level := l
          oc := true }) s)))
    ∧ (ocOn s c = false ∨ l ≤ getF s (AMP_CH_PROT_OC_LIMIT c) → exec (.overcurrentTrip c l) s = .next (updCh c (fun x => { x with level := l }) s)))
  ∧ (∀ c hi s, c < 32 → hasAmp s = true → ∃ t, exec (.tripInput c hi) s = .next t ∧ bitOf t.pins.trip c = hi
      ∧ (∀ d, d ≠ c → bitOf t.pins.trip d = bitOf s.pins.trip d ∧ ampCh t d = ampCh s d)
      ∧ (ownTrips s = true → hi = flag s (AMP_CH_CFG_TRIP_POL c) → t.out = ⟨.gate, [c, 0]⟩ :: s.out ∧ ampCh t c = { ampCh s c with trip := true })
      ∧ (hi ≠ flag s (AMP_CH_CFG_TRIP_POL c) → t = { s with pins := t.pins }))
  ∧ (∀ c s, c < 32 → hasAmp s = true → running s = true → getF s (AMP_CH_STAT_STATE c) = 4 → (ampCh s c).tCi + holdH s ≤ s.fab.ci →
    (tripPresent s c = false → ∃ t, exec (.tripHoldExpiry c) s = .next t ∧ OnlyFields s { t with amp := s.amp } [(AMP_CH_STAT_STATE c, 2)]
      ∧ ampCh t c = { ampCh s c with
          trip := false
          oc := false
          runCi := some s.fab.ci })
    ∧ (∀ n, tripPresent s c = true → n = ((ampCh s c).strikes.filter (fun x => s.fab.ci < x + windowW1 s)).length + 1 →
      ∃ t, exec (.tripHoldExpiry c) s = .next t ∧ getF t (AMP_CH_STAT_STATE c) = (if 3 ≤ n then 5 else 4)
        ∧ getF t (AMP_CH_STAT_STRIKES c) = min n 3 ∧ getF t (AMP_CH_STAT_TRIPS c) = min (getF s (AMP_CH_STAT_TRIPS c) + 1) 255
        ∧ (3 ≤ n → getF t (AMP_CH_STAT_SHORT c) = 1) ∧ (ampCh t c).tCi = s.fab.ci ∧ (ampCh t c).strikes.length = n))
  ∧ (∀ c s, c < 32 → hasAmp s = true → running s = true →
    getF s (AMP_CH_STAT_STATE c) ≠ 4 ∨ s.fab.ci < (ampCh s c).tCi + holdH s → exec (.tripHoldExpiry c) s = .next s)
  ∧ (∀ v s, hasAmp s = true → exec (.ampClearWrite v) s = .next { s with amp := { s.amp with clear := s.amp.clear ||| v % 2 ^ 32 } })
  ∧ (∀ lo s, ∃ t, exec (.emuteInput lo) s = .next t ∧ t.pins = { s.pins with emuteLow := lo }
    ∧ OnlyFields s { t with pins := s.pins } [(LIFE_STATUS_EMUTE, b2n lo)])

/-- A frame is read back as it was sent; one that fails its checks is counted. A CAPS answer to a DISCOVER gives the
module its settled mode and FOUND, or INCOMPAT; the CONFIG echoed makes it READY; a STATUS without READY, or three missed
slots, make it LOST. A management slot serves the lowest address: a CONFIG for a FOUND module, a DISCOVER that is due; a
module that did not answer four CONFIGs is ABSENT. The model's choices that it rests on: log entry 79. (R279, R280, R281,
R282, R283, R284) -/
def Obligations.StageBus : Prop :=
  (∀ a typ sq ws, a < 16 → typ < 256 → ws.length ≤ 8 → (∀ w ∈ ws, w < 2 ^ 32) → mklParse (mklFrame a typ sq ws)
      = some (a, typ, sq % 256, ws.flatMap (fun w => [w, not32 w])) ∧ pairWords (ws.flatMap (fun w => [w, not32 w])) = some ws)
  ∧ (∀ f s, hasAmp s = true → flag s AMP_CTL_EN = true → mklParse f = none → ∃ t, exec (.mklFrameRx f) s = .next t
    ∧ OnlyFields s t [(AMP_MKL_ERR_FRAME_ERR, min (getF s AMP_MKL_ERR_FRAME_ERR + 1) 65535)])
  ∧ (∀ m sq vs s, m < 8 → vs.length = 6 → (∀ w ∈ vs, w < 2 ^ 32) → hasAmp s = true → flag s AMP_CTL_EN = true → flag s AMP_MKL_CFG_DISC_EN = true →
    getF s (AMP_MOD_STAT_STATE m) = 0 ∨ getF s (AMP_MOD_STAT_STATE m) = 3 → (ampMod s m).asked = true →
    ∃ t, exec (.mklFrameRx (mklFrame m 4 sq vs)) s = .next t ∧ (ampMod t m).caps = vs ∧ (ampMod t m).asked = false
      ∧ (∀ cfg, settle s vs = some cfg → (ampMod t m).cfg = cfg ∧ getF t (AMP_MOD_STAT_STATE m) = 1
        ∧ getF t (AMP_MOD_STAT_THREE_LEVEL m) = bits (cfg.getD 0 0) 0 1 ∧ getF t (AMP_MOD_STAT_X16 m) = bits (cfg.getD 0 0) 1 1
        ∧ getF t (AMP_MOD_STAT_DT m) = bits (cfg.getD 0 0) 8 8)
      ∧ (settle s vs = none → getF t (AMP_MOD_STAT_STATE m) = 4))
  ∧ (∀ m sq s, m < 8 → hasAmp s = true → flag s AMP_CTL_EN = true → flag s AMP_MKL_CFG_DISC_EN = true → ownTrips s = true →
    getF s (AMP_MOD_STAT_STATE m) = 1 → (ampMod s m).cfg.length = 2 → (∀ w ∈ (ampMod s m).cfg, w < 2 ^ 32) →
    ∃ t, exec (.mklFrameRx (mklFrame m 6 sq (ampMod s m).cfg)) s = .next t ∧ getF t (AMP_MOD_STAT_STATE m) = 2 ∧ (ampMod t m).tries = 0)
  ∧ (∀ m sq w v s, m < 8 → w < 2 ^ 32 → v < 2 ^ 32 → hasAmp s = true → flag s AMP_CTL_EN = true → flag s AMP_MKL_CFG_DISC_EN = true →
    ownTrips s = true → getF s (AMP_MOD_STAT_STATE m) = 2 → ∃ t, exec (.mklFrameRx (mklFrame m 2 sq [w, v])) s = .next t
      ∧ (ampMod t m).status = [w, v] ∧ (ampMod t m).miss = 0 ∧ getF t (AMP_MOD_STAT_STATE m) = if w % 2 = 0 then 3 else 2)
  ∧ (∀ m s, m = s.amp.seq % 8 → ownTrips s = true → flag s AMP_CTL_EN = true → flag s AMP_MKL_CFG_DISC_EN = true →
    getF s (AMP_MOD_STAT_STATE m) = 2 → ∃ t, exec .statusSlotEnd s = .next t ∧ ampMod t m = { ampMod s m with miss := (ampMod s m).miss + 1 }
      ∧ getF t (AMP_MOD_STAT_STATE m) = if 2 ≤ (ampMod s m).miss then 3 else 2)
  ∧ (∀ m s, m < 8 → hasAmp s = true → flag s AMP_MKL_CFG_DISC_EN = true → getF s (AMP_MOD_STAT_STATE m) = 0 ∨ getF s (AMP_MOD_STAT_STATE m) = 3 →
    exec (.discoverTimer m) s = .next (updMod m (fun x => { x with due := true }) s))
  ∧ (∀ m s, m < 8 → busDrives s = true → flag s AMP_MKL_CFG_DISC_EN = true →
    (∀ k, k < 8 → getF s (AMP_MOD_STAT_STATE k) = 1 → (ampMod s k).tries < 4) →
    (∀ k, k < m → getF s (AMP_MOD_STAT_STATE k) ≠ 1 ∧ (ampMod s k).due = false) →
    (getF s (AMP_MOD_STAT_STATE m) = 1 → exec .managementSlot s = .next (emit .stage (mklFrame m 5 s.amp.seq (ampMod s m).cfg)
      (updMod m (fun x => { x with tries := x.tries + 1 }) s)))
    ∧ (getF s (AMP_MOD_STAT_STATE m) ≠ 1 → (ampMod s m).due = true → exec .managementSlot s = .next (emit .stage (mklFrame m 3 s.amp.seq [])
      (updMod m (fun x => { x with
          due := false
          asked := true }) s))))
  ∧ (∀ m s, m < 8 → busDrives s = true → flag s AMP_MKL_CFG_DISC_EN = true → getF s (AMP_MOD_STAT_STATE m) = 1 → 4 ≤ (ampMod s m).tries →
    ∃ t, exec .managementSlot s = .next t ∧ getF t (AMP_MOD_STAT_STATE m) = 0)

/-- A beat joins its bank's queue while there is room, else nothing changes; one to an absent bank gets an error
response. In a mortar cycle the oldest beat of an On bank is carried out: a read answers with the eight words, a write of
whole words stores them with their check bits and no other word, a partial write reads its base first. The second cycle
of a merged write stores each word merged byte by byte. A bank that is not On gives MORTAR_ERR and an error response.
Outside mortar nothing happens. The model's choices that it rests on: log entry 97. (R98, R99, R108, R110, R111, R112,
R113, R114, R116, R320, R321) -/
def Obligations.AshlarBeats : Prop :=
  (∀ m id w l st d s b, Quiescent s → b = bankOf l → b < nBanks s → s.vsr.inReset.contains m = false → (bankQueue s b).length < 32 →
    (s.ash.queue.map (fun p => p.2.length)).sum < 64 → ∃ t, exec (.ashlarBeatAccept m id w l st d) s = .next t
      ∧ bankQueue t b = bankQueue s b ++ [⟨m, id, w, lineOf l, st, d.map lo32, false⟩] ∧ (∀ c, c ≠ b → bankQueue t c = bankQueue s c)
      ∧ t = { s with
          ash := { s.ash with queue := t.ash.queue }
          vsr := { s.vsr with outstanding := if w then takeBeat m id s.vsr.outstanding else s.vsr.outstanding } })
  ∧ (∀ m id w l st d s, Quiescent s → bankOf l < nBanks s →
    32 ≤ (bankQueue s (bankOf l)).length ∨ 64 ≤ (s.ash.queue.map (fun p => p.2.length)).sum → exec (.ashlarBeatAccept m id w l st d) s = .next s)
  ∧ (∀ m id l st d s, Quiescent s → nBanks s ≤ bankOf l → s.vsr.inReset.contains m = false → ∃ t, exec (.ashlarBeatAccept m id false l st d) s = .next t
      ∧ t.out = ⟨.response, m :: id :: 3 :: List.replicate 8 0⟩ :: s.out ∧ t.ash = s.ash
      ∧ (s.vsr.log.length < 16 → t.vsr.log = s.vsr.log ++ [⟨3, false, m, id, 0x40000000 + 4 * lineOf l⟩]))
  ∧ (∀ k c s b q v, Quiescent s → bankQueue s k = b :: q → isMortar s k c = true → s.ash.merge.find k = none → bankState s k = 0 → b.write = false →
    b.cut = false → s.vsr.inReset.contains b.master = false → v.length = 8 → (∀ i, i < 8 → eccDecode (ashCode s (b.line + i)) = .ok (v.getD i 0)) →
    ∃ t, exec (.ashlarBeatServe k c) s = .next t ∧ t.out = ⟨.response, b.master :: b.id :: 0 :: v⟩ :: s.out ∧ bankQueue t k = q
      ∧ t.ash.mem = s.ash.mem ∧ t.regs = s.regs)
  ∧ (∀ k c s b q, Quiescent s → bankQueue s k = b :: q → isMortar s k c = true → s.ash.merge.find k = none → bankState s k = 0 → b.write = true →
    b.cut = false → isPartial b = false → s.vsr.inReset.contains b.master = false → flag s ASH_INJ_ADDR_ARM = false →
    ∃ t, exec (.ashlarBeatServe k c) s = .next t ∧ t.out = ⟨.response, [b.master, b.id, 0]⟩ :: s.out ∧ bankQueue t k = q
      ∧ (∀ i, i < 8 → ashCode t (b.line + i) = if strobesOf b i = 15 then eccEncode (b.data.getD i 0) % 2 ^ 39 else ashCode s (b.line + i))
      ∧ (∀ w, w < b.line ∨ b.line + 8 ≤ w → ashCode t w = ashCode s w) ∧ t.regs = s.regs)
  ∧ (∀ k c s b q v, Quiescent s → bankQueue s k = b :: q → isMortar s k c = true → s.ash.merge.find k = none → bankState s k = 0 → b.write = true →
    isPartial b = true → v.length = 8 → (∀ i, i < 8 → if strobesOf b i ≠ 0 ∧ strobesOf b i ≠ 15 then
      eccDecode (ashCode s (b.line + i)) = .ok (v.getD i 0) else v.getD i 0 = 0) →
    ∃ t, exec (.ashlarBeatServe k c) s = .next t ∧ t.ash.merge.find k = some ⟨b, v⟩ ∧ bankQueue t k = q ∧ t.ash.mem = s.ash.mem ∧ t.out = s.out)
  ∧ (∀ k s h, Quiescent s → s.ash.merge.find k = some h → h.beat.cut = false → s.vsr.inReset.contains h.beat.master = false →
    flag s ASH_INJ_ADDR_ARM = false → ∃ t, exec (.mergedWrite k) s = .next t ∧ t.ash.merge.find k = none
      ∧ (∀ i, i < 8 → ashCode t (h.beat.line + i) = if strobesOf h.beat i = 0 then ashCode s (h.beat.line + i)
          else eccEncode (mergeWord (h.base.getD i 0) (h.beat.data.getD i 0) (strobesOf h.beat i)) % 2 ^ 39)
      ∧ (∀ w, w < h.beat.line ∨ h.beat.line + 8 ≤ w → ashCode t w = ashCode s w)
      ∧ t.out = ⟨.response, [h.beat.master, h.beat.id, 0]⟩ :: s.out)
  ∧ (∀ k c s b q, Quiescent s → bankQueue s k = b :: q → isMortar s k c = true → s.ash.merge.find k = none → bankState s k ≠ 0 → b.cut = false →
    s.vsr.inReset.contains b.master = false → ∃ t, exec (.ashlarBeatServe k c) s = .next t ∧ getF t ASH_STAT_MORTAR_ERR = 1
      ∧ t.ash.mem = s.ash.mem ∧ t.out = ⟨.response, b.master :: b.id :: 3 :: (if b.write then [] else List.replicate 8 0)⟩ :: s.out)
  ∧ (∀ k c s, Quiescent s → isMortar s k c = false ∨ s.ash.merge.find k ≠ none ∨ bankQueue s k = [] → exec (.ashlarBeatServe k c) s = .next s)

/-- In a mortar cycle the scrubber reads the next line of an On bank: a correctable word is counted and its corrected
codeword waits; the write-back stores it and no other word. A period that finds its pass unfinished sets SCRUB_LAG, else
a pass begins. A pair of ASH_PWR that does not match sets PAIRWORD; a legal field takes effect at once on a stopped
fabric, at the boundary on a running one; an illegal one is refused. A bank that goes Off loses its contents. A
transition done, the bank is in the state asked for. The model's choices that it rests on: log entry 11. (R101, R102,
R103, R105, R106, R107, R109, R99) -/
def Obligations.ScrubberAndBankPower : Prop :=
  (∀ k c bh s l, flag s ASH_SCRUB_PERIOD = true → s.ash.scrubPass = true → bankState s k = 0 → s.ash.scrubDone.contains k = false →
    isMortar s k c = true → (bh = true ∨ bankQueue s k = []) → s.ash.merge.find k = none → l = s.ash.scrubLine.get k 0 → l < 16383 →
    ((∀ i, i < 8 → ∃ v, eccDecode (ashCode s (131072 * k + 8 * l + i)) = .ok v) → exec (.scrubLine k c bh) s = .next { s with
      ash := { s.ash with scrubLine := s.ash.scrubLine.set k (l + 1) 0 } })
    ∧ (∀ j v sy w, j < 8 → k < 128 → w = 131072 * k + 8 * l + j → eccDecode (ashCode s w) = .corrected v sy →
      (∀ i, i < 8 → i ≠ j → ∃ x, eccDecode (ashCode s (131072 * k + 8 * l + i)) = .ok x) →
      ∃ t, exec (.scrubLine k c bh) s = .next t ∧ t.ash.mem = s.ash.mem ∧ t.ash.scrubLine.get k 0 = l + 1
        ∧ t.ash.scrubWb.get k [] = s.ash.scrubWb.get k [] ++ [(w, eccEncode v)]
        ∧ getF t ASH_SCRUB_STAT_SCRUB_CORR = min (getF s ASH_SCRUB_STAT_SCRUB_CORR + 1) (2 ^ ASH_SCRUB_STAT_SCRUB_CORR.width - 1)
        ∧ (s.pwr.rest = false → getF t ASH_CNT_CORR = min (getF s ASH_CNT_CORR + 1) (2 ^ ASH_CNT_CORR.width - 1))))
  ∧ (∀ k w c s, k < 128 → bankOf w = k → bankState s k = 0 → s.ash.scrubWb.get k [] = [(w, c)] → ∃ t, exec (.scrubWriteback k) s = .next t
    ∧ ashCode t w = c % 2 ^ 39 ∧ (∀ x, x ≠ w → ashCode t x = ashCode s x) ∧ t.ash.scrubWb.get k [] = [] ∧ t.regs = s.regs ∧ t.out = s.out)
  ∧ (∀ k s, bankState s k ≠ 0 → exec (.scrubWriteback k) s = .next s)
  ∧ (∀ s, flag s ASH_SCRUB_PERIOD = true → (∀ b, b < nBanks s → bankState s b ≠ 1) →
    (s.ash.scrubPass = true → ∃ t, exec .scrubPeriodStart s = .next t ∧ getF t ASH_STAT_SCRUB_LAG = 1 ∧ t.ash = s.ash)
    ∧ (s.ash.scrubPass = false → exec .scrubPeriodStart s = .next { s with ash := { s.ash with
        scrubPass := true
        scrubDone := []
        scrubLine := [] } }))
  ∧ (∀ s, flag s ASH_SCRUB_PERIOD = false → exec .scrubPeriodStart s = .next s)
  ∧ (∀ n v c s, n < 16 → lo32 c ≠ not32 v → ∃ t, exec (.bankPowerWrite n v c) s = .next t ∧ OnlyFields s t [(ASH_STAT_PAIRWORD, 1)])
  ∧ (∀ n v c s j b run ro, n < 16 → j < 8 → lo32 c = not32 v → b = 8 * n + j → b < nBanks s → run = bits v (4 * j) 2 → ro = bits v (4 * j + 2) 1 →
    (run ≠ 3 → run = 0 ∨ b < partBank s ∧ bankGranted s.fab.cal b = false → ∃ t, exec (.bankPowerWrite n v c) s = .next t
      ∧ getF t (runStateFld b) = run ∧ getF t (restOffFld b) = (if ro = 1 ∧ partBank s ≤ b then getF s (restOffFld b) else ro)
      ∧ (ro = 1 → partBank s ≤ b → getF t ASH_STAT_PWR_REFUSED = 1 ∨ flag s ASH_STAT_PWR_REFUSED = true)
      ∧ (running s = true → getF t (bankField b) = getF s (bankField b) ∧ t.ash.mem = s.ash.mem ∧ t.ash.pwrWait.contains n = true)
      ∧ (running s = false → bankState s b ≠ run → bankState s b ≠ 3 → getF t (bankField b) = 3
        ∧ t.ash.trans.find b = some ⟨run, run == 2⟩ ∧ (run = 2 → ∀ w, bankOf w = b → ashCode t w = 0)))
    ∧ (run = 3 ∨ run ≠ 0 ∧ (partBank s ≤ b ∨ bankGranted s.fab.cal b = true) → ∃ t, exec (.bankPowerWrite n v c) s = .next t
      ∧ getF t (runStateFld b) = getF s (runStateFld b) ∧ flag t ASH_STAT_PWR_REFUSED = true))
  ∧ (∀ b s x, b < 128 → b < nBanks s → s.ash.trans.find b = some x → x.dst < 3 → s.pwr.rest = false → getF s (runStateFld b) = x.dst →
    ∃ t, exec (.bankTransitionDone b) s = .next t ∧ bankState t b = x.dst ∧ t.ash.trans.find b = none ∧ t.ash.mem = s.ash.mem
      ∧ OnlyFields s { t with ash := s.ash } [(bankField b, x.dst)])

/-- CLAIM_IN low makes an eligible unit that holds no claim assert it: unit A drives at once, unit B after its window. A
claimant keeps its claim whatever the level of CLAIM_IN; within B's window its rise withdraws the claim. A clock stop is
a self-diagnosis cause: a claimant of a pair releases, with its drivers off and every output dark. No link event, record
or frame of the partner, an image piece left aside, changes the claim or the drivers. The model's choices that it rests
on: log entries 19, 81, 104. (R289, R290, R292, R293, R294, R309, R355) -/
def Obligations.PairClaim : Prop :=
  (∀ s, eligible s = true → flag s PAIR_STAT_CLAIM = false → ∃ t, exec .claimInFall s = .next t ∧ getF t PAIR_STAT_CLAIM = 1
    ∧ t.pins = { s.pins with claimIn := false } ∧ getF t PAIR_STAT_CLAIM_IN = 0
    ∧ (s.pins.unitId = false → t.pair.drivers = true ∧ t.pair.window = false ∧ t.pair.recs = []
      ∧ getF t PAIR_STAT_STATE = if s.pair.replay then 3 else 2)
    ∧ (s.pins.unitId = true → t.pair = { s.pair with window := true } ∧ getF t PAIR_STAT_STATE = getF s PAIR_STAT_STATE))
  ∧ (∀ s, eligible s = false ∨ flag s PAIR_STAT_CLAIM = true → ∃ t, exec .claimInFall s = .next t
    ∧ t.pins = { s.pins with claimIn := false } ∧ OnlyFields s { t with pins := s.pins } [(PAIR_STAT_CLAIM_IN, 0)])
  ∧ (∀ s, s.pair.window = false → ∃ t, exec .claimInRise s = .next t
    ∧ t.pins = { s.pins with claimIn := true } ∧ OnlyFields s { t with pins := s.pins } [(PAIR_STAT_CLAIM_IN, 1)])
  ∧ (∀ s, s.pair.window = true → ∃ t, exec .claimInRise s = .next t ∧ getF t PAIR_STAT_CLAIM = 0 ∧ t.pair = { s.pair with window := false })
  ∧ (∀ s, s.pair.window = true → ∃ t, exec .claimWindowEnd s = .next t ∧ t.pair.drivers = true ∧ t.pair.window = false
    ∧ getF t PAIR_STAT_CLAIM = getF s PAIR_STAT_CLAIM ∧ getF t PAIR_STAT_STATE = if s.pair.replay then 3 else 2)
  ∧ (∀ s, s.pair.window = false → exec .claimWindowEnd s = .next s)
  ∧ (∀ s, ∃ t, exec .claimClockStop s = .next t ∧ getF t PAIR_CAUSE_CODE = 10 ∧ getF t PAIR_CAUSE_CI16 = s.fab.ci % 65536 ∧ t.pair.diag = true
    ∧ (flag s PAIR_STAT_CLAIM = true → s.pins.pairEn = true → getF t PAIR_STAT_CLAIM = 0 ∧ t.pair.drivers = false ∧ getF t LIFE_STATUS_DARK = 1
      ∧ getF t PAIR_STAT_STATE = 9 ∧ getF t LIFE_CNT_RELEASES = min (getF s LIFE_CNT_RELEASES + 1) 65535)
    ∧ (flag s PAIR_STAT_CLAIM = false ∨ s.pins.pairEn = false → getF t PAIR_STAT_CLAIM = getF s PAIR_STAT_CLAIM
      ∧ t.pair = { s.pair with diag := true }))
  ∧ (∀ c s, (∃ u l r d, c = Instr.linkTraining u l r d) ∨ c = .trainingModeTimeout ∨ c = .linkFault ∨ c = .retrain ∨ c = .skewTimer
      ∨ (∃ b a, c = .recordRx b a) ∨ c = .recordDeadlineMiss ∨ (∃ ok k w, k ≠ 4 ∧ c = .linkFrameRx ok k w) →
    ∃ t, exec c s = .next t ∧ getF t PAIR_STAT_CLAIM = getF s PAIR_STAT_CLAIM ∧ t.pair.drivers = s.pair.drivers ∧ t.pins = s.pins)

/-- A mode that both units offer and that trains is the link's mode, with its budget and delay; one that does not hands
over to the next mode that this unit offers. A fault trains from the mode in force, RETRAIN from the top. A frame whose
CRC fails is asked for again; a resend request is met. A good record makes the heartbeat and is kept by a standby; one
with a bad header is counted; one that misses its deadline is missing, and two in a row lose the heartbeat. The model's
choices that it rests on: log entries 81, 83, 84. (R296, R297, R298, R299, R301, R303, R304, R307, R313, R314) -/
def Obligations.SoeriLink : Prop :=
  (∀ u l r d s m, flag s PAIR_LINK_STAT_TRAINING = true → m = linkModes.getD s.pair.train (4, 0) → offers (nSoeri s) l r m = true →
    ∃ t, exec (.linkTraining u l r d) s = .next t ∧ getF t PAIR_LINK_STAT_TRAINING = 0 ∧ getF t PAIR_LINK_STAT_UP = 1
      ∧ getF t PAIR_LINK_STAT_LANES = m.1 ∧ getF t PAIR_LINK_STAT_RATE = m.2 ∧ getF t PAIR_LINK_DELAY_DELAY = min d 65535
      ∧ getF t PAIR_BUDGET_BUDGET = budgetOf m.1 m.2 (fsOf s) % 2 ^ 24 ∧ t.pair = { s.pair with down := 0 }
      ∧ getF t PAIR_LINK_STAT_BELOW_BUDGET = b2n (running s && budgetOf m.1 m.2 (fsOf s) < recordBytes s)
      ∧ (u = getF s PAIR_STAT_UNIT → getF t PAIR_STAT_UNIT_CLASH = 1))
  ∧ (∀ c s k, s.pins.pairEn = true → (c = Instr.trainingModeTimeout ∧ flag s PAIR_LINK_STAT_TRAINING = true ∧ k = s.pair.train + 1)
      ∨ (c = .linkFault ∧ flag s PAIR_LINK_STAT_UP = true ∧ k = s.pair.train) ∨ (c = .retrain ∧ k = 0)
      ∨ (∃ u l r d, c = .linkTraining u l r d ∧ flag s PAIR_LINK_STAT_TRAINING = true
        ∧ offers (nSoeri s) l r (linkModes.getD s.pair.train (4, 0)) = false ∧ k = s.pair.train + 1) →
    ∃ t, exec c s = .next t ∧ getF t PAIR_LINK_STAT_UP = 0 ∧ getF t PAIR_LINK_STAT_LANES = 0 ∧ getF t PAIR_BUDGET_BUDGET = 0
      ∧ (∀ i, k ≤ i → i < 12 → offersOwn s (linkModes.getD i (4, 0)) = true → (∀ j, k ≤ j → j < i → offersOwn s (linkModes.getD j (4, 0)) = false) →
        getF t PAIR_LINK_STAT_TRAINING = 1 ∧ t.pair = { s.pair with train := i })
      ∧ ((∀ i, k ≤ i → i < 12 → offersOwn s (linkModes.getD i (4, 0)) = false) →
        getF t PAIR_LINK_STAT_TRAINING = 0 ∧ t.pair = { s.pair with train := 12 })
      ∧ (c = .linkFault → getF t PAIR_CNT_RETRAINS = min (getF s PAIR_CNT_RETRAINS + 1) 255))
  ∧ (∀ s, s.pair.skewOver = true → ∃ t, exec .skewTimer s = .next t ∧ OnlyFields s t [(PAIR_STAT_SKEWED, 1)])
  ∧ (∀ k w s, s.pins.pairEn = true → flag s PAIR_LINK_STAT_UP = true →
    exec (.linkFrameRx false k w) s = .next (emit .linkFrame [0] s)
    ∧ (∀ o os, s.out = o :: os → o.kind = .record → ∃ t, exec (.linkFrameRx true 0 w) s = .next t ∧ t.out = o :: s.out
      ∧ OnlyFields s { t with out := s.out } [(PAIR_CNT2_RESENDS, min (getF s PAIR_CNT2_RESENDS + 1) 65535)])
    ∧ (∀ i x, exec (.linkFrameRx true 2 (i :: x)) s
      = .next { s with pair := { s.pair with partnerImg := some (lo32 i, wordsToBytes (x.map lo32)) } })
    ∧ (getF s PAIR_STAT_STATE = 5 → ∀ lo hi g a v, v.length = 8 → ∃ t, exec (.linkFrameRx true 1 (lo :: hi :: g :: a :: v)) s = .next t
      ∧ getF t PAIR_STAT_STATE = 6 ∧ getF t PAIR_RESTATE_RUNNING = 1 ∧ t.pair.rsReq = false
      ∧ t.pair.rsLines = s.pair.rsLines ++ [⟨lo32 lo + 2 ^ 32 * lo32 hi, lo32 g, lo32 a, v.map lo32⟩])
    ∧ (getF s PAIR_STAT_STATE = 6 → ∀ v, ∃ t, exec (.linkFrameRx true 3 [v]) s = .next t ∧ getF t PAIR_RESTATE_RUNNING = 0 ∧ t.pair.rsLines = []
      ∧ getF t PAIR_STAT_STATE = (if lo32 v = 1 then 4 else 5) ∧ (lo32 v ≠ 1 → getF t PAIR_RESTATE_FAILED = 1)))
  ∧ (∀ b a s, s.pins.pairEn = true → flag s PAIR_LINK_STAT_UP = true → parseRecord s b = none → ∃ t, exec (.recordRx b a) s = .next t
    ∧ OnlyFields s t [(PAIR_CNT2_REC_HDR_ERR, min (getF s PAIR_CNT2_REC_HDR_ERR + 1) 65535)])
  ∧ (∀ b a s r, s.pins.pairEn = true → flag s PAIR_LINK_STAT_UP = true → parseRecord s b = some r → (∀ e ∈ r.events, e.typ ≠ 255) →
    ∃ t, exec (.recordRx b a) s = .next t ∧ getF t PAIR_STAT_HEARTBEAT = 1 ∧ getF t PAIR_STAT_PARTNER_STATE = r.state ∧ t.pair.missing = 0
      ∧ t.pair.last = some r ∧ t.free = s.free + (if following s && getF s CLK_STAT_SELECTED == 7 && !flag s CLK_STAT_SWITCHING && !flag s CLK_STAT_STEER then 2 else 1)
      ∧ (r.claim = true → flag s PAIR_STAT_CLAIM = false → s.pair.recs.length ≤ 15 → s.pair.replay = false ∨ s.fab.ci < r.ci →
        t.pair.recs.find r.ci = some r)
      ∧ (r.unit = getF s PAIR_STAT_UNIT → getF t PAIR_STAT_UNIT_CLASH = 1))
  ∧ (∀ s, s.pins.pairEn = true → running s = true → ∃ t, exec .recordDeadlineMiss s = .next t
    ∧ getF t PAIR_CNT_REC_MISSING = min (getF s PAIR_CNT_REC_MISSING + 1) 65535 ∧ t.pair.missing = s.pair.missing + 1
    ∧ (s.pair.missing = 0 → getF t PAIR_STAT_HEARTBEAT = getF s PAIR_STAT_HEARTBEAT)
    ∧ (1 ≤ s.pair.missing → flag t PAIR_STAT_HEARTBEAT = false)
    ∧ (s.pair.missing = 0 → getF s PAIR_STAT_STATE = 4 → getF t PAIR_STAT_STATE = 5 ∧ getF t PAIR_CAUSE_CODE = 0x11 ∧ t.pair.rsReq = true)
    ∧ (1 ≤ s.pair.missing → flag s PAIR_STAT_HEARTBEAT = true → isStandby s = true → getF t PAIR_STAT_STATE = 8))

/-- For every number of lanes, every lane rate and every running rate the budget is the largest whole number of KiB that
does not exceed 0.9 times lanes times lane rate times 64/66, divided by 8 fs. At 48 kHz it is the table's value for every
mode, and at 96 kHz and 44.1 kHz the values that the rule names. A training that succeeds shows the budget of its mode at
the running rate in PAIR_BUDGET, and sets BELOW_BUDGET on a running fabric exactly while it is smaller than the image's
RECORD_BYTES. (R299) -/
def Obligations.LinkBudget : Prop :=
  (∀ l r fs b x, 0 < fs → r < 4 → b = budgetOf l r fs → x = 9 * l * [16000000000, 12500000000, 10000000000, 6250000000].getD r 0 * 64 →
    b % 1024 = 0 ∧ b * (10 * 66 * 8 * fs) ≤ x ∧ x < (b + 1024) * (10 * 66 * 8 * fs))
  ∧ [4, 2, 1].map (fun l => (List.range 4).map (fun r => budgetOf l r 48000)) =
    [[142 * 1024, 110 * 1024, 88 * 1024, 55 * 1024], [71 * 1024, 55 * 1024, 44 * 1024, 27 * 1024],
      [35 * 1024, 27 * 1024, 22 * 1024, 13 * 1024]]
  ∧ budgetOf 4 0 96000 = 71 * 1024 ∧ budgetOf 4 0 44100 = 154 * 1024
  ∧ (∀ u l r d s m, flag s PAIR_LINK_STAT_TRAINING = true → m = linkModes.getD s.pair.train (4, 0) → offers (nSoeri s) l r m = true →
    ∃ t, exec (.linkTraining u l r d) s = .next t ∧ getF t PAIR_BUDGET_BUDGET = budgetOf m.1 m.2 (fsOf s) % 2 ^ 24
      ∧ getF t PAIR_LINK_STAT_BELOW_BUDGET = b2n (running s && budgetOf m.1 m.2 (fsOf s) < recordBytes s))

/-- A request to no target is answered DECODE, one whose target its master may not reach the matrix's refusal, each with
zeros for a read and a log entry, and neither changes anything else. Working RAM stores the bytes of a write and no other
byte, and gives back what it holds. Ashlar keeps a transaction outstanding, one beat a line. A held request waits; a
master that cannot issue does nothing. A reset master with transactions outstanding is in reset until they end or are
cut, and a cut leaves each a CUT record, unanswered, and marks its queued beats. The model's choices that it rests on:
log entries 5, 97. (R316, R317, R318, R319, R320, R321, R322) -/
def Obligations.VoussoirRequests : Prop :=
  (∀ m id w a sz bt d f s k, Quiescent s → canIssue s m = true → heldBack s [] ⟨m, id, w, a, sz, bt, d.map lo32, f⟩ = false →
    (busTarget s a = .default ∧ k = 1 ∨ busTarget s a ≠ .default ∧ reaches s m f (busTarget s a) = false ∧ k = 2) →
    ∃ t, exec (.voussoirRequest m id w a sz bt d f) s = .next t
      ∧ t.out = ⟨.response, m :: id :: k :: if w then [] else List.replicate ((sz * bt + 3) / 4) 0⟩ :: s.out
      ∧ (s.vsr.log.length < 16 → t.vsr.log = s.vsr.log ++ [⟨k, w, m, id, a⟩] ∧ t.regs = s.regs)
      ∧ (16 ≤ s.vsr.log.length → t.vsr.log = s.vsr.log ∧ OnlyFields s { t with
          vsr := s.vsr
          out := s.out } [(VSR_STAT_OVERFLOW, 1)])
      ∧ t = { s with
          regs := t.regs
          vsr := t.vsr
          out := t.out })
  ∧ (∀ m id a sz bt d f s off b, Quiescent s → canIssue s m = true → heldBack s [] ⟨m, id, true, a, sz, bt, d.map lo32, f⟩ = false →
    busTarget s a = .ram off → reaches s m f (.ram off) = true → b = (wordsToBytes (d.map lo32)).take (sz * bt) →
    ∃ t, exec (.voussoirRequest m id true a sz bt d f) s = .next t ∧ t.out = ⟨.response, [m, id, 0]⟩ :: s.out ∧ t.regs = s.regs ∧ t.ash = s.ash
      ∧ (∀ i, i < b.length → ramByte t (off + i) = b.getD i 0) ∧ (∀ o, o < off ∨ off + b.length ≤ o → ramByte t o = ramByte s o))
  ∧ (∀ m id a sz bt d f s off, Quiescent s → canIssue s m = true → heldBack s [] ⟨m, id, false, a, sz, bt, d.map lo32, f⟩ = false →
    busTarget s a = .ram off → reaches s m f (.ram off) = true → ∃ t, exec (.voussoirRequest m id false a sz bt d f) s = .next t
      ∧ t.out = ⟨.response, m :: id :: 0 :: bytesToWords ((List.range (sz * bt)).map (fun k => ramByte s (off + k)))⟩ :: s.out
      ∧ t.ctl = s.ctl ∧ t.regs = s.regs ∧ t.ash = s.ash)
  ∧ (∀ m id w a sz bt d f s off, Quiescent s → canIssue s m = true → heldBack s [] ⟨m, id, w, a, sz, bt, d.map lo32, f⟩ = false →
    busTarget s a = .rom off → reaches s m f (.rom off) = true → ∃ t, exec (.voussoirRequest m id w a sz bt d f) s = .next t
      ∧ t.out = ⟨.response, m :: id :: 0 :: if w then [] else (List.range ((sz * bt + 3) / 4)).map (fun k => (Config.bootRom (off / 4 + k)).toNat)⟩ :: s.out
      ∧ t.ctl = s.ctl ∧ t.regs = s.regs ∧ t.ash = s.ash)
  ∧ (∀ m id w a sz bt d f s x n, Quiescent s → canIssue s m = true → heldBack s [] ⟨m, id, w, a, sz, bt, d.map lo32, f⟩ = false →
    busTarget s a = .ash x → reaches s m f (.ash x) = true → 0 < sz * bt → n = (a + sz * bt - 1) / 32 - a / 32 + 1 →
    exec (.voussoirRequest m id w a sz bt d f) s = .next { s with vsr := { s.vsr with
      outstanding := s.vsr.outstanding ++ [⟨m, id, w, a, n, if w then n else 0⟩]
      lastGrant := s.vsr.lastGrant.put 4 m } })
  ∧ (∀ id a d f s, canIssue s 1 = true → heldBack s s.vsr.held ⟨1, id, false, a, 4, 1, d.map lo32, f⟩ = false → busTarget s a = .reg a → a % 4 = 0 →
    regExists a = true → ∃ u, u = { s with vsr := { s.vsr with lastGrant := s.vsr.lastGrant.put 2 1 } }
      ∧ exec (.voussoirRequest 1 id false a 4 1 d f) s = .next (settleAll (releaseAll (respond 1 id 0 [(regRead a u).1] (regRead a u).2))))
  ∧ (∀ id w a v d f s n off, canIssue s 1 = true → heldBack s s.vsr.held ⟨1, id, w, a, 4, 1, [lo32 v], f⟩ = false → busTarget s a = .tile n off →
    ∃ u, u = { s with vsr := { s.vsr with lastGrant := s.vsr.lastGrant.put 3 1 } } ∧ (w = true → d = [v] → (tileWinWrite n off (lo32 v) u).1 ≠ .error →
        exec (.voussoirRequest 1 id w a 4 1 d f) s = .next (settleAll (releaseAll (respond 1 id 0 [] (tileWinWrite n off (lo32 v) u).2))))
      ∧ (∀ x, w = false → d = [v] → (tileWinRead n off u).1 = .word x →
        exec (.voussoirRequest 1 id w a 4 1 d f) s = .next (settleAll (releaseAll (respond 1 id 0 [x] (tileWinRead n off u).2)))))
  ∧ (∀ m id w a sz bt d f s, Quiescent s → (canIssue s m = false → exec (.voussoirRequest m id w a sz bt d f) s = .next s)
    ∧ (canIssue s m = true → heldBack s [] ⟨m, id, w, a, sz, bt, d.map lo32, f⟩ = true → exec (.voussoirRequest m id w a sz bt d f) s
      = .next { s with vsr := { s.vsr with held := [⟨m, id, w, a, sz, bt, d.map lo32, f⟩] } }))
  ∧ (∀ m s, m ≤ 10 → ∃ t, exec (.masterReset m) s = .next t ∧ t.vsr.held = s.vsr.held.filter (fun r => r.master != m)
    ∧ t.vsr.outstanding = s.vsr.outstanding ∧ t = { s with vsr := t.vsr }
    ∧ (m ∈ t.vsr.inReset ↔ (∃ x ∈ s.vsr.outstanding, x.master = m) ∨ m ∈ s.vsr.inReset))
  ∧ (∀ m s l, Quiescent s → m ∈ s.vsr.inReset → l = s.vsr.outstanding.filter (fun x => x.master == m) → ∃ t, exec (.masterResetCut m) s = .next t
    ∧ t.vsr.outstanding = s.vsr.outstanding.filter (fun x => x.master != m) ∧ m ∉ t.vsr.inReset ∧ t.out = s.out ∧ t.ash.mem = s.ash.mem
    ∧ (s.vsr.log.length + l.length ≤ 16 → t.vsr.log = s.vsr.log ++ l.map (fun x => ⟨5, x.write, m, x.id, x.addr⟩))
    ∧ (∀ k b, b ∈ bankQueue t k → b.master = m → b.cut = true) ∧ (∀ k, (bankQueue t k).length = (bankQueue s k).length))
  ∧ (∀ m s, Quiescent s → m ∉ s.vsr.inReset → exec (.masterResetCut m) s = .next s)

/-- A post sets CMD_BUSY, or MB_OVERRUN while one is outstanding. A command is checked in the order of R344, and the
first failure is answered with its status and an empty error payload; a command that passes is carried out and noted for
the sequence check. A new TAIL beyond HEAD is refused, else held events move into the ring. A warning raises LEASE. An
expired lease detaches the seat, discards its staging and orphans its objects; armed entries stay. The model's choices
that it rests on: log entries 7, 26, 27, 28, 110. (R130, R340, R341, R342, R343, R344, R345, R347, R349) -/
def Obligations.MailboxesAndLeases : Prop :=
  (∀ n s, viewReach s n = true → fwUp s = false → s.vsr.held = [] →
    (flag s (DB_STAT_CMD_BUSY n) = false → ∃ t, exec (.mailboxPost n) s = .next t ∧ OnlyFields s t [(DB_STAT_CMD_BUSY n, 1), (DB_STAT_REPLY_READY n, 0)])
    ∧ (flag s (DB_STAT_CMD_BUSY n) = true → ∃ t, exec (.mailboxPost n) s = .next t ∧ OnlyFields s t [(DB_STAT_MB_OVERRUN n, 1)]))
  ∧ (∀ n s, viewReach s n = true → fwUp s = true → Quiescent s → exec (.mailboxPost n) s = .next (servePosted 3 (serveFrame n (commandFrame s n)
      { putFs [(DB_STAT_CMD_BUSY n, 1), (DB_STAT_REPLY_READY n, 0)] s with fw := { s.fw with turn := n } })))
  ∧ (∀ n s, viewReach s n = false → exec (.mailboxPost n) s = .next s)
  ∧ (∀ n ws s (w : Nat → Nat) op sq fl len k, (∀ i, w i = ws.getD i 0) → op = bits (w 0) 16 16 → sq = bits (w 0) 8 8 → fl = bits (w 0) 0 8 →
    len = bits (w 2) 0 16 → k = (len + 3) / 4 →
    (w 1 ≠ not32 (w 0) ∨ w 3 ≠ not32 (w 2) → serveFrame n ws s = postReply n 0x40 6 [0xFF00, 0] s)
    ∧ (w 1 = not32 (w 0) → w 3 = not32 (w 2) →
      (1000 < len → serveFrame n ws s = postReply n (65536 * op + 256 * sq) 2 [0xFF00, 0] s)
      ∧ (len ≤ 1000 → crc32c (wordsToBytes (ws.take (4 + k))) ≠ w (4 + k) → serveFrame n ws s = postReply n (65536 * op + 256 * sq) 7 [0xFF00, 0] s)
      ∧ (len ≤ 1000 → crc32c (wordsToBytes (ws.take (4 + k))) = w (4 + k) →
        (bits (w 2) 16 4 ≠ n → serveFrame n ws s = postReply n (65536 * op + 256 * sq) 11 [0xFF00, 0] s)
        ∧ (bits (w 2) 16 4 = n → attached s n = true →
          (op ≠ 0x0100 → ∀ e, (seatOf s n).expect = some e → e ≠ sq →
            serveFrame n ws s = if (seatOf s n).lastExec = some (sq, w (4 + k)) then repeatReply n s
              else postReply n (65536 * op + 256 * sq) 8 [0xFF00, 0] s)
          ∧ (op = 0x0100 ∨ (seatOf s n).expect = none ∨ (seatOf s n).expect = some sq →
            (1 < fl → serveFrame n ws s = postReply n (65536 * op + 256 * sq) 2 [0xFF00, 0] s)
            ∧ (fl ≤ 1 → fwRows.find op = none → serveFrame n ws s = postReply n (65536 * op + 256 * sq) 2 [0xFF00, 0] s)
            ∧ (fl ≤ 1 → len % 4 = 0 → op ≠ 0x0108 → op ≠ 0x0E05 → ∀ f r, fwRows.find op = some f → r = ⟨n, sq, fl == 1, (ws.drop 4).take k⟩ →
              serveFrame n ws s = noteExecuted n op sq (w (4 + k)) true (answer op r (f r) s))))
        ∧ (bits (w 2) 16 4 = n → attached s n = false → op ≠ 0x0100 → op ≠ 0 → op ≠ 2 → (seatOf s n).expect = none →
          serveFrame n ws s = postReply n (65536 * op + 256 * sq) 5 [0xFF00, 0] s))))
  ∧ (∀ n v s, viewReach s n = true →
    (ringUsed s n < (v % 65536 + 65536 - getF s (EV_TAIL_TAIL n)) % 65536 → exec (.evTailWrite n v) s = .next s)
    ∧ ((v % 65536 + 65536 - getF s (EV_TAIL_TAIL n)) % 65536 ≤ ringUsed s n → getF s (HOST_BIND_IF n) ≠ 3 → ∃ t k, exec (.evTailWrite n v) s = .next t
      ∧ getF t (EV_TAIL_TAIL n) = v % 65536 ∧ (seatOf t n).hold = (seatOf s n).hold.drop k ∧ (k = (seatOf s n).hold.length ∨ 64 ≤ ringUsed t n)))
  ∧ (∀ n s, n < 4 → attached s n = true → ∃ t, exec (.leaseWarning n) s = .next t ∧ flag t (IRQ_STAT_LEASE n) = true ∧ Told s t
    ∧ (flag s (IRQ_STAT_LEASE n) = false → bitOf (irqEn s n) 2 = true → getF s (HOST_BIND_IF n) = 1 → t.out = ⟨.msix, [n, 2]⟩ :: s.out))
  ∧ (∀ n s, n < 4 → attached s n = true → flag s (DB_STAT_CMD_BUSY n) = false → ∃ t, exec (.leaseExpiry n) s = .next t
    ∧ attached t n = false ∧ (seatOf t n).routes = [] ∧ (seatOf t n).dests = [] ∧ (seatOf t n).expect = none ∧ (seatOf t n).lease = 0
    ∧ (seatOf t n).token = (seatOf s n).token ∧ t.fab.sched = s.fab.sched ∧ (∀ x, t.fab.session = some x → x.seat ≠ n)
    ∧ (s.fw.owners.Pairwise (fun a b => a.1 < b.1) → ∀ key, t.fw.owners.find key = (s.fw.owners.find key).map (fun o =>
        if o.seat = n then { o with orphan := true } else o)))
  ∧ (∀ n s, n < 4 → flag s (DB_STAT_CMD_BUSY n) = true → exec (.leaseExpiry n) s = .next s)
  ∧ (∀ m sa sp dp ws s n, fwUp s = true → s.pwr.rest = false →
    [0, 1, 2, 3].find? (fun n => getF s (HOST_BIND_IF n) == 3 && getF s (HOST_BIND_INDEX n) == m && (seatOf s n).udpPort == dp) = some n →
    (sa &&& (seatOf s n).udpMask ≠ (seatOf s n).udpSrc &&& (seatOf s n).udpMask → exec (.udpMailboxDatagram m sa sp dp ws) s
      = .next (updSeat n (fun x => { x with udpDropped := x.udpDropped + 1 }) s))
    ∧ (sa &&& (seatOf s n).udpMask = (seatOf s n).udpSrc &&& (seatOf s n).udpMask → exec (.udpMailboxDatagram m sa sp dp ws) s
      = .next (serveFrame n (ws.map lo32) (updSeat n (fun x => { x with
          srcAddr := sa
          srcPort := sp }) s))))
  ∧ (∀ s x w l o q r bs, s.fab.session = some x → x.busy = some (w, l, o, q) →
    r = fwAshReads (getF s (HOST_WIN_WIN_BASE x.seat) + w / 4) ((l + 3) / 4) s → bs = (wordsToBytes r.1).take l →
    (∀ t, judgePiece x o bs r.2 = .ok t → exec .pieceVerifyDone s = .next (cmdDone x.seat 0x0201 q 0 [0, 0] (relayPiece x o bs t)))
    ∧ (∀ e, x.seat < 4 → judgePiece x o bs r.2 = .error e → commitArmed s = false → ∃ t, exec .pieceVerifyDone s = .next t ∧ t.fab.session = none
      ∧ t.fab.staged = none ∧ t.fab.lastCheck = e.check ∧ t.fab.lastOffset = e.offset ∧ getF t (HOST_LIM_WIN_WORDS x.seat) = 0))

/-- A link that falls resets the seats bound to PCIe functions, and an FLR the seat of its function; other seats stay
attached, and every binding stays. The link comes up unless SEAT_MAP, Rest or the device reset hold it. A read of a
window gives the bytes that Ashlar holds, a write of a word stores it with its check bits and changes no other word; an
access beyond the window or of a bank that is not On is refused: zeros, or a log entry and no change. The model's choices
that it rests on: log entries 99, 100, 109. (R93, R99, R322, R333, R334, R336, R386, R398) -/
def Obligations.PcieAndWindows : Prop :=
  (∀ s, ∃ t, exec .pcieLinkDown s = .next t ∧ t.ctl.pcieUp = false ∧ (∀ n, n < 4 → getF t (HOST_BIND_IF n) = getF s (HOST_BIND_IF n)
    ∧ (getF s (HOST_BIND_IF n) = 1 → getF s (HOST_BIND_INDEX n) < 4 → attached t n = false ∧ flag t (DB_STAT_CMD_BUSY n) = false ∧ (seatOf t n).mail = []
      ∧ (seatOf t n).hold = [] ∧ (seatOf t n).relArmed = false ∧ getF t (HOST_LIM_WIN_WORDS n) = 0)
    ∧ (getF s (HOST_BIND_IF n) ≠ 1 → attached t n = attached s n ∧ (seatOf t n).token = (seatOf s n).token)))
  ∧ (∀ p s, p < 4 → s.ctl.pcieUp = true → ∃ t, exec (.pcieFlr p) s = .next t ∧ t.ctl = s.ctl ∧ (∀ n, n < 4 →
    (getF s (HOST_BIND_IF n) = 1 → getF s (HOST_BIND_INDEX n) = p → attached t n = false ∧ flag t (DB_STAT_CMD_BUSY n) = false
      ∧ (seatOf t n).relArmed = false ∧ getF t (HOST_LIM_WIN_WORDS n) = 0)
    ∧ (getF s (HOST_BIND_IF n) ≠ 1 ∨ getF s (HOST_BIND_INDEX n) ≠ p → attached t n = attached s n ∧ (seatOf t n).token = (seatOf s n).token)))
  ∧ (∀ s, s.pins.seatMap ≠ 3 → s.pwr.rest = false → s.ctl.boot ≠ .inReset → exec .pcieLinkUp s = .next { s with ctl := { s.ctl with pcieUp := true } })
  ∧ (∀ s, s.pins.seatMap = 3 ∨ s.pwr.rest = true ∨ s.ctl.boot = .inReset → exec .pcieLinkUp s = .next s)
  ∧ (∀ p n off c d s, p < 4 → canIssue s 2 = true → boundSeat s 1 p = some n →
    (windowOk s n off c ≠ 0 → exec (.bar2Access p false off c d) s = .next (emit .response (2 :: 0 :: 2 :: List.replicate c 0) s))
    ∧ (windowOk s n off (d.take c).length ≠ 0 → exec (.bar2Access p true off c d) s
      = .next (vsrLog (windowOk s n off (d.take c).length) true 2 0 (0x40000000 + (4 * getF s (HOST_WIN_WIN_BASE n) + off)) s))
    ∧ (∀ w v, w = getF s (HOST_WIN_WIN_BASE n) + off / 4 → off % 4 = 0 → c = 4 → windowOk s n off c = 0 →
      (eccDecode (ashCode s w) = .ok v → exec (.bar2Access p false off c d) s = .next (emit .response (2 :: 0 :: 0 :: bytesOf v 4) s))
      ∧ (d.length = 4 → (∀ b ∈ d, b < 256) → flag s ASH_INJ_ADDR_ARM = false →
        ∃ t, exec (.bar2Access p true off c d) s = .next t ∧ ashCode t w = eccEncode (ofBytes d) % 2 ^ 39 ∧ (∀ x, x ≠ w → ashCode t x = ashCode s x)
          ∧ t.regs = s.regs ∧ t.out = s.out))
    ∧ (windowOk s n off c = 0 ↔ 0 < c ∧ off + c ≤ 4 * getF s (HOST_LIM_WIN_WORDS n)
      ∧ bankState s (bankOf ((4 * getF s (HOST_WIN_WIN_BASE n) + off) / 4)) = 0
      ∧ bankState s (bankOf ((4 * getF s (HOST_WIN_WIN_BASE n) + off + c - 1) / 4)) = 0))
  ∧ (∀ p off c d s, p < 4 → canIssue s 2 = true → boundSeat s 1 p = none →
    exec (.bar2Access p false off c d) s = .next (emit .response (2 :: 0 :: 2 :: List.replicate c 0) s))

/-- A QSPI write is applied whole or not at all: only with its check byte, count, every data word and the CRC right; else
CUT, CRC_ERR or REFUSED is set and nothing is written. A read answers with the marker, the data and their CRC, or with
the refusal marker. The status comes with its complement. The two release keys in order from one permitted seat release
the claim. A mute pair that matches writes MUTE, one that fails forces it. The beat counts while the firmware runs. The
model's choices that it rests on: log entries 91, 98, 99. (R337, R338, R339, R342, R355, R356, R357, R358) -/
def Obligations.QspiAndLifeline : Prop :=
  (∀ p op a n ws s h, qspiOn s p = true → (op = 0x02 ∨ op = 0x32) → (qspiOf s p).busy = false → a < 2 ^ 32 → ws.length = n → 1 ≤ n → n ≤ 256 →
    (∀ w ∈ ws, w < 2 ^ 32) → h = op :: bytesOf a 4 ++ bytesOf n 2 ++ [255 - op] →
    (∀ r, r = qspiWrites p a ws s → exec (.qspiWrite p (h ++ wordsToBytes ws ++ bytesOf (crc32c (h ++ wordsToBytes ws)) 4)) s
      = .next (updQspi p (fun _ => ⟨true, false, false, false, false, !r.1⟩) r.2))
    ∧ (∀ c, c < 2 ^ 32 → c ≠ crc32c (h ++ wordsToBytes ws) → exec (.qspiWrite p (h ++ wordsToBytes ws ++ bytesOf c 4)) s
      = .next (updQspi p (fun _ => ⟨false, false, true, false, false, false⟩) s))
    ∧ (∀ b, b.length < 4 * n + 4 → exec (.qspiWrite p (h ++ b)) s = .next (updQspi p (fun _ => ⟨false, false, false, true, false, false⟩) s)))
  ∧ (∀ p b s, qspiOn s p = true → (b.headD 0 = 0x02 ∨ b.headD 0 = 0x32) →
    ((qspiOf s p).busy = true → exec (.qspiWrite p b) s = .next (updQspi p (fun q => { q with refused := true }) s))
    ∧ ((qspiOf s p).busy = false → 8 ≤ b.length → b.getD 7 0 ≠ 255 - b.headD 0 → exec (.qspiWrite p b) s
      = .next (updQspi p (fun _ => ⟨false, false, true, false, false, false⟩) s)))
  ∧ (∀ p s, qspiOn s p = false → (∀ b, exec (.qspiWrite p b) s = .next s) ∧ (∀ h c, exec (.qspiRead p h c) s = .next s) ∧ exec (.qspiStatus p) s = .next s)
  ∧ (∀ p op a n s h r c, qspiOn s p = true → (op = 0x0B ∨ op = 0x6B) → a < 2 ^ 32 → 1 ≤ n → n ≤ 256 →
    h = op :: bytesOf a 4 ++ bytesOf n 2 ++ [255 - op] → r = qspiReads p a n s →
    (∀ ws b, r.1 = some ws → b = 0x5A :: wordsToBytes ws ++ bytesOf (crc32c (h ++ wordsToBytes ws)) 4 → exec (.qspiRead p h c) s
      = .next (emit .response ((3 + p) :: 0 :: 0 :: b.take c) (updQspi p (fun q => { q with
          targetErr := false
          cut := decide (c < b.length) }) r.2)))
    ∧ (r.1 = none → exec (.qspiRead p h c) s = .next (emit .response ((3 + p) :: 0 :: 0 :: [0xE5].take c) (updQspi p (fun q => { q with
          targetErr := true
          cut := decide (c < 1) }) r.2))))
  ∧ (∀ p n a v s, boundSeat s 2 p = some n → a % 4 = 0 →
    (0x1000 ≤ a → a < 0x3000 → qspiReadWord p a s = (some ((seatOf s n).mail.get (a / 4) 0), s))
    ∧ (0x3000 ≤ a → a < 0x10000 → qspiReadWord p a s = (some 0, s) ∧ qspiWriteWord p a v s = (true, s))
    ∧ (0x1000 ≤ a → a < 0x1400 → Quiescent s → v < 2 ^ 32 → ∃ t, qspiWriteWord p a v s = (true, t) ∧ t = updSeat n (putMail a [v]) s
      ∧ (seatOf t n).mail.get (a / 4) 0 = v))
  ∧ (∀ p s, qspiOn s p = true → exec (.qspiStatus p) s = .next (emit .response [3 + p, 0, 0, qspiStatus s p, not32 (qspiStatus s p)] s))
  ∧ (∀ n s, viewReach s n = true → flag s (HOST_PERM_REL_OK n) = true →
    exec (.lifeReleaseArm n) s = .next (updSeat n (fun x => { x with relArmed := true }) s)
    ∧ ((seatOf s n).relArmed = false → exec (.lifeReleaseKey n) s = .next (updSeat n (fun x => { x with relArmed := false }) s))
    ∧ ((seatOf s n).relArmed = true → ∃ t, exec (.lifeReleaseKey n) s = .next t ∧ (seatOf t n).relArmed = false ∧ getF t PAIR_CAUSE_CODE = 9
      ∧ (flag s PAIR_STAT_CLAIM = true → getF t PAIR_STAT_CLAIM = 0 ∧ t.pair.drivers = false ∧ getF t LIFE_STATUS_DARK = 1 ∧ getF t PAIR_STAT_STATE = 9)
      ∧ (∀ m, m ≠ n → (seatOf t m).relArmed = (seatOf s m).relArmed)))
  ∧ (∀ n s, n < 4 → (viewReach s n = false ∨ flag s (HOST_PERM_REL_OK n) = false → exec (.lifeReleaseArm n) s = .next s ∧ exec (.lifeReleaseKey n) s = .next s)
    ∧ exec (.lifeReleaseArmExpiry n) s = .next (updSeat n (fun x => { x with relArmed := false }) s))
  ∧ (∀ n v c s, viewReach s n = true → flag s (HOST_PERM_MUTE_OK n) = true →
    (lo32 c = not32 v → ∃ t, exec (.lifeMuteWrite n v c) s = .next t ∧ OnlyFields s { t with stage := s.stage } [(LIFE_MUTE_MUTE n, v % 2)])
    ∧ (lo32 c ≠ not32 v → ∃ t, exec (.lifeMuteWrite n v c) s = .next t ∧ getF t (LIFE_MUTE_MUTE n) = 1 ∧ getF t LIFE_STATUS_MUTE_PW = 1
      ∧ seatOf t n = { seatOf s n with mutePw := true } ∧ (∀ m, m ≠ n → getF t (LIFE_MUTE_MUTE m) = getF s (LIFE_MUTE_MUTE m))))
  ∧ (∀ n v c s, viewReach s n = false ∨ flag s (HOST_PERM_MUTE_OK n) = false → exec (.lifeMuteWrite n v c) s = .next s)
  ∧ (∀ s, s.ctl.boot = .firmware → s.pwr.rest = false → ∃ t, exec .lifeBeatTick s = .next t ∧ OnlyFields s t [(LIFE_BEAT_BEAT, getF s LIFE_BEAT_BEAT + 1)])

/-- A rail that leaves its window sets the alarm, its bit and ALERT, and is a self-diagnosis cause; the alarm clears when
every rail is back. The temperature is shown; at ALARM_C it alarms until it falls below the hysteresis; at 125 °C the
fabric stops and stays stopped until then. Quiet stops the fabric, after a ramp where it runs, with every armed entry
cancelled; its end starts it again. Rest releases the claim, puts each bank into Retain with its contents, or Off
without, and stops both PLLs. An enabled source wakes it, or is latched before entry completes. The model's choices that
it rests on: log entries 88, 93, 94, 95. (R106, R388, R389, R390, R391, R394, R395, R396, R397, R398, R294) -/
def Obligations.SleepAndAlarms : Prop :=
  (∀ k s, k < 7 → s.pwr.rest = false → s.ctl.boot ≠ .inReset → ∃ t, exec (.supplyAlarm k) s = .next t ∧ getF t PWR_ALARM_SUPPLY = 1
    ∧ getF t PWR_ALARM_RAIL_SEEN = (getF s PWR_ALARM_RAIL_SEEN ||| 2 ^ k) % 128 ∧ getF t LIFE_FAULT_SUPPLY = 1 ∧ getF t LIFE_STATUS_ALERT = 1
    ∧ getF t PAIR_CAUSE_CODE = 6 ∧ t.pair.diag = true ∧ t.fab = s.fab ∧ t.ash = s.ash ∧ t.clk = s.clk
    ∧ (flag s PAIR_STAT_CLAIM = true → s.pins.pairEn = true → getF t PAIR_STAT_CLAIM = 0 ∧ t.pair.drivers = false))
  ∧ (∀ s, s.pwr.rest = false → ∃ t, exec .supplyAlarmClear s = .next t ∧ getF t PWR_ALARM_SUPPLY = 0 ∧ getF t LIFE_FAULT_SUPPLY = 0
    ∧ getF t PWR_ALARM_RAIL_SEEN = getF s PWR_ALARM_RAIL_SEEN ∧ getF t LIFE_STATUS_ALERT = b2n (getF s LIFE_FAULT_BOOT != 0 || flag s LIFE_FAULT_PLL
      || flag s LIFE_FAULT_THERMAL || flag s PTP_STAT_TICK_LOST) ∧ t.fab = s.fab ∧ t.pair = s.pair)
  ∧ (∀ s x a, s.pwr.rest = false → s.ctl.boot ≠ .inReset → -2048 ≤ x → x < 1000 → a = 8 * (getF s PWR_THERM_ALARM_C : Int) →
    (x < a → a - 8 * (getF s PWR_THERM_HYST : Int) ≤ x → ∃ t, exec (.temperatureSample x) s = .next t
      ∧ OnlyFields s t [(PWR_TEMP_TEMP, ofS 12 x), (PWR_ALARM_CRIT, 0)])
    ∧ (a ≤ x → flag s PWR_ALARM_THERMAL = false → ∃ t, exec (.temperatureSample x) s = .next t ∧ getF t PWR_TEMP_TEMP = ofS 12 x
      ∧ getF t PWR_ALARM_THERMAL = 1 ∧ getF t PWR_ALARM_THERMAL_SEEN = 1 ∧ getF t LIFE_FAULT_THERMAL = 1 ∧ getF t LIFE_STATUS_ALERT = 1
      ∧ getF t PAIR_CAUSE_CODE = 7 ∧ t.fab = s.fab)
    ∧ (a ≤ x → flag s PWR_ALARM_THERMAL = true → ∃ t, exec (.temperatureSample x) s = .next t
      ∧ OnlyFields s t [(PWR_TEMP_TEMP, ofS 12 x), (PWR_ALARM_CRIT, 0)])
    ∧ (x < a → x < a - 8 * (getF s PWR_THERM_HYST : Int) → s.pwr.hotStop = false → ∃ t, exec (.temperatureSample x) s = .next t
      ∧ getF t PWR_TEMP_TEMP = ofS 12 x ∧ getF t PWR_ALARM_THERMAL = 0 ∧ getF t LIFE_FAULT_THERMAL = 0 ∧ t.fab = s.fab ∧ t.pair = s.pair)
    ∧ (x < a → x < a - 8 * (getF s PWR_THERM_HYST : Int) → s.pwr.hotStop = true → ∃ u, exec (.temperatureSample x) s = .next (fwRecover u)
      ∧ u.pwr = { s.pwr with hotStop := false } ∧ getF u PWR_ALARM_THERMAL = 0 ∧ u.fab = s.fab))
  ∧ (∀ s x, s.pwr.rest = false → s.ctl.boot ≠ .inReset → 1000 ≤ x → x < 2048 → s.pwr.hotStop = false → ∃ u,
    exec (.temperatureSample x) s = .next (rebuildSettings (fabReset false (if running u then stopFabric u else u)))
      ∧ u.pwr = { s.pwr with hotStop := true } ∧ getF u PWR_TEMP_TEMP = ofS 12 x ∧ getF u PWR_ALARM_CRIT = 1 ∧ getF u PWR_ALARM_CRIT_SEEN = 1
      ∧ u.fab = s.fab ∧ running u = running s)
  ∧ (∀ s, getF s PWR_STAT_STATE = 0 → s.pwr.entering = 0 → s.pwr.rest = false →
    (running s = false → ∃ t, exec .quietEntry s = .next t ∧ getF t PWR_STAT_STATE = 1 ∧ getF t LIFE_STATUS_QUIET = 1 ∧ t.pwr.entering = 0)
    ∧ (running s = true → ∃ t, exec .quietEntry s = .next t ∧ t.fab.sched = [] ∧ t.fab.ramp = some ⟨8, s.fab.ci + 257, 0⟩
      ∧ getF t FAB_STAT_IMG_STATE = 2 ∧ t.pwr = { s.pwr with entering := 1 } ∧ (isStandby s = true → getF t PAIR_STAT_STATE = 1)))
  ∧ (∀ s, getF s PWR_STAT_STATE ≠ 0 ∨ s.pwr.entering ≠ 0 ∨ s.pwr.rest = true → exec .quietEntry s = .next s)
  ∧ (∀ s, getF s PWR_STAT_STATE = 1 → ∃ u, exec .quietExit s = .next (startFabric (recommitHeld u)) ∧ getF u PWR_STAT_STATE = 0
    ∧ getF u LIFE_STATUS_QUIET = 0 ∧ u.pwr = { s.pwr with leaving := true } ∧ u.fab = s.fab ∧ u.media = s.media)
  ∧ (∀ s, getF s PWR_STAT_STATE = 2 → s.pwr.entering = 0 → s.pwr.rest = false → s.pwr.latched = none → ∃ t, exec .restEntry s = .next t
    ∧ t.pwr = { s.pwr with rest := true } ∧ getF t PAIR_STAT_CLAIM = (if flag s PAIR_STAT_CLAIM then 0 else getF s PAIR_STAT_CLAIM)
    ∧ t.pair.drivers = false ∧ getF t PTP_STAT_COARSE = 1 ∧ getF t CLK_SYN_CTL_EN = 0 ∧ getF t CLK_SYN_STAT_LOCK = 0 ∧ t.ctl.wram = []
    ∧ (flag s PAIR_STAT_CLAIM = true → getF t LIFE_CNT_RELEASES = min (getF s LIFE_CNT_RELEASES + 1) 65535)
    ∧ (∀ b off, b < 128 → b < nBanks s → nBanks s ≤ 128 → off = (bankState s b == 2 || flag s (restOffFld b) && b < partBank s) →
      bankState t b = (if off then 2 else 1) ∧ ∀ w, bankOf w = b → ashCode t w = if off then 0 else ashCode s w))
  ∧ (∀ c s, wakeEnabled s c = false → exec (.wakeEvent c) s = .next s)
  ∧ (∀ c s, wakeEnabled s c = true → s.pwr.rest = false → getF s PWR_STAT_STATE = 2 → 3 < c → s.pwr.latched = none →
    exec (.wakeEvent c) s = .next { s with pwr := { s.pwr with latched := some c } })
  ∧ (∀ c s, wakeEnabled s c = true → s.pwr.rest = true → ∃ t, exec (.wakeEvent c) s = .next t ∧ getF t PWR_STAT_STATE = 3
    ∧ getF t PWR_WAKE_STAT_SOURCE = c % 256 ∧ getF t PTP_STAT_COARSE = 0 ∧ getF t LIFE_STATUS_BOOT_ROM = 1 ∧ t.ctl.boot = .romWake
    ∧ t.clk.hist = [] ∧ t.pwr = { s.pwr with
        rest := false
        latched := none
        waking := true })
  ∧ (∀ s, s.pwr.waking = true → fwUp s = true → flag s CLK_SYN_STAT_LOCK = true → exec .wakeFabricStart s
      = .next (startFabric (recommitHeld { s with pwr := { s.pwr with
          waking := false
          leaving := true } })))
  ∧ (∀ s, s.pwr.waking = false ∨ fwUp s = false ∨ flag s CLK_SYN_STAT_LOCK = false → exec .wakeFabricStart s = .next s)

/-- A refused command changes nothing but its seat's reply. A reply stands in the reply area with header, complement and
CRC; REPLY_READY, LAST_SEQ and the reply interrupt are set, CMD_BUSY cleared, and nothing else changes; a UDP seat gets
it as a datagram. A claimant that relays runs the command with the STAGE events of its writes queued. An entry is armed
in the lowest free place for its course; a stopped fabric, a conflict, a full scheduler and a course too near refuse it.
A change with no target acts at once. The model's choices that it rests on: log entries 8, 24, 84, 110. (R33, R34, R35,
R307, R342, R343, R347, R359, R360, R361, R363) -/
def Obligations.AnswersAndArming : Prop :=
  (∀ op r f s, (∀ e, relayed f s = .error e → answer op r f s = postReply r.seat (op * 65536 + r.seq % 256 * 256 + b2n r.asap) e.status
      [e.detail + 256 * e.field + 65536 * e.check, e.arg] s)
    ∧ (∀ t ws, relayed f s = .ok (t, ws) → answer op r f s = postReply r.seat (op * 65536 + r.seq % 256 * 256 + b2n r.asap) 0 ws t)
    ∧ (relays s = false → relayed f s = f s) ∧ (∀ e, f s = .error e → relayed f s = .error e)
    ∧ (∀ t ws, relays s = true → f s = .ok (t, ws) → relayed f s = if stageEvents s t = [] then .ok (t, ws) else f (noted (stageEvents s t) s)))
  ∧ (∀ n w0 st p s t, n < 4 → t = postReply n w0 st p s →
    getF t (DB_STAT_REPLY_READY n) = 1 ∧ getF t (DB_STAT_CMD_BUSY n) = 0 ∧ getF t (DB_STAT_LAST_SEQ n) = bits w0 8 8
    ∧ t = { s with
        regs := t.regs
        seats := t.seats
        out := t.out }
    ∧ (∀ k d, k ∉ [(DB_STAT_REPLY_READY n).key, (DB_STAT_CMD_BUSY n).key, (DB_STAT_LAST_SEQ n).key, (IRQ_STAT_REPLY n).key] →
      t.regs.get k d = s.regs.get k d)
    ∧ (∀ m, m ≠ n → seatOf t m = seatOf s m) ∧ seatOf t n = { seatOf s n with mail := (seatOf t n).mail }
    ∧ (∀ i, (seatOf t n).mail.get (0x500 + i) 0 = if i < p.length + 5 then
        lo32 ((frameWords w0 (4 * p.length) n st p).getD i 0) else (seatOf s n).mail.get (0x500 + i) 0)
    ∧ (∀ i, i < 0x500 → (seatOf t n).mail.get i 0 = (seatOf s n).mail.get i 0)
    ∧ (getF s (HOST_BIND_IF n) = 3 → t.out = ⟨.datagram, getF s (HOST_BIND_INDEX n) :: (seatOf s n).srcAddr :: (seatOf s n).srcPort ::
        (frameWords w0 (4 * p.length) n st p).map lo32⟩ :: s.out)
    ∧ (getF s (HOST_BIND_IF n) ≠ 3 → flag t (IRQ_STAT_REPLY n) = true))
  ∧ (∀ w0 len n st p, (frameWords w0 len n st p).length = p.length + 5
    ∧ (frameWords w0 len n st p).take 4 = [w0, not32 w0, len + 65536 * n + 16777216 * st, not32 (len + 65536 * n + 16777216 * st)]
    ∧ ((frameWords w0 len n st p).drop 4).take p.length = p
    ∧ (frameWords w0 len n st p).getD (p.length + 4) 0 = crc32c (wordsToBytes ((frameWords w0 len n st p).take (p.length + 4))))
  ∧ (∀ s r e, running s = false → arm s r e = .error (err eState))
  ∧ (∀ s r e x, running s = true → x = { e with
        ci := aimed s r e.kind e.ci
        seat := r.seat } →
    (schedConflict s x = true → arm s r e = .error (err eState))
    ∧ (schedConflict s x = false → (∀ i, i < 64 → (s.fab.sched.find i).isSome = true) → arm s r e = .error (err eNospace))
    ∧ (∀ i, schedConflict s x = false → i < 64 → s.fab.sched.find i = none → (∀ j, j < i → (s.fab.sched.find j).isSome = true) →
      (x.ci < s.fab.ci + leadOf s e.kind → x.ci ≠ 0 → arm s r e = .error (err eLate))
      ∧ (s.fab.ci + leadOf s e.kind ≤ x.ci → 2 ^ 31 ≤ x.ci - s.fab.ci → arm s r e = .error (err eRange))
      ∧ (s.fab.ci + leadOf s e.kind ≤ x.ci → x.ci - s.fab.ci < 2 ^ 31 → ∃ t, arm s r e = .ok (i, x.ci, t) ∧ t.fab.sched = s.fab.sched.put i x
        ∧ (relays s = false → t = { s with fab := { s.fab with sched := s.fab.sched.put i x } })
        ∧ (relays s = true → t.pair.queue = s.pair.queue ++ [⟨2, i, [e.kind, lo32 x.ci, hi32 x.ci]⟩]))))
  ∧ (∀ s r k t, (r.asap = true → t < s.fab.ci + leadOf s k → aimed s r k t = s.fab.ci + leadOf s k)
    ∧ (r.asap = false ∨ s.fab.ci + leadOf s k ≤ t → aimed s r k t = t))
  ∧ (∀ s r cs now, relays s = false → optionalBatch s r 0 cs now = .ok (now s, [0xFF, 0, 0]))

/-- The command in front is carried out on the state with the queue's rest. With nothing waiting, a step is one tick (the
model's choice, log 10): the PTP counter advances by INC, by ten times INC while it counts coarsely, not at all while its
tick is lost, modulo 2^48 seconds; what a QSPI port was busy with is done; nothing else changes. The model's choices that
it rests on: log entries 10, 99. (R220, R221, R223, R231, R339) -/
def Obligations.StepTakesTheFront : Prop :=
  (∀ c rest s, s.pending = c :: rest → step s = exec c { s with pending := rest })
  ∧ (∀ c s, step { s with pending := c :: s.pending } = exec c s)
  ∧ (∀ s, s.pending = [] → ∃ t, step s = .next t ∧ t = { s with
        ptp := t.ptp
        qspi := t.qspi }
      ∧ (flag s PTP_STAT_TICK_LOST = true → t.ptp = s.ptp)
      ∧ (flag s PTP_STAT_TICK_LOST = false → t.ptp.ns < 1000000000 ∧ t.ptp.frac < 2 ^ 32 ∧ ptpUnits t.ptp = (ptpUnits s.ptp
        + (if flag s PTP_STAT_COARSE then 10 else 1) * (getF s PTP_INC_HI_INC_NS * 2 ^ 32 + getF s PTP_INC_LO_INC_FRAC)) % (2 ^ 48 * 1000000000 * 2 ^ 32))
      ∧ (∀ p, (qspiOf t p).busy = false) ∧ (∀ p, (qspiOf s p).busy = false → qspiOf t p = qspiOf s p))

/-- From every state whose register store is in rising order and whose memories (Ashlar, the tiles' data and program
memories, the working RAM and the boot flash) are in canonical form, strictly rising and with no entry that equals what
an unlisted address reads as, a step gives a state of the same form, whatever command it takes. (R93, R44, R69, R317,
R318) -/
def Obligations.EveryStepKeepsTheStores : Prop :=
  ∀ s t, StoresWf s → step s = .next t → StoresWf t

/-- The state after the power-on reset has its register store in rising order, every memory in canonical form, and no
command waiting. The model's choices that it rests on: log entry 2. (R93, R44, R386, R399) -/
def Obligations.ResetStores : Prop :=
  StoresWf State.reset ∧ State.reset.pending = []

/-- Every command, with whatever operands in whatever state, answers a next state: a violation is recorded or answered
and the block goes on. A step takes the command in front and nothing else from the queue, and puts none in. No command
changes a fuse but the floor of the security version number, which never falls. The model's choices that it rests on: log
entry 11. (R3, R10, R328, R361) -/
def Obligations.EveryStepCompletes : Prop :=
  (∀ c s, ∃ t, exec c s = .next t ∧ t.pending = s.pending ∧ FusesKept s.fuses t.fuses)
  ∧ (∀ s, ∃ t, step s = .next t ∧ t.pending = s.pending.drop 1 ∧ FusesKept s.fuses t.fuses)
end

