-- ==== Sys2Proof/Laws/AMap.lean ====
section
/-! SUPPORT. Keyed lists: what a read finds after a change, and that changes keep the rising order and the canonical form. -/

namespace Sys2Proof

variable {α : Type}

theorem AMap.get_put_self (m : AMap α) (k : Nat) (v d : α) : (m.put k v).get k d = v := by
  induction m with
  | nil => simp [AMap.put, AMap.get]
  | cons p t ih =>
    obtain ⟨i, w⟩ := p
    simp only [AMap.put]
    split
    · simp [AMap.get]
    · split
      · simp [AMap.get]
      · have : i ≠ k := by omega
        simp [AMap.get, this, ih]

theorem AMap.get_put_ne (m : AMap α) {k j : Nat} (v d : α) (h : j ≠ k) : (m.put k v).get j d = m.get j d := by
  induction m with
  | nil => simp [AMap.put, AMap.get, Ne.symm h]
  | cons p t ih =>
    obtain ⟨i, w⟩ := p
    simp only [AMap.put]
    split
    · simp [AMap.get, Ne.symm h]
    · split
      · subst i; simp [AMap.get, Ne.symm h]
      · simp [AMap.get, ih]

theorem AMap.get_erase_self (m : AMap α) (k : Nat) (d : α) : (m.erase k).get k d = d := by
  induction m with
  | nil => rfl
  | cons p t ih =>
    obtain ⟨i, w⟩ := p
    by_cases h : i = k
    · subst h; simpa [AMap.erase] using ih
    · have : (AMap.erase ((i, w) :: t) k) = (i, w) :: AMap.erase t k := by simp [AMap.erase, h]
      rw [this]; simp [AMap.get, h, ih]

theorem AMap.get_erase_ne (m : AMap α) {k j : Nat} (d : α) (h : j ≠ k) : (m.erase k).get j d = m.get j d := by
  induction m with
  | nil => rfl
  | cons p t ih =>
    obtain ⟨i, w⟩ := p
    by_cases hi : i = k
    · subst hi
      have : (AMap.erase ((i, w) :: t) i) = AMap.erase t i := by simp [AMap.erase]
      rw [this, ih]; simp [AMap.get, Ne.symm h]
    · have : (AMap.erase ((i, w) :: t) k) = (i, w) :: AMap.erase t k := by simp [AMap.erase, hi]
      rw [this]; simp [AMap.get, ih]

theorem AMap.get_set_self [DecidableEq α] (m : AMap α) (k : Nat) (v d : α) : (m.set k v d).get k d = v := by
  unfold AMap.set
  split
  · subst v; exact m.get_erase_self k d
  · exact m.get_put_self k v d

theorem AMap.get_set_ne [DecidableEq α] (m : AMap α) {k j : Nat} (v d e : α) (h : j ≠ k) :
    (m.set k v d).get j e = m.get j e := by
  unfold AMap.set
  split
  · exact m.get_erase_ne e h
  · exact m.get_put_ne v e h

theorem AMap.find_put_self (m : AMap α) (k : Nat) (v : α) : (m.put k v).find k = some v := by
  induction m with
  | nil => simp [AMap.put, AMap.find]
  | cons p t ih =>
    obtain ⟨i, w⟩ := p
    simp only [AMap.put]
    split
    · simp [AMap.find]
    · split
      · simp [AMap.find]
      · have : i ≠ k := by omega
        simp [AMap.find, this, ih]

theorem AMap.find_put_ne (m : AMap α) {k j : Nat} (v : α) (h : j ≠ k) : (m.put k v).find j = m.find j := by
  induction m with
  | nil => simp [AMap.put, AMap.find, Ne.symm h]
  | cons p t ih =>
    obtain ⟨i, w⟩ := p
    simp only [AMap.put]
    split
    · simp [AMap.find, Ne.symm h]
    · split
      · subst i; simp [AMap.find, Ne.symm h]
      · simp [AMap.find, ih]

theorem AMap.find_erase_self (m : AMap α) (k : Nat) : (m.erase k).find k = none := by
  induction m with
  | nil => rfl
  | cons p t ih =>
    obtain ⟨i, w⟩ := p
    by_cases h : i = k
    · subst h; simpa [AMap.erase] using ih
    · have : (AMap.erase ((i, w) :: t) k) = (i, w) :: AMap.erase t k := by simp [AMap.erase, h]
      rw [this]; simp [AMap.find, h, ih]

theorem AMap.find_erase_ne (m : AMap α) {k j : Nat} (h : j ≠ k) : (m.erase k).find j = m.find j := by
  induction m with
  | nil => rfl
  | cons p t ih =>
    obtain ⟨i, w⟩ := p
    by_cases hi : i = k
    · subst hi
      have : (AMap.erase ((i, w) :: t) i) = AMap.erase t i := by simp [AMap.erase]
      rw [this, ih]; simp [AMap.find, Ne.symm h]
    · have : (AMap.erase ((i, w) :: t) k) = (i, w) :: AMap.erase t k := by simp [AMap.erase, hi]
      rw [this]; simp [AMap.find, ih]

/-- Canonical form said of every pair: keys strictly rising and no pair that equals the default. -/
theorem AMap.wf_iff [DecidableEq α] (d : Nat → α) (m : AMap α) :
    m.wf d = true ↔ m.Pairwise (fun a b => a.1 < b.1) ∧ ∀ p ∈ m, p.2 ≠ d p.1 := by
  induction m with
  | nil => simp [AMap.wf]
  | cons p t ih =>
    obtain ⟨k, v⟩ := p
    cases t with
    | nil => simp [AMap.wf]
    | cons q u =>
      obtain ⟨j, w⟩ := q
      simp only [AMap.wf, Bool.and_eq_true, decide_eq_true_eq, ih]
      constructor
      · rintro ⟨⟨hv, hk⟩, hp, ha⟩
        refine ⟨?_, ?_⟩
        · rw [List.pairwise_cons]
          refine ⟨?_, hp⟩
          intro a ha'
          rcases List.mem_cons.1 ha' with rfl | h
          · exact hk
          · have := List.rel_of_pairwise_cons hp h
            simp only at this ⊢; omega
        · intro p hp'
          rcases List.mem_cons.1 hp' with rfl | h
          · exact hv
          · exact ha p h
      · rintro ⟨hp, ha⟩
        exact ⟨⟨ha (k, v) (by simp), (List.pairwise_cons.1 hp).1 (j, w) (List.mem_cons_self ..)⟩, (List.pairwise_cons.1 hp).2,
          fun p h => ha p (List.mem_cons_of_mem _ h)⟩

theorem AMap.mem_put {m : AMap α} {k : Nat} {v : α} {p : Nat × α} (h : p ∈ m.put k v) : p = (k, v) ∨ p ∈ m := by
  induction m with
  | nil => simpa [AMap.put] using h
  | cons q t ih =>
    obtain ⟨i, w⟩ := q
    simp only [AMap.put] at h
    split at h
    · simpa using h
    · split at h
      · rcases List.mem_cons.1 h with h | h
        · exact .inl h
        · exact .inr (List.mem_cons_of_mem _ h)
      · rcases List.mem_cons.1 h with h | h
        · exact .inr (by simp [h])
        · rcases ih h with h | h
          · exact .inl h
          · exact .inr (List.mem_cons_of_mem _ h)

/-- A put keeps the rising order. -/
theorem AMap.put_rising {m : AMap α} (h : m.Pairwise (fun a b => a.1 < b.1)) (k : Nat) (v : α) :
    (m.put k v).Pairwise (fun a b => a.1 < b.1) := by
  induction m with
  | nil => simp [AMap.put]
  | cons q t ih =>
    obtain ⟨i, w⟩ := q
    have ht := List.pairwise_cons.1 h
    simp only [AMap.put]
    split
    · rename_i hk
      rw [List.pairwise_cons]
      refine ⟨fun a ha => ?_, h⟩
      rcases List.mem_cons.1 ha with rfl | ha
      · exact hk
      · have := ht.1 a ha; simp only at this ⊢; omega
    · split
      · rename_i _ hk
        subst hk
        rw [List.pairwise_cons]
        exact ⟨ht.1, ht.2⟩
      · rename_i hk hi
        rw [List.pairwise_cons]
        refine ⟨fun a ha => ?_, ih ht.2⟩
        rcases AMap.mem_put ha with rfl | ha
        · simp only; omega
        · exact ht.1 a ha

/-- A filter keeps the rising order. -/
theorem AMap.filter_rising {m : AMap α} (h : m.Pairwise (fun a b => a.1 < b.1)) (f : Nat × α → Bool) :
    (m.filter f).Pairwise (fun a b => a.1 < b.1) := List.Pairwise.filter f h

/-- A set keeps the rising order. -/
theorem AMap.set_rising [DecidableEq α] {m : AMap α} (h : m.Pairwise (fun a b => a.1 < b.1)) (k : Nat) (v d : α) :
    (m.set k v d).Pairwise (fun a b => a.1 < b.1) := by
  unfold AMap.set
  split
  · exact AMap.filter_rising h _
  · exact AMap.put_rising h k v

/-- A set with the default under its key keeps the canonical form. -/
theorem AMap.set_wf [DecidableEq α] {d : Nat → α} {m : AMap α} (h : m.wf d = true) (k : Nat) (v : α) :
    (m.set k v (d k)).wf d = true := by
  rw [AMap.wf_iff] at h ⊢
  refine ⟨AMap.set_rising h.1 k v _, ?_⟩
  unfold AMap.set
  split
  · exact fun p hp => h.2 p ((List.mem_filter.1 hp).1)
  · intro p hp
    rcases AMap.mem_put hp with rfl | hp
    · assumption
    · exact h.2 p hp

/-- A filter keeps the canonical form. -/
theorem AMap.filter_wf [DecidableEq α] {d : Nat → α} {m : AMap α} (h : m.wf d = true) (f : Nat × α → Bool) :
    AMap.wf d (m.filter f) = true := by
  rw [AMap.wf_iff] at h ⊢
  exact ⟨AMap.filter_rising h.1 f, fun p hp => h.2 p ((List.mem_filter.1 hp).1)⟩

/-- The list that lists nothing is canonical. -/
theorem AMap.nil_wf [DecidableEq α] (d : Nat → α) : AMap.wf d ([] : AMap α) = true := rfl

/-- Equal reads of canonical lists make equal lists: a read of an unlisted key is the default. -/
theorem AMap.get_of_notMem {m : AMap α} {k : Nat} (d : α) (h : ∀ p ∈ m, p.1 ≠ k) : m.get k d = d := by
  induction m with
  | nil => rfl
  | cons q t ih =>
    obtain ⟨i, w⟩ := q
    have hi : i ≠ k := h (i, w) (by simp)
    simp only [AMap.get, hi, if_false]
    exact ih (fun p hp => h p (List.mem_cons_of_mem _ hp))

end Sys2Proof
end

