-- ==== Sys2Proof/Laws/Keeps.lean ====
section
/-! SUPPORT. What every operation of the machine leaves alone: the queue of waiting commands, the fuses and the canonical form of
the stores. One relation, its closure lemmas, and in the Keeps files one lemma for each operation. -/

namespace Sys2Proof.Machine

/-- From the first state to the second the queue is unchanged, the fuses are but for an SVN floor that may rise, and the stores
keep their form. -/
structure Keeps (s t : State) : Prop where
  pending : t.pending = s.pending
  fuses : FusesKept s.fuses t.fuses
  stores : StoresWf s → StoresWf t

theorem FusesKept.refl (f : Fuses) : FusesKept f f := ⟨rfl, Nat.le_refl _⟩

theorem FusesKept.trans {a b c : Fuses} (h : FusesKept a b) (k : FusesKept b c) : FusesKept a c :=
  ⟨k.1.trans (by rw [h.1]), Nat.le_trans h.2 k.2⟩

theorem Keeps.refl (s : State) : Keeps s s := ⟨rfl, .refl _, id⟩

theorem Keeps.trans {a b c : State} (h : Keeps a b) (k : Keeps b c) : Keeps a c :=
  ⟨k.pending.trans h.pending, h.fuses.trans k.fuses, fun x => k.stores (h.stores x)⟩

/-- The relation from what it watches, for states with the same queue and fuses. -/
theorem Keeps.mk' {s t : State} (hp : t.pending = s.pending) (hf : t.fuses = s.fuses) (hs : StoresWf s → StoresWf t) :
    Keeps s t := ⟨hp, hf ▸ .refl _, hs⟩

theorem Keeps.ite {s a b : State} {c : Prop} [Decidable c] (ha : Keeps s a) (hb : Keeps s b) :
    Keeps s (if c then a else b) := by split <;> assumption

theorem Keeps.ite_snd {s : State} {β : Type} {a b : β × State} {c : Prop} [Decidable c] (ha : Keeps s a.2) (hb : Keeps s b.2) :
    Keeps s (if c then a else b).2 := by split <;> assumption

theorem Keeps.ite_snd_snd {s : State} {β γ : Type} {a b : β × γ × State} {c : Prop} [Decidable c] (ha : Keeps s a.2.2)
    (hb : Keeps s b.2.2) : Keeps s (if c then a else b).2.2 := by split <;> assumption

theorem Keeps.foldl {α : Type} {f : State → α → State} {l : List α} {s0 s : State} (hf : ∀ x a, Keeps x (f x a))
    (h : Keeps s0 s) : Keeps s0 (l.foldl f s) := by
  induction l generalizing s with
  | nil => exact h
  | cons a t ih => exact ih (h.trans (hf s a))

theorem Keeps.foldl_snd {α β : Type} {f : β × State → α → β × State} {l : List α} {s0 : State} {p : β × State}
    (hf : ∀ x a, Keeps x.2 (f x a).2) (h : Keeps s0 p.2) : Keeps s0 (l.foldl f p).2 := by
  induction l generalizing p with
  | nil => exact h
  | cons a t ih => exact ih (h.trans (hf p a))

/-- A record update of fields that the relation does not watch. -/
theorem Keeps.upd {s0 s : State} (h : Keeps s0 s) {pins live stage ctl vsr seats qspi fw fab plane ash ptp media pair pwr rte
    dyn port net str ptpIo clk oenDark amp out free} (hw : ctl.wram = s.ctl.wram) (hf : ctl.flash = s.ctl.flash)
    (ha : ash.mem = s.ash.mem) :
    Keeps s0 ⟨s.fuses, pins, s.regs, live, stage, ctl, vsr, seats, qspi, fw, fab, plane, s.tiles, ash, ptp, media, pair, pwr,
      rte, dyn, port, net, str, ptpIo, clk, oenDark, amp, out, free, s.pending⟩ :=
  h.trans (.mk' rfl rfl fun i => ⟨i.regs, ha ▸ i.ashlar, hw ▸ i.wram, hf ▸ i.flash, i.tiles⟩)

/-- A record update that also changes the stores. -/
theorem Keeps.upd_stores {s0 s : State} (h : Keeps s0 s) {pins live stage ctl vsr seats qspi fw fab plane ash ptp media pair pwr
    rte dyn port net str ptpIo clk oenDark amp out free} {regs : AMap Nat} {tiles : AMap Tile}
    (hs : StoresWf s → StoresWf ⟨s.fuses, pins, regs, live, stage, ctl, vsr, seats, qspi, fw, fab, plane, tiles, ash, ptp, media,
      pair, pwr, rte, dyn, port, net, str, ptpIo, clk, oenDark, amp, out, free, s.pending⟩) :
    Keeps s0 ⟨s.fuses, pins, regs, live, stage, ctl, vsr, seats, qspi, fw, fab, plane, tiles, ash, ptp, media, pair, pwr,
      rte, dyn, port, net, str, ptpIo, clk, oenDark, amp, out, free, s.pending⟩ :=
  h.trans (.mk' rfl rfl hs)

/-! ## Tiles -/

/-- The same three memories. -/
def SameMem (t u : Tile) : Prop := u.dmem = t.dmem ∧ u.imem0 = t.imem0 ∧ u.imem1 = t.imem1

theorem SameMem.wf {t u : Tile} (h : SameMem t u) (w : tileWf t) : tileWf u := by
  obtain ⟨a, b, c⟩ := h
  unfold tileWf
  rw [a, b, c]; exact w

theorem SameMem.trans {a b c : Tile} (h : SameMem a b) (k : SameMem b c) : SameMem a c :=
  ⟨k.1.trans h.1, k.2.1.trans h.2.1, k.2.2.trans h.2.2⟩

/-! ## Answers of the firmware's commands and outcomes -/

/-- The state of a success keeps what the relation watches. -/
def KeepsM (s : State) (m : FwM) : Prop := ∀ x, m = .ok x → Keeps s x.1

theorem KeepsM.ok {s t : State} {ws : List Nat} (h : Keeps s t) : KeepsM s (.ok (t, ws)) := by
  intro x hx; cases hx; exact h

theorem KeepsM.pure {s t : State} {ws : List Nat} (h : Keeps s t) : KeepsM s (pure (t, ws)) := KeepsM.ok h

theorem KeepsM.ret {s : State} {x : State × List Nat} (h : Keeps s x.1) : KeepsM s (.ok x) := by
  intro y hy; cases hy; exact h

theorem KeepsM.pret {s : State} {x : State × List Nat} (h : Keeps s x.1) : KeepsM s (Pure.pure x) := KeepsM.ret h

theorem KeepsM.error {s : State} {e : FwErr} : KeepsM s (.error e) := by intro x hx; cases hx

theorem KeepsM.ite {s : State} {a b : FwM} {c : Prop} [Decidable c] (ha : KeepsM s a) (hb : KeepsM s b) :
    KeepsM s (if c then a else b) := by split <;> assumption

theorem KeepsM.bind {α : Type} {s : State} {m : Except FwErr α} {f : α → FwM} (hf : ∀ a, m = .ok a → KeepsM s (f a)) :
    KeepsM s (m >>= f) := by
  cases m with
  | error e => exact fun _ hx => by cases hx
  | ok a => exact hf a rfl

/-- A bind over another answer keeps what the relation watches when the rest does from the state of that answer. -/
theorem KeepsM.bindK {s : State} {m : FwM} {f : State × List Nat → FwM} (hm : KeepsM s m)
    (hf : ∀ x, Keeps s x.1 → KeepsM s (f x)) : KeepsM s (m >>= f) :=
  KeepsM.bind (fun a ha => hf a (hm a ha))

/-- The next state of an outcome keeps what the relation watches. -/
def KeepsO (s : State) (o : Host.Outcome State Fault Refusal) : Prop := ∀ t, o = .next t → Keeps s t

theorem KeepsO.next {s t : State} (h : Keeps s t) : KeepsO s (.next t) := by intro x hx; cases hx; exact h

theorem KeepsO.ite {s : State} {a b : Host.Outcome State Fault Refusal} {c : Prop} [Decidable c] (ha : KeepsO s a)
    (hb : KeepsO s b) : KeepsO s (if c then a else b) := by split <;> assumption

theorem Keeps.ofO {s t : State} {o : Host.Outcome State Fault Refusal} (h : KeepsO s o) (e : o = .next t) : Keeps s t := h t e

end Sys2Proof.Machine
end

