-- ==== Sys2Proof/Laws/KeepsOps.lean ====
section
/-! SUPPORT. The operations of Machine/Ops.lean keep the queue, the fuses and the form of the stores. -/

namespace Sys2Proof.Machine

theorem putF_keeps {s0 : State} {f : Fld} {v : Nat} {s : State} (h : Keeps s0 s) : Keeps s0 (putF f v s) :=
  h.trans <| .mk' rfl rfl <| fun i => ⟨AMap.set_rising i.regs _ _ _, i.ashlar, i.wram, i.flash, i.tiles⟩

theorem putB_keeps {s0 : State} {f : Fld} {b : Bool} {s : State} (h : Keeps s0 s) : Keeps s0 (putB f b s) := by
  unfold putB
  repeat' first | with_reducible assumption | with_reducible apply putF_keeps

theorem setIf_keeps {s0 : State} {f : Fld} {b : Bool} {s : State} (h : Keeps s0 s) : Keeps s0 (setIf f b s) := by
  unfold setIf
  repeat' first | with_reducible apply Keeps.ite | with_reducible assumption | with_reducible apply putF_keeps

theorem bump_keeps {s0 : State} {f : Fld} {n : Nat} {s : State} (h : Keeps s0 s) : Keeps s0 (bump f n s) := by
  unfold bump
  repeat' first | with_reducible assumption | with_reducible apply putF_keeps

theorem wrap_keeps {s0 : State} {f : Fld} {n : Nat} {s : State} (h : Keeps s0 s) : Keeps s0 (wrap f n s) := by
  unfold wrap
  repeat' first | with_reducible assumption | with_reducible apply putF_keeps

theorem putFs_keeps {s0 : State} {l : List (Fld × Nat)} {s : State} (h : Keeps s0 s) : Keeps s0 (putFs l s) :=
  Keeps.foldl (fun _ _ => putF_keeps (Keeps.refl _)) h

theorem updSeat_keeps {s0 : State} {n : Nat} {f : Seat → Seat} {s : State} (h : Keeps s0 s) : Keeps s0 (updSeat n f s) := by
  unfold updSeat
  repeat' first | with_reducible assumption | exact rfl | with_reducible apply Keeps.upd

theorem AMap_mem_set {m : AMap Tile} {k : Nat} {v d : Tile} {p : Nat × Tile} (h : p ∈ m.set k v d) : p = (k, v) ∨ p ∈ m := by
  unfold AMap.set at h
  split at h
  · exact .inr (List.mem_filter.1 h).1
  · exact AMap.mem_put h

theorem tileOf_wf {s : State} (h : ∀ p ∈ s.tiles, tileWf p.2) (n : Nat) : tileWf (tileOf s n) := by
  unfold tileOf
  generalize s.tiles = m at h
  induction m with
  | nil => exact ⟨rfl, rfl, rfl⟩
  | cons p t ih =>
    obtain ⟨i, w⟩ := p
    simp only [AMap.get]
    split
    · exact h (i, w) (List.mem_cons_self ..)
    · exact ih (fun p hp => h p (List.mem_cons_of_mem _ hp))

theorem updTile_keeps {s0 : State} {n : Nat} {f : Tile → Tile} {s : State} (hf : ∀ x, tileWf x → tileWf (f x))
    (h : Keeps s0 s) : Keeps s0 (updTile n f s) :=
  h.trans <| .mk' rfl rfl <| fun i => ⟨i.regs, i.ashlar, i.wram, i.flash, fun p hp => by
    rcases AMap_mem_set hp with rfl | hp
    · exact hf _ (tileOf_wf i.tiles n)
    · exact i.tiles p hp⟩

/-- A tile changed into one whose memories are in form whenever the stores are. -/
theorem updTile_keeps_of {s0 : State} {n : Nat} {f : Tile → Tile} {s : State} (h : Keeps s0 s)
    (hf : StoresWf s → tileWf (f (tileOf s n))) : Keeps s0 (updTile n f s) :=
  h.trans <| .mk' rfl rfl <| fun i => ⟨i.regs, i.ashlar, i.wram, i.flash, fun p hp => by
    rcases AMap_mem_set hp with rfl | hp
    · exact hf i
    · exact i.tiles p hp⟩

theorem emit_keeps {s0 : State} {k : OutKind} {d : List Nat} {s : State} (h : Keeps s0 s) : Keeps s0 (emit k d s) := by
  unfold emit
  repeat' first | with_reducible assumption | exact rfl | with_reducible apply Keeps.upd

theorem takeFree_keeps {s0 : State} {s : State} (h : Keeps s0 s) : Keeps s0 (takeFree s).2 := by
  unfold takeFree
  repeat' first | with_reducible assumption | exact rfl | with_reducible apply Keeps.upd

theorem irq_keeps {s0 : State} {n : Nat} {bit : Nat} {s : State} (h : Keeps s0 s) : Keeps s0 (irq n bit s) := by
  unfold irq
  extract_lets -merge -useContext s1
  have h_s1 : Keeps s0 s1 := by
    dsimp only [s1]
    repeat' first | with_reducible assumption | with_reducible apply putF_keeps
  clear_value s1
  repeat' first | with_reducible apply Keeps.ite | with_reducible assumption | with_reducible apply emit_keeps

theorem irqAll_keeps {s0 : State} {bit : Nat} {s : State} (h : Keeps s0 s) : Keeps s0 (irqAll bit s) := by
  unfold irqAll
  repeat' first | with_reducible assumption | with_reducible apply irq_keeps

theorem watchLife_keeps {s0 : State} {f : State → State} {s : State} (hf : ∀ x, Keeps x (f x)) (h : Keeps s0 s) :
    Keeps s0 (watchLife f s) := by
  unfold watchLife
  dsimp only
  split
  · exact h.trans (hf s)
  · exact irqAll_keeps (h.trans (hf s))

theorem setAlert_keeps {s0 : State} {s : State} (h : Keeps s0 s) : Keeps s0 (setAlert s) := by
  unfold setAlert
  repeat' first | with_reducible assumption | with_reducible apply putB_keeps

theorem writeRing_keeps {s0 : State} {n : Nat} {e : Ev} {s : State} (h : Keeps s0 s) : Keeps s0 (writeRing n e s) := by
  unfold writeRing
  extract_lets -merge -useContext h_1 ws
  clear_value h_1 ws
  repeat' first
    | with_reducible apply Keeps.ite
    | with_reducible assumption
    | with_reducible apply wrap_keeps
    | with_reducible apply emit_keeps
    | with_reducible apply irq_keeps
    | with_reducible apply updSeat_keeps

theorem raiseTo_keeps {s0 : State} {n : Nat} {e : Ev} {s : State} (h : Keeps s0 s) : Keeps s0 (raiseTo n e s) := by
  unfold raiseTo
  extract_lets -merge -useContext t
  clear_value t
  repeat' first
    | with_reducible apply Keeps.ite
    | with_reducible assumption
    | with_reducible apply updSeat_keeps
    | with_reducible apply writeRing_keeps

theorem pumpEvents_keeps {s0 : State} {n k : Nat} {s : State} (h : Keeps s0 s) : Keeps s0 (pumpEvents n k s) := by
  induction k generalizing s with
  | zero => exact h
  | succ k ih =>
    simp only [pumpEvents]
    split
    · exact h
    · split
      · exact ih (writeRing_keeps (updSeat_keeps h))
      · split
        · exact h
        · exact writeRing_keeps (updSeat_keeps h)

theorem raiseSeats_keeps {s0 : State} {ns : List Nat} {code : Nat} {ws : List Nat} {s : State} (h : Keeps s0 s) :
    Keeps s0 (raiseSeats ns code ws s) := by
  unfold raiseSeats
  repeat' first
    | with_reducible assumption
    | with_reducible exact Keeps.refl _
    | with_reducible apply raiseTo_keeps
    | with_reducible apply Keeps.foldl
    | intro _

theorem raiseAll_keeps {s0 : State} {code : Nat} {ws : List Nat} {s : State} (h : Keeps s0 s) :
    Keeps s0 (raiseAll code ws s) := by
  unfold raiseAll
  repeat' first | with_reducible assumption | with_reducible apply raiseSeats_keeps

theorem raiseOwner_keeps {s0 : State} {kind : Nat} {idx : Nat} {code : Nat} {ws : List Nat} {s : State} (h : Keeps s0 s) :
    Keeps s0 (raiseOwner kind idx code ws s) := by
  unfold raiseOwner
  repeat' first | with_reducible assumption | with_reducible apply raiseSeats_keeps

theorem pairEvent_keeps {s0 : State} {s : State} (h : Keeps s0 s) : Keeps s0 (pairEvent s) := by
  unfold pairEvent
  repeat' first | with_reducible assumption | with_reducible apply raiseAll_keeps

theorem setProtected_keeps {s0 : State} {s : State} (h : Keeps s0 s) : Keeps s0 (setProtected s) := by
  unfold setProtected
  repeat' first | with_reducible assumption | with_reducible apply putB_keeps

theorem setPairState_keeps {s0 : State} {st : Nat} {s : State} (h : Keeps s0 s) : Keeps s0 (setPairState st s) := by
  unfold setPairState
  extract_lets -merge -useContext s1
  have h_s1 : Keeps s0 s1 := by
    dsimp only [s1]
    repeat' first | with_reducible assumption | with_reducible apply putB_keeps | with_reducible apply putF_keeps
  clear_value s1
  repeat' first
    | with_reducible apply Keeps.ite
    | with_reducible assumption
    | with_reducible apply pairEvent_keeps
    | with_reducible apply setProtected_keeps

theorem dropClaim_keeps {s0 : State} {s : State} (h : Keeps s0 s) : Keeps s0 (dropClaim s) := by
  unfold dropClaim
  extract_lets -merge -useContext s1 src s2
  have h_s1 : Keeps s0 s1 := by
    dsimp only [s1]
    repeat' first | with_reducible assumption | with_reducible apply putF_keeps
  have h_s2 : Keeps s0 s2 := by
    dsimp only [s2]
    repeat' first | with_reducible assumption | exact rfl | with_reducible apply bump_keeps | with_reducible apply Keeps.upd
  clear_value s1 s2
  repeat' first | with_reducible assumption | with_reducible apply putF_keeps | with_reducible apply setPairState_keeps

theorem selfDiag_keeps {s0 : State} {code : Nat} {s : State} (h : Keeps s0 s) : Keeps s0 (selfDiag code s) := by
  unfold selfDiag
  repeat' first
    | with_reducible apply Keeps.ite
    | with_reducible assumption
    | with_reducible exact Keeps.refl _
    | exact rfl
    | with_reducible apply watchLife_keeps
    | with_reducible apply putF_keeps
    | with_reducible apply dropClaim_keeps
    | with_reducible apply pairEvent_keeps
    | split
    | intro _
    | with_reducible apply Keeps.upd

theorem guardFault_keeps {s0 : State} {code req cycle : Nat} {s : State} (h : Keeps s0 s) :
    Keeps s0 (guardFault code req cycle s) := by
  unfold guardFault
  refine watchLife_keeps (fun x => ?_) h
  dsimp only
  split
  · exact raiseAll_keeps (selfDiag_keeps (Keeps.upd (putF_keeps (Keeps.refl _)) rfl rfl rfl))
  · exact selfDiag_keeps (putF_keeps (putF_keeps (Keeps.refl _)))

theorem vsrLog_keeps {s0 : State} {kind : Nat} {write : Bool} {master : Nat} {id : Nat} {addr : Nat} {s : State}
    (h : Keeps s0 s) : Keeps s0 (vsrLog kind write master id addr s) := by
  unfold vsrLog
  extract_lets -merge -useContext s1 src
  have h_s1 : Keeps s0 s1 := by
    dsimp only [s1]
    repeat' first | with_reducible apply Keeps.ite | with_reducible assumption | with_reducible apply bump_keeps
  clear_value s1
  repeat' first
    | with_reducible apply Keeps.ite
    | with_reducible assumption
    | exact rfl
    | with_reducible apply putF_keeps
    | with_reducible apply Keeps.upd

end Sys2Proof.Machine
end

