-- ==== Sys2Proof/Laws/KeepsSlots.lean ====
section
/-! SUPPORT. The operations of Machine/Slots.lean keep the queue, the fuses and the form of the stores. -/

namespace Sys2Proof.Machine

theorem putSlot_keeps {s0 : State} {slot : Nat} {v : Nat} {s : State} (h : Keeps s0 s) : Keeps s0 (putSlot slot v s) := by
  unfold putSlot
  extract_lets -merge -useContext src src_2
  repeat' first | with_reducible apply Keeps.ite | with_reducible assumption | exact rfl | with_reducible apply Keeps.upd

theorem markWritten_keeps {s0 : State} {line : Nat} {s : State} (h : Keeps s0 s) : Keeps s0 (markWritten line s) := by
  unfold markWritten
  extract_lets -merge -useContext src
  repeat' first | with_reducible apply Keeps.ite | with_reducible assumption | exact rfl | with_reducible apply Keeps.upd

theorem putLine_keeps {s0 : State} {line : Nat} {mask : Nat} {vals : List Nat} {s : State} (h : Keeps s0 s) :
    Keeps s0 (putLine line mask vals s) := by
  unfold putLine
  repeat' first
    | with_reducible apply Keeps.ite
    | with_reducible assumption
    | with_reducible exact Keeps.refl _
    | with_reducible apply markWritten_keeps
    | with_reducible apply putSlot_keeps
    | with_reducible apply Keeps.foldl
    | intro _

theorem writeLine_keeps {s0 : State} {req : Nat} {line : Nat} {mask : Nat} {vals : List Nat} {c : Nat} {s : State}
    (h : Keeps s0 s) : Keeps s0 (writeLine req line mask vals c s) := by
  unfold writeLine
  repeat' first
    | with_reducible apply Keeps.ite
    | with_reducible assumption
    | with_reducible apply putLine_keeps
    | with_reducible apply guardFault_keeps

theorem engineSlotWrite_keeps {s0 : State} {req : Nat} {line : Nat} {mask : Nat} {vals : List Nat} {c : Nat} {s : State}
    (h : Keeps s0 s) : Keeps s0 (engineSlotWrite req line mask vals c s) := by
  unfold engineSlotWrite
  repeat' first
    | with_reducible apply Keeps.ite
    | with_reducible assumption
    | with_reducible apply writeLine_keeps
    | with_reducible apply guardFault_keeps

theorem engineSlotRead_keeps {s0 : State} {req : Nat} {line : Nat} {c : Nat} {s : State} (h : Keeps s0 s) :
    Keeps s0 (engineSlotRead req line c s).2 := by
  unfold engineSlotRead
  repeat' first | with_reducible apply Keeps.ite_snd | with_reducible assumption | with_reducible apply guardFault_keeps

theorem readChained_keeps {s0 : State} {req : Nat} {line : Nat} {c : Nat} {s : State} (h : Keeps s0 s) :
    Keeps s0 (readChained req line c s).2 := by
  unfold readChained
  repeat' first | with_reducible apply Keeps.ite_snd | with_reducible assumption | with_reducible apply guardFault_keeps

theorem zeroLine_keeps {s0 : State} {line : Nat} {s : State} (h : Keeps s0 s) : Keeps s0 (zeroLine line s) := by
  unfold zeroLine
  repeat' first
    | with_reducible assumption
    | with_reducible exact Keeps.refl _
    | with_reducible apply putSlot_keeps
    | with_reducible apply Keeps.foldl
    | intro _

end Sys2Proof.Machine
end

