-- ==== Sys2Proof/Laws/KeepsRoute.lean ====
section
/-! SUPPORT. The operations of Machine/Route.lean keep the queue, the fuses and the form of the stores. -/

namespace Sys2Proof.Machine

theorem updDst_keeps {s0 : State} {d : Nat} {f : DestSt → DestSt} {s : State} (h : Keeps s0 s) :
    Keeps s0 (updDst d f s) := by
  unfold updDst
  extract_lets -merge -useContext src
  repeat' first | with_reducible assumption | exact rfl | with_reducible apply Keeps.upd

theorem stepRamps_keeps {s0 : State} {s : State} (h : Keeps s0 s) : Keeps s0 (stepRamps s) := by
  unfold stepRamps
  extract_lets -merge -useContext src
  repeat' first | with_reducible assumption | exact rfl | with_reducible apply Keeps.upd

theorem pwUse_keeps {s0 : State} {index : Nat} {table : Nat} {s : State} (h : Keeps s0 s) :
    Keeps s0 (pwUse index table s) := by
  unfold pwUse
  extract_lets -merge -useContext s1
  have h_s1 : Keeps s0 s1 := by
    dsimp only [s1]
    repeat' first | with_reducible apply Keeps.ite | with_reducible assumption | with_reducible apply putFs_keeps
  clear_value s1
  repeat' first | with_reducible assumption | with_reducible apply selfDiag_keeps | with_reducible apply putF_keeps

theorem sumEntry_keeps {s0 : State} {i : Nat} {x : Sounding} {s : State} (h : Keeps s0 s) : Keeps s0 (sumEntry i x s) := by
  unfold sumEntry
  extract_lets -merge -useContext q a src s1
  have h_s1 : Keeps s0 s1 := by
    dsimp only [s1]
    repeat' first | with_reducible assumption | exact rfl | with_reducible apply Keeps.upd
  clear_value q a s1
  repeat' first
    | with_reducible apply Keeps.ite
    | with_reducible assumption
    | with_reducible apply pwUse_keeps
    | with_reducible apply bump_keeps

theorem routeWindow_keeps {s0 : State} {s : State} (h : Keeps s0 s) : Keeps s0 (routeWindow s) := by
  unfold routeWindow
  extract_lets -merge -useContext src
  repeat' first
    | with_reducible assumption
    | with_reducible exact Keeps.refl _
    | exact rfl
    | with_reducible apply sumEntry_keeps
    | with_reducible apply Keeps.foldl
    | intro _
    | with_reducible apply Keeps.upd

theorem execRouteWindow_keeps {s0 : State} {s : State} (h : Keeps s0 s) : KeepsO s0 (execRouteWindow s) := by
  unfold execRouteWindow
  repeat' first
    | with_reducible assumption
    | with_reducible apply KeepsO.next
    | with_reducible apply KeepsO.ite
    | with_reducible apply routeWindow_keeps

theorem useRec_keeps {s0 : State} {d : Nat} {s : State} (h : Keeps s0 s) : Keeps s0 (useRec d s).2 := by
  unfold useRec
  extract_lets -merge -useContext r
  clear_value r
  repeat' first
    | with_reducible apply Keeps.ite_snd
    | with_reducible assumption
    | with_reducible apply updDst_keeps
    | with_reducible apply pwUse_keeps

theorem peakLevel_keeps {s0 : State} {m : Nat} {s : State} (h : Keeps s0 s) : Keeps s0 (peakLevel m s).2 := by
  unfold peakLevel
  extract_lets -merge -useContext f
  have h_f : Keeps s0 f.2 := by
    dsimp only [f]
    repeat' first | with_reducible assumption | with_reducible apply takeFree_keeps
  clear_value f
  repeat' first | with_reducible apply Keeps.ite_snd | with_reducible assumption

theorem limiter_keeps {s0 : State} {d : Nat} {v : Nat} {sum : Int} {s : State} (h : Keeps s0 s) :
    Keeps s0 (limiter d v sum s).2 := by
  unfold limiter
  extract_lets -merge -useContext t la held x mode g0 s0_1 pl target a g f y
  have h_s0_1 : Keeps s0 s0_1 := by
    dsimp only [s0_1]
    repeat' first | with_reducible assumption | with_reducible apply updDst_keeps
  have h_pl : Keeps s0 pl.2 := by
    dsimp only [pl]
    repeat' first | with_reducible assumption | with_reducible apply peakLevel_keeps
  have h_f : Keeps s0 f.2 := by
    dsimp only [f]
    repeat' first | with_reducible assumption | with_reducible apply takeFree_keeps
  clear_value t la held x mode g0 s0_1 pl target a g f y
  repeat' first | with_reducible apply Keeps.ite_snd | with_reducible assumption | with_reducible apply updDst_keeps

theorem silenceEvent_keeps {s0 : State} {d : Nat} {silent : Bool} {ciHi : Nat} {s : State} (h : Keeps s0 s) :
    Keeps s0 (silenceEvent d silent ciHi s) := by
  unfold silenceEvent
  extract_lets -merge -useContext src
  repeat' first
    | with_reducible assumption
    | exact rfl
    | with_reducible apply raiseOwner_keeps
    | with_reducible apply Keeps.upd

theorem silChange_keeps {s0 : State} {d : Nat} {silent : Bool} {s : State} (h : Keeps s0 s) :
    Keeps s0 (silChange d silent s) := by
  unfold silChange
  extract_lets -merge -useContext s1
  have h_s1 : Keeps s0 s1 := by
    dsimp only [s1]
    repeat' first | with_reducible assumption | with_reducible apply updDst_keeps
  clear_value s1
  repeat' first | with_reducible apply Keeps.ite | with_reducible assumption | with_reducible apply silenceEvent_keeps

theorem silenceStep_keeps {s0 : State} {d : Nat} {y : Int} {s : State} (h : Keeps s0 s) : Keeps s0 (silenceStep d y s) := by
  unfold silenceStep
  extract_lets -merge -useContext c th wk h_1 t
  clear_value c th wk h_1 t
  repeat' first
    | with_reducible apply Keeps.ite
    | with_reducible assumption
    | with_reducible apply silChange_keeps
    | with_reducible apply updDst_keeps

theorem destOut_keeps {s0 : State} {d : Nat} {s : State} (h : Keeps s0 s) : Keeps s0 (destOut d s) := by
  unfold destOut
  extract_lets -merge -useContext r l y s1 s2 m o src src_2
  have h_r : Keeps s0 r.2 := by
    dsimp only [r]
    repeat' first | with_reducible assumption | with_reducible apply useRec_keeps
  have h_l : Keeps s0 l.2 := by
    dsimp only [l]
    repeat' first | with_reducible assumption | with_reducible apply limiter_keeps
  have h_s1 : Keeps s0 s1 := by
    dsimp only [s1]
    repeat' first
      | with_reducible apply Keeps.ite
      | with_reducible assumption
      | with_reducible apply bump_keeps
      | with_reducible apply updDst_keeps
  have h_s2 : Keeps s0 s2 := by
    dsimp only [s2]
    repeat' first
      | with_reducible apply Keeps.ite
      | with_reducible assumption
      | with_reducible apply bump_keeps
      | with_reducible apply updDst_keeps
      | with_reducible apply silenceStep_keeps
  have h_src : Keeps s0 src := by
    dsimp only [src]
    repeat' first | with_reducible assumption | with_reducible apply updDst_keeps
  clear_value r l y s1 s2 m o
  repeat' first | with_reducible assumption | exact rfl | with_reducible apply Keeps.upd

theorem routeWriteOut_keeps {s0 : State} {line : Nat} {c : Nat} {s : State} (h : Keeps s0 s) :
    Keeps s0 (routeWriteOut line c s) := by
  unfold routeWriteOut
  extract_lets -merge -useContext s1
  have h_s1 : Keeps s0 s1 := by
    dsimp only [s1]
    repeat' first
      | with_reducible assumption
      | with_reducible exact Keeps.refl _
      | with_reducible apply destOut_keeps
      | with_reducible apply Keeps.foldl
      | intro _
  clear_value s1
  repeat' first | with_reducible assumption | with_reducible apply engineSlotWrite_keeps

theorem execSilenceCoalesceExpiry_keeps {s0 : State} {dest : Nat} {s : State} (h : Keeps s0 s) :
    KeepsO s0 (execSilenceCoalesceExpiry dest s) := by
  unfold execSilenceCoalesceExpiry
  extract_lets -merge -useContext t src
  clear_value t
  repeat' first
    | with_reducible assumption
    | exact rfl
    | with_reducible apply KeepsO.next
    | with_reducible apply KeepsO.ite
    | with_reducible apply silenceEvent_keeps
    | with_reducible apply Keeps.upd

theorem sampleMutes_keeps {s0 : State} {req : Nat → Bool} {s : State} (h : Keeps s0 s) : Keeps s0 (sampleMutes req s) := by
  unfold sampleMutes
  repeat' first
    | with_reducible apply Keeps.ite
    | with_reducible assumption
    | with_reducible exact Keeps.refl _
    | with_reducible apply updDst_keeps
    | with_reducible apply Keeps.foldl
    | intro _

theorem applySilence_keeps {s0 : State} {s : State} (h : Keeps s0 s) : Keeps s0 (applySilence s) := by
  unfold applySilence
  extract_lets -merge -useContext src
  repeat' first
    | with_reducible apply Keeps.ite
    | with_reducible assumption
    | with_reducible exact Keeps.refl _
    | exact rfl
    | with_reducible apply updDst_keeps
    | with_reducible apply Keeps.foldl
    | intro _
    | with_reducible apply Keeps.upd

theorem swapRoute_keeps {s0 : State} {s : State} (h : Keeps s0 s) : Keeps s0 (swapRoute s) := by
  unfold swapRoute
  extract_lets -merge -useContext keys cls snd s1 src s2
  have h_s1 : Keeps s0 s1 := by
    dsimp only [s1]
    repeat' first | with_reducible assumption | with_reducible apply setIf_keeps
  have h_s2 : Keeps s0 s2 := by
    dsimp only [s2]
    repeat' first | with_reducible assumption | exact rfl | with_reducible apply Keeps.upd
  clear_value keys cls snd s1 s2
  repeat' first
    | with_reducible assumption
    | with_reducible apply putFs_keeps
    | with_reducible apply putB_keeps
    | with_reducible apply wrap_keeps

theorem routeResync_keeps {s0 : State} {s : State} (h : Keeps s0 s) : Keeps s0 (routeResync s) := by
  unfold routeResync
  extract_lets -merge -useContext src
  repeat' first | with_reducible assumption | exact rfl | with_reducible apply putF_keeps | with_reducible apply Keeps.upd

theorem routeRecopy_keeps {s0 : State} {s : State} (h : Keeps s0 s) : Keeps s0 (routeRecopy s) := by
  unfold routeRecopy
  extract_lets -merge -useContext src
  repeat' first | with_reducible assumption | exact rfl | with_reducible apply putF_keeps | with_reducible apply Keeps.upd

theorem resyncBoundary_keeps {s0 : State} {s : State} (h : Keeps s0 s) : Keeps s0 (resyncBoundary s) := by
  unfold resyncBoundary
  extract_lets -merge -useContext src
  repeat' first
    | with_reducible apply Keeps.ite
    | with_reducible assumption
    | exact rfl
    | with_reducible apply routeResync_keeps
    | with_reducible apply Keeps.upd

theorem execRouteResyncDone_keeps {s0 : State} {s : State} (h : Keeps s0 s) : KeepsO s0 (execRouteResyncDone s) := by
  unfold execRouteResyncDone
  repeat' first
    | with_reducible assumption
    | with_reducible apply KeepsO.next
    | with_reducible apply KeepsO.ite
    | with_reducible apply routeResync_keeps

theorem putPageTag_keeps {s0 : State} {p : Nat} {v : Nat} {s : State} (h : Keeps s0 s) : Keeps s0 (putPageTag p v s) := by
  unfold putPageTag
  extract_lets -merge -useContext src
  repeat' first | with_reducible assumption | exact rfl | with_reducible apply Keeps.upd

theorem swapPage_keeps {s0 : State} {p : Nat} {s : State} (h : Keeps s0 s) : Keeps s0 (swapPage p s) := by
  unfold swapPage
  extract_lets -merge -useContext b src src_2
  clear_value b
  repeat' first
    | with_reducible assumption
    | exact rfl
    | with_reducible apply putPageTag_keeps
    | with_reducible apply Keeps.upd

theorem loadRoute_keeps {s0 : State} {img : Img} {s : State} (h : Keeps s0 s) : Keeps s0 (loadRoute img s) := by
  unfold loadRoute
  extract_lets -merge -useContext ents act snd src
  clear_value ents act snd
  repeat' first | with_reducible assumption | exact rfl | with_reducible apply putF_keeps | with_reducible apply Keeps.upd

theorem rtePair_keeps {s0 : State} {tbl : Nat} {idx : Nat} {v : Nat} {c : Nat} {s : State} (h : Keeps s0 s) :
    Keeps s0 (rtePair tbl idx v c s) := by
  unfold rtePair
  extract_lets -merge -useContext src src_2
  repeat' first
    | with_reducible apply Keeps.ite
    | with_reducible assumption
    | exact rfl
    | with_reducible apply putF_keeps
    | with_reducible apply Keeps.upd

theorem writeSilence_keeps {s0 : State} {d : Nat} {a : Nat} {b : Nat} {s : State} (h : Keeps s0 s) :
    Keeps s0 (writeSilence d a b s) := by
  unfold writeSilence
  extract_lets -merge -useContext src s1
  have h_s1 : Keeps s0 s1 := by
    dsimp only [s1]
    repeat' first | with_reducible assumption | exact rfl | with_reducible apply Keeps.upd
  clear_value s1
  repeat' first | with_reducible apply Keeps.ite | with_reducible assumption | with_reducible apply applySilence_keeps

theorem rteWrite_keeps {s0 : State} {n : Nat} {v : Nat} {s : State} (h : Keeps s0 s) : Keeps s0 (rteWrite n v s) := by
  unfold rteWrite
  extract_lets -merge -useContext s1 sel idx d
  have h_s1 : Keeps s0 s1 := by
    dsimp only [s1]
    repeat' first | with_reducible assumption | with_reducible apply putF_keeps
  clear_value s1 sel idx
  repeat' first
    | with_reducible apply Keeps.ite
    | with_reducible assumption
    | with_reducible apply rtePair_keeps
    | with_reducible apply writeSilence_keeps
    | with_reducible apply updDst_keeps
    | with_reducible apply putPageTag_keeps
    | split

theorem execRteTableWrite_keeps {s0 : State} {n : Nat} {value : Nat} {s : State} (h : Keeps s0 s) :
    KeepsO s0 (execRteTableWrite n value s) := by
  unfold execRteTableWrite
  repeat' first
    | with_reducible assumption
    | with_reducible apply KeepsO.next
    | with_reducible apply KeepsO.ite
    | with_reducible apply rteWrite_keeps

end Sys2Proof.Machine
end

