-- ==== Sys2Proof/Laws/KeepsDynamics.lean ====
section
/-! SUPPORT. The operations of Machine/Dynamics.lean keep the queue, the fuses and the form of the stores. -/

namespace Sys2Proof.Machine

theorem detect_keeps {s0 : State} {r : List Nat} {x : Int} {i : Nat} {s : State} (h : Keeps s0 s) :
    Keeps s0 (detect r x i s).2.2 := by
  unfold detect
  extract_lets -merge -useContext p a m f
  have h_p : Keeps s0 p.2 := by
    dsimp only [p]
    repeat' first | with_reducible assumption | with_reducible apply peakLevel_keeps
  have h_f : Keeps s0 f.2 := by
    dsimp only [f]
    repeat' first | with_reducible assumption | with_reducible apply takeFree_keeps
  clear_value p a m f
  repeat' first | with_reducible apply Keeps.ite_snd_snd | with_reducible assumption

theorem dynTarget_keeps {s0 : State} {r : List Nat} {l : Int} {s : State} (h : Keeps s0 s) :
    Keeps s0 (dynTarget r l s).2 := by
  unfold dynTarget
  extract_lets -merge -useContext t w q d f slope num den
  have h_f : Keeps s0 f.2 := by
    dsimp only [f]
    repeat' first | with_reducible assumption | with_reducible apply takeFree_keeps
  clear_value t w q d f slope num den
  repeat' first | with_reducible apply Keeps.ite_snd | with_reducible assumption

theorem dynRun_keeps {s0 : State} {i : Nat} {s : State} (h : Keeps s0 s) : Keeps s0 (dynRun i s) := by
  unfold dynRun
  extract_lets -merge -useContext raw r s0_1 x c dt fin tg rg gt g0 g f
  have h_s0_1 : Keeps s0 s0_1 := by
    dsimp only [s0_1]
    repeat' first | with_reducible assumption | with_reducible apply setIf_keeps
  have h_dt : Keeps s0 dt.2.2 := by
    dsimp only [dt]
    repeat' first | with_reducible assumption | with_reducible apply detect_keeps
  have h_fin : ∀ y0 y1 z, Keeps z (fin y0 y1 z) := by
    intro y0 y1 z
    dsimp only [fin]
    repeat' first
      | with_reducible apply Keeps.ite
      | with_reducible exact Keeps.refl _
      | exact rfl
      | with_reducible apply bump_keeps
      | with_reducible apply Keeps.upd
  have h_tg : Keeps s0 tg.2 := by
    dsimp only [tg]
    repeat' first | with_reducible assumption | with_reducible apply dynTarget_keeps
  have h_f : Keeps s0 f.2 := by
    dsimp only [f]
    repeat' first | with_reducible assumption | with_reducible apply takeFree_keeps
  clear_value raw r s0_1 x c dt tg rg gt g0 g f
  repeat' first
    | with_reducible apply Keeps.ite
    | with_reducible assumption
    | exact rfl
    | with_reducible apply bump_keeps
    | with_reducible apply Keeps.upd

theorem dynWindow_keeps {s0 : State} {s : State} (h : Keeps s0 s) : Keeps s0 (dynWindow s) := by
  unfold dynWindow
  repeat' first
    | with_reducible assumption
    | with_reducible exact Keeps.refl _
    | with_reducible apply dynRun_keeps
    | with_reducible apply Keeps.foldl
    | intro _

theorem execDynWindow_keeps {s0 : State} {s : State} (h : Keeps s0 s) : KeepsO s0 (execDynWindow s) := by
  unfold execDynWindow
  repeat' first
    | with_reducible assumption
    | with_reducible apply KeepsO.next
    | with_reducible apply KeepsO.ite
    | with_reducible apply dynWindow_keeps

theorem dynWriteOut_keeps {s0 : State} {line : Nat} {c : Nat} {s : State} (h : Keeps s0 s) :
    Keeps s0 (dynWriteOut line c s) := by
  unfold dynWriteOut
  extract_lets -merge -useContext l vals
  clear_value l vals
  repeat' first | with_reducible assumption | with_reducible apply engineSlotWrite_keeps

theorem putDynTag_keeps {s0 : State} {i : Nat} {v : Nat} {s : State} (h : Keeps s0 s) : Keeps s0 (putDynTag i v s) := by
  unfold putDynTag
  extract_lets -merge -useContext src
  repeat' first | with_reducible assumption | exact rfl | with_reducible apply Keeps.upd

theorem swapDyn_keeps {s0 : State} {i : Nat} {s : State} (h : Keeps s0 s) : Keeps s0 (swapDyn i s) := by
  unfold swapDyn
  extract_lets -merge -useContext src
  repeat' first
    | with_reducible assumption
    | exact rfl
    | with_reducible apply putDynTag_keeps
    | with_reducible apply Keeps.upd

theorem dynResync_keeps {s0 : State} {i : Nat} {s : State} (h : Keeps s0 s) : Keeps s0 (dynResync i s) := by
  unfold dynResync
  extract_lets -merge -useContext src
  repeat' first | with_reducible assumption | exact rfl | with_reducible apply Keeps.upd

theorem execDynResyncDone_keeps {s0 : State} {instn : Nat} {s : State} (h : Keeps s0 s) :
    KeepsO s0 (execDynResyncDone instn s) := by
  unfold execDynResyncDone
  repeat' first
    | with_reducible assumption
    | with_reducible apply KeepsO.next
    | with_reducible apply KeepsO.ite
    | with_reducible apply dynResync_keeps

theorem swapSet_keeps {s0 : State} {e : Nat} {s : State} (h : Keeps s0 s) : Keeps s0 (swapSet e s) := by
  unfold swapSet
  extract_lets -merge -useContext s1 pages insts
  have h_s1 : Keeps s0 s1 := by
    dsimp only [s1]
    repeat' first | with_reducible apply Keeps.ite | with_reducible assumption | with_reducible apply swapRoute_keeps
  clear_value s1 pages insts
  repeat' first
    | with_reducible assumption
    | with_reducible exact Keeps.refl _
    | with_reducible apply swapDyn_keeps
    | with_reducible apply swapPage_keeps
    | with_reducible apply Keeps.foldl
    | intro _

theorem tagSet_keeps {s0 : State} {e : Nat} {x : Sched} {s : State} (h : Keeps s0 s) : Keeps s0 (tagSet e x s) := by
  unfold tagSet
  extract_lets -merge -useContext s1
  have h_s1 : Keeps s0 s1 := by
    dsimp only [s1]
    repeat' first | with_reducible apply Keeps.ite | with_reducible assumption | with_reducible apply putFs_keeps
  clear_value s1
  repeat' first
    | with_reducible assumption
    | with_reducible exact Keeps.refl _
    | with_reducible apply putDynTag_keeps
    | with_reducible apply putPageTag_keeps
    | with_reducible apply Keeps.foldl
    | intro _

theorem untagSet_keeps {s0 : State} {x : Sched} {s : State} (h : Keeps s0 s) : Keeps s0 (untagSet x s) := by
  unfold untagSet
  extract_lets -merge -useContext s1 held s2 src
  have h_s1 : Keeps s0 s1 := by
    dsimp only [s1]
    repeat' first
      | with_reducible assumption
      | with_reducible exact Keeps.refl _
      | with_reducible apply putDynTag_keeps
      | with_reducible apply putPageTag_keeps
      | with_reducible apply Keeps.foldl
      | intro _
  have h_s2 : Keeps s0 s2 := by
    dsimp only [s2]
    repeat' first | with_reducible assumption | with_reducible apply updSeat_keeps
  clear_value s1 held s2
  repeat' first
    | with_reducible apply Keeps.ite
    | with_reducible assumption
    | exact rfl
    | with_reducible apply routeRecopy_keeps
    | with_reducible apply putFs_keeps
    | with_reducible apply Keeps.upd

theorem loadDyn_keeps {s0 : State} {img : Img} {s : State} (h : Keeps s0 s) : Keeps s0 (loadDyn img s) := by
  unfold loadDyn
  extract_lets -merge -useContext m src
  clear_value m
  repeat' first | with_reducible assumption | exact rfl | with_reducible apply Keeps.upd

theorem dynWrite_keeps {s0 : State} {n : Nat} {v : Nat} {s : State} (h : Keeps s0 s) : Keeps s0 (dynWrite n v s) := by
  unfold dynWrite
  extract_lets -merge -useContext s1 sel i src
  have h_s1 : Keeps s0 s1 := by
    dsimp only [s1]
    repeat' first | with_reducible assumption | with_reducible apply putF_keeps
  clear_value s1 sel i
  repeat' first
    | with_reducible apply Keeps.ite
    | with_reducible assumption
    | exact rfl
    | with_reducible apply putF_keeps
    | with_reducible apply putDynTag_keeps
    | split
    | with_reducible apply Keeps.upd

theorem execDynTableWrite_keeps {s0 : State} {n : Nat} {value : Nat} {s : State} (h : Keeps s0 s) :
    KeepsO s0 (execDynTableWrite n value s) := by
  unfold execDynTableWrite
  repeat' first
    | with_reducible assumption
    | with_reducible apply KeepsO.next
    | with_reducible apply KeepsO.ite
    | with_reducible apply dynWrite_keeps

end Sys2Proof.Machine
end

