-- ==== Sys2Proof/Laws/KeepsPort.lean ====
section
/-! SUPPORT. The operations of Machine/Port.lean keep the queue, the fuses and the form of the stores. -/

namespace Sys2Proof.Machine

theorem updLane_keeps {s0 : State} {n : Nat} {f : LaneSt → LaneSt} {s : State} (h : Keeps s0 s) :
    Keeps s0 (updLane n f s) := by
  unfold updLane
  extract_lets -merge -useContext src
  repeat' first | with_reducible assumption | exact rfl | with_reducible apply Keeps.upd

theorem updAes_keeps {s0 : State} {n : Nat} {f : AesSt → AesSt} {s : State} (h : Keeps s0 s) : Keeps s0 (updAes n f s) := by
  unfold updAes
  extract_lets -merge -useContext src
  repeat' first | with_reducible assumption | exact rfl | with_reducible apply Keeps.upd

theorem portState_keeps {s0 : State} {what : Nat} {idx : Nat} {s : State} (h : Keeps s0 s) :
    Keeps s0 (portState what idx s) := by
  unfold portState
  extract_lets -merge -useContext w
  clear_value w
  repeat' first | with_reducible assumption | with_reducible apply raiseOwner_keeps

theorem nonAudioEvent_keeps {s0 : State} {rx : Bool} {idx : Nat} {s : State} (h : Keeps s0 s) :
    Keeps s0 (nonAudioEvent rx idx s) := by
  unfold nonAudioEvent
  extract_lets -merge -useContext v
  clear_value v
  repeat' first | with_reducible assumption | with_reducible apply raiseOwner_keeps

theorem setNonAudio_keeps {s0 : State} {rx : Bool} {idx : Nat} {v : Bool} {s : State} (h : Keeps s0 s) :
    Keeps s0 (setNonAudio rx idx v s) := by
  unfold setNonAudio
  extract_lets -merge -useContext f
  clear_value f
  repeat' first
    | with_reducible apply Keeps.ite
    | with_reducible assumption
    | with_reducible apply nonAudioEvent_keeps
    | with_reducible apply putB_keeps

theorem setAsrc_keeps {s0 : State} {i : Nat} {st : Nat} {s : State} (h : Keeps s0 s) : Keeps s0 (setAsrc i st s) := by
  unfold setAsrc
  repeat' first
    | with_reducible apply Keeps.ite
    | with_reducible assumption
    | with_reducible apply portState_keeps
    | with_reducible apply putF_keeps

theorem setLeading_keeps {s0 : State} {i : Nat} {s : State} (h : Keeps s0 s) : Keeps s0 (setLeading i s) := by
  unfold setLeading
  extract_lets -merge -useContext l ms locked lead
  clear_value l ms lead
  repeat' first
    | with_reducible apply Keeps.ite
    | with_reducible assumption
    | with_reducible exact Keeps.refl _
    | with_reducible apply putB_keeps
    | with_reducible apply Keeps.foldl
    | intro _

theorem setRatio_keeps {s0 : State} {i : Nat} {r : Nat} {s : State} (h : Keeps s0 s) : Keeps s0 (setRatio i r s) := by
  unfold setRatio
  repeat' first
    | with_reducible apply Keeps.ite
    | with_reducible assumption
    | with_reducible exact Keeps.refl _
    | with_reducible apply putF_keeps
    | with_reducible apply Keeps.foldl
    | intro _

theorem asrcFrame_keeps {s0 : State} {i : Nat} {r : Nat} {s : State} (h : Keeps s0 s) : Keeps s0 (asrcFrame i r s) := by
  unfold asrcFrame
  repeat' first
    | with_reducible apply Keeps.ite
    | with_reducible assumption
    | with_reducible apply setAsrc_keeps
    | with_reducible apply setRatio_keeps
    | with_reducible apply putF_keeps
    | with_reducible apply setLeading_keeps
    | with_reducible apply putFs_keeps
    | split

theorem asrcPair_keeps {s0 : State} {i : Nat} {s : State} (h : Keeps s0 s) : Keeps s0 (asrcPair i s).2 := by
  unfold asrcPair
  extract_lets -merge -useContext a b
  have h_a : Keeps s0 a.2 := by
    dsimp only [a]
    repeat' first | with_reducible assumption | with_reducible apply takeFree_keeps
  have h_b : Keeps s0 b.2 := by
    dsimp only [b]
    repeat' first | with_reducible assumption | with_reducible apply takeFree_keeps
  clear_value a b
  repeat' first | with_reducible apply Keeps.ite_snd | with_reducible assumption

theorem execAsrcAcquireLock_keeps {s0 : State} {instn : Nat} {ratio : Nat} {fill : Nat} {s : State} (h : Keeps s0 s) :
    KeepsO s0 (execAsrcAcquireLock instn ratio fill s) := by
  unfold execAsrcAcquireLock
  repeat' first
    | with_reducible assumption
    | with_reducible apply KeepsO.next
    | with_reducible apply KeepsO.ite
    | with_reducible apply setLeading_keeps
    | with_reducible apply setAsrc_keeps
    | with_reducible apply setRatio_keeps
    | with_reducible apply putF_keeps

theorem execAsrcSourceLost_keeps {s0 : State} {instn : Nat} {s : State} (h : Keeps s0 s) :
    KeepsO s0 (execAsrcSourceLost instn s) := by
  unfold execAsrcSourceLost
  repeat' first
    | with_reducible assumption
    | with_reducible apply KeepsO.next
    | with_reducible apply KeepsO.ite
    | with_reducible apply setLeading_keeps
    | with_reducible apply setAsrc_keeps

theorem execAsrcFifoEmpty_keeps {s0 : State} {instn : Nat} {s : State} (h : Keeps s0 s) :
    KeepsO s0 (execAsrcFifoEmpty instn s) := by
  unfold execAsrcFifoEmpty
  repeat' first
    | with_reducible assumption
    | with_reducible apply KeepsO.next
    | with_reducible apply KeepsO.ite
    | with_reducible apply setAsrc_keeps
    | with_reducible apply putF_keeps

theorem laneNa_keeps {s0 : State} {n : Nat} {a : Nat} {b : Nat} {s : State} (h : Keeps s0 s) :
    Keeps s0 (laneNa n a b s) := by
  unfold laneNa
  repeat' first
    | with_reducible apply Keeps.ite
    | with_reducible assumption
    | with_reducible apply setNonAudio_keeps
    | with_reducible apply putF_keeps

theorem aesNa_keeps {s0 : State} {n : Nat} {a : Nat} {b : Nat} {s : State} (h : Keeps s0 s) : Keeps s0 (aesNa n a b s) := by
  unfold aesNa
  repeat' first
    | with_reducible apply Keeps.ite
    | with_reducible assumption
    | with_reducible apply setNonAudio_keeps
    | with_reducible apply updAes_keeps

theorem execNonaudioHoldExpiry_keeps {s0 : State} {receiver : Bool} {index : Nat} {s : State} (h : Keeps s0 s) :
    KeepsO s0 (execNonaudioHoldExpiry receiver index s) := by
  unfold execNonaudioHoldExpiry
  extract_lets -merge -useContext t
  clear_value t
  repeat' first
    | with_reducible assumption
    | with_reducible apply KeepsO.next
    | with_reducible apply KeepsO.ite
    | with_reducible apply setNonAudio_keeps
    | with_reducible apply updAes_keeps

theorem groupFrame_keeps {s0 : State} {g : Nat} {cycle : Nat} {s : State} (h : Keeps s0 s) :
    Keeps s0 (groupFrame g cycle s) := by
  unfold groupFrame
  extract_lets -merge -useContext s1
  have h_s1 : Keeps s0 s1 := by
    dsimp only [s1]
    repeat' first | with_reducible assumption | with_reducible apply putB_keeps | with_reducible apply putF_keeps
  clear_value s1
  repeat' first
    | with_reducible apply Keeps.ite
    | with_reducible assumption
    | with_reducible exact Keeps.refl _
    | with_reducible apply putF_keeps
    | with_reducible apply portState_keeps
    | with_reducible apply Keeps.foldl
    | intro _

theorem execSerialFrameIn_keeps {s0 : State} {lane : Nat} {frame : Nat} {cycle : Nat} {ratio : Nat} {s : State}
    (h : Keeps s0 s) : KeepsO s0 (execSerialFrameIn lane frame cycle ratio s) := by
  unfold execSerialFrameIn
  extract_lets -merge -useContext half wl w s1 pair
  have h_s1 : Keeps s0 s1 := by
    dsimp only [s1]
    repeat' first | with_reducible assumption | with_reducible apply laneNa_keeps | with_reducible apply groupFrame_keeps
  clear_value half wl s1 pair
  repeat' first
    | with_reducible apply Keeps.ite
    | with_reducible assumption
    | with_reducible apply KeepsO.next
    | with_reducible apply KeepsO.ite
    | with_reducible apply asrcFrame_keeps
    | with_reducible apply updLane_keeps
    | split

theorem execSerialFrameOut_keeps {s0 : State} {lane : Nat} {cycle : Nat} {ratio : Nat} {s : State} (h : Keeps s0 s) :
    KeepsO s0 (execSerialFrameOut lane cycle ratio s) := by
  unfold execSerialFrameOut
  extract_lets -merge -useContext wl s1 r p
  have h_s1 : Keeps s0 s1 := by
    dsimp only [s1]
    repeat' first | with_reducible assumption | with_reducible apply groupFrame_keeps
  have h_r : Keeps s0 r.2 := by
    dsimp only [r]
    repeat' first
      | with_reducible apply Keeps.ite_snd
      | with_reducible assumption
      | with_reducible apply asrcPair_keeps
      | with_reducible apply asrcFrame_keeps
      | with_reducible apply updLane_keeps
      | split
  clear_value wl s1 r p
  repeat' first
    | with_reducible assumption
    | with_reducible apply KeepsO.next
    | with_reducible apply KeepsO.ite
    | with_reducible apply emit_keeps

theorem execSerialClockLoss_keeps {s0 : State} {group : Nat} {s : State} (h : Keeps s0 s) :
    KeepsO s0 (execSerialClockLoss group s) := by
  unfold execSerialClockLoss
  extract_lets -merge -useContext ls s1
  have h_s1 : Keeps s0 s1 := by
    dsimp only [s1]
    repeat' first
      | with_reducible assumption
      | with_reducible exact Keeps.refl _
      | with_reducible apply putF_keeps
      | with_reducible apply updLane_keeps
      | with_reducible apply Keeps.foldl
      | intro _
  clear_value ls s1
  repeat' first
    | with_reducible assumption
    | with_reducible exact Keeps.refl _
    | with_reducible apply KeepsO.next
    | with_reducible apply KeepsO.ite
    | with_reducible apply portState_keeps
    | with_reducible apply Keeps.foldl
    | intro _

theorem setLock_keeps {s0 : State} {n : Nat} {v : Bool} {s : State} (h : Keeps s0 s) : Keeps s0 (setLock n v s) := by
  unfold setLock
  repeat' first
    | with_reducible apply Keeps.ite
    | with_reducible assumption
    | with_reducible apply portState_keeps
    | with_reducible apply putB_keeps

theorem execAes3RxFrame_keeps {s0 : State} {receiver : Nat} {a : Nat} {b : Nat} {badA : Bool} {badB : Bool} {validity : Bool} {rate : Nat} {ratio : Nat} {s : State}
    (h : Keeps s0 s) : KeepsO s0 (execAes3RxFrame receiver a b badA badB validity rate ratio s) := by
  unfold execAes3RxFrame
  extract_lets -merge -useContext t good wa wb s1 s2 s3 s4 pair i buf
  have h_s1 : Keeps s0 s1 := by
    dsimp only [s1]
    repeat' first | with_reducible assumption | with_reducible apply updAes_keeps
  have h_s2 : Keeps s0 s2 := by
    dsimp only [s2]
    repeat' first | with_reducible assumption | with_reducible apply bump_keeps
  have h_s3 : Keeps s0 s3 := by
    dsimp only [s3]
    repeat' first
      | with_reducible apply Keeps.ite
      | with_reducible assumption
      | with_reducible apply putF_keeps
      | with_reducible apply setLock_keeps
  have h_s4 : Keeps s0 s4 := by
    dsimp only [s4]
    repeat' first
      | with_reducible apply Keeps.ite
      | with_reducible assumption
      | with_reducible apply putF_keeps
      | with_reducible apply setLock_keeps
      | with_reducible apply aesNa_keeps
  clear_value t good wa wb s1 s2 s3 s4 pair i buf
  repeat' first
    | with_reducible apply Keeps.ite
    | with_reducible assumption
    | with_reducible apply KeepsO.next
    | with_reducible apply KeepsO.ite
    | with_reducible apply updAes_keeps
    | with_reducible apply bump_keeps
    | with_reducible apply asrcFrame_keeps

theorem execAes3LockLoss_keeps {s0 : State} {receiver : Nat} {s : State} (h : Keeps s0 s) :
    KeepsO s0 (execAes3LockLoss receiver s) := by
  unfold execAes3LockLoss
  repeat' first
    | with_reducible assumption
    | with_reducible apply KeepsO.next
    | with_reducible apply KeepsO.ite
    | with_reducible apply setLock_keeps
    | with_reducible apply putF_keeps
    | with_reducible apply updAes_keeps

theorem rxBlock_keeps {s0 : State} {n : Nat} {csA : Nat} {csB : Nat} {usA : Nat} {usB : Nat} {s : State} (h : Keeps s0 s) :
    Keeps s0 (rxBlock n csA csB usA usB s) := by
  unfold rxBlock
  extract_lets -merge -useContext t rx na s1
  have h_s1 : Keeps s0 s1 := by
    dsimp only [s1]
    repeat' first | with_reducible assumption | with_reducible apply bump_keeps | with_reducible apply updAes_keeps
  clear_value t rx na s1
  repeat' first | with_reducible assumption | with_reducible apply setNonAudio_keeps | with_reducible apply putFs_keeps

theorem txBlock_keeps {s0 : State} {n : Nat} {s : State} (h : Keeps s0 s) : Keeps s0 (txBlock n s) := by
  unfold txBlock
  extract_lets -merge -useContext s1 b fix
  have h_s1 : Keeps s0 s1 := by
    dsimp only [s1]
    repeat' first | with_reducible assumption | with_reducible apply updAes_keeps
  clear_value s1 b
  repeat' first | with_reducible assumption | with_reducible apply emit_keeps

theorem execAes3BlockStart_keeps {s0 : State} {transmit : Bool} {port : Nat} {csA : Nat} {csB : Nat} {usA : Nat} {usB : Nat} {s : State}
    (h : Keeps s0 s) : KeepsO s0 (execAes3BlockStart transmit port csA csB usA usB s) := by
  unfold execAes3BlockStart
  repeat' first
    | with_reducible assumption
    | with_reducible apply KeepsO.next
    | with_reducible apply KeepsO.ite
    | with_reducible apply txBlock_keeps
    | with_reducible apply rxBlock_keeps

theorem txCommit_keeps {s0 : State} {n : Nat} {s : State} (h : Keeps s0 s) : Keeps s0 (txCommit n s) := by
  unfold txCommit
  repeat' first | with_reducible assumption | with_reducible apply updAes_keeps

theorem execAes3TxCommit_keeps {s0 : State} {transmitter : Nat} {s : State} (h : Keeps s0 s) :
    KeepsO s0 (execAes3TxCommit transmitter s) := by
  unfold execAes3TxCommit
  repeat' first
    | with_reducible assumption
    | with_reducible apply KeepsO.next
    | with_reducible apply KeepsO.ite
    | with_reducible apply txCommit_keeps

theorem aesAccess_keeps {s0 : State} {write : Bool} {value : Nat} {s : State} (h : Keeps s0 s) :
    Keeps s0 (aesAccess write value s).2 := by
  unfold aesAccess
  extract_lets -merge -useContext p k c w t s1
  have h_s1 : Keeps s0 s1 := by
    dsimp only [s1]
    repeat' first | with_reducible assumption | with_reducible apply putF_keeps
  clear_value p k c w t s1
  repeat' first
    | with_reducible apply Keeps.ite
    | with_reducible apply Keeps.ite_snd
    | with_reducible assumption
    | with_reducible apply updAes_keeps

theorem execAesDataAccess_keeps {s0 : State} {write : Bool} {value : Nat} {s : State} (h : Keeps s0 s) :
    KeepsO s0 (execAesDataAccess write value s) := by
  unfold execAesDataAccess
  extract_lets -merge -useContext r
  have h_r : Keeps s0 r.2 := by
    dsimp only [r]
    repeat' first | with_reducible assumption | with_reducible apply aesAccess_keeps
  clear_value r
  repeat' first
    | with_reducible apply Keeps.ite
    | with_reducible assumption
    | with_reducible apply KeepsO.next
    | with_reducible apply emit_keeps

theorem inputPair_keeps {s0 : State} {src : Nat} {s : State} (h : Keeps s0 s) : Keeps s0 (inputPair src s).2 := by
  unfold inputPair
  extract_lets -merge -useContext n i r
  have h_r : Keeps s0 r.2 := by
    dsimp only [r]
    repeat' first | with_reducible assumption | with_reducible apply asrcPair_keeps
  clear_value n i r
  repeat' first
    | with_reducible apply Keeps.ite_snd
    | with_reducible assumption
    | with_reducible apply asrcPair_keeps
    | split

theorem portLineWords_keeps {s0 : State} {line : Nat} {s : State} (h : Keeps s0 s) : Keeps s0 (portLineWords line s).2 := by
  unfold portLineWords
  extract_lets -merge -useContext srcs r
  have h_r : Keeps s0 r.2 := by
    dsimp only [r]
    repeat' first
      | with_reducible assumption
      | with_reducible exact Keeps.refl _
      | with_reducible apply inputPair_keeps
      | with_reducible apply Keeps.foldl_snd
      | intro _
  clear_value r
  repeat' with_reducible assumption

theorem outWords_keeps {s0 : State} {code : Nat} {line : Nat} {c : Nat} {s : State} (h : Keeps s0 s) :
    Keeps s0 (outWords code line c s).2 := by
  unfold outWords
  extract_lets -merge -useContext r ws k h_1 past src src_2
  have h_r : Keeps s0 r.2 := by
    dsimp only [r]
    repeat' first | with_reducible assumption | with_reducible apply engineSlotRead_keeps
  have h_src : Keeps s0 src := by
    dsimp only [src]
    repeat' with_reducible assumption
  clear_value r ws k h_1 past
  repeat' first | with_reducible apply Keeps.ite_snd | with_reducible assumption | exact rfl | with_reducible apply Keeps.upd

theorem takeOut_keeps {s0 : State} {line : Nat} {ws : List Nat} {x : Nat × Nat × Nat} {s : State} (h : Keeps s0 s) :
    Keeps s0 (takeOut line ws x s) := by
  unfold takeOut
  extract_lets -merge -useContext f
  repeat' first
    | with_reducible apply Keeps.ite
    | with_reducible assumption
    | with_reducible apply updLane_keeps
    | with_reducible apply updAes_keeps

theorem portReadLine_keeps {s0 : State} {line : Nat} {c : Nat} {s : State} (h : Keeps s0 s) :
    Keeps s0 (portReadLine line c s) := by
  unfold portReadLine
  extract_lets -merge -useContext r
  have h_r : Keeps s0 r.2 := by
    dsimp only [r]
    repeat' first | with_reducible assumption | with_reducible apply outWords_keeps
  clear_value r
  repeat' first
    | with_reducible assumption
    | with_reducible exact Keeps.refl _
    | with_reducible apply takeOut_keeps
    | with_reducible apply Keeps.foldl
    | intro _

theorem portFrames_keeps {s0 : State} {s : State} (h : Keeps s0 s) : Keeps s0 (portFrames s) := by
  unfold portFrames
  extract_lets -merge -useContext s1 s2
  have h_s1 : Keeps s0 s1 := by
    dsimp only [s1]
    repeat' first
      | with_reducible apply Keeps.ite
      | with_reducible assumption
      | with_reducible exact Keeps.refl _
      | with_reducible apply bump_keeps
      | with_reducible apply Keeps.foldl
      | intro _
  have h_s2 : Keeps s0 s2 := by
    dsimp only [s2]
    repeat' first
      | with_reducible assumption
      | with_reducible exact Keeps.refl _
      | with_reducible apply updLane_keeps
      | with_reducible apply Keeps.foldl
      | intro _
  clear_value s1 s2
  repeat' first
    | with_reducible apply Keeps.ite
    | with_reducible assumption
    | with_reducible exact Keeps.refl _
    | with_reducible apply bump_keeps
    | with_reducible apply updAes_keeps
    | with_reducible apply Keeps.foldl
    | split
    | intro _

theorem aesFrames_keeps {s0 : State} {s : State} (h : Keeps s0 s) : Keeps s0 (aesFrames s) := by
  unfold aesFrames
  repeat' first
    | with_reducible apply Keeps.ite_snd
    | with_reducible assumption
    | with_reducible exact Keeps.refl _
    | with_reducible apply asrcPair_keeps
    | with_reducible apply emit_keeps
    | with_reducible apply Keeps.foldl
    | intro _

theorem portSettings_keeps {s0 : State} {s : State} (h : Keeps s0 s) : Keeps s0 (portSettings s) := by
  unfold portSettings
  extract_lets -merge -useContext s1 s2
  have h_s1 : Keeps s0 s1 := by
    dsimp only [s1]
    repeat' first
      | with_reducible assumption
      | with_reducible exact Keeps.refl _
      | with_reducible apply setIf_keeps
      | with_reducible apply Keeps.foldl
      | intro _
  have h_s2 : Keeps s0 s2 := by
    dsimp only [s2]
    repeat' first
      | with_reducible assumption
      | with_reducible exact Keeps.refl _
      | with_reducible apply putB_keeps
      | with_reducible apply Keeps.foldl
      | intro _
  clear_value s1 s2
  repeat' first
    | with_reducible assumption
    | with_reducible exact Keeps.refl _
    | with_reducible apply setIf_keeps
    | with_reducible apply Keeps.foldl
    | intro _

end Sys2Proof.Machine
end

