-- ==== Sys2Proof/Laws/KeepsRelay.lean ====
section
/-! SUPPORT. The operations of Machine/Relay.lean keep the queue, the fuses and the form of the stores. -/

namespace Sys2Proof.Machine

theorem queueEv_keeps {s0 : State} {e : PairEv} {s : State} (h : Keeps s0 s) : Keeps s0 (queueEv e s) := by
  unfold queueEv
  extract_lets -merge -useContext src
  repeat' first | with_reducible apply Keeps.ite | with_reducible assumption | exact rfl | with_reducible apply Keeps.upd

end Sys2Proof.Machine
end

