-- ==== Sys2Proof/Laws/KeepsAmp.lean ====
section
/-! SUPPORT. The operations of Machine/Amp.lean keep the queue, the fuses and the form of the stores. -/

namespace Sys2Proof.Machine

theorem updCh_keeps {s0 : State} {c : Nat} {f : AmpCh → AmpCh} {s : State} (h : Keeps s0 s) : Keeps s0 (updCh c f s) := by
  unfold updCh
  extract_lets -merge -useContext src
  repeat' first | with_reducible assumption | exact rfl | with_reducible apply Keeps.upd

theorem updMod_keeps {s0 : State} {m : Nat} {f : AmpMod → AmpMod} {s : State} (h : Keeps s0 s) :
    Keeps s0 (updMod m f s) := by
  unfold updMod
  extract_lets -merge -useContext src
  repeat' first | with_reducible assumption | exact rfl | with_reducible apply Keeps.upd

theorem noteEv_keeps {s0 : State} {e : PairEv} {s : State} (h : Keeps s0 s) : Keeps s0 (noteEv e s) := by
  unfold noteEv
  extract_lets -merge -useContext src
  repeat' first | with_reducible apply Keeps.ite | with_reducible assumption | exact rfl | with_reducible apply Keeps.upd

theorem carrierPeriod_keeps {s0 : State} {c : Nat} {s : State} (h : Keeps s0 s) : Keeps s0 (carrierPeriod c s) := by
  unfold carrierPeriod
  extract_lets -merge -useContext t q mq x one a three b s1 s2
  have h_s1 : Keeps s0 s1 := by
    dsimp only [s1]
    repeat' first | with_reducible apply Keeps.ite | with_reducible assumption | with_reducible apply bump_keeps
  have h_s2 : Keeps s0 s2 := by
    dsimp only [s2]
    repeat' first
      | with_reducible apply Keeps.ite
      | with_reducible assumption
      | with_reducible apply bump_keeps
      | with_reducible apply updCh_keeps
  clear_value t q mq x one a three b s1 s2
  repeat' first | with_reducible assumption | with_reducible apply emit_keeps

theorem execCarrierPeriod_keeps {s0 : State} {channel : Nat} {current : Nat} {voltage : Nat} {s : State} (h : Keeps s0 s) :
    KeepsO s0 (execCarrierPeriod channel current voltage s) := by
  unfold execCarrierPeriod
  extract_lets -merge -useContext s1
  have h_s1 : Keeps s0 s1 := by
    dsimp only [s1]
    repeat' first | with_reducible assumption | with_reducible apply putF_keeps
  clear_value s1
  repeat' first
    | with_reducible assumption
    | with_reducible apply KeepsO.next
    | with_reducible apply KeepsO.ite
    | with_reducible apply putF_keeps
    | with_reducible apply carrierPeriod_keeps

theorem ampReadLine_keeps {s0 : State} {line : Nat} {c : Nat} {s : State} (h : Keeps s0 s) :
    Keeps s0 (ampReadLine line c s) := by
  unfold ampReadLine
  extract_lets -merge -useContext r
  have h_r : Keeps s0 r.2 := by
    dsimp only [r]
    repeat' first | with_reducible assumption | with_reducible apply outWords_keeps
  clear_value r
  repeat' first
    | with_reducible apply Keeps.ite
    | with_reducible assumption
    | with_reducible exact Keeps.refl _
    | with_reducible apply updCh_keeps
    | with_reducible apply Keeps.foldl
    | intro _

theorem execOvercurrentTrip_keeps {s0 : State} {channel : Nat} {level : Nat} {s : State} (h : Keeps s0 s) :
    KeepsO s0 (execOvercurrentTrip channel level s) := by
  unfold execOvercurrentTrip
  extract_lets -merge -useContext s1
  have h_s1 : Keeps s0 s1 := by
    dsimp only [s1]
    repeat' first | with_reducible assumption | with_reducible apply updCh_keeps
  clear_value s1
  repeat' first
    | with_reducible assumption
    | with_reducible apply KeepsO.next
    | with_reducible apply KeepsO.ite
    | with_reducible apply updCh_keeps
    | with_reducible apply emit_keeps

theorem execTripInput_keeps {s0 : State} {channel : Nat} {high : Bool} {s : State} (h : Keeps s0 s) :
    KeepsO s0 (execTripInput channel high s) := by
  unfold execTripInput
  extract_lets -merge -useContext v src s1
  have h_s1 : Keeps s0 s1 := by
    dsimp only [s1]
    repeat' first | with_reducible assumption | exact rfl | with_reducible apply Keeps.upd
  clear_value v s1
  repeat' first
    | with_reducible assumption
    | with_reducible apply KeepsO.next
    | with_reducible apply KeepsO.ite
    | with_reducible apply emit_keeps
    | with_reducible apply updCh_keeps

theorem tripFound_keeps {s0 : State} {c : Nat} {strike : Bool} {s : State} (h : Keeps s0 s) :
    Keeps s0 (tripFound c strike s) := by
  unfold tripFound
  extract_lets -merge -useContext k t l short s1 s2 s3 s4
  have h_s1 : Keeps s0 s1 := by
    dsimp only [s1]
    repeat' first | with_reducible assumption | with_reducible apply bump_keeps | with_reducible apply putFs_keeps
  have h_s2 : Keeps s0 s2 := by
    dsimp only [s2]
    repeat' first | with_reducible apply Keeps.ite | with_reducible assumption | with_reducible apply putF_keeps
  have h_s3 : Keeps s0 s3 := by
    dsimp only [s3]
    repeat' first
      | with_reducible apply Keeps.ite
      | with_reducible assumption
      | with_reducible apply putF_keeps
      | with_reducible apply noteEv_keeps
      | with_reducible apply updCh_keeps
  have h_s4 : Keeps s0 s4 := by
    dsimp only [s4]
    repeat' first | with_reducible assumption | with_reducible apply raiseOwner_keeps
  clear_value k t l short s1 s2 s3 s4
  repeat' first | with_reducible apply Keeps.ite | with_reducible assumption | with_reducible apply raiseAll_keeps

theorem tripHold_keeps {s0 : State} {c : Nat} {s : State} (h : Keeps s0 s) : Keeps s0 (tripHold c s) := by
  unfold tripHold
  repeat' first
    | with_reducible apply Keeps.ite
    | with_reducible assumption
    | with_reducible apply tripFound_keeps
    | with_reducible apply putF_keeps
    | with_reducible apply updCh_keeps

theorem execTripHoldExpiry_keeps {s0 : State} {channel : Nat} {s : State} (h : Keeps s0 s) :
    KeepsO s0 (execTripHoldExpiry channel s) := by
  unfold execTripHoldExpiry
  repeat' first
    | with_reducible assumption
    | with_reducible apply KeepsO.next
    | with_reducible apply KeepsO.ite
    | with_reducible apply tripHold_keeps

theorem channelStep_keeps {s0 : State} {c : Nat} {s : State} (h : Keeps s0 s) : Keeps s0 (channelStep c s) := by
  unfold channelStep
  extract_lets -merge -useContext t go
  clear_value t
  repeat' first
    | with_reducible apply Keeps.ite
    | with_reducible assumption
    | with_reducible apply putF_keeps
    | with_reducible apply tripFound_keeps
    | with_reducible apply tripHold_keeps
    | split

theorem ampClear_keeps {s0 : State} {v : Nat} {s : State} (h : Keeps s0 s) : Keeps s0 (ampClear v s) := by
  unfold ampClear
  extract_lets -merge -useContext src
  repeat' first | with_reducible apply Keeps.ite | with_reducible assumption | exact rfl | with_reducible apply Keeps.upd

theorem execAmpClearWrite_keeps {s0 : State} {value : Nat} {s : State} (h : Keeps s0 s) :
    KeepsO s0 (execAmpClearWrite value s) := by
  unfold execAmpClearWrite
  repeat' first | with_reducible assumption | with_reducible apply KeepsO.next | with_reducible apply ampClear_keeps

theorem groupStep_keeps {s0 : State} {g : Nat} {s : State} (h : Keeps s0 s) : Keeps s0 (groupStep g s) := by
  unfold groupStep
  extract_lets -merge -useContext w r target old slew lvl src
  clear_value w r target old slew lvl
  repeat' first | with_reducible assumption | exact rfl | with_reducible apply Keeps.upd

theorem setpointWord_keeps {s0 : State} {g : Nat} {s : State} (h : Keeps s0 s) : Keeps s0 (setpointWord g s).2 := by
  unfold setpointWord
  extract_lets -merge -useContext l f v v_2 en stage
  have h_f : Keeps s0 f.2 := by
    dsimp only [f]
    repeat' first | with_reducible assumption | with_reducible apply takeFree_keeps
  clear_value l f v v_2 en stage
  repeat' first | with_reducible apply Keeps.ite | with_reducible assumption | with_reducible apply putFs_keeps

theorem setMod_keeps {s0 : State} {m : Nat} {st : Nat} {s : State} (h : Keeps s0 s) : Keeps s0 (setMod m st s) := by
  unfold setMod
  repeat' first
    | with_reducible apply Keeps.ite
    | with_reducible assumption
    | with_reducible apply raiseOwner_keeps
    | with_reducible apply putF_keeps

theorem setpointCycle_keeps {s0 : State} {s : State} (h : Keeps s0 s) : Keeps s0 (setpointCycle s) := by
  unfold setpointCycle
  extract_lets -merge -useContext seq src r
  have h_r : Keeps s0 r.2 := by
    dsimp only [r]
    repeat' first
      | with_reducible assumption
      | with_reducible exact Keeps.refl _
      | exact rfl
      | with_reducible apply setpointWord_keeps
      | with_reducible apply Keeps.foldl_snd
      | intro _
      | with_reducible apply Keeps.upd
  clear_value seq r
  repeat' first | with_reducible apply Keeps.ite | with_reducible assumption | with_reducible apply emit_keeps

theorem quietCycle_keeps {s0 : State} {s : State} (h : Keeps s0 s) : Keeps s0 (quietCycle s) := by
  unfold quietCycle
  extract_lets -merge -useContext seq src s1
  have h_s1 : Keeps s0 s1 := by
    dsimp only [s1]
    repeat' first | with_reducible assumption | exact rfl | with_reducible apply Keeps.upd
  clear_value seq s1
  repeat' first | with_reducible apply Keeps.ite | with_reducible assumption | with_reducible apply emit_keeps

theorem takeCaps_keeps {s0 : State} {m : Nat} {caps : List Nat} {s : State} (h : Keeps s0 s) :
    Keeps s0 (takeCaps m caps s) := by
  unfold takeCaps
  extract_lets -merge -useContext s1
  have h_s1 : Keeps s0 s1 := by
    dsimp only [s1]
    repeat' first | with_reducible assumption | with_reducible apply updMod_keeps
  clear_value s1
  repeat' first
    | with_reducible assumption
    | with_reducible apply updMod_keeps
    | with_reducible apply setMod_keeps
    | with_reducible apply putFs_keeps
    | split

theorem takeStatus_keeps {s0 : State} {m : Nat} {ws : List Nat} {s : State} (h : Keeps s0 s) :
    Keeps s0 (takeStatus m ws s) := by
  unfold takeStatus
  extract_lets -merge -useContext s1
  have h_s1 : Keeps s0 s1 := by
    dsimp only [s1]
    repeat' first | with_reducible assumption | with_reducible apply updMod_keeps
  clear_value s1
  repeat' first | with_reducible apply Keeps.ite | with_reducible assumption | with_reducible apply setMod_keeps

theorem mklTake_keeps {s0 : State} {m : Nat} {typ : Nat} {ws : List Nat} {s : State} (h : Keeps s0 s) :
    Keeps s0 (mklTake m typ ws s) := by
  unfold mklTake
  extract_lets -merge -useContext st
  clear_value st
  repeat' first
    | with_reducible apply Keeps.ite
    | with_reducible assumption
    | with_reducible apply takeStatus_keeps
    | with_reducible apply takeCaps_keeps
    | with_reducible apply setMod_keeps
    | with_reducible apply updMod_keeps
    | split

theorem execMklFrameRx_keeps {s0 : State} {frame : List Nat} {s : State} (h : Keeps s0 s) :
    KeepsO s0 (execMklFrameRx frame s) := by
  unfold execMklFrameRx
  repeat' first
    | with_reducible assumption
    | with_reducible apply KeepsO.next
    | with_reducible apply KeepsO.ite
    | with_reducible apply bump_keeps
    | with_reducible apply mklTake_keeps
    | split

theorem execStatusSlotEnd_keeps {s0 : State} {s : State} (h : Keeps s0 s) : KeepsO s0 (execStatusSlotEnd s) := by
  unfold execStatusSlotEnd
  extract_lets -merge -useContext m n s1
  have h_s1 : Keeps s0 s1 := by
    dsimp only [s1]
    repeat' first | with_reducible assumption | with_reducible apply updMod_keeps
  clear_value m n s1
  repeat' first
    | with_reducible apply Keeps.ite
    | with_reducible assumption
    | with_reducible apply KeepsO.next
    | with_reducible apply KeepsO.ite
    | with_reducible apply setMod_keeps

theorem giveUp_keeps {s0 : State} {m : Nat} {s : State} (h : Keeps s0 s) : Keeps s0 (giveUp m s) := by
  unfold giveUp
  repeat' first
    | with_reducible apply Keeps.ite
    | with_reducible assumption
    | with_reducible apply setMod_keeps
    | with_reducible apply updMod_keeps

theorem execManagementSlot_keeps {s0 : State} {s : State} (h : Keeps s0 s) : KeepsO s0 (execManagementSlot s) := by
  unfold execManagementSlot
  extract_lets -merge -useContext s1
  have h_s1 : Keeps s0 s1 := by
    dsimp only [s1]
    repeat' first
      | with_reducible assumption
      | with_reducible exact Keeps.refl _
      | with_reducible apply giveUp_keeps
      | with_reducible apply Keeps.foldl
      | intro _
  clear_value s1
  repeat' first
    | with_reducible assumption
    | with_reducible apply KeepsO.next
    | with_reducible apply KeepsO.ite
    | with_reducible apply emit_keeps
    | with_reducible apply updMod_keeps
    | split

theorem execDiscoverTimer_keeps {s0 : State} {mdl : Nat} {s : State} (h : Keeps s0 s) :
    KeepsO s0 (execDiscoverTimer mdl s) := by
  unfold execDiscoverTimer
  repeat' first
    | with_reducible assumption
    | with_reducible apply KeepsO.next
    | with_reducible apply KeepsO.ite
    | with_reducible apply updMod_keeps

theorem busRewritten_keeps {s0 : State} {disc : Bool} {old : State} {new : State} (h : Keeps s0 new) :
    Keeps s0 (busRewritten disc old new) := by
  unfold busRewritten
  extract_lets -merge -useContext ch
  clear_value ch
  repeat' first
    | with_reducible apply Keeps.ite
    | with_reducible assumption
    | with_reducible exact Keeps.refl _
    | with_reducible apply setMod_keeps
    | with_reducible apply Keeps.foldl
    | intro _

theorem noteModules_keeps {s0 : State} {s : State} (h : Keeps s0 s) : Keeps s0 (noteModules s) := by
  unfold noteModules
  repeat' first
    | with_reducible apply Keeps.ite
    | with_reducible assumption
    | with_reducible exact Keeps.refl _
    | with_reducible apply noteEv_keeps
    | with_reducible apply updMod_keeps
    | with_reducible apply Keeps.foldl
    | intro _

theorem sampleSil_keeps {s0 : State} {s : State} (h : Keeps s0 s) : Keeps s0 (sampleSil s) := by
  unfold sampleSil
  extract_lets -merge -useContext m src s1 src_2
  have h_s1 : Keeps s0 s1 := by
    dsimp only [s1]
    repeat' first | with_reducible assumption | exact rfl | with_reducible apply Keeps.upd
  clear_value m s1
  repeat' first
    | with_reducible apply Keeps.ite
    | with_reducible assumption
    | exact rfl
    | with_reducible apply noteEv_keeps
    | with_reducible apply Keeps.upd

theorem ampBoundary_keeps {s0 : State} {s : State} (h : Keeps s0 s) : Keeps s0 (ampBoundary s) := by
  unfold ampBoundary
  extract_lets -merge -useContext s1 s2 src s3 s4 n
  have h_s1 : Keeps s0 s1 := by
    dsimp only [s1]
    repeat' first | with_reducible assumption | with_reducible apply sampleSil_keeps | with_reducible apply noteModules_keeps
  have h_s2 : Keeps s0 s2 := by
    dsimp only [s2]
    repeat' first
      | with_reducible assumption
      | with_reducible exact Keeps.refl _
      | with_reducible apply channelStep_keeps
      | with_reducible apply Keeps.foldl
      | intro _
  have h_s3 : Keeps s0 s3 := by
    dsimp only [s3]
    repeat' first
      | with_reducible apply Keeps.ite
      | with_reducible assumption
      | with_reducible exact Keeps.refl _
      | exact rfl
      | with_reducible apply updCh_keeps
      | with_reducible apply Keeps.foldl
      | intro _
      | with_reducible apply Keeps.upd
  have h_s4 : Keeps s0 s4 := by
    dsimp only [s4]
    repeat' first
      | with_reducible assumption
      | with_reducible exact Keeps.refl _
      | with_reducible apply groupStep_keeps
      | with_reducible apply Keeps.foldl
      | intro _
  clear_value s1 s2 s3 s4 n
  repeat' first | with_reducible apply Keeps.ite | with_reducible assumption | with_reducible apply setpointCycle_keeps

end Sys2Proof.Machine
end

