-- ==== Sys2Proof/Laws/KeepsAshOps.lean ====
section
/-! SUPPORT. The operations of Machine/AshOps.lean keep the queue, the fuses and the form of the stores. -/

namespace Sys2Proof.Machine

theorem putCode_keeps {s0 : State} {w code : Nat} {s : State} (h : Keeps s0 s) : Keeps s0 (putCode w code s) :=
  h.trans <| .mk' rfl rfl <| fun i => ⟨i.regs, AMap.set_wf (d := fun _ => 0) i.ashlar _ _, i.wram, i.flash, i.tiles⟩

theorem putAsh_keeps {s0 : State} {w : Nat} {v : Nat} {s : State} (h : Keeps s0 s) : Keeps s0 (putAsh w v s) := by
  unfold putAsh
  repeat' first | with_reducible assumption | with_reducible apply putCode_keeps

theorem putAshWords_keeps {s0 : State} {w : Nat} {vs : List Nat} {s : State} (h : Keeps s0 s) :
    Keeps s0 (putAshWords w vs s) := by
  induction vs generalizing w s with
  | nil => exact h
  | cons v vs ih => exact ih (putAsh_keeps h)

theorem ashLogPush_keeps {s0 : State} {word : Nat} {syn : Nat} {action : Nat} {req : Nat} {s : State} (h : Keeps s0 s) :
    Keeps s0 (ashLogPush word syn action req s) := by
  unfold ashLogPush
  extract_lets -merge -useContext src
  repeat' first
    | with_reducible apply Keeps.ite
    | with_reducible assumption
    | exact rfl
    | with_reducible apply putF_keeps
    | with_reducible apply Keeps.upd

theorem ashFatal_keeps {s0 : State} {word : Nat} {s : State} (h : Keeps s0 s) : Keeps s0 (ashFatal word s) := by
  unfold ashFatal
  repeat' first
    | with_reducible apply Keeps.ite
    | with_reducible assumption
    | with_reducible exact Keeps.refl _
    | with_reducible apply watchLife_keeps
    | with_reducible apply selfDiag_keeps
    | with_reducible apply putF_keeps
    | with_reducible apply raiseAll_keeps
    | intro _

theorem ashReadSched_keeps {s0 : State} {req : Nat} {w : Nat} {s : State} (h : Keeps s0 s) :
    Keeps s0 (ashReadSched req w s).2.2 := by
  unfold ashReadSched
  repeat' first
    | with_reducible apply Keeps.ite_snd_snd
    | with_reducible assumption
    | with_reducible apply bump_keeps
    | with_reducible apply ashLogPush_keeps
    | with_reducible apply ashFatal_keeps
    | split

theorem ashReadLine_keeps {s0 : State} {req line mask : Nat} {is : List Nat} {s : State} (h : Keeps s0 s) :
    Keeps s0 (ashReadLine req line mask is s).2.2 := by
  induction is generalizing s with
  | nil => exact h
  | cons i is ih =>
    simp only [ashReadLine]
    refine ih ?_
    split
    · exact ashReadSched_keeps h
    · exact h

theorem mergeBase_keeps {s0 : State} {w : Nat} {v : Nat} {s : State} (h : Keeps s0 s) : Keeps s0 (mergeBase w v s) := by
  unfold mergeBase
  extract_lets -merge -useContext src
  repeat' first
    | with_reducible apply Keeps.ite
    | with_reducible assumption
    | exact rfl
    | split
    | with_reducible apply Keeps.upd

theorem ashWriteLine_keeps {s0 : State} {line mask : Nat} {vals is : List Nat} {s : State} (h : Keeps s0 s) :
    Keeps s0 (ashWriteLine line mask vals is s) := by
  induction is generalizing s with
  | nil => exact h
  | cons i is ih =>
    simp only [ashWriteLine]
    refine ih ?_
    split
    · exact mergeBase_keeps (putAsh_keeps h)
    · exact h

theorem engineRead_keeps {s0 : State} {req : Nat} {w : Nat} {mask : Nat} {c : Nat} {s : State} (h : Keeps s0 s) :
    Keeps s0 (engineRead req w mask c s).2 := by
  unfold engineRead
  extract_lets -merge -useContext r
  have h_r : Keeps s0 r.2.2 := by
    dsimp only [r]
    repeat' first | with_reducible assumption | with_reducible apply ashReadLine_keeps
  clear_value r
  repeat' first | with_reducible assumption | with_reducible apply guardFault_keeps | split

theorem engineWrite_keeps {s0 : State} {req : Nat} {w : Nat} {mask : Nat} {vals : List Nat} {c : Nat} {s : State}
    (h : Keeps s0 s) : Keeps s0 (engineWrite req w mask vals c s) := by
  unfold engineWrite
  repeat' first
    | with_reducible assumption
    | with_reducible apply ashWriteLine_keeps
    | with_reducible apply guardFault_keeps
    | split

end Sys2Proof.Machine
end

