-- ==== Sys2Proof/Laws/KeepsAshlar.lean ====
section
/-! SUPPORT. The operations of Machine/Ashlar.lean keep the queue, the fuses and the form of the stores. -/

namespace Sys2Proof.Machine

theorem respond_keeps {s0 : State} {master : Nat} {id : Nat} {status : Nat} {data : List Nat} {s : State} (h : Keeps s0 s) :
    Keeps s0 (respond master id status data s) := by
  unfold respond
  repeat' first | with_reducible apply Keeps.ite | with_reducible assumption | with_reducible apply emit_keeps

theorem beatDone_keeps {s0 : State} {master : Nat} {id : Nat} {write : Bool} {s : State} (h : Keeps s0 s) :
    Keeps s0 (beatDone master id write s) := by
  unfold beatDone
  extract_lets -merge -useContext o src
  clear_value o
  repeat' first | with_reducible assumption | exact rfl | with_reducible apply Keeps.upd

theorem beatEnd_keeps {s0 : State} {b : Beat} {status : Nat} {data : List Nat} {s : State} (h : Keeps s0 s) :
    Keeps s0 (beatEnd b status data s) := by
  unfold beatEnd
  repeat' first
    | with_reducible apply Keeps.ite
    | with_reducible assumption
    | with_reducible apply beatDone_keeps
    | with_reducible apply respond_keeps

theorem beatError_keeps {s0 : State} {b : Beat} {s : State} (h : Keeps s0 s) : Keeps s0 (beatError b s) := by
  unfold beatError
  repeat' first | with_reducible assumption | with_reducible apply beatEnd_keeps | with_reducible apply vsrLog_keeps

theorem beatOk_keeps {s0 : State} {b : Beat} {data : List Nat} {s : State} (h : Keeps s0 s) :
    Keeps s0 (beatOk b data s) := by
  unfold beatOk
  repeat' first | with_reducible assumption | with_reducible apply beatEnd_keeps

theorem putMortar_keeps {s0 : State} {w : Nat} {v : Nat} {s : State} (h : Keeps s0 s) : Keeps s0 (putMortar w v s) := by
  unfold putMortar
  repeat' first
    | with_reducible apply Keeps.ite
    | with_reducible assumption
    | with_reducible apply putF_keeps
    | with_reducible apply putCode_keeps
    | with_reducible apply putAsh_keeps

theorem ashReadMortar_keeps {s0 : State} {master : Nat} {w : Nat} {s : State} (h : Keeps s0 s) :
    Keeps s0 (ashReadMortar master w s).2.2 := by
  unfold ashReadMortar
  repeat' first | with_reducible assumption | with_reducible apply bump_keeps | with_reducible apply ashLogPush_keeps | split

theorem ashReadMortarLine_keeps {s0 : State} {master line mask : Nat} {is : List Nat} {s : State} (h : Keeps s0 s) :
    Keeps s0 (ashReadMortarLine master line mask is s).2.2 := by
  induction is generalizing s with
  | nil => exact h
  | cons i is ih =>
    simp only [ashReadMortarLine]
    refine ih ?_
    split
    · exact ashReadMortar_keeps h
    · exact h

theorem writeBeat_keeps {s0 : State} {b : Beat} {s : State} (h : Keeps s0 s) : Keeps s0 (writeBeat b s) := by
  unfold writeBeat
  repeat' first
    | with_reducible apply Keeps.ite
    | with_reducible assumption
    | with_reducible exact Keeps.refl _
    | with_reducible apply putMortar_keeps
    | with_reducible apply Keeps.foldl
    | intro _

theorem putQueue_keeps {s0 : State} {b : Nat} {q : List Beat} {s : State} (h : Keeps s0 s) : Keeps s0 (putQueue b q s) := by
  unfold putQueue
  extract_lets -merge -useContext src
  repeat' first | with_reducible assumption | exact rfl | with_reducible apply Keeps.upd

theorem beatTaken_keeps {s0 : State} {master : Nat} {id : Nat} {s : State} (h : Keeps s0 s) :
    Keeps s0 (beatTaken master id s) := by
  unfold beatTaken
  extract_lets -merge -useContext src
  repeat' first | with_reducible assumption | exact rfl | with_reducible apply Keeps.upd

theorem acceptBeat_keeps {s0 : State} {master : Nat} {id : Nat} {write : Bool} {line : Nat} {strobes : Nat} {data : List Nat} {s : State}
    (h : Keeps s0 s) : Keeps s0 (acceptBeat master id write line strobes data s) := by
  unfold acceptBeat
  extract_lets -merge -useContext st b take
  have h_take : ∀  z, Keeps z (take  z) := by
    intro  z
    dsimp only [take]
    repeat' first | with_reducible apply Keeps.ite | with_reducible exact Keeps.refl _ | with_reducible apply beatTaken_keeps
  clear_value st b
  repeat' first
    | with_reducible apply Keeps.ite
    | with_reducible assumption
    | with_reducible apply beatTaken_keeps
    | with_reducible apply beatError_keeps
    | with_reducible apply putQueue_keeps

theorem serveBeat_keeps {s0 : State} {bank : Nat} {b : Beat} {s : State} (h : Keeps s0 s) :
    Keeps s0 (serveBeat bank b s) := by
  unfold serveBeat
  extract_lets -merge -useContext r m r_2 src src_2
  have h_r : Keeps s0 r.2.2 := by
    dsimp only [r]
    repeat' first | with_reducible assumption | with_reducible apply ashReadMortarLine_keeps
  have h_r_2 : Keeps s0 r_2.2.2 := by
    dsimp only [r_2]
    repeat' first | with_reducible assumption | with_reducible apply ashReadMortarLine_keeps
  have h_src : Keeps s0 src := by
    dsimp only [src]
    repeat' with_reducible assumption
  clear_value r m r_2
  repeat' first
    | with_reducible apply Keeps.ite
    | with_reducible assumption
    | exact rfl
    | with_reducible apply beatError_keeps
    | with_reducible apply putF_keeps
    | with_reducible apply beatEnd_keeps
    | with_reducible apply vsrLog_keeps
    | with_reducible apply beatOk_keeps
    | with_reducible apply writeBeat_keeps
    | with_reducible apply Keeps.upd

theorem serveQueue_keeps {s0 : State} {bank : Nat} {cycle : Nat} {s : State} (h : Keeps s0 s) :
    Keeps s0 (serveQueue bank cycle s) := by
  unfold serveQueue
  repeat' first
    | with_reducible apply Keeps.ite
    | with_reducible assumption
    | with_reducible apply serveBeat_keeps
    | with_reducible apply putQueue_keeps
    | split

theorem mergeDone_keeps {s0 : State} {bank : Nat} {s : State} (h : Keeps s0 s) : Keeps s0 (mergeDone bank s) := by
  unfold mergeDone
  extract_lets -merge -useContext src s1
  have h_s1 : Keeps s0 s1 := by
    dsimp only [s1]
    repeat' first | with_reducible assumption | exact rfl | with_reducible apply Keeps.upd
  clear_value s1
  repeat' first
    | with_reducible apply Keeps.ite
    | with_reducible assumption
    | with_reducible exact Keeps.refl _
    | with_reducible apply beatOk_keeps
    | with_reducible apply putMortar_keeps
    | with_reducible apply Keeps.foldl
    | split
    | intro _

theorem scrubWord_keeps {s0 : State} {w : Nat} {s : State} (h : Keeps s0 s) : Keeps s0 (scrubWord w s) := by
  unfold scrubWord
  extract_lets -merge -useContext note s2
  have h2 : Keeps s0 s2 := bump_keeps h
  have hn : ∀ {f : State → State} {a b : State}, (∀ x, Keeps x (f x)) → Keeps a b → Keeps a (note f b) := fun hf hb =>
    Keeps.ite hb (hb.trans (hf _))
  clear_value note
  split
  · exact h
  · extract_lets -merge -useContext s1
    have h1 : Keeps s0 s1 := hn (fun x => ashLogPush_keeps (bump_keeps (Keeps.refl _))) (bump_keeps h)
    exact Keeps.upd h1 rfl rfl rfl
  · exact Keeps.ite (putAsh_keeps (hn (fun x => ashLogPush_keeps (bump_keeps (Keeps.refl _))) h2))
      (hn (fun x => ashLogPush_keeps (bump_keeps (Keeps.ite (Keeps.refl _) (raiseAll_keeps (putF_keeps (Keeps.refl _)))))) h2)

theorem scrubWriteback_keeps {s0 : State} {bank : Nat} {s : State} (h : Keeps s0 s) : Keeps s0 (scrubWriteback bank s) := by
  unfold scrubWriteback
  repeat' first
    | with_reducible assumption
    | with_reducible exact Keeps.refl _
    | with_reducible apply putCode_keeps
    | with_reducible apply Keeps.foldl
    | intro _

theorem scrubBankDone_keeps {s0 : State} {bank : Nat} {s : State} (h : Keeps s0 s) : Keeps s0 (scrubBankDone bank s) := by
  unfold scrubBankDone
  extract_lets -merge -useContext done all src s1 src_2
  have h_s1 : Keeps s0 s1 := by
    dsimp only [s1]
    repeat' first | with_reducible assumption | exact rfl | with_reducible apply Keeps.upd
  clear_value done all s1
  repeat' first
    | with_reducible apply Keeps.ite
    | with_reducible assumption
    | exact rfl
    | with_reducible apply wrap_keeps
    | with_reducible apply Keeps.upd

theorem execScrubLine_keeps {s0 : State} {bank : Nat} {cycle : Nat} {behind : Bool} {s : State} (h : Keeps s0 s) :
    KeepsO s0 (execScrubLine bank cycle behind s) := by
  unfold execScrubLine
  extract_lets -merge -useContext l s1 src
  have h_s1 : Keeps s0 s1 := by
    dsimp only [s1]
    repeat' first
      | with_reducible assumption
      | with_reducible exact Keeps.refl _
      | with_reducible apply scrubWord_keeps
      | with_reducible apply Keeps.foldl
      | intro _
  clear_value l s1
  repeat' first
    | with_reducible assumption
    | exact rfl
    | with_reducible apply KeepsO.next
    | with_reducible apply KeepsO.ite
    | with_reducible apply scrubBankDone_keeps
    | with_reducible apply Keeps.upd

theorem execScrubWriteback_keeps {s0 : State} {bank : Nat} {s : State} (h : Keeps s0 s) :
    KeepsO s0 (execScrubWriteback bank s) := by
  unfold execScrubWriteback
  repeat' first
    | with_reducible assumption
    | with_reducible apply KeepsO.next
    | with_reducible apply KeepsO.ite
    | with_reducible apply scrubWriteback_keeps

theorem burstScrub_keeps {s0 : State} {bank : Nat} {s : State} (h : Keeps s0 s) : Keeps s0 (burstScrub bank s) := by
  unfold burstScrub
  extract_lets -merge -useContext ws
  clear_value ws
  repeat' first
    | with_reducible assumption
    | with_reducible exact Keeps.refl _
    | with_reducible apply scrubBankDone_keeps
    | with_reducible apply scrubWriteback_keeps
    | with_reducible apply scrubWord_keeps
    | with_reducible apply Keeps.foldl
    | intro _

theorem execScrubPeriodStart_keeps {s0 : State} {s : State} (h : Keeps s0 s) : KeepsO s0 (execScrubPeriodStart s) := by
  unfold execScrubPeriodStart
  extract_lets -merge -useContext src s1
  have h_s1 : Keeps s0 s1 := by
    dsimp only [s1]
    repeat' first
      | with_reducible apply Keeps.ite
      | with_reducible assumption
      | exact rfl
      | with_reducible apply raiseAll_keeps
      | with_reducible apply putF_keeps
      | with_reducible apply Keeps.upd
  clear_value s1
  repeat' first
    | with_reducible assumption
    | with_reducible exact Keeps.refl _
    | with_reducible apply KeepsO.next
    | with_reducible apply KeepsO.ite
    | with_reducible apply burstScrub_keeps
    | with_reducible apply Keeps.foldl
    | intro _

theorem setScrub_keeps {s0 : State} {p : Nat} {s : State} (h : Keeps s0 s) : Keeps s0 (setScrub p s) := by
  unfold setScrub
  extract_lets -merge -useContext s1
  have h_s1 : Keeps s0 s1 := by
    dsimp only [s1]
    repeat' first | with_reducible assumption | with_reducible apply putF_keeps
  clear_value s1
  repeat' first | with_reducible apply Keeps.ite | with_reducible assumption | with_reducible apply raiseAll_keeps

theorem loseBank_keeps {s0 : State} {b : Nat} {s : State} (h : Keeps s0 s) : Keeps s0 (loseBank b s) :=
  h.upd_stores (fun i => ⟨i.regs, AMap.filter_wf (d := fun _ => 0) i.ashlar _, i.wram, i.flash, i.tiles⟩)

theorem startTrans_keeps {s0 : State} {b : Nat} {dst : Nat} {s : State} (h : Keeps s0 s) :
    Keeps s0 (startTrans b dst s) := by
  unfold startTrans
  extract_lets -merge -useContext from' s1 src
  have h_s1 : Keeps s0 s1 := by
    dsimp only [s1]
    repeat' first | with_reducible apply Keeps.ite | with_reducible assumption | with_reducible apply loseBank_keeps
  clear_value from' s1
  repeat' first
    | with_reducible apply Keeps.ite
    | with_reducible assumption
    | exact rfl
    | with_reducible apply putF_keeps
    | with_reducible apply Keeps.upd

theorem applyPwr_keeps {s0 : State} {n : Nat} {s : State} (h : Keeps s0 s) : Keeps s0 (applyPwr n s) := by
  unfold applyPwr
  repeat' first
    | with_reducible apply Keeps.ite
    | with_reducible assumption
    | with_reducible exact Keeps.refl _
    | with_reducible apply startTrans_keeps
    | with_reducible apply Keeps.foldl
    | intro _

theorem writePwrBank_keeps {s0 : State} {b : Nat} {v : Nat} {s : State} (h : Keeps s0 s) :
    Keeps s0 (writePwrBank b v s) := by
  unfold writePwrBank
  extract_lets -merge -useContext run rest part badRun badRest s1 s2
  have h_s1 : Keeps s0 s1 := by
    dsimp only [s1]
    repeat' first | with_reducible apply Keeps.ite | with_reducible assumption | with_reducible apply putF_keeps
  have h_s2 : Keeps s0 s2 := by
    dsimp only [s2]
    repeat' first | with_reducible apply Keeps.ite | with_reducible assumption | with_reducible apply putF_keeps
  clear_value run rest part badRun badRest s1 s2
  repeat' first
    | with_reducible apply Keeps.ite
    | with_reducible assumption
    | with_reducible apply putF_keeps
    | with_reducible apply raiseAll_keeps

theorem writePwr_keeps {s0 : State} {n : Nat} {v : Nat} {c : Nat} {s : State} (h : Keeps s0 s) :
    Keeps s0 (writePwr n v c s) := by
  unfold writePwr
  extract_lets -merge -useContext s1 src
  have h_s1 : Keeps s0 s1 := by
    dsimp only [s1]
    repeat' first
      | with_reducible assumption
      | with_reducible exact Keeps.refl _
      | with_reducible apply writePwrBank_keeps
      | with_reducible apply Keeps.foldl
      | intro _
  clear_value s1
  repeat' first
    | with_reducible apply Keeps.ite
    | with_reducible assumption
    | exact rfl
    | with_reducible apply putF_keeps
    | with_reducible apply applyPwr_keeps
    | split
    | with_reducible apply Keeps.upd

theorem execBankPowerWrite_keeps {s0 : State} {n : Nat} {value : Nat} {complement : Nat} {s : State} (h : Keeps s0 s) :
    KeepsO s0 (execBankPowerWrite n value complement s) := by
  unfold execBankPowerWrite
  repeat' first
    | with_reducible assumption
    | with_reducible apply KeepsO.next
    | with_reducible apply KeepsO.ite
    | with_reducible apply writePwr_keeps

theorem boundaryPwr_keeps {s0 : State} {s : State} (h : Keeps s0 s) : Keeps s0 (boundaryPwr s) := by
  unfold boundaryPwr
  extract_lets -merge -useContext src
  repeat' first
    | with_reducible assumption
    | with_reducible exact Keeps.refl _
    | exact rfl
    | with_reducible apply applyPwr_keeps
    | with_reducible apply Keeps.foldl
    | intro _
    | with_reducible apply Keeps.upd

theorem execBankTransitionDone_keeps {s0 : State} {bank : Nat} {s : State} (h : Keeps s0 s) :
    KeepsO s0 (execBankTransitionDone bank s) := by
  unfold execBankTransitionDone
  extract_lets -merge -useContext src
  repeat' first
    | with_reducible apply Keeps.ite
    | with_reducible assumption
    | exact rfl
    | with_reducible apply KeepsO.next
    | with_reducible apply KeepsO.ite
    | with_reducible apply putF_keeps
    | with_reducible apply startTrans_keeps
    | split
    | with_reducible apply Keeps.upd

theorem execAshlarFillDone_keeps {s0 : State} {s : State} (h : Keeps s0 s) : KeepsO s0 (execAshlarFillDone s) :=
  KeepsO.ite (.next h) (.next (putF_keeps (h.upd_stores (fun i => ⟨i.regs, rfl, i.wram, i.flash, i.tiles⟩))))

end Sys2Proof.Machine
end

