-- ==== Sys2Proof/Laws/KeepsBus.lean ====
section
/-! SUPPORT. The operations of Machine/Bus.lean keep the queue, the fuses and the form of the stores. -/

namespace Sys2Proof.Machine

theorem putRam_keeps {s0 : State} {off : Nat} {l : List Nat} {s : State} (h : Keeps s0 s) : Keeps s0 (putRam off l s) := by
  induction l generalizing off s with
  | nil => exact h
  | cons b bs ih =>
    exact ih (h.upd_stores (fun i => ⟨i.regs, i.ashlar, AMap.set_wf (d := fun _ => 0) i.wram _ _, i.flash, i.tiles⟩))

theorem ashWordsBy_keeps {s0 : State} {m : Nat} {w : Nat} {a0 : Nat} {a1 : State} (h : Keeps s0 a1) :
    Keeps s0 (ashWordsBy m w a0 a1).2.2 := by
  induction a0 generalizing m w a1 with
  | zero => exact h
  | succ k ih =>
    unfold ashWordsBy
    repeat' first
      | with_reducible apply ih
      | with_reducible apply Keeps.ite_snd_snd
      | with_reducible assumption
      | with_reducible apply ashReadMortar_keeps
      | with_reducible apply putF_keeps

theorem dmaRead_keeps {s0 : State} {m : Nat} {a : Nat} {n : Nat} {s : State} (h : Keeps s0 s) :
    Keeps s0 (dmaRead m a n s).2 := by
  unfold dmaRead
  extract_lets -merge -useContext t
  clear_value t
  repeat' first
    | with_reducible apply Keeps.ite
    | with_reducible apply Keeps.ite_snd
    | with_reducible assumption
    | with_reducible apply vsrLog_keeps
    | with_reducible apply ashWordsBy_keeps
    | split

theorem putLineBytes_keeps {s0 : State} {m line o : Nat} {bs : List Nat} {s : State} (h : Keeps s0 s) :
    Keeps s0 (putLineBytes m line o bs s).2 := by
  unfold putLineBytes
  extract_lets -merge -useContext b r
  have h_r : Keeps s0 r.2.2 := by
    dsimp only [r]
    repeat' first | with_reducible assumption | with_reducible apply ashReadMortarLine_keeps
  clear_value b r
  repeat' first
    | with_reducible apply Keeps.ite_snd
    | with_reducible apply vsrLog_keeps
    | with_reducible assumption
    | (refine Keeps.foldl (fun _ _ => ?_) h_r; extract_lets -merge -useContext st; clear_value st)
    | with_reducible apply Keeps.ite
    | with_reducible exact Keeps.refl _
    | with_reducible apply putMortar_keeps

theorem putAshBytes_keeps {s0 : State} {m : Nat} {a : Nat} {bs : List Nat} {s : State} (h : Keeps s0 s) :
    Keeps s0 (putAshBytes m a bs s).2 := by
  unfold putAshBytes
  extract_lets -merge -useContext off o
  clear_value off o
  generalize List.range ((o + bs.length + 31) / 32) = l
  have k : ∀ x : Bool × State, Keeps s0 x.2 → Keeps s0 (l.foldl (fun (x : Bool × State) i =>
      let y := putLineBytes m (8 * (off / 32 + i)) (if i = 0 then o else 0)
        (if i = 0 then bs.take (32 - o) else (bs.drop (32 * i - o)).take 32) x.2
      (x.1 && y.1, y.2)) x).2 := by
    induction l with
    | nil => exact fun _ hx => hx
    | cons i is ih => exact fun x hx => ih _ (putLineBytes_keeps hx)
  exact k _ h

theorem dmaWrite_keeps {s0 : State} {m : Nat} {a : Nat} {bs : List Nat} {s : State} (h : Keeps s0 s) :
    Keeps s0 (dmaWrite m a bs s) := by
  unfold dmaWrite
  extract_lets -merge -useContext t
  clear_value t
  repeat' first
    | with_reducible apply Keeps.ite
    | with_reducible assumption
    | with_reducible apply vsrLog_keeps
    | with_reducible apply putRam_keeps
    | with_reducible apply putAshBytes_keeps
    | with_reducible apply putF_keeps
    | split

theorem dmaWord_keeps {s0 : State} {m : Nat} {a : Nat} {s : State} (h : Keeps s0 s) : Keeps s0 (dmaWord m a s).2 := by
  unfold dmaWord
  extract_lets -merge -useContext r
  have h_r : Keeps s0 r.2 := by
    dsimp only [r]
    repeat' first | with_reducible assumption | with_reducible apply dmaRead_keeps
  clear_value r
  repeat' with_reducible assumption

end Sys2Proof.Machine
end

