-- ==== Sys2Proof/Laws/KeepsFw.lean ====
section
/-! SUPPORT. The operations of Machine/Fw.lean keep the queue, the fuses and the form of the stores. -/

namespace Sys2Proof.Machine

theorem setOwner_keeps {s0 : State} {kind : Nat} {idx : Nat} {seat : Nat} {s : State} (h : Keeps s0 s) :
    Keeps s0 (setOwner kind idx seat s) := by
  unfold setOwner
  extract_lets -merge -useContext src
  repeat' first | with_reducible assumption | exact rfl | with_reducible apply Keeps.upd

theorem acquire_keeps {s0 : State} {r : Sys2Proof.FwReq} {kind : Nat} {idx : Nat} {s : State} (h : Keeps s0 s) :
    Keeps s0 (acquire r kind idx s) := by
  unfold acquire
  repeat' first | with_reducible apply Keeps.ite | with_reducible assumption | with_reducible apply setOwner_keeps

theorem freeObj_keeps {s0 : State} {kind : Nat} {idx : Nat} {s : State} (h : Keeps s0 s) :
    Keeps s0 (freeObj kind idx s) := by
  unfold freeObj
  extract_lets -merge -useContext src
  repeat' first | with_reducible assumption | exact rfl | with_reducible apply Keeps.upd

theorem acquireAll_keeps {s0 : State} {r : Sys2Proof.FwReq} {kind : Nat} {is : List Nat} {s : State} (h : Keeps s0 s) :
    Keeps s0 (acquireAll r kind is s) := by
  unfold acquireAll
  repeat' first
    | with_reducible assumption
    | with_reducible exact Keeps.refl _
    | with_reducible apply acquire_keeps
    | with_reducible apply Keeps.foldl
    | intro _

/-- An entry armed changes the scheduler and the event queue alone. -/
theorem arm_keeps {s0 : State} {s : State} {r : FwReq} {e : Sched} (h : Keeps s0 s) {x : Nat × Nat × State}
    (hx : arm s r e = .ok x) : Keeps s0 x.2.2 := by
  unfold arm need at hx
  simp only [bind, Except.bind] at hx
  repeat' split at hx
  all_goals first
    | (cases hx; exact queueEv_keeps (Keeps.upd h rfl rfl rfl))
    | cases hx

theorem applyFld_keeps {s0 : State} {c : BufChange} {s : State} (h : Keeps s0 s) : Keeps s0 (applyFld c s) := by
  unfold applyFld
  repeat' first | with_reducible assumption | with_reducible apply putF_keeps | split

theorem optionalBatch_keeps {s0 : State} {s : State} {r : FwReq} {t : Nat} {cs : List BufChange} {now : State → State}
    (hnow : ∀ x, Keeps x (now x)) (h : Keeps s0 s) : KeepsM s0 (optionalBatch s r t cs now) := by
  unfold optionalBatch
  dsimp only
  split
  · exact KeepsM.pure (h.trans (hnow s))
  · refine KeepsM.bind (fun _ _ => ?_)
    split
    · refine KeepsM.bind (fun _ _ => ?_)
      exact KeepsM.pure (queueEv_keeps (Keeps.upd h rfl rfl rfl))
    · refine KeepsM.bind (fun a ha => ?_)
      exact KeepsM.pure (arm_keeps h ha)

theorem postReply_keeps {s0 : State} {seat : Nat} {w0 : Nat} {status : Nat} {payload : List Nat} {s : State}
    (h : Keeps s0 s) : Keeps s0 (postReply seat w0 status payload s) := by
  unfold postReply
  extract_lets -merge -useContext ws s1 s2
  have h_s1 : Keeps s0 s1 := by
    dsimp only [s1]
    repeat' first | with_reducible assumption | with_reducible apply updSeat_keeps
  have h_s2 : Keeps s0 s2 := by
    dsimp only [s2]
    repeat' first | with_reducible assumption | with_reducible apply putFs_keeps
  clear_value ws s1 s2
  repeat' first
    | with_reducible apply Keeps.ite
    | with_reducible assumption
    | with_reducible apply emit_keeps
    | with_reducible apply irq_keeps

theorem relayed_keeps_of {f : State → FwM} {s : State} (hf : ∀ x, Keeps s x → KeepsM s (f x)) : KeepsM s (relayed f s) := by
  unfold relayed
  split
  · exact hf s (Keeps.refl s)
  · split
    · exact KeepsM.error
    · rename_i x hx
      dsimp only
      split
      · intro y hy; cases hy; exact hf s (Keeps.refl s) x hx
      · exact hf _ (Keeps.upd (Keeps.refl s) rfl rfl rfl)

theorem relayed_keeps {s0 : State} {f : State → FwM} {s : State} (hf : ∀ x, KeepsM x (f x)) (h : Keeps s0 s) :
    KeepsM s0 (relayed f s) := fun x hx => h.trans (relayed_keeps_of (fun y hy z hz => hy.trans (hf y z hz)) x hx)

theorem answer_keeps_of {op : Nat} {r : FwReq} {f : State → FwM} {s : State} (hf : ∀ x, Keeps s x → KeepsM s (f x)) :
    Keeps s (answer op r f s) := by
  unfold answer
  dsimp only
  split
  · rename_i s1 ws hx
    exact postReply_keeps (relayed_keeps_of hf _ hx)
  · exact postReply_keeps (Keeps.refl s)

theorem answer_keeps {s0 : State} {op : Nat} {r : FwReq} {f : State → FwM} {s : State} (hf : ∀ x, KeepsM x (f x))
    (h : Keeps s0 s) : Keeps s0 (answer op r f s) := h.trans (answer_keeps_of (fun x hx y hy => hx.trans (hf x y hy)))

theorem fwRow_keeps {s0 : State} {op : Nat} {r : FwReq} {f : FwReq → State → FwM} {s : State}
    (hf : ∀ r x, KeepsM x (f r x)) (h : Keeps s0 s) : KeepsO s0 (fwRow op r f s) :=
  KeepsO.ite (.next (answer_keeps (hf r) h)) (.next h)

theorem cmdDone_keeps {s0 : State} {seat : Nat} {op : Nat} {seq : Nat} {status : Nat} {e : List Nat} {s : State}
    (h : Keeps s0 s) : Keeps s0 (cmdDone seat op seq status e s) := by
  unfold cmdDone
  repeat' first | with_reducible assumption | with_reducible apply raiseTo_keeps

theorem objectEvent_keeps {s0 : State} {dst : Nat} {kind : Nat} {fromSeat : Nat} {toSeat : Nat} {idx : Nat} {what : Nat} {s : State}
    (h : Keeps s0 s) : Keeps s0 (objectEvent dst kind fromSeat toSeat idx what s) := by
  unfold objectEvent
  repeat' first | with_reducible assumption | with_reducible apply raiseTo_keeps

theorem cancelledEvent_keeps {s0 : State} {i : Nat} {status : Nat} {e : Sched} {s : State} (h : Keeps s0 s) :
    Keeps s0 (cancelledEvent i status e s) := by
  unfold cancelledEvent
  repeat' first | with_reducible assumption | with_reducible apply raiseTo_keeps

end Sys2Proof.Machine
end

