-- ==== Sys2Proof/Laws/KeepsTick.lean ====
section
/-! SUPPORT. The operations of Machine/Tick.lean keep the queue, the fuses and the form of the stores. -/

namespace Sys2Proof.Machine

theorem countTick_keeps {s0 : State} {s : State} (h : Keeps s0 s) : Keeps s0 (countTick s) := by
  unfold countTick
  repeat' first
    | with_reducible apply Keeps.ite
    | with_reducible assumption
    | exact rfl
    | split
    | with_reducible apply Keeps.upd

theorem qspiFinish_keeps {s0 : State} {s : State} (h : Keeps s0 s) : Keeps s0 (qspiFinish s) := by
  unfold qspiFinish
  repeat' first | with_reducible assumption | exact rfl | with_reducible apply Keeps.upd

theorem sysTick_keeps {s0 : State} {s : State} (h : Keeps s0 s) : Keeps s0 (sysTick s) := by
  unfold sysTick
  repeat' first | with_reducible assumption | with_reducible apply qspiFinish_keeps | with_reducible apply countTick_keeps

end Sys2Proof.Machine
end

