-- ==== Sys2Proof/Laws/KeepsNetOps.lean ====
section
/-! SUPPORT. The operations of Machine/NetOps.lean keep the queue, the fuses and the form of the stores. -/

namespace Sys2Proof.Machine

theorem updMac_keeps {s0 : State} {m : Nat} {f : MacSt → MacSt} {s : State} (h : Keeps s0 s) : Keeps s0 (updMac m f s) := by
  unfold updMac
  extract_lets -merge -useContext src
  repeat' first | with_reducible assumption | exact rfl | with_reducible apply Keeps.upd

theorem cntAdd_keeps {s0 : State} {m : Nat} {i : Nat} {n : Nat} {s : State} (h : Keeps s0 s) :
    Keeps s0 (cntAdd m i n s) := by
  unfold cntAdd
  extract_lets -merge -useContext v w
  clear_value v w
  repeat' first | with_reducible assumption | with_reducible apply setIf_keeps | with_reducible apply putF_keeps

theorem countGood_keeps {s0 : State} {m : Nat} {base : Nat} {b : List Nat} {len : Nat} {s : State} (h : Keeps s0 s) :
    Keeps s0 (countGood m base b len s) := by
  unfold countGood
  extract_lets -merge -useContext s1
  have h_s1 : Keeps s0 s1 := by
    dsimp only [s1]
    repeat' first | with_reducible assumption | with_reducible apply cntAdd_keeps
  clear_value s1
  repeat' first | with_reducible assumption | with_reducible apply cntAdd_keeps

theorem macTake_keeps {s0 : State} {m : Nat} {stream : Nat} {b : List Nat} {s : State} (h : Keeps s0 s) :
    Keeps s0 (macTake m stream b s).2 := by
  unfold macTake
  repeat' first
    | with_reducible apply Keeps.ite_snd
    | with_reducible assumption
    | with_reducible apply updMac_keeps
    | with_reducible apply cntAdd_keeps

theorem macLinkEvent_keeps {s0 : State} {m : Nat} {s : State} (h : Keeps s0 s) : Keeps s0 (macLinkEvent m s) := by
  unfold macLinkEvent
  repeat' first | with_reducible assumption | with_reducible apply raiseOwner_keeps

end Sys2Proof.Machine
end

