-- ==== Sys2Proof/Laws/KeepsClock.lean ====
section
/-! SUPPORT. The operations of Machine/Clock.lean keep the queue, the fuses and the form of the stores. -/

namespace Sys2Proof.Machine

theorem clkEvent_keeps {s0 : State} {r : Nat} {s : State} (h : Keeps s0 s) : Keeps s0 (clkEvent r s) := by
  unfold clkEvent
  repeat' first | with_reducible assumption | with_reducible apply raiseAll_keeps

theorem setRatioRegs_keeps {s0 : State} {s : State} (h : Keeps s0 s) : Keeps s0 (setRatioRegs s) := by
  unfold setRatioRegs
  extract_lets -merge -useContext nom num n
  clear_value nom num n
  repeat' first | with_reducible apply Keeps.ite | with_reducible assumption | with_reducible apply putFs_keeps

theorem setFreq_keeps {s0 : State} {f : Int} {s : State} (h : Keeps s0 s) : Keeps s0 (setFreq f s) := by
  unfold setFreq
  extract_lets -merge -useContext src
  repeat' first
    | with_reducible assumption
    | exact rfl
    | with_reducible apply setRatioRegs_keeps
    | with_reducible apply Keeps.upd

theorem setRef_keeps {s0 : State} {r : Nat} {st : Nat} {s : State} (h : Keeps s0 s) : Keeps s0 (setRef r st s) := by
  unfold setRef
  repeat' first
    | with_reducible apply Keeps.ite
    | with_reducible assumption
    | with_reducible apply clkEvent_keeps
    | with_reducible apply putF_keeps

theorem setDpll_keeps {s0 : State} {st : Nat} {s : State} (h : Keeps s0 s) : Keeps s0 (setDpll st s) := by
  unfold setDpll
  extract_lets -merge -useContext s1 f src s2
  have h_s1 : Keeps s0 s1 := by
    dsimp only [s1]
    repeat' first | with_reducible assumption | with_reducible apply putF_keeps
  have h_s2 : Keeps s0 s2 := by
    dsimp only [s2]
    repeat' first
      | with_reducible assumption
      | exact rfl
      | with_reducible apply putF_keeps
      | with_reducible apply setFreq_keeps
      | with_reducible apply putFs_keeps
      | split
      | with_reducible apply Keeps.upd
  clear_value s1 f s2
  repeat' first
    | with_reducible apply Keeps.ite
    | with_reducible assumption
    | with_reducible apply putF_keeps
    | with_reducible apply clkEvent_keeps

theorem loseRefs_keeps {s0 : State} {s : State} (h : Keeps s0 s) : Keeps s0 (loseRefs s) := by
  unfold loseRefs
  extract_lets -merge -useContext st
  clear_value st
  repeat' first | with_reducible apply Keeps.ite | with_reducible assumption | with_reducible apply setDpll_keeps

theorem commitSwitch_keeps {s0 : State} {r : Nat} {s : State} (h : Keeps s0 s) : Keeps s0 (commitSwitch r s) := by
  unfold commitSwitch
  extract_lets -merge -useContext src s1
  have h_s1 : Keeps s0 s1 := by
    dsimp only [s1]
    repeat' first | with_reducible assumption | exact rfl | with_reducible apply putFs_keeps | with_reducible apply Keeps.upd
  clear_value s1
  repeat' first | with_reducible assumption | with_reducible apply setDpll_keeps

theorem selectRef_keeps {s0 : State} {s : State} (h : Keeps s0 s) : Keeps s0 (selectRef s) := by
  unfold selectRef
  extract_lets -merge -useContext f cur
  clear_value f cur
  repeat' first
    | with_reducible apply Keeps.ite
    | with_reducible assumption
    | with_reducible apply setDpll_keeps
    | with_reducible apply loseRefs_keeps
    | with_reducible apply commitSwitch_keeps
    | split

theorem refreshClk_keeps {s0 : State} {s : State} (h : Keeps s0 s) : Keeps s0 (refreshClk s) := by
  unfold refreshClk
  extract_lets -merge -useContext s1 s2
  have h_s1 : Keeps s0 s1 := by
    dsimp only [s1]
    repeat' first
      | with_reducible apply Keeps.ite
      | with_reducible assumption
      | with_reducible exact Keeps.refl _
      | with_reducible apply putF_keeps
      | with_reducible apply setRef_keeps
      | with_reducible apply Keeps.foldl
      | intro _
  have h_s2 : Keeps s0 s2 := by
    dsimp only [s2]
    repeat' first | with_reducible assumption | with_reducible apply selectRef_keeps
  clear_value s1 s2
  repeat' first | with_reducible assumption | with_reducible apply putF_keeps

theorem bleed_keeps {s0 : State} {s : State} {p : Int} (h : Keeps s0 s) : Keeps s0 (bleed s p) := by
  unfold bleed
  extract_lets -merge -useContext d b src
  clear_value d b
  repeat' first
    | with_reducible apply Keeps.ite
    | with_reducible assumption
    | exact rfl
    | with_reducible apply putF_keeps
    | with_reducible apply Keeps.upd

theorem phaseEvent_keeps {s0 : State} {r : Nat} {e : Int} {s : State} (h : Keeps s0 s) : Keeps s0 (phaseEvent r e s) := by
  unfold phaseEvent
  extract_lets -merge -useContext p e_1 s0_1 src s1 err s2 f
  have h_s0_1 : Keeps s0 s0_1 := by
    dsimp only [s0_1]
    repeat' first | with_reducible assumption | with_reducible apply wrap_keeps
  have h_s1 : Keeps s0 s1 := by
    dsimp only [s1]
    repeat' first | with_reducible assumption | with_reducible apply bleed_keeps
  have h_s2 : Keeps s0 s2 := by
    dsimp only [s2]
    repeat' first | with_reducible assumption | with_reducible apply putF_keeps
  have h_f : Keeps s0 f.2 := by
    dsimp only [f]
    repeat' first | with_reducible assumption | with_reducible apply takeFree_keeps
  clear_value p e_1 s0_1 s1 err s2 f
  repeat' first
    | with_reducible apply Keeps.ite
    | with_reducible assumption
    | exact rfl
    | with_reducible apply setFreq_keeps
    | with_reducible apply Keeps.upd

theorem execRefPhaseEvent_keeps {s0 : State} {ref : Nat} {diff : Int} {s : State} (h : Keeps s0 s) :
    KeepsO s0 (execRefPhaseEvent ref diff s) := by
  unfold execRefPhaseEvent
  extract_lets -merge -useContext ofs
  clear_value ofs
  repeat' first
    | with_reducible assumption
    | with_reducible apply KeepsO.next
    | with_reducible apply KeepsO.ite
    | with_reducible apply phaseEvent_keeps

theorem judgeDrift_keeps {s0 : State} {r : Nat} {s : State} (h : Keeps s0 s) : Keeps s0 (judgeDrift r s) := by
  unfold judgeDrift
  extract_lets -merge -useContext l sl off room toEdge reach rate
  clear_value l sl off room toEdge reach rate
  repeat' first
    | with_reducible apply Keeps.ite
    | with_reducible assumption
    | with_reducible apply putFs_keeps
    | with_reducible apply putF_keeps

theorem evalRef_keeps {s0 : State} {r : Nat} {raw : Option Int} {s : State} (h : Keeps s0 s) :
    Keeps s0 (evalRef r raw s) := by
  unfold evalRef
  repeat' first
    | with_reducible apply Keeps.ite
    | with_reducible assumption
    | exact rfl
    | with_reducible apply putF_keeps
    | with_reducible apply setRef_keeps
    | with_reducible apply judgeDrift_keeps
    | split
    | with_reducible apply Keeps.upd

theorem evalRefs_keeps {s0 : State} {a0 : Nat} {a1 : List (Option Int)} {a2 : State} (h : Keeps s0 a2) :
    Keeps s0 (evalRefs a0 a1 a2) := by
  induction a1 generalizing a0 a2 with
  | nil => exact h
  | cons x xs ih =>
    unfold evalRefs
    repeat' first
      | with_reducible apply ih
      | with_reducible apply Keeps.ite
      | with_reducible assumption
      | with_reducible apply evalRef_keeps

theorem execRefEvalTick_keeps {s0 : State} {offsets : List (Option Int)} {s : State} (h : Keeps s0 s) :
    KeepsO s0 (execRefEvalTick offsets s) := by
  unfold execRefEvalTick
  repeat' first
    | with_reducible assumption
    | with_reducible apply KeepsO.next
    | with_reducible apply refreshClk_keeps
    | with_reducible apply evalRefs_keeps

theorem execRefAbsence_keeps {s0 : State} {ref : Nat} {pps : Bool} {s : State} (h : Keeps s0 s) :
    KeepsO s0 (execRefAbsence ref pps s) := by
  unfold execRefAbsence
  extract_lets -merge -useContext src
  repeat' first
    | with_reducible assumption
    | exact rfl
    | with_reducible apply KeepsO.next
    | with_reducible apply KeepsO.ite
    | with_reducible apply refreshClk_keeps
    | with_reducible apply setRef_keeps
    | with_reducible apply setIf_keeps
    | with_reducible apply Keeps.upd

theorem execRefWtrExpiry_keeps {s0 : State} {ref : Nat} {s : State} (h : Keeps s0 s) :
    KeepsO s0 (execRefWtrExpiry ref s) := by
  unfold execRefWtrExpiry
  repeat' first
    | with_reducible assumption
    | with_reducible apply KeepsO.next
    | with_reducible apply KeepsO.ite
    | with_reducible apply refreshClk_keeps
    | with_reducible apply setRef_keeps

theorem execRefDqExpiry_keeps {s0 : State} {ref : Nat} {s : State} (h : Keeps s0 s) : KeepsO s0 (execRefDqExpiry ref s) := by
  unfold execRefDqExpiry
  repeat' first
    | with_reducible assumption
    | with_reducible apply KeepsO.next
    | with_reducible apply KeepsO.ite
    | with_reducible apply refreshClk_keeps
    | with_reducible apply setRef_keeps

theorem execSwitchAveragingDone_keeps {s0 : State} {s : State} (h : Keeps s0 s) : KeepsO s0 (execSwitchAveragingDone s) := by
  unfold execSwitchAveragingDone
  extract_lets -merge -useContext r src s1 avg b0 b src_2 s2
  have h_s1 : Keeps s0 s1 := by
    dsimp only [s1]
    repeat' first | with_reducible assumption | exact rfl | with_reducible apply putF_keeps | with_reducible apply Keeps.upd
  have h_s2 : Keeps s0 s2 := by
    dsimp only [s2]
    repeat' first | with_reducible assumption | exact rfl | with_reducible apply putFs_keeps | with_reducible apply Keeps.upd
  clear_value r s1 avg b0 b s2
  repeat' first
    | with_reducible assumption
    | with_reducible apply KeepsO.next
    | with_reducible apply KeepsO.ite
    | with_reducible apply refreshClk_keeps
    | with_reducible apply loseRefs_keeps

theorem execBuildOutBleedDone_keeps {s0 : State} {s : State} (h : Keeps s0 s) : KeepsO s0 (execBuildOutBleedDone s) := by
  unfold execBuildOutBleedDone
  extract_lets -merge -useContext src
  repeat' first
    | with_reducible assumption
    | exact rfl
    | with_reducible apply KeepsO.next
    | with_reducible apply KeepsO.ite
    | with_reducible apply putFs_keeps
    | with_reducible apply Keeps.upd

theorem execDpllLockDetect_keeps {s0 : State} {s : State} (h : Keeps s0 s) : KeepsO s0 (execDpllLockDetect s) := by
  unfold execDpllLockDetect
  repeat' first
    | with_reducible assumption
    | with_reducible apply KeepsO.next
    | with_reducible apply KeepsO.ite
    | with_reducible apply setDpll_keeps

theorem execDpllUnlockDetect_keeps {s0 : State} {s : State} (h : Keeps s0 s) : KeepsO s0 (execDpllUnlockDetect s) := by
  unfold execDpllUnlockDetect
  repeat' first
    | with_reducible assumption
    | with_reducible apply KeepsO.next
    | with_reducible apply KeepsO.ite
    | with_reducible apply setDpll_keeps

theorem execHoldoverHistoryTick_keeps {s0 : State} {s : State} (h : Keeps s0 s) : KeepsO s0 (execHoldoverHistoryTick s) := by
  unfold execHoldoverHistoryTick
  extract_lets -merge -useContext mean part clean n src
  clear_value mean part clean n
  repeat' first
    | with_reducible assumption
    | exact rfl
    | with_reducible apply KeepsO.next
    | with_reducible apply KeepsO.ite
    | with_reducible apply setIf_keeps
    | with_reducible apply Keeps.upd

theorem setSteer_keeps {s0 : State} {b : Bool} {s : State} (h : Keeps s0 s) : Keeps s0 (setSteer b s) := by
  unfold setSteer
  repeat' first
    | with_reducible apply Keeps.ite
    | with_reducible assumption
    | with_reducible apply putFs_keeps
    | with_reducible apply putF_keeps

theorem writeFreq_keeps {s0 : State} {v : Nat} {s : State} (h : Keeps s0 s) : Keeps s0 (writeFreq v s) := by
  unfold writeFreq
  repeat' first
    | with_reducible apply Keeps.ite
    | with_reducible assumption
    | with_reducible apply setFreq_keeps
    | with_reducible apply putF_keeps

theorem execOpenTimeout_keeps {s0 : State} {s : State} (h : Keeps s0 s) : KeepsO s0 (execOpenTimeout s) := by
  unfold execOpenTimeout
  repeat' first
    | with_reducible assumption
    | with_reducible apply KeepsO.next
    | with_reducible apply KeepsO.ite
    | with_reducible apply setSteer_keeps
    | with_reducible apply putF_keeps

theorem phaseStep_keeps {s0 : State} {v : Nat} {s : State} (h : Keeps s0 s) : Keeps s0 (phaseStep v s) := by
  unfold phaseStep
  extract_lets -merge -useContext s1 d n src
  have h_s1 : Keeps s0 s1 := by
    dsimp only [s1]
    repeat' first | with_reducible assumption | with_reducible apply putF_keeps
  clear_value s1 d n
  repeat' first
    | with_reducible apply Keeps.ite
    | with_reducible assumption
    | exact rfl
    | with_reducible apply putF_keeps
    | with_reducible apply Keeps.upd

theorem execPhaseStepWrite_keeps {s0 : State} {value : Nat} {s : State} (h : Keeps s0 s) :
    KeepsO s0 (execPhaseStepWrite value s) := by
  unfold execPhaseStepWrite
  repeat' first | with_reducible assumption | with_reducible apply KeepsO.next | with_reducible apply phaseStep_keeps

theorem execPhaseStepApply_keeps {s0 : State} {s : State} (h : Keeps s0 s) : KeepsO s0 (execPhaseStepApply s) := by
  unfold execPhaseStepApply
  extract_lets -merge -useContext n
  clear_value n
  repeat' first | with_reducible assumption | with_reducible apply KeepsO.next | with_reducible apply putF_keeps

theorem synEnable_keeps {s0 : State} {s : State} (h : Keeps s0 s) : Keeps s0 (synEnable s) := by
  unfold synEnable
  extract_lets -merge -useContext s1
  have h_s1 : Keeps s0 s1 := by
    dsimp only [s1]
    repeat' first | with_reducible assumption | with_reducible apply putF_keeps
  clear_value s1
  repeat' first
    | with_reducible apply Keeps.ite
    | with_reducible assumption
    | with_reducible apply putF_keeps
    | with_reducible apply setRatioRegs_keeps
    | split

theorem synDisable_keeps {s0 : State} {s : State} (h : Keeps s0 s) : Keeps s0 (synDisable s) := by
  unfold synDisable
  repeat' first | with_reducible assumption | with_reducible apply setRatioRegs_keeps | with_reducible apply putFs_keeps

theorem execSynthEnable_keeps {s0 : State} {s : State} (h : Keeps s0 s) : KeepsO s0 (execSynthEnable s) := by
  unfold execSynthEnable
  repeat' first | with_reducible assumption | with_reducible apply KeepsO.next | with_reducible apply synEnable_keeps

theorem execSynthLock_keeps {s0 : State} {margin : Bool} {s : State} (h : Keeps s0 s) :
    KeepsO s0 (execSynthLock margin s) := by
  unfold execSynthLock
  extract_lets -merge -useContext ok
  clear_value ok
  repeat' first
    | with_reducible assumption
    | with_reducible apply KeepsO.next
    | with_reducible apply KeepsO.ite
    | with_reducible apply putFs_keeps

theorem execSynthLockLoss_keeps {s0 : State} {xoLost : Bool} {s : State} (h : Keeps s0 s) :
    KeepsO s0 (execSynthLockLoss xoLost s) := by
  unfold execSynthLockLoss
  extract_lets -merge -useContext s1
  have h_s1 : Keeps s0 s1 := by
    dsimp only [s1]
    repeat' first
      | with_reducible assumption
      | with_reducible apply bump_keeps
      | with_reducible apply setIf_keeps
      | with_reducible apply putFs_keeps
  clear_value s1
  repeat' first
    | with_reducible assumption
    | with_reducible exact Keeps.refl _
    | with_reducible apply KeepsO.next
    | with_reducible apply KeepsO.ite
    | with_reducible apply selfDiag_keeps
    | with_reducible apply watchLife_keeps
    | with_reducible apply setAlert_keeps
    | with_reducible apply putF_keeps
    | intro _

theorem execSynthRelock_keeps {s0 : State} {s : State} (h : Keeps s0 s) : KeepsO s0 (execSynthRelock s) := by
  unfold execSynthRelock
  repeat' first
    | with_reducible assumption
    | with_reducible exact Keeps.refl _
    | with_reducible apply KeepsO.next
    | with_reducible apply KeepsO.ite
    | with_reducible apply watchLife_keeps
    | with_reducible apply setAlert_keeps
    | with_reducible apply putF_keeps
    | with_reducible apply putFs_keeps
    | intro _

theorem bandCal_keeps {s0 : State} {band : Nat} {rail : Nat} {s : State} (h : Keeps s0 s) :
    Keeps s0 (bandCal band rail s) := by
  unfold bandCal
  repeat' first
    | with_reducible apply Keeps.ite
    | with_reducible assumption
    | with_reducible apply putF_keeps
    | with_reducible apply putFs_keeps

theorem execBandCalStart_keeps {s0 : State} {band : Nat} {rail : Nat} {s : State} (h : Keeps s0 s) :
    KeepsO s0 (execBandCalStart band rail s) := by
  unfold execBandCalStart
  repeat' first | with_reducible assumption | with_reducible apply KeepsO.next | with_reducible apply bandCal_keeps

theorem execBandCalDone_keeps {s0 : State} {freq : Nat} {s : State} (h : Keeps s0 s) :
    KeepsO s0 (execBandCalDone freq s) := by
  unfold execBandCalDone
  repeat' first
    | with_reducible assumption
    | with_reducible apply KeepsO.next
    | with_reducible apply KeepsO.ite
    | with_reducible apply putFs_keeps

theorem writeBand_keeps {s0 : State} {v : Nat} {s : State} (h : Keeps s0 s) : Keeps s0 (writeBand v s) := by
  unfold writeBand
  extract_lets -merge -useContext src
  repeat' first | with_reducible assumption | exact rfl | with_reducible apply Keeps.upd

theorem alignWco_keeps {s0 : State} {w : Nat} {edge : Nat} {s : State} (h : Keeps s0 s) : Keeps s0 (alignWco w edge s) := by
  unfold alignWco
  extract_lets -merge -useContext p base a src
  clear_value p base a
  repeat' first | with_reducible assumption | exact rfl | with_reducible apply Keeps.upd

theorem clkBoundary_keeps {s0 : State} {s : State} (h : Keeps s0 s) : Keeps s0 (clkBoundary s) := by
  unfold clkBoundary
  extract_lets -merge -useContext b src
  clear_value b
  repeat' first
    | with_reducible apply Keeps.ite
    | with_reducible assumption
    | exact rfl
    | with_reducible apply emit_keeps
    | with_reducible apply Keeps.upd

theorem execWcoArm_keeps {s0 : State} {output : Nat} {edge : Nat} {s : State} (h : Keeps s0 s) :
    KeepsO s0 (execWcoArm output edge s) := by
  unfold execWcoArm
  repeat' first
    | with_reducible assumption
    | with_reducible apply KeepsO.next
    | with_reducible apply KeepsO.ite
    | with_reducible apply alignWco_keeps
    | with_reducible apply putF_keeps

theorem execWcoTrackAlign_keeps {s0 : State} {output : Nat} {edge : Nat} {s : State} (h : Keeps s0 s) :
    KeepsO s0 (execWcoTrackAlign output edge s) := by
  unfold execWcoTrackAlign
  repeat' first
    | with_reducible assumption
    | with_reducible apply KeepsO.next
    | with_reducible apply KeepsO.ite
    | with_reducible apply alignWco_keeps

end Sys2Proof.Machine
end

