-- ==== Sys2Proof/Laws/KeepsFwRoute.lean ====
section
/-! SUPPORT. The operations of Machine/FwRoute.lean keep the queue, the fuses and the form of the stores. -/

namespace Sys2Proof.Machine

theorem fwAshRead_keeps {s0 : State} {w : Nat} {s : State} (h : Keeps s0 s) : Keeps s0 (fwAshRead w s).2 := by
  unfold fwAshRead
  extract_lets -merge -useContext r
  have h_r : Keeps s0 r.2.2 := by
    dsimp only [r]
    repeat' first | with_reducible assumption | with_reducible apply ashReadMortar_keeps
  clear_value r
  repeat' first
    | with_reducible apply Keeps.ite_snd
    | with_reducible assumption
    | with_reducible apply Keeps.ite
    | with_reducible apply vsrLog_keeps
    | with_reducible apply putF_keeps

theorem fwAshReads_keeps {s0 : State} {w : Nat} {a0 : Nat} {a1 : State} (h : Keeps s0 a1) :
    Keeps s0 (fwAshReads w a0 a1).2 := by
  induction a0 generalizing w a1 with
  | zero => exact h
  | succ k ih =>
    unfold fwAshReads
    repeat' first | with_reducible apply ih | with_reducible assumption | with_reducible apply fwAshRead_keeps

theorem fwAshWrites_keeps {s0 : State} {w : Nat} {a0 : List Nat} {a1 : State} (h : Keeps s0 a1) :
    Keeps s0 (fwAshWrites w a0 a1) := by
  induction a0 generalizing w a1 with
  | nil => exact h
  | cons x xs ih =>
    unfold fwAshWrites
    repeat' first
      | with_reducible apply ih
      | with_reducible apply Keeps.ite
      | with_reducible assumption
      | with_reducible apply putMortar_keeps
      | with_reducible apply vsrLog_keeps
      | with_reducible apply putF_keeps

theorem freshenPage_keeps {s0 : State} {p : Nat} {active : Nat} {shadow : Nat} {s : State} (h : Keeps s0 s) :
    Keeps s0 (freshenPage p active shadow s) := by
  unfold freshenPage
  extract_lets -merge -useContext r s1 src
  have h_r : Keeps s0 r.2 := by
    dsimp only [r]
    repeat' first | with_reducible assumption | with_reducible apply fwAshReads_keeps
  have h_s1 : Keeps s0 s1 := by
    dsimp only [s1]
    repeat' first | with_reducible assumption | with_reducible apply fwAshWrites_keeps
  clear_value r s1
  repeat' first | with_reducible apply Keeps.ite | with_reducible assumption | exact rfl | with_reducible apply Keeps.upd

theorem fwParamWrite_keeps {s0 : State} {r : Sys2Proof.FwReq} {s : State} (h : Keeps s0 s) :
    KeepsM s0 (fwParamWrite r s) := by
  unfold fwParamWrite
  extract_lets -merge -useContext p
  clear_value p
  repeat' first
    | with_reducible assumption
    | with_reducible apply KeepsM.pure
    | (refine KeepsM.bind (fun (_ : Unit) hk => ?_); clear hk)
    | refine KeepsM.bind (fun _ _ => ?_)
    | with_reducible apply freshenPage_keeps
    | with_reducible apply acquire_keeps
    | with_reducible apply fwAshWrites_keeps

theorem fwParamRead_keeps {s0 : State} {r : Sys2Proof.FwReq} {s : State} (h : Keeps s0 s) : KeepsM s0 (fwParamRead r s) := by
  unfold fwParamRead
  repeat' first
    | with_reducible assumption
    | with_reducible apply KeepsM.pure
    | (refine KeepsM.bind (fun (_ : Unit) hk => ?_); clear hk)
    | refine KeepsM.bind (fun _ _ => ?_)
    | with_reducible apply fwAshReads_keeps

theorem fwRouteStage_keeps {s0 : State} {r : Sys2Proof.FwReq} {s : State} (h : Keeps s0 s) :
    KeepsM s0 (fwRouteStage r s) := by
  unfold fwRouteStage
  extract_lets -merge -useContext n es ds l
  clear_value n es ds l
  repeat' first
    | with_reducible assumption
    | with_reducible apply KeepsM.pure
    | (refine KeepsM.bind (fun (_ : Unit) hk => ?_); clear hk)
    | with_reducible apply updSeat_keeps
    | with_reducible apply acquireAll_keeps

theorem fwRouteCommit_keeps {s0 : State} {r : Sys2Proof.FwReq} {s : State} (h : Keeps s0 s) :
    KeepsM s0 (fwRouteCommit r s) := by
  unfold fwRouteCommit
  extract_lets -merge -useContext np nd pages insts route kind e t
  clear_value np nd pages insts route kind e t
  repeat' first
    | with_reducible apply Keeps.ite
    | with_reducible assumption
    | exact rfl
    | with_reducible exact KeepsM.error
    | with_reducible apply KeepsM.pure
    | (refine KeepsM.bind (fun (_ : Unit) hk => ?_); clear hk)
    | refine KeepsM.bind (fun _ _ => ?_)
    | with_reducible apply arm_keeps
    | with_reducible apply acquireAll_keeps
    | with_reducible apply updSeat_keeps
    | with_reducible apply tagSet_keeps
    | split
    | with_reducible apply Keeps.upd

theorem fwRouteDest_keeps {s0 : State} {r : Sys2Proof.FwReq} {s : State} (h : Keeps s0 s) : KeepsM s0 (fwRouteDest r s) := by
  unfold fwRouteDest
  extract_lets -merge -useContext d v l
  clear_value d v l
  repeat' first
    | with_reducible assumption
    | with_reducible apply KeepsM.pure
    | (refine KeepsM.bind (fun (_ : Unit) hk => ?_); clear hk)
    | with_reducible apply updSeat_keeps
    | with_reducible apply acquire_keeps

theorem fwRouteSilence_keeps {s0 : State} {r : Sys2Proof.FwReq} {s : State} (h : Keeps s0 s) :
    KeepsM s0 (fwRouteSilence r s) := by
  unfold fwRouteSilence
  extract_lets -merge -useContext d
  clear_value d
  repeat' first
    | with_reducible assumption
    | with_reducible apply KeepsM.pure
    | (refine KeepsM.bind (fun (_ : Unit) hk => ?_); clear hk)
    | with_reducible apply writeSilence_keeps
    | with_reducible apply acquire_keeps

theorem fwRouteRead_keeps {s0 : State} {r : Sys2Proof.FwReq} {s : State} (h : Keeps s0 s) : KeepsM s0 (fwRouteRead r s) := by
  unfold fwRouteRead
  extract_lets -merge -useContext d half all start part next
  clear_value d half all start part next
  repeat' first
    | with_reducible assumption
    | with_reducible apply KeepsM.pure
    | (refine KeepsM.bind (fun (_ : Unit) hk => ?_); clear hk)

theorem fwRouteDstat_keeps {s0 : State} {r : Sys2Proof.FwReq} {s : State} (h : Keeps s0 s) :
    KeepsM s0 (fwRouteDstat r s) := by
  unfold fwRouteDstat
  extract_lets -merge -useContext d clear v ws
  clear_value d clear v ws
  repeat' first
    | with_reducible apply Keeps.ite
    | with_reducible assumption
    | with_reducible apply KeepsM.pure
    | (refine KeepsM.bind (fun (_ : Unit) hk => ?_); clear hk)
    | with_reducible apply updDst_keeps

theorem fwRouteDiscard_keeps {s0 : State} {r : Sys2Proof.FwReq} {s : State} (h : Keeps s0 s) :
    KeepsM s0 (fwRouteDiscard r s) := by
  unfold fwRouteDiscard
  extract_lets -merge -useContext t
  clear_value t
  repeat' first
    | with_reducible assumption
    | with_reducible apply KeepsM.pure
    | (refine KeepsM.bind (fun (_ : Unit) hk => ?_); clear hk)
    | with_reducible apply updSeat_keeps

theorem fwDynStage_keeps {s0 : State} {r : Sys2Proof.FwReq} {s : State} (h : Keeps s0 s) : KeepsM s0 (fwDynStage r s) := by
  unfold fwDynStage
  extract_lets -merge -useContext i rc s1 src
  have h_s1 : Keeps s0 s1 := by
    dsimp only [s1]
    repeat' first | with_reducible assumption | with_reducible apply acquire_keeps
  clear_value i rc s1
  repeat' first
    | with_reducible assumption
    | exact rfl
    | with_reducible apply KeepsM.pure
    | (refine KeepsM.bind (fun (_ : Unit) hk => ?_); clear hk)
    | with_reducible apply Keeps.upd

theorem fwDynRead_keeps {s0 : State} {r : Sys2Proof.FwReq} {s : State} (h : Keeps s0 s) : KeepsM s0 (fwDynRead r s) := by
  unfold fwDynRead
  extract_lets -merge -useContext i
  clear_value i
  repeat' first
    | with_reducible assumption
    | with_reducible apply KeepsM.pure
    | (refine KeepsM.bind (fun (_ : Unit) hk => ?_); clear hk)

theorem execParamWrite_keeps {s0 : State} {r : Sys2Proof.FwReq} {s : State} (h : Keeps s0 s) :
    KeepsO s0 (execParamWrite r s) := by
  unfold execParamWrite
  repeat' first
    | with_reducible assumption
    | with_reducible exact Keeps.refl _
    | with_reducible apply fwRow_keeps
    | with_reducible apply fwParamWrite_keeps
    | intro _

theorem execParamRead_keeps {s0 : State} {r : Sys2Proof.FwReq} {s : State} (h : Keeps s0 s) :
    KeepsO s0 (execParamRead r s) := by
  unfold execParamRead
  repeat' first
    | with_reducible assumption
    | with_reducible exact Keeps.refl _
    | with_reducible apply fwRow_keeps
    | with_reducible apply fwParamRead_keeps
    | intro _

theorem execRouteStage_keeps {s0 : State} {r : Sys2Proof.FwReq} {s : State} (h : Keeps s0 s) :
    KeepsO s0 (execRouteStage r s) := by
  unfold execRouteStage
  repeat' first
    | with_reducible assumption
    | with_reducible exact Keeps.refl _
    | with_reducible apply fwRow_keeps
    | with_reducible apply fwRouteStage_keeps
    | intro _

theorem execRouteCommit_keeps {s0 : State} {r : Sys2Proof.FwReq} {s : State} (h : Keeps s0 s) :
    KeepsO s0 (execRouteCommit r s) := by
  unfold execRouteCommit
  repeat' first
    | with_reducible assumption
    | with_reducible exact Keeps.refl _
    | with_reducible apply fwRow_keeps
    | with_reducible apply fwRouteCommit_keeps
    | intro _

theorem execRouteDest_keeps {s0 : State} {r : Sys2Proof.FwReq} {s : State} (h : Keeps s0 s) :
    KeepsO s0 (execRouteDest r s) := by
  unfold execRouteDest
  repeat' first
    | with_reducible assumption
    | with_reducible exact Keeps.refl _
    | with_reducible apply fwRow_keeps
    | with_reducible apply fwRouteDest_keeps
    | intro _

theorem execRouteSilence_keeps {s0 : State} {r : Sys2Proof.FwReq} {s : State} (h : Keeps s0 s) :
    KeepsO s0 (execRouteSilence r s) := by
  unfold execRouteSilence
  repeat' first
    | with_reducible assumption
    | with_reducible exact Keeps.refl _
    | with_reducible apply fwRow_keeps
    | with_reducible apply fwRouteSilence_keeps
    | intro _

theorem execRouteRead_keeps {s0 : State} {r : Sys2Proof.FwReq} {s : State} (h : Keeps s0 s) :
    KeepsO s0 (execRouteRead r s) := by
  unfold execRouteRead
  repeat' first
    | with_reducible assumption
    | with_reducible exact Keeps.refl _
    | with_reducible apply fwRow_keeps
    | with_reducible apply fwRouteRead_keeps
    | intro _

theorem execRouteDstat_keeps {s0 : State} {r : Sys2Proof.FwReq} {s : State} (h : Keeps s0 s) :
    KeepsO s0 (execRouteDstat r s) := by
  unfold execRouteDstat
  repeat' first
    | with_reducible assumption
    | with_reducible exact Keeps.refl _
    | with_reducible apply fwRow_keeps
    | with_reducible apply fwRouteDstat_keeps
    | intro _

theorem execRouteDiscard_keeps {s0 : State} {r : Sys2Proof.FwReq} {s : State} (h : Keeps s0 s) :
    KeepsO s0 (execRouteDiscard r s) := by
  unfold execRouteDiscard
  repeat' first
    | with_reducible assumption
    | with_reducible exact Keeps.refl _
    | with_reducible apply fwRow_keeps
    | with_reducible apply fwRouteDiscard_keeps
    | intro _

theorem execDynStage_keeps {s0 : State} {r : Sys2Proof.FwReq} {s : State} (h : Keeps s0 s) :
    KeepsO s0 (execDynStage r s) := by
  unfold execDynStage
  repeat' first
    | with_reducible assumption
    | with_reducible exact Keeps.refl _
    | with_reducible apply fwRow_keeps
    | with_reducible apply fwDynStage_keeps
    | intro _

theorem execDynRead_keeps {s0 : State} {r : Sys2Proof.FwReq} {s : State} (h : Keeps s0 s) : KeepsO s0 (execDynRead r s) := by
  unfold execDynRead
  repeat' first
    | with_reducible assumption
    | with_reducible exact Keeps.refl _
    | with_reducible apply fwRow_keeps
    | with_reducible apply fwDynRead_keeps
    | intro _

end Sys2Proof.Machine
end

