-- ==== Sys2Proof/Laws/KeepsTile.lean ====
section
/-! SUPPORT. The operations of Machine/Tile.lean keep the queue, the fuses and the form of the stores. -/

namespace Sys2Proof.Machine

theorem recordFault_keeps {s0 : State} {n : Nat} {cause : Nat} {pc : Nat} {cyc : Nat} {s : State} (h : Keeps s0 s) :
    Keeps s0 (recordFault n cause pc cyc s) := by
  unfold recordFault
  repeat' first | with_reducible assumption | with_reducible apply putFs_keeps

theorem tileFault_keeps {s0 : State} {n cause pc cyc : Nat} {s : State} (h : Keeps s0 s) :
    Keeps s0 (tileFault n cause pc cyc s) := by
  unfold tileFault
  refine watchLife_keeps (fun x => ?_) h
  have h1 : Keeps x (if (getF x (TILE_STAT_STATE n) == 3) = true then
        if getF x (TILE_FAULT_PC n) = pc ∧ getF x (TILE_FAULT_CYCLE n) = cyc ∧ cause < getF x (TILE_FAULT_CAUSE n) then
          recordFault n cause pc cyc x
        else x
      else putF (TILE_STAT_STATE n) 3 (recordFault n cause pc cyc x)) :=
    Keeps.ite (Keeps.ite (recordFault_keeps (Keeps.refl _)) (Keeps.refl _)) (putF_keeps (recordFault_keeps (Keeps.refl _)))
  exact Keeps.ite (selfDiag_keeps h1) (guardFault_keeps h1)

theorem faultCycle_keeps {s0 : State} {n : Nat} {f : State → State} {s : State} (hf : ∀ x, Keeps x (f x)) (h : Keeps s0 s) :
    Keeps s0 (faultCycle n f s) :=
  Keeps.ite (raiseAll_keeps (h.trans (hf s))) (h.trans (hf s))

theorem tileEccNote_keeps {s0 : State} {n : Nat} {addr : Nat} {mem : Nat} {uncorr : Bool} {s : State} (h : Keeps s0 s) :
    Keeps s0 (tileEccNote n addr mem uncorr s) := by
  unfold tileEccNote
  extract_lets -merge -useContext s1
  have h_s1 : Keeps s0 s1 := by
    dsimp only [s1]
    repeat' first | with_reducible assumption | with_reducible apply putFs_keeps
  clear_value s1
  repeat' first | with_reducible apply Keeps.ite | with_reducible assumption | with_reducible apply bump_keeps

theorem fetchWords_keeps {s0 : State} {n : Nat} {m : AMap Nat} {pc : Nat} {is : List Nat} {s : State} (h : Keeps s0 s) :
    Keeps s0 (fetchWords n m pc is s).2.2 := by
  induction is generalizing s with
  | nil => exact h
  | cons i is ih =>
    simp only [fetchWords]
    refine ih ?_
    split
    · exact h
    · dsimp only; exact tileEccNote_keeps h
    · dsimp only; exact tileEccNote_keeps h

theorem raiseCauses_keeps {s0 : State} {n : Nat} {pc : Nat} {cyc : Nat} {cs : List Nat} {s : State} (h : Keeps s0 s) :
    Keeps s0 (raiseCauses n pc cyc cs s) := by
  unfold raiseCauses
  repeat' first
    | with_reducible apply Keeps.ite
    | with_reducible assumption
    | with_reducible exact Keeps.refl _
    | with_reducible apply tileFault_keeps
    | with_reducible apply Keeps.foldl
    | intro _

theorem commitPend_sameMem (now : Nat) (t : Tile) : SameMem t (commitPend now t) := ⟨rfl, rfl, rfl⟩

theorem applyBase_sameMem (o : Option (Nat × Nat)) (t : Tile) : SameMem t (applyBase o t) := by
  cases o <;> exact ⟨rfl, rfl, rfl⟩

theorem applyLen_sameMem (o : Option (Nat × Nat)) (t : Tile) : SameMem t (applyLen o t) := by
  cases o <;> exact ⟨rfl, rfl, rfl⟩

theorem runBundle_sameMem (s : State) (n : Nat) (t : Tile) (ws : List Nat) : SameMem t (runBundle s n t ws).1 := by
  have h1 : ∀ a b l, SameMem t (applyLen a (applyBase b (setRegs l t))) := fun a b l =>
    ((show SameMem t (setRegs l t) from ⟨rfl, rfl, rfl⟩).trans (applyBase_sameMem _ _)).trans (applyLen_sameMem _ _)
  unfold runBundle
  extract_lets -merge -useContext now v l st c t1 skipPc skipIdle ends t2 t3 t4
  have ht1 : SameMem t t1 := h1 _ _ _
  clear_value t1
  have ht2 : SameMem t t2 := by
    dsimp only [t2]
    split <;> exact ht1
  clear_value t2
  have ht3 : SameMem t t3 := by
    dsimp only [t3]
    split
    · exact ht1
    · exact ht2
  clear_value t3
  exact ht3

theorem fetchWords_tiles {n : Nat} {m : AMap Nat} {pc : Nat} {is : List Nat} {s : State} :
    (fetchWords n m pc is s).2.2.tiles = s.tiles := by
  induction is generalizing s with
  | nil => rfl
  | cons i is ih =>
    simp only [fetchWords]
    rw [ih]
    split
    · rfl
    · unfold tileEccNote; rfl
    · unfold tileEccNote; rfl

theorem issueBundle_keeps {s0 : State} {n : Nat} {s : State} (h : Keeps s0 s) : Keeps s0 (issueBundle n s) := by
  unfold issueBundle
  refine faultCycle_keeps (fun x => ?_) h
  dsimp only
  split
  · exact tileFault_keeps (Keeps.upd (Keeps.refl _) rfl rfl rfl)
  · refine raiseCauses_keeps (Keeps.upd (setIf_keeps (bump_keeps (bump_keeps ?_))) rfl rfl rfl)
    have hf := fetchWords_keeps (n := n) (m := activeImem x n (commitPend (tileOf x n).cyc (tileOf x n)))
      (pc := (commitPend (tileOf x n).cyc (tileOf x n)).pc) (is := [0, 1, 2, 3]) (Keeps.refl x)
    refine updTile_keeps_of hf (fun i => ?_)
    refine (runBundle_sameMem _ _ _ _).wf ((commitPend_sameMem _ _).wf (tileOf_wf ?_ n))
    have it := i.tiles
    rw [fetchWords_tiles] at it
    exact it

end Sys2Proof.Machine
end

