-- ==== Sys2Proof/Laws/KeepsTileAcc.lean ====
section
/-! SUPPORT. The operations of Machine/TileAcc.lean keep the queue, the fuses and the form of the stores. -/

namespace Sys2Proof.Machine

theorem readDmem_keeps {s0 : State} {n : Nat} {a : Nat} {s : State} (h : Keeps s0 s) : Keeps s0 (readDmem n a s).2.2 := by
  unfold readDmem
  extract_lets -merge -useContext t f
  have h_f : Keeps s0 f.2 := by
    dsimp only [f]
    repeat' first | with_reducible assumption | with_reducible apply tileEccNote_keeps | with_reducible apply takeFree_keeps
  clear_value t f
  repeat' first
    | with_reducible apply Keeps.ite_snd_snd
    | with_reducible assumption
    | with_reducible apply tileEccNote_keeps
    | with_reducible apply bump_keeps
    | split

theorem readDmemLine_keeps {s0 : State} {n : Nat} {line : Nat} {mask : Nat} {a0 : List Nat} {a1 : State} (h : Keeps s0 a1) :
    Keeps s0 (readDmemLine n line mask a0 a1).2.2 := by
  induction a0 generalizing n line mask a1 with
  | nil => exact h
  | cons x xs ih =>
    unfold readDmemLine
    repeat' first
      | with_reducible apply ih
      | with_reducible apply Keeps.ite_snd_snd
      | with_reducible assumption
      | with_reducible apply readDmem_keeps

theorem putDmem_wf {a v : Nat} {t : Tile} (h : tileWf t) : tileWf (putDmem a v t) :=
  ⟨AMap.set_wf (d := fun _ => 0) h.1 _ _, h.2⟩

theorem foldl_wf {α : Type} {f : Tile → α → Tile} {l : List α} {t : Tile} (hf : ∀ t a, tileWf t → tileWf (f t a))
    (h : tileWf t) : tileWf (l.foldl f t) := by
  induction l generalizing t with
  | nil => exact h
  | cons a l ih => exact ih (hf _ _ h)

theorem putDmemLine_wf {a mask : Nat} {vals : List Nat} {t : Tile} (h : tileWf t) : tileWf (putDmemLine a mask vals t) :=
  foldl_wf (fun _ _ h => by
    split
    · exact putDmem_wf h
    · exact h) h

theorem addPend_wf {l : List PendWrite} {t : Tile} (h : tileWf t) : tileWf (addPend l t) :=
  foldl_wf (fun _ _ h => h) h

theorem makeAcc_keeps {s0 : State} {n : Nat} {served : Bool} {a : TileAcc} {s : State} (h : Keeps s0 s) :
    Keeps s0 (makeAcc n served a s) := by
  have hp : ∀ {l : List PendWrite} {x : State}, Keeps s0 x → Keeps s0 (updTile n (addPend l) x) :=
    fun h => updTile_keeps (fun _ => addPend_wf) h
  have hfat : ∀ {b : Bool} {x : State}, Keeps s0 x → Keeps s0 (if b then tileFault n 7 a.pc a.issue x else x) :=
    fun h => Keeps.ite (tileFault_keeps h) h
  unfold makeAcc
  dsimp only
  split
  · split
    · exact hfat (hp (readDmemLine_keeps h))
    · exact hp h
  · split
    · exact hfat (hp (readDmem_keeps h))
    · exact hp h
  · split
    · split
      · exact h
      · exact hfat (hp (readDmem_keeps h))
    · exact hp h
  · refine Keeps.ite (hp ?_) (tileFault_keeps (hp h))
    split
    · exact readChained_keeps h
    · exact h
  · split
    · exact hfat (updTile_keeps (fun _ h => h) (ashReadLine_keeps h))
    · exact tileFault_keeps (updTile_keeps (fun _ h => h) h)
    · exact guardFault_keeps (updTile_keeps (fun _ h => h) h)
  · split
    · exact updTile_keeps (fun _ => putDmemLine_wf) h
    · exact h
  · split
    · exact updTile_keeps (fun _ => putDmem_wf) h
    · exact h
  · split
    · exact writeLine_keeps h
    · exact tileFault_keeps h
  · split
    · exact hfat (updTile_keeps (fun _ h => h) (readDmemLine_keeps h))
    · exact updTile_keeps (fun _ h => h) h
  · split
    · exact ashWriteLine_keeps h
    · exact tileFault_keeps h
    · exact guardFault_keeps h
  · exact tileFault_keeps h

theorem makeAccs_keeps {s0 : State} {n : Nat} {l : List TileAcc} {busy : List Nat} {blamed : Bool} {s : State}
    (h : Keeps s0 s) : Keeps s0 (makeAccs n l busy blamed s) := by
  induction l generalizing busy blamed s with
  | nil => exact h
  | cons a as ih =>
    unfold makeAccs
    split
    · exact ih (makeAcc_keeps h)
    · split
      · refine ih ?_
        split
        · exact makeAcc_keeps h
        · exact tileFault_keeps (makeAcc_keeps h)
      · exact ih (makeAcc_keeps h)

theorem tileCycle_keeps {s0 : State} {n c : Nat} {s : State} (h : Keeps s0 s) : Keeps s0 (tileCycle n c s) := by
  unfold tileCycle
  refine faultCycle_keeps (fun x => ?_) h
  refine makeAccs_keeps (updTile_keeps_of (Keeps.upd (Keeps.refl x) rfl rfl rfl) (fun i => ?_))
  exact foldl_wf (fun _ _ h => putDmemLine_wf h) (SameMem.wf ⟨rfl, rfl, rfl⟩ (tileOf_wf i.tiles n))

theorem drainTo_keeps {s0 : State} {n : Nat} {limit : Nat} {a0 : Nat} {a1 : State} (h : Keeps s0 a1) :
    Keeps s0 (drainTo n limit a0 a1) := by
  induction a0 generalizing n limit a1 with
  | zero => exact h
  | succ k ih =>
    unfold drainTo
    repeat' first
      | with_reducible apply ih
      | with_reducible apply Keeps.ite
      | with_reducible assumption
      | with_reducible apply tileCycle_keeps
      | split

theorem execTileBundleIssue_keeps {s0 : State} {tile : Nat} {s : State} (h : Keeps s0 s) :
    KeepsO s0 (execTileBundleIssue tile s) := by
  unfold execTileBundleIssue
  extract_lets -merge -useContext t s1
  have h_s1 : Keeps s0 s1 := by
    dsimp only [s1]
    repeat' first | with_reducible apply Keeps.ite | with_reducible assumption | with_reducible apply drainTo_keeps
  clear_value t s1
  repeat' first
    | with_reducible assumption
    | with_reducible apply KeepsO.next
    | with_reducible apply KeepsO.ite
    | with_reducible apply issueBundle_keeps

theorem execTileBankAccess_keeps {s0 : State} {tile : Nat} {s : State} (h : Keeps s0 s) :
    KeepsO s0 (execTileBankAccess tile s) := by
  unfold execTileBankAccess
  repeat' first
    | with_reducible assumption
    | with_reducible apply KeepsO.next
    | with_reducible apply KeepsO.ite
    | with_reducible apply drainTo_keeps
    | split

theorem execAshlarLanding_keeps {s0 : State} {tile : Nat} {s : State} (h : Keeps s0 s) :
    KeepsO s0 (execAshlarLanding tile s) := by
  unfold execAshlarLanding
  repeat' first
    | with_reducible assumption
    | with_reducible apply KeepsO.next
    | with_reducible apply KeepsO.ite
    | with_reducible apply drainTo_keeps
    | split

theorem clearFault_keeps {s0 : State} {n : Nat} {s : State} (h : Keeps s0 s) : Keeps s0 (clearFault n s) := by
  unfold clearFault
  repeat' first | with_reducible assumption | with_reducible apply putFs_keeps

theorem tileArm_keeps {s0 : State} {n : Nat} {s : State} (h : Keeps s0 s) : Keeps s0 (tileArm n s) := by
  unfold tileArm
  repeat' first
    | with_reducible apply Keeps.ite
    | with_reducible assumption
    | with_reducible apply clearFault_keeps
    | with_reducible apply putF_keeps

theorem tileStop_keeps {s0 : State} {n : Nat} {s : State} (h : Keeps s0 s) : Keeps s0 (tileStop n s) := by
  unfold tileStop
  repeat' first
    | with_reducible apply Keeps.ite
    | with_reducible assumption
    | with_reducible exact Keeps.refl _
    | exact SameMem.wf ⟨rfl, rfl, rfl⟩ ‹_›
    | with_reducible apply watchLife_keeps
    | with_reducible apply putF_keeps
    | with_reducible apply updTile_keeps
    | with_reducible apply clearFault_keeps
    | split
    | intro _

theorem execTileArm_keeps {s0 : State} {tile : Nat} {s : State} (h : Keeps s0 s) : KeepsO s0 (execTileArm tile s) := by
  unfold execTileArm
  repeat' first | with_reducible assumption | with_reducible apply KeepsO.next | with_reducible apply tileArm_keeps

theorem execTileStop_keeps {s0 : State} {tile : Nat} {s : State} (h : Keeps s0 s) : KeepsO s0 (execTileStop tile s) := by
  unfold execTileStop
  repeat' first | with_reducible assumption | with_reducible apply KeepsO.next | with_reducible apply tileStop_keeps

theorem tileCourseEnd_keeps {s0 : State} {n : Nat} {s : State} (h : Keeps s0 s) : Keeps s0 (tileCourseEnd n s) := by
  unfold tileCourseEnd
  extract_lets -merge -useContext len s1 t late s2
  have h_s1 : Keeps s0 s1 := by
    dsimp only [s1]
    repeat' first | with_reducible assumption | with_reducible apply drainTo_keeps
  have h_s2 : Keeps s0 s2 := by
    dsimp only [s2]
    repeat' first
      | with_reducible assumption
      | with_reducible apply putB_keeps
      | with_reducible apply updTile_keeps
      | intro _
  clear_value len s1 t late s2
  repeat' first
    | with_reducible assumption
    | with_reducible exact Keeps.refl _
    | with_reducible apply faultCycle_keeps
    | with_reducible apply tileFault_keeps
    | split
    | intro _

theorem tileRestart_keeps {s0 : State} {n : Nat} {s : State} (h : Keeps s0 s) : Keeps s0 (tileRestart n s) := by
  unfold tileRestart
  repeat' first | with_reducible assumption | with_reducible apply updTile_keeps | intro _

theorem tileBoundaryStop_keeps {s0 : State} {n : Nat} {s : State} (h : Keeps s0 s) : Keeps s0 (tileBoundaryStop n s) := by
  unfold tileBoundaryStop
  repeat' first
    | with_reducible apply Keeps.ite
    | with_reducible assumption
    | with_reducible exact Keeps.refl _
    | exact SameMem.wf ⟨rfl, rfl, rfl⟩ ‹_›
    | with_reducible apply watchLife_keeps
    | with_reducible apply updTile_keeps
    | with_reducible apply putF_keeps
    | intro _

end Sys2Proof.Machine
end

