-- ==== Sys2Proof/Laws/KeepsTileWin.lean ====
section
/-! SUPPORT. The operations of Machine/TileWin.lean keep the queue, the fuses and the form of the stores. -/

namespace Sys2Proof.Machine

theorem viewWrite_sameMem (off v : Nat) (t : Tile) : SameMem t (viewWrite off v t) := by
  unfold viewWrite
  split <;> exact ⟨rfl, rfl, rfl⟩

theorem dmemWrite_wf {w v : Nat} {t : Tile} (h : tileWf t) : tileWf (dmemWrite w v t) :=
  ⟨AMap.set_wf (d := fun _ => 0) h.1 _ _, h.2⟩

theorem onShadow_wf {act : Bool} {f : AMap Nat → AMap Nat} {t : Tile} (hf : ∀ m, memWf m → memWf (f m)) (h : tileWf t) :
    tileWf (onShadow act f t) := by
  unfold onShadow
  split
  · exact ⟨h.1, hf _ h.2.1, h.2.2⟩
  · exact ⟨h.1, h.2.1, hf _ h.2.2⟩

theorem progMem_wf (ws : List Nat) : memWf (progMem ws) := by
  refine (AMap.wf_iff _ _).2 ⟨?_, ?_⟩
  · unfold progMem
    refine List.Pairwise.filterMap _ (R := fun a b => a.1 < b.1) ?_ ?_
    · intro a b hab p hp q hq
      simp only [Option.ite_none_left_eq_some, Option.some.injEq] at hp hq
      obtain ⟨-, rfl⟩ := hp
      obtain ⟨-, rfl⟩ := hq
      exact hab
    · have hz : (((List.range ws.length).zip ws).map Prod.fst).Pairwise (· < ·) := by
        rw [List.map_fst_zip (by simp)]
        exact List.pairwise_lt_range
      exact List.pairwise_map.1 hz
  · intro p hp
    unfold progMem at hp
    obtain ⟨q, -, hq⟩ := List.mem_filterMap.1 hp
    simp only [Option.ite_none_left_eq_some, Option.some.injEq] at hq
    obtain ⟨hne, rfl⟩ := hq
    exact hne

theorem applyInit_keeps {s0 : State} {x : InitRec} {s : State} (h : Keeps s0 s) : Keeps s0 (applyInit x s) := by
  unfold applyInit
  refine Keeps.foldl (fun y k => ?_) h
  dsimp only
  split
  · exact updTile_keeps (fun _ => dmemWrite_wf) (Keeps.refl _)
  · exact updTile_keeps (fun _ => (viewWrite_sameMem _ _ _).wf) (Keeps.refl _)
  · exact putAsh_keeps (Keeps.refl _)

theorem winEcc_keeps {s0 : State} {n : Nat} {addr : Nat} {mem : Nat} {code : Nat} {s : State} (h : Keeps s0 s) :
    Keeps s0 (winEcc n addr mem code s).2 := by
  unfold winEcc
  repeat' first | with_reducible assumption | with_reducible apply tileEccNote_keeps | split

theorem tileWinRead_keeps {s0 : State} {n : Nat} {off : Nat} {s : State} (h : Keeps s0 s) :
    Keeps s0 (tileWinRead n off s).2 := by
  unfold tileWinRead
  extract_lets -merge -useContext t act
  clear_value t act
  repeat' first | with_reducible apply Keeps.ite_snd | with_reducible assumption | with_reducible apply winEcc_keeps

theorem tileWinWrite_keeps {s0 : State} {n off v : Nat} {s : State} (h : Keeps s0 s) :
    Keeps s0 (tileWinWrite n off v s).2 := by
  have hs : ∀ {k w : Nat} (m : AMap Nat), memWf m → memWf (m.set k w 0) :=
    fun m hm => AMap.set_wf (d := fun _ => 0) hm _ _
  unfold tileWinWrite
  dsimp only
  repeat' apply Keeps.ite_snd
  · exact updTile_keeps (fun _ => onShadow_wf hs) h
  · exact h
  · exact putF_keeps h
  · exact updTile_keeps (fun _ => onShadow_wf hs) h
  · exact h
  · exact updTile_keeps (fun _ => dmemWrite_wf) h
  · exact h
  · exact updTile_keeps (fun _ => (viewWrite_sameMem _ _ _).wf) h
  · exact h
  · exact h

end Sys2Proof.Machine
end

