-- ==== Sys2Proof/Laws/KeepsVerify.lean ====
section
/-! SUPPORT. The operations of Machine/Verify.lean keep the queue, the fuses and the form of the stores. -/

namespace Sys2Proof.Machine

theorem scratch_keeps {s0 : State} {img : Img} {s : State} (h : Keeps s0 s) : Keeps s0 (scratch img s) := by
  unfold scratch
  extract_lets -merge -useContext src sc s1 s2
  have h_sc : Keeps s0 sc := h.upd_stores (fun i =>
    ⟨List.Pairwise.nil, rfl, i.wram, i.flash, fun _ hp => absurd hp (by simp)⟩)
  have h_s2 : Keeps s0 s2 := Keeps.foldl (fun _ _ => applyInit_keeps (Keeps.refl _)) (putFs_keeps h_sc)
  clear_value s2
  refine Keeps.foldl (fun x p => Keeps.foldl (fun y g => ?_) ?_) h_s2
  · dsimp only
    split
    · exact putFs_keeps (Keeps.refl _)
    · exact Keeps.refl _
  · exact putF_keeps (updTile_keeps (fun _ w => ⟨w.1, progMem_wf _, w.2.2⟩) (Keeps.refl _))

theorem forceCount_keeps {s0 : State} {n : Nat} {p : List Nat} {cs : Counts} {s : State} (h : Keeps s0 s) :
    Keeps s0 (forceCount n p cs s) := by
  unfold forceCount
  extract_lets -merge -useContext b
  clear_value b
  repeat' first | with_reducible assumption | with_reducible apply updTile_keeps | split | intro _

end Sys2Proof.Machine
end

