-- ==== Sys2Proof/Laws/KeepsFwPort.lean ====
section
/-! SUPPORT. The operations of Machine/FwPort.lean keep the queue, the fuses and the form of the stores. -/

namespace Sys2Proof.Machine

theorem portBatch_keeps {s0 : State} {s : State} {r : Sys2Proof.FwReq} {t : Nat} {g : Option Nat} {l : List (Fld × Nat)}
    (h : Keeps s0 s) : KeepsM s0 (portBatch s r t g l) := by
  unfold portBatch
  extract_lets -merge -useContext s1 l_1
  have h_s1 : Keeps s0 s1 := by
    dsimp only [s1]
    repeat' first | with_reducible assumption | with_reducible apply putFs_keeps
  clear_value s1 l_1
  repeat' first
    | with_reducible assumption
    | with_reducible exact Keeps.refl _
    | with_reducible apply putFs_keeps
    | with_reducible apply optionalBatch_keeps
    | intro _

theorem fwPortGroup_keeps {s0 : State} {r : Sys2Proof.FwReq} {s : State} (h : Keeps s0 s) : KeepsM s0 (fwPortGroup r s) := by
  unfold fwPortGroup
  extract_lets -merge -useContext g
  clear_value g
  repeat' first
    | with_reducible assumption
    | with_reducible apply KeepsM.pure
    | refine KeepsM.bindK ?_ (fun _ _ => ?_)
    | (refine KeepsM.bind (fun (_ : Unit) hk => ?_); clear hk)
    | with_reducible apply portBatch_keeps
    | with_reducible apply acquire_keeps

theorem fwPortLane_keeps {s0 : State} {r : Sys2Proof.FwReq} {s : State} (h : Keeps s0 s) : KeepsM s0 (fwPortLane r s) := by
  unfold fwPortLane
  extract_lets -merge -useContext n a useA out
  clear_value n a useA out
  repeat' first
    | with_reducible apply Keeps.ite
    | with_reducible assumption
    | with_reducible apply KeepsM.pure
    | refine KeepsM.bindK ?_ (fun _ _ => ?_)
    | (refine KeepsM.bind (fun (_ : Unit) hk => ?_); clear hk)
    | with_reducible apply portBatch_keeps
    | with_reducible apply acquire_keeps

theorem fwPortAesrx_keeps {s0 : State} {r : Sys2Proof.FwReq} {s : State} (h : Keeps s0 s) : KeepsM s0 (fwPortAesrx r s) := by
  unfold fwPortAesrx
  extract_lets -merge -useContext n a useA slot
  clear_value n a useA slot
  repeat' first
    | with_reducible apply Keeps.ite
    | with_reducible assumption
    | with_reducible apply KeepsM.pure
    | refine KeepsM.bindK ?_ (fun _ _ => ?_)
    | (refine KeepsM.bind (fun (_ : Unit) hk => ?_); clear hk)
    | with_reducible apply portBatch_keeps
    | with_reducible apply acquire_keeps

theorem fwPortAestx_keeps {s0 : State} {r : Sys2Proof.FwReq} {s : State} (h : Keeps s0 s) : KeepsM s0 (fwPortAestx r s) := by
  unfold fwPortAestx
  extract_lets -merge -useContext n a follow slot
  clear_value n a follow slot
  repeat' first
    | with_reducible apply Keeps.ite
    | with_reducible assumption
    | with_reducible apply KeepsM.pure
    | refine KeepsM.bindK ?_ (fun _ _ => ?_)
    | (refine KeepsM.bind (fun (_ : Unit) hk => ?_); clear hk)
    | with_reducible apply portBatch_keeps
    | with_reducible apply acquire_keeps

theorem fwPortCstat_keeps {s0 : State} {r : Sys2Proof.FwReq} {s : State} (h : Keeps s0 s) : KeepsM s0 (fwPortCstat r s) := by
  unfold fwPortCstat
  extract_lets -merge -useContext n k ch v s1
  have h_s1 : Keeps s0 s1 := by
    dsimp only [s1]
    repeat' first | with_reducible assumption | with_reducible apply updAes_keeps | with_reducible apply acquire_keeps
  clear_value n k ch v s1
  repeat' first
    | with_reducible apply Keeps.ite
    | with_reducible assumption
    | with_reducible apply KeepsM.pure
    | with_reducible apply KeepsM.ite
    | (refine KeepsM.bind (fun (_ : Unit) hk => ?_); clear hk)
    | with_reducible apply txCommit_keeps

theorem fwPortAsrc_keeps {s0 : State} {r : Sys2Proof.FwReq} {s : State} (h : Keeps s0 s) : KeepsM s0 (fwPortAsrc r s) := by
  unfold fwPortAsrc
  extract_lets -merge -useContext i
  clear_value i
  repeat' first
    | with_reducible assumption
    | with_reducible apply KeepsM.pure
    | refine KeepsM.bindK ?_ (fun _ _ => ?_)
    | (refine KeepsM.bind (fun (_ : Unit) hk => ?_); clear hk)
    | with_reducible apply portBatch_keeps
    | with_reducible apply acquire_keeps

theorem fwPortOuten_keeps {s0 : State} {r : Sys2Proof.FwReq} {s : State} (h : Keeps s0 s) : KeepsM s0 (fwPortOuten r s) := by
  unfold fwPortOuten
  extract_lets -merge -useContext lanes old
  clear_value lanes old
  repeat' first
    | with_reducible assumption
    | exact rfl
    | with_reducible apply KeepsM.pure
    | refine KeepsM.bindK ?_ (fun _ _ => ?_)
    | (refine KeepsM.bind (fun (_ : Unit) hk => ?_); clear hk)
    | with_reducible apply portBatch_keeps
    | with_reducible apply Keeps.upd

theorem fwPortStatus_keeps {s0 : State} {r : Sys2Proof.FwReq} {s : State} (h : Keeps s0 s) :
    KeepsM s0 (fwPortStatus r s) := by
  unfold fwPortStatus
  extract_lets -merge -useContext k i ws
  clear_value k i ws
  repeat' first
    | with_reducible assumption
    | with_reducible apply KeepsM.pure
    | (refine KeepsM.bind (fun (_ : Unit) hk => ?_); clear hk)

theorem execPortGroup_keeps {s0 : State} {r : Sys2Proof.FwReq} {s : State} (h : Keeps s0 s) :
    KeepsO s0 (execPortGroup r s) := by
  unfold execPortGroup
  repeat' first
    | with_reducible assumption
    | with_reducible exact Keeps.refl _
    | with_reducible apply fwRow_keeps
    | with_reducible apply fwPortGroup_keeps
    | intro _

theorem execPortLane_keeps {s0 : State} {r : Sys2Proof.FwReq} {s : State} (h : Keeps s0 s) :
    KeepsO s0 (execPortLane r s) := by
  unfold execPortLane
  repeat' first
    | with_reducible assumption
    | with_reducible exact Keeps.refl _
    | with_reducible apply fwRow_keeps
    | with_reducible apply fwPortLane_keeps
    | intro _

theorem execPortAesrx_keeps {s0 : State} {r : Sys2Proof.FwReq} {s : State} (h : Keeps s0 s) :
    KeepsO s0 (execPortAesrx r s) := by
  unfold execPortAesrx
  repeat' first
    | with_reducible assumption
    | with_reducible exact Keeps.refl _
    | with_reducible apply fwRow_keeps
    | with_reducible apply fwPortAesrx_keeps
    | intro _

theorem execPortAestx_keeps {s0 : State} {r : Sys2Proof.FwReq} {s : State} (h : Keeps s0 s) :
    KeepsO s0 (execPortAestx r s) := by
  unfold execPortAestx
  repeat' first
    | with_reducible assumption
    | with_reducible exact Keeps.refl _
    | with_reducible apply fwRow_keeps
    | with_reducible apply fwPortAestx_keeps
    | intro _

theorem execPortCstat_keeps {s0 : State} {r : Sys2Proof.FwReq} {s : State} (h : Keeps s0 s) :
    KeepsO s0 (execPortCstat r s) := by
  unfold execPortCstat
  repeat' first
    | with_reducible assumption
    | with_reducible exact Keeps.refl _
    | with_reducible apply fwRow_keeps
    | with_reducible apply fwPortCstat_keeps
    | intro _

theorem execPortAsrc_keeps {s0 : State} {r : Sys2Proof.FwReq} {s : State} (h : Keeps s0 s) :
    KeepsO s0 (execPortAsrc r s) := by
  unfold execPortAsrc
  repeat' first
    | with_reducible assumption
    | with_reducible exact Keeps.refl _
    | with_reducible apply fwRow_keeps
    | with_reducible apply fwPortAsrc_keeps
    | intro _

theorem execPortOuten_keeps {s0 : State} {r : Sys2Proof.FwReq} {s : State} (h : Keeps s0 s) :
    KeepsO s0 (execPortOuten r s) := by
  unfold execPortOuten
  repeat' first
    | with_reducible assumption
    | with_reducible exact Keeps.refl _
    | with_reducible apply fwRow_keeps
    | with_reducible apply fwPortOuten_keeps
    | intro _

theorem execPortStatus_keeps {s0 : State} {r : Sys2Proof.FwReq} {s : State} (h : Keeps s0 s) :
    KeepsO s0 (execPortStatus r s) := by
  unfold execPortStatus
  repeat' first
    | with_reducible assumption
    | with_reducible exact Keeps.refl _
    | with_reducible apply fwRow_keeps
    | with_reducible apply fwPortStatus_keeps
    | intro _

end Sys2Proof.Machine
end

