-- ==== Sys2Proof/Laws/KeepsFwAmp.lean ====
section
/-! SUPPORT. The operations of Machine/FwAmp.lean keep the queue, the fuses and the form of the stores. -/

namespace Sys2Proof.Machine

theorem fwAmpChannel_keeps {s0 : State} {r : Sys2Proof.FwReq} {s : State} (h : Keeps s0 s) :
    KeepsM s0 (fwAmpChannel r s) := by
  unfold fwAmpChannel
  extract_lets -merge -useContext c en slot env l s1
  have h_s1 : Keeps s0 s1 := by
    dsimp only [s1]
    repeat' first | with_reducible assumption | with_reducible apply putFs_keeps
  clear_value c en slot env l s1
  repeat' first
    | with_reducible assumption
    | with_reducible apply KeepsM.pure
    | refine KeepsM.bindK ?_ (fun _ _ => ?_)
    | (refine KeepsM.bind (fun (_ : Unit) hk => ?_); clear hk)
    | with_reducible apply portBatch_keeps
    | with_reducible apply acquire_keeps

theorem fwAmpGroup_keeps {s0 : State} {r : Sys2Proof.FwReq} {s : State} (h : Keeps s0 s) : KeepsM s0 (fwAmpGroup r s) := by
  unfold fwAmpGroup
  extract_lets -merge -useContext g
  clear_value g
  repeat' first
    | with_reducible assumption
    | with_reducible apply KeepsM.pure
    | refine KeepsM.bindK ?_ (fun _ _ => ?_)
    | (refine KeepsM.bind (fun (_ : Unit) hk => ?_); clear hk)
    | with_reducible apply portBatch_keeps
    | with_reducible apply acquire_keeps

theorem fwAmpBus_keeps {s0 : State} {r : Sys2Proof.FwReq} {s : State} (h : Keeps s0 s) : KeepsM s0 (fwAmpBus r s) := by
  unfold fwAmpBus
  extract_lets -merge -useContext s1
  have h_s1 : Keeps s0 s1 := by
    dsimp only [s1]
    repeat' first | with_reducible assumption | with_reducible apply putFs_keeps
  clear_value s1
  repeat' first
    | with_reducible assumption
    | with_reducible apply KeepsM.pure
    | (refine KeepsM.bind (fun (_ : Unit) hk => ?_); clear hk)
    | with_reducible apply acquire_keeps
    | with_reducible apply busRewritten_keeps

theorem fwAmpOuten_keeps {s0 : State} {r : Sys2Proof.FwReq} {s : State} (h : Keeps s0 s) : KeepsM s0 (fwAmpOuten r s) := by
  unfold fwAmpOuten
  repeat' first
    | with_reducible assumption
    | exact rfl
    | with_reducible apply KeepsM.pure
    | refine KeepsM.bindK ?_ (fun _ _ => ?_)
    | (refine KeepsM.bind (fun (_ : Unit) hk => ?_); clear hk)
    | with_reducible apply portBatch_keeps
    | with_reducible apply Keeps.upd

theorem fwAmpClear_keeps {s0 : State} {r : Sys2Proof.FwReq} {s : State} (h : Keeps s0 s) : KeepsM s0 (fwAmpClear r s) := by
  unfold fwAmpClear
  extract_lets -merge -useContext cs
  clear_value cs
  repeat' first
    | with_reducible assumption
    | with_reducible apply KeepsM.pure
    | (refine KeepsM.bind (fun (_ : Unit) hk => ?_); clear hk)
    | with_reducible apply ampClear_keeps

theorem fwAmpStatus_keeps {s0 : State} {r : Sys2Proof.FwReq} {s : State} (h : Keeps s0 s) : KeepsM s0 (fwAmpStatus r s) := by
  unfold fwAmpStatus
  extract_lets -merge -useContext i m raw t
  clear_value i m t
  repeat' first
    | with_reducible assumption
    | with_reducible apply KeepsM.pure
    | with_reducible apply KeepsM.ite
    | (refine KeepsM.bind (fun (_ : Unit) hk => ?_); clear hk)
    | with_reducible apply putFs_keeps

theorem execAmpChannel_keeps {s0 : State} {r : Sys2Proof.FwReq} {s : State} (h : Keeps s0 s) :
    KeepsO s0 (execAmpChannel r s) := by
  unfold execAmpChannel
  repeat' first
    | with_reducible assumption
    | with_reducible exact Keeps.refl _
    | with_reducible apply fwRow_keeps
    | with_reducible apply fwAmpChannel_keeps
    | intro _

theorem execAmpGroup_keeps {s0 : State} {r : Sys2Proof.FwReq} {s : State} (h : Keeps s0 s) :
    KeepsO s0 (execAmpGroup r s) := by
  unfold execAmpGroup
  repeat' first
    | with_reducible assumption
    | with_reducible exact Keeps.refl _
    | with_reducible apply fwRow_keeps
    | with_reducible apply fwAmpGroup_keeps
    | intro _

theorem execAmpBus_keeps {s0 : State} {r : Sys2Proof.FwReq} {s : State} (h : Keeps s0 s) : KeepsO s0 (execAmpBus r s) := by
  unfold execAmpBus
  repeat' first
    | with_reducible assumption
    | with_reducible exact Keeps.refl _
    | with_reducible apply fwRow_keeps
    | with_reducible apply fwAmpBus_keeps
    | intro _

theorem execAmpOuten_keeps {s0 : State} {r : Sys2Proof.FwReq} {s : State} (h : Keeps s0 s) :
    KeepsO s0 (execAmpOuten r s) := by
  unfold execAmpOuten
  repeat' first
    | with_reducible assumption
    | with_reducible exact Keeps.refl _
    | with_reducible apply fwRow_keeps
    | with_reducible apply fwAmpOuten_keeps
    | intro _

theorem execAmpClear_keeps {s0 : State} {r : Sys2Proof.FwReq} {s : State} (h : Keeps s0 s) :
    KeepsO s0 (execAmpClear r s) := by
  unfold execAmpClear
  repeat' first
    | with_reducible assumption
    | with_reducible exact Keeps.refl _
    | with_reducible apply fwRow_keeps
    | with_reducible apply fwAmpClear_keeps
    | intro _

theorem execAmpStatus_keeps {s0 : State} {r : Sys2Proof.FwReq} {s : State} (h : Keeps s0 s) :
    KeepsO s0 (execAmpStatus r s) := by
  unfold execAmpStatus
  repeat' first
    | with_reducible assumption
    | with_reducible exact Keeps.refl _
    | with_reducible apply fwRow_keeps
    | with_reducible apply fwAmpStatus_keeps
    | intro _

end Sys2Proof.Machine
end

