-- ==== Sys2Proof/Laws/KeepsFwClk.lean ====
section
/-! SUPPORT. The operations of Machine/FwClk.lean keep the queue, the fuses and the form of the stores. -/

namespace Sys2Proof.Machine

theorem fwClkRef_keeps {s0 : State} {r : Sys2Proof.FwReq} {s : State} (h : Keeps s0 s) : KeepsM s0 (fwClkRef r s) := by
  unfold fwClkRef
  extract_lets -merge -useContext k ext s1
  have h_s1 : Keeps s0 s1 := by
    dsimp only [s1]
    repeat' first | with_reducible assumption | with_reducible apply putFs_keeps | with_reducible apply acquire_keeps
  clear_value k ext s1
  repeat' first
    | with_reducible assumption
    | with_reducible apply KeepsM.pure
    | (refine KeepsM.bind (fun (_ : Unit) hk => ?_); clear hk)
    | with_reducible apply refreshClk_keeps

theorem fwClkSelect_keeps {s0 : State} {r : Sys2Proof.FwReq} {s : State} (h : Keeps s0 s) : KeepsM s0 (fwClkSelect r s) := by
  unfold fwClkSelect
  extract_lets -merge -useContext fam
  clear_value fam
  repeat' first
    | with_reducible assumption
    | with_reducible apply KeepsM.pure
    | (refine KeepsM.bind (fun (_ : Unit) hk => ?_); clear hk)
    | with_reducible apply refreshClk_keeps
    | with_reducible apply putFs_keeps
    | with_reducible apply acquire_keeps

theorem writeDpll_keeps {s0 : State} {v : Nat} {s : State} (h : Keeps s0 s) : Keeps s0 (writeDpll v s) := by
  unfold writeDpll
  extract_lets -merge -useContext s1 slew ns s2 s3
  have h_s1 : Keeps s0 s1 := by
    dsimp only [s1]
    repeat' first | with_reducible assumption | with_reducible apply putFs_keeps
  have h_s2 : Keeps s0 s2 := by
    dsimp only [s2]
    repeat' first | with_reducible apply Keeps.ite | with_reducible assumption | with_reducible apply putF_keeps
  have h_s3 : Keeps s0 s3 := by
    dsimp only [s3]
    repeat' first | with_reducible apply Keeps.ite | with_reducible assumption | with_reducible apply putF_keeps
  clear_value s1 slew ns s2 s3
  repeat' first | with_reducible assumption | with_reducible apply setSteer_keeps

theorem fwClkDpll_keeps {s0 : State} {r : Sys2Proof.FwReq} {s : State} (h : Keeps s0 s) : KeepsM s0 (fwClkDpll r s) := by
  unfold fwClkDpll
  repeat' first
    | with_reducible assumption
    | with_reducible apply KeepsM.pure
    | (refine KeepsM.bind (fun (_ : Unit) hk => ?_); clear hk)
    | with_reducible apply refreshClk_keeps
    | with_reducible apply writeDpll_keeps
    | with_reducible apply acquire_keeps

theorem fwClkFreq_keeps {s0 : State} {r : Sys2Proof.FwReq} {s : State} (h : Keeps s0 s) : KeepsM s0 (fwClkFreq r s) := by
  unfold fwClkFreq
  repeat' first
    | with_reducible assumption
    | with_reducible apply KeepsM.pure
    | (refine KeepsM.bind (fun (_ : Unit) hk => ?_); clear hk)
    | with_reducible apply writeFreq_keeps
    | with_reducible apply acquire_keeps

theorem fwClkStep_keeps {s0 : State} {r : Sys2Proof.FwReq} {s : State} (h : Keeps s0 s) : KeepsM s0 (fwClkStep r s) := by
  unfold fwClkStep
  extract_lets -merge -useContext s1
  have h_s1 : Keeps s0 s1 := by
    dsimp only [s1]
    repeat' first | with_reducible assumption | with_reducible apply phaseStep_keeps | with_reducible apply acquire_keeps
  clear_value s1
  repeat' first
    | with_reducible assumption
    | with_reducible apply KeepsM.pure
    | (refine KeepsM.bind (fun (_ : Unit) hk => ?_); clear hk)

theorem fwClkQuality_keeps {s0 : State} {r : Sys2Proof.FwReq} {s : State} (h : Keeps s0 s) :
    KeepsM s0 (fwClkQuality r s) := by
  unfold fwClkQuality
  extract_lets -merge -useContext s1 e s2
  have h_s1 : Keeps s0 s1 := by
    dsimp only [s1]
    repeat' first | with_reducible assumption | with_reducible apply putFs_keeps | with_reducible apply acquire_keeps
  have h_s2 : Keeps s0 s2 := by
    dsimp only [s2]
    repeat' first | with_reducible apply Keeps.ite | with_reducible assumption | with_reducible apply putFs_keeps
  clear_value s1 e s2
  repeat' first
    | with_reducible assumption
    | with_reducible apply KeepsM.pure
    | (refine KeepsM.bind (fun (_ : Unit) hk => ?_); clear hk)
    | with_reducible apply refreshClk_keeps
    | with_reducible apply setRatioRegs_keeps

theorem fwClkOutput_keeps {s0 : State} {r : Sys2Proof.FwReq} {s : State} (h : Keeps s0 s) : KeepsM s0 (fwClkOutput r s) := by
  unfold fwClkOutput
  extract_lets -merge -useContext s1 s2 s3
  have h_s1 : Keeps s0 s1 := by
    dsimp only [s1]
    repeat' first | with_reducible assumption | with_reducible apply putFs_keeps | with_reducible apply acquire_keeps
  have h_s2 : Keeps s0 s2 := by
    dsimp only [s2]
    repeat' first
      | with_reducible assumption
      | with_reducible exact Keeps.refl _
      | with_reducible apply putFs_keeps
      | with_reducible apply Keeps.foldl
      | intro _
  have h_s3 : Keeps s0 s3 := by
    dsimp only [s3]
    repeat' first
      | with_reducible apply Keeps.ite
      | with_reducible assumption
      | with_reducible exact Keeps.refl _
      | with_reducible apply putFs_keeps
      | with_reducible apply alignWco_keeps
      | with_reducible apply Keeps.foldl
      | intro _
  clear_value s1 s2 s3
  repeat' first
    | with_reducible assumption
    | exact rfl
    | with_reducible apply KeepsM.pure
    | (refine KeepsM.bind (fun (_ : Unit) hk => ?_); clear hk)
    | with_reducible apply Keeps.upd

theorem fwClkStatus_keeps {s0 : State} {r : Sys2Proof.FwReq} {s : State} (h : Keeps s0 s) : KeepsM s0 (fwClkStatus r s) := by
  unfold fwClkStatus
  extract_lets -merge -useContext k
  clear_value k
  repeat' first
    | with_reducible assumption
    | with_reducible apply KeepsM.pure
    | (refine KeepsM.bind (fun (_ : Unit) hk => ?_); clear hk)

theorem execClkRef_keeps {s0 : State} {r : Sys2Proof.FwReq} {s : State} (h : Keeps s0 s) : KeepsO s0 (execClkRef r s) := by
  unfold execClkRef
  repeat' first
    | with_reducible assumption
    | with_reducible exact Keeps.refl _
    | with_reducible apply fwRow_keeps
    | with_reducible apply fwClkRef_keeps
    | intro _

theorem execClkSelect_keeps {s0 : State} {r : Sys2Proof.FwReq} {s : State} (h : Keeps s0 s) :
    KeepsO s0 (execClkSelect r s) := by
  unfold execClkSelect
  repeat' first
    | with_reducible assumption
    | with_reducible exact Keeps.refl _
    | with_reducible apply fwRow_keeps
    | with_reducible apply fwClkSelect_keeps
    | intro _

theorem execClkDpll_keeps {s0 : State} {r : Sys2Proof.FwReq} {s : State} (h : Keeps s0 s) : KeepsO s0 (execClkDpll r s) := by
  unfold execClkDpll
  repeat' first
    | with_reducible assumption
    | with_reducible exact Keeps.refl _
    | with_reducible apply fwRow_keeps
    | with_reducible apply fwClkDpll_keeps
    | intro _

theorem execClkFreq_keeps {s0 : State} {r : Sys2Proof.FwReq} {s : State} (h : Keeps s0 s) : KeepsO s0 (execClkFreq r s) := by
  unfold execClkFreq
  repeat' first
    | with_reducible assumption
    | with_reducible exact Keeps.refl _
    | with_reducible apply fwRow_keeps
    | with_reducible apply fwClkFreq_keeps
    | intro _

theorem execClkStep_keeps {s0 : State} {r : Sys2Proof.FwReq} {s : State} (h : Keeps s0 s) : KeepsO s0 (execClkStep r s) := by
  unfold execClkStep
  repeat' first
    | with_reducible assumption
    | with_reducible exact Keeps.refl _
    | with_reducible apply fwRow_keeps
    | with_reducible apply fwClkStep_keeps
    | intro _

theorem execClkQuality_keeps {s0 : State} {r : Sys2Proof.FwReq} {s : State} (h : Keeps s0 s) :
    KeepsO s0 (execClkQuality r s) := by
  unfold execClkQuality
  repeat' first
    | with_reducible assumption
    | with_reducible exact Keeps.refl _
    | with_reducible apply fwRow_keeps
    | with_reducible apply fwClkQuality_keeps
    | intro _

theorem execClkOutput_keeps {s0 : State} {r : Sys2Proof.FwReq} {s : State} (h : Keeps s0 s) :
    KeepsO s0 (execClkOutput r s) := by
  unfold execClkOutput
  repeat' first
    | with_reducible assumption
    | with_reducible exact Keeps.refl _
    | with_reducible apply fwRow_keeps
    | with_reducible apply fwClkOutput_keeps
    | intro _

theorem execClkStatus_keeps {s0 : State} {r : Sys2Proof.FwReq} {s : State} (h : Keeps s0 s) :
    KeepsO s0 (execClkStatus r s) := by
  unfold execClkStatus
  repeat' first
    | with_reducible assumption
    | with_reducible exact Keeps.refl _
    | with_reducible apply fwRow_keeps
    | with_reducible apply fwClkStatus_keeps
    | intro _

end Sys2Proof.Machine
end

