-- ==== Sys2Proof/Laws/KeepsStream.lean ====
section
/-! SUPPORT. The operations of Machine/Stream.lean keep the queue, the fuses and the form of the stores. -/

namespace Sys2Proof.Machine

theorem updRx_keeps {s0 : State} {i : Nat} {f : RxStr → RxStr} {s : State} (h : Keeps s0 s) : Keeps s0 (updRx i f s) := by
  unfold updRx
  extract_lets -merge -useContext src
  repeat' first | with_reducible assumption | exact rfl | with_reducible apply Keeps.upd

theorem updTx_keeps {s0 : State} {i : Nat} {f : TxStr → TxStr} {s : State} (h : Keeps s0 s) : Keeps s0 (updTx i f s) := by
  unfold updTx
  extract_lets -merge -useContext src
  repeat' first | with_reducible assumption | exact rfl | with_reducible apply Keeps.upd

theorem strEvent_keeps {s0 : State} {i : Nat} {tx : Bool} {kind : Nat} {s : State} (h : Keeps s0 s) :
    Keeps s0 (strEvent i tx kind s) := by
  unfold strEvent
  extract_lets -merge -useContext w0 obj src
  clear_value w0 obj
  repeat' first
    | with_reducible apply Keeps.ite
    | with_reducible assumption
    | exact rfl
    | with_reducible apply raiseOwner_keeps
    | with_reducible apply putF_keeps
    | split
    | with_reducible apply Keeps.upd

theorem rxCount_keeps {s0 : State} {i : Nat} {k : Nat} {s : State} (h : Keeps s0 s) : Keeps s0 (rxCount i k s) := by
  unfold rxCount
  repeat' first | with_reducible assumption | with_reducible apply updRx_keeps

theorem placeSet_keeps {s0 : State} {i : Nat} {course : Nat} {e : List Nat} {vals : List Nat} {s : State} (h : Keeps s0 s) :
    Keeps s0 (placeSet i course e vals s) := by
  unfold placeSet
  extract_lets -merge -useContext a
  clear_value a
  repeat' first
    | with_reducible apply Keeps.ite
    | with_reducible assumption
    | with_reducible apply rxCount_keeps
    | with_reducible apply putAshWords_keeps

theorem placeSets_keeps {s0 : State} {i : Nat} {course : Nat} {e : List Nat} {a0 : List (List Nat)} {a1 : State}
    (h : Keeps s0 a1) : Keeps s0 (placeSets i course e a0 a1) := by
  induction a0 generalizing i course e a1 with
  | nil => exact h
  | cons x xs ih =>
    unfold placeSets
    repeat' first | with_reducible apply ih | with_reducible assumption | with_reducible apply placeSet_keeps

theorem legBack_keeps {s0 : State} {i : Nat} {leg : Nat} {s : State} (h : Keeps s0 s) : Keeps s0 (legBack i leg s) := by
  unfold legBack
  extract_lets -merge -useContext t s1 s1_2
  have h_s1 : Keeps s0 s1 := by
    dsimp only [s1]
    repeat' first | with_reducible assumption | with_reducible apply updRx_keeps
  have h_s1_2 : Keeps s0 s1_2 := by
    dsimp only [s1_2]
    repeat' first | with_reducible assumption | with_reducible apply updRx_keeps
  clear_value t s1 s1_2
  repeat' first | with_reducible apply Keeps.ite | with_reducible assumption | with_reducible apply strEvent_keeps

theorem acceptPacket_keeps {s0 : State} {i : Nat} {leg : Nat} {ts : Nat} {lead : Nat} {e : List Nat} {body : List Nat} {s : State}
    (h : Keeps s0 s) : Keeps s0 (acceptPacket i leg ts lead e body s) := by
  unfold acceptPacket
  extract_lets -merge -useContext sets s1
  have h_s1 : Keeps s0 s1 := by
    dsimp only [s1]
    repeat' first | with_reducible assumption | with_reducible apply placeSets_keeps
  clear_value sets s1
  repeat' first
    | with_reducible assumption
    | with_reducible apply legBack_keeps
    | with_reducible apply rxCount_keeps
    | with_reducible apply updRx_keeps

theorem judgePacket_keeps {s0 : State} {i : Nat} {leg : Nat} {ts : Nat} {body : List Nat} {s : State} (h : Keeps s0 s) :
    Keeps s0 (judgePacket i leg ts body s) := by
  unfold judgePacket
  extract_lets -merge -useContext e a lo n e' src s1 a'
  have h_s1 : Keeps s0 s1 := by
    dsimp only [s1]
    repeat' first
      | with_reducible assumption
      | exact rfl
      | with_reducible apply strEvent_keeps
      | with_reducible apply rxCount_keeps
      | with_reducible apply Keeps.upd
  clear_value e a lo n e' s1 a'
  repeat' first
    | with_reducible apply Keeps.ite
    | with_reducible assumption
    | with_reducible apply acceptPacket_keeps
    | with_reducible apply rxCount_keeps
    | with_reducible apply updRx_keeps

theorem strFrame_keeps {s0 : State} {cls : List Nat} {b : List Nat} {s : State} (h : Keeps s0 s) :
    Keeps s0 (strFrame cls b s) := by
  unfold strFrame
  extract_lets -merge -useContext i e
  clear_value i e
  repeat' first
    | with_reducible apply Keeps.ite
    | with_reducible assumption
    | with_reducible apply bump_keeps
    | with_reducible apply rxCount_keeps
    | with_reducible apply judgePacket_keeps
    | split

theorem ashWordsSched_keeps {s0 : State} {req : Nat} {w : Nat} {a0 : Nat} {a1 : State} (h : Keeps s0 a1) :
    Keeps s0 (ashWordsSched req w a0 a1).2 := by
  induction a0 generalizing req w a1 with
  | zero => exact h
  | succ k ih =>
    unfold ashWordsSched
    repeat' first | with_reducible apply ih | with_reducible assumption | with_reducible apply ashReadSched_keeps

theorem presentRx_keeps {s0 : State} {i : Nat} {s : State} (h : Keeps s0 s) : Keeps s0 (presentRx i s) := by
  unfold presentRx
  extract_lets -merge -useContext e c ch p r s1 s2 s1_2
  have h_r : Keeps s0 r.2 := by
    dsimp only [r]
    repeat' first | with_reducible assumption | with_reducible apply ashWordsSched_keeps
  have h_s1 : Keeps s0 s1 := by
    dsimp only [s1]
    repeat' first | with_reducible assumption | with_reducible apply updRx_keeps
  have h_s2 : Keeps s0 s2 := by
    dsimp only [s2]
    repeat' first | with_reducible apply Keeps.ite | with_reducible assumption | with_reducible apply strEvent_keeps
  have h_s1_2 : Keeps s0 s1_2 := by
    dsimp only [s1_2]
    repeat' first | with_reducible assumption | with_reducible apply updRx_keeps | with_reducible apply rxCount_keeps
  clear_value e c ch p r s1 s2 s1_2
  repeat' first
    | with_reducible apply Keeps.ite
    | with_reducible assumption
    | with_reducible apply updRx_keeps
    | with_reducible apply strEvent_keeps

theorem legLoss_keeps {s0 : State} {i : Nat} {s : State} (h : Keeps s0 s) : Keeps s0 (legLoss i s) := by
  unfold legLoss
  extract_lets -merge -useContext e t lim s1
  have h_s1 : Keeps s0 s1 := by
    dsimp only [s1]
    repeat' first
      | with_reducible apply Keeps.ite
      | with_reducible assumption
      | with_reducible apply strEvent_keeps
      | with_reducible apply updRx_keeps
  clear_value e t lim s1
  repeat' first
    | with_reducible apply Keeps.ite
    | with_reducible assumption
    | with_reducible apply strEvent_keeps
    | with_reducible apply updRx_keeps

theorem strWriteLine_keeps {s0 : State} {line : Nat} {c : Nat} {s : State} (h : Keeps s0 s) :
    Keeps s0 (strWriteLine line c s) := by
  unfold strWriteLine
  repeat' first | with_reducible assumption | with_reducible apply engineSlotWrite_keeps

theorem strReadLine_keeps {s0 : State} {line : Nat} {c : Nat} {s : State} (h : Keeps s0 s) :
    Keeps s0 (strReadLine line c s) := by
  unfold strReadLine
  extract_lets -merge -useContext r
  have h_r : Keeps s0 r.2 := by
    dsimp only [r]
    repeat' first | with_reducible assumption | with_reducible apply outWords_keeps
  clear_value r
  repeat' first
    | with_reducible apply Keeps.ite
    | with_reducible assumption
    | with_reducible exact Keeps.refl _
    | with_reducible apply updTx_keeps
    | with_reducible apply Keeps.foldl
    | intro _

theorem sendPacket_keeps {s0 : State} {i : Nat} {t : Nat} {sets : List (List Nat)} {s : State} (h : Keeps s0 s) :
    Keeps s0 (sendPacket i t sets s) := by
  unfold sendPacket
  extract_lets -merge -useContext e r
  have h_r : Keeps s0 r.2 := by
    dsimp only [r]
    repeat' first | with_reducible assumption | with_reducible apply macTake_keeps
  clear_value e r
  repeat' first | with_reducible apply Keeps.ite | with_reducible assumption | with_reducible apply updTx_keeps

theorem txCourse_keeps {s0 : State} {i : Nat} {t : Nat} {s : State} (h : Keeps s0 s) : Keeps s0 (txCourse i t s) := by
  unfold txCourse
  extract_lets -merge -useContext x e p set acc
  clear_value x e p set acc
  repeat' first
    | with_reducible apply Keeps.ite
    | with_reducible assumption
    | with_reducible apply sendPacket_keeps
    | with_reducible apply updTx_keeps

theorem strEnd_keeps {s0 : State} {s : State} (h : Keeps s0 s) : Keeps s0 (strEnd s) := by
  unfold strEnd
  repeat' first
    | with_reducible assumption
    | with_reducible exact Keeps.refl _
    | with_reducible apply txCourse_keeps
    | with_reducible apply Keeps.foldl
    | intro _

theorem strSettings_keeps {s0 : State} {s : State} (h : Keeps s0 s) : Keeps s0 (strSettings s) := by
  unfold strSettings
  extract_lets -merge -useContext on src s1 s2
  have h_s1 : Keeps s0 s1 := by
    dsimp only [s1]
    repeat' first | with_reducible assumption | exact rfl | with_reducible apply Keeps.upd
  have h_s2 : Keeps s0 s2 := by
    dsimp only [s2]
    repeat' first
      | with_reducible apply Keeps.ite
      | with_reducible assumption
      | with_reducible exact Keeps.refl _
      | with_reducible apply updRx_keeps
      | with_reducible apply Keeps.foldl
      | intro _
  clear_value s1 s2
  repeat' first
    | with_reducible apply Keeps.ite
    | with_reducible assumption
    | with_reducible exact Keeps.refl _
    | with_reducible apply updTx_keeps
    | with_reducible apply Keeps.foldl
    | intro _

theorem strPresent_keeps {s0 : State} {s : State} (h : Keeps s0 s) : Keeps s0 (strPresent s) := by
  unfold strPresent
  repeat' first
    | with_reducible assumption
    | with_reducible exact Keeps.refl _
    | with_reducible apply legLoss_keeps
    | with_reducible apply presentRx_keeps
    | with_reducible apply Keeps.foldl
    | intro _

theorem applyChange_keeps {s0 : State} {c : BufChange} {s : State} (h : Keeps s0 s) : Keeps s0 (applyChange c s) := by
  unfold applyChange
  extract_lets -merge -useContext src src_2 src_3 src_4
  repeat' first
    | with_reducible apply Keeps.ite
    | with_reducible assumption
    | exact rfl
    | with_reducible apply applyFld_keeps
    | split
    | with_reducible apply Keeps.upd

theorem streamWrite_keeps {s0 : State} {old new : List Nat} {put : State → State} {s : State}
    (hput : ∀ x, Keeps x (put x)) (h : Keeps s0 s) : Keeps s0 (streamWrite old new put s) :=
  Keeps.ite (putF_keeps h) (setIf_keeps (h.trans (hput s)))

theorem strWrite_keeps {s0 : State} {sel : Nat} {i : Nat} {ws : List Nat} {s : State} (h : Keeps s0 s) :
    Keeps s0 (strWrite sel i ws s) := by
  unfold strWrite
  extract_lets -merge -useContext e src src_2 src_3 s1
  have h_s1 : Keeps s0 s1 := by
    dsimp only [s1]
    repeat' first
      | with_reducible apply Keeps.ite
      | with_reducible assumption
      | with_reducible exact Keeps.refl _
      | exact rfl
      | with_reducible apply setIf_keeps
      | with_reducible apply streamWrite_keeps
      | split
      | intro _
      | with_reducible apply Keeps.upd
  clear_value e s1
  repeat' first | with_reducible apply Keeps.ite | with_reducible assumption | with_reducible apply strSettings_keeps

theorem strClear_keeps {s0 : State} {i : Nat} {s : State} (h : Keeps s0 s) : Keeps s0 (strClear i s) := by
  unfold strClear
  repeat' first | with_reducible apply Keeps.ite | with_reducible assumption | with_reducible apply updRx_keeps

theorem execStrTableWrite_keeps {s0 : State} {n : Nat} {value : Nat} {s : State} (h : Keeps s0 s) :
    KeepsO s0 (execStrTableWrite n value s) := by
  unfold execStrTableWrite
  extract_lets -merge -useContext s1 sel i
  have h_s1 : Keeps s0 s1 := by
    dsimp only [s1]
    repeat' first | with_reducible assumption | with_reducible apply putF_keeps
  clear_value s1 sel i
  repeat' first
    | with_reducible apply Keeps.ite
    | with_reducible assumption
    | with_reducible apply KeepsO.next
    | with_reducible apply KeepsO.ite
    | with_reducible apply strClear_keeps
    | with_reducible apply strWrite_keeps

end Sys2Proof.Machine
end

