-- ==== Sys2Proof/Laws/KeepsFwStream.lean ====
section
/-! SUPPORT. The operations of Machine/FwStream.lean keep the queue, the fuses and the form of the stores. -/

namespace Sys2Proof.Machine

theorem fwStreamRx_keeps {s0 : State} {r : Sys2Proof.FwReq} {s : State} (h : Keeps s0 s) : KeepsM s0 (fwStreamRx r s) := by
  unfold fwStreamRx
  extract_lets -merge -useContext merge legs fmt pt ch want d src
  clear_value merge legs fmt pt ch want d
  repeat' first
    | with_reducible apply Keeps.ite
    | with_reducible assumption
    | exact rfl
    | with_reducible exact KeepsM.error
    | with_reducible apply KeepsM.pure
    | (refine KeepsM.bind (fun (_ : Unit) hk => ?_); clear hk)
    | refine KeepsM.bind (fun _ _ => ?_)
    | with_reducible apply acquire_keeps
    | with_reducible apply strSettings_keeps
    | split
    | with_reducible apply Keeps.upd

theorem fwStreamTx_keeps {s0 : State} {r : Sys2Proof.FwReq} {s : State} (h : Keeps s0 s) : KeepsM s0 (fwStreamTx r s) := by
  unfold fwStreamTx
  extract_lets -merge -useContext fmt pt ch src
  clear_value fmt pt ch
  repeat' first
    | with_reducible apply Keeps.ite
    | with_reducible assumption
    | exact rfl
    | with_reducible exact KeepsM.error
    | with_reducible apply KeepsM.pure
    | (refine KeepsM.bind (fun (_ : Unit) hk => ?_); clear hk)
    | refine KeepsM.bind (fun _ _ => ?_)
    | with_reducible apply acquire_keeps
    | with_reducible apply strSettings_keeps
    | split
    | with_reducible apply Keeps.upd

theorem fwStreamMap_keeps {s0 : State} {r : Sys2Proof.FwReq} {s : State} (h : Keeps s0 s) : KeepsM s0 (fwStreamMap r s) := by
  unfold fwStreamMap
  extract_lets -merge -useContext n tx i hs e first cs now
  have h_now : ∀  z, Keeps z (now  z) := by
    intro  z
    dsimp only [now]
    repeat' first
      | with_reducible apply Keeps.ite
      | with_reducible exact Keeps.refl _
      | with_reducible apply applyChange_keeps
      | with_reducible apply strSettings_keeps
      | with_reducible apply Keeps.foldl
      | intro _
  clear_value n tx i hs e first cs
  repeat' first
    | with_reducible assumption
    | with_reducible apply KeepsM.pure
    | with_reducible apply KeepsM.ite
    | refine KeepsM.bindK ?_ (fun _ _ => ?_)
    | (refine KeepsM.bind (fun (_ : Unit) hk => ?_); clear hk)
    | with_reducible apply optionalBatch_keeps
    | with_reducible apply acquire_keeps

theorem fwStreamEnable_keeps {s0 : State} {r : Sys2Proof.FwReq} {s : State} (h : Keeps s0 s) :
    KeepsM s0 (fwStreamEnable r s) := by
  unfold fwStreamEnable
  extract_lets -merge -useContext tx en i c now
  have h_now : ∀  z, Keeps z (now  z) := by
    intro  z
    dsimp only [now]
    repeat' first
      | with_reducible apply Keeps.ite
      | with_reducible exact Keeps.refl _
      | with_reducible apply applyChange_keeps
      | with_reducible apply strSettings_keeps
  clear_value tx en i c
  repeat' first
    | with_reducible assumption
    | with_reducible apply KeepsM.pure
    | refine KeepsM.bindK ?_ (fun _ _ => ?_)
    | (refine KeepsM.bind (fun (_ : Unit) hk => ?_); clear hk)
    | with_reducible apply optionalBatch_keeps
    | with_reducible apply acquire_keeps

theorem fwStreamDelete_keeps {s0 : State} {r : Sys2Proof.FwReq} {s : State} (h : Keeps s0 s) :
    KeepsM s0 (fwStreamDelete r s) := by
  unfold fwStreamDelete
  extract_lets -merge -useContext tx i e clear src src_2 str
  clear_value tx i e str
  repeat' first
    | with_reducible assumption
    | exact rfl
    | with_reducible apply KeepsM.pure
    | (refine KeepsM.bind (fun (_ : Unit) hk => ?_); clear hk)
    | with_reducible apply freeObj_keeps
    | with_reducible apply Keeps.upd

theorem fwStreamStatus_keeps {s0 : State} {r : Sys2Proof.FwReq} {s : State} (h : Keeps s0 s) :
    KeepsM s0 (fwStreamStatus r s) := by
  unfold fwStreamStatus
  extract_lets -merge -useContext tx clear i
  clear_value tx clear i
  repeat' first
    | with_reducible apply Keeps.ite
    | with_reducible assumption
    | with_reducible apply KeepsM.pure
    | with_reducible apply KeepsM.ite
    | (refine KeepsM.bind (fun (_ : Unit) hk => ?_); clear hk)
    | with_reducible apply updTx_keeps
    | with_reducible apply strClear_keeps

theorem execStreamRx_keeps {s0 : State} {r : Sys2Proof.FwReq} {s : State} (h : Keeps s0 s) :
    KeepsO s0 (execStreamRx r s) := by
  unfold execStreamRx
  repeat' first
    | with_reducible assumption
    | with_reducible exact Keeps.refl _
    | with_reducible apply fwRow_keeps
    | with_reducible apply fwStreamRx_keeps
    | intro _

theorem execStreamTx_keeps {s0 : State} {r : Sys2Proof.FwReq} {s : State} (h : Keeps s0 s) :
    KeepsO s0 (execStreamTx r s) := by
  unfold execStreamTx
  repeat' first
    | with_reducible assumption
    | with_reducible exact Keeps.refl _
    | with_reducible apply fwRow_keeps
    | with_reducible apply fwStreamTx_keeps
    | intro _

theorem execStreamMap_keeps {s0 : State} {r : Sys2Proof.FwReq} {s : State} (h : Keeps s0 s) :
    KeepsO s0 (execStreamMap r s) := by
  unfold execStreamMap
  repeat' first
    | with_reducible assumption
    | with_reducible exact Keeps.refl _
    | with_reducible apply fwRow_keeps
    | with_reducible apply fwStreamMap_keeps
    | intro _

theorem execStreamEnable_keeps {s0 : State} {r : Sys2Proof.FwReq} {s : State} (h : Keeps s0 s) :
    KeepsO s0 (execStreamEnable r s) := by
  unfold execStreamEnable
  repeat' first
    | with_reducible assumption
    | with_reducible exact Keeps.refl _
    | with_reducible apply fwRow_keeps
    | with_reducible apply fwStreamEnable_keeps
    | intro _

theorem execStreamDelete_keeps {s0 : State} {r : Sys2Proof.FwReq} {s : State} (h : Keeps s0 s) :
    KeepsO s0 (execStreamDelete r s) := by
  unfold execStreamDelete
  repeat' first
    | with_reducible assumption
    | with_reducible exact Keeps.refl _
    | with_reducible apply fwRow_keeps
    | with_reducible apply fwStreamDelete_keeps
    | intro _

theorem execStreamStatus_keeps {s0 : State} {r : Sys2Proof.FwReq} {s : State} (h : Keeps s0 s) :
    KeepsO s0 (execStreamStatus r s) := by
  unfold execStreamStatus
  repeat' first
    | with_reducible assumption
    | with_reducible exact Keeps.refl _
    | with_reducible apply fwRow_keeps
    | with_reducible apply fwStreamStatus_keeps
    | intro _

end Sys2Proof.Machine
end

