-- ==== Sys2Proof/Laws/KeepsLoad.lean ====
section
/-! SUPPORT. The operations of Machine/Load.lean keep the queue, the fuses and the form of the stores. -/

namespace Sys2Proof.Machine

theorem loadRegions_keeps {s0 : State} {rs : List Region} {s : State} (h : Keeps s0 s) : Keeps s0 (loadRegions rs s) := by
  unfold loadRegions
  extract_lets -merge -useContext ash put s1
  have h_put : ∀ y0 y1 y2 y3 z, Keeps z (put y0 y1 y2 y3 z) := by
    intro y0 y1 y2 y3 z
    dsimp only [put]
    repeat' first | with_reducible exact Keeps.refl _ | with_reducible apply putFs_keeps | split
  have h_s1 : Keeps s0 s1 := by
    dsimp only [s1]
    repeat' first | with_reducible assumption | with_reducible refine Keeps.trans ?_ (h_put _ _ _ _ _)
  clear_value ash s1
  repeat' first
    | with_reducible assumption
    | with_reducible exact Keeps.refl _
    | with_reducible refine Keeps.trans ?_ (h_put _ _ _ _ _)
    | with_reducible apply Keeps.foldl
    | intro _

theorem liveRegions_keeps {s0 : State} {s : State} (h : Keeps s0 s) : Keeps s0 (liveRegions s) := by
  unfold liveRegions
  extract_lets -merge -useContext get ash src
  clear_value ash
  repeat' first
    | with_reducible assumption
    | with_reducible exact Keeps.refl _
    | exact rfl
    | with_reducible apply updTile_keeps
    | with_reducible apply Keeps.foldl
    | intro _
    | with_reducible apply Keeps.upd

theorem loadProgs_keeps {s0 : State} {ps : AMap (List Nat)} {s : State} (h : Keeps s0 s) : Keeps s0 (loadProgs ps s) :=
  Keeps.foldl (fun _ _ => updTile_keeps (fun _ => onShadow_wf (fun _ _ => progMem_wf _)) (Keeps.refl _)) h

theorem stageInit_keeps {s0 : State} {s : State} {x : InitRec} (h : Keeps s0 s) : Keeps s0 (stageInit s x) := by
  unfold stageInit
  repeat' first
    | with_reducible apply Keeps.ite
    | with_reducible assumption
    | with_reducible exact Keeps.refl _
    | with_reducible apply fwAshWrites_keeps
    | with_reducible apply applyInit_keeps
    | with_reducible apply Keeps.foldl
    | split
    | intro _

theorem placeSection_keeps {s0 : State} {m : Sys2Proof.AMap Nat} {e : DirEnt} {s : State} (h : Keeps s0 s) :
    Keeps s0 (placeSection m e s) := by
  unfold placeSection
  extract_lets -merge -useContext cal src put
  clear_value cal
  repeat' first
    | with_reducible assumption
    | with_reducible exact Keeps.refl _
    | exact rfl
    | with_reducible apply loadProgs_keeps
    | with_reducible apply stageInit_keeps
    | with_reducible apply loadRegions_keeps
    | with_reducible apply Keeps.foldl
    | split
    | intro _
    | with_reducible apply Keeps.upd

theorem swapImage_keeps {s0 : State} {img : Img} {s : State} (h : Keeps s0 s) : Keeps s0 (swapImage img s) := by
  unfold swapImage
  extract_lets -merge -useContext s1 clr s2 src
  have h_s1 : Keeps s0 s1 := by
    dsimp only [s1]
    repeat' first
      | with_reducible assumption
      | with_reducible exact Keeps.refl _
      | with_reducible apply putB_keeps
      | with_reducible apply Keeps.foldl
      | intro _
  have h_s2 : Keeps s0 s2 := by
    dsimp only [s2]
    repeat' first
      | with_reducible assumption
      | with_reducible exact Keeps.refl _
      | exact rfl
      | with_reducible apply putF_keeps
      | with_reducible apply Keeps.foldl
      | intro _
      | with_reducible apply Keeps.upd
  clear_value s1 s2
  repeat' first
    | with_reducible assumption
    | exact rfl
    | with_reducible apply putF_keeps
    | with_reducible apply liveRegions_keeps
    | with_reducible apply Keeps.upd

theorem spliceSwap_keeps {s0 : State} {img : Img} {s : State} (h : Keeps s0 s) : Keeps s0 (spliceSwap img s) := by
  unfold spliceSwap
  extract_lets -merge -useContext old s1 b d keep s2 src src_2
  have h_s1 : Keeps s0 s1 := by
    dsimp only [s1]
    repeat' first | with_reducible assumption | with_reducible apply swapImage_keeps
  have h_s2 : Keeps s0 s2 := by
    dsimp only [s2]
    repeat' first
      | with_reducible assumption
      | with_reducible exact Keeps.refl _
      | with_reducible apply putF_keeps
      | with_reducible apply Keeps.foldl
      | intro _
  clear_value old s1 b d keep s2
  repeat' first | with_reducible assumption | exact rfl | with_reducible apply putFs_keeps | with_reducible apply Keeps.upd

theorem loadSpliceSets_keeps {s0 : State} {e : Nat} {img : Img} {s : State} (h : Keeps s0 s) :
    Keeps s0 (loadSpliceSets e img s) := by
  unfold loadSpliceSets
  extract_lets -merge -useContext ents sh d src s1 m all src_2
  have h_s1 : Keeps s0 s1 := by
    dsimp only [s1]
    repeat' first
      | with_reducible apply Keeps.ite
      | with_reducible assumption
      | exact rfl
      | with_reducible apply putFs_keeps
      | with_reducible apply Keeps.upd
  clear_value ents sh d s1 m all
  repeat' first
    | with_reducible apply Keeps.ite
    | with_reducible assumption
    | with_reducible exact Keeps.refl _
    | exact rfl
    | with_reducible apply putDynTag_keeps
    | with_reducible apply Keeps.foldl
    | intro _
    | with_reducible apply Keeps.upd

theorem clearPlane_keeps {s0 : State} {s : State} (h : Keeps s0 s) : Keeps s0 (clearPlane s) := by
  unfold clearPlane
  repeat' first | with_reducible assumption | exact rfl | with_reducible apply Keeps.upd

theorem loadSets_keeps {s0 : State} {img : Img} {s : State} (h : Keeps s0 s) : Keeps s0 (loadSets img s) := by
  unfold loadSets
  extract_lets -merge -useContext s1 src
  have h_s1 : Keeps s0 s1 := by
    dsimp only [s1]
    repeat' first | with_reducible assumption | with_reducible apply loadDyn_keeps | with_reducible apply loadRoute_keeps
  clear_value s1
  repeat' first | with_reducible assumption | exact rfl | with_reducible apply Keeps.upd

theorem setTiles_keeps {s0 : State} {img : Img} {st : Nat} {s : State} (h : Keeps s0 s) : Keeps s0 (setTiles img st s) := by
  unfold setTiles
  repeat' first
    | with_reducible apply Keeps.ite
    | with_reducible assumption
    | with_reducible exact Keeps.refl _
    | with_reducible apply putF_keeps
    | with_reducible apply Keeps.foldl
    | intro _

theorem stopTiles_keeps {s0 : State} {s : State} (h : Keeps s0 s) : Keeps s0 (stopTiles s) := by
  unfold stopTiles
  repeat' first
    | with_reducible assumption
    | with_reducible exact Keeps.refl _
    | exact SameMem.wf ⟨rfl, rfl, rfl⟩ ‹_›
    | with_reducible apply updTile_keeps
    | with_reducible apply clearFault_keeps
    | with_reducible apply putF_keeps
    | with_reducible apply Keeps.foldl
    | intro _

theorem recommit_keeps {s0 : State} {img : Img} {s : State} (h : Keeps s0 s) : Keeps s0 (recommit img s) := by
  unfold recommit
  extract_lets -merge -useContext src s1
  have h_s1 : Keeps s0 s1 := by
    dsimp only [s1]
    repeat' first
      | with_reducible assumption
      | exact rfl
      | with_reducible apply loadRegions_keeps
      | with_reducible apply loadProgs_keeps
      | with_reducible apply stopTiles_keeps
      | with_reducible apply Keeps.upd
  clear_value s1
  repeat' first
    | with_reducible assumption
    | with_reducible exact Keeps.refl _
    | with_reducible apply setTiles_keeps
    | with_reducible apply loadSets_keeps
    | with_reducible apply swapImage_keeps
    | with_reducible apply applyInit_keeps
    | with_reducible apply Keeps.foldl
    | intro _

theorem startFabric_keeps {s0 : State} {s : State} (h : Keeps s0 s) : Keeps s0 (startFabric s) := by
  unfold startFabric
  repeat' first
    | with_reducible apply Keeps.ite
    | with_reducible assumption
    | exact rfl
    | with_reducible apply putFs_keeps
    | split
    | with_reducible apply Keeps.upd

theorem imgEvent_keeps {s0 : State} {anchor : Nat} {s : State} (h : Keeps s0 s) : Keeps s0 (imgEvent anchor s) := by
  unfold imgEvent
  repeat' first | with_reducible assumption | with_reducible apply raiseAll_keeps

theorem setImgState_keeps {s0 : State} {st : Nat} {s : State} (h : Keeps s0 s) : Keeps s0 (setImgState st s) := by
  unfold setImgState
  repeat' first
    | with_reducible apply Keeps.ite
    | with_reducible assumption
    | with_reducible apply imgEvent_keeps
    | with_reducible apply putF_keeps

theorem dropEntry_keeps {s0 : State} {i : Nat} {x : Sched} {s : State} (h : Keeps s0 s) : Keeps s0 (dropEntry i x s) := by
  unfold dropEntry
  extract_lets -merge -useContext src s1 s2 route insts s3 src_2
  have h_s1 : Keeps s0 s1 := by
    dsimp only [s1]
    repeat' first | with_reducible assumption | exact rfl | with_reducible apply Keeps.upd
  have h_s2 : Keeps s0 s2 := by
    dsimp only [s2]
    repeat' first
      | with_reducible assumption
      | with_reducible exact Keeps.refl _
      | with_reducible apply putF_keeps
      | with_reducible apply Keeps.foldl
      | intro _
  have h_s3 : Keeps s0 s3 := by
    dsimp only [s3]
    repeat' first | with_reducible assumption | with_reducible apply untagSet_keeps
  clear_value s1 s2 route insts s3
  repeat' first
    | with_reducible assumption
    | exact rfl
    | with_reducible apply untagSet_keeps
    | with_reducible apply setImgState_keeps
    | split
    | with_reducible apply Keeps.upd

theorem cancelEntry_keeps {s0 : State} {i : Nat} {status : Nat} {x : Sched} {s : State} (h : Keeps s0 s) :
    Keeps s0 (cancelEntry i status x s) := by
  unfold cancelEntry
  repeat' first
    | with_reducible assumption
    | with_reducible apply cancelledEvent_keeps
    | with_reducible apply dropEntry_keeps

end Sys2Proof.Machine
end

