-- ==== Sys2Proof/Laws/KeepsPair.lean ====
section
/-! SUPPORT. The operations of Machine/Pair.lean keep the queue, the fuses and the form of the stores. -/

namespace Sys2Proof.Machine

theorem becomeActive_keeps {s0 : State} {s : State} (h : Keeps s0 s) : Keeps s0 (becomeActive s) := by
  unfold becomeActive
  extract_lets -merge -useContext src
  repeat' first
    | with_reducible assumption
    | exact rfl
    | with_reducible apply setPairState_keeps
    | with_reducible apply Keeps.upd

theorem takeClaim_keeps {s0 : State} {s : State} (h : Keeps s0 s) : Keeps s0 (takeClaim s) := by
  unfold takeClaim
  repeat' first
    | with_reducible apply Keeps.ite
    | with_reducible assumption
    | with_reducible exact Keeps.refl _
    | exact rfl
    | with_reducible apply watchLife_keeps
    | with_reducible apply putF_keeps
    | with_reducible apply becomeActive_keeps
    | intro _
    | with_reducible apply Keeps.upd

theorem execClaimInFall_keeps {s0 : State} {s : State} (h : Keeps s0 s) : KeepsO s0 (execClaimInFall s) := by
  unfold execClaimInFall
  extract_lets -merge -useContext src s1
  have h_s1 : Keeps s0 s1 := by
    dsimp only [s1]
    repeat' first | with_reducible assumption | exact rfl | with_reducible apply putF_keeps | with_reducible apply Keeps.upd
  clear_value s1
  repeat' first
    | with_reducible apply Keeps.ite
    | with_reducible assumption
    | with_reducible apply KeepsO.next
    | with_reducible apply takeClaim_keeps

theorem execClaimInRise_keeps {s0 : State} {s : State} (h : Keeps s0 s) : KeepsO s0 (execClaimInRise s) := by
  unfold execClaimInRise
  extract_lets -merge -useContext src s1
  have h_s1 : Keeps s0 s1 := by
    dsimp only [s1]
    repeat' first | with_reducible assumption | exact rfl | with_reducible apply putF_keeps | with_reducible apply Keeps.upd
  clear_value s1
  repeat' first
    | with_reducible apply Keeps.ite
    | with_reducible assumption
    | with_reducible exact Keeps.refl _
    | exact rfl
    | with_reducible apply KeepsO.next
    | with_reducible apply putF_keeps
    | with_reducible apply watchLife_keeps
    | intro _
    | with_reducible apply Keeps.upd

theorem execClaimWindowEnd_keeps {s0 : State} {s : State} (h : Keeps s0 s) : KeepsO s0 (execClaimWindowEnd s) := by
  unfold execClaimWindowEnd
  repeat' first
    | with_reducible apply Keeps.ite
    | with_reducible assumption
    | with_reducible apply KeepsO.next
    | with_reducible apply becomeActive_keeps

theorem execClaimClockStop_keeps {s0 : State} {s : State} (h : Keeps s0 s) : KeepsO s0 (execClaimClockStop s) := by
  unfold execClaimClockStop
  repeat' first | with_reducible assumption | with_reducible apply KeepsO.next | with_reducible apply selfDiag_keeps

theorem standbyFault_keeps {s0 : State} {code : Nat} {s : State} (h : Keeps s0 s) : Keeps s0 (standbyFault code s) := by
  unfold standbyFault
  extract_lets -merge -useContext src
  repeat' first
    | with_reducible apply Keeps.ite
    | with_reducible assumption
    | exact rfl
    | with_reducible apply setPairState_keeps
    | with_reducible apply putFs_keeps
    | with_reducible apply Keeps.upd

theorem setBudget_keeps {s0 : State} {s : State} (h : Keeps s0 s) : Keeps s0 (setBudget s) := by
  unfold setBudget
  extract_lets -merge -useContext b
  clear_value b
  repeat' first | with_reducible assumption | with_reducible apply putFs_keeps

theorem trainFrom_keeps {s0 : State} {k : Nat} {s : State} (h : Keeps s0 s) : Keeps s0 (trainFrom k s) := by
  unfold trainFrom
  extract_lets -merge -useContext s1 src src_2
  have h_s1 : Keeps s0 s1 := by
    dsimp only [s1]
    repeat' first | with_reducible assumption | with_reducible apply putFs_keeps
  clear_value s1
  repeat' first
    | with_reducible apply Keeps.ite
    | with_reducible assumption
    | exact rfl
    | with_reducible apply setBudget_keeps
    | with_reducible apply putF_keeps
    | split
    | with_reducible apply Keeps.upd

theorem checkUnit_keeps {s0 : State} {unit : Nat} {s : State} (h : Keeps s0 s) : Keeps s0 (checkUnit unit s) := by
  unfold checkUnit
  repeat' first | with_reducible assumption | with_reducible apply setIf_keeps

theorem reportImage_keeps {s0 : State} {s : State} (h : Keeps s0 s) : Keeps s0 (reportImage s) := by
  unfold reportImage
  repeat' first | with_reducible apply Keeps.ite | with_reducible assumption | with_reducible apply emit_keeps | split

theorem execLinkTraining_keeps {s0 : State} {unit : Nat} {lanes : Nat} {rates : Nat} {delay : Nat} {s : State}
    (h : Keeps s0 s) : KeepsO s0 (execLinkTraining unit lanes rates delay s) := by
  unfold execLinkTraining
  extract_lets -merge -useContext m s1 src
  have h_s1 : Keeps s0 s1 := by
    dsimp only [s1]
    repeat' first | with_reducible assumption | with_reducible apply checkUnit_keeps
  clear_value m s1
  repeat' first
    | with_reducible assumption
    | exact rfl
    | with_reducible apply KeepsO.next
    | with_reducible apply KeepsO.ite
    | with_reducible apply reportImage_keeps
    | with_reducible apply setBudget_keeps
    | with_reducible apply putFs_keeps
    | with_reducible apply trainFrom_keeps
    | with_reducible apply Keeps.upd

theorem execTrainingModeTimeout_keeps {s0 : State} {s : State} (h : Keeps s0 s) : KeepsO s0 (execTrainingModeTimeout s) := by
  unfold execTrainingModeTimeout
  repeat' first
    | with_reducible assumption
    | with_reducible apply KeepsO.next
    | with_reducible apply KeepsO.ite
    | with_reducible apply trainFrom_keeps

theorem execLinkFault_keeps {s0 : State} {s : State} (h : Keeps s0 s) : KeepsO s0 (execLinkFault s) := by
  unfold execLinkFault
  repeat' first
    | with_reducible assumption
    | with_reducible apply KeepsO.next
    | with_reducible apply KeepsO.ite
    | with_reducible apply trainFrom_keeps
    | with_reducible apply bump_keeps

theorem retrain_keeps {s0 : State} {s : State} (h : Keeps s0 s) : Keeps s0 (retrain s) := by
  unfold retrain
  repeat' first | with_reducible assumption | with_reducible apply trainFrom_keeps

theorem execRetrain_keeps {s0 : State} {s : State} (h : Keeps s0 s) : KeepsO s0 (execRetrain s) := by
  unfold execRetrain
  repeat' first | with_reducible assumption | with_reducible apply KeepsO.next | with_reducible apply retrain_keeps

theorem execSkewTimer_keeps {s0 : State} {s : State} (h : Keeps s0 s) : KeepsO s0 (execSkewTimer s) := by
  unfold execSkewTimer
  repeat' first
    | with_reducible assumption
    | with_reducible apply KeepsO.next
    | with_reducible apply KeepsO.ite
    | with_reducible apply putF_keeps

theorem takeSkew_keeps {s0 : State} {arrival : Int} {cycle : Nat} {s : State} (h : Keeps s0 s) :
    Keeps s0 (takeSkew arrival cycle s) := by
  unfold takeSkew
  extract_lets -merge -useContext f base at' k past s1 src src_2 s2
  have h_f : Keeps s0 f.2 := by
    dsimp only [f]
    repeat' first | with_reducible assumption | with_reducible apply takeFree_keeps
  have h_s1 : Keeps s0 s1 := by
    dsimp only [s1]
    repeat' first | with_reducible assumption | with_reducible apply putF_keeps
  have h_s2 : Keeps s0 s2 := by
    dsimp only [s2]
    repeat' first
      | with_reducible apply Keeps.ite
      | with_reducible assumption
      | exact rfl
      | with_reducible apply putF_keeps
      | with_reducible apply Keeps.upd
  clear_value f base at' k past s1 s2
  repeat' first | with_reducible apply Keeps.ite | with_reducible assumption | with_reducible apply phaseEvent_keeps

theorem digestWords_keeps {s0 : State} {a0 : List Nat} {a1 : State} (h : Keeps s0 a1) : Keeps s0 (digestWords a0 a1) := by
  induction a0 generalizing a1 with
  | nil => exact h
  | cons x xs ih =>
    unfold digestWords
    repeat' first | with_reducible apply ih | with_reducible assumption | exact rfl | with_reducible apply Keeps.upd

theorem walkOn_keeps {s0 : State} {img : Img} {n : Nat} {s : State} (h : Keeps s0 s) : Keeps s0 (walkOn img n s) := by
  unfold walkOn
  extract_lets -merge -useContext p src src_2
  clear_value p
  repeat' first | with_reducible apply Keeps.ite | with_reducible assumption | exact rfl | with_reducible apply Keeps.upd

theorem pairBankGrant_keeps {s0 : State} {bank : Nat} {c : Nat} {s : State} (h : Keeps s0 s) :
    Keeps s0 (pairBankGrant bank c s) := by
  unfold pairBankGrant
  extract_lets -merge -useContext src
  repeat' first
    | with_reducible apply Keeps.ite
    | with_reducible assumption
    | exact rfl
    | with_reducible apply engineWrite_keeps
    | with_reducible apply engineRead_keeps
    | with_reducible apply emit_keeps
    | with_reducible apply walkOn_keeps
    | with_reducible apply digestWords_keeps
    | split
    | with_reducible apply Keeps.upd

theorem pairPortGrant_keeps {s0 : State} {line : Nat} {c : Nat} {s : State} (h : Keeps s0 s) :
    Keeps s0 (pairPortGrant line c s) := by
  unfold pairPortGrant
  repeat' first
    | with_reducible apply Keeps.ite
    | with_reducible assumption
    | with_reducible apply engineSlotRead_keeps
    | with_reducible apply walkOn_keeps
    | with_reducible apply digestWords_keeps
    | split

theorem restateStep_keeps {s0 : State} {s : State} (h : Keeps s0 s) : Keeps s0 (restateStep s) := by
  unfold restateStep
  extract_lets -merge -useContext src s1 src_2
  have h_s1 : Keeps s0 s1 := by
    dsimp only [s1]
    repeat' first | with_reducible apply Keeps.ite | with_reducible assumption | exact rfl | with_reducible apply Keeps.upd
  clear_value s1
  repeat' first | with_reducible apply Keeps.ite | with_reducible assumption | exact rfl | with_reducible apply Keeps.upd

theorem compareDigest_keeps {s0 : State} {s : State} (h : Keeps s0 s) : Keeps s0 (compareDigest s) := by
  unfold compareDigest
  repeat' first
    | with_reducible apply Keeps.ite
    | with_reducible assumption
    | with_reducible apply standbyFault_keeps
    | with_reducible apply bump_keeps
    | split

theorem closeRecord_keeps {s0 : State} {s : State} (h : Keeps s0 s) : Keeps s0 (closeRecord s) := by
  unfold closeRecord
  extract_lets -merge -useContext s0_1 b bytes claim s1 src s2 s3 src_2
  have h_s0_1 : Keeps s0 s0_1 := by
    dsimp only [s0_1]
    repeat' first | with_reducible assumption | with_reducible apply compareDigest_keeps
  have h_s1 : Keeps s0 s1 := by
    dsimp only [s1]
    repeat' first | with_reducible apply Keeps.ite | with_reducible assumption | with_reducible apply emit_keeps
  have h_s2 : Keeps s0 s2 := by
    dsimp only [s2]
    repeat' first
      | with_reducible apply Keeps.ite
      | with_reducible assumption
      | exact rfl
      | with_reducible apply emit_keeps
      | with_reducible apply Keeps.upd
  have h_s3 : Keeps s0 s3 := by
    dsimp only [s3]
    repeat' first
      | with_reducible apply Keeps.ite
      | with_reducible assumption
      | exact rfl
      | with_reducible apply emit_keeps
      | with_reducible apply restateStep_keeps
      | with_reducible apply Keeps.upd
  clear_value s0_1 b bytes claim s1 s2 s3
  repeat' first | with_reducible apply Keeps.ite | with_reducible assumption | exact rfl | with_reducible apply Keeps.upd

theorem startRestate_keeps {s0 : State} {s : State} (h : Keeps s0 s) : Keeps s0 (startRestate s) := by
  unfold startRestate
  extract_lets -merge -useContext src
  repeat' first
    | with_reducible apply Keeps.ite
    | with_reducible assumption
    | exact rfl
    | with_reducible apply pairEvent_keeps
    | with_reducible apply putFs_keeps
    | with_reducible apply Keeps.upd

theorem dropRestate_keeps {s0 : State} {s : State} (h : Keeps s0 s) : Keeps s0 (dropRestate s) := by
  unfold dropRestate
  extract_lets -merge -useContext src
  repeat' first
    | with_reducible apply Keeps.ite
    | with_reducible assumption
    | exact rfl
    | with_reducible apply pairEvent_keeps
    | with_reducible apply putFs_keeps
    | with_reducible apply Keeps.upd

theorem restartPass_keeps {s0 : State} {s : State} (h : Keeps s0 s) : Keeps s0 (restartPass s) := by
  unfold restartPass
  extract_lets -merge -useContext src
  repeat' first | with_reducible apply Keeps.ite | with_reducible assumption | exact rfl | with_reducible apply Keeps.upd

theorem judgeRestate_keeps {s0 : State} {s : State} (h : Keeps s0 s) : Keeps s0 (judgeRestate s) := by
  unfold judgeRestate
  extract_lets -merge -useContext src src_2 src_3
  repeat' first
    | with_reducible apply Keeps.ite
    | with_reducible assumption
    | exact rfl
    | with_reducible apply emit_keeps
    | with_reducible apply pairEvent_keeps
    | with_reducible apply putFs_keeps
    | with_reducible apply wrap_keeps
    | with_reducible apply Keeps.upd

theorem verifyDigest_keeps {s0 : State} {r : PairRec} {s : State} (h : Keeps s0 s) : Keeps s0 (verifyDigest r s) := by
  unfold verifyDigest
  extract_lets -merge -useContext ok src
  clear_value ok
  repeat' first
    | with_reducible apply Keeps.ite
    | with_reducible assumption
    | exact rfl
    | with_reducible apply judgeRestate_keeps
    | with_reducible apply Keeps.upd

theorem expireVerify_keeps {s0 : State} {s : State} (h : Keeps s0 s) : Keeps s0 (expireVerify s) := by
  unfold expireVerify
  extract_lets -merge -useContext old src
  clear_value old
  repeat' first
    | with_reducible apply Keeps.ite
    | with_reducible assumption
    | exact rfl
    | with_reducible apply judgeRestate_keeps
    | with_reducible apply Keeps.upd

theorem loseHeartbeat_keeps {s0 : State} {s : State} (h : Keeps s0 s) : Keeps s0 (loseHeartbeat s) := by
  unfold loseHeartbeat
  extract_lets -merge -useContext s1 src s2 src_2
  have h_s1 : Keeps s0 s1 := by
    dsimp only [s1]
    repeat' first
      | with_reducible assumption
      | with_reducible apply setProtected_keeps
      | with_reducible apply dropRestate_keeps
      | with_reducible apply putF_keeps
  have h_s2 : Keeps s0 s2 := by
    dsimp only [s2]
    repeat' first
      | with_reducible apply Keeps.ite
      | with_reducible assumption
      | exact rfl
      | with_reducible apply refreshClk_keeps
      | with_reducible apply setRef_keeps
      | with_reducible apply Keeps.upd
  clear_value s1 s2
  repeat' first
    | with_reducible apply Keeps.ite
    | with_reducible assumption
    | exact rfl
    | with_reducible apply setPairState_keeps
    | with_reducible apply Keeps.upd

theorem recordMiss_keeps {s0 : State} {s : State} (h : Keeps s0 s) : Keeps s0 (recordMiss s) := by
  unfold recordMiss
  extract_lets -merge -useContext src s1
  have h_s1 : Keeps s0 s1 := by
    dsimp only [s1]
    repeat' first
      | with_reducible assumption
      | exact rfl
      | with_reducible apply standbyFault_keeps
      | with_reducible apply bump_keeps
      | with_reducible apply Keeps.upd
  clear_value s1
  repeat' first | with_reducible apply Keeps.ite | with_reducible assumption | with_reducible apply loseHeartbeat_keeps

theorem execRecordDeadlineMiss_keeps {s0 : State} {s : State} (h : Keeps s0 s) : KeepsO s0 (execRecordDeadlineMiss s) := by
  unfold execRecordDeadlineMiss
  repeat' first
    | with_reducible assumption
    | with_reducible apply KeepsO.next
    | with_reducible apply KeepsO.ite
    | with_reducible apply recordMiss_keeps

theorem execRecordRx_keeps {s0 : State} {record : List Nat} {arrival : Int} {s : State} (h : Keeps s0 s) :
    KeepsO s0 (execRecordRx record arrival s) := by
  unfold execRecordRx
  extract_lets -merge -useContext cycle src
  clear_value cycle
  repeat' first
    | with_reducible apply Keeps.ite
    | with_reducible assumption
    | exact rfl
    | with_reducible apply KeepsO.next
    | with_reducible apply KeepsO.ite
    | with_reducible apply bump_keeps
    | with_reducible apply recordMiss_keeps
    | with_reducible apply takeSkew_keeps
    | with_reducible apply checkUnit_keeps
    | with_reducible apply setProtected_keeps
    | with_reducible apply putFs_keeps
    | with_reducible apply verifyDigest_keeps
    | split
    | with_reducible apply Keeps.upd

end Sys2Proof.Machine
end

