-- ==== Sys2Proof/Laws/KeepsSeatOps.lean ====
section
/-! SUPPORT. The operations of Machine/SeatOps.lean keep the queue, the fuses and the form of the stores. -/

namespace Sys2Proof.Machine

theorem dropSession_keeps {s0 : State} {seat : Nat} {s : State} (h : Keeps s0 s) : Keeps s0 (dropSession seat s) := by
  unfold dropSession
  extract_lets -merge -useContext src s1 src_2
  have h_s1 : Keeps s0 s1 := by
    dsimp only [s1]
    repeat' first | with_reducible assumption | exact rfl | with_reducible apply putFs_keeps | with_reducible apply Keeps.upd
  clear_value s1
  repeat' first
    | with_reducible apply Keeps.ite
    | with_reducible assumption
    | exact rfl
    | split
    | with_reducible apply Keeps.upd

theorem orphan_keeps {s0 : State} {key : Nat} {s : State} (h : Keeps s0 s) : Keeps s0 (orphan key s) := by
  unfold orphan
  extract_lets -merge -useContext src
  repeat' first
    | with_reducible assumption
    | exact rfl
    | with_reducible apply objectEvent_keeps
    | split
    | with_reducible apply Keeps.upd

theorem endAttach_keeps {s0 : State} {seat : Nat} {s : State} (h : Keeps s0 s) : Keeps s0 (endAttach seat s) := by
  unfold endAttach
  extract_lets -merge -useContext s1
  have h_s1 : Keeps s0 s1 := by
    dsimp only [s1]
    repeat' first | with_reducible assumption | with_reducible apply dropSession_keeps | with_reducible apply updSeat_keeps
  clear_value s1
  repeat' first
    | with_reducible assumption
    | with_reducible exact Keeps.refl _
    | with_reducible apply putF_keeps
    | with_reducible apply orphan_keeps
    | with_reducible apply Keeps.foldl
    | intro _

theorem masterReset_keeps {s0 : State} {m : Nat} {s : State} (h : Keeps s0 s) : Keeps s0 (masterReset m s) := by
  unfold masterReset
  extract_lets -merge -useContext src v
  clear_value v
  repeat' first | with_reducible apply Keeps.ite | with_reducible assumption | exact rfl | with_reducible apply Keeps.upd

theorem seatReset_keeps {s0 : State} {n : Nat} {s : State} (h : Keeps s0 s) : Keeps s0 (seatReset n s) := by
  unfold seatReset
  extract_lets -merge -useContext s1 t src s2 s3 p
  have h_s1 : Keeps s0 s1 := by
    dsimp only [s1]
    repeat' first | with_reducible apply Keeps.ite | with_reducible assumption | with_reducible apply endAttach_keeps
  have h_s2 : Keeps s0 s2 := by
    dsimp only [s2]
    repeat' first
      | with_reducible apply Keeps.ite
      | with_reducible assumption
      | with_reducible apply endAttach_keeps
      | with_reducible apply updSeat_keeps
  have h_s3 : Keeps s0 s3 := by
    dsimp only [s3]
    repeat' first
      | with_reducible assumption
      | with_reducible exact Keeps.refl _
      | with_reducible apply putF_keeps
      | with_reducible apply Keeps.foldl
      | intro _
  clear_value s1 t s2 s3 p
  repeat' first
    | with_reducible apply Keeps.ite
    | with_reducible assumption
    | exact rfl
    | with_reducible apply masterReset_keeps
    | with_reducible apply Keeps.upd

theorem bindBySeatMap_keeps {s0 : State} {m : Nat} {s : State} (h : Keeps s0 s) : Keeps s0 (bindBySeatMap m s) := by
  unfold bindBySeatMap
  extract_lets -merge -useContext b
  have h_b : ∀ y0 y1 y2 z, Keeps z (b y0 y1 y2 z) := by
    intro y0 y1 y2 z
    dsimp only [b]
    repeat' first | with_reducible exact Keeps.refl _ | with_reducible apply putFs_keeps
  repeat' first
    | with_reducible assumption
    | with_reducible refine Keeps.trans ?_ (h_b _ _ _ _)
    | split

theorem bindSeat_keeps {s0 : State} {seat ifc idx udpPort udpSrc udpMask : Nat} {s : State} (h : Keeps s0 s) :
    Keeps s0 (bindSeat seat ifc idx udpPort udpSrc udpMask s) := by
  unfold bindSeat
  refine updSeat_keeps (putFs_keeps ?_)
  split
  · exact Keeps.ite (seatReset_keeps h) (putFs_keeps (seatReset_keeps (seatReset_keeps h)))
  · exact seatReset_keeps h

theorem moveObj_keeps {s0 : State} {what : Nat} {dst : Nat} {key : Nat} {s : State} (h : Keeps s0 s) :
    Keeps s0 (moveObj what dst key s) := by
  unfold moveObj
  extract_lets -merge -useContext old s1 s2
  have h_s1 : Keeps s0 s1 := by
    dsimp only [s1]
    repeat' first | with_reducible assumption | with_reducible apply setOwner_keeps
  have h_s2 : Keeps s0 s2 := by
    dsimp only [s2]
    repeat' first | with_reducible assumption | with_reducible apply objectEvent_keeps
  clear_value old s1 s2
  repeat' first | with_reducible apply Keeps.ite | with_reducible assumption | with_reducible apply objectEvent_keeps

theorem adopt_keeps {s0 : State} {dst : Nat} {keys : List Nat} {s : State} (h : Keeps s0 s) :
    Keeps s0 (adopt dst keys s) := by
  unfold adopt
  repeat' first
    | with_reducible assumption
    | with_reducible exact Keeps.refl _
    | with_reducible apply moveObj_keeps
    | with_reducible apply Keeps.foldl
    | intro _

theorem execLeaseWarning_keeps {s0 : State} {seat : Nat} {s : State} (h : Keeps s0 s) :
    KeepsO s0 (execLeaseWarning seat s) := by
  unfold execLeaseWarning
  repeat' first
    | with_reducible assumption
    | with_reducible apply KeepsO.next
    | with_reducible apply KeepsO.ite
    | with_reducible apply irq_keeps

theorem execLeaseExpiry_keeps {s0 : State} {seat : Nat} {s : State} (h : Keeps s0 s) :
    KeepsO s0 (execLeaseExpiry seat s) := by
  unfold execLeaseExpiry
  repeat' first
    | with_reducible assumption
    | with_reducible apply KeepsO.next
    | with_reducible apply KeepsO.ite
    | with_reducible apply endAttach_keeps

theorem execSeatReset_keeps {s0 : State} {seat : Nat} {s : State} (h : Keeps s0 s) : KeepsO s0 (execSeatReset seat s) := by
  unfold execSeatReset
  repeat' first
    | with_reducible assumption
    | with_reducible apply KeepsO.next
    | with_reducible apply KeepsO.ite
    | with_reducible apply seatReset_keeps

end Sys2Proof.Machine
end

