-- ==== Sys2Proof/Laws/KeepsFwImg.lean ====
section
/-! SUPPORT. The operations of Machine/FwImg.lean keep the queue, the fuses and the form of the stores. -/

namespace Sys2Proof.Machine

theorem fwImgBegin_keeps {s0 : State} {r : Sys2Proof.FwReq} {s : State} (h : Keeps s0 s) : KeepsM s0 (fwImgBegin r s) := by
  unfold fwImgBegin
  extract_lets -merge -useContext s0_1 s1 src s2
  have h_s0_1 : Keeps s0 s0_1 := by
    dsimp only [s0_1]
    repeat' first | with_reducible assumption | with_reducible apply dropSession_keeps | split
  have h_s1 : Keeps s0 s1 := by
    dsimp only [s1]
    repeat' first
      | with_reducible assumption
      | with_reducible exact Keeps.refl _
      | with_reducible apply putFs_keeps
      | with_reducible apply Keeps.foldl
      | intro _
  have h_s2 : Keeps s0 s2 := by
    dsimp only [s2]
    repeat' first
      | with_reducible assumption
      | exact rfl
      | with_reducible apply acquire_keeps
      | with_reducible apply Keeps.upd
  clear_value s0_1 s1 s2
  repeat' first
    | with_reducible assumption
    | with_reducible apply KeepsM.pure
    | (refine KeepsM.bind (fun (_ : Unit) hk => ?_); clear hk)
    | with_reducible apply putFs_keeps

theorem fwImgPiece_keeps {s0 : State} {r : Sys2Proof.FwReq} {s : State} (h : Keeps s0 s) : KeepsM s0 (fwImgPiece r s) := by
  unfold fwImgPiece
  extract_lets -merge -useContext s1 src
  have h_s1 : Keeps s0 s1 := by
    dsimp only [s1]
    repeat' first | with_reducible assumption | with_reducible apply acquire_keeps
  clear_value s1
  repeat' first
    | with_reducible assumption
    | exact rfl
    | with_reducible exact KeepsM.error
    | with_reducible apply KeepsM.pure
    | (refine KeepsM.bind (fun (_ : Unit) hk => ?_); clear hk)
    | split
    | with_reducible apply Keeps.upd

theorem fwImgData_keeps {s0 : State} {r : Sys2Proof.FwReq} {s : State} (h : Keeps s0 s) : KeepsM s0 (fwImgData r s) := by
  unfold fwImgData
  extract_lets -merge -useContext n
  clear_value n
  repeat' first
    | with_reducible assumption
    | with_reducible apply KeepsM.pure
    | (refine KeepsM.bind (fun (_ : Unit) hk => ?_); clear hk)
    | with_reducible apply putAshBytes_keeps
    | with_reducible apply acquire_keeps

theorem refusePiece_keeps {s0 : State} {x : Session} {seq : Nat} {e : VErr} {s : State} (h : Keeps s0 s) :
    Keeps s0 (refusePiece x seq e s) := by
  unfold refusePiece
  extract_lets -merge -useContext s1 src
  have h_s1 : Keeps s0 s1 := by
    dsimp only [s1]
    repeat' first | with_reducible assumption | with_reducible apply dropSession_keeps
  clear_value s1
  repeat' first | with_reducible assumption | exact rfl | with_reducible apply cmdDone_keeps | with_reducible apply Keeps.upd

theorem relayPiece_keeps {s0 : State} {x : Session} {off : Nat} {bs : List Nat} {s : State} (h : Keeps s0 s) :
    Keeps s0 (relayPiece x off bs s) := by
  unfold relayPiece
  repeat' first | with_reducible apply Keeps.ite | with_reducible assumption | with_reducible apply emit_keeps

-- TODO judgePiece

theorem judgePiece_keeps {s0 : State} {x : Session} {off : Nat} {bs : List Nat} {s t : State} (h : Keeps s0 s)
    (ht : judgePiece x off bs s = .ok t) : Keeps s0 t := by
  unfold judgePiece at ht
  extract_lets -merge -useContext m es ps full y s1 src s2 at ht
  have h1 : Keeps s0 s1 := Keeps.foldl (fun _ _ => placeSection_keeps (Keeps.refl _)) h
  have h2 : Keeps s0 s2 := Keeps.upd h1 rfl rfl rfl
  clear_value s2
  simp only [bind, Except.bind] at ht
  split at ht
  · cases ht
  · split at ht
    · split at ht
      · cases ht
      · cases ht
        exact reportImage_keeps (Keeps.upd h2 rfl rfl rfl)
    · cases ht
      exact h2

theorem execPieceVerifyDone_keeps {s0 : State} {s : State} (h : Keeps s0 s) : KeepsO s0 (execPieceVerifyDone s) := by
  unfold execPieceVerifyDone
  split
  · exact .next h
  · split
    · exact .next h
    · dsimp only
      split
      · rename_i t ht
        exact .next (cmdDone_keeps (relayPiece_keeps (judgePiece_keeps (fwAshReads_keeps h) ht)))
      · exact .next (refusePiece_keeps (fwAshReads_keeps h))

theorem turnFamily_keeps {s0 : State} {f : Nat} {s : State} (h : Keeps s0 s) : Keeps s0 (turnFamily f s) := by
  unfold turnFamily
  repeat' first
    | with_reducible assumption
    | with_reducible apply synEnable_keeps
    | with_reducible apply putF_keeps
    | with_reducible apply synDisable_keeps

theorem commitStopped_keeps {s0 : State} {img : Img} {s : State} (h : Keeps s0 s) : Keeps s0 (commitStopped img s) := by
  unfold commitStopped
  extract_lets -merge -useContext s1 s2 src
  have h_s1 : Keeps s0 s1 := by
    dsimp only [s1]
    repeat' first | with_reducible assumption | with_reducible apply recommit_keeps
  have h_s2 : Keeps s0 s2 := by
    dsimp only [s2]
    repeat' first | with_reducible apply Keeps.ite | with_reducible assumption | with_reducible apply turnFamily_keeps
  clear_value s1 s2
  repeat' first
    | with_reducible apply Keeps.ite
    | with_reducible assumption
    | exact rfl
    | with_reducible apply startFabric_keeps
    | with_reducible apply Keeps.upd

theorem armSplice_keeps {s0 : State} {e : Nat} {img : Img} {s : State} (h : Keeps s0 s) : Keeps s0 (armSplice e img s) := by
  unfold armSplice
  extract_lets -merge -useContext s1
  have h_s1 : Keeps s0 s1 := by
    dsimp only [s1]
    repeat' first
      | with_reducible assumption
      | with_reducible exact Keeps.refl _
      | with_reducible apply putF_keeps
      | with_reducible apply loadSpliceSets_keeps
      | with_reducible apply Keeps.foldl
      | intro _
  clear_value s1
  repeat' first | with_reducible assumption | with_reducible apply putF_keeps | with_reducible apply setImgState_keeps

theorem commitRunning_keeps {s0 : State} {r : Sys2Proof.FwReq} {old : Img} {img : Img} {s : State} (h : Keeps s0 s) :
    KeepsM s0 (commitRunning r old img s) := by
  unfold commitRunning
  extract_lets -merge -useContext m ok splice kind t drop e
  clear_value m ok splice kind t drop e
  repeat' first
    | with_reducible apply Keeps.ite
    | with_reducible assumption
    | with_reducible apply KeepsM.pure
    | (refine KeepsM.bind (fun (_ : Unit) hk => ?_); clear hk)
    | refine KeepsM.bind (fun _ _ => ?_)
    | with_reducible apply arm_keeps
    | with_reducible apply acquire_keeps
    | with_reducible apply armSplice_keeps

theorem fwImgCommit_stopped_keeps {s0 : State} {r : Sys2Proof.FwReq} {s : State} {img : Img} (h : Keeps s0 s) :
    KeepsM s0 (fwImgCommit.stopped r s img) := by
  unfold fwImgCommit.stopped
  repeat' first
    | with_reducible assumption
    | with_reducible apply KeepsM.pure
    | (refine KeepsM.bind (fun (_ : Unit) hk => ?_); clear hk)
    | with_reducible apply commitStopped_keeps
    | with_reducible apply acquire_keeps

theorem fwImgCommit_keeps {s0 : State} {r : FwReq} {s : State} (h : Keeps s0 s) : KeepsM s0 (fwImgCommit r s) := by
  unfold fwImgCommit
  refine KeepsM.bind (fun (_ : Unit) _ => KeepsM.bind (fun (_ : Unit) _ => KeepsM.bind (fun (_ : Unit) _ =>
    KeepsM.bind (fun (_ : Unit) _ => ?_))))
  split
  · exact KeepsM.error
  · refine KeepsM.bind (fun (_ : Unit) _ => ?_)
    split
    · split
      · exact KeepsM.bind (fun (_ : Unit) _ => commitRunning_keeps h)
      · exact fwImgCommit_stopped_keeps h
    · exact fwImgCommit_stopped_keeps h

theorem cancelAsked_keeps {s0 : State} {i : Nat} {e : Sched} {s : State} (h : Keeps s0 s) :
    Keeps s0 (cancelAsked i e s) := by
  unfold cancelAsked
  repeat' first | with_reducible assumption | with_reducible apply queueEv_keeps | with_reducible apply cancelEntry_keeps

theorem fwImgAbort_keeps {s0 : State} {r : FwReq} {s : State} (h : Keeps s0 s) : KeepsM s0 (fwImgAbort r s) := by
  have hd : ∀ {a : State}, Keeps s0 a →
      Keeps s0 (match (acquire r 1 0 a).fab.session with
        | some x => dropSession x.seat (acquire r 1 0 a) | none => acquire r 1 0 a) := fun ha => by
    split
    · exact dropSession_keeps (acquire_keeps ha)
    · exact acquire_keeps ha
  unfold fwImgAbort
  refine KeepsM.bind (fun (_ : Unit) _ => KeepsM.bind (fun (_ : Unit) _ => KeepsM.bind (fun (_ : Unit) _ => ?_)))
  dsimp only
  split
  · refine KeepsM.bind (fun e _ => KeepsM.bind (fun a ha => ?_))
    cases ha
    exact KeepsM.bind (fun (_ : Unit) _ => KeepsM.ok (hd (cancelAsked_keeps h)))
  · refine KeepsM.bind (fun (_ : Unit) _ => KeepsM.bind (fun a ha => ?_))
    cases ha
    exact KeepsM.bind (fun (_ : Unit) _ => KeepsM.ok (hd h))

theorem fwImgStatus_keeps {s0 : State} {r : Sys2Proof.FwReq} {s : State} (h : Keeps s0 s) : KeepsM s0 (fwImgStatus r s) := by
  unfold fwImgStatus
  extract_lets -merge -useContext x
  clear_value x
  repeat' first
    | with_reducible assumption
    | with_reducible apply KeepsM.pure
    | (refine KeepsM.bind (fun (_ : Unit) hk => ?_); clear hk)

theorem fwImgPath_keeps {s0 : State} {r : Sys2Proof.FwReq} {s : State} (h : Keeps s0 s) : KeepsM s0 (fwImgPath r s) := by
  unfold fwImgPath
  extract_lets -merge -useContext src dst found tin tout lag
  clear_value dst found tin tout lag
  repeat' first
    | with_reducible assumption
    | with_reducible exact KeepsM.error
    | with_reducible apply KeepsM.pure
    | (refine KeepsM.bind (fun (_ : Unit) hk => ?_); clear hk)
    | split

theorem fwImgLend_keeps {s0 : State} {r : Sys2Proof.FwReq} {s : State} (h : Keeps s0 s) : KeepsM s0 (fwImgLend r s) := by
  unfold fwImgLend
  extract_lets -merge -useContext b
  clear_value b
  repeat' first
    | with_reducible assumption
    | with_reducible apply KeepsM.pure
    | refine KeepsM.bindK ?_ (fun _ _ => ?_)
    | (refine KeepsM.bind (fun (_ : Unit) hk => ?_); clear hk)
    | with_reducible apply portBatch_keeps
    | with_reducible apply acquire_keeps

theorem fwImgKey_keeps {s0 : State} {r : Sys2Proof.FwReq} {s : State} (h : Keeps s0 s) : KeepsM s0 (fwImgKey r s) := by
  unfold fwImgKey
  extract_lets -merge -useContext k key s1 src
  have h_s1 : Keeps s0 s1 := by
    dsimp only [s1]
    repeat' first | with_reducible assumption | with_reducible apply acquire_keeps
  clear_value k key s1
  repeat' first
    | with_reducible assumption
    | exact rfl
    | with_reducible apply KeepsM.pure
    | (refine KeepsM.bind (fun (_ : Unit) hk => ?_); clear hk)
    | split
    | with_reducible apply Keeps.upd

theorem execImgBegin_keeps {s0 : State} {r : Sys2Proof.FwReq} {s : State} (h : Keeps s0 s) :
    KeepsO s0 (execImgBegin r s) := by
  unfold execImgBegin
  repeat' first
    | with_reducible assumption
    | with_reducible exact Keeps.refl _
    | with_reducible apply fwRow_keeps
    | with_reducible apply fwImgBegin_keeps
    | intro _

theorem execImgPiece_keeps {s0 : State} {r : Sys2Proof.FwReq} {s : State} (h : Keeps s0 s) :
    KeepsO s0 (execImgPiece r s) := by
  unfold execImgPiece
  repeat' first
    | with_reducible assumption
    | with_reducible exact Keeps.refl _
    | with_reducible apply fwRow_keeps
    | with_reducible apply fwImgPiece_keeps
    | intro _

theorem execImgData_keeps {s0 : State} {r : Sys2Proof.FwReq} {s : State} (h : Keeps s0 s) : KeepsO s0 (execImgData r s) := by
  unfold execImgData
  repeat' first
    | with_reducible assumption
    | with_reducible exact Keeps.refl _
    | with_reducible apply fwRow_keeps
    | with_reducible apply fwImgData_keeps
    | intro _

theorem execImgCommit_keeps {s0 : State} {r : Sys2Proof.FwReq} {s : State} (h : Keeps s0 s) :
    KeepsO s0 (execImgCommit r s) := by
  unfold execImgCommit
  repeat' first
    | with_reducible assumption
    | with_reducible exact Keeps.refl _
    | with_reducible apply fwRow_keeps
    | with_reducible apply fwImgCommit_keeps
    | intro _

theorem execImgAbort_keeps {s0 : State} {r : Sys2Proof.FwReq} {s : State} (h : Keeps s0 s) :
    KeepsO s0 (execImgAbort r s) := by
  unfold execImgAbort
  repeat' first
    | with_reducible assumption
    | with_reducible exact Keeps.refl _
    | with_reducible apply fwRow_keeps
    | with_reducible apply fwImgAbort_keeps
    | intro _

theorem execImgStatus_keeps {s0 : State} {r : Sys2Proof.FwReq} {s : State} (h : Keeps s0 s) :
    KeepsO s0 (execImgStatus r s) := by
  unfold execImgStatus
  repeat' first
    | with_reducible assumption
    | with_reducible exact Keeps.refl _
    | with_reducible apply fwRow_keeps
    | with_reducible apply fwImgStatus_keeps
    | intro _

theorem execImgPath_keeps {s0 : State} {r : Sys2Proof.FwReq} {s : State} (h : Keeps s0 s) : KeepsO s0 (execImgPath r s) := by
  unfold execImgPath
  repeat' first
    | with_reducible assumption
    | with_reducible exact Keeps.refl _
    | with_reducible apply fwRow_keeps
    | with_reducible apply fwImgPath_keeps
    | intro _

theorem execImgLend_keeps {s0 : State} {r : Sys2Proof.FwReq} {s : State} (h : Keeps s0 s) : KeepsO s0 (execImgLend r s) := by
  unfold execImgLend
  repeat' first
    | with_reducible assumption
    | with_reducible exact Keeps.refl _
    | with_reducible apply fwRow_keeps
    | with_reducible apply fwImgLend_keeps
    | intro _

theorem execImgKey_keeps {s0 : State} {r : Sys2Proof.FwReq} {s : State} (h : Keeps s0 s) : KeepsO s0 (execImgKey r s) := by
  unfold execImgKey
  repeat' first
    | with_reducible assumption
    | with_reducible exact Keeps.refl _
    | with_reducible apply fwRow_keeps
    | with_reducible apply fwImgKey_keeps
    | intro _

end Sys2Proof.Machine
end

