-- ==== Sys2Proof/Laws/KeepsMac.lean ====
section
/-! SUPPORT. The operations of Machine/Mac.lean keep the queue, the fuses and the form of the stores. -/

namespace Sys2Proof.Machine

theorem linkDown_keeps {s0 : State} {m : Nat} {s : State} (h : Keeps s0 s) : Keeps s0 (linkDown m s) := by
  unfold linkDown
  extract_lets -merge -useContext t back s1
  have h_back : ∀ y0 y1 z, Keeps z (back y0 y1 z) := by
    intro y0 y1 z
    dsimp only [back]
    repeat' first | with_reducible exact Keeps.refl _ | with_reducible apply putF_keeps | split
  have h_s1 : Keeps s0 s1 := by
    dsimp only [s1]
    repeat' first
      | with_reducible assumption
      | with_reducible refine Keeps.trans ?_ (h_back _ _ _)
      | with_reducible apply cntAdd_keeps
  clear_value t s1
  repeat' first | with_reducible assumption | with_reducible apply updMac_keeps | with_reducible apply putFs_keeps

theorem judgeLink_keeps {s0 : State} {m : Nat} {s : State} (h : Keeps s0 s) : Keeps s0 (judgeLink m s) := by
  unfold judgeLink
  extract_lets -merge -useContext src ok s1 was
  have h_s1 : Keeps s0 s1 := by
    dsimp only [s1]
    repeat' first | with_reducible assumption | with_reducible apply putB_keeps
  clear_value ok s1 was
  repeat' first
    | with_reducible apply Keeps.ite
    | with_reducible assumption
    | with_reducible apply macLinkEvent_keeps
    | with_reducible apply putF_keeps
    | with_reducible apply linkDown_keeps
    | with_reducible apply putFs_keeps

theorem execMacLinkChange_keeps {s0 : State} {mac : Nat} {lock : Bool} {report : Bool} {rate : Nat} {receiving : Bool} {s : State}
    (h : Keeps s0 s) : KeepsO s0 (execMacLinkChange mac lock report rate receiving s) := by
  unfold execMacLinkChange
  extract_lets -merge -useContext s1
  have h_s1 : Keeps s0 s1 := by
    dsimp only [s1]
    repeat' first
      | with_reducible assumption
      | with_reducible apply judgeLink_keeps
      | with_reducible apply updMac_keeps
      | with_reducible apply putB_keeps
  clear_value s1
  repeat' first
    | with_reducible apply Keeps.ite
    | with_reducible assumption
    | with_reducible apply KeepsO.next
    | with_reducible apply KeepsO.ite
    | with_reducible apply cntAdd_keeps

theorem pauseFrame_keeps {s0 : State} {m : Nat} {q : Nat} {s : State} (h : Keeps s0 s) : Keeps s0 (pauseFrame m q s) := by
  unfold pauseFrame
  extract_lets -merge -useContext s1
  have h_s1 : Keeps s0 s1 := by
    dsimp only [s1]
    repeat' first | with_reducible assumption | with_reducible apply cntAdd_keeps
  clear_value s1
  repeat' first
    | with_reducible apply Keeps.ite
    | with_reducible assumption
    | with_reducible apply cntAdd_keeps
    | with_reducible apply putF_keeps
    | with_reducible apply updMac_keeps

theorem noBuf_keeps {s0 : State} {m : Nat} {s : State} (h : Keeps s0 s) : Keeps s0 (noBuf m s) := by
  unfold noBuf
  repeat' first | with_reducible assumption | with_reducible apply putF_keeps | with_reducible apply cntAdd_keeps

theorem offer_keeps {s0 : State} {m : Nat} {stamp : Nat} {mcOnly : Bool} {b : List Nat} {s : State} (h : Keeps s0 s) :
    Keeps s0 (offer m stamp mcOnly b s) := by
  unfold offer
  extract_lets -merge -useContext strip f
  clear_value strip f
  repeat' first
    | with_reducible apply Keeps.ite
    | with_reducible assumption
    | with_reducible apply strFrame_keeps
    | with_reducible apply cntAdd_keeps
    | with_reducible apply updMac_keeps
    | with_reducible apply noBuf_keeps
    | split

theorem filterFrame_keeps {s0 : State} {m : Nat} {stamp : Nat} {b : List Nat} {s : State} (h : Keeps s0 s) :
    Keeps s0 (filterFrame m stamp b s) := by
  unfold filterFrame
  extract_lets -merge -useContext match1
  clear_value match1
  repeat' first
    | with_reducible apply Keeps.ite
    | with_reducible assumption
    | with_reducible apply offer_keeps
    | with_reducible apply cntAdd_keeps
    | split

theorem execMacRxFrame_keeps {s0 : State} {mac : Nat} {bytes : List Nat} {fcsOk : Bool} {codeErr : Bool} {half : Nat} {s : State}
    (h : Keeps s0 s) : KeepsO s0 (execMacRxFrame mac bytes fcsOk codeErr half s) := by
  unfold execMacRxFrame
  extract_lets -merge -useContext len s1 s2
  have h_s1 : Keeps s0 s1 := by
    dsimp only [s1]
    repeat' first | with_reducible assumption | with_reducible apply countGood_keeps
  have h_s2 : Keeps s0 s2 := by
    dsimp only [s2]
    repeat' first | with_reducible apply Keeps.ite | with_reducible assumption | with_reducible apply cntAdd_keeps
  clear_value len s1 s2
  repeat' first
    | with_reducible assumption
    | with_reducible apply KeepsO.next
    | with_reducible apply KeepsO.ite
    | with_reducible apply cntAdd_keeps
    | with_reducible apply pauseFrame_keeps
    | with_reducible apply filterFrame_keeps

theorem takeDescs_keeps {s0 : State} {m base size i need got n : Nat} {s : State} (h : Keeps s0 s) :
    Keeps s0 (takeDescs m base size i need got n s).2 := by
  induction n generalizing i got s with
  | zero => exact h
  | succ n ih =>
    unfold takeDescs
    dsimp only
    split
    · exact dmaWord_keeps h
    · split
      · exact dmaWord_keeps (dmaWord_keeps h)
      · exact ih (dmaWord_keeps (dmaWord_keeps h))

theorem fillDescs_keeps {s0 : State} {m : Nat} {b : List Nat} {a0 : List (Nat × Nat × Nat)} {a1 : State} (h : Keeps s0 a1) :
    Keeps s0 (fillDescs m b a0 a1).2 := by
  induction a0 generalizing m b a1 with
  | nil => exact h
  | cons x xs ih =>
    unfold fillDescs
    repeat' first | with_reducible apply ih | with_reducible assumption | with_reducible apply dmaWrite_keeps

theorem Keeps.foldr {α : Type} {f : α → State → State} {l : List α} {s0 s : State} (hf : ∀ a x, Keeps x (f a x))
    (h : Keeps s0 s) : Keeps s0 (l.foldr f s) := by
  induction l with
  | nil => exact h
  | cons a t ih => exact ih.trans (hf a _)

theorem deliver_keeps {s0 : State} {m : Nat} {f : RxFrame} {r : Nat} {s : State} (h : Keeps s0 s) :
    Keeps s0 (deliver m f r s) := by
  unfold deliver
  extract_lets -merge -useContext base size head x
  have hx : Keeps s0 x.2 := takeDescs_keeps h
  clear_value x
  split
  · exact noBuf_keeps hx
  · extract_lets -merge -useContext y back s1
    have hb : ∀ d z, Keeps z (back d z) := fun d z => by
      dsimp only [back]
      exact Keeps.ite (cntAdd_keeps (dmaWrite_keeps (Keeps.refl _))) (dmaWrite_keeps (Keeps.refl _))
    have h1 : Keeps s0 s1 := Keeps.foldr hb (fillDescs_keeps hx)
    clear_value s1
    exact cntAdd_keeps (putF_keeps (putF_keeps h1))

theorem execRingFrameDeliver_keeps {s0 : State} {mac : Nat} {s : State} (h : Keeps s0 s) :
    KeepsO s0 (execRingFrameDeliver mac s) := by
  unfold execRingFrameDeliver
  repeat' first
    | with_reducible assumption
    | with_reducible apply KeepsO.next
    | with_reducible apply updMac_keeps
    | with_reducible apply deliver_keeps
    | with_reducible apply noBuf_keeps
    | split

theorem readChain_keeps {s0 : State} {m : Nat} {base : Nat} {size : Nat} {i : Nat} {a0 : Nat} {a1 : State}
    (h : Keeps s0 a1) : Keeps s0 (readChain m base size i a0 a1).2 := by
  induction a0 generalizing m base size i a1 with
  | zero => exact h
  | succ k ih =>
    unfold readChain
    repeat' first
      | with_reducible apply ih
      | with_reducible apply Keeps.ite_snd
      | with_reducible assumption
      | with_reducible apply dmaWord_keeps

theorem returnDesc_keeps {s0 : State} {m : Nat} {base : Nat} {size : Nat} {i : Nat} {bad : Bool} {sent : Bool} {s : State}
    (h : Keeps s0 s) : Keeps s0 (returnDesc m base size i bad sent s) := by
  unfold returnDesc
  extract_lets -merge -useContext a w
  have h_w : Keeps s0 w.2 := by
    dsimp only [w]
    repeat' first | with_reducible assumption | with_reducible apply dmaWord_keeps
  clear_value a w
  repeat' first | with_reducible assumption | with_reducible apply dmaWrite_keeps

theorem txDone_keeps {s0 : State} {m : Nat} {r : Nat} {s : State} (h : Keeps s0 s) : Keeps s0 (txDone m r s) := by
  unfold txDone
  repeat' first | with_reducible assumption | with_reducible apply putF_keeps

theorem errChain_keeps {s0 : State} {m : Nat} {r : Nat} {base : Nat} {size : Nat} {ds : List (Nat × Nat × Nat)} {s : State}
    (h : Keeps s0 s) : Keeps s0 (errChain m r base size ds s) := by
  unfold errChain
  extract_lets -merge -useContext s1
  have h_s1 : Keeps s0 s1 := by
    dsimp only [s1]
    repeat' first
      | with_reducible apply Keeps.ite
      | with_reducible assumption
      | with_reducible exact Keeps.refl _
      | with_reducible apply returnDesc_keeps
      | with_reducible apply cntAdd_keeps
      | with_reducible apply Keeps.foldl
      | intro _
  clear_value s1
  repeat' first | with_reducible assumption | with_reducible apply cntAdd_keeps | with_reducible apply txDone_keeps

theorem gatherChain_keeps {s0 : State} {m : Nat} {a0 : List (Nat × Nat × Nat)} {a1 : State} (h : Keeps s0 a1) :
    Keeps s0 (gatherChain m a0 a1).2 := by
  induction a0 generalizing m a1 with
  | nil => exact h
  | cons x xs ih =>
    unfold gatherChain
    repeat' first | with_reducible apply ih | with_reducible assumption | with_reducible apply dmaRead_keeps

theorem fetchChain_keeps {s0 : State} {m : Nat} {r : Nat} {s : State} (h : Keeps s0 s) : Keeps s0 (fetchChain m r s) := by
  unfold fetchChain
  extract_lets -merge -useContext base size head adv w c ins
  have h_adv : ∀ y0 z, Keeps z (adv y0 z) := by
    intro y0 z
    dsimp only [adv]
    repeat' first | with_reducible exact Keeps.refl _ | with_reducible apply putF_keeps
  have h_w : Keeps s0 w.2 := by
    dsimp only [w]
    repeat' first | with_reducible assumption | with_reducible apply dmaWord_keeps
  have h_c : Keeps s0 c.2 := by
    dsimp only [c]
    repeat' first | with_reducible assumption | with_reducible apply readChain_keeps
  clear_value base size head w c ins
  repeat' first
    | with_reducible apply Keeps.ite
    | with_reducible assumption
    | with_reducible refine Keeps.trans ?_ (h_adv _ _)
    | with_reducible apply txDone_keeps
    | with_reducible apply cntAdd_keeps
    | with_reducible apply returnDesc_keeps
    | with_reducible apply errChain_keeps
    | with_reducible apply gatherChain_keeps
    | with_reducible apply updMac_keeps
    | split

theorem execTxChainFetch_keeps {s0 : State} {mac : Nat} {ring : Nat} {s : State} (h : Keeps s0 s) :
    KeepsO s0 (execTxChainFetch mac ring s) := by
  unfold execTxChainFetch
  repeat' first
    | with_reducible assumption
    | with_reducible apply KeepsO.next
    | with_reducible apply KeepsO.ite
    | with_reducible apply fetchChain_keeps

theorem wire_keeps {s0 : State} {m : Nat} {b : List Nat} {s : State} (h : Keeps s0 s) : Keeps s0 (wire m b s) := by
  unfold wire
  extract_lets -merge -useContext s1
  have h_s1 : Keeps s0 s1 := by
    dsimp only [s1]
    repeat' first | with_reducible assumption | with_reducible apply countGood_keeps
  clear_value s1
  repeat' first
    | with_reducible apply Keeps.ite
    | with_reducible assumption
    | with_reducible apply emit_keeps
    | with_reducible apply cntAdd_keeps

theorem sendCtrl_keeps {s0 : State} {m : Nat} {r : Nat} {half : Nat} {f : TxFrame} {s : State} (h : Keeps s0 s) :
    Keeps s0 (sendCtrl m r half f s) := by
  unfold sendCtrl
  extract_lets -merge -useContext time base size s1 s2
  have h_s1 : Keeps s0 s1 := by
    dsimp only [s1]
    repeat' first
      | with_reducible apply Keeps.ite
      | with_reducible assumption
      | with_reducible exact Keeps.refl _
      | with_reducible apply cntAdd_keeps
      | with_reducible apply returnDesc_keeps
      | with_reducible apply wire_keeps
      | with_reducible apply Keeps.foldl
      | intro _
  have h_s2 : Keeps s0 s2 := by
    dsimp only [s2]
    repeat' first
      | with_reducible apply Keeps.ite
      | with_reducible assumption
      | with_reducible exact Keeps.refl _
      | with_reducible apply dmaWord_keeps
      | with_reducible apply dmaWrite_keeps
      | with_reducible apply Keeps.foldl
      | intro _
  clear_value time base size s1 s2
  repeat' first | with_reducible assumption | with_reducible apply txDone_keeps

theorem execMacTxFrameStart_keeps {s0 : State} {mac : Nat} {half : Nat} {s : State} (h : Keeps s0 s) :
    KeepsO s0 (execMacTxFrameStart mac half s) := by
  unfold execMacTxFrameStart
  extract_lets -merge -useContext t
  clear_value t
  repeat' first
    | with_reducible assumption
    | with_reducible apply KeepsO.next
    | with_reducible apply KeepsO.ite
    | with_reducible apply wire_keeps
    | with_reducible apply cntAdd_keeps
    | with_reducible apply updMac_keeps
    | with_reducible apply sendCtrl_keeps
    | split

theorem execPauseExpiry_keeps {s0 : State} {mac : Nat} {s : State} (h : Keeps s0 s) : KeepsO s0 (execPauseExpiry mac s) := by
  unfold execPauseExpiry
  repeat' first
    | with_reducible assumption
    | with_reducible apply KeepsO.next
    | with_reducible apply KeepsO.ite
    | with_reducible apply cntAdd_keeps
    | with_reducible apply putF_keeps

theorem execPauseWatchdogExpiry_keeps {s0 : State} {mac : Nat} {s : State} (h : Keeps s0 s) :
    KeepsO s0 (execPauseWatchdogExpiry mac s) := by
  unfold execPauseWatchdogExpiry
  extract_lets -merge -useContext s1
  have h_s1 : Keeps s0 s1 := by
    dsimp only [s1]
    repeat' first | with_reducible assumption | with_reducible apply cntAdd_keeps | with_reducible apply putFs_keeps
  clear_value s1
  repeat' first
    | with_reducible assumption
    | with_reducible apply KeepsO.next
    | with_reducible apply KeepsO.ite
    | with_reducible apply raiseOwner_keeps

theorem execPauseIgnoreEnd_keeps {s0 : State} {mac : Nat} {s : State} (h : Keeps s0 s) :
    KeepsO s0 (execPauseIgnoreEnd mac s) := by
  unfold execPauseIgnoreEnd
  repeat' first
    | with_reducible assumption
    | with_reducible apply KeepsO.next
    | with_reducible apply KeepsO.ite
    | with_reducible apply putF_keeps

theorem snapCounters_keeps {s0 : State} {m : Nat} {s : State} (h : Keeps s0 s) : Keeps s0 (snapCounters m s) := by
  unfold snapCounters
  repeat' first
    | with_reducible assumption
    | with_reducible exact Keeps.refl _
    | with_reducible apply putF_keeps
    | with_reducible apply Keeps.foldl
    | intro _

theorem execMacCounterSnap_keeps {s0 : State} {mac : Nat} {s : State} (h : Keeps s0 s) :
    KeepsO s0 (execMacCounterSnap mac s) := by
  unfold execMacCounterSnap
  repeat' first
    | with_reducible assumption
    | with_reducible apply KeepsO.next
    | with_reducible apply KeepsO.ite
    | with_reducible apply snapCounters_keeps

theorem ringEnable_keeps {s0 : State} {m : Nat} {tx : Bool} {r : Nat} {en : Bool} {s : State} (h : Keeps s0 s) :
    Keeps s0 (ringEnable m tx r en s) := by
  unfold ringEnable
  extract_lets -merge -useContext f h_1
  clear_value f h_1
  repeat' first
    | with_reducible apply Keeps.ite
    | with_reducible assumption
    | with_reducible apply putF_keeps
    | with_reducible apply putB_keeps

theorem execRingEnable_keeps {s0 : State} {mac : Nat} {tx : Bool} {ring : Nat} {en : Bool} {s : State} (h : Keeps s0 s) :
    KeepsO s0 (execRingEnable mac tx ring en s) := by
  unfold execRingEnable
  repeat' first
    | with_reducible assumption
    | with_reducible apply KeepsO.next
    | with_reducible apply KeepsO.ite
    | with_reducible apply ringEnable_keeps

theorem mdioStart_keeps {s0 : State} {bus : Nat} {o : MdioOp} {s : State} (h : Keeps s0 s) :
    Keeps s0 (mdioStart bus o s) := by
  unfold mdioStart
  repeat' first | with_reducible assumption | with_reducible apply emit_keeps

theorem mdioQueue_keeps {s0 : State} {bus : Nat} {o : MdioOp} {s : State} (h : Keeps s0 s) :
    Keeps s0 (mdioQueue bus o s) := by
  unfold mdioQueue
  extract_lets -merge -useContext q src s1
  have h_s1 : Keeps s0 s1 := by
    dsimp only [s1]
    repeat' first | with_reducible assumption | exact rfl | with_reducible apply Keeps.upd
  clear_value q s1
  repeat' first | with_reducible apply Keeps.ite | with_reducible assumption | with_reducible apply mdioStart_keeps

theorem execMdioPoll_keeps {s0 : State} {mac : Nat} {s : State} (h : Keeps s0 s) : KeepsO s0 (execMdioPoll mac s) := by
  unfold execMdioPoll
  repeat' first
    | with_reducible assumption
    | with_reducible apply KeepsO.next
    | with_reducible apply KeepsO.ite
    | with_reducible apply mdioQueue_keeps

theorem mdioCommand_keeps {s0 : State} {bus : Nat} {value : Nat} {s : State} (h : Keeps s0 s) :
    Keeps s0 (mdioCommand bus value s) := by
  unfold mdioCommand
  extract_lets -merge -useContext s1
  have h_s1 : Keeps s0 s1 := by
    dsimp only [s1]
    repeat' first | with_reducible assumption | with_reducible apply putFs_keeps
  clear_value s1
  repeat' first | with_reducible assumption | with_reducible apply mdioQueue_keeps

theorem execMdioTransaction_keeps {s0 : State} {bus : Nat} {value : Nat} {s : State} (h : Keeps s0 s) :
    KeepsO s0 (execMdioTransaction bus value s) := by
  unfold execMdioTransaction
  repeat' first
    | with_reducible assumption
    | with_reducible apply KeepsO.next
    | with_reducible apply KeepsO.ite
    | with_reducible apply mdioCommand_keeps

theorem execMdioDone_keeps {s0 : State} {bus : Nat} {data : Nat} {s : State} (h : Keeps s0 s) :
    KeepsO s0 (execMdioDone bus data s) := by
  unfold execMdioDone
  extract_lets -merge -useContext src
  repeat' first
    | with_reducible assumption
    | exact rfl
    | with_reducible apply KeepsO.next
    | with_reducible apply judgeLink_keeps
    | with_reducible apply updMac_keeps
    | with_reducible apply putF_keeps
    | with_reducible apply putB_keeps
    | with_reducible apply mdioStart_keeps
    | split
    | with_reducible apply Keeps.upd

end Sys2Proof.Machine
end

