-- ==== Sys2Proof/Laws/KeepsReset.lean ====
section
/-! SUPPORT. The operations of Machine/Reset.lean keep the queue, the fuses and the form of the stores. -/

namespace Sys2Proof.Machine

theorem foldl_put_rising {α : Type} {l m : AMap α} (h : m.Pairwise (fun a b => a.1 < b.1)) :
    (l.foldl (fun (m : AMap α) p => m.put p.1 p.2) m).Pairwise (fun a b => a.1 < b.1) := by
  induction l generalizing m with
  | nil => exact h
  | cons p l ih => exact ih (AMap.put_rising h _ _)

theorem mapVals_tiles {f : Tile → Tile} {m : AMap Tile} (hf : ∀ t, tileWf t → tileWf (f t)) (h : ∀ p ∈ m, tileWf p.2) :
    ∀ p ∈ m.mapVals f Tile.init, tileWf p.2 := by
  intro p hp
  unfold AMap.mapVals at hp
  have : ∀ {l a : AMap Tile}, (∀ q ∈ l, tileWf q.2) → (∀ q ∈ a, tileWf q.2) →
      ∀ q ∈ l.foldl (fun a p => a.set p.1 (f p.2) Tile.init) a, tileWf q.2 := by
    intro l
    induction l with
    | nil => exact fun _ ha => ha
    | cons x l ih =>
      intro a hl ha
      refine ih (fun q hq => hl q (List.mem_cons_of_mem _ hq)) (fun q hq => ?_)
      rcases AMap_mem_set hq with rfl | hq
      · exact hf _ (hl x (List.mem_cons_self ..))
      · exact ha q hq
  exact this h (fun _ hq => absurd hq (by simp)) p hp

theorem fabReset_keeps {s0 : State} {quiet : Bool} {s : State} (h : Keeps s0 s) : Keeps s0 (fabReset quiet s) := by
  unfold fabReset
  refine watchLife_keeps (fun x => ?_) h
  extract_lets -merge -useContext s1 keep regs q1 fab q2 pair q3
  have h1 : Keeps x s1 := by
    dsimp only [s1]
    split
    · exact dropSession_keeps (Keeps.refl _)
    · exact Keeps.refl _
  have hr : s1.regs.Pairwise (fun a b => a.1 < b.1) → regs.Pairwise (fun a b => a.1 < b.1) := fun i =>
    foldl_put_rising (AMap.filter_rising (AMap.filter_rising i _) _)
  clear_value keep regs fab pair s1
  refine Keeps.mk h1.pending h1.fuses (fun i => ?_)
  have k := h1.stores i
  exact ⟨hr k.regs, i.ashlar, k.wram, k.flash, mapVals_tiles (fun _ w => w) i.tiles⟩

theorem putRegs_keeps {s0 : State} {l : AMap Nat} {s : State} (h : Keeps s0 s) : Keeps s0 (putRegs l s) :=
  h.upd_stores (fun i => ⟨foldl_put_rising i.regs, i.ashlar, i.wram, i.flash, i.tiles⟩)

theorem rebuildSettings_keeps {s0 : State} {s : State} (h : Keeps s0 s) : Keeps s0 (rebuildSettings s) := by
  unfold rebuildSettings
  extract_lets -merge -useContext src src_2
  repeat' first
    | with_reducible apply Keeps.ite
    | with_reducible assumption
    | exact rfl
    | with_reducible apply putRegs_keeps
    | split
    | with_reducible apply Keeps.upd

theorem rebuildSets_keeps {s0 : State} {sil : Sys2Proof.AMap (Nat × Nat)} {s : State} (h : Keeps s0 s) :
    Keeps s0 (rebuildSets sil s) := by
  unfold rebuildSets
  extract_lets -merge -useContext src s0_1 src_2 src_3
  have h_s0_1 : Keeps s0 s0_1 := by
    dsimp only [s0_1]
    repeat' first | with_reducible assumption | exact rfl | with_reducible apply Keeps.upd
  clear_value s0_1
  repeat' first
    | with_reducible assumption
    | exact rfl
    | with_reducible apply putRegs_keeps
    | split
    | with_reducible apply Keeps.upd

theorem recommitHeld_keeps {s0 : State} {s : State} (h : Keeps s0 s) : Keeps s0 (recommitHeld s) := by
  unfold recommitHeld
  repeat' first
    | with_reducible assumption
    | with_reducible apply rebuildSets_keeps
    | with_reducible apply recommit_keeps
    | split

theorem fwRecover_keeps {s0 : State} {s : State} (h : Keeps s0 s) : Keeps s0 (fwRecover s) := by
  unfold fwRecover
  extract_lets -merge -useContext s1
  have h_s1 : Keeps s0 s1 := by
    dsimp only [s1]
    repeat' first | with_reducible assumption | with_reducible apply rebuildSettings_keeps
  clear_value s1
  repeat' first
    | with_reducible apply Keeps.ite
    | with_reducible assumption
    | with_reducible apply startFabric_keeps
    | with_reducible apply recommitHeld_keeps

theorem execFabReset_keeps {s0 : State} {s : State} (h : Keeps s0 s) : KeepsO s0 (execFabReset s) := by
  unfold execFabReset
  repeat' first
    | with_reducible assumption
    | with_reducible apply KeepsO.next
    | with_reducible apply KeepsO.ite
    | with_reducible apply fwRecover_keeps
    | with_reducible apply fabReset_keeps

theorem dropStaging_keeps {s0 : State} {s : State} (h : Keeps s0 s) : Keeps s0 (dropStaging s) := by
  unfold dropStaging
  extract_lets -merge -useContext armed pages free dynSh dyn src src_2 fab src_3 src_4
  clear_value armed pages free dynSh dyn fab
  repeat' first | with_reducible assumption | exact rfl | with_reducible apply Keeps.upd

theorem ctlReset_keeps {s0 : State} {s : State} (h : Keeps s0 s) : Keeps s0 (ctlReset s) := by
  unfold ctlReset
  extract_lets -merge -useContext s1 fail s2 s3 q1 ctl q2 fw q3 net q4 s4
  have h1 : Keeps s0 s1 := Keeps.foldl (fun _ _ => masterReset_keeps (Keeps.refl _)) h
  clear_value s1
  have h2 : Keeps s0 s2 := by
    dsimp only [s2]
    repeat' with_reducible apply setIf_keeps
    exact wrap_keeps h1
  clear_value s2
  have h3 : Keeps s0 s3 := h2.upd_stores (fun i => ⟨AMap.filter_rising i.regs _, i.ashlar, i.wram, i.flash, i.tiles⟩)
  have h4 : Keeps s0 s4 := h3.trans <| .mk' rfl rfl <| fun i => ⟨i.regs, i.ashlar, rfl, i.flash, i.tiles⟩
  clear_value s4
  exact irqAll_keeps (restartPass_keeps (setSteer_keeps (dropStaging_keeps (putFs_keeps h4))))

theorem execCtlReset_keeps {s0 : State} {s : State} (h : Keeps s0 s) : KeepsO s0 (execCtlReset s) := by
  unfold execCtlReset
  repeat' first
    | with_reducible assumption
    | with_reducible apply KeepsO.next
    | with_reducible apply KeepsO.ite
    | with_reducible apply ctlReset_keeps

theorem execWatchdogExpiry_keeps {s0 : State} {s : State} (h : Keeps s0 s) : KeepsO s0 (execWatchdogExpiry s) := by
  unfold execWatchdogExpiry
  extract_lets -merge -useContext s1 src
  have h_s1 : Keeps s0 s1 := by
    dsimp only [s1]
    repeat' first | with_reducible apply Keeps.ite | with_reducible assumption | with_reducible apply selfDiag_keeps
  clear_value s1
  repeat' first
    | with_reducible assumption
    | exact rfl
    | with_reducible apply KeepsO.next
    | with_reducible apply KeepsO.ite
    | with_reducible apply Keeps.upd

theorem execLockstepMismatch_keeps {s0 : State} {s : State} (h : Keeps s0 s) : KeepsO s0 (execLockstepMismatch s) := by
  unfold execLockstepMismatch
  extract_lets -merge -useContext s1 src
  have h_s1 : Keeps s0 s1 := by
    dsimp only [s1]
    repeat' first | with_reducible assumption | with_reducible apply selfDiag_keeps
  clear_value s1
  repeat' first
    | with_reducible assumption
    | exact rfl
    | with_reducible apply KeepsO.next
    | with_reducible apply KeepsO.ite
    | with_reducible apply Keeps.upd

theorem kickWrite_keeps {s0 : State} {complement : Bool} {v : Nat} {s : State} (h : Keeps s0 s) :
    Keeps s0 (kickWrite complement v s) := by
  unfold kickWrite
  extract_lets -merge -useContext src src_2 s1 src_3
  have h_s1 : Keeps s0 s1 := by
    dsimp only [s1]
    repeat' first | with_reducible assumption | exact rfl | with_reducible apply Keeps.upd
  clear_value s1
  repeat' first
    | with_reducible apply Keeps.ite
    | with_reducible assumption
    | exact rfl
    | with_reducible apply putF_keeps
    | with_reducible apply Keeps.upd

theorem execWatchdogKick_keeps {s0 : State} {complement : Bool} {value : Nat} {s : State} (h : Keeps s0 s) :
    KeepsO s0 (execWatchdogKick complement value s) := by
  unfold execWatchdogKick
  repeat' first
    | with_reducible assumption
    | with_reducible apply KeepsO.next
    | with_reducible apply KeepsO.ite
    | with_reducible apply kickWrite_keeps

theorem chipReset_keeps {s0 : State} {regs : AMap Nat} {s : State} (hr : StoresWf s → regs.Pairwise (fun a b => a.1 < b.1))
    (h : Keeps s0 s) : Keeps s0 (chipReset regs s) :=
  h.trans <| .mk' rfl rfl <| fun i => ⟨hr i, rfl, rfl, i.flash, fun _ hp => absurd hp (by simp [chipReset, State.reset])⟩

theorem pinReset_keeps {s0 : State} {s : State} (h : Keeps s0 s) : Keeps s0 (pinReset s) :=
  putF_keeps (bump_keeps (chipReset_keeps (fun i => AMap.filter_rising i.regs _) h))

theorem execPinReset_keeps {s0 : State} {s : State} (h : Keeps s0 s) : KeepsO s0 (execPinReset s) := by
  unfold execPinReset
  repeat' first | with_reducible assumption | with_reducible apply KeepsO.next | with_reducible apply pinReset_keeps

theorem loadCap_keeps {s0 : State} {s : State} (h : Keeps s0 s) : Keeps s0 (loadCap s) := by
  unfold loadCap
  repeat' first | with_reducible assumption | with_reducible apply putFs_keeps

theorem porReset_keeps {s0 : State} {s : State} (h : Keeps s0 s) : Keeps s0 (porReset s) :=
  loadCap_keeps (setIf_keeps (putF_keeps (chipReset_keeps (fun _ => List.Pairwise.nil) h)))

theorem execPowerOnReset_keeps {s0 : State} {s : State} (h : Keeps s0 s) : KeepsO s0 (execPowerOnReset s) := by
  unfold execPowerOnReset
  repeat' first | with_reducible assumption | with_reducible apply KeepsO.next | with_reducible apply porReset_keeps

theorem sampleStraps_keeps {s0 : State} {bootSrc : Nat} {seatMap : Nat} {pairEn : Bool} {unitId : Bool} {s : State}
    (h : Keeps s0 s) : Keeps s0 (sampleStraps bootSrc seatMap pairEn unitId s) := by
  unfold sampleStraps
  extract_lets -merge -useContext src s1
  have h_s1 : Keeps s0 s1 := by
    dsimp only [s1]
    repeat' first | with_reducible assumption | exact rfl | with_reducible apply Keeps.upd
  clear_value s1
  repeat' first | with_reducible assumption | with_reducible apply bindBySeatMap_keeps | with_reducible apply putFs_keeps

theorem bootFault_keeps {s0 : State} {code : Nat} {s : State} (h : Keeps s0 s) : Keeps s0 (bootFault code s) := by
  unfold bootFault
  repeat' first
    | with_reducible assumption
    | with_reducible exact Keeps.refl _
    | with_reducible apply watchLife_keeps
    | with_reducible apply setAlert_keeps
    | with_reducible apply putF_keeps
    | intro _

theorem execResetRelease_keeps {s0 : State} {bootSrc : Nat} {seatMap : Nat} {pairEn : Bool} {unitId : Bool} {s : State}
    (h : Keeps s0 s) : KeepsO s0 (execResetRelease bootSrc seatMap pairEn unitId s) := by
  unfold execResetRelease
  extract_lets -merge -useContext s1 src src_2 src_3
  have h_s1 : Keeps s0 s1 := by
    dsimp only [s1]
    repeat' first | with_reducible assumption | with_reducible apply putF_keeps | with_reducible apply sampleStraps_keeps
  clear_value s1
  repeat' first
    | with_reducible assumption
    | exact rfl
    | with_reducible apply KeepsO.next
    | with_reducible apply KeepsO.ite
    | with_reducible apply bootFault_keeps
    | with_reducible apply Keeps.upd

theorem bootStat_keeps {s0 : State} {x : FwSrc} {s : State} (h : Keeps s0 s) : Keeps s0 (bootStat x s) := by
  unfold bootStat
  extract_lets -merge -useContext f
  clear_value f
  repeat' first
    | with_reducible apply Keeps.ite
    | with_reducible assumption
    | with_reducible apply putF_keeps
    | with_reducible apply putFs_keeps

theorem singleClaim_keeps {s0 : State} {s : State} (h : Keeps s0 s) : Keeps s0 (singleClaim s) := by
  unfold singleClaim
  repeat' first
    | with_reducible apply Keeps.ite
    | with_reducible assumption
    | with_reducible exact Keeps.refl _
    | exact rfl
    | with_reducible apply watchLife_keeps
    | with_reducible apply setPairState_keeps
    | with_reducible apply putF_keeps
    | intro _
    | with_reducible apply Keeps.upd

theorem foldl_set_wf {β : Type} {f : β → Nat} {g : β → Nat} {l : List β} {m : AMap Nat} (h : memWf m) :
    memWf (l.foldl (fun (m : AMap Nat) p => m.set (f p) (g p) 0) m) := by
  induction l generalizing m with
  | nil => exact h
  | cons p l ih => exact ih (AMap.set_wf (d := fun _ => 0) h _ _)

theorem enterFirmware_keeps {s0 : State} {x : FwSrc} {s : State} (h : Keeps s0 s) : Keeps s0 (enterFirmware x s) := by
  unfold enterFirmware
  extract_lets -merge -useContext n body all ram s1 s2 src s3 s4
  have hram : memWf ram := foldl_set_wf rfl
  have h2 : Keeps s0 s2 := Keeps.ite (bootStat_keeps h) (putAshWords_keeps (bootStat_keeps h))
  clear_value s2 ram
  have h3 : Keeps s0 s3 := putFs_keeps (h2.trans <| .mk' rfl rfl <| fun i => ⟨i.regs, i.ashlar, hram, i.flash, i.tiles⟩)
  have h4 : Keeps s0 s4 := singleClaim_keeps (bootFault_keeps h3)
  clear_value s4
  exact Keeps.ite (trainFrom_keeps h4) h4

theorem execFirmwareEntry_keeps {s0 : State} {s : State} (h : Keeps s0 s) : KeepsO s0 (execFirmwareEntry s) := by
  unfold execFirmwareEntry
  repeat' first
    | with_reducible assumption
    | with_reducible apply KeepsO.next
    | with_reducible apply KeepsO.ite
    | with_reducible apply enterFirmware_keeps

theorem execBootRetry_keeps {s0 : State} {s : State} (h : Keeps s0 s) : KeepsO s0 (execBootRetry s) := by
  unfold execBootRetry
  extract_lets -merge -useContext x src
  clear_value x
  repeat' first
    | with_reducible assumption
    | exact rfl
    | with_reducible apply KeepsO.next
    | with_reducible apply KeepsO.ite
    | with_reducible apply enterFirmware_keeps
    | with_reducible apply bootFault_keeps
    | with_reducible apply Keeps.upd

theorem execBootWindowPost_keeps {s0 : State} {ifc : Nat} {s : State} (h : Keeps s0 s) :
    KeepsO s0 (execBootWindowPost ifc s) := by
  unfold execBootWindowPost
  extract_lets -merge -useContext src s1 src_2
  have h_s1 : Keeps s0 s1 := by
    dsimp only [s1]
    repeat' first | with_reducible assumption | exact rfl | with_reducible apply Keeps.upd
  clear_value s1
  repeat' first
    | with_reducible assumption
    | exact rfl
    | with_reducible apply KeepsO.next
    | with_reducible apply KeepsO.ite
    | with_reducible apply bootFault_keeps
    | with_reducible apply Keeps.upd

theorem trialConfirm_keeps {s0 : State} {s : State} (h : Keeps s0 s) : Keeps s0 (trialConfirm s) := by
  unfold trialConfirm
  dsimp only
  refine Keeps.ite ?_ (putF_keeps h)
  exact (putF_keeps h).trans <| .mk' rfl rfl <| fun i => ⟨i.regs, i.ashlar, i.wram, foldl_set_wf (foldl_set_wf i.flash), i.tiles⟩

theorem execTrialConfirm_keeps {s0 : State} {s : State} (h : Keeps s0 s) : KeepsO s0 (execTrialConfirm s) := by
  unfold execTrialConfirm
  repeat' first
    | with_reducible assumption
    | with_reducible apply KeepsO.next
    | with_reducible apply KeepsO.ite
    | with_reducible apply trialConfirm_keeps

theorem pwrEvent_keeps {s0 : State} {st : Nat} {src : Nat} {s : State} (h : Keeps s0 s) : Keeps s0 (pwrEvent st src s) := by
  unfold pwrEvent
  repeat' first | with_reducible assumption | with_reducible apply raiseAll_keeps

theorem wakeDone_keeps {s0 : State} {s : State} (h : Keeps s0 s) : Keeps s0 (wakeDone s) := by
  unfold wakeDone
  repeat' first
    | with_reducible apply Keeps.ite
    | with_reducible assumption
    | with_reducible apply pwrEvent_keeps
    | with_reducible apply putFs_keeps

theorem writeFwUp_keeps {s0 : State} {b : Bool} {s : State} (h : Keeps s0 s) : Keeps s0 (writeFwUp b s) := by
  unfold writeFwUp
  repeat' first
    | with_reducible apply Keeps.ite
    | with_reducible assumption
    | with_reducible apply putF_keeps
    | with_reducible apply fwRecover_keeps
    | with_reducible apply wakeDone_keeps
    | with_reducible apply irqAll_keeps
    | with_reducible apply putFs_keeps

theorem execLifeBeatTick_keeps {s0 : State} {s : State} (h : Keeps s0 s) : KeepsO s0 (execLifeBeatTick s) := by
  unfold execLifeBeatTick
  repeat' first
    | with_reducible assumption
    | with_reducible apply KeepsO.next
    | with_reducible apply KeepsO.ite
    | with_reducible apply wrap_keeps

end Sys2Proof.Machine
end

