-- ==== Sys2Proof/Laws/KeepsPower.lean ====
section
/-! SUPPORT. The operations of Machine/Power.lean keep the queue, the fuses and the form of the stores. -/

namespace Sys2Proof.Machine

theorem stopFabric_keeps {s0 : State} {s : State} (h : Keeps s0 s) : Keeps s0 (stopFabric s) := by
  unfold stopFabric
  extract_lets -merge -useContext s1 s2 src
  have h_s1 : Keeps s0 s1 := by
    dsimp only [s1]
    repeat' first
      | with_reducible apply Keeps.ite
      | with_reducible assumption
      | with_reducible exact Keeps.refl _
      | with_reducible apply tileBoundaryStop_keeps
      | with_reducible apply updTile_keeps
      | with_reducible apply Keeps.foldl
      | intro _
  have h_s2 : Keeps s0 s2 := by
    dsimp only [s2]
    repeat' first | with_reducible assumption | with_reducible apply putFs_keeps
  clear_value s1 s2
  repeat' first
    | with_reducible assumption
    | exact rfl
    | with_reducible apply setBudget_keeps
    | with_reducible apply Keeps.upd

theorem dropLinks_keeps {s0 : State} {s : State} (h : Keeps s0 s) : Keeps s0 (dropLinks s) := by
  unfold dropLinks
  extract_lets -merge -useContext s1
  have h_s1 : Keeps s0 s1 := by
    dsimp only [s1]
    repeat' first
      | with_reducible apply Keeps.ite
      | with_reducible assumption
      | with_reducible exact Keeps.refl _
      | with_reducible apply linkDown_keeps
      | with_reducible apply Keeps.foldl
      | intro _
  clear_value s1
  repeat' first
    | with_reducible apply Keeps.ite
    | with_reducible assumption
    | with_reducible apply loseHeartbeat_keeps
    | with_reducible apply putFs_keeps

theorem finishSleep_keeps {s0 : State} {k : Nat} {s : State} (h : Keeps s0 s) : Keeps s0 (finishSleep k s) := by
  unfold finishSleep
  extract_lets -merge -useContext s1 src s2 s3
  have h_s1 : Keeps s0 s1 := by
    dsimp only [s1]
    repeat' first
      | with_reducible apply Keeps.ite
      | with_reducible assumption
      | with_reducible apply rebuildSettings_keeps
      | with_reducible apply fabReset_keeps
      | with_reducible apply stopFabric_keeps
  have h_s2 : Keeps s0 s2 := by
    dsimp only [s2]
    repeat' first | with_reducible assumption | exact rfl | with_reducible apply Keeps.upd
  have h_s3 : Keeps s0 s3 := by
    dsimp only [s3]
    repeat' first | with_reducible assumption | with_reducible apply dropSession_keeps | split
  clear_value s1 s2 s3
  repeat' first
    | with_reducible apply Keeps.ite
    | with_reducible assumption
    | with_reducible exact Keeps.refl _
    | with_reducible apply pwrEvent_keeps
    | with_reducible apply putFs_keeps
    | with_reducible apply dropLinks_keeps
    | with_reducible apply putF_keeps
    | with_reducible apply endAttach_keeps
    | with_reducible apply Keeps.foldl
    | intro _

theorem enterSleep_keeps {s0 : State} {k : Nat} {s : State} (h : Keeps s0 s) : Keeps s0 (enterSleep k s) := by
  unfold enterSleep
  extract_lets -merge -useContext s1 s2 s3 src src_2 s4 src_3
  have h_s1 : Keeps s0 s1 := by
    dsimp only [s1]
    repeat' first
      | with_reducible assumption
      | with_reducible exact Keeps.refl _
      | with_reducible apply cancelEntry_keeps
      | with_reducible apply Keeps.foldl
      | intro _
  have h_s2 : Keeps s0 s2 := by
    dsimp only [s2]
    repeat' first | with_reducible apply Keeps.ite | with_reducible assumption | with_reducible apply setPairState_keeps
  have h_s3 : Keeps s0 s3 := by
    dsimp only [s3]
    repeat' first
      | with_reducible apply Keeps.ite
      | with_reducible assumption
      | with_reducible apply setPairState_keeps
      | with_reducible apply pwrEvent_keeps
      | with_reducible apply putF_keeps
  have h_s4 : Keeps s0 s4 := by
    dsimp only [s4]
    repeat' first
      | with_reducible apply Keeps.ite
      | with_reducible assumption
      | exact rfl
      | with_reducible apply setPairState_keeps
      | with_reducible apply pwrEvent_keeps
      | with_reducible apply putF_keeps
      | with_reducible apply Keeps.upd
  clear_value s1 s2 s3 s4
  repeat' first
    | with_reducible apply Keeps.ite
    | with_reducible assumption
    | exact rfl
    | with_reducible apply putF_keeps
    | with_reducible apply imgEvent_keeps
    | with_reducible apply finishSleep_keeps
    | with_reducible apply Keeps.upd

theorem quietEntry_keeps {s0 : State} {s : State} (h : Keeps s0 s) : Keeps s0 (quietEntry s) := by
  unfold quietEntry
  repeat' first | with_reducible apply Keeps.ite | with_reducible assumption | with_reducible apply enterSleep_keeps

theorem execQuietEntry_keeps {s0 : State} {s : State} (h : Keeps s0 s) : KeepsO s0 (execQuietEntry s) := by
  unfold execQuietEntry
  repeat' first | with_reducible assumption | with_reducible apply KeepsO.next | with_reducible apply quietEntry_keeps

theorem quietExit_keeps {s0 : State} {s : State} (h : Keeps s0 s) : Keeps s0 (quietExit s) := by
  unfold quietExit
  extract_lets -merge -useContext s1 src
  have h_s1 : Keeps s0 s1 := by
    dsimp only [s1]
    repeat' first | with_reducible assumption | with_reducible apply pwrEvent_keeps | with_reducible apply putFs_keeps
  clear_value s1
  repeat' first
    | with_reducible apply Keeps.ite
    | with_reducible assumption
    | exact rfl
    | with_reducible apply startFabric_keeps
    | with_reducible apply recommitHeld_keeps
    | with_reducible apply Keeps.upd

theorem execQuietExit_keeps {s0 : State} {s : State} (h : Keeps s0 s) : KeepsO s0 (execQuietExit s) := by
  unfold execQuietExit
  repeat' first | with_reducible assumption | with_reducible apply KeepsO.next | with_reducible apply quietExit_keeps

theorem wake_keeps {s0 : State} {src : Nat} {s : State} (h : Keeps s0 s) : Keeps s0 (wake src s) := by
  unfold wake
  extract_lets -merge -useContext s1 refs src_1 s2 s3 src_2 src_3
  have h_s1 : Keeps s0 s1 := by
    dsimp only [s1]
    repeat' first
      | with_reducible assumption
      | with_reducible exact Keeps.refl _
      | with_reducible apply startTrans_keeps
      | with_reducible apply putF_keeps
      | with_reducible apply Keeps.foldl
      | intro _
  have h_refs : Keeps s0 refs := by
    dsimp only [refs]
    repeat' first
      | with_reducible apply Keeps.ite
      | with_reducible assumption
      | with_reducible exact Keeps.refl _
      | with_reducible apply setRef_keeps
      | with_reducible apply Keeps.foldl
      | intro _
  have h_s2 : Keeps s0 s2 := by
    dsimp only [s2]
    repeat' first
      | with_reducible assumption
      | exact rfl
      | with_reducible apply refreshClk_keeps
      | with_reducible apply Keeps.upd
  have h_s3 : Keeps s0 s3 := by
    dsimp only [s3]
    repeat' first | with_reducible assumption | with_reducible apply putFs_keeps
  clear_value s1 refs s2 s3
  repeat' first | with_reducible assumption | exact rfl | with_reducible apply Keeps.upd

theorem gateDomains_keeps {s0 : State} {s : State} (h : Keeps s0 s) : Keeps s0 (gateDomains s) := by
  unfold gateDomains
  extract_lets -merge -useContext seat s1 s2 s3
  have h1 : Keeps s0 s1 := Keeps.foldl (fun _ _ => putFs_keeps (Keeps.refl _)) h
  have h2 : Keeps s0 s2 := Keeps.foldl (fun _ _ => Keeps.foldl (fun _ _ => putF_keeps (Keeps.refl _)) (Keeps.refl _)) h1
  have h3 : Keeps s0 s3 := putFs_keeps h2
  clear_value s3
  exact h3.trans <| .mk' rfl rfl <| fun i => ⟨i.regs, i.ashlar, rfl, i.flash, i.tiles⟩

theorem restEntry_keeps {s0 : State} {s : State} (h : Keeps s0 s) : Keeps s0 (restEntry s) := by
  unfold restEntry
  extract_lets -merge -useContext s1 src s2 s3 s4 src_2 src_3 s5
  have h_s1 : Keeps s0 s1 := by
    dsimp only [s1]
    repeat' first
      | with_reducible apply Keeps.ite
      | with_reducible assumption
      | with_reducible exact Keeps.refl _
      | with_reducible apply watchLife_keeps
      | with_reducible apply bump_keeps
      | with_reducible apply putFs_keeps
      | intro _
  have h_s2 : Keeps s0 s2 := by
    dsimp only [s2]
    repeat' first
      | with_reducible apply Keeps.ite
      | with_reducible assumption
      | with_reducible exact Keeps.refl _
      | exact rfl
      | with_reducible apply watchLife_keeps
      | with_reducible apply bump_keeps
      | with_reducible apply putFs_keeps
      | with_reducible apply putF_keeps
      | intro _
      | with_reducible apply Keeps.upd
  have h_s3 : Keeps s0 s3 := by
    dsimp only [s3]
    repeat' first
      | with_reducible apply Keeps.ite
      | with_reducible assumption
      | with_reducible exact Keeps.refl _
      | with_reducible apply putF_keeps
      | with_reducible apply loseBank_keeps
      | with_reducible apply Keeps.foldl
      | intro _
  have h_s4 : Keeps s0 s4 := by
    dsimp only [s4]
    repeat' first
      | with_reducible assumption
      | with_reducible apply putFs_keeps
      | with_reducible apply gateDomains_keeps
      | with_reducible apply synDisable_keeps
  have h_s5 : Keeps s0 s5 := by
    dsimp only [s5]
    repeat' first | with_reducible assumption | exact rfl | with_reducible apply Keeps.upd
  clear_value s1 s2 s3 s4 s5
  repeat' first | with_reducible assumption | with_reducible apply wake_keeps | split

theorem execRestEntry_keeps {s0 : State} {s : State} (h : Keeps s0 s) : KeepsO s0 (execRestEntry s) := by
  unfold execRestEntry
  repeat' first
    | with_reducible assumption
    | with_reducible apply KeepsO.next
    | with_reducible apply KeepsO.ite
    | with_reducible apply restEntry_keeps

theorem wakeEvent_keeps {s0 : State} {src : Nat} {s : State} (h : Keeps s0 s) : Keeps s0 (wakeEvent src s) := by
  unfold wakeEvent
  extract_lets -merge -useContext src_1
  repeat' first
    | with_reducible apply Keeps.ite
    | with_reducible assumption
    | exact rfl
    | with_reducible apply wake_keeps
    | with_reducible apply Keeps.upd

theorem execWakeEvent_keeps {s0 : State} {source : Nat} {s : State} (h : Keeps s0 s) :
    KeepsO s0 (execWakeEvent source s) := by
  unfold execWakeEvent
  repeat' first | with_reducible assumption | with_reducible apply KeepsO.next | with_reducible apply wakeEvent_keeps

theorem execWakeFabricStart_keeps {s0 : State} {s : State} (h : Keeps s0 s) : KeepsO s0 (execWakeFabricStart s) := by
  unfold execWakeFabricStart
  extract_lets -merge -useContext src
  repeat' first
    | with_reducible assumption
    | exact rfl
    | with_reducible apply KeepsO.next
    | with_reducible apply KeepsO.ite
    | with_reducible apply startFabric_keeps
    | with_reducible apply recommitHeld_keeps
    | with_reducible apply Keeps.upd

theorem execSupplyAlarm_keeps {s0 : State} {rail : Nat} {s : State} (h : Keeps s0 s) :
    KeepsO s0 (execSupplyAlarm rail s) := by
  unfold execSupplyAlarm
  extract_lets -merge -useContext s1
  have h_s1 : Keeps s0 s1 := by
    dsimp only [s1]
    repeat' first | with_reducible assumption | with_reducible apply putFs_keeps
  clear_value s1
  repeat' first
    | with_reducible assumption
    | with_reducible exact Keeps.refl _
    | with_reducible apply KeepsO.next
    | with_reducible apply KeepsO.ite
    | with_reducible apply selfDiag_keeps
    | with_reducible apply watchLife_keeps
    | with_reducible apply setAlert_keeps
    | with_reducible apply putF_keeps
    | intro _

theorem execSupplyAlarmClear_keeps {s0 : State} {s : State} (h : Keeps s0 s) : KeepsO s0 (execSupplyAlarmClear s) := by
  unfold execSupplyAlarmClear
  repeat' first
    | with_reducible assumption
    | with_reducible exact Keeps.refl _
    | with_reducible apply KeepsO.next
    | with_reducible apply KeepsO.ite
    | with_reducible apply watchLife_keeps
    | with_reducible apply setAlert_keeps
    | with_reducible apply putFs_keeps
    | intro _

theorem execTemperatureSample_keeps {s0 : State} {temp : Int} {s : State} (h : Keeps s0 s) :
    KeepsO s0 (execTemperatureSample temp s) := by
  unfold execTemperatureSample
  extract_lets -merge -useContext t s1 alarm low s2 s3 src s4 s3_2 src_2
  have h_s1 : Keeps s0 s1 := by
    dsimp only [s1]
    repeat' first | with_reducible assumption | with_reducible apply putB_keeps | with_reducible apply putF_keeps
  have h_s2 : Keeps s0 s2 := by
    dsimp only [s2]
    repeat' first
      | with_reducible apply Keeps.ite
      | with_reducible assumption
      | with_reducible exact Keeps.refl _
      | with_reducible apply selfDiag_keeps
      | with_reducible apply watchLife_keeps
      | with_reducible apply setAlert_keeps
      | with_reducible apply putFs_keeps
      | intro _
  have h_s3 : Keeps s0 s3 := by
    dsimp only [s3]
    repeat' first
      | with_reducible apply Keeps.ite
      | with_reducible assumption
      | with_reducible exact Keeps.refl _
      | with_reducible apply putF_keeps
      | with_reducible apply selfDiag_keeps
      | with_reducible apply watchLife_keeps
      | with_reducible apply setAlert_keeps
      | with_reducible apply putFs_keeps
      | intro _
  have h_s4 : Keeps s0 s4 := by
    dsimp only [s4]
    repeat' first | with_reducible assumption | exact rfl | with_reducible apply Keeps.upd
  have h_s3_2 : Keeps s0 s3_2 := by
    dsimp only [s3_2]
    repeat' first
      | with_reducible apply Keeps.ite
      | with_reducible assumption
      | with_reducible exact Keeps.refl _
      | with_reducible apply selfDiag_keeps
      | with_reducible apply watchLife_keeps
      | with_reducible apply setAlert_keeps
      | with_reducible apply putFs_keeps
      | intro _
  clear_value t s1 alarm low s2 s3 s4 s3_2
  repeat' first
    | with_reducible apply Keeps.ite
    | with_reducible assumption
    | exact rfl
    | with_reducible apply KeepsO.next
    | with_reducible apply KeepsO.ite
    | with_reducible apply rebuildSettings_keeps
    | with_reducible apply fabReset_keeps
    | with_reducible apply stopFabric_keeps
    | with_reducible apply fwRecover_keeps
    | with_reducible apply Keeps.upd

theorem fwPwrState_keeps {s0 : State} {r : Sys2Proof.FwReq} {s : State} (h : Keeps s0 s) : KeepsM s0 (fwPwrState r s) := by
  unfold fwPwrState
  extract_lets -merge -useContext dst here s1 src s2
  have h_s1 : Keeps s0 s1 := by
    dsimp only [s1]
    repeat' first | with_reducible assumption | with_reducible apply acquire_keeps
  have h_s2 : Keeps s0 s2 := by
    dsimp only [s2]
    repeat' first | with_reducible assumption | exact rfl | with_reducible apply putF_keeps | with_reducible apply Keeps.upd
  clear_value dst here s1 s2
  repeat' first
    | with_reducible assumption
    | with_reducible apply KeepsM.pure
    | (refine KeepsM.bind (fun (_ : Unit) hk => ?_); clear hk)
    | with_reducible apply quietExit_keeps
    | with_reducible apply quietEntry_keeps
    | with_reducible apply enterSleep_keeps
    | split

theorem fwPwrBanks_keeps {s0 : State} {r : Sys2Proof.FwReq} {s : State} (h : Keeps s0 s) : KeepsM s0 (fwPwrBanks r s) := by
  unfold fwPwrBanks
  extract_lets -merge -useContext n s1
  have h_s1 : Keeps s0 s1 := by
    dsimp only [s1]
    repeat' first | with_reducible assumption | with_reducible apply writePwr_keeps | with_reducible apply acquire_keeps
  clear_value n s1
  repeat' first
    | with_reducible assumption
    | with_reducible apply KeepsM.pure
    | (refine KeepsM.bind (fun (_ : Unit) hk => ?_); clear hk)

theorem fwPwrScrub_keeps {s0 : State} {r : Sys2Proof.FwReq} {s : State} (h : Keeps s0 s) : KeepsM s0 (fwPwrScrub r s) := by
  unfold fwPwrScrub
  repeat' first
    | with_reducible assumption
    | with_reducible apply KeepsM.pure
    | (refine KeepsM.bind (fun (_ : Unit) hk => ?_); clear hk)
    | with_reducible apply setScrub_keeps
    | with_reducible apply acquire_keeps

theorem fwPwrStatus_keeps {s0 : State} {r : Sys2Proof.FwReq} {s : State} (h : Keeps s0 s) : KeepsM s0 (fwPwrStatus r s) := by
  unfold fwPwrStatus
  repeat' first
    | with_reducible assumption
    | with_reducible apply KeepsM.pure
    | (refine KeepsM.bind (fun (_ : Unit) hk => ?_); clear hk)

theorem execPwrState_keeps {s0 : State} {r : Sys2Proof.FwReq} {s : State} (h : Keeps s0 s) :
    KeepsO s0 (execPwrState r s) := by
  unfold execPwrState
  repeat' first
    | with_reducible assumption
    | with_reducible exact Keeps.refl _
    | with_reducible apply fwRow_keeps
    | with_reducible apply fwPwrState_keeps
    | intro _

theorem execPwrBanks_keeps {s0 : State} {r : Sys2Proof.FwReq} {s : State} (h : Keeps s0 s) :
    KeepsO s0 (execPwrBanks r s) := by
  unfold execPwrBanks
  repeat' first
    | with_reducible assumption
    | with_reducible exact Keeps.refl _
    | with_reducible apply fwRow_keeps
    | with_reducible apply fwPwrBanks_keeps
    | intro _

theorem execPwrScrub_keeps {s0 : State} {r : Sys2Proof.FwReq} {s : State} (h : Keeps s0 s) :
    KeepsO s0 (execPwrScrub r s) := by
  unfold execPwrScrub
  repeat' first
    | with_reducible assumption
    | with_reducible exact Keeps.refl _
    | with_reducible apply fwRow_keeps
    | with_reducible apply fwPwrScrub_keeps
    | intro _

theorem execPwrStatus_keeps {s0 : State} {r : Sys2Proof.FwReq} {s : State} (h : Keeps s0 s) :
    KeepsO s0 (execPwrStatus r s) := by
  unfold execPwrStatus
  repeat' first
    | with_reducible assumption
    | with_reducible exact Keeps.refl _
    | with_reducible apply fwRow_keeps
    | with_reducible apply fwPwrStatus_keeps
    | intro _

end Sys2Proof.Machine
end

