-- ==== Sys2Proof/Laws/KeepsPtp.lean ====
section
/-! SUPPORT. The operations of Machine/Ptp.lean keep the queue, the fuses and the form of the stores. -/

namespace Sys2Proof.Machine

theorem writeInc_keeps {s0 : State} {hi : Nat} {s : State} (h : Keeps s0 s) : Keeps s0 (writeInc hi s) := by
  unfold writeInc
  extract_lets -merge -useContext v
  clear_value v
  repeat' first
    | with_reducible apply Keeps.ite
    | with_reducible assumption
    | with_reducible apply putFs_keeps
    | with_reducible apply putF_keeps

theorem execIncWrite_keeps {s0 : State} {hi : Nat} {s : State} (h : Keeps s0 s) : KeepsO s0 (execIncWrite hi s) := by
  unfold execIncWrite
  repeat' first | with_reducible assumption | with_reducible apply KeepsO.next | with_reducible apply writeInc_keeps

theorem captureTime_keeps {s0 : State} {s : State} (h : Keeps s0 s) : Keeps s0 (captureTime s) := by
  unfold captureTime
  repeat' first | with_reducible assumption | with_reducible apply putFs_keeps

theorem execPtpTimeCapture_keeps {s0 : State} {s : State} (h : Keeps s0 s) : KeepsO s0 (execPtpTimeCapture s) := by
  unfold execPtpTimeCapture
  repeat' first
    | with_reducible assumption
    | with_reducible apply KeepsO.next
    | with_reducible apply emit_keeps
    | with_reducible apply captureTime_keeps

theorem captureStamp_keeps {s0 : State} {s : State} (h : Keeps s0 s) : Keeps s0 (captureStamp s) := by
  unfold captureStamp
  extract_lets -merge -useContext x
  clear_value x
  repeat' first | with_reducible assumption | with_reducible apply putFs_keeps

theorem execCstampReadCapture_keeps {s0 : State} {s : State} (h : Keeps s0 s) : KeepsO s0 (execCstampReadCapture s) := by
  unfold execCstampReadCapture
  repeat' first
    | with_reducible assumption
    | with_reducible apply KeepsO.next
    | with_reducible apply emit_keeps
    | with_reducible apply captureStamp_keeps

theorem takeStamp_keeps {s0 : State} {ci : Nat} {s : State} (h : Keeps s0 s) : Keeps s0 (takeStamp ci s) := by
  unfold takeStamp
  extract_lets -merge -useContext src
  repeat' first | with_reducible assumption | exact rfl | with_reducible apply Keeps.upd

theorem updPulse_keeps {s0 : State} {o : Nat} {f : Pulse → Pulse} {s : State} (h : Keeps s0 s) :
    Keeps s0 (updPulse o f s) := by
  unfold updPulse
  extract_lets -merge -useContext src
  repeat' first | with_reducible assumption | exact rfl | with_reducible apply Keeps.upd

theorem showPulse_keeps {s0 : State} {o : Nat} {active : Bool} {s : State} (h : Keeps s0 s) :
    Keeps s0 (showPulse o active s) := by
  unfold showPulse
  extract_lets -merge -useContext gated
  clear_value gated
  repeat' first | with_reducible assumption | with_reducible apply emit_keeps

theorem armPulse_keeps {s0 : State} {o : Nat} {p : Nat × Nat × Nat × Bool} {s : State} (h : Keeps s0 s) :
    Keeps s0 (armPulse o p s) := by
  unfold armPulse
  extract_lets -merge -useContext d k late
  clear_value d k late
  repeat' first | with_reducible assumption | with_reducible apply setIf_keeps | with_reducible apply updPulse_keeps

theorem pulseControl_keeps {s0 : State} {o : Nat} {arm : Bool} {pol : Bool} {gate : Bool} {s : State} (h : Keeps s0 s) :
    Keeps s0 (pulseControl o arm pol gate s) := by
  unfold pulseControl
  extract_lets -merge -useContext s1 busy p
  have h_s1 : Keeps s0 s1 := by
    dsimp only [s1]
    repeat' first | with_reducible assumption | with_reducible apply putFs_keeps
  clear_value s1 busy p
  repeat' first
    | with_reducible apply Keeps.ite
    | with_reducible assumption
    | with_reducible apply updPulse_keeps
    | with_reducible apply armPulse_keeps
    | with_reducible apply showPulse_keeps

theorem execPulseArm_keeps {s0 : State} {output : Nat} {arm : Bool} {pol : Bool} {gate : Bool} {s : State} (h : Keeps s0 s) :
    KeepsO s0 (execPulseArm output arm pol gate s) := by
  unfold execPulseArm
  repeat' first
    | with_reducible assumption
    | with_reducible apply KeepsO.next
    | with_reducible apply KeepsO.ite
    | with_reducible apply pulseControl_keeps

theorem pulseRise_keeps {s0 : State} {o : Nat} {s : State} (h : Keeps s0 s) : Keeps s0 (pulseRise o s) := by
  unfold pulseRise
  exact Keeps.ite (updPulse_keeps h) (showPulse_keeps (updPulse_keeps h))

theorem execPulseEdge_keeps {s0 : State} {output : Nat} {s : State} (h : Keeps s0 s) :
    KeepsO s0 (execPulseEdge output s) := by
  unfold execPulseEdge
  extract_lets -merge -useContext t
  clear_value t
  repeat' first
    | with_reducible assumption
    | with_reducible apply KeepsO.next
    | with_reducible apply KeepsO.ite
    | with_reducible apply pulseRise_keeps

theorem pulseDown_keeps {s0 : State} {o : Nat} {s : State} (h : Keeps s0 s) : Keeps s0 (pulseDown o s) := by
  unfold pulseDown
  extract_lets -merge -useContext t s1
  have h_s1 : Keeps s0 s1 := by
    dsimp only [s1]
    repeat' first | with_reducible assumption | with_reducible apply showPulse_keeps | with_reducible apply updPulse_keeps
  clear_value t s1
  repeat' first
    | with_reducible apply Keeps.ite
    | with_reducible assumption
    | with_reducible apply updPulse_keeps
    | with_reducible apply armPulse_keeps
    | split

theorem execPulseFall_keeps {s0 : State} {output : Nat} {s : State} (h : Keeps s0 s) :
    KeepsO s0 (execPulseFall output s) := by
  unfold execPulseFall
  repeat' first
    | with_reducible assumption
    | with_reducible apply KeepsO.next
    | with_reducible apply KeepsO.ite
    | with_reducible apply pulseDown_keeps
    | split

theorem stepPulse_keeps {s0 : State} {o : Nat} {s : State} (h : Keeps s0 s) : Keeps s0 (stepPulse o s) := by
  unfold stepPulse
  extract_lets -merge -useContext l s1 t d k k_2
  have h_s1 : Keeps s0 s1 := by
    dsimp only [s1]
    repeat' first | with_reducible apply Keeps.ite | with_reducible assumption | with_reducible apply pulseDown_keeps | split
  clear_value l s1 t d k k_2
  repeat' first
    | with_reducible apply Keeps.ite
    | with_reducible assumption
    | with_reducible apply pulseRise_keeps
    | with_reducible apply putF_keeps
    | with_reducible apply bump_keeps
    | with_reducible apply updPulse_keeps

theorem stepPulses_keeps {s0 : State} {s : State} (h : Keeps s0 s) : Keeps s0 (stepPulses s) := by
  unfold stepPulses
  repeat' first
    | with_reducible assumption
    | with_reducible exact Keeps.refl _
    | with_reducible apply stepPulse_keeps
    | with_reducible apply Keeps.foldl
    | intro _

theorem ptpSet_keeps {s0 : State} {s : State} (h : Keeps s0 s) : Keeps s0 (ptpSet s) := by
  unfold ptpSet
  repeat' first
    | with_reducible apply Keeps.ite
    | with_reducible assumption
    | exact rfl
    | with_reducible apply putF_keeps
    | with_reducible apply stepPulses_keeps
    | with_reducible apply Keeps.upd

theorem ptpStep_keeps {s0 : State} {neg : Bool} {s : State} (h : Keeps s0 s) : Keeps s0 (ptpStep neg s) := by
  unfold ptpStep
  extract_lets -merge -useContext d n
  clear_value d n
  repeat' first
    | with_reducible apply Keeps.ite
    | with_reducible assumption
    | exact rfl
    | with_reducible apply putF_keeps
    | with_reducible apply stepPulses_keeps
    | with_reducible apply Keeps.upd

theorem execPtpSet_keeps {s0 : State} {s : State} (h : Keeps s0 s) : KeepsO s0 (execPtpSet s) := by
  unfold execPtpSet
  repeat' first | with_reducible assumption | with_reducible apply KeepsO.next | with_reducible apply ptpSet_keeps

theorem execPtpStep_keeps {s0 : State} {neg : Bool} {s : State} (h : Keeps s0 s) : KeepsO s0 (execPtpStep neg s) := by
  unfold execPtpStep
  repeat' first | with_reducible assumption | with_reducible apply KeepsO.next | with_reducible apply ptpStep_keeps

theorem putCaptures_keeps {s0 : State} {i : Nat} {q : List Capture} {s : State} (h : Keeps s0 s) :
    Keeps s0 (putCaptures i q s) := by
  unfold putCaptures
  extract_lets -merge -useContext src s1 h_1
  have h_s1 : Keeps s0 s1 := by
    dsimp only [s1]
    repeat' first | with_reducible assumption | exact rfl | with_reducible apply Keeps.upd
  clear_value s1 h_1
  repeat' first | with_reducible assumption | with_reducible apply putFs_keeps

theorem execCaptureEdge_keeps {s0 : State} {input : Nat} {rise : Bool} {s : State} (h : Keeps s0 s) :
    KeepsO s0 (execCaptureEdge input rise s) := by
  unfold execCaptureEdge
  extract_lets -merge -useContext kind
  clear_value kind
  repeat' first
    | with_reducible assumption
    | with_reducible apply KeepsO.next
    | with_reducible apply KeepsO.ite
    | with_reducible apply putCaptures_keeps
    | with_reducible apply putF_keeps

theorem readCapture_keeps {s0 : State} {i : Nat} {s : State} (h : Keeps s0 s) : Keeps s0 (readCapture i s).2 := by
  unfold readCapture
  repeat' first | with_reducible assumption | with_reducible apply putCaptures_keeps

theorem execCaptureFifoRead_keeps {s0 : State} {input : Nat} {s : State} (h : Keeps s0 s) :
    KeepsO s0 (execCaptureFifoRead input s) := by
  unfold execCaptureFifoRead
  extract_lets -merge -useContext r
  have h_r : Keeps s0 r.2 := by
    dsimp only [r]
    repeat' first | with_reducible assumption | with_reducible apply readCapture_keeps
  clear_value r
  repeat' first
    | with_reducible assumption
    | with_reducible apply KeepsO.next
    | with_reducible apply KeepsO.ite
    | with_reducible apply emit_keeps

theorem execSystemPllLoss_keeps {s0 : State} {s : State} (h : Keeps s0 s) : KeepsO s0 (execSystemPllLoss s) := by
  unfold execSystemPllLoss
  repeat' first
    | with_reducible assumption
    | with_reducible apply KeepsO.next
    | with_reducible apply setAlert_keeps
    | with_reducible apply putF_keeps

theorem execSystemPllRelock_keeps {s0 : State} {s : State} (h : Keeps s0 s) : KeepsO s0 (execSystemPllRelock s) := by
  unfold execSystemPllRelock
  repeat' first
    | with_reducible assumption
    | with_reducible apply KeepsO.next
    | with_reducible apply setAlert_keeps
    | with_reducible apply putF_keeps

theorem ptpEvent_keeps {s0 : State} {s : State} (h : Keeps s0 s) : Keeps s0 (ptpEvent s) := by
  unfold ptpEvent
  extract_lets -merge -useContext p
  clear_value p
  repeat' first | with_reducible assumption | with_reducible apply raiseOwner_keeps

theorem setPtp_keeps {s0 : State} {p : PtpInst} {s : State} (h : Keeps s0 s) : Keeps s0 (setPtp p s) := by
  unfold setPtp
  extract_lets -merge -useContext o src s1
  have h_s1 : Keeps s0 s1 := by
    dsimp only [s1]
    repeat' first | with_reducible assumption | exact rfl | with_reducible apply Keeps.upd
  clear_value o s1
  repeat' first | with_reducible apply Keeps.ite | with_reducible assumption | with_reducible apply ptpEvent_keeps

theorem announce_keeps {s0 : State} {gmId : Nat} {gmClass : Nat} {gmAcc : Nat} {prio : Nat} {s : State} (h : Keeps s0 s) :
    Keeps s0 (announce gmId gmClass gmAcc prio s) := by
  unfold announce
  extract_lets -merge -useContext own theirs src src_2 s1
  have h_s1 : Keeps s0 s1 := by
    dsimp only [s1]
    repeat' first | with_reducible assumption | with_reducible apply setPtp_keeps
  clear_value own theirs s1
  repeat' first
    | with_reducible apply Keeps.ite
    | with_reducible assumption
    | with_reducible apply setPtp_keeps
    | with_reducible apply refreshClk_keeps
    | with_reducible apply putFs_keeps

theorem steerPtp_keeps {s0 : State} {offset : Int} {delay : Nat} {s : State} (h : Keeps s0 s) :
    Keeps s0 (steerPtp offset delay s) := by
  unfold steerPtp
  extract_lets -merge -useContext limit src src_2 s1 a s2 f inc
  have h_s1 : Keeps s0 s1 := by
    dsimp only [s1]
    repeat' first | with_reducible assumption | exact rfl | with_reducible apply Keeps.upd
  have h_s2 : Keeps s0 s2 := by
    dsimp only [s2]
    repeat' first | with_reducible assumption | with_reducible apply putFs_keeps
  have h_f : Keeps s0 f.2 := by
    dsimp only [f]
    repeat' first | with_reducible assumption | with_reducible apply takeFree_keeps
  clear_value limit s1 a s2 f inc
  repeat' first
    | with_reducible apply Keeps.ite
    | with_reducible assumption
    | with_reducible apply putFs_keeps
    | with_reducible apply refreshClk_keeps
    | with_reducible apply putF_keeps
    | with_reducible apply ptpStep_keeps

theorem execPtpMessageRx_keeps {s0 : State} {isAnnounce : Bool} {gmId : Nat} {gmClass : Nat} {gmAcc : Nat} {prio : Nat} {offset : Int} {delay : Nat} {s : State}
    (h : Keeps s0 s) : KeepsO s0 (execPtpMessageRx isAnnounce gmId gmClass gmAcc prio offset delay s) := by
  unfold execPtpMessageRx
  repeat' first
    | with_reducible assumption
    | with_reducible apply KeepsO.next
    | with_reducible apply KeepsO.ite
    | with_reducible apply announce_keeps
    | with_reducible apply steerPtp_keeps

theorem execAnnounceTimeout_keeps {s0 : State} {s : State} (h : Keeps s0 s) : KeepsO s0 (execAnnounceTimeout s) := by
  unfold execAnnounceTimeout
  extract_lets -merge -useContext src s1
  have h_s1 : Keeps s0 s1 := by
    dsimp only [s1]
    repeat' first | with_reducible assumption | with_reducible apply setPtp_keeps
  clear_value s1
  repeat' first
    | with_reducible assumption
    | with_reducible apply KeepsO.next
    | with_reducible apply KeepsO.ite
    | with_reducible apply refreshClk_keeps
    | with_reducible apply putFs_keeps

end Sys2Proof.Machine
end

