-- ==== Sys2Proof/Laws/KeepsRegs.lean ====
section
/-! SUPPORT. The operations of Machine/Regs.lean keep the queue, the fuses and the form of the stores. -/

namespace Sys2Proof.Machine

theorem lifeRead_keeps {s0 : State} {who : Option Nat} {o : Nat} {s : State} (h : Keeps s0 s) :
    Keeps s0 (lifeRead who o s).2 := by
  unfold lifeRead
  extract_lets -merge -useContext fs pw ci m
  clear_value fs pw ci
  repeat' first | with_reducible apply Keeps.ite_snd | with_reducible assumption | with_reducible apply putF_keeps | split

theorem seatViewRead_keeps {s0 : State} {who : Option Nat} {n : Nat} {o : Nat} {s : State} (h : Keeps s0 s) :
    Keeps s0 (seatViewRead who n o s).2 := by
  unfold seatViewRead
  repeat' first | with_reducible apply Keeps.ite_snd | with_reducible assumption | with_reducible apply lifeRead_keeps

theorem regRead_keeps {s0 : State} {a : Nat} {s : State} (h : Keeps s0 s) : Keeps s0 (regRead a s).2 := by
  unfold regRead
  extract_lets -merge -useContext fs raw o e e_2 e_3 ci e_4 n
  clear_value fs raw o e e_2 e_3 ci e_4 n
  repeat' first
    | with_reducible apply Keeps.ite_snd
    | with_reducible assumption
    | with_reducible exact Keeps.refl _
    | with_reducible apply lifeRead_keeps
    | with_reducible apply putFs_keeps
    | with_reducible apply aesAccess_keeps
    | with_reducible apply captureTime_keeps
    | with_reducible apply captureStamp_keeps
    | with_reducible apply readCapture_keeps
    | with_reducible apply putF_keeps
    | with_reducible apply seatViewRead_keeps
    | with_reducible apply Keeps.foldl
    | split
    | intro _

theorem writeField_keeps {s0 : State} {v : Nat} {f : Fld} {s : State} (h : Keeps s0 s) : Keeps s0 (writeField v f s) := by
  unfold writeField
  extract_lets -merge -useContext x
  clear_value x
  repeat' first | with_reducible assumption | with_reducible apply putF_keeps | split

theorem writePlain_keeps {s0 : State} {a : Nat} {v : Nat} {s : State} (h : Keeps s0 s) : Keeps s0 (writePlain a v s) := by
  unfold writePlain
  repeat' first
    | with_reducible assumption
    | with_reducible exact Keeps.refl _
    | with_reducible apply writeField_keeps
    | with_reducible apply Keeps.foldl
    | intro _

theorem takePair_keeps {s0 : State} {a : Nat} {v : Nat} {s : State} (h : Keeps s0 s) : Keeps s0 (takePair a v s) := by
  unfold takePair
  repeat' first
    | with_reducible assumption
    | with_reducible exact Keeps.refl _
    | exact rfl
    | with_reducible apply putF_keeps
    | with_reducible apply Keeps.foldl
    | split
    | intro _
    | with_reducible apply Keeps.upd

theorem stageWord_keeps {s0 : State} {a : Nat} {v : Nat} {s : State} (h : Keeps s0 s) : Keeps s0 (stageWord a v s) := by
  unfold stageWord
  repeat' first | with_reducible assumption | exact rfl | with_reducible apply Keeps.upd

theorem pairDone_keeps {s0 : State} {a : Nat} {v : Nat} {c : Nat} {s : State} (h : Keeps s0 s) :
    Keeps s0 (pairDone a v c s) := by
  unfold pairDone
  extract_lets -merge -useContext s1 src
  have h_s1 : Keeps s0 s1 := by
    dsimp only [s1]
    repeat' first | with_reducible assumption | with_reducible apply putF_keeps | split
  have h_src : Keeps s0 src := by
    dsimp only [src]
    repeat' first | with_reducible assumption | with_reducible apply takePair_keeps
  clear_value s1
  repeat' first
    | with_reducible apply Keeps.ite
    | with_reducible assumption
    | exact rfl
    | with_reducible apply putF_keeps
    | with_reducible apply refreshClk_keeps
    | with_reducible apply setRatioRegs_keeps
    | with_reducible apply Keeps.upd

theorem pairComplement_keeps {s0 : State} {a : Nat} {c : Nat} {s : State} (h : Keeps s0 s) :
    Keeps s0 (pairComplement a c s) := by
  unfold pairComplement
  repeat' first
    | with_reducible assumption
    | exact rfl
    | with_reducible apply pairDone_keeps
    | with_reducible apply Keeps.upd

theorem muteDone_keeps {s0 : State} {n : Nat} {v : Nat} {c : Nat} {s : State} (h : Keeps s0 s) :
    Keeps s0 (muteDone n v c s) := by
  unfold muteDone
  repeat' first
    | with_reducible apply Keeps.ite
    | with_reducible assumption
    | with_reducible apply putF_keeps
    | with_reducible apply updSeat_keeps

theorem muteWrite_keeps {s0 : State} {n : Nat} {complement : Bool} {v : Nat} {s : State} (h : Keeps s0 s) :
    Keeps s0 (muteWrite n complement v s) := by
  unfold muteWrite
  extract_lets -merge -useContext a
  clear_value a
  repeat' first
    | with_reducible apply Keeps.ite
    | with_reducible assumption
    | exact rfl
    | with_reducible apply muteDone_keeps
    | with_reducible apply stageWord_keeps
    | with_reducible apply Keeps.upd

theorem clearMutePw_keeps {s0 : State} {ns : List Nat} {s : State} (h : Keeps s0 s) : Keeps s0 (clearMutePw ns s) := by
  unfold clearMutePw
  extract_lets -merge -useContext s1
  have h_s1 : Keeps s0 s1 := by
    dsimp only [s1]
    repeat' first
      | with_reducible assumption
      | with_reducible exact Keeps.refl _
      | with_reducible apply updSeat_keeps
      | with_reducible apply Keeps.foldl
      | intro _
  clear_value s1
  repeat' first | with_reducible assumption | with_reducible apply putB_keeps

theorem writeTail_keeps {s0 : State} {n : Nat} {v : Nat} {s : State} (h : Keeps s0 s) : Keeps s0 (writeTail n v s) := by
  unfold writeTail
  extract_lets -merge -useContext used fwd
  clear_value used fwd
  repeat' first
    | with_reducible apply Keeps.ite
    | with_reducible assumption
    | with_reducible apply pumpEvents_keeps
    | with_reducible apply putF_keeps

theorem postHw_keeps {s0 : State} {n : Nat} {s : State} (h : Keeps s0 s) : Keeps s0 (postHw n s) := by
  unfold postHw
  repeat' first
    | with_reducible apply Keeps.ite
    | with_reducible assumption
    | with_reducible apply putF_keeps
    | with_reducible apply putFs_keeps

theorem doorWrite_keeps {s0 : State} {n : Nat} {o : Nat} {v : Nat} {s : State} (h : Keeps s0 s) :
    Keeps s0 (doorWrite n o v s) := by
  unfold doorWrite
  repeat' first
    | with_reducible apply Keeps.ite
    | with_reducible assumption
    | with_reducible apply postHw_keeps
    | with_reducible apply writeTail_keeps
    | with_reducible apply writePlain_keeps
    | split

theorem popLog_keeps {s0 : State} {a : Nat} {s : State} (h : Keeps s0 s) : Keeps s0 (popLog a s) := by
  unfold popLog
  extract_lets -merge -useContext src src_2 src_3 src_4
  repeat' first | with_reducible assumption | exact rfl | split | with_reducible apply Keeps.upd

theorem fabCtl_keeps {s0 : State} {v : Nat} {s : State} (h : Keeps s0 s) : Keeps s0 (fabCtl v s) := by
  unfold fabCtl
  extract_lets -merge -useContext src src_2
  repeat' first
    | with_reducible apply Keeps.ite
    | with_reducible assumption
    | exact rfl
    | with_reducible apply startFabric_keeps
    | split
    | with_reducible apply Keeps.upd

theorem pwrCtl_keeps {s0 : State} {v : Nat} {s : State} (h : Keeps s0 s) : Keeps s0 (pwrCtl v s) := by
  unfold pwrCtl
  extract_lets -merge -useContext s1
  have h_s1 : Keeps s0 s1 := by
    dsimp only [s1]
    repeat' first
      | with_reducible apply Keeps.ite
      | with_reducible assumption
      | with_reducible apply fwRecover_keeps
      | with_reducible apply fabReset_keeps
  clear_value s1
  repeat' first
    | with_reducible apply Keeps.ite
    | with_reducible assumption
    | with_reducible apply quietEntry_keeps
    | with_reducible apply restEntry_keeps
    | with_reducible apply quietExit_keeps
    | split

theorem macWrite_keeps {s0 : State} {m : Nat} {o : Nat} {v : Nat} {s : State} (h : Keeps s0 s) :
    Keeps s0 (macWrite m o v s) := by
  unfold macWrite
  extract_lets -merge -useContext a tx r
  clear_value a tx r
  repeat' first
    | with_reducible apply Keeps.ite
    | with_reducible assumption
    | with_reducible apply judgeLink_keeps
    | with_reducible apply writePlain_keeps
    | with_reducible apply snapCounters_keeps
    | with_reducible apply ringEnable_keeps
    | with_reducible apply putF_keeps

theorem clkWrite_keeps {s0 : State} {o : Nat} {v : Nat} {s : State} (h : Keeps s0 s) : Keeps s0 (clkWrite o v s) := by
  unfold clkWrite
  extract_lets -merge -useContext a w s1
  have h_s1 : Keeps s0 s1 := by
    dsimp only [s1]
    repeat' first | with_reducible assumption | with_reducible apply writePlain_keeps
  clear_value a w s1
  repeat' first
    | with_reducible apply Keeps.ite
    | with_reducible assumption
    | with_reducible apply refreshClk_keeps
    | with_reducible apply writeDpll_keeps
    | with_reducible apply writeFreq_keeps
    | with_reducible apply phaseStep_keeps
    | with_reducible apply synEnable_keeps
    | with_reducible apply synDisable_keeps
    | with_reducible apply bandCal_keeps
    | with_reducible apply writePlain_keeps
    | with_reducible apply writeBand_keeps
    | with_reducible apply alignWco_keeps
    | with_reducible apply setRatioRegs_keeps
    | split

theorem ptpWrite_keeps {s0 : State} {o : Nat} {v : Nat} {s : State} (h : Keeps s0 s) : Keeps s0 (ptpWrite o v s) := by
  unfold ptpWrite
  extract_lets -merge -useContext a n
  clear_value a n
  repeat' first
    | with_reducible apply Keeps.ite
    | with_reducible assumption
    | with_reducible apply stageWord_keeps
    | with_reducible apply writeInc_keeps
    | with_reducible apply ptpSet_keeps
    | with_reducible apply ptpStep_keeps
    | with_reducible apply pulseControl_keeps
    | with_reducible apply putF_keeps
    | with_reducible apply writeField_keeps
    | with_reducible apply writePlain_keeps
    | split

theorem regWrite_keeps {s0 : State} {a v : Nat} {s : State} (h : Keeps s0 s) : Keeps s0 (regWrite a v s).2 := by
  unfold regWrite
  extract_lets -merge -useContext o v ok
  have hk : ∀ {x}, Keeps s0 x → Keeps s0 (ok x).2 := fun hx => hx
  have hp : Keeps s0 (ok (writePlain a v s)).2 := writePlain_keeps h
  clear_value o v
  with_reducible refine Keeps.ite_snd h ?_
  with_reducible refine Keeps.ite_snd (hk (stageWord_keeps h)) ?_
  with_reducible refine Keeps.ite_snd (hk (pairComplement_keeps h)) ?_
  generalize a / 65536 = page
  split
  · split
    · exact hk (Keeps.ite (trialConfirm_keeps h) h)
    · exact hk (kickWrite_keeps h)
    · exact hk (kickWrite_keeps h)
    · exact hk (Keeps.ite (Keeps.upd h rfl rfl rfl) h)
    · exact hp
  · split
    · exact hk (Keeps.ite (writeFwUp_keeps (Keeps.ite (clearMutePw_keeps h) h)) (Keeps.ite (clearMutePw_keeps h) h))
    · exact Keeps.ite_snd (hk (muteWrite_keeps h)) hp
  · exact hk (Keeps.ite (Keeps.ite (popLog_keeps h) h) (writePlain_keeps h))
  · refine Keeps.ite_snd (hk (setScrub_keeps h)) (Keeps.ite_snd (hk (Keeps.ite (popLog_keeps h) h)) (Keeps.ite_snd
      (Keeps.ite_snd (hk (stageWord_keeps h)) (hk (writePwr_keeps (Keeps.upd h rfl rfl rfl)))) hp))
  · refine Keeps.ite_snd (hk (fabCtl_keeps h)) (Keeps.ite_snd (hk (Keeps.ite (popLog_keeps h) h)) (Keeps.ite_snd (hk ?_)
      (Keeps.ite_snd (Keeps.ite_snd h (hk (Keeps.upd h rfl rfl rfl))) hp)))
    split
    · exact tileArm_keeps h
    · exact tileStop_keeps h
    · exact h
  · exact hk (Keeps.ite (rteWrite_keeps h) (writePlain_keeps h))
  · exact hk (Keeps.ite (dynWrite_keeps h) (writePlain_keeps h))
  · exact Keeps.ite_snd (hk (aesAccess_keeps h))
      (Keeps.ite_snd (hk (Keeps.ite (txCommit_keeps (writePlain_keeps h)) (writePlain_keeps h))) hp)
  · exact Keeps.ite_snd (hk (Keeps.ite (mdioCommand_keeps h) (writePlain_keeps h))) (hk (macWrite_keeps h))
  · refine Keeps.ite_snd (hk (Keeps.ite (popLog_keeps h) h)) (Keeps.ite_snd ?_ hp)
    split
    · rename_i t ht
      exact hk (execStrTableWrite_keeps h t ht)
    · exact hk h
  · exact hk (ptpWrite_keeps h)
  · exact hk (clkWrite_keeps h)
  · exact Keeps.ite_snd (hk (ampClear_keeps h)) (hk (Keeps.ite (busRewritten_keeps (writePlain_keeps h)) (writePlain_keeps h)))
  · exact hk (Keeps.ite (retrain_keeps (writePlain_keeps h)) (writePlain_keeps h))
  · exact Keeps.ite_snd (hk (pwrCtl_keeps h)) (Keeps.ite_snd (hk (writePlain_keeps (Keeps.upd h rfl rfl rfl))) hp)
  · exact Keeps.ite_snd (hk h) (Keeps.ite_snd (hk (doorWrite_keeps h)) (Keeps.ite_snd (hk (updSeat_keeps h)) hp))
  · exact hp

theorem execRemapWrite_keeps {s0 : State} {value : Nat} {s : State} (h : Keeps s0 s) :
    KeepsO s0 (execRemapWrite value s) := by
  unfold execRemapWrite
  repeat' first
    | with_reducible apply Keeps.ite
    | with_reducible assumption
    | with_reducible apply KeepsO.next
    | with_reducible apply regWrite_keeps

theorem execCpoWrite_keeps {s0 : State} {value : Nat} {complement : Nat} {s : State} (h : Keeps s0 s) :
    KeepsO s0 (execCpoWrite value complement s) := by
  unfold execCpoWrite
  repeat' first
    | with_reducible apply Keeps.ite
    | with_reducible assumption
    | with_reducible apply KeepsO.next
    | with_reducible apply pairDone_keeps

theorem execLogPop_keeps {s0 : State} {which : Nat} {s : State} (h : Keeps s0 s) : KeepsO s0 (execLogPop which s) := by
  unfold execLogPop
  repeat' first | with_reducible assumption | with_reducible apply KeepsO.next | with_reducible apply popLog_keeps

theorem execCiReadCapture_keeps {s0 : State} {s : State} (h : Keeps s0 s) : KeepsO s0 (execCiReadCapture s) := by
  unfold execCiReadCapture
  extract_lets -merge -useContext r
  have h_r : Keeps s0 r.2 := by
    dsimp only [r]
    repeat' first | with_reducible assumption | with_reducible apply regRead_keeps
  clear_value r
  repeat' first | with_reducible assumption | with_reducible apply KeepsO.next | with_reducible apply emit_keeps

theorem execLifeCiRead_keeps {s0 : State} {seat : Nat} {s : State} (h : Keeps s0 s) : KeepsO s0 (execLifeCiRead seat s) := by
  unfold execLifeCiRead
  extract_lets -merge -useContext r
  have h_r : Keeps s0 r.2 := by
    dsimp only [r]
    repeat' first | with_reducible assumption | with_reducible apply lifeRead_keeps
  clear_value r
  repeat' first
    | with_reducible assumption
    | with_reducible apply KeepsO.next
    | with_reducible apply KeepsO.ite
    | with_reducible apply emit_keeps

end Sys2Proof.Machine
end

