-- ==== Sys2Proof/Laws/KeepsFwSys.lean ====
section
/-! SUPPORT. The operations of Machine/FwSys.lean keep the queue, the fuses and the form of the stores. -/

namespace Sys2Proof.Machine

theorem fwSysCaps_keeps {s0 : State} {r : Sys2Proof.FwReq} {s : State} (h : Keeps s0 s) : KeepsM s0 (fwSysCaps r s) := by
  unfold fwSysCaps
  extract_lets -merge -useContext c
  clear_value c
  repeat' first
    | with_reducible assumption
    | with_reducible apply KeepsM.pure
    | (refine KeepsM.bind (fun (_ : Unit) hk => ?_); clear hk)

theorem fwSysReset_keeps {s0 : State} {r : Sys2Proof.FwReq} {s : State} (h : Keeps s0 s) : KeepsM s0 (fwSysReset r s) := by
  unfold fwSysReset
  extract_lets -merge -useContext src
  repeat' first
    | with_reducible assumption
    | exact rfl
    | with_reducible apply KeepsM.pure
    | (refine KeepsM.bind (fun (_ : Unit) hk => ?_); clear hk)
    | with_reducible apply Keeps.upd

theorem fwSysLife_keeps {s0 : State} {r : Sys2Proof.FwReq} {s : State} (h : Keeps s0 s) : KeepsM s0 (fwSysLife r s) := by
  unfold fwSysLife
  extract_lets -merge -useContext ci at'
  clear_value ci
  repeat' first
    | with_reducible assumption
    | with_reducible apply KeepsM.pure
    | (refine KeepsM.bind (fun (_ : Unit) hk => ?_); clear hk)

theorem fwSysMute_keeps {s0 : State} {r : Sys2Proof.FwReq} {s : State} (h : Keeps s0 s) : KeepsM s0 (fwSysMute r s) := by
  unfold fwSysMute
  repeat' first
    | with_reducible assumption
    | with_reducible apply KeepsM.pure
    | (refine KeepsM.bind (fun (_ : Unit) hk => ?_); clear hk)
    | with_reducible apply muteDone_keeps

theorem fwSysCancel_keeps {s0 : State} {r : Sys2Proof.FwReq} {s : State} (h : Keeps s0 s) : KeepsM s0 (fwSysCancel r s) := by
  unfold fwSysCancel
  repeat' first
    | with_reducible assumption
    | with_reducible apply KeepsM.pure
    | (refine KeepsM.bind (fun (_ : Unit) hk => ?_); clear hk)
    | refine KeepsM.bind (fun _ _ => ?_)
    | with_reducible apply cancelAsked_keeps

theorem fwSysSched_keeps {s0 : State} {r : Sys2Proof.FwReq} {s : State} (h : Keeps s0 s) : KeepsM s0 (fwSysSched r s) := by
  unfold fwSysSched
  extract_lets -merge -useContext l
  clear_value l
  repeat' first
    | with_reducible assumption
    | with_reducible apply KeepsM.pure
    | (refine KeepsM.bind (fun (_ : Unit) hk => ?_); clear hk)

theorem execSysCaps_keeps {s0 : State} {r : Sys2Proof.FwReq} {s : State} (h : Keeps s0 s) : KeepsO s0 (execSysCaps r s) := by
  unfold execSysCaps
  repeat' first
    | with_reducible assumption
    | with_reducible exact Keeps.refl _
    | with_reducible apply fwRow_keeps
    | with_reducible apply fwSysCaps_keeps
    | intro _

theorem execSysReset_keeps {s0 : State} {r : Sys2Proof.FwReq} {s : State} (h : Keeps s0 s) :
    KeepsO s0 (execSysReset r s) := by
  unfold execSysReset
  repeat' first
    | with_reducible assumption
    | with_reducible exact Keeps.refl _
    | with_reducible apply fwRow_keeps
    | with_reducible apply fwSysReset_keeps
    | intro _

theorem execSysLife_keeps {s0 : State} {r : Sys2Proof.FwReq} {s : State} (h : Keeps s0 s) : KeepsO s0 (execSysLife r s) := by
  unfold execSysLife
  repeat' first
    | with_reducible assumption
    | with_reducible exact Keeps.refl _
    | with_reducible apply fwRow_keeps
    | with_reducible apply fwSysLife_keeps
    | intro _

theorem execSysMute_keeps {s0 : State} {r : Sys2Proof.FwReq} {s : State} (h : Keeps s0 s) : KeepsO s0 (execSysMute r s) := by
  unfold execSysMute
  repeat' first
    | with_reducible assumption
    | with_reducible exact Keeps.refl _
    | with_reducible apply fwRow_keeps
    | with_reducible apply fwSysMute_keeps
    | intro _

theorem execSysCancel_keeps {s0 : State} {r : Sys2Proof.FwReq} {s : State} (h : Keeps s0 s) :
    KeepsO s0 (execSysCancel r s) := by
  unfold execSysCancel
  repeat' first
    | with_reducible assumption
    | with_reducible exact Keeps.refl _
    | with_reducible apply fwRow_keeps
    | with_reducible apply fwSysCancel_keeps
    | intro _

theorem execSysSched_keeps {s0 : State} {r : Sys2Proof.FwReq} {s : State} (h : Keeps s0 s) :
    KeepsO s0 (execSysSched r s) := by
  unfold execSysSched
  repeat' first
    | with_reducible assumption
    | with_reducible exact Keeps.refl _
    | with_reducible apply fwRow_keeps
    | with_reducible apply fwSysSched_keeps
    | intro _

end Sys2Proof.Machine
end

