-- ==== Sys2Proof/Laws/KeepsVoussoir.lean ====
section
/-! SUPPORT. The operations of Machine/Voussoir.lean keep the queue, the fuses and the form of the stores. -/

namespace Sys2Proof.Machine

theorem keyWrite_keeps {s0 : State} {n : Nat} {v : Nat} {s : State} (h : Keeps s0 s) : Keeps s0 (keyWrite n v s) := by
  unfold keyWrite
  extract_lets -merge -useContext s1
  have h_s1 : Keeps s0 s1 := by
    dsimp only [s1]
    repeat' first | with_reducible assumption | with_reducible apply updSeat_keeps
  clear_value s1
  repeat' first
    | with_reducible apply Keeps.ite
    | with_reducible assumption
    | with_reducible apply updSeat_keeps
    | with_reducible apply selfDiag_keeps

theorem seatMute_keeps {s0 : State} {n : Nat} {complement : Bool} {v : Nat} {s : State} (h : Keeps s0 s) :
    Keeps s0 (seatMute n complement v s) := by
  unfold seatMute
  repeat' first | with_reducible apply Keeps.ite | with_reducible assumption | with_reducible apply muteWrite_keeps

theorem seatViewWrite_keeps {s0 : State} {n : Nat} {o : Nat} {v : Nat} {s : State} (h : Keeps s0 s) :
    Keeps s0 (seatViewWrite n o v s) := by
  unfold seatViewWrite
  repeat' first
    | with_reducible apply Keeps.ite
    | with_reducible assumption
    | with_reducible apply clearMutePw_keeps
    | with_reducible apply keyWrite_keeps
    | with_reducible apply seatMute_keeps
    | with_reducible apply doorWrite_keeps
    | with_reducible apply putF_keeps
    | with_reducible apply updSeat_keeps

theorem refuseReq_keeps {s0 : State} {kind : Nat} {r : VsrReq} {s : State} (h : Keeps s0 s) :
    Keeps s0 (refuseReq kind r s) := by
  unfold refuseReq
  repeat' first | with_reducible assumption | with_reducible apply respond_keeps | with_reducible apply vsrLog_keeps

theorem tileReads_keeps {s0 : State} {n off k : Nat} {s : State} (h : Keeps s0 s) : Keeps s0 (tileReads n off k s).2.2 := by
  induction k generalizing off s with
  | zero => exact h
  | succ k ih =>
    unfold tileReads
    dsimp only
    split
    · exact ih (tileWinRead_keeps h)
    · exact ih (tileWinRead_keeps h)

theorem tileWrites_keeps {s0 : State} {n : Nat} {off : Nat} {a0 : List Nat} {a1 : State} (h : Keeps s0 a1) :
    Keeps s0 (tileWrites n off a0 a1).2 := by
  induction a0 generalizing n off a1 with
  | nil => exact h
  | cons x xs ih =>
    unfold tileWrites
    repeat' first | with_reducible apply ih | with_reducible assumption | with_reducible apply tileWinWrite_keeps

theorem perform_keeps {s0 : State} {r : VsrReq} {s : State} (h : Keeps s0 s) : Keeps s0 (perform r s) := by
  unfold perform
  extract_lets -merge -useContext t src s_1 answer nw host v lines src_2
  have h_s_1 : Keeps s0 s_1 := by
    dsimp only [s_1]
    repeat' first | with_reducible assumption | exact rfl | with_reducible apply Keeps.upd
  have h_answer : ∀ y0 z, Keeps z (answer y0 z) := by
    intro y0 z
    dsimp only [answer]
    repeat' first | with_reducible exact Keeps.refl _ | with_reducible apply respond_keeps
  clear_value t s_1 nw host v lines
  repeat' first
    | with_reducible apply Keeps.ite
    | with_reducible assumption
    | exact rfl
    | with_reducible refine Keeps.trans ?_ (h_answer _ _)
    | with_reducible apply refuseReq_keeps
    | with_reducible apply putRam_keeps
    | with_reducible apply seatViewWrite_keeps
    | with_reducible apply seatViewRead_keeps
    | with_reducible apply regWrite_keeps
    | with_reducible apply regRead_keeps
    | with_reducible apply tileWrites_keeps
    | with_reducible apply tileReads_keeps
    | split
    | with_reducible apply Keeps.upd

theorem releaseHeld_keeps {s0 : State} {n : Nat} {s : State} (h : Keeps s0 s) : Keeps s0 (releaseHeld n s) := by
  induction n generalizing s with
  | zero => exact h
  | succ k ih =>
    unfold releaseHeld
    split
    · exact h
    · exact ih (perform_keeps (Keeps.upd h rfl rfl rfl))

theorem releaseAll_keeps {s0 : State} {s : State} (h : Keeps s0 s) : Keeps s0 (releaseAll s) := by
  unfold releaseAll
  repeat' first | with_reducible assumption | with_reducible apply releaseHeld_keeps

theorem request_keeps {s0 : State} {r : VsrReq} {s : State} (h : Keeps s0 s) : Keeps s0 (request r s) := by
  unfold request
  extract_lets -merge -useContext src
  repeat' first
    | with_reducible apply Keeps.ite
    | with_reducible assumption
    | exact rfl
    | with_reducible apply releaseAll_keeps
    | with_reducible apply perform_keeps
    | with_reducible apply Keeps.upd

theorem cutMaster_keeps {s0 : State} {m : Nat} {s : State} (h : Keeps s0 s) : Keeps s0 (cutMaster m s) := by
  unfold cutMaster
  extract_lets -merge -useContext mine s1 mark src src_2
  have h_s1 : Keeps s0 s1 := by
    dsimp only [s1]
    repeat' first
      | with_reducible assumption
      | with_reducible exact Keeps.refl _
      | with_reducible apply vsrLog_keeps
      | with_reducible apply Keeps.foldl
      | intro _
  clear_value mine s1
  repeat' first | with_reducible apply Keeps.ite | with_reducible assumption | exact rfl | with_reducible apply Keeps.upd

theorem execMasterReset_keeps {s0 : State} {master : Nat} {s : State} (h : Keeps s0 s) :
    KeepsO s0 (execMasterReset master s) := by
  unfold execMasterReset
  repeat' first
    | with_reducible apply Keeps.ite
    | with_reducible assumption
    | with_reducible apply KeepsO.next
    | with_reducible apply masterReset_keeps

end Sys2Proof.Machine
end

