-- ==== Sys2Proof/Laws/KeepsFwDiag.lean ====
section
/-! SUPPORT. The operations of Machine/FwDiag.lean keep the queue, the fuses and the form of the stores. -/

namespace Sys2Proof.Machine

theorem diagWord_keeps {s0 : State} {a : Nat} {s : State} (h : Keeps s0 s) : Keeps s0 (diagWord a s).2 := by
  unfold diagWord
  split
  · exact vsrLog_keeps h
  · exact h
  · exact h
  · split
    · exact regRead_keeps h
    · exact vsrLog_keeps h
  · dsimp only
    split
    · exact tileWinRead_keeps h
    · exact vsrLog_keeps (tileWinRead_keeps h)
  · dsimp only
    split
    · exact ashWordsBy_keeps h
    · exact vsrLog_keeps (ashWordsBy_keeps h)

theorem diagWords_keeps {s0 : State} {a : Nat} {a0 : Nat} {a1 : State} (h : Keeps s0 a1) :
    Keeps s0 (diagWords a a0 a1).2 := by
  induction a0 generalizing a a1 with
  | zero => exact h
  | succ k ih =>
    unfold diagWords
    repeat' first | with_reducible apply ih | with_reducible assumption | with_reducible apply diagWord_keeps

theorem fwDiagRead_keeps {s0 : State} {r : Sys2Proof.FwReq} {s : State} (h : Keeps s0 s) : KeepsM s0 (fwDiagRead r s) := by
  unfold fwDiagRead
  extract_lets -merge -useContext x
  have h_x : Keeps s0 x.2 := by
    dsimp only [x]
    repeat' first | with_reducible assumption | with_reducible apply diagWords_keeps
  clear_value x
  repeat' first
    | with_reducible assumption
    | with_reducible apply KeepsM.pure
    | (refine KeepsM.bind (fun (_ : Unit) hk => ?_); clear hk)

theorem fwDiagCounts_keeps {s0 : State} {r : Sys2Proof.FwReq} {s : State} (h : Keeps s0 s) :
    KeepsM s0 (fwDiagCounts r s) := by
  unfold fwDiagCounts
  extract_lets -merge -useContext n clr base ws s1
  have h_s1 : Keeps s0 s1 := by
    dsimp only [s1]
    repeat' first
      | with_reducible apply Keeps.ite
      | with_reducible assumption
      | with_reducible apply putFs_keeps
      | with_reducible apply acquire_keeps
  clear_value n clr base ws s1
  repeat' first
    | with_reducible assumption
    | with_reducible apply KeepsM.pure
    | (refine KeepsM.bind (fun (_ : Unit) hk => ?_); clear hk)

theorem logTake_keeps {s0 : State} {base : Nat} {pop : Nat} {held : State → Nat} {a0 : Nat} {a1 : State} (h : Keeps s0 a1) :
    Keeps s0 (logTake base pop held a0 a1).2 := by
  induction a0 generalizing base pop held a1 with
  | zero => exact h
  | succ k ih =>
    unfold logTake
    repeat' first
      | with_reducible apply ih
      | with_reducible apply Keeps.ite_snd
      | with_reducible assumption
      | with_reducible apply popLog_keeps

theorem fwDiagLog_keeps {s0 : State} {r : Sys2Proof.FwReq} {s : State} (h : Keeps s0 s) : KeepsM s0 (fwDiagLog r s) := by
  unfold fwDiagLog
  extract_lets -merge -useContext n x
  have h_x : Keeps s0 x.2 := by
    dsimp only [x]
    repeat' first | with_reducible assumption | with_reducible apply logTake_keeps | split
  clear_value n x
  repeat' first
    | with_reducible assumption
    | with_reducible apply KeepsM.pure
    | (refine KeepsM.bind (fun (_ : Unit) hk => ?_); clear hk)

theorem fwDiagInject_keeps {s0 : State} {r : Sys2Proof.FwReq} {s : State} (h : Keeps s0 s) :
    KeepsM s0 (fwDiagInject r s) := by
  unfold fwDiagInject
  repeat' first
    | with_reducible assumption
    | with_reducible apply KeepsM.pure
    | (refine KeepsM.bind (fun (_ : Unit) hk => ?_); clear hk)
    | with_reducible apply writePlain_keeps

theorem fwDiagSvn_keeps {s0 : State} {r : FwReq} {s : State} (h : Keeps s0 s) : KeepsM s0 (fwDiagSvn r s) := by
  unfold fwDiagSvn
  refine KeepsM.bind (fun (_ : Unit) _ => KeepsM.bind (fun (_ : Unit) _ => KeepsM.bind (fun (_ : Unit) _ =>
    KeepsM.bind (fun (_ : Unit) _ => ?_))))
  exact KeepsM.ok (h.trans ⟨rfl, ⟨rfl, Nat.le_max_left _ _⟩, fun i => ⟨i.regs, i.ashlar, i.wram, i.flash, i.tiles⟩⟩)

theorem fwDiagDebug_keeps {s0 : State} {r : Sys2Proof.FwReq} {s : State} (h : Keeps s0 s) : KeepsM s0 (fwDiagDebug r s) := by
  unfold fwDiagDebug
  extract_lets -merge -useContext f n src src_2 src_3
  have h_f : Keeps s0 f.2 := by
    dsimp only [f]
    repeat' first | with_reducible assumption | with_reducible apply takeFree_keeps
  have h_src : Keeps s0 src := by
    dsimp only [src]
    repeat' with_reducible assumption
  clear_value f n
  repeat' first
    | with_reducible assumption
    | exact rfl
    | with_reducible exact KeepsM.error
    | with_reducible apply KeepsM.pure
    | with_reducible apply KeepsM.ite
    | (refine KeepsM.bind (fun (_ : Unit) hk => ?_); clear hk)
    | split
    | with_reducible apply Keeps.upd

theorem spendNonce_keeps {s0 : State} {r : Sys2Proof.FwReq} {s : State} (h : Keeps s0 s) : Keeps s0 (spendNonce r s) := by
  unfold spendNonce
  extract_lets -merge -useContext src
  repeat' first | with_reducible apply Keeps.ite | with_reducible assumption | exact rfl | with_reducible apply Keeps.upd

theorem execDiagRead_keeps {s0 : State} {r : Sys2Proof.FwReq} {s : State} (h : Keeps s0 s) :
    KeepsO s0 (execDiagRead r s) := by
  unfold execDiagRead
  repeat' first
    | with_reducible assumption
    | with_reducible exact Keeps.refl _
    | with_reducible apply fwRow_keeps
    | with_reducible apply fwDiagRead_keeps
    | intro _

theorem execDiagCounts_keeps {s0 : State} {r : Sys2Proof.FwReq} {s : State} (h : Keeps s0 s) :
    KeepsO s0 (execDiagCounts r s) := by
  unfold execDiagCounts
  repeat' first
    | with_reducible assumption
    | with_reducible exact Keeps.refl _
    | with_reducible apply fwRow_keeps
    | with_reducible apply fwDiagCounts_keeps
    | intro _

theorem execDiagLog_keeps {s0 : State} {r : Sys2Proof.FwReq} {s : State} (h : Keeps s0 s) : KeepsO s0 (execDiagLog r s) := by
  unfold execDiagLog
  repeat' first
    | with_reducible assumption
    | with_reducible exact Keeps.refl _
    | with_reducible apply fwRow_keeps
    | with_reducible apply fwDiagLog_keeps
    | intro _

theorem execDiagInject_keeps {s0 : State} {r : Sys2Proof.FwReq} {s : State} (h : Keeps s0 s) :
    KeepsO s0 (execDiagInject r s) := by
  unfold execDiagInject
  repeat' first
    | with_reducible assumption
    | with_reducible exact Keeps.refl _
    | with_reducible apply fwRow_keeps
    | with_reducible apply fwDiagInject_keeps
    | intro _

theorem execDiagSvn_keeps {s0 : State} {r : Sys2Proof.FwReq} {s : State} (h : Keeps s0 s) : KeepsO s0 (execDiagSvn r s) := by
  unfold execDiagSvn
  repeat' first
    | with_reducible assumption
    | with_reducible exact Keeps.refl _
    | with_reducible apply fwRow_keeps
    | with_reducible apply fwDiagSvn_keeps
    | intro _

theorem execDiagDebug_keeps {s0 : State} {r : Sys2Proof.FwReq} {s : State} (h : Keeps s0 s) :
    KeepsO s0 (execDiagDebug r s) := by
  unfold execDiagDebug
  repeat' first
    | with_reducible apply Keeps.ite
    | with_reducible assumption
    | with_reducible exact Keeps.refl _
    | with_reducible apply KeepsO.next
    | with_reducible apply spendNonce_keeps
    | with_reducible apply answer_keeps
    | with_reducible apply fwDiagDebug_keeps
    | intro _

end Sys2Proof.Machine
end

