-- ==== Sys2Proof/Laws/KeepsFwNet.lean ====
section
/-! SUPPORT. The operations of Machine/FwNet.lean keep the queue, the fuses and the form of the stores. -/

namespace Sys2Proof.Machine

theorem fwNetMac_keeps {s0 : State} {r : Sys2Proof.FwReq} {s : State} (h : Keeps s0 s) : KeepsM s0 (fwNetMac r s) := by
  unfold fwNetMac
  extract_lets -merge -useContext m same s1
  have h_s1 : Keeps s0 s1 := by
    dsimp only [s1]
    repeat' first | with_reducible assumption | with_reducible apply putFs_keeps | with_reducible apply acquire_keeps
  clear_value m same s1
  repeat' first
    | with_reducible assumption
    | with_reducible apply KeepsM.pure
    | (refine KeepsM.bind (fun (_ : Unit) hk => ?_); clear hk)
    | with_reducible apply judgeLink_keeps

theorem fwNetIp_keeps {s0 : State} {r : Sys2Proof.FwReq} {s : State} (h : Keeps s0 s) : KeepsM s0 (fwNetIp r s) := by
  unfold fwNetIp
  extract_lets -merge -useContext m s1 src
  have h_s1 : Keeps s0 s1 := by
    dsimp only [s1]
    repeat' first | with_reducible assumption | with_reducible apply putFs_keeps | with_reducible apply acquire_keeps
  clear_value m s1
  repeat' first
    | with_reducible assumption
    | exact rfl
    | with_reducible apply KeepsM.pure
    | (refine KeepsM.bind (fun (_ : Unit) hk => ?_); clear hk)
    | with_reducible apply Keeps.upd

theorem fwNetPhy_keeps {s0 : State} {r : Sys2Proof.FwReq} {s : State} (h : Keeps s0 s) : KeepsM s0 (fwNetPhy r s) := by
  unfold fwNetPhy
  extract_lets -merge -useContext m
  clear_value m
  repeat' first
    | with_reducible assumption
    | with_reducible apply KeepsM.pure
    | (refine KeepsM.bind (fun (_ : Unit) hk => ?_); clear hk)
    | with_reducible apply putFs_keeps
    | with_reducible apply acquire_keeps

theorem fwNetMdio_keeps {s0 : State} {r : Sys2Proof.FwReq} {s : State} (h : Keeps s0 s) : KeepsM s0 (fwNetMdio r s) := by
  unfold fwNetMdio
  extract_lets -merge -useContext b op s1 f v
  have h_s1 : Keeps s0 s1 := by
    dsimp only [s1]
    repeat' first | with_reducible assumption | with_reducible apply mdioStart_keeps | with_reducible apply putFs_keeps
  have h_f : Keeps s0 f.2 := by
    dsimp only [f]
    repeat' first | with_reducible assumption | with_reducible apply takeFree_keeps
  clear_value b op s1 f v
  repeat' first
    | with_reducible assumption
    | with_reducible apply KeepsM.pure
    | with_reducible apply KeepsM.ite
    | (refine KeepsM.bind (fun (_ : Unit) hk => ?_); clear hk)
    | with_reducible apply putF_keeps

theorem fwNetStats_keeps {s0 : State} {r : Sys2Proof.FwReq} {s : State} (h : Keeps s0 s) : KeepsM s0 (fwNetStats r s) := by
  unfold fwNetStats
  extract_lets -merge -useContext m snap s1
  have h_s1 : Keeps s0 s1 := by
    dsimp only [s1]
    repeat' first | with_reducible apply Keeps.ite | with_reducible assumption | with_reducible apply snapCounters_keeps
  clear_value m snap s1
  repeat' first
    | with_reducible assumption
    | with_reducible apply KeepsM.pure
    | (refine KeepsM.bind (fun (_ : Unit) hk => ?_); clear hk)

theorem execNetMac_keeps {s0 : State} {r : Sys2Proof.FwReq} {s : State} (h : Keeps s0 s) : KeepsO s0 (execNetMac r s) := by
  unfold execNetMac
  repeat' first
    | with_reducible assumption
    | with_reducible exact Keeps.refl _
    | with_reducible apply fwRow_keeps
    | with_reducible apply fwNetMac_keeps
    | intro _

theorem execNetIp_keeps {s0 : State} {r : Sys2Proof.FwReq} {s : State} (h : Keeps s0 s) : KeepsO s0 (execNetIp r s) := by
  unfold execNetIp
  repeat' first
    | with_reducible assumption
    | with_reducible exact Keeps.refl _
    | with_reducible apply fwRow_keeps
    | with_reducible apply fwNetIp_keeps
    | intro _

theorem execNetPhy_keeps {s0 : State} {r : Sys2Proof.FwReq} {s : State} (h : Keeps s0 s) : KeepsO s0 (execNetPhy r s) := by
  unfold execNetPhy
  repeat' first
    | with_reducible assumption
    | with_reducible exact Keeps.refl _
    | with_reducible apply fwRow_keeps
    | with_reducible apply fwNetPhy_keeps
    | intro _

theorem execNetMdio_keeps {s0 : State} {r : Sys2Proof.FwReq} {s : State} (h : Keeps s0 s) : KeepsO s0 (execNetMdio r s) := by
  unfold execNetMdio
  repeat' first
    | with_reducible assumption
    | with_reducible exact Keeps.refl _
    | with_reducible apply fwRow_keeps
    | with_reducible apply fwNetMdio_keeps
    | intro _

theorem execNetStats_keeps {s0 : State} {r : Sys2Proof.FwReq} {s : State} (h : Keeps s0 s) :
    KeepsO s0 (execNetStats r s) := by
  unfold execNetStats
  repeat' first
    | with_reducible assumption
    | with_reducible exact Keeps.refl _
    | with_reducible apply fwRow_keeps
    | with_reducible apply fwNetStats_keeps
    | intro _

end Sys2Proof.Machine
end

