-- ==== Sys2Proof/Laws/KeepsReplay.lean ====
section
/-! SUPPORT. The operations of Machine/Replay.lean keep the queue, the fuses and the form of the stores. -/

namespace Sys2Proof.Machine

theorem waitFor_keeps {s0 : State} {cs : List BufChange} {s : State} (h : Keeps s0 s) : Keeps s0 (waitFor cs s) := by
  unfold waitFor
  extract_lets -merge -useContext src
  repeat' first | with_reducible assumption | exact rfl | with_reducible apply Keeps.upd

theorem writeWords_keeps {s0 : State} {a : Nat} {a0 : List Nat} {a1 : State} (h : Keeps s0 a1) :
    Keeps s0 (writeWords a a0 a1) := by
  induction a0 generalizing a a1 with
  | nil => exact h
  | cons x xs ih =>
    unfold writeWords
    repeat' first | with_reducible apply ih | with_reducible assumption | with_reducible apply regWrite_keeps

theorem applyStage_keeps {s0 : State} {ws : List Nat} {s : State} (h : Keeps s0 s) : Keeps s0 (applyStage ws s) := by
  unfold applyStage
  repeat' first
    | with_reducible apply Keeps.ite
    | with_reducible assumption
    | exact rfl
    | with_reducible apply fwAshWrites_keeps
    | with_reducible apply waitFor_keeps
    | with_reducible apply writeWords_keeps
    | split
    | with_reducible apply Keeps.upd

theorem putArmed_keeps {s0 : State} {e : Nat} {kind : Nat} {ci : Nat} {late : Bool} {s : State} (h : Keeps s0 s) :
    Keeps s0 (putArmed e kind ci late s) := by
  unfold putArmed
  extract_lets -merge -useContext x put old src
  have h_put : ∀ y0 z, Keeps z (put y0 z) := by
    intro y0 z
    dsimp only [put]
    repeat' first | with_reducible exact Keeps.refl _ | exact rfl | with_reducible apply Keeps.upd
  clear_value x old
  repeat' first
    | with_reducible apply Keeps.ite
    | with_reducible assumption
    | exact rfl
    | with_reducible refine Keeps.trans ?_ (h_put _ _)
    | with_reducible apply armSplice_keeps
    | split
    | with_reducible apply Keeps.upd

theorem applyArm_keeps {s0 : State} {e : Nat} {kind : Nat} {ci : Nat} {s : State} (h : Keeps s0 s) :
    Keeps s0 (applyArm e kind ci s) := by
  unfold applyArm
  repeat' first
    | with_reducible apply Keeps.ite
    | with_reducible assumption
    | with_reducible apply putArmed_keeps
    | with_reducible apply raiseTo_keeps
    | with_reducible apply putF_keeps

theorem applyQueued_keeps {s0 : State} {e : PairEv} {s : State} (h : Keeps s0 s) : Keeps s0 (applyQueued e s) := by
  unfold applyQueued
  repeat' first
    | with_reducible assumption
    | with_reducible apply applyStage_keeps
    | with_reducible apply applyArm_keeps
    | with_reducible apply cancelEntry_keeps
    | split

theorem applyNow_keeps {s0 : State} {e : PairEv} {s : State} (h : Keeps s0 s) : Keeps s0 (applyNow e s) := by
  unfold applyNow
  extract_lets -merge -useContext w src src_2
  clear_value w
  repeat' first
    | with_reducible assumption
    | exact rfl
    | with_reducible apply updCh_keeps
    | with_reducible apply setMod_keeps
    | split
    | with_reducible apply Keeps.upd

theorem compareFired_keeps {s0 : State} {s : State} (h : Keeps s0 s) : Keeps s0 (compareFired s) := by
  unfold compareFired
  repeat' first
    | with_reducible apply Keeps.ite
    | with_reducible assumption
    | with_reducible apply standbyFault_keeps
    | split

theorem captureIngress_keeps {s0 : State} {s : State} (h : Keeps s0 s) : Keeps s0 (captureIngress s) := by
  unfold captureIngress
  extract_lets -merge -useContext r src src_2 src_3
  have h_r : Keeps s0 r.2 := by
    dsimp only [r]
    repeat' first
      | with_reducible apply Keeps.ite_snd
      | with_reducible assumption
      | with_reducible exact Keeps.refl _
      | with_reducible apply portLineWords_keeps
      | with_reducible apply Keeps.foldl_snd
      | intro _
  have h_src : Keeps s0 src := by
    dsimp only [src]
    repeat' with_reducible assumption
  clear_value r
  repeat' first | with_reducible apply Keeps.ite | with_reducible assumption | exact rfl | with_reducible apply Keeps.upd

theorem setLines_keeps {s0 : State} {s : State} (h : Keeps s0 s) : Keeps s0 (setLines s) := by
  unfold setLines
  extract_lets -merge -useContext own l src
  clear_value own l
  repeat' first | with_reducible assumption | exact rfl | with_reducible apply Keeps.upd

theorem takeRecord_keeps {s0 : State} {s : State} (h : Keeps s0 s) : Keeps s0 (takeRecord s) := by
  unfold takeRecord
  extract_lets -merge -useContext src s0_1 due keep again src_2 src_3 s1 src_4
  have h_s0_1 : Keeps s0 s0_1 := by
    dsimp only [s0_1]
    repeat' first | with_reducible assumption | exact rfl | with_reducible apply Keeps.upd
  have h_due : ∀  z, Keeps z (due  z) := by
    intro  z
    dsimp only [due]
    repeat' first
      | with_reducible exact Keeps.refl _
      | with_reducible apply applyNow_keeps
      | with_reducible apply Keeps.foldl
      | intro _
  have h_keep : ∀  z, Keeps z (keep  z) := by
    intro  z
    dsimp only [keep]
    repeat' first | with_reducible exact Keeps.refl _ | exact rfl | with_reducible apply Keeps.upd
  have h_s1 : Keeps s0 s1 := by
    dsimp only [s1]
    repeat' first | with_reducible assumption | with_reducible apply recordMiss_keeps
  clear_value s0_1 again s1
  repeat' first
    | with_reducible apply Keeps.ite
    | with_reducible assumption
    | exact rfl
    | with_reducible refine Keeps.trans ?_ (h_due _)
    | with_reducible refine Keeps.trans ?_ (h_keep _)
    | split
    | with_reducible apply Keeps.upd

theorem takeQueued_keeps {s0 : State} {old : Sys2Proof.AMap PairRec} {s : State} (h : Keeps s0 s) :
    Keeps s0 (takeQueued old s) := by
  unfold takeQueued
  repeat' first
    | with_reducible apply Keeps.ite
    | with_reducible assumption
    | with_reducible exact Keeps.refl _
    | with_reducible apply applyQueued_keeps
    | with_reducible apply Keeps.foldl
    | intro _

theorem startFrame_keeps {s0 : State} {s : State} (h : Keeps s0 s) : Keeps s0 (startFrame s) := by
  unfold startFrame
  extract_lets -merge -useContext stand direct
  have hs : ∀ a b {x}, Keeps s0 x → Keeps s0 (stand a b x) := fun a b x hx => setPairState_keeps (Keeps.upd hx rfl rfl rfl)
  have hd : ∀ {x}, Keeps s0 x → Keeps s0 (direct x) := fun hx => Keeps.upd hx rfl rfl rfl
  clear_value stand direct
  split
  · exact Keeps.ite (setPairState_keeps (putF_keeps (Keeps.upd h rfl rfl rfl))) (hd h)
  · split
    · split
      · exact hd h
      · split
        · exact takeClaim_keeps (hd h)
        · exact hs _ _ h
    · exact hd h
    · exact setPairState_keeps (hd h)
    · exact hs _ _ h
    · exact hs _ _ h
    · exact hs _ _ h
    · exact hd h
    · exact h

theorem reload_keeps {s0 : State} {st : Nat} {s : State} (h : Keeps s0 s) : Keeps s0 (reload st s) := by
  unfold reload
  repeat' first
    | with_reducible assumption
    | with_reducible apply startFabric_keeps
    | with_reducible apply recommitHeld_keeps
    | with_reducible apply stopFabric_keeps
    | with_reducible apply setPairState_keeps

theorem autoRejoin_keeps {s0 : State} {s : State} (h : Keeps s0 s) : Keeps s0 (autoRejoin s) := by
  unfold autoRejoin
  repeat' first
    | with_reducible apply Keeps.ite
    | with_reducible assumption
    | with_reducible apply fwRecover_keeps
    | with_reducible apply fabReset_keeps
    | with_reducible apply setPairState_keeps

theorem pairStates_keeps {s0 : State} {s : State} (h : Keeps s0 s) : Keeps s0 (pairStates s) := by
  unfold pairStates
  extract_lets -merge -useContext fits src
  clear_value fits
  repeat' first
    | with_reducible apply Keeps.ite
    | with_reducible assumption
    | exact rfl
    | with_reducible apply takeClaim_keeps
    | with_reducible apply reload_keeps
    | with_reducible apply setPairState_keeps
    | with_reducible apply autoRejoin_keeps
    | split
    | with_reducible apply Keeps.upd

theorem linkBoundary_keeps {s0 : State} {s : State} (h : Keeps s0 s) : Keeps s0 (linkBoundary s) := by
  unfold linkBoundary
  have h1 : Keeps s0 { s with pair := { s.pair with down := s.pair.down + 1 } } := Keeps.upd h rfl rfl rfl
  exact Keeps.ite h (Keeps.ite (Keeps.upd h rfl rfl rfl) (Keeps.ite (loseHeartbeat_keeps h1) h1))

theorem relayedPiece_keeps {s0 : State} {ws : List Nat} {s : State} (h : Keeps s0 s) : Keeps s0 (relayedPiece ws s) := by
  unfold relayedPiece
  dsimp only
  split
  · exact h
  · split
    · exact h
    · split
      · rename_i t ht
        have k := judgePiece_keeps h ht
        split
        · exact emit_keeps k
        · exact k
      · exact Keeps.upd h rfl rfl rfl

theorem resend_keeps {s0 : State} {s : State} (h : Keeps s0 s) : Keeps s0 (resend s) := by
  unfold resend
  repeat' first | with_reducible assumption | with_reducible apply bump_keeps | with_reducible apply emit_keeps | split

theorem takeFrame_keeps {s0 : State} {kind : Nat} {ws : List Nat} {s : State} (h : Keeps s0 s) :
    Keeps s0 (takeFrame kind ws s) := by
  unfold takeFrame
  extract_lets -merge -useContext st x src src_2 ok src_3
  clear_value st x ok
  repeat' first
    | with_reducible apply Keeps.ite
    | with_reducible assumption
    | exact rfl
    | with_reducible apply resend_keeps
    | with_reducible apply setPairState_keeps
    | with_reducible apply putF_keeps
    | with_reducible apply setIf_keeps
    | with_reducible apply relayedPiece_keeps
    | split
    | with_reducible apply Keeps.upd

theorem execLinkFrameRx_keeps {s0 : State} {crcOk : Bool} {kind : Nat} {words : List Nat} {s : State} (h : Keeps s0 s) :
    KeepsO s0 (execLinkFrameRx crcOk kind words s) := by
  unfold execLinkFrameRx
  repeat' first
    | with_reducible assumption
    | with_reducible apply KeepsO.next
    | with_reducible apply KeepsO.ite
    | with_reducible apply emit_keeps
    | with_reducible apply takeFrame_keeps

end Sys2Proof.Machine
end

