-- ==== Sys2Proof/Laws/KeepsFwPair.lean ====
section
/-! SUPPORT. The operations of Machine/FwPair.lean keep the queue, the fuses and the form of the stores. -/

namespace Sys2Proof.Machine

theorem fwPairConfig_keeps {s0 : State} {r : Sys2Proof.FwReq} {s : State} (h : Keeps s0 s) :
    KeepsM s0 (fwPairConfig r s) := by
  unfold fwPairConfig
  repeat' first
    | with_reducible assumption
    | with_reducible apply KeepsM.pure
    | (refine KeepsM.bind (fun (_ : Unit) hk => ?_); clear hk)
    | with_reducible apply putFs_keeps
    | with_reducible apply pairDone_keeps
    | with_reducible apply acquire_keeps

theorem fwPairStatus_keeps {s0 : State} {r : Sys2Proof.FwReq} {s : State} (h : Keeps s0 s) :
    KeepsM s0 (fwPairStatus r s) := by
  unfold fwPairStatus
  repeat' first
    | with_reducible assumption
    | with_reducible apply KeepsM.pure
    | (refine KeepsM.bind (fun (_ : Unit) hk => ?_); clear hk)

theorem fwPairRejoin_keeps {s0 : State} {r : Sys2Proof.FwReq} {s : State} (h : Keeps s0 s) :
    KeepsM s0 (fwPairRejoin r s) := by
  unfold fwPairRejoin
  extract_lets -merge -useContext s1 src s2
  have h_s1 : Keeps s0 s1 := by
    dsimp only [s1]
    repeat' first | with_reducible assumption | with_reducible apply acquire_keeps
  have h_s2 : Keeps s0 s2 := by
    dsimp only [s2]
    repeat' first
      | with_reducible apply Keeps.ite
      | with_reducible assumption
      | exact rfl
      | with_reducible apply setPairState_keeps
      | with_reducible apply Keeps.upd
  clear_value s1 s2
  repeat' first
    | with_reducible assumption
    | with_reducible apply KeepsM.pure
    | (refine KeepsM.bind (fun (_ : Unit) hk => ?_); clear hk)
    | with_reducible apply fwRecover_keeps
    | with_reducible apply fabReset_keeps

theorem fwPairRestate_keeps {s0 : State} {r : Sys2Proof.FwReq} {s : State} (h : Keeps s0 s) :
    KeepsM s0 (fwPairRestate r s) := by
  unfold fwPairRestate
  extract_lets -merge -useContext s1 src
  have h_s1 : Keeps s0 s1 := by
    dsimp only [s1]
    repeat' first | with_reducible assumption | with_reducible apply acquire_keeps
  clear_value s1
  repeat' first
    | with_reducible assumption
    | exact rfl
    | with_reducible apply KeepsM.pure
    | (refine KeepsM.bind (fun (_ : Unit) hk => ?_); clear hk)
    | with_reducible apply startRestate_keeps
    | with_reducible apply Keeps.upd

theorem fwPairReframe_keeps {s0 : State} {r : Sys2Proof.FwReq} {s : State} (h : Keeps s0 s) :
    KeepsM s0 (fwPairReframe r s) := by
  unfold fwPairReframe
  repeat' first
    | with_reducible assumption
    | with_reducible apply KeepsM.pure
    | (refine KeepsM.bind (fun (_ : Unit) hk => ?_); clear hk)
    | refine KeepsM.bind (fun _ _ => ?_)
    | with_reducible apply arm_keeps
    | with_reducible apply acquire_keeps

theorem fwPairRetrain_keeps {s0 : State} {r : Sys2Proof.FwReq} {s : State} (h : Keeps s0 s) :
    KeepsM s0 (fwPairRetrain r s) := by
  unfold fwPairRetrain
  repeat' first
    | with_reducible assumption
    | with_reducible apply KeepsM.pure
    | (refine KeepsM.bind (fun (_ : Unit) hk => ?_); clear hk)
    | with_reducible apply retrain_keeps
    | with_reducible apply acquire_keeps

theorem execPairConfig_keeps {s0 : State} {r : Sys2Proof.FwReq} {s : State} (h : Keeps s0 s) :
    KeepsO s0 (execPairConfig r s) := by
  unfold execPairConfig
  repeat' first
    | with_reducible assumption
    | with_reducible exact Keeps.refl _
    | with_reducible apply fwRow_keeps
    | with_reducible apply fwPairConfig_keeps
    | intro _

theorem execPairStatus_keeps {s0 : State} {r : Sys2Proof.FwReq} {s : State} (h : Keeps s0 s) :
    KeepsO s0 (execPairStatus r s) := by
  unfold execPairStatus
  repeat' first
    | with_reducible assumption
    | with_reducible exact Keeps.refl _
    | with_reducible apply fwRow_keeps
    | with_reducible apply fwPairStatus_keeps
    | intro _

theorem execPairRejoin_keeps {s0 : State} {r : Sys2Proof.FwReq} {s : State} (h : Keeps s0 s) :
    KeepsO s0 (execPairRejoin r s) := by
  unfold execPairRejoin
  repeat' first
    | with_reducible assumption
    | with_reducible exact Keeps.refl _
    | with_reducible apply fwRow_keeps
    | with_reducible apply fwPairRejoin_keeps
    | intro _

theorem execPairRestate_keeps {s0 : State} {r : Sys2Proof.FwReq} {s : State} (h : Keeps s0 s) :
    KeepsO s0 (execPairRestate r s) := by
  unfold execPairRestate
  repeat' first
    | with_reducible assumption
    | with_reducible exact Keeps.refl _
    | with_reducible apply fwRow_keeps
    | with_reducible apply fwPairRestate_keeps
    | intro _

theorem execPairReframe_keeps {s0 : State} {r : Sys2Proof.FwReq} {s : State} (h : Keeps s0 s) :
    KeepsO s0 (execPairReframe r s) := by
  unfold execPairReframe
  repeat' first
    | with_reducible assumption
    | with_reducible exact Keeps.refl _
    | with_reducible apply fwRow_keeps
    | with_reducible apply fwPairReframe_keeps
    | intro _

theorem execPairRetrain_keeps {s0 : State} {r : Sys2Proof.FwReq} {s : State} (h : Keeps s0 s) :
    KeepsO s0 (execPairRetrain r s) := by
  unfold execPairRetrain
  repeat' first
    | with_reducible assumption
    | with_reducible exact Keeps.refl _
    | with_reducible apply fwRow_keeps
    | with_reducible apply fwPairRetrain_keeps
    | intro _

end Sys2Proof.Machine
end

