-- ==== Sys2Proof/Laws/KeepsFwSeat.lean ====
section
/-! SUPPORT. The operations of Machine/FwSeat.lean keep the queue, the fuses and the form of the stores. -/

namespace Sys2Proof.Machine

-- TODO newToken

theorem newToken_keeps {s : State} {p : Nat × State} (hp : newToken s = .ok p) : Keeps s p.2 := by
  unfold newToken at hp
  extract_lets -merge -useContext f t at hp
  have hf : Keeps s f.2 := Keeps.upd (Keeps.refl s) rfl rfl rfl
  clear_value f t
  split at hp
  · cases hp; exact Keeps.upd hf rfl rfl rfl
  · split at hp
    · cases hp; exact Keeps.upd hf rfl rfl rfl
    · cases hp

theorem fwSeatAttach_keeps {s0 : State} {r : FwReq} {s : State} (h : Keeps s0 s) : KeepsM s0 (fwSeatAttach r s) := by
  unfold fwSeatAttach
  refine KeepsM.bind (fun (_ : Unit) _ => KeepsM.bind (fun (_ : Unit) _ => ?_))
  dsimp only
  refine KeepsM.bind (fun (_ : Unit) _ => KeepsM.bind (fun (_ : Unit) _ => KeepsM.bind (fun (_ : Unit) _ => ?_)))
  have h1 : Keeps s0 (if attached s r.seat = true then endAttach r.seat s else s) := Keeps.ite (endAttach_keeps h) h
  generalize (if attached s r.seat = true then endAttach r.seat s else s) = s1 at h1 ⊢
  split
  · exact KeepsM.bind (fun p hp => KeepsM.ok (adopt_keeps (putF_keeps (updSeat_keeps (h1.trans (newToken_keeps hp))))))
  · refine KeepsM.bind (fun p hp => ?_)
    cases hp
    exact KeepsM.ok (adopt_keeps (putF_keeps (updSeat_keeps h1)))

theorem fwSeatRenew_keeps {s0 : State} {r : Sys2Proof.FwReq} {s : State} (h : Keeps s0 s) : KeepsM s0 (fwSeatRenew r s) := by
  unfold fwSeatRenew
  repeat' first
    | with_reducible assumption
    | with_reducible apply KeepsM.pure
    | (refine KeepsM.bind (fun (_ : Unit) hk => ?_); clear hk)

theorem fwSeatDetach_keeps {s0 : State} {r : Sys2Proof.FwReq} {s : State} (h : Keeps s0 s) :
    KeepsM s0 (fwSeatDetach r s) := by
  unfold fwSeatDetach
  extract_lets -merge -useContext s1
  have h_s1 : Keeps s0 s1 := by
    dsimp only [s1]
    repeat' first
      | with_reducible apply Keeps.ite
      | with_reducible assumption
      | with_reducible exact Keeps.refl _
      | with_reducible apply freeObj_keeps
      | with_reducible apply Keeps.foldl
      | intro _
  clear_value s1
  repeat' first
    | with_reducible assumption
    | with_reducible apply KeepsM.pure
    | (refine KeepsM.bind (fun (_ : Unit) hk => ?_); clear hk)
    | with_reducible apply endAttach_keeps

theorem fwSeatGive_keeps {s0 : State} {r : Sys2Proof.FwReq} {s : State} (h : Keeps s0 s) : KeepsM s0 (fwSeatGive r s) := by
  unfold fwSeatGive
  extract_lets -merge -useContext kind dst idx
  clear_value kind dst idx
  repeat' first
    | with_reducible assumption
    | with_reducible apply KeepsM.pure
    | (refine KeepsM.bind (fun (_ : Unit) hk => ?_); clear hk)
    | with_reducible apply moveObj_keeps

theorem fwSeatTake_keeps {s0 : State} {r : Sys2Proof.FwReq} {s : State} (h : Keeps s0 s) : KeepsM s0 (fwSeatTake r s) := by
  unfold fwSeatTake
  extract_lets -merge -useContext kind idx
  clear_value kind idx
  repeat' first
    | with_reducible assumption
    | with_reducible apply KeepsM.pure
    | (refine KeepsM.bind (fun (_ : Unit) hk => ?_); clear hk)
    | with_reducible apply moveObj_keeps

theorem fwSeatAdopt_keeps {s0 : State} {r : Sys2Proof.FwReq} {s : State} (h : Keeps s0 s) : KeepsM s0 (fwSeatAdopt r s) := by
  unfold fwSeatAdopt
  extract_lets -merge -useContext tok kind keys
  clear_value tok kind keys
  repeat' first
    | with_reducible assumption
    | with_reducible apply KeepsM.pure
    | (refine KeepsM.bind (fun (_ : Unit) hk => ?_); clear hk)
    | with_reducible apply adopt_keeps

theorem fwSeatRelease_keeps {s0 : State} {r : Sys2Proof.FwReq} {s : State} (h : Keeps s0 s) :
    KeepsM s0 (fwSeatRelease r s) := by
  unfold fwSeatRelease
  extract_lets -merge -useContext kind idx
  clear_value kind idx
  repeat' first
    | with_reducible assumption
    | with_reducible apply KeepsM.pure
    | (refine KeepsM.bind (fun (_ : Unit) hk => ?_); clear hk)
    | with_reducible apply objectEvent_keeps
    | with_reducible apply freeObj_keeps

theorem fwSeatQuota_keeps {s0 : State} {r : Sys2Proof.FwReq} {s : State} (h : Keeps s0 s) : KeepsM s0 (fwSeatQuota r s) := by
  unfold fwSeatQuota
  extract_lets -merge -useContext k q src
  clear_value k q
  repeat' first
    | with_reducible assumption
    | exact rfl
    | with_reducible apply KeepsM.pure
    | (refine KeepsM.bind (fun (_ : Unit) hk => ?_); clear hk)
    | with_reducible apply Keeps.upd

theorem fwSeatBind_keeps {s0 : State} {r : Sys2Proof.FwReq} {s : State} (h : Keeps s0 s) : KeepsM s0 (fwSeatBind r s) := by
  unfold fwSeatBind
  repeat' first
    | with_reducible assumption
    | with_reducible apply KeepsM.pure
    | (refine KeepsM.bind (fun (_ : Unit) hk => ?_); clear hk)

theorem bindAfter_keeps {s0 : State} {r : Sys2Proof.FwReq} {s : State} (h : Keeps s0 s) : Keeps s0 (bindAfter r s) := by
  unfold bindAfter
  repeat' first | with_reducible assumption | with_reducible apply bindSeat_keeps

theorem fwSeatPerm_keeps {s0 : State} {r : Sys2Proof.FwReq} {s : State} (h : Keeps s0 s) : KeepsM s0 (fwSeatPerm r s) := by
  unfold fwSeatPerm
  extract_lets -merge -useContext n v
  clear_value n
  repeat' first
    | with_reducible assumption
    | with_reducible apply KeepsM.pure
    | (refine KeepsM.bind (fun (_ : Unit) hk => ?_); clear hk)
    | with_reducible apply putFs_keeps

theorem fwSeatSubscribe_keeps {s0 : State} {r : Sys2Proof.FwReq} {s : State} (h : Keeps s0 s) :
    KeepsM s0 (fwSeatSubscribe r s) := by
  unfold fwSeatSubscribe
  extract_lets -merge -useContext o subs
  clear_value o subs
  repeat' first
    | with_reducible assumption
    | with_reducible apply KeepsM.pure
    | with_reducible apply KeepsM.ite
    | (refine KeepsM.bind (fun (_ : Unit) hk => ?_); clear hk)
    | with_reducible apply updSeat_keeps

theorem fwSeatList_keeps {s0 : State} {r : Sys2Proof.FwReq} {s : State} (h : Keeps s0 s) : KeepsM s0 (fwSeatList r s) := by
  unfold fwSeatList
  extract_lets -merge -useContext all start part next
  clear_value all start part next
  repeat' first
    | with_reducible assumption
    | with_reducible apply KeepsM.pure
    | (refine KeepsM.bind (fun (_ : Unit) hk => ?_); clear hk)

theorem execSeatAttach_keeps {s0 : State} {r : Sys2Proof.FwReq} {s : State} (h : Keeps s0 s) :
    KeepsO s0 (execSeatAttach r s) := by
  unfold execSeatAttach
  repeat' first
    | with_reducible assumption
    | with_reducible exact Keeps.refl _
    | with_reducible apply fwRow_keeps
    | with_reducible apply fwSeatAttach_keeps
    | intro _

theorem execSeatRenew_keeps {s0 : State} {r : Sys2Proof.FwReq} {s : State} (h : Keeps s0 s) :
    KeepsO s0 (execSeatRenew r s) := by
  unfold execSeatRenew
  repeat' first
    | with_reducible assumption
    | with_reducible exact Keeps.refl _
    | with_reducible apply fwRow_keeps
    | with_reducible apply fwSeatRenew_keeps
    | intro _

theorem execSeatDetach_keeps {s0 : State} {r : Sys2Proof.FwReq} {s : State} (h : Keeps s0 s) :
    KeepsO s0 (execSeatDetach r s) := by
  unfold execSeatDetach
  repeat' first
    | with_reducible assumption
    | with_reducible exact Keeps.refl _
    | with_reducible apply fwRow_keeps
    | with_reducible apply fwSeatDetach_keeps
    | intro _

theorem execSeatGive_keeps {s0 : State} {r : Sys2Proof.FwReq} {s : State} (h : Keeps s0 s) :
    KeepsO s0 (execSeatGive r s) := by
  unfold execSeatGive
  repeat' first
    | with_reducible assumption
    | with_reducible exact Keeps.refl _
    | with_reducible apply fwRow_keeps
    | with_reducible apply fwSeatGive_keeps
    | intro _

theorem execSeatTake_keeps {s0 : State} {r : Sys2Proof.FwReq} {s : State} (h : Keeps s0 s) :
    KeepsO s0 (execSeatTake r s) := by
  unfold execSeatTake
  repeat' first
    | with_reducible assumption
    | with_reducible exact Keeps.refl _
    | with_reducible apply fwRow_keeps
    | with_reducible apply fwSeatTake_keeps
    | intro _

theorem execSeatAdopt_keeps {s0 : State} {r : Sys2Proof.FwReq} {s : State} (h : Keeps s0 s) :
    KeepsO s0 (execSeatAdopt r s) := by
  unfold execSeatAdopt
  repeat' first
    | with_reducible assumption
    | with_reducible exact Keeps.refl _
    | with_reducible apply fwRow_keeps
    | with_reducible apply fwSeatAdopt_keeps
    | intro _

theorem execSeatRelease_keeps {s0 : State} {r : Sys2Proof.FwReq} {s : State} (h : Keeps s0 s) :
    KeepsO s0 (execSeatRelease r s) := by
  unfold execSeatRelease
  repeat' first
    | with_reducible assumption
    | with_reducible exact Keeps.refl _
    | with_reducible apply fwRow_keeps
    | with_reducible apply fwSeatRelease_keeps
    | intro _

theorem execSeatQuota_keeps {s0 : State} {r : Sys2Proof.FwReq} {s : State} (h : Keeps s0 s) :
    KeepsO s0 (execSeatQuota r s) := by
  unfold execSeatQuota
  repeat' first
    | with_reducible assumption
    | with_reducible exact Keeps.refl _
    | with_reducible apply fwRow_keeps
    | with_reducible apply fwSeatQuota_keeps
    | intro _

theorem execSeatBind_keeps {s0 : State} {r : FwReq} {s : State} (h : Keeps s0 s) : KeepsO s0 (execSeatBind r s) := by
  unfold execSeatBind
  split
  · split
    · rename_i o ho
      have ho' : Keeps s o.1 := fwSeatBind_keeps (Keeps.refl s) o ho
      exact .next (bindAfter_keeps (h.trans (answer_keeps_of (fun _ _ y hy => by cases hy; exact ho'))))
    · exact .next (answer_keeps (fun _ => KeepsM.error) h)
  · exact .next h

theorem execSeatPerm_keeps {s0 : State} {r : Sys2Proof.FwReq} {s : State} (h : Keeps s0 s) :
    KeepsO s0 (execSeatPerm r s) := by
  unfold execSeatPerm
  repeat' first
    | with_reducible assumption
    | with_reducible exact Keeps.refl _
    | with_reducible apply fwRow_keeps
    | with_reducible apply fwSeatPerm_keeps
    | intro _

theorem execSeatSubscribe_keeps {s0 : State} {r : Sys2Proof.FwReq} {s : State} (h : Keeps s0 s) :
    KeepsO s0 (execSeatSubscribe r s) := by
  unfold execSeatSubscribe
  repeat' first
    | with_reducible assumption
    | with_reducible exact Keeps.refl _
    | with_reducible apply fwRow_keeps
    | with_reducible apply fwSeatSubscribe_keeps
    | intro _

theorem execSeatList_keeps {s0 : State} {r : Sys2Proof.FwReq} {s : State} (h : Keeps s0 s) :
    KeepsO s0 (execSeatList r s) := by
  unfold execSeatList
  repeat' first
    | with_reducible assumption
    | with_reducible exact Keeps.refl _
    | with_reducible apply fwRow_keeps
    | with_reducible apply fwSeatList_keeps
    | intro _

end Sys2Proof.Machine
end

