-- ==== Sys2Proof/Laws/KeepsFwTime.lean ====
section
/-! SUPPORT. The operations of Machine/FwTime.lean keep the queue, the fuses and the form of the stores. -/

namespace Sys2Proof.Machine

theorem fwTimePtp_keeps {s0 : State} {r : Sys2Proof.FwReq} {s : State} (h : Keeps s0 s) : KeepsM s0 (fwTimePtp r s) := by
  unfold fwTimePtp
  extract_lets -merge -useContext on s1 src s2
  have h_s1 : Keeps s0 s1 := by
    dsimp only [s1]
    repeat' first | with_reducible assumption | with_reducible apply acquire_keeps
  have h_s2 : Keeps s0 s2 := by
    dsimp only [s2]
    repeat' first | with_reducible assumption | with_reducible apply setPtp_keeps
  clear_value on s1 s2
  repeat' first
    | with_reducible apply Keeps.ite
    | with_reducible assumption
    | with_reducible apply KeepsM.pure
    | (refine KeepsM.bind (fun (_ : Unit) hk => ?_); clear hk)
    | with_reducible apply refreshClk_keeps
    | with_reducible apply putFs_keeps

theorem fwTimeStatus_keeps {s0 : State} {r : Sys2Proof.FwReq} {s : State} (h : Keeps s0 s) :
    KeepsM s0 (fwTimeStatus r s) := by
  unfold fwTimeStatus
  extract_lets -merge -useContext p
  clear_value p
  repeat' first
    | with_reducible assumption
    | with_reducible apply KeepsM.pure
    | (refine KeepsM.bind (fun (_ : Unit) hk => ?_); clear hk)

theorem fwTimeCpo_keeps {s0 : State} {r : Sys2Proof.FwReq} {s : State} (h : Keeps s0 s) : KeepsM s0 (fwTimeCpo r s) := by
  unfold fwTimeCpo
  repeat' first
    | with_reducible assumption
    | with_reducible apply KeepsM.pure
    | (refine KeepsM.bind (fun (_ : Unit) hk => ?_); clear hk)
    | with_reducible apply putF_keeps
    | with_reducible apply acquire_keeps

theorem fwTimeReanchor_keeps {s0 : State} {r : Sys2Proof.FwReq} {s : State} (h : Keeps s0 s) :
    KeepsM s0 (fwTimeReanchor r s) := by
  unfold fwTimeReanchor
  repeat' first
    | with_reducible assumption
    | with_reducible apply KeepsM.pure
    | (refine KeepsM.bind (fun (_ : Unit) hk => ?_); clear hk)
    | refine KeepsM.bind (fun _ _ => ?_)
    | with_reducible apply arm_keeps
    | with_reducible apply acquire_keeps

theorem fwTimePulse_keeps {s0 : State} {r : Sys2Proof.FwReq} {s : State} (h : Keeps s0 s) : KeepsM s0 (fwTimePulse r s) := by
  unfold fwTimePulse
  extract_lets -merge -useContext o start s1
  have h_s1 : Keeps s0 s1 := by
    dsimp only [s1]
    repeat' first | with_reducible assumption | with_reducible apply putFs_keeps | with_reducible apply acquire_keeps
  clear_value o start s1
  repeat' first
    | with_reducible assumption
    | with_reducible apply KeepsM.pure
    | (refine KeepsM.bind (fun (_ : Unit) hk => ?_); clear hk)
    | with_reducible apply pulseControl_keeps

theorem fwTimeCapture_keeps {s0 : State} {r : Sys2Proof.FwReq} {s : State} (h : Keeps s0 s) :
    KeepsM s0 (fwTimeCapture r s) := by
  unfold fwTimeCapture
  extract_lets -merge -useContext i
  clear_value i
  repeat' first
    | with_reducible assumption
    | with_reducible apply KeepsM.pure
    | (refine KeepsM.bind (fun (_ : Unit) hk => ?_); clear hk)
    | with_reducible apply putFs_keeps
    | with_reducible apply acquire_keeps

theorem fwTimeCapread_keeps {s0 : State} {r : Sys2Proof.FwReq} {s : State} (h : Keeps s0 s) :
    KeepsM s0 (fwTimeCapread r s) := by
  unfold fwTimeCapread
  extract_lets -merge -useContext i q rec'
  clear_value i q
  repeat' first
    | with_reducible assumption
    | with_reducible apply KeepsM.pure
    | (refine KeepsM.bind (fun (_ : Unit) hk => ?_); clear hk)
    | with_reducible apply putCaptures_keeps
    | with_reducible apply acquire_keeps

theorem fwTimeLatency_keeps {s0 : State} {r : Sys2Proof.FwReq} {s : State} (h : Keeps s0 s) :
    KeepsM s0 (fwTimeLatency r s) := by
  unfold fwTimeLatency
  extract_lets -merge -useContext m
  clear_value m
  repeat' first
    | with_reducible assumption
    | with_reducible apply KeepsM.pure
    | (refine KeepsM.bind (fun (_ : Unit) hk => ?_); clear hk)
    | with_reducible apply putFs_keeps
    | with_reducible apply acquire_keeps

theorem execTimePtp_keeps {s0 : State} {r : Sys2Proof.FwReq} {s : State} (h : Keeps s0 s) : KeepsO s0 (execTimePtp r s) := by
  unfold execTimePtp
  repeat' first
    | with_reducible assumption
    | with_reducible exact Keeps.refl _
    | with_reducible apply fwRow_keeps
    | with_reducible apply fwTimePtp_keeps
    | intro _

theorem execTimeStatus_keeps {s0 : State} {r : Sys2Proof.FwReq} {s : State} (h : Keeps s0 s) :
    KeepsO s0 (execTimeStatus r s) := by
  unfold execTimeStatus
  repeat' first
    | with_reducible assumption
    | with_reducible exact Keeps.refl _
    | with_reducible apply fwRow_keeps
    | with_reducible apply fwTimeStatus_keeps
    | intro _

theorem execTimeCpo_keeps {s0 : State} {r : Sys2Proof.FwReq} {s : State} (h : Keeps s0 s) : KeepsO s0 (execTimeCpo r s) := by
  unfold execTimeCpo
  repeat' first
    | with_reducible assumption
    | with_reducible exact Keeps.refl _
    | with_reducible apply fwRow_keeps
    | with_reducible apply fwTimeCpo_keeps
    | intro _

theorem execTimeReanchor_keeps {s0 : State} {r : Sys2Proof.FwReq} {s : State} (h : Keeps s0 s) :
    KeepsO s0 (execTimeReanchor r s) := by
  unfold execTimeReanchor
  repeat' first
    | with_reducible assumption
    | with_reducible exact Keeps.refl _
    | with_reducible apply fwRow_keeps
    | with_reducible apply fwTimeReanchor_keeps
    | intro _

theorem execTimePulse_keeps {s0 : State} {r : Sys2Proof.FwReq} {s : State} (h : Keeps s0 s) :
    KeepsO s0 (execTimePulse r s) := by
  unfold execTimePulse
  repeat' first
    | with_reducible assumption
    | with_reducible exact Keeps.refl _
    | with_reducible apply fwRow_keeps
    | with_reducible apply fwTimePulse_keeps
    | intro _

theorem execTimeCapture_keeps {s0 : State} {r : Sys2Proof.FwReq} {s : State} (h : Keeps s0 s) :
    KeepsO s0 (execTimeCapture r s) := by
  unfold execTimeCapture
  repeat' first
    | with_reducible assumption
    | with_reducible exact Keeps.refl _
    | with_reducible apply fwRow_keeps
    | with_reducible apply fwTimeCapture_keeps
    | intro _

theorem execTimeCapread_keeps {s0 : State} {r : Sys2Proof.FwReq} {s : State} (h : Keeps s0 s) :
    KeepsO s0 (execTimeCapread r s) := by
  unfold execTimeCapread
  repeat' first
    | with_reducible assumption
    | with_reducible exact Keeps.refl _
    | with_reducible apply fwRow_keeps
    | with_reducible apply fwTimeCapread_keeps
    | intro _

theorem execTimeLatency_keeps {s0 : State} {r : Sys2Proof.FwReq} {s : State} (h : Keeps s0 s) :
    KeepsO s0 (execTimeLatency r s) := by
  unfold execTimeLatency
  repeat' first
    | with_reducible assumption
    | with_reducible exact Keeps.refl _
    | with_reducible apply fwRow_keeps
    | with_reducible apply fwTimeLatency_keeps
    | intro _

end Sys2Proof.Machine
end

