-- ==== Sys2Proof/Laws/KeepsHost.lean ====
section
/-! SUPPORT. The operations of Machine/Host.lean keep the queue, the fuses and the form of the stores. -/

namespace Sys2Proof.Machine

theorem carryOut_keeps {s0 : State} {op : Nat} {f : FwReq → State → FwM} {r : FwReq} {s : State}
    (hf : ∀ r x, KeepsM x (f r x)) (h : Keeps s0 s) : Keeps s0 (carryOut op f r s) :=
  Keeps.ite (spendNonce_keeps (answer_keeps (hf r) h)) (answer_keeps (hf r) h)

theorem repeatReply_keeps {s0 : State} {n : Nat} {s : State} (h : Keeps s0 s) : Keeps s0 (repeatReply n s) := by
  unfold repeatReply
  extract_lets -merge -useContext ws w0
  clear_value ws w0
  repeat' first | with_reducible assumption | with_reducible apply postReply_keeps

theorem noteExecuted_keeps {s0 : State} {n : Nat} {op : Nat} {seq : Nat} {crc : Nat} {was : Bool} {s : State}
    (h : Keeps s0 s) : Keeps s0 (noteExecuted n op seq crc was s) := by
  unfold noteExecuted
  extract_lets -merge -useContext st
  clear_value st
  repeat' first | with_reducible apply Keeps.ite | with_reducible assumption | with_reducible apply updSeat_keeps

theorem find_mem {α : Type} {m : AMap α} {k : Nat} {v : α} (h : m.find k = some v) : (k, v) ∈ m := by
  induction m with
  | nil => cases h
  | cons p t ih =>
    obtain ⟨a, w⟩ := p
    simp only [AMap.find] at h
    split at h
    · rename_i e
      cases h
      simp_all
    · exact List.mem_cons_of_mem _ (ih h)

theorem sysRows_keeps : ∀ p ∈ sysRows, ∀ r x, KeepsM x (p.2 r x) := by
  intro p hp r x
  simp only [sysRows, List.mem_cons, List.not_mem_nil, or_false] at hp
  rcases hp with rfl | rfl | rfl | rfl | rfl | rfl
  · exact fwSysCaps_keeps (Keeps.refl x)
  · exact fwSysReset_keeps (Keeps.refl x)
  · exact fwSysLife_keeps (Keeps.refl x)
  · exact fwSysMute_keeps (Keeps.refl x)
  · exact fwSysCancel_keeps (Keeps.refl x)
  · exact fwSysSched_keeps (Keeps.refl x)

theorem seatRows_keeps : ∀ p ∈ seatRows, ∀ r x, KeepsM x (p.2 r x) := by
  intro p hp r x
  simp only [seatRows, List.mem_cons, List.not_mem_nil, or_false] at hp
  rcases hp with rfl | rfl | rfl | rfl | rfl | rfl | rfl | rfl | rfl | rfl | rfl | rfl
  · exact fwSeatAttach_keeps (Keeps.refl x)
  · exact fwSeatRenew_keeps (Keeps.refl x)
  · exact fwSeatDetach_keeps (Keeps.refl x)
  · exact fwSeatGive_keeps (Keeps.refl x)
  · exact fwSeatTake_keeps (Keeps.refl x)
  · exact fwSeatAdopt_keeps (Keeps.refl x)
  · exact fwSeatRelease_keeps (Keeps.refl x)
  · exact fwSeatQuota_keeps (Keeps.refl x)
  · exact fwSeatBind_keeps (Keeps.refl x)
  · exact fwSeatPerm_keeps (Keeps.refl x)
  · exact fwSeatSubscribe_keeps (Keeps.refl x)
  · exact fwSeatList_keeps (Keeps.refl x)

theorem imgRows_keeps : ∀ p ∈ imgRows, ∀ r x, KeepsM x (p.2 r x) := by
  intro p hp r x
  simp only [imgRows, List.mem_cons, List.not_mem_nil, or_false] at hp
  rcases hp with rfl | rfl | rfl | rfl | rfl | rfl | rfl | rfl | rfl
  · exact fwImgBegin_keeps (Keeps.refl x)
  · exact fwImgPiece_keeps (Keeps.refl x)
  · exact fwImgData_keeps (Keeps.refl x)
  · exact fwImgCommit_keeps (Keeps.refl x)
  · exact fwImgAbort_keeps (Keeps.refl x)
  · exact fwImgStatus_keeps (Keeps.refl x)
  · exact fwImgPath_keeps (Keeps.refl x)
  · exact fwImgLend_keeps (Keeps.refl x)
  · exact fwImgKey_keeps (Keeps.refl x)

theorem paramRows_keeps : ∀ p ∈ paramRows, ∀ r x, KeepsM x (p.2 r x) := by
  intro p hp r x
  simp only [paramRows, List.mem_cons, List.not_mem_nil, or_false] at hp
  rcases hp with rfl | rfl
  · exact fwParamWrite_keeps (Keeps.refl x)
  · exact fwParamRead_keeps (Keeps.refl x)

theorem routeRows_keeps : ∀ p ∈ routeRows, ∀ r x, KeepsM x (p.2 r x) := by
  intro p hp r x
  simp only [routeRows, List.mem_cons, List.not_mem_nil, or_false] at hp
  rcases hp with rfl | rfl | rfl | rfl | rfl | rfl | rfl
  · exact fwRouteStage_keeps (Keeps.refl x)
  · exact fwRouteCommit_keeps (Keeps.refl x)
  · exact fwRouteDest_keeps (Keeps.refl x)
  · exact fwRouteSilence_keeps (Keeps.refl x)
  · exact fwRouteRead_keeps (Keeps.refl x)
  · exact fwRouteDstat_keeps (Keeps.refl x)
  · exact fwRouteDiscard_keeps (Keeps.refl x)

theorem dynRows_keeps : ∀ p ∈ dynRows, ∀ r x, KeepsM x (p.2 r x) := by
  intro p hp r x
  simp only [dynRows, List.mem_cons, List.not_mem_nil, or_false] at hp
  rcases hp with rfl | rfl
  · exact fwDynStage_keeps (Keeps.refl x)
  · exact fwDynRead_keeps (Keeps.refl x)

theorem portRows_keeps : ∀ p ∈ portRows, ∀ r x, KeepsM x (p.2 r x) := by
  intro p hp r x
  simp only [portRows, List.mem_cons, List.not_mem_nil, or_false] at hp
  rcases hp with rfl | rfl | rfl | rfl | rfl | rfl | rfl | rfl
  · exact fwPortGroup_keeps (Keeps.refl x)
  · exact fwPortLane_keeps (Keeps.refl x)
  · exact fwPortAesrx_keeps (Keeps.refl x)
  · exact fwPortAestx_keeps (Keeps.refl x)
  · exact fwPortCstat_keeps (Keeps.refl x)
  · exact fwPortAsrc_keeps (Keeps.refl x)
  · exact fwPortOuten_keeps (Keeps.refl x)
  · exact fwPortStatus_keeps (Keeps.refl x)

theorem netRows_keeps : ∀ p ∈ netRows, ∀ r x, KeepsM x (p.2 r x) := by
  intro p hp r x
  simp only [netRows, List.mem_cons, List.not_mem_nil, or_false] at hp
  rcases hp with rfl | rfl | rfl | rfl | rfl
  · exact fwNetMac_keeps (Keeps.refl x)
  · exact fwNetIp_keeps (Keeps.refl x)
  · exact fwNetPhy_keeps (Keeps.refl x)
  · exact fwNetMdio_keeps (Keeps.refl x)
  · exact fwNetStats_keeps (Keeps.refl x)

theorem streamRows_keeps : ∀ p ∈ streamRows, ∀ r x, KeepsM x (p.2 r x) := by
  intro p hp r x
  simp only [streamRows, List.mem_cons, List.not_mem_nil, or_false] at hp
  rcases hp with rfl | rfl | rfl | rfl | rfl | rfl
  · exact fwStreamRx_keeps (Keeps.refl x)
  · exact fwStreamTx_keeps (Keeps.refl x)
  · exact fwStreamMap_keeps (Keeps.refl x)
  · exact fwStreamEnable_keeps (Keeps.refl x)
  · exact fwStreamDelete_keeps (Keeps.refl x)
  · exact fwStreamStatus_keeps (Keeps.refl x)

theorem timeRows_keeps : ∀ p ∈ timeRows, ∀ r x, KeepsM x (p.2 r x) := by
  intro p hp r x
  simp only [timeRows, List.mem_cons, List.not_mem_nil, or_false] at hp
  rcases hp with rfl | rfl | rfl | rfl | rfl | rfl | rfl | rfl
  · exact fwTimePtp_keeps (Keeps.refl x)
  · exact fwTimeStatus_keeps (Keeps.refl x)
  · exact fwTimeCpo_keeps (Keeps.refl x)
  · exact fwTimeReanchor_keeps (Keeps.refl x)
  · exact fwTimePulse_keeps (Keeps.refl x)
  · exact fwTimeCapture_keeps (Keeps.refl x)
  · exact fwTimeCapread_keeps (Keeps.refl x)
  · exact fwTimeLatency_keeps (Keeps.refl x)

theorem clkRows_keeps : ∀ p ∈ clkRows, ∀ r x, KeepsM x (p.2 r x) := by
  intro p hp r x
  simp only [clkRows, List.mem_cons, List.not_mem_nil, or_false] at hp
  rcases hp with rfl | rfl | rfl | rfl | rfl | rfl | rfl | rfl
  · exact fwClkRef_keeps (Keeps.refl x)
  · exact fwClkSelect_keeps (Keeps.refl x)
  · exact fwClkDpll_keeps (Keeps.refl x)
  · exact fwClkFreq_keeps (Keeps.refl x)
  · exact fwClkStep_keeps (Keeps.refl x)
  · exact fwClkQuality_keeps (Keeps.refl x)
  · exact fwClkOutput_keeps (Keeps.refl x)
  · exact fwClkStatus_keeps (Keeps.refl x)

theorem ampRows_keeps : ∀ p ∈ ampRows, ∀ r x, KeepsM x (p.2 r x) := by
  intro p hp r x
  simp only [ampRows, List.mem_cons, List.not_mem_nil, or_false] at hp
  rcases hp with rfl | rfl | rfl | rfl | rfl | rfl
  · exact fwAmpChannel_keeps (Keeps.refl x)
  · exact fwAmpGroup_keeps (Keeps.refl x)
  · exact fwAmpBus_keeps (Keeps.refl x)
  · exact fwAmpOuten_keeps (Keeps.refl x)
  · exact fwAmpClear_keeps (Keeps.refl x)
  · exact fwAmpStatus_keeps (Keeps.refl x)

theorem pairRows_keeps : ∀ p ∈ pairRows, ∀ r x, KeepsM x (p.2 r x) := by
  intro p hp r x
  simp only [pairRows, List.mem_cons, List.not_mem_nil, or_false] at hp
  rcases hp with rfl | rfl | rfl | rfl | rfl | rfl
  · exact fwPairConfig_keeps (Keeps.refl x)
  · exact fwPairStatus_keeps (Keeps.refl x)
  · exact fwPairRejoin_keeps (Keeps.refl x)
  · exact fwPairRestate_keeps (Keeps.refl x)
  · exact fwPairReframe_keeps (Keeps.refl x)
  · exact fwPairRetrain_keeps (Keeps.refl x)

theorem pwrRows_keeps : ∀ p ∈ pwrRows, ∀ r x, KeepsM x (p.2 r x) := by
  intro p hp r x
  simp only [pwrRows, List.mem_cons, List.not_mem_nil, or_false] at hp
  rcases hp with rfl | rfl | rfl | rfl
  · exact fwPwrState_keeps (Keeps.refl x)
  · exact fwPwrBanks_keeps (Keeps.refl x)
  · exact fwPwrScrub_keeps (Keeps.refl x)
  · exact fwPwrStatus_keeps (Keeps.refl x)

theorem diagRows_keeps : ∀ p ∈ diagRows, ∀ r x, KeepsM x (p.2 r x) := by
  intro p hp r x
  simp only [diagRows, List.mem_cons, List.not_mem_nil, or_false] at hp
  rcases hp with rfl | rfl | rfl | rfl | rfl | rfl
  · exact fwDiagRead_keeps (Keeps.refl x)
  · exact fwDiagCounts_keeps (Keeps.refl x)
  · exact fwDiagLog_keeps (Keeps.refl x)
  · exact fwDiagInject_keeps (Keeps.refl x)
  · exact fwDiagSvn_keeps (Keeps.refl x)
  · exact fwDiagDebug_keeps (Keeps.refl x)

theorem fwRows_keeps : ∀ p ∈ fwRows, ∀ r x, KeepsM x (p.2 r x) := by
  intro p hp
  simp only [fwRows, List.mem_append] at hp
  rcases hp with (((((((((((((hp | hp) | hp) | hp) | hp) | hp) | hp) | hp) | hp) | hp) | hp) | hp) | hp) | hp) | hp
  · exact sysRows_keeps p hp
  · exact seatRows_keeps p hp
  · exact imgRows_keeps p hp
  · exact paramRows_keeps p hp
  · exact routeRows_keeps p hp
  · exact dynRows_keeps p hp
  · exact portRows_keeps p hp
  · exact netRows_keeps p hp
  · exact streamRows_keeps p hp
  · exact timeRows_keeps p hp
  · exact clkRows_keeps p hp
  · exact ampRows_keeps p hp
  · exact pairRows_keeps p hp
  · exact pwrRows_keeps p hp
  · exact diagRows_keeps p hp

theorem serveFrame_keeps {s0 : State} {n : Nat} {ws : List Nat} {s : State} (h : Keeps s0 s) :
    Keeps s0 (serveFrame n ws s) := by
  unfold serveFrame
  extract_lets -merge -useContext w op seq flags len k crc t refuse att open'
  have hr : ∀ c, Keeps s0 (refuse c) := fun c => postReply_keeps h
  clear_value refuse
  refine Keeps.ite (postReply_keeps h) (Keeps.ite (hr _) (Keeps.ite (hr _) (Keeps.ite (hr _) (Keeps.ite
    (Keeps.ite (repeatReply_keeps h) (hr _)) (Keeps.ite (hr _) (Keeps.ite (hr _) ?_))))))
  split
  · exact hr _
  · rename_i f hf
    have hk := fwRows_keeps _ (find_mem hf)
    clear hf
    dsimp only
    have hc : ∀ r, Keeps s0 (noteExecuted n op seq crc (attached s n)
        (carryOut op (if len % 4 = 0 then f else fun _ _ => .error (err eRange)) r s)) := fun r => by
      refine noteExecuted_keeps (carryOut_keeps (fun r x => ?_) h)
      split
      · exact hk r x
      · exact KeepsM.error
    exact Keeps.ite (bindAfter_keeps (hc _)) (hc _)

theorem servePosted_keeps {s0 : State} {k : Nat} {s : State} (h : Keeps s0 s) : Keeps s0 (servePosted k s) := by
  induction k generalizing s with
  | zero => exact h
  | succ k ih =>
    unfold servePosted
    split
    · exact h
    · dsimp only
      split
      · exact h
      · exact ih (serveFrame_keeps (Keeps.upd h rfl rfl rfl))

theorem settleAll_keeps {s0 : State} {s : State} (h : Keeps s0 s) : Keeps s0 (settleAll s) := by
  unfold settleAll
  repeat' first | with_reducible assumption | with_reducible apply servePosted_keeps | with_reducible apply releaseAll_keeps

theorem execMailboxPost_keeps {s0 : State} {seat : Nat} {s : State} (h : Keeps s0 s) :
    KeepsO s0 (execMailboxPost seat s) := by
  unfold execMailboxPost
  repeat' first
    | with_reducible apply Keeps.ite
    | with_reducible assumption
    | with_reducible apply KeepsO.next
    | with_reducible apply settleAll_keeps
    | with_reducible apply postHw_keeps

theorem execEvTailWrite_keeps {s0 : State} {seat : Nat} {value : Nat} {s : State} (h : Keeps s0 s) :
    KeepsO s0 (execEvTailWrite seat value s) := by
  unfold execEvTailWrite
  repeat' first
    | with_reducible apply Keeps.ite
    | with_reducible assumption
    | with_reducible apply KeepsO.next
    | with_reducible apply writeTail_keeps

theorem execLifeReleaseArm_keeps {s0 : State} {seat : Nat} {s : State} (h : Keeps s0 s) :
    KeepsO s0 (execLifeReleaseArm seat s) := by
  unfold execLifeReleaseArm
  repeat' first
    | with_reducible apply Keeps.ite
    | with_reducible assumption
    | with_reducible apply KeepsO.next
    | with_reducible apply keyWrite_keeps

theorem execLifeReleaseKey_keeps {s0 : State} {seat : Nat} {s : State} (h : Keeps s0 s) :
    KeepsO s0 (execLifeReleaseKey seat s) := by
  unfold execLifeReleaseKey
  repeat' first
    | with_reducible apply Keeps.ite
    | with_reducible assumption
    | with_reducible apply KeepsO.next
    | with_reducible apply keyWrite_keeps

theorem execLifeReleaseArmExpiry_keeps {s0 : State} {seat : Nat} {s : State} (h : Keeps s0 s) :
    KeepsO s0 (execLifeReleaseArmExpiry seat s) := by
  unfold execLifeReleaseArmExpiry
  repeat' first
    | with_reducible apply Keeps.ite
    | with_reducible assumption
    | with_reducible apply KeepsO.next
    | with_reducible apply updSeat_keeps

theorem execLifeMuteWrite_keeps {s0 : State} {seat : Nat} {value : Nat} {complement : Nat} {s : State} (h : Keeps s0 s) :
    KeepsO s0 (execLifeMuteWrite seat value complement s) := by
  unfold execLifeMuteWrite
  repeat' first
    | with_reducible apply Keeps.ite
    | with_reducible assumption
    | with_reducible apply KeepsO.next
    | with_reducible apply seatMute_keeps

theorem execEmuteInput_keeps {s0 : State} {low : Bool} {s : State} (h : Keeps s0 s) : KeepsO s0 (execEmuteInput low s) := by
  unfold execEmuteInput
  extract_lets -merge -useContext src
  repeat' first
    | with_reducible assumption
    | exact rfl
    | with_reducible apply KeepsO.next
    | with_reducible apply putB_keeps
    | with_reducible apply Keeps.upd

theorem execUdpMailboxDatagram_keeps {s0 : State} {mac srcAddr srcPort dstPort : Nat} {words : List Nat} {s : State}
    (h : Keeps s0 s) : KeepsO s0 (execUdpMailboxDatagram mac srcAddr srcPort dstPort words s) := by
  unfold execUdpMailboxDatagram
  refine KeepsO.ite (.next h) ?_
  split
  · exact .next h
  · exact KeepsO.ite (.next (updSeat_keeps h)) (.next (serveFrame_keeps (updSeat_keeps h)))

theorem resetPcieSeats_keeps {s0 : State} {fs : List Nat} {s : State} (h : Keeps s0 s) : Keeps s0 (resetPcieSeats fs s) := by
  unfold resetPcieSeats
  repeat' first
    | with_reducible assumption
    | with_reducible exact Keeps.refl _
    | with_reducible apply seatReset_keeps
    | with_reducible apply Keeps.foldl
    | intro _

theorem execPcieLinkDown_keeps {s0 : State} {s : State} (h : Keeps s0 s) : KeepsO s0 (execPcieLinkDown s) := by
  unfold execPcieLinkDown
  extract_lets -merge -useContext src
  repeat' first
    | with_reducible assumption
    | exact rfl
    | with_reducible apply KeepsO.next
    | with_reducible apply resetPcieSeats_keeps
    | with_reducible apply masterReset_keeps
    | with_reducible apply Keeps.upd

theorem execPcieFlr_keeps {s0 : State} {pf : Nat} {s : State} (h : Keeps s0 s) : KeepsO s0 (execPcieFlr pf s) := by
  unfold execPcieFlr
  repeat' first
    | with_reducible apply Keeps.ite
    | with_reducible assumption
    | with_reducible apply KeepsO.next
    | with_reducible apply resetPcieSeats_keeps
    | with_reducible apply masterReset_keeps

theorem execPcieLinkUp_keeps {s0 : State} {s : State} (h : Keeps s0 s) : KeepsO s0 (execPcieLinkUp s) := by
  unfold execPcieLinkUp
  extract_lets -merge -useContext src
  repeat' first
    | with_reducible apply Keeps.ite
    | with_reducible assumption
    | exact rfl
    | with_reducible apply KeepsO.next
    | with_reducible apply Keeps.upd

theorem windowRead_keeps {s0 : State} {m : Nat} {n : Nat} {off : Nat} {count : Nat} {s : State} (h : Keeps s0 s) :
    Keeps s0 (windowRead m n off count s).2.2 := by
  unfold windowRead
  extract_lets -merge -useContext a r
  have h_r : Keeps s0 r.2.2 := by
    dsimp only [r]
    repeat' first | with_reducible assumption | with_reducible apply ashWordsBy_keeps
  clear_value a r
  repeat' first | with_reducible apply Keeps.ite_snd_snd | with_reducible assumption | with_reducible apply vsrLog_keeps

theorem windowWrite_keeps {s0 : State} {m : Nat} {n : Nat} {off : Nat} {bs : List Nat} {s : State} (h : Keeps s0 s) :
    Keeps s0 (windowWrite m n off bs s).2 := by
  unfold windowWrite
  extract_lets -merge -useContext a k
  clear_value a k
  repeat' first
    | with_reducible apply Keeps.ite_snd
    | with_reducible assumption
    | with_reducible apply vsrLog_keeps
    | with_reducible apply putAshBytes_keeps

theorem execBar2Access_keeps {s0 : State} {pf : Nat} {write : Bool} {off : Nat} {count : Nat} {data : List Nat} {s : State}
    (h : Keeps s0 s) : KeepsO s0 (execBar2Access pf write off count data s) := by
  unfold execBar2Access
  repeat' first
    | with_reducible apply Keeps.ite
    | with_reducible assumption
    | with_reducible apply KeepsO.next
    | with_reducible apply KeepsO.ite
    | with_reducible apply vsrLog_keeps
    | with_reducible apply emit_keeps
    | with_reducible apply windowWrite_keeps
    | with_reducible apply windowRead_keeps
    | split

theorem updQspi_keeps {s0 : State} {p : Nat} {f : Qspi → Qspi} {s : State} (h : Keeps s0 s) : Keeps s0 (updQspi p f s) := by
  unfold updQspi
  repeat' first | with_reducible assumption | exact rfl | with_reducible apply Keeps.upd

theorem qspiWindow_keeps {s0 : State} {m off : Nat} {seat : Option Nat} {s : State} (h : Keeps s0 s) :
    Keeps s0 (match seat with
      | some n => let r := windowRead m n off 4 s; (if r.1 then some (ofBytes r.2.1) else none, r.2.2)
      | none => (none, s)).2 := by
  cases seat with
  | none => exact h
  | some n => exact windowRead_keeps (m := m) (n := n) (off := off) (count := 4) h

theorem qspiReadWord_keeps {s0 : State} {p a : Nat} {s : State} (h : Keeps s0 s) : Keeps s0 (qspiReadWord p a s).2 := by
  unfold qspiReadWord
  extract_lets -merge -useContext m seat
  clear_value m seat
  generalize a - 0x1000000 = off
  with_reducible refine Keeps.ite_snd (vsrLog_keeps h) ?_
  with_reducible refine Keeps.ite_snd ?_ ?_
  · split
    · split
      · exact seatViewRead_keeps h
      · exact h
    · split
      · exact lifeRead_keeps h
      · exact h
  · with_reducible refine Keeps.ite_snd ?_ (vsrLog_keeps h)
    exact qspiWindow_keeps h

theorem qspiWriteWord_keeps {s0 : State} {p : Nat} {a : Nat} {v : Nat} {s : State} (h : Keeps s0 s) :
    Keeps s0 (qspiWriteWord p a v s).2 := by
  unfold qspiWriteWord
  extract_lets -merge -useContext m seat
  clear_value m seat
  repeat' first
    | with_reducible apply Keeps.ite
    | with_reducible apply Keeps.ite_snd
    | with_reducible assumption
    | with_reducible apply vsrLog_keeps
    | with_reducible apply settleAll_keeps
    | with_reducible apply seatViewWrite_keeps
    | with_reducible apply windowWrite_keeps
    | split

theorem qspiReads_keeps {s0 : State} {p : Nat} {a : Nat} {a0 : Nat} {a1 : State} (h : Keeps s0 a1) :
    Keeps s0 (qspiReads p a a0 a1).2 := by
  induction a0 generalizing p a a1 with
  | zero => exact h
  | succ k ih =>
    unfold qspiReads
    repeat' first | with_reducible apply ih | with_reducible assumption | with_reducible apply qspiReadWord_keeps

theorem qspiWrites_keeps {s0 : State} {p : Nat} {a : Nat} {a0 : List Nat} {a1 : State} (h : Keeps s0 a1) :
    Keeps s0 (qspiWrites p a a0 a1).2 := by
  induction a0 generalizing p a a1 with
  | nil => exact h
  | cons x xs ih =>
    unfold qspiWrites
    repeat' first | with_reducible apply ih | with_reducible assumption | with_reducible apply qspiWriteWord_keeps

theorem execQspiWrite_keeps {s0 : State} {port : Nat} {bytes : List Nat} {s : State} (h : Keeps s0 s) :
    KeepsO s0 (execQspiWrite port bytes s) := by
  unfold execQspiWrite
  extract_lets -merge -useContext op b addr n put r
  have h_r : Keeps s0 r.2 := by
    dsimp only [r]
    repeat' first | with_reducible assumption | with_reducible apply qspiWrites_keeps
  clear_value op addr n r
  repeat' first
    | with_reducible assumption
    | with_reducible apply KeepsO.next
    | with_reducible apply KeepsO.ite
    | with_reducible apply updQspi_keeps

theorem execQspiRead_keeps {s0 : State} {port : Nat} {header : List Nat} {clocked : Nat} {s : State} (h : Keeps s0 s) :
    KeepsO s0 (execQspiRead port header clocked s) := by
  unfold execQspiRead
  extract_lets -merge -useContext op b n out r
  have h_out : ∀ y0 y1 z, Keeps z (out y0 y1 z) := by
    intro y0 y1 z
    dsimp only [out]
    repeat' first | with_reducible exact Keeps.refl _ | with_reducible apply updQspi_keeps | with_reducible apply emit_keeps
  have h_r : Keeps s0 r.2 := by
    dsimp only [r]
    repeat' first | with_reducible assumption | with_reducible apply qspiReads_keeps
  clear_value op n r
  repeat' first
    | with_reducible assumption
    | with_reducible apply KeepsO.next
    | with_reducible apply KeepsO.ite
    | with_reducible refine Keeps.trans ?_ (h_out _ _ _)
    | with_reducible apply updQspi_keeps
    | split

theorem execQspiStatus_keeps {s0 : State} {port : Nat} {s : State} (h : Keeps s0 s) : KeepsO s0 (execQspiStatus port s) := by
  unfold execQspiStatus
  repeat' first
    | with_reducible assumption
    | with_reducible apply KeepsO.next
    | with_reducible apply KeepsO.ite
    | with_reducible apply emit_keeps

theorem execRegisterWrite_keeps {s0 : State} {addr : Nat} {value : Nat} {s : State} (h : Keeps s0 s) :
    KeepsO s0 (execRegisterWrite addr value s) := by
  unfold execRegisterWrite
  repeat' first
    | with_reducible assumption
    | with_reducible apply KeepsO.next
    | with_reducible apply settleAll_keeps
    | with_reducible apply request_keeps

theorem execVoussoirRequest_keeps {s0 : State} {master : Nat} {id : Nat} {write : Bool} {addr : Nat} {size : Nat} {beats : Nat} {data : List Nat} {fetch : Bool} {s : State}
    (h : Keeps s0 s) : KeepsO s0 (execVoussoirRequest master id write addr size beats data fetch s) := by
  unfold execVoussoirRequest
  repeat' first
    | with_reducible assumption
    | with_reducible apply KeepsO.next
    | with_reducible apply settleAll_keeps
    | with_reducible apply request_keeps

theorem execMasterResetCut_keeps {s0 : State} {master : Nat} {s : State} (h : Keeps s0 s) :
    KeepsO s0 (execMasterResetCut master s) := by
  unfold execMasterResetCut
  repeat' first
    | with_reducible assumption
    | with_reducible apply KeepsO.next
    | with_reducible apply settleAll_keeps
    | with_reducible apply cutMaster_keeps

theorem execAshlarBeatAccept_keeps {s0 : State} {master : Nat} {id : Nat} {write : Bool} {line : Nat} {strobes : Nat} {data : List Nat} {s : State}
    (h : Keeps s0 s) : KeepsO s0 (execAshlarBeatAccept master id write line strobes data s) := by
  unfold execAshlarBeatAccept
  repeat' first
    | with_reducible assumption
    | with_reducible apply KeepsO.next
    | with_reducible apply settleAll_keeps
    | with_reducible apply acceptBeat_keeps

theorem execAshlarBeatServe_keeps {s0 : State} {bank : Nat} {cycle : Nat} {s : State} (h : Keeps s0 s) :
    KeepsO s0 (execAshlarBeatServe bank cycle s) := by
  unfold execAshlarBeatServe
  repeat' first
    | with_reducible assumption
    | with_reducible apply KeepsO.next
    | with_reducible apply settleAll_keeps
    | with_reducible apply serveQueue_keeps

theorem execMergedWrite_keeps {s0 : State} {bank : Nat} {s : State} (h : Keeps s0 s) :
    KeepsO s0 (execMergedWrite bank s) := by
  unfold execMergedWrite
  repeat' first
    | with_reducible assumption
    | with_reducible apply KeepsO.next
    | with_reducible apply settleAll_keeps
    | with_reducible apply mergeDone_keeps

end Sys2Proof.Machine
end

