-- ==== Sys2Proof/Laws/KeepsCourse.lean ====
section
/-! SUPPORT. The operations of Machine/Course.lean keep the queue, the fuses and the form of the stores. -/

namespace Sys2Proof.Machine

theorem markServed_keeps {s0 : State} {code : Nat} {read : Bool} {line : Nat} {c : Nat} {s : State} (h : Keeps s0 s) :
    Keeps s0 (markServed code read line c s) := by
  unfold markServed
  extract_lets -merge -useContext src
  repeat' first | with_reducible apply Keeps.ite | with_reducible assumption | exact rfl | with_reducible apply Keeps.upd

theorem strBank_keeps {s0 : State} {read : Bool} {w : Nat} {c : Nat} {s : State} (h : Keeps s0 s) :
    Keeps s0 (strBank read w c s) := by
  unfold strBank
  repeat' first
    | with_reducible apply Keeps.ite
    | with_reducible assumption
    | with_reducible apply engineRead_keeps
    | with_reducible apply guardFault_keeps
    | split

theorem slotGrant_keeps {s0 : State} {code : Nat} {read : Bool} {line : Nat} {c : Nat} {s : State} (h : Keeps s0 s) :
    Keeps s0 (slotGrant code read line c s) := by
  unfold slotGrant
  extract_lets -merge -useContext s1 replay r
  have h_s1 : Keeps s0 s1 := by
    dsimp only [s1]
    repeat' first | with_reducible assumption | with_reducible apply markServed_keeps
  have h_r : Keeps s0 r.2 := by
    dsimp only [r]
    repeat' first | with_reducible assumption | with_reducible apply portLineWords_keeps
  clear_value s1 replay r
  repeat' first
    | with_reducible apply Keeps.ite
    | with_reducible assumption
    | with_reducible apply strReadLine_keeps
    | with_reducible apply engineSlotWrite_keeps
    | with_reducible apply strWriteLine_keeps
    | with_reducible apply routeWriteOut_keeps
    | with_reducible apply dynWriteOut_keeps
    | with_reducible apply portReadLine_keeps
    | with_reducible apply ampReadLine_keeps
    | split

theorem engineGrant_keeps {s0 : State} {code : Nat} {read : Bool} {bank : Bool} {line : Nat} {cycle : Nat} {s : State}
    (h : Keeps s0 s) : Keeps s0 (engineGrant code read bank line cycle s) := by
  unfold engineGrant
  extract_lets -merge -useContext src s1
  have h_s1 : Keeps s0 s1 := by
    dsimp only [s1]
    repeat' first | with_reducible assumption | exact rfl | with_reducible apply Keeps.upd
  clear_value s1
  repeat' first
    | with_reducible apply Keeps.ite
    | with_reducible assumption
    | with_reducible apply strBank_keeps
    | with_reducible apply pairBankGrant_keeps
    | with_reducible apply pairPortGrant_keeps
    | with_reducible apply slotGrant_keeps

theorem execEngineGrantAccess_keeps {s0 : State} {code : Nat} {read : Bool} {bank : Bool} {line : Nat} {cycle : Nat} {s : State}
    (h : Keeps s0 s) : KeepsO s0 (execEngineGrantAccess code read bank line cycle s) := by
  unfold execEngineGrantAccess
  repeat' first | with_reducible assumption | with_reducible apply KeepsO.next | with_reducible apply engineGrant_keeps

theorem execFabStart_keeps {s0 : State} {s : State} (h : Keeps s0 s) : KeepsO s0 (execFabStart s) := by
  unfold execFabStart
  repeat' first
    | with_reducible apply Keeps.ite
    | with_reducible assumption
    | with_reducible apply KeepsO.next
    | with_reducible apply fabCtl_keeps

theorem execFabStop_keeps {s0 : State} {s : State} (h : Keeps s0 s) : KeepsO s0 (execFabStop s) := by
  unfold execFabStop
  repeat' first
    | with_reducible apply Keeps.ite
    | with_reducible assumption
    | with_reducible apply KeepsO.next
    | with_reducible apply fabCtl_keeps

theorem silenceTiles_keeps {s0 : State} {s : State} (h : Keeps s0 s) : Keeps s0 (silenceTiles s) := by
  unfold silenceTiles
  repeat' first
    | with_reducible assumption
    | with_reducible exact Keeps.refl _
    | with_reducible apply zeroLine_keeps
    | with_reducible apply Keeps.foldl
    | intro _

theorem lateLine_keeps {s0 : State} {code : Nat} {req : Nat} {s : State} {l : Nat} (h : Keeps s0 s) :
    Keeps s0 (lateLine code req s l) := by
  unfold lateLine
  repeat' first | with_reducible assumption | with_reducible apply zeroLine_keeps | with_reducible apply guardFault_keeps

theorem lateOutputs_keeps {s0 : State} {s : State} (h : Keeps s0 s) : Keeps s0 (lateOutputs s) := by
  unfold lateOutputs
  extract_lets -merge -useContext left s1
  have h_s1 : Keeps s0 s1 := by
    dsimp only [s1]
    repeat' first
      | with_reducible apply Keeps.ite
      | with_reducible assumption
      | with_reducible exact Keeps.refl _
      | with_reducible apply lateLine_keeps
      | with_reducible apply Keeps.foldl
      | intro _
  clear_value s1
  repeat' first
    | with_reducible apply Keeps.ite
    | with_reducible assumption
    | with_reducible exact Keeps.refl _
    | with_reducible apply lateLine_keeps
    | with_reducible apply Keeps.foldl
    | intro _

theorem lateEngines_keeps {s0 : State} {s : State} (h : Keeps s0 s) : Keeps s0 (lateEngines s) := by
  unfold lateEngines
  extract_lets -merge -useContext c zeros miss p t s1 s2 s3
  have h_s1 : Keeps s0 s1 := by
    dsimp only [s1]
    repeat' first
      | with_reducible assumption
      | with_reducible exact Keeps.refl _
      | with_reducible apply guardFault_keeps
      | with_reducible apply Keeps.foldl
      | intro _
  have h_s2 : Keeps s0 s2 := by
    dsimp only [s2]
    repeat' first
      | with_reducible assumption
      | with_reducible exact Keeps.refl _
      | with_reducible apply guardFault_keeps
      | with_reducible apply takeOut_keeps
      | with_reducible apply Keeps.foldl
      | intro _
  have h_s3 : Keeps s0 s3 := by
    dsimp only [s3]
    repeat' first
      | with_reducible assumption
      | with_reducible exact Keeps.refl _
      | with_reducible apply guardFault_keeps
      | with_reducible apply Keeps.foldl
      | intro _
  clear_value c zeros p t s1 s2 s3
  repeat' first
    | with_reducible assumption
    | with_reducible exact Keeps.refl _
    | with_reducible apply guardFault_keeps
    | with_reducible apply updCh_keeps
    | with_reducible apply Keeps.foldl
    | intro _

theorem starved_keeps {s0 : State} {s : State} (h : Keeps s0 s) : Keeps s0 (starved s) := by
  unfold starved
  repeat' first
    | with_reducible assumption
    | with_reducible exact Keeps.refl _
    | with_reducible apply guardFault_keeps
    | with_reducible apply Keeps.foldl
    | intro _

theorem courseEnd_keeps {s0 : State} {s : State} (h : Keeps s0 s) : Keeps s0 (courseEnd s) := by
  unfold courseEnd
  extract_lets -merge -useContext s2 s1
  have h_s2 : Keeps s0 s2 := by
    dsimp only [s2]
    repeat' first
      | with_reducible assumption
      | with_reducible exact Keeps.refl _
      | with_reducible apply tileCourseEnd_keeps
      | with_reducible apply Keeps.foldl
      | intro _
  have h_s1 : Keeps s0 s1 := by
    dsimp only [s1]
    repeat' first
      | with_reducible apply Keeps.ite
      | with_reducible assumption
      | with_reducible apply starved_keeps
      | with_reducible apply lateEngines_keeps
      | with_reducible apply silenceTiles_keeps
      | with_reducible apply lateOutputs_keeps
  clear_value s2 s1
  repeat' first
    | with_reducible assumption
    | with_reducible apply strEnd_keeps
    | with_reducible apply portFrames_keeps
    | with_reducible apply aesFrames_keeps

theorem clearMarks_keeps {s0 : State} {s : State} (h : Keeps s0 s) : Keeps s0 (clearMarks s) := by
  unfold clearMarks
  extract_lets -merge -useContext src src_2 src_3
  repeat' first | with_reducible assumption | exact rfl | with_reducible apply Keeps.upd

theorem setLocalCi_keeps {s0 : State} {n : Nat} {s : State} (h : Keeps s0 s) : Keeps s0 (setLocalCi n s) := by
  unfold setLocalCi
  extract_lets -merge -useContext src
  repeat' first | with_reducible assumption | exact rfl | split | with_reducible apply Keeps.upd

theorem setAnchor_keeps {s0 : State} {n : Nat} {s : State} (h : Keeps s0 s) : Keeps s0 (setAnchor n s) := by
  unfold setAnchor
  repeat' first | with_reducible assumption | with_reducible apply putFs_keeps

theorem timeline_keeps {s0 : State} {s : State} (h : Keeps s0 s) : Keeps s0 (timeline s) := by
  unfold timeline
  extract_lets -merge -useContext d old s1
  have h_s1 : Keeps s0 s1 := by
    dsimp only [s1]
    repeat' first | with_reducible assumption | with_reducible apply putB_keeps | with_reducible apply putF_keeps
  clear_value d old s1
  repeat' first | with_reducible apply Keeps.ite | with_reducible assumption | with_reducible apply raiseAll_keeps

theorem skipEntries_keeps {s0 : State} {old : State} {s : State} (h : Keeps s0 s) : Keeps s0 (skipEntries old s) := by
  unfold skipEntries
  repeat' first
    | with_reducible apply Keeps.ite
    | with_reducible assumption
    | with_reducible exact Keeps.refl _
    | exact rfl
    | with_reducible apply raiseTo_keeps
    | with_reducible apply Keeps.foldl
    | intro _
    | with_reducible apply Keeps.upd

theorem beginRamp_keeps {s0 : State} {s : State} (h : Keeps s0 s) : Keeps s0 (beginRamp s) := by
  unfold beginRamp
  extract_lets -merge -useContext src
  repeat' first
    | with_reducible apply Keeps.ite
    | with_reducible assumption
    | exact rfl
    | with_reducible apply setImgState_keeps
    | split
    | with_reducible apply Keeps.upd

theorem silenceOutputs_keeps {s0 : State} {s : State} (h : Keeps s0 s) : Keeps s0 (silenceOutputs s) := by
  unfold silenceOutputs
  extract_lets -merge -useContext s1 s2 s3 src
  have h_s1 : Keeps s0 s1 := by
    dsimp only [s1]
    repeat' first
      | with_reducible assumption
      | with_reducible exact Keeps.refl _
      | with_reducible apply updLane_keeps
      | with_reducible apply Keeps.foldl
      | intro _
  have h_s2 : Keeps s0 s2 := by
    dsimp only [s2]
    repeat' first
      | with_reducible assumption
      | with_reducible exact Keeps.refl _
      | with_reducible apply updAes_keeps
      | with_reducible apply Keeps.foldl
      | intro _
  have h_s3 : Keeps s0 s3 := by
    dsimp only [s3]
    repeat' first
      | with_reducible assumption
      | with_reducible exact Keeps.refl _
      | with_reducible apply updCh_keeps
      | with_reducible apply Keeps.foldl
      | intro _
  clear_value s1 s2 s3
  repeat' first | with_reducible assumption | exact rfl | with_reducible apply Keeps.upd

theorem beginGap_keeps {s0 : State} {img : Img} {s : State} (h : Keeps s0 s) : Keeps s0 (beginGap img s) := by
  unfold beginGap
  extract_lets -merge -useContext src
  repeat' first
    | with_reducible assumption
    | exact rfl
    | with_reducible apply setImgState_keeps
    | with_reducible apply silenceOutputs_keeps
    | with_reducible apply setTiles_keeps
    | with_reducible apply stopTiles_keeps
    | with_reducible apply Keeps.upd

theorem rampGainStep_keeps {s0 : State} {s : State} (h : Keeps s0 s) : Keeps s0 (rampGainStep s) := by
  unfold rampGainStep
  extract_lets -merge -useContext src src_2 src_3
  repeat' first
    | with_reducible apply Keeps.ite
    | with_reducible assumption
    | exact rfl
    | with_reducible apply setImgState_keeps
    | with_reducible apply beginGap_keeps
    | split
    | with_reducible apply Keeps.upd

theorem rampUp_keeps {s0 : State} {seat : Nat} {s : State} (h : Keeps s0 s) : Keeps s0 (rampUp seat s) := by
  unfold rampUp
  extract_lets -merge -useContext src
  repeat' first
    | with_reducible assumption
    | exact rfl
    | with_reducible apply setImgState_keeps
    | with_reducible apply Keeps.upd

theorem applyGap_keeps {s0 : State} {img : Img} {s : State} (h : Keeps s0 s) : Keeps s0 (applyGap img s) := by
  unfold applyGap
  extract_lets -merge -useContext gap s1 src
  have h_s1 : Keeps s0 s1 := by
    dsimp only [s1]
    repeat' first
      | with_reducible assumption
      | with_reducible exact Keeps.refl _
      | with_reducible apply applyInit_keeps
      | with_reducible apply Keeps.foldl
      | intro _
  clear_value gap s1
  repeat' first | with_reducible assumption | exact rfl | with_reducible apply Keeps.upd

theorem execGapLoadComplete_keeps {s0 : State} {s : State} (h : Keeps s0 s) : KeepsO s0 (execGapLoadComplete s) := by
  unfold execGapLoadComplete
  extract_lets -merge -useContext img
  clear_value img
  repeat' first
    | with_reducible apply Keeps.ite
    | with_reducible assumption
    | with_reducible apply KeepsO.next
    | with_reducible apply applyGap_keeps
    | split

theorem runTiles_keeps {s0 : State} {s : State} (h : Keeps s0 s) : Keeps s0 (runTiles s) := by
  unfold runTiles
  repeat' first
    | with_reducible assumption
    | with_reducible exact Keeps.refl _
    | with_reducible apply tileRestart_keeps
    | with_reducible apply putF_keeps
    | with_reducible apply Keeps.foldl
    | intro _

theorem cancelWhere_keeps {s0 : State} {f : Sched → Bool} {s : State} (h : Keeps s0 s) : Keeps s0 (cancelWhere f s) := by
  unfold cancelWhere
  repeat' first
    | with_reducible assumption
    | with_reducible exact Keeps.refl _
    | with_reducible apply cancelEntry_keeps
    | with_reducible apply Keeps.foldl
    | intro _

theorem stopForFamily_keeps {s0 : State} {img : Img} {s : State} (h : Keeps s0 s) : Keeps s0 (stopForFamily img s) := by
  unfold stopForFamily
  extract_lets -merge -useContext s1 src
  have h_s1 : Keeps s0 s1 := by
    dsimp only [s1]
    repeat' first
      | with_reducible assumption
      | with_reducible apply turnFamily_keeps
      | with_reducible apply stopFabric_keeps
      | with_reducible apply cancelWhere_keeps
  clear_value s1
  repeat' first | with_reducible assumption | exact rfl | with_reducible apply Keeps.upd

theorem newRate_keeps {s0 : State} {rm : Nat} {s : State} (h : Keeps s0 s) : Keeps s0 (newRate rm s) := by
  unfold newRate
  extract_lets -merge -useContext old t n
  clear_value old t n
  repeat' first
    | with_reducible apply Keeps.ite
    | with_reducible assumption
    | with_reducible apply setAnchor_keeps
    | with_reducible apply setLocalCi_keeps
    | with_reducible apply putF_keeps

theorem directFrame_keeps {s0 : State} {s : State} (h : Keeps s0 s) : Keeps s0 (directFrame s) := by
  unfold directFrame
  extract_lets -merge -useContext n src src_2
  clear_value n
  repeat' first
    | with_reducible assumption
    | exact rfl
    | with_reducible apply setPairState_keeps
    | with_reducible apply Keeps.upd

theorem cutOver_keeps {s0 : State} {seat : Nat} {ci : Nat} {img : Img} {s : State} (h : Keeps s0 s) :
    Keeps s0 (cutOver seat ci img s) := by
  unfold cutOver
  extract_lets -merge -useContext s1 s2 n s3 src s4 s5 src_2
  have h_s1 : Keeps s0 s1 := by
    dsimp only [s1]
    repeat' first | with_reducible apply Keeps.ite | with_reducible assumption | with_reducible apply applyGap_keeps
  have h_s2 : Keeps s0 s2 := by
    dsimp only [s2]
    repeat' first
      | with_reducible apply Keeps.ite
      | with_reducible assumption
      | with_reducible apply applyGap_keeps
      | with_reducible apply cancelWhere_keeps
  have h_s3 : Keeps s0 s3 := by
    dsimp only [s3]
    repeat' first | with_reducible apply Keeps.ite | with_reducible assumption | with_reducible apply directFrame_keeps
  have h_s4 : Keeps s0 s4 := by
    dsimp only [s4]
    repeat' first
      | with_reducible apply Keeps.ite
      | with_reducible assumption
      | exact rfl
      | with_reducible apply directFrame_keeps
      | with_reducible apply setLocalCi_keeps
      | with_reducible apply Keeps.upd
  have h_s5 : Keeps s0 s5 := by
    dsimp only [s5]
    repeat' first
      | with_reducible apply Keeps.ite
      | with_reducible assumption
      | exact rfl
      | with_reducible apply directFrame_keeps
      | with_reducible apply setLocalCi_keeps
      | with_reducible apply newRate_keeps
      | with_reducible apply clearPlane_keeps
      | with_reducible apply loadSets_keeps
      | with_reducible apply swapImage_keeps
      | with_reducible apply Keeps.upd
  clear_value s1 s2 n s3 s4 s5
  repeat' first
    | with_reducible apply Keeps.ite
    | with_reducible assumption
    | exact rfl
    | with_reducible apply stopForFamily_keeps
    | with_reducible apply rampUp_keeps
    | with_reducible apply setBudget_keeps
    | with_reducible apply runTiles_keeps
    | with_reducible apply Keeps.upd

theorem swapStep_keeps {s0 : State} {s : State} (h : Keeps s0 s) : Keeps s0 (swapStep s) := by
  unfold swapStep
  extract_lets -merge -useContext src done src_2 n t
  have h_done : Keeps s0 done := by
    dsimp only [done]
    repeat' first | with_reducible assumption | exact rfl | with_reducible apply Keeps.upd
  have h_t : Keeps s0 t := by
    dsimp only [t]
    repeat' first
      | with_reducible assumption
      | with_reducible apply clearPlane_keeps
      | with_reducible apply setAnchor_keeps
      | with_reducible apply setLocalCi_keeps
  clear_value done n t
  repeat' first
    | with_reducible apply Keeps.ite
    | with_reducible assumption
    | exact rfl
    | with_reducible apply skipEntries_keeps
    | with_reducible apply cutOver_keeps
    | with_reducible apply setImgState_keeps
    | with_reducible apply rampUp_keeps
    | with_reducible apply directFrame_keeps
    | with_reducible apply finishSleep_keeps
    | split
    | with_reducible apply Keeps.upd

theorem spliceStep_keeps {s0 : State} {due : List (Nat × Sched)} {s : State} (h : Keeps s0 s) :
    Keeps s0 (spliceStep due s) := by
  unfold spliceStep
  repeat' first
    | with_reducible apply Keeps.ite
    | with_reducible assumption
    | with_reducible apply imgEvent_keeps
    | with_reducible apply spliceSwap_keeps
    | split

theorem latchBases_keeps {s0 : State} {s : State} (h : Keeps s0 s) : Keeps s0 (latchBases s) := by
  unfold latchBases
  extract_lets -merge -useContext pages
  clear_value pages
  repeat' first
    | with_reducible apply Keeps.ite
    | with_reducible assumption
    | with_reducible exact Keeps.refl _
    | exact rfl
    | with_reducible apply putFs_keeps
    | with_reducible apply Keeps.foldl
    | split
    | intro _
    | with_reducible apply Keeps.upd

theorem setStep_keeps {s0 : State} {due : List (Nat × Sched)} {s : State} (h : Keeps s0 s) : Keeps s0 (setStep due s) := by
  unfold setStep
  extract_lets -merge -useContext s1
  have h_s1 : Keeps s0 s1 := by
    dsimp only [s1]
    repeat' first
      | with_reducible assumption
      | with_reducible exact Keeps.refl _
      | with_reducible apply dynResync_keeps
      | with_reducible apply stepRamps_keeps
      | with_reducible apply resyncBoundary_keeps
      | with_reducible apply Keeps.foldl
      | intro _
  clear_value s1
  repeat' first
    | with_reducible assumption
    | with_reducible exact Keeps.refl _
    | with_reducible apply latchBases_keeps
    | with_reducible apply swapSet_keeps
    | with_reducible apply Keeps.foldl
    | intro _

theorem changeStep_keeps {s0 : State} {due : List (Nat × Sched)} {s : State} (h : Keeps s0 s) :
    Keeps s0 (changeStep due s) := by
  unfold changeStep
  extract_lets -merge -useContext s1
  have h_s1 : Keeps s0 s1 := by
    dsimp only [s1]
    repeat' first
      | with_reducible assumption
      | with_reducible exact Keeps.refl _
      | with_reducible apply applyChange_keeps
      | with_reducible apply Keeps.foldl
      | intro _
  clear_value s1
  repeat' first
    | with_reducible assumption
    | exact rfl
    | with_reducible apply applySilence_keeps
    | with_reducible apply Keeps.upd

theorem fireStep_keeps {s0 : State} {due : List (Nat × Sched)} {s : State} (h : Keeps s0 s) : Keeps s0 (fireStep due s) := by
  unfold fireStep
  repeat' first
    | with_reducible assumption
    | with_reducible exact Keeps.refl _
    | exact rfl
    | with_reducible apply noteEv_keeps
    | with_reducible apply raiseTo_keeps
    | with_reducible apply Keeps.foldl
    | intro _
    | with_reducible apply Keeps.upd

theorem muteStep_keeps {s0 : State} {s : State} (h : Keeps s0 s) : Keeps s0 (muteStep s) := by
  unfold muteStep
  extract_lets -merge -useContext m s1
  have h_s1 : Keeps s0 s1 := by
    dsimp only [s1]
    repeat' first | with_reducible assumption | with_reducible apply putB_keeps
  clear_value m s1
  repeat' first | with_reducible apply Keeps.ite | with_reducible assumption | with_reducible apply noteEv_keeps

theorem beginCourse_keeps {s0 : State} {old : Sys2Proof.AMap PairRec} {due : List (Nat × Sched)} {s : State}
    (h : Keeps s0 s) : Keeps s0 (beginCourse old due s) := by
  unfold beginCourse
  extract_lets -merge -useContext s1 s2 s3 s4 s5 s6 s7
  have h_s1 : Keeps s0 s1 := by
    dsimp only [s1]
    repeat' first
      | with_reducible assumption
      | with_reducible apply muteStep_keeps
      | with_reducible apply takeQueued_keeps
      | with_reducible apply compareFired_keeps
      | with_reducible apply fireStep_keeps
      | with_reducible apply changeStep_keeps
      | with_reducible apply setStep_keeps
  have h_s2 : Keeps s0 s2 := by
    dsimp only [s2]
    repeat' first
      | with_reducible assumption
      | with_reducible exact Keeps.refl _
      | with_reducible apply tileBoundaryStop_keeps
      | with_reducible apply Keeps.foldl
      | intro _
  have h_s3 : Keeps s0 s3 := by
    dsimp only [s3]
    repeat' first
      | with_reducible assumption
      | with_reducible exact Keeps.refl _
      | with_reducible apply tileRestart_keeps
      | with_reducible apply Keeps.foldl
      | intro _
  have h_s4 : Keeps s0 s4 := by
    dsimp only [s4]
    repeat' first | with_reducible assumption | with_reducible apply ampBoundary_keeps
  have h_s5 : Keeps s0 s5 := by
    dsimp only [s5]
    repeat' first | with_reducible assumption | with_reducible apply sampleMutes_keeps
  have h_s6 : Keeps s0 s6 := by
    dsimp only [s6]
    repeat' first
      | with_reducible assumption
      | with_reducible apply setLines_keeps
      | with_reducible apply captureIngress_keeps
      | with_reducible apply strPresent_keeps
      | with_reducible apply strSettings_keeps
      | with_reducible apply portSettings_keeps
  have h_s7 : Keeps s0 s7 := by
    dsimp only [s7]
    repeat' first | with_reducible apply Keeps.ite | with_reducible assumption | with_reducible apply clkBoundary_keeps
  clear_value s1 s2 s3 s4 s5 s6 s7
  repeat' first
    | with_reducible assumption
    | with_reducible apply pairStates_keeps
    | with_reducible apply startRestate_keeps
    | with_reducible apply expireVerify_keeps
    | with_reducible apply timeline_keeps
    | with_reducible apply takeStamp_keeps
    | with_reducible apply boundaryPwr_keeps

theorem firstCourse_keeps {s0 : State} {a : Nat} {s : State} (h : Keeps s0 s) : Keeps s0 (firstCourse a s) := by
  unfold firstCourse
  extract_lets -merge -useContext src src_2
  repeat' first
    | with_reducible assumption
    | exact rfl
    | with_reducible apply setBudget_keeps
    | with_reducible apply putFs_keeps
    | with_reducible apply startFrame_keeps
    | with_reducible apply setLocalCi_keeps
    | with_reducible apply clearMarks_keeps
    | with_reducible apply clearPlane_keeps
    | with_reducible apply runTiles_keeps
    | with_reducible apply liveRegions_keeps
    | with_reducible apply imgEvent_keeps
    | with_reducible apply putF_keeps
    | with_reducible apply takeRecord_keeps
    | with_reducible apply beginCourse_keeps
    | split
    | with_reducible apply Keeps.upd

theorem standbyLag_keeps {s0 : State} {s : State} (h : Keeps s0 s) : Keeps s0 (standbyLag s) := by
  unfold standbyLag
  extract_lets -merge -useContext n src
  clear_value n
  repeat' first
    | with_reducible apply Keeps.ite
    | with_reducible assumption
    | exact rfl
    | with_reducible apply skipEntries_keeps
    | with_reducible apply setLocalCi_keeps
    | with_reducible apply Keeps.upd

theorem runBoundary_keeps {s0 : State} {s : State} (h : Keeps s0 s) : Keeps s0 (runBoundary s) := by
  unfold runBoundary
  extract_lets -merge -useContext s1 src s2 old s3 swapped s4 due
  have h_s1 : Keeps s0 s1 := by
    dsimp only [s1]
    repeat' first | with_reducible assumption | with_reducible apply closeRecord_keeps | with_reducible apply courseEnd_keeps
  have h_s2 : Keeps s0 s2 := by
    dsimp only [s2]
    repeat' first
      | with_reducible assumption
      | exact rfl
      | with_reducible apply clearMarks_keeps
      | with_reducible apply standbyLag_keeps
      | with_reducible apply Keeps.upd
  have h_s3 : Keeps s0 s3 := by
    dsimp only [s3]
    repeat' first
      | with_reducible assumption
      | with_reducible apply beginRamp_keeps
      | with_reducible apply takeRecord_keeps
      | with_reducible apply linkBoundary_keeps
  have h_s4 : Keeps s0 s4 := by
    dsimp only [s4]
    repeat' first
      | with_reducible apply Keeps.ite
      | with_reducible assumption
      | with_reducible apply swapStep_keeps
      | with_reducible apply rampGainStep_keeps
  clear_value s1 s2 old s3 swapped s4 due
  repeat' first
    | with_reducible apply Keeps.ite
    | with_reducible assumption
    | with_reducible apply stopFabric_keeps
    | with_reducible apply beginCourse_keeps
    | with_reducible apply spliceStep_keeps

theorem idleBoundary_keeps {s0 : State} {s : State} (h : Keeps s0 s) : Keeps s0 (idleBoundary s) := by
  unfold idleBoundary
  extract_lets -merge -useContext s1 s2
  have h_s1 : Keeps s0 s1 := by
    dsimp only [s1]
    repeat' first | with_reducible assumption | with_reducible apply linkBoundary_keeps | with_reducible apply putB_keeps
  have h_s2 : Keeps s0 s2 := by
    dsimp only [s2]
    repeat' first | with_reducible apply Keeps.ite | with_reducible assumption | with_reducible apply quietCycle_keeps
  clear_value s1 s2
  repeat' first
    | with_reducible assumption
    | with_reducible apply firstCourse_keeps
    | with_reducible apply boundaryPwr_keeps
    | with_reducible apply pairStates_keeps
    | split

theorem courseBoundary_keeps {s0 : State} {s : State} (h : Keeps s0 s) : Keeps s0 (courseBoundary s) := by
  unfold courseBoundary
  repeat' first
    | with_reducible apply Keeps.ite
    | with_reducible assumption
    | with_reducible exact Keeps.refl _
    | with_reducible apply watchLife_keeps
    | with_reducible apply runBoundary_keeps
    | with_reducible apply idleBoundary_keeps
    | intro _

theorem execCourseBoundary_keeps {s0 : State} {s : State} (h : Keeps s0 s) : KeepsO s0 (execCourseBoundary s) := by
  unfold execCourseBoundary
  repeat' first | with_reducible assumption | with_reducible apply KeepsO.next | with_reducible apply courseBoundary_keeps

theorem execFamilyChangeRestart_keeps {s0 : State} {s : State} (h : Keeps s0 s) : KeepsO s0 (execFamilyChangeRestart s) := by
  unfold execFamilyChangeRestart
  repeat' first
    | with_reducible assumption
    | exact rfl
    | with_reducible apply KeepsO.next
    | with_reducible apply KeepsO.ite
    | with_reducible apply setTiles_keeps
    | with_reducible apply loadSets_keeps
    | with_reducible apply swapImage_keeps
    | with_reducible apply startFabric_keeps
    | split
    | with_reducible apply Keeps.upd

end Sys2Proof.Machine
end

