-- ==== Sys2Proof/Laws/KeepsExec.lean ====
section
/-! SUPPORT. Every command keeps the queue, the fuses and the form of the stores. -/

namespace Sys2Proof.Machine

/-- What a command leaves alone when it answers a next state. -/
theorem exec_keeps (i : Instr) (s : State) : KeepsO s (exec i s) := by
  unfold exec
  cases i with
  | powerOnReset => exact execPowerOnReset_keeps (Keeps.refl s)
  | pinReset => exact execPinReset_keeps (Keeps.refl s)
  | ctlReset => exact execCtlReset_keeps (Keeps.refl s)
  | fabReset => exact execFabReset_keeps (Keeps.refl s)
  | seatReset => exact execSeatReset_keeps (Keeps.refl s)
  | ashlarFillDone => exact execAshlarFillDone_keeps (Keeps.refl s)
  | bootWindowPost => exact execBootWindowPost_keeps (Keeps.refl s)
  | bootRetry => exact execBootRetry_keeps (Keeps.refl s)
  | firmwareEntry => exact execFirmwareEntry_keeps (Keeps.refl s)
  | remapWrite => exact execRemapWrite_keeps (Keeps.refl s)
  | trialConfirm => exact execTrialConfirm_keeps (Keeps.refl s)
  | watchdogKick => exact execWatchdogKick_keeps (Keeps.refl s)
  | watchdogExpiry => exact execWatchdogExpiry_keeps (Keeps.refl s)
  | lockstepMismatch => exact execLockstepMismatch_keeps (Keeps.refl s)
  | registerWrite => exact execRegisterWrite_keeps (Keeps.refl s)
  | cpoWrite => exact execCpoWrite_keeps (Keeps.refl s)
  | ciReadCapture => exact execCiReadCapture_keeps (Keeps.refl s)
  | lifeCiRead => exact execLifeCiRead_keeps (Keeps.refl s)
  | fabStart => exact execFabStart_keeps (Keeps.refl s)
  | fabStop => exact execFabStop_keeps (Keeps.refl s)
  | courseBoundary => exact execCourseBoundary_keeps (Keeps.refl s)
  | familyChangeRestart => exact execFamilyChangeRestart_keeps (Keeps.refl s)
  | gapLoadComplete => exact execGapLoadComplete_keeps (Keeps.refl s)
  | tileArm => exact execTileArm_keeps (Keeps.refl s)
  | tileStop => exact execTileStop_keeps (Keeps.refl s)
  | tileBundleIssue => exact execTileBundleIssue_keeps (Keeps.refl s)
  | tileBankAccess => exact execTileBankAccess_keeps (Keeps.refl s)
  | ashlarLanding => exact execAshlarLanding_keeps (Keeps.refl s)
  | engineGrantAccess => exact execEngineGrantAccess_keeps (Keeps.refl s)
  | routeWindow => exact execRouteWindow_keeps (Keeps.refl s)
  | dynWindow => exact execDynWindow_keeps (Keeps.refl s)
  | routeResyncDone => exact execRouteResyncDone_keeps (Keeps.refl s)
  | dynResyncDone => exact execDynResyncDone_keeps (Keeps.refl s)
  | silenceCoalesceExpiry => exact execSilenceCoalesceExpiry_keeps (Keeps.refl s)
  | rteTableWrite => exact execRteTableWrite_keeps (Keeps.refl s)
  | dynTableWrite => exact execDynTableWrite_keeps (Keeps.refl s)
  | strTableWrite => exact execStrTableWrite_keeps (Keeps.refl s)
  | aesDataAccess => exact execAesDataAccess_keeps (Keeps.refl s)
  | logPop => exact execLogPop_keeps (Keeps.refl s)
  | ashlarBeatAccept => exact execAshlarBeatAccept_keeps (Keeps.refl s)
  | ashlarBeatServe => exact execAshlarBeatServe_keeps (Keeps.refl s)
  | mergedWrite => exact execMergedWrite_keeps (Keeps.refl s)
  | scrubLine => exact execScrubLine_keeps (Keeps.refl s)
  | scrubWriteback => exact execScrubWriteback_keeps (Keeps.refl s)
  | scrubPeriodStart => exact execScrubPeriodStart_keeps (Keeps.refl s)
  | bankPowerWrite => exact execBankPowerWrite_keeps (Keeps.refl s)
  | bankTransitionDone => exact execBankTransitionDone_keeps (Keeps.refl s)
  | serialFrameIn => exact execSerialFrameIn_keeps (Keeps.refl s)
  | serialFrameOut => exact execSerialFrameOut_keeps (Keeps.refl s)
  | nonaudioHoldExpiry => exact execNonaudioHoldExpiry_keeps (Keeps.refl s)
  | serialClockLoss => exact execSerialClockLoss_keeps (Keeps.refl s)
  | aes3RxFrame => exact execAes3RxFrame_keeps (Keeps.refl s)
  | aes3LockLoss => exact execAes3LockLoss_keeps (Keeps.refl s)
  | aes3BlockStart => exact execAes3BlockStart_keeps (Keeps.refl s)
  | aes3TxCommit => exact execAes3TxCommit_keeps (Keeps.refl s)
  | asrcAcquireLock => exact execAsrcAcquireLock_keeps (Keeps.refl s)
  | asrcSourceLost => exact execAsrcSourceLost_keeps (Keeps.refl s)
  | asrcFifoEmpty => exact execAsrcFifoEmpty_keeps (Keeps.refl s)
  | macLinkChange => exact execMacLinkChange_keeps (Keeps.refl s)
  | macRxFrame => exact execMacRxFrame_keeps (Keeps.refl s)
  | ringFrameDeliver => exact execRingFrameDeliver_keeps (Keeps.refl s)
  | txChainFetch => exact execTxChainFetch_keeps (Keeps.refl s)
  | macTxFrameStart => exact execMacTxFrameStart_keeps (Keeps.refl s)
  | pauseExpiry => exact execPauseExpiry_keeps (Keeps.refl s)
  | pauseWatchdogExpiry => exact execPauseWatchdogExpiry_keeps (Keeps.refl s)
  | pauseIgnoreEnd => exact execPauseIgnoreEnd_keeps (Keeps.refl s)
  | macCounterSnap => exact execMacCounterSnap_keeps (Keeps.refl s)
  | ringEnable => exact execRingEnable_keeps (Keeps.refl s)
  | mdioPoll => exact execMdioPoll_keeps (Keeps.refl s)
  | mdioTransaction => exact execMdioTransaction_keeps (Keeps.refl s)
  | mdioDone => exact execMdioDone_keeps (Keeps.refl s)
  | incWrite => exact execIncWrite_keeps (Keeps.refl s)
  | ptpTimeCapture => exact execPtpTimeCapture_keeps (Keeps.refl s)
  | ptpSet => exact execPtpSet_keeps (Keeps.refl s)
  | ptpStep => exact execPtpStep_keeps (Keeps.refl s)
  | cstampReadCapture => exact execCstampReadCapture_keeps (Keeps.refl s)
  | pulseArm => exact execPulseArm_keeps (Keeps.refl s)
  | pulseEdge => exact execPulseEdge_keeps (Keeps.refl s)
  | pulseFall => exact execPulseFall_keeps (Keeps.refl s)
  | captureEdge => exact execCaptureEdge_keeps (Keeps.refl s)
  | captureFifoRead => exact execCaptureFifoRead_keeps (Keeps.refl s)
  | systemPllLoss => exact execSystemPllLoss_keeps (Keeps.refl s)
  | ptpMessageRx => exact execPtpMessageRx_keeps (Keeps.refl s)
  | announceTimeout => exact execAnnounceTimeout_keeps (Keeps.refl s)
  | refPhaseEvent => exact execRefPhaseEvent_keeps (Keeps.refl s)
  | refEvalTick => exact execRefEvalTick_keeps (Keeps.refl s)
  | refAbsence => exact execRefAbsence_keeps (Keeps.refl s)
  | refWtrExpiry => exact execRefWtrExpiry_keeps (Keeps.refl s)
  | refDqExpiry => exact execRefDqExpiry_keeps (Keeps.refl s)
  | switchAveragingDone => exact execSwitchAveragingDone_keeps (Keeps.refl s)
  | buildOutBleedDone => exact execBuildOutBleedDone_keeps (Keeps.refl s)
  | dpllLockDetect => exact execDpllLockDetect_keeps (Keeps.refl s)
  | dpllUnlockDetect => exact execDpllUnlockDetect_keeps (Keeps.refl s)
  | holdoverHistoryTick => exact execHoldoverHistoryTick_keeps (Keeps.refl s)
  | openTimeout => exact execOpenTimeout_keeps (Keeps.refl s)
  | phaseStepWrite => exact execPhaseStepWrite_keeps (Keeps.refl s)
  | phaseStepApply => exact execPhaseStepApply_keeps (Keeps.refl s)
  | synthEnable => exact execSynthEnable_keeps (Keeps.refl s)
  | synthLock => exact execSynthLock_keeps (Keeps.refl s)
  | synthLockLoss => exact execSynthLockLoss_keeps (Keeps.refl s)
  | synthRelock => exact execSynthRelock_keeps (Keeps.refl s)
  | bandCalStart => exact execBandCalStart_keeps (Keeps.refl s)
  | bandCalDone => exact execBandCalDone_keeps (Keeps.refl s)
  | wcoArm => exact execWcoArm_keeps (Keeps.refl s)
  | wcoTrackAlign => exact execWcoTrackAlign_keeps (Keeps.refl s)
  | carrierPeriod => exact execCarrierPeriod_keeps (Keeps.refl s)
  | overcurrentTrip => exact execOvercurrentTrip_keeps (Keeps.refl s)
  | tripInput => exact execTripInput_keeps (Keeps.refl s)
  | tripHoldExpiry => exact execTripHoldExpiry_keeps (Keeps.refl s)
  | managementSlot => exact execManagementSlot_keeps (Keeps.refl s)
  | statusSlotEnd => exact execStatusSlotEnd_keeps (Keeps.refl s)
  | mklFrameRx => exact execMklFrameRx_keeps (Keeps.refl s)
  | discoverTimer => exact execDiscoverTimer_keeps (Keeps.refl s)
  | ampClearWrite => exact execAmpClearWrite_keeps (Keeps.refl s)
  | emuteInput => exact execEmuteInput_keeps (Keeps.refl s)
  | claimInFall => exact execClaimInFall_keeps (Keeps.refl s)
  | claimInRise => exact execClaimInRise_keeps (Keeps.refl s)
  | claimWindowEnd => exact execClaimWindowEnd_keeps (Keeps.refl s)
  | claimClockStop => exact execClaimClockStop_keeps (Keeps.refl s)
  | linkTraining => exact execLinkTraining_keeps (Keeps.refl s)
  | trainingModeTimeout => exact execTrainingModeTimeout_keeps (Keeps.refl s)
  | linkFault => exact execLinkFault_keeps (Keeps.refl s)
  | retrain => exact execRetrain_keeps (Keeps.refl s)
  | linkFrameRx => exact execLinkFrameRx_keeps (Keeps.refl s)
  | recordRx => exact execRecordRx_keeps (Keeps.refl s)
  | recordDeadlineMiss => exact execRecordDeadlineMiss_keeps (Keeps.refl s)
  | skewTimer => exact execSkewTimer_keeps (Keeps.refl s)
  | voussoirRequest => exact execVoussoirRequest_keeps (Keeps.refl s)
  | masterReset => exact execMasterReset_keeps (Keeps.refl s)
  | masterResetCut => exact execMasterResetCut_keeps (Keeps.refl s)
  | pcieLinkDown => exact execPcieLinkDown_keeps (Keeps.refl s)
  | pcieFlr => exact execPcieFlr_keeps (Keeps.refl s)
  | bar2Access => exact execBar2Access_keeps (Keeps.refl s)
  | qspiWrite => exact execQspiWrite_keeps (Keeps.refl s)
  | qspiRead => exact execQspiRead_keeps (Keeps.refl s)
  | qspiStatus => exact execQspiStatus_keeps (Keeps.refl s)
  | udpMailboxDatagram => exact execUdpMailboxDatagram_keeps (Keeps.refl s)
  | mailboxPost => exact execMailboxPost_keeps (Keeps.refl s)
  | evTailWrite => exact execEvTailWrite_keeps (Keeps.refl s)
  | leaseWarning => exact execLeaseWarning_keeps (Keeps.refl s)
  | leaseExpiry => exact execLeaseExpiry_keeps (Keeps.refl s)
  | lifeReleaseArm => exact execLifeReleaseArm_keeps (Keeps.refl s)
  | lifeReleaseKey => exact execLifeReleaseKey_keeps (Keeps.refl s)
  | lifeReleaseArmExpiry => exact execLifeReleaseArmExpiry_keeps (Keeps.refl s)
  | lifeMuteWrite => exact execLifeMuteWrite_keeps (Keeps.refl s)
  | lifeBeatTick => exact execLifeBeatTick_keeps (Keeps.refl s)
  | pieceVerifyDone => exact execPieceVerifyDone_keeps (Keeps.refl s)
  | supplyAlarm => exact execSupplyAlarm_keeps (Keeps.refl s)
  | temperatureSample => exact execTemperatureSample_keeps (Keeps.refl s)
  | quietEntry => exact execQuietEntry_keeps (Keeps.refl s)
  | quietExit => exact execQuietExit_keeps (Keeps.refl s)
  | restEntry => exact execRestEntry_keeps (Keeps.refl s)
  | wakeEvent => exact execWakeEvent_keeps (Keeps.refl s)
  | wakeFabricStart => exact execWakeFabricStart_keeps (Keeps.refl s)
  | sysCaps => exact execSysCaps_keeps (Keeps.refl s)
  | sysReset => exact execSysReset_keeps (Keeps.refl s)
  | sysLife => exact execSysLife_keeps (Keeps.refl s)
  | sysMute => exact execSysMute_keeps (Keeps.refl s)
  | sysCancel => exact execSysCancel_keeps (Keeps.refl s)
  | sysSched => exact execSysSched_keeps (Keeps.refl s)
  | seatAttach => exact execSeatAttach_keeps (Keeps.refl s)
  | seatRenew => exact execSeatRenew_keeps (Keeps.refl s)
  | seatDetach => exact execSeatDetach_keeps (Keeps.refl s)
  | seatGive => exact execSeatGive_keeps (Keeps.refl s)
  | seatTake => exact execSeatTake_keeps (Keeps.refl s)
  | seatAdopt => exact execSeatAdopt_keeps (Keeps.refl s)
  | seatRelease => exact execSeatRelease_keeps (Keeps.refl s)
  | seatQuota => exact execSeatQuota_keeps (Keeps.refl s)
  | seatBind => exact execSeatBind_keeps (Keeps.refl s)
  | seatPerm => exact execSeatPerm_keeps (Keeps.refl s)
  | seatSubscribe => exact execSeatSubscribe_keeps (Keeps.refl s)
  | seatList => exact execSeatList_keeps (Keeps.refl s)
  | imgBegin => exact execImgBegin_keeps (Keeps.refl s)
  | imgPiece => exact execImgPiece_keeps (Keeps.refl s)
  | imgData => exact execImgData_keeps (Keeps.refl s)
  | imgCommit => exact execImgCommit_keeps (Keeps.refl s)
  | imgAbort => exact execImgAbort_keeps (Keeps.refl s)
  | imgStatus => exact execImgStatus_keeps (Keeps.refl s)
  | imgPath => exact execImgPath_keeps (Keeps.refl s)
  | imgLend => exact execImgLend_keeps (Keeps.refl s)
  | imgKey => exact execImgKey_keeps (Keeps.refl s)
  | paramWrite => exact execParamWrite_keeps (Keeps.refl s)
  | paramRead => exact execParamRead_keeps (Keeps.refl s)
  | routeStage => exact execRouteStage_keeps (Keeps.refl s)
  | routeCommit => exact execRouteCommit_keeps (Keeps.refl s)
  | routeDest => exact execRouteDest_keeps (Keeps.refl s)
  | routeSilence => exact execRouteSilence_keeps (Keeps.refl s)
  | routeRead => exact execRouteRead_keeps (Keeps.refl s)
  | routeDstat => exact execRouteDstat_keeps (Keeps.refl s)
  | routeDiscard => exact execRouteDiscard_keeps (Keeps.refl s)
  | dynStage => exact execDynStage_keeps (Keeps.refl s)
  | dynRead => exact execDynRead_keeps (Keeps.refl s)
  | portGroup => exact execPortGroup_keeps (Keeps.refl s)
  | portLane => exact execPortLane_keeps (Keeps.refl s)
  | portAesrx => exact execPortAesrx_keeps (Keeps.refl s)
  | portAestx => exact execPortAestx_keeps (Keeps.refl s)
  | portCstat => exact execPortCstat_keeps (Keeps.refl s)
  | portAsrc => exact execPortAsrc_keeps (Keeps.refl s)
  | portOuten => exact execPortOuten_keeps (Keeps.refl s)
  | portStatus => exact execPortStatus_keeps (Keeps.refl s)
  | netMac => exact execNetMac_keeps (Keeps.refl s)
  | netIp => exact execNetIp_keeps (Keeps.refl s)
  | netPhy => exact execNetPhy_keeps (Keeps.refl s)
  | netMdio => exact execNetMdio_keeps (Keeps.refl s)
  | netStats => exact execNetStats_keeps (Keeps.refl s)
  | streamRx => exact execStreamRx_keeps (Keeps.refl s)
  | streamTx => exact execStreamTx_keeps (Keeps.refl s)
  | streamMap => exact execStreamMap_keeps (Keeps.refl s)
  | streamEnable => exact execStreamEnable_keeps (Keeps.refl s)
  | streamDelete => exact execStreamDelete_keeps (Keeps.refl s)
  | streamStatus => exact execStreamStatus_keeps (Keeps.refl s)
  | timePtp => exact execTimePtp_keeps (Keeps.refl s)
  | timeStatus => exact execTimeStatus_keeps (Keeps.refl s)
  | timeCpo => exact execTimeCpo_keeps (Keeps.refl s)
  | timeReanchor => exact execTimeReanchor_keeps (Keeps.refl s)
  | timePulse => exact execTimePulse_keeps (Keeps.refl s)
  | timeCapture => exact execTimeCapture_keeps (Keeps.refl s)
  | timeCapread => exact execTimeCapread_keeps (Keeps.refl s)
  | timeLatency => exact execTimeLatency_keeps (Keeps.refl s)
  | clkRef => exact execClkRef_keeps (Keeps.refl s)
  | clkSelect => exact execClkSelect_keeps (Keeps.refl s)
  | clkDpll => exact execClkDpll_keeps (Keeps.refl s)
  | clkFreq => exact execClkFreq_keeps (Keeps.refl s)
  | clkStep => exact execClkStep_keeps (Keeps.refl s)
  | clkQuality => exact execClkQuality_keeps (Keeps.refl s)
  | clkOutput => exact execClkOutput_keeps (Keeps.refl s)
  | clkStatus => exact execClkStatus_keeps (Keeps.refl s)
  | ampChannel => exact execAmpChannel_keeps (Keeps.refl s)
  | ampGroup => exact execAmpGroup_keeps (Keeps.refl s)
  | ampBus => exact execAmpBus_keeps (Keeps.refl s)
  | ampOuten => exact execAmpOuten_keeps (Keeps.refl s)
  | ampClear => exact execAmpClear_keeps (Keeps.refl s)
  | ampStatus => exact execAmpStatus_keeps (Keeps.refl s)
  | pairConfig => exact execPairConfig_keeps (Keeps.refl s)
  | pairStatus => exact execPairStatus_keeps (Keeps.refl s)
  | pairRejoin => exact execPairRejoin_keeps (Keeps.refl s)
  | pairRestate => exact execPairRestate_keeps (Keeps.refl s)
  | pairReframe => exact execPairReframe_keeps (Keeps.refl s)
  | pairRetrain => exact execPairRetrain_keeps (Keeps.refl s)
  | pwrState => exact execPwrState_keeps (Keeps.refl s)
  | pwrBanks => exact execPwrBanks_keeps (Keeps.refl s)
  | pwrScrub => exact execPwrScrub_keeps (Keeps.refl s)
  | pwrStatus => exact execPwrStatus_keeps (Keeps.refl s)
  | diagRead => exact execDiagRead_keeps (Keeps.refl s)
  | diagCounts => exact execDiagCounts_keeps (Keeps.refl s)
  | diagLog => exact execDiagLog_keeps (Keeps.refl s)
  | diagInject => exact execDiagInject_keeps (Keeps.refl s)
  | diagSvn => exact execDiagSvn_keeps (Keeps.refl s)
  | diagDebug => exact execDiagDebug_keeps (Keeps.refl s)
  | resetRelease => exact execResetRelease_keeps (Keeps.refl s)
  | systemPllRelock => exact execSystemPllRelock_keeps (Keeps.refl s)
  | supplyAlarmClear => exact execSupplyAlarmClear_keeps (Keeps.refl s)
  | pcieLinkUp => exact execPcieLinkUp_keeps (Keeps.refl s)

end Sys2Proof.Machine
end

