-- ==== Sys2Proof/Laws/Regs.lean ====
section
/-! SUPPORT. Reads of register fields after writes, and of what the shared operations leave alone. -/

namespace Sys2Proof.Machine

theorem getF_putF_self (f : Fld) (v : Nat) (s : State) : getF (putF f v s) f = v % 2 ^ f.width := by
  unfold getF putF
  exact AMap.get_set_self _ _ _ _

theorem getF_putF_ne {f g : Fld} (v : Nat) (s : State) (h : f.key ≠ g.key) : getF (putF g v s) f = getF s f := by
  unfold getF putF
  exact AMap.get_set_ne _ _ _ _ h

/-- A field reads its new value, or what it read before. -/
theorem getF_putF (f g : Fld) (v : Nat) (s : State) (h : f.key = g.key → f = g) :
    getF (putF g v s) f = if f.key = g.key then v % 2 ^ g.width else getF s f := by
  split
  · rename_i e
    rw [h e, getF_putF_self]
  · rename_i e
    exact getF_putF_ne v s e

theorem putF_regs (f : Fld) (v : Nat) (s : State) : putF f v s = { s with regs := (putF f v s).regs } := rfl

theorem OnlyFields.nil (s : State) : OnlyFields s s [] := ⟨rfl, fun _ h => absurd h (by simp), fun _ _ => rfl⟩

/-- One more field written after others, none of which it shares bits with. -/
theorem OnlyFields.snoc {s t : State} {l : List (Fld × Nat)} (h : OnlyFields s t l) (f : Fld) (v : Nat)
    (hk : ∀ p ∈ l, p.1.key ≠ f.key) : OnlyFields s (putF f v t) (l ++ [(f, v)]) where
  rest := by rw [putF_regs, h.rest]
  written := by
    intro p hp
    rcases List.mem_append.1 hp with hp | hp
    · rw [getF_putF_ne _ _ (hk p hp), h.written p hp]
    · rw [List.mem_singleton.1 hp, getF_putF_self]
  others := by
    intro g hg
    rw [getF_putF_ne _ _ (hg (f, v) (by simp)), h.others g (fun p hp => hg p (by simp [hp]))]

theorem OnlyFields.putFs_from {s t : State} {l m : List (Fld × Nat)} (h : OnlyFields s t l)
    (hk : ((l ++ m).map (fun p => p.1.key)).Nodup) : OnlyFields s (putFs m t) (l ++ m) := by
  induction m generalizing t l with
  | nil => simpa [putFs] using h
  | cons p m ih =>
    have hp : ∀ q ∈ l, q.1.key ≠ p.1.key := by
      intro q hq e
      rw [List.map_append, List.nodup_append] at hk
      exact hk.2.2 q.1.key (List.mem_map.2 ⟨q, hq, rfl⟩) p.1.key (by simp) e
    have := ih (h.snoc p.1 p.2 hp) (by simpa using hk)
    simpa [putFs] using this

/-- Fields set one after another, no two the same: exactly they change. -/
theorem OnlyFields.putFs {s : State} {l : List (Fld × Nat)} (hk : (l.map (fun p => p.1.key)).Nodup) :
    OnlyFields s (putFs l s) l := OnlyFields.putFs_from (OnlyFields.nil s) hk

theorem OnlyFields.putF (s : State) (f : Fld) (v : Nat) : OnlyFields s (putF f v s) [(f, v)] :=
  (OnlyFields.nil s).snoc f v (fun _ h => absurd h (by simp))

end Sys2Proof.Machine
end

