-- ==== Sys2Proof/Laws/Row.lean ====
section
/-! SUPPORT. A row of the firmware's command reference: when its checks pass, the answer is OK with its effect. -/

namespace Sys2Proof.Machine

theorem ok_bind {α β : Type} (a : α) (f : α → Except FwErr β) : ((Except.ok a : Except FwErr α) >>= f) = f a := rfl

/-- A check that passes, and what follows it. -/
theorem step_ok {α β : Type} {a : Except FwErr α} {x : α} {f : α → Except FwErr β} {b : Except FwErr β} (h : a = .ok x) (h' : f x = b) :
    (a >>= f) = b := by
  rw [h]
  exact h'

/-- A check that is made only where a condition holds. -/
theorem when_ok {c : Prop} [Decidable c] {a : Except FwErr Unit} (h : c → a = .ok ()) : (if c then a else .ok ()) = .ok () := by
  split
  · exact h ‹_›
  · rfl

theorem pure_ok {α : Type} (a : α) : (pure a : Except FwErr α) = .ok a := rfl

theorem need_of {b : Bool} {e : FwErr} (h : b = true) : need b e = .ok () := by rw [h]; rfl

theorem len_of {r : FwReq} {n : Nat} (h : r.words.length = n) : r.len n = .ok () := need_of (by simp [h])

theorem inVariant_of {i here most : Nat} (h : i < here) (hm : here ≤ most) : inVariant i here most = .ok () := by
  unfold inVariant
  rw [need_of (by simp; omega), ok_bind, need_of (by simp; omega)]

/-! ## What queued STAGE events leave alone -/

@[simp] theorem noted_fuses (q : List PairEv) (s : State) : (noted q s).fuses = s.fuses := rfl
@[simp] theorem noted_pins (q : List PairEv) (s : State) : (noted q s).pins = s.pins := rfl
@[simp] theorem noted_regs (q : List PairEv) (s : State) : (noted q s).regs = s.regs := rfl
@[simp] theorem noted_live (q : List PairEv) (s : State) : (noted q s).live = s.live := rfl
@[simp] theorem noted_stage (q : List PairEv) (s : State) : (noted q s).stage = s.stage := rfl
@[simp] theorem noted_ctl (q : List PairEv) (s : State) : (noted q s).ctl = s.ctl := rfl
@[simp] theorem noted_vsr (q : List PairEv) (s : State) : (noted q s).vsr = s.vsr := rfl
@[simp] theorem noted_seats (q : List PairEv) (s : State) : (noted q s).seats = s.seats := rfl
@[simp] theorem noted_qspi (q : List PairEv) (s : State) : (noted q s).qspi = s.qspi := rfl
@[simp] theorem noted_fw (q : List PairEv) (s : State) : (noted q s).fw = s.fw := rfl
@[simp] theorem noted_fab (q : List PairEv) (s : State) : (noted q s).fab = s.fab := rfl
@[simp] theorem noted_plane (q : List PairEv) (s : State) : (noted q s).plane = s.plane := rfl
@[simp] theorem noted_tiles (q : List PairEv) (s : State) : (noted q s).tiles = s.tiles := rfl
@[simp] theorem noted_ash (q : List PairEv) (s : State) : (noted q s).ash = s.ash := rfl
@[simp] theorem noted_ptp (q : List PairEv) (s : State) : (noted q s).ptp = s.ptp := rfl
@[simp] theorem noted_media (q : List PairEv) (s : State) : (noted q s).media = s.media := rfl
@[simp] theorem noted_pwr (q : List PairEv) (s : State) : (noted q s).pwr = s.pwr := rfl
@[simp] theorem noted_rte (q : List PairEv) (s : State) : (noted q s).rte = s.rte := rfl
@[simp] theorem noted_dyn (q : List PairEv) (s : State) : (noted q s).dyn = s.dyn := rfl
@[simp] theorem noted_port (q : List PairEv) (s : State) : (noted q s).port = s.port := rfl
@[simp] theorem noted_net (q : List PairEv) (s : State) : (noted q s).net = s.net := rfl
@[simp] theorem noted_str (q : List PairEv) (s : State) : (noted q s).str = s.str := rfl
@[simp] theorem noted_ptpIo (q : List PairEv) (s : State) : (noted q s).ptpIo = s.ptpIo := rfl
@[simp] theorem noted_clk (q : List PairEv) (s : State) : (noted q s).clk = s.clk := rfl
@[simp] theorem noted_oenDark (q : List PairEv) (s : State) : (noted q s).oenDark = s.oenDark := rfl
@[simp] theorem noted_amp (q : List PairEv) (s : State) : (noted q s).amp = s.amp := rfl
@[simp] theorem noted_out (q : List PairEv) (s : State) : (noted q s).out = s.out := rfl
@[simp] theorem noted_free (q : List PairEv) (s : State) : (noted q s).free = s.free := rfl
@[simp] theorem noted_pending (q : List PairEv) (s : State) : (noted q s).pending = s.pending := rfl
@[simp] theorem getF_noted (q : List PairEv) (s : State) (f : Fld) : getF (noted q s) f = getF s f := rfl
@[simp] theorem flag_noted (q : List PairEv) (s : State) (f : Fld) : flag (noted q s) f = flag s f := rfl
@[simp] theorem seatOf_noted (q : List PairEv) (s : State) (n : Nat) : seatOf (noted q s) n = seatOf s n := rfl
@[simp] theorem attached_noted (q : List PairEv) (s : State) (n : Nat) : attached (noted q s) n = attached s n := rfl
@[simp] theorem tileOf_noted (q : List PairEv) (s : State) (n : Nat) : tileOf (noted q s) n = tileOf s n := rfl
@[simp] theorem running_noted (q : List PairEv) (s : State) : running (noted q s) = running s := rfl
@[simp] theorem rmOf_noted (q : List PairEv) (s : State) : rmOf (noted q s) = rmOf s := rfl
@[simp] theorem fsOf_noted (q : List PairEv) (s : State) : fsOf (noted q s) = fsOf s := rfl
@[simp] theorem courseLen_noted (q : List PairEv) (s : State) : courseLen (noted q s) = courseLen s := rfl
@[simp] theorem isSmall_noted (q : List PairEv) (s : State) : isSmall (noted q s) = isSmall s := rfl
@[simp] theorem nTiles_noted (q : List PairEv) (s : State) : nTiles (noted q s) = nTiles s := rfl
@[simp] theorem nBanks_noted (q : List PairEv) (s : State) : nBanks (noted q s) = nBanks s := rfl
@[simp] theorem hasAmp_noted (q : List PairEv) (s : State) : hasAmp (noted q s) = hasAmp s := rfl
@[simp] theorem nMacs_noted (q : List PairEv) (s : State) : nMacs (noted q s) = nMacs s := rfl
@[simp] theorem nAes_noted (q : List PairEv) (s : State) : nAes (noted q s) = nAes s := rfl
@[simp] theorem nSoeri_noted (q : List PairEv) (s : State) : nSoeri (noted q s) = nSoeri s := rfl
@[simp] theorem nLanes_noted (q : List PairEv) (s : State) : nLanes (noted q s) = nLanes s := rfl
@[simp] theorem nGroups_noted (q : List PairEv) (s : State) : nGroups (noted q s) = nGroups s := rfl
@[simp] theorem nAsrc_noted (q : List PairEv) (s : State) : nAsrc (noted q s) = nAsrc s := rfl
@[simp] theorem nRxs_noted (q : List PairEv) (s : State) : nRxs (noted q s) = nRxs s := rfl
@[simp] theorem nTxs_noted (q : List PairEv) (s : State) : nTxs (noted q s) = nTxs s := rfl
@[simp] theorem maxXp_noted (q : List PairEv) (s : State) : maxXp (noted q s) = maxXp s := rfl
@[simp] theorem maxDyn_noted (q : List PairEv) (s : State) : maxDyn (noted q s) = maxDyn s := rfl
@[simp] theorem partBank_noted (q : List PairEv) (s : State) : partBank (noted q s) = partBank s := rfl
@[simp] theorem relays_noted (q : List PairEv) (s : State) : relays (noted q s) = relays s := rfl
@[simp] theorem isStandby_noted (q : List PairEv) (s : State) : isStandby (noted q s) = isStandby s := rfl
@[simp] theorem audioSide_noted (q : List PairEv) (s : State) : audioSide (noted q s) = audioSide s := rfl
@[simp] theorem commitArmed_noted (q : List PairEv) (s : State) : commitArmed (noted q s) = commitArmed s := rfl

@[simp] theorem regWordRaw_noted (q : List PairEv) (s : State) (a : Nat) : regWordRaw (noted q s) a = regWordRaw s a := rfl
@[simp] theorem readWord_noted (q : List PairEv) (s : State) (l : List Fld) : readWord (noted q s) l = readWord s l := rfl

/-! ## Checks that do not see queued STAGE events -/

theorem audioSide_ok {s : State} (h : isStandby s = false) : audioSide s = .ok () := need_of (by simp [h])

theorem MayChange.own' {r : FwReq} {s : State} {k i : Nat} (h : MayChange r s k i) (q : List PairEv) :
    mayOwn (noted q s) r k i = .ok () := h.own

theorem MayChange.quota' {r : FwReq} {s : State} {k i : Nat} (h : MayChange r s k i) (q : List PairEv) :
    quotaFor (noted q s) r k i = .ok () := h.quota

theorem nGroups_le (s : State) : nGroups s ≤ 6 := by unfold nGroups; split <;> decide
theorem nLanes_le (s : State) : nLanes s ≤ 48 := by unfold nLanes; split <;> decide
theorem nAsrc_le (s : State) : nAsrc s ≤ 64 := by unfold nAsrc; split <;> decide
theorem nRxs_le (s : State) : nRxs s ≤ 1024 := by unfold nRxs; split <;> decide
theorem nTxs_le (s : State) : nTxs s ≤ 512 := by unfold nTxs; split <;> decide

/-- A one-bit field of a request. -/
theorem f_one (r : FwReq) (i k : Nat) : r.f i k 1 = 0 ∨ r.f i k 1 = 1 := by
  unfold FwReq.f bits
  omega

theorem noted_nil (s : State) : noted [] s = s := by
  unfold noted
  rw [List.append_nil]

/-- A command run on a relaying claimant depends on itself at the states with queued STAGE events only. -/
theorem relayed_congr {f g : State → FwM} {s : State} (h : ∀ q, f (noted q s) = g (noted q s)) : relayed f s = relayed g s := by
  have h0 : f s = g s := by simpa [noted_nil] using h []
  unfold relayed
  rw [h0]
  split
  · rfl
  · split
    · rfl
    · dsimp only
      split
      · rfl
      · exact h _

theorem answer_congr {op : Nat} {r : FwReq} {f g : State → FwM} {s : State} (h : ∀ q, f (noted q s) = g (noted q s)) :
    answer op r f s = answer op r g s := by
  unfold answer
  rw [relayed_congr h]

/-- A row whose checks pass, whatever STAGE events are queued. -/
theorem Replies.row {op : Nat} {r : FwReq} {f : FwReq → State → FwM} {s : State} {ws : List Nat} {P : State → State → Prop}
    (e : State → State) (h : Asks r s) (hf : ∀ q, f r (noted q s) = .ok (e (noted q s), ws))
    (hP : ∀ q, P (noted q s) (e (noted q s))) : Replies op r s (fwRow op r f s) ws P := by
  refine ⟨e, ?_, hP⟩
  unfold fwRow
  have hs : (fwUp s && decide (r.seat < 4)) = true := by simp [h.up, h.seat]
  rw [if_pos hs, answer_congr (g := fun x => .ok (e x, ws)) hf]

theorem Replies.row_eq {op : Nat} {r : FwReq} {f : FwReq → State → FwM} {s : State} {ws : List Nat} {e : State → State}
    (h : Asks r s) (hf : ∀ q, f r (noted q s) = .ok (e (noted q s), ws)) :
    Replies op r s (fwRow op r f s) ws (fun x t => t = e x) := Replies.row e h hf (fun _ => rfl)

/-- A row that only reports. -/
theorem Replies.row_same {op : Nat} {r : FwReq} {f : FwReq → State → FwM} {s : State} {ws : List Nat} (h : Asks r s)
    (hf : ∀ q, f r (noted q s) = .ok (noted q s, ws)) : Replies op r s (fwRow op r f s) ws Same := Replies.row id h hf (fun _ => rfl)

/-- A row that writes register fields, no two the same. -/
theorem Replies.row_fields {op : Nat} {r : FwReq} {f : FwReq → State → FwM} {s : State} {ws : List Nat} {l : List (Fld × Nat)}
    (h : Asks r s) (hf : ∀ q, f r (noted q s) = .ok (Machine.putFs l (noted q s), ws))
    (hk : (l.map (fun p => p.1.key)).Nodup) : Replies op r s (fwRow op r f s) ws (fun x t => OnlyFields x t l) :=
  Replies.row (Machine.putFs l) h hf (fun _ => OnlyFields.putFs hk)

/-- A row that is answered with words of its own, whatever STAGE events are queued. -/
theorem answer_row {op : Nat} {r : FwReq} {f : FwReq → State → FwM} {s : State} {g : State → FwM} (h : Asks r s)
    (hf : ∀ q, f r (noted q s) = g (noted q s)) : fwRow op r f s = .next (answer op r g s) := by
  unfold fwRow
  have hs : (fwUp s && decide (r.seat < 4)) = true := by simp [h.up, h.seat]
  rw [if_pos hs, answer_congr hf]

/-- A row whose effect, its own checks passed, succeeds. -/
theorem replied_row {op : Nat} {r : FwReq} {f : FwReq → State → FwM} {s t : State} {ws : List Nat} {g : State → FwM} (h : Asks r s)
    (hg : relayed g s = .ok (t, ws)) (hf : ∀ q, f r (noted q s) = g (noted q s)) : fwRow op r f s = replied op r ws t := by
  rw [answer_row h hf]
  unfold replied answer
  rw [hg]

end Sys2Proof.Machine
end

