-- ==== Sys2Proof/Laws/State.lean ====
section
/-! SUPPORT. One lemma for each field under each update of the state that leaves it alone, and the parts of an updated state, so
that no later proof unfolds a record update. -/

namespace Sys2Proof.Machine

/-! ## putF -/

@[simp] theorem putF_fuses (f : Fld) (v : Nat) (s : State) : (putF f v s).fuses = s.fuses := rfl
@[simp] theorem putF_pins (f : Fld) (v : Nat) (s : State) : (putF f v s).pins = s.pins := rfl
@[simp] theorem putF_live (f : Fld) (v : Nat) (s : State) : (putF f v s).live = s.live := rfl
@[simp] theorem putF_stage (f : Fld) (v : Nat) (s : State) : (putF f v s).stage = s.stage := rfl
@[simp] theorem putF_ctl (f : Fld) (v : Nat) (s : State) : (putF f v s).ctl = s.ctl := rfl
@[simp] theorem putF_vsr (f : Fld) (v : Nat) (s : State) : (putF f v s).vsr = s.vsr := rfl
@[simp] theorem putF_seats (f : Fld) (v : Nat) (s : State) : (putF f v s).seats = s.seats := rfl
@[simp] theorem putF_qspi (f : Fld) (v : Nat) (s : State) : (putF f v s).qspi = s.qspi := rfl
@[simp] theorem putF_fw (f : Fld) (v : Nat) (s : State) : (putF f v s).fw = s.fw := rfl
@[simp] theorem putF_fab (f : Fld) (v : Nat) (s : State) : (putF f v s).fab = s.fab := rfl
@[simp] theorem putF_plane (f : Fld) (v : Nat) (s : State) : (putF f v s).plane = s.plane := rfl
@[simp] theorem putF_tiles (f : Fld) (v : Nat) (s : State) : (putF f v s).tiles = s.tiles := rfl
@[simp] theorem putF_ash (f : Fld) (v : Nat) (s : State) : (putF f v s).ash = s.ash := rfl
@[simp] theorem putF_ptp (f : Fld) (v : Nat) (s : State) : (putF f v s).ptp = s.ptp := rfl
@[simp] theorem putF_media (f : Fld) (v : Nat) (s : State) : (putF f v s).media = s.media := rfl
@[simp] theorem putF_pair (f : Fld) (v : Nat) (s : State) : (putF f v s).pair = s.pair := rfl
@[simp] theorem putF_pwr (f : Fld) (v : Nat) (s : State) : (putF f v s).pwr = s.pwr := rfl
@[simp] theorem putF_rte (f : Fld) (v : Nat) (s : State) : (putF f v s).rte = s.rte := rfl
@[simp] theorem putF_dyn (f : Fld) (v : Nat) (s : State) : (putF f v s).dyn = s.dyn := rfl
@[simp] theorem putF_port (f : Fld) (v : Nat) (s : State) : (putF f v s).port = s.port := rfl
@[simp] theorem putF_net (f : Fld) (v : Nat) (s : State) : (putF f v s).net = s.net := rfl
@[simp] theorem putF_str (f : Fld) (v : Nat) (s : State) : (putF f v s).str = s.str := rfl
@[simp] theorem putF_ptpIo (f : Fld) (v : Nat) (s : State) : (putF f v s).ptpIo = s.ptpIo := rfl
@[simp] theorem putF_clk (f : Fld) (v : Nat) (s : State) : (putF f v s).clk = s.clk := rfl
@[simp] theorem putF_oenDark (f : Fld) (v : Nat) (s : State) : (putF f v s).oenDark = s.oenDark := rfl
@[simp] theorem putF_amp (f : Fld) (v : Nat) (s : State) : (putF f v s).amp = s.amp := rfl
@[simp] theorem putF_out (f : Fld) (v : Nat) (s : State) : (putF f v s).out = s.out := rfl
@[simp] theorem putF_free (f : Fld) (v : Nat) (s : State) : (putF f v s).free = s.free := rfl
@[simp] theorem putF_pending (f : Fld) (v : Nat) (s : State) : (putF f v s).pending = s.pending := rfl

/-! ## putB -/

@[simp] theorem putB_fuses (f : Fld) (b : Bool) (s : State) : (putB f b s).fuses = s.fuses := rfl
@[simp] theorem putB_pins (f : Fld) (b : Bool) (s : State) : (putB f b s).pins = s.pins := rfl
@[simp] theorem putB_live (f : Fld) (b : Bool) (s : State) : (putB f b s).live = s.live := rfl
@[simp] theorem putB_stage (f : Fld) (b : Bool) (s : State) : (putB f b s).stage = s.stage := rfl
@[simp] theorem putB_ctl (f : Fld) (b : Bool) (s : State) : (putB f b s).ctl = s.ctl := rfl
@[simp] theorem putB_vsr (f : Fld) (b : Bool) (s : State) : (putB f b s).vsr = s.vsr := rfl
@[simp] theorem putB_seats (f : Fld) (b : Bool) (s : State) : (putB f b s).seats = s.seats := rfl
@[simp] theorem putB_qspi (f : Fld) (b : Bool) (s : State) : (putB f b s).qspi = s.qspi := rfl
@[simp] theorem putB_fw (f : Fld) (b : Bool) (s : State) : (putB f b s).fw = s.fw := rfl
@[simp] theorem putB_fab (f : Fld) (b : Bool) (s : State) : (putB f b s).fab = s.fab := rfl
@[simp] theorem putB_plane (f : Fld) (b : Bool) (s : State) : (putB f b s).plane = s.plane := rfl
@[simp] theorem putB_tiles (f : Fld) (b : Bool) (s : State) : (putB f b s).tiles = s.tiles := rfl
@[simp] theorem putB_ash (f : Fld) (b : Bool) (s : State) : (putB f b s).ash = s.ash := rfl
@[simp] theorem putB_ptp (f : Fld) (b : Bool) (s : State) : (putB f b s).ptp = s.ptp := rfl
@[simp] theorem putB_media (f : Fld) (b : Bool) (s : State) : (putB f b s).media = s.media := rfl
@[simp] theorem putB_pair (f : Fld) (b : Bool) (s : State) : (putB f b s).pair = s.pair := rfl
@[simp] theorem putB_pwr (f : Fld) (b : Bool) (s : State) : (putB f b s).pwr = s.pwr := rfl
@[simp] theorem putB_rte (f : Fld) (b : Bool) (s : State) : (putB f b s).rte = s.rte := rfl
@[simp] theorem putB_dyn (f : Fld) (b : Bool) (s : State) : (putB f b s).dyn = s.dyn := rfl
@[simp] theorem putB_port (f : Fld) (b : Bool) (s : State) : (putB f b s).port = s.port := rfl
@[simp] theorem putB_net (f : Fld) (b : Bool) (s : State) : (putB f b s).net = s.net := rfl
@[simp] theorem putB_str (f : Fld) (b : Bool) (s : State) : (putB f b s).str = s.str := rfl
@[simp] theorem putB_ptpIo (f : Fld) (b : Bool) (s : State) : (putB f b s).ptpIo = s.ptpIo := rfl
@[simp] theorem putB_clk (f : Fld) (b : Bool) (s : State) : (putB f b s).clk = s.clk := rfl
@[simp] theorem putB_oenDark (f : Fld) (b : Bool) (s : State) : (putB f b s).oenDark = s.oenDark := rfl
@[simp] theorem putB_amp (f : Fld) (b : Bool) (s : State) : (putB f b s).amp = s.amp := rfl
@[simp] theorem putB_out (f : Fld) (b : Bool) (s : State) : (putB f b s).out = s.out := rfl
@[simp] theorem putB_free (f : Fld) (b : Bool) (s : State) : (putB f b s).free = s.free := rfl
@[simp] theorem putB_pending (f : Fld) (b : Bool) (s : State) : (putB f b s).pending = s.pending := rfl

/-! ## bump -/

@[simp] theorem bump_fuses (f : Fld) (n : Nat) (s : State) : (bump f n s).fuses = s.fuses := rfl
@[simp] theorem bump_pins (f : Fld) (n : Nat) (s : State) : (bump f n s).pins = s.pins := rfl
@[simp] theorem bump_live (f : Fld) (n : Nat) (s : State) : (bump f n s).live = s.live := rfl
@[simp] theorem bump_stage (f : Fld) (n : Nat) (s : State) : (bump f n s).stage = s.stage := rfl
@[simp] theorem bump_ctl (f : Fld) (n : Nat) (s : State) : (bump f n s).ctl = s.ctl := rfl
@[simp] theorem bump_vsr (f : Fld) (n : Nat) (s : State) : (bump f n s).vsr = s.vsr := rfl
@[simp] theorem bump_seats (f : Fld) (n : Nat) (s : State) : (bump f n s).seats = s.seats := rfl
@[simp] theorem bump_qspi (f : Fld) (n : Nat) (s : State) : (bump f n s).qspi = s.qspi := rfl
@[simp] theorem bump_fw (f : Fld) (n : Nat) (s : State) : (bump f n s).fw = s.fw := rfl
@[simp] theorem bump_fab (f : Fld) (n : Nat) (s : State) : (bump f n s).fab = s.fab := rfl
@[simp] theorem bump_plane (f : Fld) (n : Nat) (s : State) : (bump f n s).plane = s.plane := rfl
@[simp] theorem bump_tiles (f : Fld) (n : Nat) (s : State) : (bump f n s).tiles = s.tiles := rfl
@[simp] theorem bump_ash (f : Fld) (n : Nat) (s : State) : (bump f n s).ash = s.ash := rfl
@[simp] theorem bump_ptp (f : Fld) (n : Nat) (s : State) : (bump f n s).ptp = s.ptp := rfl
@[simp] theorem bump_media (f : Fld) (n : Nat) (s : State) : (bump f n s).media = s.media := rfl
@[simp] theorem bump_pair (f : Fld) (n : Nat) (s : State) : (bump f n s).pair = s.pair := rfl
@[simp] theorem bump_pwr (f : Fld) (n : Nat) (s : State) : (bump f n s).pwr = s.pwr := rfl
@[simp] theorem bump_rte (f : Fld) (n : Nat) (s : State) : (bump f n s).rte = s.rte := rfl
@[simp] theorem bump_dyn (f : Fld) (n : Nat) (s : State) : (bump f n s).dyn = s.dyn := rfl
@[simp] theorem bump_port (f : Fld) (n : Nat) (s : State) : (bump f n s).port = s.port := rfl
@[simp] theorem bump_net (f : Fld) (n : Nat) (s : State) : (bump f n s).net = s.net := rfl
@[simp] theorem bump_str (f : Fld) (n : Nat) (s : State) : (bump f n s).str = s.str := rfl
@[simp] theorem bump_ptpIo (f : Fld) (n : Nat) (s : State) : (bump f n s).ptpIo = s.ptpIo := rfl
@[simp] theorem bump_clk (f : Fld) (n : Nat) (s : State) : (bump f n s).clk = s.clk := rfl
@[simp] theorem bump_oenDark (f : Fld) (n : Nat) (s : State) : (bump f n s).oenDark = s.oenDark := rfl
@[simp] theorem bump_amp (f : Fld) (n : Nat) (s : State) : (bump f n s).amp = s.amp := rfl
@[simp] theorem bump_out (f : Fld) (n : Nat) (s : State) : (bump f n s).out = s.out := rfl
@[simp] theorem bump_free (f : Fld) (n : Nat) (s : State) : (bump f n s).free = s.free := rfl
@[simp] theorem bump_pending (f : Fld) (n : Nat) (s : State) : (bump f n s).pending = s.pending := rfl

/-! ## wrap -/

@[simp] theorem wrap_fuses (f : Fld) (n : Nat) (s : State) : (wrap f n s).fuses = s.fuses := rfl
@[simp] theorem wrap_pins (f : Fld) (n : Nat) (s : State) : (wrap f n s).pins = s.pins := rfl
@[simp] theorem wrap_live (f : Fld) (n : Nat) (s : State) : (wrap f n s).live = s.live := rfl
@[simp] theorem wrap_stage (f : Fld) (n : Nat) (s : State) : (wrap f n s).stage = s.stage := rfl
@[simp] theorem wrap_ctl (f : Fld) (n : Nat) (s : State) : (wrap f n s).ctl = s.ctl := rfl
@[simp] theorem wrap_vsr (f : Fld) (n : Nat) (s : State) : (wrap f n s).vsr = s.vsr := rfl
@[simp] theorem wrap_seats (f : Fld) (n : Nat) (s : State) : (wrap f n s).seats = s.seats := rfl
@[simp] theorem wrap_qspi (f : Fld) (n : Nat) (s : State) : (wrap f n s).qspi = s.qspi := rfl
@[simp] theorem wrap_fw (f : Fld) (n : Nat) (s : State) : (wrap f n s).fw = s.fw := rfl
@[simp] theorem wrap_fab (f : Fld) (n : Nat) (s : State) : (wrap f n s).fab = s.fab := rfl
@[simp] theorem wrap_plane (f : Fld) (n : Nat) (s : State) : (wrap f n s).plane = s.plane := rfl
@[simp] theorem wrap_tiles (f : Fld) (n : Nat) (s : State) : (wrap f n s).tiles = s.tiles := rfl
@[simp] theorem wrap_ash (f : Fld) (n : Nat) (s : State) : (wrap f n s).ash = s.ash := rfl
@[simp] theorem wrap_ptp (f : Fld) (n : Nat) (s : State) : (wrap f n s).ptp = s.ptp := rfl
@[simp] theorem wrap_media (f : Fld) (n : Nat) (s : State) : (wrap f n s).media = s.media := rfl
@[simp] theorem wrap_pair (f : Fld) (n : Nat) (s : State) : (wrap f n s).pair = s.pair := rfl
@[simp] theorem wrap_pwr (f : Fld) (n : Nat) (s : State) : (wrap f n s).pwr = s.pwr := rfl
@[simp] theorem wrap_rte (f : Fld) (n : Nat) (s : State) : (wrap f n s).rte = s.rte := rfl
@[simp] theorem wrap_dyn (f : Fld) (n : Nat) (s : State) : (wrap f n s).dyn = s.dyn := rfl
@[simp] theorem wrap_port (f : Fld) (n : Nat) (s : State) : (wrap f n s).port = s.port := rfl
@[simp] theorem wrap_net (f : Fld) (n : Nat) (s : State) : (wrap f n s).net = s.net := rfl
@[simp] theorem wrap_str (f : Fld) (n : Nat) (s : State) : (wrap f n s).str = s.str := rfl
@[simp] theorem wrap_ptpIo (f : Fld) (n : Nat) (s : State) : (wrap f n s).ptpIo = s.ptpIo := rfl
@[simp] theorem wrap_clk (f : Fld) (n : Nat) (s : State) : (wrap f n s).clk = s.clk := rfl
@[simp] theorem wrap_oenDark (f : Fld) (n : Nat) (s : State) : (wrap f n s).oenDark = s.oenDark := rfl
@[simp] theorem wrap_amp (f : Fld) (n : Nat) (s : State) : (wrap f n s).amp = s.amp := rfl
@[simp] theorem wrap_out (f : Fld) (n : Nat) (s : State) : (wrap f n s).out = s.out := rfl
@[simp] theorem wrap_free (f : Fld) (n : Nat) (s : State) : (wrap f n s).free = s.free := rfl
@[simp] theorem wrap_pending (f : Fld) (n : Nat) (s : State) : (wrap f n s).pending = s.pending := rfl

/-! ## emit -/

@[simp] theorem emit_fuses (k : OutKind) (d : List Nat) (s : State) : (emit k d s).fuses = s.fuses := rfl
@[simp] theorem emit_pins (k : OutKind) (d : List Nat) (s : State) : (emit k d s).pins = s.pins := rfl
@[simp] theorem emit_regs (k : OutKind) (d : List Nat) (s : State) : (emit k d s).regs = s.regs := rfl
@[simp] theorem emit_live (k : OutKind) (d : List Nat) (s : State) : (emit k d s).live = s.live := rfl
@[simp] theorem emit_stage (k : OutKind) (d : List Nat) (s : State) : (emit k d s).stage = s.stage := rfl
@[simp] theorem emit_ctl (k : OutKind) (d : List Nat) (s : State) : (emit k d s).ctl = s.ctl := rfl
@[simp] theorem emit_vsr (k : OutKind) (d : List Nat) (s : State) : (emit k d s).vsr = s.vsr := rfl
@[simp] theorem emit_seats (k : OutKind) (d : List Nat) (s : State) : (emit k d s).seats = s.seats := rfl
@[simp] theorem emit_qspi (k : OutKind) (d : List Nat) (s : State) : (emit k d s).qspi = s.qspi := rfl
@[simp] theorem emit_fw (k : OutKind) (d : List Nat) (s : State) : (emit k d s).fw = s.fw := rfl
@[simp] theorem emit_fab (k : OutKind) (d : List Nat) (s : State) : (emit k d s).fab = s.fab := rfl
@[simp] theorem emit_plane (k : OutKind) (d : List Nat) (s : State) : (emit k d s).plane = s.plane := rfl
@[simp] theorem emit_tiles (k : OutKind) (d : List Nat) (s : State) : (emit k d s).tiles = s.tiles := rfl
@[simp] theorem emit_ash (k : OutKind) (d : List Nat) (s : State) : (emit k d s).ash = s.ash := rfl
@[simp] theorem emit_ptp (k : OutKind) (d : List Nat) (s : State) : (emit k d s).ptp = s.ptp := rfl
@[simp] theorem emit_media (k : OutKind) (d : List Nat) (s : State) : (emit k d s).media = s.media := rfl
@[simp] theorem emit_pair (k : OutKind) (d : List Nat) (s : State) : (emit k d s).pair = s.pair := rfl
@[simp] theorem emit_pwr (k : OutKind) (d : List Nat) (s : State) : (emit k d s).pwr = s.pwr := rfl
@[simp] theorem emit_rte (k : OutKind) (d : List Nat) (s : State) : (emit k d s).rte = s.rte := rfl
@[simp] theorem emit_dyn (k : OutKind) (d : List Nat) (s : State) : (emit k d s).dyn = s.dyn := rfl
@[simp] theorem emit_port (k : OutKind) (d : List Nat) (s : State) : (emit k d s).port = s.port := rfl
@[simp] theorem emit_net (k : OutKind) (d : List Nat) (s : State) : (emit k d s).net = s.net := rfl
@[simp] theorem emit_str (k : OutKind) (d : List Nat) (s : State) : (emit k d s).str = s.str := rfl
@[simp] theorem emit_ptpIo (k : OutKind) (d : List Nat) (s : State) : (emit k d s).ptpIo = s.ptpIo := rfl
@[simp] theorem emit_clk (k : OutKind) (d : List Nat) (s : State) : (emit k d s).clk = s.clk := rfl
@[simp] theorem emit_oenDark (k : OutKind) (d : List Nat) (s : State) : (emit k d s).oenDark = s.oenDark := rfl
@[simp] theorem emit_amp (k : OutKind) (d : List Nat) (s : State) : (emit k d s).amp = s.amp := rfl
@[simp] theorem emit_free (k : OutKind) (d : List Nat) (s : State) : (emit k d s).free = s.free := rfl
@[simp] theorem emit_pending (k : OutKind) (d : List Nat) (s : State) : (emit k d s).pending = s.pending := rfl
@[simp] theorem getF_emit (k : OutKind) (d : List Nat) (s : State) (h : Fld) : getF (emit k d s) h = getF s h := rfl

/-! ## updSeat -/

@[simp] theorem updSeat_fuses (n : Nat) (g : Seat → Seat) (s : State) : (updSeat n g s).fuses = s.fuses := rfl
@[simp] theorem updSeat_pins (n : Nat) (g : Seat → Seat) (s : State) : (updSeat n g s).pins = s.pins := rfl
@[simp] theorem updSeat_regs (n : Nat) (g : Seat → Seat) (s : State) : (updSeat n g s).regs = s.regs := rfl
@[simp] theorem updSeat_live (n : Nat) (g : Seat → Seat) (s : State) : (updSeat n g s).live = s.live := rfl
@[simp] theorem updSeat_stage (n : Nat) (g : Seat → Seat) (s : State) : (updSeat n g s).stage = s.stage := rfl
@[simp] theorem updSeat_ctl (n : Nat) (g : Seat → Seat) (s : State) : (updSeat n g s).ctl = s.ctl := rfl
@[simp] theorem updSeat_vsr (n : Nat) (g : Seat → Seat) (s : State) : (updSeat n g s).vsr = s.vsr := rfl
@[simp] theorem updSeat_qspi (n : Nat) (g : Seat → Seat) (s : State) : (updSeat n g s).qspi = s.qspi := rfl
@[simp] theorem updSeat_fw (n : Nat) (g : Seat → Seat) (s : State) : (updSeat n g s).fw = s.fw := rfl
@[simp] theorem updSeat_fab (n : Nat) (g : Seat → Seat) (s : State) : (updSeat n g s).fab = s.fab := rfl
@[simp] theorem updSeat_plane (n : Nat) (g : Seat → Seat) (s : State) : (updSeat n g s).plane = s.plane := rfl
@[simp] theorem updSeat_tiles (n : Nat) (g : Seat → Seat) (s : State) : (updSeat n g s).tiles = s.tiles := rfl
@[simp] theorem updSeat_ash (n : Nat) (g : Seat → Seat) (s : State) : (updSeat n g s).ash = s.ash := rfl
@[simp] theorem updSeat_ptp (n : Nat) (g : Seat → Seat) (s : State) : (updSeat n g s).ptp = s.ptp := rfl
@[simp] theorem updSeat_media (n : Nat) (g : Seat → Seat) (s : State) : (updSeat n g s).media = s.media := rfl
@[simp] theorem updSeat_pair (n : Nat) (g : Seat → Seat) (s : State) : (updSeat n g s).pair = s.pair := rfl
@[simp] theorem updSeat_pwr (n : Nat) (g : Seat → Seat) (s : State) : (updSeat n g s).pwr = s.pwr := rfl
@[simp] theorem updSeat_rte (n : Nat) (g : Seat → Seat) (s : State) : (updSeat n g s).rte = s.rte := rfl
@[simp] theorem updSeat_dyn (n : Nat) (g : Seat → Seat) (s : State) : (updSeat n g s).dyn = s.dyn := rfl
@[simp] theorem updSeat_port (n : Nat) (g : Seat → Seat) (s : State) : (updSeat n g s).port = s.port := rfl
@[simp] theorem updSeat_net (n : Nat) (g : Seat → Seat) (s : State) : (updSeat n g s).net = s.net := rfl
@[simp] theorem updSeat_str (n : Nat) (g : Seat → Seat) (s : State) : (updSeat n g s).str = s.str := rfl
@[simp] theorem updSeat_ptpIo (n : Nat) (g : Seat → Seat) (s : State) : (updSeat n g s).ptpIo = s.ptpIo := rfl
@[simp] theorem updSeat_clk (n : Nat) (g : Seat → Seat) (s : State) : (updSeat n g s).clk = s.clk := rfl
@[simp] theorem updSeat_oenDark (n : Nat) (g : Seat → Seat) (s : State) : (updSeat n g s).oenDark = s.oenDark := rfl
@[simp] theorem updSeat_amp (n : Nat) (g : Seat → Seat) (s : State) : (updSeat n g s).amp = s.amp := rfl
@[simp] theorem updSeat_out (n : Nat) (g : Seat → Seat) (s : State) : (updSeat n g s).out = s.out := rfl
@[simp] theorem updSeat_free (n : Nat) (g : Seat → Seat) (s : State) : (updSeat n g s).free = s.free := rfl
@[simp] theorem updSeat_pending (n : Nat) (g : Seat → Seat) (s : State) : (updSeat n g s).pending = s.pending := rfl
@[simp] theorem getF_updSeat (n : Nat) (g : Seat → Seat) (s : State) (h : Fld) : getF (updSeat n g s) h = getF s h := rfl

/-! ## updTile -/

@[simp] theorem updTile_fuses (n : Nat) (g : Tile → Tile) (s : State) : (updTile n g s).fuses = s.fuses := rfl
@[simp] theorem updTile_pins (n : Nat) (g : Tile → Tile) (s : State) : (updTile n g s).pins = s.pins := rfl
@[simp] theorem updTile_regs (n : Nat) (g : Tile → Tile) (s : State) : (updTile n g s).regs = s.regs := rfl
@[simp] theorem updTile_live (n : Nat) (g : Tile → Tile) (s : State) : (updTile n g s).live = s.live := rfl
@[simp] theorem updTile_stage (n : Nat) (g : Tile → Tile) (s : State) : (updTile n g s).stage = s.stage := rfl
@[simp] theorem updTile_ctl (n : Nat) (g : Tile → Tile) (s : State) : (updTile n g s).ctl = s.ctl := rfl
@[simp] theorem updTile_vsr (n : Nat) (g : Tile → Tile) (s : State) : (updTile n g s).vsr = s.vsr := rfl
@[simp] theorem updTile_seats (n : Nat) (g : Tile → Tile) (s : State) : (updTile n g s).seats = s.seats := rfl
@[simp] theorem updTile_qspi (n : Nat) (g : Tile → Tile) (s : State) : (updTile n g s).qspi = s.qspi := rfl
@[simp] theorem updTile_fw (n : Nat) (g : Tile → Tile) (s : State) : (updTile n g s).fw = s.fw := rfl
@[simp] theorem updTile_fab (n : Nat) (g : Tile → Tile) (s : State) : (updTile n g s).fab = s.fab := rfl
@[simp] theorem updTile_plane (n : Nat) (g : Tile → Tile) (s : State) : (updTile n g s).plane = s.plane := rfl
@[simp] theorem updTile_ash (n : Nat) (g : Tile → Tile) (s : State) : (updTile n g s).ash = s.ash := rfl
@[simp] theorem updTile_ptp (n : Nat) (g : Tile → Tile) (s : State) : (updTile n g s).ptp = s.ptp := rfl
@[simp] theorem updTile_media (n : Nat) (g : Tile → Tile) (s : State) : (updTile n g s).media = s.media := rfl
@[simp] theorem updTile_pair (n : Nat) (g : Tile → Tile) (s : State) : (updTile n g s).pair = s.pair := rfl
@[simp] theorem updTile_pwr (n : Nat) (g : Tile → Tile) (s : State) : (updTile n g s).pwr = s.pwr := rfl
@[simp] theorem updTile_rte (n : Nat) (g : Tile → Tile) (s : State) : (updTile n g s).rte = s.rte := rfl
@[simp] theorem updTile_dyn (n : Nat) (g : Tile → Tile) (s : State) : (updTile n g s).dyn = s.dyn := rfl
@[simp] theorem updTile_port (n : Nat) (g : Tile → Tile) (s : State) : (updTile n g s).port = s.port := rfl
@[simp] theorem updTile_net (n : Nat) (g : Tile → Tile) (s : State) : (updTile n g s).net = s.net := rfl
@[simp] theorem updTile_str (n : Nat) (g : Tile → Tile) (s : State) : (updTile n g s).str = s.str := rfl
@[simp] theorem updTile_ptpIo (n : Nat) (g : Tile → Tile) (s : State) : (updTile n g s).ptpIo = s.ptpIo := rfl
@[simp] theorem updTile_clk (n : Nat) (g : Tile → Tile) (s : State) : (updTile n g s).clk = s.clk := rfl
@[simp] theorem updTile_oenDark (n : Nat) (g : Tile → Tile) (s : State) : (updTile n g s).oenDark = s.oenDark := rfl
@[simp] theorem updTile_amp (n : Nat) (g : Tile → Tile) (s : State) : (updTile n g s).amp = s.amp := rfl
@[simp] theorem updTile_out (n : Nat) (g : Tile → Tile) (s : State) : (updTile n g s).out = s.out := rfl
@[simp] theorem updTile_free (n : Nat) (g : Tile → Tile) (s : State) : (updTile n g s).free = s.free := rfl
@[simp] theorem updTile_pending (n : Nat) (g : Tile → Tile) (s : State) : (updTile n g s).pending = s.pending := rfl
@[simp] theorem getF_updTile (n : Nat) (g : Tile → Tile) (s : State) (h : Fld) : getF (updTile n g s) h = getF s h := rfl

/-! ## updQspi -/

@[simp] theorem updQspi_fuses (n : Nat) (g : Qspi → Qspi) (s : State) : (updQspi n g s).fuses = s.fuses := rfl
@[simp] theorem updQspi_pins (n : Nat) (g : Qspi → Qspi) (s : State) : (updQspi n g s).pins = s.pins := rfl
@[simp] theorem updQspi_regs (n : Nat) (g : Qspi → Qspi) (s : State) : (updQspi n g s).regs = s.regs := rfl
@[simp] theorem updQspi_live (n : Nat) (g : Qspi → Qspi) (s : State) : (updQspi n g s).live = s.live := rfl
@[simp] theorem updQspi_stage (n : Nat) (g : Qspi → Qspi) (s : State) : (updQspi n g s).stage = s.stage := rfl
@[simp] theorem updQspi_ctl (n : Nat) (g : Qspi → Qspi) (s : State) : (updQspi n g s).ctl = s.ctl := rfl
@[simp] theorem updQspi_vsr (n : Nat) (g : Qspi → Qspi) (s : State) : (updQspi n g s).vsr = s.vsr := rfl
@[simp] theorem updQspi_seats (n : Nat) (g : Qspi → Qspi) (s : State) : (updQspi n g s).seats = s.seats := rfl
@[simp] theorem updQspi_fw (n : Nat) (g : Qspi → Qspi) (s : State) : (updQspi n g s).fw = s.fw := rfl
@[simp] theorem updQspi_fab (n : Nat) (g : Qspi → Qspi) (s : State) : (updQspi n g s).fab = s.fab := rfl
@[simp] theorem updQspi_plane (n : Nat) (g : Qspi → Qspi) (s : State) : (updQspi n g s).plane = s.plane := rfl
@[simp] theorem updQspi_tiles (n : Nat) (g : Qspi → Qspi) (s : State) : (updQspi n g s).tiles = s.tiles := rfl
@[simp] theorem updQspi_ash (n : Nat) (g : Qspi → Qspi) (s : State) : (updQspi n g s).ash = s.ash := rfl
@[simp] theorem updQspi_ptp (n : Nat) (g : Qspi → Qspi) (s : State) : (updQspi n g s).ptp = s.ptp := rfl
@[simp] theorem updQspi_media (n : Nat) (g : Qspi → Qspi) (s : State) : (updQspi n g s).media = s.media := rfl
@[simp] theorem updQspi_pair (n : Nat) (g : Qspi → Qspi) (s : State) : (updQspi n g s).pair = s.pair := rfl
@[simp] theorem updQspi_pwr (n : Nat) (g : Qspi → Qspi) (s : State) : (updQspi n g s).pwr = s.pwr := rfl
@[simp] theorem updQspi_rte (n : Nat) (g : Qspi → Qspi) (s : State) : (updQspi n g s).rte = s.rte := rfl
@[simp] theorem updQspi_dyn (n : Nat) (g : Qspi → Qspi) (s : State) : (updQspi n g s).dyn = s.dyn := rfl
@[simp] theorem updQspi_port (n : Nat) (g : Qspi → Qspi) (s : State) : (updQspi n g s).port = s.port := rfl
@[simp] theorem updQspi_net (n : Nat) (g : Qspi → Qspi) (s : State) : (updQspi n g s).net = s.net := rfl
@[simp] theorem updQspi_str (n : Nat) (g : Qspi → Qspi) (s : State) : (updQspi n g s).str = s.str := rfl
@[simp] theorem updQspi_ptpIo (n : Nat) (g : Qspi → Qspi) (s : State) : (updQspi n g s).ptpIo = s.ptpIo := rfl
@[simp] theorem updQspi_clk (n : Nat) (g : Qspi → Qspi) (s : State) : (updQspi n g s).clk = s.clk := rfl
@[simp] theorem updQspi_oenDark (n : Nat) (g : Qspi → Qspi) (s : State) : (updQspi n g s).oenDark = s.oenDark := rfl
@[simp] theorem updQspi_amp (n : Nat) (g : Qspi → Qspi) (s : State) : (updQspi n g s).amp = s.amp := rfl
@[simp] theorem updQspi_out (n : Nat) (g : Qspi → Qspi) (s : State) : (updQspi n g s).out = s.out := rfl
@[simp] theorem updQspi_free (n : Nat) (g : Qspi → Qspi) (s : State) : (updQspi n g s).free = s.free := rfl
@[simp] theorem updQspi_pending (n : Nat) (g : Qspi → Qspi) (s : State) : (updQspi n g s).pending = s.pending := rfl
@[simp] theorem getF_updQspi (n : Nat) (g : Qspi → Qspi) (s : State) (h : Fld) : getF (updQspi n g s) h = getF s h := rfl

/-! ## updCh -/

@[simp] theorem updCh_fuses (n : Nat) (g : AmpCh → AmpCh) (s : State) : (updCh n g s).fuses = s.fuses := rfl
@[simp] theorem updCh_pins (n : Nat) (g : AmpCh → AmpCh) (s : State) : (updCh n g s).pins = s.pins := rfl
@[simp] theorem updCh_regs (n : Nat) (g : AmpCh → AmpCh) (s : State) : (updCh n g s).regs = s.regs := rfl
@[simp] theorem updCh_live (n : Nat) (g : AmpCh → AmpCh) (s : State) : (updCh n g s).live = s.live := rfl
@[simp] theorem updCh_stage (n : Nat) (g : AmpCh → AmpCh) (s : State) : (updCh n g s).stage = s.stage := rfl
@[simp] theorem updCh_ctl (n : Nat) (g : AmpCh → AmpCh) (s : State) : (updCh n g s).ctl = s.ctl := rfl
@[simp] theorem updCh_vsr (n : Nat) (g : AmpCh → AmpCh) (s : State) : (updCh n g s).vsr = s.vsr := rfl
@[simp] theorem updCh_seats (n : Nat) (g : AmpCh → AmpCh) (s : State) : (updCh n g s).seats = s.seats := rfl
@[simp] theorem updCh_qspi (n : Nat) (g : AmpCh → AmpCh) (s : State) : (updCh n g s).qspi = s.qspi := rfl
@[simp] theorem updCh_fw (n : Nat) (g : AmpCh → AmpCh) (s : State) : (updCh n g s).fw = s.fw := rfl
@[simp] theorem updCh_fab (n : Nat) (g : AmpCh → AmpCh) (s : State) : (updCh n g s).fab = s.fab := rfl
@[simp] theorem updCh_plane (n : Nat) (g : AmpCh → AmpCh) (s : State) : (updCh n g s).plane = s.plane := rfl
@[simp] theorem updCh_tiles (n : Nat) (g : AmpCh → AmpCh) (s : State) : (updCh n g s).tiles = s.tiles := rfl
@[simp] theorem updCh_ash (n : Nat) (g : AmpCh → AmpCh) (s : State) : (updCh n g s).ash = s.ash := rfl
@[simp] theorem updCh_ptp (n : Nat) (g : AmpCh → AmpCh) (s : State) : (updCh n g s).ptp = s.ptp := rfl
@[simp] theorem updCh_media (n : Nat) (g : AmpCh → AmpCh) (s : State) : (updCh n g s).media = s.media := rfl
@[simp] theorem updCh_pair (n : Nat) (g : AmpCh → AmpCh) (s : State) : (updCh n g s).pair = s.pair := rfl
@[simp] theorem updCh_pwr (n : Nat) (g : AmpCh → AmpCh) (s : State) : (updCh n g s).pwr = s.pwr := rfl
@[simp] theorem updCh_rte (n : Nat) (g : AmpCh → AmpCh) (s : State) : (updCh n g s).rte = s.rte := rfl
@[simp] theorem updCh_dyn (n : Nat) (g : AmpCh → AmpCh) (s : State) : (updCh n g s).dyn = s.dyn := rfl
@[simp] theorem updCh_port (n : Nat) (g : AmpCh → AmpCh) (s : State) : (updCh n g s).port = s.port := rfl
@[simp] theorem updCh_net (n : Nat) (g : AmpCh → AmpCh) (s : State) : (updCh n g s).net = s.net := rfl
@[simp] theorem updCh_str (n : Nat) (g : AmpCh → AmpCh) (s : State) : (updCh n g s).str = s.str := rfl
@[simp] theorem updCh_ptpIo (n : Nat) (g : AmpCh → AmpCh) (s : State) : (updCh n g s).ptpIo = s.ptpIo := rfl
@[simp] theorem updCh_clk (n : Nat) (g : AmpCh → AmpCh) (s : State) : (updCh n g s).clk = s.clk := rfl
@[simp] theorem updCh_oenDark (n : Nat) (g : AmpCh → AmpCh) (s : State) : (updCh n g s).oenDark = s.oenDark := rfl
@[simp] theorem updCh_out (n : Nat) (g : AmpCh → AmpCh) (s : State) : (updCh n g s).out = s.out := rfl
@[simp] theorem updCh_free (n : Nat) (g : AmpCh → AmpCh) (s : State) : (updCh n g s).free = s.free := rfl
@[simp] theorem updCh_pending (n : Nat) (g : AmpCh → AmpCh) (s : State) : (updCh n g s).pending = s.pending := rfl
@[simp] theorem getF_updCh (n : Nat) (g : AmpCh → AmpCh) (s : State) (h : Fld) : getF (updCh n g s) h = getF s h := rfl

/-! ## updMod -/

@[simp] theorem updMod_fuses (n : Nat) (g : AmpMod → AmpMod) (s : State) : (updMod n g s).fuses = s.fuses := rfl
@[simp] theorem updMod_pins (n : Nat) (g : AmpMod → AmpMod) (s : State) : (updMod n g s).pins = s.pins := rfl
@[simp] theorem updMod_regs (n : Nat) (g : AmpMod → AmpMod) (s : State) : (updMod n g s).regs = s.regs := rfl
@[simp] theorem updMod_live (n : Nat) (g : AmpMod → AmpMod) (s : State) : (updMod n g s).live = s.live := rfl
@[simp] theorem updMod_stage (n : Nat) (g : AmpMod → AmpMod) (s : State) : (updMod n g s).stage = s.stage := rfl
@[simp] theorem updMod_ctl (n : Nat) (g : AmpMod → AmpMod) (s : State) : (updMod n g s).ctl = s.ctl := rfl
@[simp] theorem updMod_vsr (n : Nat) (g : AmpMod → AmpMod) (s : State) : (updMod n g s).vsr = s.vsr := rfl
@[simp] theorem updMod_seats (n : Nat) (g : AmpMod → AmpMod) (s : State) : (updMod n g s).seats = s.seats := rfl
@[simp] theorem updMod_qspi (n : Nat) (g : AmpMod → AmpMod) (s : State) : (updMod n g s).qspi = s.qspi := rfl
@[simp] theorem updMod_fw (n : Nat) (g : AmpMod → AmpMod) (s : State) : (updMod n g s).fw = s.fw := rfl
@[simp] theorem updMod_fab (n : Nat) (g : AmpMod → AmpMod) (s : State) : (updMod n g s).fab = s.fab := rfl
@[simp] theorem updMod_plane (n : Nat) (g : AmpMod → AmpMod) (s : State) : (updMod n g s).plane = s.plane := rfl
@[simp] theorem updMod_tiles (n : Nat) (g : AmpMod → AmpMod) (s : State) : (updMod n g s).tiles = s.tiles := rfl
@[simp] theorem updMod_ash (n : Nat) (g : AmpMod → AmpMod) (s : State) : (updMod n g s).ash = s.ash := rfl
@[simp] theorem updMod_ptp (n : Nat) (g : AmpMod → AmpMod) (s : State) : (updMod n g s).ptp = s.ptp := rfl
@[simp] theorem updMod_media (n : Nat) (g : AmpMod → AmpMod) (s : State) : (updMod n g s).media = s.media := rfl
@[simp] theorem updMod_pair (n : Nat) (g : AmpMod → AmpMod) (s : State) : (updMod n g s).pair = s.pair := rfl
@[simp] theorem updMod_pwr (n : Nat) (g : AmpMod → AmpMod) (s : State) : (updMod n g s).pwr = s.pwr := rfl
@[simp] theorem updMod_rte (n : Nat) (g : AmpMod → AmpMod) (s : State) : (updMod n g s).rte = s.rte := rfl
@[simp] theorem updMod_dyn (n : Nat) (g : AmpMod → AmpMod) (s : State) : (updMod n g s).dyn = s.dyn := rfl
@[simp] theorem updMod_port (n : Nat) (g : AmpMod → AmpMod) (s : State) : (updMod n g s).port = s.port := rfl
@[simp] theorem updMod_net (n : Nat) (g : AmpMod → AmpMod) (s : State) : (updMod n g s).net = s.net := rfl
@[simp] theorem updMod_str (n : Nat) (g : AmpMod → AmpMod) (s : State) : (updMod n g s).str = s.str := rfl
@[simp] theorem updMod_ptpIo (n : Nat) (g : AmpMod → AmpMod) (s : State) : (updMod n g s).ptpIo = s.ptpIo := rfl
@[simp] theorem updMod_clk (n : Nat) (g : AmpMod → AmpMod) (s : State) : (updMod n g s).clk = s.clk := rfl
@[simp] theorem updMod_oenDark (n : Nat) (g : AmpMod → AmpMod) (s : State) : (updMod n g s).oenDark = s.oenDark := rfl
@[simp] theorem updMod_out (n : Nat) (g : AmpMod → AmpMod) (s : State) : (updMod n g s).out = s.out := rfl
@[simp] theorem updMod_free (n : Nat) (g : AmpMod → AmpMod) (s : State) : (updMod n g s).free = s.free := rfl
@[simp] theorem updMod_pending (n : Nat) (g : AmpMod → AmpMod) (s : State) : (updMod n g s).pending = s.pending := rfl
@[simp] theorem getF_updMod (n : Nat) (g : AmpMod → AmpMod) (s : State) (h : Fld) : getF (updMod n g s) h = getF s h := rfl

/-! ## updLane -/

@[simp] theorem updLane_fuses (n : Nat) (g : LaneSt → LaneSt) (s : State) : (updLane n g s).fuses = s.fuses := rfl
@[simp] theorem updLane_pins (n : Nat) (g : LaneSt → LaneSt) (s : State) : (updLane n g s).pins = s.pins := rfl
@[simp] theorem updLane_regs (n : Nat) (g : LaneSt → LaneSt) (s : State) : (updLane n g s).regs = s.regs := rfl
@[simp] theorem updLane_live (n : Nat) (g : LaneSt → LaneSt) (s : State) : (updLane n g s).live = s.live := rfl
@[simp] theorem updLane_stage (n : Nat) (g : LaneSt → LaneSt) (s : State) : (updLane n g s).stage = s.stage := rfl
@[simp] theorem updLane_ctl (n : Nat) (g : LaneSt → LaneSt) (s : State) : (updLane n g s).ctl = s.ctl := rfl
@[simp] theorem updLane_vsr (n : Nat) (g : LaneSt → LaneSt) (s : State) : (updLane n g s).vsr = s.vsr := rfl
@[simp] theorem updLane_seats (n : Nat) (g : LaneSt → LaneSt) (s : State) : (updLane n g s).seats = s.seats := rfl
@[simp] theorem updLane_qspi (n : Nat) (g : LaneSt → LaneSt) (s : State) : (updLane n g s).qspi = s.qspi := rfl
@[simp] theorem updLane_fw (n : Nat) (g : LaneSt → LaneSt) (s : State) : (updLane n g s).fw = s.fw := rfl
@[simp] theorem updLane_fab (n : Nat) (g : LaneSt → LaneSt) (s : State) : (updLane n g s).fab = s.fab := rfl
@[simp] theorem updLane_plane (n : Nat) (g : LaneSt → LaneSt) (s : State) : (updLane n g s).plane = s.plane := rfl
@[simp] theorem updLane_tiles (n : Nat) (g : LaneSt → LaneSt) (s : State) : (updLane n g s).tiles = s.tiles := rfl
@[simp] theorem updLane_ash (n : Nat) (g : LaneSt → LaneSt) (s : State) : (updLane n g s).ash = s.ash := rfl
@[simp] theorem updLane_ptp (n : Nat) (g : LaneSt → LaneSt) (s : State) : (updLane n g s).ptp = s.ptp := rfl
@[simp] theorem updLane_media (n : Nat) (g : LaneSt → LaneSt) (s : State) : (updLane n g s).media = s.media := rfl
@[simp] theorem updLane_pair (n : Nat) (g : LaneSt → LaneSt) (s : State) : (updLane n g s).pair = s.pair := rfl
@[simp] theorem updLane_pwr (n : Nat) (g : LaneSt → LaneSt) (s : State) : (updLane n g s).pwr = s.pwr := rfl
@[simp] theorem updLane_rte (n : Nat) (g : LaneSt → LaneSt) (s : State) : (updLane n g s).rte = s.rte := rfl
@[simp] theorem updLane_dyn (n : Nat) (g : LaneSt → LaneSt) (s : State) : (updLane n g s).dyn = s.dyn := rfl
@[simp] theorem updLane_net (n : Nat) (g : LaneSt → LaneSt) (s : State) : (updLane n g s).net = s.net := rfl
@[simp] theorem updLane_str (n : Nat) (g : LaneSt → LaneSt) (s : State) : (updLane n g s).str = s.str := rfl
@[simp] theorem updLane_ptpIo (n : Nat) (g : LaneSt → LaneSt) (s : State) : (updLane n g s).ptpIo = s.ptpIo := rfl
@[simp] theorem updLane_clk (n : Nat) (g : LaneSt → LaneSt) (s : State) : (updLane n g s).clk = s.clk := rfl
@[simp] theorem updLane_oenDark (n : Nat) (g : LaneSt → LaneSt) (s : State) : (updLane n g s).oenDark = s.oenDark := rfl
@[simp] theorem updLane_amp (n : Nat) (g : LaneSt → LaneSt) (s : State) : (updLane n g s).amp = s.amp := rfl
@[simp] theorem updLane_out (n : Nat) (g : LaneSt → LaneSt) (s : State) : (updLane n g s).out = s.out := rfl
@[simp] theorem updLane_free (n : Nat) (g : LaneSt → LaneSt) (s : State) : (updLane n g s).free = s.free := rfl
@[simp] theorem updLane_pending (n : Nat) (g : LaneSt → LaneSt) (s : State) : (updLane n g s).pending = s.pending := rfl
@[simp] theorem getF_updLane (n : Nat) (g : LaneSt → LaneSt) (s : State) (h : Fld) : getF (updLane n g s) h = getF s h := rfl

/-! ## updAes -/

@[simp] theorem updAes_fuses (n : Nat) (g : AesSt → AesSt) (s : State) : (updAes n g s).fuses = s.fuses := rfl
@[simp] theorem updAes_pins (n : Nat) (g : AesSt → AesSt) (s : State) : (updAes n g s).pins = s.pins := rfl
@[simp] theorem updAes_regs (n : Nat) (g : AesSt → AesSt) (s : State) : (updAes n g s).regs = s.regs := rfl
@[simp] theorem updAes_live (n : Nat) (g : AesSt → AesSt) (s : State) : (updAes n g s).live = s.live := rfl
@[simp] theorem updAes_stage (n : Nat) (g : AesSt → AesSt) (s : State) : (updAes n g s).stage = s.stage := rfl
@[simp] theorem updAes_ctl (n : Nat) (g : AesSt → AesSt) (s : State) : (updAes n g s).ctl = s.ctl := rfl
@[simp] theorem updAes_vsr (n : Nat) (g : AesSt → AesSt) (s : State) : (updAes n g s).vsr = s.vsr := rfl
@[simp] theorem updAes_seats (n : Nat) (g : AesSt → AesSt) (s : State) : (updAes n g s).seats = s.seats := rfl
@[simp] theorem updAes_qspi (n : Nat) (g : AesSt → AesSt) (s : State) : (updAes n g s).qspi = s.qspi := rfl
@[simp] theorem updAes_fw (n : Nat) (g : AesSt → AesSt) (s : State) : (updAes n g s).fw = s.fw := rfl
@[simp] theorem updAes_fab (n : Nat) (g : AesSt → AesSt) (s : State) : (updAes n g s).fab = s.fab := rfl
@[simp] theorem updAes_plane (n : Nat) (g : AesSt → AesSt) (s : State) : (updAes n g s).plane = s.plane := rfl
@[simp] theorem updAes_tiles (n : Nat) (g : AesSt → AesSt) (s : State) : (updAes n g s).tiles = s.tiles := rfl
@[simp] theorem updAes_ash (n : Nat) (g : AesSt → AesSt) (s : State) : (updAes n g s).ash = s.ash := rfl
@[simp] theorem updAes_ptp (n : Nat) (g : AesSt → AesSt) (s : State) : (updAes n g s).ptp = s.ptp := rfl
@[simp] theorem updAes_media (n : Nat) (g : AesSt → AesSt) (s : State) : (updAes n g s).media = s.media := rfl
@[simp] theorem updAes_pair (n : Nat) (g : AesSt → AesSt) (s : State) : (updAes n g s).pair = s.pair := rfl
@[simp] theorem updAes_pwr (n : Nat) (g : AesSt → AesSt) (s : State) : (updAes n g s).pwr = s.pwr := rfl
@[simp] theorem updAes_rte (n : Nat) (g : AesSt → AesSt) (s : State) : (updAes n g s).rte = s.rte := rfl
@[simp] theorem updAes_dyn (n : Nat) (g : AesSt → AesSt) (s : State) : (updAes n g s).dyn = s.dyn := rfl
@[simp] theorem updAes_net (n : Nat) (g : AesSt → AesSt) (s : State) : (updAes n g s).net = s.net := rfl
@[simp] theorem updAes_str (n : Nat) (g : AesSt → AesSt) (s : State) : (updAes n g s).str = s.str := rfl
@[simp] theorem updAes_ptpIo (n : Nat) (g : AesSt → AesSt) (s : State) : (updAes n g s).ptpIo = s.ptpIo := rfl
@[simp] theorem updAes_clk (n : Nat) (g : AesSt → AesSt) (s : State) : (updAes n g s).clk = s.clk := rfl
@[simp] theorem updAes_oenDark (n : Nat) (g : AesSt → AesSt) (s : State) : (updAes n g s).oenDark = s.oenDark := rfl
@[simp] theorem updAes_amp (n : Nat) (g : AesSt → AesSt) (s : State) : (updAes n g s).amp = s.amp := rfl
@[simp] theorem updAes_out (n : Nat) (g : AesSt → AesSt) (s : State) : (updAes n g s).out = s.out := rfl
@[simp] theorem updAes_free (n : Nat) (g : AesSt → AesSt) (s : State) : (updAes n g s).free = s.free := rfl
@[simp] theorem updAes_pending (n : Nat) (g : AesSt → AesSt) (s : State) : (updAes n g s).pending = s.pending := rfl
@[simp] theorem getF_updAes (n : Nat) (g : AesSt → AesSt) (s : State) (h : Fld) : getF (updAes n g s) h = getF s h := rfl

/-! ## updMac -/

@[simp] theorem updMac_fuses (n : Nat) (g : MacSt → MacSt) (s : State) : (updMac n g s).fuses = s.fuses := rfl
@[simp] theorem updMac_pins (n : Nat) (g : MacSt → MacSt) (s : State) : (updMac n g s).pins = s.pins := rfl
@[simp] theorem updMac_regs (n : Nat) (g : MacSt → MacSt) (s : State) : (updMac n g s).regs = s.regs := rfl
@[simp] theorem updMac_live (n : Nat) (g : MacSt → MacSt) (s : State) : (updMac n g s).live = s.live := rfl
@[simp] theorem updMac_stage (n : Nat) (g : MacSt → MacSt) (s : State) : (updMac n g s).stage = s.stage := rfl
@[simp] theorem updMac_ctl (n : Nat) (g : MacSt → MacSt) (s : State) : (updMac n g s).ctl = s.ctl := rfl
@[simp] theorem updMac_vsr (n : Nat) (g : MacSt → MacSt) (s : State) : (updMac n g s).vsr = s.vsr := rfl
@[simp] theorem updMac_seats (n : Nat) (g : MacSt → MacSt) (s : State) : (updMac n g s).seats = s.seats := rfl
@[simp] theorem updMac_qspi (n : Nat) (g : MacSt → MacSt) (s : State) : (updMac n g s).qspi = s.qspi := rfl
@[simp] theorem updMac_fw (n : Nat) (g : MacSt → MacSt) (s : State) : (updMac n g s).fw = s.fw := rfl
@[simp] theorem updMac_fab (n : Nat) (g : MacSt → MacSt) (s : State) : (updMac n g s).fab = s.fab := rfl
@[simp] theorem updMac_plane (n : Nat) (g : MacSt → MacSt) (s : State) : (updMac n g s).plane = s.plane := rfl
@[simp] theorem updMac_tiles (n : Nat) (g : MacSt → MacSt) (s : State) : (updMac n g s).tiles = s.tiles := rfl
@[simp] theorem updMac_ash (n : Nat) (g : MacSt → MacSt) (s : State) : (updMac n g s).ash = s.ash := rfl
@[simp] theorem updMac_ptp (n : Nat) (g : MacSt → MacSt) (s : State) : (updMac n g s).ptp = s.ptp := rfl
@[simp] theorem updMac_media (n : Nat) (g : MacSt → MacSt) (s : State) : (updMac n g s).media = s.media := rfl
@[simp] theorem updMac_pair (n : Nat) (g : MacSt → MacSt) (s : State) : (updMac n g s).pair = s.pair := rfl
@[simp] theorem updMac_pwr (n : Nat) (g : MacSt → MacSt) (s : State) : (updMac n g s).pwr = s.pwr := rfl
@[simp] theorem updMac_rte (n : Nat) (g : MacSt → MacSt) (s : State) : (updMac n g s).rte = s.rte := rfl
@[simp] theorem updMac_dyn (n : Nat) (g : MacSt → MacSt) (s : State) : (updMac n g s).dyn = s.dyn := rfl
@[simp] theorem updMac_port (n : Nat) (g : MacSt → MacSt) (s : State) : (updMac n g s).port = s.port := rfl
@[simp] theorem updMac_str (n : Nat) (g : MacSt → MacSt) (s : State) : (updMac n g s).str = s.str := rfl
@[simp] theorem updMac_ptpIo (n : Nat) (g : MacSt → MacSt) (s : State) : (updMac n g s).ptpIo = s.ptpIo := rfl
@[simp] theorem updMac_clk (n : Nat) (g : MacSt → MacSt) (s : State) : (updMac n g s).clk = s.clk := rfl
@[simp] theorem updMac_oenDark (n : Nat) (g : MacSt → MacSt) (s : State) : (updMac n g s).oenDark = s.oenDark := rfl
@[simp] theorem updMac_amp (n : Nat) (g : MacSt → MacSt) (s : State) : (updMac n g s).amp = s.amp := rfl
@[simp] theorem updMac_out (n : Nat) (g : MacSt → MacSt) (s : State) : (updMac n g s).out = s.out := rfl
@[simp] theorem updMac_free (n : Nat) (g : MacSt → MacSt) (s : State) : (updMac n g s).free = s.free := rfl
@[simp] theorem updMac_pending (n : Nat) (g : MacSt → MacSt) (s : State) : (updMac n g s).pending = s.pending := rfl
@[simp] theorem getF_updMac (n : Nat) (g : MacSt → MacSt) (s : State) (h : Fld) : getF (updMac n g s) h = getF s h := rfl

/-! ## updRx -/

@[simp] theorem updRx_fuses (n : Nat) (g : RxStr → RxStr) (s : State) : (updRx n g s).fuses = s.fuses := rfl
@[simp] theorem updRx_pins (n : Nat) (g : RxStr → RxStr) (s : State) : (updRx n g s).pins = s.pins := rfl
@[simp] theorem updRx_regs (n : Nat) (g : RxStr → RxStr) (s : State) : (updRx n g s).regs = s.regs := rfl
@[simp] theorem updRx_live (n : Nat) (g : RxStr → RxStr) (s : State) : (updRx n g s).live = s.live := rfl
@[simp] theorem updRx_stage (n : Nat) (g : RxStr → RxStr) (s : State) : (updRx n g s).stage = s.stage := rfl
@[simp] theorem updRx_ctl (n : Nat) (g : RxStr → RxStr) (s : State) : (updRx n g s).ctl = s.ctl := rfl
@[simp] theorem updRx_vsr (n : Nat) (g : RxStr → RxStr) (s : State) : (updRx n g s).vsr = s.vsr := rfl
@[simp] theorem updRx_seats (n : Nat) (g : RxStr → RxStr) (s : State) : (updRx n g s).seats = s.seats := rfl
@[simp] theorem updRx_qspi (n : Nat) (g : RxStr → RxStr) (s : State) : (updRx n g s).qspi = s.qspi := rfl
@[simp] theorem updRx_fw (n : Nat) (g : RxStr → RxStr) (s : State) : (updRx n g s).fw = s.fw := rfl
@[simp] theorem updRx_fab (n : Nat) (g : RxStr → RxStr) (s : State) : (updRx n g s).fab = s.fab := rfl
@[simp] theorem updRx_plane (n : Nat) (g : RxStr → RxStr) (s : State) : (updRx n g s).plane = s.plane := rfl
@[simp] theorem updRx_tiles (n : Nat) (g : RxStr → RxStr) (s : State) : (updRx n g s).tiles = s.tiles := rfl
@[simp] theorem updRx_ash (n : Nat) (g : RxStr → RxStr) (s : State) : (updRx n g s).ash = s.ash := rfl
@[simp] theorem updRx_ptp (n : Nat) (g : RxStr → RxStr) (s : State) : (updRx n g s).ptp = s.ptp := rfl
@[simp] theorem updRx_media (n : Nat) (g : RxStr → RxStr) (s : State) : (updRx n g s).media = s.media := rfl
@[simp] theorem updRx_pair (n : Nat) (g : RxStr → RxStr) (s : State) : (updRx n g s).pair = s.pair := rfl
@[simp] theorem updRx_pwr (n : Nat) (g : RxStr → RxStr) (s : State) : (updRx n g s).pwr = s.pwr := rfl
@[simp] theorem updRx_rte (n : Nat) (g : RxStr → RxStr) (s : State) : (updRx n g s).rte = s.rte := rfl
@[simp] theorem updRx_dyn (n : Nat) (g : RxStr → RxStr) (s : State) : (updRx n g s).dyn = s.dyn := rfl
@[simp] theorem updRx_port (n : Nat) (g : RxStr → RxStr) (s : State) : (updRx n g s).port = s.port := rfl
@[simp] theorem updRx_net (n : Nat) (g : RxStr → RxStr) (s : State) : (updRx n g s).net = s.net := rfl
@[simp] theorem updRx_ptpIo (n : Nat) (g : RxStr → RxStr) (s : State) : (updRx n g s).ptpIo = s.ptpIo := rfl
@[simp] theorem updRx_clk (n : Nat) (g : RxStr → RxStr) (s : State) : (updRx n g s).clk = s.clk := rfl
@[simp] theorem updRx_oenDark (n : Nat) (g : RxStr → RxStr) (s : State) : (updRx n g s).oenDark = s.oenDark := rfl
@[simp] theorem updRx_amp (n : Nat) (g : RxStr → RxStr) (s : State) : (updRx n g s).amp = s.amp := rfl
@[simp] theorem updRx_out (n : Nat) (g : RxStr → RxStr) (s : State) : (updRx n g s).out = s.out := rfl
@[simp] theorem updRx_free (n : Nat) (g : RxStr → RxStr) (s : State) : (updRx n g s).free = s.free := rfl
@[simp] theorem updRx_pending (n : Nat) (g : RxStr → RxStr) (s : State) : (updRx n g s).pending = s.pending := rfl
@[simp] theorem getF_updRx (n : Nat) (g : RxStr → RxStr) (s : State) (h : Fld) : getF (updRx n g s) h = getF s h := rfl

/-! ## updTx -/

@[simp] theorem updTx_fuses (n : Nat) (g : TxStr → TxStr) (s : State) : (updTx n g s).fuses = s.fuses := rfl
@[simp] theorem updTx_pins (n : Nat) (g : TxStr → TxStr) (s : State) : (updTx n g s).pins = s.pins := rfl
@[simp] theorem updTx_regs (n : Nat) (g : TxStr → TxStr) (s : State) : (updTx n g s).regs = s.regs := rfl
@[simp] theorem updTx_live (n : Nat) (g : TxStr → TxStr) (s : State) : (updTx n g s).live = s.live := rfl
@[simp] theorem updTx_stage (n : Nat) (g : TxStr → TxStr) (s : State) : (updTx n g s).stage = s.stage := rfl
@[simp] theorem updTx_ctl (n : Nat) (g : TxStr → TxStr) (s : State) : (updTx n g s).ctl = s.ctl := rfl
@[simp] theorem updTx_vsr (n : Nat) (g : TxStr → TxStr) (s : State) : (updTx n g s).vsr = s.vsr := rfl
@[simp] theorem updTx_seats (n : Nat) (g : TxStr → TxStr) (s : State) : (updTx n g s).seats = s.seats := rfl
@[simp] theorem updTx_qspi (n : Nat) (g : TxStr → TxStr) (s : State) : (updTx n g s).qspi = s.qspi := rfl
@[simp] theorem updTx_fw (n : Nat) (g : TxStr → TxStr) (s : State) : (updTx n g s).fw = s.fw := rfl
@[simp] theorem updTx_fab (n : Nat) (g : TxStr → TxStr) (s : State) : (updTx n g s).fab = s.fab := rfl
@[simp] theorem updTx_plane (n : Nat) (g : TxStr → TxStr) (s : State) : (updTx n g s).plane = s.plane := rfl
@[simp] theorem updTx_tiles (n : Nat) (g : TxStr → TxStr) (s : State) : (updTx n g s).tiles = s.tiles := rfl
@[simp] theorem updTx_ash (n : Nat) (g : TxStr → TxStr) (s : State) : (updTx n g s).ash = s.ash := rfl
@[simp] theorem updTx_ptp (n : Nat) (g : TxStr → TxStr) (s : State) : (updTx n g s).ptp = s.ptp := rfl
@[simp] theorem updTx_media (n : Nat) (g : TxStr → TxStr) (s : State) : (updTx n g s).media = s.media := rfl
@[simp] theorem updTx_pair (n : Nat) (g : TxStr → TxStr) (s : State) : (updTx n g s).pair = s.pair := rfl
@[simp] theorem updTx_pwr (n : Nat) (g : TxStr → TxStr) (s : State) : (updTx n g s).pwr = s.pwr := rfl
@[simp] theorem updTx_rte (n : Nat) (g : TxStr → TxStr) (s : State) : (updTx n g s).rte = s.rte := rfl
@[simp] theorem updTx_dyn (n : Nat) (g : TxStr → TxStr) (s : State) : (updTx n g s).dyn = s.dyn := rfl
@[simp] theorem updTx_port (n : Nat) (g : TxStr → TxStr) (s : State) : (updTx n g s).port = s.port := rfl
@[simp] theorem updTx_net (n : Nat) (g : TxStr → TxStr) (s : State) : (updTx n g s).net = s.net := rfl
@[simp] theorem updTx_ptpIo (n : Nat) (g : TxStr → TxStr) (s : State) : (updTx n g s).ptpIo = s.ptpIo := rfl
@[simp] theorem updTx_clk (n : Nat) (g : TxStr → TxStr) (s : State) : (updTx n g s).clk = s.clk := rfl
@[simp] theorem updTx_oenDark (n : Nat) (g : TxStr → TxStr) (s : State) : (updTx n g s).oenDark = s.oenDark := rfl
@[simp] theorem updTx_amp (n : Nat) (g : TxStr → TxStr) (s : State) : (updTx n g s).amp = s.amp := rfl
@[simp] theorem updTx_out (n : Nat) (g : TxStr → TxStr) (s : State) : (updTx n g s).out = s.out := rfl
@[simp] theorem updTx_free (n : Nat) (g : TxStr → TxStr) (s : State) : (updTx n g s).free = s.free := rfl
@[simp] theorem updTx_pending (n : Nat) (g : TxStr → TxStr) (s : State) : (updTx n g s).pending = s.pending := rfl
@[simp] theorem getF_updTx (n : Nat) (g : TxStr → TxStr) (s : State) (h : Fld) : getF (updTx n g s) h = getF s h := rfl

/-! ## updDst -/

@[simp] theorem updDst_fuses (n : Nat) (g : DestSt → DestSt) (s : State) : (updDst n g s).fuses = s.fuses := rfl
@[simp] theorem updDst_pins (n : Nat) (g : DestSt → DestSt) (s : State) : (updDst n g s).pins = s.pins := rfl
@[simp] theorem updDst_regs (n : Nat) (g : DestSt → DestSt) (s : State) : (updDst n g s).regs = s.regs := rfl
@[simp] theorem updDst_live (n : Nat) (g : DestSt → DestSt) (s : State) : (updDst n g s).live = s.live := rfl
@[simp] theorem updDst_stage (n : Nat) (g : DestSt → DestSt) (s : State) : (updDst n g s).stage = s.stage := rfl
@[simp] theorem updDst_ctl (n : Nat) (g : DestSt → DestSt) (s : State) : (updDst n g s).ctl = s.ctl := rfl
@[simp] theorem updDst_vsr (n : Nat) (g : DestSt → DestSt) (s : State) : (updDst n g s).vsr = s.vsr := rfl
@[simp] theorem updDst_seats (n : Nat) (g : DestSt → DestSt) (s : State) : (updDst n g s).seats = s.seats := rfl
@[simp] theorem updDst_qspi (n : Nat) (g : DestSt → DestSt) (s : State) : (updDst n g s).qspi = s.qspi := rfl
@[simp] theorem updDst_fw (n : Nat) (g : DestSt → DestSt) (s : State) : (updDst n g s).fw = s.fw := rfl
@[simp] theorem updDst_fab (n : Nat) (g : DestSt → DestSt) (s : State) : (updDst n g s).fab = s.fab := rfl
@[simp] theorem updDst_plane (n : Nat) (g : DestSt → DestSt) (s : State) : (updDst n g s).plane = s.plane := rfl
@[simp] theorem updDst_tiles (n : Nat) (g : DestSt → DestSt) (s : State) : (updDst n g s).tiles = s.tiles := rfl
@[simp] theorem updDst_ash (n : Nat) (g : DestSt → DestSt) (s : State) : (updDst n g s).ash = s.ash := rfl
@[simp] theorem updDst_ptp (n : Nat) (g : DestSt → DestSt) (s : State) : (updDst n g s).ptp = s.ptp := rfl
@[simp] theorem updDst_media (n : Nat) (g : DestSt → DestSt) (s : State) : (updDst n g s).media = s.media := rfl
@[simp] theorem updDst_pair (n : Nat) (g : DestSt → DestSt) (s : State) : (updDst n g s).pair = s.pair := rfl
@[simp] theorem updDst_pwr (n : Nat) (g : DestSt → DestSt) (s : State) : (updDst n g s).pwr = s.pwr := rfl
@[simp] theorem updDst_dyn (n : Nat) (g : DestSt → DestSt) (s : State) : (updDst n g s).dyn = s.dyn := rfl
@[simp] theorem updDst_port (n : Nat) (g : DestSt → DestSt) (s : State) : (updDst n g s).port = s.port := rfl
@[simp] theorem updDst_net (n : Nat) (g : DestSt → DestSt) (s : State) : (updDst n g s).net = s.net := rfl
@[simp] theorem updDst_str (n : Nat) (g : DestSt → DestSt) (s : State) : (updDst n g s).str = s.str := rfl
@[simp] theorem updDst_ptpIo (n : Nat) (g : DestSt → DestSt) (s : State) : (updDst n g s).ptpIo = s.ptpIo := rfl
@[simp] theorem updDst_clk (n : Nat) (g : DestSt → DestSt) (s : State) : (updDst n g s).clk = s.clk := rfl
@[simp] theorem updDst_oenDark (n : Nat) (g : DestSt → DestSt) (s : State) : (updDst n g s).oenDark = s.oenDark := rfl
@[simp] theorem updDst_amp (n : Nat) (g : DestSt → DestSt) (s : State) : (updDst n g s).amp = s.amp := rfl
@[simp] theorem updDst_out (n : Nat) (g : DestSt → DestSt) (s : State) : (updDst n g s).out = s.out := rfl
@[simp] theorem updDst_free (n : Nat) (g : DestSt → DestSt) (s : State) : (updDst n g s).free = s.free := rfl
@[simp] theorem updDst_pending (n : Nat) (g : DestSt → DestSt) (s : State) : (updDst n g s).pending = s.pending := rfl
@[simp] theorem getF_updDst (n : Nat) (g : DestSt → DestSt) (s : State) (h : Fld) : getF (updDst n g s) h = getF s h := rfl

/-! ## updPulse -/

@[simp] theorem updPulse_fuses (n : Nat) (g : Pulse → Pulse) (s : State) : (updPulse n g s).fuses = s.fuses := rfl
@[simp] theorem updPulse_pins (n : Nat) (g : Pulse → Pulse) (s : State) : (updPulse n g s).pins = s.pins := rfl
@[simp] theorem updPulse_regs (n : Nat) (g : Pulse → Pulse) (s : State) : (updPulse n g s).regs = s.regs := rfl
@[simp] theorem updPulse_live (n : Nat) (g : Pulse → Pulse) (s : State) : (updPulse n g s).live = s.live := rfl
@[simp] theorem updPulse_stage (n : Nat) (g : Pulse → Pulse) (s : State) : (updPulse n g s).stage = s.stage := rfl
@[simp] theorem updPulse_ctl (n : Nat) (g : Pulse → Pulse) (s : State) : (updPulse n g s).ctl = s.ctl := rfl
@[simp] theorem updPulse_vsr (n : Nat) (g : Pulse → Pulse) (s : State) : (updPulse n g s).vsr = s.vsr := rfl
@[simp] theorem updPulse_seats (n : Nat) (g : Pulse → Pulse) (s : State) : (updPulse n g s).seats = s.seats := rfl
@[simp] theorem updPulse_qspi (n : Nat) (g : Pulse → Pulse) (s : State) : (updPulse n g s).qspi = s.qspi := rfl
@[simp] theorem updPulse_fw (n : Nat) (g : Pulse → Pulse) (s : State) : (updPulse n g s).fw = s.fw := rfl
@[simp] theorem updPulse_fab (n : Nat) (g : Pulse → Pulse) (s : State) : (updPulse n g s).fab = s.fab := rfl
@[simp] theorem updPulse_plane (n : Nat) (g : Pulse → Pulse) (s : State) : (updPulse n g s).plane = s.plane := rfl
@[simp] theorem updPulse_tiles (n : Nat) (g : Pulse → Pulse) (s : State) : (updPulse n g s).tiles = s.tiles := rfl
@[simp] theorem updPulse_ash (n : Nat) (g : Pulse → Pulse) (s : State) : (updPulse n g s).ash = s.ash := rfl
@[simp] theorem updPulse_ptp (n : Nat) (g : Pulse → Pulse) (s : State) : (updPulse n g s).ptp = s.ptp := rfl
@[simp] theorem updPulse_media (n : Nat) (g : Pulse → Pulse) (s : State) : (updPulse n g s).media = s.media := rfl
@[simp] theorem updPulse_pair (n : Nat) (g : Pulse → Pulse) (s : State) : (updPulse n g s).pair = s.pair := rfl
@[simp] theorem updPulse_pwr (n : Nat) (g : Pulse → Pulse) (s : State) : (updPulse n g s).pwr = s.pwr := rfl
@[simp] theorem updPulse_rte (n : Nat) (g : Pulse → Pulse) (s : State) : (updPulse n g s).rte = s.rte := rfl
@[simp] theorem updPulse_dyn (n : Nat) (g : Pulse → Pulse) (s : State) : (updPulse n g s).dyn = s.dyn := rfl
@[simp] theorem updPulse_port (n : Nat) (g : Pulse → Pulse) (s : State) : (updPulse n g s).port = s.port := rfl
@[simp] theorem updPulse_net (n : Nat) (g : Pulse → Pulse) (s : State) : (updPulse n g s).net = s.net := rfl
@[simp] theorem updPulse_str (n : Nat) (g : Pulse → Pulse) (s : State) : (updPulse n g s).str = s.str := rfl
@[simp] theorem updPulse_clk (n : Nat) (g : Pulse → Pulse) (s : State) : (updPulse n g s).clk = s.clk := rfl
@[simp] theorem updPulse_oenDark (n : Nat) (g : Pulse → Pulse) (s : State) : (updPulse n g s).oenDark = s.oenDark := rfl
@[simp] theorem updPulse_amp (n : Nat) (g : Pulse → Pulse) (s : State) : (updPulse n g s).amp = s.amp := rfl
@[simp] theorem updPulse_out (n : Nat) (g : Pulse → Pulse) (s : State) : (updPulse n g s).out = s.out := rfl
@[simp] theorem updPulse_free (n : Nat) (g : Pulse → Pulse) (s : State) : (updPulse n g s).free = s.free := rfl
@[simp] theorem updPulse_pending (n : Nat) (g : Pulse → Pulse) (s : State) : (updPulse n g s).pending = s.pending := rfl
@[simp] theorem getF_updPulse (n : Nat) (g : Pulse → Pulse) (s : State) (h : Fld) : getF (updPulse n g s) h = getF s h := rfl

/-! ## putCode -/

@[simp] theorem putCode_fuses (w c : Nat) (s : State) : (putCode w c s).fuses = s.fuses := rfl
@[simp] theorem putCode_pins (w c : Nat) (s : State) : (putCode w c s).pins = s.pins := rfl
@[simp] theorem putCode_regs (w c : Nat) (s : State) : (putCode w c s).regs = s.regs := rfl
@[simp] theorem putCode_live (w c : Nat) (s : State) : (putCode w c s).live = s.live := rfl
@[simp] theorem putCode_stage (w c : Nat) (s : State) : (putCode w c s).stage = s.stage := rfl
@[simp] theorem putCode_ctl (w c : Nat) (s : State) : (putCode w c s).ctl = s.ctl := rfl
@[simp] theorem putCode_vsr (w c : Nat) (s : State) : (putCode w c s).vsr = s.vsr := rfl
@[simp] theorem putCode_seats (w c : Nat) (s : State) : (putCode w c s).seats = s.seats := rfl
@[simp] theorem putCode_qspi (w c : Nat) (s : State) : (putCode w c s).qspi = s.qspi := rfl
@[simp] theorem putCode_fw (w c : Nat) (s : State) : (putCode w c s).fw = s.fw := rfl
@[simp] theorem putCode_fab (w c : Nat) (s : State) : (putCode w c s).fab = s.fab := rfl
@[simp] theorem putCode_plane (w c : Nat) (s : State) : (putCode w c s).plane = s.plane := rfl
@[simp] theorem putCode_tiles (w c : Nat) (s : State) : (putCode w c s).tiles = s.tiles := rfl
@[simp] theorem putCode_ptp (w c : Nat) (s : State) : (putCode w c s).ptp = s.ptp := rfl
@[simp] theorem putCode_media (w c : Nat) (s : State) : (putCode w c s).media = s.media := rfl
@[simp] theorem putCode_pair (w c : Nat) (s : State) : (putCode w c s).pair = s.pair := rfl
@[simp] theorem putCode_pwr (w c : Nat) (s : State) : (putCode w c s).pwr = s.pwr := rfl
@[simp] theorem putCode_rte (w c : Nat) (s : State) : (putCode w c s).rte = s.rte := rfl
@[simp] theorem putCode_dyn (w c : Nat) (s : State) : (putCode w c s).dyn = s.dyn := rfl
@[simp] theorem putCode_port (w c : Nat) (s : State) : (putCode w c s).port = s.port := rfl
@[simp] theorem putCode_net (w c : Nat) (s : State) : (putCode w c s).net = s.net := rfl
@[simp] theorem putCode_str (w c : Nat) (s : State) : (putCode w c s).str = s.str := rfl
@[simp] theorem putCode_ptpIo (w c : Nat) (s : State) : (putCode w c s).ptpIo = s.ptpIo := rfl
@[simp] theorem putCode_clk (w c : Nat) (s : State) : (putCode w c s).clk = s.clk := rfl
@[simp] theorem putCode_oenDark (w c : Nat) (s : State) : (putCode w c s).oenDark = s.oenDark := rfl
@[simp] theorem putCode_amp (w c : Nat) (s : State) : (putCode w c s).amp = s.amp := rfl
@[simp] theorem putCode_out (w c : Nat) (s : State) : (putCode w c s).out = s.out := rfl
@[simp] theorem putCode_free (w c : Nat) (s : State) : (putCode w c s).free = s.free := rfl
@[simp] theorem putCode_pending (w c : Nat) (s : State) : (putCode w c s).pending = s.pending := rfl
@[simp] theorem getF_putCode (w c : Nat) (s : State) (h : Fld) : getF (putCode w c s) h = getF s h := rfl

/-! ## putAsh -/

@[simp] theorem putAsh_fuses (w v : Nat) (s : State) : (putAsh w v s).fuses = s.fuses := rfl
@[simp] theorem putAsh_pins (w v : Nat) (s : State) : (putAsh w v s).pins = s.pins := rfl
@[simp] theorem putAsh_regs (w v : Nat) (s : State) : (putAsh w v s).regs = s.regs := rfl
@[simp] theorem putAsh_live (w v : Nat) (s : State) : (putAsh w v s).live = s.live := rfl
@[simp] theorem putAsh_stage (w v : Nat) (s : State) : (putAsh w v s).stage = s.stage := rfl
@[simp] theorem putAsh_ctl (w v : Nat) (s : State) : (putAsh w v s).ctl = s.ctl := rfl
@[simp] theorem putAsh_vsr (w v : Nat) (s : State) : (putAsh w v s).vsr = s.vsr := rfl
@[simp] theorem putAsh_seats (w v : Nat) (s : State) : (putAsh w v s).seats = s.seats := rfl
@[simp] theorem putAsh_qspi (w v : Nat) (s : State) : (putAsh w v s).qspi = s.qspi := rfl
@[simp] theorem putAsh_fw (w v : Nat) (s : State) : (putAsh w v s).fw = s.fw := rfl
@[simp] theorem putAsh_fab (w v : Nat) (s : State) : (putAsh w v s).fab = s.fab := rfl
@[simp] theorem putAsh_plane (w v : Nat) (s : State) : (putAsh w v s).plane = s.plane := rfl
@[simp] theorem putAsh_tiles (w v : Nat) (s : State) : (putAsh w v s).tiles = s.tiles := rfl
@[simp] theorem putAsh_ptp (w v : Nat) (s : State) : (putAsh w v s).ptp = s.ptp := rfl
@[simp] theorem putAsh_media (w v : Nat) (s : State) : (putAsh w v s).media = s.media := rfl
@[simp] theorem putAsh_pair (w v : Nat) (s : State) : (putAsh w v s).pair = s.pair := rfl
@[simp] theorem putAsh_pwr (w v : Nat) (s : State) : (putAsh w v s).pwr = s.pwr := rfl
@[simp] theorem putAsh_rte (w v : Nat) (s : State) : (putAsh w v s).rte = s.rte := rfl
@[simp] theorem putAsh_dyn (w v : Nat) (s : State) : (putAsh w v s).dyn = s.dyn := rfl
@[simp] theorem putAsh_port (w v : Nat) (s : State) : (putAsh w v s).port = s.port := rfl
@[simp] theorem putAsh_net (w v : Nat) (s : State) : (putAsh w v s).net = s.net := rfl
@[simp] theorem putAsh_str (w v : Nat) (s : State) : (putAsh w v s).str = s.str := rfl
@[simp] theorem putAsh_ptpIo (w v : Nat) (s : State) : (putAsh w v s).ptpIo = s.ptpIo := rfl
@[simp] theorem putAsh_clk (w v : Nat) (s : State) : (putAsh w v s).clk = s.clk := rfl
@[simp] theorem putAsh_oenDark (w v : Nat) (s : State) : (putAsh w v s).oenDark = s.oenDark := rfl
@[simp] theorem putAsh_amp (w v : Nat) (s : State) : (putAsh w v s).amp = s.amp := rfl
@[simp] theorem putAsh_out (w v : Nat) (s : State) : (putAsh w v s).out = s.out := rfl
@[simp] theorem putAsh_free (w v : Nat) (s : State) : (putAsh w v s).free = s.free := rfl
@[simp] theorem putAsh_pending (w v : Nat) (s : State) : (putAsh w v s).pending = s.pending := rfl
@[simp] theorem getF_putAsh (w v : Nat) (s : State) (h : Fld) : getF (putAsh w v s) h = getF s h := rfl

/-! ## putQueue -/

@[simp] theorem putQueue_fuses (k : Nat) (q : List Beat) (s : State) : (putQueue k q s).fuses = s.fuses := rfl
@[simp] theorem putQueue_pins (k : Nat) (q : List Beat) (s : State) : (putQueue k q s).pins = s.pins := rfl
@[simp] theorem putQueue_regs (k : Nat) (q : List Beat) (s : State) : (putQueue k q s).regs = s.regs := rfl
@[simp] theorem putQueue_live (k : Nat) (q : List Beat) (s : State) : (putQueue k q s).live = s.live := rfl
@[simp] theorem putQueue_stage (k : Nat) (q : List Beat) (s : State) : (putQueue k q s).stage = s.stage := rfl
@[simp] theorem putQueue_ctl (k : Nat) (q : List Beat) (s : State) : (putQueue k q s).ctl = s.ctl := rfl
@[simp] theorem putQueue_vsr (k : Nat) (q : List Beat) (s : State) : (putQueue k q s).vsr = s.vsr := rfl
@[simp] theorem putQueue_seats (k : Nat) (q : List Beat) (s : State) : (putQueue k q s).seats = s.seats := rfl
@[simp] theorem putQueue_qspi (k : Nat) (q : List Beat) (s : State) : (putQueue k q s).qspi = s.qspi := rfl
@[simp] theorem putQueue_fw (k : Nat) (q : List Beat) (s : State) : (putQueue k q s).fw = s.fw := rfl
@[simp] theorem putQueue_fab (k : Nat) (q : List Beat) (s : State) : (putQueue k q s).fab = s.fab := rfl
@[simp] theorem putQueue_plane (k : Nat) (q : List Beat) (s : State) : (putQueue k q s).plane = s.plane := rfl
@[simp] theorem putQueue_tiles (k : Nat) (q : List Beat) (s : State) : (putQueue k q s).tiles = s.tiles := rfl
@[simp] theorem putQueue_ptp (k : Nat) (q : List Beat) (s : State) : (putQueue k q s).ptp = s.ptp := rfl
@[simp] theorem putQueue_media (k : Nat) (q : List Beat) (s : State) : (putQueue k q s).media = s.media := rfl
@[simp] theorem putQueue_pair (k : Nat) (q : List Beat) (s : State) : (putQueue k q s).pair = s.pair := rfl
@[simp] theorem putQueue_pwr (k : Nat) (q : List Beat) (s : State) : (putQueue k q s).pwr = s.pwr := rfl
@[simp] theorem putQueue_rte (k : Nat) (q : List Beat) (s : State) : (putQueue k q s).rte = s.rte := rfl
@[simp] theorem putQueue_dyn (k : Nat) (q : List Beat) (s : State) : (putQueue k q s).dyn = s.dyn := rfl
@[simp] theorem putQueue_port (k : Nat) (q : List Beat) (s : State) : (putQueue k q s).port = s.port := rfl
@[simp] theorem putQueue_net (k : Nat) (q : List Beat) (s : State) : (putQueue k q s).net = s.net := rfl
@[simp] theorem putQueue_str (k : Nat) (q : List Beat) (s : State) : (putQueue k q s).str = s.str := rfl
@[simp] theorem putQueue_ptpIo (k : Nat) (q : List Beat) (s : State) : (putQueue k q s).ptpIo = s.ptpIo := rfl
@[simp] theorem putQueue_clk (k : Nat) (q : List Beat) (s : State) : (putQueue k q s).clk = s.clk := rfl
@[simp] theorem putQueue_oenDark (k : Nat) (q : List Beat) (s : State) : (putQueue k q s).oenDark = s.oenDark := rfl
@[simp] theorem putQueue_amp (k : Nat) (q : List Beat) (s : State) : (putQueue k q s).amp = s.amp := rfl
@[simp] theorem putQueue_out (k : Nat) (q : List Beat) (s : State) : (putQueue k q s).out = s.out := rfl
@[simp] theorem putQueue_free (k : Nat) (q : List Beat) (s : State) : (putQueue k q s).free = s.free := rfl
@[simp] theorem putQueue_pending (k : Nat) (q : List Beat) (s : State) : (putQueue k q s).pending = s.pending := rfl
@[simp] theorem getF_putQueue (k : Nat) (q : List Beat) (s : State) (h : Fld) : getF (putQueue k q s) h = getF s h := rfl

/-! ## A part of a state in which another part changed -/

@[simp] theorem seatOf_putF (f : Fld) (v : Nat) (s : State) (m : Nat) : seatOf (putF f v s) m = seatOf s m := rfl
@[simp] theorem tileOf_putF (f : Fld) (v : Nat) (s : State) (m : Nat) : tileOf (putF f v s) m = tileOf s m := rfl
@[simp] theorem qspiOf_putF (f : Fld) (v : Nat) (s : State) (m : Nat) : qspiOf (putF f v s) m = qspiOf s m := rfl
@[simp] theorem ampCh_putF (f : Fld) (v : Nat) (s : State) (m : Nat) : ampCh (putF f v s) m = ampCh s m := rfl
@[simp] theorem ampMod_putF (f : Fld) (v : Nat) (s : State) (m : Nat) : ampMod (putF f v s) m = ampMod s m := rfl
@[simp] theorem laneOf_putF (f : Fld) (v : Nat) (s : State) (m : Nat) : laneOf (putF f v s) m = laneOf s m := rfl
@[simp] theorem aesOf_putF (f : Fld) (v : Nat) (s : State) (m : Nat) : aesOf (putF f v s) m = aesOf s m := rfl
@[simp] theorem macOf_putF (f : Fld) (v : Nat) (s : State) (m : Nat) : macOf (putF f v s) m = macOf s m := rfl
@[simp] theorem rxStr_putF (f : Fld) (v : Nat) (s : State) (m : Nat) : rxStr (putF f v s) m = rxStr s m := rfl
@[simp] theorem txStr_putF (f : Fld) (v : Nat) (s : State) (m : Nat) : txStr (putF f v s) m = txStr s m := rfl
@[simp] theorem dstOf_putF (f : Fld) (v : Nat) (s : State) (m : Nat) : dstOf (putF f v s) m = dstOf s m := rfl
@[simp] theorem pulseOf_putF (f : Fld) (v : Nat) (s : State) (m : Nat) : pulseOf (putF f v s) m = pulseOf s m := rfl
@[simp] theorem ashCode_putF (f : Fld) (v : Nat) (s : State) (i : Nat) : ashCode (putF f v s) i = ashCode s i := rfl
@[simp] theorem bankQueue_putF (f : Fld) (v : Nat) (s : State) (i : Nat) : bankQueue (putF f v s) i = bankQueue s i := rfl
@[simp] theorem seatOf_putB (f : Fld) (b : Bool) (s : State) (m : Nat) : seatOf (putB f b s) m = seatOf s m := rfl
@[simp] theorem tileOf_putB (f : Fld) (b : Bool) (s : State) (m : Nat) : tileOf (putB f b s) m = tileOf s m := rfl
@[simp] theorem qspiOf_putB (f : Fld) (b : Bool) (s : State) (m : Nat) : qspiOf (putB f b s) m = qspiOf s m := rfl
@[simp] theorem ampCh_putB (f : Fld) (b : Bool) (s : State) (m : Nat) : ampCh (putB f b s) m = ampCh s m := rfl
@[simp] theorem ampMod_putB (f : Fld) (b : Bool) (s : State) (m : Nat) : ampMod (putB f b s) m = ampMod s m := rfl
@[simp] theorem laneOf_putB (f : Fld) (b : Bool) (s : State) (m : Nat) : laneOf (putB f b s) m = laneOf s m := rfl
@[simp] theorem aesOf_putB (f : Fld) (b : Bool) (s : State) (m : Nat) : aesOf (putB f b s) m = aesOf s m := rfl
@[simp] theorem macOf_putB (f : Fld) (b : Bool) (s : State) (m : Nat) : macOf (putB f b s) m = macOf s m := rfl
@[simp] theorem rxStr_putB (f : Fld) (b : Bool) (s : State) (m : Nat) : rxStr (putB f b s) m = rxStr s m := rfl
@[simp] theorem txStr_putB (f : Fld) (b : Bool) (s : State) (m : Nat) : txStr (putB f b s) m = txStr s m := rfl
@[simp] theorem dstOf_putB (f : Fld) (b : Bool) (s : State) (m : Nat) : dstOf (putB f b s) m = dstOf s m := rfl
@[simp] theorem pulseOf_putB (f : Fld) (b : Bool) (s : State) (m : Nat) : pulseOf (putB f b s) m = pulseOf s m := rfl
@[simp] theorem ashCode_putB (f : Fld) (b : Bool) (s : State) (i : Nat) : ashCode (putB f b s) i = ashCode s i := rfl
@[simp] theorem bankQueue_putB (f : Fld) (b : Bool) (s : State) (i : Nat) : bankQueue (putB f b s) i = bankQueue s i := rfl
@[simp] theorem seatOf_bump (f : Fld) (n : Nat) (s : State) (m : Nat) : seatOf (bump f n s) m = seatOf s m := rfl
@[simp] theorem tileOf_bump (f : Fld) (n : Nat) (s : State) (m : Nat) : tileOf (bump f n s) m = tileOf s m := rfl
@[simp] theorem qspiOf_bump (f : Fld) (n : Nat) (s : State) (m : Nat) : qspiOf (bump f n s) m = qspiOf s m := rfl
@[simp] theorem ampCh_bump (f : Fld) (n : Nat) (s : State) (m : Nat) : ampCh (bump f n s) m = ampCh s m := rfl
@[simp] theorem ampMod_bump (f : Fld) (n : Nat) (s : State) (m : Nat) : ampMod (bump f n s) m = ampMod s m := rfl
@[simp] theorem laneOf_bump (f : Fld) (n : Nat) (s : State) (m : Nat) : laneOf (bump f n s) m = laneOf s m := rfl
@[simp] theorem aesOf_bump (f : Fld) (n : Nat) (s : State) (m : Nat) : aesOf (bump f n s) m = aesOf s m := rfl
@[simp] theorem macOf_bump (f : Fld) (n : Nat) (s : State) (m : Nat) : macOf (bump f n s) m = macOf s m := rfl
@[simp] theorem rxStr_bump (f : Fld) (n : Nat) (s : State) (m : Nat) : rxStr (bump f n s) m = rxStr s m := rfl
@[simp] theorem txStr_bump (f : Fld) (n : Nat) (s : State) (m : Nat) : txStr (bump f n s) m = txStr s m := rfl
@[simp] theorem dstOf_bump (f : Fld) (n : Nat) (s : State) (m : Nat) : dstOf (bump f n s) m = dstOf s m := rfl
@[simp] theorem pulseOf_bump (f : Fld) (n : Nat) (s : State) (m : Nat) : pulseOf (bump f n s) m = pulseOf s m := rfl
@[simp] theorem ashCode_bump (f : Fld) (n : Nat) (s : State) (i : Nat) : ashCode (bump f n s) i = ashCode s i := rfl
@[simp] theorem bankQueue_bump (f : Fld) (n : Nat) (s : State) (i : Nat) : bankQueue (bump f n s) i = bankQueue s i := rfl
@[simp] theorem seatOf_wrap (f : Fld) (n : Nat) (s : State) (m : Nat) : seatOf (wrap f n s) m = seatOf s m := rfl
@[simp] theorem tileOf_wrap (f : Fld) (n : Nat) (s : State) (m : Nat) : tileOf (wrap f n s) m = tileOf s m := rfl
@[simp] theorem qspiOf_wrap (f : Fld) (n : Nat) (s : State) (m : Nat) : qspiOf (wrap f n s) m = qspiOf s m := rfl
@[simp] theorem ampCh_wrap (f : Fld) (n : Nat) (s : State) (m : Nat) : ampCh (wrap f n s) m = ampCh s m := rfl
@[simp] theorem ampMod_wrap (f : Fld) (n : Nat) (s : State) (m : Nat) : ampMod (wrap f n s) m = ampMod s m := rfl
@[simp] theorem laneOf_wrap (f : Fld) (n : Nat) (s : State) (m : Nat) : laneOf (wrap f n s) m = laneOf s m := rfl
@[simp] theorem aesOf_wrap (f : Fld) (n : Nat) (s : State) (m : Nat) : aesOf (wrap f n s) m = aesOf s m := rfl
@[simp] theorem macOf_wrap (f : Fld) (n : Nat) (s : State) (m : Nat) : macOf (wrap f n s) m = macOf s m := rfl
@[simp] theorem rxStr_wrap (f : Fld) (n : Nat) (s : State) (m : Nat) : rxStr (wrap f n s) m = rxStr s m := rfl
@[simp] theorem txStr_wrap (f : Fld) (n : Nat) (s : State) (m : Nat) : txStr (wrap f n s) m = txStr s m := rfl
@[simp] theorem dstOf_wrap (f : Fld) (n : Nat) (s : State) (m : Nat) : dstOf (wrap f n s) m = dstOf s m := rfl
@[simp] theorem pulseOf_wrap (f : Fld) (n : Nat) (s : State) (m : Nat) : pulseOf (wrap f n s) m = pulseOf s m := rfl
@[simp] theorem ashCode_wrap (f : Fld) (n : Nat) (s : State) (i : Nat) : ashCode (wrap f n s) i = ashCode s i := rfl
@[simp] theorem bankQueue_wrap (f : Fld) (n : Nat) (s : State) (i : Nat) : bankQueue (wrap f n s) i = bankQueue s i := rfl
@[simp] theorem seatOf_emit (k : OutKind) (d : List Nat) (s : State) (m : Nat) : seatOf (emit k d s) m = seatOf s m := rfl
@[simp] theorem tileOf_emit (k : OutKind) (d : List Nat) (s : State) (m : Nat) : tileOf (emit k d s) m = tileOf s m := rfl
@[simp] theorem qspiOf_emit (k : OutKind) (d : List Nat) (s : State) (m : Nat) : qspiOf (emit k d s) m = qspiOf s m := rfl
@[simp] theorem ampCh_emit (k : OutKind) (d : List Nat) (s : State) (m : Nat) : ampCh (emit k d s) m = ampCh s m := rfl
@[simp] theorem ampMod_emit (k : OutKind) (d : List Nat) (s : State) (m : Nat) : ampMod (emit k d s) m = ampMod s m := rfl
@[simp] theorem laneOf_emit (k : OutKind) (d : List Nat) (s : State) (m : Nat) : laneOf (emit k d s) m = laneOf s m := rfl
@[simp] theorem aesOf_emit (k : OutKind) (d : List Nat) (s : State) (m : Nat) : aesOf (emit k d s) m = aesOf s m := rfl
@[simp] theorem macOf_emit (k : OutKind) (d : List Nat) (s : State) (m : Nat) : macOf (emit k d s) m = macOf s m := rfl
@[simp] theorem rxStr_emit (k : OutKind) (d : List Nat) (s : State) (m : Nat) : rxStr (emit k d s) m = rxStr s m := rfl
@[simp] theorem txStr_emit (k : OutKind) (d : List Nat) (s : State) (m : Nat) : txStr (emit k d s) m = txStr s m := rfl
@[simp] theorem dstOf_emit (k : OutKind) (d : List Nat) (s : State) (m : Nat) : dstOf (emit k d s) m = dstOf s m := rfl
@[simp] theorem pulseOf_emit (k : OutKind) (d : List Nat) (s : State) (m : Nat) : pulseOf (emit k d s) m = pulseOf s m := rfl
@[simp] theorem ashCode_emit (k : OutKind) (d : List Nat) (s : State) (i : Nat) : ashCode (emit k d s) i = ashCode s i := rfl
@[simp] theorem bankQueue_emit (k : OutKind) (d : List Nat) (s : State) (i : Nat) : bankQueue (emit k d s) i = bankQueue s i := rfl
@[simp] theorem tileOf_updSeat (n : Nat) (g : Seat → Seat) (s : State) (m : Nat) : tileOf (updSeat n g s) m = tileOf s m := rfl
@[simp] theorem qspiOf_updSeat (n : Nat) (g : Seat → Seat) (s : State) (m : Nat) : qspiOf (updSeat n g s) m = qspiOf s m := rfl
@[simp] theorem ampCh_updSeat (n : Nat) (g : Seat → Seat) (s : State) (m : Nat) : ampCh (updSeat n g s) m = ampCh s m := rfl
@[simp] theorem ampMod_updSeat (n : Nat) (g : Seat → Seat) (s : State) (m : Nat) : ampMod (updSeat n g s) m = ampMod s m := rfl
@[simp] theorem laneOf_updSeat (n : Nat) (g : Seat → Seat) (s : State) (m : Nat) : laneOf (updSeat n g s) m = laneOf s m := rfl
@[simp] theorem aesOf_updSeat (n : Nat) (g : Seat → Seat) (s : State) (m : Nat) : aesOf (updSeat n g s) m = aesOf s m := rfl
@[simp] theorem macOf_updSeat (n : Nat) (g : Seat → Seat) (s : State) (m : Nat) : macOf (updSeat n g s) m = macOf s m := rfl
@[simp] theorem rxStr_updSeat (n : Nat) (g : Seat → Seat) (s : State) (m : Nat) : rxStr (updSeat n g s) m = rxStr s m := rfl
@[simp] theorem txStr_updSeat (n : Nat) (g : Seat → Seat) (s : State) (m : Nat) : txStr (updSeat n g s) m = txStr s m := rfl
@[simp] theorem dstOf_updSeat (n : Nat) (g : Seat → Seat) (s : State) (m : Nat) : dstOf (updSeat n g s) m = dstOf s m := rfl
@[simp] theorem pulseOf_updSeat (n : Nat) (g : Seat → Seat) (s : State) (m : Nat) : pulseOf (updSeat n g s) m = pulseOf s m := rfl
@[simp] theorem ashCode_updSeat (n : Nat) (g : Seat → Seat) (s : State) (i : Nat) : ashCode (updSeat n g s) i = ashCode s i := rfl
@[simp] theorem bankQueue_updSeat (n : Nat) (g : Seat → Seat) (s : State) (i : Nat) : bankQueue (updSeat n g s) i = bankQueue s i := rfl
@[simp] theorem seatOf_updTile (n : Nat) (g : Tile → Tile) (s : State) (m : Nat) : seatOf (updTile n g s) m = seatOf s m := rfl
@[simp] theorem qspiOf_updTile (n : Nat) (g : Tile → Tile) (s : State) (m : Nat) : qspiOf (updTile n g s) m = qspiOf s m := rfl
@[simp] theorem ampCh_updTile (n : Nat) (g : Tile → Tile) (s : State) (m : Nat) : ampCh (updTile n g s) m = ampCh s m := rfl
@[simp] theorem ampMod_updTile (n : Nat) (g : Tile → Tile) (s : State) (m : Nat) : ampMod (updTile n g s) m = ampMod s m := rfl
@[simp] theorem laneOf_updTile (n : Nat) (g : Tile → Tile) (s : State) (m : Nat) : laneOf (updTile n g s) m = laneOf s m := rfl
@[simp] theorem aesOf_updTile (n : Nat) (g : Tile → Tile) (s : State) (m : Nat) : aesOf (updTile n g s) m = aesOf s m := rfl
@[simp] theorem macOf_updTile (n : Nat) (g : Tile → Tile) (s : State) (m : Nat) : macOf (updTile n g s) m = macOf s m := rfl
@[simp] theorem rxStr_updTile (n : Nat) (g : Tile → Tile) (s : State) (m : Nat) : rxStr (updTile n g s) m = rxStr s m := rfl
@[simp] theorem txStr_updTile (n : Nat) (g : Tile → Tile) (s : State) (m : Nat) : txStr (updTile n g s) m = txStr s m := rfl
@[simp] theorem dstOf_updTile (n : Nat) (g : Tile → Tile) (s : State) (m : Nat) : dstOf (updTile n g s) m = dstOf s m := rfl
@[simp] theorem pulseOf_updTile (n : Nat) (g : Tile → Tile) (s : State) (m : Nat) : pulseOf (updTile n g s) m = pulseOf s m := rfl
@[simp] theorem ashCode_updTile (n : Nat) (g : Tile → Tile) (s : State) (i : Nat) : ashCode (updTile n g s) i = ashCode s i := rfl
@[simp] theorem bankQueue_updTile (n : Nat) (g : Tile → Tile) (s : State) (i : Nat) : bankQueue (updTile n g s) i = bankQueue s i := rfl
@[simp] theorem seatOf_updQspi (n : Nat) (g : Qspi → Qspi) (s : State) (m : Nat) : seatOf (updQspi n g s) m = seatOf s m := rfl
@[simp] theorem tileOf_updQspi (n : Nat) (g : Qspi → Qspi) (s : State) (m : Nat) : tileOf (updQspi n g s) m = tileOf s m := rfl
@[simp] theorem ampCh_updQspi (n : Nat) (g : Qspi → Qspi) (s : State) (m : Nat) : ampCh (updQspi n g s) m = ampCh s m := rfl
@[simp] theorem ampMod_updQspi (n : Nat) (g : Qspi → Qspi) (s : State) (m : Nat) : ampMod (updQspi n g s) m = ampMod s m := rfl
@[simp] theorem laneOf_updQspi (n : Nat) (g : Qspi → Qspi) (s : State) (m : Nat) : laneOf (updQspi n g s) m = laneOf s m := rfl
@[simp] theorem aesOf_updQspi (n : Nat) (g : Qspi → Qspi) (s : State) (m : Nat) : aesOf (updQspi n g s) m = aesOf s m := rfl
@[simp] theorem macOf_updQspi (n : Nat) (g : Qspi → Qspi) (s : State) (m : Nat) : macOf (updQspi n g s) m = macOf s m := rfl
@[simp] theorem rxStr_updQspi (n : Nat) (g : Qspi → Qspi) (s : State) (m : Nat) : rxStr (updQspi n g s) m = rxStr s m := rfl
@[simp] theorem txStr_updQspi (n : Nat) (g : Qspi → Qspi) (s : State) (m : Nat) : txStr (updQspi n g s) m = txStr s m := rfl
@[simp] theorem dstOf_updQspi (n : Nat) (g : Qspi → Qspi) (s : State) (m : Nat) : dstOf (updQspi n g s) m = dstOf s m := rfl
@[simp] theorem pulseOf_updQspi (n : Nat) (g : Qspi → Qspi) (s : State) (m : Nat) : pulseOf (updQspi n g s) m = pulseOf s m := rfl
@[simp] theorem ashCode_updQspi (n : Nat) (g : Qspi → Qspi) (s : State) (i : Nat) : ashCode (updQspi n g s) i = ashCode s i := rfl
@[simp] theorem bankQueue_updQspi (n : Nat) (g : Qspi → Qspi) (s : State) (i : Nat) : bankQueue (updQspi n g s) i = bankQueue s i := rfl
@[simp] theorem seatOf_updCh (n : Nat) (g : AmpCh → AmpCh) (s : State) (m : Nat) : seatOf (updCh n g s) m = seatOf s m := rfl
@[simp] theorem tileOf_updCh (n : Nat) (g : AmpCh → AmpCh) (s : State) (m : Nat) : tileOf (updCh n g s) m = tileOf s m := rfl
@[simp] theorem qspiOf_updCh (n : Nat) (g : AmpCh → AmpCh) (s : State) (m : Nat) : qspiOf (updCh n g s) m = qspiOf s m := rfl
@[simp] theorem laneOf_updCh (n : Nat) (g : AmpCh → AmpCh) (s : State) (m : Nat) : laneOf (updCh n g s) m = laneOf s m := rfl
@[simp] theorem aesOf_updCh (n : Nat) (g : AmpCh → AmpCh) (s : State) (m : Nat) : aesOf (updCh n g s) m = aesOf s m := rfl
@[simp] theorem macOf_updCh (n : Nat) (g : AmpCh → AmpCh) (s : State) (m : Nat) : macOf (updCh n g s) m = macOf s m := rfl
@[simp] theorem rxStr_updCh (n : Nat) (g : AmpCh → AmpCh) (s : State) (m : Nat) : rxStr (updCh n g s) m = rxStr s m := rfl
@[simp] theorem txStr_updCh (n : Nat) (g : AmpCh → AmpCh) (s : State) (m : Nat) : txStr (updCh n g s) m = txStr s m := rfl
@[simp] theorem dstOf_updCh (n : Nat) (g : AmpCh → AmpCh) (s : State) (m : Nat) : dstOf (updCh n g s) m = dstOf s m := rfl
@[simp] theorem pulseOf_updCh (n : Nat) (g : AmpCh → AmpCh) (s : State) (m : Nat) : pulseOf (updCh n g s) m = pulseOf s m := rfl
@[simp] theorem ashCode_updCh (n : Nat) (g : AmpCh → AmpCh) (s : State) (i : Nat) : ashCode (updCh n g s) i = ashCode s i := rfl
@[simp] theorem bankQueue_updCh (n : Nat) (g : AmpCh → AmpCh) (s : State) (i : Nat) : bankQueue (updCh n g s) i = bankQueue s i := rfl
@[simp] theorem seatOf_updMod (n : Nat) (g : AmpMod → AmpMod) (s : State) (m : Nat) : seatOf (updMod n g s) m = seatOf s m := rfl
@[simp] theorem tileOf_updMod (n : Nat) (g : AmpMod → AmpMod) (s : State) (m : Nat) : tileOf (updMod n g s) m = tileOf s m := rfl
@[simp] theorem qspiOf_updMod (n : Nat) (g : AmpMod → AmpMod) (s : State) (m : Nat) : qspiOf (updMod n g s) m = qspiOf s m := rfl
@[simp] theorem laneOf_updMod (n : Nat) (g : AmpMod → AmpMod) (s : State) (m : Nat) : laneOf (updMod n g s) m = laneOf s m := rfl
@[simp] theorem aesOf_updMod (n : Nat) (g : AmpMod → AmpMod) (s : State) (m : Nat) : aesOf (updMod n g s) m = aesOf s m := rfl
@[simp] theorem macOf_updMod (n : Nat) (g : AmpMod → AmpMod) (s : State) (m : Nat) : macOf (updMod n g s) m = macOf s m := rfl
@[simp] theorem rxStr_updMod (n : Nat) (g : AmpMod → AmpMod) (s : State) (m : Nat) : rxStr (updMod n g s) m = rxStr s m := rfl
@[simp] theorem txStr_updMod (n : Nat) (g : AmpMod → AmpMod) (s : State) (m : Nat) : txStr (updMod n g s) m = txStr s m := rfl
@[simp] theorem dstOf_updMod (n : Nat) (g : AmpMod → AmpMod) (s : State) (m : Nat) : dstOf (updMod n g s) m = dstOf s m := rfl
@[simp] theorem pulseOf_updMod (n : Nat) (g : AmpMod → AmpMod) (s : State) (m : Nat) : pulseOf (updMod n g s) m = pulseOf s m := rfl
@[simp] theorem ashCode_updMod (n : Nat) (g : AmpMod → AmpMod) (s : State) (i : Nat) : ashCode (updMod n g s) i = ashCode s i := rfl
@[simp] theorem bankQueue_updMod (n : Nat) (g : AmpMod → AmpMod) (s : State) (i : Nat) : bankQueue (updMod n g s) i = bankQueue s i := rfl
@[simp] theorem seatOf_updLane (n : Nat) (g : LaneSt → LaneSt) (s : State) (m : Nat) : seatOf (updLane n g s) m = seatOf s m := rfl
@[simp] theorem tileOf_updLane (n : Nat) (g : LaneSt → LaneSt) (s : State) (m : Nat) : tileOf (updLane n g s) m = tileOf s m := rfl
@[simp] theorem qspiOf_updLane (n : Nat) (g : LaneSt → LaneSt) (s : State) (m : Nat) : qspiOf (updLane n g s) m = qspiOf s m := rfl
@[simp] theorem ampCh_updLane (n : Nat) (g : LaneSt → LaneSt) (s : State) (m : Nat) : ampCh (updLane n g s) m = ampCh s m := rfl
@[simp] theorem ampMod_updLane (n : Nat) (g : LaneSt → LaneSt) (s : State) (m : Nat) : ampMod (updLane n g s) m = ampMod s m := rfl
@[simp] theorem macOf_updLane (n : Nat) (g : LaneSt → LaneSt) (s : State) (m : Nat) : macOf (updLane n g s) m = macOf s m := rfl
@[simp] theorem rxStr_updLane (n : Nat) (g : LaneSt → LaneSt) (s : State) (m : Nat) : rxStr (updLane n g s) m = rxStr s m := rfl
@[simp] theorem txStr_updLane (n : Nat) (g : LaneSt → LaneSt) (s : State) (m : Nat) : txStr (updLane n g s) m = txStr s m := rfl
@[simp] theorem dstOf_updLane (n : Nat) (g : LaneSt → LaneSt) (s : State) (m : Nat) : dstOf (updLane n g s) m = dstOf s m := rfl
@[simp] theorem pulseOf_updLane (n : Nat) (g : LaneSt → LaneSt) (s : State) (m : Nat) : pulseOf (updLane n g s) m = pulseOf s m := rfl
@[simp] theorem ashCode_updLane (n : Nat) (g : LaneSt → LaneSt) (s : State) (i : Nat) : ashCode (updLane n g s) i = ashCode s i := rfl
@[simp] theorem bankQueue_updLane (n : Nat) (g : LaneSt → LaneSt) (s : State) (i : Nat) : bankQueue (updLane n g s) i = bankQueue s i := rfl
@[simp] theorem seatOf_updAes (n : Nat) (g : AesSt → AesSt) (s : State) (m : Nat) : seatOf (updAes n g s) m = seatOf s m := rfl
@[simp] theorem tileOf_updAes (n : Nat) (g : AesSt → AesSt) (s : State) (m : Nat) : tileOf (updAes n g s) m = tileOf s m := rfl
@[simp] theorem qspiOf_updAes (n : Nat) (g : AesSt → AesSt) (s : State) (m : Nat) : qspiOf (updAes n g s) m = qspiOf s m := rfl
@[simp] theorem ampCh_updAes (n : Nat) (g : AesSt → AesSt) (s : State) (m : Nat) : ampCh (updAes n g s) m = ampCh s m := rfl
@[simp] theorem ampMod_updAes (n : Nat) (g : AesSt → AesSt) (s : State) (m : Nat) : ampMod (updAes n g s) m = ampMod s m := rfl
@[simp] theorem macOf_updAes (n : Nat) (g : AesSt → AesSt) (s : State) (m : Nat) : macOf (updAes n g s) m = macOf s m := rfl
@[simp] theorem rxStr_updAes (n : Nat) (g : AesSt → AesSt) (s : State) (m : Nat) : rxStr (updAes n g s) m = rxStr s m := rfl
@[simp] theorem txStr_updAes (n : Nat) (g : AesSt → AesSt) (s : State) (m : Nat) : txStr (updAes n g s) m = txStr s m := rfl
@[simp] theorem dstOf_updAes (n : Nat) (g : AesSt → AesSt) (s : State) (m : Nat) : dstOf (updAes n g s) m = dstOf s m := rfl
@[simp] theorem pulseOf_updAes (n : Nat) (g : AesSt → AesSt) (s : State) (m : Nat) : pulseOf (updAes n g s) m = pulseOf s m := rfl
@[simp] theorem ashCode_updAes (n : Nat) (g : AesSt → AesSt) (s : State) (i : Nat) : ashCode (updAes n g s) i = ashCode s i := rfl
@[simp] theorem bankQueue_updAes (n : Nat) (g : AesSt → AesSt) (s : State) (i : Nat) : bankQueue (updAes n g s) i = bankQueue s i := rfl
@[simp] theorem seatOf_updMac (n : Nat) (g : MacSt → MacSt) (s : State) (m : Nat) : seatOf (updMac n g s) m = seatOf s m := rfl
@[simp] theorem tileOf_updMac (n : Nat) (g : MacSt → MacSt) (s : State) (m : Nat) : tileOf (updMac n g s) m = tileOf s m := rfl
@[simp] theorem qspiOf_updMac (n : Nat) (g : MacSt → MacSt) (s : State) (m : Nat) : qspiOf (updMac n g s) m = qspiOf s m := rfl
@[simp] theorem ampCh_updMac (n : Nat) (g : MacSt → MacSt) (s : State) (m : Nat) : ampCh (updMac n g s) m = ampCh s m := rfl
@[simp] theorem ampMod_updMac (n : Nat) (g : MacSt → MacSt) (s : State) (m : Nat) : ampMod (updMac n g s) m = ampMod s m := rfl
@[simp] theorem laneOf_updMac (n : Nat) (g : MacSt → MacSt) (s : State) (m : Nat) : laneOf (updMac n g s) m = laneOf s m := rfl
@[simp] theorem aesOf_updMac (n : Nat) (g : MacSt → MacSt) (s : State) (m : Nat) : aesOf (updMac n g s) m = aesOf s m := rfl
@[simp] theorem rxStr_updMac (n : Nat) (g : MacSt → MacSt) (s : State) (m : Nat) : rxStr (updMac n g s) m = rxStr s m := rfl
@[simp] theorem txStr_updMac (n : Nat) (g : MacSt → MacSt) (s : State) (m : Nat) : txStr (updMac n g s) m = txStr s m := rfl
@[simp] theorem dstOf_updMac (n : Nat) (g : MacSt → MacSt) (s : State) (m : Nat) : dstOf (updMac n g s) m = dstOf s m := rfl
@[simp] theorem pulseOf_updMac (n : Nat) (g : MacSt → MacSt) (s : State) (m : Nat) : pulseOf (updMac n g s) m = pulseOf s m := rfl
@[simp] theorem ashCode_updMac (n : Nat) (g : MacSt → MacSt) (s : State) (i : Nat) : ashCode (updMac n g s) i = ashCode s i := rfl
@[simp] theorem bankQueue_updMac (n : Nat) (g : MacSt → MacSt) (s : State) (i : Nat) : bankQueue (updMac n g s) i = bankQueue s i := rfl
@[simp] theorem seatOf_updRx (n : Nat) (g : RxStr → RxStr) (s : State) (m : Nat) : seatOf (updRx n g s) m = seatOf s m := rfl
@[simp] theorem tileOf_updRx (n : Nat) (g : RxStr → RxStr) (s : State) (m : Nat) : tileOf (updRx n g s) m = tileOf s m := rfl
@[simp] theorem qspiOf_updRx (n : Nat) (g : RxStr → RxStr) (s : State) (m : Nat) : qspiOf (updRx n g s) m = qspiOf s m := rfl
@[simp] theorem ampCh_updRx (n : Nat) (g : RxStr → RxStr) (s : State) (m : Nat) : ampCh (updRx n g s) m = ampCh s m := rfl
@[simp] theorem ampMod_updRx (n : Nat) (g : RxStr → RxStr) (s : State) (m : Nat) : ampMod (updRx n g s) m = ampMod s m := rfl
@[simp] theorem laneOf_updRx (n : Nat) (g : RxStr → RxStr) (s : State) (m : Nat) : laneOf (updRx n g s) m = laneOf s m := rfl
@[simp] theorem aesOf_updRx (n : Nat) (g : RxStr → RxStr) (s : State) (m : Nat) : aesOf (updRx n g s) m = aesOf s m := rfl
@[simp] theorem macOf_updRx (n : Nat) (g : RxStr → RxStr) (s : State) (m : Nat) : macOf (updRx n g s) m = macOf s m := rfl
@[simp] theorem dstOf_updRx (n : Nat) (g : RxStr → RxStr) (s : State) (m : Nat) : dstOf (updRx n g s) m = dstOf s m := rfl
@[simp] theorem pulseOf_updRx (n : Nat) (g : RxStr → RxStr) (s : State) (m : Nat) : pulseOf (updRx n g s) m = pulseOf s m := rfl
@[simp] theorem ashCode_updRx (n : Nat) (g : RxStr → RxStr) (s : State) (i : Nat) : ashCode (updRx n g s) i = ashCode s i := rfl
@[simp] theorem bankQueue_updRx (n : Nat) (g : RxStr → RxStr) (s : State) (i : Nat) : bankQueue (updRx n g s) i = bankQueue s i := rfl
@[simp] theorem seatOf_updTx (n : Nat) (g : TxStr → TxStr) (s : State) (m : Nat) : seatOf (updTx n g s) m = seatOf s m := rfl
@[simp] theorem tileOf_updTx (n : Nat) (g : TxStr → TxStr) (s : State) (m : Nat) : tileOf (updTx n g s) m = tileOf s m := rfl
@[simp] theorem qspiOf_updTx (n : Nat) (g : TxStr → TxStr) (s : State) (m : Nat) : qspiOf (updTx n g s) m = qspiOf s m := rfl
@[simp] theorem ampCh_updTx (n : Nat) (g : TxStr → TxStr) (s : State) (m : Nat) : ampCh (updTx n g s) m = ampCh s m := rfl
@[simp] theorem ampMod_updTx (n : Nat) (g : TxStr → TxStr) (s : State) (m : Nat) : ampMod (updTx n g s) m = ampMod s m := rfl
@[simp] theorem laneOf_updTx (n : Nat) (g : TxStr → TxStr) (s : State) (m : Nat) : laneOf (updTx n g s) m = laneOf s m := rfl
@[simp] theorem aesOf_updTx (n : Nat) (g : TxStr → TxStr) (s : State) (m : Nat) : aesOf (updTx n g s) m = aesOf s m := rfl
@[simp] theorem macOf_updTx (n : Nat) (g : TxStr → TxStr) (s : State) (m : Nat) : macOf (updTx n g s) m = macOf s m := rfl
@[simp] theorem dstOf_updTx (n : Nat) (g : TxStr → TxStr) (s : State) (m : Nat) : dstOf (updTx n g s) m = dstOf s m := rfl
@[simp] theorem pulseOf_updTx (n : Nat) (g : TxStr → TxStr) (s : State) (m : Nat) : pulseOf (updTx n g s) m = pulseOf s m := rfl
@[simp] theorem ashCode_updTx (n : Nat) (g : TxStr → TxStr) (s : State) (i : Nat) : ashCode (updTx n g s) i = ashCode s i := rfl
@[simp] theorem bankQueue_updTx (n : Nat) (g : TxStr → TxStr) (s : State) (i : Nat) : bankQueue (updTx n g s) i = bankQueue s i := rfl
@[simp] theorem seatOf_updDst (n : Nat) (g : DestSt → DestSt) (s : State) (m : Nat) : seatOf (updDst n g s) m = seatOf s m := rfl
@[simp] theorem tileOf_updDst (n : Nat) (g : DestSt → DestSt) (s : State) (m : Nat) : tileOf (updDst n g s) m = tileOf s m := rfl
@[simp] theorem qspiOf_updDst (n : Nat) (g : DestSt → DestSt) (s : State) (m : Nat) : qspiOf (updDst n g s) m = qspiOf s m := rfl
@[simp] theorem ampCh_updDst (n : Nat) (g : DestSt → DestSt) (s : State) (m : Nat) : ampCh (updDst n g s) m = ampCh s m := rfl
@[simp] theorem ampMod_updDst (n : Nat) (g : DestSt → DestSt) (s : State) (m : Nat) : ampMod (updDst n g s) m = ampMod s m := rfl
@[simp] theorem laneOf_updDst (n : Nat) (g : DestSt → DestSt) (s : State) (m : Nat) : laneOf (updDst n g s) m = laneOf s m := rfl
@[simp] theorem aesOf_updDst (n : Nat) (g : DestSt → DestSt) (s : State) (m : Nat) : aesOf (updDst n g s) m = aesOf s m := rfl
@[simp] theorem macOf_updDst (n : Nat) (g : DestSt → DestSt) (s : State) (m : Nat) : macOf (updDst n g s) m = macOf s m := rfl
@[simp] theorem rxStr_updDst (n : Nat) (g : DestSt → DestSt) (s : State) (m : Nat) : rxStr (updDst n g s) m = rxStr s m := rfl
@[simp] theorem txStr_updDst (n : Nat) (g : DestSt → DestSt) (s : State) (m : Nat) : txStr (updDst n g s) m = txStr s m := rfl
@[simp] theorem pulseOf_updDst (n : Nat) (g : DestSt → DestSt) (s : State) (m : Nat) : pulseOf (updDst n g s) m = pulseOf s m := rfl
@[simp] theorem ashCode_updDst (n : Nat) (g : DestSt → DestSt) (s : State) (i : Nat) : ashCode (updDst n g s) i = ashCode s i := rfl
@[simp] theorem bankQueue_updDst (n : Nat) (g : DestSt → DestSt) (s : State) (i : Nat) : bankQueue (updDst n g s) i = bankQueue s i := rfl
@[simp] theorem seatOf_updPulse (n : Nat) (g : Pulse → Pulse) (s : State) (m : Nat) : seatOf (updPulse n g s) m = seatOf s m := rfl
@[simp] theorem tileOf_updPulse (n : Nat) (g : Pulse → Pulse) (s : State) (m : Nat) : tileOf (updPulse n g s) m = tileOf s m := rfl
@[simp] theorem qspiOf_updPulse (n : Nat) (g : Pulse → Pulse) (s : State) (m : Nat) : qspiOf (updPulse n g s) m = qspiOf s m := rfl
@[simp] theorem ampCh_updPulse (n : Nat) (g : Pulse → Pulse) (s : State) (m : Nat) : ampCh (updPulse n g s) m = ampCh s m := rfl
@[simp] theorem ampMod_updPulse (n : Nat) (g : Pulse → Pulse) (s : State) (m : Nat) : ampMod (updPulse n g s) m = ampMod s m := rfl
@[simp] theorem laneOf_updPulse (n : Nat) (g : Pulse → Pulse) (s : State) (m : Nat) : laneOf (updPulse n g s) m = laneOf s m := rfl
@[simp] theorem aesOf_updPulse (n : Nat) (g : Pulse → Pulse) (s : State) (m : Nat) : aesOf (updPulse n g s) m = aesOf s m := rfl
@[simp] theorem macOf_updPulse (n : Nat) (g : Pulse → Pulse) (s : State) (m : Nat) : macOf (updPulse n g s) m = macOf s m := rfl
@[simp] theorem rxStr_updPulse (n : Nat) (g : Pulse → Pulse) (s : State) (m : Nat) : rxStr (updPulse n g s) m = rxStr s m := rfl
@[simp] theorem txStr_updPulse (n : Nat) (g : Pulse → Pulse) (s : State) (m : Nat) : txStr (updPulse n g s) m = txStr s m := rfl
@[simp] theorem dstOf_updPulse (n : Nat) (g : Pulse → Pulse) (s : State) (m : Nat) : dstOf (updPulse n g s) m = dstOf s m := rfl
@[simp] theorem ashCode_updPulse (n : Nat) (g : Pulse → Pulse) (s : State) (i : Nat) : ashCode (updPulse n g s) i = ashCode s i := rfl
@[simp] theorem bankQueue_updPulse (n : Nat) (g : Pulse → Pulse) (s : State) (i : Nat) : bankQueue (updPulse n g s) i = bankQueue s i := rfl
@[simp] theorem seatOf_putCode (w c : Nat) (s : State) (m : Nat) : seatOf (putCode w c s) m = seatOf s m := rfl
@[simp] theorem tileOf_putCode (w c : Nat) (s : State) (m : Nat) : tileOf (putCode w c s) m = tileOf s m := rfl
@[simp] theorem qspiOf_putCode (w c : Nat) (s : State) (m : Nat) : qspiOf (putCode w c s) m = qspiOf s m := rfl
@[simp] theorem ampCh_putCode (w c : Nat) (s : State) (m : Nat) : ampCh (putCode w c s) m = ampCh s m := rfl
@[simp] theorem ampMod_putCode (w c : Nat) (s : State) (m : Nat) : ampMod (putCode w c s) m = ampMod s m := rfl
@[simp] theorem laneOf_putCode (w c : Nat) (s : State) (m : Nat) : laneOf (putCode w c s) m = laneOf s m := rfl
@[simp] theorem aesOf_putCode (w c : Nat) (s : State) (m : Nat) : aesOf (putCode w c s) m = aesOf s m := rfl
@[simp] theorem macOf_putCode (w c : Nat) (s : State) (m : Nat) : macOf (putCode w c s) m = macOf s m := rfl
@[simp] theorem rxStr_putCode (w c : Nat) (s : State) (m : Nat) : rxStr (putCode w c s) m = rxStr s m := rfl
@[simp] theorem txStr_putCode (w c : Nat) (s : State) (m : Nat) : txStr (putCode w c s) m = txStr s m := rfl
@[simp] theorem dstOf_putCode (w c : Nat) (s : State) (m : Nat) : dstOf (putCode w c s) m = dstOf s m := rfl
@[simp] theorem pulseOf_putCode (w c : Nat) (s : State) (m : Nat) : pulseOf (putCode w c s) m = pulseOf s m := rfl
@[simp] theorem seatOf_putAsh (w v : Nat) (s : State) (m : Nat) : seatOf (putAsh w v s) m = seatOf s m := rfl
@[simp] theorem tileOf_putAsh (w v : Nat) (s : State) (m : Nat) : tileOf (putAsh w v s) m = tileOf s m := rfl
@[simp] theorem qspiOf_putAsh (w v : Nat) (s : State) (m : Nat) : qspiOf (putAsh w v s) m = qspiOf s m := rfl
@[simp] theorem ampCh_putAsh (w v : Nat) (s : State) (m : Nat) : ampCh (putAsh w v s) m = ampCh s m := rfl
@[simp] theorem ampMod_putAsh (w v : Nat) (s : State) (m : Nat) : ampMod (putAsh w v s) m = ampMod s m := rfl
@[simp] theorem laneOf_putAsh (w v : Nat) (s : State) (m : Nat) : laneOf (putAsh w v s) m = laneOf s m := rfl
@[simp] theorem aesOf_putAsh (w v : Nat) (s : State) (m : Nat) : aesOf (putAsh w v s) m = aesOf s m := rfl
@[simp] theorem macOf_putAsh (w v : Nat) (s : State) (m : Nat) : macOf (putAsh w v s) m = macOf s m := rfl
@[simp] theorem rxStr_putAsh (w v : Nat) (s : State) (m : Nat) : rxStr (putAsh w v s) m = rxStr s m := rfl
@[simp] theorem txStr_putAsh (w v : Nat) (s : State) (m : Nat) : txStr (putAsh w v s) m = txStr s m := rfl
@[simp] theorem dstOf_putAsh (w v : Nat) (s : State) (m : Nat) : dstOf (putAsh w v s) m = dstOf s m := rfl
@[simp] theorem pulseOf_putAsh (w v : Nat) (s : State) (m : Nat) : pulseOf (putAsh w v s) m = pulseOf s m := rfl
@[simp] theorem seatOf_putQueue (k : Nat) (q : List Beat) (s : State) (m : Nat) : seatOf (putQueue k q s) m = seatOf s m := rfl
@[simp] theorem tileOf_putQueue (k : Nat) (q : List Beat) (s : State) (m : Nat) : tileOf (putQueue k q s) m = tileOf s m := rfl
@[simp] theorem qspiOf_putQueue (k : Nat) (q : List Beat) (s : State) (m : Nat) : qspiOf (putQueue k q s) m = qspiOf s m := rfl
@[simp] theorem ampCh_putQueue (k : Nat) (q : List Beat) (s : State) (m : Nat) : ampCh (putQueue k q s) m = ampCh s m := rfl
@[simp] theorem ampMod_putQueue (k : Nat) (q : List Beat) (s : State) (m : Nat) : ampMod (putQueue k q s) m = ampMod s m := rfl
@[simp] theorem laneOf_putQueue (k : Nat) (q : List Beat) (s : State) (m : Nat) : laneOf (putQueue k q s) m = laneOf s m := rfl
@[simp] theorem aesOf_putQueue (k : Nat) (q : List Beat) (s : State) (m : Nat) : aesOf (putQueue k q s) m = aesOf s m := rfl
@[simp] theorem macOf_putQueue (k : Nat) (q : List Beat) (s : State) (m : Nat) : macOf (putQueue k q s) m = macOf s m := rfl
@[simp] theorem rxStr_putQueue (k : Nat) (q : List Beat) (s : State) (m : Nat) : rxStr (putQueue k q s) m = rxStr s m := rfl
@[simp] theorem txStr_putQueue (k : Nat) (q : List Beat) (s : State) (m : Nat) : txStr (putQueue k q s) m = txStr s m := rfl
@[simp] theorem dstOf_putQueue (k : Nat) (q : List Beat) (s : State) (m : Nat) : dstOf (putQueue k q s) m = dstOf s m := rfl
@[simp] theorem pulseOf_putQueue (k : Nat) (q : List Beat) (s : State) (m : Nat) : pulseOf (putQueue k q s) m = pulseOf s m := rfl

/-! ## The part that changed -/

theorem tileOf_updTile (n : Nat) (g : Tile → Tile) (s : State) (m : Nat) : tileOf (updTile n g s) m = if m = n then g (tileOf s n) else tileOf s m := by
  unfold tileOf updTile
  split
  · rename_i e
    rw [e]
    exact AMap.get_set_self _ _ _ _
  · rename_i e
    exact AMap.get_set_ne _ _ _ _ e

theorem qspiOf_updQspi (n : Nat) (g : Qspi → Qspi) (s : State) (m : Nat) : qspiOf (updQspi n g s) m = if m = n then g (qspiOf s n) else qspiOf s m := by
  unfold qspiOf updQspi
  split
  · rename_i e
    rw [e]
    exact AMap.get_set_self _ _ _ _
  · rename_i e
    exact AMap.get_set_ne _ _ _ _ e

theorem ampCh_updCh (n : Nat) (g : AmpCh → AmpCh) (s : State) (m : Nat) : ampCh (updCh n g s) m = if m = n then g (ampCh s n) else ampCh s m := by
  unfold ampCh updCh
  split
  · rename_i e
    rw [e]
    exact AMap.get_set_self _ _ _ _
  · rename_i e
    exact AMap.get_set_ne _ _ _ _ e

theorem ampMod_updMod (n : Nat) (g : AmpMod → AmpMod) (s : State) (m : Nat) : ampMod (updMod n g s) m = if m = n then g (ampMod s n) else ampMod s m := by
  unfold ampMod updMod
  split
  · rename_i e
    rw [e]
    exact AMap.get_set_self _ _ _ _
  · rename_i e
    exact AMap.get_set_ne _ _ _ _ e

theorem laneOf_updLane (n : Nat) (g : LaneSt → LaneSt) (s : State) (m : Nat) : laneOf (updLane n g s) m = if m = n then g (laneOf s n) else laneOf s m := by
  unfold laneOf updLane
  split
  · rename_i e
    rw [e]
    exact AMap.get_set_self _ _ _ _
  · rename_i e
    exact AMap.get_set_ne _ _ _ _ e

theorem aesOf_updAes (n : Nat) (g : AesSt → AesSt) (s : State) (m : Nat) : aesOf (updAes n g s) m = if m = n then g (aesOf s n) else aesOf s m := by
  unfold aesOf updAes
  split
  · rename_i e
    rw [e]
    exact AMap.get_set_self _ _ _ _
  · rename_i e
    exact AMap.get_set_ne _ _ _ _ e

theorem macOf_updMac (n : Nat) (g : MacSt → MacSt) (s : State) (m : Nat) : macOf (updMac n g s) m = if m = n then g (macOf s n) else macOf s m := by
  unfold macOf updMac
  split
  · rename_i e
    rw [e]
    exact AMap.get_set_self _ _ _ _
  · rename_i e
    exact AMap.get_set_ne _ _ _ _ e

theorem rxStr_updRx (n : Nat) (g : RxStr → RxStr) (s : State) (m : Nat) : rxStr (updRx n g s) m = if m = n then g (rxStr s n) else rxStr s m := by
  unfold rxStr updRx
  split
  · rename_i e
    rw [e]
    exact AMap.get_set_self _ _ _ _
  · rename_i e
    exact AMap.get_set_ne _ _ _ _ e

theorem txStr_updTx (n : Nat) (g : TxStr → TxStr) (s : State) (m : Nat) : txStr (updTx n g s) m = if m = n then g (txStr s n) else txStr s m := by
  unfold txStr updTx
  split
  · rename_i e
    rw [e]
    exact AMap.get_set_self _ _ _ _
  · rename_i e
    exact AMap.get_set_ne _ _ _ _ e

theorem dstOf_updDst (n : Nat) (g : DestSt → DestSt) (s : State) (m : Nat) : dstOf (updDst n g s) m = if m = n then g (dstOf s n) else dstOf s m := by
  unfold dstOf updDst
  split
  · rename_i e
    rw [e]
    exact AMap.get_set_self _ _ _ _
  · rename_i e
    exact AMap.get_set_ne _ _ _ _ e

theorem pulseOf_updPulse (n : Nat) (g : Pulse → Pulse) (s : State) (m : Nat) : pulseOf (updPulse n g s) m = if m = n then g (pulseOf s n) else pulseOf s m := by
  unfold pulseOf updPulse
  split
  · rename_i e
    rw [e]
    exact AMap.get_set_self _ _ _ _
  · rename_i e
    exact AMap.get_set_ne _ _ _ _ e

@[simp] theorem ampMod_updCh (n : Nat) (g : AmpCh → AmpCh) (s : State) (m : Nat) : ampMod (updCh n g s) m = ampMod s m := rfl
@[simp] theorem ampCh_updMod (n : Nat) (g : AmpMod → AmpMod) (s : State) (m : Nat) : ampCh (updMod n g s) m = ampCh s m := rfl
@[simp] theorem aesOf_updLane (n : Nat) (g : LaneSt → LaneSt) (s : State) (m : Nat) : aesOf (updLane n g s) m = aesOf s m := rfl
@[simp] theorem laneOf_updAes (n : Nat) (g : AesSt → AesSt) (s : State) (m : Nat) : laneOf (updAes n g s) m = laneOf s m := rfl
@[simp] theorem txStr_updRx (n : Nat) (g : RxStr → RxStr) (s : State) (m : Nat) : txStr (updRx n g s) m = txStr s m := rfl
@[simp] theorem rxStr_updTx (n : Nat) (g : TxStr → TxStr) (s : State) (m : Nat) : rxStr (updTx n g s) m = rxStr s m := rfl

theorem ashCode_putCode (w c : Nat) (s : State) (x : Nat) : ashCode (putCode w c s) x = if x = w then c % 2 ^ 39 else ashCode s x := by
  unfold ashCode putCode
  split
  · rename_i e
    rw [e]
    exact AMap.get_set_self _ _ _ _
  · rename_i e
    exact AMap.get_set_ne _ _ _ _ e

theorem ashCode_putAsh (w v : Nat) (s : State) (x : Nat) :
    ashCode (putAsh w v s) x = if x = w then eccEncode v % 2 ^ 39 else ashCode s x := ashCode_putCode _ _ _ _

theorem bankQueue_putQueue (k : Nat) (q : List Beat) (s : State) (i : Nat) :
    bankQueue (putQueue k q s) i = if i = k then q else bankQueue s i := by
  unfold bankQueue putQueue
  split
  · rename_i e
    rw [e]
    exact AMap.get_set_self _ _ _ _
  · rename_i e
    exact AMap.get_set_ne _ _ _ _ e

/-! ## Several fields set one after another -/

theorem putFs_cons (p : Fld × Nat) (l : List (Fld × Nat)) (s : State) : putFs (p :: l) s = putFs l (putF p.1 p.2 s) := rfl

theorem putFs_eq (l : List (Fld × Nat)) (s : State) : putFs l s = { s with regs := (putFs l s).regs } := by
  induction l generalizing s with
  | nil => rfl
  | cons p l ih =>
    rw [putFs_cons]
    exact ih _

@[simp] theorem putFs_fuses (l : List (Fld × Nat)) (s : State) : (putFs l s).fuses = s.fuses := by rw [putFs_eq]
@[simp] theorem putFs_pins (l : List (Fld × Nat)) (s : State) : (putFs l s).pins = s.pins := by rw [putFs_eq]
@[simp] theorem putFs_live (l : List (Fld × Nat)) (s : State) : (putFs l s).live = s.live := by rw [putFs_eq]
@[simp] theorem putFs_stage (l : List (Fld × Nat)) (s : State) : (putFs l s).stage = s.stage := by rw [putFs_eq]
@[simp] theorem putFs_ctl (l : List (Fld × Nat)) (s : State) : (putFs l s).ctl = s.ctl := by rw [putFs_eq]
@[simp] theorem putFs_vsr (l : List (Fld × Nat)) (s : State) : (putFs l s).vsr = s.vsr := by rw [putFs_eq]
@[simp] theorem putFs_seats (l : List (Fld × Nat)) (s : State) : (putFs l s).seats = s.seats := by rw [putFs_eq]
@[simp] theorem putFs_qspi (l : List (Fld × Nat)) (s : State) : (putFs l s).qspi = s.qspi := by rw [putFs_eq]
@[simp] theorem putFs_fw (l : List (Fld × Nat)) (s : State) : (putFs l s).fw = s.fw := by rw [putFs_eq]
@[simp] theorem putFs_fab (l : List (Fld × Nat)) (s : State) : (putFs l s).fab = s.fab := by rw [putFs_eq]
@[simp] theorem putFs_plane (l : List (Fld × Nat)) (s : State) : (putFs l s).plane = s.plane := by rw [putFs_eq]
@[simp] theorem putFs_tiles (l : List (Fld × Nat)) (s : State) : (putFs l s).tiles = s.tiles := by rw [putFs_eq]
@[simp] theorem putFs_ash (l : List (Fld × Nat)) (s : State) : (putFs l s).ash = s.ash := by rw [putFs_eq]
@[simp] theorem putFs_ptp (l : List (Fld × Nat)) (s : State) : (putFs l s).ptp = s.ptp := by rw [putFs_eq]
@[simp] theorem putFs_media (l : List (Fld × Nat)) (s : State) : (putFs l s).media = s.media := by rw [putFs_eq]
@[simp] theorem putFs_pair (l : List (Fld × Nat)) (s : State) : (putFs l s).pair = s.pair := by rw [putFs_eq]
@[simp] theorem putFs_pwr (l : List (Fld × Nat)) (s : State) : (putFs l s).pwr = s.pwr := by rw [putFs_eq]
@[simp] theorem putFs_rte (l : List (Fld × Nat)) (s : State) : (putFs l s).rte = s.rte := by rw [putFs_eq]
@[simp] theorem putFs_dyn (l : List (Fld × Nat)) (s : State) : (putFs l s).dyn = s.dyn := by rw [putFs_eq]
@[simp] theorem putFs_port (l : List (Fld × Nat)) (s : State) : (putFs l s).port = s.port := by rw [putFs_eq]
@[simp] theorem putFs_net (l : List (Fld × Nat)) (s : State) : (putFs l s).net = s.net := by rw [putFs_eq]
@[simp] theorem putFs_str (l : List (Fld × Nat)) (s : State) : (putFs l s).str = s.str := by rw [putFs_eq]
@[simp] theorem putFs_ptpIo (l : List (Fld × Nat)) (s : State) : (putFs l s).ptpIo = s.ptpIo := by rw [putFs_eq]
@[simp] theorem putFs_clk (l : List (Fld × Nat)) (s : State) : (putFs l s).clk = s.clk := by rw [putFs_eq]
@[simp] theorem putFs_oenDark (l : List (Fld × Nat)) (s : State) : (putFs l s).oenDark = s.oenDark := by rw [putFs_eq]
@[simp] theorem putFs_amp (l : List (Fld × Nat)) (s : State) : (putFs l s).amp = s.amp := by rw [putFs_eq]
@[simp] theorem putFs_out (l : List (Fld × Nat)) (s : State) : (putFs l s).out = s.out := by rw [putFs_eq]
@[simp] theorem putFs_free (l : List (Fld × Nat)) (s : State) : (putFs l s).free = s.free := by rw [putFs_eq]
@[simp] theorem putFs_pending (l : List (Fld × Nat)) (s : State) : (putFs l s).pending = s.pending := by rw [putFs_eq]

end Sys2Proof.Machine
end

