-- ==== Sys2Proof/Laws/Told.lean ====
section
/-! SUPPORT. What telling a seat can do: events, interrupts, and what leaves the block. -/

namespace Sys2Proof.Machine

theorem Told.refl (s : State) : Told s s := ⟨rfl, fun _ _ _ => rfl, fun _ => rfl⟩

theorem Told.trans {s t u : State} (h : Told s t) (k : Told t u) : Told s u where
  rest := by rw [k.rest, h.rest]
  regs := fun i d e => (k.regs i d e).trans (h.regs i d e)
  seats := fun n => by rw [k.seats n, h.seats n]

theorem Told.getF {s t : State} (h : Told s t) (f : Fld) (e : tellKey f.key = false) : getF t f = getF s f := h.regs f.key f.reset e

theorem Told.putF {s t : State} (h : Told s t) (f : Fld) (v : Nat) (e : tellKey f.key = true) : Told s (putF f v t) where
  rest := by rw [putF_regs, h.rest]
  regs := fun k d i => by
    refine Eq.trans ?_ (h.regs k d i)
    have : k ≠ f.key := fun x => by rw [x, e] at i; exact absurd i (by simp)
    simp only [Machine.putF, AMap.get_set_ne _ _ _ _ this]
  seats := fun n => h.seats n

theorem Told.emit {s t : State} (h : Told s t) (k : OutKind) (d : List Nat) : Told s (emit k d t) where
  rest := by rw [Machine.emit, h.rest]
  regs := h.regs
  seats := h.seats

/-- A seat of a state whose seat was changed. -/
theorem seatOf_updSeat (n m : Nat) (f : Seat → Seat) (s : State) :
    seatOf (updSeat n f s) m = if m = n then f (seatOf s n) else seatOf s m := by
  unfold seatOf updSeat
  split
  · rename_i e
    rw [e]
    exact AMap.get_set_self _ _ _ _
  · rename_i e
    exact AMap.get_set_ne _ _ _ _ e

theorem Told.updSeat {s t : State} (h : Told s t) (n : Nat) (f : Seat → Seat)
    (e : ∀ x, f x = { x with
      mail := (f x).mail
      hold := (f x).hold
      dropped := (f x).dropped }) : Told s (updSeat n f t) where
  rest := by rw [Machine.updSeat, h.rest]
  regs := h.regs
  seats := fun m => by
    rw [seatOf_updSeat]
    split
    · rename_i i
      rw [i, e (seatOf t n), h.seats n]
    · exact h.seats m

theorem putMail_seat (ws : List Nat) (off : Nat) (x : Seat) : putMail off ws x = { x with mail := (putMail off ws x).mail } := by
  induction ws generalizing off x with
  | nil => rfl
  | cons w ws ih =>
    rw [putMail, ih]

theorem tellKey_of (a lo : Nat) (n : Nat) (hl : lo < 32) (h : a = 0x20100108 ∨ a = 0x2010010C ∨ a = 0x20100110) :
    tellKey ((a + 16384 * n) * 32 + lo) = true := by
  unfold tellKey
  have e : ((a + 16384 * n) * 32 + lo) / 32 % 16384 = a % 16384 := by omega
  rw [e]
  rcases h with rfl | rfl | rfl <;> simp <;> omega

@[simp] theorem tellKey_head (n : Nat) : tellKey (EV_HEAD_HEAD n).key = true := tellKey_of _ 0 n (by decide) (by simp)
@[simp] theorem tellKey_tail (n : Nat) : tellKey (EV_TAIL_TAIL n).key = true := tellKey_of _ 0 n (by decide) (by simp)
@[simp] theorem tellKey_irq (n b : Nat) : tellKey (irqField n b).key = true := by
  unfold irqField
  split
  · exact tellKey_of _ 0 n (by decide) (by simp)
  · exact tellKey_of _ 1 n (by decide) (by simp)
  · exact tellKey_of _ 2 n (by decide) (by simp)
  · exact tellKey_of _ 3 n (by decide) (by simp)
  · exact tellKey_of _ 4 n (by decide) (by simp)

theorem Told.irq {s t : State} (h : Told s t) (n b : Nat) : Told s (irq n b t) := by
  unfold Machine.irq
  split
  · exact h
  · split
    · exact (h.putF _ _ (tellKey_irq n b)).emit _ _
    · exact h.putF _ _ (tellKey_irq n b)

theorem Told.irqAll {s t : State} (h : Told s t) (b : Nat) : Told s (irqAll b t) :=
  (((h.irq 0 b).irq 1 b).irq 2 b).irq 3 b

theorem Told.writeRing {s t : State} (h : Told s t) (n : Nat) (e : Ev) : Told s (writeRing n e t) := by
  unfold Machine.writeRing
  split
  · exact ((h.emit _ _).putF _ _ (tellKey_tail n)).putF _ _ (tellKey_head n)
  · exact ((h.updSeat n _ (fun x => by rw [putMail_seat])).putF _ _ (tellKey_head n)).irq n 1

theorem Told.raiseTo {s t : State} (h : Told s t) (n : Nat) (e : Ev) : Told s (raiseTo n e t) := by
  unfold Machine.raiseTo
  split
  · exact h
  · extract_lets x
    split
    · exact h.updSeat n _ (fun _ => rfl)
    · split
      · exact h.writeRing n e
      · split <;> exact h.updSeat n _ (fun _ => rfl)

theorem Told.pumpEvents {s t : State} (h : Told s t) (n k : Nat) : Told s (pumpEvents n k t) := by
  induction k generalizing t with
  | zero => exact h
  | succ k ih =>
    unfold Machine.pumpEvents
    extract_lets x
    split
    · exact h
    · split
      · exact ih ((h.updSeat n _ (fun _ => rfl)).writeRing _ _)
      · split
        · exact h
        · exact (h.updSeat n _ (fun _ => rfl)).writeRing _ _

theorem Told.raiseSeats {s t : State} (h : Told s t) (ns : List Nat) (code : Nat) (ws : List Nat) : Told s (raiseSeats ns code ws t) := by
  unfold Machine.raiseSeats
  induction ns generalizing t with
  | nil => exact h
  | cons n ns ih => exact ih (h.raiseTo n _)

theorem Told.raiseAll {s t : State} (h : Told s t) (code : Nat) (ws : List Nat) : Told s (raiseAll code ws t) := h.raiseSeats _ _ _

theorem Told.raiseOwner {s t : State} (h : Told s t) (kind idx code : Nat) (ws : List Nat) : Told s (raiseOwner kind idx code ws t) :=
  h.raiseSeats _ _ _

theorem Told.pairEvent {s t : State} (h : Told s t) : Told s (pairEvent t) := h.raiseAll _ _

/-- A watched change tells the seats, and does nothing else beside the change. -/
theorem watchLife_told (f : State → State) (s : State) : Told (f s) (watchLife f s) := by
  unfold watchLife
  extract_lets s1
  split
  · exact Told.refl _
  · exact (Told.refl _).irqAll 4

end Sys2Proof.Machine
end

