-- ==== Sys2Proof/WellFormed.lean ====
section
/-! DEFINITION. The commands whose operands lie in the ranges that the spec gives them. -/

namespace Sys2Proof

/-- Below 4294967296: 32 bits (R9). -/
def isWord (n : Nat) : Bool := decide (n < 4294967296)

/-- Below 4: a seat (R332). -/
def isSeat (n : Nat) : Bool := decide (n < 4)

/-- Below 32: a tile (R44). -/
def isTile (n : Nat) : Bool := decide (n < 32)

/-- Below 128: an Ashlar bank (R93). -/
def isBank (n : Nat) : Bool := decide (n < 128)

/-- Below 8192: a slot line or an engine line (R37). -/
def isLine (n : Nat) : Bool := decide (n < 8192)

/-- Below 32768: a course cycle (R23). -/
def isCycle (n : Nat) : Bool := decide (n < 32768)

/-- Below 1024: a dynamics instance (R155). -/
def isDyn (n : Nat) : Bool := decide (n < 1024)

/-- Below 4096: a destination (R143). -/
def isDest (n : Nat) : Bool := decide (n < 4096)

/-- Below 16: a master (R316). -/
def isMaster (n : Nat) : Bool := decide (n < 16)

/-- Below 16: a transaction ID (R319). -/
def isId (n : Nat) : Bool := decide (n < 16)

/-- Below 48: a serial lane (R164). -/
def isLane (n : Nat) : Bool := decide (n < 48)

/-- Below 6: a lane group (R164). -/
def isGroup (n : Nat) : Bool := decide (n < 6)

/-- Below 8: an AES3 receiver, transmitter or buffer (R172). -/
def isAes (n : Nat) : Bool := decide (n < 8)

/-- Below 64: a rate converter (R175). -/
def isAsrc (n : Nat) : Bool := decide (n < 64)

/-- Below 4: a MAC (R182). -/
def isMac (n : Nat) : Bool := decide (n < 4)

/-- Below 2: a ring (R193). -/
def isRing (n : Nat) : Bool := decide (n < 2)

/-- Below 2: which half of a boundary clock period (R231). -/
def isHalf (n : Nat) : Bool := decide (n < 2)

/-- Below 2: an MDIO bus (R187). -/
def isBus (n : Nat) : Bool := decide (n < 2)

/-- Below 8: an event output (R228). -/
def isPulse (n : Nat) : Bool := decide (n < 8)

/-- Below 8: a capture input (R229). -/
def isCap (n : Nat) : Bool := decide (n < 8)

/-- Below 8: a reference (R234). -/
def isRef (n : Nat) : Bool := decide (n < 8)

/-- Below 64: a band (R254). -/
def isBand (n : Nat) : Bool := decide (n < 64)

/-- Below 2: a rail voltage of a calibration (R256). -/
def isRail (n : Nat) : Bool := decide (n < 2)

/-- Below 2: a word clock output (R260). -/
def isWco (n : Nat) : Bool := decide (n < 2)

/-- Below 7: a monitored rail (R396). -/
def isSupply (n : Nat) : Bool := decide (n < 7)

/-- Below 32: an amplifier channel (R263). -/
def isChannel (n : Nat) : Bool := decide (n < 32)

/-- Below 8: a stage-bus module (R278). -/
def isModule (n : Nat) : Bool := decide (n < 8)

/-- Below 4: a PCIe function (R334). -/
def isPf (n : Nat) : Bool := decide (n < 4)

/-- Below 2: a QSPI port (R327, R337). -/
def isPort (n : Nat) : Bool := decide (n < 2)

/-- Below 256: a byte. -/
def isByte (n : Nat) : Bool := decide (n < 256)

/-- Below 4: a two-bit strap (R326). -/
def isStrap (n : Nat) : Bool := decide (n < 4)

/-- Below 65536: 16 bits. -/
def isHalfword (n : Nat) : Bool := decide (n < 65536)

/-- Below 4: a log with a POP. -/
def isLog (n : Nat) : Bool := decide (n < 4)

/-- Below 16: an ASH_PWR register (R106). -/
def isPwrWord (n : Nat) : Bool := decide (n < 16)

/-- Below 8: a data word of a table window (R163, R219). -/
def isDataWord (n : Nat) : Bool := decide (n < 8)

/-- Below 4: a data word of the route table window (R163). -/
def isRteWord (n : Nat) : Bool := decide (n < 4)

/-- Below 2: a unit or a boot interface. -/
def isUnit (n : Nat) : Bool := decide (n < 2)

/-- Words of 32 bits. -/
def isWords (l : List Nat) : Bool := l.all isWord

/-- Bytes. -/
def isBytes (l : List Nat) : Bool := l.all isByte

/-- Whether a request comes from one of the four seats, with a sequence number modulo 256 and words of 32 bits (R332, R343). -/
def FwReq.wf (r : FwReq) : Bool :=
  isSeat r.seat && isByte r.seq && decide (r.words.length ≤ 250) && isWords r.words

/-- Whether a command names a seat, tile, bank, lane or other unit that the part can have, and carries words that fit the
registers they go to. A command that names a unit which the fused variant lacks is well formed: what it does is its meaning. -/
def Instr.wf : Instr → Bool
  | .powerOnReset => true
  | .pinReset => true
  | .ctlReset => true
  | .fabReset => true
  | .seatReset seat => isSeat seat
  | .ashlarFillDone => true
  | .bootWindowPost ifc => isUnit ifc
  | .bootRetry => true
  | .firmwareEntry => true
  | .remapWrite value => isWord value
  | .trialConfirm => true
  | .watchdogKick _ value => isWord value
  | .watchdogExpiry => true
  | .lockstepMismatch => true
  | .registerWrite addr value => isWord addr && isWord value
  | .cpoWrite value complement => isWord value && isWord complement
  | .ciReadCapture => true
  | .lifeCiRead seat => isSeat seat
  | .fabStart => true
  | .fabStop => true
  | .courseBoundary => true
  | .familyChangeRestart => true
  | .gapLoadComplete => true
  | .tileArm tile => isTile tile
  | .tileStop tile => isTile tile
  | .tileBundleIssue tile => isTile tile
  | .tileBankAccess tile => isTile tile
  | .ashlarLanding tile => isTile tile
  | .engineGrantAccess code _ _ line cycle => isByte code && isLine line && isCycle cycle
  | .routeWindow => true
  | .dynWindow => true
  | .routeResyncDone => true
  | .dynResyncDone instn => isDyn instn
  | .silenceCoalesceExpiry dest => isDest dest
  | .rteTableWrite n value => isRteWord n && isWord value
  | .dynTableWrite n value => isDataWord n && isWord value
  | .strTableWrite n value => isDataWord n && isWord value
  | .aesDataAccess _ value => isWord value
  | .logPop which => isLog which
  | .ashlarBeatAccept master id _ line strobes data => isMaster master && isId id && isWord line && isWord strobes && isWords data && decide (data.length = 8)
  | .ashlarBeatServe bank cycle => isBank bank && isCycle cycle
  | .mergedWrite bank => isBank bank
  | .scrubLine bank cycle _ => isBank bank && isCycle cycle
  | .scrubWriteback bank => isBank bank
  | .scrubPeriodStart => true
  | .bankPowerWrite n value complement => isPwrWord n && isWord value && isWord complement
  | .bankTransitionDone bank => isBank bank
  | .serialFrameIn lane _ cycle ratio => isLane lane && isCycle cycle && isWord ratio
  | .serialFrameOut lane cycle ratio => isLane lane && isCycle cycle && isWord ratio
  | .nonaudioHoldExpiry receiver index => (if receiver then isAes index else isLane index)
  | .serialClockLoss group => isGroup group
  | .aes3RxFrame receiver _ _ _ _ _ _ ratio => isAes receiver && isWord ratio
  | .aes3LockLoss receiver => isAes receiver
  | .aes3BlockStart _ port _ _ _ _ => isAes port
  | .aes3TxCommit transmitter => isAes transmitter
  | .asrcAcquireLock instn ratio fill => isAsrc instn && isWord ratio && isWord fill
  | .asrcSourceLost instn => isAsrc instn
  | .asrcFifoEmpty instn => isAsrc instn
  | .macLinkChange mac _ _ _ _ => isMac mac
  | .macRxFrame mac bytes _ _ half => isMac mac && isBytes bytes && isHalf half
  | .ringFrameDeliver mac => isMac mac
  | .txChainFetch mac ring => isMac mac && isRing ring
  | .macTxFrameStart mac half => isMac mac && isHalf half
  | .pauseExpiry mac => isMac mac
  | .pauseWatchdogExpiry mac => isMac mac
  | .pauseIgnoreEnd mac => isMac mac
  | .macCounterSnap mac => isMac mac
  | .ringEnable mac _ ring _ => isMac mac && isRing ring
  | .mdioPoll mac => isMac mac
  | .mdioTransaction bus value => isBus bus && isWord value
  | .mdioDone bus data => isBus bus && isHalfword data
  | .incWrite hi => isWord hi
  | .ptpTimeCapture => true
  | .ptpSet => true
  | .ptpStep _ => true
  | .cstampReadCapture => true
  | .pulseArm output _ _ _ => isPulse output
  | .pulseEdge output => isPulse output
  | .pulseFall output => isPulse output
  | .captureEdge input _ => isCap input
  | .captureFifoRead input => isCap input
  | .systemPllLoss => true
  | .ptpMessageRx _ _ gmClass gmAcc prio _ delay => isWord gmClass && isWord gmAcc && isWord prio && isWord delay
  | .announceTimeout => true
  | .refPhaseEvent ref _ => isRef ref
  | .refEvalTick _ => true
  | .refAbsence ref _ => isRef ref
  | .refWtrExpiry ref => isRef ref
  | .refDqExpiry ref => isRef ref
  | .switchAveragingDone => true
  | .buildOutBleedDone => true
  | .dpllLockDetect => true
  | .dpllUnlockDetect => true
  | .holdoverHistoryTick => true
  | .openTimeout => true
  | .phaseStepWrite value => isWord value
  | .phaseStepApply => true
  | .synthEnable => true
  | .synthLock _ => true
  | .synthLockLoss _ => true
  | .synthRelock => true
  | .bandCalStart band rail => isBand band && isRail rail
  | .bandCalDone freq => isWord freq
  | .wcoArm output edge => isWco output && isWord edge
  | .wcoTrackAlign output edge => isWco output && isWord edge
  | .carrierPeriod channel current voltage => isChannel channel && isWord current && isWord voltage
  | .overcurrentTrip channel level => isChannel channel && isWord level
  | .tripInput channel _ => isChannel channel
  | .tripHoldExpiry channel => isChannel channel
  | .managementSlot => true
  | .statusSlotEnd => true
  | .mklFrameRx frame => isBytes frame
  | .discoverTimer mdl => isModule mdl
  | .ampClearWrite value => isWord value
  | .emuteInput _ => true
  | .claimInFall => true
  | .claimInRise => true
  | .claimWindowEnd => true
  | .claimClockStop => true
  | .linkTraining unit _ _ delay => isUnit unit && isWord delay
  | .trainingModeTimeout => true
  | .linkFault => true
  | .retrain => true
  | .linkFrameRx _ kind words => isByte kind && isWords words
  | .recordRx record _ => isBytes record
  | .recordDeadlineMiss => true
  | .skewTimer => true
  | .voussoirRequest master id _ addr size beats data _ => isMaster master && isId id && isWord addr && decide (size ∣ 32) && decide (1 ≤ beats) && decide (beats ≤ 256) && isWords data
  | .masterReset master => isMaster master
  | .masterResetCut master => isMaster master
  | .pcieLinkDown => true
  | .pcieFlr pf => isPf pf
  | .bar2Access pf _ off _ data => isPf pf && isWord off && isBytes data
  | .qspiWrite port bytes => isPort port && isBytes bytes
  | .qspiRead port header clocked => isPort port && isBytes header && isWord clocked
  | .qspiStatus port => isPort port
  | .udpMailboxDatagram mac srcAddr srcPort dstPort words => isMac mac && isWord srcAddr && isHalfword srcPort && isHalfword dstPort && isWords words
  | .mailboxPost seat => isSeat seat
  | .evTailWrite seat value => isSeat seat && isWord value
  | .leaseWarning seat => isSeat seat
  | .leaseExpiry seat => isSeat seat
  | .lifeReleaseArm seat => isSeat seat
  | .lifeReleaseKey seat => isSeat seat
  | .lifeReleaseArmExpiry seat => isSeat seat
  | .lifeMuteWrite seat value complement => isSeat seat && isWord value && isWord complement
  | .lifeBeatTick => true
  | .pieceVerifyDone => true
  | .supplyAlarm rail => isSupply rail
  | .temperatureSample _ => true
  | .quietEntry => true
  | .quietExit => true
  | .restEntry => true
  | .wakeEvent source => isByte source
  | .wakeFabricStart => true
  | .sysCaps r => r.wf
  | .sysReset r => r.wf
  | .sysLife r => r.wf
  | .sysMute r => r.wf
  | .sysCancel r => r.wf
  | .sysSched r => r.wf
  | .seatAttach r => r.wf
  | .seatRenew r => r.wf
  | .seatDetach r => r.wf
  | .seatGive r => r.wf
  | .seatTake r => r.wf
  | .seatAdopt r => r.wf
  | .seatRelease r => r.wf
  | .seatQuota r => r.wf
  | .seatBind r => r.wf
  | .seatPerm r => r.wf
  | .seatSubscribe r => r.wf
  | .seatList r => r.wf
  | .imgBegin r => r.wf
  | .imgPiece r => r.wf
  | .imgData r => r.wf
  | .imgCommit r => r.wf
  | .imgAbort r => r.wf
  | .imgStatus r => r.wf
  | .imgPath r => r.wf
  | .imgLend r => r.wf
  | .imgKey r => r.wf
  | .paramWrite r => r.wf
  | .paramRead r => r.wf
  | .routeStage r => r.wf
  | .routeCommit r => r.wf
  | .routeDest r => r.wf
  | .routeSilence r => r.wf
  | .routeRead r => r.wf
  | .routeDstat r => r.wf
  | .routeDiscard r => r.wf
  | .dynStage r => r.wf
  | .dynRead r => r.wf
  | .portGroup r => r.wf
  | .portLane r => r.wf
  | .portAesrx r => r.wf
  | .portAestx r => r.wf
  | .portCstat r => r.wf
  | .portAsrc r => r.wf
  | .portOuten r => r.wf
  | .portStatus r => r.wf
  | .netMac r => r.wf
  | .netIp r => r.wf
  | .netPhy r => r.wf
  | .netMdio r => r.wf
  | .netStats r => r.wf
  | .streamRx r => r.wf
  | .streamTx r => r.wf
  | .streamMap r => r.wf
  | .streamEnable r => r.wf
  | .streamDelete r => r.wf
  | .streamStatus r => r.wf
  | .timePtp r => r.wf
  | .timeStatus r => r.wf
  | .timeCpo r => r.wf
  | .timeReanchor r => r.wf
  | .timePulse r => r.wf
  | .timeCapture r => r.wf
  | .timeCapread r => r.wf
  | .timeLatency r => r.wf
  | .clkRef r => r.wf
  | .clkSelect r => r.wf
  | .clkDpll r => r.wf
  | .clkFreq r => r.wf
  | .clkStep r => r.wf
  | .clkQuality r => r.wf
  | .clkOutput r => r.wf
  | .clkStatus r => r.wf
  | .ampChannel r => r.wf
  | .ampGroup r => r.wf
  | .ampBus r => r.wf
  | .ampOuten r => r.wf
  | .ampClear r => r.wf
  | .ampStatus r => r.wf
  | .pairConfig r => r.wf
  | .pairStatus r => r.wf
  | .pairRejoin r => r.wf
  | .pairRestate r => r.wf
  | .pairReframe r => r.wf
  | .pairRetrain r => r.wf
  | .pwrState r => r.wf
  | .pwrBanks r => r.wf
  | .pwrScrub r => r.wf
  | .pwrStatus r => r.wf
  | .diagRead r => r.wf
  | .diagCounts r => r.wf
  | .diagLog r => r.wf
  | .diagInject r => r.wf
  | .diagSvn r => r.wf
  | .diagDebug r => r.wf
  | .resetRelease bootSrc seatMap _ _ => isStrap bootSrc && isStrap seatMap
  | .systemPllRelock => true
  | .supplyAlarmClear => true
  | .pcieLinkUp => true

end Sys2Proof
end

