-- ==== Sys2Proof/Tests/Slice0.lean ====
section
/-! SUPPORT. The model's own tests: WellFormed refuses an ill-formed term for each of its checks; a few results that the spec's
tables and formulas give; and for every obligation with hypotheses the witnesses that some state and operands meet them, one
theorem for each clause (`witness_<obligation>_<clause>`). -/

namespace Sys2Proof.Tests

open Sys2Proof Sys2Proof.Machine

/-! ## WellFormed -/

theorem test_wf_refuses_word : Instr.wf (.cpoWrite 4294967296 0) = false := by decide

theorem test_wf_refuses_seat : Instr.wf (.mailboxPost 4) = false := by decide

theorem test_wf_refuses_tile : Instr.wf (.tileArm 32) = false := by decide

theorem test_wf_refuses_bank : Instr.wf (.ashlarBeatServe 128 0) = false := by decide

theorem test_wf_refuses_line : Instr.wf (.engineGrantAccess 0 false false 8192 0) = false := by decide

theorem test_wf_refuses_cycle : Instr.wf (.ashlarBeatServe 0 32768) = false := by decide

theorem test_wf_refuses_dyn : Instr.wf (.dynResyncDone 1024) = false := by decide

theorem test_wf_refuses_dest : Instr.wf (.silenceCoalesceExpiry 4096) = false := by decide

theorem test_wf_refuses_master : Instr.wf (.ashlarBeatAccept 16 0 false 0 0 [0, 0, 0, 0, 0, 0, 0, 0]) = false := by decide

theorem test_wf_refuses_id : Instr.wf (.ashlarBeatAccept 0 16 false 0 0 [0, 0, 0, 0, 0, 0, 0, 0]) = false := by decide

theorem test_wf_refuses_lane : Instr.wf (.serialFrameIn 48 0 0 0) = false := by decide

theorem test_wf_refuses_group : Instr.wf (.serialClockLoss 6) = false := by decide

theorem test_wf_refuses_aes : Instr.wf (.aes3LockLoss 8) = false := by decide

theorem test_wf_refuses_asrc : Instr.wf (.asrcAcquireLock 64 0 0) = false := by decide

theorem test_wf_refuses_mac : Instr.wf (.macLinkChange 4 false false 0 false) = false := by decide

theorem test_wf_refuses_ring : Instr.wf (.txChainFetch 0 2) = false := by decide

theorem test_wf_refuses_half : Instr.wf (.macRxFrame 0 [] false false 2) = false := by decide

theorem test_wf_refuses_bus : Instr.wf (.mdioTransaction 2 0) = false := by decide

theorem test_wf_refuses_pulse : Instr.wf (.pulseArm 8 false false false) = false := by decide

theorem test_wf_refuses_cap : Instr.wf (.captureEdge 8 false) = false := by decide

theorem test_wf_refuses_ref : Instr.wf (.refPhaseEvent 8 0) = false := by decide

theorem test_wf_refuses_band : Instr.wf (.bandCalStart 64 0) = false := by decide

theorem test_wf_refuses_rail : Instr.wf (.bandCalStart 0 2) = false := by decide

theorem test_wf_refuses_wco : Instr.wf (.wcoArm 2 0) = false := by decide

theorem test_wf_refuses_supply : Instr.wf (.supplyAlarm 7) = false := by decide

theorem test_wf_refuses_channel : Instr.wf (.carrierPeriod 32 0 0) = false := by decide

theorem test_wf_refuses_module : Instr.wf (.discoverTimer 8) = false := by decide

theorem test_wf_refuses_pf : Instr.wf (.pcieFlr 4) = false := by decide

theorem test_wf_refuses_port : Instr.wf (.qspiWrite 2 []) = false := by decide

theorem test_wf_refuses_byte : Instr.wf (.linkFrameRx false 256 []) = false := by decide

theorem test_wf_refuses_strap : Instr.wf (.resetRelease 4 0 false false) = false := by decide

theorem test_wf_refuses_halfword : Instr.wf (.mdioDone 0 65536) = false := by decide

theorem test_wf_refuses_log : Instr.wf (.logPop 4) = false := by decide

theorem test_wf_refuses_pwrWord : Instr.wf (.bankPowerWrite 16 0 0) = false := by decide

theorem test_wf_refuses_dataWord : Instr.wf (.dynTableWrite 8 0) = false := by decide

theorem test_wf_refuses_rteWord : Instr.wf (.rteTableWrite 4 0) = false := by decide

theorem test_wf_refuses_unit : Instr.wf (.bootWindowPost 2) = false := by decide

theorem test_wf_refuses_words : Instr.wf (.udpMailboxDatagram 0 0 0 0 [4294967296]) = false := by decide

theorem test_wf_refuses_bytes : Instr.wf (.mklFrameRx [256]) = false := by decide

theorem test_wf_refuses_size : Instr.wf (.voussoirRequest 0 0 false 0 3 1 [] false) = false := by decide

theorem test_wf_refuses_beats : Instr.wf (.voussoirRequest 0 0 false 0 4 0 [] false) = false := by decide

theorem test_wf_refuses_beat_data : Instr.wf (.ashlarBeatAccept 0 0 false 0 0 []) = false := by decide

theorem test_wf_refuses_request_seat : Instr.wf (.sysCaps ⟨4, 0, false, []⟩) = false := by decide

theorem test_wf_refuses_request_words : Instr.wf (.sysCaps ⟨0, 0, false, [4294967296]⟩) = false := by decide

theorem test_wf_accepts : Instr.wf (.sysCaps ⟨3, 255, true, [4294967295]⟩) = true := by decide

/-! ## Results that the spec's worked examples give -/

/-- The column example of chapter 5: check bits of 5, bit 2 flipped, bits 0 and 2 flipped. -/
theorem test_ecc_example : eccEncode 5 = 5 + 2 ^ 32 * 0x0A ∧ eccDecode (1 + 2 ^ 32 * 0x0A) = .corrected 5 0x0D ∧
    eccDecode (2 ^ 32 * 0x0A) = .bad 0x0A := by decide

/-- The course index of a festival main stage (chapter 2), at 48 kHz and at 96 kHz. -/
theorem test_course_index_example :
    ciAt ((1790000000 * 1000000000 + 250000) * 2 ^ 32) 0 48000 = 85920000000012 ∧
    ciAt ((1790000000 * 1000000000 + 250000) * 2 ^ 32) 0 96000 = 171840000000024 := by decide

/-- Its low 32 bits are the RTP timestamp. -/
theorem test_rtp_timestamp_example : lo32 85920000000012 = 0xCF14400C ∧ lo32 171840000000024 = 0x9E288018 := by decide

/-- A compare across the wrap (chapter 2). -/
theorem test_compare_wrap_example : toS 32 (0x00000100 + 2 ^ 32 - 0xFFFFFF00) = 512 := by decide

/-- LIN of a one-pulse-per-second output (chapter 11), and START as its two registers hold it. -/
theorem test_lin_example : linOf (1790000000 * 1000000000 * 2 ^ 32) = 100623096938496 ∧
    hi32 100624096938496 = 0x5B84 ∧ lo32 100624096938496 = 0x5F8DCA00 := by decide

/-- The budgets of R299 at 48 kHz, and at the two other rates that it names. -/
theorem test_budget_table :
    [4, 2, 1].map (fun l => (List.range 4).map (fun r => budgetOf l r 48000 / 1024)) =
      [[142, 110, 88, 55], [71, 55, 44, 27], [35, 27, 22, 13]] ∧
    budgetOf 4 0 48000 = 145408 ∧ budgetOf 4 0 96000 = 71 * 1024 ∧ budgetOf 4 0 44100 = 154 * 1024 := by decide

/-- P of R236's table in units of 1 / (16 × 28,224,000) ns: a 25 Hz frame pulse and 10 MHz, in the 48 kHz family. -/
theorem test_reference_period_table :
    refPeriod (putF (CLK_REF_DIVN_N 1) 1920 State.reset) 1 = 16 * 28224000 * 40000000 ∧
    refPeriod (putF (CLK_REF_DIVN_N 1) 3 State.reset) 1 = 16 * 28224000 * 62500 := by decide

/-- The header pairs of the tiny image (chapter 6). -/
theorem test_pair_example : not32 0x50415631 = 0xAFBEA9CE ∧ not32 0x00400100 = 0xFFBFFEFF ∧ not32 0x7E1A0003 = 0x81E5FFFC := by
  decide


/-! ## States for the witnesses -/

/-- Fields set to values. -/
def on (l : List (Fld × Nat)) (s : State) : State := putFs l s

/-- A request with sequence number 0. -/
def rq (seat : Nat) (ws : List Nat) : FwReq := ⟨seat, 0, false, ws⟩

/-- The firmware runs, seat 0 is attached. -/
def up : State :=
  on [(LIFE_STATUS_FW_UP, 1), (DB_STAT_ATTACHED 0, 1), (HOST_PERM_MUTE_OK 0, 1), (HOST_LIM_WIN_WORDS 0, 1024),
    (HOST_WIN_WIN_BASE 0, 131072)]
    { State.reset with ctl := { State.reset.ctl with boot := .firmware, pcieUp := true } }

/-- An image with nothing in it. -/
def img0 : Img where
  id := 7
  len := 0
  compat := 0
  family := 0
  rm := 1
  need := 0
  tileMask := 0
  recordBytes := 0
  progs := []
  inits := []
  cal := Cal.init
  destSlots := []
  routes := []
  hasRoute := false
  dyns := []
  hasDyn := false
  pages := [(1, 131072, 132096)]
  carried := []
  hasCarried := false
  digest := []
  hasDigest := false
  lend := []
  regions := []
  latency := [⟨0, 0, 2, 100, 1, 0, false⟩]
  sha := []

/-- The firmware runs, the fabric runs at 1 x with an image. -/
def run : State :=
  on [(FAB_TL_STATUS_RUNNING, 1), (FAB_TL_STATUS_RM, 1), (FAB_STAT_IMG_STATE, 4), (CLK_SYN_STAT_LOCK, 1)]
    { up with fab := { up.fab with img := some img0, ci := 1000 } }

/-- The state with a part of the fabric changed. -/
def fab (s : State) (f : Fab → Fab) : State := { s with fab := f s.fab }

/-- A running fabric with a route, dynamics, and slots to bind: line 10 of the port engine, line 11 of the stream engine, line 12
of the route engine, read by the engines of ports, streams and amplifier. -/
def rich : State :=
  fab run (fun f => { f with
    cal := { Cal.init with
      dynCap := 4
      routeCap := 8
      map := [(0, 0x23), (10, 0x224), (11, 0x220), (12, 0x222)]
      slotR := [(769, 0x24), (770, 0x20), (771, 0x25)] }
    img := some { img0 with
      destSlots := [96, 97]
      lend := [⟨0, 5, 3⟩]
      regions := [⟨3, 0, 4096, 65535⟩] } })

/-- The same with an envelope path from slot 5 to slot 96. -/
def envy : State := fab rich (fun f => { f with img := some { img0 with
  destSlots := [96, 97]
  latency := [⟨5, 96, 2, 100, 1, 2000, true⟩] } })

/-- A complete staging session of seat 0. -/
def ses : Session := ⟨0, 4, 7, [], [(0, 4)], none, 1, true⟩

/-- A computation that succeeds gives a pair. -/
theorem okPair {α β ε : Type} {x : Except ε (α × β)} (h : x.toBool = true) : ∃ a b, x = .ok (a, b) := by
  cases x with
  | error e => simp [Except.toBool] at h
  | ok p => exact ⟨p.1, p.2, rfl⟩

/-- A pair with a known first part. -/
theorem pairEq {α β : Type} {x : α × β} {a : α} (h : x.1 = a) : x = (a, x.2) := by
  subst h
  rfl

/-! ## SysCommands -/

theorem witness_SysCommands_0 :
    ∃ (r : FwReq) (s : State), Asks r s ∧ r.words.length = 0 :=
  ⟨(rq 0 []), up, ⟨by decide, by decide⟩, by decide⟩

theorem witness_SysCommands_1 :
    ∃ (r : FwReq) (s : State), Asks r s ∧ r.words.length = 1 ∧ r.w 0 = 1 ∧
    (r.seat = 0 ∨ getF s (HOST_PERM_CTL_OK r.seat) ≠ 0) :=
  ⟨(rq 0 [1]), up, ⟨by decide, by decide⟩, by decide, by decide, by decide⟩

theorem witness_SysCommands_2 :
    ∃ (r : FwReq) (s : State), Asks r s ∧ r.words.length = 0 :=
  ⟨(rq 0 []), up, ⟨by decide, by decide⟩, by decide⟩

theorem witness_SysCommands_3 :
    ∃ (r : FwReq) (s : State), Asks r s ∧ r.words.length = 2 ∧ getF s (HOST_PERM_MUTE_OK r.seat) ≠ 0 ∧ r.only [(0,
    1)] = .ok () ∧ r.w 1 = not32 (r.w 0) :=
  ⟨(rq 0 [1, 4294967294]), up, ⟨by decide, by decide⟩, by decide, by decide, rfl, by decide⟩

theorem witness_SysCommands_4 :
    ∃ (r : FwReq) (s : State) (e : _), Asks r s ∧ r.words.length = 1 ∧ r.only [(0, mask 5 0)] = .ok () ∧
    s.fab.sched.find (r.w 0) = some e ∧ (e.seat = r.seat ∨ r.seat = 0) ∧ rampBegun s e = false ∧ s.fab.ci + 2 ≤ e.ci :=
  ⟨(rq 0 [0]), { up with fab := { up.fab with sched := [(0, ⟨5, 0, 9, false, [], [], [], false⟩)] } }, _, ⟨by decide,
  by decide⟩, by decide, rfl, rfl, by decide, by decide, by decide⟩

theorem witness_SysCommands_5 :
    ∃ (r : FwReq) (s : State), Asks r s ∧ r.words.length = 0 :=
  ⟨(rq 0 []), up, ⟨by decide, by decide⟩, by decide⟩

/-! ## SeatAttachment -/

theorem witness_SeatAttachment_0 :
    ∃ (r : FwReq) (s : State), Asks r s ∧ r.words.length = 6 ∧ r.only [(5, mask 15 0)] = .ok () ∧ 100 ≤ r.w 1 ∧ r.w 1 ≤ 60000 ∧ r.f 0 0 16 ≤ 1 ∧ 1 ≤ r.f 0 16 16 ∧ r.w 2 + 4294967296 * r.w 3 = 0 ∧ ∃ t ws, 
    relayed (fun y => do
      let p ← newToken (if attached y r.seat then endAttach r.seat y else y)
      .ok (putF (DB_STAT_ATTACHED r.seat) 1 (updSeat r.seat (fun t => { t with
          lease := r.w 1, token := p.1, expect := some ((r.seq + 1) % 256), evAddr := r.w 4, evPort := r.w 5 }) p.2), [1, r.w 1, lo32 p.1, hi32 p.1, 65536 * r.seat])) s = .ok (t, ws) :=
  ⟨(rq 0 [65537, 1000, 0, 0, 0, 0]), up, ⟨by decide, by decide⟩, by decide, rfl, by decide, by decide, by decide,
  by decide, by decide, okPair (by decide)⟩

theorem witness_SeatAttachment_1 :
    ∃ (r : FwReq) (s : State) (tok : _) (f : _), Asks r s ∧ r.words.length = 6 ∧ r.only [(5, mask 15 0)] = .ok () ∧ 100 ≤ r.w 1 ∧ r.w 1 ≤ 60000 ∧ r.f 0 0 16 ≤ 1 ∧ 1 ≤ r.f 0 16 16 ∧ tok = r.w 2 + 4294967296 * r.w 3 ∧ tok ≠ 0 ∧ s.fw.tokens.contains tok = true ∧ 
    f = (fun s => putF (DB_STAT_ATTACHED r.seat) 1 (updSeat r.seat (fun t => { t with
        lease := r.w 1, token := tok, expect := some ((r.seq + 1) % 256), evAddr := r.w 4, evPort := r.w 5 }) (if attached s r.seat then endAttach r.seat s else s))) :=
  ⟨(rq 0 [65537, 1000, 7, 0, 0, 0]), { up with fw := { up.fw with tokens := [7] } }, _, _, ⟨by decide, by decide⟩,
  by decide, rfl, by decide, by decide, by decide, by decide, rfl, by decide, by decide, rfl⟩

theorem witness_SeatAttachment_2 :
    ∃ (r : FwReq) (s : State), Asks r s ∧ r.words.length = 0 :=
  ⟨(rq 0 []), up, ⟨by decide, by decide⟩, by decide⟩

theorem witness_SeatAttachment_3 :
    ∃ (r : FwReq) (s : State), Asks r s ∧ r.words.length = 1 ∧ r.w 0 = 0 :=
  ⟨(rq 0 [0]), up, ⟨by decide, by decide⟩, by decide, by decide⟩

theorem witness_SeatAttachment_4 :
    ∃ (r : FwReq) (s : State), Asks r s ∧ r.words.length = 1 ∧ r.w 0 = 1 :=
  ⟨(rq 0 [1]), up, ⟨by decide, by decide⟩, by decide, by decide⟩

theorem witness_SeatAttachment_5 :
    ∃ (r : FwReq) (s : State) (tok : _) (keys : _), Asks r s ∧ r.words.length = 3 ∧ r.only [(2,
    mask 7 0 + mask 31 16)] = .ok () ∧ r.f 2 0 8 ≤ 20 ∧ tok = r.w 0 + 4294967296 * r.w 1 ∧
    (if tok = 0 then r.seat = 0 else s.fw.tokens.contains tok = true) ∧
    keys = orphanKeys s tok (r.f 2 0 8) (r.f 2 16 16) ∧ (∀ k,
    quotaRoom s r.seat k (keys.filter (fun x => x / 65536 == k)).length = true) :=
  ⟨(rq 0 [0, 0, 0]), up, _, _, ⟨by decide, by decide⟩, by decide, rfl, by decide, rfl, by decide, rfl, fun _ => rfl⟩

theorem witness_SeatAttachment_6 :
    ∃ (r : FwReq) (s : State) (all : _) (part : _), Asks r s ∧ r.words.length = 1 ∧ r.only [(0,
    mask 1 0 + 16 + mask 31 16)] = .ok () ∧
    all = s.fw.owners.filter (fun p => p.2.seat == r.f 0 0 2 && (r.f 0 4 1 == 0 || p.2.orphan)) ∧
    part = (all.drop (r.f 0 16 16)).take 240 :=
  ⟨(rq 0 [0]), up, _, _, ⟨by decide, by decide⟩, by decide, rfl, rfl, rfl⟩

/-! ## SeatObjects -/

theorem witness_SeatObjects_0 :
    ∃ (r : FwReq) (s : State), Asks r s ∧ r.words.length = 1 ∧ r.only [(0, mask 9 0 + mask 31 16)] = .ok () ∧
    objIndex s (r.f 0 0 8) (r.f 0 16 16) = .ok () ∧ owns s r.seat (r.f 0 0 8) (r.f 0 16 16) = true ∧
    attached s (r.f 0 8 2) = true ∧ (r.f 0 8 2 = r.seat ∨ quotaRoom s (r.f 0 8 2) (r.f 0 0 8) 1 = true) :=
  ⟨(rq 0 [65538]), { up with fw := { up.fw with owners := [(131073, ⟨0, false, 0⟩)] } }, ⟨by decide, by decide⟩,
  by decide, rfl, rfl, by decide, by decide, by decide⟩

theorem witness_SeatObjects_1 :
    ∃ (r : FwReq) (s : State), Asks r s ∧ r.words.length = 1 ∧ r.only [(0, mask 7 0 + mask 31 16)] = .ok () ∧
    objIndex s (r.f 0 0 8) (r.f 0 16 16) = .ok () ∧ r.seat = 0 ∧
    (owns s 0 (r.f 0 0 8) (r.f 0 16 16) = true ∨ quotaRoom s 0 (r.f 0 0 8) 1 = true) :=
  ⟨(rq 0 [65538]), up, ⟨by decide, by decide⟩, by decide, rfl, rfl, by decide, by decide⟩

theorem witness_SeatObjects_2 :
    ∃ (r : FwReq) (s : State), Asks r s ∧ r.words.length = 1 ∧ r.only [(0, mask 7 0 + mask 31 16)] = .ok () ∧
    objIndex s (r.f 0 0 8) (r.f 0 16 16) = .ok () ∧ owns s r.seat (r.f 0 0 8) (r.f 0 16 16) = true :=
  ⟨(rq 0 [65538]), { up with fw := { up.fw with owners := [(131073, ⟨0, false, 0⟩)] } }, ⟨by decide, by decide⟩,
  by decide, rfl, rfl, by decide⟩

theorem witness_SeatObjects_3 :
    ∃ (r : FwReq) (s : State) (k : _), Asks r s ∧ r.words.length = 2 ∧ r.only [(0, mask 1 0 + mask 15 8)] = .ok () ∧
    r.seat = 0 ∧ r.f 0 8 8 ≤ 20 ∧ k = r.f 0 0 2 * 256 + r.f 0 8 8 :=
  ⟨(rq 0 [0, 0]), up, _, ⟨by decide, by decide⟩, by decide, rfl, by decide, by decide, rfl⟩

theorem witness_SeatObjects_4 :
    ∃ (r : FwReq) (s : State), Asks r s ∧ r.words.length = 4 ∧ r.only [(0, mask 5 0), (1, mask 15 0)] = .ok () ∧
    r.seat = 0 ∧ (r.f 0 2 2 = 2 → r.f 0 4 2 ≤ 1) ∧ (r.f 0 2 2 = 3 → r.f 0 4 2 < nMacs s) ∧ nMacs s ≤ 4 :=
  ⟨(rq 0 [0, 0, 0, 0]), up, ⟨by decide, by decide⟩, by decide, rfl, by decide, by decide, by decide, by decide⟩

theorem witness_SeatObjects_5 :
    ∃ (r : FwReq) (s : State) (n : _), Asks r s ∧ r.words.length = 1 ∧ r.only [(0, mask 4 0)] = .ok () ∧ r.seat = 0 ∧
    n = r.f 0 0 2 :=
  ⟨(rq 0 [0]), up, _, ⟨by decide, by decide⟩, by decide, rfl, by decide, rfl⟩

theorem witness_SeatObjects_6 :
    ∃ (r : FwReq) (s : State) (o : _), Asks r s ∧ r.words.length = 1 ∧ r.only [(0, mask 8 0 + mask 31 16)] = .ok () ∧
    o = (r.f 0 0 8, r.f 0 16 16) ∧ objIndex s o.1 o.2 = .ok () ∧ r.f 0 8 1 = 0 :=
  ⟨(rq 0 [65538]), up, _, ⟨by decide, by decide⟩, by decide, rfl, rfl, rfl, by decide⟩

theorem witness_SeatObjects_7 :
    ∃ (r : FwReq) (s : State) (o : _), Asks r s ∧ r.words.length = 1 ∧ r.only [(0, mask 8 0 + mask 31 16)] = .ok () ∧
    o = (r.f 0 0 8, r.f 0 16 16) ∧ objIndex s o.1 o.2 = .ok () ∧ r.f 0 8 1 = 1 ∧
    (seatOf s r.seat).subs.contains o = false ∧ (seatOf s r.seat).subs.length < 256 :=
  ⟨(rq 0 [65538 + 256]), up, _, ⟨by decide, by decide⟩, by decide, rfl, rfl, rfl, by decide, by decide, by decide⟩

theorem witness_SeatObjects_8 :
    ∃ (r : FwReq) (s : State) (o : _), Asks r s ∧ r.words.length = 1 ∧ r.only [(0, mask 8 0 + mask 31 16)] = .ok () ∧
    o = (r.f 0 0 8, r.f 0 16 16) ∧ objIndex s o.1 o.2 = .ok () ∧ r.f 0 8 1 = 1 ∧
    (seatOf s r.seat).subs.contains o = true :=
  ⟨(rq 0 [65538 + 256]), updSeat 0 (fun t => { t with subs := [(2, 1)] }) up, _, ⟨by decide, by decide⟩, by decide,
  rfl, rfl, rfl, by decide, by decide⟩

/-! ## ImageStaging -/

theorem witness_ImageStaging_0 :
    ∃ (r : FwReq) (s : State), Asks r s ∧ r.words.length = 2 ∧ isStandby s = false ∧ MayChange r s 1 0 ∧ 0 < r.w 0 ∧
    r.w 0 ≤ 0x03000000 ∧ commitArmed s = false ∧ 0 < stagingBytes s r.seat :=
  ⟨(rq 0 [1024, 7]), up, ⟨by decide, by decide⟩, by decide, by decide, ⟨rfl, rfl⟩, by decide, by decide, by decide,
  by decide⟩

theorem witness_ImageStaging_1 :
    ∃ (r : FwReq) (s : State) (x : _), Asks r s ∧ r.words.length = 3 ∧ isStandby s = false ∧ MayChange r s 1 0 ∧
    r.w 0 % 32 = 0 ∧ r.w 0 + r.w 1 ≤ 4 * getF s (HOST_LIM_WIN_WORDS r.seat) ∧ r.w 1 ≠ 0 ∧ s.fab.session = some x ∧
    x.seat = r.seat ∧ commitArmed s = false ∧ x.busy = none :=
  ⟨(rq 0 [0, 4, 0]), fab up (fun f => { f with session := some ses, staged := some img0 }), _, ⟨by decide, by decide⟩,
  by decide, by decide, ⟨rfl, rfl⟩, by decide, by decide, by decide, rfl, by decide, by decide, by decide⟩

theorem witness_ImageStaging_2 :
    ∃ (r : FwReq) (s : State), Asks r s ∧ r.words.length = 2 + (r.f 1 0 10 + 3) / 4 ∧ isStandby s = false ∧
    MayChange r s 1 0 ∧ r.only [(1, mask 9 0)] = .ok () ∧ 1 ≤ r.f 1 0 10 ∧ r.f 1 0 10 ≤ 992 ∧
    r.w 0 + r.f 1 0 10 ≤ 4 * getF s (HOST_LIM_WIN_WORDS r.seat) :=
  ⟨(rq 0 [0, 4, 9]), up, ⟨by decide, by decide⟩, by decide, by decide, ⟨rfl, rfl⟩, rfl, by decide, by decide,
  by decide⟩

theorem witness_ImageStaging_3 :
    ∃ (r : FwReq) (s : State), Asks r s ∧ r.words.length = 0 ∧ isStandby s = false ∧ MayChange r s 1 0 ∧
    commitArmed s = false ∧ s.fab.sched.find? (fun p => p.2.kind == 2 || p.2.kind == 3) = none :=
  ⟨(rq 0 []), up, ⟨by decide, by decide⟩, by decide, by decide, ⟨rfl, rfl⟩, by decide, by decide⟩

theorem witness_ImageStaging_4 :
    ∃ (r : FwReq) (s : State) (i : _) (e : _), Asks r s ∧ r.words.length = 0 ∧ isStandby s = false ∧
    MayChange r s 1 0 ∧ s.fab.sched.find? (fun p => p.2.kind == 2 || p.2.kind == 3) = some (i, e) ∧
    mayCancel s r.seat i = .ok e ∧ (∀ q, quotaFor (cancelAsked i e (noted q s)) r 1 0 = .ok ()) :=
  ⟨(rq 0 []), on [(DB_STAT_ATTACHED 0,
  0)] (fab run (fun f => { f with sched := [(0, ⟨2, 0, 2000, false, [], [], [], false⟩)] })), _, _, ⟨by decide,
  by decide⟩, by decide, by decide, ⟨rfl, rfl⟩, rfl, rfl, fun _ => rfl⟩

theorem witness_ImageStaging_5 :
    ∃ (r : FwReq) (s : State), Asks r s ∧ r.words.length = 0 :=
  ⟨(rq 0 []), up, ⟨by decide, by decide⟩, by decide⟩

theorem witness_ImageStaging_6 :
    ∃ (r : FwReq) (s : State) (i : _) (e : _), Asks r s ∧ r.words.length = 1 ∧ r.only [(0,
    mask 12 0 + mask 28 16)] = .ok () ∧ s.fab.img = some i ∧
    i.latency.find? (fun e => !e.env && e.src == r.f 0 0 13 && e.dst == r.f 0 16 13) = some e :=
  ⟨(rq 0 [0]), run, _, _, ⟨by decide, by decide⟩, by decide, rfl, rfl, rfl⟩

theorem witness_ImageStaging_7 :
    ∃ (r : FwReq) (s : State), Asks r s ∧ r.words.length = 17 ∧ r.seat = 0 ∧ MayChange r s 1 0 ∧ r.only [(0,
    3 + 256 + 65536)] = .ok () :=
  ⟨(rq 0 [0, 0, 0, 0, 0, 0, 0, 0, 0, 0, 0, 0, 0, 0, 0, 0, 0]), up, ⟨by decide, by decide⟩, by decide, by decide, ⟨rfl,
  rfl⟩, rfl⟩

/-! ## ImageCommit -/

theorem witness_ImageCommit_0 :
    ∃ (r : FwReq) (s : State) (x : _) (img : _), Asks r s ∧ r.words.length = 3 ∧ isStandby s = false ∧
    MayChange r s 1 0 ∧ s.fab.staged = some img ∧ s.fab.session = some x ∧ x.seat = r.seat ∧ x.busy = none ∧
    r.w 0 = 0 ∧ r.w 1 = 0 ∧ r.w 2 = 0 ∧ partnerHas s img = true ∧ running s = false ∧ s.fab.startAt = none ∧
    s.fab.family = none ∧ s.pwr.hotStop = false ∧ s.pwr.entering = 0 ∧ getF s PWR_STAT_STATE = 0 ∧
    ampFits s img = true :=
  ⟨(rq 0 [0, 0, 0]), fab up (fun f => { f with session := some ses, staged := some img0 }), _, _, ⟨by decide,
  by decide⟩, by decide, by decide, ⟨rfl, rfl⟩, rfl, rfl, by decide, by decide, by decide, by decide, by decide,
  by decide, by decide, by decide, by decide, by decide, by decide, by decide, by decide⟩

theorem witness_ImageCommit_1 :
    ∃ (r : FwReq) (s : State) (x : _) (old : _) (img : _), Asks r s ∧ r.words.length = 3 ∧ isStandby s = false ∧ MayChange r s 1 0 ∧ r.only [(2, 3)] = .ok () ∧ s.fab.staged = some img ∧ s.fab.session = some x ∧ x.seat = r.seat ∧ x.busy = none ∧ s.fab.img = some old ∧ running s = true ∧ partnerHas s img = true ∧ r.f 2 0 2 ≤ 1 ∧ spliceOk old img = true ∧ r.ci 0 ≠ 0 ∧ (img.hasRoute = true → getF s RTE_SL_ROUTE_ARMED = 0 ∧ getF s RTE_STAT_RESYNC = 0) ∧ (img.hasDyn = true → s.dyn.tags.all (fun p => decide (p.2 < 64)) = true ∧ s.dyn.recopy = []) ∧ ampFits s img = true ∧ ∃ t ws, 
    relayed (fun y => do
      let a ← arm y r ⟨3, r.seat, r.ci 0, false, [], [], [], false⟩
      .ok (armSplice a.1 img (acquire r 1 0 a.2.2), (schedReply a.1 a.2.1 ++ [1]))) s = .ok (t, ws) :=
  ⟨(rq 0 [2000, 0, 1]), fab run (fun f => { f with session := some ses, staged := some img0 }), _, _, _, ⟨by decide,
  by decide⟩, by decide, by decide, ⟨rfl, rfl⟩, rfl, rfl, rfl, by decide, by decide, rfl, by decide, by decide,
  by decide, by decide, by decide, by decide, by decide, by decide, okPair (by decide)⟩

theorem witness_ImageCommit_2 :
    ∃ (r : FwReq) (s : State) (x : _) (old : _) (img : _), Asks r s ∧ r.words.length = 3 ∧ isStandby s = false ∧ MayChange r s 1 0 ∧ r.only [(2, 3)] = .ok () ∧ s.fab.staged = some img ∧ s.fab.session = some x ∧ x.seat = r.seat ∧ x.busy = none ∧ s.fab.img = some old ∧ running s = true ∧ partnerHas s img = true ∧ (r.f 2 0 2 = 2 ∨ r.f 2 0 2 = 0 ∧ spliceOk old img = false) ∧ r.asap = false ∧ r.ci 0 ≠ 0 ∧ (img.rm < old.rm ∧ img.rm ≠ 0 ∧ img.family = old.family → r.ci 0 % (old.rm / img.rm) = 0) ∧ cpoFits (getF s FAB_CPO_CPO_NS) (baseRate img.family * img.rm) = true ∧ ampFits s img = true ∧ ∃ t ws, 
    relayed (fun y => do
      let a ← arm y r ⟨2, r.seat, r.ci 0, false, [], [], [], false⟩
      .ok (acquire r 1 0 a.2.2, (schedReply a.1 a.2.1 ++ [2]))) s = .ok (t, ws) :=
  ⟨(rq 0 [2000, 0, 2]), fab run (fun f => { f with session := some ses, staged := some img0 }), _, _, _, ⟨by decide,
  by decide⟩, by decide, by decide, ⟨rfl, rfl⟩, rfl, rfl, rfl, by decide, by decide, rfl, by decide, by decide,
  by decide, by decide, by decide, by decide, by decide, by decide, okPair (by decide)⟩

theorem witness_ImageCommit_3 :
    ∃ (r : FwReq) (s : State), Asks r s ∧ r.words.length = 5 ∧ r.f 0 0 7 < nBanks s ∧ nBanks s ≤ 128 ∧ isStandby s = false ∧ MayChange r s 1 0 ∧ r.only [(0, mask 6 0)] = .ok () ∧ r.w 1 &&& (declared s (r.f 0 0 7)).1 = r.w 1 ∧ r.w 2 &&& (declared s (r.f 0 0 7)).2 = r.w 2 ∧ ∃ t ws, 
    relayed (fun y => do
      let x ← portBatch y r (r.ci 3) none [(FAB_LEND_LO_LEND (r.f 0 0 7), r.w 1), (FAB_LEND_HI_LEND (r.f 0 0 7), r.w 2)]
      .ok (acquire r 1 0 x.1, x.2)) s = .ok (t, ws) :=
  ⟨(rq 0 [0, 5, 2, 2000, 0]), rich, ⟨by decide, by decide⟩, by decide, by decide, by decide, by decide, ⟨rfl, rfl⟩,
  rfl, by decide, by decide, okPair (by decide)⟩

/-! ## ParametersAndDynamics -/

theorem witness_ParametersAndDynamics_0 :
    ∃ (r : FwReq) (s : State) (c : _), Asks r s ∧ r.words.length = 2 + r.w 1 ∧ isStandby s = false ∧
    MayChange r s 2 (r.f 0 0 8) ∧ r.only [(0, mask 7 0 + mask 25 16)] = .ok () ∧ r.w 1 ≤ 248 ∧
    r.f 0 16 10 + r.w 1 ≤ 1024 ∧ pageTag s (r.f 0 0 8) < 64 ∧ pageOf s (r.f 0 0 8) = .ok c :=
  ⟨(rq 0 [1, 2, 5, 6]), rich, _, ⟨by decide, by decide⟩, by decide, by decide, ⟨rfl, rfl⟩, rfl, by decide, by decide,
  by decide, rfl⟩

theorem witness_ParametersAndDynamics_1 :
    ∃ (r : FwReq) (s : State) (c : _), Asks r s ∧ r.words.length = 2 ∧ r.only [(0, mask 8 0 + mask 25 16)] = .ok () ∧
    r.w 1 ≤ 248 ∧ r.f 0 16 10 + r.w 1 ≤ 1024 ∧ pageOf s (r.f 0 0 8) = .ok c :=
  ⟨(rq 0 [1, 2]), rich, _, ⟨by decide, by decide⟩, by decide, rfl, by decide, by decide, rfl⟩

theorem witness_ParametersAndDynamics_2 :
    ∃ (r : FwReq) (s : State) (i : _) (rc : _), Asks r s ∧ r.words.length = 9 ∧ i = r.f 0 0 10 ∧
    rc = (List.range 8).map (fun k => r.w (k + 1)) ∧ i < maxDyn s ∧ isStandby s = false ∧ MayChange r s 4 i ∧
    r.only [(0, mask 9 0)] = .ok () ∧ dynLegal rc = true ∧ i < s.fab.cal.dynCap ∧ dynTag s i < 64 ∧
    s.dyn.recopy.contains i = false ∧ producer s.fab.cal (rf rc 1 0 13 / 8) = 0x23 ∧
    chained s.fab.cal (rf rc 0 0 13 / 8) = false ∧ chained s.fab.cal (rf rc 0 13 13 / 8) = false :=
  ⟨(rq 0 [0, 0, 16, 0, 256, 0, 500, 0, 0]), fab rich (fun f => { f with cal := { f.cal with map := [(2, 0x23)] } }),
  _, _, ⟨by decide, by decide⟩, by decide, rfl, rfl, by decide, by decide, ⟨rfl, rfl⟩, rfl, by decide, by decide,
  by decide, by decide, by decide, by decide, by decide⟩

theorem witness_ParametersAndDynamics_3 :
    ∃ (r : FwReq) (s : State) (i : _), Asks r s ∧ r.words.length = 1 ∧ i = r.f 0 0 10 ∧ i < maxDyn s ∧ r.only [(0,
    mask 9 0 + mask 17 16)] = .ok () ∧ r.f 0 16 2 ≤ 2 ∧ i < s.fab.cal.dynCap :=
  ⟨(rq 0 [0]), rich, _, ⟨by decide, by decide⟩, by decide, rfl, by decide, rfl, by decide, by decide⟩

/-! ## RouteStaging -/

theorem witness_RouteStaging_0 :
    ∃ (r : FwReq) (s : State) (n : _) (es : _) (ds : _) (l : _), Asks r s ∧ n = r.f 0 0 16 ∧
    r.words.length = 1 + 4 * n ∧ isStandby s = false ∧ es = (List.range n).map (entryAt r 1) ∧
    ds = es.map (fun e => xpDest e.value) ∧ mayOwnAll s r 3 ds 0 = .ok () ∧ r.only [(0, mask 15 0)] = .ok () ∧
    n ≤ 62 ∧ xpLegal s es 0 = .ok () ∧ xpContract s es 0 = .ok () ∧ quotaForAll s r 3 ds = .ok () ∧
    l = es.foldl (fun l e => stageXp l e.value) (seatOf s r.seat).routes ∧ l.length ≤ 4096 :=
  ⟨(rq 0 [1, 1, 5, 4294967294, 4294967290]), rich, _, _, _, _, ⟨by decide, by decide⟩, rfl, by decide, by decide, rfl,
  rfl, rfl, rfl, by decide, rfl, rfl, rfl, rfl, by decide⟩

theorem witness_RouteStaging_1 :
    ∃ (r : FwReq) (s : State) (d : _) (v : _) (l : _), Asks r s ∧ r.words.length = 5 ∧ d = r.f 0 0 12 ∧ v = r.ci 1 ∧
    isStandby s = false ∧ MayChange r s 3 d ∧ r.only [(0, mask 11 0), (1, 0xFFFFFFFF - mask 31 25)] = .ok () ∧
    -12288 ≤ toS 16 (bits v 0 16) ∧ toS 16 (bits v 0 16) ≤ 0 ∧ 50 ≤ bits v 48 16 ∧ bits v 48 16 ≤ 50000 ∧
    (PairWord.mk v (r.ci 3)).ok = true ∧ d < nDests s ∧ l = (seatOf s r.seat).dests.filter (fun p => p.1 != d) ++ [(d,
    v)] ∧ l.length ≤ 1024 :=
  ⟨(rq 0 [0, 0, 3276800, 4294967295, 4291690495]), rich, _, _, _, ⟨by decide, by decide⟩, by decide, rfl, rfl,
  by decide, ⟨rfl, rfl⟩, rfl, by decide, by decide, by decide, by decide, by decide, by decide, rfl, by decide⟩

theorem witness_RouteStaging_2 :
    ∃ (r : FwReq) (s : State) (d : _), Asks r s ∧ r.words.length = 3 ∧ d = r.f 0 0 12 ∧ isStandby s = false ∧
    MayChange r s 3 d ∧ r.only [(0, mask 11 0), (2, mask 16 0)] = .ok () ∧ d < nDests s :=
  ⟨(rq 0 [0, 0, 0]), rich, _, ⟨by decide, by decide⟩, by decide, rfl, by decide, ⟨rfl, rfl⟩, rfl, by decide⟩

theorem witness_RouteStaging_3 :
    ∃ (r : FwReq) (s : State) (d : _) (half : _) (all : _) (part : _), Asks r s ∧ r.words.length = 1 ∧ r.only [(0,
    mask 12 0 + mask 31 16)] = .ok () ∧ d = r.f 0 0 12 ∧ d < nDests s ∧
    half = (if r.f 0 12 1 = 1 then s.rte.shadow else s.rte.act) ∧
    all = half.filter (fun p => xpValid p.2.value && xpDest p.2.value == d) ∧ part = (all.drop (r.f 0 16 16)).take 62 :=
  ⟨(rq 0 [0]), rich, _, _, _, _, ⟨by decide, by decide⟩, by decide, rfl, rfl, by decide, rfl, rfl, rfl⟩

theorem witness_RouteStaging_4 :
    ∃ (r : FwReq) (s : State) (d : _) (v : _), Asks r s ∧ r.words.length = 1 ∧ d = r.f 0 0 12 ∧ (r.f 0 16 1 = 1 →
    owns s r.seat 3 d = true) ∧ r.only [(0, mask 11 0 + 65536)] = .ok () ∧ d < nDests s ∧
    v = (s.rte.actRec.get d recReset).value :=
  ⟨(rq 0 [65536]), { rich with fw := { rich.fw with owners := [(196608, ⟨0, false, 0⟩)] } }, _, _, ⟨by decide,
  by decide⟩, by decide, rfl, by decide, rfl, by decide, rfl⟩

theorem witness_RouteStaging_5 :
    ∃ (r : FwReq) (s : State), Asks r s ∧ r.words.length = 0 ∧ isStandby s = false :=
  ⟨(rq 0 []), rich, ⟨by decide, by decide⟩, by decide, by decide⟩

/-! ## RouteCommit -/

theorem witness_RouteCommit_0 :
    ∃ (r : FwReq) (s : State) (pages : _) (insts : _) (e : _), Asks r s ∧ pages = bytesAt r 3 (r.f 2 8 8) ∧ insts = halvesAt r (3 + (r.f 2 8 8 + 3) / 4) (r.f 2 16 10) ∧ r.words.length = 3 + (r.f 2 8 8 + 3) / 4 + (r.f 2 16 10 + 1) / 2 ∧ r.f 2 0 1 = 0 ∧ insts.all (fun i => decide (i < 1024)) = true ∧ insts.all (fun i => decide (i < maxDyn s)) = true ∧ isStandby s = false ∧ mayOwnAll s r 2 pages 0 = .ok () ∧ mayOwnAll s r 4 insts 0 = .ok () ∧ r.only [(2, 1 + mask 15 8 + mask 25 16)] = .ok () ∧ pages.all (fun p => decide (pageTag s p < 64)) = true ∧ insts.all (fun i => decide (dynTag s i < 64)) = true ∧ insts.all (fun i => !s.dyn.recopy.contains i) = true ∧ pages.all (fun p => (pageCopies s p).isSome) = true ∧ insts.all (fun i => decide (i < s.fab.cal.dynCap)) = true ∧ quotaForAll s r 2 pages = .ok () ∧ quotaForAll s r 4 insts = .ok () ∧ e = ⟨if pages = [] ∧ insts = [] then 6 else 1, r.seat, r.ci 0, false, pages, insts, [], false⟩ ∧ ∃ t ws, 
    relayed (fun y => do
      let a ← arm y r e
      .ok (tagSet a.1 e (acquireAll r 4 insts (acquireAll r 2 pages a.2.2)), schedReply a.1 a.2.1)) s = .ok (t, ws) :=
  ⟨(rq 0 [2000, 0, 256 + 65536, 1, 0]), rich, _, _, _, ⟨by decide, by decide⟩, rfl, rfl, by decide, by decide,
  by decide, by decide, by decide, rfl, rfl, rfl, by decide, by decide, by decide, by decide, by decide, rfl, rfl,
  rfl, okPair (by decide)⟩

theorem witness_RouteCommit_1 :
    ∃ (r : FwReq) (s : State) (pages : _) (insts : _) (e : _) (pl : _), Asks r s ∧ pages = bytesAt r 3 (r.f 2 8 8) ∧ insts = halvesAt r (3 + (r.f 2 8 8 + 3) / 4) (r.f 2 16 10) ∧ r.words.length = 3 + (r.f 2 8 8 + 3) / 4 + (r.f 2 16 10 + 1) / 2 ∧ r.f 2 0 1 = 1 ∧ insts.all (fun i => decide (i < 1024)) = true ∧ insts.all (fun i => decide (i < maxDyn s)) = true ∧ isStandby s = false ∧ mayOwnAll s r 2 pages 0 = .ok () ∧ mayOwnAll s r 4 insts 0 = .ok () ∧ r.only [(2, 1 + mask 15 8 + mask 25 16)] = .ok () ∧ pages.all (fun p => decide (pageTag s p < 64)) = true ∧ insts.all (fun i => decide (dynTag s i < 64)) = true ∧ getF s RTE_SL_ROUTE_ARMED = 0 ∧ getF s RTE_STAT_RESYNC = 0 ∧ insts.all (fun i => !s.dyn.recopy.contains i) = true ∧ pages.all (fun p => (pageCopies s p).isSome) = true ∧ insts.all (fun i => decide (i < s.fab.cal.dynCap)) = true ∧ quotaForAll s r 2 pages = .ok () ∧ quotaForAll s r 4 insts = .ok () ∧ e = ⟨1, r.seat, r.ci 0, true, pages, insts, [], false⟩ ∧ placeXps s (seatOf s r.seat).routes [] [] = some pl ∧ ∃ t ws, 
    relayed (fun y => do
      let a ← arm y r e
      .ok (tagSet a.1 e (updSeat r.seat (fun t => { t with routes := [], dests := [] })
        { acquireAll r 4 insts (acquireAll r 2 pages a.2.2) with rte := { a.2.2.rte with
            shadow := pl.foldl (fun m p => m.set p.1 (PairWord.mk' p.2) xpNone) a.2.2.rte.shadow
            shRec := (seatOf s r.seat).dests.foldl (fun m p => m.set p.1 (PairWord.mk' p.2) recReset) a.2.2.rte.shRec
            held := (seatOf s r.seat).routes } }), schedReply a.1 a.2.1)) s = .ok (t, ws) :=
  ⟨(rq 0 [2000, 0, 257 + 65536, 1, 0]),
  updSeat 0 (fun t => { t with routes := [21474836481], dests := [(1, 14073748835532800)] }) rich, _, _, _, _,
  ⟨by decide, by decide⟩, rfl, rfl, by decide, by decide, by decide, by decide, by decide, rfl, rfl, rfl, by decide,
  by decide, by decide, by decide, by decide, by decide, by decide, rfl, rfl, rfl, rfl, okPair (by decide)⟩

/-! ## PortSettings -/

theorem witness_PortSettings_0 :
    ∃ (r : FwReq) (s : State) (g : _), Asks r s ∧ r.words.length = 1 ∧ g = r.f 0 0 3 ∧ g < nGroups s ∧ isStandby s = false ∧ MayChange r s 6 g ∧ r.only [(0, mask 5 0)] = .ok () ∧ r.f 0 4 2 ≠ 3 ∧ ∃ t ws, 
    relayed (fun y => do
      let x ← portBatch y r 0 (some g) [(SP_GRP_CTL_MASTER g, r.f 0 3 1), (SP_GRP_CTL_FRAME g, r.f 0 4 2), (SP_GRP_CTL_PHASE g, 0)]
      .ok (acquire r 6 g x.1, [])) s = .ok (t, ws) :=
  ⟨(rq 0 [1 + 8 + 32]), rich, _, ⟨by decide, by decide⟩, by decide, rfl, by decide, by decide, ⟨rfl, rfl⟩, rfl,
  by decide, okPair (by decide)⟩

theorem witness_PortSettings_1 :
    ∃ (r : FwReq) (s : State) (n : _) (a : _), Asks r s ∧ r.words.length = 4 ∧ n = r.f 0 0 6 ∧ a = r.f 0 14 6 ∧ n < nLanes s ∧ isStandby s = false ∧ MayChange r s 5 n ∧ r.only [(0, mask 19 0), (1, mask 12 0 + mask 28 16)] = .ok () ∧ r.f 0 8 2 ≠ 3 ∧ (r.f 0 13 1 = 1 → a < nAsrc s ∧ MayChange r s 8 a ∧ asrcElsewhere s a n = false) ∧ (r.f 0 6 1 = 1 → wordLen (r.f 0 10 2) ≤ chanBits (getF s (SP_GRP_CTL_FRAME (n / 8))) ∧ (∀ k ∈ [r.f 1 0 13, r.f 1 16 13], (if r.f 0 7 1 = 1 then outBindOk s 0x24 k else inBindOk s 0x24 k) = true)) ∧ (getF s (SP_LANE_CFG_EN n) = 0 ∨ getF s (SP_LANE_CFG_DIR n) = r.f 0 7 1) ∧ ∃ t ws, 
    relayed (fun y => do
      let x ← portBatch y r (r.ci 2) (some (n / 8))
          [(SP_LANE_CFG_EN n, r.f 0 6 1), (SP_LANE_CFG_DIR n, r.f 0 7 1), (SP_LANE_CFG_FMT n, r.f 0 8 2), (SP_LANE_CFG_WL n, r.f 0 10 2),
           (SP_LANE_CFG_NA_EN n, r.f 0 12 1), (SP_LANE_CFG_ASRC_EN n, r.f 0 13 1), (SP_LANE_CFG_ASRC n, a),
           (SP_LANE_BIND_SLOT_A n, r.f 1 0 13), (SP_LANE_BIND_SLOT_B n, r.f 1 16 13), (SP_LANE_BIND_BOUND n, r.f 0 6 1)]
      .ok ((if r.f 0 13 1 = 1 then acquire r 8 a (acquire r 5 n x.1) else acquire r 5 n x.1), x.2)) s = .ok (t, ws) :=
  ⟨(rq 0 [64 + 8 + 8192, 80 + 65536 * 81, 2000, 0]), rich, _, _, ⟨by decide, by decide⟩, by decide, rfl, rfl,
  by decide, by decide, ⟨rfl, rfl⟩, rfl, by decide, fun _ => ⟨by decide, ⟨rfl, rfl⟩, by decide⟩, by decide, by decide,
  okPair (by decide)⟩

theorem witness_PortSettings_2 :
    ∃ (r : FwReq) (s : State) (n : _) (a : _), Asks r s ∧ r.words.length = 3 ∧ n = r.f 0 0 3 ∧ a = r.f 0 6 6 ∧ n < nAes s ∧ nAes s ≤ 8 ∧ isStandby s = false ∧ MayChange r s 7 n ∧ r.only [(0, mask 11 0 + mask 28 16)] = .ok () ∧ r.f 0 16 13 % 8 ≠ 7 ∧ (r.f 0 5 1 = 1 → a < nAsrc s ∧ MayChange r s 8 a ∧ asrcElsewhere s a (48 + n) = false) ∧ (r.f 0 3 1 = 1 → inBindOk s 0x24 (r.f 0 16 13) = true) ∧ ∃ t ws, 
    relayed (fun y => do
      let x ← portBatch y r (r.ci 1) none
          [(AES_RX_CTL_EN n, r.f 0 3 1), (AES_RX_CTL_NA_EN n, r.f 0 4 1), (AES_RX_CTL_ASRC_EN n, r.f 0 5 1),
           (AES_RX_CTL_ASRC n, a), (AES_RX_CTL_SLOT_A n, r.f 0 16 13)]
      .ok ((if r.f 0 5 1 = 1 then acquire r 8 a (acquire r 7 n x.1) else acquire r 7 n x.1), x.2)) s = .ok (t, ws) :=
  ⟨(rq 0 [1 + 8 + 32 + 65536 * 80, 2000, 0]), rich, _, _, ⟨by decide, by decide⟩, by decide, rfl, rfl, by decide,
  by decide, by decide, ⟨rfl, rfl⟩, rfl, by decide, fun _ => ⟨by decide, ⟨rfl, rfl⟩, by decide⟩, by decide,
  okPair (by decide)⟩

theorem witness_PortSettings_3 :
    ∃ (r : FwReq) (s : State) (n : _) (a : _), Asks r s ∧ r.words.length = 3 ∧ n = r.f 0 0 3 ∧ a = r.f 0 10 6 ∧ n < nAes s ∧ nAes s ≤ 8 ∧ isStandby s = false ∧ MayChange r s 7 n ∧ r.only [(0, mask 28 0)] = .ok () ∧ r.f 0 16 13 % 8 ≠ 7 ∧ (r.f 0 6 1 = 1 → a < nAsrc s ∧ r.f 0 7 3 < nAes s ∧ MayChange r s 8 a ∧ asrcElsewhere s a (64 + n) = false) ∧ (r.f 0 3 1 = 1 → outBindOk s 0x24 (r.f 0 16 13) = true) ∧ ∃ t ws, 
    relayed (fun y => do
      let x ← portBatch y r (r.ci 1) none
          [(AES_TX_CTL_EN n, r.f 0 3 1), (AES_TX_CTL_CRC_GEN n, r.f 0 4 1), (AES_TX_CTL_V_OUT n, r.f 0 5 1),
           (AES_TX_CTL_TX_FOLLOW n, r.f 0 6 1), (AES_TX_CTL_FOLLOW_RX n, r.f 0 7 3), (AES_TX_CTL_ASRC n, a),
           (AES_TX_CTL_SLOT_A n, r.f 0 16 13)]
      .ok ((if r.f 0 6 1 = 1 then acquire r 8 a (acquire r 7 n x.1) else acquire r 7 n x.1), x.2)) s = .ok (t, ws) :=
  ⟨(rq 0 [1 + 8 + 64 + 65536 * 96, 2000, 0]), rich, _, _, ⟨by decide, by decide⟩, by decide, rfl, rfl, by decide,
  by decide, by decide, ⟨rfl, rfl⟩, rfl, by decide, fun _ => ⟨by decide, by decide, ⟨rfl, rfl⟩, by decide⟩, by decide,
  okPair (by decide)⟩

theorem witness_PortSettings_4 :
    ∃ (r : FwReq) (s : State) (i : _), Asks r s ∧ r.words.length = 1 ∧ i = r.f 0 0 6 ∧ i < nAsrc s ∧ (r.f 0 8 1 = 1 → r.f 0 9 6 < nAsrc s) ∧ isStandby s = false ∧ MayChange r s 8 i ∧ r.only [(0, mask 14 0)] = .ok () ∧ ∃ t ws, 
    relayed (fun y => do
      let x ← portBatch y r 0 none [(SP_ASRC_CTL_EN i, r.f 0 6 1), (SP_ASRC_CTL_MODE i, r.f 0 7 1), (SP_ASRC_CTL_GANG_EN i, r.f 0 8 1),
          (SP_ASRC_CTL_LEADER i, r.f 0 9 6)]
      .ok (acquire r 8 i x.1, [])) s = .ok (t, ws) :=
  ⟨(rq 0 [64 + 256 + 512]), rich, _, ⟨by decide, by decide⟩, by decide, rfl, by decide, by decide, by decide, ⟨rfl,
  rfl⟩, rfl, okPair (by decide)⟩

/-! ## PortBuffersAndEnables -/

theorem witness_PortBuffersAndEnables_0 :
    ∃ (r : FwReq) (s : State), Asks r s ∧ r.words.length = 1 ∧ r.f 0 0 3 < nAes s ∧ nAes s ≤ 8 ∧ r.f 0 4 2 < 2 ∧
    r.f 0 8 1 = 0 ∧ r.only [(0, mask 5 0 + 256)] = .ok () :=
  ⟨(rq 0 [0]), rich, ⟨by decide, by decide⟩, by decide, by decide, by decide, by decide, by decide, rfl⟩

theorem witness_PortBuffersAndEnables_1 :
    ∃ (r : FwReq) (s : State) (v : _), Asks r s ∧ r.words.length = 7 ∧ r.f 0 0 3 < nAes s ∧ nAes s ≤ 8 ∧
    2 ≤ r.f 0 4 2 ∧ isStandby s = false ∧ MayChange r s 7 (r.f 0 0 3) ∧ r.only [(0, mask 5 0 + 256)] = .ok () ∧
    v = ((List.range 6).map (fun w => r.w (w + 1) % 4294967296 * 2 ^ (32 * w))).sum :=
  ⟨(rq 0 [32 + 256, 1, 2, 3, 4, 5, 6]), rich, _, ⟨by decide, by decide⟩, by decide, by decide, by decide, by decide,
  by decide, ⟨rfl, rfl⟩, rfl, rfl⟩

theorem witness_PortBuffersAndEnables_2 :
    ∃ (r : FwReq) (s : State) (lanes : _), Asks r s ∧ r.words.length = 6 ∧ lanes = r.w 0 + 4294967296 * r.w 2 ∧ isStandby s = false ∧ (∀ b ∈ bitsSet lanes 48, b < nLanes s) ∧ (∀ b ∈ bitsSet (r.w 4) 8, b < nAes s) ∧ ownsBits s r.seat 5 (getF s SP_OEN_LO_OEN + 4294967296 * getF s SP_OEN_HI_OEN) lanes 48 = true ∧ ownsBits s r.seat 7 (getF s AES_OEN_OEN) (r.w 4) 8 = true ∧ r.only [(2, mask 15 0), (4, mask 7 0)] = .ok () ∧ r.w 1 = not32 (r.w 0) ∧ r.w 3 = not32 (r.w 2) ∧ r.w 5 = not32 (r.w 4) ∧ ∃ t ws, 
    relayed (fun y => do
      let x ← portBatch y r 0 none [(SP_OEN_LO_OEN, r.w 0), (SP_OEN_HI_OEN, r.w 2), (AES_OEN_OEN, r.w 4)]
      .ok ({ x.1 with oenDark := x.1.oenDark.filter (fun a =>
      !([SP_OEN_LO_OEN.addr, SP_OEN_HI_OEN.addr, AES_OEN_OEN.addr] : List Nat).contains a) }, [])) s = .ok (t, ws) :=
  ⟨(rq 0 [3, 4294967292, 0, 4294967295, 0, 4294967295]), on [(SP_OEN_LO_OEN,
  1)] { rich with fw := { rich.fw with owners := [(5 * 65536, ⟨0, false, 0⟩), (5 * 65536 + 1, ⟨0, false, 0⟩)] } }, _,
  ⟨by decide, by decide⟩, by decide, rfl, by decide, by decide, by decide, by decide, by decide, rfl, by decide,
  by decide, by decide, okPair (by decide)⟩

theorem witness_PortBuffersAndEnables_3 :
    ∃ (r : FwReq) (s : State) (i : _), Asks r s ∧ r.words.length = 1 ∧ i = r.f 0 8 8 ∧ r.only [(0,
    mask 1 0 + mask 15 8)] = .ok () ∧ r.f 0 0 2 = 0 ∧ i < nLanes s :=
  ⟨(rq 0 [256 * 3]), rich, _, ⟨by decide, by decide⟩, by decide, rfl, rfl, by decide, by decide⟩

theorem witness_PortBuffersAndEnables_4 :
    ∃ (r : FwReq) (s : State) (i : _), Asks r s ∧ r.words.length = 1 ∧ i = r.f 0 8 8 ∧ r.only [(0,
    mask 1 0 + mask 15 8)] = .ok () ∧ r.f 0 0 2 = 1 ∧ i < nAes s ∧ nAes s ≤ 8 :=
  ⟨(rq 0 [256 * 3 + 1]), rich, _, ⟨by decide, by decide⟩, by decide, rfl, rfl, by decide, by decide, by decide⟩

theorem witness_PortBuffersAndEnables_5 :
    ∃ (r : FwReq) (s : State) (i : _), Asks r s ∧ r.words.length = 1 ∧ i = r.f 0 8 8 ∧ r.only [(0,
    mask 1 0 + mask 15 8)] = .ok () ∧ r.f 0 0 2 = 2 ∧ i < nAsrc s :=
  ⟨(rq 0 [256 * 3 + 2]), rich, _, ⟨by decide, by decide⟩, by decide, rfl, rfl, by decide, by decide⟩

theorem witness_PortBuffersAndEnables_6 :
    ∃ (r : FwReq) (s : State) (i : _), Asks r s ∧ r.words.length = 1 ∧ i = r.f 0 8 8 ∧ r.only [(0,
    mask 1 0 + mask 15 8)] = .ok () ∧ r.f 0 0 2 = 3 ∧ i < nGroups s :=
  ⟨(rq 0 [256 * 3 + 3]), rich, _, ⟨by decide, by decide⟩, by decide, rfl, rfl, by decide, by decide⟩

/-! ## AmplifierCommands -/

theorem witness_AmplifierCommands_0 :
    ∃ (r : FwReq) (s : State) (c : _) (l : _), Asks r s ∧ r.words.length = 5 ∧ hasAmp s = true ∧ c = r.f 0 0 5 ∧ r.f 2 0 12 < nDests s ∧ r.f 2 16 12 < nDests s ∧ isStandby s = false ∧ MayChange r s 16 c ∧ owns s r.seat 3 (r.f 2 0 12) = true ∧ r.only [(0, mask 10 0 + mask 31 16), (1, mask 12 0 + mask 28 16), (2, mask 11 0 + mask 27 16)] = .ok () ∧ (r.f 0 5 1 = 1 → outBindOk s 0x25 (r.f 1 0 13) = true ∧ (envDelay s.fab.img (r.f 1 16 13) (r.f 1 0 13)).isSome = true) ∧ l = [(AMP_CH_CFG_EN c, r.f 0 5 1), (AMP_CH_CFG_SIL_PD c, r.f 0 6 1), (AMP_CH_CFG_TRIP_POL c, r.f 0 7 1), (AMP_CH_CFG_TRIP_FILT c, r.f 0 8 2), (AMP_CH_PROT_OC_EN c, r.f 0 10 1), (AMP_CH_PROT_OC_LIMIT c, r.f 0 16 16), (AMP_CH_SRC_SLOT c, r.f 1 0 13), (AMP_CH_SRC_ENV_SLOT c, r.f 1 16 13), (AMP_CH_DEST_DEST c, r.f 2 0 12), (AMP_CH_DEST_SIL_DEST c, r.f 2 16 12)] ∧ groupOk (putFs l s) s.fab.img (c / 4) = true ∧ ∃ t ws, 
    relayed (fun y => do
      let x ← portBatch y r (r.ci 3) none (l ++ [(AMP_GRP_ENV2_D (c / 4), min (groupD (putFs l s) s.fab.img (c / 4)) 65535)])
      .ok (acquire r 16 c x.1, x.2)) s = .ok (t, ws) :=
  ⟨(rq 0 [32 + 64 + 65536 * 100, 96 + 65536 * 5, 0, 2000, 0]),
  { envy with fw := { envy.fw with owners := [(196608, ⟨0, false, 0⟩), (1048576, ⟨0, false, 0⟩)] } }, _, _,
  ⟨by decide, by decide⟩, by decide, by decide, rfl, by decide, by decide, by decide, ⟨rfl, rfl⟩, by decide, rfl,
  by decide, rfl, by decide, okPair (by decide)⟩

theorem witness_AmplifierCommands_1 :
    ∃ (r : FwReq) (s : State) (g : _), Asks r s ∧ r.words.length = 3 ∧ hasAmp s = true ∧ g = r.f 0 0 3 ∧ isStandby s = false ∧ MayChange r s 17 g ∧ r.only [(0, mask 2 0), (1, mask 23 0), (2, mask 15 0)] = .ok () ∧ groupOk s s.fab.img g = true ∧ ∃ t ws, 
    relayed (fun y => do
      let x ← portBatch y r 0 none [(AMP_GRP_ENV_V_FS g, r.f 1 0 12), (AMP_GRP_ENV_HEADROOM g, r.f 1 12 12),
          (AMP_GRP_ENV2_REL_SLEW g, r.f 2 0 16), (AMP_GRP_ENV2_D g, min (groupD s s.fab.img g) 65535)]
      .ok (acquire r 17 g x.1, [])) s = .ok (t, ws) :=
  ⟨(rq 0 [0, 0, 0]), rich, _, ⟨by decide, by decide⟩, by decide, by decide, rfl, by decide, ⟨rfl, rfl⟩, rfl,
  by decide, okPair (by decide)⟩

theorem witness_AmplifierCommands_2 :
    ∃ (r : FwReq) (s : State), Asks r s ∧ r.words.length = 3 ∧ hasAmp s = true ∧ isStandby s = false ∧
    MayChange r s 18 0 ∧ r.only [(0, mask 18 0), (1, mask 6 0), (2, mask 11 0 + mask 27 16)] = .ok () :=
  ⟨(rq 0 [3, 5, 8 + 65536 * 9]), rich, ⟨by decide, by decide⟩, by decide, by decide, by decide, ⟨rfl, rfl⟩, rfl⟩

theorem witness_AmplifierCommands_3 :
    ∃ (r : FwReq) (s : State), Asks r s ∧ r.words.length = 2 ∧ hasAmp s = true ∧ isStandby s = false ∧ ownsBits s r.seat 16 (getF s AMP_OEN_OEN) (r.w 0) 32 = true ∧ r.w 1 = not32 (r.w 0) ∧ ∃ t ws, 
    relayed (fun y => do
      let x ← portBatch y r 0 none [(AMP_OEN_OEN, r.w 0)]
      .ok ({ x.1 with oenDark := x.1.oenDark.filter (· != AMP_OEN_OEN.addr) }, [])) s = .ok (t, ws) :=
  ⟨(rq 0 [1, 4294967294]),
  { rich with fw := { rich.fw with owners := [(3 * 65536, ⟨0, false, 0⟩), (16 * 65536, ⟨0, false, 0⟩)] } },
  ⟨by decide, by decide⟩, by decide, by decide, by decide, by decide, by decide, okPair (by decide)⟩

theorem witness_AmplifierCommands_4 :
    ∃ (r : FwReq) (s : State), Asks r s ∧ r.words.length = 1 ∧ hasAmp s = true ∧ isStandby s = false ∧
    (∀ c ∈ bitsSet (r.w 0) 32, owns s r.seat 16 c = true ∧ getF s (AMP_CH_STAT_STATE c) = 5) :=
  ⟨(rq 0 [1]), on [(AMP_CH_STAT_STATE 0,
  5)] { rich with fw := { rich.fw with owners := [(3 * 65536, ⟨0, false, 0⟩), (16 * 65536, ⟨0, false, 0⟩)] } },
  ⟨by decide, by decide⟩, by decide, by decide, by decide, by decide⟩

theorem witness_AmplifierCommands_5 :
    ∃ (r : FwReq) (s : State) (i : _), Asks r s ∧ r.words.length = 1 ∧ hasAmp s = true ∧ i = r.f 0 0 5 ∧
    r.f 0 8 1 = 0 ∧ r.only [(0, mask 4 0 + 256)] = .ok () :=
  ⟨(rq 0 [3]), rich, _, ⟨by decide, by decide⟩, by decide, by decide, rfl, by decide, rfl⟩

theorem witness_AmplifierCommands_6 :
    ∃ (r : FwReq) (s : State) (i : _), Asks r s ∧ r.words.length = 1 ∧ hasAmp s = true ∧ i = r.f 0 0 5 ∧
    r.f 0 8 1 = 1 ∧ i < 8 ∧ r.only [(0, mask 4 0 + 256)] = .ok () :=
  ⟨(rq 0 [256 + 3]), rich, _, ⟨by decide, by decide⟩, by decide, by decide, rfl, by decide, by decide, rfl⟩

/-! ## StreamSetup -/

set_option maxRecDepth 20000 in
theorem witness_StreamSetup_0 :
    ∃ (r : FwReq) (s : State) (i : _) (fmt : _) (pt : _) (ch : _) (legs : _) (es : _) (want : _) (d : _) (tab : _) (buf : _) (map : _) (t : _),
    Asks r s ∧ r.words.length = 10 ∧ strIndex s r false = .ok i ∧ legs = (if r.f 1 13 1 == 1 then [4, 7] else [4]) ∧
    legs.all (fun w => decide (r.f (w + 1) 16 2 < nMacs s)) = true ∧ isStandby s = false ∧ MayChange r s 9 i ∧
    r.only [(0, mask 9 0 + mask 31 31), (1, mask 25 0), (5, mask 18 0), (8, mask 18 0)] = .ok () ∧ fmt = r.f 1 0 2 ∧
    pt = r.f 1 2 3 ∧ ch = r.f 1 5 7 ∧ pt ≤ 4 ∧ 1 ≤ ch ∧ ch ≤ 64 ∧ (r.f 1 22 4 ≤ 7 ∨ r.f 1 22 4 = 15) ∧
    legs.all (fun w => decide (strFrameLen s fmt pt ch true ≤ getF s (MAC_MAXLEN_RX_MAX (r.f (w + 1) 16 2)))) = true ∧
    ef (rxEntry s i) 0 0 1 = 0 ∧ (r.f 1 13 1 = 1 ∨ r.w 7 = 0 ∧ r.w 8 = 0 ∧ r.w 9 = 0) ∧
    es = legs.map (fun w => legEntry r w i (b2n (w == 7))) ∧ (es.map clsKey).eraseDups.length = es.length ∧
    (clsWithout s i).any (fun p => ef p.2 1 20 1 == 1 && es.any (fun e => clsKey e == clsKey p.2)) = false ∧
    want = r.f 2 0 16 + r.f 2 16 16 + fwPacketLen s pt + 2 ∧
    d = (if r.f 1 22 4 = 15 then ((List.range 8).find? (fun d => want ≤ 2 ^ (d + 6))).getD 8 else r.f 1 22 4) ∧
    d ≤ 7 ∧ want ≤ 2 ^ (d + 6) ∧ clsInsert (clsWithout s i) es = some tab ∧
    fitBuffer s i (bufferWords d ch) = some buf ∧ fitSpan (mapSpans s false i) 0 2048 ch 1 = some map ∧
    t = [2 * fmt + 8 * pt + 64 * ch + 8192 * r.f 1 12 1 + 16384 * r.f 1 13 1 + 32768 * r.f 1 14 1 + 65536 * map,
    r.w 2, r.w 3, buf + 16777216 * d, r.f 1 15 7, 0] :=
  ⟨(rq 0 [0, 64 + 8192, 0, 0, 1, 5004, 0, 2, 5005, 0]), rich, 0, _, _, _, _, _, _, 0, _, 4096, 0, _, ⟨by decide,
  by decide⟩, by decide, rfl, rfl, by decide, by decide, ⟨rfl, rfl⟩, rfl, rfl, rfl, rfl, by decide, by decide,
  by decide, by decide, by decide, by decide, by decide, rfl, by decide, by decide, rfl, by decide, by decide,
  by decide, rfl, by decide, by decide, rfl⟩

theorem witness_StreamSetup_1 :
    ∃ (r : FwReq) (s : State) (i : _) (fmt : _) (pt : _) (ch : _) (map : _) (t : _), Asks r s ∧ r.words.length = 9 ∧
    strIndex s r true = .ok i ∧ r.f 1 12 2 < nMacs s ∧ isStandby s = false ∧ MayChange r s 10 i ∧ r.only [(0,
    mask 9 0 + mask 31 31), (1, mask 28 0), (7, mask 15 0)] = .ok () ∧ fmt = r.f 1 0 2 ∧ pt = r.f 1 2 3 ∧
    ch = r.f 1 5 7 ∧ pt ≤ 4 ∧ 1 ≤ ch ∧ ch ≤ 64 ∧ strFrameLen s fmt pt ch (r.f 1 15 1 == 1) ≤ 9600 ∧
    ef (txEntry s i) 0 0 1 = 0 ∧ fitSpan (mapSpans s true i) 0 2048 ch 1 = some map ∧
    t = [2 * fmt + 8 * pt + 64 * ch + 8192 * r.f 1 12 2 + 32768 * r.f 1 14 1 + 65536 * map + 134217728 * r.f 1 15 1,
    r.w 2, r.w 3, r.w 4, r.f 5 0 16 + 65536 * r.f 1 23 6 + 4194304 * r.f 1 16 7, r.w 6,
    r.f 7 0 16 + 65536 * r.f 5 16 16, r.w 8] :=
  ⟨(rq 0 [0, 64, 1, 2, 3, 4, 5, 6, 7]), rich, 0, _, _, _, _, _, ⟨by decide, by decide⟩, by decide, rfl, by decide,
  by decide, ⟨rfl, rfl⟩, rfl, rfl, rfl, rfl, by decide, by decide, by decide, by decide, by decide, rfl, rfl⟩

/-! ## StreamOperation -/

theorem witness_StreamOperation_0 :
    ∃ (r : FwReq) (s : State), Asks r s ∧ r.words.length = 4 ∧ r.f 1 8 6 = 0 ∧
    strRef s r (mask 9 0 + 65536) = .ok () ∧ r.only [(1, mask 5 0 + mask 13 8)] = .ok () :=
  ⟨(rq 0 [0, 0, 0, 0]), rich, ⟨by decide, by decide⟩, by decide, by decide, rfl, rfl⟩

theorem witness_StreamOperation_1 :
    ∃ (r : FwReq) (s : State) (n : _) (tx : _) (i : _) (e : _) (hs : _), Asks r s ∧ n = r.f 1 8 6 ∧ n ≠ 0 ∧ r.words.length = 4 + (n + 1) / 2 ∧ tx = (r.f 0 16 1 == 1) ∧ i = r.f 0 0 10 ∧ strRef s r (mask 9 0 + 65536) = .ok () ∧ r.only [(1, mask 5 0 + mask 13 8)] = .ok () ∧ hs = fwStreamMap.halvesAt' r 4 n ∧ (∀ h ∈ hs, bits h 13 2 = 0) ∧ strExists s tx i = true ∧ e = strEntry s tx i ∧ r.f 1 0 6 + n ≤ ef e 0 6 7 ∧ (∀ h ∈ hs, bitOf h 15 = true → (if tx then outBindOk s 0x20 (bits h 0 13) else inBindOk s 0x20 (bits h 0 13)) = true) ∧ quotaFor s r (strKind tx) i = .ok () ∧ ∃ t ws, 
    relayed (fun y => do
      let x ← optionalBatch y r (r.ci 2) (((List.range n).zip hs).map (fun p => BufChange.chan tx i (ef e 0 16 11 + r.f 1 0 6 + p.1) p.2))
          (fun y => settled ((((List.range n).zip hs).map (fun p => BufChange.chan tx i (ef e 0 16 11 + r.f 1 0 6 + p.1) p.2)).foldl
            (fun y c => applyChange c y) y))
      .ok (acquire r (strKind tx) i x.1, x.2)) s = .ok (t, ws) :=
  ⟨(rq 0 [0, 256, 2000, 0, 32768 + 88]),
  { rich with str := { rich.str with rx := [(0, [64, 0, 0, 0, 0, 0, 0, 0])] } }, _, _, _, _, _, ⟨by decide,
  by decide⟩, rfl, by decide, by decide, rfl, rfl, rfl, rfl, rfl, by decide, by decide, rfl, by decide, by decide,
  rfl, okPair (by decide)⟩

theorem witness_StreamOperation_2 :
    ∃ (r : FwReq) (s : State) (tx : _) (en : _) (i : _), Asks r s ∧ r.words.length = 3 ∧ tx = (r.f 0 16 1 == 1) ∧ en = (r.f 0 17 1 == 1) ∧ i = r.f 0 0 10 ∧ strRef s r (mask 9 0 + mask 17 16) = .ok () ∧ strExists s tx i = true ∧ quotaFor s r (strKind tx) i = .ok () ∧ (en = true → ef (strEntry s tx i) 0 0 1 = 1 ∨ strRoom s tx i = true) ∧ ∃ t ws, 
    relayed (fun y => do
      let x ← optionalBatch y r (r.ci 1) [.strEn tx i en]
          (fun y => settled (applyChange (.strEn tx i en) y))
      .ok (acquire r (strKind tx) i x.1, x.2)) s = .ok (t, ws) :=
  ⟨(rq 0 [65536 + 131072, 2000, 0]), { rich with str := { rich.str with tx := [(0, [64, 0, 0, 0, 0, 0, 0, 0])] } }, _,
  _, _, ⟨by decide, by decide⟩, by decide, rfl, rfl, rfl, rfl, by decide, rfl, by decide, okPair (by decide)⟩

theorem witness_StreamOperation_3 :
    ∃ (r : FwReq) (s : State) (i : _) (e : _), Asks r s ∧ r.words.length = 1 ∧ r.f 0 16 1 = 1 ∧ i = r.f 0 0 10 ∧
    strRef s r (mask 9 0 + 65536) = .ok () ∧ e = txEntry s i ∧ ef e 0 6 7 ≠ 0 ∧ ef e 0 0 1 = 0 ∧
    (txStr s i).active = false :=
  ⟨(rq 0 [65536]), { rich with str := { rich.str with tx := [(0, [64, 0, 0, 0, 0, 0, 0, 0])] } }, _, _, ⟨by decide,
  by decide⟩, by decide, by decide, rfl, rfl, rfl, by decide, by decide, by decide⟩

theorem witness_StreamOperation_4 :
    ∃ (r : FwReq) (s : State) (i : _) (e : _), Asks r s ∧ r.words.length = 1 ∧ r.f 0 16 1 = 0 ∧ i = r.f 0 0 10 ∧
    strRef s r (mask 9 0 + 65536) = .ok () ∧ e = rxEntry s i ∧ ef e 0 6 7 ≠ 0 ∧ ef e 0 0 1 = 0 ∧
    (rxStr s i).active = false :=
  ⟨(rq 0 [0]), { rich with str := { rich.str with rx := [(0, [64, 0, 0, 0, 0, 0, 0, 0])] } }, _, _, ⟨by decide,
  by decide⟩, by decide, by decide, rfl, rfl, rfl, by decide, by decide, by decide⟩

theorem witness_StreamOperation_5 :
    ∃ (r : FwReq) (s : State) (i : _), Asks r s ∧ r.words.length = 1 ∧ r.f 0 16 1 = 1 ∧ i = r.f 0 0 10 ∧ i < nTxs s ∧
    r.only [(0, mask 9 0 + 65536 + 262144)] = .ok () ∧ (r.f 0 18 1 = 1 → isStandby s = false ∧
    owns s r.seat 10 i = true) :=
  ⟨(rq 0 [65536 + 262144]), { rich with fw := { rich.fw with owners := [(655360, ⟨0, false, 0⟩)] } }, _, ⟨by decide,
  by decide⟩, by decide, by decide, rfl, by decide, rfl, by decide⟩

theorem witness_StreamOperation_6 :
    ∃ (r : FwReq) (s : State) (i : _), Asks r s ∧ r.words.length = 1 ∧ r.f 0 16 1 = 0 ∧ i = r.f 0 0 10 ∧ i < nRxs s ∧
    r.only [(0, mask 9 0 + 65536 + 262144)] = .ok () ∧ (r.f 0 18 1 = 1 → isStandby s = false ∧
    owns s r.seat 9 i = true) :=
  ⟨(rq 0 [262144]), { rich with fw := { rich.fw with owners := [(589824, ⟨0, false, 0⟩)] } }, _, ⟨by decide,
  by decide⟩, by decide, by decide, rfl, by decide, rfl, by decide⟩

/-! ## ClockCommands -/

theorem witness_ClockCommands_0 :
    ∃ (r : FwReq) (s : State) (k : _), Asks r s ∧ r.words.length = 5 ∧ k = r.f 0 0 3 ∧ MayChange r s 15 0 ∧
    r.only [(0, mask 11 0), (1, mask 15 0), (2, mask 19 0), (3, mask 23 0)] = .ok () ∧ r.w 1 ≠ 0 ∧ (1 ≤ k ∧ k ≤ 6 →
    1 ≤ r.w 3 ∧ r.w 3 ≤ clkBase s ∧ r.f 4 0 20 ≠ 0) :=
  ⟨(rq 0 [1 + 8, 100, 0, 25, 1]), up, _, ⟨by decide, by decide⟩, by decide, rfl, ⟨rfl, rfl⟩, rfl, by decide,
  by decide⟩

theorem witness_ClockCommands_1 :
    ∃ (r : FwReq) (s : State), Asks r s ∧ r.words.length = 2 ∧ MayChange r s 15 0 ∧ r.only [(0, mask 6 0)] = .ok () ∧
    r.w 1 = not32 (r.w 0) ∧ r.f 0 6 1 = (if running s then getF s FAB_TL_STATUS_FAMILY else getF s CLK_SEL_FAMILY) :=
  ⟨(rq 0 [3, 4294967292]), up, ⟨by decide, by decide⟩, by decide, ⟨rfl, rfl⟩, rfl, by decide, by decide⟩

theorem witness_ClockCommands_2 :
    ∃ (r : FwReq) (s : State), Asks r s ∧ r.words.length = 1 ∧ MayChange r s 15 0 ∧ 1 ≤ r.f 0 6 7 ∧ r.f 0 6 7 ≤ 100 ∧
    r.f 0 17 15 ≠ 0 :=
  ⟨(rq 0 [64 + 131072]), up, ⟨by decide, by decide⟩, by decide, ⟨rfl, rfl⟩, by decide, by decide, by decide⟩

theorem witness_ClockCommands_3 :
    ∃ (r : FwReq) (s : State), Asks r s ∧ r.words.length = 1 ∧ MayChange r s 15 0 ∧
    (toS 32 (r.w 0)).natAbs ≤ 219902325 ∧ getF s CLK_STAT_STEER ≠ 0 :=
  ⟨(rq 0 [4294967295]), on [(CLK_STAT_STEER, 1)] up, ⟨by decide, by decide⟩, by decide, ⟨rfl, rfl⟩, by decide,
  by decide⟩

theorem witness_ClockCommands_4 :
    ∃ (r : FwReq) (s : State), Asks r s ∧ r.words.length = 1 ∧ MayChange r s 15 0 ∧ r.only [(0, mask 19 0)] = .ok () ∧
    (toS 16 (getF s CLK_PSTEP_STEP) + toS 16 (r.w 0)).natAbs ≤ 32767 :=
  ⟨(rq 0 [3]), up, ⟨by decide, by decide⟩, by decide, ⟨rfl, rfl⟩, rfl, by decide⟩

theorem witness_ClockCommands_5 :
    ∃ (r : FwReq) (s : State) (e : _), Asks r s ∧ r.words.length = 4 ∧ MayChange r s 15 0 ∧ r.only [(1, mask 7 0), (2,
    mask 3 0), (3, mask 27 0 + mask 31 31)] = .ok () ∧ (toS 32 (r.w 0)).natAbs ≤ 100000 ∧ e = r.f 2 0 3 :=
  ⟨(rq 0 [5, 3, 8 + 2, 1]), up, _, ⟨by decide, by decide⟩, by decide, ⟨rfl, rfl⟩, rfl, by decide, rfl⟩

theorem witness_ClockCommands_6 :
    ∃ (r : FwReq) (s : State), Asks r s ∧ r.words.length = 10 ∧ (hasAmp s = true ∨ r.f 0 6 8 = 0 ∧ r.w 8 = 0 ∧
    r.w 9 = 0) ∧ MayChange r s 15 0 ∧ r.only [(0, mask 13 0), (2, mask 3 0), (3, mask 3 0), (4, mask 3 0), (5,
    mask 3 0), (6, mask 6 0 + mask 31 8), (7, mask 6 0 + mask 31 8), (8, mask 2 0), (9, 1)] = .ok () ∧
    r.w 1 = not32 (r.w 0) ∧ (∀ k ∈ [2, 3, 4, 5], r.f k 2 2 ≠ 3) ∧ (∀ k ∈ [6, 7], r.f k 1 2 ≠ 3 ∧ r.f k 3 3 ≤ 4 ∧
    (toS 24 (r.f k 8 24)).natAbs < 24576 / 2 ^ min (r.f k 1 2) 2) :=
  ⟨(rq 0 [1 + 16, 4294967278, 1, 0, 0, 0, 1, 0, 4, 0]), up, ⟨by decide, by decide⟩, by decide, by decide, ⟨rfl, rfl⟩,
  rfl, by decide, by decide, by decide⟩

theorem witness_ClockCommands_7 :
    ∃ (r : FwReq) (s : State), Asks r s ∧ r.words.length = 1 ∧ r.only [(0, 7)] = .ok () :=
  ⟨(rq 0 [2]), up, ⟨by decide, by decide⟩, by decide, rfl⟩

/-! ## NetCommands -/

theorem witness_NetCommands_0 :
    ∃ (r : FwReq) (s : State) (m : _), Asks r s ∧ r.words.length = 5 ∧ m = r.f 0 0 2 ∧ m < nMacs s ∧
    MayChange r s 11 m ∧ r.only [(0, mask 17 0), (1, mask 13 0 + mask 29 16), (2, mask 15 0), (4,
    mask 15 0)] = .ok () ∧ 1518 ≤ r.f 1 0 14 ∧ r.f 1 0 14 ≤ 9600 ∧ 64 ≤ r.f 1 16 14 ∧ r.f 1 16 14 ≤ 9600 ∧
    (getF s (MAC_CTL_EN m) = 0 ∨ getF s (MAC_CTL_MODE m) = r.f 0 3 1 ∧ getF s (MAC_CTL_RATE_SRC m) = r.f 0 4 2 ∧
    getF s (MAC_CTL_FIXED_RATE m) = r.f 0 6 3 ∧ getF s (MAC_CTL_RATE_EN m) = r.f 0 9 4) :=
  ⟨(rq 0 [1 + 4, 1518 + 65536 * 64, 0, 1, 2]), up, _, ⟨by decide, by decide⟩, by decide, rfl, by decide, ⟨rfl, rfl⟩,
  rfl, by decide, by decide, by decide, by decide, by decide⟩

theorem witness_NetCommands_1 :
    ∃ (r : FwReq) (s : State) (m : _), Asks r s ∧ r.words.length = 5 ∧ m = r.f 0 0 2 ∧ m < nMacs s ∧
    MayChange r s 11 m ∧ r.only [(0, 3), (4, mask 8 0 + mask 31 16)] = .ok () :=
  ⟨(rq 0 [1, 10, 20, 30, 64 + 256]), up, _, ⟨by decide, by decide⟩, by decide, rfl, by decide, ⟨rfl, rfl⟩, rfl⟩

theorem witness_NetCommands_2 :
    ∃ (r : FwReq) (s : State) (m : _), Asks r s ∧ r.words.length = 3 ∧ m = r.f 0 0 2 ∧ m < nMacs s ∧
    MayChange r s 11 m ∧ r.only [(0, 3), (2, mask 19 0)] = .ok () :=
  ⟨(rq 0 [1, 2, 3]), up, _, ⟨by decide, by decide⟩, by decide, rfl, by decide, ⟨rfl, rfl⟩, rfl⟩

theorem witness_NetCommands_3 :
    ∃ (r : FwReq) (s : State) (b : _) (op : MdioOp), Asks r s ∧ r.words.length = 2 ∧ b = r.f 0 0 1 ∧ b < nMdio s ∧
    (owns s r.seat 11 (2 * b) = true ∨ owns s r.seat 11 (2 * b + 1) = true) ∧ r.only [(0, mask 13 0), (1,
    mask 15 0)] = .ok () ∧ op = ⟨255, r.f 0 1 5, r.f 0 6 5, r.f 0 11 1, r.f 0 12 2, r.f 1 0 16⟩ :=
  ⟨(rq 0 [4096, 5]), { up with fw := { up.fw with owners := [(720896, ⟨0, false, 0⟩)] } }, _, _, ⟨by decide,
  by decide⟩, by decide, rfl, by decide, by decide, rfl, rfl⟩

theorem witness_NetCommands_4 :
    ∃ (r : FwReq) (s : State) (m : _), Asks r s ∧ r.words.length = 1 ∧ m = r.f 0 0 2 ∧ m < nMacs s ∧ r.only [(0,
    mask 1 0 + 256)] = .ok () ∧ r.f 0 8 1 = 0 :=
  ⟨(rq 0 [1]), up, _, ⟨by decide, by decide⟩, by decide, rfl, by decide, rfl, by decide⟩

theorem witness_NetCommands_5 :
    ∃ (r : FwReq) (s : State) (m : _), Asks r s ∧ r.words.length = 1 ∧ m = r.f 0 0 2 ∧ m < nMacs s ∧ r.only [(0,
    mask 1 0 + 256)] = .ok () ∧ r.f 0 8 1 = 1 ∧ owns s r.seat 11 m = true :=
  ⟨(rq 0 [257]), { up with fw := { up.fw with owners := [(720897, ⟨0, false, 0⟩)] } }, _, ⟨by decide, by decide⟩,
  by decide, rfl, by decide, rfl, by decide, by decide⟩

/-! ## TimeCommands -/

theorem witness_TimeCommands_0 :
    ∃ (r : FwReq) (s : State), Asks r s ∧ r.words.length = 4 ∧ r.f 0 0 2 < nMacs s ∧ MayChange r s 12 0 ∧ r.only [(0,
    mask 5 0), (1, mask 23 0)] = .ok () :=
  ⟨(rq 0 [32 + 1, 0, 0, 0]), up, ⟨by decide, by decide⟩, by decide, by decide, ⟨rfl, rfl⟩, rfl⟩

theorem witness_TimeCommands_1 :
    ∃ (r : FwReq) (s : State), Asks r s ∧ r.words.length = 0 :=
  ⟨(rq 0 []), up, ⟨by decide, by decide⟩, by decide⟩

theorem witness_TimeCommands_2 :
    ∃ (r : FwReq) (s : State), Asks r s ∧ r.words.length = 2 ∧ isStandby s = false ∧ MayChange r s 1 0 ∧
    MayChange r s 12 0 ∧ r.w 0 < 32768 ∧ r.w 1 = not32 (r.w 0) ∧ r.w 0 * nextRate s < 1000000000 ∧ running s = false :=
  ⟨(rq 0 [100, 4294967195]), up, ⟨by decide, by decide⟩, by decide, by decide, ⟨rfl, rfl⟩, ⟨rfl, rfl⟩, by decide,
  by decide, by decide, by decide⟩

theorem witness_TimeCommands_3 :
    ∃ (r : FwReq) (s : State), Asks r s ∧ r.words.length = 2 ∧ isStandby s = false ∧ MayChange r s 1 0 ∧ MayChange r s 12 0 ∧ running s = true ∧ ∃ t ws, 
    relayed (fun y => do
      let a ← arm y r ⟨4, r.seat, r.ci 0, false, [], [], [], false⟩
      .ok (acquire r 12 0 (acquire r 1 0 a.2.2), (schedReply a.1 a.2.1))) s = .ok (t, ws) :=
  ⟨(rq 0 [3000, 0]), run, ⟨by decide, by decide⟩, by decide, by decide, ⟨rfl, rfl⟩, ⟨rfl, rfl⟩, by decide,
  okPair (by decide)⟩

theorem witness_TimeCommands_4 :
    ∃ (r : FwReq) (s : State) (o : _) (start : _), Asks r s ∧ r.words.length = 6 ∧ o = r.f 0 0 3 ∧
    MayChange r s 13 o ∧ r.only [(0, mask 5 0), (2, mask 15 0)] = .ok () ∧ r.w 3 < 1000000000 ∧
    start = ((r.w 1 + 4294967296 * r.w 2) * 1000000000 + r.w 3) % 281474976710656 :=
  ⟨(rq 0 [8 + 1, 10, 0, 5, 1000, 100]), up, _, _, ⟨by decide, by decide⟩, by decide, rfl, ⟨rfl, rfl⟩, rfl, by decide,
  rfl⟩

theorem witness_TimeCommands_5 :
    ∃ (r : FwReq) (s : State) (i : _), Asks r s ∧ r.words.length = 1 ∧ i = r.f 0 0 3 ∧ MayChange r s 14 i ∧
    r.only [(0, mask 5 0)] = .ok () :=
  ⟨(rq 0 [8 + 2]), up, _, ⟨by decide, by decide⟩, by decide, rfl, ⟨rfl, rfl⟩, rfl⟩

theorem witness_TimeCommands_6 :
    ∃ (r : FwReq) (s : State) (i : _), Asks r s ∧ r.words.length = 1 ∧ i = r.f 0 0 3 ∧ MayChange r s 14 i ∧
    r.only [(0, 7)] = .ok () :=
  ⟨(rq 0 [2]), putCaptures 2 [⟨1000, true⟩] up, _, ⟨by decide, by decide⟩, by decide, rfl, ⟨rfl, rfl⟩, rfl⟩

theorem witness_TimeCommands_7 :
    ∃ (r : FwReq) (s : State) (m : _), Asks r s ∧ r.words.length = 3 ∧ m = r.f 0 0 2 ∧ m < nMacs s ∧
    MayChange r s 12 0 ∧ r.only [(0, 3), (1, mask 15 0), (2, mask 15 0)] = .ok () :=
  ⟨(rq 0 [1, 200, 300]), up, _, ⟨by decide, by decide⟩, by decide, rfl, by decide, ⟨rfl, rfl⟩, rfl⟩

/-! ## DiagCommands -/

theorem witness_DiagCommands_0 :
    ∃ (r : FwReq) (s : State), Asks r s ∧ r.words.length = 2 ∧ r.w 0 % 4 = 0 ∧ 1 ≤ r.w 1 ∧ r.w 1 ≤ 248 ∧
    r.w 0 + 4 * r.w 1 ≤ 4294967296 ∧ (∀ k, k < r.w 1 → diagRefuses (r.w 0 + 4 * k) = false) :=
  ⟨(rq 0 [537133056 + 256, 2]), up, ⟨by decide, by decide⟩, by decide, by decide, by decide, by decide, by decide,
  by decide⟩

theorem witness_DiagCommands_1 :
    ∃ (r : FwReq) (s : State) (n : _), Asks r s ∧ r.words.length = 1 ∧ n = r.f 0 0 5 ∧ n < nTiles s ∧ nTiles s ≤ 32 ∧
    r.only [(0, mask 4 0 + 256)] = .ok () ∧ (r.f 0 8 1 = 1 → MayChange r s 1 0) :=
  ⟨(rq 0 [256 + 3]), up, _, ⟨by decide, by decide⟩, by decide, rfl, by decide, by decide, rfl, fun _ => ⟨rfl, rfl⟩⟩

theorem witness_DiagCommands_2 :
    ∃ (r : FwReq) (s : State) (f : _), Asks r s ∧ r.words.length = 1 ∧ r.seat = 0 ∧ r.only [(0, 3 + mask 15 8)] = .ok () ∧ r.f 0 0 2 ≠ 3 ∧ r.f 0 8 8 ≤ 16 ∧ 
    f = (fun s => match r.f 0 0 2 with
      | 0 => logTake 0x20040010 0x2004001C (fun s => s.fab.guardLog.length) (r.f 0 8 8) s
      | 1 => logTake 0x20030010 0x2003001C (fun s => s.ash.log.length) (r.f 0 8 8) s
      | _ => logTake 0x20020000 0x2002000C (fun s => s.vsr.log.length) (r.f 0 8 8) s) :=
  ⟨(rq 0 [512 + 1]), up, _, ⟨by decide, by decide⟩, by decide, by decide, rfl, by decide, by decide, rfl⟩

theorem witness_DiagCommands_3 :
    ∃ (r : FwReq) (s : State), Asks r s ∧ r.words.length = 2 ∧ r.seat = 0 :=
  ⟨(rq 0 [1, 2]), up, ⟨by decide, by decide⟩, by decide, by decide⟩

theorem witness_DiagCommands_4 :
    ∃ (r : FwReq) (s : State), Asks r s ∧ r.words.length = 1 ∧ r.seat = 0 ∧ r.only [(0, mask 5 0)] = .ok () ∧
    r.w 0 ≤ s.ctl.svn :=
  ⟨(rq 0 [0]), up, ⟨by decide, by decide⟩, by decide, by decide, rfl, by decide⟩

theorem witness_DiagCommands_5 :
    ∃ (r : FwReq) (s : State) (n : _), Asks r s ∧ r.words.length = 1 ∧ r.seat = 0 ∧ r.w 0 = 0 ∧
    n = (Config.debugNonce (takeFree s).1).toNat :=
  ⟨(rq 0 [0]), up, _, ⟨by decide, by decide⟩, by decide, by decide, by decide, rfl⟩

theorem witness_DiagCommands_6 :
    ∃ (r : FwReq) (s : State) (n : _), Asks r s ∧ r.words.length = 35 ∧ r.seat = 0 ∧ r.w 0 = 1 ∧ r.only [(1, 3), (18,
    255)] = .ok () ∧ s.fw.nonce = some n ∧ debugOk s r n = true :=
  ⟨(rq 0 [1, 0, 2079489028, 1325632792, 944933502, 448070659, 1770635459, 468875234, 1208722997, 2573617148,
  1433864056, 3499023120, 2587699520, 812949446, 2910698203, 2196323558, 3070533161, 1937253021, 209, 4073789291,
  1195519201, 3857104120, 4064322659, 2172453751, 2687757101, 1161404916, 2529335512, 2007779607, 3959807471,
  929232400, 3175891389, 3196440529, 4191927649, 3503507110, 685144073]),
  { up with fw := { up.fw with nonce := some 5 }, fuses := { up.fuses with keyHash := [76870221592313293596531515590676202418127074563992559470271314542513768438412] } },
  _, ⟨by decide, by decide⟩, by decide, by decide, by decide, rfl, rfl, by decide +kernel⟩

/-! ## PairCommands -/

theorem witness_PairCommands_0 :
    ∃ (r : FwReq) (s : State), Asks r s ∧ r.words.length = 3 ∧ MayChange r s 19 0 ∧ r.only [(0,
    mask 4 0 + mask 11 8 + mask 23 16), (2, mask 7 0)] = .ok () ∧ r.f 0 8 4 ≠ 0 ∧ 2 ≤ r.f 0 0 3 ∧ r.f 0 0 3 ≤ 4 ∧
    r.w 1 = not32 (r.w 0) :=
  ⟨(rq 0 [3 + 256 * 2, 4294966780, 255]), up, ⟨by decide, by decide⟩, by decide, ⟨rfl, rfl⟩, rfl, by decide,
  by decide, by decide, by decide⟩

theorem witness_PairCommands_1 :
    ∃ (r : FwReq) (s : State), Asks r s ∧ r.words.length = 0 :=
  ⟨(rq 0 []), up, ⟨by decide, by decide⟩, by decide⟩

theorem witness_PairCommands_2 :
    ∃ (r : FwReq) (s : State), Asks r s ∧ r.words.length = 0 ∧ MayChange r s 19 0 ∧ getF s PAIR_STAT_STATE = 9 :=
  ⟨(rq 0 []), on [(PAIR_STAT_STATE, 9)] up, ⟨by decide, by decide⟩, by decide, ⟨rfl, rfl⟩, by decide⟩

theorem witness_PairCommands_3 :
    ∃ (r : FwReq) (s : State), Asks r s ∧ r.words.length = 0 ∧ MayChange r s 19 0 ∧ getF s PAIR_STAT_CLAIM ≠ 0 ∧
    s.pins.pairEn = true ∧ getF s PAIR_STAT_PARTNER_STATE = 5 ∧ s.pair.restate = 0 :=
  ⟨(rq 0 []), on [(PAIR_STAT_CLAIM, 1), (PAIR_STAT_PARTNER_STATE,
  5)] { up with pins := { up.pins with pairEn := true } }, ⟨by decide, by decide⟩, by decide, ⟨rfl, rfl⟩, by decide,
  by decide, by decide, by decide⟩

theorem witness_PairCommands_4 :
    ∃ (r : FwReq) (s : State), Asks r s ∧ r.words.length = 2 ∧ MayChange r s 19 0 ∧ (r.ci 0 ≠ 0 ∨ r.asap = true) ∧ getF s PAIR_STAT_CLAIM ≠ 0 ∧ getF s PAIR_STAT_STATE = 3 ∧ ∃ t ws, 
                                 relayed (fun y => do
      let a ← arm y r ⟨7, r.seat, r.ci 0, false, [], [], [], false⟩
      .ok (acquire r 19 0 a.2.2, schedReply a.1 a.2.1)) s = .ok (t, ws) :=
  ⟨(rq 0 [3000, 0]), on [(PAIR_STAT_CLAIM, 1), (PAIR_STAT_STATE, 3)] run, ⟨by decide, by decide⟩, by decide, ⟨rfl,
  rfl⟩, by decide, by decide, by decide, okPair (by decide)⟩

theorem witness_PairCommands_5 :
    ∃ (r : FwReq) (s : State), Asks r s ∧ r.words.length = 0 ∧ MayChange r s 19 0 :=
  ⟨(rq 0 []), up, ⟨by decide, by decide⟩, by decide, ⟨rfl, rfl⟩⟩

/-! ## PowerCommands -/

theorem witness_PowerCommands_0 :
    ∃ (r : FwReq) (s : State), Asks r s ∧ r.words.length = 2 ∧ MayChange r s 20 0 ∧ r.only [(0, mask 1 0), (1,
    mask 19 0 - 8)] = .ok () ∧ r.w 0 < 3 ∧ (r.w 0 = 2 → r.w 1 ≠ 0) ∧ s.pwr.entering = 0 ∧
    (getF s PWR_STAT_STATE = 0 ∨ getF s PWR_STAT_STATE = 1) ∧ getF s PWR_STAT_STATE ≠ r.w 0 ∧
    getF s FAB_STAT_IMG_STATE ∉ [2, 3, 4] ∧ (getF s PAIR_STAT_CLAIM = 0 ∨ partnerEligible s = false) :=
  ⟨(rq 0 [2, 1]), up, ⟨by decide, by decide⟩, by decide, ⟨rfl, rfl⟩, rfl, by decide, by decide, by decide, by decide,
  by decide, by decide, by decide⟩

theorem witness_PowerCommands_1 :
    ∃ (r : FwReq) (s : State) (n : _), Asks r s ∧ r.words.length = 3 ∧ n = r.f 0 0 4 ∧ 8 * n < nBanks s ∧
    MayChange r s 20 0 ∧ r.only [(0, mask 3 0)] = .ok () ∧ r.w 2 = not32 (r.w 1) :=
  ⟨(rq 0 [1, 3, 4294967292]), up, _, ⟨by decide, by decide⟩, by decide, rfl, by decide, ⟨rfl, rfl⟩, rfl, by decide⟩

theorem witness_PowerCommands_2 :
    ∃ (r : FwReq) (s : State), Asks r s ∧ r.words.length = 1 ∧ MayChange r s 20 0 ∧ r.only [(0, mask 7 0)] = .ok () :=
  ⟨(rq 0 [5]), up, ⟨by decide, by decide⟩, by decide, ⟨rfl, rfl⟩, rfl⟩

theorem witness_PowerCommands_3 :
    ∃ (r : FwReq) (s : State), Asks r s ∧ r.words.length = 0 :=
  ⟨(rq 0 []), up, ⟨by decide, by decide⟩, by decide⟩

/-! ## ControlFabAndSeatReset -/

theorem witness_ControlFabAndSeatReset_0 :
    ∃ (s : State), (s.ctl.reqWdt || s.ctl.reqLock || s.ctl.reqSoft) = true :=
  ⟨{ run with ctl := { run.ctl with reqWdt := true } }, by decide⟩

theorem witness_ControlFabAndSeatReset_1 :
    ∃ (s : State), (s.ctl.reqWdt || s.ctl.reqLock || s.ctl.reqSoft) = false :=
  ⟨run, by decide⟩

theorem witness_ControlFabAndSeatReset_2 :
    ∃ (s : State), fwUp s = true :=
  ⟨run, by decide⟩

theorem witness_ControlFabAndSeatReset_4 :
    ∃ (n : _) (s : State), n < 4 ∧ s.pwr.rest = false :=
  ⟨2, run, by decide, by decide⟩

/-! ## BootSequence -/

theorem witness_BootSequence_0 :
    ∃ (b : _) (m : _) (s : State), s.ctl.boot = .inReset ∧ s.fuses.capC = not32 s.fuses.cap ∧ ¬ (b % 4 = 1 ∧
    m % 4 = 3) :=
  ⟨1, 2, { State.reset with ctl := { State.reset.ctl with boot := .inReset } }, by decide, by decide, by decide⟩

theorem witness_BootSequence_1 :
    ∃ (s : State), s.ctl.boot = .inReset ∧ s.fuses.capC ≠ not32 s.fuses.cap :=
  ⟨{ State.reset with ctl := { State.reset.ctl with boot := .inReset }, fuses := { Fuses.part with capC := 0 } },
  by decide, by decide⟩

theorem witness_BootSequence_2 :
    ∃ (b : _) (m : _) (s : State), s.ctl.boot = .inReset ∧ s.fuses.capC = not32 s.fuses.cap ∧ b % 4 = 1 ∧ m % 4 = 3 :=
  ⟨1, 3, { State.reset with ctl := { State.reset.ctl with boot := .inReset } }, by decide, by decide, by decide,
  by decide⟩

theorem witness_BootSequence_3 :
    ∃ (s : State), s.ctl.boot ≠ .inReset ∧ getF s ASH_STAT_FILL_DONE = 0 :=
  ⟨State.reset, by decide, by decide⟩

theorem witness_BootSequence_4 :
    ∃ (i : _) (s : State), bootWindowOpen s i = true :=
  ⟨0, on [(ASH_STAT_FILL_DONE, 1)] { State.reset with pins := { State.reset.pins with bootSrc := 1 } }, by decide⟩

theorem witness_BootSequence_5 :
    ∃ (s : State), romReady s = true :=
  ⟨on [(ASH_STAT_FILL_DONE, 1)] State.reset, by decide⟩

theorem witness_BootSequence_6 :
    ∃ (s : State), romReady s = true :=
  ⟨on [(ASH_STAT_FILL_DONE, 1)] State.reset, by decide⟩

theorem witness_BootSequence_8 :
    ∃ (s : State), s.pwr.rest = false ∧ s.ctl.boot ≠ .inReset :=
  ⟨up, by decide, by decide⟩

theorem witness_BootSequence_9 :
    ∃ (s : State), s.ctl.boot = .firmware :=
  ⟨up, by decide⟩

/-! ## WatchdogAndLockstep -/

theorem witness_WatchdogAndLockstep_0 :
    ∃ (s : State), s.ctl.boot ≠ .inReset ∧ s.pwr.rest = false :=
  ⟨up, by decide, by decide⟩

theorem witness_WatchdogAndLockstep_1 :
    ∃ (s : State), s.ctl.boot ≠ .inReset ∧ s.pwr.rest = false ∧ s.ctl.kick = some wdtKey :=
  ⟨{ up with ctl := { up.ctl with kick := some wdtKey } }, by decide, by decide, by decide⟩

theorem witness_WatchdogAndLockstep_2 :
    ∃ (v : _) (s : State), s.ctl.boot ≠ .inReset ∧ s.pwr.rest = false ∧
    (s.ctl.kick ≠ some wdtKey ∨ lo32 v ≠ not32 wdtKey) :=
  ⟨7, { up with ctl := { up.ctl with kick := some wdtKey } }, by decide, by decide, by decide⟩

theorem witness_WatchdogAndLockstep_3 :
    ∃ (s : State), s.ctl.boot ≠ .inReset ∧ s.pwr.rest = false ∧
    (s.ctl.debugOpen && flag s SYS_WDT_CTL_DBG_PAUSE) = false ∧ flag s SYS_WDT_CTL_ESCALATE = false :=
  ⟨up, by decide, by decide, by decide, by decide⟩

theorem witness_WatchdogAndLockstep_4 :
    ∃ (s : State), s.ctl.boot ≠ .inReset ∧ s.pwr.rest = false ∧
    (s.ctl.debugOpen && flag s SYS_WDT_CTL_DBG_PAUSE) = false ∧ flag s SYS_WDT_CTL_ESCALATE = true :=
  ⟨on [(SYS_WDT_CTL_ESCALATE, 1)] up, by decide, by decide, by decide, by decide⟩

theorem witness_WatchdogAndLockstep_5 :
    ∃ (s : State), s.ctl.boot ≠ .inReset ∧ s.pwr.rest = false :=
  ⟨up, by decide, by decide⟩

/-! ## RegisterRequests -/

theorem witness_RegisterRequests_0 :
    ∃ (a : _) (v : _) (s : State), canIssue s 1 = true ∧ heldBack s s.vsr.held ⟨1, 0, true, a, 4, 1, [lo32 v],
    false⟩ = false ∧ busTarget s a = .reg a :=
  ⟨0x20040020, 3, up, by decide, by decide, by decide⟩

theorem witness_RegisterRequests_1 :
    ∃ (s : State), s.pwr.rest = false ∧ s.ctl.boot ≠ .inReset :=
  ⟨up, by decide, by decide⟩

theorem witness_RegisterRequests_3 :
    ∃ (n : _) (s : State), n < 4 ∧ s.pwr.rest = false :=
  ⟨3, run, by decide, by decide⟩

theorem witness_RegisterRequests_8 :
    ∃ (s : State), running s = true ∧ s.fab.ci < 2 ^ 64 :=
  ⟨run, by decide, by decide⟩

theorem witness_RegisterRequests_9 :
    ∃ (s : State), running s = true :=
  ⟨run, by decide⟩

theorem witness_RegisterRequests_10 :
    ∃ (s : State), running s = false :=
  ⟨up, by decide⟩

/-! ## PairedRegisters -/

theorem witness_PairedRegisters_0 :
    ∃ (a : _) (s : State), isPair a = true ∧ absentReg s a = false :=
  ⟨0x20040110, up, by decide, by decide⟩

theorem witness_PairedRegisters_1 :
    ∃ (a : _) (c : _) (s : State), isPair a = true ∧ absentReg s (a + 4) = false ∧
    lo32 c ≠ not32 (s.stage.get a (regWordRaw s a)) :=
  ⟨0x20040110, 9, up, by decide, by decide, by decide⟩

theorem witness_PairedRegisters_2 :
    ∃ (a : _) (v : _) (s : State), isOen a = true ∧ absentReg s (a + 4) = false ∧
    s.stage.get a (regWordRaw s a) = lo32 v :=
  ⟨SP_OEN_LO_OEN.addr, 5, { up with stage := [(SP_OEN_LO_OEN.addr, 5)], oenDark := [SP_OEN_LO_OEN.addr] }, by decide,
  by decide, by decide⟩

theorem witness_PairedRegisters_3 :
    ∃ (v : _) (s : State), running s = false ∧ s.stage.get 0x20040110 (regWordRaw s 0x20040110) = lo32 v :=
  ⟨5, { up with stage := [(0x20040110, 5)] }, by decide, by decide⟩

theorem witness_PairedRegisters_4 :
    ∃ (v : _) (s : State), running s = true ∧ s.stage.get 0x20040110 (regWordRaw s 0x20040110) = lo32 v :=
  ⟨5, { run with stage := [(0x20040110, 5)] }, by decide, by decide⟩

/-! ## CheckBits -/

theorem witness_CheckBits_2 :
    ∃ (i : _), i < 32 :=
  ⟨31, by decide⟩

theorem witness_CheckBits_3 :
    ∃ (j : _), j < 7 :=
  ⟨6, by decide⟩

theorem witness_CheckBits_5 :
    ∃ (a : _), a < 65536 :=
  ⟨65535, by decide⟩

/-! ## FabricControl -/

theorem witness_FabricControl_0 :
    ∃ (s : State) (img : _), s.pwr.rest = false ∧ s.ctl.boot ≠ .inReset ∧ s.fab.img = some img ∧ running s = false ∧
    s.fab.startAt = none ∧ flag s CLK_SYN_STAT_LOCK = true ∧ s.pwr.hotStop = false ∧ getF s PWR_STAT_STATE = 0 :=
  ⟨on [(CLK_SYN_STAT_LOCK, 1)] (fab up (fun f => { f with img := some img0 })), _, by decide, by decide, rfl,
  by decide, by decide, by decide, by decide, by decide⟩

theorem witness_FabricControl_1 :
    ∃ (s : State), s.pwr.rest = false ∧ s.ctl.boot ≠ .inReset ∧ running s = true :=
  ⟨run, by decide, by decide, by decide⟩

theorem witness_FabricControl_2 :
    ∃ (s : State), s.pwr.rest = false ∧ s.ctl.boot ≠ .inReset ∧ running s = false :=
  ⟨up, by decide, by decide, by decide⟩

theorem witness_FabricControl_3 :
    ∃ (s : State), s.pwr.rest = false ∧ s.ctl.boot ≠ .inReset :=
  ⟨run, by decide, by decide⟩

set_option maxRecDepth 20000 in
theorem witness_FabricControl_4 :
    ∃ (s : State), (closeRecord (courseEnd s)).fab.stopReq = true :=
  ⟨fab run (fun f => { f with stopReq := true }), by decide⟩

theorem witness_FabricControl_7 :
    ∃ (s : State) (img : _), s.fab.familyStopped = true ∧ s.fab.family = some img ∧ s.fab.gapLoaded = false :=
  ⟨on [(CLK_SYN_STAT_LOCK,
  1)] (fab up (fun f => { f with family := some img0, familyStopped := true, gapLoaded := false })), _, by decide,
  rfl, by decide⟩

theorem witness_FabricControl_8 :
    ∃ (s : State) (img : _), s.fab.familyStopped = false ∧ getF s FAB_STAT_IMG_STATE = 3 ∧ s.fab.staged = some img ∧
    s.fab.gapLoaded = false :=
  ⟨on [(FAB_STAT_IMG_STATE, 3)] (fab up (fun f => { f with staged := some img0 })), _, by decide, by decide, rfl,
  by decide⟩

theorem witness_FabricControl_9 :
    ∃ (s : State) (img : _), fwUp s = true ∧ s.fab.family = some img ∧ s.fab.familyStopped = true ∧
    s.fab.gapLoaded = true ∧ flag s CLK_SYN_STAT_LOCK = true ∧ running s = false ∧ s.fab.startAt = none ∧
    s.pwr.hotStop = false ∧ getF s PWR_STAT_STATE = 0 ∧ getF s FAB_STAT_IMG_STATE ≠ 3 :=
  ⟨on [(CLK_SYN_STAT_LOCK,
  1)] (fab up (fun f => { f with family := some img0, familyStopped := true, gapLoaded := true })), _, by decide, rfl,
  by decide, by decide, by decide, by decide, by decide, by decide, by decide, by decide⟩

theorem witness_FabricControl_10 :
    ∃ (s : State) (img : _), fwUp s = true ∧ s.fab.family = some img ∧ s.fab.familyStopped = true ∧
    s.fab.gapLoaded = true ∧ flag s CLK_SYN_STAT_LOCK = true ∧ running s = false ∧ s.fab.startAt = none ∧
    s.pwr.hotStop = false ∧ getF s PWR_STAT_STATE = 0 ∧ getF s FAB_STAT_IMG_STATE = 3 :=
  ⟨on [(FAB_STAT_IMG_STATE, 3)] (on [(CLK_SYN_STAT_LOCK,
  1)] (fab up (fun f => { f with family := some img0, familyStopped := true, gapLoaded := true }))), _, by decide,
  rfl, by decide, by decide, by decide, by decide, by decide, by decide, by decide, by decide⟩

/-! ## TileControl -/

theorem witness_TileControl_0 :
    ∃ (n : _) (s : State), n < nTiles s ∧ getF s (TILE_STAT_STATE n) = 0 :=
  ⟨31, run, by decide, by decide⟩

theorem witness_TileControl_1 :
    ∃ (n : _) (s : State), n < nTiles s ∧ getF s (TILE_STAT_STATE n) = 1 :=
  ⟨3, on [(TILE_STAT_STATE 3, 1)] run, by decide, by decide⟩

theorem witness_TileControl_2 :
    ∃ (n : _) (s : State), n < nTiles s ∧ getF s (TILE_STAT_STATE n) = 2 :=
  ⟨3, on [(TILE_STAT_STATE 3, 2)] run, by decide, by decide⟩

theorem witness_TileControl_3 :
    ∃ (n : _) (s : State), n < nTiles s ∧ getF s (TILE_STAT_STATE n) = 3 :=
  ⟨3, on [(TILE_STAT_STATE 3, 3), (TILE_FAULT_CAUSE 3, 2)] run, by decide, by decide⟩

theorem witness_TileControl_4 :
    ∃ (n : _) (s : State) (x : _), running s = true ∧ n < nTiles s ∧ getF s (TILE_STAT_STATE n) = 2 ∧ x = tileOf s n ∧
    x.ended = false ∧ x.accs = [] ∧ x.lands = [] ∧ x.pend = [] ∧ x.reps = [] ∧ x.pc < 4095 ∧ x.cyc < courseLen s ∧
    (∀ i, i < 4 → eccDecode ((activeImem s n x).get (4 * x.pc + i) 0) = .ok 0) :=
  ⟨3, on [(TILE_STAT_STATE 3, 2)] run, _, by decide, by decide, by decide, rfl, by decide, by decide, by decide,
  by decide, by decide, by decide, by decide, by decide⟩

theorem witness_TileControl_5 :
    ∃ (n : _) (s : State), running s = true ∧ n < nTiles s ∧ getF s (TILE_STAT_STATE n) = 2 ∧
    (tileOf s n).ended = false ∧ 0 < (tileOf s n).cyc :=
  ⟨3, updTile 3 (fun t => { t with cyc := 5 }) (on [(TILE_STAT_STATE 3, 2)] run), by decide, by decide, by decide,
  by decide, by decide⟩

theorem witness_TileControl_6 :
    ∃ (n : _) (s : State) (c : _), minCycle ((tileOf s n).accs.map TileAcc.cycle) = some c ∧ running s = true ∧
    c ≤ openLimit s n :=
  ⟨3, updTile 3 (fun t => { t with cyc := 9, accs := [⟨3, 1, 0, .sts 5 7⟩] }) (on [(TILE_STAT_STATE 3, 2)] run), 3,
  by decide, by decide, by decide⟩

theorem witness_TileControl_7 :
    ∃ (n : _) (s : State) (c : _), minCycle ((tileOf s n).lands.map Landing.cycle) = some c ∧ running s = true ∧
    c ≤ openLimit s n :=
  ⟨3,
  updTile 3 (fun t => { t with cyc := 9, lands := [⟨8, 1, 0, 5, 1, [1, 2, 3, 4, 5, 6, 7, 8]⟩] }) (on [(TILE_STAT_STATE 3,
  2)] run), 8, by decide, by decide, by decide⟩

theorem witness_TileControl_8 :
    ∃ (code : _) (read : _) (line : _) (c : _) (s : State), enginesOn s = true ∧ c < courseLen s ∧ line < 1024 ∧
    code ≠ 0x21 ∧ wasServed s code read line = true :=
  ⟨0x24, false, 10, 4095, fab run (fun f => { f with served := [servedKey 0x24 false 10] }), by decide, by decide,
  by decide, by decide, by decide⟩

theorem witness_TileControl_9 :
    ∃ (code : _) (line : _) (c : _) (s : State), enginesOn s = true ∧ c < courseLen s ∧ line < 1024 ∧ code ≠ 0x21 :=
  ⟨0x24, 1023, 5, run, by decide, by decide, by decide, by decide⟩

theorem witness_TileControl_10 :
    ∃ (line : _) (c : _) (s : State), enginesOn s = true ∧ c < courseLen s ∧ line < 1024 :=
  ⟨0, 0, run, by decide, by decide, by decide⟩

theorem witness_TileControl_11 :
    ∃ (c : _) (s : State), enginesOn s = true ∧ c < courseLen s :=
  ⟨4, run, by decide, by decide⟩

/-! ## TileArithmetic -/

theorem witness_TileArithmetic_0 :
    ∃ (k : _) (i : _), (rne k i * 2 ^ k - i).natAbs * 2 = 2 ^ k ∧ 0 < k :=
  ⟨1, 3, by decide, by decide⟩

theorem witness_TileArithmetic_2 :
    ∃ (w : _), opOf w = 0x01 :=
  ⟨67108864, by decide⟩

theorem witness_TileArithmetic_3 :
    ∃ (w : _), opOf w = 0x18 :=
  ⟨1610612736, by decide⟩

theorem witness_TileArithmetic_4 :
    ∃ (b : _) (l : _), 0 < l ∧ b + l ≤ 2 ^ 24 :=
  ⟨100, 7, by decide, by decide⟩

theorem witness_TileArithmetic_6 :
    ∃ (p : _), p < 2 ^ 24 :=
  ⟨3, by decide⟩

theorem witness_TileArithmetic_7 :
    ∃ (l : _) (p : _), l < 16 ∧ p < 16 :=
  ⟨15, 15, by decide, by decide⟩

theorem witness_TileArithmetic_8 :
    ∃ (l : _), l < 16 :=
  ⟨15, by decide⟩

theorem witness_TileArithmetic_9 :
    ∃ (l : _) (p : _), l < 16 ∧ p < 16 :=
  ⟨15, 15, by decide, by decide⟩

theorem witness_TileArithmetic_10 :
    ∃ (l : _), l < 16 :=
  ⟨0, by decide⟩

theorem witness_TileArithmetic_11 :
    ∃ (t : _) (w : _), (cSlot t w).len ≠ none :=
  ⟨Tile.init, 469762048, by decide⟩

theorem witness_TileArithmetic_12 :
    ∃ (t : _) (w : _), (cSlot t w).base ≠ none :=
  ⟨Tile.init, 402653184, by decide⟩

theorem witness_TileArithmetic_13 :
    ∃ (w l : Nat), l < 16 ∧ (cSlot Tile.init w).regs ≠ [] :=
  ⟨2 * 2 ^ 26 + 2 ^ 21 + 5, 15, by decide, by decide⟩

/-! ## RouteAndDynamicsWindows -/

theorem witness_RouteAndDynamicsWindows_0 :
    ∃ (s : State), enginesOn s = true ∧ s.fab.cal.routeCap ≠ 0 ∧ s.fab.img.isSome = true ∧ s.rte.snd = [] :=
  ⟨rich, by decide, by decide, by decide, by decide⟩

theorem witness_RouteAndDynamicsWindows_1 :
    ∃ (s : State), enginesOn s = true ∧ s.fab.cal.routeCap ≠ 0 ∧ s.fab.img.isSome = true :=
  ⟨rich, by decide, by decide, by decide⟩

theorem witness_RouteAndDynamicsWindows_2 :
    ∃ (s : State) (i : _) (x : Sounding), enginesOn s = true ∧ s.fab.img.isSome = true ∧ s.rte.snd = [(i, x)] ∧
    i < s.fab.cal.routeCap ∧ (s.rte.act.get i xpNone).ok = true ∧ x.dest < nDests s :=
  ⟨{ rich with rte := { rich.rte with snd := [(3, ⟨80, 1, 0, 4194304, 0, 0, 0, false⟩)], act := [(3, PairWord.mk' 5)] }, plane := ⟨[(80, 12345)], [(80, 12345)]⟩ },
  3, ⟨80, 1, 0, 4194304, 0, 0, 0, false⟩, by decide, by decide, by decide, by decide, by decide, by decide⟩

theorem witness_RouteAndDynamicsWindows_3 :
    ∃ (s : State), enginesOn s = true ∧ s.fab.cal.dynCap ≠ 0 ∧ s.fab.img.isSome = true :=
  ⟨rich, by decide, by decide, by decide⟩

theorem witness_RouteAndDynamicsWindows_4 :
    ∃ (s : State) (i : _), rf (dynRec s i) 0 28 2 = 0 :=
  ⟨rich, 0, by decide⟩

theorem witness_RouteAndDynamicsWindows_5 :
    ∃ (s : State), flag s RTE_STAT_RESYNC = true :=
  ⟨on [(RTE_STAT_RESYNC, 1)] { rich with rte := { rich.rte with resync := 2, act := [(1, PairWord.mk' 5)] } },
  by decide⟩

theorem witness_RouteAndDynamicsWindows_6 :
    ∃ (i : _) (s : State), s.dyn.recopy.contains i = true :=
  ⟨2, { rich with dyn := { rich.dyn with recopy := [2] } }, by decide⟩

theorem witness_RouteAndDynamicsWindows_8 :
    ∃ (d : _) (s : State), s.fw.silPending.get d 0 = 1 ∧ b2n (dstOf s d).silent = s.fw.silReported.get d 0 :=
  ⟨5, { up with fw := { up.fw with silPending := [(5, 1)] } }, by decide, by decide⟩

theorem witness_RouteAndDynamicsWindows_9 :
    ∃ (d : _) (s : State), s.fw.silPending.get d 0 = 1 ∧ b2n (dstOf s d).silent ≠ s.fw.silReported.get d 0 :=
  ⟨5, updDst 5 (fun d => { d with silent := true }) { up with fw := { up.fw with silPending := [(5, 1)] } },
  by decide, by decide⟩

/-! ## TableWrites -/

theorem witness_TableWrites_0 :
    ∃ (n : _), n < 4 :=
  ⟨3, by decide⟩

theorem witness_TableWrites_1 :
    ∃ (n : _) (s : State), n < 3 ∧ (getF s RTE_IDX_SEL = 0 ∨ getF s RTE_IDX_SEL = 2) :=
  ⟨2, on [(RTE_IDX_SEL, 2), (RTE_IDX_INDEX, 1), (RTE_DATA_DATA 0, 5), (RTE_DATA_DATA 2, 4294967290)] rich, by decide,
  by decide⟩

theorem witness_TableWrites_2 :
    ∃ (s : State), (getF s RTE_IDX_SEL = 0 ∨ getF s RTE_IDX_SEL = 2) ∧
    getF s RTE_IDX_INDEX < rteSize s (getF s RTE_IDX_SEL) ∧
    (flag s RTE_SL_ROUTE_ARMED || flag s RTE_STAT_RESYNC) = true :=
  ⟨on [(RTE_IDX_SEL, 0), (RTE_IDX_INDEX, 1), (RTE_DATA_DATA 0, 5), (RTE_DATA_DATA 2, 4294967290), (RTE_STAT_RESYNC,
  1)] rich, by decide, by decide, by decide⟩

theorem witness_TableWrites_3 :
    ∃ (v : _) (s : State) (lo : _) (hi : _), (getF s RTE_IDX_SEL = 0 ∨ getF s RTE_IDX_SEL = 2) ∧
    getF s RTE_IDX_INDEX < rteSize s (getF s RTE_IDX_SEL) ∧
    (flag s RTE_SL_ROUTE_ARMED || flag s RTE_STAT_RESYNC) = false ∧
    lo = getF s (RTE_DATA_DATA 0) + 2 ^ 32 * getF s (RTE_DATA_DATA 1) ∧
    hi = getF s (RTE_DATA_DATA 2) + 2 ^ 32 * lo32 v ∧ hi ≠ 2 ^ 64 - 1 - lo % 2 ^ 64 :=
  ⟨7, on [(RTE_IDX_SEL, 0), (RTE_IDX_INDEX, 1), (RTE_DATA_DATA 0, 5), (RTE_DATA_DATA 2, 4294967290)] rich, _, _,
  by decide, by decide, by decide, rfl, rfl, by decide⟩

theorem witness_TableWrites_4 :
    ∃ (v : _) (s : State) (i : _) (lo : _) (hi : _), i = getF s RTE_IDX_INDEX ∧ i < rteSize s (getF s RTE_IDX_SEL) ∧
    (flag s RTE_SL_ROUTE_ARMED || flag s RTE_STAT_RESYNC) = false ∧
    lo = getF s (RTE_DATA_DATA 0) + 2 ^ 32 * getF s (RTE_DATA_DATA 1) ∧
    hi = getF s (RTE_DATA_DATA 2) + 2 ^ 32 * lo32 v ∧ hi = 2 ^ 64 - 1 - lo % 2 ^ 64 ∧ getF s RTE_IDX_SEL = 0 :=
  ⟨4294967295, on [(RTE_IDX_SEL, 0), (RTE_IDX_INDEX, 1), (RTE_DATA_DATA 0, 5), (RTE_DATA_DATA 2, 4294967290)] rich, _,
  _, _, rfl, by decide, by decide, rfl, rfl, rfl, by decide⟩

theorem witness_TableWrites_5 :
    ∃ (v : _) (s : State) (i : _) (lo : _) (hi : _), i = getF s RTE_IDX_INDEX ∧ i < rteSize s (getF s RTE_IDX_SEL) ∧
    (flag s RTE_SL_ROUTE_ARMED || flag s RTE_STAT_RESYNC) = false ∧
    lo = getF s (RTE_DATA_DATA 0) + 2 ^ 32 * getF s (RTE_DATA_DATA 1) ∧
    hi = getF s (RTE_DATA_DATA 2) + 2 ^ 32 * lo32 v ∧ hi = 2 ^ 64 - 1 - lo % 2 ^ 64 ∧ getF s RTE_IDX_SEL = 2 :=
  ⟨4294967295, on [(RTE_IDX_SEL, 2), (RTE_IDX_INDEX, 1), (RTE_DATA_DATA 0, 5), (RTE_DATA_DATA 2, 4294967290)] rich, _,
  _, _, rfl, by decide, by decide, rfl, rfl, rfl, by decide⟩

theorem witness_TableWrites_6 :
    ∃ (n : _), n < 8 :=
  ⟨7, by decide⟩

theorem witness_TableWrites_7 :
    ∃ (n : _) (s : State), n < 7 ∧ getF s DYN_IDX_SEL = 0 :=
  ⟨6, up, by decide, by decide⟩

theorem witness_TableWrites_8 :
    ∃ (s : State) (i : _), i = getF s DYN_IDX_INDEX ∧ getF s DYN_IDX_SEL = 0 ∧ i < maxDyn s ∧ dynLocked s i = true :=
  ⟨{ rich with dyn := { rich.dyn with recopy := [0] } }, _, rfl, by decide, by decide, by decide⟩

theorem witness_TableWrites_9 :
    ∃ (s : State) (i : _), i = getF s DYN_IDX_INDEX ∧ getF s DYN_IDX_SEL = 0 ∧ i < maxDyn s ∧ dynLocked s i = false :=
  ⟨rich, _, rfl, by decide, by decide, by decide⟩

theorem witness_TableWrites_10 :
    ∃ (n : _) (s : State), n < 7 ∧ getF s STR_IDX_SEL ≠ 3 :=
  ⟨6, up, by decide, by decide⟩

theorem witness_TableWrites_11 :
    ∃ (n : _) (s : State) (i : _), n < 8 ∧ getF s STR_IDX_SEL = 3 ∧ i = getF s STR_IDX_INDEX :=
  ⟨0, on [(STR_IDX_SEL, 3), (STR_IDX_INDEX, 3), (STR_DATA_DATA 0, 0)] (rich), _, by decide, by decide, rfl⟩

theorem witness_TableWrites_12 :
    ∃ (v : _) (s : State) (i : _) (k : _) (e : _), k = getF s STR_IDX_SEL ∧ i = getF s STR_IDX_INDEX ∧
    i < tableSize s k ∧ e = strMasked k ((List.range 7).map (fun n => getF s (STR_DATA_DATA n)) ++ [lo32 v]) ∧ k = 0 :=
  ⟨9, on [(STR_IDX_SEL, 0), (STR_IDX_INDEX, 3), (STR_DATA_DATA 0, 1)] (rich), _, _, _, rfl, rfl, by decide, rfl, rfl⟩

theorem witness_TableWrites_13 :
    ∃ (v : _) (s : State) (i : _) (k : _) (e : _), k = getF s STR_IDX_SEL ∧ i = getF s STR_IDX_INDEX ∧
    i < tableSize s k ∧ e = strMasked k ((List.range 7).map (fun n => getF s (STR_DATA_DATA n)) ++ [lo32 v]) ∧ k = 4 :=
  ⟨9, on [(STR_IDX_SEL, 4), (STR_IDX_INDEX, 3), (STR_DATA_DATA 0, 32768)] (rich), _, _, _, rfl, rfl, by decide, rfl,
  rfl⟩

theorem witness_TableWrites_14 :
    ∃ (v : _) (s : State) (i : _) (k : _) (e : _), k = getF s STR_IDX_SEL ∧ i = getF s STR_IDX_INDEX ∧
    i < tableSize s k ∧ e = strMasked k ((List.range 7).map (fun n => getF s (STR_DATA_DATA n)) ++ [lo32 v]) ∧ k = 7 :=
  ⟨9, on [(STR_IDX_SEL, 7), (STR_IDX_INDEX, 3), (STR_DATA_DATA 0, 32768)] (rich), _, _, _, rfl, rfl, by decide, rfl,
  rfl⟩

theorem witness_TableWrites_15 :
    ∃ (v : _) (s : State) (i : _) (k : _) (e : _), k = getF s STR_IDX_SEL ∧ i = getF s STR_IDX_INDEX ∧
    i < tableSize s k ∧ e = strMasked k ((List.range 7).map (fun n => getF s (STR_DATA_DATA n)) ++ [lo32 v]) ∧ k = 1 ∧
    ef (rxEntry s i) 0 0 1 = 1 ∧ (rxEntry s i).set 0 ((rxEntry s i).getD 0 0 / 2) ≠ e.set 0 (e.getD 0 0 / 2) :=
  ⟨9, on [(STR_IDX_SEL, 1), (STR_IDX_INDEX, 3), (STR_DATA_DATA 0,
  67)] ({ rich with str := { rich.str with rx := [(3, [65, 0, 0, 0, 0, 0, 0, 0])] } }), _, _, _, rfl, rfl, by decide,
  rfl, rfl, by decide, by decide⟩

theorem witness_TableWrites_16 :
    ∃ (v : _) (s : State) (i : _) (k : _) (e : _), k = getF s STR_IDX_SEL ∧ i = getF s STR_IDX_INDEX ∧
    i < tableSize s k ∧ e = strMasked k ((List.range 7).map (fun n => getF s (STR_DATA_DATA n)) ++ [lo32 v]) ∧ k = 1 ∧
    (ef (rxEntry s i) 0 0 1 = 0 ∨ (rxEntry s i).set 0 ((rxEntry s i).getD 0 0 / 2) = e.set 0 (e.getD 0 0 / 2)) :=
  ⟨9, on [(STR_IDX_SEL, 1), (STR_IDX_INDEX, 3), (STR_DATA_DATA 0, 65)] (rich), _, _, _, rfl, rfl, by decide, rfl, rfl,
  by decide⟩

theorem witness_TableWrites_17 :
    ∃ (v : _) (s : State) (i : _) (k : _) (e : _), k = getF s STR_IDX_SEL ∧ i = getF s STR_IDX_INDEX ∧
    i < tableSize s k ∧ e = strMasked k ((List.range 7).map (fun n => getF s (STR_DATA_DATA n)) ++ [lo32 v]) ∧ k = 5 ∧
    ef (txEntry s i) 0 0 1 = 1 ∧ (txEntry s i).set 0 ((txEntry s i).getD 0 0 / 2) ≠ e.set 0 (e.getD 0 0 / 2) :=
  ⟨9, on [(STR_IDX_SEL, 5), (STR_IDX_INDEX, 3), (STR_DATA_DATA 0,
  67)] ({ rich with str := { rich.str with tx := [(3, [65, 0, 0, 0, 0, 0, 0, 0])] } }), _, _, _, rfl, rfl, by decide,
  rfl, rfl, by decide, by decide⟩

theorem witness_TableWrites_18 :
    ∃ (v : _) (s : State) (i : _) (k : _) (e : _), k = getF s STR_IDX_SEL ∧ i = getF s STR_IDX_INDEX ∧
    i < tableSize s k ∧ e = strMasked k ((List.range 7).map (fun n => getF s (STR_DATA_DATA n)) ++ [lo32 v]) ∧ k = 5 ∧
    (ef (txEntry s i) 0 0 1 = 0 ∨ (txEntry s i).set 0 ((txEntry s i).getD 0 0 / 2) = e.set 0 (e.getD 0 0 / 2)) :=
  ⟨9, on [(STR_IDX_SEL, 5), (STR_IDX_INDEX, 3), (STR_DATA_DATA 0, 65)] (rich), _, _, _, rfl, rfl, by decide, rfl, rfl,
  by decide⟩

/-! ## SerialPorts -/

theorem witness_SerialPorts_0 :
    ∃ (n : _) (frame : _) (s : State) (half : _) (wl : _) (w : _), running s = true ∧ laneOn s n = true ∧
    laneIsOut s n = false ∧ laneAsrc s n = none ∧ half = chanBits (getL s (SP_GRP_CTL_FRAME (n / 8))) ∧
    wl = wordLen (getL s (SP_LANE_CFG_WL n)) ∧
    w = (fun ch => alignWord wl (frameWord frame (2 * half) half wl (getL s (SP_LANE_CFG_FMT n)) ch)) ∧
    flagL s (SP_LANE_CFG_NA_EN n) = false :=
  ⟨9, 0x12345678, ({ rich with regs := rich.regs } |> on [(SP_LANE_CFG_EN 9, 1), (SP_LANE_CFG_DIR 9, 0),
  (SP_LANE_BIND_SLOT_A 9, 80), (SP_LANE_BIND_SLOT_B 9, 81), (SP_LANE_BIND_BOUND 9, 1), (SP_OEN_LO_OEN, 512),
  (SP_LANE_CFG_NA_EN 9, 0)] |> fun s => { s with live := s.regs }), _, _, _, by decide, by decide, by decide,
  by decide, rfl, rfl, rfl, by decide⟩

theorem witness_SerialPorts_1 :
    ∃ (n : _) (frame : _) (s : State) (half : _) (wl : _) (w : _), running s = true ∧ laneOn s n = true ∧
    laneIsOut s n = false ∧ laneAsrc s n = none ∧ half = chanBits (getL s (SP_GRP_CTL_FRAME (n / 8))) ∧
    wl = wordLen (getL s (SP_LANE_CFG_WL n)) ∧
    w = (fun ch => alignWord wl (frameWord frame (2 * half) half wl (getL s (SP_LANE_CFG_FMT n)) ch)) ∧
    flagL s (SP_LANE_CFG_NA_EN n) = true ∧ isPreamble (w 0) (w 1) = true :=
  ⟨9, 0xF87200004E1F0000, ({ rich with regs := rich.regs } |> on [(SP_LANE_CFG_EN 9, 1), (SP_LANE_CFG_DIR 9, 0),
  (SP_LANE_BIND_SLOT_A 9, 80), (SP_LANE_BIND_SLOT_B 9, 81), (SP_LANE_BIND_BOUND 9, 1), (SP_OEN_LO_OEN, 512),
  (SP_LANE_CFG_NA_EN 9, 1), (SP_LANE_CFG_WL 9, 0)] |> fun s => { s with live := s.regs }), _, _, _, by decide,
  by decide, by decide, by decide, rfl, rfl, rfl, by decide, by decide⟩

theorem witness_SerialPorts_2 :
    ∃ (n : _) (s : State) (wl : _), running s = true ∧ laneOn s n = true ∧ laneIsOut s n = true ∧
    laneAsrc s n = none ∧ wl = wordLen (getL s (SP_LANE_CFG_WL n)) :=
  ⟨9, ({ rich with regs := rich.regs } |> on [(SP_LANE_CFG_EN 9, 1), (SP_LANE_CFG_DIR 9, 1), (SP_LANE_BIND_SLOT_A 9,
  96), (SP_LANE_BIND_SLOT_B 9, 97), (SP_LANE_BIND_BOUND 9, 1), (SP_OEN_LO_OEN,
  512)] |> fun s => { s with live := s.regs }), _, by decide, by decide, by decide, by decide, rfl⟩

theorem witness_SerialPorts_3 :
    ∃ (wl : _), 16 ≤ wl ∧ wl ≤ 32 :=
  ⟨16, by decide, by decide⟩

theorem witness_SerialPorts_4 :
    ∃ (g : _) (s : State), g < nGroups s ∧ getL s (SP_GRP_CTL_MASTER g) = 0 ∧ flag s (SP_GRP_STAT_CLK_LOST g) = false :=
  ⟨5, rich, by decide, by decide, by decide⟩

theorem witness_SerialPorts_5 :
    ∃ (n : _) (s : State), n < nLanes s ∧ flag s (SP_LANE_STAT_NONAUDIO n) = true ∧
    getF s (SP_LANE_STAT_NA_HOLD n) = 0 :=
  ⟨47, on [(SP_LANE_STAT_NONAUDIO 47, 1)] rich, by decide, by decide, by decide⟩

theorem witness_SerialPorts_6 :
    ∃ (n : _) (s : State), n < nAes s ∧ (aesOf s n).naMute = true ∧ (aesOf s n).naHold = 0 :=
  ⟨7, updAes 7 (fun a => { a with naMute := true }) rich, by decide, by decide, by decide⟩

/-! ## Aes3Ports -/

theorem witness_Aes3Ports_0 :
    ∃ (n : _) (s : State), n < nAes s ∧ flagL s (AES_RX_CTL_EN n) = true ∧ flag s (AES_RX_STAT_LOCK n) = true ∧
    flagL s (AES_RX_CTL_ASRC_EN n) = false ∧ flagL s (AES_RX_CTL_NA_EN n) = false :=
  ⟨7, (updAes 7 (fun a => { a with buf := [(1, 1), (2, 2), (3, 3), (4, 4)] }) (on [(AES_RX_CTL_EN 7, 1),
  (AES_RX_CTL_NA_EN 7, 0), (AES_RX_STAT_LOCK 7, 1)] rich) |> fun s => { s with live := s.regs }), by decide,
  by decide, by decide, by decide, by decide⟩

theorem witness_Aes3Ports_1 :
    ∃ (n : _) (rate : _) (s : State), n < nAes s ∧ flagL s (AES_RX_CTL_EN n) = true ∧
    flag s (AES_RX_STAT_LOCK n) = false ∧ 0 < rate ∧ rate < 8 ∧ (aesOf s n).rate = rate ∧ 15 ≤ (aesOf s n).good :=
  ⟨7, 2, (updAes 7 (fun a => { a with rate := 2, good := 15 }) (on [(AES_RX_CTL_EN 7, 1), (AES_RX_STAT_LOCK 7,
  0)] rich) |> fun s => { s with live := s.regs }), by decide, by decide, by decide, by decide, by decide, by decide,
  by decide⟩

theorem witness_Aes3Ports_2 :
    ∃ (n : _) (s : State), n < nAes s ∧ flag s (AES_RX_STAT_LOCK n) = true :=
  ⟨7, (updAes 7 (fun a => { a with good := 16 }) (on [(AES_RX_CTL_EN 7, 1), (AES_RX_STAT_LOCK 7,
  1)] rich) |> fun s => { s with live := s.regs }), by decide, by decide⟩

theorem witness_Aes3Ports_3 :
    ∃ (n : _) (s : State), n < nAes s ∧ flag s (AES_RX_STAT_LOCK n) = true :=
  ⟨7, (updAes 7 (fun a => { a with vNow := true }) (on [(AES_RX_CTL_EN 7, 1), (AES_RX_STAT_LOCK 7,
  1)] rich) |> fun s => { s with live := s.regs }), by decide, by decide⟩

theorem witness_Aes3Ports_4 :
    ∃ (n : _) (s : State) (b : _), txDrives s n = true ∧
    b = (if (aesOf s n).commit then (aesOf s n).staged else (aesOf s n).sending) :=
  ⟨7,
  (fun t => { t with pair := { t.pair with drivers := true } }) ((updAes 7 (fun a => { a with commit := true }) (on [(AES_RX_CTL_EN 7,
  1), (AES_TX_CTL_EN 7, 1), (AES_OEN_OEN, 128), (AES_TX_CTL_SLOT_A 7, 96), (PAIR_STAT_CLAIM, 1), (LIFE_STATUS_DARK,
  0)] rich) |> fun s => { s with live := s.regs })), _, by decide, rfl⟩

theorem witness_Aes3Ports_5 :
    ∃ (n : _) (s : State), n < nAes s :=
  ⟨7, up, by decide⟩

theorem witness_Aes3Ports_6 :
    ∃ (s : State) (p : _) (k : _) (c : _) (w : _), p = getF s AES_IDX_PORT ∧ k = getF s AES_IDX_KIND ∧
    c = getF s AES_IDX_CH ∧ w = getF s AES_IDX_WORD ∧ p < nAes s ∧ w < 6 :=
  ⟨on [(AES_IDX_PORT, 7), (AES_IDX_WORD, 5)] up, _, _, _, _, rfl, rfl, rfl, rfl, by decide, by decide⟩

theorem witness_Aes3Ports_7 :
    ∃ (s : State) (p : _) (k : _) (c : _) (w : _), p = getF s AES_IDX_PORT ∧ k = getF s AES_IDX_KIND ∧
    c = getF s AES_IDX_CH ∧ w = getF s AES_IDX_WORD ∧ p < nAes s ∧ w < 6 ∧ 2 ≤ k :=
  ⟨on [(AES_IDX_PORT, 7), (AES_IDX_WORD, 5), (AES_IDX_KIND, 3)] up, _, _, _, _, rfl, rfl, rfl, rfl, by decide,
  by decide, by decide⟩

/-! ## RateConversion -/

theorem witness_RateConversion_0 :
    ∃ (i : _) (r : Nat) (f : _) (s : State), i < nAsrc s ∧ getF s (SP_ASRC_STAT_STATE i) = 1 ∧ ratioOk r = true ∧
    asrcDelay s i ≤ f + 1 ∧ f ≤ asrcDelay s i + 1 :=
  ⟨63, 0x40000000, 64, on [(SP_ASRC_STAT_STATE 63, 1)] up, by decide, by decide, by decide, by decide, by decide⟩

theorem witness_RateConversion_1 :
    ∃ (i : _) (s : State), i < nAsrc s ∧ getF s (SP_ASRC_STAT_STATE i) = 2 :=
  ⟨63, on [(SP_ASRC_STAT_STATE 63, 2)] up, by decide, by decide⟩

theorem witness_RateConversion_2 :
    ∃ (i : _) (s : State), i < nAsrc s ∧ getF s (SP_ASRC_STAT_STATE i) = 3 :=
  ⟨63, on [(SP_ASRC_STAT_STATE 63, 3)] up, by decide, by decide⟩

/-! ## MacLinkAndPause -/

theorem witness_MacLinkAndPause_0 :
    ∃ (m : _) (r : Nat) (s : State), m < 4 ∧ m < nMacs s ∧ flag s (MAC_CTL_EN m) = true ∧
    getF s (MAC_CTL_RATE_SRC m) = 0 ∧ flag s (MAC_CTL_MODE m) = true ∧ flag s (MAC_LINK_LINK_UP m) = false ∧
    rateOk s m r = true :=
  ⟨3, 4, on [(MAC_CTL_EN 3, 1), (MAC_CTL_MODE 3, 1), (MAC_CTL_RATE_EN 3, 15), (MAC_LINK_LINK_UP 3, 1),
  (MAC_LINK_LINK_UP 3, 0)] up, by decide, by decide, by decide, by decide, by decide, by decide, by decide⟩

theorem witness_MacLinkAndPause_1 :
    ∃ (m : _) (s : State), m < 4 ∧ m < nMacs s ∧ flag s (MAC_LINK_LINK_UP m) = true :=
  ⟨3, on [(MAC_CTL_EN 3, 1), (MAC_CTL_MODE 3, 1), (MAC_CTL_RATE_EN 3, 15), (MAC_LINK_LINK_UP 3, 1)] up, by decide,
  by decide, by decide⟩

theorem witness_MacLinkAndPause_2 :
    ∃ (m : _) (b : _) (s : State), m < 4 ∧ m < nMacs s ∧ flag s (MAC_LINK_LINK_UP m) = true ∧ 60 ≤ b.length ∧
    b.length + 4 ≤ getF s (MAC_MAXLEN_RX_MAX m) ∧ rxHeld (macOf s m) + b.length + 4 ≤ 16384 ∧ etherType b = 0x8808 ∧
    be b 14 2 = 1 ∧ dstMac b = 0x0180C2000001 ∧ flag s (MAC_PAUSE_PAUSE_EN m) = true ∧
    flag s (MAC_LINK_WD_HOLD m) = false ∧ be b 16 2 ≠ 0 :=
  ⟨3, ([1, 0x80, 0xC2, 0, 0, 1, 0, 0, 0, 0, 0, 0, 0x88, 8, 0, 1, 0, 16] ++ List.replicate 42 0), on [(MAC_CTL_EN 3,
  1), (MAC_CTL_MODE 3, 1), (MAC_CTL_RATE_EN 3, 15), (MAC_LINK_LINK_UP 3, 1), (MAC_PAUSE_PAUSE_EN 3, 1)] up, by decide,
  by decide, by decide, by decide, by decide, by decide, by decide, by decide, by decide, by decide, by decide,
  by decide⟩

theorem witness_MacLinkAndPause_3 :
    ∃ (m : _) (s : State), m < nMacs s ∧ flag s (MAC_LINK_PAUSED m) = true :=
  ⟨3, on [(MAC_CTL_EN 3, 1), (MAC_CTL_MODE 3, 1), (MAC_CTL_RATE_EN 3, 15), (MAC_LINK_LINK_UP 3, 1),
  (MAC_LINK_PAUSED 3, 1)] up, by decide, by decide⟩

theorem witness_MacLinkAndPause_4 :
    ∃ (m : _) (s : State), m < 4 ∧ m < nMacs s ∧ flag s (MAC_LINK_PAUSED m) = true ∧
    flag s (MAC_PAUSE_WD_US m) = true ∧ 0 < txHeld (macOf s m) :=
  ⟨3, updMac 3 (fun x => { x with tx := [(0, [1, 2])] }) (on [(MAC_CTL_EN 3, 1), (MAC_CTL_MODE 3, 1),
  (MAC_CTL_RATE_EN 3, 15), (MAC_LINK_LINK_UP 3, 1), (MAC_LINK_PAUSED 3, 1), (MAC_PAUSE_WD_US 3, 100)] up), by decide,
  by decide, by decide, by decide, by decide⟩

theorem witness_MacLinkAndPause_5 :
    ∃ (m : _) (s : State), m < nMacs s :=
  ⟨3, on [(MAC_CTL_EN 3, 1), (MAC_CTL_MODE 3, 1), (MAC_CTL_RATE_EN 3, 15), (MAC_LINK_LINK_UP 3, 1),
  (MAC_LINK_WD_HOLD 3, 1)] up, by decide⟩

theorem witness_MacLinkAndPause_6 :
    ∃ (m : _) (s : State), m < 4 ∧ m < nMacs s :=
  ⟨3, on [(MAC_CTL_EN 3, 1), (MAC_CTL_MODE 3, 1), (MAC_CTL_RATE_EN 3, 15), (MAC_LINK_LINK_UP 3, 1),
  (MAC_CNT_COUNT 3 47, 5)] up, by decide, by decide⟩

theorem witness_MacLinkAndPause_7 :
    ∃ (m : _) (r : Nat) (s : State), m < nMacs s ∧ r < 2 ∧ flag s (MAC_RX_CFG_EN m r) = false :=
  ⟨3, 1, up, by decide, by decide, by decide⟩

theorem witness_MacLinkAndPause_8 :
    ∃ (m : _) (r : Nat) (s : State), m < nMacs s ∧ r < 2 ∧ flag s (MAC_TX_CFG_EN m r) = false :=
  ⟨3, 1, up, by decide, by decide, by decide⟩

theorem witness_MacLinkAndPause_9 :
    ∃ (m : _) (r : Nat) (s : State), m < nMacs s ∧ r < 2 :=
  ⟨3, 1, on [(MAC_CTL_EN 3, 1), (MAC_CTL_MODE 3, 1), (MAC_CTL_RATE_EN 3, 15), (MAC_LINK_LINK_UP 3, 1),
  (MAC_RX_CFG_EN 3 1, 1)] up, by decide, by decide⟩

theorem witness_MacLinkAndPause_10 :
    ∃ (m : _) (r : Nat) (s : State), m < nMacs s ∧ r < 2 :=
  ⟨3, 1, on [(MAC_CTL_EN 3, 1), (MAC_CTL_MODE 3, 1), (MAC_CTL_RATE_EN 3, 15), (MAC_LINK_LINK_UP 3, 1),
  (MAC_TX_CFG_EN 3 1, 1)] up, by decide, by decide⟩

theorem witness_MacLinkAndPause_11 :
    ∃ (m : _) (i : _) (n : _) (s : State), m < 4 ∧ i < 48 ∧ 4294967295 < getF s (MAC_CNT_COUNT m i) + n :=
  ⟨3, 47, 1, on [(MAC_CTL_EN 3, 1), (MAC_CTL_MODE 3, 1), (MAC_CTL_RATE_EN 3, 15), (MAC_LINK_LINK_UP 3, 1),
  (MAC_CNT_COUNT 3 47, 4294967295)] up, by decide, by decide, by decide⟩

theorem witness_MacLinkAndPause_12 :
    ∃ (m : _) (i : _), m < 4 ∧ i < 48 :=
  ⟨3, 47, by decide, by decide⟩

/-! ## MacFrames -/

theorem witness_MacFrames_0 :
    ∃ (m : _) (s : State), m < nMacs s ∧ flag s (MAC_LINK_LINK_UP m) = true :=
  ⟨3, on [(MAC_CTL_EN 3, 1), (MAC_CTL_MODE 3, 1), (MAC_CTL_RATE_EN 3, 15), (MAC_LINK_LINK_UP 3, 1)] up, by decide,
  by decide⟩

theorem witness_MacFrames_1 :
    ∃ (m : _) (b : List Nat) (s : State), m < nMacs s ∧ flag s (MAC_LINK_LINK_UP m) = true ∧ b.length < 60 :=
  ⟨3, [1], on [(MAC_CTL_EN 3, 1), (MAC_CTL_MODE 3, 1), (MAC_CTL_RATE_EN 3, 15), (MAC_LINK_LINK_UP 3, 1)] up,
  by decide, by decide, by decide⟩

theorem witness_MacFrames_2 :
    ∃ (m : _) (b : List Nat) (s : State), m < nMacs s ∧ flag s (MAC_LINK_LINK_UP m) = true ∧ 60 ≤ b.length ∧
    getF s (MAC_MAXLEN_RX_MAX m) < b.length + 4 :=
  ⟨3, (List.replicate 61 0), on [(MAC_CTL_EN 3, 1), (MAC_CTL_MODE 3, 1), (MAC_CTL_RATE_EN 3, 15), (MAC_LINK_LINK_UP 3,
  1), (MAC_MAXLEN_RX_MAX 3, 64)] up, by decide, by decide, by decide, by decide⟩

theorem witness_MacFrames_3 :
    ∃ (m : _) (b : List Nat) (s : State), m < nMacs s ∧ flag s (MAC_LINK_LINK_UP m) = true ∧ 60 ≤ b.length ∧
    b.length + 4 ≤ getF s (MAC_MAXLEN_RX_MAX m) ∧ 16384 < rxHeld (macOf s m) + (b.length + 4) :=
  ⟨3, ([2, 0, 0, 0, 0, 1, 0, 0, 0, 0, 0, 0, 8, 6] ++ List.replicate 46 0),
  updMac 3 (fun x => { x with rx := List.replicate 16 ⟨List.replicate 1020 0, none, 7⟩ }) (on [(MAC_CTL_EN 3, 1),
  (MAC_CTL_MODE 3, 1), (MAC_CTL_RATE_EN 3, 15), (MAC_LINK_LINK_UP 3, 1)] up), by decide, by decide, by decide,
  by decide, by decide +kernel⟩

theorem witness_MacFrames_4 :
    ∃ (m : _) (b : List Nat) (s : State), m < nMacs s ∧ flag s (MAC_LINK_LINK_UP m) = true ∧ 60 ≤ b.length ∧
    b.length + 4 ≤ getF s (MAC_MAXLEN_RX_MAX m) :=
  ⟨3, ([2, 0, 0, 0, 0, 1, 0, 0, 0, 0, 0, 0, 8, 6] ++ List.replicate 46 0), on [(MAC_CTL_EN 3, 1), (MAC_CTL_MODE 3, 1),
  (MAC_CTL_RATE_EN 3, 15), (MAC_LINK_LINK_UP 3, 1)] up, by decide, by decide, by decide, by decide⟩

theorem witness_MacFrames_5 :
    ∃ (m : _) (b : List Nat) (s : State), m < 4 ∧ m < nMacs s ∧ flag s (MAC_LINK_LINK_UP m) = true ∧ 60 ≤ b.length ∧
    b.length + 4 ≤ getF s (MAC_MAXLEN_RX_MAX m) ∧ rxHeld (macOf s m) + (b.length + 4) ≤ 16384 ∧ etherType b ≠ 0x8808 ∧
    etherType b ≠ 0x8100 ∧ castOf b = 0 ∧ perfectMatch s m (dstMac b) = true ∧ classifyFrame s m b = none ∧
    (ringOf s m b).isSome = true :=
  ⟨3, ([2, 0, 0, 0, 0, 1, 0, 0, 0, 0, 0, 0, 8, 6] ++ List.replicate 46 0), on [(MAC_CTL_EN 3, 1), (MAC_CTL_MODE 3, 1),
  (MAC_CTL_RATE_EN 3, 15), (MAC_LINK_LINK_UP 3, 1), (MAC_RX_CFG_EN 3 1, 1), (MAC_AF_HI_VALID 3 31, 1),
  (MAC_AF_HI_ADDR_HI 3 31, 0x200), (MAC_AF_LO_ADDR_LO 3 31, 1)] up, by decide, by decide, by decide, by decide,
  by decide, by decide, by decide, by decide, by decide, by decide, by decide, by decide⟩

theorem witness_MacFrames_6 :
    ∃ (m : _) (s : State) (f : RxFrame) (q : List RxFrame), (macOf s m).rx = f :: q ∧ ringOf s m f.bytes = none :=
  ⟨3,
  updMac 3 (fun x => { x with rx := [⟨([2, 0, 0, 0, 0, 1, 0, 0, 0, 0, 0, 0, 8, 6] ++ List.replicate 46 0), none, 7⟩] }) (on [(MAC_CTL_EN 3,
  1), (MAC_CTL_MODE 3, 1), (MAC_CTL_RATE_EN 3, 15), (MAC_LINK_LINK_UP 3, 1)] up), ⟨([2, 0, 0, 0, 0, 1, 0, 0, 0, 0, 0,
  0, 8, 6] ++ List.replicate 46 0), none, 7⟩, [], by decide, by decide⟩

theorem witness_MacFrames_7 :
    ∃ (m : _) (s : State) (f : RxFrame) (q : List RxFrame) (r : Nat), (macOf s m).rx = f :: q ∧
    ringOf s m f.bytes = some r :=
  ⟨3,
  updMac 3 (fun x => { x with rx := [⟨([2, 0, 0, 0, 0, 1, 0, 0, 0, 0, 0, 0, 8, 6] ++ List.replicate 46 0), none, 7⟩] }) (on [(MAC_CTL_EN 3,
  1), (MAC_CTL_MODE 3, 1), (MAC_CTL_RATE_EN 3, 15), (MAC_LINK_LINK_UP 3, 1), (MAC_RX_CFG_EN 3 1, 1)] up), ⟨([2, 0, 0,
  0, 0, 1, 0, 0, 0, 0, 0, 0, 8, 6] ++ List.replicate 46 0), none, 7⟩, [], 1, by decide, by decide⟩

theorem witness_MacFrames_8 :
    ∃ (m : _) (s : State) (f : RxFrame) (r : Nat) (x : _) (u : _), m < 4 ∧ r < 2 ∧
    x = takeDescs m (getF s (MAC_RX_BASE_BASE m r)) (getF s (MAC_RX_CFG_SIZE m r)) (getF s (MAC_RX_HEAD_HEAD m r)) f.bytes.length 0 32 s ∧
    x = (none, u) :=
  ⟨3, on [(MAC_CTL_EN 3, 1), (MAC_CTL_MODE 3, 1), (MAC_CTL_RATE_EN 3, 15), (MAC_LINK_LINK_UP 3, 1),
  (MAC_RX_BASE_BASE 3 1, 0x40000000)] up, ⟨([2, 0, 0, 0, 0, 1, 0, 0, 0, 0, 0, 0, 8, 6] ++ List.replicate 46 0), none,
  7⟩, 1, _, _, by decide, by decide, rfl, pairEq (by decide)⟩

theorem witness_MacFrames_9 :
    ∃ (m : _) (s : State) (f : RxFrame) (r : Nat) (x : _) (u : _) (ds : _), m < 4 ∧ r < 2 ∧
    x = takeDescs m (getF s (MAC_RX_BASE_BASE m r)) (getF s (MAC_RX_CFG_SIZE m r)) (getF s (MAC_RX_HEAD_HEAD m r)) f.bytes.length 0 32 s ∧
    x = (some ds, u) :=
  ⟨3, putRam 0 [0, 16, 0, 16, 0, 8, 0, 128] (on [(MAC_CTL_EN 3, 1), (MAC_CTL_MODE 3, 1), (MAC_CTL_RATE_EN 3, 15),
  (MAC_LINK_LINK_UP 3, 1), (MAC_RX_BASE_BASE 3 1, 0x10000000)] up), ⟨([2, 0, 0, 0, 0, 1, 0, 0, 0, 0, 0, 0, 8,
  6] ++ List.replicate 46 0), none, 7⟩, 1, _, _, [(0, 0x10001000, 2048)], by decide, by decide, rfl,
  pairEq (by decide)⟩

theorem witness_MacFrames_10 :
    ∃ (m : _) (r : Nat) (s : State) (w : _), m < nMacs s ∧ r < 2 ∧ flag s (MAC_TX_CFG_EN m r) = true ∧
    flag s (MAC_LINK_LINK_UP m) = true ∧
    w = dmaWord (5 + m) (descAddr (getF s (MAC_TX_BASE_BASE m r)) (getF s (MAC_TX_CFG_SIZE m r)) (getF s (MAC_TX_HEAD_HEAD m r)) + 4) s ∧
    bitOf w.1 31 = false :=
  ⟨3, 1, on [(MAC_CTL_EN 3, 1), (MAC_CTL_MODE 3, 1), (MAC_CTL_RATE_EN 3, 15), (MAC_LINK_LINK_UP 3, 1),
  (MAC_TX_BASE_BASE 3 1, 0x40000000), (MAC_TX_CFG_EN 3 1, 1)] up, _, by decide, by decide, by decide, by decide, rfl,
  by decide⟩

theorem witness_MacFrames_11 :
    ∃ (m : _) (r : Nat) (s : State), m < nMacs s ∧ r < 2 ∧ flag s (MAC_TX_CFG_EN m r) = true ∧
    flag s (MAC_LINK_LINK_UP m) = true :=
  ⟨3, 1, putAsh 0 0x40001000 (putAsh 1 0x80000800 (on [(MAC_CTL_EN 3, 1), (MAC_CTL_MODE 3, 1), (MAC_CTL_RATE_EN 3,
  15), (MAC_LINK_LINK_UP 3, 1), (MAC_TX_BASE_BASE 3 1, 0x40000000), (MAC_TX_CFG_EN 3 1, 1)] up)), by decide,
  by decide, by decide, by decide⟩

theorem witness_MacFrames_12 :
    ∃ (m : _) (s : State) (f : _) (q : _), m < nMacs s ∧ flag s (MAC_LINK_LINK_UP m) = true ∧
    flag s (MAC_LINK_PAUSED m) = false ∧ (macOf s m).tx = f :: q :=
  ⟨3, updMac 3 (fun x => { x with tx := [(0, [1, 2])] }) (on [(MAC_CTL_EN 3, 1), (MAC_CTL_MODE 3, 1),
  (MAC_CTL_RATE_EN 3, 15), (MAC_LINK_LINK_UP 3, 1)] up), (0, [1, 2]), [], by decide, by decide, by decide, by decide⟩

theorem witness_MacFrames_13 :
    ∃ (m : _) (s : State) (f : TxFrame) (q : _), m < nMacs s ∧ flag s (MAC_LINK_LINK_UP m) = true ∧
    flag s (MAC_LINK_PAUSED m) = false ∧ (macOf s m).tx = [] ∧ (macOf s m).c0 = f :: q :=
  ⟨3, updMac 3 (fun x => { x with c0 := [⟨0, [], [1, 2], false⟩] }) (on [(MAC_CTL_EN 3, 1), (MAC_CTL_MODE 3, 1),
  (MAC_CTL_RATE_EN 3, 15), (MAC_LINK_LINK_UP 3, 1)] up), ⟨0, [], [1, 2], false⟩, [], by decide, by decide, by decide,
  by decide, by decide⟩

theorem witness_MacFrames_14 :
    ∃ (m : _) (s : State) (f : TxFrame) (q : _), m < nMacs s ∧ flag s (MAC_LINK_LINK_UP m) = true ∧
    flag s (MAC_LINK_PAUSED m) = false ∧ (macOf s m).tx = [] ∧ (macOf s m).c0 = [] ∧ (macOf s m).c1 = f :: q :=
  ⟨3, updMac 3 (fun x => { x with c1 := [⟨0, [], [1, 2], false⟩] }) (on [(MAC_CTL_EN 3, 1), (MAC_CTL_MODE 3, 1),
  (MAC_CTL_RATE_EN 3, 15), (MAC_LINK_LINK_UP 3, 1)] up), ⟨0, [], [1, 2], false⟩, [], by decide, by decide, by decide,
  by decide, by decide, by decide⟩

theorem witness_MacFrames_15 :
    ∃ (f : TxFrame), f.tsReq = false ∧ f.chain = [] :=
  ⟨⟨0, [], [1, 2], false⟩, by decide, by decide⟩

/-! ## MdioBuses -/

theorem witness_MdioBuses_0 :
    ∃ (m : _) (s : State), m < nMacs s ∧ flag s (MAC_PHY_INTERVAL m) = true :=
  ⟨3, on [(MAC_CTL_EN 3, 1), (MAC_CTL_MODE 3, 1), (MAC_CTL_RATE_EN 3, 15), (MAC_LINK_LINK_UP 3, 1),
  (MAC_PHY_INTERVAL 3, 5)] up, by decide, by decide⟩

theorem witness_MdioBuses_1 :
    ∃ (b : _) (s : State), b < nMdio s :=
  ⟨1, up, by decide⟩

theorem witness_MdioBuses_2 :
    ∃ (b : _) (s : State) (o : MdioOp) (q : List MdioOp), s.net.mdio.get b [] = o :: q ∧ 4 ≤ o.who :=
  ⟨1, { up with net := { up.net with mdio := [(1, [⟨255, 0, 0, 0, 2, 0⟩, ⟨3, 1, 0, 0, 2, 0⟩])] } }, ⟨255, 0, 0, 0, 2,
  0⟩, [⟨3, 1, 0, 0, 2, 0⟩], by decide, by decide⟩

theorem witness_MdioBuses_3 :
    ∃ (b : _) (s : State) (o : MdioOp) (q : List MdioOp), s.net.mdio.get b [] = o :: q ∧ o.who < 4 :=
  ⟨1, { up with net := { up.net with mdio := [(1, [⟨3, 0, 0, 0, 2, 0⟩])] } }, ⟨3, 0, 0, 0, 2, 0⟩, [], by decide,
  by decide⟩

/-! ## PtpCounter -/

theorem witness_PtpCounter_0 :
    ∃ (hi : _) (s : State) (v : _),
    v = hi % 256 * 2 ^ 32 + s.stage.get PTP_INC_LO_INC_FRAC.addr (getF s PTP_INC_LO_INC_FRAC) ∧ 0x03E6666666 ≤ v ∧
    v ≤ 0x041999999A :=
  ⟨4, up, _, rfl, by decide, by decide⟩

theorem witness_PtpCounter_1 :
    ∃ (hi : _) (s : State) (v : _),
    v = hi % 256 * 2 ^ 32 + s.stage.get PTP_INC_LO_INC_FRAC.addr (getF s PTP_INC_LO_INC_FRAC) ∧
    (v < 0x03E6666666 ∨ 0x041999999A < v) :=
  ⟨0, up, _, rfl, by decide⟩

theorem witness_PtpCounter_5 :
    ∃ (s : State), getF s PTP_ADJ_NS_NS < 1000000000 :=
  ⟨on [(PTP_ADJ_NS_NS, 999999999), (PTP_ADJ_SEC_LO_SEC, 5)] up, by decide⟩

theorem witness_PtpCounter_6 :
    ∃ (s : State), 1000000000 ≤ getF s PTP_ADJ_NS_NS :=
  ⟨on [(PTP_ADJ_NS_NS, 1000000000)] up, by decide⟩

theorem witness_PtpCounter_7 :
    ∃ (n : Int) (neg : Bool) (s : State),
    n = s.ptp.sec * 1000000000 + s.ptp.ns + (if neg then -1 else 1) * (stagedSec s * 1000000000 + getF s PTP_ADJ_NS_NS : Int) ∧
    getF s PTP_ADJ_NS_NS < 1000000000 ∧ 0 ≤ n ∧ n < 2 ^ 48 * 1000000000 :=
  ⟨_, true, on [(PTP_ADJ_NS_NS, 999999999)] { up with ptp := ⟨1, 5, 0⟩ }, rfl, by decide, by decide, by decide⟩

theorem witness_PtpCounter_8 :
    ∃ (n : Int) (neg : Bool) (s : State),
    n = s.ptp.sec * 1000000000 + s.ptp.ns + (if neg then -1 else 1) * (stagedSec s * 1000000000 + getF s PTP_ADJ_NS_NS : Int) ∧
    (1000000000 ≤ getF s PTP_ADJ_NS_NS ∨ n < 0 ∨ 2 ^ 48 * 1000000000 ≤ n) :=
  ⟨_, true, on [(PTP_ADJ_NS_NS, 1)] up, rfl, by decide⟩

/-! ## PtpEventsAndMessages -/

theorem witness_PtpEventsAndMessages_0 :
    ∃ (o : _) (s : State) (p : _) (w : _), o < 8 ∧ (pulseOf s o).fall = none ∧ p = getF s (PTPO_PERIOD_PERIOD o) ∧
    w = getF s (PTPO_START_LO_START o) + 2 ^ 32 * getF s (PTPO_START_HI_START o) ∧ 0 < p :=
  ⟨7, updPulse 7 (fun p => { p with fall := none }) (on [(PTPO_PERIOD_PERIOD 7, 100), (PTPO_WIDTH_WIDTH 7, 10),
  (PTPO_START_LO_START 7, 50)] { up with ptp := ⟨0, 500, 0⟩ }), _, _, by decide, by decide, rfl, rfl, by decide⟩

theorem witness_PtpEventsAndMessages_1 :
    ∃ (o : _) (s : State) (p : _) (w : _), o < 8 ∧ (pulseOf s o).fall = none ∧ p = getF s (PTPO_PERIOD_PERIOD o) ∧
    w = getF s (PTPO_START_LO_START o) + 2 ^ 32 * getF s (PTPO_START_HI_START o) ∧ p = 0 ∧ linDist w (lin s) < 0 :=
  ⟨7, updPulse 7 (fun p => { p with fall := none }) (on [(PTPO_PERIOD_PERIOD 7, 100), (PTPO_WIDTH_WIDTH 7, 10),
  (PTPO_START_LO_START 7, 50), (PTPO_PERIOD_PERIOD 7, 0)] { up with ptp := ⟨0, 500, 0⟩ }), _, _, by decide, by decide,
  rfl, rfl, rfl, by decide⟩

theorem witness_PtpEventsAndMessages_2 :
    ∃ (o : _) (s : State), o < 8 ∧ (pulseOf s o).fall = none :=
  ⟨7, updPulse 7 (fun p => { p with armed := true }) (on [(PTPO_PERIOD_PERIOD 7, 100), (PTPO_WIDTH_WIDTH 7, 10),
  (PTPO_START_LO_START 7, 50)] { up with ptp := ⟨0, 500, 0⟩ }), by decide, by decide⟩

theorem witness_PtpEventsAndMessages_3 :
    ∃ (o : _) (s : State), o < 8 ∧ (pulseOf s o).armed = true ∧ (pulseOf s o).stopping = false ∧
    flag s PTP_STAT_COARSE = false ∧ linDist (pulseOf s o).next (lin s) ≤ 0 ∧ 0 < (pulseOf s o).width :=
  ⟨7,
  updPulse 7 (fun p => { p with armed := true, next := 500, period := 100, width := 10 }) (on [(PTPO_PERIOD_PERIOD 7,
  100), (PTPO_WIDTH_WIDTH 7, 10), (PTPO_START_LO_START 7, 50)] { up with ptp := ⟨0, 500, 0⟩ }), by decide, by decide,
  by decide, by decide, by decide, by decide⟩

theorem witness_PtpEventsAndMessages_4 :
    ∃ (o : _) (s : State) (e : _), o < 8 ∧ (pulseOf s o).fall = some e ∧ linDist e (lin s) ≤ 0 ∧
    (pulseOf s o).waiting = none :=
  ⟨7, updPulse 7 (fun p => { p with fall := some 500 }) (on [(PTPO_PERIOD_PERIOD 7, 100), (PTPO_WIDTH_WIDTH 7, 10),
  (PTPO_START_LO_START 7, 50)] { up with ptp := ⟨0, 500, 0⟩ }), _, by decide, rfl, by decide, by decide⟩

theorem witness_PtpEventsAndMessages_5 :
    ∃ (i : _) (rise : Bool) (s : State), i < 8 ∧ flag s (PTPI_CTL_EN i) = true ∧ flag s PTP_STAT_COARSE = false ∧
    (getF s (PTPI_CTL_EDGE i) = 3 ∨ getF s (PTPI_CTL_EDGE i) = (if rise then 1 else 2)) ∧ (captures s i).length < 16 :=
  ⟨7, true, on [(PTPI_CTL_EN 7, 1), (PTPI_CTL_EDGE 7, 1)] up, by decide, by decide, by decide, by decide, by decide⟩

theorem witness_PtpEventsAndMessages_6 :
    ∃ (i : _) (rise : Bool) (s : State), i < 8 ∧ flag s (PTPI_CTL_EN i) = true ∧ flag s PTP_STAT_COARSE = false ∧
    (getF s (PTPI_CTL_EDGE i) = 3 ∨ getF s (PTPI_CTL_EDGE i) = (if rise then 1 else 2)) ∧ 16 ≤ (captures s i).length :=
  ⟨7, false, putCaptures 7 (List.replicate 16 ⟨1, true⟩) (on [(PTPI_CTL_EN 7, 1), (PTPI_CTL_EDGE 7, 3)] up),
  by decide, by decide, by decide, by decide, by decide⟩

theorem witness_PtpEventsAndMessages_7 :
    ∃ (i : _), i < 8 :=
  ⟨7, by decide⟩

theorem witness_PtpEventsAndMessages_8 :
    ∃ (s : State), fwUp s = true ∧ ptpCfg s 0 5 1 = 1 ∧ ptpCfg s 0 4 1 = 0 :=
  ⟨{ up with fw := { up.fw with ptp := { up.fw.ptp with cfg := [32, 0, 0, 0] } } }, by decide, by decide, by decide⟩

theorem witness_PtpEventsAndMessages_9 :
    ∃ (s : State), fwUp s = true ∧ ptpCfg s 0 5 1 = 1 ∧ s.fw.ptp.portState = 9 :=
  ⟨{ up with fw := { up.fw with ptp := { up.fw.ptp with cfg := [32, 0, 0, 0], portState := 9 } } }, by decide,
  by decide, by decide⟩

theorem witness_PtpEventsAndMessages_10 :
    ∃ (s : State), fwUp s = true ∧ ptpCfg s 0 5 1 = 1 :=
  ⟨{ up with fw := { up.fw with ptp := { up.fw.ptp with cfg := [48, 0, 0, 0], portState := 9 } } }, by decide,
  by decide⟩

/-! ## ClockReferences -/

theorem witness_ClockReferences_0 :
    ∃ (l : List (Option Int)) (s : State) (r : _) (x : Int) (st : _) (w : _), r < 8 ∧
    flag s (CLK_REF_CFG_EN r) = true ∧ refBroken s r = false ∧ refQl s r ≠ 15 ∧ l[r]? = some (some x) ∧
    st = getF s (CLK_REF_STAT_STATE r) ∧ 1 ≤ st ∧ st ≤ 4 ∧
    w = decide ((x + 16 * toS 32 (getF s CLK_XO_TRIM_TRIM)).natAbs ≤ 16 * getF s (CLK_REF_CFG_WIN r)) :=
  ⟨[none, none, some 100, none, none, none, none, none], on [(CLK_REF_CFG_EN 2, 1), (CLK_REF_CFG_QL_HOST 2, 4),
  (CLK_REF_CFG_WIN 2, 4600), (CLK_REF_DIVN_N 2, 1), (CLK_REF_DIVM_M 2, 1), (CLK_REF_STAT_STATE 2, 1),
  (CLK_REF_TIME_WTR 2, 5)] (up), 2, 100, 1, _, by decide, by decide, by decide, by decide, by decide, by decide,
  by decide, by decide, rfl⟩

theorem witness_ClockReferences_1 :
    ∃ (r : _) (s : State), r < 8 ∧ flag s (CLK_REF_CFG_EN r) = true ∧ refBroken s r = false ∧
    getF s (CLK_REF_STAT_STATE r) ≠ 0 :=
  ⟨6, on [(CLK_REF_CFG_EN 6, 1), (CLK_REF_CFG_QL_HOST 6, 4), (CLK_REF_CFG_WIN 6, 4600), (CLK_REF_DIVN_N 6, 1),
  (CLK_REF_DIVM_M 6, 1), (CLK_REF_STAT_STATE 6, 3)] ({ up with clk := { up.clk with inWin := [6] } }), by decide,
  by decide, by decide, by decide⟩

theorem witness_ClockReferences_2 :
    ∃ (r : _) (s : State), r < 8 ∧ flag s (CLK_REF_CFG_EN r) = true ∧ refBroken s r = false ∧ refQl s r ≠ 15 ∧
    getF s (CLK_REF_STAT_STATE r) = 2 ∧ r ∈ s.clk.inWin :=
  ⟨5, on [(CLK_REF_CFG_EN 5, 1), (CLK_REF_CFG_QL_HOST 5, 4), (CLK_REF_CFG_WIN 5, 4600), (CLK_REF_DIVN_N 5, 1),
  (CLK_REF_DIVM_M 5, 1), (CLK_REF_STAT_STATE 5, 2)] ({ up with clk := { up.clk with inWin := [5] } }), by decide,
  by decide, by decide, by decide, by decide, by decide⟩

theorem witness_ClockReferences_3 :
    ∃ (r : _) (s : State), r < 8 ∧ flag s (CLK_REF_CFG_EN r) = true ∧ refBroken s r = false ∧ refQl s r ≠ 15 ∧
    getF s (CLK_REF_STAT_STATE r) = 4 :=
  ⟨5, on [(CLK_REF_CFG_EN 5, 1), (CLK_REF_CFG_QL_HOST 5, 4), (CLK_REF_CFG_WIN 5, 4600), (CLK_REF_DIVN_N 5, 1),
  (CLK_REF_DIVM_M 5, 1), (CLK_REF_STAT_STATE 5, 4)] (up), by decide, by decide, by decide, by decide, by decide⟩

theorem witness_ClockReferences_4 :
    ∃ (r : _) (s : State), following s = true ∧ getF s CLK_STAT_SELECTED = r ∧ 1 ≤ r ∧ r ≤ 6 ∧
    flag s CLK_STAT_SWITCHING = true :=
  ⟨5, on [(CLK_REF_CFG_EN 5, 1), (CLK_REF_CFG_QL_HOST 5, 4), (CLK_REF_CFG_WIN 5, 4600), (CLK_REF_DIVN_N 5, 1),
  (CLK_REF_DIVM_M 5, 1), (CLK_STAT_STATE, 2), (CLK_STAT_SELECTED, 5), (CLK_REF_STAT_STATE 5, 3),
  (CLK_REF_DIVM_REF_OFS 5, 5), (CLK_STAT_SWITCHING, 1)] (up), by decide, by decide, by decide, by decide, by decide⟩

theorem witness_ClockReferences_5 :
    ∃ (s : State) (r : _) (b : _), r = getF s CLK_STAT_SELECTED ∧ flag s CLK_STAT_SWITCHING = true ∧
    2 ≤ getF s (CLK_REF_STAT_STATE r) ∧ 1 ≤ r ∧ r < 8 ∧ s.clk.avgN ≠ 0 ∧
    b = divRne s.clk.avgSum s.clk.avgN - userErr s s.clk.user :=
  ⟨on [(CLK_REF_CFG_EN 5, 1), (CLK_REF_CFG_QL_HOST 5, 4), (CLK_REF_CFG_WIN 5, 4600), (CLK_REF_DIVN_N 5, 1),
  (CLK_REF_DIVM_M 5, 1), (CLK_STAT_STATE, 2), (CLK_STAT_SELECTED, 5), (CLK_REF_STAT_STATE 5, 3),
  (CLK_REF_DIVM_REF_OFS 5, 5), (CLK_STAT_SWITCHING, 1), (CLK_SEL_SEL_MODE, 1), (CLK_SEL_FORCE_REF,
  5)] ({ up with clk := { up.clk with avgSum := 28224000 * 7, avgN := 3 } }), 5, _, by decide, by decide, by decide,
  by decide, by decide, by decide, rfl⟩

theorem witness_ClockReferences_6 :
    ∃ (s : State), flag s CLK_STAT_BLEEDING = true :=
  ⟨on [(CLK_STAT_BLEEDING, 1), (CLK_BUILDOUT_B, 9)] ({ up with clk := { up.clk with build := 5 } }), by decide⟩

theorem witness_ClockReferences_7 :
    ∃ (c : Instr), ((∃ l, c = Instr.refEvalTick l) ∨ (∃ r p, c = .refAbsence r p) ∨ (∃ r, c = .refWtrExpiry r) ∨ (∃ r,
    c = .refDqExpiry r) ∨ (∃ r d,
    c = .refPhaseEvent r d) ∨ c = .switchAveragingDone ∨ c = .buildOutBleedDone ∨ c = .dpllLockDetect ∨ c = .dpllUnlockDetect ∨ c = .holdoverHistoryTick ∨ c = .openTimeout) :=
  ⟨.openTimeout, by simp⟩

/-! ## DpllLoopAndHoldover -/

theorem witness_DpllLoopAndHoldover_0 :
    ∃ (r : _) (d : Int) (s : State) (e : _), following s = true ∧ getF s CLK_STAT_SELECTED = r ∧ 1 ≤ r ∧ r ≤ 6 ∧
    flag s CLK_STAT_SWITCHING = false ∧ flag s CLK_STAT_BLEEDING = false ∧
    e = reduceErr (refPeriod s r) (d * bUnit - toS 12 (getF s (CLK_REF_DIVM_REF_OFS r)) * ((16000000000 * 28224000 / (24576 * clkBase s) : Nat) : Int)) :=
  ⟨5, 12345, on [(CLK_REF_CFG_EN 5, 1), (CLK_REF_CFG_QL_HOST 5, 4), (CLK_REF_CFG_WIN 5, 4600), (CLK_REF_DIVN_N 5, 1),
  (CLK_REF_DIVM_M 5, 1), (CLK_STAT_STATE, 2), (CLK_STAT_SELECTED, 5), (CLK_REF_STAT_STATE 5, 3),
  (CLK_REF_DIVM_REF_OFS 5, 5)] (up), _, by decide, by decide, by decide, by decide, by decide, by decide, rfl⟩

theorem witness_DpllLoopAndHoldover_1 :
    ∃ (r : _) (s : State), (following s = false ∨ getF s CLK_STAT_SELECTED ≠ r) :=
  ⟨5, on [(CLK_REF_CFG_EN 5, 1), (CLK_REF_CFG_QL_HOST 5, 4), (CLK_REF_CFG_WIN 5, 4600), (CLK_REF_DIVN_N 5, 1),
  (CLK_REF_DIVM_M 5, 1), (CLK_STAT_STATE, 4), (CLK_STAT_SELECTED, 5), (CLK_REF_STAT_STATE 5, 3),
  (CLK_REF_DIVM_REF_OFS 5, 5)] (up), by decide⟩

theorem witness_DpllLoopAndHoldover_2 :
    ∃ (s : State), getF s CLK_STAT_STATE = 1 ∧ flag s CLK_STAT_SWITCHING = false ∧
    (phaseErr s).natAbs ≤ 16 * getF s CLK_DPLL_CTL_LOCK_NS :=
  ⟨on [(CLK_REF_CFG_EN 5, 1), (CLK_REF_CFG_QL_HOST 5, 4), (CLK_REF_CFG_WIN 5, 4600), (CLK_REF_DIVN_N 5, 1),
  (CLK_REF_DIVM_M 5, 1), (CLK_STAT_STATE, 1), (CLK_STAT_SELECTED, 5), (CLK_REF_STAT_STATE 5, 3),
  (CLK_REF_DIVM_REF_OFS 5, 5), (CLK_DPLL_CTL_LOCK_NS, 100)] (up), by decide, by decide, by decide⟩

theorem witness_DpllLoopAndHoldover_3 :
    ∃ (s : State), getF s CLK_STAT_STATE = 2 ∧ 64 * getF s CLK_DPLL_CTL_LOCK_NS < (phaseErr s).natAbs :=
  ⟨on [(CLK_REF_CFG_EN 5, 1), (CLK_REF_CFG_QL_HOST 5, 4), (CLK_REF_CFG_WIN 5, 4600), (CLK_REF_DIVN_N 5, 1),
  (CLK_REF_DIVM_M 5, 1), (CLK_STAT_STATE, 2), (CLK_STAT_SELECTED, 5), (CLK_REF_STAT_STATE 5, 3),
  (CLK_REF_DIVM_REF_OFS 5, 5), (CLK_DPLL_CTL_LOCK_NS, 1), (CLK_PHASE_ERR_ERR, 268435391)] (up), by decide, by decide⟩

theorem witness_DpllLoopAndHoldover_4 :
    ∃ (s : State), getF s CLK_STAT_STATE = 2 ∧ (phaseErr s).natAbs ≤ 64 * getF s CLK_DPLL_CTL_LOCK_NS :=
  ⟨on [(CLK_REF_CFG_EN 5, 1), (CLK_REF_CFG_QL_HOST 5, 4), (CLK_REF_CFG_WIN 5, 4600), (CLK_REF_DIVN_N 5, 1),
  (CLK_REF_DIVM_M 5, 1), (CLK_STAT_STATE, 2), (CLK_STAT_SELECTED, 5), (CLK_REF_STAT_STATE 5, 3),
  (CLK_REF_DIVM_REF_OFS 5, 5), (CLK_DPLL_CTL_LOCK_NS, 1), (CLK_PHASE_ERR_ERR, 64)] (up), by decide, by decide⟩

theorem witness_DpllLoopAndHoldover_5 :
    ∃ (s : State), getF s CLK_STAT_STATE = 2 ∧ flag s CLK_STAT_SWITCHING = false ∧ flag s CLK_STAT_BLEEDING = false ∧
    s.clk.secN ≠ 0 :=
  ⟨on [(CLK_REF_CFG_EN 5, 1), (CLK_REF_CFG_QL_HOST 5, 4), (CLK_REF_CFG_WIN 5, 4600), (CLK_REF_DIVN_N 5, 1),
  (CLK_REF_DIVM_M 5, 1), (CLK_STAT_STATE, 2), (CLK_STAT_SELECTED, 5), (CLK_REF_STAT_STATE 5, 3),
  (CLK_REF_DIVM_REF_OFS 5, 5)] ({ up with clk := { up.clk with secSum := 11, secN := 2, lockedSecs := 9 } }),
  by decide, by decide, by decide, by decide⟩

theorem witness_DpllLoopAndHoldover_6 :
    ∃ (s : State), flag s CLK_STAT_STEER = true :=
  ⟨on [(CLK_STAT_STEER, 1)] up, by decide⟩

/-! ## SynthesisAndOutputClocks -/

theorem witness_SynthesisAndOutputClocks_0 :
    ∃ (v : _) (s : State) (n : _), n = toS 16 (getF s CLK_PSTEP_STEP) + toS 16 v ∧ n.natAbs ≤ 32767 :=
  ⟨65437, on [(CLK_PSTEP_STEP, 100)] up, _, rfl, by decide⟩

theorem witness_SynthesisAndOutputClocks_1 :
    ∃ (v : _) (s : State) (n : _), n = toS 16 (getF s CLK_PSTEP_STEP) + toS 16 v ∧ 32767 < n.natAbs :=
  ⟨1, on [(CLK_PSTEP_STEP, 32767)] up, _, rfl, by decide⟩

theorem witness_SynthesisAndOutputClocks_2 :
    ∃ (s : State) (n : _), n = toS 16 (getF s CLK_PSTEP_STEP) :=
  ⟨on [(CLK_PSTEP_STEP, 65535)] up, _, rfl⟩

theorem witness_SynthesisAndOutputClocks_3 :
    ∃ (s : State) (b : _) (x : Int) (r : Int), flag s CLK_SYN_CTL_EN = false ∧ b < 64 ∧ bandMargin s b = some x ∧
    5000 ≤ x ∧ (∀ k y, k < 64 → bandMargin s k = some y → y < x ∨ y = x ∧ b ≤ k) ∧
    r = (divRne ((if getF s CLK_SEL_FAMILY = 0 then 18874368 else 21676032) * (2 ^ 40 * 1000000000 + s.clk.freq * 1000000000 - toS 32 (getF s CLK_XO_TRIM_TRIM) * 2 ^ 40) * 2 ^ 32) (100000 * 2 ^ 40 * 1000000000)) :=
  ⟨{ up with clk := { up.clk with bands := [(7, (4700, 4730)), (9, (4710, 4725))] } }, 7, 11408, (divRne ((18874368 : Int) * (2 ^ 40 * 1000000000) * 2 ^ 32) (100000 * 2 ^ 40 * 1000000000)), by decide, by decide, by decide, by decide, fun k y hk h => by
    have h2 : ∀ k, k < 64 → bandMargin ({ up with clk := { up.clk with bands := [(7, (4700, 4730)), (9, (4710, 4725))] } }) k = none ∨ bandMargin ({ up with clk := { up.clk with bands := [(7, (4700, 4730)), (9, (4710, 4725))] } }) k = some 11408 ∧ 7 ≤ k ∨ bandMargin ({ up with clk := { up.clk with bands := [(7, (4700, 4730)), (9, (4710, 4725))] } }) k = some 6408 := by
      decide
    rcases h2 k hk with h1 | h1 | h1
    · rw [h1] at h
      cases h
    · rw [h1.1] at h
      cases h
      exact Or.inr ⟨rfl, h1.2⟩
    · rw [h1] at h
      cases h
      exact Or.inl (by decide), by decide⟩

theorem witness_SynthesisAndOutputClocks_4 :
    ∃ (s : State), flag s CLK_SYN_CTL_EN = false ∧ (∀ k y, k < 64 → bandMargin s k = some y → y < 5000) :=
  ⟨up, by decide, fun k y _ h => by
    have h0 : bandMargin up k = none := rfl
    rw [h0] at h
    cases h⟩

theorem witness_SynthesisAndOutputClocks_5 :
    ∃ (s : State), flag s CLK_SYN_CTL_EN = true ∧ (∃ k y, k < 64 ∧ bandMargin s k = some y ∧ 5000 ≤ y) ∧
    flag s CLK_SYN_STAT_COAST = false :=
  ⟨on [(CLK_SYN_CTL_EN, 1)] ({ up with clk := { up.clk with bands := [(7, (4700, 4730)), (9, (4710, 4725))] } }),
  by decide, ⟨7, 11408, by decide, by decide, by decide⟩, by decide⟩

theorem witness_SynthesisAndOutputClocks_6 :
    ∃ (s : State), flag s CLK_SYN_STAT_LOCK = true :=
  ⟨on [(CLK_SYN_STAT_LOCK, 1), (PAIR_STAT_CLAIM,
  1)] { up with pins := { up.pins with pairEn := true }, pair := { up.pair with drivers := true } }, by decide⟩

theorem witness_SynthesisAndOutputClocks_7 :
    ∃ (s : State), flag s CLK_SYN_STAT_COAST = true :=
  ⟨on [(CLK_SYN_STAT_COAST, 1), (LIFE_FAULT_PLL, 1), (LIFE_FAULT_THERMAL, 1)] up, by decide⟩

theorem witness_SynthesisAndOutputClocks_8 :
    ∃ (s : State), flag s CLK_SYN_CTL_EN = true :=
  ⟨on [(CLK_SYN_CTL_EN, 1)] up, by decide⟩

theorem witness_SynthesisAndOutputClocks_9 :
    ∃ (s : State), flag s CLK_SYN_CTL_EN = false :=
  ⟨up, by decide⟩

theorem witness_SynthesisAndOutputClocks_10 :
    ∃ (s : State), flag s CLK_CAL_CTL_BUSY = true :=
  ⟨on [(CLK_CAL_CTL_BUSY, 1)] up, by decide⟩

theorem witness_SynthesisAndOutputClocks_11 :
    ∃ (w : _) (e : _) (s : State) (a : _) (p : _), w < 2 ∧
    p = ((24576 / 2 ^ min (getF s (CLK_WCO_CFG_K w)) 2 : Nat) : Int) ∧
    a = ((((if getF s (CLK_WCO_CFG_ALIGN_SRC w) = 0 then 0 else e : Nat) : Int) + toS 24 (getF s (CLK_WCO_CFG_OFFSET w))) % p).toNat :=
  ⟨1, 24575, on [(CLK_WCO_CFG_ALIGN_SRC 1, 1), (CLK_WCO_CFG_OFFSET 1, 16777215), (CLK_WCO_CFG_K 1, 1)] up, _, _,
  by decide, rfl, rfl⟩

theorem witness_SynthesisAndOutputClocks_12 :
    ∃ (w : _) (e : _) (s : State) (a : _) (p : _), w < 2 ∧
    p = ((24576 / 2 ^ min (getF s (CLK_WCO_CFG_K w)) 2 : Nat) : Int) ∧
    a = ((((if getF s (CLK_WCO_CFG_ALIGN_SRC w) = 0 then 0 else e : Nat) : Int) + toS 24 (getF s (CLK_WCO_CFG_OFFSET w))) % p).toNat ∧
    flag s (CLK_WCO_CFG_EN w) = true ∧ flag s (CLK_WCO_CFG_TRACK w) = true ∧ getF s (CLK_WCO_CFG_ALIGN_SRC w) ≠ 0 :=
  ⟨1, 3, on [(CLK_WCO_CFG_EN 1, 1), (CLK_WCO_CFG_TRACK 1, 1), (CLK_WCO_CFG_ALIGN_SRC 1, 1), (CLK_WCO_CFG_OFFSET 1,
  16777215)] up, _, _, by decide, rfl, rfl, by decide, by decide, by decide⟩

/-! ## ModulationAndProtection -/

theorem witness_ModulationAndProtection_0 :
    ∃ (c : _) (s : State) (q : _) (e : _), c < 32 ∧ hasAmp s = true ∧ running s = true ∧ flag s AMP_CTL_EN = true ∧
    flag s (AMP_CH_CFG_EN c) = true ∧ q = carrierQ s c ∧
    e = q * 2 ^ 35 + (periodX s c).1 + 2 * (ampCh s c).a1 - (ampCh s c).a2 :=
  ⟨5,
  updCh 5 (fun t => { t with a1 := 1000000007, a2 := -77, idx := 3, prev := 7, cur := 9, env := 4 }) (on [(AMP_CTL_EN,
  1), (AMP_MKL_CFG_DISC_EN, 1), (AMP_MKL_CFG_ALLOW_3L, 1), (AMP_MKL_RAIL_LIM_MAX, 4095), (AMP_CTL_MIN_PULSE, 50),
  (AMP_CH_CFG_EN 5, 1)] (run)), _, _, by decide, by decide, by decide, by decide, by decide, rfl, rfl⟩

theorem witness_ModulationAndProtection_1 :
    ∃ (c : _) (l : _) (s : State), c < 32 ∧ ownTrips s = true ∧ ocOn s c = true ∧ getF s (AMP_CH_PROT_OC_LIMIT c) < l :=
  ⟨5, 101, on [(AMP_CTL_EN, 1), (AMP_MKL_CFG_DISC_EN, 1), (AMP_MKL_CFG_ALLOW_3L, 1), (AMP_MKL_RAIL_LIM_MAX, 4095),
  (AMP_CTL_MIN_PULSE, 50), (AMP_CH_PROT_OC_EN 5, 1), (AMP_CH_PROT_OC_LIMIT 5, 100)] (run), by decide, by decide,
  by decide, by decide⟩

theorem witness_ModulationAndProtection_2 :
    ∃ (c : _) (l : _) (s : State), c < 32 ∧ ownTrips s = true ∧
    (ocOn s c = false ∨ l ≤ getF s (AMP_CH_PROT_OC_LIMIT c)) :=
  ⟨5, 100, on [(AMP_CTL_EN, 1), (AMP_MKL_CFG_DISC_EN, 1), (AMP_MKL_CFG_ALLOW_3L, 1), (AMP_MKL_RAIL_LIM_MAX, 4095),
  (AMP_CTL_MIN_PULSE, 50), (AMP_CH_PROT_OC_EN 5, 1), (AMP_CH_PROT_OC_LIMIT 5, 100)] (run), by decide, by decide,
  by decide⟩

theorem witness_ModulationAndProtection_3 :
    ∃ (c : _) (s : State), c < 32 ∧ hasAmp s = true :=
  ⟨5, on [(AMP_CTL_EN, 1), (AMP_MKL_CFG_DISC_EN, 1), (AMP_MKL_CFG_ALLOW_3L, 1), (AMP_MKL_RAIL_LIM_MAX, 4095),
  (AMP_CTL_MIN_PULSE, 50), (AMP_CH_CFG_TRIP_POL 5, 1)] (run), by decide, by decide⟩

theorem witness_ModulationAndProtection_4 :
    ∃ (c : _) (s : State), c < 32 ∧ hasAmp s = true ∧ running s = true ∧ getF s (AMP_CH_STAT_STATE c) = 4 ∧
    (ampCh s c).tCi + holdH s ≤ s.fab.ci ∧ tripPresent s c = false :=
  ⟨5, updCh 5 (fun t => { t with tCi := 520, trip := true, oc := true }) (on [(AMP_CTL_EN, 1), (AMP_MKL_CFG_DISC_EN,
  1), (AMP_MKL_CFG_ALLOW_3L, 1), (AMP_MKL_RAIL_LIM_MAX, 4095), (AMP_CTL_MIN_PULSE, 50), (AMP_CH_STAT_STATE 5,
  4)] (run)), by decide, by decide, by decide, by decide, by decide, by decide⟩

theorem witness_ModulationAndProtection_5 :
    ∃ (c : _) (s : State) (n : _), c < 32 ∧ hasAmp s = true ∧ running s = true ∧ getF s (AMP_CH_STAT_STATE c) = 4 ∧
    (ampCh s c).tCi + holdH s ≤ s.fab.ci ∧ tripPresent s c = true ∧
    n = ((ampCh s c).strikes.filter (fun x => s.fab.ci < x + windowW1 s)).length + 1 :=
  ⟨5, updCh 5 (fun t => { t with tCi := 520, trip := true, strikes := [900, 200] }) (on [(AMP_CTL_EN, 1),
  (AMP_MKL_CFG_DISC_EN, 1), (AMP_MKL_CFG_ALLOW_3L, 1), (AMP_MKL_RAIL_LIM_MAX, 4095), (AMP_CTL_MIN_PULSE, 50),
  (AMP_CH_STAT_STATE 5, 4), (AMP_CH_CFG_TRIP_POL 5, 1)] (run)), _, by decide, by decide, by decide, by decide,
  by decide, by decide, rfl⟩

theorem witness_ModulationAndProtection_6 :
    ∃ (c : _) (s : State), c < 32 ∧ hasAmp s = true ∧ running s = true ∧
    (getF s (AMP_CH_STAT_STATE c) ≠ 4 ∨ s.fab.ci < (ampCh s c).tCi + holdH s) :=
  ⟨5, updCh 5 (fun t => { t with tCi := 521 }) (on [(AMP_CTL_EN, 1), (AMP_MKL_CFG_DISC_EN, 1), (AMP_MKL_CFG_ALLOW_3L,
  1), (AMP_MKL_RAIL_LIM_MAX, 4095), (AMP_CTL_MIN_PULSE, 50), (AMP_CH_STAT_STATE 5, 4)] (run)), by decide, by decide,
  by decide, by decide⟩

theorem witness_ModulationAndProtection_7 :
    ∃ (s : State), hasAmp s = true :=
  ⟨updCh 0 (fun t => t) up, by decide⟩

/-! ## StageBus -/

theorem witness_StageBus_0 :
    ∃ (a : _) (typ : _) (ws : List Nat), a < 16 ∧ typ < 256 ∧ ws.length ≤ 8 ∧ (∀ w ∈ ws, w < 2 ^ 32) :=
  ⟨5, 4, [1, 4294967295], by decide, by decide, by decide, by decide⟩

theorem witness_StageBus_1 :
    ∃ (f : _) (s : State), hasAmp s = true ∧ flag s AMP_CTL_EN = true ∧ mklParse f = none :=
  ⟨[1, 2], on [(AMP_CTL_EN, 1), (AMP_MKL_CFG_DISC_EN, 1), (AMP_MKL_CFG_ALLOW_3L, 1), (AMP_MKL_RAIL_LIM_MAX, 4095),
  (AMP_CTL_MIN_PULSE, 50)] (run), by decide, by decide, by decide⟩

theorem witness_StageBus_2 :
    ∃ (m : _) (vs : List Nat) (s : State), m < 8 ∧ vs.length = 6 ∧ (∀ w ∈ vs, w < 2 ^ 32) ∧ hasAmp s = true ∧
    flag s AMP_CTL_EN = true ∧ flag s AMP_MKL_CFG_DISC_EN = true ∧
    (getF s (AMP_MOD_STAT_STATE m) = 0 ∨ getF s (AMP_MOD_STAT_STATE m) = 3) ∧ (ampMod s m).asked = true :=
  ⟨5, [1, 1 + 4 + 256 * 20 + 65536 * 100, 1, 16 + 65536 * 100, 7, 8],
  updMod 5 (fun t => { t with asked := true }) (on [(AMP_CTL_EN, 1), (AMP_MKL_CFG_DISC_EN, 1), (AMP_MKL_CFG_ALLOW_3L,
  1), (AMP_MKL_RAIL_LIM_MAX, 4095), (AMP_CTL_MIN_PULSE, 50)] (run)), by decide, by decide, by decide, by decide,
  by decide, by decide, by decide, by decide⟩

theorem witness_StageBus_3 :
    ∃ (m : _) (s : State), m < 8 ∧ hasAmp s = true ∧ flag s AMP_CTL_EN = true ∧ flag s AMP_MKL_CFG_DISC_EN = true ∧
    ownTrips s = true ∧ getF s (AMP_MOD_STAT_STATE m) = 1 ∧ (ampMod s m).cfg.length = 2 ∧ (∀ w ∈ (ampMod s m).cfg,
    w < 2 ^ 32) :=
  ⟨5, updMod 5 (fun t => { t with cfg := [5121, 100], tries := 2 }) (on [(AMP_CTL_EN, 1), (AMP_MKL_CFG_DISC_EN, 1),
  (AMP_MKL_CFG_ALLOW_3L, 1), (AMP_MKL_RAIL_LIM_MAX, 4095), (AMP_CTL_MIN_PULSE, 50), (AMP_MOD_STAT_STATE 5, 1)] (run)),
  by decide, by decide, by decide, by decide, by decide, by decide, by decide, by decide⟩

theorem witness_StageBus_4 :
    ∃ (m : _) (w : _) (v : _) (s : State), m < 8 ∧ w < 2 ^ 32 ∧ v < 2 ^ 32 ∧ hasAmp s = true ∧
    flag s AMP_CTL_EN = true ∧ flag s AMP_MKL_CFG_DISC_EN = true ∧ ownTrips s = true ∧
    getF s (AMP_MOD_STAT_STATE m) = 2 :=
  ⟨5, 6, 8, updMod 5 (fun t => { t with miss := 1 }) (on [(AMP_CTL_EN, 1), (AMP_MKL_CFG_DISC_EN, 1),
  (AMP_MKL_CFG_ALLOW_3L, 1), (AMP_MKL_RAIL_LIM_MAX, 4095), (AMP_CTL_MIN_PULSE, 50), (AMP_MOD_STAT_STATE 5, 2)] (run)),
  by decide, by decide, by decide, by decide, by decide, by decide, by decide, by decide⟩

theorem witness_StageBus_5 :
    ∃ (m : _) (s : State), m = s.amp.seq % 8 ∧ ownTrips s = true ∧ flag s AMP_CTL_EN = true ∧
    flag s AMP_MKL_CFG_DISC_EN = true ∧ getF s (AMP_MOD_STAT_STATE m) = 2 :=
  ⟨5,
  (fun s => { s with amp := { s.amp with seq := 13 } }) (updMod 5 (fun t => { t with miss := 2 }) (on [(AMP_CTL_EN,
  1), (AMP_MKL_CFG_DISC_EN, 1), (AMP_MKL_CFG_ALLOW_3L, 1), (AMP_MKL_RAIL_LIM_MAX, 4095), (AMP_CTL_MIN_PULSE, 50),
  (AMP_MOD_STAT_STATE 5, 2)] (run))), by decide, by decide, by decide, by decide, by decide⟩

theorem witness_StageBus_6 :
    ∃ (m : _) (s : State), m < 8 ∧ hasAmp s = true ∧ flag s AMP_MKL_CFG_DISC_EN = true ∧
    (getF s (AMP_MOD_STAT_STATE m) = 0 ∨ getF s (AMP_MOD_STAT_STATE m) = 3) :=
  ⟨5, on [(AMP_CTL_EN, 1), (AMP_MKL_CFG_DISC_EN, 1), (AMP_MKL_CFG_ALLOW_3L, 1), (AMP_MKL_RAIL_LIM_MAX, 4095),
  (AMP_CTL_MIN_PULSE, 50)] (run), by decide, by decide, by decide, by decide⟩

theorem witness_StageBus_7 :
    ∃ (m : _) (s : State), m < 8 ∧ busDrives s = true ∧ flag s AMP_MKL_CFG_DISC_EN = true ∧ (∀ k, k < 8 →
    getF s (AMP_MOD_STAT_STATE k) = 1 → (ampMod s k).tries < 4) ∧ (∀ k, k < m → getF s (AMP_MOD_STAT_STATE k) ≠ 1 ∧
    (ampMod s k).due = false) ∧ getF s (AMP_MOD_STAT_STATE m) = 1 :=
  ⟨5, updMod 5 (fun t => { t with tries := 3, cfg := [5121, 100] }) (on [(AMP_CTL_EN, 1), (AMP_MKL_CFG_DISC_EN, 1),
  (AMP_MKL_CFG_ALLOW_3L, 1), (AMP_MKL_RAIL_LIM_MAX, 4095), (AMP_CTL_MIN_PULSE, 50), (AMP_MOD_STAT_STATE 5, 1),
  (PAIR_STAT_CLAIM, 1), (LIFE_STATUS_DARK, 0)] ({ run with pair := { run.pair with drivers := true } })), by decide,
  by decide, by decide, by decide, by decide, by decide⟩

theorem witness_StageBus_8 :
    ∃ (m : _) (s : State), m < 8 ∧ busDrives s = true ∧ flag s AMP_MKL_CFG_DISC_EN = true ∧ (∀ k, k < 8 →
    getF s (AMP_MOD_STAT_STATE k) = 1 → (ampMod s k).tries < 4) ∧ (∀ k, k < m → getF s (AMP_MOD_STAT_STATE k) ≠ 1 ∧
    (ampMod s k).due = false) ∧ getF s (AMP_MOD_STAT_STATE m) ≠ 1 ∧ (ampMod s m).due = true :=
  ⟨5, updMod 5 (fun t => { t with due := true }) (on [(AMP_CTL_EN, 1), (AMP_MKL_CFG_DISC_EN, 1),
  (AMP_MKL_CFG_ALLOW_3L, 1), (AMP_MKL_RAIL_LIM_MAX, 4095), (AMP_CTL_MIN_PULSE, 50), (PAIR_STAT_CLAIM, 1),
  (LIFE_STATUS_DARK, 0)] ({ run with pair := { run.pair with drivers := true } })), by decide, by decide, by decide,
  by decide, by decide, by decide, by decide⟩

theorem witness_StageBus_9 :
    ∃ (m : _) (s : State), m < 8 ∧ busDrives s = true ∧ flag s AMP_MKL_CFG_DISC_EN = true ∧
    getF s (AMP_MOD_STAT_STATE m) = 1 ∧ 4 ≤ (ampMod s m).tries :=
  ⟨5, updMod 5 (fun t => { t with tries := 4 }) (on [(AMP_CTL_EN, 1), (AMP_MKL_CFG_DISC_EN, 1), (AMP_MKL_CFG_ALLOW_3L,
  1), (AMP_MKL_RAIL_LIM_MAX, 4095), (AMP_CTL_MIN_PULSE, 50), (AMP_MOD_STAT_STATE 5, 1), (PAIR_STAT_CLAIM, 1),
  (LIFE_STATUS_DARK, 0)] ({ run with pair := { run.pair with drivers := true } })), by decide, by decide, by decide,
  by decide, by decide⟩

/-! ## AshlarBeats -/

theorem witness_AshlarBeats_0 :
    ∃ (m : _) (l : _) (s : State) (b : _), Quiescent s ∧ b = bankOf l ∧ b < nBanks s ∧
    s.vsr.inReset.contains m = false ∧ (bankQueue s b).length < 32 ∧ (s.ash.queue.map (fun p => p.2.length)).sum < 64 :=
  ⟨6, 393283, up, _, by decide, rfl, by decide, by decide, by decide, by decide⟩

theorem witness_AshlarBeats_1 :
    ∃ (l : _) (s : State), Quiescent s ∧ bankOf l < nBanks s ∧
    (32 ≤ (bankQueue s (bankOf l)).length ∨ 64 ≤ (s.ash.queue.map (fun p => p.2.length)).sum) :=
  ⟨393283,
  (fun s => { s with ash := { s.ash with queue := [(3, List.replicate 32 ⟨6, 9, false, 393280, 0, [1, 2, 3, 4, 5, 6, 7, 8], false⟩)] } }) (up),
  by decide, by decide, by decide⟩

theorem witness_AshlarBeats_2 :
    ∃ (m : _) (l : _) (s : State), Quiescent s ∧ nBanks s ≤ bankOf l ∧ s.vsr.inReset.contains m = false :=
  ⟨6, 16646144, { up with fuses := { up.fuses with cap := up.fuses.cap - 256 * 8 } }, by decide, by decide, by decide⟩

theorem witness_AshlarBeats_3 :
    ∃ (k : _) (c : _) (s : State) (b : Beat) (q : List Beat) (v : List Nat), Quiescent s ∧ bankQueue s k = b :: q ∧
    isMortar s k c = true ∧ s.ash.merge.find k = none ∧ bankState s k = 0 ∧ b.write = false ∧ b.cut = false ∧
    s.vsr.inReset.contains b.master = false ∧ v.length = 8 ∧ (∀ i, i < 8 →
    eccDecode (ashCode s (b.line + i)) = .ok (v.getD i 0)) :=
  ⟨3, 7,
  (fun s => { s with ash := { s.ash with queue := [(3, [⟨6, 9, false, 393280, 0, [1, 2, 3, 4, 5, 6, 7, 8], false⟩, ⟨6, 9, false, 393280, 0, [1, 2, 3, 4, 5, 6, 7, 8], false⟩])] } }) (putAshWords 393280 [10,
  20, 30, 40, 50, 60, 70, 80] (up)), ⟨6, 9, false, 393280, 0, [1, 2, 3, 4, 5, 6, 7, 8], false⟩, [⟨6, 9, false, 393280,
  0, [1, 2, 3, 4, 5, 6, 7, 8], false⟩], [10, 20, 30, 40, 50, 60, 70, 80], by decide, by decide, by decide, by decide,
  by decide, by decide, by decide, by decide, by decide, by decide⟩

theorem witness_AshlarBeats_4 :
    ∃ (k : _) (c : _) (s : State) (b : Beat) (q : List Beat), Quiescent s ∧ bankQueue s k = b :: q ∧
    isMortar s k c = true ∧ s.ash.merge.find k = none ∧ bankState s k = 0 ∧ b.write = true ∧ b.cut = false ∧
    isPartial b = false ∧ s.vsr.inReset.contains b.master = false ∧ flag s ASH_INJ_ADDR_ARM = false :=
  ⟨3, 7,
  (fun s => { s with ash := { s.ash with queue := [(3, [⟨6, 9, true, 393280, 0xF0F0FFFF, [1, 2, 3, 4, 5, 6, 7, 8], false⟩, ⟨6, 9, false, 393280, 0, [1, 2, 3, 4, 5, 6, 7, 8], false⟩])] } }) (putAshWords 393280 [10,
  20, 30, 40, 50, 60, 70, 80] (up)), ⟨6, 9, true, 393280, 0xF0F0FFFF, [1, 2, 3, 4, 5, 6, 7, 8], false⟩, [⟨6, 9, false,
  393280, 0, [1, 2, 3, 4, 5, 6, 7, 8], false⟩], by decide, by decide, by decide, by decide, by decide, by decide,
  by decide, by decide, by decide, by decide⟩

theorem witness_AshlarBeats_5 :
    ∃ (k : _) (c : _) (s : State) (b : Beat) (q : List Beat) (v : List Nat), Quiescent s ∧ bankQueue s k = b :: q ∧
    isMortar s k c = true ∧ s.ash.merge.find k = none ∧ bankState s k = 0 ∧ b.write = true ∧ isPartial b = true ∧
    v.length = 8 ∧ (∀ i, i < 8 → if strobesOf b i ≠ 0 ∧
    strobesOf b i ≠ 15 then eccDecode (ashCode s (b.line + i)) = .ok (v.getD i 0) else v.getD i 0 = 0) :=
  ⟨3, 7,
  (fun s => { s with ash := { s.ash with queue := [(3, [⟨6, 9, true, 393280, 0x70F00FF3, [1, 2, 3, 4, 5, 6, 7, 8], false⟩, ⟨6, 9, false, 393280, 0, [1, 2, 3, 4, 5, 6, 7, 8], false⟩])] } }) (putAshWords 393280 [10,
  20, 30, 40, 50, 60, 70, 80] (up)), ⟨6, 9, true, 393280, 0x70F00FF3, [1, 2, 3, 4, 5, 6, 7, 8], false⟩, [⟨6, 9, false,
  393280, 0, [1, 2, 3, 4, 5, 6, 7, 8], false⟩], [10, 0, 0, 0, 0, 0, 0, 80], by decide, by decide, by decide,
  by decide, by decide, by decide, by decide, by decide, by decide⟩

theorem witness_AshlarBeats_6 :
    ∃ (k : _) (s : State) (h : MergeHold), Quiescent s ∧ s.ash.merge.find k = some h ∧ h.beat.cut = false ∧
    s.vsr.inReset.contains h.beat.master = false ∧ flag s ASH_INJ_ADDR_ARM = false :=
  ⟨3,
  (fun s => { s with ash := { s.ash with merge := [(3, ⟨⟨6, 9, true, 393280, 0x70F00FF3, [1, 2, 3, 4, 5, 6, 7, 8], false⟩, [10, 0, 0, 0, 0, 0, 0, 80]⟩)] } }) (putAshWords 393280 [10,
  20, 30, 40, 50, 60, 70, 80] (up)), ⟨⟨6, 9, true, 393280, 0x70F00FF3, [1, 2, 3, 4, 5, 6, 7, 8], false⟩, [10, 0, 0, 0,
  0, 0, 0, 80]⟩, by decide, by decide, by decide, by decide, by decide⟩

theorem witness_AshlarBeats_7 :
    ∃ (k : _) (c : _) (s : State) (b : Beat) (q : List Beat), Quiescent s ∧ bankQueue s k = b :: q ∧
    isMortar s k c = true ∧ s.ash.merge.find k = none ∧ bankState s k ≠ 0 ∧ b.cut = false ∧
    s.vsr.inReset.contains b.master = false :=
  ⟨3, 7,
  putF (bankField 3) 1 ((fun s => { s with ash := { s.ash with queue := [(3, [⟨6, 9, false, 393280, 0, [1, 2, 3, 4, 5, 6, 7, 8], false⟩, ⟨6, 9, false, 393280, 0, [1, 2, 3, 4, 5, 6, 7, 8], false⟩])] } }) (up)),
  ⟨6, 9, false, 393280, 0, [1, 2, 3, 4, 5, 6, 7, 8], false⟩, [⟨6, 9, false, 393280, 0, [1, 2, 3, 4, 5, 6, 7, 8],
  false⟩], by decide, by decide, by decide, by decide, by decide, by decide, by decide⟩

theorem witness_AshlarBeats_8 :
    ∃ (k : _) (c : _) (s : State), Quiescent s ∧
    (isMortar s k c = false ∨ s.ash.merge.find k ≠ none ∨ bankQueue s k = []) :=
  ⟨3, 7, up, by decide, by decide⟩

/-! ## ScrubberAndBankPower -/

theorem witness_ScrubberAndBankPower_0 :
    ∃ (k : _) (c : _) (bh : _) (s : State) (l : _), flag s ASH_SCRUB_PERIOD = true ∧ s.ash.scrubPass = true ∧
    bankState s k = 0 ∧ s.ash.scrubDone.contains k = false ∧ isMortar s k c = true ∧
    (bh = true ∨ bankQueue s k = []) ∧ s.ash.merge.find k = none ∧ l = s.ash.scrubLine.get k 0 ∧ l < 16383 ∧ (∀ i,
    i < 8 → ∃ v, eccDecode (ashCode s (131072 * k + 8 * l + i)) = .ok v) :=
  ⟨3, 7, false, on [(ASH_SCRUB_PERIOD,
  1)] ((fun s => { s with ash := { s.ash with scrubPass := true, scrubLine := [(3, 8)] } }) (putAshWords 393280 [10,
  20, 30, 40, 50, 60, 70, 80] (up))), 8, by decide, by decide, by decide, by decide, by decide, by decide, by decide,
  by decide, by decide, fun i hi => ⟨([10, 20, 30, 40, 50, 60, 70, 80] : List Nat).getD i 0, (by decide : ∀ i, i < 8 →
  eccDecode (ashCode (on [(ASH_SCRUB_PERIOD,
  1)] ((fun s => { s with ash := { s.ash with scrubPass := true, scrubLine := [(3, 8)] } }) (putAshWords 393280 [10,
  20, 30, 40, 50, 60, 70, 80] (up)))) (131072 * 3 + 8 * 8 + i)) = .ok (([10, 20, 30, 40, 50, 60, 70,
  80] : List Nat).getD i 0)) i hi⟩⟩

theorem witness_ScrubberAndBankPower_1 :
    ∃ (k : _) (c : _) (bh : _) (s : State) (l : _) (j : _) (v : _) (sy : _) (w : _), flag s ASH_SCRUB_PERIOD = true ∧
    s.ash.scrubPass = true ∧ bankState s k = 0 ∧ s.ash.scrubDone.contains k = false ∧ isMortar s k c = true ∧
    (bh = true ∨ bankQueue s k = []) ∧ s.ash.merge.find k = none ∧ l = s.ash.scrubLine.get k 0 ∧ l < 16383 ∧ j < 8 ∧
    k < 128 ∧ w = 131072 * k + 8 * l + j ∧ eccDecode (ashCode s w) = .corrected v sy ∧ (∀ i, i < 8 → i ≠ j → ∃ x,
    eccDecode (ashCode s (131072 * k + 8 * l + i)) = .ok x) :=
  ⟨3, 7, false, on [(ASH_SCRUB_PERIOD,
  1)] ((fun s => { s with ash := { s.ash with scrubPass := true, scrubLine := [(3, 8)] } }) (putCode 393281 (eccEncode 20 + 1) (putAshWords 393280 [10,
  20, 30, 40, 50, 60, 70, 80] (up)))), 8, 1, 20, 7, 393281, by decide, by decide, by decide, by decide, by decide,
  by decide, by decide, by decide, by decide, by decide, by decide, by decide, by decide, fun i hi hj => ⟨([10, 20,
  30, 40, 50, 60, 70, 80] : List Nat).getD i 0, (by decide : ∀ i, i < 8 → i ≠ 1 →
  eccDecode (ashCode (on [(ASH_SCRUB_PERIOD,
  1)] ((fun s => { s with ash := { s.ash with scrubPass := true, scrubLine := [(3, 8)] } }) (putCode 393281 (eccEncode 20 + 1) (putAshWords 393280 [10,
  20, 30, 40, 50, 60, 70, 80] (up))))) (131072 * 3 + 8 * 8 + i)) = .ok (([10, 20, 30, 40, 50, 60, 70,
  80] : List Nat).getD i 0)) i hi hj⟩⟩

theorem witness_ScrubberAndBankPower_2 :
    ∃ (k : _) (w : _) (c : _) (s : State), k < 128 ∧ bankOf w = k ∧ bankState s k = 0 ∧ s.ash.scrubWb.get k [] = [(w,
    c)] :=
  ⟨3, 393280, 1234567,
  (fun s => { s with ash := { s.ash with scrubWb := [(3, [(393280, 1234567)])] } }) (putAshWords 393280 [10, 20, 30,
  40, 50, 60, 70, 80] (up)), by decide, by decide, by decide, by decide⟩

theorem witness_ScrubberAndBankPower_3 :
    ∃ (k : _) (s : State), bankState s k ≠ 0 :=
  ⟨3, putF (bankField 3) 2 up, by decide⟩

theorem witness_ScrubberAndBankPower_4 :
    ∃ (s : State), flag s ASH_SCRUB_PERIOD = true ∧ (∀ b, b < nBanks s → bankState s b ≠ 1) ∧ s.ash.scrubPass = true :=
  ⟨on [(ASH_SCRUB_PERIOD,
  1)] ((fun s => { s with ash := { s.ash with scrubPass := true, scrubLine := [(3, 8)] } }) (up)), by decide,
  by decide, by decide⟩

theorem witness_ScrubberAndBankPower_5 :
    ∃ (s : State), flag s ASH_SCRUB_PERIOD = true ∧ (∀ b, b < nBanks s → bankState s b ≠ 1) ∧ s.ash.scrubPass = false :=
  ⟨on [(ASH_SCRUB_PERIOD, 1)] (up), by decide, by decide, by decide⟩

theorem witness_ScrubberAndBankPower_6 :
    ∃ (s : State), flag s ASH_SCRUB_PERIOD = false :=
  ⟨on [(ASH_SCRUB_PERIOD, 0)] up, by decide⟩

theorem witness_ScrubberAndBankPower_7 :
    ∃ (n : _) (v : _) (c : _), n < 16 ∧ lo32 c ≠ not32 v :=
  ⟨15, 5, 6, by decide, by decide⟩

theorem witness_ScrubberAndBankPower_8 :
    ∃ (n : _) (v : _) (c : _) (s : State) (j : _) (b : _) (run : _) (ro : _), n < 16 ∧ j < 8 ∧ lo32 c = not32 v ∧
    b = 8 * n + j ∧ b < nBanks s ∧ run = bits v (4 * j) 2 ∧ ro = bits v (4 * j + 2) 1 ∧ run ≠ 3 ∧
    (run = 0 ∨ b < partBank s ∧ bankGranted s.fab.cal b = false) :=
  ⟨3, 0x00026002, 4294967295 - 0x00026002, putAsh 3538949 9 up, 3, 27, 2, 1, by decide, by decide, by decide,
  by decide, by decide, by decide, by decide, by decide, by decide⟩

theorem witness_ScrubberAndBankPower_9 :
    ∃ (n : _) (v : _) (c : _) (s : State) (j : _) (b : _) (run : _) (ro : _), n < 16 ∧ j < 8 ∧ lo32 c = not32 v ∧
    b = 8 * n + j ∧ b < nBanks s ∧ run = bits v (4 * j) 2 ∧ ro = bits v (4 * j + 2) 1 ∧ (run = 3 ∨ run ≠ 0 ∧
    (partBank s ≤ b ∨ bankGranted s.fab.cal b = true)) :=
  ⟨15, 0x20000000, 4294967295 - 0x20000000, up, 7, 127, 2, 0, by decide, by decide, by decide, by decide, by decide,
  by decide, by decide, by decide⟩

theorem witness_ScrubberAndBankPower_10 :
    ∃ (b : _) (s : State) (x : BankTrans), b < 128 ∧ b < nBanks s ∧ s.ash.trans.find b = some x ∧ x.dst < 3 ∧
    s.pwr.rest = false ∧ getF s (runStateFld b) = x.dst :=
  ⟨5, putFs [(runStateFld 5, 1), (bankField 5,
  3)] ((fun s => { s with ash := { s.ash with trans := [(5, ⟨1, false⟩)] } }) (up)), ⟨1, false⟩, by decide, by decide,
  by decide, by decide, by decide, by decide⟩

/-! ## PairClaim -/

theorem witness_PairClaim_0 :
    ∃ (s : State), eligible s = true ∧ flag s PAIR_STAT_CLAIM = false :=
  ⟨on [(PAIR_CFG_ELIG_UNFIT, 1), (PAIR_STAT_STATE,
  4)] ((fun s => { s with pins := { s.pins with pairEn := true, unitId := false }, pair := { s.pair with replay := true, recs := [] } }) (run)),
  by decide, by decide⟩

theorem witness_PairClaim_1 :
    ∃ (s : State), (eligible s = false ∨ flag s PAIR_STAT_CLAIM = true) :=
  ⟨on [(PAIR_CFG_ELIG_UNFIT, 1), (PAIR_STAT_CLAIM,
  1)] ((fun s => { s with pins := { s.pins with pairEn := true }, pair := { s.pair with down := 0 } }) (up)),
  by decide⟩

theorem witness_PairClaim_2 :
    ∃ (s : State), s.pair.window = false :=
  ⟨on [(PAIR_CFG_ELIG_UNFIT,
  1)] ((fun s => { s with pins := { s.pins with pairEn := true }, pair := { s.pair with down := 0 } }) (up)),
  by decide⟩

theorem witness_PairClaim_3 :
    ∃ (s : State), s.pair.window = true :=
  ⟨on [(PAIR_CFG_ELIG_UNFIT, 1), (PAIR_STAT_CLAIM,
  1)] ((fun s => { s with pins := { s.pins with pairEn := true }, pair := { s.pair with window := true } }) (up)),
  by decide⟩

theorem witness_PairClaim_4 :
    ∃ (s : State), s.pair.window = true :=
  ⟨on [(PAIR_CFG_ELIG_UNFIT, 1), (PAIR_STAT_CLAIM,
  1)] ((fun s => { s with pins := { s.pins with pairEn := true }, pair := { s.pair with window := true } }) (up)),
  by decide⟩

theorem witness_PairClaim_5 :
    ∃ (s : State), s.pair.window = false :=
  ⟨up, by decide⟩

theorem witness_PairClaim_7 :
    ∃ (c : Instr), ((∃ u l r d,
    c = Instr.linkTraining u l r d) ∨ c = .trainingModeTimeout ∨ c = .linkFault ∨ c = .retrain ∨ c = .skewTimer ∨ (∃ b a,
    c = .recordRx b a) ∨ c = .recordDeadlineMiss ∨ (∃ ok k w, k ≠ 4 ∧ c = .linkFrameRx ok k w)) :=
  ⟨.skewTimer, by simp⟩

/-! ## SoeriLink -/

theorem witness_SoeriLink_0 :
    ∃ (l : _) (r : _) (s : State) (m : _), flag s PAIR_LINK_STAT_TRAINING = true ∧ m = linkModes.getD s.pair.train (4,
    0) ∧ offers (nSoeri s) l r m = true :=
  ⟨15, 15, on [(PAIR_CFG_ELIG_UNFIT, 1), (PAIR_LINK_STAT_TRAINING,
  1)] ((fun s => { s with pins := { s.pins with pairEn := true }, pair := { s.pair with train := 2, down := 5 } }) (run)),
  _, by decide, rfl, by decide⟩

theorem witness_SoeriLink_1 :
    ∃ (c : Instr) (s : State) (k : _), s.pins.pairEn = true ∧ ((c = Instr.trainingModeTimeout ∧
    flag s PAIR_LINK_STAT_TRAINING = true ∧ k = s.pair.train + 1) ∨ (c = .linkFault ∧
    flag s PAIR_LINK_STAT_UP = true ∧ k = s.pair.train) ∨ (c = .retrain ∧ k = 0) ∨ (∃ u l r d,
    c = .linkTraining u l r d ∧ flag s PAIR_LINK_STAT_TRAINING = true ∧
    offers (nSoeri s) l r (linkModes.getD s.pair.train (4, 0)) = false ∧ k = s.pair.train + 1)) :=
  ⟨.linkFault, on [(PAIR_CFG_ELIG_UNFIT, 1), (PAIR_LINK_STAT_UP,
  1)] ((fun s => { s with pins := { s.pins with pairEn := true }, pair := { s.pair with train := 2 } }) (run)), 2,
  by decide, by exact Or.inr (Or.inl ⟨rfl, by decide, by decide⟩)⟩

theorem witness_SoeriLink_2 :
    ∃ (s : State), s.pair.skewOver = true :=
  ⟨on [(PAIR_CFG_ELIG_UNFIT,
  1)] ((fun s => { s with pins := { s.pins with pairEn := true }, pair := { s.pair with skewOver := true } }) (up)),
  by decide⟩

theorem witness_SoeriLink_3 :
    ∃ (s : State) (o : Out) (os : List Out), s.pins.pairEn = true ∧ flag s PAIR_LINK_STAT_UP = true ∧
    s.out = o :: os ∧ o.kind = .record :=
  ⟨(fun s => { s with out := [⟨.record, [1]⟩] }) (on [(PAIR_CFG_ELIG_UNFIT, 1), (PAIR_LINK_STAT_UP,
  1)] ((fun s => { s with pins := { s.pins with pairEn := true }, pair := { s.pair with down := 0 } }) (run))),
  ⟨.record, [1]⟩, [], by decide, by decide, by decide, by decide⟩

theorem witness_SoeriLink_4 :
    ∃ (s : State), s.pins.pairEn = true ∧ flag s PAIR_LINK_STAT_UP = true :=
  ⟨on [(PAIR_CFG_ELIG_UNFIT, 1), (PAIR_LINK_STAT_UP,
  1)] ((fun s => { s with pins := { s.pins with pairEn := true }, pair := { s.pair with down := 0 } }) (run)),
  by decide, by decide⟩

theorem witness_SoeriLink_5 :
    ∃ (s : State) (v : List Nat), s.pins.pairEn = true ∧ flag s PAIR_LINK_STAT_UP = true ∧
    getF s PAIR_STAT_STATE = 5 ∧ v.length = 8 :=
  ⟨on [(PAIR_CFG_ELIG_UNFIT, 1), (PAIR_LINK_STAT_UP, 1), (PAIR_STAT_STATE,
  5)] ((fun s => { s with pins := { s.pins with pairEn := true }, pair := { s.pair with rsReq := true } }) (run)),
  [10, 20, 30, 40, 50, 60, 70, 80], by decide, by decide, by decide, by decide⟩

theorem witness_SoeriLink_6 :
    ∃ (s : State), s.pins.pairEn = true ∧ flag s PAIR_LINK_STAT_UP = true ∧ getF s PAIR_STAT_STATE = 6 :=
  ⟨on [(PAIR_CFG_ELIG_UNFIT, 1), (PAIR_LINK_STAT_UP, 1), (PAIR_STAT_STATE,
  6)] ((fun s => { s with pins := { s.pins with pairEn := true }, pair := { s.pair with rsLines := [⟨1, 2, 3, []⟩] } }) (run)),
  by decide, by decide, by decide⟩

theorem witness_SoeriLink_7 :
    ∃ (s : State), s.pins.pairEn = true ∧ flag s PAIR_LINK_STAT_UP = true :=
  ⟨on [(PAIR_CFG_ELIG_UNFIT, 1), (PAIR_LINK_STAT_UP,
  1)] ((fun s => { s with pins := { s.pins with pairEn := true }, pair := { s.pair with down := 0 } }) (run)),
  by decide, by decide⟩

theorem witness_SoeriLink_8 :
    ∃ (b : _) (s : State), s.pins.pairEn = true ∧ flag s PAIR_LINK_STAT_UP = true ∧ parseRecord s b = none :=
  ⟨[1, 2], on [(PAIR_CFG_ELIG_UNFIT, 1), (PAIR_LINK_STAT_UP,
  1)] ((fun s => { s with pins := { s.pins with pairEn := true }, pair := { s.pair with down := 0 } }) (run)),
  by decide, by decide, by decide⟩

set_option maxRecDepth 100000 in
theorem witness_SoeriLink_9 :
    ∃ (b : _) (s : State) (r : PairRec), s.pins.pairEn = true ∧ flag s PAIR_LINK_STAT_UP = true ∧
    parseRecord s b = some r ∧ (∀ e ∈ r.events, e.typ ≠ 255) :=
  ⟨(([5, 0, 80 + 16777216, 5 + 32 + 256, 7, 0, 0, crc32c ([1, 2, 3,
  4] ++ List.replicate 12 0)].flatMap (fun w => wordsToBytes [w, not32 w])) ++ ([1, 2, 3, 4] ++ List.replicate 12 0)),
  on [(PAIR_CFG_ELIG_UNFIT, 1), (PAIR_LINK_STAT_UP,
  1)] ((fun s => { s with pins := { s.pins with pairEn := true }, pair := { s.pair with down := 0 } }) (run)),
  Option.get (parseRecord (on [(PAIR_CFG_ELIG_UNFIT, 1), (PAIR_LINK_STAT_UP,
  1)] ((fun s => { s with pins := { s.pins with pairEn := true }, pair := { s.pair with down := 0 } }) (run))) (([5,
  0, 80 + 16777216, 5 + 32 + 256, 7, 0, 0, crc32c ([1, 2, 3,
  4] ++ List.replicate 12 0)].flatMap (fun w => wordsToBytes [w, not32 w])) ++ ([1, 2, 3,
  4] ++ List.replicate 12 0))) (by decide), by decide, by decide, (Option.some_get _).symm, by decide⟩

theorem witness_SoeriLink_10 :
    ∃ (s : State), s.pins.pairEn = true ∧ running s = true :=
  ⟨on [(PAIR_CFG_ELIG_UNFIT, 1), (PAIR_LINK_STAT_UP, 1), (PAIR_STAT_STATE,
  4)] ((fun s => { s with pins := { s.pins with pairEn := true }, pair := { s.pair with down := 0 } }) (run)),
  by decide, by decide⟩

/-! ## LinkBudget -/

theorem witness_LinkBudget_0 :
    ∃ (l : _) (r : Nat) (fs : _) (b : _) (x : _), 0 < fs ∧ r < 4 ∧ b = budgetOf l r fs ∧ x = 9 * l * [16000000000,
    12500000000, 10000000000, 6250000000].getD r 0 * 64 :=
  ⟨4, 3, 176400, _, _, by decide, by decide, rfl, rfl⟩

theorem witness_LinkBudget_1 :
    ∃ (l : _) (r : _) (s : State) (m : _), flag s PAIR_LINK_STAT_TRAINING = true ∧ m = linkModes.getD s.pair.train (4,
    0) ∧ offers (nSoeri s) l r m = true :=
  ⟨15, 15, on [(PAIR_CFG_ELIG_UNFIT, 1), (PAIR_LINK_STAT_TRAINING,
  1)] ((fun s => { s with pins := { s.pins with pairEn := true }, pair := { s.pair with train := 2, down := 5 } }) (run)),
  _, by decide, rfl, by decide⟩

/-! ## VoussoirRequests -/

theorem witness_VoussoirRequests_0 :
    ∃ (m : _) (id : _) (w : _) (a : _) (sz : _) (bt : _) (d : List Nat) (f : _) (s : State) (k : Nat), Quiescent s ∧
    canIssue s m = true ∧ heldBack s [] ⟨m, id, w, a, sz, bt, d.map lo32, f⟩ = false ∧ (busTarget s a = .default ∧
    k = 1 ∨ busTarget s a ≠ .default ∧ reaches s m f (busTarget s a) = false ∧ k = 2) :=
  ⟨6, 9, false, 0x40000000, 4, 2, [305419896, 4294967295], false,
  (fun s => { s with vsr := { s.vsr with log := List.replicate 15 ⟨1, false, 1, 2, 3⟩ } }) (up), 2, by decide,
  by decide, by decide, by decide⟩

theorem witness_VoussoirRequests_1 :
    ∃ (m : _) (id : _) (a : _) (sz : _) (bt : _) (d : List Nat) (f : _) (s : State) (off : _) (b : List Nat),
    Quiescent s ∧ canIssue s m = true ∧ heldBack s [] ⟨m, id, true, a, sz, bt, d.map lo32, f⟩ = false ∧
    busTarget s a = .ram off ∧ reaches s m f (.ram off) = true ∧ b = (wordsToBytes (d.map lo32)).take (sz * bt) :=
  ⟨6, 9, 0x10000004, 4, 2, [305419896, 4294967295], false, up, 4, _, by decide, by decide, by decide, by decide,
  by decide, rfl⟩

theorem witness_VoussoirRequests_2 :
    ∃ (m : _) (id : _) (a : _) (sz : _) (bt : _) (d : List Nat) (f : _) (s : State) (off : _), Quiescent s ∧
    canIssue s m = true ∧ heldBack s [] ⟨m, id, false, a, sz, bt, d.map lo32, f⟩ = false ∧ busTarget s a = .ram off ∧
    reaches s m f (.ram off) = true :=
  ⟨6, 9, 0x10000004, 4, 2, [305419896, 4294967295], false, putRam 4 [1, 2, 3, 4, 5, 6, 7, 8, 9] up, 4, by decide,
  by decide, by decide, by decide, by decide⟩

theorem witness_VoussoirRequests_3 :
    ∃ (m : _) (id : _) (w : _) (a : _) (sz : _) (bt : _) (d : List Nat) (f : _) (s : State) (off : _), Quiescent s ∧
    canIssue s m = true ∧ heldBack s [] ⟨m, id, w, a, sz, bt, d.map lo32, f⟩ = false ∧ busTarget s a = .rom off ∧
    reaches s m f (.rom off) = true :=
  ⟨0, 9, false, 0x00000010, 4, 2, [305419896, 4294967295], true, on [(SYS_REMAP_REMAP, 0)] up, 16, by decide,
  by decide, by decide, by decide, by decide⟩

theorem witness_VoussoirRequests_4 :
    ∃ (m : _) (id : _) (w : _) (a : _) (sz : _) (bt : _) (d : List Nat) (f : _) (s : State) (x : _) (n : _),
    Quiescent s ∧ canIssue s m = true ∧ heldBack s [] ⟨m, id, w, a, sz, bt, d.map lo32, f⟩ = false ∧
    busTarget s a = .ash x ∧ reaches s m f (.ash x) = true ∧ 0 < sz * bt ∧ n = (a + sz * bt - 1) / 32 - a / 32 + 1 :=
  ⟨6, 9, true, 0x40000000 + 4 * 131072 * 120, 4, 2, [305419896, 4294967295], false, up, 131072 * 120, _, by decide,
  by decide, by decide, by decide, by decide, by decide, rfl⟩

theorem witness_VoussoirRequests_5 :
    ∃ (id : _) (a : _) (d : List Nat) (f : _) (s : State), canIssue s 1 = true ∧ heldBack s s.vsr.held ⟨1, id, false,
    a, 4, 1, d.map lo32, f⟩ = false ∧ busTarget s a = .reg a ∧ a % 4 = 0 ∧ regExists a = true :=
  ⟨3, 0x20040110, [], false, up, by decide, by decide, by decide, by decide, by decide⟩

theorem witness_VoussoirRequests_6 :
    ∃ (id : _) (w : _) (a : _) (v : _) (f : _) (s : State) (n : _) (off : _), canIssue s 1 = true ∧
    heldBack s s.vsr.held ⟨1, id, w, a, 4, 1, [lo32 v], f⟩ = false ∧ busTarget s a = .tile n off :=
  ⟨3, true, 0x30300010, 7, false, run, 3, 16, by decide, by decide, by decide⟩

theorem witness_VoussoirRequests_7 :
    ∃ (m : _) (s : State), Quiescent s ∧ canIssue s m = false :=
  ⟨6, (fun s => { s with vsr := { s.vsr with inReset := [6] } }) (up), by decide, by decide⟩

theorem witness_VoussoirRequests_8 :
    ∃ (m : _) (id : _) (w : _) (a : _) (sz : _) (bt : _) (d : List Nat) (f : _) (s : State), Quiescent s ∧
    canIssue s m = true ∧ heldBack s [] ⟨m, id, w, a, sz, bt, d.map lo32, f⟩ = true :=
  ⟨6, 9, true, 0x10000004, 4, 2, [305419896, 4294967295], false,
  (fun s => { s with vsr := { s.vsr with outstanding := [⟨6, 9, true, 0x40000000 + 4 * 131072 * 120, 1, 1⟩] } }) (up),
  by decide, by decide, by decide⟩

theorem witness_VoussoirRequests_9 :
    ∃ (m : _), m ≤ 10 :=
  ⟨6, by decide⟩

theorem witness_VoussoirRequests_10 :
    ∃ (m : _) (s : State) (l : List Txn), Quiescent s ∧ m ∈ s.vsr.inReset ∧
    l = s.vsr.outstanding.filter (fun x => x.master == m) :=
  ⟨6,
  (fun s => { s with vsr := { s.vsr with outstanding := [⟨6, 9, true, 7, 1, 1⟩, ⟨5, 9, true, 7, 1, 1⟩], inReset := [6] } }) ((fun s => { s with ash := { s.ash with queue := [(3, [⟨6, 9, true, 393280, 1, [1, 2, 3, 4, 5, 6, 7, 8], false⟩, ⟨6, 9, false, 393280, 0, [1, 2, 3, 4, 5, 6, 7, 8], false⟩])] } }) (up)),
  [⟨6, 9, true, 7, 1, 1⟩], by decide, by decide, by decide⟩

theorem witness_VoussoirRequests_11 :
    ∃ (m : _) (s : State), Quiescent s ∧ m ∉ s.vsr.inReset :=
  ⟨6, up, by decide, by decide⟩

/-! ## MailboxesAndLeases -/

theorem witness_MailboxesAndLeases_0 :
    ∃ (n : _) (s : State), viewReach s n = true ∧ fwUp s = false ∧ s.vsr.held = [] ∧
    flag s (DB_STAT_CMD_BUSY n) = false :=
  ⟨1, (on [(HOST_BIND_IF 0, 1), (HOST_BIND_INDEX 0, 0), (HOST_BIND_IF 1, 2), (HOST_BIND_INDEX 1, 1),
  (HOST_PERM_REL_OK 1, 1), (HOST_PERM_MUTE_OK 1, 1), (LIFE_STATUS_FW_UP, 0)] (up)), by decide, by decide, by decide,
  by decide⟩

theorem witness_MailboxesAndLeases_1 :
    ∃ (n : _) (s : State), viewReach s n = true ∧ fwUp s = false ∧ s.vsr.held = [] ∧
    flag s (DB_STAT_CMD_BUSY n) = true :=
  ⟨1, (on [(HOST_BIND_IF 0, 1), (HOST_BIND_INDEX 0, 0), (HOST_BIND_IF 1, 2), (HOST_BIND_INDEX 1, 1),
  (HOST_PERM_REL_OK 1, 1), (HOST_PERM_MUTE_OK 1, 1), (LIFE_STATUS_FW_UP, 0), (DB_STAT_CMD_BUSY 1, 1)] (up)),
  by decide, by decide, by decide, by decide⟩

theorem witness_MailboxesAndLeases_2 :
    ∃ (n : _) (s : State), viewReach s n = true ∧ fwUp s = true ∧ Quiescent s :=
  ⟨1, updSeat 1 (fun x => { x with mail := [(1024, 1)] }) (on [(HOST_BIND_IF 0, 1), (HOST_BIND_INDEX 0, 0),
  (HOST_BIND_IF 1, 2), (HOST_BIND_INDEX 1, 1), (HOST_PERM_REL_OK 1, 1), (HOST_PERM_MUTE_OK 1, 1)] (up)), by decide,
  by decide, by decide⟩

theorem witness_MailboxesAndLeases_3 :
    ∃ (n : _) (s : State), viewReach s n = false :=
  ⟨3, (on [(HOST_BIND_IF 0, 1), (HOST_BIND_INDEX 0, 0), (HOST_BIND_IF 1, 2), (HOST_BIND_INDEX 1, 1),
  (HOST_PERM_REL_OK 1, 1), (HOST_PERM_MUTE_OK 1, 1), (HOST_BIND_IF 3, 0)] (up)), by decide⟩

set_option maxRecDepth 100000 in
theorem witness_MailboxesAndLeases_4 :
    ∃ (w : Nat → Nat) (ws : List Nat) (op : _) (sq : _) (fl : _) (len : _) (k : _), (∀ i, w i = ws.getD i 0) ∧
    op = bits (w 0) 16 16 ∧ sq = bits (w 0) 8 8 ∧ fl = bits (w 0) 0 8 ∧ len = bits (w 2) 0 16 ∧ k = (len + 3) / 4 ∧
    (w 1 ≠ not32 (w 0) ∨ w 3 ≠ not32 (w 2)) :=
  ⟨(fun i => ([1, 2, 3, 4] : List Nat).getD i 0), ([1, 2, 3, 4]), _, _, _, _, _, fun _ => rfl, rfl, rfl, rfl, rfl,
  rfl, by decide⟩

set_option maxRecDepth 100000 in
theorem witness_MailboxesAndLeases_5 :
    ∃ (w : Nat → Nat) (ws : List Nat) (op : _) (sq : _) (fl : _) (len : _) (k : _), (∀ i, w i = ws.getD i 0) ∧
    op = bits (w 0) 16 16 ∧ sq = bits (w 0) 8 8 ∧ fl = bits (w 0) 0 8 ∧ len = bits (w 2) 0 16 ∧ k = (len + 3) / 4 ∧
    w 1 = not32 (w 0) ∧ w 3 = not32 (w 2) ∧ 1000 < len :=
  ⟨(fun i => (frameWords 133376 1001 0 0 [5] : List Nat).getD i 0), (frameWords 133376 1001 0 0 [5]), _, _, _, _, _,
  fun _ => rfl, rfl, rfl, rfl, rfl, rfl, by decide, by decide, by decide⟩

set_option maxRecDepth 100000 in
theorem witness_MailboxesAndLeases_6 :
    ∃ (w : Nat → Nat) (ws : List Nat) (op : _) (sq : _) (fl : _) (len : _) (k : _), (∀ i, w i = ws.getD i 0) ∧
    op = bits (w 0) 16 16 ∧ sq = bits (w 0) 8 8 ∧ fl = bits (w 0) 0 8 ∧ len = bits (w 2) 0 16 ∧ k = (len + 3) / 4 ∧
    w 1 = not32 (w 0) ∧ w 3 = not32 (w 2) ∧ len ≤ 1000 ∧ crc32c (wordsToBytes (ws.take (4 + k))) ≠ w (4 + k) :=
  ⟨(fun i => ((frameWords 133376 4 0 0 [5]).set 5 7 : List Nat).getD i 0), ((frameWords 133376 4 0 0 [5]).set 5 7), _,
  _, _, _, _, fun _ => rfl, rfl, rfl, rfl, rfl, rfl, by decide, by decide, by decide, by decide⟩

set_option maxRecDepth 100000 in
theorem witness_MailboxesAndLeases_7 :
    ∃ (w : Nat → Nat) (n : _) (ws : List Nat) (op : _) (sq : _) (fl : _) (len : _) (k : _), (∀ i, w i = ws.getD i 0) ∧
    op = bits (w 0) 16 16 ∧ sq = bits (w 0) 8 8 ∧ fl = bits (w 0) 0 8 ∧ len = bits (w 2) 0 16 ∧ k = (len + 3) / 4 ∧
    w 1 = not32 (w 0) ∧ w 3 = not32 (w 2) ∧ len ≤ 1000 ∧ crc32c (wordsToBytes (ws.take (4 + k))) = w (4 + k) ∧
    bits (w 2) 16 4 ≠ n :=
  ⟨(fun i => (frameWords 133376 4 1 0 [5] : List Nat).getD i 0), 0, (frameWords 133376 4 1 0 [5]), _, _, _, _, _,
  fun _ => rfl, rfl, rfl, rfl, rfl, rfl, by decide, by decide, by decide, by decide, by decide⟩

set_option maxRecDepth 100000 in
theorem witness_MailboxesAndLeases_8 :
    ∃ (w : Nat → Nat) (n : _) (ws : List Nat) (s : State) (op : _) (sq : _) (fl : _) (len : _) (k : _) (e : _), (∀ i,
    w i = ws.getD i 0) ∧ op = bits (w 0) 16 16 ∧ sq = bits (w 0) 8 8 ∧ fl = bits (w 0) 0 8 ∧ len = bits (w 2) 0 16 ∧
    k = (len + 3) / 4 ∧ w 1 = not32 (w 0) ∧ w 3 = not32 (w 2) ∧ len ≤ 1000 ∧
    crc32c (wordsToBytes (ws.take (4 + k))) = w (4 + k) ∧ bits (w 2) 16 4 = n ∧ attached s n = true ∧ op ≠ 0x0100 ∧
    (seatOf s n).expect = some e ∧ e ≠ sq :=
  ⟨(fun i => (frameWords 198912 4 0 0 [5] : List Nat).getD i 0), 0, (frameWords 198912 4 0 0 [5]),
  updSeat 0 (fun x => { x with expect := some 8, lastExec := some (9, 5) }) up, _, _, _, _, _, 8, fun _ => rfl, rfl,
  rfl, rfl, rfl, rfl, by decide, by decide, by decide, by decide, by decide, by decide, by decide, by decide,
  by decide⟩

set_option maxRecDepth 100000 in
theorem witness_MailboxesAndLeases_9 :
    ∃ (w : Nat → Nat) (n : _) (ws : List Nat) (s : State) (op : _) (sq : _) (fl : _) (len : _) (k : _), (∀ i,
    w i = ws.getD i 0) ∧ op = bits (w 0) 16 16 ∧ sq = bits (w 0) 8 8 ∧ fl = bits (w 0) 0 8 ∧ len = bits (w 2) 0 16 ∧
    k = (len + 3) / 4 ∧ w 1 = not32 (w 0) ∧ w 3 = not32 (w 2) ∧ len ≤ 1000 ∧
    crc32c (wordsToBytes (ws.take (4 + k))) = w (4 + k) ∧ bits (w 2) 16 4 = n ∧ attached s n = true ∧
    (op = 0x0100 ∨ (seatOf s n).expect = none ∨ (seatOf s n).expect = some sq) ∧ 1 < fl :=
  ⟨(fun i => (frameWords 198914 4 0 0 [5] : List Nat).getD i 0), 0, (frameWords 198914 4 0 0 [5]), up, _, _, _, _, _,
  fun _ => rfl, rfl, rfl, rfl, rfl, rfl, by decide, by decide, by decide, by decide, by decide, by decide, by decide,
  by decide⟩

set_option maxRecDepth 100000 in
theorem witness_MailboxesAndLeases_10 :
    ∃ (w : Nat → Nat) (n : _) (ws : List Nat) (s : State) (op : _) (sq : _) (fl : _) (len : _) (k : _), (∀ i,
    w i = ws.getD i 0) ∧ op = bits (w 0) 16 16 ∧ sq = bits (w 0) 8 8 ∧ fl = bits (w 0) 0 8 ∧ len = bits (w 2) 0 16 ∧
    k = (len + 3) / 4 ∧ w 1 = not32 (w 0) ∧ w 3 = not32 (w 2) ∧ len ≤ 1000 ∧
    crc32c (wordsToBytes (ws.take (4 + k))) = w (4 + k) ∧ bits (w 2) 16 4 = n ∧ attached s n = true ∧
    (op = 0x0100 ∨ (seatOf s n).expect = none ∨ (seatOf s n).expect = some sq) ∧ fl ≤ 1 ∧ fwRows.find op = none :=
  ⟨(fun i => (frameWords 7801088 4 0 0 [5] : List Nat).getD i 0), 0, (frameWords 7801088 4 0 0 [5]), up, _, _, _, _,
  _, fun _ => rfl, rfl, rfl, rfl, rfl, rfl, by decide, by decide, by decide, by decide, by decide, by decide,
  by decide, by decide, by decide⟩

set_option maxRecDepth 100000 in
theorem witness_MailboxesAndLeases_11 :
    ∃ (w : Nat → Nat) (n : _) (ws : List Nat) (s : State) (op : _) (sq : _) (fl : _) (len : _) (k : _) (f : FwReq →
    State → FwM) (r : FwReq), (∀ i, w i = ws.getD i 0) ∧ op = bits (w 0) 16 16 ∧ sq = bits (w 0) 8 8 ∧
    fl = bits (w 0) 0 8 ∧ len = bits (w 2) 0 16 ∧ k = (len + 3) / 4 ∧ w 1 = not32 (w 0) ∧ w 3 = not32 (w 2) ∧
    len ≤ 1000 ∧ crc32c (wordsToBytes (ws.take (4 + k))) = w (4 + k) ∧ bits (w 2) 16 4 = n ∧ attached s n = true ∧
    (op = 0x0100 ∨ (seatOf s n).expect = none ∨ (seatOf s n).expect = some sq) ∧ fl ≤ 1 ∧ len % 4 = 0 ∧ op ≠ 0x0108 ∧
    op ≠ 0x0E05 ∧ fwRows.find op = some f ∧ r = ⟨n, sq, fl == 1, (ws.drop 4).take k⟩ :=
  ⟨(fun i => (frameWords 133377 4 0 0 [5] : List Nat).getD i 0), 0, (frameWords 133377 4 0 0 [5]), up, _, _, _, _, _,
  fwSysLife, ⟨0, 9, true, [5]⟩, fun _ => rfl, rfl, rfl, rfl, rfl, rfl, by decide, by decide, by decide, by decide,
  by decide, by decide, by decide, by decide, by decide, by decide, by decide, rfl, rfl⟩

set_option maxRecDepth 100000 in
theorem witness_MailboxesAndLeases_12 :
    ∃ (w : Nat → Nat) (n : _) (ws : List Nat) (s : State) (op : _) (sq : _) (fl : _) (len : _) (k : _), (∀ i,
    w i = ws.getD i 0) ∧ op = bits (w 0) 16 16 ∧ sq = bits (w 0) 8 8 ∧ fl = bits (w 0) 0 8 ∧ len = bits (w 2) 0 16 ∧
    k = (len + 3) / 4 ∧ w 1 = not32 (w 0) ∧ w 3 = not32 (w 2) ∧ len ≤ 1000 ∧
    crc32c (wordsToBytes (ws.take (4 + k))) = w (4 + k) ∧ bits (w 2) 16 4 = n ∧ attached s n = false ∧ op ≠ 0x0100 ∧
    op ≠ 0 ∧ op ≠ 2 ∧ (seatOf s n).expect = none :=
  ⟨(fun i => (frameWords 33884416 4 1 0 [5] : List Nat).getD i 0), 1, (frameWords 33884416 4 1 0 [5]), up, _, _, _, _,
  _, fun _ => rfl, rfl, rfl, rfl, rfl, rfl, by decide, by decide, by decide, by decide, by decide, by decide,
  by decide, by decide, by decide, by decide⟩

theorem witness_MailboxesAndLeases_13 :
    ∃ (n : _) (v : _) (s : State), viewReach s n = true ∧
    ringUsed s n < (v % 65536 + 65536 - getF s (EV_TAIL_TAIL n)) % 65536 :=
  ⟨1, 5, (on [(HOST_BIND_IF 0, 1), (HOST_BIND_INDEX 0, 0), (HOST_BIND_IF 1, 2), (HOST_BIND_INDEX 1, 1),
  (HOST_PERM_REL_OK 1, 1), (HOST_PERM_MUTE_OK 1, 1), (EV_HEAD_HEAD 1, 4)] (up)), by decide, by decide⟩

theorem witness_MailboxesAndLeases_14 :
    ∃ (n : _) (v : _) (s : State), viewReach s n = true ∧
    (v % 65536 + 65536 - getF s (EV_TAIL_TAIL n)) % 65536 ≤ ringUsed s n ∧ getF s (HOST_BIND_IF n) ≠ 3 :=
  ⟨1, 4, updSeat 1 (fun x => { x with hold := [⟨5, [1], 9⟩] }) (on [(HOST_BIND_IF 0, 1), (HOST_BIND_INDEX 0, 0),
  (HOST_BIND_IF 1, 2), (HOST_BIND_INDEX 1, 1), (HOST_PERM_REL_OK 1, 1), (HOST_PERM_MUTE_OK 1, 1), (EV_HEAD_HEAD 1,
  4)] (up)), by decide, by decide, by decide⟩

theorem witness_MailboxesAndLeases_15 :
    ∃ (n : _) (s : State), n < 4 ∧ attached s n = true :=
  ⟨0, (on [(HOST_BIND_IF 0, 1), (HOST_BIND_INDEX 0, 0), (HOST_BIND_IF 1, 2), (HOST_BIND_INDEX 1, 1),
  (HOST_PERM_REL_OK 1, 1), (HOST_PERM_MUTE_OK 1, 1), (IRQ_EN_EN_FW 0, 7)] (up)), by decide, by decide⟩

theorem witness_MailboxesAndLeases_16 :
    ∃ (n : _) (s : State), n < 4 ∧ attached s n = true ∧ flag s (DB_STAT_CMD_BUSY n) = false :=
  ⟨0,
  updSeat 0 (fun x => { x with routes := [5], dests := [(1, 2)], token := 77, lease := 4 }) { up with fw := { up.fw with owners := [(131072, ⟨1, false, 3⟩), (131073, ⟨0, false, 4⟩)] }, fab := { up.fab with session := some ses } },
  by decide, by decide, by decide⟩

theorem witness_MailboxesAndLeases_17 :
    ∃ (n : _) (s : State), n < 4 ∧ flag s (DB_STAT_CMD_BUSY n) = true :=
  ⟨0, on [(DB_STAT_CMD_BUSY 0, 1)] up, by decide, by decide⟩

theorem witness_MailboxesAndLeases_18 :
    ∃ (m : _) (sa : _) (dp : _) (s : State) (n : _), fwUp s = true ∧ s.pwr.rest = false ∧ [0, 1, 2,
    3].find? (fun n => getF s (HOST_BIND_IF n) == 3 && getF s (HOST_BIND_INDEX n) == m && (seatOf s n).udpPort == dp) = some n ∧
    sa &&& (seatOf s n).udpMask ≠ (seatOf s n).udpSrc &&& (seatOf s n).udpMask :=
  ⟨1, 0x0B000007, 500,
  updSeat 2 (fun x => { x with udpPort := 500, udpSrc := 0x0A000001, udpMask := 0xFFFFFF00 }) (on [(HOST_BIND_IF 2,
  3), (HOST_BIND_INDEX 2, 1)] up), 2, by decide, by decide, by decide, by decide⟩

theorem witness_MailboxesAndLeases_19 :
    ∃ (m : _) (sa : _) (dp : _) (s : State) (n : _), fwUp s = true ∧ s.pwr.rest = false ∧ [0, 1, 2,
    3].find? (fun n => getF s (HOST_BIND_IF n) == 3 && getF s (HOST_BIND_INDEX n) == m && (seatOf s n).udpPort == dp) = some n ∧
    sa &&& (seatOf s n).udpMask = (seatOf s n).udpSrc &&& (seatOf s n).udpMask :=
  ⟨1, 0x0A0000FF, 500,
  updSeat 2 (fun x => { x with udpPort := 500, udpSrc := 0x0A000001, udpMask := 0xFFFFFF00 }) (on [(HOST_BIND_IF 2,
  3), (HOST_BIND_INDEX 2, 1)] up), 2, by decide, by decide, by decide, by decide⟩

theorem witness_MailboxesAndLeases_20 :
    ∃ (s : State) (x : Session) (w : _) (l : _) (o : _) (q : _) (r : List Nat × State) (bs : List Nat) (t : State),
    s.fab.session = some x ∧ x.busy = some (w, l, o, q) ∧
    r = fwAshReads (getF s (HOST_WIN_WIN_BASE x.seat) + w / 4) ((l + 3) / 4) s ∧ bs = (wordsToBytes r.1).take l ∧
    judgePiece x o bs r.2 = .ok t :=
  ⟨fab up (fun f => { f with session := some (⟨0, 128, 7, [], [(0, 64)], some (0, 8, 64, 5), 1, false⟩) }), ⟨0, 128,
  7, [], [(0, 64)], some (0, 8, 64, 5), 1, false⟩, 0, 8, 64, 5, _, _, _, by decide, by decide, rfl, rfl, rfl⟩

theorem witness_MailboxesAndLeases_21 :
    ∃ (s : State) (x : Session) (w : _) (l : _) (o : _) (q : _) (r : List Nat × State) (bs : List Nat) (e : VErr),
    s.fab.session = some x ∧ x.busy = some (w, l, o, q) ∧
    r = fwAshReads (getF s (HOST_WIN_WIN_BASE x.seat) + w / 4) ((l + 3) / 4) s ∧ bs = (wordsToBytes r.1).take l ∧
    x.seat < 4 ∧ judgePiece x o bs r.2 = .error e ∧ commitArmed s = false :=
  ⟨fab up (fun f => { f with session := some (⟨0, 128, 7, [], [(0, 64)], some (0, 8, 0, 5), 1, false⟩) }), ⟨0, 128, 7,
  [], [(0, 64)], some (0, 8, 0, 5), 1, false⟩, 0, 8, 0, 5, _, _, _, by decide, by decide, rfl, rfl, by decide, rfl,
  by decide⟩

/-! ## PcieAndWindows -/

theorem witness_PcieAndWindows_1 :
    ∃ (p : _) (s : State), p < 4 ∧ s.ctl.pcieUp = true :=
  ⟨0, (on [(HOST_BIND_IF 0, 1), (HOST_BIND_INDEX 0, 0), (HOST_BIND_IF 1, 2), (HOST_BIND_INDEX 1, 1),
  (HOST_PERM_REL_OK 1, 1), (HOST_PERM_MUTE_OK 1, 1)] (up)), by decide, by decide⟩

theorem witness_PcieAndWindows_2 :
    ∃ (s : State), s.pins.seatMap ≠ 3 ∧ s.pwr.rest = false ∧ s.ctl.boot ≠ .inReset :=
  ⟨up, by decide, by decide, by decide⟩

theorem witness_PcieAndWindows_3 :
    ∃ (s : State), (s.pins.seatMap = 3 ∨ s.pwr.rest = true ∨ s.ctl.boot = .inReset) :=
  ⟨{ up with pins := { up.pins with seatMap := 3 } }, by decide⟩

theorem witness_PcieAndWindows_4 :
    ∃ (p : _) (n : _) (off : _) (c : _) (s : State), p < 4 ∧ canIssue s 2 = true ∧ boundSeat s 1 p = some n ∧
    windowOk s n off c ≠ 0 :=
  ⟨0, 0, 396, 5, (on [(HOST_BIND_IF 0, 1), (HOST_BIND_INDEX 0, 0), (HOST_BIND_IF 1, 2), (HOST_BIND_INDEX 1, 1),
  (HOST_PERM_REL_OK 1, 1), (HOST_PERM_MUTE_OK 1, 1), (HOST_LIM_WIN_WORDS 0, 100)] (up)), by decide, by decide,
  by decide, by decide⟩

theorem witness_PcieAndWindows_5 :
    ∃ (p : _) (n : _) (off : _) (c : _) (d : List Nat) (s : State), p < 4 ∧ canIssue s 2 = true ∧
    boundSeat s 1 p = some n ∧ windowOk s n off (d.take c).length ≠ 0 :=
  ⟨0, 0, 397, 8, [1, 2, 3, 255], (on [(HOST_BIND_IF 0, 1), (HOST_BIND_INDEX 0, 0), (HOST_BIND_IF 1, 2),
  (HOST_BIND_INDEX 1, 1), (HOST_PERM_REL_OK 1, 1), (HOST_PERM_MUTE_OK 1, 1), (HOST_LIM_WIN_WORDS 0, 100)] (up)),
  by decide, by decide, by decide, by decide⟩

theorem witness_PcieAndWindows_6 :
    ∃ (p : _) (n : _) (off : _) (c : _) (s : State) (w : _) (v : _), p < 4 ∧ canIssue s 2 = true ∧
    boundSeat s 1 p = some n ∧ w = getF s (HOST_WIN_WIN_BASE n) + off / 4 ∧ off % 4 = 0 ∧ c = 4 ∧
    windowOk s n off c = 0 ∧ eccDecode (ashCode s w) = .ok v :=
  ⟨0, 0, 396, 4, putAsh (131072 + 99) 77 ((on [(HOST_BIND_IF 0, 1), (HOST_BIND_INDEX 0, 0), (HOST_BIND_IF 1, 2),
  (HOST_BIND_INDEX 1, 1), (HOST_PERM_REL_OK 1, 1), (HOST_PERM_MUTE_OK 1, 1), (HOST_LIM_WIN_WORDS 0, 100)] (up))), _,
  77, by decide, by decide, by decide, rfl, by decide, by decide, by decide, rfl⟩

theorem witness_PcieAndWindows_7 :
    ∃ (p : _) (n : _) (off : _) (c : _) (d : List Nat) (s : State) (w : _), p < 4 ∧ canIssue s 2 = true ∧
    boundSeat s 1 p = some n ∧ w = getF s (HOST_WIN_WIN_BASE n) + off / 4 ∧ off % 4 = 0 ∧ c = 4 ∧
    windowOk s n off c = 0 ∧ d.length = 4 ∧ (∀ b ∈ d, b < 256) ∧ flag s ASH_INJ_ADDR_ARM = false :=
  ⟨0, 0, 396, 4, [1, 2, 3, 255], (on [(HOST_BIND_IF 0, 1), (HOST_BIND_INDEX 0, 0), (HOST_BIND_IF 1, 2),
  (HOST_BIND_INDEX 1, 1), (HOST_PERM_REL_OK 1, 1), (HOST_PERM_MUTE_OK 1, 1), (HOST_LIM_WIN_WORDS 0, 100)] (up)), _,
  by decide, by decide, by decide, rfl, by decide, by decide, by decide, by decide, by decide, by decide⟩

theorem witness_PcieAndWindows_8 :
    ∃ (p : _) (n : _) (s : State), p < 4 ∧ canIssue s 2 = true ∧ boundSeat s 1 p = some n :=
  ⟨0, 0, (on [(HOST_BIND_IF 0, 1), (HOST_BIND_INDEX 0, 0), (HOST_BIND_IF 1, 2), (HOST_BIND_INDEX 1, 1),
  (HOST_PERM_REL_OK 1, 1), (HOST_PERM_MUTE_OK 1, 1), (HOST_LIM_WIN_WORDS 0, 100)] (up)), by decide, by decide,
  by decide⟩

theorem witness_PcieAndWindows_9 :
    ∃ (p : _) (s : State), p < 4 ∧ canIssue s 2 = true ∧ boundSeat s 1 p = none :=
  ⟨1, (on [(HOST_BIND_IF 0, 1), (HOST_BIND_INDEX 0, 0), (HOST_BIND_IF 1, 2), (HOST_BIND_INDEX 1, 1),
  (HOST_PERM_REL_OK 1, 1), (HOST_PERM_MUTE_OK 1, 1), (HOST_LIM_WIN_WORDS 0, 100)] (up)), by decide, by decide,
  by decide⟩

/-! ## QspiAndLifeline -/

theorem witness_QspiAndLifeline_0 :
    ∃ (p : _) (op : _) (a : _) (n : _) (ws : List Nat) (s : State) (h : List Nat) (r : Bool × State),
    qspiOn s p = true ∧ (op = 0x02 ∨ op = 0x32) ∧ (qspiOf s p).busy = false ∧ a < 2 ^ 32 ∧ ws.length = n ∧ 1 ≤ n ∧
    n ≤ 256 ∧ (∀ w ∈ ws, w < 2 ^ 32) ∧ h = op :: bytesOf a 4 ++ bytesOf n 2 ++ [255 - op] ∧ r = qspiWrites p a ws s :=
  ⟨1, 2, 0x1000, 2, [5, 4294967295], (on [(HOST_BIND_IF 0, 1), (HOST_BIND_INDEX 0, 0), (HOST_BIND_IF 1, 2),
  (HOST_BIND_INDEX 1, 1), (HOST_PERM_REL_OK 1, 1), (HOST_PERM_MUTE_OK 1, 1)] (up)), _, _, by decide, by decide,
  by decide, by decide, by decide, by decide, by decide, by decide, rfl, rfl⟩

set_option maxRecDepth 100000 in
theorem witness_QspiAndLifeline_1 :
    ∃ (p : _) (op : _) (a : _) (n : _) (ws : List Nat) (s : State) (h : List Nat) (c : _), qspiOn s p = true ∧
    (op = 0x02 ∨ op = 0x32) ∧ (qspiOf s p).busy = false ∧ a < 2 ^ 32 ∧ ws.length = n ∧ 1 ≤ n ∧ n ≤ 256 ∧ (∀ w ∈ ws,
    w < 2 ^ 32) ∧ h = op :: bytesOf a 4 ++ bytesOf n 2 ++ [255 - op] ∧ c < 2 ^ 32 ∧ c ≠ crc32c (h ++ wordsToBytes ws) :=
  ⟨1, 0x32, 0x1000, 1, [5], (on [(HOST_BIND_IF 0, 1), (HOST_BIND_INDEX 0, 0), (HOST_BIND_IF 1, 2), (HOST_BIND_INDEX 1,
  1), (HOST_PERM_REL_OK 1, 1), (HOST_PERM_MUTE_OK 1, 1)] (up)), _, 7, by decide, by decide, by decide, by decide,
  by decide, by decide, by decide, by decide, rfl, by decide, by decide⟩

theorem witness_QspiAndLifeline_2 :
    ∃ (p : _) (op : _) (a : _) (n : _) (ws : List Nat) (s : State) (h : List Nat) (b : List Nat), qspiOn s p = true ∧
    (op = 0x02 ∨ op = 0x32) ∧ (qspiOf s p).busy = false ∧ a < 2 ^ 32 ∧ ws.length = n ∧ 1 ≤ n ∧ n ≤ 256 ∧ (∀ w ∈ ws,
    w < 2 ^ 32) ∧ h = op :: bytesOf a 4 ++ bytesOf n 2 ++ [255 - op] ∧ b.length < 4 * n + 4 :=
  ⟨1, 2, 0x1000, 1, [5], (on [(HOST_BIND_IF 0, 1), (HOST_BIND_INDEX 0, 0), (HOST_BIND_IF 1, 2), (HOST_BIND_INDEX 1,
  1), (HOST_PERM_REL_OK 1, 1), (HOST_PERM_MUTE_OK 1, 1)] (up)), _, [1, 2, 3, 4, 5], by decide, by decide, by decide,
  by decide, by decide, by decide, by decide, by decide, rfl, by decide⟩

theorem witness_QspiAndLifeline_3 :
    ∃ (p : _) (b : List Nat) (s : State), qspiOn s p = true ∧ (b.headD 0 = 0x02 ∨ b.headD 0 = 0x32) ∧
    (qspiOf s p).busy = true :=
  ⟨1, [2, 1], updQspi 1 (fun q => { q with busy := true }) (on [(HOST_BIND_IF 0, 1), (HOST_BIND_INDEX 0, 0),
  (HOST_BIND_IF 1, 2), (HOST_BIND_INDEX 1, 1), (HOST_PERM_REL_OK 1, 1), (HOST_PERM_MUTE_OK 1, 1)] (up)), by decide,
  by decide, by decide⟩

theorem witness_QspiAndLifeline_4 :
    ∃ (p : _) (b : List Nat) (s : State), qspiOn s p = true ∧ (b.headD 0 = 0x02 ∨ b.headD 0 = 0x32) ∧
    (qspiOf s p).busy = false ∧ 8 ≤ b.length ∧ b.getD 7 0 ≠ 255 - b.headD 0 :=
  ⟨1, [2, 0, 0, 0, 0, 1, 0, 252], (on [(HOST_BIND_IF 0, 1), (HOST_BIND_INDEX 0, 0), (HOST_BIND_IF 1, 2),
  (HOST_BIND_INDEX 1, 1), (HOST_PERM_REL_OK 1, 1), (HOST_PERM_MUTE_OK 1, 1)] (up)), by decide, by decide, by decide,
  by decide, by decide⟩

theorem witness_QspiAndLifeline_5 :
    ∃ (p : _) (s : State), qspiOn s p = false :=
  ⟨2, (on [(HOST_BIND_IF 0, 1), (HOST_BIND_INDEX 0, 0), (HOST_BIND_IF 1, 2), (HOST_BIND_INDEX 1, 1),
  (HOST_PERM_REL_OK 1, 1), (HOST_PERM_MUTE_OK 1, 1)] (up)), by decide⟩

theorem witness_QspiAndLifeline_6 :
    ∃ (p : _) (s : State), qspiOn s p = false :=
  ⟨2, (on [(HOST_BIND_IF 0, 1), (HOST_BIND_INDEX 0, 0), (HOST_BIND_IF 1, 2), (HOST_BIND_INDEX 1, 1),
  (HOST_PERM_REL_OK 1, 1), (HOST_PERM_MUTE_OK 1, 1)] (up)), by decide⟩

theorem witness_QspiAndLifeline_7 :
    ∃ (p : _) (s : State), qspiOn s p = false :=
  ⟨2, (on [(HOST_BIND_IF 0, 1), (HOST_BIND_INDEX 0, 0), (HOST_BIND_IF 1, 2), (HOST_BIND_INDEX 1, 1),
  (HOST_PERM_REL_OK 1, 1), (HOST_PERM_MUTE_OK 1, 1)] (up)), by decide⟩

theorem witness_QspiAndLifeline_8 :
    ∃ (p : _) (op : _) (a : _) (n : _) (s : State) (h : List Nat) (r : Option (List Nat) × State) (ws : List Nat) (b : List Nat),
    qspiOn s p = true ∧ (op = 0x0B ∨ op = 0x6B) ∧ a < 2 ^ 32 ∧ 1 ≤ n ∧ n ≤ 256 ∧
    h = op :: bytesOf a 4 ++ bytesOf n 2 ++ [255 - op] ∧ r = qspiReads p a n s ∧ r.1 = some ws ∧
    b = 0x5A :: wordsToBytes ws ++ bytesOf (crc32c (h ++ wordsToBytes ws)) 4 :=
  ⟨1, 0x0B, 0x0FFC, 2, updSeat 1 (fun x => { x with mail := [(1024, 88)] }) (on [(HOST_BIND_IF 0, 1),
  (HOST_BIND_INDEX 0, 0), (HOST_BIND_IF 1, 2), (HOST_BIND_INDEX 1, 1), (HOST_PERM_REL_OK 1, 1), (HOST_PERM_MUTE_OK 1,
  1)] (up)), _, _, _, _, by decide, by decide, by decide, by decide, by decide, rfl, rfl, rfl, rfl⟩

theorem witness_QspiAndLifeline_9 :
    ∃ (p : _) (op : _) (a : _) (n : _) (s : State) (h : List Nat) (r : Option (List Nat) × State), qspiOn s p = true ∧
    (op = 0x0B ∨ op = 0x6B) ∧ a < 2 ^ 32 ∧ 1 ≤ n ∧ n ≤ 256 ∧ h = op :: bytesOf a 4 ++ bytesOf n 2 ++ [255 - op] ∧
    r = qspiReads p a n s ∧ r.1 = none :=
  ⟨1, 0x6B, 0x1002, 1, (on [(HOST_BIND_IF 0, 1), (HOST_BIND_INDEX 0, 0), (HOST_BIND_IF 1, 2), (HOST_BIND_INDEX 1, 1),
  (HOST_PERM_REL_OK 1, 1), (HOST_PERM_MUTE_OK 1, 1)] (up)), _, _, by decide, by decide, by decide, by decide,
  by decide, rfl, rfl, by decide⟩

theorem witness_QspiAndLifeline_10 :
    ∃ (p : _) (n : _) (a : _) (s : State), boundSeat s 2 p = some n ∧ a % 4 = 0 ∧ 0x1000 ≤ a ∧ a < 0x3000 :=
  ⟨1, 1, 0x1004, updSeat 1 (fun x => { x with mail := [(1025, 88)] }) (on [(HOST_BIND_IF 0, 1), (HOST_BIND_INDEX 0,
  0), (HOST_BIND_IF 1, 2), (HOST_BIND_INDEX 1, 1), (HOST_PERM_REL_OK 1, 1), (HOST_PERM_MUTE_OK 1, 1)] (up)),
  by decide, by decide, by decide, by decide⟩

theorem witness_QspiAndLifeline_11 :
    ∃ (p : _) (n : _) (a : _) (s : State), boundSeat s 2 p = some n ∧ a % 4 = 0 ∧ 0x3000 ≤ a ∧ a < 0x10000 :=
  ⟨1, 1, 0xFFFC, (on [(HOST_BIND_IF 0, 1), (HOST_BIND_INDEX 0, 0), (HOST_BIND_IF 1, 2), (HOST_BIND_INDEX 1, 1),
  (HOST_PERM_REL_OK 1, 1), (HOST_PERM_MUTE_OK 1, 1)] (up)), by decide, by decide, by decide, by decide⟩

theorem witness_QspiAndLifeline_12 :
    ∃ (p : _) (n : _) (a : _) (v : _) (s : State), boundSeat s 2 p = some n ∧ a % 4 = 0 ∧ 0x1000 ≤ a ∧ a < 0x1400 ∧
    Quiescent s ∧ v < 2 ^ 32 :=
  ⟨1, 1, 0x13FC, 3, (on [(HOST_BIND_IF 0, 1), (HOST_BIND_INDEX 0, 0), (HOST_BIND_IF 1, 2), (HOST_BIND_INDEX 1, 1),
  (HOST_PERM_REL_OK 1, 1), (HOST_PERM_MUTE_OK 1, 1)] (up)), by decide, by decide, by decide, by decide, by decide,
  by decide⟩

theorem witness_QspiAndLifeline_13 :
    ∃ (p : _) (s : State), qspiOn s p = true :=
  ⟨1, updQspi 1 (fun q => { q with crcErr := true }) (on [(HOST_BIND_IF 0, 1), (HOST_BIND_INDEX 0, 0),
  (HOST_BIND_IF 1, 2), (HOST_BIND_INDEX 1, 1), (HOST_PERM_REL_OK 1, 1), (HOST_PERM_MUTE_OK 1, 1)] (up)), by decide⟩

theorem witness_QspiAndLifeline_14 :
    ∃ (n : _) (s : State), viewReach s n = true ∧ flag s (HOST_PERM_REL_OK n) = true ∧ (seatOf s n).relArmed = false :=
  ⟨1, (on [(HOST_BIND_IF 0, 1), (HOST_BIND_INDEX 0, 0), (HOST_BIND_IF 1, 2), (HOST_BIND_INDEX 1, 1),
  (HOST_PERM_REL_OK 1, 1), (HOST_PERM_MUTE_OK 1, 1)] (up)), by decide, by decide, by decide⟩

theorem witness_QspiAndLifeline_15 :
    ∃ (n : _) (s : State), viewReach s n = true ∧ flag s (HOST_PERM_REL_OK n) = true ∧ (seatOf s n).relArmed = true :=
  ⟨1, updSeat 1 (fun x => { x with relArmed := true }) (on [(HOST_BIND_IF 0, 1), (HOST_BIND_INDEX 0, 0),
  (HOST_BIND_IF 1, 2), (HOST_BIND_INDEX 1, 1), (HOST_PERM_REL_OK 1, 1), (HOST_PERM_MUTE_OK 1, 1), (PAIR_STAT_CLAIM,
  1)] ({ run with pins := { run.pins with pairEn := true } })), by decide, by decide, by decide⟩

theorem witness_QspiAndLifeline_16 :
    ∃ (n : _) (s : State), viewReach s n = true ∧ flag s (HOST_PERM_REL_OK n) = true :=
  ⟨1, (on [(HOST_BIND_IF 0, 1), (HOST_BIND_INDEX 0, 0), (HOST_BIND_IF 1, 2), (HOST_BIND_INDEX 1, 1),
  (HOST_PERM_REL_OK 1, 1), (HOST_PERM_MUTE_OK 1, 1)] (up)), by decide, by decide⟩

theorem witness_QspiAndLifeline_17 :
    ∃ (n : _) (s : State), n < 4 ∧ (viewReach s n = false ∨ flag s (HOST_PERM_REL_OK n) = false) :=
  ⟨2, (on [(HOST_BIND_IF 0, 1), (HOST_BIND_INDEX 0, 0), (HOST_BIND_IF 1, 2), (HOST_BIND_INDEX 1, 1),
  (HOST_PERM_REL_OK 1, 1), (HOST_PERM_MUTE_OK 1, 1), (HOST_PERM_REL_OK 2, 0)] (up)), by decide, by decide⟩

theorem witness_QspiAndLifeline_18 :
    ∃ (n : _), n < 4 :=
  ⟨1, by decide⟩

theorem witness_QspiAndLifeline_19 :
    ∃ (n : _) (v : _) (c : _) (s : State), viewReach s n = true ∧ flag s (HOST_PERM_MUTE_OK n) = true ∧
    lo32 c = not32 v :=
  ⟨1, 5, 4294967290, (on [(HOST_BIND_IF 0, 1), (HOST_BIND_INDEX 0, 0), (HOST_BIND_IF 1, 2), (HOST_BIND_INDEX 1, 1),
  (HOST_PERM_REL_OK 1, 1), (HOST_PERM_MUTE_OK 1, 1)] (up)), by decide, by decide, by decide⟩

theorem witness_QspiAndLifeline_20 :
    ∃ (n : _) (v : _) (c : _) (s : State), viewReach s n = true ∧ flag s (HOST_PERM_MUTE_OK n) = true ∧
    lo32 c ≠ not32 v :=
  ⟨1, 5, 5, (on [(HOST_BIND_IF 0, 1), (HOST_BIND_INDEX 0, 0), (HOST_BIND_IF 1, 2), (HOST_BIND_INDEX 1, 1),
  (HOST_PERM_REL_OK 1, 1), (HOST_PERM_MUTE_OK 1, 1)] (up)), by decide, by decide, by decide⟩

theorem witness_QspiAndLifeline_21 :
    ∃ (n : _) (s : State), (viewReach s n = false ∨ flag s (HOST_PERM_MUTE_OK n) = false) :=
  ⟨3, (on [(HOST_BIND_IF 0, 1), (HOST_BIND_INDEX 0, 0), (HOST_BIND_IF 1, 2), (HOST_BIND_INDEX 1, 1),
  (HOST_PERM_REL_OK 1, 1), (HOST_PERM_MUTE_OK 1, 1), (HOST_BIND_IF 3, 0)] (up)), by decide⟩

theorem witness_QspiAndLifeline_22 :
    ∃ (s : State), s.ctl.boot = .firmware ∧ s.pwr.rest = false :=
  ⟨up, by decide, by decide⟩

/-! ## SleepAndAlarms -/

theorem witness_SleepAndAlarms_0 :
    ∃ (k : _) (s : State), k < 7 ∧ s.pwr.rest = false ∧ s.ctl.boot ≠ .inReset :=
  ⟨6,
  (fun s => { s with pins := { s.pins with pairEn := true }, pair := { s.pair with drivers := true } }) (on [(PWR_THERM_ALARM_C,
  85), (PWR_THERM_HYST, 10), (PAIR_STAT_CLAIM, 1)] { up with pwr := { up.pwr with entering := 0 } }), by decide,
  by decide, by decide⟩

theorem witness_SleepAndAlarms_1 :
    ∃ (s : State), s.pwr.rest = false :=
  ⟨on [(PWR_THERM_ALARM_C, 85), (PWR_THERM_HYST, 10), (PWR_ALARM_SUPPLY, 1), (LIFE_FAULT_SUPPLY, 1), (LIFE_FAULT_PLL,
  1), (PWR_ALARM_RAIL_SEEN, 5)] { up with pwr := { up.pwr with entering := 0 } }, by decide⟩

theorem witness_SleepAndAlarms_2 :
    ∃ (s : State) (x : Int) (a : Int), s.pwr.rest = false ∧ s.ctl.boot ≠ .inReset ∧ -2048 ≤ x ∧ x < 1000 ∧
    a = 8 * (getF s PWR_THERM_ALARM_C : Int) ∧ x < a ∧ a - 8 * (getF s PWR_THERM_HYST : Int) ≤ x :=
  ⟨on [(PWR_THERM_ALARM_C, 85), (PWR_THERM_HYST, 10)] { up with pwr := { up.pwr with entering := 0 } }, 601, _,
  by decide, by decide, by decide, by decide, rfl, by decide, by decide⟩

theorem witness_SleepAndAlarms_3 :
    ∃ (s : State) (x : Int) (a : Int), s.pwr.rest = false ∧ s.ctl.boot ≠ .inReset ∧ -2048 ≤ x ∧ x < 1000 ∧
    a = 8 * (getF s PWR_THERM_ALARM_C : Int) ∧ a ≤ x ∧ flag s PWR_ALARM_THERMAL = false :=
  ⟨on [(PWR_THERM_ALARM_C, 85), (PWR_THERM_HYST, 10)] { up with pwr := { up.pwr with entering := 0 } }, 680, _,
  by decide, by decide, by decide, by decide, rfl, by decide, by decide⟩

theorem witness_SleepAndAlarms_4 :
    ∃ (s : State) (x : Int) (a : Int), s.pwr.rest = false ∧ s.ctl.boot ≠ .inReset ∧ -2048 ≤ x ∧ x < 1000 ∧
    a = 8 * (getF s PWR_THERM_ALARM_C : Int) ∧ a ≤ x ∧ flag s PWR_ALARM_THERMAL = true :=
  ⟨on [(PWR_THERM_ALARM_C, 85), (PWR_THERM_HYST, 10), (PWR_ALARM_THERMAL,
  1)] { up with pwr := { up.pwr with entering := 0 } }, 999, _, by decide, by decide, by decide, by decide, rfl,
  by decide, by decide⟩

theorem witness_SleepAndAlarms_5 :
    ∃ (s : State) (x : Int) (a : Int), s.pwr.rest = false ∧ s.ctl.boot ≠ .inReset ∧ -2048 ≤ x ∧ x < 1000 ∧
    a = 8 * (getF s PWR_THERM_ALARM_C : Int) ∧ x < a ∧ x < a - 8 * (getF s PWR_THERM_HYST : Int) ∧
    s.pwr.hotStop = false :=
  ⟨on [(PWR_THERM_ALARM_C, 85), (PWR_THERM_HYST, 10), (PWR_ALARM_THERMAL, 1), (LIFE_FAULT_THERMAL,
  1)] { up with pwr := { up.pwr with entering := 0 } }, -2048, _, by decide, by decide, by decide, by decide, rfl,
  by decide, by decide, by decide⟩

theorem witness_SleepAndAlarms_6 :
    ∃ (s : State) (x : Int) (a : Int), s.pwr.rest = false ∧ s.ctl.boot ≠ .inReset ∧ -2048 ≤ x ∧ x < 1000 ∧
    a = 8 * (getF s PWR_THERM_ALARM_C : Int) ∧ x < a ∧ x < a - 8 * (getF s PWR_THERM_HYST : Int) ∧
    s.pwr.hotStop = true :=
  ⟨on [(PWR_THERM_ALARM_C, 85), (PWR_THERM_HYST, 10), (PWR_ALARM_THERMAL,
  1)] { run with pwr := { run.pwr with hotStop := true } }, 599, _, by decide, by decide, by decide, by decide, rfl,
  by decide, by decide, by decide⟩

theorem witness_SleepAndAlarms_7 :
    ∃ (s : State) (x : Int), s.pwr.rest = false ∧ s.ctl.boot ≠ .inReset ∧ 1000 ≤ x ∧ x < 2048 ∧ s.pwr.hotStop = false :=
  ⟨on [(PWR_THERM_ALARM_C, 85), (PWR_THERM_HYST, 10)] { run with pwr := { run.pwr with entering := 0 } }, 1000,
  by decide, by decide, by decide, by decide, by decide⟩

theorem witness_SleepAndAlarms_8 :
    ∃ (s : State), getF s PWR_STAT_STATE = 0 ∧ s.pwr.entering = 0 ∧ s.pwr.rest = false ∧ running s = false :=
  ⟨on [(PWR_THERM_ALARM_C, 85), (PWR_THERM_HYST, 10), (PWR_STAT_STATE,
  0)] { up with pwr := { up.pwr with entering := 0 } }, by decide, by decide, by decide, by decide⟩

theorem witness_SleepAndAlarms_9 :
    ∃ (s : State), getF s PWR_STAT_STATE = 0 ∧ s.pwr.entering = 0 ∧ s.pwr.rest = false ∧ running s = true :=
  ⟨(fun s => { s with pins := { s.pins with pairEn := true }, pair := { s.pair with drivers := false } }) (on [(PWR_THERM_ALARM_C,
  85), (PWR_THERM_HYST, 10), (PWR_STAT_STATE, 0), (PAIR_STAT_STATE,
  4)] { run with pwr := { run.pwr with entering := 0 } }), by decide, by decide, by decide, by decide⟩

theorem witness_SleepAndAlarms_10 :
    ∃ (s : State), (getF s PWR_STAT_STATE ≠ 0 ∨ s.pwr.entering ≠ 0 ∨ s.pwr.rest = true) :=
  ⟨on [(PWR_THERM_ALARM_C, 85), (PWR_THERM_HYST, 10)] { up with pwr := { up.pwr with entering := 2 } }, by decide⟩

theorem witness_SleepAndAlarms_11 :
    ∃ (s : State), getF s PWR_STAT_STATE = 1 :=
  ⟨on [(PWR_THERM_ALARM_C, 85), (PWR_THERM_HYST, 10), (PWR_STAT_STATE,
  1)] { up with pwr := { up.pwr with entering := 0 } }, by decide⟩

theorem witness_SleepAndAlarms_12 :
    ∃ (s : State), getF s PWR_STAT_STATE = 2 ∧ s.pwr.entering = 0 ∧ s.pwr.rest = false ∧ s.pwr.latched = none :=
  ⟨(fun s => { s with pins := { s.pins with pairEn := true }, pair := { s.pair with drivers := true } }) (on [(PWR_THERM_ALARM_C,
  85), (PWR_THERM_HYST, 10), (PWR_STAT_STATE, 2), (PAIR_STAT_CLAIM,
  1)] { up with pwr := { up.pwr with entering := 0 } }), by decide, by decide, by decide, by decide⟩

theorem witness_SleepAndAlarms_13 :
    ∃ (c : _) (s : State), wakeEnabled s c = false :=
  ⟨9, on [(PWR_THERM_ALARM_C, 85), (PWR_THERM_HYST, 10), (PWR_WAKE_EN_MASK,
  0)] { up with pwr := { up.pwr with entering := 0 } }, by decide⟩

theorem witness_SleepAndAlarms_14 :
    ∃ (c : _) (s : State), wakeEnabled s c = true ∧ s.pwr.rest = false ∧ getF s PWR_STAT_STATE = 2 ∧ 3 < c ∧
    s.pwr.latched = none :=
  ⟨0x12, on [(PWR_THERM_ALARM_C, 85), (PWR_THERM_HYST, 10), (PWR_STAT_STATE, 2), (PWR_WAKE_EN_MASK,
  65535)] { up with pwr := { up.pwr with entering := 0 } }, by decide, by decide, by decide, by decide, by decide⟩

theorem witness_SleepAndAlarms_15 :
    ∃ (c : _) (s : State), wakeEnabled s c = true ∧ s.pwr.rest = true :=
  ⟨0x12, on [(PWR_THERM_ALARM_C, 85), (PWR_THERM_HYST, 10), (PWR_STAT_STATE, 2), (PWR_WAKE_EN_MASK,
  65535)] { up with pwr := { up.pwr with rest := true } }, by decide, by decide⟩

theorem witness_SleepAndAlarms_16 :
    ∃ (s : State), s.pwr.waking = true ∧ fwUp s = true ∧ flag s CLK_SYN_STAT_LOCK = true :=
  ⟨on [(PWR_THERM_ALARM_C, 85), (PWR_THERM_HYST, 10), (CLK_SYN_STAT_LOCK,
  1)] { up with pwr := { up.pwr with waking := true } }, by decide, by decide, by decide⟩

theorem witness_SleepAndAlarms_17 :
    ∃ (s : State), (s.pwr.waking = false ∨ fwUp s = false ∨ flag s CLK_SYN_STAT_LOCK = false) :=
  ⟨on [(PWR_THERM_ALARM_C, 85), (PWR_THERM_HYST, 10)] { up with pwr := { up.pwr with entering := 0 } }, by decide⟩

/-! ## AnswersAndArming -/

theorem witness_AnswersAndArming_0 :
    ∃ (f : State → FwM) (s : State) (e : FwErr), relayed f s = .error e :=
  ⟨(fun _ => .error (err eState)), up, err eState, rfl⟩

theorem witness_AnswersAndArming_1 :
    ∃ (f : State → FwM) (s : State) (t : State) (ws : List Nat), relayed f s = .ok (t, ws) :=
  ⟨(fun s => .ok (s, [5])), up, up, _, rfl⟩

theorem witness_AnswersAndArming_2 :
    ∃ (s : State), relays s = false :=
  ⟨up, by decide⟩

theorem witness_AnswersAndArming_3 :
    ∃ (f : State → FwM) (s : State) (e : FwErr), f s = .error e :=
  ⟨(fun _ => .error (err eState)), on [(PAIR_STAT_CLAIM, 1), (PAIR_STAT_PARTNER_STATE, 4), (PAIR_STAT_HEARTBEAT, 1),
  (PAIR_STAT_STATE, 2)] { run with pins := { run.pins with pairEn := true } }, err eState, rfl⟩

theorem witness_AnswersAndArming_4 :
    ∃ (f : State → FwM) (s : State), relays s = true ∧ ∃ t ws, f s = .ok (t, ws) :=
  ⟨(fun s => .ok ({ s with stage := [(SP_OEN_LO_OEN.addr, 5)] }, [5])), on [(PAIR_STAT_CLAIM, 1),
  (PAIR_STAT_PARTNER_STATE, 4), (PAIR_STAT_HEARTBEAT, 1), (PAIR_STAT_STATE,
  2)] { run with pins := { run.pins with pairEn := true } }, by decide, ⟨_, _, rfl⟩⟩

theorem witness_AnswersAndArming_5 :
    ∃ (n : _) (w0 : _) (st : _) (p : List Nat) (s : State) (t : State) (k : _), n < 4 ∧ t = postReply n w0 st p s ∧
    k ∉ [(DB_STAT_REPLY_READY n).key, (DB_STAT_CMD_BUSY n).key, (DB_STAT_LAST_SEQ n).key, (IRQ_STAT_REPLY n).key] :=
  ⟨2, 0x00031701, 6, [5, 4294967296], on [(HOST_BIND_IF 2, 1), (HOST_BIND_INDEX 2, 2), (IRQ_EN_EN_FW 2, 7)] up, _, 5,
  by decide, rfl, by decide⟩

theorem witness_AnswersAndArming_6 :
    ∃ (n : _) (w0 : _) (st : _) (p : List Nat) (s : State) (t : State) (m : _), n < 4 ∧ t = postReply n w0 st p s ∧
    m ≠ n :=
  ⟨2, 0x00031701, 6, [5, 4294967296], on [(HOST_BIND_IF 2, 1), (HOST_BIND_INDEX 2, 2), (IRQ_EN_EN_FW 2, 7)] up, _, 1,
  by decide, rfl, by decide⟩

theorem witness_AnswersAndArming_7 :
    ∃ (n : _) (w0 : _) (st : _) (p : List Nat) (s : State) (t : State), n < 4 ∧ t = postReply n w0 st p s :=
  ⟨2, 0x00031701, 6, [5, 4294967296], on [(HOST_BIND_IF 2, 1), (HOST_BIND_INDEX 2, 2), (IRQ_EN_EN_FW 2, 7)] up, _,
  by decide, rfl⟩

theorem witness_AnswersAndArming_8 :
    ∃ (n : _) (w0 : _) (st : _) (p : List Nat) (s : State) (t : State) (i : _), n < 4 ∧ t = postReply n w0 st p s ∧
    i < 0x500 :=
  ⟨2, 0x00031701, 6, [5, 4294967296], on [(HOST_BIND_IF 2, 1), (HOST_BIND_INDEX 2, 2), (IRQ_EN_EN_FW 2, 7)] up, _, 3,
  by decide, rfl, by decide⟩

theorem witness_AnswersAndArming_9 :
    ∃ (n : _) (w0 : _) (st : _) (p : List Nat) (s : State) (t : State), n < 4 ∧ t = postReply n w0 st p s ∧
    getF s (HOST_BIND_IF n) = 3 :=
  ⟨2, 0x00031701, 6, [5, 4294967296], on [(HOST_BIND_IF 2, 3), (HOST_BIND_INDEX 2, 1)] up, _, by decide, rfl,
  by decide⟩

theorem witness_AnswersAndArming_10 :
    ∃ (n : _) (w0 : _) (st : _) (p : List Nat) (s : State) (t : State), n < 4 ∧ t = postReply n w0 st p s ∧
    getF s (HOST_BIND_IF n) ≠ 3 :=
  ⟨2, 0x00031701, 6, [5, 4294967296], on [(HOST_BIND_IF 2, 1), (HOST_BIND_INDEX 2, 2), (IRQ_EN_EN_FW 2, 7)] up, _,
  by decide, rfl, by decide⟩

theorem witness_AnswersAndArming_11 :
    ∃ (n : _) (w0 : _) (st : _) (p : List Nat) (s : State) (t : State), n < 4 ∧ t = postReply n w0 st p s :=
  ⟨2, 0x00031701, 6, [5, 4294967296], on [(HOST_BIND_IF 2, 1), (HOST_BIND_INDEX 2, 2), (IRQ_EN_EN_FW 2, 7)] up, _,
  by decide, rfl⟩

theorem witness_AnswersAndArming_13 :
    ∃ (s : State), running s = false :=
  ⟨up, by decide⟩

theorem witness_AnswersAndArming_14 :
    ∃ (s : State) (r : FwReq) (e : Sched) (x : Sched), running s = true ∧ 
                                   x = { e with
        ci := aimed s r e.kind e.ci
        seat := r.seat } ∧ schedConflict s x = true :=
  ⟨fab run (fun f => { f with sched := [(0, ⟨2, 0, 2000, false, [], [], [], false⟩)] }), (rq 0 []), ⟨2, 0, 2000,
  false, [], [], [], false⟩, _, by decide, rfl, by decide⟩

theorem witness_AnswersAndArming_15 :
    ∃ (s : State) (r : FwReq) (e : Sched) (x : Sched), running s = true ∧ 
                                   x = { e with
        ci := aimed s r e.kind e.ci
        seat := r.seat } ∧ schedConflict s x = false ∧ (∀ i, i < 64 → (s.fab.sched.find i).isSome = true) :=
  ⟨fab run (fun f => { f with sched := (List.range 64).map (fun i => (i, ⟨9, i, 9000, false, [], [], [], false⟩)) }),
  (rq 0 []), ⟨2, 0, 2000, false, [], [], [], false⟩, _, by decide, rfl, by decide, by decide⟩

theorem witness_AnswersAndArming_16 :
    ∃ (s : State) (r : FwReq) (e : Sched) (x : Sched) (i : _), running s = true ∧ 
                                   x = { e with
        ci := aimed s r e.kind e.ci
        seat := r.seat } ∧ schedConflict s x = false ∧ i < 64 ∧ s.fab.sched.find i = none ∧ (∀ j, j < i → (s.fab.sched.find j).isSome = true) ∧ x.ci < s.fab.ci + leadOf s e.kind ∧ x.ci ≠ 0 :=
  ⟨fab run (fun f => { f with sched := [(0, ⟨9, 0, 9000, false, [], [], [], false⟩), (2, ⟨9, 0, 9000, false, [], [], [], false⟩)] }),
  (rq 0 []), ⟨2, 0, 1001, false, [], [], [], false⟩, _, 1, by decide, rfl, by decide, by decide, by decide, by decide,
  by decide, by decide⟩

theorem witness_AnswersAndArming_17 :
    ∃ (s : State) (r : FwReq) (e : Sched) (x : Sched) (i : _), running s = true ∧ 
                                   x = { e with
        ci := aimed s r e.kind e.ci
        seat := r.seat } ∧ schedConflict s x = false ∧ i < 64 ∧ s.fab.sched.find i = none ∧ (∀ j, j < i → (s.fab.sched.find j).isSome = true) ∧ s.fab.ci + leadOf s e.kind ≤ x.ci ∧ 2 ^ 31 ≤ x.ci - s.fab.ci :=
  ⟨fab run (fun f => { f with sched := [(0, ⟨9, 0, 9000, false, [], [], [], false⟩), (2, ⟨9, 0, 9000, false, [], [], [], false⟩)] }),
  (rq 0 []), ⟨2, 0, 2147484648, false, [], [], [], false⟩, _, 1, by decide, rfl, by decide, by decide, by decide,
  by decide, by decide, by decide⟩

theorem witness_AnswersAndArming_18 :
    ∃ (s : State) (r : FwReq) (e : Sched) (x : Sched) (i : _), running s = true ∧ 
                                   x = { e with
        ci := aimed s r e.kind e.ci
        seat := r.seat } ∧ schedConflict s x = false ∧ i < 64 ∧ s.fab.sched.find i = none ∧ (∀ j, j < i → (s.fab.sched.find j).isSome = true) ∧ s.fab.ci + leadOf s e.kind ≤ x.ci ∧ x.ci - s.fab.ci < 2 ^ 31 :=
  ⟨fab run (fun f => { f with sched := [(0, ⟨9, 0, 9000, false, [], [], [], false⟩), (2, ⟨9, 0, 9000, false, [], [], [], false⟩)] }),
  (rq 0 []), ⟨2, 0, 2147484647, false, [], [], [], false⟩, _, 1, by decide, rfl, by decide, by decide, by decide,
  by decide, by decide, by decide⟩

theorem witness_AnswersAndArming_19 :
    ∃ (s : State) (r : FwReq) (k : _) (t : _), r.asap = true ∧ t < s.fab.ci + leadOf s k :=
  ⟨run, ⟨0, 0, true, []⟩, 2, 5, by decide, by decide⟩

theorem witness_AnswersAndArming_20 :
    ∃ (s : State) (r : FwReq) (k : _) (t : _), (r.asap = false ∨ s.fab.ci + leadOf s k ≤ t) :=
  ⟨run, (rq 0 []), 2, 2000, by decide⟩

theorem witness_AnswersAndArming_21 :
    ∃ (s : State), relays s = false :=
  ⟨up, by decide⟩

/-! ## StepTakesTheFront -/

theorem witness_StepTakesTheFront_0 :
    ∃ (c : Instr) (rest : List Instr) (s : State), s.pending = c :: rest :=
  ⟨.openTimeout, [.lifeBeatTick], { up with pending := [.openTimeout, .lifeBeatTick] }, by decide⟩

theorem witness_StepTakesTheFront_2 :
    ∃ (s : State), s.pending = [] :=
  ⟨{ up with ptp := ⟨2 ^ 48 - 1, 999999999, 4294967295⟩, qspi := [(1, ⟨true, false, false, false, false, false⟩)] },
  by decide⟩

/-! ## EveryStepKeepsTheStores -/

theorem witness_EveryStepKeepsTheStores_0 :
    ∃ s t, StoresWf s ∧ step s = .next t :=
  ⟨State.reset, _, ⟨by decide, by decide, by decide, by decide, by decide⟩, rfl⟩

end Sys2Proof.Tests
end

/-! ## Every command answers a next state

The proof reads off each command's meaning that all of its branches end in `.next`. -/

namespace Sys2Proof.Machine

/-- The outcome is a next state: neither a fault nor a refusal. -/
def Answers (o : Host.Outcome State Fault Refusal) : Prop := ∃ t, o = .next t

theorem Answers.next (t : State) : Answers (.next t) := ⟨t, rfl⟩

theorem Answers.ite {c : Prop} [Decidable c] {a b : Host.Outcome State Fault Refusal} (ha : Answers a) (hb : Answers b) :
    Answers (if c then a else b) := by split <;> assumption

/-- A row of the firmware's command reference answers, be the firmware up or not. -/
theorem fwRow_answers (op : Nat) (r : FwReq) (f : FwReq → State → FwM) (s : State) : Answers (fwRow op r f s) :=
  .ite (.next _) (.next _)

/-! ### Commands that branch on a lookup, or more than twice -/

theorem execFamilyChangeRestart_answers (s : State) : Answers (execFamilyChangeRestart s) := by
  unfold execFamilyChangeRestart
  split
  · exact .ite (.next _) (.next _)
  · exact .next _

theorem execGapLoadComplete_answers (s : State) : Answers (execGapLoadComplete s) := by
  unfold execGapLoadComplete
  dsimp only
  split
  · exact .next _
  · exact .next _

theorem execTileBankAccess_answers (tile : Nat) (s : State) : Answers (execTileBankAccess tile s) := by
  unfold execTileBankAccess
  split
  · exact .ite (.next _) (.next _)
  · exact .next _

theorem execAshlarLanding_answers (tile : Nat) (s : State) : Answers (execAshlarLanding tile s) := by
  unfold execAshlarLanding
  split
  · exact .ite (.next _) (.next _)
  · exact .next _

theorem execBankTransitionDone_answers (bank : Nat) (s : State) : Answers (execBankTransitionDone bank s) := by
  unfold execBankTransitionDone
  split
  · exact .next _
  · exact .ite (.next _) (.next _)

theorem execSerialFrameIn_answers (lane frame cycle ratio : Nat) (s : State) :
    Answers (execSerialFrameIn lane frame cycle ratio s) := by
  unfold execSerialFrameIn
  split
  · dsimp only
    split
    · exact .next _
    · exact .next _
  · exact .next _

theorem execRingFrameDeliver_answers (mac : Nat) (s : State) : Answers (execRingFrameDeliver mac s) := by
  unfold execRingFrameDeliver
  split
  · exact .next _
  · dsimp only
    split
    · exact .next _
    · exact .next _

theorem execMacTxFrameStart_answers (mac half : Nat) (s : State) : Answers (execMacTxFrameStart mac half s) := by
  unfold execMacTxFrameStart
  split
  · dsimp only
    split
    · exact .next _
    · exact .next _
    · exact .next _
    · exact .next _
  · exact .next _

theorem execMdioDone_answers (bus data : Nat) (s : State) : Answers (execMdioDone bus data s) := by
  unfold execMdioDone
  split
  · exact .next _
  · dsimp only
    split
    · exact .next _
    · exact .next _

theorem execPulseFall_answers (output : Nat) (s : State) : Answers (execPulseFall output s) := by
  unfold execPulseFall
  split
  · exact .ite (.next _) (.next _)
  · exact .next _

theorem execManagementSlot_answers (s : State) : Answers (execManagementSlot s) := by
  unfold execManagementSlot
  split
  · dsimp only
    split
    · exact .next _
    · exact .ite (.next _) (.next _)
  · exact .next _

theorem execMklFrameRx_answers (frame : List Nat) (s : State) : Answers (execMklFrameRx frame s) := by
  unfold execMklFrameRx
  split
  · exact .next _
  · split
    · exact .next _
    · split
      · split <;> exact .next _
      · exact .next _

theorem execRecordRx_answers (record : List Nat) (arrival : Int) (s : State) : Answers (execRecordRx record arrival s) := by
  unfold execRecordRx
  split
  · exact .next _
  · split
    · exact .next _
    · exact .ite (.next _) (.ite (.next _) (.next _))

theorem execBar2Access_answers (pf : Nat) (write : Bool) (off count : Nat) (data : List Nat) (s : State) :
    Answers (execBar2Access pf write off count data s) := by
  unfold execBar2Access
  split
  · exact .next _
  · split
    · exact .next _
    · exact .ite (.next _) (.next _)

theorem execUdpMailboxDatagram_answers (mac srcAddr srcPort dstPort : Nat) (words : List Nat) (s : State) :
    Answers (execUdpMailboxDatagram mac srcAddr srcPort dstPort words s) := by
  unfold execUdpMailboxDatagram
  split
  · exact .next _
  · split
    · exact .next _
    · exact .ite (.next _) (.next _)

theorem execPieceVerifyDone_answers (s : State) : Answers (execPieceVerifyDone s) := by
  unfold execPieceVerifyDone
  split
  · exact .next _
  · split
    · exact .next _
    · dsimp only
      split
      · exact .next _
      · exact .next _

theorem execSeatBind_answers (r : FwReq) (s : State) : Answers (execSeatBind r s) := by
  unfold execSeatBind
  split
  · split
    · exact .next _
    · exact .next _
  · exact .next _

theorem execAes3RxFrame_answers (receiver a b : Nat) (badA badB validity : Bool) (rate ratio : Nat) (s : State) :
    Answers (execAes3RxFrame receiver a b badA badB validity rate ratio s) :=
  .ite (.ite (.next _) (.ite (.next _) (.ite (.next _) (.next _)))) (.next _)

theorem execMacRxFrame_answers (mac : Nat) (bytes : List Nat) (fcsOk codeErr : Bool) (half : Nat) (s : State) :
    Answers (execMacRxFrame mac bytes fcsOk codeErr half s) :=
  .ite (.ite (.next _) <| .ite (.next _) <| .ite (.next _) <| .ite (.next _) <| .ite (.next _) <| .ite (.next _) <|
    .ite (.next _) (.next _)) (.next _)

theorem execQspiWrite_answers (port : Nat) (bytes : List Nat) (s : State) : Answers (execQspiWrite port bytes s) :=
  .ite (.next _) <| .ite (.next _) <| .ite (.next _) <| .ite (.next _) <| .ite (.next _) <| .ite (.next _) <|
    .ite (.next _) (.next _)

theorem execTemperatureSample_answers (temp : Int) (s : State) : Answers (execTemperatureSample temp s) :=
  .ite (.next _) (.ite (.ite (.next _) (.next _)) (.ite (.ite (.next _) (.next _)) (.next _)))

theorem execQspiRead_answers (port : Nat) (header : List Nat) (clocked : Nat) (s : State) :
    Answers (execQspiRead port header clocked s) := by
  unfold execQspiRead
  refine .ite (.next _) (.ite (.next _) (.ite (.next _) ?_))
  dsimp only
  split
  · exact .next _
  · exact .next _

/-! ### All commands -/

/-- Every command answers a next state: the rows of the firmware's command reference, the commands that always come to one next
state, and those that choose between next states. -/
theorem exec_answers (c : Instr) (s : State) : Answers (exec c s) := by
  unfold exec
  cases c with
  | sysCaps | sysReset | sysLife | sysMute | sysCancel | sysSched | seatAttach | seatRenew | seatDetach | seatGive |
  seatTake | seatAdopt | seatRelease | seatQuota | seatPerm | seatSubscribe | seatList | imgBegin | imgPiece | imgData |
  imgCommit | imgAbort | imgStatus | imgPath | imgLend | imgKey | paramWrite | paramRead | routeStage | routeCommit |
  routeDest | routeSilence | routeRead | routeDstat | routeDiscard | dynStage | dynRead | portGroup | portLane | portAesrx |
  portAestx | portCstat | portAsrc | portOuten | portStatus | netMac | netIp | netPhy | netMdio | netStats | streamRx |
  streamTx | streamMap | streamEnable | streamDelete | streamStatus | timePtp | timeStatus | timeCpo | timeReanchor |
  timePulse | timeCapture | timeCapread | timeLatency | clkRef | clkSelect | clkDpll | clkFreq | clkStep | clkQuality |
  clkOutput | clkStatus | ampChannel | ampGroup | ampBus | ampOuten | ampClear | ampStatus | pairConfig | pairStatus |
  pairRejoin | pairRestate | pairReframe | pairRetrain | pwrState | pwrBanks | pwrScrub | pwrStatus | diagRead | diagCounts
  | diagLog | diagInject | diagSvn => exact fwRow_answers _ _ _ _
  | powerOnReset | pinReset | remapWrite | registerWrite | cpoWrite | ciReadCapture | fabStart | fabStop | courseBoundary |
  tileArm | tileStop | engineGrantAccess | aesDataAccess | logPop | ashlarBeatAccept | ashlarBeatServe | mergedWrite |
  incWrite | ptpTimeCapture | ptpSet | ptpStep | cstampReadCapture | systemPllLoss | refEvalTick | phaseStepWrite |
  phaseStepApply | synthEnable | bandCalStart | ampClearWrite | emuteInput | claimInFall | claimInRise | claimWindowEnd |
  claimClockStop | retrain | voussoirRequest | masterReset | masterResetCut | pcieLinkDown | pcieFlr | mailboxPost |
  evTailWrite | lifeReleaseArm | lifeReleaseKey | lifeReleaseArmExpiry | lifeMuteWrite | quietEntry | quietExit | wakeEvent
  | diagDebug | systemPllRelock | pcieLinkUp => exact .next _
  | ctlReset | fabReset | seatReset | ashlarFillDone | firmwareEntry | trialConfirm | watchdogKick | watchdogExpiry |
  lockstepMismatch | lifeCiRead | routeWindow | dynWindow | routeResyncDone | dynResyncDone | rteTableWrite | dynTableWrite
  | scrubWriteback | scrubPeriodStart | bankPowerWrite | serialClockLoss | aes3LockLoss | aes3TxCommit | asrcAcquireLock |
  asrcSourceLost | asrcFifoEmpty | macLinkChange | txChainFetch | pauseExpiry | pauseWatchdogExpiry | pauseIgnoreEnd |
  macCounterSnap | ringEnable | mdioPoll | mdioTransaction | pulseArm | pulseEdge | captureFifoRead | announceTimeout |
  refPhaseEvent | refAbsence | refWtrExpiry | refDqExpiry | buildOutBleedDone | dpllLockDetect | dpllUnlockDetect |
  holdoverHistoryTick | openTimeout | synthLock | synthLockLoss | synthRelock | bandCalDone | wcoArm | wcoTrackAlign |
  carrierPeriod | tripHoldExpiry | statusSlotEnd | discoverTimer | trainingModeTimeout | linkFault | recordDeadlineMiss |
  skewTimer | qspiStatus | leaseWarning | leaseExpiry | lifeBeatTick | supplyAlarm | restEntry | wakeFabricStart |
  supplyAlarmClear =>
    exact .ite (.next _) (.next _)
  | bootWindowPost | bootRetry | linkFrameRx =>
    exact .ite (.next _) (.ite (.next _) (.next _))
  | tileBundleIssue | silenceCoalesceExpiry | scrubLine | serialFrameOut | captureEdge | switchAveragingDone |
  overcurrentTrip | tripInput | linkTraining =>
    exact .ite (.ite (.next _) (.next _)) (.next _)
  | nonaudioHoldExpiry | aes3BlockStart =>
    exact .ite (.ite (.next _) (.next _)) (.ite (.next _) (.next _))
  | resetRelease =>
    exact .ite (.next _) (.ite (.next _) (.ite (.next _) (.next _)))
  | strTableWrite | ptpMessageRx =>
    exact .ite (.ite (.next _) (.ite (.next _) (.next _))) (.next _)
  | familyChangeRestart => exact execFamilyChangeRestart_answers _
  | gapLoadComplete => exact execGapLoadComplete_answers _
  | tileBankAccess => exact execTileBankAccess_answers _ _
  | ashlarLanding => exact execAshlarLanding_answers _ _
  | bankTransitionDone => exact execBankTransitionDone_answers _ _
  | serialFrameIn => exact execSerialFrameIn_answers _ _ _ _ _
  | aes3RxFrame => exact execAes3RxFrame_answers _ _ _ _ _ _ _ _ _
  | macRxFrame => exact execMacRxFrame_answers _ _ _ _ _ _
  | ringFrameDeliver => exact execRingFrameDeliver_answers _ _
  | macTxFrameStart => exact execMacTxFrameStart_answers _ _ _
  | mdioDone => exact execMdioDone_answers _ _ _
  | pulseFall => exact execPulseFall_answers _ _
  | managementSlot => exact execManagementSlot_answers _
  | mklFrameRx => exact execMklFrameRx_answers _ _
  | recordRx => exact execRecordRx_answers _ _ _
  | bar2Access => exact execBar2Access_answers _ _ _ _ _ _
  | qspiWrite => exact execQspiWrite_answers _ _ _
  | qspiRead => exact execQspiRead_answers _ _ _ _
  | udpMailboxDatagram => exact execUdpMailboxDatagram_answers _ _ _ _ _ _
  | pieceVerifyDone => exact execPieceVerifyDone_answers _
  | temperatureSample => exact execTemperatureSample_answers _ _
  | seatBind => exact execSeatBind_answers _ _

/-- A command answers a next state with the queue as it was and the fuses kept. -/
theorem exec_completes (c : Instr) (s : State) :
    ∃ t, exec c s = .next t ∧ t.pending = s.pending ∧ FusesKept s.fuses t.fuses := by
  obtain ⟨t, ht⟩ := exec_answers c s
  have hk := exec_keeps c s t ht
  exact ⟨t, ht, hk.pending, hk.fuses⟩

/-- A step takes the front of the queue, if there is one, and keeps the fuses. -/
theorem step_completes (s : State) :
    ∃ t, step s = .next t ∧ t.pending = s.pending.drop 1 ∧ FusesKept s.fuses t.fuses := by
  unfold step
  split
  case h_1 hp =>
    have hk := sysTick_keeps (Keeps.refl s)
    exact ⟨_, rfl, by rw [hk.pending, hp, List.drop_nil], hk.fuses⟩
  case h_2 c rest hp =>
    obtain ⟨t, ht, hq, hf⟩ := exec_completes c { s with pending := rest }
    exact ⟨t, ht, by rw [hq, hp, List.drop_one, List.tail_cons], hf⟩

/-- Settles O60: every meaning ends in a next state (`exec_answers`), and every operation keeps the queue and the fuses
(`exec_keeps`). -/
theorem everyStepCompletes : Obligations.EveryStepCompletes := ⟨exec_completes, step_completes⟩

end Sys2Proof.Machine

/-! ## Paired registers (R9) -/

namespace Sys2Proof.Machine

/-! ### Words -/

theorem lo32_lt (v : Nat) : lo32 v < 2 ^ 32 := Nat.mod_lt _ (by decide)

theorem not32_lt (v : Nat) : not32 v < 2 ^ 32 := by
  unfold not32
  omega

theorem lo32_of_lt {v : Nat} (h : v < 2 ^ 32) : lo32 v = v := Nat.mod_eq_of_lt h

@[simp] theorem lo32_lo32 (v : Nat) : lo32 (lo32 v) = lo32 v := lo32_of_lt (lo32_lt v)

@[simp] theorem lo32_not32 (v : Nat) : lo32 (not32 v) = not32 v := lo32_of_lt (not32_lt v)

@[simp] theorem not32_lo32 (v : Nat) : not32 (lo32 v) = not32 v := by
  unfold not32 lo32
  rw [Nat.mod_mod]

/-- A field's part of a word fits the field. -/
theorem bits_mod_width (v lo w : Nat) : bits v lo w % 2 ^ w = bits v lo w := Nat.mod_mod _ _

/-! ### The pairs of the map -/

/-- The output-enable pairs, by the address of NAME. -/
theorem isOen_cases {a : Nat} (h : isOen a = true) :
    a = 0x20070000 ∨ a = 0x20070008 ∨ a = 0x20080000 ∨ a = 0x200C0300 ∨ a = 0x200D0000 := by
  simpa [isOen] using h

/-- The pairs: output enables, FAB_CPO, CLK_SEL and PAIR_CFG. -/
theorem isPair_cases {a : Nat} (h : isPair a = true) : isOen a = true ∨ a = 0x20040110 ∨ a = 0x200C0000 ∨ a = 0x200E0000 := by
  simpa [isPair] using h

theorem isPair_of_isOen {a : Nat} (h : isOen a = true) : isPair a = true := by
  unfold isPair
  rw [h, Bool.true_or]

/-- The complement of a pair is not itself the first word of one. -/
theorem isPair_add_four {a : Nat} (h : isPair a = true) : isPair (a + 4) = false := by
  rcases isPair_cases h with ho | rfl | rfl | rfl
  · rcases isOen_cases ho with rfl | rfl | rfl | rfl | rfl <;> rfl
  all_goals rfl

/-- Every pair has a PAIRWORD flag, in a register of its own block that is not the pair's. -/
theorem pairFlag_of_isPair {a : Nat} (h : isPair a = true) : ∃ f, pairFlag a = some f ∧ f ∉ fieldsAt a := by
  rcases isPair_cases h with ho | rfl | rfl | rfl
  · rcases isOen_cases ho with rfl | rfl | rfl | rfl | rfl
    · exact ⟨SP_STAT_PAIRWORD, rfl, by decide⟩
    · exact ⟨SP_STAT_PAIRWORD, rfl, by decide⟩
    · exact ⟨AES_STAT_PAIRWORD, rfl, by decide⟩
    · exact ⟨CLK_ALARM_PAIRWORD, rfl, by decide⟩
    · exact ⟨AMP_STAT_PAIRWORD, rfl, by decide⟩
  · exact ⟨FAB_TL_STATUS_PAIRWORD, rfl, by decide⟩
  · exact ⟨CLK_ALARM_PAIRWORD, rfl, by decide⟩
  · exact ⟨PAIR_STAT_PAIRWORD, rfl, by decide⟩

/-! ### Writes of the two words -/

/-- The first word of a pair only waits for its complement. -/
theorem regWrite_first {a : Nat} (v : Nat) {s : State} (hp : isPair a = true) (ha : absentReg s a = false) :
    regWrite a v s = (true, stageWord a (lo32 v) s) := by
  simp [regWrite, ha, hp]

/-- The second word of a pair completes it. -/
theorem regWrite_second {a : Nat} (c : Nat) {s : State} (hp : isPair a = true) (ha : absentReg s (a + 4) = false) :
    regWrite (a + 4) c s = (true, pairComplement a (lo32 c) s) := by
  simp [regWrite, ha, hp, isPair_add_four hp]

theorem stageWord_lo32 (a v : Nat) (s : State) : stageWord a (lo32 v) s = { s with stage := s.stage.put a (lo32 v) } := by
  unfold stageWord
  rw [lo32_lo32]

/-- A mismatch sets the pair's flag, and darkens an output enable. -/
theorem pairDone_mismatch {a v c : Nat} {f : Fld} (s : State) (hf : pairFlag a = some f) (h : lo32 c ≠ not32 v) :
    pairDone a v c s = putF f 1 { s with oenDark := if isOen a then a :: s.oenDark.filter (· != a) else s.oenDark } := by
  unfold pairDone
  rw [if_pos h, hf]
  dsimp only
  split <;> rfl

/-- The match of an output-enable pair is taken, and ends the darkness of a mismatch. -/
theorem pairDone_oen {a v c : Nat} (s : State) (ho : isOen a = true) (h : lo32 c = not32 v) :
    pairDone a v c s = { takePair a v s with oenDark := s.oenDark.filter (· != a) } := by
  have h1 : a ≠ 0x20040110 := by rintro rfl; exact absurd ho (by decide)
  have h2 : a ≠ 0x200C0000 := by rintro rfl; exact absurd ho (by decide)
  simp [pairDone, h, h1, h2, ho]

/-- The match of the FAB_CPO pair is taken while the fabric is stopped, else refused (R25). -/
theorem pairDone_cpo {v c : Nat} (s : State) (h : lo32 c = not32 v) :
    pairDone 0x20040110 v c s = if running s then putF FAB_TL_STATUS_CPO_REJ 1 s else takePair 0x20040110 v s := by
  simp [pairDone, h]

/-! ### What a match writes -/

/-- The fields of a register with their parts of a word. -/
def fieldParts (a v : Nat) : List (Fld × Nat) := (fieldsAt a).map (fun f => (f, bits v f.lo f.width))

/-- A match of a register that refuses nothing sets each of its fields to its part of the word. -/
theorem takePair_eq_putFs {a : Nat} (v : Nat) (s : State) (h : ∀ f ∈ fieldsAt a, ∀ s x, refuses s f x = none) :
    takePair a v s = putFs (fieldParts a v) s := by
  unfold takePair putFs fieldParts
  generalize fieldsAt a = fs at h
  induction fs generalizing s with
  | nil => rfl
  | cons f fs ih =>
    rw [List.foldl_cons, List.map_cons, List.foldl_cons, ih _ fun g hg => h g (List.mem_cons_of_mem f hg)]
    simp only [h f List.mem_cons_self]

/-- No output-enable register refuses a value. -/
theorem refuses_oen {a : Nat} (ho : isOen a = true) : ∀ f ∈ fieldsAt a, ∀ s x, refuses s f x = none := by
  intro f hf s x
  rcases isOen_cases ho with rfl | rfl | rfl | rfl | rfl
  · obtain rfl : f = SP_OEN_LO_OEN := List.mem_singleton.1 hf
    rfl
  · obtain rfl : f = SP_OEN_HI_OEN := List.mem_singleton.1 hf
    rfl
  · obtain rfl : f = AES_OEN_OEN := List.mem_singleton.1 hf
    rfl
  · have hf : f ∈ [CLK_OEN_MCLKO, CLK_OEN_WCO, CLK_OEN_SDMCLK] := hf
    simp only [List.mem_cons, List.not_mem_nil, or_false] at hf
    rcases hf with rfl | rfl | rfl <;> rfl
  · obtain rfl : f = AMP_OEN_OEN := List.mem_singleton.1 hf
    rfl

/-- The fields of an output-enable register share no bits. -/
theorem fieldParts_oen_nodup {a : Nat} (v : Nat) (ho : isOen a = true) : ((fieldParts a v).map (fun p => p.1.key)).Nodup := by
  have hk : (fieldParts a v).map (fun p => p.1.key) = (fieldsAt a).map Fld.key := by
    unfold fieldParts
    rw [List.map_map]
    rfl
  rw [hk]
  rcases isOen_cases ho with rfl | rfl | rfl | rfl | rfl <;> decide

/-- The match of an output-enable pair writes its fields and nothing else. -/
theorem takePair_oen {a : Nat} (v : Nat) (s : State) (ho : isOen a = true) :
    OnlyFields s (takePair a v s) (fieldParts a v) := by
  rw [takePair_eq_putFs v s (refuses_oen ho)]
  exact OnlyFields.putFs (fieldParts_oen_nodup v ho)

/-- The match of the FAB_CPO pair writes CPO. -/
theorem takePair_cpo (v : Nat) (s : State) : takePair 0x20040110 v s = putF FAB_CPO_CPO_NS (bits v 0 15) s := rfl

/-- What a field takes is cut to its width, so bits beyond it may be dropped before. -/
theorem putF_mod (f : Fld) (v : Nat) (s : State) : putF f (v % 2 ^ f.width) s = putF f v s := by
  unfold putF
  rw [Nat.mod_mod]

theorem bits_lo32_cpo (v : Nat) : bits (lo32 v) 0 15 = v % 2 ^ 15 := by
  unfold bits lo32
  omega

/-! ### The obligation -/

theorem regWrite_mismatch {a c : Nat} {s : State} (hp : isPair a = true) (ha : absentReg s (a + 4) = false)
    (hc : lo32 c ≠ not32 (s.stage.get a (regWordRaw s a))) :
    ∃ t f, regWrite (a + 4) c s = (true, t) ∧ pairFlag a = some f ∧ f ∉ fieldsAt a
      ∧ OnlyFields { s with
          stage := s.stage.erase a
          oenDark := if isOen a then a :: s.oenDark.filter (· != a) else s.oenDark } t [(f, 1)] := by
  obtain ⟨f, hf, hn⟩ := pairFlag_of_isPair hp
  refine ⟨_, f, regWrite_second c hp ha, hf, hn, ?_⟩
  unfold pairComplement
  rw [pairDone_mismatch _ hf (by rwa [lo32_lo32])]
  exact OnlyFields.putF _ f 1

theorem regWrite_oen_match {a v : Nat} {s : State} (ho : isOen a = true) (ha : absentReg s (a + 4) = false)
    (hv : s.stage.get a (regWordRaw s a) = lo32 v) :
    ∃ t, regWrite (a + 4) (not32 v) s = (true, t) ∧ a ∉ t.oenDark ∧ t.stage = s.stage.erase a
      ∧ (∀ f ∈ fieldsAt a, getF t f = bits (lo32 v) f.lo f.width)
      ∧ (∀ f : Fld, (∀ g ∈ fieldsAt a, f.key ≠ g.key) → getF t f = getF s f) := by
  refine ⟨_, regWrite_second _ (isPair_of_isOen ho) ha, ?_⟩
  unfold pairComplement
  rw [hv, pairDone_oen _ ho (by simp)]
  have ht := takePair_oen (lo32 v) { s with stage := s.stage.erase a } ho
  refine ⟨by simp, by rw [ht.rest], fun f hf => ?_, fun f hf => ?_⟩
  · exact (ht.written (f, _) (List.mem_map_of_mem hf)).trans (bits_mod_width _ _ _)
  · refine ht.others f fun p hp => ?_
    obtain ⟨g, hg, rfl⟩ := List.mem_map.1 hp
    exact hf g hg

/-- The complement of FAB_CPO that matches. -/
theorem regWrite_cpo {v : Nat} {s : State} (hv : s.stage.get 0x20040110 (regWordRaw s 0x20040110) = lo32 v) :
    regWrite 0x20040114 (not32 v) s = (true, if running s then
        putF FAB_TL_STATUS_CPO_REJ 1 { s with stage := s.stage.erase 0x20040110 }
      else putF FAB_CPO_CPO_NS v { s with stage := s.stage.erase 0x20040110 }) := by
  have hw := regWrite_second (a := 0x20040110) (not32 v) (s := s) rfl rfl
  unfold pairComplement at hw
  rw [hv, pairDone_cpo _ (by simp), takePair_cpo, bits_lo32_cpo] at hw
  rw [hw, ← putF_mod FAB_CPO_CPO_NS v]
  rfl

/-- Settles O26, by the two writes of a pair (`regWrite_first`, `regWrite_second`) and what a completed pair does (`pairDone`). -/
theorem pairedRegisters : Obligations.PairedRegisters := by
  refine ⟨fun a v s hp ha => ?_, fun _ _ _ => regWrite_mismatch, fun _ _ _ => regWrite_oen_match, fun v s hr hv => ?_,
    fun v s hr hv => ?_⟩
  · rw [regWrite_first v hp ha, stageWord_lo32]
  · refine ⟨_, regWrite_cpo hv, ?_⟩
    rw [hr]
    exact OnlyFields.putF _ FAB_CPO_CPO_NS v
  · refine ⟨_, regWrite_cpo hv, ?_⟩
    rw [hr]
    exact OnlyFields.putF _ FAB_TL_STATUS_CPO_REJ 1

end Sys2Proof.Machine

/-! ## Register requests (R9, R43, R128, R321, R355) -/

namespace Sys2Proof.Machine

/-! ### A write request of the Birrek -/

/-- The Birrek's write of a register, carried out on a state: taken, or refused for its place (SIZE), for want of a register
(DECODE) or by the register itself (TARGET). -/
def birrekWrite (a v : Nat) (u : State) : State :=
  if a % 4 ≠ 0 then respond 1 0 4 [] (vsrLog 4 true 1 0 a u)
  else if regExists a = false then respond 1 0 1 [] (vsrLog 1 true 1 0 a u)
  else if (regWrite a v u).1 = true then respond 1 0 0 [] (regWrite a v u).2
  else respond 1 0 3 [] (vsrLog 3 true 1 0 a (regWrite a v u).2)

/-- The state once the register target has been granted to the Birrek (R320). -/
def grantBirrek (s : State) : State := { s with vsr := { s.vsr with lastGrant := s.vsr.lastGrant.put 2 1 } }

theorem perform_regWrite {a v : Nat} {s : State} (ht : busTarget s a = .reg a) :
    perform ⟨1, 0, true, a, 4, 1, [v], false⟩ s = birrekWrite a v (grantBirrek s) := by
  unfold birrekWrite grantBirrek
  simp [perform, ht, tgtKind, reaches, refuseReq]

/-- A request that its master can issue and that nothing holds back is carried out at once. -/
theorem request_now {r : VsrReq} {s : State} (hi : canIssue s r.master = true) (hh : heldBack s s.vsr.held r = false) :
    request r s = releaseAll (perform r s) := by
  simp [request, hi, hh]

theorem exec_registerWrite {a v : Nat} {s : State} (hi : canIssue s 1 = true)
    (hh : heldBack s s.vsr.held ⟨1, 0, true, a, 4, 1, [lo32 v], false⟩ = false) (ht : busTarget s a = .reg a) :
    exec (.registerWrite a v) s = .next (settleAll (releaseAll (birrekWrite a (lo32 v) (grantBirrek s)))) := by
  rw [← perform_regWrite ht, ← request_now hi hh]
  rfl

theorem exec_cpoWrite {v c : Nat} {s : State} (hr : s.pwr.rest = false) (hb : s.ctl.boot ≠ .inReset) :
    exec (.cpoWrite v c) s = .next (pairDone 0x20040110 (lo32 v) c s) := by
  show execCpoWrite v c s = _
  simp [execCpoWrite, hr, hb]

/-! ### Reads of the course index -/

/-- A read of LIFE_CI by a seat: the low word, and the high one captured. -/
theorem lifeRead_ci (n : Nat) (s : State) :
    lifeRead (some n) 4 s = (lo32 (if running s then localCi s else 0),
      putF LIFE_CI_HI_CI_HI (hi32 (if running s then localCi s else 0)) s) := rfl

theorem exec_lifeCiRead (n : Nat) {s : State} (hr : s.pwr.rest = false) :
    ∃ t, exec (.lifeCiRead n) s = .next t
      ∧ t.out = ⟨.response, [0, 0, 0, if running s then lo32 (localCi s) else 0]⟩ :: s.out
      ∧ OnlyFields s { t with out := s.out } [(LIFE_CI_HI_CI_HI, if running s then hi32 (localCi s) else 0)] := by
  refine ⟨_, show execLifeCiRead n s = _ from if_neg (by simp [hr]), ?_⟩
  rw [lifeRead_ci, apply_ite lo32, apply_ite hi32]
  exact ⟨rfl, OnlyFields.putF s _ _⟩

/-- The registers that a read of FAB_CI_LO captures. -/
def ciCapture (hi cyc : Nat) : List (Fld × Nat) := [(FAB_CI_HI_CI_HI, hi), (FAB_CYC_CYCLE, cyc)]

/-- A read of FAB_CI_LO: the low word, and the high one and the course cycle captured. -/
theorem regRead_ciLo (s : State) : regRead 0x20040100 s = (lo32 (if running s then s.fab.ci else 0),
    putFs (ciCapture (hi32 (if running s then s.fab.ci else 0)) (if running s then courseCycle s else 0)) s) := rfl

/-- The word of a register with one field at bit 0. -/
theorem readWord_single {s : State} {f : Fld} (ht : (f.typ != .wo) = true) (hl : f.lo = 0) :
    readWord s [f] = getF s f % 2 ^ f.width := by
  simp [readWord, composeFields, ht, hl]

/-- A read of FAB_CI_HI: what was captured, while the fabric runs. -/
theorem regRead_ciHi (s : State) :
    regRead 0x20040104 s = if running s then (getF s FAB_CI_HI_CI_HI % 2 ^ 32, s) else (0, s) := by
  have hw : readWord s (fieldsAt 0x20040104) = getF s FAB_CI_HI_CI_HI % 2 ^ 32 := readWord_single rfl rfl
  simp only [regRead, absentReg, hw]
  cases running s <;> simp

/-- A read of FAB_CYC: what was captured, while the fabric runs. -/
theorem regRead_cyc (s : State) :
    regRead 0x20040108 s = if running s then (getF s FAB_CYC_CYCLE % 2 ^ 15, s) else (0, s) := by
  have hw : readWord s (fieldsAt 0x20040108) = getF s FAB_CYC_CYCLE % 2 ^ 15 := readWord_single rfl rfl
  simp only [regRead, absentReg, hw]
  cases running s <;> simp

/-- A course has at most 24,576 cycles, so its cycles fit the 15 bits of FAB_CYC. -/
theorem courseLen_le (s : State) : courseLen s ≤ 24576 := by
  unfold courseLen
  split
  · exact Nat.le_refl _
  · exact Nat.div_le_self _ _

theorem courseCycle_lt (s : State) : courseCycle s < 2 ^ 15 := by
  have h : courseCycle s ≤ courseLen s - 1 := Nat.min_le_left _ _
  have := courseLen_le s
  omega

theorem hi32_lt (v : Nat) : hi32 v < 2 ^ 32 := Nat.mod_lt _ (by decide)

/-- The two words of a CI make the CI. -/
theorem hi32_lo32 {n : Nat} (h : n < 2 ^ 64) : hi32 n * 2 ^ 32 + lo32 n = n := by
  unfold hi32 lo32
  omega

/-- A field whose key is not among those of the listed fields reads as before. -/
theorem OnlyFields.getF_of_notMem {s t : State} {l : List (Fld × Nat)} (h : OnlyFields s t l) {f : Fld}
    (hk : f.key ∉ l.map (fun p => p.1.key)) : getF t f = getF s f :=
  h.others f fun _ hp e => hk (e ▸ List.mem_map_of_mem hp)

theorem ciCapture_only (hi cyc : Nat) (s : State) : OnlyFields s (putFs (ciCapture hi cyc) s) (ciCapture hi cyc) :=
  OnlyFields.putFs (show [FAB_CI_HI_CI_HI.key, FAB_CYC_CYCLE.key].Nodup by decide)

/-- After a capture on a running fabric, FAB_CI_HI and FAB_CYC answer what was captured. -/
theorem regRead_of_ciCapture {s t : State} {hi cyc : Nat} (hf : OnlyFields s t (ciCapture hi cyc)) (hr : running s = true)
    (hhi : hi < 2 ^ 32) (hcyc : cyc < 2 ^ 15) : regRead 0x20040104 t = (hi, t) ∧ regRead 0x20040108 t = (cyc, t) := by
  have hrt : running t = true := by
    have h : getF t FAB_TL_STATUS_RUNNING = getF s FAB_TL_STATUS_RUNNING :=
      hf.getF_of_notMem (show FAB_TL_STATUS_RUNNING.key ∉ [FAB_CI_HI_CI_HI.key, FAB_CYC_CYCLE.key] by decide)
    unfold running flag at hr ⊢
    rw [h, hr]
  have h1 : getF t FAB_CI_HI_CI_HI = hi % 2 ^ 32 := hf.written (FAB_CI_HI_CI_HI, hi) (by simp [ciCapture])
  have h2 : getF t FAB_CYC_CYCLE = cyc % 2 ^ 15 := hf.written (FAB_CYC_CYCLE, cyc) (by simp [ciCapture])
  constructor
  · rw [regRead_ciHi, if_pos hrt, h1, Nat.mod_mod, Nat.mod_eq_of_lt hhi]
  · rw [regRead_cyc, if_pos hrt, h2, Nat.mod_mod, Nat.mod_eq_of_lt hcyc]

/-- What a read of FAB_CI_LO captures, FAB_CI_HI and FAB_CYC then answer: one coherent CI. -/
theorem regRead_ci_coherent {s : State} (hr : running s = true) (hc : s.fab.ci < 2 ^ 64) :
    ∃ t, regRead 0x20040100 s = (lo32 s.fab.ci, t)
      ∧ OnlyFields s t [(FAB_CI_HI_CI_HI, hi32 s.fab.ci), (FAB_CYC_CYCLE, courseCycle s)]
      ∧ regRead 0x20040104 t = (hi32 s.fab.ci, t) ∧ regRead 0x20040108 t = (courseCycle s, t)
      ∧ (regRead 0x20040104 t).1 * 2 ^ 32 + lo32 s.fab.ci = s.fab.ci := by
  have hf := ciCapture_only (hi32 s.fab.ci) (courseCycle s) s
  have hlo : regRead 0x20040100 s = (lo32 s.fab.ci, putFs (ciCapture (hi32 s.fab.ci) (courseCycle s)) s) := by
    simp only [regRead_ciLo, hr, if_true]
  obtain ⟨hhi, hcy⟩ := regRead_of_ciCapture hf hr (hi32_lt _) (courseCycle_lt s)
  exact ⟨_, hlo, hf, hhi, hcy, by rw [hhi, hi32_lo32 hc]⟩

/-! ### The obligation -/

/-- Settles O25: a write request is performed at once (`exec_registerWrite`), and the reads of the CI answer what FAB_CI_LO
captures (`regRead_ci_coherent`). -/
theorem registerRequests : Obligations.RegisterRequests := by
  refine ⟨fun _ _ _ hi hh ht => ⟨_, rfl, exec_registerWrite hi hh ht⟩, fun _ _ _ => exec_cpoWrite, fun _ => rfl,
    fun n _ _ => exec_lifeCiRead n, fun _ => rfl, fun _ => rfl, fun _ => rfl, fun _ => rfl, fun _ => regRead_ci_coherent,
    fun s hr => ?_, fun s hr => ?_⟩
  · rw [regRead_ciHi, regRead_cyc, if_pos hr, if_pos hr]
    exact ⟨rfl, rfl⟩
  · rw [regRead_ciLo, regRead_ciHi, regRead_cyc, hr]
    exact ⟨rfl, rfl, rfl⟩

end Sys2Proof.Machine

/-! ## The audio side across a CTL reset (R18 to R20, R325, R398) -/

namespace Sys2Proof

/-- A filter that keeps a key's every pair leaves the read of the key alone. -/
theorem AMap.get_filter_of_kept {α : Type} (m : AMap α) {q : Nat × α → Bool} {k : Nat} (d : α) (h : ∀ v, q (k, v) = true) :
    AMap.get (m.filter q) k d = m.get k d := by
  induction m with
  | nil => rfl
  | cons p t ih =>
    obtain ⟨i, v⟩ := p
    by_cases hi : i = k
    · subst hi
      simp [h v, AMap.get]
    · by_cases hq : q (i, v) = true
      · simp [hq, AMap.get, hi, ih]
      · simp [hq, AMap.get, hi, ih]

end Sys2Proof

namespace Sys2Proof.Machine

/-! ### What belongs to the control domain -/

/-- The register fields in which a CTL reset reports itself (R325, R387), and those of the loop whose STEER it ends (R252). -/
def ctlReports : List Fld :=
  [SYS_RESET_CAUSE_CTL_COUNT, SYS_RESET_CAUSE_SOFTWARE, SYS_RESET_CAUSE_LOCKSTEP, SYS_RESET_CAUSE_WATCHDOG,
    SYS_BOOT_STAT_TRIAL_FAIL, LIFE_STATUS_CTL_RESTART, LIFE_STATUS_BOOT_ROM, CLK_DPLL_CTL_STEER, CLK_STAT_STEER,
    IRQ_STAT_RESTART 0, IRQ_STAT_RESTART 1, IRQ_STAT_RESTART 2, IRQ_STAT_RESTART 3]

/-- Whether the field under a key of the register store is cleared by a reset of these classes. -/
def clearedBy (cs : List Cleared) (k : Nat) : Bool :=
  match fieldOfKey k with
  | some f => cs.contains f.cls
  | none => false

/-- Whether a CTL reset may change the field under a key of the register store. -/
def ctlKey (k : Nat) : Bool := (ctlReports.map Fld.key).contains k || clearedBy [.ppc, .ppcs] k

/-- The state without the registers and without the parts a CTL reset works on: the control processor, the Voussoir, the seats,
the firmware, the MACs' rings and MDIO queues, the pair's restate, the staging, and what has left the block (R19, R313, R325). -/
def sansControl (s : State) : State :=
  { s with
    regs := [], ctl := State.reset.ctl, vsr := State.reset.vsr, seats := [], fw := State.reset.fw, net := State.reset.net
    pair := Pair.init, out := []
    fab := { s.fab with session := none, staged := none, shadow := Cal.init }
    rte := { s.rte with stale := [] }
    dyn := { s.dyn with shadow := [] } }

/-- From `s` to `t` nothing changes but those parts and the control domain's register fields. -/
structure ControlOnly (s t : State) : Prop where
  rest : sansControl t = sansControl s
  regs : ∀ f : Fld, ctlKey f.key = false → getF t f = getF s f

theorem ControlOnly.refl (s : State) : ControlOnly s s := ⟨rfl, fun _ _ => rfl⟩

theorem ControlOnly.trans {s t u : State} (h : ControlOnly s t) (h' : ControlOnly t u) : ControlOnly s u :=
  ⟨h'.rest.trans h.rest, fun f hf => (h'.regs f hf).trans (h.regs f hf)⟩

theorem ControlOnly.of_regs {s t : State} (h : sansControl t = sansControl s) (hr : t.regs = s.regs) : ControlOnly s t :=
  ⟨h, fun _ _ => by unfold getF; rw [hr]⟩

/-! ### The operations of the reset -/

theorem ctlKey_of_mem {f : Fld} (h : f ∈ ctlReports) : ctlKey f.key = true := by
  unfold ctlKey
  rw [List.contains_iff_mem.2 (List.mem_map_of_mem h), Bool.true_or]

theorem putF_controlOnly {f : Fld} (h : f ∈ ctlReports) (v : Nat) (s : State) : ControlOnly s (putF f v s) where
  rest := rfl
  regs g hg := getF_putF_ne v s fun e => by simp [e, ctlKey_of_mem h] at hg

theorem putFs_controlOnly {l : List (Fld × Nat)} (h : ∀ p ∈ l, p.1 ∈ ctlReports) (s : State) : ControlOnly s (putFs l s) := by
  unfold putFs
  induction l generalizing s with
  | nil => exact .refl s
  | cons p l ih =>
    exact (putF_controlOnly (h p List.mem_cons_self) p.2 s).trans (ih (fun q hq => h q (List.mem_cons_of_mem p hq)) _)

theorem ControlOnly.setIf {s t : State} (h : ControlOnly s t) {f : Fld} (hf : f ∈ ctlReports) (b : Bool) :
    ControlOnly s (setIf f b t) := by
  unfold Machine.setIf
  split
  · exact h.trans (putF_controlOnly hf 1 t)
  · exact h

theorem irq_controlOnly {n bit : Nat} (h : irqField n bit ∈ ctlReports) (s : State) : ControlOnly s (irq n bit s) := by
  unfold irq
  dsimp only
  split
  · exact .refl s
  · have hp := putF_controlOnly h 1 s
    split
    · exact hp.trans (.of_regs rfl rfl)
    · exact hp

/-- RESTART raised to every seat (R341). -/
theorem irqAll_restart_controlOnly (s : State) : ControlOnly s (irqAll 3 s) :=
  have h (n : Nat) (hn : IRQ_STAT_RESTART n ∈ ctlReports) (x : State) : ControlOnly x (irq n 3 x) :=
    irq_controlOnly (bit := 3) hn x
  (((h 0 (by simp [ctlReports]) _).trans (h 1 (by simp [ctlReports]) _)).trans (h 2 (by simp [ctlReports]) _)).trans
    (h 3 (by simp [ctlReports]) _)

theorem masterReset_controlOnly (m : Nat) (s : State) : ControlOnly s (masterReset m s) := by
  unfold masterReset
  dsimp only
  split
  · exact .of_regs rfl rfl
  · exact .of_regs rfl rfl

theorem masterResets_controlOnly (l : List Nat) (s : State) : ControlOnly s (l.foldl (fun s m => masterReset m s) s) := by
  induction l generalizing s with
  | nil => exact .refl s
  | cons m l ih => exact (masterReset_controlOnly m s).trans (ih _)

theorem restartPass_controlOnly (s : State) : ControlOnly s (restartPass s) := by
  unfold restartPass
  split
  · exact .refl s
  · exact .of_regs rfl rfl

theorem setSteer_false_controlOnly (s : State) : ControlOnly s (setSteer false s) := by
  unfold setSteer
  rw [Bool.false_and, Bool.false_and, if_neg Bool.false_ne_true]
  split
  · exact putF_controlOnly (by simp [ctlReports]) 0 s
  · exact .refl s

/-- Discarded staging is none of the running image, its calendars or the active sets (R19). -/
theorem dropStaging_controlOnly (s : State) : ControlOnly s (dropStaging s) := by
  refine .of_regs ?_ rfl
  unfold dropStaging
  dsimp only
  split
  · rfl
  · rfl

/-- A field that a reset does not clear reads as before it. -/
theorem get_clearClasses {cs : List Cleared} {k : Nat} (m : AMap Nat) (d : Nat) (h : clearedBy cs k = false) :
    (clearClasses cs m).get k d = m.get k d := by
  refine m.get_filter_of_kept d fun _ => ?_
  unfold clearedBy at h
  dsimp only
  split
  · next f hf => simpa [hf] using h
  · rfl

/-- The registers cleared by class, and any change to what only the control domain holds. -/
theorem ControlOnly.of_cleared {s t : State} (h : sansControl t = sansControl s)
    (hr : t.regs = clearClasses [.ppc, .ppcs] s.regs) : ControlOnly s t where
  rest := h
  regs f hf := by
    unfold getF
    rw [hr, get_clearClasses _ _ (Bool.or_eq_false_iff.1 hf).2]

/-! ### The reset -/

theorem ctlReset_controlOnly (s : State) : ControlOnly s (ctlReset s) := by
  unfold ctlReset
  extract_lets -merge -useContext s1 fail s2 s3 q1 ctl q2 fw q3 net q4 s4
  have h1 : ControlOnly s s1 := masterResets_controlOnly _ s
  clear_value s1
  have h2 : ControlOnly s1 s2 := by
    refine .setIf (.setIf (.setIf (.setIf (putF_controlOnly ?_ _ s1) ?_ _) ?_ _) ?_ _) ?_ _
    all_goals simp [ctlReports]
  clear_value s2
  have h4 : ControlOnly s2 s4 := .of_cleared rfl rfl
  clear_value s4
  have h5 : ControlOnly s4 (putFs [(LIFE_STATUS_CTL_RESTART, 1), (LIFE_STATUS_BOOT_ROM, 1), (CLK_DPLL_CTL_STEER, 0)] s4) :=
    putFs_controlOnly (by simp [ctlReports]) s4
  exact h1.trans <| h2.trans <| h4.trans <| h5.trans <| (dropStaging_controlOnly _).trans <|
    (setSteer_false_controlOnly _).trans <| (restartPass_controlOnly _).trans (irqAll_restart_controlOnly _)

/-- A CTL reset, requested or not, changes the control domain only (R18 to R20). -/
theorem exec_ctlReset_controlOnly (s : State) : ∃ t, exec .ctlReset s = .next t ∧ ControlOnly s t := by
  change ∃ t, execCtlReset s = .next t ∧ ControlOnly s t
  unfold execCtlReset
  split
  · exact ⟨_, rfl, ctlReset_controlOnly s⟩
  · exact ⟨_, rfl, .refl s⟩

/-! ### The obligation -/

theorem ControlOnly.running {s t : State} (h : ControlOnly s t) : running t = running s := by
  unfold Machine.running flag
  rw [h.regs FAB_TL_STATUS_RUNNING (by decide)]

/-- No tile's state is among the control domain's fields. -/
theorem ctlKey_tileState : ∀ n < 32, ctlKey (TILE_STAT_STATE n).key = false := by decide

/-- Settles O22: a CTL reset changes the control domain only (`exec_ctlReset_controlOnly`), and none of the parts and fields
named is of it. -/
theorem ctlResetKeepsAudio : Obligations.CtlResetKeepsAudio := by
  intro s
  obtain ⟨t, ht, h⟩ := exec_ctlReset_controlOnly s
  have keep {α : Type} (part : State → α) : part (sansControl t) = part (sansControl s) := congrArg part h.rest
  exact ⟨t, ht, keep (·.fab.ci), keep (·.fab.cycle), keep (·.fab.img), keep (·.fab.cal), keep (·.fab.sched), keep (·.fab.gain),
    keep (·.fab.ramp), keep (·.plane), keep (·.tiles), keep (·.rte.act), keep (·.rte.snd), keep (·.dyn.act), keep (·.port),
    keep (·.str), keep (·.amp), keep (·.ptp), keep (·.ptpIo), keep (·.ash), keep (·.live), keep (·.oenDark), h.running,
    h.regs PAIR_STAT_CLAIM (by decide), h.regs PAIR_STAT_STATE (by decide), h.regs LIFE_STATUS_DARK (by decide),
    h.regs LIFE_STATUS_MUTED (by decide), fun n hn => h.regs (TILE_STAT_STATE n) (ctlKey_tileState n hn)⟩

end Sys2Proof.Machine

/-! ## Answers and arming (R33 to R35, R307, R343, R360, R361, R363) -/

namespace Sys2Proof.Machine

/-! ### Relayed commands and their answers -/

theorem relayed_of_not_relays (f : State → FwM) {s : State} (h : relays s = false) : relayed f s = f s := by
  simp [relayed, h]

theorem relayed_of_error {f : State → FwM} {s : State} {e : FwErr} (h : f s = .error e) : relayed f s = .error e := by
  simp [relayed, h]

/-- On a claimant that relays, a command whose writes are STAGE events runs with them queued (R307). -/
theorem relayed_of_relays {f : State → FwM} {s t : State} {ws : List Nat} (hr : relays s = true) (h : f s = .ok (t, ws)) :
    relayed f s = if stageEvents s t = [] then .ok (t, ws) else f (noted (stageEvents s t) s) := by
  simp [relayed, hr, h, noted]

theorem answer_of_error {f : State → FwM} {s : State} {e : FwErr} (op : Nat) (r : FwReq) (h : relayed f s = .error e) :
    answer op r f s = postReply r.seat (op * 65536 + r.seq % 256 * 256 + b2n r.asap) e.status e.words s := by
  simp [answer, h]

theorem answer_of_ok {f : State → FwM} {s t : State} {ws : List Nat} (op : Nat) (r : FwReq) (h : relayed f s = .ok (t, ws)) :
    answer op r f s = postReply r.seat (op * 65536 + r.seq % 256 * 256 + b2n r.asap) eOk ws t := by
  simp [answer, h]

/-! ### Frames and the mailbox memory -/

theorem frameWords_length (w0 len n st : Nat) (p : List Nat) : (frameWords w0 len n st p).length = p.length + 5 := by
  simp [frameWords]

theorem frameWords_header (w0 len n st : Nat) (p : List Nat) : (frameWords w0 len n st p).take 4
    = [w0, not32 w0, len + 65536 * n + 16777216 * st, not32 (len + 65536 * n + 16777216 * st)] := by
  simp [frameWords]

theorem frameWords_payload (w0 len n st : Nat) (p : List Nat) : ((frameWords w0 len n st p).drop 4).take p.length = p := by
  simp [frameWords]

/-- The last word of a frame is the CRC of those before it (R343). -/
theorem frameWords_crc (w0 len n st : Nat) (p : List Nat) : (frameWords w0 len n st p).getD (p.length + 4) 0
    = crc32c (wordsToBytes ((frameWords w0 len n st p).take (p.length + 4))) := by
  simp [frameWords]

/-- A word of the mailbox memory after words have been written from word `a` on. -/
theorem putMail_get (ws : List Nat) (a j : Nat) (x : Seat) : (putMail (4 * a) ws x).mail.get j 0
    = if a ≤ j ∧ j < a + ws.length then lo32 (ws.getD (j - a) 0) else x.mail.get j 0 := by
  induction ws generalizing a x with
  | nil => exact (if_neg (by simp)).symm
  | cons w ws ih =>
    have ha : 4 * a / 4 = a := by omega
    rw [putMail, ← Nat.mul_succ, ih, ha, List.length_cons]
    by_cases hj : j = a
    · subst hj
      have hpast : ¬(j.succ ≤ j ∧ j < j.succ + ws.length) := by omega
      have hin : j ≤ j ∧ j < j + (ws.length + 1) := by omega
      rw [if_neg hpast, if_pos hin, AMap.get_set_self, Nat.sub_self, List.getD_cons_zero]
    · rw [AMap.get_set_ne _ _ _ _ hj]
      by_cases hw : a.succ ≤ j ∧ j < a.succ + ws.length
      · have hin : a ≤ j ∧ j < a + (ws.length + 1) := by omega
        have e : j - a = j - a.succ + 1 := by omega
        rw [if_pos hw, if_pos hin, e, List.getD_cons_succ]
      · have hout : ¬(a ≤ j ∧ j < a + (ws.length + 1)) := by omega
        rw [if_neg hw, if_neg hout]

/-! ### Interrupts -/

/-- From `s` to `t` at most the field `f` is written and something leaves the block. -/
structure Raised (f : Fld) (s t : State) : Prop where
  rest : t = { s with
    regs := t.regs
    out := t.out }
  regs : ∀ k d, k ≠ f.key → t.regs.get k d = s.regs.get k d

theorem Raised.emit (f : Fld) (k : OutKind) (d : List Nat) (s : State) : Raised f s (emit k d s) := ⟨rfl, fun _ _ _ => rfl⟩

theorem Raised.seatOf {f : Fld} {s t : State} (h : Raised f s t) (n : Nat) : seatOf t n = seatOf s n := by
  rw [h.rest]
  rfl

theorem Raised.getF {f g : Fld} {s t : State} (h : Raised f s t) (hk : g.key ≠ f.key) : getF t g = getF s g :=
  h.regs g.key g.reset hk

theorem putF_get_of_ne {f : Fld} {k : Nat} (v d : Nat) (s : State) (h : k ≠ f.key) :
    (putF f v s).regs.get k d = s.regs.get k d :=
  AMap.get_set_ne _ _ _ _ h

theorem irq_raised (n b : Nat) (s : State) : Raised (irqField n b) s (irq n b s) := by
  unfold irq
  dsimp only
  split
  · exact ⟨rfl, fun _ _ _ => rfl⟩
  · split
    · exact ⟨rfl, fun _ d hk => putF_get_of_ne 1 d s hk⟩
    · exact ⟨rfl, fun _ d hk => putF_get_of_ne 1 d s hk⟩

theorem irqField_width (n b : Nat) : (irqField n b).width = 1 := by
  unfold irqField
  split <;> rfl

theorem flag_irq (n b : Nat) (s : State) : flag (irq n b s) (irqField n b) = true := by
  have hp : flag (putF (irqField n b) 1 s) (irqField n b) = true := by
    unfold flag
    rw [getF_putF_self, irqField_width]
    rfl
  unfold irq
  dsimp only
  split
  case isTrue h => exact h
  case isFalse =>
    split
    · exact hp
    · exact hp

/-! ### Replies -/

/-- The words of a reply (R343, R360). -/
def replyWords (n w0 st : Nat) (p : List Nat) : List Nat := (frameWords w0 (4 * p.length) n st p).map lo32

/-- The fields in which a reply shows itself (R343). -/
def replyFields (n w0 : Nat) : List (Fld × Nat) :=
  [(DB_STAT_REPLY_READY n, 1), (DB_STAT_CMD_BUSY n, 0), (DB_STAT_LAST_SEQ n, bits w0 8 8)]

/-- The state with a reply in the reply area, before its seat is told. -/
def posted (n w0 st : Nat) (p : List Nat) (s : State) : State :=
  putFs (replyFields n w0) (updSeat n (putMail 0x1400 (replyWords n w0 st p)) s)

theorem posted_onlyFields (n w0 st : Nat) (p : List Nat) (s : State) : OnlyFields
    (updSeat n (putMail 0x1400 (replyWords n w0 st p)) s) (posted n w0 st p s) (replyFields n w0) := by
  refine .putFs ?_
  simp [replyFields, Fld.key, DB_STAT_REPLY_READY, DB_STAT_CMD_BUSY, DB_STAT_LAST_SEQ]

theorem posted_get {n w0 k : Nat} (st : Nat) (p : List Nat) (s : State) (d : Nat)
    (h : k ∉ [(DB_STAT_REPLY_READY n).key, (DB_STAT_CMD_BUSY n).key, (DB_STAT_LAST_SEQ n).key]) :
    (posted n w0 st p s).regs.get k d = s.regs.get k d := by
  simp only [List.mem_cons, List.not_mem_nil, or_false, not_or] at h
  obtain ⟨hready, hbusy, hseq⟩ := h
  exact (putF_get_of_ne _ d _ hseq).trans <| (putF_get_of_ne _ d _ hbusy).trans <| putF_get_of_ne _ d _ hready

theorem seatOf_posted (n w0 st : Nat) (p : List Nat) (s : State) (m : Nat) : seatOf (posted n w0 st p s) m
    = if m = n then putMail 0x1400 (replyWords n w0 st p) (seatOf s n) else seatOf s m := seatOf_updSeat n m _ s

theorem postReply_udp {n w0 st : Nat} {p : List Nat} {s : State} (h : getF s (HOST_BIND_IF n) = 3) : postReply n w0 st p s
    = emit .datagram (getF s (HOST_BIND_INDEX n) :: (seatOf s n).srcAddr :: (seatOf s n).srcPort :: replyWords n w0 st p)
        (posted n w0 st p s) := if_pos h

theorem postReply_irq {n w0 st : Nat} {p : List Nat} {s : State} (h : getF s (HOST_BIND_IF n) ≠ 3) :
    postReply n w0 st p s = irq n 0 (posted n w0 st p s) := if_neg h

/-- A reply in its place, its seat is told: nothing more happens. -/
theorem postReply_raised (n w0 st : Nat) (p : List Nat) (s : State) :
    Raised (IRQ_STAT_REPLY n) (posted n w0 st p s) (postReply n w0 st p s) := by
  by_cases h : getF s (HOST_BIND_IF n) = 3
  · rw [postReply_udp h]
    exact .emit _ _ _ _
  · rw [postReply_irq h]
    exact irq_raised n 0 _

/-- The fields in which a reply shows itself read what it puts there. -/
theorem getF_postReply {n w0 st : Nat} {p : List Nat} {s : State} {q : Fld × Nat} (h : q ∈ replyFields n w0) :
    getF (postReply n w0 st p s) q.1 = q.2 % 2 ^ q.1.width := by
  have hk : q.1.key ≠ (IRQ_STAT_REPLY n).key := by
    simp only [replyFields, List.mem_cons, List.not_mem_nil, or_false] at h
    obtain rfl | rfl | rfl := h
    all_goals
      simp only [Fld.key, DB_STAT_REPLY_READY, DB_STAT_CMD_BUSY, DB_STAT_LAST_SEQ, IRQ_STAT_REPLY]
      omega
  rw [(postReply_raised n w0 st p s).getF hk, (posted_onlyFields n w0 st p s).written q h]

theorem postReply_rest (n w0 st : Nat) (p : List Nat) (s : State) : postReply n w0 st p s = { s with
    regs := (postReply n w0 st p s).regs
    seats := (postReply n w0 st p s).seats
    out := (postReply n w0 st p s).out } := by
  have h := (postReply_raised n w0 st p s).rest
  rw [(posted_onlyFields n w0 st p s).rest] at h
  rw [h]
  rfl

theorem postReply_get {n w0 k : Nat} (st : Nat) (p : List Nat) (s : State) (d : Nat)
    (h : k ∉ [(DB_STAT_REPLY_READY n).key, (DB_STAT_CMD_BUSY n).key, (DB_STAT_LAST_SEQ n).key, (IRQ_STAT_REPLY n).key]) :
    (postReply n w0 st p s).regs.get k d = s.regs.get k d := by
  simp only [List.mem_cons, List.not_mem_nil, or_false, not_or] at h
  obtain ⟨hready, hbusy, hseq, hirq⟩ := h
  rw [(postReply_raised n w0 st p s).regs k d hirq, posted_get st p s d (by simp [hready, hbusy, hseq])]

theorem seatOf_postReply_self (n w0 st : Nat) (p : List Nat) (s : State) :
    seatOf (postReply n w0 st p s) n = putMail 0x1400 (replyWords n w0 st p) (seatOf s n) := by
  rw [(postReply_raised n w0 st p s).seatOf, seatOf_posted, if_pos rfl]

theorem seatOf_postReply_ne {n m : Nat} (w0 st : Nat) (p : List Nat) (s : State) (h : m ≠ n) :
    seatOf (postReply n w0 st p s) m = seatOf s m := by
  rw [(postReply_raised n w0 st p s).seatOf, seatOf_posted, if_neg h]

theorem replyWords_length (n w0 st : Nat) (p : List Nat) : (replyWords n w0 st p).length = p.length + 5 := by
  rw [replyWords, List.length_map, frameWords_length]

theorem lo32_replyWords_getD (n w0 st : Nat) (p : List Nat) (i : Nat) :
    lo32 ((replyWords n w0 st p).getD i 0) = lo32 ((frameWords w0 (4 * p.length) n st p).getD i 0) := by
  rw [List.getD_eq_getElem?_getD, List.getD_eq_getElem?_getD, replyWords, List.getElem?_map]
  cases (frameWords w0 (4 * p.length) n st p)[i]? with
  | none => rfl
  | some w => exact lo32_lo32 w

/-- A word of the mailbox memory after a reply: the reply stands in the reply area, from word 0x500 on (R343). -/
theorem postReply_mail_get (n w0 st : Nat) (p : List Nat) (s : State) (j : Nat) :
    (seatOf (postReply n w0 st p s) n).mail.get j 0 = if 0x500 ≤ j ∧ j < 0x500 + (p.length + 5) then
      lo32 ((frameWords w0 (4 * p.length) n st p).getD (j - 0x500) 0) else (seatOf s n).mail.get j 0 := by
  rw [seatOf_postReply_self, show 0x1400 = 4 * 0x500 from rfl, putMail_get, replyWords_length, lo32_replyWords_getD]

theorem postReply_mail_area (n w0 st : Nat) (p : List Nat) (s : State) (i : Nat) :
    (seatOf (postReply n w0 st p s) n).mail.get (0x500 + i) 0 = if i < p.length + 5 then
      lo32 ((frameWords w0 (4 * p.length) n st p).getD i 0) else (seatOf s n).mail.get (0x500 + i) 0 := by
  simp [postReply_mail_get]

theorem postReply_mail_below {n i : Nat} (w0 st : Nat) (p : List Nat) (s : State) (h : i < 0x500) :
    (seatOf (postReply n w0 st p s) n).mail.get i 0 = (seatOf s n).mail.get i 0 := by
  rw [postReply_mail_get, if_neg (by omega)]

theorem postReply_datagram {n w0 st : Nat} {p : List Nat} {s : State} (h : getF s (HOST_BIND_IF n) = 3) :
    (postReply n w0 st p s).out = ⟨.datagram, getF s (HOST_BIND_INDEX n) :: (seatOf s n).srcAddr :: (seatOf s n).srcPort ::
      (frameWords w0 (4 * p.length) n st p).map lo32⟩ :: s.out := by
  rw [postReply_udp h]
  rfl

theorem flag_postReply {n w0 st : Nat} {p : List Nat} {s : State} (h : getF s (HOST_BIND_IF n) ≠ 3) :
    flag (postReply n w0 st p s) (IRQ_STAT_REPLY n) = true := by
  rw [postReply_irq h]
  exact flag_irq n 0 _

/-! ### Arming -/

theorem need_fails {α : Type} (e : FwErr) (f : Unit → Except FwErr α) : (need false e >>= f) = .error e := rfl

theorem need_passes {α : Type} (e : FwErr) (f : Unit → Except FwErr α) : (need true e >>= f) = f () := rfl

/-- A full scheduler has no free entry (R34). -/
theorem freeEntry_of_full {s : State} (h : ∀ i, i < 64 → (s.fab.sched.find i).isSome = true) : freeEntry s = none := by
  unfold freeEntry
  simp only [List.find?_range_eq_none]
  intro i hi
  simp [h i hi]

/-- The free entry is the lowest (R34). -/
theorem freeEntry_of_lowest {s : State} {i : Nat} (hi : i < 64) (hf : s.fab.sched.find i = none)
    (hl : ∀ j, j < i → (s.fab.sched.find j).isSome = true) : freeEntry s = some i := by
  unfold freeEntry
  rw [List.find?_range_eq_some]
  refine ⟨by simp [hf], by simpa using hi, fun j hj => ?_⟩
  simp [hl j hj]

theorem inTime_late {s : State} {k t : Nat} (h : t < s.fab.ci + leadOf s k) (h0 : t ≠ 0) :
    inTime s k t = .error (err eLate) := by
  unfold inTime
  rw [decide_eq_false (by omega), need_fails, if_neg h0]

theorem inTime_range {s : State} {k t : Nat} (h : s.fab.ci + leadOf s k ≤ t) (hw : 2 ^ 31 ≤ t - s.fab.ci) :
    inTime s k t = .error (err eRange) := by
  unfold inTime
  rw [decide_eq_true h, need_passes, decide_eq_false (by omega)]
  rfl

theorem inTime_ok {s : State} {k t : Nat} (h : s.fab.ci + leadOf s k ≤ t) (hw : t - s.fab.ci < 2 ^ 31) :
    inTime s k t = .ok () := by
  unfold inTime
  rw [decide_eq_true h, need_passes, decide_eq_true (by omega)]
  rfl

/-- An entry as its command aims it (R33): the sender's, for the CI aimed at. -/
def aimedEntry (s : State) (r : FwReq) (e : Sched) : Sched := { e with
  ci := aimed s r e.kind e.ci
  seat := r.seat }

/-- The state with an entry in a place of the scheduler. -/
def withEntry (i : Nat) (x : Sched) (s : State) : State := { s with fab := { s.fab with sched := s.fab.sched.put i x } }

theorem arm_stopped {s : State} (r : FwReq) (e : Sched) (h : running s = false) : arm s r e = .error (err eState) := by
  unfold arm
  rw [h, need_fails]

theorem arm_conflict {s : State} {r : FwReq} {e : Sched} (hr : running s = true)
    (hc : schedConflict s (aimedEntry s r e) = true) : arm s r e = .error (err eState) := by
  unfold aimedEntry at hc
  unfold arm
  dsimp only
  rw [hr, need_passes, hc]
  rfl

theorem arm_full {s : State} {r : FwReq} {e : Sched} (hr : running s = true)
    (hc : schedConflict s (aimedEntry s r e) = false) (hf : freeEntry s = none) : arm s r e = .error (err eNospace) := by
  unfold aimedEntry at hc
  unfold arm
  dsimp only
  rw [hr, need_passes, hc, Bool.not_false, need_passes, hf]

/-- On a running fabric an entry without conflict goes into the free place, if it is in time. -/
theorem arm_free {s : State} {r : FwReq} {e : Sched} {i : Nat} (hr : running s = true)
    (hc : schedConflict s (aimedEntry s r e) = false) (hf : freeEntry s = some i) : arm s r e
      = (inTime s e.kind (aimedEntry s r e).ci >>= fun _ => .ok (i, (aimedEntry s r e).ci,
          queueEv ⟨2, i, [e.kind, lo32 (aimedEntry s r e).ci, hi32 (aimedEntry s r e).ci]⟩
            (withEntry i (aimedEntry s r e) s))) := by
  unfold aimedEntry at hc
  unfold arm
  dsimp only
  rw [hr, need_passes, hc, Bool.not_false, need_passes, hf]
  rfl

theorem queueEv_of_not_relays {s : State} (e : PairEv) (h : relays s = false) : queueEv e s = s := by
  simp [queueEv, h]

theorem queueEv_of_relays {s : State} (e : PairEv) (h : relays s = true) :
    queueEv e s = { s with pair := { s.pair with queue := s.pair.queue ++ [e] } } := by
  simp [queueEv, h]

theorem queueEv_fab (e : PairEv) (s : State) : (queueEv e s).fab = s.fab := by
  unfold queueEv
  split <;> rfl

theorem relays_withEntry (i : Nat) (x : Sched) (s : State) : relays (withEntry i x s) = relays s := rfl

/-- What the state of an armed entry is: the entry in its place and, on a claimant that relays, its ARM event queued (R307). -/
theorem armed_effect (s : State) (i : Nat) (x : Sched) (ev : PairEv) :
    (queueEv ev (withEntry i x s)).fab.sched = s.fab.sched.put i x
      ∧ (relays s = false → queueEv ev (withEntry i x s) = withEntry i x s)
      ∧ (relays s = true → (queueEv ev (withEntry i x s)).pair.queue = s.pair.queue ++ [ev]) := by
  refine ⟨by rw [queueEv_fab]; rfl, fun h => queueEv_of_not_relays ev h, fun h => ?_⟩
  rw [queueEv_of_relays ev ((relays_withEntry i x s).trans h)]
  rfl

theorem aimed_asap {s : State} {r : FwReq} {k t : Nat} (ha : r.asap = true) (h : t < s.fab.ci + leadOf s k) :
    aimed s r k t = s.fab.ci + leadOf s k := if_pos ⟨h, ha⟩

theorem aimed_named {s : State} {r : FwReq} {k t : Nat} (h : r.asap = false ∨ s.fab.ci + leadOf s k ≤ t) :
    aimed s r k t = t := by
  refine if_neg fun ⟨hlt, ha⟩ => ?_
  rcases h with h | h
  · simp [h] at ha
  · omega

/-- With no target and nothing to relay, a change is made at once (R363). -/
theorem optionalBatch_now {s : State} (r : FwReq) (cs : List BufChange) (now : State → State) (h : relays s = false) :
    optionalBatch s r 0 cs now = .ok (now s, [0xFF, 0, 0]) := by
  have hnow : (decide (0 = 0) && !relays s) = true := by rw [h]; rfl
  exact if_pos hnow

/-! ### The obligation -/

/-- Settles O56: what a relayed command and its answer are (`relayed_of_relays`, `answer_of_error`), what a reply changes
(`postReply_raised`: it is posted, then its seat told), the frame's words, and how an entry is armed in the free place
(`arm_free`, `armed_effect`). -/
theorem answersAndArming : Obligations.AnswersAndArming := by
  refine ⟨fun op r f s => ⟨fun _ => answer_of_error op r, fun _ _ => answer_of_ok op r, relayed_of_not_relays f,
      fun _ => relayed_of_error, fun _ _ => relayed_of_relays⟩, ?reply,
    fun w0 len n st p => ⟨frameWords_length w0 len n st p, frameWords_header w0 len n st p, frameWords_payload w0 len n st p,
      frameWords_crc w0 len n st p⟩, fun _ => arm_stopped, ?armed, fun _ _ _ _ => ⟨aimed_asap, aimed_named⟩,
    fun _ r cs now => optionalBatch_now r cs now⟩
  case reply =>
    rintro n w0 st p s t - rfl
    refine ⟨getF_postReply (q := (DB_STAT_REPLY_READY n, 1)) (by simp [replyFields]),
      getF_postReply (q := (DB_STAT_CMD_BUSY n, 0)) (by simp [replyFields]), ?_, postReply_rest n w0 st p s,
      fun _ d => postReply_get st p s d, fun _ => seatOf_postReply_ne w0 st p s, ?_, postReply_mail_area n w0 st p s,
      fun _ => postReply_mail_below w0 st p s, postReply_datagram, flag_postReply⟩
    · exact (getF_postReply (q := (DB_STAT_LAST_SEQ n, bits w0 8 8)) (by simp [replyFields])).trans (bits_mod_width w0 8 8)
    · rw [seatOf_postReply_self]
      exact putMail_seat _ _ _
  case armed =>
    intro s r e x hr hx
    obtain rfl : x = aimedEntry s r e := hx
    refine ⟨arm_conflict hr, fun hc hfull => arm_full hr hc (freeEntry_of_full hfull), fun i hc hi hfree hlow => ?_⟩
    rw [arm_free hr hc (freeEntry_of_lowest hi hfree hlow)]
    refine ⟨fun hlate h0 => ?_, fun hlead hfar => ?_, fun hlead hnear => ?_⟩
    · rw [inTime_late hlate h0]
      rfl
    · rw [inTime_range hlead hfar]
      rfl
    · rw [inTime_ok hlead hnear]
      exact ⟨_, rfl, armed_effect s i _ _⟩

end Sys2Proof.Machine

/-! ## Tile arithmetic (R49, R50, R51, R58, R59, R79, R80) -/

namespace Sys2Proof

/-! ### Reads after a list of writes -/

theorem AMap.get_foldl_set_of_not_mem {l : List (Nat × Nat)} {k : Nat} (h : k ∉ l.map Prod.fst) (m : AMap Nat) :
    (l.foldl (fun r p => r.set p.1 p.2 0) m).get k 0 = m.get k 0 := by
  induction l generalizing m with
  | nil => rfl
  | cons q l ih =>
    rw [List.map_cons, List.mem_cons, not_or] at h
    obtain ⟨hq, hl⟩ := h
    rw [List.foldl_cons, ih hl]
    exact m.get_set_ne q.2 0 0 hq

theorem AMap.get_foldl_set_of_mem {l : List (Nat × Nat)} {k v : Nat} (hn : (l.map Prod.fst).Nodup) (h : (k, v) ∈ l)
    (m : AMap Nat) : (l.foldl (fun r p => r.set p.1 p.2 0) m).get k 0 = v := by
  induction l generalizing m with
  | nil => simp at h
  | cons q l ih =>
    rw [List.map_cons, List.nodup_cons] at hn
    obtain ⟨hq, hl⟩ := hn
    rw [List.foldl_cons]
    rcases List.mem_cons.mp h with rfl | h
    · exact (AMap.get_foldl_set_of_not_mem hq _).trans (m.get_set_self k v 0)
    · exact ih hl h _

end Sys2Proof

namespace Sys2Proof.Machine

/-! ### Rounding (R51, R80) -/

theorem rne_zero (i : Int) : rne 0 i = i := rfl

/-- Rounding by at least one bit: the quotient goes up past half a step, and at half a step when it is odd. -/
theorem rne_succ (k : Nat) (i : Int) : rne (k + 1) i =
    if 2 ^ k < i % 2 ^ (k + 1) ∨ i % 2 ^ (k + 1) = 2 ^ k ∧ i / 2 ^ (k + 1) % 2 = 1 then i / 2 ^ (k + 1) + 1
    else i / 2 ^ (k + 1) := by
  have half : (2 : Int) ^ (k + 1) / 2 = 2 ^ k := by rw [Int.pow_succ']; omega
  simp [rne, half]

theorem rne_nearest_even (k : Nat) (i : Int) : (rne k i * 2 ^ k - i).natAbs * 2 ≤ 2 ^ k
    ∧ ((rne k i * 2 ^ k - i).natAbs * 2 = 2 ^ k → 0 < k → rne k i % 2 = 0) := by
  cases k with
  | zero => simp [rne_zero]
  | succ k =>
    have hstep : (2 : Nat) ^ (k + 1) = 2 * 2 ^ k := Nat.pow_succ'
    have hstepI : (2 : Int) ^ (k + 1) = 2 * 2 ^ k := Int.pow_succ' 2 k
    have hcast : ((2 ^ k : Nat) : Int) = 2 ^ k := Int.natCast_pow 2 k
    have hpos : 0 < 2 ^ k := Nat.two_pow_pos k
    have hdiv := Int.emod_add_mul_ediv i (2 ^ (k + 1))
    have hr0 := Int.emod_nonneg i (b := 2 ^ (k + 1)) (by omega)
    have hr1 := Int.emod_lt_of_pos i (b := 2 ^ (k + 1)) (by omega)
    rw [rne_succ]
    generalize i / 2 ^ (k + 1) = q at *
    generalize i % 2 ^ (k + 1) = r at *
    split
    case isTrue up =>
      have hdist : (q + 1) * 2 ^ (k + 1) - i = 2 ^ (k + 1) - r := by
        rw [Int.add_mul, Int.one_mul, Int.mul_comm]
        omega
      rw [hdist]
      omega
    case isFalse down =>
      have hdist : q * 2 ^ (k + 1) - i = -r := by
        rw [Int.mul_comm]
        omega
      rw [hdist]
      omega

/-! ### Saturation (R50, R80) -/

/-- A number of the w-bit range reads back from its w bits as itself. -/
theorem toS_ofS {w : Nat} {i : Int} (hw : 0 < w) (hlo : -(2 ^ (w - 1)) ≤ i) (hhi : i < 2 ^ (w - 1)) :
    toS w (ofS w i) = i := by
  obtain ⟨n, rfl⟩ : ∃ n, w = n + 1 := ⟨w - 1, by omega⟩
  rw [Nat.add_sub_cancel] at hlo hhi
  have hcast : ((2 ^ n : Nat) : Int) = 2 ^ n := Int.natCast_pow 2 n
  have hword : (2 : Int) ^ (n + 1) = 2 * 2 ^ n := Int.pow_succ' 2 n
  have hwordN : (2 : Nat) ^ (n + 1) = 2 * 2 ^ n := Nat.pow_succ'
  have hofS : ofS (n + 1) i % 2 ^ (n + 1) = ofS (n + 1) i := by
    refine Nat.mod_eq_of_lt ?_
    have := Int.emod_lt_of_pos i (b := 2 ^ (n + 1)) (by omega)
    unfold ofS
    omega
  have hval : (ofS (n + 1) i : Int) = if 0 ≤ i then i else i + 2 ^ (n + 1) := by
    have hnn : 0 ≤ i % (2 : Int) ^ (n + 1) := Int.emod_nonneg i (by omega)
    rw [ofS, Int.toNat_of_nonneg hnn]
    split
    · exact Int.emod_eq_of_lt ‹_› (by omega)
    · rw [← Int.add_emod_right]
      exact Int.emod_eq_of_lt (by omega) (by omega)
  rw [toS, hofS, Nat.add_sub_cancel, hword]
  rw [hword] at hval
  split at hval <;> split <;> omega

theorem clampI_eq_max_min {lo hi : Int} (h : lo ≤ hi) (i : Int) : clampI lo hi i = max lo (min hi i) := by
  unfold clampI
  split
  · omega
  · split <;> omega

theorem toS_ofS_satS32 (i : Int) : toS 32 (ofS 32 (satS32 i)) = max (-(2 ^ 31)) (min (2 ^ 31 - 1) i) := by
  have hsat : satS32 i = max (-(2 ^ 31)) (min (2 ^ 31 - 1) i) := clampI_eq_max_min (by decide) i
  rw [hsat]
  exact toS_ofS (by decide) (by omega) (by omega)

theorem toS_ofS_satAcc (i : Int) : toS 72 (ofS 72 (satAcc i)) = max (-(2 ^ 71)) (min (2 ^ 71 - 1) i) := by
  have hsat : satAcc i = max (-(2 ^ 71)) (min (2 ^ 71 - 1) i) := clampI_eq_max_min (by decide) i
  rw [hsat]
  exact toS_ofS (by decide) (by omega) (by omega)

theorem overS32_eq (i : Int) : overS32 i = (decide (i < -(2 ^ 31)) || decide (2 ^ 31 ≤ i)) := rfl

theorem overAcc_eq (i : Int) : overAcc i = (decide (i < -(2 ^ 71)) || decide (2 ^ 71 ≤ i)) := rfl

/-! ### What the V slot leaves on its way (R79) -/

theorem vSlot_vadd (t : Tile) (now : Nat) {w : Nat} (h : opOf w = 0x01) :
    vSlot t now w = laneSat now w (fun i => vLane t (fA w) i + vLane t (fB w) i) := by
  simp [vSlot, h]

theorem vSlot_mac (t : Tile) (now : Nat) {w : Nat} (h : opOf w = 0x18) : vSlot t now w = macRes t now w (fA w) := by
  simp [vSlot, h]

theorem laneSat_reads (now w : Nat) (f : Nat → Int) : (laneSat now w f).pend.map (fun p => (p.key, toS 32 p.val))
    = lanes.map (fun i => (kV (fD w) i, max (-(2 ^ 31)) (min (2 ^ 31 - 1) (f i)))) := by
  rw [laneSat, List.map_map]
  refine List.map_congr_left fun i _ => ?_
  exact congrArg (Prod.mk _) (toS_ofS_satS32 (f i))

theorem laneSat_sat (now w : Nat) (f : Nat → Int) : (laneSat now w f).sat
    = (lanes.filter (fun i => decide (f i < -(2 ^ 31)) || decide (2 ^ 31 ≤ f i))).length := rfl

theorem macRes_reads (t : Tile) (now w x : Nat) : (macRes t now w x).pend.map (fun p => (p.key, toS 72 p.val))
    = lanes.map (fun i => (kA (fAcc w) i,
        max (-(2 ^ 71)) (min (2 ^ 71 - 1) (macBase t now w i + product t w (vLane t x i) i)))) := by
  rw [macRes, List.map_map]
  refine List.map_congr_left fun i _ => ?_
  exact congrArg (Prod.mk _) (toS_ofS_satAcc _)

/-! ### Renormalised and moved pointers (R58, R59) -/

theorem renorm_zero (b p : Nat) : renorm b 0 p = p := rfl

theorem ofS_cast (w : Nat) (i : Int) : (ofS w i : Int) = i % 2 ^ w :=
  Int.toNat_of_nonneg (Int.emod_nonneg i (Int.pow_ne_zero (by decide)))

theorem renorm_cast {b l p : Nat} (hl : 0 < l) (hbuf : b + l ≤ 2 ^ 24) :
    (renorm b l p : Int) = b + ((p : Int) - b) % l := by
  have hlo := Int.emod_nonneg ((p : Int) - b) (b := l) (by omega)
  have hhi := Int.emod_lt_of_pos ((p : Int) - b) (b := l) (by omega)
  rw [renorm, if_neg (by omega), ofS_cast]
  exact Int.emod_eq_of_lt (by omega) (by omega)

theorem renorm_inside {b l p : Nat} (hl : 0 < l) (hbuf : b + l ≤ 2 ^ 24) :
    b ≤ renorm b l p ∧ renorm b l p < b + l ∧ ((renorm b l p : Int) - p) % l = 0 := by
  have hcast := renorm_cast (p := p) hl hbuf
  have hlo := Int.emod_nonneg ((p : Int) - b) (b := l) (by omega)
  have hhi := Int.emod_lt_of_pos ((p : Int) - b) (b := l) (by omega)
  refine ⟨by omega, by omega, ?_⟩
  have hoff : (renorm b l p : Int) - p = ((p : Int) - b) % l - ((p : Int) - b) := by omega
  rw [hoff]
  exact Int.emod_eq_zero_of_dvd Int.dvd_emod_sub_self

theorem moveBase_offset (b b' p : Nat) :
    ((moveBase b b' p : Int) - b') % 2 ^ 24 = ((p : Int) - b) % 2 ^ 24 ∧ moveBase b b' p < 2 ^ 24 := by
  have hcast : (moveBase b b' p : Int) = ((p : Int) + (b' - b)) % 2 ^ 24 := ofS_cast 24 _
  omega

/-! ### SETL and SETB in a tile (R58, R59) -/

theorem tReg_setRegs_of_not_mem {l : List (Nat × Nat)} {k : Nat} (h : k ∉ l.map Prod.fst) (t : Tile) :
    tReg (setRegs l t) k = tReg t k := AMap.get_foldl_set_of_not_mem h t.regs

theorem tReg_setRegs_of_mem {l : List (Nat × Nat)} {k v : Nat} (hn : (l.map Prod.fst).Nodup) (h : (k, v) ∈ l) (t : Tile) :
    tReg (setRegs l t) k = v := AMap.get_foldl_set_of_mem hn h t.regs

theorem mem_boundTo {t : Tile} {l p : Nat} : p ∈ boundTo t l ↔ p < 16 ∧ tReg t (kBind p) = l := by
  simp [boundTo]

theorem kP_inj {p q : Nat} : kP p = kP q ↔ p = q := by
  unfold kP
  omega

/-- What SETL and SETB write: register k of a pair, and f of each pointer bound to the pair. -/
def pairWrites (t : Tile) (l k v : Nat) (f : Nat → Nat) : List (Nat × Nat) :=
  (k, v) :: (boundTo t l).map (fun p => (kP p, f p))

theorem pairWrites_keys (t : Tile) (l k v : Nat) (f : Nat → Nat) :
    (pairWrites t l k v f).map Prod.fst = k :: (boundTo t l).map kP := by
  simp [pairWrites, Function.comp_def]

/-- A pair's register and its pointers are written once each. -/
theorem pairWrites_keys_nodup (t : Tile) (l v : Nat) {k : Nat} (f : Nat → Nat) (hk : ∀ p, p < 16 → kP p ≠ k) :
    ((pairWrites t l k v f).map Prod.fst).Nodup := by
  rw [pairWrites_keys, List.nodup_cons]
  refine ⟨fun hm => ?_, ?_⟩
  · obtain ⟨p, hp, rfl⟩ := List.mem_map.mp hm
    exact hk p (mem_boundTo.mp hp).1 rfl
  · have hbound : (boundTo t l).Nodup := List.Pairwise.filter _ List.nodup_range
    exact List.Pairwise.map kP (fun _ _ hne heq => hne (kP_inj.mp heq)) hbound

theorem tReg_pairWrites (t : Tile) (l v : Nat) {k : Nat} (f : Nat → Nat) (hk : ∀ p, p < 16 → kP p ≠ k) :
    tReg (setRegs (pairWrites t l k v f) t) k = v
    ∧ ∀ p, p < 16 → tReg (setRegs (pairWrites t l k v f) t) (kP p)
        = if tReg t (kBind p) = l then f p else tReg t (kP p) := by
  have hn := pairWrites_keys_nodup t l v f hk
  refine ⟨tReg_setRegs_of_mem hn List.mem_cons_self t, fun p hp => ?_⟩
  split
  case isTrue hbound =>
    exact tReg_setRegs_of_mem hn (List.mem_cons_of_mem _ (List.mem_map.mpr ⟨p, mem_boundTo.mpr ⟨hp, hbound⟩, rfl⟩)) t
  case isFalse hfree =>
    refine tReg_setRegs_of_not_mem (fun hm => ?_) t
    rw [pairWrites_keys] at hm
    rcases List.mem_cons.mp hm with hm | hm
    · exact hk p hp hm
    · obtain ⟨q, hq, heq⟩ := List.mem_map.mp hm
      obtain rfl := kP_inj.mp heq
      exact hfree (mem_boundTo.mp hq).2

theorem kP_ne_kL {p l : Nat} (hp : p < 16) : kP p ≠ kL l := by
  unfold kP kL
  omega

theorem kP_ne_kB {p b : Nat} (hp : p < 16) : kP p ≠ kB b := by
  unfold kP kB
  omega

theorem applyLen_some (t : Tile) (l v : Nat) : applyLen (some (l, v)) t
    = setRegs (pairWrites t l (kL l) v (fun p => renorm (tReg t (kB l)) v (tReg t (kP p)))) t := rfl

theorem applyBase_some (t : Tile) (b v : Nat) : applyBase (some (b, v)) t
    = setRegs (pairWrites t b (kB b) v (fun p => moveBase (tReg t (kB b)) v (tReg t (kP p)))) t := rfl

/-! ### What the C slot writes (R89) -/

/-- A register write outside the B and L registers: below them (V, A, S, P, M) or above (Z, G, bindings). -/
def OutsidePairs (p : Nat × Nat) : Prop := p.1 < kB 0 ∨ kZ 0 ≤ p.1

theorem OutsidePairs.ne {p : Nat × Nat} (h : OutsidePairs p) {l : Nat} (hl : l < 16) : p.1 ≠ kL l ∧ p.1 ≠ kB l := by
  unfold OutsidePairs kB kZ at h
  unfold kL kB
  omega

theorem outsidePairs_kS {r : Nat} (h : r < 16) (v : Nat) : OutsidePairs (kS r, v) := by
  simp only [OutsidePairs, kS, kB]; omega

theorem outsidePairs_kP {r : Nat} (h : r < 16) (v : Nat) : OutsidePairs (kP r, v) := by
  simp only [OutsidePairs, kP, kB]; omega

theorem outsidePairs_kM {r : Nat} (h : r < 16) (v : Nat) : OutsidePairs (kM r, v) := by
  simp only [OutsidePairs, kM, kB]; omega

theorem outsidePairs_kZ (r v : Nat) : OutsidePairs (kZ r, v) := by
  simp only [OutsidePairs, kZ]; omega

theorem outsidePairs_kG (r v : Nat) : OutsidePairs (kG r, v) := by
  simp only [OutsidePairs, kG, kZ]; omega

theorem outsidePairs_kBind (r v : Nat) : OutsidePairs (kBind r, v) := by
  simp only [OutsidePairs, kBind, kZ]; omega

/-- What a C operation other than SETB and SETL leaves alone: the base, the length and the B and L registers. -/
structure KeepsPairs (r : CRes) : Prop where
  len : r.len = none
  base : r.base = none
  regs : ∀ p ∈ r.regs, OutsidePairs p

theorem keepsPairs_silent (rep : Option Rep) (skip : Option (Nat × Nat)) (endc clamp : Bool) (causes : List Nat) :
    KeepsPairs ⟨[], none, none, rep, skip, endc, clamp, causes⟩ := ⟨rfl, rfl, by simp⟩

theorem keepsPairs_write {p : Nat × Nat} (h : OutsidePairs p) (rep : Option Rep) (skip : Option (Nat × Nat))
    (endc clamp : Bool) (causes : List Nat) : KeepsPairs ⟨[p], none, none, rep, skip, endc, clamp, causes⟩ :=
  ⟨rfl, rfl, by simpa using h⟩

theorem startRep_keepsPairs (t : Tile) (z n len idle : Nat) (clamp : Bool) : KeepsPairs (startRep t z n len idle clamp) := by
  have hz : ∀ v, OutsidePairs (kZ z, v) := outsidePairs_kZ z
  unfold startRep
  split
  · exact keepsPairs_write (hz 0) _ _ _ _ _
  · split
    · exact keepsPairs_write (hz 0) _ _ _ _ _
    · exact keepsPairs_write (hz n) _ _ _ _ _

theorem bits_four_lt (w lo : Nat) : bits w lo 4 < 16 := Nat.mod_lt _ (by decide)

/-- XMOV writes an S, a P or an M register, or nothing. -/
theorem xmov_keepsPairs (t : Tile) {w : Nat} (h : opOf w = 0x0B) : KeepsPairs (cSlot t w) := by
  simp only [cSlot, h]
  split
  · exact keepsPairs_write (outsidePairs_kS (bits_four_lt w 19) _) _ _ _ _ _
  · exact keepsPairs_write (outsidePairs_kP (bits_four_lt w 19) _) _ _ _ _ _
  · exact keepsPairs_write (outsidePairs_kM (bits_four_lt w 19) _) _ _ _ _ _
  · exact keepsPairs_silent _ _ _ _ _

/-- A C operation leaves the pairs alone, or is SETB in one of its forms, or SETL in one of its. -/
theorem cSlot_cases (t : Tile) (w : Nat) : KeepsPairs (cSlot t w)
    ∨ ((opOf w = 0x06 ∨ opOf w = 0x08) ∧ ∃ b, cSlot t w = { CRes.none with base := b })
    ∨ ((opOf w = 0x07 ∨ opOf w = 0x09) ∧ ∃ l, cSlot t w = { CRes.none with len := l }) := by
  have hd : fC w < 16 := bits_four_lt w 22
  by_cases hx : opOf w = 0x0B
  · exact .inl (xmov_keepsPairs t hx)
  unfold cSlot
  dsimp only
  split
  case h_1 => exact .inl (keepsPairs_silent _ _ _ _ _)
  case h_2 => exact .inl (startRep_keepsPairs _ _ _ _ _ _)
  case h_3 => exact .inl (startRep_keepsPairs _ _ _ _ _ _)
  case h_4 => exact .inl (keepsPairs_write (outsidePairs_kP hd _) _ _ _ _ _)
  case h_5 => exact .inl (keepsPairs_write (outsidePairs_kM hd _) _ _ _ _ _)
  case h_6 h => exact .inr (.inl ⟨.inl h, _, rfl⟩)
  case h_7 h => exact .inr (.inr ⟨.inl h, _, rfl⟩)
  case h_8 h => exact .inr (.inl ⟨.inr h, _, rfl⟩)
  case h_9 h => exact .inr (.inr ⟨.inr h, _, rfl⟩)
  case h_10 => exact .inl (keepsPairs_write (outsidePairs_kBind _ _) _ _ _ _ _)
  case h_11 h => exact absurd h hx
  case h_12 => exact .inl (keepsPairs_write (outsidePairs_kP hd _) _ _ _ _ _)
  case h_18 => exact .inl (keepsPairs_write (outsidePairs_kG _ _) _ _ _ _ _)
  case h_19 => exact .inl (keepsPairs_silent _ _ _ _ _)
  all_goals exact .inl (keepsPairs_write (outsidePairs_kS hd _) _ _ _ _ _)

theorem cSlot_pairs (t : Tile) (w : Nat) : ((cSlot t w).len ≠ none → opOf w = 0x07 ∨ opOf w = 0x09)
    ∧ ((cSlot t w).base ≠ none → opOf w = 0x06 ∨ opOf w = 0x08)
    ∧ ∀ p ∈ (cSlot t w).regs, ∀ l, l < 16 → p.1 ≠ kL l ∧ p.1 ≠ kB l := by
  obtain ⟨hlen, hbase, hregs⟩ | ⟨hop, b, hb⟩ | ⟨hop, l, hl⟩ := cSlot_cases t w
  · exact ⟨absurd hlen, absurd hbase, fun p hp _ => (hregs p hp).ne⟩
  · rw [hb]
    exact ⟨absurd rfl, fun _ => hop, by simp [CRes.none]⟩
  · rw [hl]
    exact ⟨fun _ => hop, absurd rfl, by simp [CRes.none]⟩

/-! ### The obligation -/

/-- Settles O30: rounding (`rne_nearest_even`), the lanes of a saturated sum (`laneSat_reads`) and of an accumulation
(`macRes_reads`), the renormalised and the moved pointer (`renorm_inside`, `moveBase_offset`), their writes in a tile
(`tReg_pairWrites`), and what else the C slot writes (`cSlot_pairs`). -/
theorem tileArithmetic : Obligations.TileArithmetic := by
  refine ⟨rne_nearest_even, fun t now w h => ?vadd, fun t now w h => ?mac, fun _ _ _ => renorm_inside, renorm_zero,
    fun b b' p _ => moveBase_offset b b' p, fun t l v _ => ?setl, fun t l v _ => ?setb, cSlot_pairs⟩
  case vadd =>
    rw [vSlot_vadd t now h]
    exact ⟨laneSat_reads now w _, laneSat_sat now w _, rfl⟩
  case mac =>
    rw [vSlot_mac t now h]
    exact ⟨macRes_reads t now w _, rfl, rfl⟩
  case setl =>
    rw [applyLen_some]
    exact tReg_pairWrites t l v _ fun _ => kP_ne_kL
  case setb =>
    rw [applyBase_some]
    exact tReg_pairWrites t l v _ fun _ => kP_ne_kB

end Sys2Proof.Machine

/-! ## Mailboxes, leases and the end of a piece (R130, R340 to R345, R347, R349) -/

namespace Sys2Proof

/-! ### The pairs that a keyed list in rising order lists -/

theorem AMap.mem_of_find {α : Type} {m : AMap α} {k : Nat} {v : α} (h : m.find k = some v) : (k, v) ∈ m := by
  induction m with
  | nil => cases h
  | cons p t ih =>
    obtain ⟨i, w⟩ := p
    by_cases hi : i = k
    · simp_all [AMap.find]
    · exact List.mem_cons_of_mem _ (ih (by simpa [AMap.find, hi] using h))

/-- In rising order a key is listed once, so a read finds every listed pair. -/
theorem AMap.find_of_mem {α : Type} {m : AMap α} (hm : m.Pairwise (fun a b => a.1 < b.1)) {k : Nat} {v : α}
    (h : (k, v) ∈ m) : m.find k = some v := by
  induction m with
  | nil => cases h
  | cons p t ih =>
    obtain ⟨hp, ht⟩ := List.pairwise_cons.1 hm
    rcases List.mem_cons.1 h with rfl | h
    · simp [AMap.find]
    · have hne : p.1 ≠ k := Nat.ne_of_lt (hp _ h)
      simpa [AMap.find, hne] using ih ht h

end Sys2Proof

namespace Sys2Proof.Machine

/-! ### Posting (R343) -/

/-- What a post writes where no command is outstanding. -/
def postFields (n : Nat) : List (Fld × Nat) := [(DB_STAT_CMD_BUSY n, 1), (DB_STAT_REPLY_READY n, 0)]

theorem postFields_only (n : Nat) (s : State) : OnlyFields s (putFs (postFields n) s) (postFields n) := by
  refine .putFs ?_
  simp [postFields, Fld.key, DB_STAT_CMD_BUSY, DB_STAT_REPLY_READY]

theorem postHw_of_idle {n : Nat} {s : State} (h : flag s (DB_STAT_CMD_BUSY n) = false) :
    postHw n s = putFs (postFields n) s := if_neg (by simp [h])

theorem postHw_of_busy {n : Nat} {s : State} (h : flag s (DB_STAT_CMD_BUSY n) = true) :
    postHw n s = putF (DB_STAT_MB_OVERRUN n) 1 s := if_pos h

/-- A field of the doorbell status is none of the lifeline's. -/
theorem fwUp_key_ne (n lo : Nat) (h : lo < 32) : LIFE_STATUS_FW_UP.key ≠ (0x20100104 + 16384 * n) * 32 + lo := by
  simp only [Fld.key, LIFE_STATUS_FW_UP]
  omega

theorem OnlyFields.fwUp {s t : State} {l : List (Fld × Nat)} (h : OnlyFields s t l)
    (hk : ∀ p ∈ l, LIFE_STATUS_FW_UP.key ≠ p.1.key) : fwUp t = fwUp s := by
  unfold Machine.fwUp flag
  rw [h.others _ hk, congrArg State.ctl h.rest]

theorem fwUp_postHw (n : Nat) (s : State) : fwUp (postHw n s) = fwUp s := by
  cases hb : flag s (DB_STAT_CMD_BUSY n) with
  | true =>
    rw [postHw_of_busy hb]
    refine (OnlyFields.putF s _ 1).fwUp fun p hp => ?_
    rw [List.mem_singleton.1 hp]
    exact fwUp_key_ne n 2 (by decide)
  | false =>
    rw [postHw_of_idle hb]
    refine (postFields_only n s).fwUp fun p hp => ?_
    simp only [postFields, List.mem_cons, List.not_mem_nil, or_false] at hp
    obtain rfl | rfl := hp
    · exact fwUp_key_ne n 0 (by decide)
    · exact fwUp_key_ne n 1 (by decide)

theorem postHw_vsr (n : Nat) (s : State) : (postHw n s).vsr = s.vsr := by
  unfold postHw
  split
  · exact putF_vsr _ _ _
  · exact putFs_vsr _ _

/-! ### What follows a post (R320, R346) -/

/-- With no request held back, none can be released. -/
theorem releaseAll_of_none_held {s : State} (h : s.vsr.held = []) : releaseAll s = s := by
  simp [releaseAll, h, releaseHeld, nextGrant, grantable]

theorem servePosted_of_down (k : Nat) {s : State} (h : fwUp s = false) : servePosted k s = s := by
  cases k with
  | zero => rfl
  | succ k => simp [servePosted, h]

/-- An only element of a list for which a condition holds is what a search finds. -/
theorem find?_of_only {l : List Nat} {p : Nat → Bool} {n : Nat} (hn : n ∈ l) (hp : p n = true)
    (hu : ∀ m ∈ l, p m = true → m = n) : l.find? p = some n := by
  cases hf : l.find? p with
  | none => exact absurd hp (List.find?_eq_none.1 hf n hn)
  | some m => rw [hu m (List.mem_of_find?_eq_some hf) (List.find?_some hf)]

/-- The four seats, whichever turn it is. -/
theorem mem_turns (t n : Nat) : n ∈ (List.range 4).map (fun i => (t + 1 + i) % 4) ↔ n < 4 := by
  simp only [List.mem_map, List.mem_range]
  constructor
  · rintro ⟨i, -, rfl⟩
    omega
  · intro hn
    exact ⟨(n + 3 * (t + 1)) % 4, by omega, by omega⟩

/-- The firmware serves the one command that is posted. -/
theorem servePosted_of_only (k : Nat) {n : Nat} {s : State} (up : fwUp s = true) (hn : n < 4)
    (hb : flag s (DB_STAT_CMD_BUSY n) = true) (hu : ∀ m, m < 4 → flag s (DB_STAT_CMD_BUSY m) = true → m = n) :
    servePosted (k + 1) s = servePosted k (serveFrame n (commandFrame s n) { s with fw := { s.fw with turn := n } }) := by
  have hf := find?_of_only (p := fun n => flag s (DB_STAT_CMD_BUSY n)) ((mem_turns s.fw.turn n).2 hn) hb
    fun m hm => hu m ((mem_turns s.fw.turn m).1 hm)
  simp only [servePosted, up, hf, Bool.not_true, Bool.false_eq_true, if_false]

theorem exec_mailboxPost {n : Nat} {s : State} (hv : viewReach s n = true) (hh : s.vsr.held = []) :
    exec (.mailboxPost n) s = .next (servePosted 4 (postHw n s)) := by
  change execMailboxPost n s = _
  rw [execMailboxPost, if_pos hv, settleAll, releaseAll_of_none_held ((congrArg Vsr.held (postHw_vsr n s)).trans hh)]

theorem exec_mailboxPost_of_down {n : Nat} {s : State} (hv : viewReach s n = true) (hd : fwUp s = false)
    (hh : s.vsr.held = []) : exec (.mailboxPost n) s = .next (postHw n s) := by
  rw [exec_mailboxPost hv hh, servePosted_of_down 4 ((fwUp_postHw n s).trans hd)]

theorem viewReach_seat {n : Nat} {s : State} (h : viewReach s n = true) : n < 4 := by
  unfold viewReach at h
  simp only [Bool.and_eq_true, decide_eq_true_eq] at h
  exact h.1.2

/-- A post to a block where nothing waits: the firmware serves that command first. -/
theorem exec_mailboxPost_of_up {n : Nat} {s : State} (hv : viewReach s n = true) (up : fwUp s = true) (hq : Quiescent s) :
    exec (.mailboxPost n) s = .next (servePosted 3 (serveFrame n (commandFrame s n)
      { putFs (postFields n) s with fw := { s.fw with turn := n } })) := by
  obtain ⟨hh, idle⟩ := hq
  have hn := viewReach_seat hv
  have hf := postFields_only n s
  have hup := (fwUp_postHw n s).trans up
  rw [exec_mailboxPost hv hh]
  rw [postHw_of_idle (idle n hn)] at hup ⊢
  have hb : getF (putFs (postFields n) s) (DB_STAT_CMD_BUSY n) = 1 :=
    hf.written (DB_STAT_CMD_BUSY n, 1) (by simp [postFields])
  rw [servePosted_of_only 3 hup hn (by simp [flag, hb]) fun m hm hbm => ?only]
  · rfl
  case only =>
    refine Decidable.byContradiction fun hne => ?_
    have he : getF (putFs (postFields n) s) (DB_STAT_CMD_BUSY m) = getF s (DB_STAT_CMD_BUSY m) := by
      refine hf.getF_of_notMem ?_
      simp only [postFields, Fld.key, DB_STAT_CMD_BUSY, DB_STAT_REPLY_READY, List.map_cons, List.map_nil, List.mem_cons,
        List.not_mem_nil, or_false]
      omega
    rw [flag, he] at hbm
    exact absurd hbm (by simpa [flag] using idle m hm)

/-! ### The checks of a command frame (R344) -/

/-- A command's opcode. -/
def cmdOp (ws : List Nat) : Nat := bits (ws.getD 0 0) 16 16

/-- A command's sequence number. -/
def cmdSeq (ws : List Nat) : Nat := bits (ws.getD 0 0) 8 8

/-- A command's flags. -/
def cmdFlags (ws : List Nat) : Nat := bits (ws.getD 0 0) 0 8

/-- The bytes of a command's payload. -/
def cmdLen (ws : List Nat) : Nat := bits (ws.getD 2 0) 0 16

/-- The words of a command's payload. -/
def cmdCount (ws : List Nat) : Nat := (cmdLen ws + 3) / 4

/-- The CRC that a command carries. -/
def cmdCrc (ws : List Nat) : Nat := ws.getD (4 + cmdCount ws) 0

/-- A command refused before it is carried out: its opcode and sequence number, an empty error payload (R360). -/
def refuseCmd (n : Nat) (ws : List Nat) (st : Nat) (s : State) : State :=
  postReply n (65536 * cmdOp ws + 256 * cmdSeq ws) st [0xFF00, 0] s

/-- A frame whose two paired header words are right. -/
structure Paired (ws : List Nat) : Prop where
  word0 : ws.getD 1 0 = not32 (ws.getD 0 0)
  word2 : ws.getD 3 0 = not32 (ws.getD 2 0)

/-- A frame whose header, length and CRC are right. -/
structure Intact (ws : List Nat) : Prop extends Paired ws where
  len : cmdLen ws ≤ 1000
  crc : crc32c (wordsToBytes (ws.take (4 + cmdCount ws))) = cmdCrc ws

/-- An intact frame that names its seat. -/
structure Addressed (n : Nat) (ws : List Nat) : Prop extends Intact ws where
  seat : bits (ws.getD 2 0) 16 4 = n

/-- A command's row carried out, and noted for the sequence check (R345, R346). -/
def serveRow (n : Nat) (ws : List Nat) (s : State) : State :=
  match fwRows.find (cmdOp ws) with
  | none => refuseCmd n ws eRange s
  | some f =>
    let r : FwReq := ⟨n, cmdSeq ws, cmdFlags ws == 1, (ws.drop 4).take (cmdCount ws)⟩
    let f := if cmdLen ws % 4 = 0 then f else fun _ _ => .error (err eRange)
    let s1 := noteExecuted n (cmdOp ws) (cmdSeq ws) (cmdCrc ws) (attached s n) (carryOut (cmdOp ws) f r s)
    if cmdOp ws = 0x0108 ∧ replyStatus s1 n = eOk then bindAfter r s1 else s1

/-- What is checked of a frame that names its seat: its sequence number, the seat's lease, the flags. -/
def serveAddressed (n : Nat) (ws : List Nat) (s : State) : State :=
  if !(cmdOp ws == 0x0100) && !(openOp (cmdOp ws) && !attached s n) && (seatOf s n).expect.isSome
      && (seatOf s n).expect != some (cmdSeq ws) then
    if (seatOf s n).lastExec = some (cmdSeq ws, cmdCrc ws) then repeatReply n s else refuseCmd n ws eState s
  else if !(cmdOp ws == 0x0100) && !openOp (cmdOp ws) && !attached s n then refuseCmd n ws eLease s
  else if 1 < cmdFlags ws then refuseCmd n ws eRange s
  else serveRow n ws s

section
variable {n : Nat} {ws : List Nat}

theorem serveFrame_unpaired (s : State) (h : ws.getD 1 0 ≠ not32 (ws.getD 0 0) ∨ ws.getD 3 0 ≠ not32 (ws.getD 2 0)) :
    serveFrame n ws s = postReply n 0x40 ePairword [0xFF00, 0] s := if_pos h

/-- A frame with paired header words: its length, its CRC and its seat are checked next. -/
theorem serveFrame_paired (s : State) (h : Paired ws) : serveFrame n ws s =
    if 1000 < cmdLen ws then refuseCmd n ws eRange s
    else if crc32c (wordsToBytes (ws.take (4 + cmdCount ws))) ≠ cmdCrc ws then refuseCmd n ws eCrc s
    else if bits (ws.getD 2 0) 16 4 ≠ n then refuseCmd n ws eAuth s
    else serveAddressed n ws s := if_neg (not_or.2 ⟨Decidable.not_not.2 h.word0, Decidable.not_not.2 h.word2⟩)

theorem serveFrame_long (s : State) (h : Paired ws) (hl : 1000 < cmdLen ws) : serveFrame n ws s = refuseCmd n ws eRange s := by
  rw [serveFrame_paired s h, if_pos hl]

theorem serveFrame_crc (s : State) (h : Paired ws) (hl : cmdLen ws ≤ 1000)
    (hc : crc32c (wordsToBytes (ws.take (4 + cmdCount ws))) ≠ cmdCrc ws) : serveFrame n ws s = refuseCmd n ws eCrc s := by
  rw [serveFrame_paired s h, if_neg (Nat.not_lt.2 hl), if_pos hc]

theorem serveFrame_intact (s : State) (h : Intact ws) : serveFrame n ws s =
    if bits (ws.getD 2 0) 16 4 ≠ n then refuseCmd n ws eAuth s else serveAddressed n ws s := by
  rw [serveFrame_paired s h.toPaired, if_neg (Nat.not_lt.2 h.len), if_neg (Decidable.not_not.2 h.crc)]

theorem serveFrame_auth (s : State) (h : Intact ws) (hs : bits (ws.getD 2 0) 16 4 ≠ n) :
    serveFrame n ws s = refuseCmd n ws eAuth s := by
  rw [serveFrame_intact s h, if_pos hs]

theorem serveFrame_addressed (s : State) (h : Addressed n ws) : serveFrame n ws s = serveAddressed n ws s := by
  rw [serveFrame_intact s h.toIntact, if_neg (Decidable.not_not.2 h.seat)]

variable {s : State}

/-- A sequence number that is not the expected one: the last command again is answered again, any other refused (R345). -/
theorem serveAddressed_outOfSequence (ha : attached s n = true) (ho : cmdOp ws ≠ 0x0100) {e : Nat}
    (he : (seatOf s n).expect = some e) (hne : e ≠ cmdSeq ws) : serveAddressed n ws s =
      if (seatOf s n).lastExec = some (cmdSeq ws, cmdCrc ws) then repeatReply n s else refuseCmd n ws eState s :=
  if_pos (by simp [ha, ho, he, hne])

/-- An attached seat's command in its sequence, or an attach, comes to its flags and its row. -/
theorem serveAddressed_inSequence (ha : attached s n = true)
    (hs : cmdOp ws = 0x0100 ∨ (seatOf s n).expect = none ∨ (seatOf s n).expect = some (cmdSeq ws)) :
    serveAddressed n ws s = if 1 < cmdFlags ws then refuseCmd n ws eRange s else serveRow n ws s := by
  have hseq : ¬ (!(cmdOp ws == 0x0100) && !(openOp (cmdOp ws) && !attached s n) && (seatOf s n).expect.isSome
      && (seatOf s n).expect != some (cmdSeq ws)) = true := by
    rcases hs with h | h | h <;> simp [h]
  have hlease : ¬ (!(cmdOp ws == 0x0100) && !openOp (cmdOp ws) && !attached s n) = true := by simp [ha]
  rw [serveAddressed, if_neg hseq, if_neg hlease]

theorem serveAddressed_flags (ha : attached s n = true)
    (hs : cmdOp ws = 0x0100 ∨ (seatOf s n).expect = none ∨ (seatOf s n).expect = some (cmdSeq ws)) (hf : 1 < cmdFlags ws) :
    serveAddressed n ws s = refuseCmd n ws eRange s := by
  rw [serveAddressed_inSequence ha hs, if_pos hf]

theorem serveAddressed_row (ha : attached s n = true)
    (hs : cmdOp ws = 0x0100 ∨ (seatOf s n).expect = none ∨ (seatOf s n).expect = some (cmdSeq ws)) (hf : cmdFlags ws ≤ 1) :
    serveAddressed n ws s = serveRow n ws s := by
  rw [serveAddressed_inSequence ha hs, if_neg (Nat.not_lt.2 hf)]

/-- A command of a detached seat that is neither an attach nor one it may give (R345). -/
theorem serveAddressed_detached (ha : attached s n = false) (ho : cmdOp ws ≠ 0x0100) (h0 : cmdOp ws ≠ 0) (h2 : cmdOp ws ≠ 2)
    (he : (seatOf s n).expect = none) : serveAddressed n ws s = refuseCmd n ws eLease s := by
  have hopen : openOp (cmdOp ws) = false := by simp [openOp, h0, h2]
  rw [serveAddressed, if_neg (by simp [he]), if_pos (by simp [ha, ho, hopen])]

theorem serveRow_unknown (h : fwRows.find (cmdOp ws) = none) : serveRow n ws s = refuseCmd n ws eRange s := by
  simp only [serveRow, h]

/-- A row whose command is no binding and no unlock is carried out, answered and noted. -/
theorem serveRow_known {f : FwReq → State → FwM} (hf : fwRows.find (cmdOp ws) = some f) (hl : cmdLen ws % 4 = 0)
    (hb : cmdOp ws ≠ 0x0108) (hd : cmdOp ws ≠ 0x0E05) (ha : attached s n = true) :
    serveRow n ws s = noteExecuted n (cmdOp ws) (cmdSeq ws) (cmdCrc ws) true
      (answer (cmdOp ws) ⟨n, cmdSeq ws, cmdFlags ws == 1, (ws.drop 4).take (cmdCount ws)⟩
        (f ⟨n, cmdSeq ws, cmdFlags ws == 1, (ws.drop 4).take (cmdCount ws)⟩) s) := by
  simp only [serveRow, hf, hl, hb, hd, ha, carryOut, if_true, if_false, false_and]

end

/-! ### The event tail (R347) -/

theorem getF_irq_of_ne {f : Fld} {n b : Nat} (s : State) (h : f.key ≠ (irqField n b).key) : getF (irq n b s) f = getF s f :=
  (irq_raised n b s).getF h

/-- An event written into the ring of a seat that is not a UDP seat: the entry, then HEAD, then EVENT. -/
theorem writeRing_mapped {n : Nat} {s : State} (e : Ev) (h : getF s (HOST_BIND_IF n) ≠ 3) : writeRing n e s
    = irq n 1 (wrap (EV_HEAD_HEAD n) 1 (updSeat n (putMail (0x2000 + 64 * (getF s (EV_HEAD_HEAD n) % 64))
        (ringEntry (getF s (EV_HEAD_HEAD n)) e)) s)) := by
  unfold writeRing
  dsimp only
  rw [if_neg h]

section
variable {n : Nat} {s : State} (e : Ev) (h : getF s (HOST_BIND_IF n) ≠ 3)
include h

theorem getF_writeRing_of_ne {f : Fld} (hh : f.key ≠ (EV_HEAD_HEAD n).key) (hi : f.key ≠ (IRQ_STAT_EVENT n).key) :
    getF (writeRing n e s) f = getF s f := by
  rw [writeRing_mapped e h, getF_irq_of_ne (n := n) (b := 1) _ hi, wrap, getF_putF_ne _ _ hh]
  rfl

theorem getF_writeRing_bind : getF (writeRing n e s) (HOST_BIND_IF n) = getF s (HOST_BIND_IF n) :=
  getF_writeRing_of_ne e h (by simp only [Fld.key, HOST_BIND_IF, EV_HEAD_HEAD]; omega)
    (by simp only [Fld.key, HOST_BIND_IF, IRQ_STAT_EVENT]; omega)

theorem getF_writeRing_tail : getF (writeRing n e s) (EV_TAIL_TAIL n) = getF s (EV_TAIL_TAIL n) :=
  getF_writeRing_of_ne e h (by simp only [Fld.key, EV_TAIL_TAIL, EV_HEAD_HEAD]; omega)
    (by simp only [Fld.key, EV_TAIL_TAIL, IRQ_STAT_EVENT]; omega)

theorem getF_writeRing_head : getF (writeRing n e s) (EV_HEAD_HEAD n) = (getF s (EV_HEAD_HEAD n) + 1) % 65536 := by
  have hk : (EV_HEAD_HEAD n).key ≠ (irqField n 1).key := by
    simp only [irqField, Fld.key, EV_HEAD_HEAD, IRQ_STAT_EVENT]
    omega
  rw [writeRing_mapped e h, getF_irq_of_ne _ hk]
  exact getF_putF_self _ _ _

theorem hold_writeRing : (seatOf (writeRing n e s) n).hold = (seatOf s n).hold := by
  rw [writeRing_mapped e h, (irq_raised n 1 _).seatOf, seatOf_wrap, seatOf_updSeat, if_pos rfl, putMail_seat]

/-- An entry written into a ring that has room leaves one more to consume. -/
theorem ringUsed_writeRing (ht : getF s (EV_TAIL_TAIL n) < 65536) (hr : ringUsed s n < 64) :
    ringUsed (writeRing n e s) n = ringUsed s n + 1 := by
  unfold ringUsed at hr ⊢
  rw [getF_writeRing_tail e h, getF_writeRing_head e h]
  omega

end

/-- What is left of a hold queue whose first event moves into the ring. -/
def holdLeft (n : Nat) (rest : List Ev) (s : State) : State := updSeat n (fun x => { x with hold := rest }) s

theorem pumpEvents_full {n : Nat} (k : Nat) {s : State} (h : 64 ≤ ringUsed s n) : pumpEvents n (k + 1) s = s := by
  rw [pumpEvents, if_pos h]

theorem pumpEvents_held {n : Nat} (k : Nat) {s : State} {e : Ev} {rest : List Ev} (h : ¬ 64 ≤ ringUsed s n)
    (hq : (seatOf s n).hold = e :: rest) :
    pumpEvents n (k + 1) s = pumpEvents n k (writeRing n e (holdLeft n rest s)) := by
  rw [pumpEvents, if_neg h]
  simp only [hq]
  rfl

theorem pumpEvents_empty {n : Nat} (k : Nat) {s : State} (h : ¬ 64 ≤ ringUsed s n) (hq : (seatOf s n).hold = []) :
    pumpEvents n (k + 1) s = if (seatOf s n).dropped = 0 then s
      else writeRing n ⟨1, [(seatOf s n).dropped], s.fab.ci⟩ (updSeat n (fun x => { x with dropped := 0 }) s) := by
  rw [pumpEvents, if_neg h]
  simp only [hq]

/-- Held events moved into the ring of a seat that is not a UDP seat: the first of them, all or until the ring is full. -/
theorem pumpEvents_moves {n : Nat} (k : Nat) {s : State} (h : getF s (HOST_BIND_IF n) ≠ 3)
    (ht : getF s (EV_TAIL_TAIL n) < 65536) (hk : 64 ≤ ringUsed s n + k) :
    getF (pumpEvents n k s) (EV_TAIL_TAIL n) = getF s (EV_TAIL_TAIL n)
    ∧ ∃ j, (seatOf (pumpEvents n k s) n).hold = (seatOf s n).hold.drop j
      ∧ (j = (seatOf s n).hold.length ∨ 64 ≤ ringUsed (pumpEvents n k s) n) := by
  induction k generalizing s with
  | zero => exact ⟨rfl, 0, rfl, .inr hk⟩
  | succ k ih =>
    by_cases hfull : 64 ≤ ringUsed s n
    · rw [pumpEvents_full k hfull]
      exact ⟨rfl, 0, rfl, .inr hfull⟩
    cases hq : (seatOf s n).hold with
    | nil =>
      rw [pumpEvents_empty k hfull hq]
      split
      · exact ⟨rfl, 0, hq, .inl rfl⟩
      · refine ⟨getF_writeRing_tail _ h, 0, ?_, .inl rfl⟩
        rw [hold_writeRing _ (show getF (updSeat n _ s) (HOST_BIND_IF n) ≠ 3 from h), seatOf_updSeat, if_pos rfl]
        exact hq
    | cons e rest =>
      rw [pumpEvents_held k hfull hq]
      have hb : getF (holdLeft n rest s) (HOST_BIND_IF n) ≠ 3 := h
      have hu : ringUsed (writeRing n e (holdLeft n rest s)) n = ringUsed s n + 1 :=
        ringUsed_writeRing e hb ht (Nat.lt_of_not_le hfull)
      have hh : (seatOf (writeRing n e (holdLeft n rest s)) n).hold = rest := by
        rw [hold_writeRing e hb, holdLeft, seatOf_updSeat, if_pos rfl]
      have htl := getF_writeRing_tail e hb
      obtain ⟨htail, j, hdrop, hend⟩ := ih (by rwa [getF_writeRing_bind e hb]) (by rw [htl]; exact ht) (by omega)
      rw [hh] at hdrop hend
      refine ⟨htail.trans htl, j + 1, hdrop, ?_⟩
      exact hend.imp (congrArg (· + 1)) id

theorem writeTail_beyond {n v : Nat} {s : State} (h : ringUsed s n < (v + 65536 - getF s (EV_TAIL_TAIL n)) % 65536) :
    writeTail n v s = s := if_pos h

theorem writeTail_taken {n v : Nat} {s : State} (h : (v + 65536 - getF s (EV_TAIL_TAIL n)) % 65536 ≤ ringUsed s n) :
    writeTail n v s = pumpEvents n 193 (putF (EV_TAIL_TAIL n) v s) := if_neg (Nat.not_lt.2 h)

theorem exec_evTailWrite {n : Nat} (v : Nat) {s : State} (h : viewReach s n = true) :
    exec (.evTailWrite n v) s = .next (writeTail n (v % 65536) s) := by
  change execEvTailWrite n v s = _
  rw [execEvTailWrite, if_pos h]

/-- A new TAIL that is taken: held events follow into the ring. -/
theorem writeTail_moves {n v : Nat} {s : State} (hv : v < 65536)
    (hf : (v + 65536 - getF s (EV_TAIL_TAIL n)) % 65536 ≤ ringUsed s n) (hb : getF s (HOST_BIND_IF n) ≠ 3) :
    getF (writeTail n v s) (EV_TAIL_TAIL n) = v
    ∧ ∃ k, (seatOf (writeTail n v s) n).hold = (seatOf s n).hold.drop k
      ∧ (k = (seatOf s n).hold.length ∨ 64 ≤ ringUsed (writeTail n v s) n) := by
  have ht : getF (putF (EV_TAIL_TAIL n) v s) (EV_TAIL_TAIL n) = v := (getF_putF_self _ v s).trans (Nat.mod_eq_of_lt hv)
  have hk : (HOST_BIND_IF n).key ≠ (EV_TAIL_TAIL n).key := by
    simp only [Fld.key, HOST_BIND_IF, EV_TAIL_TAIL]
    omega
  obtain ⟨htail, hhold⟩ := pumpEvents_moves 193 (n := n) (s := putF (EV_TAIL_TAIL n) v s) (by rwa [getF_putF_ne v s hk])
    (by rwa [ht]) (by omega)
  rw [writeTail_taken hf]
  exact ⟨htail.trans ht, hhold⟩

/-! ### The lease warning (R349) -/

/-- An enabled interrupt bit of a PCIe seat that rises sends its vector. -/
theorem irq_msix {n b : Nat} {s : State} (hf : flag s (irqField n b) = false) (he : bitOf (irqEn s n) b = true)
    (hb : getF s (HOST_BIND_IF n) = 1) : (irq n b s).out = ⟨.msix, [n, b]⟩ :: s.out := by
  unfold irq
  simp only [hf, he, hb, Bool.false_eq_true, if_false, beq_self_eq_true, Bool.and_self, if_true]
  rfl

theorem exec_leaseWarning {n : Nat} {s : State} (hn : n < 4) (ha : attached s n = true) :
    exec (.leaseWarning n) s = .next (irq n 2 s) := by
  change execLeaseWarning n s = _
  rw [execLeaseWarning, if_pos (by simp [hn, ha])]

/-! ### Objects made orphans (R349, R352) -/

/-- An owner whose object is an orphan. -/
def Owner.orphaned (o : Owner) : Owner := { o with orphan := true }

/-- The owners after an object has been made an orphan. -/
def markOrphan (m : AMap Owner) (k : Nat) : AMap Owner :=
  match m.find k with
  | some o => m.put k o.orphaned
  | none => m

theorem markOrphan_owned {m : AMap Owner} {k : Nat} {o : Owner} (h : m.find k = some o) :
    markOrphan m k = m.put k o.orphaned := by
  simp only [markOrphan, h]

theorem markOrphan_free {m : AMap Owner} {k : Nat} (h : m.find k = none) : markOrphan m k = m := by
  simp only [markOrphan, h]

theorem find_markOrphan (m : AMap Owner) (k j : Nat) :
    (markOrphan m k).find j = if j = k then (m.find k).map Owner.orphaned else m.find j := by
  cases ho : m.find k with
  | some o =>
    rw [markOrphan_owned ho]
    split
    case isTrue e => rw [e, AMap.find_put_self, Option.map_some]
    case isFalse e => rw [AMap.find_put_ne _ _ e]
  | none =>
    rw [markOrphan_free ho]
    split
    case isTrue e => rw [e, ho, Option.map_none]
    case isFalse => rfl

theorem find_foldl_markOrphan (ks : List Nat) (m : AMap Owner) (j : Nat) :
    (ks.foldl markOrphan m).find j = if j ∈ ks then (m.find j).map Owner.orphaned else m.find j := by
  induction ks generalizing m with
  | nil => rfl
  | cons k ks ih =>
    rw [List.foldl_cons, ih, find_markOrphan]
    by_cases hk : j = k
    · subst hk
      cases m.find j <;> simp [Owner.orphaned]
    · simp [hk]

/-- The state with other owners of the objects. -/
def withOwners (m : AMap Owner) (s : State) : State := { s with fw := { s.fw with owners := m } }

theorem Told.withOwners {s t : State} (h : Told s t) (m : AMap Owner) : Told (withOwners m s) (withOwners m t) where
  rest := by
    rw [Machine.withOwners, h.rest]
    rfl
  regs := h.regs
  seats := h.seats

/-- An object made an orphan: its owner is marked and the steward told, nothing else happens. -/
theorem orphan_told (k : Nat) (s : State) : Told (withOwners (markOrphan s.fw.owners k) s) (orphan k s) := by
  cases ho : s.fw.owners.find k with
  | some o =>
    simp only [markOrphan_owned ho, orphan, ho]
    exact (Told.refl _).raiseTo 0 _
  | none =>
    simp only [markOrphan_free ho, orphan, ho]
    exact Told.refl s

theorem foldl_orphan_told (ks : List Nat) (s : State) :
    Told (withOwners (ks.foldl markOrphan s.fw.owners) s) (ks.foldl (fun s k => orphan k s) s) := by
  induction ks generalizing s with
  | nil => exact Told.refl s
  | cons k ks ih =>
    have hk := orphan_told k s
    have ho : (orphan k s).fw.owners = markOrphan s.fw.owners k := congrArg (fun x => x.fw.owners) hk.rest
    have := ih (orphan k s)
    rw [ho] at this
    exact (hk.withOwners _).trans this

/-- The objects of a seat, where the owners stand in rising order. -/
theorem mem_objectsOf {s : State} {n k : Nat} (hs : s.fw.owners.Pairwise (fun a b => a.1 < b.1)) :
    k ∈ objectsOf s n ↔ ∃ o, s.fw.owners.find k = some o ∧ o.seat = n ∧ o.orphan = false := by
  simp only [objectsOf, List.mem_map, List.mem_filter, Bool.and_eq_true, beq_iff_eq, Bool.not_eq_true']
  constructor
  · rintro ⟨⟨k', o⟩, ⟨hm, hn, ho⟩, rfl⟩
    exact ⟨o, AMap.find_of_mem hs hm, hn, ho⟩
  · rintro ⟨o, hf, hn, ho⟩
    exact ⟨(k, o), ⟨AMap.mem_of_find hf, hn, ho⟩, rfl⟩

/-- An owner after its seat's attachment has ended. -/
def Owner.left (n : Nat) (o : Owner) : Owner := if o.seat = n then o.orphaned else o

theorem find_orphaned {s : State} (n k : Nat) (hs : s.fw.owners.Pairwise (fun a b => a.1 < b.1)) :
    ((objectsOf s n).foldl markOrphan s.fw.owners).find k = (s.fw.owners.find k).map (Owner.left n) := by
  rw [find_foldl_markOrphan]
  simp only [mem_objectsOf hs]
  cases hf : s.fw.owners.find k with
  | none => simp
  | some o =>
    obtain ⟨seat, orphan, token⟩ := o
    by_cases hn : seat = n
    · cases orphan <;> simp [Owner.left, Owner.orphaned, hn]
    · simp [Owner.left, hn]

/-! ### The staging of an image discarded (R130, R349) -/

theorem dropSession_rest (n : Nat) (s : State) : dropSession n s = { s with
    regs := (dropSession n s).regs
    fab := { s.fab with
      session := (dropSession n s).fab.session
      staged := (dropSession n s).fab.staged
      shadow := (dropSession n s).fab.shadow } } := by
  unfold dropSession
  split
  · split
    · dsimp only
      split
      · rw [putFs_eq]
      · rw [putFs_eq]
    · rfl
  · rfl

theorem seatOf_dropSession (n : Nat) (s : State) (m : Nat) : seatOf (dropSession n s) m = seatOf s m := by
  rw [dropSession_rest]
  rfl

/-- No session of the seat is left. -/
theorem dropSession_session {n : Nat} {s : State} {x : Session} (h : (dropSession n s).fab.session = some x) : x.seat ≠ n := by
  unfold dropSession at h
  split at h
  case h_1 y hy =>
    split at h
    case isTrue =>
      dsimp only at h
      split at h
      · rw [putFs_fab] at h
        cases h
      · rw [putFs_fab] at h
        cases h
    case isFalse hne =>
      rw [hy] at h
      cases h
      exact hne
  case h_2 hnone =>
    rw [hnone] at h
    cases h

/-- What is left of the staging of a session that ends with no commit armed. -/
def unstaged (n : Nat) (s : State) : State :=
  putFs [(HOST_LIM_WIN_WORDS n, 0), (HOST_WIN_WIN_BASE n, 0)]
    { s with fab := { s.fab with
      session := none
      staged := none
      shadow := s.fab.cal } }

theorem dropSession_unarmed {s : State} {x : Session} (hx : s.fab.session = some x) (hc : commitArmed s = false) :
    dropSession x.seat s = unstaged x.seat s := by
  simp only [dropSession, hx, hc, if_true, Bool.false_eq_true, if_false]
  rfl

/-! ### The lease expiry (R349) -/

/-- A seat whose attachment ends: its staging and what the sequence check knows of it are gone. -/
def Seat.detached (x : Seat) : Seat := { x with
  routes := []
  dests := []
  expect := none
  lastExec := none
  stored := []
  lease := 0 }

/-- The state before the objects of a seat whose attachment ends become orphans. -/
def stripped (n : Nat) (s : State) : State := dropSession n (updSeat n Seat.detached s)

theorem endAttach_eq (n : Nat) (s : State) : endAttach n s = putF (DB_STAT_ATTACHED n) 0
    ((objectsOf (stripped n s) n).foldl (fun s k => orphan k s) (stripped n s)) := rfl

theorem stripped_fw (n : Nat) (s : State) : (stripped n s).fw = s.fw := by
  rw [stripped, dropSession_rest]
  rfl

theorem objectsOf_stripped (n : Nat) (s : State) : objectsOf (stripped n s) n = objectsOf s n := by
  rw [objectsOf, stripped_fw]
  rfl

theorem stripped_sched (n : Nat) (s : State) : (stripped n s).fab.sched = s.fab.sched := by
  rw [stripped, dropSession_rest]
  rfl

theorem seatOf_stripped (n : Nat) (s : State) : seatOf (stripped n s) n = (seatOf s n).detached := by
  rw [stripped, seatOf_dropSession, seatOf_updSeat, if_pos rfl]

theorem attached_endAttach (n : Nat) (s : State) : attached (endAttach n s) n = false := by
  rw [endAttach_eq, attached, flag, getF_putF_self]
  rfl

/-- Beside ATTACHED, the end of an attachment orphans the seat's objects, of which the steward is told. -/
theorem endAttach_told (n : Nat) (s : State) : ∃ t, endAttach n s = putF (DB_STAT_ATTACHED n) 0 t
    ∧ Told (withOwners ((objectsOf s n).foldl markOrphan s.fw.owners) (stripped n s)) t := by
  refine ⟨_, endAttach_eq n s, ?_⟩
  rw [objectsOf_stripped, ← stripped_fw n s]
  exact foldl_orphan_told _ _

theorem exec_leaseExpiry {n : Nat} {s : State} (hn : n < 4) (ha : attached s n = true)
    (hb : flag s (DB_STAT_CMD_BUSY n) = false) : exec (.leaseExpiry n) s = .next (endAttach n s) := by
  change execLeaseExpiry n s = _
  rw [execLeaseExpiry, if_pos (by simp [hn, ha, hb])]

theorem exec_leaseExpiry_of_busy {n : Nat} {s : State} (hb : flag s (DB_STAT_CMD_BUSY n) = true) :
    exec (.leaseExpiry n) s = .next s := by
  change execLeaseExpiry n s = _
  rw [execLeaseExpiry, if_neg (by simp [hb])]

/-! ### Datagrams (R340) -/

theorem exec_udpMailboxDatagram {m sa sp dp n : Nat} {ws : List Nat} {s : State} (hu : fwUp s = true) (hr : s.pwr.rest = false)
    (hf : [0, 1, 2, 3].find? (fun n => getF s (HOST_BIND_IF n) == 3 && getF s (HOST_BIND_INDEX n) == m
      && (seatOf s n).udpPort == dp) = some n) : exec (.udpMailboxDatagram m sa sp dp ws) s =
    if sa &&& (seatOf s n).udpMask ≠ (seatOf s n).udpSrc &&& (seatOf s n).udpMask then
      .next (updSeat n (fun x => { x with udpDropped := x.udpDropped + 1 }) s)
    else .next (serveFrame n (ws.map lo32) (updSeat n (fun x => { x with
      srcAddr := sa
      srcPort := sp }) s)) := by
  change execUdpMailboxDatagram m sa sp dp ws s = _
  rw [execUdpMailboxDatagram, if_neg (by simp [hu, hr])]
  simp only [hf]

/-! ### The end of a piece (R130) -/

theorem Told.fab {s t : State} (h : Told s t) : t.fab = s.fab := by rw [h.rest]

theorem ashLogPush_fab (word syn action req : Nat) (s : State) : (ashLogPush word syn action req s).fab = s.fab := by
  unfold ashLogPush
  split
  · rfl
  · exact putF_fab _ _ _

theorem vsrLog_fab (kind : Nat) (write : Bool) (m id a : Nat) (s : State) : (vsrLog kind write m id a s).fab = s.fab := by
  have hb (b : Prop) [Decidable b] : (if b then bump VSR_STAT_CUTS 1 s else s).fab = s.fab := by
    split
    · exact bump_fab _ _ _
    · rfl
  unfold vsrLog
  dsimp only
  split
  · exact hb _
  · exact (putF_fab _ _ _).trans (hb _)

theorem ashReadMortar_fab (m w : Nat) (s : State) : (ashReadMortar m w s).2.2.fab = s.fab := by
  unfold ashReadMortar
  split
  · rfl
  · exact bump_fab _ _ _
  · exact (ashLogPush_fab _ _ _ _ _).trans (bump_fab _ _ _)

theorem fwAshRead_fab (w : Nat) (s : State) : (fwAshRead w s).2.fab = s.fab := by
  unfold fwAshRead
  split
  · dsimp only
    split
    · exact (vsrLog_fab _ _ _ _ _ _).trans (ashReadMortar_fab 1 w s)
    · exact ashReadMortar_fab 1 w s
  · exact (vsrLog_fab _ _ _ _ _ _).trans (putF_fab _ _ _)

/-- The firmware's reads of Ashlar leave the fabric alone. -/
theorem fwAshReads_fab (k w : Nat) (s : State) : (fwAshReads w k s).2.fab = s.fab := by
  induction k generalizing w s with
  | zero => rfl
  | succ k ih => exact (ih (w + 1) _).trans (fwAshRead_fab w s)

theorem commitArmed_congr {s t : State} (h : t.fab = s.fab) : commitArmed t = commitArmed s := by
  unfold commitArmed
  rw [h]

/-- The piece under verification, as the firmware reads it from its seat's window. -/
def pieceWords (x : Session) (w l : Nat) (s : State) : List Nat × State :=
  fwAshReads (getF s (HOST_WIN_WIN_BASE x.seat) + w / 4) ((l + 3) / 4) s

section
variable {s : State} {x : Session} {w l o q : Nat} (hs : s.fab.session = some x) (hb : x.busy = some (w, l, o, q))
include hs hb

theorem exec_pieceVerifyDone_ok {t : State}
    (hj : judgePiece x o ((wordsToBytes (pieceWords x w l s).1).take l) (pieceWords x w l s).2 = .ok t) :
    exec .pieceVerifyDone s = .next (cmdDone x.seat 0x0201 q 0 [0, 0] (relayPiece x o
      ((wordsToBytes (pieceWords x w l s).1).take l) t)) := by
  unfold pieceWords at hj
  change execPieceVerifyDone s = _
  simp only [execPieceVerifyDone, hs, hb, hj]
  rfl

theorem exec_pieceVerifyDone_error {e : VErr}
    (hj : judgePiece x o ((wordsToBytes (pieceWords x w l s).1).take l) (pieceWords x w l s).2 = .error e) :
    exec .pieceVerifyDone s = .next (refusePiece x q e (pieceWords x w l s).2) := by
  unfold pieceWords at hj
  change execPieceVerifyDone s = _
  simp only [execPieceVerifyDone, hs, hb, hj]
  rfl

end

theorem tellKey_limWords (n : Nat) : tellKey (HOST_LIM_WIN_WORDS n).key = false := by
  have h : (HOST_LIM_WIN_WORDS n).key / 32 % 16384 = 0x3008 := by
    simp only [Fld.key, HOST_LIM_WIN_WORDS]
    omega
  rw [tellKey, h]
  simp

theorem unstaged_limWords (n : Nat) (s : State) : getF (unstaged n s) (HOST_LIM_WIN_WORDS n) = 0 := by
  have hk : (HOST_LIM_WIN_WORDS n).key ≠ (HOST_WIN_WIN_BASE n).key := by
    simp only [Fld.key, HOST_LIM_WIN_WORDS, HOST_WIN_WIN_BASE]
    omega
  exact (getF_putF_ne 0 _ hk).trans (getF_putF_self _ 0 _)

/-- The state of a refused piece before its seat is told: the staging discarded, the check kept for IMG.STATUS. -/
def refused (x : Session) (e : VErr) (s : State) : State :=
  { unstaged x.seat s with fab := { (unstaged x.seat s).fab with
      lastCheck := e.check
      lastOffset := e.offset } }

/-- A refused piece where no commit is armed: its staging is discarded and its seat told. -/
theorem refusePiece_told {s : State} {x : Session} (q : Nat) (e : VErr) (hx : s.fab.session = some x)
    (hc : commitArmed s = false) : Told (refused x e s) (refusePiece x q e s) := by
  rw [refusePiece, dropSession_unarmed hx hc]
  exact (Told.refl _).raiseTo _ _

theorem refused_fab (x : Session) (e : VErr) (s : State) : (refused x e s).fab = { s.fab with
    session := none
    staged := none
    shadow := s.fab.cal
    lastCheck := e.check
    lastOffset := e.offset } := by
  rw [refused, unstaged, putFs_fab]

/-! ### The obligation -/

/-- What an expired lease does (R349). -/
theorem leaseExpiry_effect {n : Nat} {s : State} (hn : n < 4) (ha : attached s n = true)
    (hb : flag s (DB_STAT_CMD_BUSY n) = false) : ∃ t, exec (.leaseExpiry n) s = .next t ∧ attached t n = false
      ∧ (seatOf t n).routes = [] ∧ (seatOf t n).dests = [] ∧ (seatOf t n).expect = none ∧ (seatOf t n).lease = 0
      ∧ (seatOf t n).token = (seatOf s n).token ∧ t.fab.sched = s.fab.sched ∧ (∀ x, t.fab.session = some x → x.seat ≠ n)
      ∧ (s.fw.owners.Pairwise (fun a b => a.1 < b.1) →
        ∀ key, t.fw.owners.find key = (s.fw.owners.find key).map (Owner.left n)) := by
  obtain ⟨t, ht, told⟩ := endAttach_told n s
  have hseat : seatOf (endAttach n s) n = { (seatOf s n).detached with
      mail := (seatOf t n).mail
      hold := (seatOf t n).hold
      dropped := (seatOf t n).dropped } := by
    rw [ht, seatOf_putF, told.seats n, ← seatOf_stripped n s]
    rfl
  have hfab : (endAttach n s).fab = (stripped n s).fab := by
    rw [ht, putF_fab, told.rest]
    rfl
  have hown : (endAttach n s).fw.owners = (objectsOf s n).foldl markOrphan s.fw.owners := by
    rw [ht, putF_fw, told.rest]
    rfl
  refine ⟨_, exec_leaseExpiry hn ha hb, attached_endAttach n s, ?_, ?_, ?_, ?_, ?_, ?sched, fun x hx => ?session,
    fun hr key => ?owners⟩
  case sched => rw [hfab, stripped_sched]
  case session =>
    rw [hfab] at hx
    exact dropSession_session hx
  case owners => rw [hown, find_orphaned n key hr]
  all_goals
    rw [hseat]
    rfl

/-- What a refused piece leaves where no commit is armed (R130). -/
theorem pieceRefused_effect {s : State} {x : Session} {w l o q : Nat} {e : VErr} (hs : s.fab.session = some x)
    (hb : x.busy = some (w, l, o, q)) (hc : commitArmed s = false)
    (hj : judgePiece x o ((wordsToBytes (pieceWords x w l s).1).take l) (pieceWords x w l s).2 = .error e) :
    ∃ t, exec .pieceVerifyDone s = .next t ∧ t.fab.session = none ∧ t.fab.staged = none ∧ t.fab.lastCheck = e.check
      ∧ t.fab.lastOffset = e.offset ∧ getF t (HOST_LIM_WIN_WORDS x.seat) = 0 := by
  have hread : (pieceWords x w l s).2.fab = s.fab := fwAshReads_fab _ _ s
  have told := refusePiece_told q e ((congrArg Fab.session hread).trans hs) ((commitArmed_congr hread).trans hc)
  have hfab : (refusePiece x q e (pieceWords x w l s).2).fab = (refused x e (pieceWords x w l s).2).fab :=
    told.fab
  rw [refused_fab] at hfab
  have hlim := (told.getF (HOST_LIM_WIN_WORDS x.seat) (tellKey_limWords x.seat)).trans (unstaged_limWords x.seat _)
  refine ⟨_, exec_pieceVerifyDone_error hs hb hj, ?_, ?_, ?_, ?_, hlim⟩
  all_goals rw [hfab]

/-- Settles O52: a post (`exec_mailboxPost_of_up`), a command's checks in their order (`serveFrame_paired`, then
`serveAddressed`), the events that a new TAIL lets into the ring (`writeTail_moves`), the end of a lease
(`leaseExpiry_effect`), a datagram and the end of a piece (`pieceRefused_effect`). -/
theorem mailboxesAndLeases : Obligations.MailboxesAndLeases := by
  refine ⟨fun n s hv hd hh => ⟨fun hi => ?idle, fun hb => ?busy⟩, fun n s => exec_mailboxPost_of_up, fun n s hv => ?unreached,
    ?frame, fun n v s hv => ⟨fun hfar => ?beyond, fun hnear hm => ?tail⟩, fun n s hn ha => ?warning,
    fun n s => leaseExpiry_effect, fun n s _ => exec_leaseExpiry_of_busy,
    fun m sa sp dp ws s n hu hr hf => ⟨fun hsrc => ?source, fun hsrc => ?datagram⟩, ?piece⟩
  case idle => exact ⟨_, exec_mailboxPost_of_down hv hd hh, postHw_of_idle hi ▸ postFields_only n s⟩
  case busy => exact ⟨_, exec_mailboxPost_of_down hv hd hh, postHw_of_busy hb ▸ OnlyFields.putF s _ 1⟩
  case unreached =>
    change execMailboxPost n s = _
    rw [execMailboxPost, if_neg (by simp [hv])]
  case frame =>
    intro n ws s w op sq fl len k hw hop hsq hfl hlen hk
    obtain rfl : w = fun i => ws.getD i 0 := funext hw
    subst hop hsq hfl hlen hk
    refine ⟨serveFrame_unpaired s, fun h0 h2 => ?_⟩
    have hp : Paired ws := ⟨h0, h2⟩
    refine ⟨serveFrame_long s hp, serveFrame_crc s hp, fun hlen hcrc => ?_⟩
    have hi : Intact ws := ⟨hp, hlen, hcrc⟩
    refine ⟨serveFrame_auth s hi, fun hs ha => ⟨fun ho e he hne => ?_, fun hseq => ?_⟩, fun hs ha ho h0 h2 he => ?_⟩
    all_goals rw [serveFrame_addressed s ⟨hi, hs⟩]
    · exact serveAddressed_outOfSequence ha ho he hne
    · refine ⟨serveAddressed_flags ha hseq, fun h hnone => ?_, fun h hl hb hd f r hf hr => ?_⟩
      · exact (serveAddressed_row ha hseq h).trans (serveRow_unknown hnone)
      · rw [hr]
        exact (serveAddressed_row ha hseq h).trans (serveRow_known hf hl hb hd ha)
    · exact serveAddressed_detached ha ho h0 h2 he
  case beyond => rw [exec_evTailWrite v hv, writeTail_beyond hfar]
  case tail =>
    obtain ⟨ht, k, hmoved⟩ := writeTail_moves (Nat.mod_lt v (by decide)) hnear hm
    exact ⟨_, k, exec_evTailWrite v hv, ht, hmoved⟩
  case warning =>
    exact ⟨_, exec_leaseWarning hn ha, flag_irq n 2 s, (Told.refl s).irq n 2, irq_msix (b := 2)⟩
  case source => rw [exec_udpMailboxDatagram hu hr hf, if_pos hsrc]
  case datagram => rw [exec_udpMailboxDatagram hu hr hf, if_neg (Decidable.not_not.2 hsrc)]
  case piece =>
    rintro s x w l o q r bs hs hb rfl rfl
    exact ⟨fun t => exec_pieceVerifyDone_ok hs hb, fun e _ hj hc => pieceRefused_effect hs hb hc hj⟩

end Sys2Proof.Machine

/-! ## The indexed tables' data words (R143, R152, R155, R163, R202, R216, R219) -/

namespace Sys2Proof.Machine

/-! ### Fields written one after another -/

theorem flag_putF_ne {f g : Fld} (v : Nat) (s : State) (h : f.key ≠ g.key) : flag (putF g v s) f = flag s f := by
  rw [flag, flag, getF_putF_ne v s h]

/-- A second field written after a first. -/
theorem OnlyFields.putF_then (s : State) {f g : Fld} (v w : Nat) (h : f.key ≠ g.key) :
    OnlyFields s (Machine.putF g w (Machine.putF f v s)) [(f, v), (g, w)] :=
  (OnlyFields.putF s f v).snoc g w (by simpa using h)

/-- A second field set after a first where a condition holds. -/
theorem OnlyFields.putF_setIf (s : State) {f g : Fld} (v : Nat) (h : f.key ≠ g.key) {p : Prop} [Decidable p] {b : Bool}
    (hb : b = true ↔ p) : OnlyFields s (setIf g b (Machine.putF f v s)) ((f, v) :: if p then [(g, 1)] else []) := by
  rw [setIf]
  by_cases hp : p
  · rw [if_pos hp, if_pos (hb.2 hp)]
    exact OnlyFields.putF_then s v 1 h
  · rw [if_neg hp, if_neg (hp ∘ hb.1)]
    exact OnlyFields.putF s f v

@[simp] theorem setIf_str (f : Fld) (b : Bool) (s : State) : (setIf f b s).str = s.str := by
  cases b <;> rfl

/-! ### RTE_DATAn (R143, R150, R152) -/

theorem exec_rteTableWrite {n : Nat} (v : Nat) (s : State) (hn : n < 4) :
    exec (.rteTableWrite n v) s = .next (rteWrite n v s) := if_pos hn

/-- The words before the last commit nothing to the route and destination tables. -/
theorem rteWrite_of_lt {n : Nat} (v : Nat) {s : State} (hn : n < 3) (hsel : getF s RTE_IDX_SEL = 0 ∨ getF s RTE_IDX_SEL = 2) :
    rteWrite n v s = putF (RTE_DATA_DATA n) v s := by
  rw [rteWrite, ite_self] <;> omega

/-- The last word hands the two words of value and the two of complement to the table. -/
theorem rteWrite_last {v lo hi : Nat} {s : State} (hsel : getF s RTE_IDX_SEL = 0 ∨ getF s RTE_IDX_SEL = 2)
    (hidx : getF s RTE_IDX_INDEX < rteSize s (getF s RTE_IDX_SEL))
    (hlo : lo = getF s (RTE_DATA_DATA 0) + 2 ^ 32 * getF s (RTE_DATA_DATA 1))
    (hhi : hi = getF s (RTE_DATA_DATA 2) + 2 ^ 32 * lo32 v) :
    rteWrite 3 v s = rtePair (getF s RTE_IDX_SEL) (getF s RTE_IDX_INDEX) lo hi (putF (RTE_DATA_DATA 3) v s) := by
  have hd : ∀ k, k < 3 → getF (putF (RTE_DATA_DATA 3) v s) (RTE_DATA_DATA k) = getF s (RTE_DATA_DATA k) := fun k hk =>
    getF_putF_ne v s (by simp only [Fld.key, RTE_DATA_DATA]; omega)
  subst hlo hhi
  have h3 : getF (putF (RTE_DATA_DATA 3) v s) (RTE_DATA_DATA 3) = lo32 v := getF_putF_self _ v s
  rw [rteWrite.eq_def]
  simp only [if_neg (Nat.not_le.2 hidx), hd 0 (by decide), hd 1 (by decide), hd 2 (by decide), h3]
  rcases hsel with hsel | hsel <;> rw [hsel] <;> rfl

/-- Whether the shadow of the route table is locked (R150, R152). -/
def rteLocked (s : State) : Bool := flag s RTE_SL_ROUTE_ARMED || flag s RTE_STAT_RESYNC

theorem rteLocked_putF_data (v : Nat) (s : State) : rteLocked (putF (RTE_DATA_DATA 3) v s) = rteLocked s := by
  rw [rteLocked, rteLocked, flag_putF_ne v s (by decide), flag_putF_ne v s (by decide)]

section
variable {tbl idx lo hi : Nat} {s : State}

theorem rtePair_locked (h : rteLocked s = true) : rtePair tbl idx lo hi s = putF RTE_STAT_SL_LOCK_ERR 1 s := if_pos h

theorem rtePair_mismatch (h : rteLocked s = false) (hc : hi ≠ 2 ^ 64 - 1 - lo % 2 ^ 64) :
    rtePair tbl idx lo hi s = putF RTE_STAT_PAIRWORD 1 s := by
  have hok : (PairWord.mk lo hi).ok = false := by simpa [PairWord.ok] using hc
  rw [rtePair, if_neg (Bool.not_eq_true _ ▸ h), hok]
  rfl

theorem rtePair_matched (h : rteLocked s = false) (hc : hi = 2 ^ 64 - 1 - lo % 2 ^ 64) :
    rtePair tbl idx lo hi s = if tbl = 0 then { s with rte := { s.rte with shadow := s.rte.shadow.set idx ⟨lo, hi⟩ xpNone } }
      else { s with rte := { s.rte with shRec := s.rte.shRec.set idx ⟨lo, hi⟩ recReset } } := by
  have hok : (PairWord.mk lo hi).ok = true := by simpa [PairWord.ok] using hc
  rw [rtePair, if_neg (Bool.not_eq_true _ ▸ h), hok]
  rfl

end

/-! ### DYN_DATAn (R150, R152, R155) -/

theorem exec_dynTableWrite {n : Nat} (v : Nat) (s : State) (hn : n < 8) :
    exec (.dynTableWrite n v) s = .next (dynWrite n v s) := if_pos hn

/-- A record put into the shadow of a dynamics unit. -/
def putShadow (i : Nat) (r : List Nat) (s : State) : State :=
  { s with dyn := { s.dyn with shadow := putRec s.dyn.shadow i r } }

theorem putShadow_get_self (i : Nat) (r : List Nat) (s : State) : (putShadow i r s).dyn.shadow.get i dynNone = r :=
  AMap.get_set_self s.dyn.shadow i r dynNone

theorem putShadow_get_ne {i j : Nat} (r : List Nat) (s : State) (h : j ≠ i) :
    (putShadow i r s).dyn.shadow.get j dynNone = s.dyn.shadow.get j dynNone :=
  AMap.get_set_ne s.dyn.shadow r dynNone dynNone h

theorem dynWrite_of_lt {n : Nat} (v : Nat) {s : State} (hn : n < 7) (hsel : getF s DYN_IDX_SEL = 0) :
    dynWrite n v s = putF (DYN_DATA_DATA n) v s := by
  rw [dynWrite, ite_self] <;> omega

/-- The last word commits the eight words to the unit's shadow, unless the unit is locked. -/
theorem dynWrite_last (v : Nat) {s : State} (hsel : getF s DYN_IDX_SEL = 0) (hidx : getF s DYN_IDX_INDEX < maxDyn s) :
    dynWrite 7 v s = if dynLocked s (getF s DYN_IDX_INDEX) then putF DYN_STAT_SL_LOCK_ERR 1 (putF (DYN_DATA_DATA 7) v s)
      else putShadow (getF s DYN_IDX_INDEX) ((List.range 8).map (fun k => getF (putF (DYN_DATA_DATA 7) v s) (DYN_DATA_DATA k)))
        (putF (DYN_DATA_DATA 7) v s) := by
  rw [dynWrite.eq_def]
  simp only [if_neg (Nat.not_le.2 hidx), hsel]
  rfl

/-! ### STR_DATAn (R202, R216, R219) -/

/-- A word that neither commits nor clears is stored. -/
theorem exec_strTableWrite_of_lt {n : Nat} (v : Nat) {s : State} (hn : n < 7) (hsel : getF s STR_IDX_SEL ≠ 3) :
    exec (.strTableWrite n v) s = .next (putF (STR_DATA_DATA n) v s) := by
  change execStrTableWrite n v s = _
  rw [execStrTableWrite, if_pos (by omega), if_neg hsel, if_neg (by omega)]

/-- A receive stream's counters and LEAD_MIN cleared. -/
def RxStr.cleared (x : RxStr) : RxStr := { x with
  cnt := [0, 0, 0, 0, 0, 0, 0]
  leadMin := none }

/-- In SEL 3 word 0 clears the counters of a stream of the variant, and no word commits. -/
theorem exec_strTableWrite_counters {n : Nat} (v : Nat) {s : State} (hn : n < 8) (hsel : getF s STR_IDX_SEL = 3) :
    exec (.strTableWrite n v) s = .next (if n = 0 ∧ getF s STR_IDX_INDEX < nRxs s
      then updRx (getF s STR_IDX_INDEX) RxStr.cleared (putF (STR_DATA_DATA n) v s) else putF (STR_DATA_DATA n) v s) := by
  change execStrTableWrite n v s = _
  rw [execStrTableWrite, if_pos hn, if_pos hsel]
  by_cases h0 : n = 0
  · subst h0
    simp only [true_and, if_true]
    rfl
  · simp only [h0, false_and, if_false]

/-- What the last word commits of entry `i`, with words `e`, to table `k`, before a stopped fabric takes it over. -/
def strCommit (k i : Nat) (e : List Nat) (s : State) : State :=
  match k with
  | 0 => setIf STR_STAT_CLS_CONFLICT (clsTwin s i e) { s with str := { s.str with cls := s.str.cls.set i e [0, 0, 0] } }
  | 1 => streamWrite (rxEntry s i) e (fun s => { s with str := { s.str with rx := s.str.rx.set i e [0, 0, 0, 0, 0, 0] } }) s
  | 4 => { s with str := { s.str with rxMap := s.str.rxMap.set i (e.getD 0 0) 0 } }
  | 5 => streamWrite (txEntry s i) e
      (fun s => { s with str := { s.str with tx := s.str.tx.set i e [0, 0, 0, 0, 0, 0, 0, 0] } }) s
  | 7 => { s with str := { s.str with txMap := s.str.txMap.set i (e.getD 0 0) 0 } }
  | _ => s

theorem strWrite_inside {k i : Nat} {s : State} (ws : List Nat) (h : i < tableSize s k) :
    strWrite k i ws s = settled (strCommit k i (strMasked k ws) s) := by
  change settled (if tableSize s k ≤ i then s else strCommit k i (strMasked k ws) s) = _
  rw [if_neg (Nat.not_le.2 h)]

/-- The eight words that the write of STR_DATA7 commits. -/
theorem strWords_putF_last (v : Nat) (s : State) :
    (List.range 8).map (fun k => getF (putF (STR_DATA_DATA 7) v s) (STR_DATA_DATA k))
      = (List.range 7).map (fun k => getF s (STR_DATA_DATA k)) ++ [lo32 v] := by
  have hd : ∀ k ∈ List.range 7, getF (putF (STR_DATA_DATA 7) v s) (STR_DATA_DATA k) = getF s (STR_DATA_DATA k) := fun k hk =>
    getF_putF_ne v s (by have := List.mem_range.1 hk; simp only [Fld.key, STR_DATA_DATA]; omega)
  rw [List.range_succ, List.map_append, List.map_congr_left hd]
  exact congrArg (_ ++ [·]) (getF_putF_self _ v s)

theorem exec_strTableWrite_last {v k i : Nat} {s : State} {e : List Nat} (hk : k = getF s STR_IDX_SEL) (h3 : k ≠ 3)
    (hi : i = getF s STR_IDX_INDEX) (hidx : i < tableSize s k)
    (he : e = strMasked k ((List.range 7).map (fun n => getF s (STR_DATA_DATA n)) ++ [lo32 v])) :
    exec (.strTableWrite 7 v) s = .next (settled (strCommit k i e (putF (STR_DATA_DATA 7) v s))) := by
  subst hk hi he
  change execStrTableWrite 7 v s = _
  rw [execStrTableWrite, if_pos (by decide), if_neg h3, if_pos rfl, strWords_putF_last, strWrite_inside]
  exact hidx

/-! ### A stream entry written (R202, R216) -/

/-- An entry with EN taken off its first word. -/
def sansEn (e : List Nat) : List Nat := e.set 0 (e.getD 0 0 / 2)

/-- Whether an entry is compared without its bit EN or with that bit at 0 is the same. -/
theorem sansEn_eq_iff (a b : List Nat) : sansEn a = sansEn b ↔ a.set 0 (a.getD 0 0 / 2 * 2) = b.set 0 (b.getD 0 0 / 2 * 2) := by
  match a, b with
  | [], [] => exact iff_of_true rfl rfl
  | [], _ :: _ => exact iff_of_false (List.cons_ne_nil _ _).symm (List.cons_ne_nil _ _).symm
  | _ :: _, [] => exact iff_of_false (List.cons_ne_nil _ _) (List.cons_ne_nil _ _)
  | x :: l, y :: m =>
    have hxy : x / 2 = y / 2 ↔ x / 2 * 2 = y / 2 * 2 := by omega
    simp only [sansEn, List.set_cons_zero, List.getD_cons_zero, List.cons.injEq, hxy]

theorem streamWrite_refused {old new : List Nat} (put : State → State) (s : State) (hen : ef old 0 0 1 = 1)
    (hne : sansEn old ≠ sansEn new) : streamWrite old new put s = putF STR_STAT_CFG_ERR 1 s :=
  if_pos ⟨hen, hne ∘ (sansEn_eq_iff old new).2⟩

theorem streamWrite_taken {old new : List Nat} (put : State → State) (s : State)
    (h : ef old 0 0 1 = 0 ∨ sansEn old = sansEn new) :
    streamWrite old new put s = setIf STR_STAT_CFG_ERR (ef new 0 0 1 == 1 && 5 ≤ ef new 0 3 3) (put s) :=
  if_neg fun ⟨hen, hne⟩ => h.elim (fun h0 => by omega) (hne ∘ (sansEn_eq_iff old new).1)

/-- A reserved PTIME in an enabled entry, as a condition and as the model computes it. -/
theorem reservedPtime_iff (e : List Nat) :
    (ef e 0 0 1 == 1 && decide (5 ≤ ef e 0 3 3)) = true ↔ ef e 0 0 1 = 1 ∧ 5 ≤ ef e 0 3 3 := by simp

/-! ### The obligation -/

section
/-! One of the two stream tables: `get` is the table, `put` replaces it, and `t` is what the last word of an entry leaves. -/

variable {get : Str → AMap (List Nat)} {put : AMap (List Nat) → Str → Str} {old e d : List Nat} {i v : Nat} {s t : State}
  (ht : t = streamWrite old e (fun x => { x with str := put ((get x.str).set i e d) x.str }) (putF (STR_DATA_DATA 7) v s))
include ht

theorem streamWrite_refused_effect (hen : ef old 0 0 1 = 1) (hne : sansEn old ≠ sansEn e) :
    OnlyFields s t [(STR_DATA_DATA 7, v), (STR_STAT_CFG_ERR, 1)] := by
  rw [ht, streamWrite_refused _ _ hen hne]
  exact OnlyFields.putF_then s v 1 (by decide)

theorem streamWrite_taken_effect (hput : ∀ m x, get (put m x) = m) (h : ef old 0 0 1 = 0 ∨ sansEn old = sansEn e) :
    (get t.str).get i d = e ∧ (∀ j, j ≠ i → (get t.str).get j d = (get s.str).get j d)
      ∧ OnlyFields { s with str := t.str } t
        ((STR_DATA_DATA 7, v) :: if ef e 0 0 1 = 1 ∧ 5 ≤ ef e 0 3 3 then [(STR_STAT_CFG_ERR, 1)] else []) := by
  rw [streamWrite_taken _ _ h] at ht
  have hstr : t.str = put ((get s.str).set i e d) s.str := by rw [ht, setIf_str, putF_str]
  refine ⟨?_, fun j hj => ?_, ?_⟩
  · rw [hstr, hput, AMap.get_set_self]
  · rw [hstr, hput, AMap.get_set_ne _ _ _ _ hj]
  · rw [hstr, ht]
    exact OnlyFields.putF_setIf _ v (by decide) (reservedPtime_iff e)

end

/-- Settles O32, by what each write of a data word does: the words before the last are only stored (`rteWrite_of_lt`,
`dynWrite_of_lt`, `exec_strTableWrite_of_lt`), and the last commits (`rteWrite_last`, `dynWrite_last`,
`exec_strTableWrite_last`). -/
theorem tableWrites : Obligations.TableWrites := by
  refine ⟨fun n v s hn => exec_rteTableWrite v s hn, fun n v s hn hsel => ?rteWord, fun v s hsel hidx hlock => ?rteLocked,
    fun v s lo hi hsel hidx hlock hlo hhi hc => ?rteMismatch,
    fun v s i lo hi hi' hidx hlock hlo hhi hc => ⟨fun hsel => ?route, fun hsel => ?record⟩,
    fun n v s hn => exec_dynTableWrite v s hn, fun n v s hn hsel => ?dynWord, fun v s i hi hsel hidx hlock => ?dynLocked,
    fun v s i hi hsel hidx hlock => ?dynamics,
    fun n v s hn hsel => ⟨_, exec_strTableWrite_of_lt v hn hsel, OnlyFields.putF s _ v⟩,
    fun n v s i hn hsel hi => ?counters,
    fun v s i k e hk hi hidx he => ⟨fun h => ?cls, fun h => ?rxMap, fun h => ?txMap, fun h => ?rx, fun h => ?tx⟩⟩
  case rteWord =>
    exact ⟨_, exec_rteTableWrite v s (by omega), rteWrite_of_lt v hn hsel ▸ OnlyFields.putF s _ v⟩
  case rteLocked =>
    refine ⟨_, exec_rteTableWrite v s (by decide), ?_⟩
    rw [rteWrite_last hsel hidx rfl rfl, rtePair_locked ((rteLocked_putF_data v s).trans hlock)]
    exact OnlyFields.putF_then s v 1 (by decide)
  case rteMismatch =>
    refine ⟨_, exec_rteTableWrite v s (by decide), ?_⟩
    rw [rteWrite_last hsel hidx hlo hhi, rtePair_mismatch ((rteLocked_putF_data v s).trans hlock) hc]
    exact OnlyFields.putF_then s v 1 (by decide)
  case route =>
    subst hi'
    refine ⟨_, exec_rteTableWrite v s (by decide), ?_⟩
    rw [rteWrite_last (.inl hsel) hidx hlo hhi, rtePair_matched ((rteLocked_putF_data v s).trans hlock) hc, if_pos hsel]
    exact ⟨OnlyFields.putF _ _ v, AMap.get_set_self _ _ _ _, fun j hj => AMap.get_set_ne _ _ _ _ hj⟩
  case record =>
    subst hi'
    refine ⟨_, exec_rteTableWrite v s (by decide), ?_⟩
    rw [rteWrite_last (.inr hsel) hidx hlo hhi, rtePair_matched ((rteLocked_putF_data v s).trans hlock) hc,
      if_neg (by rw [hsel]; decide)]
    exact ⟨OnlyFields.putF _ _ v, AMap.get_set_self _ _ _ _, fun j hj => AMap.get_set_ne _ _ _ _ hj⟩
  case dynWord =>
    exact ⟨_, exec_dynTableWrite v s (by omega), dynWrite_of_lt v hn hsel ▸ OnlyFields.putF s _ v⟩
  case dynLocked =>
    subst hi
    refine ⟨_, exec_dynTableWrite v s (by decide), ?_⟩
    rw [dynWrite_last v hsel hidx, if_pos hlock]
    exact OnlyFields.putF_then s v 1 (by decide)
  case dynamics =>
    subst hi
    refine ⟨_, exec_dynTableWrite v s (by decide), ?_⟩
    rw [dynWrite_last v hsel hidx, if_neg (Bool.not_eq_true _ ▸ hlock)]
    exact ⟨OnlyFields.putF _ _ v, putShadow_get_self _ _ _, fun j hj => putShadow_get_ne _ _ hj⟩
  case counters =>
    subst hi
    refine ⟨_, exec_strTableWrite_counters v hn hsel, ?_⟩
    split
    next =>
      exact ⟨OnlyFields.putF _ _ v, fun hout => by omega, fun _ _ =>
        ⟨(rxStr_updRx _ _ _ _).trans (if_pos rfl), fun j hj => (rxStr_updRx _ _ _ _).trans (if_neg hj)⟩⟩
    next hkept => exact ⟨OnlyFields.putF _ _ v, fun _ => rfl, fun h0 hi => absurd (And.intro h0 hi) hkept⟩
  case cls =>
    subst h
    refine ⟨_, exec_strTableWrite_last hk (by decide) hi hidx he, setIf_str _ _ _, ?_⟩
    rw [strCommit, setIf_str]
    exact OnlyFields.putF_setIf _ v (by decide) Iff.rfl
  case rxMap =>
    subst h
    exact ⟨_, exec_strTableWrite_last hk (by decide) hi hidx he, rfl, OnlyFields.putF _ _ v⟩
  case txMap =>
    subst h
    exact ⟨_, exec_strTableWrite_last hk (by decide) hi hidx he, rfl, OnlyFields.putF _ _ v⟩
  case rx =>
    subst h
    have hx := exec_strTableWrite_last hk (by decide) hi hidx he
    exact ⟨fun hen hne =>
        ⟨_, hx, streamWrite_refused_effect (get := Str.rx) (put := fun m x => { x with rx := m }) rfl hen hne⟩,
      fun h => ⟨_, hx, streamWrite_taken_effect (get := Str.rx) (put := fun m x => { x with rx := m }) rfl (fun _ _ => rfl) h⟩⟩
  case tx =>
    subst h
    have hx := exec_strTableWrite_last hk (by decide) hi hidx he
    exact ⟨fun hen hne =>
        ⟨_, hx, streamWrite_refused_effect (get := Str.tx) (put := fun m x => { x with tx := m }) rfl hen hne⟩,
      fun h => ⟨_, hx, streamWrite_taken_effect (get := Str.tx) (put := fun m x => { x with tx := m }) rfl (fun _ _ => rfl) h⟩⟩

end Sys2Proof.Machine

/-! ## Registers of the port engine (R165 to R178) -/

namespace Sys2Proof.Machine

/-! ### Keys of register fields -/

/-- Fields that start at different bits have different keys. -/
theorem Fld.key_ne_of_bit {f g : Fld} (h : (f.lo % 32 == g.lo % 32) = false) : f.key ≠ g.key := by
  intro e
  have : f.lo % 32 ≠ g.lo % 32 := by simpa using h
  unfold Fld.key at e
  omega

/-- The registers of the port engine lie below the seats' blocks: a lane, an ASRC and an AES3 port have 16 bytes each. -/
theorem Fld.key_below {f : Fld} {a n : Nat} (h : f.addr = a + 16 * n) (hn : n < 64) (ha : Nat.ble a 0x20080200 = true)
    (hb : Nat.blt f.lo 32 = true) : f.key < 0x20100000 * 32 := by
  have := Nat.le_of_ble_eq_true ha
  have := Nat.le_of_ble_eq_true hb
  unfold Fld.key
  omega

/-- Two registers of one lane, ASRC or AES3 port. -/
theorem Fld.key_ne_of_addr {f g : Fld} {a b n : Nat} (hf : f.addr = a + 16 * n) (hg : g.addr = b + 16 * n)
    (h : Nat.beq a b = false) (hlf : Nat.blt f.lo 32 = true) (hlg : Nat.blt g.lo 32 = true) : f.key ≠ g.key := by
  have := Nat.ne_of_beq_eq_false h
  have := Nat.le_of_ble_eq_true hlf
  have := Nat.le_of_ble_eq_true hlg
  unfold Fld.key
  omega

/-- No register of the port engine holds RUNNING. -/
theorem Fld.running_ne {f : Fld} {a n : Nat} (h : f.addr = a + 16 * n) (ha : Nat.ble 0x20070000 a = true) :
    FAB_TL_STATUS_RUNNING.key ≠ f.key := by
  have := Nat.le_of_ble_eq_true ha
  simp only [Fld.key, FAB_TL_STATUS_RUNNING]
  omega

/-- What telling a seat writes lies in the seats' blocks (R341, R347). -/
theorem tellKey_of_below {k : Nat} (h : k < 0x20100000 * 32) : tellKey k = false := by
  rw [tellKey, decide_eq_false (by omega), Bool.false_and]

/-- There are fewer than 16 AES3 ports. -/
theorem lt_of_lt_nAes {n : Nat} {s : State} (h : n < nAes s) : n < 64 :=
  Nat.lt_trans (Nat.lt_trans h (bits_four_lt _ _)) (by decide)

/-! ### What an operation of the port engine leaves alone -/

/-- From `s` to `t` nothing happens but that seats are told something and that fields below the seats' blocks whose keys satisfy
`K` are written. -/
structure Within (K : Nat → Prop) (s t : State) : Prop where
  rest : t = { s with regs := t.regs, seats := t.seats, out := t.out }
  regs : ∀ f : Fld, f.key < 0x20100000 * 32 → ¬ K f.key → getF t f = getF s f

theorem Told.within {s t : State} (h : Told s t) (K : Nat → Prop) : Within K s t :=
  ⟨h.rest, fun f hf _ => h.getF f (tellKey_of_below hf)⟩

section
variable {K : Nat → Prop} {s t u : State}

theorem Within.refl (K : Nat → Prop) (s : State) : Within K s s := (Told.refl s).within K

theorem Within.trans (h : Within K s t) (k : Within K t u) : Within K s u where
  rest := by rw [k.rest, h.rest]
  regs f hf hK := (k.regs f hf hK).trans (h.regs f hf hK)

theorem Within.mono {K' : Nat → Prop} (h : Within K s t) (hK : ∀ k, K k → K' k) : Within K' s t :=
  ⟨h.rest, fun f hf hn => h.regs f hf (mt (hK _) hn)⟩

theorem Within.putF {f : Fld} (hf : K f.key) (v : Nat) (s : State) : Within K s (putF f v s) :=
  ⟨rfl, fun _ _ hg => getF_putF_ne v s fun e => hg (e ▸ hf)⟩

theorem Within.one (f : Fld) (v : Nat) (s : State) : Within (· = f.key) s (Machine.putF f v s) :=
  ⟨rfl, fun _ _ hg => getF_putF_ne v s hg⟩

theorem Within.foldl {α : Type} {l : List α} {g : State → α → State} (h : ∀ x ∈ l, ∀ s, Within K s (g s x)) (s : State) :
    Within K s (l.foldl g s) := by
  induction l generalizing s with
  | nil => exact .refl K s
  | cons x l ih =>
    exact (h x List.mem_cons_self s).trans (ih (fun y hy => h y (List.mem_cons_of_mem x hy)) (g s x))

theorem Within.port (h : Within K s t) : t.port = s.port := by rw [h.rest]

theorem Within.aesOf (h : Within K s t) (n : Nat) : aesOf t n = aesOf s n := by
  rw [Machine.aesOf, h.port, ← Machine.aesOf]

end

/-- What the audio side sees of a field depends on that field, on RUNNING and on the settings in effect (R14). -/
theorem flagL_congr {s t : State} {f : Fld} (hl : t.live = s.live)
    (hr : getF t FAB_TL_STATUS_RUNNING = getF s FAB_TL_STATUS_RUNNING) (hf : getF t f = getF s f) : flagL t f = flagL s f := by
  unfold flagL getL flag
  rw [hl, hr, hf]

theorem Within.flagL {K : Nat → Prop} {s t : State} (h : Within K s t) (f : Fld) (hr : ¬ K FAB_TL_STATUS_RUNNING.key)
    (hf : f.key < 0x20100000 * 32) (hK : ¬ K f.key) : flagL t f = flagL s f :=
  flagL_congr (by rw [h.rest]) (h.regs _ (by decide) hr) (h.regs f hf hK)

theorem flag_putB_self {f : Fld} (hw : f.width = 1) (b : Bool) (s : State) : flag (putB f b s) f = b := by
  rw [flag, putB, getF_putF_self, hw]
  cases b <;> rfl

theorem getF_putB_self {f : Fld} (hw : f.width = 1) (b : Bool) (s : State) : getF (putB f b s) f = b2n b := by
  rw [putB, getF_putF_self, hw]
  cases b <;> rfl

/-- A counter that holds at its maximum is not cut. -/
theorem getF_bump_self (f : Fld) (n : Nat) (s : State) :
    getF (bump f n s) f = min (getF s f + n) (2 ^ f.width - 1) := by
  have := Nat.two_pow_pos f.width
  rw [bump, getF_putF_self]
  exact Nat.mod_eq_of_lt (by omega)

theorem getF_bump_ne {f g : Fld} (n : Nat) (s : State) (h : f.key ≠ g.key) : getF (bump g n s) f = getF s f :=
  getF_putF_ne _ s h

theorem portState_told (what idx : Nat) (s : State) : Told s (portState what idx s) := (Told.refl s).raiseOwner _ _ _ _

theorem nonAudioEvent_told (rx : Bool) (idx : Nat) (s : State) : Told s (nonAudioEvent rx idx s) :=
  (Told.refl s).raiseOwner _ _ _ _

end Sys2Proof.Machine

/-! ## Rate conversion (R176 to R178) -/

namespace Sys2Proof.Machine

/-! ### What changes an ASRC, and what that leaves alone -/

section
variable {i r st : Nat} {s : State}

/-- Whether a key is that of a field `f` of one of the 64 ASRCs. -/
def asrcField (f : Nat → Fld) (k : Nat) : Prop := ∃ j, j < 64 ∧ k = (f j).key

theorem setAsrc_within (i st : Nat) (s : State) : Within (· = (SP_ASRC_STAT_STATE i).key) s (setAsrc i st s) := by
  unfold setAsrc
  split
  · exact .refl _ s
  · exact (Within.one _ st s).trans ((portState_told 2 i _).within _)

theorem setAsrc_state (hi : i < 64) (hst : st < 4) (s : State) : getF (setAsrc i st s) (SP_ASRC_STAT_STATE i) = st := by
  unfold setAsrc
  split
  case isTrue h => exact h
  case isFalse =>
    rw [(portState_told 2 i _).getF _ (tellKey_of_below (Fld.key_below rfl hi rfl rfl)), getF_putF_self]
    exact Nat.mod_eq_of_lt hst

/-- An ASRC in no gang takes up its own ratio. -/
theorem setRatio_solo (h : flagL s (SP_ASRC_CTL_GANG_EN i) = false) : setRatio i r s = putF (SP_ASRC_RATIO_RATIO i) r s := by
  rw [setRatio, h]
  rfl

theorem mem_gangOf {l k : Nat} (h : k ∈ gangOf s l) : k < 64 := List.mem_range.1 (List.mem_filter.1 h).1

theorem setRatio_within (hi : i < 64) (r : Nat) (s : State) : Within (asrcField SP_ASRC_RATIO_RATIO) s (setRatio i r s) := by
  have own : Within (asrcField SP_ASRC_RATIO_RATIO) s (putF (SP_ASRC_RATIO_RATIO i) r s) := .putF ⟨i, hi, rfl⟩ r s
  unfold setRatio
  split
  case isTrue =>
    split
    case isTrue => exact .foldl (fun k hk => .putF ⟨k, mem_gangOf hk, rfl⟩ r) s
    case isFalse =>
      split
      · exact .refl _ s
      · exact own
  case isFalse => exact own

/-- An ASRC in no gang leads itself while it is LOCKED. -/
theorem setLeading_solo (h : flagL s (SP_ASRC_CTL_GANG_EN i) = false) :
    setLeading i s = putB (SP_ASRC_STAT_LEADING i) (getF s (SP_ASRC_STAT_STATE i) == 2) s := by
  rw [setLeading, h]
  rfl

theorem setLeading_within (hi : i < 64) (s : State) : Within (asrcField SP_ASRC_STAT_LEADING) s (setLeading i s) := by
  by_cases h : flagL s (SP_ASRC_CTL_GANG_EN i) = true
  · rw [setLeading, h]
    exact .foldl (fun k hk => .putF ⟨k, mem_gangOf hk, rfl⟩ _) s
  · rw [setLeading_solo (by simpa using h)]
    exact .putF ⟨i, hi, rfl⟩ _ s

theorem setLeading_leading (h : flagL s (SP_ASRC_CTL_GANG_EN i) = false) :
    getF (setLeading i s) (SP_ASRC_STAT_LEADING i) = b2n (getF s (SP_ASRC_STAT_STATE i) == 2) := by
  rw [setLeading_solo h, getF_putB_self rfl]

/-- A field at another bit than LEADING's does not change with the choice of a leader. -/
theorem getF_setLeading {f : Fld} (hi : i < 64) (hf : f.key < 0x20100000 * 32) (hb : (f.lo % 32 == 4) = false) (s : State) :
    getF (setLeading i s) f = getF s f :=
  (setLeading_within hi s).regs f hf fun ⟨_, _, e⟩ => Fld.key_ne_of_bit hb e

end

/-! ### The three commands -/

section
variable {i r f : Nat} {s : State}

theorem exec_asrcAcquireLock (hi : i < nAsrc s) (hs : getF s (SP_ASRC_STAT_STATE i) = 1) (hr : ratioOk r = true)
    (hlo : asrcDelay s i ≤ f + 1) (hhi : f ≤ asrcDelay s i + 1) : exec (.asrcAcquireLock i r f) s
      = .next (setLeading i (setAsrc i 2 (setRatio i r (putF (SP_ASRC_STAT_FILL i) f s)))) :=
  if_pos (by simp [hi, hs, hr, hlo, hhi])

theorem exec_asrcSourceLost (hi : i < nAsrc s) (hs : getF s (SP_ASRC_STAT_STATE i) = 2) :
    exec (.asrcSourceLost i) s = .next (setLeading i (setAsrc i 3 s)) := if_pos (by simp [hi, hs])

theorem exec_asrcFifoEmpty (hi : i < nAsrc s) (hs : getF s (SP_ASRC_STAT_STATE i) = 3) :
    exec (.asrcFifoEmpty i) s = .next (setAsrc i 0 (putF (SP_ASRC_STAT_FILL i) 0 s)) := if_pos (by simp [hi, hs])

/-- A ratio of at most 2 fits the 32 bits of RATIO. -/
theorem ratioOk_lt (h : ratioOk r = true) : r < 2 ^ 32 := by
  have hle : r ≤ 0x80000000 := by simpa using (Bool.and_eq_true_iff.1 h).2
  omega

/-- A change of state does not put an ASRC into a gang or out of one. -/
theorem flagL_gang_setAsrc (hi : i < 64) (st : Nat) (s : State) :
    flagL (setAsrc i st s) (SP_ASRC_CTL_GANG_EN i) = flagL s (SP_ASRC_CTL_GANG_EN i) :=
  (setAsrc_within i st s).flagL _ (Fld.running_ne rfl rfl) (Fld.key_below rfl hi rfl rfl) (Fld.key_ne_of_bit rfl)

theorem getF_setAsrc {g : Fld} (hg : g.key < 0x20100000 * 32) (hk : g.key ≠ (SP_ASRC_STAT_STATE i).key) (st : Nat)
    (s : State) : getF (setAsrc i st s) g = getF s g := (setAsrc_within i st s).regs g hg hk

/-- The state of an ASRC that has changed it, once the leader has been chosen again. -/
theorem setLeading_setAsrc_state {st : Nat} (hi : i < 64) (hst : st < 4) (s : State) :
    getF (setLeading i (setAsrc i st s)) (SP_ASRC_STAT_STATE i) = st := by
  rw [getF_setLeading hi (Fld.key_below rfl hi rfl rfl) rfl, setAsrc_state hi hst]

theorem setLeading_setAsrc_leading {st : Nat} (hi : i < 64) (hst : st < 4) (hg : flagL s (SP_ASRC_CTL_GANG_EN i) = false) :
    getF (setLeading i (setAsrc i st s)) (SP_ASRC_STAT_LEADING i) = b2n (st == 2) := by
  rw [setLeading_leading (by rw [flagL_gang_setAsrc hi, hg]), setAsrc_state hi hst]

theorem flagL_gang_putFill (hi : i < 64) (f : Nat) (s : State) :
    flagL (putF (SP_ASRC_STAT_FILL i) f s) (SP_ASRC_CTL_GANG_EN i) = flagL s (SP_ASRC_CTL_GANG_EN i) :=
  (Within.one (SP_ASRC_STAT_FILL i) f s).flagL _ (Fld.running_ne rfl rfl) (Fld.key_below rfl hi rfl rfl)
    (Fld.key_ne_of_bit rfl)

theorem flagL_gang_setRatio (hi : i < 64) (r : Nat) (s : State) :
    flagL (setRatio i r s) (SP_ASRC_CTL_GANG_EN i) = flagL s (SP_ASRC_CTL_GANG_EN i) :=
  (setRatio_within hi r s).flagL _ (fun ⟨_, _, e⟩ => Fld.running_ne rfl rfl e) (Fld.key_below rfl hi rfl rfl)
    fun ⟨_, _, e⟩ => Fld.key_ne_of_bit rfl e

/-- What ASRC_ACQUIRE_LOCK leaves of an ACQUIRING converter (R177). -/
theorem asrcAcquireLock_effect (hi : i < nAsrc s) (hs : getF s (SP_ASRC_STAT_STATE i) = 1) (hr : ratioOk r = true)
    (hlo : asrcDelay s i ≤ f + 1) (hhi : f ≤ asrcDelay s i + 1) : ∃ t, exec (.asrcAcquireLock i r f) s = .next t
      ∧ getF t (SP_ASRC_STAT_STATE i) = 2 ∧ getF t (SP_ASRC_STAT_FILL i) = f
      ∧ (flagL s (SP_ASRC_CTL_GANG_EN i) = false →
        getF t (SP_ASRC_RATIO_RATIO i) = r ∧ getF t (SP_ASRC_STAT_LEADING i) = 1) := by
  have h64 : i < 64 := Nat.lt_of_lt_of_le hi (nAsrc_le s)
  have hfill := Fld.key_below (f := SP_ASRC_STAT_FILL i) rfl h64 rfl rfl
  have hratio := Fld.key_below (f := SP_ASRC_RATIO_RATIO i) rfl h64 rfl rfl
  refine ⟨_, exec_asrcAcquireLock hi hs hr hlo hhi, setLeading_setAsrc_state h64 (by decide) _, ?fill, fun hg => ⟨?ratio, ?leading⟩⟩
  case fill =>
    have hf : f < 256 := by
      have : asrcDelay s i ≤ 64 := by unfold asrcDelay; split <;> decide
      omega
    rw [getF_setLeading h64 hfill rfl, getF_setAsrc hfill (Fld.key_ne_of_bit rfl),
      (setRatio_within h64 r _).regs _ hfill fun ⟨_, _, e⟩ => Fld.key_ne_of_bit rfl e, getF_putF_self]
    exact Nat.mod_eq_of_lt hf
  case ratio =>
    have hne : (SP_ASRC_RATIO_RATIO i).key ≠ (SP_ASRC_STAT_STATE i).key := Fld.key_ne_of_addr rfl rfl rfl rfl rfl
    rw [getF_setLeading h64 hratio rfl, getF_setAsrc hratio hne, setRatio_solo ((flagL_gang_putFill h64 f s).trans hg), getF_putF_self]
    exact Nat.mod_eq_of_lt (ratioOk_lt hr)
  case leading =>
    refine setLeading_setAsrc_leading h64 (by decide) ?_
    rw [flagL_gang_setRatio h64, flagL_gang_putFill h64, hg]

end

/-! ### The obligation -/

/-- Settles O35: a converter's state, ratio and fill stay as they are while the leader is chosen (`getF_setLeading`), and one
in no gang leads as long as it is LOCKED (`setLeading_leading`). -/
theorem rateConversion : Obligations.RateConversion := by
  refine ⟨fun _ _ _ _ => asrcAcquireLock_effect, fun i s hi hs => ?lost, fun i s hi hs => ?empty⟩
  all_goals have h64 : i < 64 := Nat.lt_of_lt_of_le hi (nAsrc_le s)
  case lost =>
    exact ⟨_, exec_asrcSourceLost hi hs, setLeading_setAsrc_state h64 (by decide) s, setLeading_setAsrc_leading h64 (by decide)⟩
  case empty =>
    refine ⟨_, exec_asrcFifoEmpty hi hs, setAsrc_state h64 (by decide) _, ?_⟩
    rw [getF_setAsrc (Fld.key_below rfl h64 rfl rfl) (Fld.key_ne_of_bit rfl), getF_putF_self]
    rfl

end Sys2Proof.Machine

/-! ## AES3 ports (R173 to R175, R179 to R181) -/

namespace Sys2Proof.Machine

/-! ### What a source frame changes (R177) -/

section
variable {i r : Nat} {s : State}

/-- Whether a key is that of a register of an ASRC. -/
def asrcKey (k : Nat) : Prop := 0x20071000 * 32 ≤ k ∧ k < 0x20071400 * 32

theorem asrcKey_of {f : Fld} {a n : Nat} (h : f.addr = a + 16 * n) (hn : n < 64) (ha : Nat.ble 0x20071000 a = true)
    (ha' : Nat.blt a 0x20071010 = true) (hb : Nat.blt f.lo 32 = true) : asrcKey f.key := by
  have := Nat.le_of_ble_eq_true ha
  have := Nat.le_of_ble_eq_true ha'
  have := Nat.le_of_ble_eq_true hb
  unfold asrcKey Fld.key
  omega

/-- The registers of the AES3 ports are none of an ASRC's. -/
theorem not_asrcKey {f : Fld} {a n : Nat} (h : f.addr = a + 16 * n) (ha : Nat.ble 0x20080000 a = true) : ¬ asrcKey f.key := by
  have := Nat.le_of_ble_eq_true ha
  unfold asrcKey Fld.key
  omega

theorem asrcServes_lt {p : Nat} (h : asrcServes s i p = true) : i < 64 := by
  have hi : i < nAsrc s := by simpa using (Bool.and_eq_true_iff.1 (Bool.and_eq_true_iff.1 h).1).1
  exact Nat.lt_of_lt_of_le hi (nAsrc_le s)

/-- A source frame changes registers of ASRCs only. -/
theorem asrcFrame_within (hi : i < 64) (r : Nat) (s : State) : Within asrcKey s (asrcFrame i r s) := by
  have state (st : Nat) (x : State) : Within asrcKey x (setAsrc i st x) :=
    (setAsrc_within i st x).mono fun _ e => e ▸ asrcKey_of rfl hi rfl rfl rfl
  have ratio (x : State) : Within asrcKey x (setRatio i r x) :=
    (setRatio_within hi r x).mono fun _ ⟨_, hj, e⟩ => e ▸ asrcKey_of rfl hj rfl rfl rfl
  have lead (x : State) : Within asrcKey x (setLeading i x) :=
    (setLeading_within hi x).mono fun _ ⟨_, hj, e⟩ => e ▸ asrcKey_of rfl hj rfl rfl rfl
  have range (v : Nat) (x : State) : Within asrcKey x (putF (SP_ASRC_STAT_RANGE i) v x) := .putF (asrcKey_of rfl hi rfl rfl rfl) v x
  have fill (v : Nat) (x : State) : Within asrcKey x (putF (SP_ASRC_STAT_FILL i) v x) := .putF (asrcKey_of rfl hi rfl rfl rfl) v x
  unfold asrcFrame
  split
  case h_1 =>
    split
    · exact (ratio s).trans (state 1 _)
    · exact range 1 s
  case h_2 => exact ratio s
  case h_3 =>
    split
    · exact ratio s
    · exact (((range 1 s).trans (fill 0 _)).trans (state 0 _)).trans (lead _)
  case h_4 => exact ((ratio s).trans (fill 0 _)).trans (state 1 _)

end

/-! ### The non-audio mark and LOCK (R173, R179, R180) -/

section
variable {n a b rate ratio : Nat} {v : Bool} {s : State}

/-- The NONAUDIO bit of a receiver, or of a lane. -/
def nonAudioFld (rx : Bool) (idx : Nat) : Fld := if rx then AES_RX_STAT_NONAUDIO idx else SP_LANE_STAT_NONAUDIO idx

theorem setNonAudio_of_eq {rx : Bool} {idx : Nat} (h : flag s (nonAudioFld rx idx) = v) : setNonAudio rx idx v s = s := if_pos h

theorem setNonAudio_told {rx : Bool} {idx : Nat} (h : flag s (nonAudioFld rx idx) ≠ v) :
    Told (putB (nonAudioFld rx idx) v s) (setNonAudio rx idx v s) := by
  have e : setNonAudio rx idx v s = nonAudioEvent rx idx (putB (nonAudioFld rx idx) v s) := if_neg h
  rw [e]
  exact nonAudioEvent_told rx idx _

theorem setNonAudio_within (rx : Bool) (idx : Nat) (v : Bool) (s : State) :
    Within (· = (nonAudioFld rx idx).key) s (setNonAudio rx idx v s) := by
  by_cases h : flag s (nonAudioFld rx idx) = v
  · rw [setNonAudio_of_eq h]
    exact .refl _ s
  · exact (Within.one _ _ s).trans ((setNonAudio_told h).within _)

theorem flag_setNonAudio_rx (hn : n < 64) (v : Bool) (s : State) :
    flag (setNonAudio true n v s) (AES_RX_STAT_NONAUDIO n) = v := by
  by_cases h : flag s (nonAudioFld true n) = v
  · rw [setNonAudio_of_eq h]
    exact h
  · have told : getF (setNonAudio true n v s) (nonAudioFld true n) = _ :=
      (setNonAudio_told h).getF _ (tellKey_of_below (Fld.key_below (f := AES_RX_STAT_NONAUDIO n) rfl hn rfl rfl))
    change flag (setNonAudio true n v s) (nonAudioFld true n) = v
    rw [flag, told, ← flag, flag_putB_self rfl]

theorem setLock_within (n : Nat) (v : Bool) (s : State) : Within (· = (AES_RX_STAT_LOCK n).key) s (setLock n v s) := by
  unfold setLock
  split
  · exact .refl _ s
  · exact (Within.one _ _ s).trans ((portState_told 1 n _).within _)

theorem setLock_lock (hn : n < 64) (h : flag s (AES_RX_STAT_LOCK n) ≠ v) :
    getF (setLock n v s) (AES_RX_STAT_LOCK n) = b2n v := by
  rw [setLock, if_neg h, (portState_told 1 n _).getF _ (tellKey_of_below (Fld.key_below rfl hn rfl rfl)), getF_putB_self rfl]

/-- A receiver's non-audio search touches no register but its NONAUDIO bit. -/
theorem getF_aesNa {f : Fld} (hf : f.key < 0x20100000 * 32) (hk : f.key ≠ (AES_RX_STAT_NONAUDIO n).key) (a b : Nat) (s : State) :
    getF (aesNa n a b s) f = getF s f := by
  have na (v : Bool) (x : State) : getF (setNonAudio true n v x) f = getF x f := (setNonAudio_within true n v x).regs f hf hk
  unfold aesNa
  split
  case isTrue =>
    split
    · exact na true _
    · rfl
  case isFalse => exact na false _

/-- Without a search for preambles no frame is muted, and the buffer stays as it is. -/
theorem aesNa_off (h : flagL s (AES_RX_CTL_NA_EN n) = false) (a b : Nat) :
    aesNa n a b s = setNonAudio true n false (updAes n (fun t => { t with naMute := false, naHold := 0 }) s) := by
  rw [aesNa, h]
  rfl

/-! ### A good frame (R173)

Its steps: the run of good frames of one rate that it continues or begins, what is noted of it, what that does
to LOCK and RATE, and where its samples go. -/

/-- The run of good frames of one rate, after one more. -/
def AesSt.run (t : AesSt) (rate : Nat) : Nat := if rate == 0 then 0 else if t.rate = rate then t.good + 1 else 1

/-- A good frame noted: its samples, its rate, its validity bit. -/
def rxNoted (n a b : Nat) (v : Bool) (rate : Nat) (s : State) : State :=
  bump (AES_RX_CNT_PARITY_ERR n) 0 (updAes n (fun t => { t with
    good := min ((aesOf s n).run rate) 16, rate := rate % 8, lastA := alignWord 24 a, lastB := alignWord 24 b
    vNow := t.vNow || v }) s)

/-- LOCK and RATE after a good frame that ends a run of `good`. -/
def rxTracked (n rate good : Nat) (s : State) : State :=
  if flag s (AES_RX_STAT_LOCK n) then
    if rate % 8 != 0 && rate % 8 != getF s (AES_RX_STAT_RATE n) && 16 ≤ good then putF (AES_RX_STAT_RATE n) rate s else s
  else if 16 ≤ good then setLock n true (putF (AES_RX_STAT_RATE n) rate s) else s

/-- A receiver that has heard a good frame, before the frame's samples go anywhere. -/
def rxHeard (n a b : Nat) (v : Bool) (rate : Nat) (s : State) : State :=
  rxTracked n rate ((aesOf s n).run rate) (rxNoted n a b v rate s)

/-- A pair of samples put into a receiver's buffer of four; the oldest of a full one goes and is counted (R173). -/
def rxBuffered (n : Nat) (p : Nat × Nat) (s : State) : State :=
  if (aesOf s n).buf.length < 4 then updAes n (fun t => { t with buf := t.buf ++ [p] }) s
  else bump (AES_RX_CNT_SLIP n) 1 (updAes n (fun t => { t with buf := t.buf.drop 1 ++ [p] }) s)

/-- The samples of a locked receiver's frame go to its ASRC or into its buffer; `e` is the state in which the settings are read. -/
def rxPassed (e : State) (n wa wb ratio : Nat) (s : State) : State :=
  if flagL e (AES_RX_CTL_ASRC_EN n) then
    if asrcServes e (getL e (AES_RX_CTL_ASRC n)) (48 + n) then asrcFrame (getL e (AES_RX_CTL_ASRC n)) ratio s else s
  else rxBuffered n (if flag s (AES_RX_STAT_NONAUDIO n) then (0, 0) else (wa, wb)) s

theorem next_rxPassed (e : State) (n wa wb ratio : Nat) (s : State) :
    (.next (rxPassed e n wa wb ratio s) : Host.Outcome State Fault Refusal) =
      if flagL e (AES_RX_CTL_ASRC_EN n) then
        .next (if asrcServes e (getL e (AES_RX_CTL_ASRC n)) (48 + n) then asrcFrame (getL e (AES_RX_CTL_ASRC n)) ratio s else s)
      else .next (rxBuffered n (if flag s (AES_RX_STAT_NONAUDIO n) then (0, 0) else (wa, wb)) s) := by
  rw [rxPassed, apply_ite Host.Outcome.next]

theorem next_rxBuffered (n : Nat) (p : Nat × Nat) (s : State) :
    (.next (rxBuffered n p s) : Host.Outcome State Fault Refusal) =
      if (aesOf s n).buf.length < 4 then .next (updAes n (fun t => { t with buf := t.buf ++ [p] }) s)
      else .next (bump (AES_RX_CNT_SLIP n) 1 (updAes n (fun t => { t with buf := t.buf.drop 1 ++ [p] }) s)) := by
  rw [rxBuffered, apply_ite Host.Outcome.next]

theorem exec_aes3RxFrame_good (hn : n < nAes s) (hen : flagL s (AES_RX_CTL_EN n) = true)
    (hl : flag (rxHeard n a b v rate s) (AES_RX_STAT_LOCK n) = true) : exec (.aes3RxFrame n a b false false v rate ratio) s
      = .next (rxPassed s n (alignWord 24 a) (alignWord 24 b) ratio
          (aesNa n (alignWord 24 a) (alignWord 24 b) (rxHeard n a b v rate s))) := by
  have hin : (decide (n < nAes s) && flagL s (AES_RX_CTL_EN n)) = true := by simp [hn, hen]
  have hunl : ¬ (!flag (rxHeard n a b v rate s) (AES_RX_STAT_LOCK n)) = true := by simp [hl]
  rw [next_rxPassed, next_rxBuffered]
  exact (if_pos hin).trans (if_neg hunl)

/-! ### What the steps of a good frame change -/

theorem getF_rxNoted {f : Fld} (hk : f.key ≠ (AES_RX_CNT_PARITY_ERR n).key) : getF (rxNoted n a b v rate s) f = getF s f :=
  getF_bump_ne 0 _ hk

theorem flag_rxNoted {f : Fld} (hk : f.key ≠ (AES_RX_CNT_PARITY_ERR n).key) : flag (rxNoted n a b v rate s) f = flag s f :=
  congrArg (· != 0) (getF_rxNoted hk)

/-- A frame noted changes no setting. -/
theorem flagL_rxNoted {f : Fld} (hk : f.key ≠ (AES_RX_CNT_PARITY_ERR n).key) : flagL (rxNoted n a b v rate s) f = flagL s f :=
  flagL_congr rfl (getF_rxNoted (Fld.running_ne rfl rfl)) (getF_rxNoted hk)

theorem aesOf_rxNoted_buf : (aesOf (rxNoted n a b v rate s) n).buf = (aesOf s n).buf := by
  rw [rxNoted, aesOf_bump, aesOf_updAes, if_pos rfl]

theorem rxTracked_within (n rate good : Nat) (s : State) :
    Within (fun k => k = (AES_RX_STAT_LOCK n).key ∨ k = (AES_RX_STAT_RATE n).key) s (rxTracked n rate good s) := by
  have rateSet : Within (fun k => k = (AES_RX_STAT_LOCK n).key ∨ k = (AES_RX_STAT_RATE n).key) s
      (putF (AES_RX_STAT_RATE n) rate s) := .putF (.inr rfl) rate s
  unfold rxTracked
  split
  case isTrue =>
    split
    · exact rateSet
    · exact .refl _ s
  case isFalse =>
    split
    · exact rateSet.trans ((setLock_within n true _).mono fun _ => .inl)
    · exact .refl _ s

/-- A good frame keeps LOCK. -/
theorem rxTracked_locked {good : Nat} (h : flag s (AES_RX_STAT_LOCK n) = true) :
    flag (rxTracked n rate good s) (AES_RX_STAT_LOCK n) = true := by
  rw [rxTracked, if_pos h]
  split
  · rw [flag_putF_ne rate s (Fld.key_ne_of_bit rfl), h]
  · exact h

/-- The sixteenth good frame of one rate in a row sets LOCK and RATE (R173). -/
theorem rxTracked_sixteenth {good : Nat} (hn : n < 64) (h : flag s (AES_RX_STAT_LOCK n) = false) (hr : rate < 8)
    (hg : 16 ≤ good) : getF (rxTracked n rate good s) (AES_RX_STAT_LOCK n) = 1
      ∧ getF (rxTracked n rate good s) (AES_RX_STAT_RATE n) = rate := by
  have hunl : flag (putF (AES_RX_STAT_RATE n) rate s) (AES_RX_STAT_LOCK n) ≠ true := by
    rw [flag_putF_ne rate s (Fld.key_ne_of_bit rfl), h]
    exact Bool.false_ne_true
  rw [rxTracked, if_neg (by simp [h]), if_pos hg]
  refine ⟨setLock_lock hn hunl, ?_⟩
  rw [(setLock_within n true _).regs _ (Fld.key_below rfl hn rfl rfl) (Fld.key_ne_of_bit rfl), getF_putF_self]
  exact Nat.mod_eq_of_lt hr

/-- A good frame changes PARITY_ERR, LOCK and RATE at most. -/
theorem getF_rxHeard {f : Fld} (hf : f.key < 0x20100000 * 32) (hp : f.key ≠ (AES_RX_CNT_PARITY_ERR n).key)
    (hl : f.key ≠ (AES_RX_STAT_LOCK n).key) (hr : f.key ≠ (AES_RX_STAT_RATE n).key) :
    getF (rxHeard n a b v rate s) f = getF s f :=
  ((rxTracked_within n rate _ _).regs f hf (not_or.2 ⟨hl, hr⟩)).trans (getF_rxNoted hp)

theorem flagL_naEn_rxHeard (hn : n < 64) :
    flagL (rxHeard n a b v rate s) (AES_RX_CTL_NA_EN n) = flagL s (AES_RX_CTL_NA_EN n) := by
  have hw := rxTracked_within n rate ((aesOf s n).run rate) (rxNoted n a b v rate s)
  refine (hw.flagL _ ?_ (Fld.key_below rfl hn rfl rfl) ?_).trans (flagL_rxNoted (Fld.key_ne_of_bit rfl))
  · exact not_or.2 ⟨Fld.running_ne rfl rfl, Fld.running_ne rfl rfl⟩
  · exact not_or.2 ⟨Fld.key_ne_of_bit rfl, Fld.key_ne_of_addr rfl rfl rfl rfl rfl⟩

theorem aesOf_rxHeard_buf : (aesOf (rxHeard n a b v rate s) n).buf = (aesOf s n).buf := by
  rw [rxHeard, (rxTracked_within n rate _ _).aesOf, aesOf_rxNoted_buf]

theorem rxHeard_locked (h : flag s (AES_RX_STAT_LOCK n) = true) :
    flag (rxHeard n a b v rate s) (AES_RX_STAT_LOCK n) = true :=
  rxTracked_locked ((flag_rxNoted (Fld.key_ne_of_addr rfl rfl rfl rfl rfl)).trans h)

theorem getF_rxBuffered {f : Fld} (hk : f.key ≠ (AES_RX_CNT_SLIP n).key) (p : Nat × Nat) (s : State) :
    getF (rxBuffered n p s) f = getF s f := by
  unfold rxBuffered
  split
  · rfl
  · exact getF_bump_ne 1 _ hk

theorem aesOf_rxBuffered_buf (n : Nat) (p : Nat × Nat) (s : State) : (aesOf (rxBuffered n p s) n).buf
    = (if (aesOf s n).buf.length < 4 then (aesOf s n).buf else (aesOf s n).buf.drop 1) ++ [p] := by
  unfold rxBuffered
  split
  · rw [aesOf_updAes, if_pos rfl]
  · rw [aesOf_bump, aesOf_updAes, if_pos rfl]

/-- A full buffer that takes a frame counts a slip. -/
theorem rxBuffered_slip (h : 4 ≤ (aesOf s n).buf.length) (p : Nat × Nat) : getF (rxBuffered n p s) (AES_RX_CNT_SLIP n)
    = min (getF s (AES_RX_CNT_SLIP n) + 1) (2 ^ (AES_RX_CNT_SLIP n).width - 1) := by
  rw [rxBuffered, if_neg (by omega), getF_bump_self, getF_updAes]

theorem getF_rxPassed {e : State} {f : Fld} {wa wb : Nat} (hf : f.key < 0x20100000 * 32) (ha : ¬ asrcKey f.key)
    (hk : f.key ≠ (AES_RX_CNT_SLIP n).key) : getF (rxPassed e n wa wb ratio s) f = getF s f := by
  unfold rxPassed
  split
  case isTrue =>
    split
    case isTrue h => exact (asrcFrame_within (asrcServes_lt h) ratio s).regs f hf ha
    case isFalse => rfl
  case isFalse => exact getF_rxBuffered hk _ s

/-- Beside NONAUDIO and SLIP, what follows a good frame's LOCK and RATE changes no register of the port. -/
theorem getF_rxPassed_aesNa {e : State} {f : Fld} {wa wb : Nat} (hf : f.key < 0x20100000 * 32) (ha : ¬ asrcKey f.key)
    (hk : f.key ≠ (AES_RX_CNT_SLIP n).key) (hna : f.key ≠ (AES_RX_STAT_NONAUDIO n).key) :
    getF (rxPassed e n wa wb ratio (aesNa n wa wb s)) f = getF s f :=
  (getF_rxPassed hf ha hk).trans (getF_aesNa hf hna wa wb s)

/-- A receiver that looks for no preambles has its NONAUDIO bit cleared. -/
theorem flag_aesNa_off (hn : n < 64) (h : flagL s (AES_RX_CTL_NA_EN n) = false) (a b : Nat) :
    flag (aesNa n a b s) (AES_RX_STAT_NONAUDIO n) = false := by
  rw [aesNa_off h, flag_setNonAudio_rx hn]

theorem aesOf_aesNa_off_buf (h : flagL s (AES_RX_CTL_NA_EN n) = false) (a b : Nat) :
    (aesOf (aesNa n a b s) n).buf = (aesOf s n).buf := by
  rw [aesNa_off h, (setNonAudio_within true n false _).aesOf, aesOf_updAes, if_pos rfl]

/-- A good frame at a locked receiver whose frames go to its buffer. -/
theorem rxFrame_locked_effect (hn : n < nAes s) (hen : flagL s (AES_RX_CTL_EN n) = true)
    (hl : flag s (AES_RX_STAT_LOCK n) = true) (ha : flagL s (AES_RX_CTL_ASRC_EN n) = false)
    (hna : flagL s (AES_RX_CTL_NA_EN n) = false) :
    ∃ t, exec (.aes3RxFrame n a b false false v rate ratio) s = .next t ∧ flag t (AES_RX_STAT_LOCK n) = true
      ∧ (aesOf t n).buf = (if (aesOf s n).buf.length < 4 then (aesOf s n).buf else (aesOf s n).buf.drop 1)
          ++ [(alignWord 24 a, alignWord 24 b)]
      ∧ (4 ≤ (aesOf s n).buf.length →
          getF t (AES_RX_CNT_SLIP n) = min (getF s (AES_RX_CNT_SLIP n) + 1) (2 ^ (AES_RX_CNT_SLIP n).width - 1)) := by
  have h64 : n < 64 := lt_of_lt_nAes hn
  have hlock : (AES_RX_STAT_LOCK n).key < 0x20100000 * 32 := Fld.key_below rfl h64 rfl rfl
  have hslip : (AES_RX_CNT_SLIP n).key < 0x20100000 * 32 := Fld.key_below rfl h64 rfl rfl
  have hul := rxHeard_locked (a := a) (b := b) (v := v) (rate := rate) hl
  have huna := (flagL_naEn_rxHeard (a := a) (b := b) (v := v) (rate := rate) h64).trans hna
  refine ⟨_, exec_aes3RxFrame_good hn hen hul, ?_⟩
  rw [rxPassed, ha, if_neg Bool.false_ne_true, flag_aesNa_off h64 huna, if_neg Bool.false_ne_true]
  refine ⟨?lock, ?buf, fun h4 => ?slip⟩
  case lock =>
    rw [flag, getF_rxBuffered (Fld.key_ne_of_bit rfl), getF_aesNa hlock (Fld.key_ne_of_bit rfl), ← flag, hul]
  case buf => rw [aesOf_rxBuffered_buf, aesOf_aesNa_off_buf huna, aesOf_rxHeard_buf]
  case slip =>
    rw [rxBuffered_slip (by rwa [aesOf_aesNa_off_buf huna, aesOf_rxHeard_buf]), getF_aesNa hslip (Fld.key_ne_of_bit rfl),
      getF_rxHeard hslip (Fld.key_ne_of_bit rfl) (Fld.key_ne_of_bit rfl) (Fld.key_ne_of_bit rfl)]

/-- The sixteenth good frame of one rate in a row at a receiver without LOCK. -/
theorem rxFrame_sixteenth_effect (hn : n < nAes s) (hen : flagL s (AES_RX_CTL_EN n) = true)
    (hl : flag s (AES_RX_STAT_LOCK n) = false) (hr0 : 0 < rate) (hr8 : rate < 8) (hr : (aesOf s n).rate = rate)
    (hg : 15 ≤ (aesOf s n).good) : ∃ t, exec (.aes3RxFrame n a b false false v rate ratio) s = .next t
      ∧ getF t (AES_RX_STAT_LOCK n) = 1 ∧ getF t (AES_RX_STAT_RATE n) = rate := by
  have h64 : n < 64 := lt_of_lt_nAes hn
  have hrun : 16 ≤ (aesOf s n).run rate := by
    rw [AesSt.run, if_neg (by simpa using Nat.ne_of_gt hr0), if_pos hr]
    omega
  obtain ⟨hlock, hrate⟩ : getF (rxHeard n a b v rate s) (AES_RX_STAT_LOCK n) = 1
      ∧ getF (rxHeard n a b v rate s) (AES_RX_STAT_RATE n) = rate :=
    rxTracked_sixteenth h64 ((flag_rxNoted (Fld.key_ne_of_addr rfl rfl rfl rfl rfl)).trans hl) hr8 hrun
  refine ⟨_, exec_aes3RxFrame_good hn hen (by rw [flag, hlock]; rfl), ?_, ?_⟩
  · exact (getF_rxPassed_aesNa (Fld.key_below rfl h64 rfl rfl) (not_asrcKey rfl rfl) (Fld.key_ne_of_bit rfl)
      (Fld.key_ne_of_bit rfl)).trans hlock
  · exact (getF_rxPassed_aesNa (Fld.key_below rfl h64 rfl rfl) (not_asrcKey rfl rfl) (Fld.key_ne_of_bit rfl)
      (Fld.key_ne_of_bit rfl)).trans hrate

/-! ### A lost lock -/

/-- A receiver whose frames are forgotten. -/
def AesSt.unlocked (t : AesSt) : AesSt := { t with
  good := 0
  rate := 0
  buf := [] }

theorem exec_aes3LockLoss (hn : n < nAes s) (hl : flag s (AES_RX_STAT_LOCK n) = true) : exec (.aes3LockLoss n) s
    = .next (setLock n false (putF (AES_RX_STAT_RATE n) 0 (updAes n AesSt.unlocked s))) := if_pos (by simp [hn, hl])

theorem lockLoss_effect (hn : n < nAes s) (hl : flag s (AES_RX_STAT_LOCK n) = true) :
    ∃ t, exec (.aes3LockLoss n) s = .next t ∧ getF t (AES_RX_STAT_LOCK n) = 0 ∧ getF t (AES_RX_STAT_RATE n) = 0
      ∧ (aesOf t n).buf = [] ∧ (aesOf t n).good = 0 := by
  have h64 : n < 64 := lt_of_lt_nAes hn
  have hw := setLock_within n false (putF (AES_RX_STAT_RATE n) 0 (updAes n AesSt.unlocked s))
  have hset : flag (putF (AES_RX_STAT_RATE n) 0 (updAes n AesSt.unlocked s)) (AES_RX_STAT_LOCK n) ≠ false := by
    rw [flag_putF_ne 0 _ (Fld.key_ne_of_bit rfl), flag, getF_updAes, ← flag, hl]
    decide
  refine ⟨_, exec_aes3LockLoss hn hl, setLock_lock h64 hset, ?rate, ?buf, ?good⟩
  case rate =>
    rw [hw.regs _ (Fld.key_below rfl h64 rfl rfl) (Fld.key_ne_of_bit rfl), getF_putF_self, Nat.zero_mod]
  all_goals
    rw [hw.aesOf, aesOf_putF, aesOf_updAes, if_pos rfl]
    rfl

/-! ### Block starts -/

theorem exec_aes3BlockStart_rx {ca cb ua ub : Nat} (hn : n < nAes s) (hl : flag s (AES_RX_STAT_LOCK n) = true) :
    exec (.aes3BlockStart false n ca cb ua ub) s = .next (rxBlock n ca cb ua ub s) := if_pos (by simp [hn, hl])

theorem exec_aes3BlockStart_tx {ca cb ua ub : Nat} (h : txDrives s n = true) :
    exec (.aes3BlockStart true n ca cb ua ub) s = .next (txBlock n s) := if_pos h

/-- What a receiver latches of a block: channel status whose CRC holds, and the user bits (R174). -/
def latched (t : AesSt) (ca cb ua ub : Nat) : AesBits :=
  ⟨if csLatches ca then ca else t.rx.csA, if csLatches cb then cb else t.rx.csB, ua, ub⟩

/-- A block latched, `k` channel-status errors counted and the channel-status mute set to `m`; GRADE and V_SEEN (R174, R175). -/
def rxLatched (n k : Nat) (m : Bool) (x : AesBits) (s : State) : State :=
  putB (AES_RX_STAT_V_SEEN n) (aesOf s n).vNow (putF (AES_RX_STAT_GRADE n) (bits x.csA 32 2) (bump (AES_RX_CNT_CS_CRC_ERR n) k
    (updAes n (fun t => { t with
      rx := x
      csMute := m
      vNow := false }) s)))

theorem rxBlock_eq (n ca cb ua ub : Nat) (s : State) : ∃ (k : Nat) (m na : Bool),
    rxBlock n ca cb ua ub s = setNonAudio true n na (rxLatched n k m (latched (aesOf s n) ca cb ua ub) s) := ⟨_, _, _, rfl⟩

theorem rxBlock_effect {ca cb ua ub : Nat} (hn : n < nAes s) (hl : flag s (AES_RX_STAT_LOCK n) = true) :
    ∃ t, exec (.aes3BlockStart false n ca cb ua ub) s = .next t ∧ (aesOf t n).rx = latched (aesOf s n) ca cb ua ub
      ∧ getF t (AES_RX_STAT_GRADE n) = bits (aesOf t n).rx.csA 32 2
      ∧ getF t (AES_RX_STAT_V_SEEN n) = b2n (aesOf s n).vNow := by
  have h64 : n < 64 := lt_of_lt_nAes hn
  obtain ⟨k, m, na, e⟩ := rxBlock_eq n ca cb ua ub s
  have hw := setNonAudio_within true n na (rxLatched n k m (latched (aesOf s n) ca cb ua ub) s)
  rw [← e] at hw
  have hrx : (aesOf (rxBlock n ca cb ua ub s) n).rx = latched (aesOf s n) ca cb ua ub := by
    rw [hw.aesOf, rxLatched, aesOf_putB, aesOf_putF, aesOf_bump, aesOf_updAes, if_pos rfl]
  refine ⟨_, exec_aes3BlockStart_rx hn hl, hrx, ?grade, ?vseen⟩
  case grade =>
    rw [hrx, hw.regs _ (Fld.key_below rfl h64 rfl rfl) (Fld.key_ne_of_bit rfl), rxLatched, putB,
      getF_putF_ne _ _ (Fld.key_ne_of_bit rfl), getF_putF_self]
    exact bits_mod_width _ 32 2
  case vseen => rw [hw.regs _ (Fld.key_below rfl h64 rfl rfl) (Fld.key_ne_of_bit rfl), rxLatched, getF_putB_self rfl]

/-- A transmitter at a block start: staged buffers that are committed are taken (R174). -/
def AesSt.blockStarted (t : AesSt) : AesSt := if t.commit then { t with
  sending := t.staged
  commit := false } else t

theorem AesSt.blockStarted_sending (t : AesSt) : t.blockStarted.sending = if t.commit then t.staged else t.sending := by
  rw [AesSt.blockStarted]
  split
  · rfl
  · rfl

theorem AesSt.blockStarted_commit (t : AesSt) : t.blockStarted.commit = false := by
  rw [AesSt.blockStarted]
  split
  case isTrue => rfl
  case isFalse h => simpa using h

theorem aesOf_txBlock (n : Nat) (s : State) : aesOf (txBlock n s) n = (aesOf s n).blockStarted := by
  change aesOf (updAes n AesSt.blockStarted s) n = _
  rw [aesOf_updAes, if_pos rfl]

/-- A block without CRC generation is sent as it is staged. -/
theorem txBlock_out (h : flagL s (AES_TX_CTL_CRC_GEN n) = false) {x : AesBits} (hx : x = (aesOf s n).blockStarted.sending) :
    (txBlock n s).out = ⟨.serial, [128 + n, x.csA, x.csB, x.usA, x.usB, b2n (flagL s (AES_TX_CTL_V_OUT n))]⟩ :: s.out := by
  have hs : aesOf (updAes n AesSt.blockStarted s) n = (aesOf s n).blockStarted := aesOf_txBlock n s
  subst hx
  rw [← hs, txBlock, h]
  rfl

theorem txBlock_effect {ca cb ua ub : Nat} {x : AesBits} (h : txDrives s n = true)
    (hx : x = if (aesOf s n).commit then (aesOf s n).staged else (aesOf s n).sending) :
    ∃ t, exec (.aes3BlockStart true n ca cb ua ub) s = .next t ∧ (aesOf t n).sending = x ∧ (aesOf t n).commit = false
      ∧ (flagL s (AES_TX_CTL_CRC_GEN n) = false →
        t.out = ⟨.serial, [128 + n, x.csA, x.csB, x.usA, x.usB, b2n (flagL s (AES_TX_CTL_V_OUT n))]⟩ :: s.out) := by
  rw [← AesSt.blockStarted_sending] at hx
  refine ⟨_, exec_aes3BlockStart_tx h, ?_, ?_, fun hc => txBlock_out hc hx⟩
  · rw [aesOf_txBlock, hx]
  · rw [aesOf_txBlock, AesSt.blockStarted_commit]

theorem exec_aes3TxCommit (hn : n < nAes s) :
    exec (.aes3TxCommit n) s = .next (updAes n (fun x => { x with commit := true }) s) := if_pos hn

/-! ### The indexed buffers (R174) -/

/-- The word index after an access: one more, and from 5 back to 0. -/
theorem nextWord_eq {w : Nat} (h : w < 6) : (if w < 5 then w + 1 else 0) = (w + 1) % 6 := by
  split <;> omega

theorem aesAccess_read {val p k c w : Nat} (hp : p = getF s AES_IDX_PORT) (hk : k = getF s AES_IDX_KIND)
    (hc : c = getF s AES_IDX_CH) (hw : w = getF s AES_IDX_WORD) (hlt : p < nAes s) (h6 : w < 6) :
    aesAccess false val s = (bits (aesBuf (aesOf s p) k c) (32 * w) 32, putF AES_IDX_WORD ((w + 1) % 6) s) := by
  subst hp hk hc hw
  rw [← nextWord_eq h6]
  exact if_neg (by omega)

theorem aesAccess_write {val p k c w : Nat} (hp : p = getF s AES_IDX_PORT) (hk : k = getF s AES_IDX_KIND)
    (hc : c = getF s AES_IDX_CH) (hw : w = getF s AES_IDX_WORD) (hlt : p < nAes s) (h6 : w < 6) (h2 : 2 ≤ k) :
    aesAccess true val s = (0, updAes p (putAesBuf k c (putWord32 (aesBuf (aesOf s p) k c) w val))
      (putF AES_IDX_WORD ((w + 1) % 6) s)) := by
  subst hp hk hc hw
  rw [← nextWord_eq h6, aesAccess]
  simp only [if_neg (show ¬ (nAes s ≤ getF s AES_IDX_PORT ∨ 6 ≤ getF s AES_IDX_WORD) by omega),
    if_neg (show ¬ getF s AES_IDX_KIND < 2 by omega), if_true]

theorem exec_aesDataAccess_read (val : Nat) (s : State) : exec (.aesDataAccess false val) s
    = .next (emit .response [0, 0, 0, (aesAccess false val s).1] (aesAccess false val s).2) := rfl

theorem exec_aesDataAccess_write (val : Nat) (s : State) : exec (.aesDataAccess true val) s = .next (aesAccess true val s).2 := rfl

end

/-! ### The obligation -/

/-- Settles O34: a good frame in its steps (`exec_aes3RxFrame_good`), of which none but the last touches the buffer
(`aesOf_rxBuffered_buf`) and none but the tracking LOCK and RATE (`rxTracked_sixteenth`); then a lost lock, the two block starts,
and the words behind AES_IDX (`aesAccess_read`, `aesAccess_write`). -/
theorem aes3Ports : Obligations.Aes3Ports := by
  refine ⟨fun n a b v s hn hen hl ha hna rate ratio => rxFrame_locked_effect hn hen hl ha hna,
    fun _ _ _ _ _ _ _ => rxFrame_sixteenth_effect, fun _ _ => lockLoss_effect, fun _ _ _ _ _ _ => rxBlock_effect,
    fun _ _ _ _ _ _ _ => txBlock_effect, fun _ _ => exec_aes3TxCommit,
    fun v s p k c w hp hk hc hw hlt h6 => ⟨?read, fun h2 => ?write⟩⟩
  case read =>
    refine ⟨_, exec_aesDataAccess_read v s, ?_⟩
    rw [aesAccess_read hp hk hc hw hlt h6]
    exact ⟨rfl, OnlyFields.putF s AES_IDX_WORD _⟩
  case write =>
    refine ⟨_, exec_aesDataAccess_write v s, ?_⟩
    rw [aesAccess_write hp hk hc hw hlt h6 h2, getF_updAes, getF_putF_self, aesOf_updAes, if_pos rfl]
    exact ⟨Nat.mod_eq_of_lt (Nat.lt_trans (Nat.mod_lt _ (by decide)) (by decide)), rfl⟩

end Sys2Proof.Machine

/-! ## Serial frames (R165 to R171, R179) -/

namespace Sys2Proof.Machine

/-- Where a lane's NONAUDIO bit already reads as set, a preamble restarts the hold and writes nothing else. -/
theorem laneNa_preamble_marked {n a b : Nat} {s : State} (hen : flagL s (SP_LANE_CFG_NA_EN n) = true)
    (hp : isPreamble a b = true) (h : flag s (SP_LANE_STAT_NONAUDIO n) = true) :
    laneNa n a b s = putF (SP_LANE_STAT_NA_HOLD n) 4096 s := by
  rw [laneNa, if_pos hen, if_pos hp]
  exact setNonAudio_of_eq (rx := false) (idx := n) ((flag_putF_ne 4096 s (Fld.key_ne_of_bit rfl)).trans h)

/-- A frame of a running input lane without an ASRC: the group's position, the non-audio search, then the pair. -/
theorem exec_serialFrameIn_sync {n frame c ratio : Nat} {s : State} {w : Nat → Nat} (hr : running s = true)
    (hon : laneOn s n = true) (hin : laneIsOut s n = false) (ha : laneAsrc s n = none)
    (hw : w = fun ch => alignWord (wordLen (getL s (SP_LANE_CFG_WL n))) (frameWord frame
      (2 * chanBits (getL s (SP_GRP_CTL_FRAME (n / 8)))) (chanBits (getL s (SP_GRP_CTL_FRAME (n / 8))))
      (wordLen (getL s (SP_LANE_CFG_WL n))) (getL s (SP_LANE_CFG_FMT n)) ch)) :
    ∃ pair, exec (.serialFrameIn n frame c ratio) s = .next (updLane n (fun t => { t with
      arrived := t.arrived ++ [pair]
      count := t.count + 1 }) (laneNa n (w 0) (w 1) (groupFrame (n / 8) c s))) := by
  subst hw
  change ∃ pair, execSerialFrameIn n frame c ratio s = _
  rw [execSerialFrameIn, if_pos (by simp [hr, hon, hin]), ha]
  exact ⟨_, rfl⟩

/-! ### A lane whose NONAUDIO bit holds more than its width -/

/-- A running fabric whose lane 0, an input, is enabled and searched for preambles, with a 2 in the one-bit field NONAUDIO. The
register store rises and the memories are empty, as `StoresWf` asks. -/
def wideNonAudio : State := { State.reset with
  regs := [(FAB_TL_STATUS_RUNNING.key, 1), ((SP_LANE_STAT_NONAUDIO 0).key, 2)]
  live := [((SP_LANE_CFG_EN 0).key, 1)] }

/-- The preamble words 0xF872 and 0x4E1F of a frame of 2 × 32 bits, in I2S format. -/
def preambleFrame : Nat := 0xF87200004E1F0000

theorem wideNonAudio_storesWf : StoresWf wideNonAudio := ⟨by decide, by decide, by decide, by decide, by decide⟩

/-! ### The obligation -/

/-- Refutes O33: of a preamble it says that NONAUDIO reads 1 afterwards, for every register store. `setNonAudio` writes the bit
only where it does not yet read as set (`laneNa_preamble_marked`), so a field that holds 2 keeps its 2. `wideNonAudio` is such a
store; it keeps `StoresWf` (`wideNonAudio_storesWf`), which does not bound a field by its width. -/
theorem not_serialPorts : ¬ Obligations.SerialPorts := by
  intro h
  obtain ⟨hframe, -⟩ := h
  obtain ⟨-, hpre⟩ := hframe 0 preambleFrame 0 0 wideNonAudio 32 16 _ (by decide) (by decide) (by decide) (by decide)
    (by decide) (by decide) rfl
  obtain ⟨t, ht, -, hna, -⟩ := hpre (by decide) (by decide)
  obtain ⟨pair, he⟩ := exec_serialFrameIn_sync (n := 0) (frame := preambleFrame) (c := 0) (ratio := 0) (s := wideNonAudio)
    (by decide) (by decide) (by decide) (by decide) rfl
  rw [he, laneNa_preamble_marked (by decide) (by decide) (by decide)] at ht
  injection ht with ht
  rw [← ht, getF_updLane] at hna
  exact absurd hna (by decide)

end Sys2Proof.Machine

/-! ## The MACs' registers and counters (R182, R199) -/

namespace Sys2Proof.Machine

/-! ### Keys of a MAC's fields -/

/-- There are fewer than 8 MACs (R3). -/
theorem lt_of_lt_nMacs {m : Nat} {s : State} (h : m < nMacs s) : m < 8 :=
  Nat.lt_trans h (Nat.mod_lt _ (by decide))

/-- A field at another bit than all those of a list. -/
theorem Fld.key_ne_all {f : Fld} {l : List (Fld × Nat)} (h : l.all (fun p => f.lo % 32 != p.1.lo % 32) = true) :
    ∀ p ∈ l, f.key ≠ p.1.key := fun p hp =>
  Fld.key_ne_of_bit (by simpa using List.all_eq_true.1 h p hp)

/-- A field that stands below the statistics counters of MAC `m` and is neither CNT_HALF nor CNT_OVF. -/
def besideCounts (m : Nat) (f : Fld) : Prop :=
  f.lo < 32 ∧ f.addr < 0x20090200 + 16384 * m ∧ (f.addr = 0x20090008 + 16384 * m → f.lo ≠ 7 ∧ f.lo ≠ 8)

section
variable {m : Nat} {f : Fld}

/-- A field of the MAC itself, named by the offset `a` of its register. -/
theorem besideCounts_of_addr {a : Nat} (h : f.addr = a + 16384 * m) (ha : Nat.blt a 0x20090200 = true)
    (hl : Nat.blt f.lo 32 = true) (hb : (a == 0x20090008 && (f.lo == 7 || f.lo == 8)) = false) : besideCounts m f := by
  have ha := Nat.le_of_ble_eq_true ha
  refine ⟨Nat.le_of_ble_eq_true hl, by omega, fun e => ?_⟩
  simpa [show a = 0x20090008 by omega] using hb

/-- A field of one of the MAC's two rings. -/
theorem besideCounts_of_ring {a r : Nat} (h : f.addr = a + 16384 * m + 16 * r) (hr : r < 2)
    (ha : Nat.blt a 0x20090100 = true) (ha' : Nat.blt 0x20090008 a = true) (hl : Nat.blt f.lo 32 = true) :
    besideCounts m f := by
  have ha := Nat.le_of_ble_eq_true ha
  have ha' := Nat.le_of_ble_eq_true ha'
  exact ⟨Nat.le_of_ble_eq_true hl, by omega, fun _ => by omega⟩

/-- A field of one of the MAC's 32 address filter entries. -/
theorem besideCounts_of_filter {a e : Nat} (h : f.addr = a + 16384 * m + 8 * e) (he : e < 32)
    (ha : Nat.blt a 0x20090108 = true) (ha' : Nat.blt 0x20090008 a = true) (hl : Nat.blt f.lo 32 = true) :
    besideCounts m f := by
  have ha := Nat.le_of_ble_eq_true ha
  have ha' := Nat.le_of_ble_eq_true ha'
  exact ⟨Nat.le_of_ble_eq_true hl, by omega, fun _ => by omega⟩

theorem besideCounts.key_ne_count (h : besideCounts m f) (i : Nat) : f.key ≠ (MAC_CNT_COUNT m i).key := by
  obtain ⟨hl, ha, -⟩ := h
  simp only [Fld.key, MAC_CNT_COUNT]
  omega

theorem besideCounts.key_ne_half (h : besideCounts m f) : f.key ≠ (MAC_IRQ_CNT_HALF m).key := by
  obtain ⟨hl, -, hb⟩ := h
  simp only [Fld.key, MAC_IRQ_CNT_HALF]
  omega

theorem besideCounts.key_ne_ovf (h : besideCounts m f) : f.key ≠ (MAC_IRQ_CNT_OVF m).key := by
  obtain ⟨hl, -, hb⟩ := h
  simp only [Fld.key, MAC_IRQ_CNT_OVF]
  omega

/-- The MACs' registers lie below the seats' blocks. -/
theorem besideCounts.key_below (h : besideCounts m f) (hm : m < 8) : f.key < 0x20100000 * 32 := by
  obtain ⟨hl, ha, -⟩ := h
  unfold Fld.key
  omega

theorem count_key_below {i : Nat} (hm : m < 8) (hi : i < 48) : (MAC_CNT_COUNT m i).key < 0x20100000 * 32 := by
  simp only [Fld.key, MAC_CNT_COUNT]
  omega

theorem count_key_ne {i j : Nat} (h : i ≠ j) : (MAC_CNT_COUNT m i).key ≠ (MAC_CNT_COUNT m j).key := by
  simp only [Fld.key, MAC_CNT_COUNT]
  omega

theorem snap_key_ne {i j : Nat} (h : i ≠ j) : (MAC_SNAP_COUNT m i).key ≠ (MAC_SNAP_COUNT m j).key := by
  simp only [Fld.key, MAC_SNAP_COUNT]
  omega

/-- The 48 counters lie below the snapshots. -/
theorem count_key_ne_snap {i : Nat} (hi : i < 48) (j : Nat) : (MAC_CNT_COUNT m i).key ≠ (MAC_SNAP_COUNT m j).key := by
  simp only [Fld.key, MAC_CNT_COUNT, MAC_SNAP_COUNT]
  omega

end

/-! ### What counting leaves alone (R199) -/

theorem setIf_regs (f : Fld) (b : Bool) (s : State) : setIf f b s = { s with regs := (setIf f b s).regs } := by
  cases b <;> rfl

theorem getF_setIf_ne {f g : Fld} (b : Bool) (s : State) (h : f.key ≠ g.key) : getF (setIf g b s) f = getF s f := by
  cases b
  · rfl
  · exact getF_putF_ne 1 s h

/-- From `s` to `t` nothing happens but that statistics of MAC `m` are counted. -/
structure Counted (m : Nat) (s t : State) : Prop where
  rest : t = { s with regs := t.regs }
  regs : ∀ f, besideCounts m f → getF t f = getF s f

section
variable {m : Nat} {s t u : State}

theorem Counted.refl (m : Nat) (s : State) : Counted m s s := ⟨rfl, fun _ _ => rfl⟩

theorem Counted.trans (h : Counted m s t) (k : Counted m t u) : Counted m s u where
  rest := by rw [k.rest, h.rest]
  regs f hf := (k.regs f hf).trans (h.regs f hf)

theorem Counted.ite {p : Prop} [Decidable p] (h : Counted m s t) (k : Counted m s u) : Counted m s (if p then t else u) := by
  split
  · exact h
  · exact k

theorem Counted.net (h : Counted m s t) : t.net = s.net := by rw [h.rest]
theorem Counted.str (h : Counted m s t) : t.str = s.str := by rw [h.rest]
theorem Counted.out (h : Counted m s t) : t.out = s.out := by rw [h.rest]

theorem Counted.macOf (h : Counted m s t) (n : Nat) : macOf t n = macOf s n := by
  rw [Machine.macOf, h.net, ← Machine.macOf]

theorem Counted.flag (h : Counted m s t) {f : Fld} (hf : besideCounts m f) : flag t f = flag s f :=
  congrArg (· != 0) (h.regs f hf)

theorem cntAdd_counted (m i n : Nat) (s : State) : Counted m s (cntAdd m i n s) where
  rest := by
    unfold cntAdd
    extract_lets v w
    rw [setIf_regs, setIf_regs (MAC_IRQ_CNT_HALF m)]
    rfl
  regs f hf := by
    unfold cntAdd
    rw [getF_setIf_ne _ _ hf.key_ne_ovf, getF_setIf_ne _ _ hf.key_ne_half, getF_putF_ne _ _ (hf.key_ne_count i)]

theorem Counted.cntAdd (h : Counted m s t) (i n : Nat) : Counted m s (cntAdd m i n t) := h.trans (cntAdd_counted m i n t)

@[simp] theorem cntAdd_out (m i n : Nat) (s : State) : (cntAdd m i n s).out = s.out := (cntAdd_counted m i n s).out

@[simp] theorem macOf_cntAdd (m i n : Nat) (s : State) (k : Nat) : macOf (cntAdd m i n s) k = macOf s k :=
  (cntAdd_counted m i n s).macOf k

/-- A counter holds at its maximum. -/
theorem getF_cntAdd_self (m i n : Nat) (s : State) :
    getF (cntAdd m i n s) (MAC_CNT_COUNT m i) = min (getF s (MAC_CNT_COUNT m i) + n) 4294967295 := by
  unfold cntAdd
  rw [getF_setIf_ne _ _ (Fld.key_ne_of_bit rfl), getF_setIf_ne _ _ (Fld.key_ne_of_bit rfl), getF_putF_self]
  exact Nat.mod_eq_of_lt (show _ < 4294967296 by omega)

theorem getF_cntAdd_ne {i j : Nat} (h : i ≠ j) (m n : Nat) (s : State) :
    getF (cntAdd m j n s) (MAC_CNT_COUNT m i) = getF s (MAC_CNT_COUNT m i) := by
  unfold cntAdd
  rw [getF_setIf_ne _ _ (Fld.key_ne_of_bit rfl), getF_setIf_ne _ _ (Fld.key_ne_of_bit rfl), getF_putF_ne _ _ (count_key_ne h)]

/-- An addition that a counter cannot hold sets CNT_OVF. -/
theorem getF_cntAdd_ovf {i n : Nat} (h : 4294967295 < getF s (MAC_CNT_COUNT m i) + n) :
    getF (cntAdd m i n s) (MAC_IRQ_CNT_OVF m) = 1 := by
  unfold cntAdd
  rw [setIf, if_pos (by simpa using h), getF_putF_self]
  rfl

theorem countGood_counted (m base : Nat) (b : List Nat) (len : Nat) (s : State) : Counted m s (countGood m base b len s) :=
  ((((Counted.refl m s).cntAdd _ _).cntAdd _ _).cntAdd _ _).cntAdd _ _

end

end Sys2Proof.Machine

/-! ## A MAC's link, PAUSE, snapshots and rings (R182 to R185, R193, R197 to R199) -/

namespace Sys2Proof.Machine

/-! ### The link event -/

section
variable {m : Nat} {s t : State}

theorem macLinkEvent_told (m : Nat) (s : State) : Told s (macLinkEvent m s) := (Told.refl s).raiseOwner _ _ _ _

@[simp] theorem macLinkEvent_net (m : Nat) (s : State) : (macLinkEvent m s).net = s.net := by rw [(macLinkEvent_told m s).rest]

@[simp] theorem macOf_macLinkEvent (m : Nat) (s : State) (n : Nat) : macOf (macLinkEvent m s) n = macOf s n := by
  rw [macOf, macLinkEvent_net, ← macOf]

@[simp] theorem macOf_putFs (l : List (Fld × Nat)) (s : State) (n : Nat) : macOf (putFs l s) n = macOf s n := by
  rw [macOf, putFs_net, ← macOf]

theorem Told.getF_mac (h : Told s t) {f : Fld} (hm : m < 8) (hf : besideCounts m f) :
    Machine.getF t f = Machine.getF s f :=
  h.getF f (tellKey_of_below (hf.key_below hm))

/-! ### A link that falls (R185) -/

/-- A MAC whose transmit FIFO is emptied. -/
def MacSt.flushed (t : MacSt) : MacSt := { t with
  tx := []
  c0 := []
  c1 := [] }

/-- The fields of a link that is down. -/
def downFields (m : Nat) : List (Fld × Nat) := [(MAC_LINK_LINK_UP m, 0), (MAC_LINK_RATE m, 0), (MAC_LINK_PAUSED m, 0)]

theorem putFs_downFields (m : Nat) (s : State) : OnlyFields s (putFs (downFields m) s) (downFields m) := by
  refine .putFs ?_
  simp only [downFields, List.map_cons, List.map_nil, List.nodup_cons, List.mem_cons, List.not_mem_nil, List.nodup_nil,
    or_false, and_true, not_false_eq_true, Fld.key, MAC_LINK_LINK_UP, MAC_LINK_RATE, MAC_LINK_PAUSED]
  omega

/-- Beside register fields (counters and the rings' HEADs), a link that falls sets its three fields and empties the transmit
FIFO. -/
theorem linkDown_eq (m : Nat) (s : State) :
    ∃ regs, linkDown m s = updMac m MacSt.flushed (putFs (downFields m) { s with regs := regs }) := by
  have hc : Counted m s (cntAdd m 46 1 (cntAdd m 39 (macOf s m).tx.length s)) := (cntAdd_counted ..).cntAdd ..
  unfold linkDown
  extract_lets t back s1
  have hb : ∀ r l u, back r l u = { u with regs := (back r l u).regs } := fun r l u => by cases l <;> rfl
  have hs : s1 = { s with regs := s1.regs } := by
    dsimp only [s1]
    rw [hb 1, hb 0, hc.rest]
  exact ⟨s1.regs, congrArg (fun u => updMac m MacSt.flushed (putFs (downFields m) u)) hs⟩

@[simp] theorem linkDown_mdio (m : Nat) (s : State) : (linkDown m s).net.mdio = s.net.mdio := by
  obtain ⟨regs, h⟩ := linkDown_eq m s
  rw [h]
  rfl

theorem macOf_linkDown (m : Nat) (s : State) : macOf (linkDown m s) m = (macOf s m).flushed := by
  obtain ⟨regs, h⟩ := linkDown_eq m s
  rw [h, macOf_updMac, if_pos rfl]
  rfl

theorem linkChg_key_ne {f : Fld} (ha : f.addr = 0x20090004 + 16384 * m) (hl : Nat.blt f.lo 32 = true) :
    f.key ≠ (MAC_IRQ_LINK_CHG m).key := by
  have := Nat.le_of_ble_eq_true hl
  simp only [Fld.key, MAC_IRQ_LINK_CHG]
  omega

theorem linkDown_fields (m : Nat) (s : State) : getF (linkDown m s) (MAC_LINK_LINK_UP m) = 0
    ∧ getF (linkDown m s) (MAC_LINK_RATE m) = 0 ∧ getF (linkDown m s) (MAC_LINK_PAUSED m) = 0 := by
  obtain ⟨regs, h⟩ := linkDown_eq m s
  have hput := putFs_downFields m { s with regs := regs }
  rw [h]
  exact ⟨hput.written (MAC_LINK_LINK_UP m, 0) (by simp [downFields]), hput.written (MAC_LINK_RATE m, 0) (by simp [downFields]),
    hput.written (MAC_LINK_PAUSED m, 0) (by simp [downFields])⟩

/-! ### The link judged (R184, R185) -/

/-- The PCS of a multi-rate line is judged by its code word. -/
theorem linkSource_code (hsrc : getF s (MAC_CTL_RATE_SRC m) = 0) (hmode : flag s (MAC_CTL_MODE m) = true) :
    linkSource s m = (macOf s m).code := by
  simp only [linkSource, hsrc, hmode, if_true]

/-- The fields of a link that has come up at a rate. -/
def upFields (m r : Nat) : List (Fld × Nat) :=
  [(MAC_LINK_RATE_MISMATCH m, 0), (MAC_LINK_LINK_UP m, 1), (MAC_LINK_RATE m, r), (MAC_IRQ_LINK_CHG m, 1)]

theorem putFs_upFields (m r : Nat) (s : State) : OnlyFields s (putFs (upFields m r) s) (upFields m r) := by
  refine .putFs ?_
  simp only [upFields, List.map_cons, List.map_nil, List.nodup_cons, List.mem_cons, List.not_mem_nil, List.nodup_nil,
    or_false, and_true, not_false_eq_true, Fld.key, MAC_LINK_RATE_MISMATCH, MAC_LINK_LINK_UP, MAC_LINK_RATE, MAC_IRQ_LINK_CHG]
  omega

/-- A link that comes up, from a source that reports an enabled rate. -/
theorem judgeLink_up {r : Nat} (hen : flag s (MAC_CTL_EN m) = true) (hl : flag s (MAC_LINK_PCS_LOCK m) = true)
    (hup : flag s (MAC_LINK_LINK_UP m) = false) (hsrc : linkSource s m = some r) (hr : rateOk s m r = true) :
    judgeLink m s = macLinkEvent m (putFs (upFields m r) s) := by
  simp only [judgeLink, hen, hl, hup, hsrc, hr, Bool.and_true, Bool.false_and, if_true, Bool.not_false]
  rfl

/-- A link that goes down with its lock. -/
theorem judgeLink_unlocked (hl : flag s (MAC_LINK_PCS_LOCK m) = false) (hup : flag s (MAC_LINK_LINK_UP m) = true) :
    judgeLink m s = macLinkEvent m (putF (MAC_IRQ_LINK_CHG m) 1 (linkDown m (putF (MAC_LINK_RATE_MISMATCH m) 0 s))) := by
  simp only [judgeLink, hl, hup, Bool.and_false]
  rfl

/-- Judging a link leaves the MDIO buses and what the poll reported. -/
theorem judgeLink_poll (m : Nat) (s : State) :
    (judgeLink m s).net.mdio = s.net.mdio ∧ (macOf (judgeLink m s) m).poll = (macOf s m).poll := by
  unfold judgeLink
  extract_lets src ok s1 was
  have hnet : s1.net = s.net := rfl
  have hmac : macOf s1 m = macOf s m := rfl
  have hdown : (linkDown m s1).net.mdio = s.net.mdio ∧ (macOf (linkDown m s1) m).poll = (macOf s m).poll := by
    rw [linkDown_mdio, macOf_linkDown, hnet, hmac]
    exact ⟨rfl, rfl⟩
  split
  case isTrue => simpa only [macLinkEvent_net, macOf_macLinkEvent, putF_net, macOf_putF] using hdown
  case isFalse =>
    split
    case isTrue =>
      simp only [macLinkEvent_net, macOf_macLinkEvent, putF_net, macOf_putF, putFs_net, macOf_putFs, hnet, hmac, and_self]
    case isFalse =>
      split
      case isTrue =>
        simpa only [macLinkEvent_net, macOf_macLinkEvent, putF_net, macOf_putF, putFs_net, macOf_putFs] using hdown
      case isFalse => rw [hnet, hmac]; exact ⟨rfl, rfl⟩

/-- A MAC whose PCS reports its lock and its code word. -/
def pcsReported (m : Nat) (lock report : Bool) (rate : Nat) (s : State) : State :=
  updMac m (fun t => { t with code := if report then some rate else none }) (putB (MAC_LINK_PCS_LOCK m) lock s)

theorem getF_pcsReported {f : Fld} (lock report : Bool) (rate : Nat) (h : f.key ≠ (MAC_LINK_PCS_LOCK m).key) :
    getF (pcsReported m lock report rate s) f = getF s f := getF_putF_ne _ s h

theorem flag_pcsReported {f : Fld} (lock report : Bool) (rate : Nat) (h : f.key ≠ (MAC_LINK_PCS_LOCK m).key) :
    flag (pcsReported m lock report rate s) f = flag s f := flag_putF_ne _ s h

theorem getF_pcsReported_lock (m : Nat) (lock report : Bool) (rate : Nat) (s : State) :
    getF (pcsReported m lock report rate s) (MAC_LINK_PCS_LOCK m) = b2n lock :=
  getF_putB_self (f := MAC_LINK_PCS_LOCK m) rfl lock s

theorem flag_pcsReported_lock (m : Nat) (lock report : Bool) (rate : Nat) (s : State) :
    flag (pcsReported m lock report rate s) (MAC_LINK_PCS_LOCK m) = lock := flag_putB_self (f := MAC_LINK_PCS_LOCK m) rfl lock s

/-- An enabled rate's code fits the three bits of RATE. -/
theorem rateOk_lt {r : Nat} (h : rateOk s m r = true) : r < 8 := by
  simp only [rateOk, Bool.and_eq_true, decide_eq_true_eq] at h
  omega

/-- What the PCS reports does not change which rates are enabled. -/
theorem rateOk_pcsReported (lock report : Bool) (rate r : Nat) :
    rateOk (pcsReported m lock report rate s) m r = rateOk s m r := by
  rw [rateOk, rateOk, getF_pcsReported _ _ _ (Fld.key_ne_of_bit rfl), flag_pcsReported _ _ _ (Fld.key_ne_of_bit rfl)]

theorem exec_macLinkChange (lock report : Bool) (rate : Nat) (receiving : Bool) (hm : m < nMacs s) :
    ∃ t, exec (.macLinkChange m lock report rate receiving) s = .next t
      ∧ Counted m (judgeLink m (pcsReported m lock report rate s)) t :=
  ⟨_, if_pos hm, .ite (cntAdd_counted ..) (.refl ..)⟩

/-- A locked MAC whose code word reports an enabled rate brings its link up at that rate. -/
theorem macLinkChange_up {r : Nat} {rx : Bool} (hm : m < nMacs s) (hen : flag s (MAC_CTL_EN m) = true)
    (hsrc : getF s (MAC_CTL_RATE_SRC m) = 0) (hmode : flag s (MAC_CTL_MODE m) = true)
    (hup : flag s (MAC_LINK_LINK_UP m) = false) (hr : rateOk s m r = true) :
    ∃ t, exec (.macLinkChange m true true r rx) s = .next t
      ∧ getF t (MAC_LINK_LINK_UP m) = 1 ∧ getF t (MAC_LINK_RATE m) = r ∧ getF t (MAC_IRQ_LINK_CHG m) = 1
      ∧ getF t (MAC_LINK_RATE_MISMATCH m) = 0 ∧ getF t (MAC_LINK_PCS_LOCK m) = 1 := by
  have hm8 := lt_of_lt_nMacs hm
  obtain ⟨t, ht, hcount⟩ := exec_macLinkChange true true r rx hm
  have hcode : linkSource (pcsReported m true true r s) m = some r := by
    rw [linkSource_code ((getF_pcsReported true true r (Fld.key_ne_of_bit rfl)).trans hsrc)
      ((flag_pcsReported true true r (Fld.key_ne_of_bit rfl)).trans hmode), pcsReported, macOf_updMac, if_pos rfl, if_pos rfl]
  rw [judgeLink_up ((flag_pcsReported true true r (Fld.key_ne_of_bit rfl)).trans hen) (flag_pcsReported_lock ..)
    ((flag_pcsReported true true r (Fld.key_ne_of_bit rfl)).trans hup) hcode ((rateOk_pcsReported ..).trans hr)] at hcount
  have hput := putFs_upFields m r (pcsReported m true true r s)
  have hget {f : Fld} (hf : besideCounts m f) : getF t f = getF (putFs (upFields m r) (pcsReported m true true r s)) f :=
    (hcount.regs f hf).trans ((macLinkEvent_told m _).getF_mac hm8 hf)
  have hset {f : Fld} {v : Nat} (hf : besideCounts m f) (hv : (f, v) ∈ upFields m r) (hw : v % 2 ^ f.width = v) :
      getF t f = v :=
    (hget hf).trans ((hput.written _ hv).trans hw)
  refine ⟨t, ht, ?up, ?atRate, ?chg, ?mismatch, ?pcs⟩
  case up => exact hset (besideCounts_of_addr rfl rfl rfl rfl) (by simp [upFields]) rfl
  case atRate =>
    exact hset (besideCounts_of_addr rfl rfl rfl rfl) (by simp [upFields]) (Nat.mod_eq_of_lt (rateOk_lt hr))
  case chg => exact hset (besideCounts_of_addr rfl rfl rfl rfl) (by simp [upFields]) rfl
  case mismatch => exact hset (besideCounts_of_addr rfl rfl rfl rfl) (by simp [upFields]) rfl
  case pcs =>
    rw [hget (besideCounts_of_addr rfl rfl rfl rfl), hput.others _ (Fld.key_ne_all rfl)]
    exact getF_pcsReported_lock ..

/-- A lost lock takes a link down and empties the transmit FIFO. -/
theorem macLinkChange_down {r : Nat} {report rx : Bool} (hm : m < nMacs s) (hup : flag s (MAC_LINK_LINK_UP m) = true) :
    ∃ t, exec (.macLinkChange m false report r rx) s = .next t
      ∧ getF t (MAC_LINK_LINK_UP m) = 0 ∧ getF t (MAC_LINK_RATE m) = 0 ∧ getF t (MAC_LINK_PAUSED m) = 0
      ∧ getF t (MAC_IRQ_LINK_CHG m) = 1 ∧ (macOf t m).tx = [] ∧ (macOf t m).c0 = [] ∧ (macOf t m).c1 = []
      ∧ (macOf t m).rx = (macOf s m).rx := by
  have hm8 := lt_of_lt_nMacs hm
  obtain ⟨t, ht, hcount⟩ := exec_macLinkChange false report r rx hm
  rw [judgeLink_unlocked (flag_pcsReported_lock ..) ((flag_pcsReported false report r (Fld.key_ne_of_bit rfl)).trans hup)]
    at hcount
  generalize hu : putF (MAC_LINK_RATE_MISMATCH m) 0 (pcsReported m false report r s) = u at hcount
  have hget {f : Fld} (hf : besideCounts m f) : getF t f = getF (putF (MAC_IRQ_LINK_CHG m) 1 (linkDown m u)) f :=
    (hcount.regs f hf).trans ((macLinkEvent_told m _).getF_mac hm8 hf)
  have hlink {f : Fld} (ha : f.addr = 0x20090004 + 16384 * m) (hl : Nat.blt f.lo 32 = true) :
      getF t f = getF (linkDown m u) f :=
    (hget (besideCounts_of_addr ha rfl hl rfl)).trans (getF_putF_ne _ _ (linkChg_key_ne ha hl))
  have hmac : macOf t m = (macOf u m).flushed := by
    rw [hcount.macOf, macOf_macLinkEvent, macOf_putF, macOf_linkDown]
  have hrx : (macOf u m).rx = (macOf s m).rx := by
    rw [← hu, macOf_putF, pcsReported, macOf_updMac, if_pos rfl, macOf_putB]
  obtain ⟨hlu, hrate, hpaused⟩ := linkDown_fields m u
  have hchg : getF t (MAC_IRQ_LINK_CHG m) = 1 :=
    (hget (besideCounts_of_addr rfl rfl rfl rfl)).trans (getF_putF_self (MAC_IRQ_LINK_CHG m) 1 _)
  refine ⟨t, ht, (hlink rfl rfl).trans hlu, (hlink rfl rfl).trans hrate, (hlink rfl rfl).trans hpaused, hchg, ?_⟩
  rw [hmac]
  exact ⟨rfl, rfl, rfl, hrx⟩

/-! ### PAUSE (R189, R197, R198) -/

/-- A PAUSE frame of a quantum above 0 that is heeded: PAUSE takes hold, or goes on. -/
theorem pauseFrame_heeded {q : Nat} (hen : flag s (MAC_PAUSE_PAUSE_EN m) = true) (hwd : flag s (MAC_LINK_WD_HOLD m) = false)
    (hq : q ≠ 0) : pauseFrame m q s = if flag s (MAC_LINK_PAUSED m) then cntAdd m 5 1 s
      else updMac m (fun t => { t with since := ptpUnits s.ptp }) (putF (MAC_LINK_PAUSED m) 1 (cntAdd m 5 1 s)) := by
  simp [pauseFrame, hen, hwd, hq]

theorem pauseFrame_effect {q : Nat} (hen : flag s (MAC_PAUSE_PAUSE_EN m) = true) (hwd : flag s (MAC_LINK_WD_HOLD m) = false)
    (hq : q ≠ 0) : flag (pauseFrame m q s) (MAC_LINK_PAUSED m) = true ∧ (macOf (pauseFrame m q s) m).rx = (macOf s m).rx
      ∧ getF (pauseFrame m q s) (MAC_CNT_COUNT m 5) = min (getF s (MAC_CNT_COUNT m 5) + 1) 4294967295 := by
  rw [pauseFrame_heeded hen hwd hq]
  split
  case isTrue hp =>
    have hpaused : flag (cntAdd m 5 1 s) (MAC_LINK_PAUSED m) = true :=
      ((cntAdd_counted m 5 1 s).flag (besideCounts_of_addr rfl rfl rfl rfl)).trans hp
    exact ⟨hpaused, by rw [macOf_cntAdd], getF_cntAdd_self m 5 1 s⟩
  case isFalse =>
    refine ⟨?_, ?_, ?_⟩
    · rw [flag, getF_updMac, getF_putF_self]
      rfl
    · rw [macOf_updMac, if_pos rfl, macOf_putF, macOf_cntAdd]
    · rw [getF_updMac, getF_putF_ne _ _ (Fld.key_ne_of_bit rfl), getF_cntAdd_self]

theorem exec_pauseExpiry (hm : m < nMacs s) (hp : flag s (MAC_LINK_PAUSED m) = true) :
    exec (.pauseExpiry m) s = .next (cntAdd m 44 (pausedFor s m) (putF (MAC_LINK_PAUSED m) 0 s)) :=
  if_pos (by simp [hm, hp])

/-- The fields of a MAC whose watchdog has ended a PAUSE. -/
def heldFields (m : Nat) : List (Fld × Nat) := [(MAC_LINK_PAUSED m, 0), (MAC_LINK_WD_HOLD m, 1), (MAC_IRQ_PAUSE_WD m, 1)]

theorem putFs_heldFields (m : Nat) (s : State) : OnlyFields s (putFs (heldFields m) s) (heldFields m) := by
  refine .putFs ?_
  simp only [heldFields, List.map_cons, List.map_nil, List.nodup_cons, List.mem_cons, List.not_mem_nil, List.nodup_nil,
    or_false, and_true, not_false_eq_true, Fld.key, MAC_LINK_PAUSED, MAC_LINK_WD_HOLD, MAC_IRQ_PAUSE_WD]
  omega

theorem exec_pauseWatchdogExpiry (hm : m < nMacs s) (hp : flag s (MAC_LINK_PAUSED m) = true)
    (hwd : flag s (MAC_PAUSE_WD_US m) = true) (hw : 0 < txHeld (macOf s m)) :
    ∃ t, exec (.pauseWatchdogExpiry m) s = .next t
      ∧ Told (cntAdd m 45 1 (cntAdd m 44 (pausedFor s m) (putFs (heldFields m) s))) t :=
  ⟨_, if_pos (by simp [hm, hp, hwd, hw]), (Told.refl _).raiseOwner _ _ _ _⟩

theorem pauseWatchdogExpiry_effect (hm : m < nMacs s) (hp : flag s (MAC_LINK_PAUSED m) = true)
    (hwd : flag s (MAC_PAUSE_WD_US m) = true) (hw : 0 < txHeld (macOf s m)) :
    ∃ t, exec (.pauseWatchdogExpiry m) s = .next t ∧ getF t (MAC_LINK_PAUSED m) = 0 ∧ getF t (MAC_LINK_WD_HOLD m) = 1
      ∧ getF t (MAC_IRQ_PAUSE_WD m) = 1
      ∧ getF t (MAC_CNT_COUNT m 45) = min (getF s (MAC_CNT_COUNT m 45) + 1) 4294967295 := by
  have hm8 := lt_of_lt_nMacs hm
  obtain ⟨t, ht, htold⟩ := exec_pauseWatchdogExpiry hm hp hwd hw
  have hcount : Counted m (putFs (heldFields m) s) (cntAdd m 45 1 (cntAdd m 44 (pausedFor s m) (putFs (heldFields m) s))) :=
    (cntAdd_counted ..).cntAdd ..
  have hget {f : Fld} (hf : besideCounts m f) : getF t f = getF (putFs (heldFields m) s) f :=
    (htold.getF_mac hm8 hf).trans (hcount.regs f hf)
  have hput := putFs_heldFields m s
  have hset {f : Fld} {v : Nat} (hf : besideCounts m f) (hv : (f, v) ∈ heldFields m) (hw : v % 2 ^ f.width = v) :
      getF t f = v :=
    (hget hf).trans ((hput.written _ hv).trans hw)
  refine ⟨t, ht, ?paused, ?hold, ?irq, ?count⟩
  case paused => exact hset (besideCounts_of_addr rfl rfl rfl rfl) (by simp [heldFields]) rfl
  case hold => exact hset (besideCounts_of_addr rfl rfl rfl rfl) (by simp [heldFields]) rfl
  case irq => exact hset (besideCounts_of_addr rfl rfl rfl rfl) (by simp [heldFields]) rfl
  case count =>
    rw [htold.getF _ (tellKey_of_below (count_key_below hm8 (by decide))), getF_cntAdd_self, getF_cntAdd_ne (by decide),
      hput.others _ (Fld.key_ne_all rfl)]

theorem exec_pauseIgnoreEnd (hm : m < nMacs s) : exec (.pauseIgnoreEnd m) s = .next (putF (MAC_LINK_WD_HOLD m) 0 s) := if_pos hm

/-! ### Snapshots (R199) -/

/-- The counters below `n` copied and cleared, the others as they were. -/
structure Snapped (m n : Nat) (s t : State) : Prop where
  rest : t = { s with regs := t.regs }
  cleared : ∀ i, i < n → getF t (MAC_CNT_COUNT m i) = 0
  copied : ∀ i, i < n → getF t (MAC_SNAP_COUNT m i) = getF s (MAC_CNT_COUNT m i) % 2 ^ 32
  others : ∀ i, n ≤ i → i < 48 → getF t (MAC_CNT_COUNT m i) = getF s (MAC_CNT_COUNT m i)

theorem Snapped.zero (m : Nat) (s : State) : Snapped m 0 s s :=
  ⟨rfl, fun _ h => absurd h (Nat.not_lt_zero _), fun _ h => absurd h (Nat.not_lt_zero _), fun _ _ _ => rfl⟩

/-- One more counter copied and cleared. -/
theorem Snapped.succ {n : Nat} (h : Snapped m n s t) (hn : n < 48) :
    Snapped m (n + 1) s (putF (MAC_CNT_COUNT m n) 0 (putF (MAC_SNAP_COUNT m n) (getF t (MAC_CNT_COUNT m n)) t)) where
  rest := by rw [putF_regs, putF_regs (MAC_SNAP_COUNT m n), h.rest]
  cleared i hi := by
    rcases Nat.lt_succ_iff_lt_or_eq.1 hi with hlt | rfl
    · rw [getF_putF_ne _ _ (count_key_ne (by omega)), getF_putF_ne _ _ (count_key_ne_snap (by omega) n), h.cleared i hlt]
    · exact getF_putF_self _ 0 _
  copied i hi := by
    rcases Nat.lt_succ_iff_lt_or_eq.1 hi with hlt | rfl
    · rw [getF_putF_ne _ _ (count_key_ne_snap hn i).symm, getF_putF_ne _ _ (snap_key_ne (by omega)), h.copied i hlt]
    · rw [getF_putF_ne _ _ (count_key_ne_snap hn i).symm, getF_putF_self, h.others i (Nat.le_refl _) hn]
      rfl
  others i hi hi' := by
    rw [getF_putF_ne _ _ (count_key_ne (by omega)), getF_putF_ne _ _ (count_key_ne_snap hi' n), h.others i (by omega) hi']

theorem snapCounters_snapped (m : Nat) (s : State) : Snapped m 48 s (snapCounters m s) := by
  have below : ∀ n, n ≤ 48 → Snapped m n s ((List.range n).foldl (fun s i => putF (MAC_CNT_COUNT m i) 0
      (putF (MAC_SNAP_COUNT m i) (getF s (MAC_CNT_COUNT m i)) s)) s) := by
    intro n hn
    induction n with
    | zero => exact .zero m s
    | succ n ih =>
      rw [List.range_succ, List.foldl_append]
      exact (ih (by omega)).succ (by omega)
  exact below 48 (Nat.le_refl _)

theorem exec_macCounterSnap (hm : m < nMacs s) : exec (.macCounterSnap m) s = .next (snapCounters m s) := if_pos hm

/-! ### Ring enables (R193) -/

theorem exec_ringEnable {tx en : Bool} {r : Nat} (hm : m < nMacs s) (hr : r < 2) :
    exec (.ringEnable m tx r en) s = .next (ringEnable m tx r en s) := if_pos (by simp [hm, hr])

/-- The EN of a ring. -/
def ringEn (m : Nat) (tx : Bool) (r : Nat) : Fld := if tx then MAC_TX_CFG_EN m r else MAC_RX_CFG_EN m r

/-- The HEAD of a ring. -/
def ringHead (m : Nat) (tx : Bool) (r : Nat) : Fld := if tx then MAC_TX_HEAD_HEAD m r else MAC_RX_HEAD_HEAD m r

/-- EN stands one word before HEAD. -/
theorem ringEn_key_ne (m : Nat) (tx : Bool) (r : Nat) : (ringEn m tx r).key ≠ (ringHead m tx r).key := by
  cases tx
  case false =>
    change (MAC_RX_CFG_EN m r).key ≠ (MAC_RX_HEAD_HEAD m r).key
    simp only [Fld.key, MAC_RX_CFG_EN, MAC_RX_HEAD_HEAD]
    omega
  case true =>
    change (MAC_TX_CFG_EN m r).key ≠ (MAC_TX_HEAD_HEAD m r).key
    simp only [Fld.key, MAC_TX_CFG_EN, MAC_TX_HEAD_HEAD]
    omega

theorem ringEnable_on {tx : Bool} {r : Nat} (h : flag s (ringEn m tx r) = false) :
    OnlyFields s (ringEnable m tx r true s) [(ringEn m tx r, 1), (ringHead m tx r, 0)] := by
  have e : ringEnable m tx r true s = putF (ringHead m tx r) 0 (putF (ringEn m tx r) 1 s) := by
    rw [ringEn] at h
    rw [ringEnable, if_pos (by simp [h])]
    rfl
  rw [e]
  exact .putF_then s 1 0 (ringEn_key_ne m tx r)

theorem ringEnable_off (m : Nat) (tx : Bool) (r : Nat) (s : State) :
    OnlyFields s (ringEnable m tx r false s) [(ringEn m tx r, 0)] := .putF s _ 0

end

/-! ### A frame accepted (R188) -/

section
variable {m half : Nat} {b : List Nat} {s : State}

/-- What a MAC does with a frame whose FCS is good, of a length that it takes, and that finds room; it bears no tag. -/
def accepted (m half : Nat) (b : List Nat) (s : State) : State :=
  if etherType b = 0x8808 ∧ be b 14 2 ≠ 1 then cntAdd m 20 1 (countGood m 0 b (b.length + 4) s)
  else if etherType b = 0x8808 ∧ dstMac b = 0x0180C2000001 then pauseFrame m (be b 16 2) (countGood m 0 b (b.length + 4) s)
  else filterFrame m (linOf (ingressTime s m half) % 4294967296) b (countGood m 0 b (b.length + 4) s)

theorem exec_macRxFrame_accepted (hm : m < nMacs s) (hup : flag s (MAC_LINK_LINK_UP m) = true) (hmin : 60 ≤ b.length)
    (hmax : b.length + 4 ≤ getF s (MAC_MAXLEN_RX_MAX m)) (hroom : rxHeld (macOf s m) + (b.length + 4) ≤ 16384)
    (htag : etherType b ≠ 0x8100) : exec (.macRxFrame m b true false half) s = .next (accepted m half b s) := by
  have htag' : isTagged b = false := by simpa [isTagged] using htag
  change execMacRxFrame m b true false half s = _
  rw [execMacRxFrame, if_pos (by simp [hm, hup])]
  simp only [Bool.false_eq_true, if_false, if_neg (show ¬ b.length + 4 < 64 by omega), if_neg (Nat.not_lt.2 hmax), Bool.not_true,
    if_neg (Nat.not_lt.2 hroom), htag', accepted, apply_ite Host.Outcome.next]

/-- Counting a frame as good leaves the count of PAUSE frames. -/
theorem getF_countGood_pause (m : Nat) (b : List Nat) (len : Nat) (s : State) :
    getF (countGood m 0 b len s) (MAC_CNT_COUNT m 5) = getF s (MAC_CNT_COUNT m 5) := by
  have hcast : castOf b ≤ 2 := by
    unfold castOf
    split
    · exact Nat.le_refl _
    · split <;> decide
  unfold countGood
  rw [getF_cntAdd_ne (by omega), getF_cntAdd_ne (by omega), getF_cntAdd_ne (by decide), getF_cntAdd_ne (by decide)]

/-- A PAUSE frame of a quantum above 0 pauses an enabled MAC that its watchdog does not hold. -/
theorem macRxFrame_pause (hm : m < nMacs s) (hup : flag s (MAC_LINK_LINK_UP m) = true) (hmin : 60 ≤ b.length)
    (hmax : b.length + 4 ≤ getF s (MAC_MAXLEN_RX_MAX m)) (hroom : rxHeld (macOf s m) + (b.length + 4) ≤ 16384)
    (htype : etherType b = 0x8808) (hop : be b 14 2 = 1) (hdst : dstMac b = 0x0180C2000001)
    (hen : flag s (MAC_PAUSE_PAUSE_EN m) = true) (hwd : flag s (MAC_LINK_WD_HOLD m) = false) (hq : be b 16 2 ≠ 0) :
    ∃ t, exec (.macRxFrame m b true false half) s = .next t ∧ flag t (MAC_LINK_PAUSED m) = true
      ∧ (macOf t m).rx = (macOf s m).rx
      ∧ getF t (MAC_CNT_COUNT m 5) = min (getF s (MAC_CNT_COUNT m 5) + 1) 4294967295 := by
  have hgood := countGood_counted m 0 b (b.length + 4) s
  have hpause : accepted m half b s = pauseFrame m (be b 16 2) (countGood m 0 b (b.length + 4) s) := by
    rw [accepted, if_neg (fun h => h.2 hop), if_pos ⟨htype, hdst⟩]
  obtain ⟨hp, hrx, hc⟩ := pauseFrame_effect (m := m) (s := countGood m 0 b (b.length + 4) s)
    ((hgood.flag (besideCounts_of_addr rfl rfl rfl rfl)).trans hen)
    ((hgood.flag (besideCounts_of_addr rfl rfl rfl rfl)).trans hwd) hq
  refine ⟨_, exec_macRxFrame_accepted hm hup hmin hmax hroom (by rw [htype]; decide), ?_⟩
  rw [hpause]
  exact ⟨hp, by rw [hrx, hgood.macOf], by rw [hc, getF_countGood_pause]⟩

end

/-! ### The obligation -/

/-- Settles O36: the link as it is judged after the PCS's report (`judgeLink_up`, `judgeLink_unlocked`), whose event and counters
leave the fields of the link alone; then PAUSE (`pauseFrame_effect`, `pauseWatchdogExpiry_effect`), the snapshots, counter by
counter (`Snapped.succ`), the enables of the rings, and the counters themselves (`getF_cntAdd_self`). -/
theorem macLinkAndPause : Obligations.MacLinkAndPause := by
  refine ⟨fun m r rx s _ => macLinkChange_up, fun m rep r rx s _ => macLinkChange_down, ?pause, fun m s => exec_pauseExpiry,
    fun m s _ => pauseWatchdogExpiry_effect, fun m s hm => ⟨_, exec_pauseIgnoreEnd hm, .putF s _ 0⟩, ?snap,
    fun m r s hm hr h => ⟨_, exec_ringEnable hm hr, ringEnable_on (tx := false) h⟩,
    fun m r s hm hr h => ⟨_, exec_ringEnable hm hr, ringEnable_on (tx := true) h⟩,
    fun m r s hm hr => ⟨⟨_, exec_ringEnable hm hr, ringEnable_off m false r s⟩,
      ⟨_, exec_ringEnable hm hr, ringEnable_off m true r s⟩⟩,
    fun m i n s _ _ => ⟨getF_cntAdd_self m i n s, getF_cntAdd_ovf⟩⟩
  case pause => exact fun m b half s _ hm hup hmin hmax hroom => macRxFrame_pause hm hup hmin hmax (by omega)
  case snap =>
    intro m s _ hm
    have hsnap := snapCounters_snapped m s
    exact ⟨_, exec_macCounterSnap hm, hsnap.rest, fun i hi => ⟨hsnap.cleared i hi, hsnap.copied i hi⟩⟩

end Sys2Proof.Machine

/-! ## Frames received and sent by a MAC (R188 to R195) -/

namespace Sys2Proof.Machine

/-! ### Frames dropped for an error (R188) -/

section
variable {m half : Nat} {b : List Nat} {ok : Bool} {s : State}

theorem exec_macRxFrame_codeErr (hm : m < nMacs s) (hup : flag s (MAC_LINK_LINK_UP m) = true) :
    exec (.macRxFrame m b ok true half) s = .next (cntAdd m 15 1 s) := if_pos (by simp [hm, hup])

theorem exec_macRxFrame_tooShort (hm : m < nMacs s) (hup : flag s (MAC_LINK_LINK_UP m) = true) (hlen : b.length < 60) :
    exec (.macRxFrame m b ok false half) s = .next (cntAdd m (if ok then 16 else 17) 1 s) :=
  (if_pos (by simp [hm, hup])).trans (if_pos (show b.length + 4 < 64 by omega))

theorem exec_macRxFrame_tooLong (hm : m < nMacs s) (hup : flag s (MAC_LINK_LINK_UP m) = true) (hmin : 60 ≤ b.length)
    (hmax : getF s (MAC_MAXLEN_RX_MAX m) < b.length + 4) :
    exec (.macRxFrame m b ok false half) s = .next (cntAdd m (if ok then 18 else 19) 1 s) :=
  (if_pos (by simp [hm, hup])).trans ((if_neg (show ¬ b.length + 4 < 64 by omega)).trans (if_pos hmax))

theorem exec_macRxFrame_badFcs (hm : m < nMacs s) (hup : flag s (MAC_LINK_LINK_UP m) = true) (hmin : 60 ≤ b.length)
    (hmax : b.length + 4 ≤ getF s (MAC_MAXLEN_RX_MAX m)) :
    exec (.macRxFrame m b false false half) s = .next (cntAdd m 14 1 s) :=
  (if_pos (by simp [hm, hup])).trans ((if_neg (show ¬ b.length + 4 < 64 by omega)).trans (if_neg (Nat.not_lt.2 hmax)))

theorem exec_macRxFrame_noRoom (hm : m < nMacs s) (hup : flag s (MAC_LINK_LINK_UP m) = true) (hmin : 60 ≤ b.length)
    (hmax : b.length + 4 ≤ getF s (MAC_MAXLEN_RX_MAX m)) (hroom : 16384 < rxHeld (macOf s m) + (b.length + 4)) :
    exec (.macRxFrame m b true false half) s = .next (cntAdd m 22 1 s) :=
  (if_pos (by simp [hm, hup])).trans ((if_neg (show ¬ b.length + 4 < 64 by omega)).trans ((if_neg (Nat.not_lt.2 hmax)).trans
    (if_pos hroom)))

end

/-! ### A frame that joins the receive FIFO (R189 to R191) -/

section
variable {m half : Nat} {b : List Nat} {s t : State}

/-- Counting changes no filter entry. -/
theorem Counted.perfectMatch (h : Counted m s t) (a : Nat) : perfectMatch t m a = perfectMatch s m a := by
  have hentry : ∀ e ∈ List.range 32,
      (Machine.flag t (MAC_AF_HI_VALID m e)
        && getF t (MAC_AF_LO_ADDR_LO m e) + 4294967296 * getF t (MAC_AF_HI_ADDR_HI m e) == a)
      = (Machine.flag s (MAC_AF_HI_VALID m e)
        && getF s (MAC_AF_LO_ADDR_LO m e) + 4294967296 * getF s (MAC_AF_HI_ADDR_HI m e) == a) := by
    intro e he
    have he := List.mem_range.1 he
    rw [h.flag (besideCounts_of_filter rfl he rfl rfl rfl), h.regs _ (besideCounts_of_filter rfl he rfl rfl rfl),
      h.regs _ (besideCounts_of_filter rfl he rfl rfl rfl)]
  unfold Machine.perfectMatch
  rw [Bool.eq_iff_iff, List.any_eq_true, List.any_eq_true]
  exact exists_congr fun e => and_congr_right fun he => by rw [hentry e he]

theorem Counted.ringOf (h : Counted m s t) (b : List Nat) : ringOf t m b = ringOf s m b := by
  unfold Machine.ringOf
  rw [h.flag (besideCounts_of_ring rfl (by decide) rfl rfl rfl), h.flag (besideCounts_of_ring rfl (by decide) rfl rfl rfl)]

theorem besideCounts_running (m : Nat) : besideCounts m FAB_TL_STATUS_RUNNING := by
  simp only [besideCounts, FAB_TL_STATUS_RUNNING]
  omega

theorem Counted.classifyFrame (h : Counted m s t) (b : List Nat) : classifyFrame t m b = classifyFrame s m b := by
  have hrun : running t = running s := h.flag (besideCounts_running m)
  unfold Machine.classifyFrame
  rw [hrun, h.str]

/-- A unicast frame to a perfect-match address is offered. -/
theorem filterFrame_match {stamp : Nat} (hcast : castOf b = 0) (hmatch : perfectMatch s m (dstMac b) = true) :
    filterFrame m stamp b s = offer m stamp false b s := by
  simp only [filterFrame, hcast, hmatch, if_true]

/-- An untagged frame that no classifier entry takes and a ring takes joins the FIFO. -/
theorem offer_ring {stamp : Nat} (htag : etherType b ≠ 0x8100) (hcls : classifyFrame s m b = none)
    (hring : (ringOf s m b).isSome = true) :
    offer m stamp false b s = updMac m (fun t => { t with rx := t.rx ++ [⟨b, none, stamp⟩] }) s := by
  have htag : isTagged b = false := by simpa [isTagged] using htag
  obtain ⟨r, hr⟩ := Option.isSome_iff_exists.1 hring
  simp only [offer, htag, Bool.false_and, Bool.false_eq_true, if_false, hcls, hr]

theorem macRxFrame_joins (hm : m < nMacs s) (hup : flag s (MAC_LINK_LINK_UP m) = true) (hmin : 60 ≤ b.length)
    (hmax : b.length + 4 ≤ getF s (MAC_MAXLEN_RX_MAX m)) (hroom : rxHeld (macOf s m) + (b.length + 4) ≤ 16384)
    (htype : etherType b ≠ 0x8808) (htag : etherType b ≠ 0x8100) (hcast : castOf b = 0)
    (hmatch : perfectMatch s m (dstMac b) = true) (hcls : classifyFrame s m b = none) (hring : (ringOf s m b).isSome = true) :
    ∃ t, exec (.macRxFrame m b true false half) s = .next t
      ∧ (macOf t m).rx = (macOf s m).rx ++ [⟨b, none, linOf (ingressTime s m half) % 2 ^ 32⟩] := by
  have hgood := countGood_counted m 0 b (b.length + 4) s
  refine ⟨_, exec_macRxFrame_accepted hm hup hmin hmax hroom htag, ?_⟩
  rw [accepted, if_neg (fun h => htype h.1), if_neg (fun h => htype h.1),
    filterFrame_match hcast ((hgood.perfectMatch _).trans hmatch),
    offer_ring htag ((hgood.classifyFrame b).trans hcls) ((congrArg Option.isSome (hgood.ringOf b)).trans hring),
    ← hgood.macOf m]
  exact congrArg MacSt.rx ((macOf_updMac ..).trans (if_pos rfl))

end

/-! ### Delivery to a ring (R191 to R193) -/

section
variable {m : Nat} {f : RxFrame} {q : List RxFrame} {s u : State}

theorem exec_ringFrameDeliver_drop (hrx : (macOf s m).rx = f :: q) (hring : ringOf s m f.bytes = none) :
    exec (.ringFrameDeliver m) s = .next (noBuf m (updMac m (fun x => { x with rx := q }) s)) := by
  change execRingFrameDeliver m s = _
  simp only [execRingFrameDeliver, hrx, hring]

theorem exec_ringFrameDeliver_ring {r : Nat} (hrx : (macOf s m).rx = f :: q) (hring : ringOf s m f.bytes = some r) :
    exec (.ringFrameDeliver m) s = .next (deliver m f r (updMac m (fun x => { x with rx := q }) s)) := by
  change execRingFrameDeliver m s = _
  simp only [execRingFrameDeliver, hrx, hring]

/-- The descriptors that a frame takes of a receive ring. -/
def ringDescs (m r need : Nat) (s : State) : Option (List (Nat × Nat × Nat)) × State :=
  takeDescs m (getF s (MAC_RX_BASE_BASE m r)) (getF s (MAC_RX_CFG_SIZE m r)) (getF s (MAC_RX_HEAD_HEAD m r)) need 0 32 s

theorem deliver_none {r : Nat} (h : ringDescs m r f.bytes.length s = (none, u)) : deliver m f r s = noBuf m u := by
  unfold ringDescs at h
  simp only [deliver, h]

/-- A frame that finds its descriptors advances HEAD past them, and is counted. -/
theorem deliver_some {r : Nat} {ds : List (Nat × Nat × Nat)} (h : ringDescs m r f.bytes.length s = (some ds, u)) :
    ∃ v, deliver m f r s = cntAdd m 41 1 (putF (MAC_RX_HEAD_HEAD m r)
      ((getF s (MAC_RX_HEAD_HEAD m r) + ds.length) % 2 ^ (getF s (MAC_RX_CFG_SIZE m r) + 3)) v) := by
  unfold deliver
  extract_lets base size head x
  have hx : x = (some ds, u) := h
  split
  case h_1 e => simp [hx] at e
  case h_2 e =>
    obtain rfl : ds = _ := by simpa [hx] using e
    exact ⟨_, rfl⟩

theorem deliver_head {r : Nat} {ds : List (Nat × Nat × Nat)} (hr : r < 2)
    (h : ringDescs m r f.bytes.length s = (some ds, u)) : getF (deliver m f r s) (MAC_RX_HEAD_HEAD m r)
      = (getF s (MAC_RX_HEAD_HEAD m r) + ds.length) % 2 ^ (getF s (MAC_RX_CFG_SIZE m r) + 3) % 1024 := by
  obtain ⟨v, e⟩ := deliver_some h
  rw [e, (cntAdd_counted m 41 1 _).regs _ (besideCounts_of_ring rfl hr rfl rfl rfl), getF_putF_self]
  rfl

end

/-! ### Transmission (R194, R195) -/

section
variable {m r half : Nat} {s : State}

theorem exec_txChainFetch (hm : m < nMacs s) (hr : r < 2) (hen : flag s (MAC_TX_CFG_EN m r) = true)
    (hup : flag s (MAC_LINK_LINK_UP m) = true) : exec (.txChainFetch m r) s = .next (fetchChain m r s) :=
  if_pos (by simp [hm, hr, hen, hup])

/-- A chain that software still owns leaves everything but the read of its control word. -/
theorem fetchChain_owned {w : Nat × State} (hw : w = dmaWord (5 + m) (descAddr (getF s (MAC_TX_BASE_BASE m r))
      (getF s (MAC_TX_CFG_SIZE m r)) (getF s (MAC_TX_HEAD_HEAD m r)) + 4) s)
    (hown : bitOf w.1 31 = false) : fetchChain m r s = w.2 := by
  subst hw
  exact if_pos (by rw [hown]; rfl)

/-- A frame on the wire leaves with its FCS; beside that it is counted. -/
theorem wire_eq (m : Nat) (b : List Nat) (s : State) :
    ∃ t, wire m b s = emit .frame (m :: (b ++ fcsOf b)) t ∧ Counted m s t :=
  ⟨_, rfl, .ite ((countGood_counted ..).cntAdd ..) (countGood_counted ..)⟩

theorem wire_out (m : Nat) (b : List Nat) (s : State) : (wire m b s).out = ⟨.frame, m :: (b ++ fcsOf b)⟩ :: s.out := by
  obtain ⟨t, e, h⟩ := wire_eq m b s
  rw [e, ← h.out]
  rfl

theorem macOf_wire (m : Nat) (b : List Nat) (s : State) (n : Nat) : macOf (wire m b s) n = macOf s n := by
  obtain ⟨t, e, h⟩ := wire_eq m b s
  rw [e, macOf_emit, h.macOf]

/-- A control frame without TS_REQ takes no timestamp. -/
theorem oneStep_plain {time : Nat} {f : TxFrame} (h : f.tsReq = false) : oneStep s m time f = f.bytes := by
  unfold oneStep
  split
  · rw [h]
    rfl
  · rfl

theorem sendCtrl_plain_out {f : TxFrame} (hts : f.tsReq = false) (hchain : f.chain = []) :
    (sendCtrl m r half f s).out = ⟨.frame, m :: (f.bytes ++ fcsOf f.bytes)⟩ :: s.out := by
  simp only [sendCtrl, hts, hchain, List.foldl_nil, Bool.false_eq_true, if_false, oneStep_plain hts]
  exact wire_out m f.bytes s

section
variable (hm : m < nMacs s) (hup : flag s (MAC_LINK_LINK_UP m) = true) (hp : flag s (MAC_LINK_PAUSED m) = false)
include hm hup hp

theorem exec_macTxFrameStart_stream {f : Nat × List Nat} {q : List (Nat × List Nat)} (htx : (macOf s m).tx = f :: q) :
    exec (.macTxFrameStart m half) s = .next (wire m f.2 (cntAdd m 30 1 (updMac m (fun x => { x with tx := q }) s))) := by
  change execMacTxFrameStart m half s = _
  simp [execMacTxFrameStart, hm, hup, hp, htx]

theorem exec_macTxFrameStart_ring0 {f : TxFrame} {q : List TxFrame} (htx : (macOf s m).tx = []) (h0 : (macOf s m).c0 = f :: q) :
    exec (.macTxFrameStart m half) s = .next (sendCtrl m 0 half f (updMac m (fun x => { x with c0 := q }) s)) := by
  change execMacTxFrameStart m half s = _
  simp [execMacTxFrameStart, hm, hup, hp, htx, h0]

theorem exec_macTxFrameStart_ring1 {f : TxFrame} {q : List TxFrame} (htx : (macOf s m).tx = []) (h0 : (macOf s m).c0 = [])
    (h1 : (macOf s m).c1 = f :: q) :
    exec (.macTxFrameStart m half) s = .next (sendCtrl m 1 half f (updMac m (fun x => { x with c1 := q }) s)) := by
  change execMacTxFrameStart m half s = _
  simp [execMacTxFrameStart, hm, hup, hp, htx, h0, h1]

theorem macTxFrameStart_stream_effect {f : Nat × List Nat} {q : List (Nat × List Nat)} (htx : (macOf s m).tx = f :: q) :
    ∃ t, exec (.macTxFrameStart m half) s = .next t ∧ t.out = ⟨.frame, m :: (f.2 ++ fcsOf f.2)⟩ :: s.out
      ∧ (macOf t m).tx = q ∧ (macOf t m).c0 = (macOf s m).c0 ∧ (macOf t m).c1 = (macOf s m).c1 := by
  refine ⟨_, exec_macTxFrameStart_stream hm hup hp htx, ?_, ?_⟩
  · rw [wire_out, cntAdd_out, updMac_out]
  · rw [macOf_wire, macOf_cntAdd, macOf_updMac, if_pos rfl]
    exact ⟨rfl, rfl, rfl⟩

end

end

/-! ### The obligation -/

/-- Settles O37: the checks of a received frame in their order, the last of which leaves it `accepted`; counting it as good
changes nothing that the filter, the classifier and the rings read (`Counted.perfectMatch`, `Counted.classifyFrame`,
`Counted.ringOf`). Then delivery (`deliver_none`, `deliver_head`), the fetch of a chain, and the frame to start, which `wire`
sends. -/
theorem macFrames : Obligations.MacFrames := by
  refine ⟨fun m b ok half s => exec_macRxFrame_codeErr, fun m b ok half s => exec_macRxFrame_tooShort,
    fun m b ok half s => exec_macRxFrame_tooLong,
    fun m b half s hm hup hmin hmax => ⟨exec_macRxFrame_badFcs hm hup hmin hmax, exec_macRxFrame_noRoom hm hup hmin hmax⟩,
    fun m b half s _ => macRxFrame_joins, fun m s f q => exec_ringFrameDeliver_drop, fun m s f q r => exec_ringFrameDeliver_ring,
    fun m s f r x u ds _ hr hx => ⟨fun h => deliver_none (hx.symm.trans h), fun h => deliver_head hr (hx.symm.trans h)⟩,
    fun m r s hm hr hen hup => ⟨exec_txChainFetch hm hr hen hup, fun w hw hown => ?owned⟩,
    fun m half s f q hm hup hp => macTxFrameStart_stream_effect hm hup hp,
    fun m half s f q hm hup hp => exec_macTxFrameStart_ring0 hm hup hp,
    fun m half s f q hm hup hp => exec_macTxFrameStart_ring1 hm hup hp,
    fun m r half f s hts hchain => ⟨_, rfl, sendCtrl_plain_out hts hchain⟩⟩
  case owned => rw [exec_txChainFetch hm hr hen hup, fetchChain_owned hw hown]

end Sys2Proof.Machine

/-! ## The MDIO buses (R186, R187) -/

namespace Sys2Proof.Machine

/-! ### The queue of a bus -/

/-- The transactions of a bus, the running one first. -/
def busQueue (s : State) (b : Nat) : List MdioOp := s.net.mdio.get b []

section
variable {b : Nat} {o : MdioOp} {s : State}

theorem getF_mdioQueue (b : Nat) (o : MdioOp) (s : State) (f : Fld) : getF (mdioQueue b o s) f = getF s f := by
  unfold mdioQueue
  extract_lets q net s1
  split
  · rfl
  · rfl

theorem busQueue_mdioQueue (b : Nat) (o : MdioOp) (s : State) : busQueue (mdioQueue b o s) b = busQueue s b ++ [o] := by
  unfold mdioQueue
  extract_lets q net s1
  have h : busQueue s1 b = busQueue s b ++ [o] := AMap.get_put_self _ _ _ _
  split
  · exact h
  · exact h

/-- On a busy bus a transaction waits. -/
theorem mdioQueue_out_busy (h : busQueue s b ≠ []) : (mdioQueue b o s).out = s.out := by
  rw [mdioQueue, if_neg (by simpa [busQueue] using h)]

/-- On an idle bus a transaction starts at once. -/
theorem mdioQueue_out_idle (h : busQueue s b = []) :
    (mdioQueue b o s).out = ⟨.mdio, [b, o.phy, o.dev, o.cl45, o.op, o.data]⟩ :: s.out := by
  rw [mdioQueue, if_pos (by simpa [busQueue] using h)]
  rfl

end

/-! ### Polls and transactions -/

section
variable {m b : Nat} {s : State}

/-- The read that polls a MAC's PHY. -/
def pollOp (s : State) (m : Nat) : MdioOp :=
  ⟨m, getF s (MAC_PHY_PHYAD m), getF s (MAC_PHY_DEVAD m), getF s (MAC_PHY_CL45 m), 2, getF s (MAC_PHY_REG m)⟩

theorem exec_mdioPoll (hm : m < nMacs s) (hi : flag s (MAC_PHY_INTERVAL m) = true) :
    exec (.mdioPoll m) s = .next (mdioQueue (m / 2) (pollOp s m) s) := if_pos (by simp [hm, hi])

theorem exec_mdioTransaction {v : Nat} (hb : b < nMdio s) : exec (.mdioTransaction b v) s = .next (mdioCommand b v s) := if_pos hb

theorem mdioCommand_busy (b v : Nat) (s : State) : getF (mdioCommand b v s) (MDIO_CMD_BUSY b) = 1 := by
  rw [mdioCommand, getF_mdioQueue]
  exact getF_putF_self (MDIO_CMD_BUSY b) 1 _

theorem mdioCommand_queue (b v : Nat) (s : State) : busQueue (mdioCommand b v s) b
    = busQueue s b ++ [⟨255, bits v 0 5, bits v 5 5, bits v 10 1, bits v 11 2, getF s (MDIO_DATA_DATA b)⟩] := by
  rw [mdioCommand, busQueue_mdioQueue]
  rfl

/-! ### The end of a transaction (R187) -/

/-- The next transaction of a bus started, if one waits. -/
def startNext (b : Nat) (q : List MdioOp) (s : State) : State :=
  match q with
  | o :: _ => mdioStart b o s
  | [] => s

theorem startNext_eq (b : Nat) (q : List MdioOp) (s : State) : startNext b q s = { s with out := (startNext b q s).out } := by
  cases q <;> rfl

theorem startNext_net (b : Nat) (q : List MdioOp) (s : State) : (startNext b q s).net = s.net := by rw [startNext_eq]

theorem getF_startNext (b : Nat) (q : List MdioOp) (s : State) (f : Fld) : getF (startNext b q s) f = getF s f := by
  rw [startNext_eq]
  rfl

/-- A state whose bus `b` holds a queue. -/
def withQueue (b : Nat) (q : List MdioOp) (s : State) : State := { s with net := { s.net with mdio := s.net.mdio.put b q } }

theorem busQueue_withQueue (b : Nat) (q : List MdioOp) (s : State) : busQueue (withQueue b q s) b = q := AMap.get_put_self _ _ _ _

/-- A transaction of the firmware ended: a read's data stored, BUSY while another command waits. -/
def commandEnded (b d : Nat) (o : MdioOp) (q : List MdioOp) (s : State) : State :=
  putB (MDIO_CMD_BUSY b) (q.any (fun x => x.who == 255)) (if 2 ≤ o.op then putF (MDIO_DATA_DATA b) d s else s)

/-- A poll ended: the MAC's link is judged by its data. -/
def pollEnded (m : Nat) (x : Option Nat) (s : State) : State := judgeLink m (updMac m (fun t => { t with poll := x }) s)

section
variable {d : Nat} {o : MdioOp} {q : List MdioOp} (hq : busQueue s b = o :: q)
include hq

theorem exec_mdioDone_command (ho : 4 ≤ o.who) :
    exec (.mdioDone b d) s = .next (startNext b q (commandEnded b d o q (withQueue b q s))) := by
  have hq : s.net.mdio.get b [] = o :: q := hq
  change execMdioDone b d s = _
  simp only [execMdioDone, hq, if_neg (Nat.not_lt.2 ho)]
  cases q <;> rfl

theorem exec_mdioDone_poll (ho : o.who < 4) :
    exec (.mdioDone b d) s = .next (startNext b q (pollEnded o.who (decodePoll s o.who d) (withQueue b q s))) := by
  have hq : s.net.mdio.get b [] = o :: q := hq
  change execMdioDone b d s = _
  simp only [execMdioDone, hq, if_pos ho]
  cases q <;> rfl

end

theorem commandEnded_eq (b d : Nat) (o : MdioOp) (q : List MdioOp) (s : State) :
    commandEnded b d o q s = { s with regs := (commandEnded b d o q s).regs } := by
  unfold commandEnded
  split <;> rfl

theorem commandEnded_busy (b d : Nat) (o : MdioOp) (q : List MdioOp) (s : State) :
    getF (commandEnded b d o q s) (MDIO_CMD_BUSY b) = b2n (q.any (fun x => x.who == 255)) :=
  getF_putB_self (f := MDIO_CMD_BUSY b) rfl _ _

theorem commandEnded_data (b d : Nat) (o : MdioOp) (q : List MdioOp) (s : State) :
    getF (commandEnded b d o q s) (MDIO_DATA_DATA b) = if 2 ≤ o.op then d % 65536 else getF s (MDIO_DATA_DATA b) := by
  rw [commandEnded, putB, getF_putF_ne _ _ (Fld.key_ne_of_bit rfl)]
  split
  · exact getF_putF_self (MDIO_DATA_DATA b) d s
  · rfl

/-- The data that ends a poll are what the MAC's link is judged by. -/
theorem pollEnded_poll (m : Nat) (x : Option Nat) (s : State) : (macOf (pollEnded m x s) m).poll = x := by
  rw [pollEnded, (judgeLink_poll m _).2, macOf_updMac, if_pos rfl]

theorem busQueue_pollEnded (m : Nat) (x : Option Nat) (s : State) (b : Nat) : busQueue (pollEnded m x s) b = busQueue s b := by
  rw [busQueue, pollEnded, (judgeLink_poll m _).1]
  rfl

theorem busQueue_startNext (b c : Nat) (q : List MdioOp) (s : State) : busQueue (startNext b q s) c = busQueue s c := by
  rw [busQueue, startNext_net, ← busQueue]

end

/-! ### The obligation -/

/-- Settles O38: polls and commands join their bus (`busQueue_mdioQueue`), starting at once on an idle one
(`mdioQueue_out_idle`); one that ends makes way for the next (`startNext`), after a command's data and BUSY (`commandEnded`) or
the judgement of the polled link, which keeps what the poll reported (`judgeLink_poll`). -/
theorem mdioBuses : Obligations.MdioBuses := by
  refine ⟨?poll, ?command, ?commandDone, ?pollDone⟩
  case poll =>
    exact fun m s hm hi => ⟨_, exec_mdioPoll hm hi, busQueue_mdioQueue _ _ s, mdioQueue_out_busy, mdioQueue_out_idle⟩
  case command =>
    exact fun b v s hb => ⟨_, exec_mdioTransaction hb, mdioCommand_busy b v s, mdioCommand_queue b v s⟩
  case commandDone =>
    intro b d s o q hq ho
    refine ⟨_, exec_mdioDone_command hq ho, ?queue, ?busy, fun h => ?read, fun h => ?write, ?out⟩
    case queue =>
      exact (busQueue_startNext b b q _).trans (by rw [commandEnded_eq]; exact busQueue_withQueue b q s)
    case busy => rw [getF_startNext, commandEnded_busy]
    case read => rw [getF_startNext, commandEnded_data, if_pos h]
    case write =>
      rw [getF_startNext, commandEnded_data, if_neg (Nat.not_le.2 h)]
      rfl
    case out =>
      rw [commandEnded_eq]
      cases q <;> rfl
  case pollDone =>
    intro b d s o q hq ho
    refine ⟨_, exec_mdioDone_poll hq ho, ?_, ?_⟩
    · exact (busQueue_startNext b b q _).trans ((busQueue_pollEnded _ _ _ b).trans (busQueue_withQueue b q s))
    · rw [macOf, startNext_net, ← macOf, pollEnded_poll]

end Sys2Proof.Machine

/-! ## One tick of the PTP counter (R220, R221, R223, R231, R339) -/

namespace Sys2Proof

/-- A keyed list whose values, and the default, are all changed alike. -/
theorem AMap.get_map_value {α : Type} (g : α → α) (m : AMap α) (k : Nat) (d : α) :
    AMap.get (m.map fun p => (p.1, g p.2)) k (g d) = g (m.get k d) := by
  induction m with
  | nil => rfl
  | cons p m ih =>
    simp only [List.map_cons, AMap.get, ih]
    split <;> rfl

end Sys2Proof

namespace Sys2Proof.Machine

/-! ### The counter -/

theorem advance_ns_lt (p : PtpCount) (u : Nat) : (p.advance u).ns < 1000000000 := Nat.mod_lt _ (by decide)

theorem advance_frac_lt (p : PtpCount) (u : Nat) : (p.advance u).frac < 2 ^ 32 := Nat.mod_lt _ (by decide)

/-- The counter's carries add up: it advances modulo 2^48 seconds (R220). -/
theorem ptpUnits_advance (p : PtpCount) (u : Nat) :
    ptpUnits (p.advance u) = (ptpUnits p + u) % (2 ^ 48 * 1000000000 * 2 ^ 32) := by
  unfold ptpUnits PtpCount.advance
  dsimp only
  omega

/-- What one tick adds to the counter, in units of 2^-32 ns (R221, R231). -/
def tickUnits (s : State) : Nat :=
  (if flag s PTP_STAT_COARSE then 10 else 1) * (getF s PTP_INC_HI_INC_NS * 2 ^ 32 + getF s PTP_INC_LO_INC_FRAC)

theorem countTick_lost {s : State} (h : flag s PTP_STAT_TICK_LOST = true) : countTick s = s := if_pos h

theorem countTick_counts {s : State} (h : flag s PTP_STAT_TICK_LOST = false) :
    countTick s = { s with ptp := s.ptp.advance (tickUnits s) } := by
  have hu : tickUnits s = if flag s PTP_STAT_COARSE then 10 * incUnits s else incUnits s := by
    unfold tickUnits
    split
    · rfl
    · exact Nat.one_mul _
  rw [countTick, h, hu]
  rfl

theorem countTick_rest (s : State) : countTick s = { s with ptp := (countTick s).ptp } := by
  unfold countTick
  split <;> rfl

/-! ### The QSPI ports -/

/-- A port after the accesses it was busy with are done (R339). -/
def Qspi.finished (q : Qspi) : Qspi := if q.busy then { q with
  busy := false
  doneOk := !q.refused } else q

theorem Qspi.finished_busy (q : Qspi) : q.finished.busy = false := by
  unfold Qspi.finished
  split
  · rfl
  · next h => exact eq_false_of_ne_true h

theorem Qspi.finished_of_idle {q : Qspi} (h : q.busy = false) : q.finished = q := if_neg (by simp [h])

theorem qspiOf_qspiFinish (s : State) (p : Nat) : qspiOf (qspiFinish s) p = (qspiOf s p).finished :=
  AMap.get_map_value Qspi.finished s.qspi p Qspi.init

/-! ### A step on an empty queue -/

theorem step_cons {c : Instr} {rest : List Instr} {s : State} (h : s.pending = c :: rest) :
    step s = exec c { s with pending := rest } := by
  rw [step, h]

theorem step_nil {s : State} (h : s.pending = []) : step s = .next (sysTick s) := by
  rw [step, h]

theorem sysTick_ptp (s : State) : (sysTick s).ptp = (countTick s).ptp := rfl

theorem sysTick_rest (s : State) : sysTick s = { s with
    ptp := (sysTick s).ptp
    qspi := (sysTick s).qspi } := by
  rw [sysTick, countTick_rest]
  rfl

theorem qspiOf_sysTick (s : State) (p : Nat) : qspiOf (sysTick s) p = (qspiOf s p).finished := by
  rw [sysTick, qspiOf_qspiFinish, countTick_rest]
  rfl

/-- Settles O57: a command in front is carried out on the rest of the queue (`step_cons`); with none, the counter ticks
(`countTick_counts`, `ptpUnits_advance`) and busy ports are done (`qspiOf_sysTick`). -/
theorem stepTakesTheFront : Obligations.StepTakesTheFront := by
  refine ⟨fun c rest s h => step_cons h, fun c s => step_cons rfl, fun s h => ⟨_, step_nil h, sysTick_rest s, fun hl => ?lost,
    fun hl => ?counts, fun p => ?done, fun p hp => ?idle⟩⟩
  case lost => rw [sysTick_ptp, countTick_lost hl]
  case counts =>
    rw [sysTick_ptp, countTick_counts hl]
    exact ⟨advance_ns_lt _ _, advance_frac_lt _ _, ptpUnits_advance _ _⟩
  case done => rw [qspiOf_sysTick, Qspi.finished_busy]
  case idle => rw [qspiOf_sysTick, Qspi.finished_of_idle hp]

end Sys2Proof.Machine

/-! ## The clock chain settled anew (R236, R237, R239, R241, R242, R244 to R246, R249, R251, R254) -/

namespace Sys2Proof.Machine

/-- The register fields that settling the clock chain writes. -/
def clockFields : List Fld :=
  [CLK_STAT_STATE, CLK_STAT_SELECTED, CLK_STAT_SWITCHING, CLK_STAT_BLEEDING, CLK_STAT_STEER, CLK_STAT_QL_OUT, CLK_ALARM_HOLDOVER,
    CLK_ALARM_LOST, CLK_ALARM_CFG_ERR, CLK_HOLDOVER_HO_FREQ, CLK_SYN_NINT_NINT, CLK_SYN_NFRAC_NFRAC]
  ++ (List.range 8).flatMap fun r => [CLK_REF_STAT_STATE r, CLK_REF_STAT_QL_EFF r]

theorem refState_mem {r : Nat} (h : r < 8) : CLK_REF_STAT_STATE r ∈ clockFields :=
  List.mem_append_right _ (List.mem_flatMap.2 ⟨r, List.mem_range.2 h, List.mem_cons_self⟩)

theorem refQl_mem {r : Nat} (h : r < 8) : CLK_REF_STAT_QL_EFF r ∈ clockFields :=
  List.mem_append_right _ (List.mem_flatMap.2 ⟨r, List.mem_range.2 h, List.mem_cons_of_mem _ List.mem_cons_self⟩)

/-- A field that is neither of those that settling the clock chain writes nor of those that telling a seat does. -/
def besideClock (f : Fld) : Bool := !tellKey f.key && !(clockFields.map Fld.key).contains f.key

/-- From `s` to `t` nothing happens but that the clock chain, its fields and the seats' rings change. -/
structure ClockOnly (s t : State) : Prop where
  rest : t = { s with clk := t.clk, regs := t.regs, seats := t.seats, out := t.out }
  regs : ∀ f, besideClock f = true → getF t f = getF s f

section
variable {s t u : State}

theorem ClockOnly.refl (s : State) : ClockOnly s s := ⟨rfl, fun _ _ => rfl⟩

theorem ClockOnly.trans (h : ClockOnly s t) (k : ClockOnly t u) : ClockOnly s u where
  rest := by rw [k.rest, h.rest]
  regs f hf := (k.regs f hf).trans (h.regs f hf)

theorem Told.clockOnly (h : Told s t) : ClockOnly s t where
  rest := by rw [h.rest]
  regs f hf := h.getF f (by simpa using (Bool.and_eq_true_iff.1 hf).1)

theorem ClockOnly.fw (h : ClockOnly s t) : t.fw = s.fw := by rw [h.rest]

theorem ClockOnly.withClk (h : ClockOnly s t) (c : Clk) : ClockOnly s { t with clk := c } :=
  h.trans ⟨rfl, fun _ _ => rfl⟩

theorem ClockOnly.putF (h : ClockOnly s t) {f : Fld} (hf : f ∈ clockFields) (v : Nat) : ClockOnly s (putF f v t) :=
  h.trans ⟨rfl, fun g hg => getF_putF_ne v t fun e => by
    have : f.key ∈ clockFields.map Fld.key := List.mem_map_of_mem hf
    simp [besideClock, e, this] at hg⟩

theorem ClockOnly.putFs (h : ClockOnly s t) {l : List (Fld × Nat)} (hl : ∀ p ∈ l, p.1 ∈ clockFields) : ClockOnly s (putFs l t) := by
  induction l generalizing t with
  | nil => exact h
  | cons p l ih => exact ih (h.putF (hl p List.mem_cons_self) p.2) fun q hq => hl q (List.mem_cons_of_mem p hq)

theorem ClockOnly.foldl {α : Type} {l : List α} {g : State → α → State} (h : ∀ x ∈ l, ∀ t, ClockOnly t (g t x)) (s : State) :
    ClockOnly s (l.foldl g s) := by
  induction l generalizing s with
  | nil => exact .refl s
  | cons x l ih => exact (h x List.mem_cons_self s).trans (ih (fun y hy => h y (List.mem_cons_of_mem x hy)) (g s x))

theorem clkEvent_clockOnly (r : Nat) (s : State) : ClockOnly s (clkEvent r s) := ((Told.refl s).raiseAll _ _).clockOnly

theorem ratioFields_mem (a b : Nat) : ∀ p ∈ [(CLK_SYN_NINT_NINT, a), (CLK_SYN_NFRAC_NFRAC, b)], p.1 ∈ clockFields := by
  simp [clockFields]

theorem setRatioRegs_clockOnly (s : State) : ClockOnly s (setRatioRegs s) := by
  unfold setRatioRegs
  extract_lets nom num n
  split
  · exact (ClockOnly.refl s).putFs (ratioFields_mem _ _)
  · exact (ClockOnly.refl s).putFs (ratioFields_mem _ _)

theorem setFreq_clockOnly (f : Int) (s : State) : ClockOnly s (setFreq f s) :=
  ((ClockOnly.refl s).withClk _).trans (setRatioRegs_clockOnly _)

theorem setRef_clockOnly {r : Nat} (hr : r < 8) (st : Nat) (s : State) : ClockOnly s (setRef r st s) := by
  unfold setRef
  split
  · exact .refl s
  · exact ((ClockOnly.refl s).putF (refState_mem hr) st).trans (clkEvent_clockOnly r _)

/-- What entering a state of the DPLL does beside showing it (R249, R251). -/
def dpllEntered (st : Nat) (s : State) : State :=
  match st with
  | 3 => setFreq (holdMean s) (putFs [(CLK_HOLDOVER_HO_FREQ, ofS 32 (holdMean s)), (CLK_ALARM_HOLDOVER, 1), (CLK_STAT_STEER, 0)] s)
  | 4 => putF CLK_ALARM_LOST 1 s
  | 0 => setFreq 0 s
  | 2 => { s with clk := { s.clk with ever := true } }
  | _ => s

theorem setDpll_of_ne {st : Nat} (h : getF s CLK_STAT_STATE ≠ st) (e : State) (he : e = dpllEntered st (putF CLK_STAT_STATE st s)) :
    setDpll st s = clkEvent (getF s CLK_STAT_SELECTED) (putF CLK_STAT_QL_OUT (qlOut e) e) := by
  subst he
  exact if_neg h

theorem dpllEntered_clockOnly (st : Nat) (s : State) : ClockOnly s (dpllEntered st s) := by
  unfold dpllEntered
  split
  · exact ((ClockOnly.refl s).putFs (by simp [clockFields])).trans (setFreq_clockOnly _ _)
  · exact (ClockOnly.refl s).putF (by simp [clockFields]) 1
  · exact setFreq_clockOnly 0 s
  · exact (ClockOnly.refl s).withClk _
  · exact .refl s

theorem setDpll_clockOnly (st : Nat) (s : State) : ClockOnly s (setDpll st s) := by
  by_cases h : getF s CLK_STAT_STATE = st
  · rw [setDpll, if_pos h]
    exact .refl s
  · rw [setDpll_of_ne h _ rfl]
    have hs : ClockOnly s (putF CLK_STAT_STATE st s) := (ClockOnly.refl s).putF (by simp [clockFields]) st
    exact ((hs.trans (dpllEntered_clockOnly st _)).putF (by simp [clockFields]) _).trans (clkEvent_clockOnly _ _)

theorem loseRefs_clockOnly (s : State) : ClockOnly s (loseRefs s) := by
  unfold loseRefs
  extract_lets st
  split
  · exact setDpll_clockOnly _ s
  · exact .refl s

theorem commitSwitch_clockOnly (r : Nat) (s : State) : ClockOnly s (commitSwitch r s) :=
  (((ClockOnly.refl s).withClk _).putFs (by simp [clockFields])).trans (setDpll_clockOnly _ _)

/-- A selection leaves things as they are, sets the DPLL's state, gives the references up or switches to one (R244, R246). -/
theorem selectRef_cases (s : State) : selectRef s = s ∨ selectRef s = setDpll 0 s ∨ selectRef s = loseRefs s
    ∨ ∃ r, selectRef s = commitSwitch r s := by
  unfold selectRef
  split
  · exact .inl rfl
  · split
    · exact .inr (.inl rfl)
    · exact .inr (.inr (.inl rfl))
    · dsimp only
      split
      · split
        · exact .inl rfl
        · exact .inr (.inr (.inr ⟨_, rfl⟩))
      · exact .inr (.inr (.inl rfl))
    · split
      · exact .inr (.inr (.inl rfl))
      · dsimp only
        split
        · split
          · exact .inr (.inr (.inr ⟨_, rfl⟩))
          · exact .inl rfl
        · exact .inr (.inr (.inr ⟨_, rfl⟩))

theorem selectRef_clockOnly (s : State) : ClockOnly s (selectRef s) := by
  obtain h | h | h | ⟨r, h⟩ := selectRef_cases s <;> rw [h]
  · exact .refl s
  · exact setDpll_clockOnly 0 s
  · exact loseRefs_clockOnly s
  · exact commitSwitch_clockOnly r s

theorem refreshClk_clockOnly (s : State) : ClockOnly s (refreshClk s) := by
  unfold refreshClk
  extract_lets s1 s2
  have h1 : ClockOnly s s1 := by
    refine ClockOnly.foldl (fun r hr t => ?_) s
    have hr : r < 8 := List.mem_range.1 hr
    have hq := (ClockOnly.refl t).putF (refQl_mem hr) (refQl t r)
    dsimp only
    split
    · exact hq.trans (setRef_clockOnly hr 0 _)
    · split
      · exact (hq.putF (by simp [clockFields]) 1).trans (setRef_clockOnly hr 0 _)
      · split
        · exact hq.trans (setRef_clockOnly hr 1 _)
        · exact hq
  exact (h1.trans (selectRef_clockOnly s1)).putF (by simp [clockFields]) _

end

end Sys2Proof.Machine

/-! ## The PTP time counter set and read (R220 to R224, R228, R230) -/

namespace Sys2Proof.Machine

/-! ### What re-evaluating the event outputs leaves alone (R225, R228) -/

/-- From `s` to `t` nothing happens but that registers, event outputs and what left the block change. -/
structure PulsesOnly (s t : State) : Prop where
  rest : t = { s with regs := t.regs, ptpIo := t.ptpIo, out := t.out }

section
variable {s t u : State}

theorem PulsesOnly.refl (s : State) : PulsesOnly s s := ⟨rfl⟩

theorem PulsesOnly.trans (h : PulsesOnly s t) (k : PulsesOnly t u) : PulsesOnly s u where
  rest := by rw [k.rest, h.rest]

theorem PulsesOnly.ptp (h : PulsesOnly s t) : t.ptp = s.ptp := by rw [h.rest]
theorem PulsesOnly.clk (h : PulsesOnly s t) : t.clk = s.clk := by rw [h.rest]
theorem PulsesOnly.fab (h : PulsesOnly s t) : t.fab = s.fab := by rw [h.rest]
theorem PulsesOnly.fw (h : PulsesOnly s t) : t.fw = s.fw := by rw [h.rest]

theorem armPulse_pulsesOnly (o : Nat) (p : Nat × Nat × Nat × Bool) (s : State) : PulsesOnly s (armPulse o p s) := by
  unfold armPulse
  extract_lets d k late
  rw [setIf_regs]
  exact ⟨rfl⟩

theorem pulseRise_pulsesOnly (o : Nat) (s : State) : PulsesOnly s (pulseRise o s) := by
  unfold pulseRise
  extract_lets t hold
  split
  · exact ⟨rfl⟩
  · exact ⟨rfl⟩

theorem pulseDown_pulsesOnly (o : Nat) (s : State) : PulsesOnly s (pulseDown o s) := by
  unfold pulseDown
  extract_lets t s1
  have h1 : PulsesOnly s s1 := ⟨rfl⟩
  split
  · exact ⟨rfl⟩
  · split
    · exact h1.trans (armPulse_pulsesOnly o _ s1)
    · exact h1

theorem stepPulse_pulsesOnly (o : Nat) (s : State) : PulsesOnly s (stepPulse o s) := by
  unfold stepPulse
  extract_lets l s1 t d k k'
  have h1 : PulsesOnly s s1 := by
    dsimp only [s1]
    split
    · split
      · exact pulseDown_pulsesOnly o s
      · exact .refl s
    · exact .refl s
  split
  · exact h1
  · split
    · split
      · exact (h1.trans ⟨rfl⟩).trans (pulseRise_pulsesOnly o _)
      · exact h1
    · split
      · exact h1.trans ⟨rfl⟩
      · exact h1.trans ⟨rfl⟩

theorem stepPulses_pulsesOnly (s : State) : PulsesOnly s (stepPulses s) := by
  unfold stepPulses
  generalize List.range 8 = l
  induction l generalizing s with
  | nil => exact .refl s
  | cons o l ih => exact (stepPulse_pulsesOnly o s).trans (ih _)

end

/-! ### The increment (R221) -/

section
variable {hi v : Nat} {s : State}
  (hv : v = hi % 256 * 2 ^ 32 + s.stage.get PTP_INC_LO_INC_FRAC.addr (getF s PTP_INC_LO_INC_FRAC))
include hv

theorem writeInc_committed (hlo : 0x03E6666666 ≤ v) (hhi : v ≤ 0x041999999A) :
    writeInc hi s = putFs [(PTP_INC_HI_INC_NS, v / 2 ^ 32), (PTP_INC_LO_INC_FRAC, v % 2 ^ 32)] s := by
  subst hv
  exact if_pos ⟨hlo, hhi⟩

theorem writeInc_rejected (h : v < 0x03E6666666 ∨ 0x041999999A < v) : writeInc hi s = putF PTP_STAT_INC_REJ 1 s := by
  subst hv
  exact if_neg (by omega)

end

/-! ### Reads that capture (R222, R224, R230) -/

theorem lin_eq (s : State) : lin s = (s.ptp.sec * 1000000000 + s.ptp.ns + s.ptp.frac / 2 ^ 32) % 2 ^ 48 := by
  unfold lin linOf ptpUnits
  omega

/-- What left the block does not show in the registers. -/
theorem OnlyFields.emit {s t : State} {l : List (Fld × Nat)} (h : OnlyFields s t l) (k : OutKind) (d : List Nat) :
    OnlyFields s { emit k d t with out := s.out } l where
  rest := by
    conv =>
      lhs
      rw [h.rest]
    rfl
  written := h.written
  others := h.others

theorem captureTime_onlyFields (s : State) : OnlyFields s (captureTime s)
    [(PTP_TIME_NS_NS, s.ptp.ns), (PTP_TIME_FRAC_FRAC, s.ptp.frac), (PTP_TIME_SEC_LO_SEC, s.ptp.sec),
      (PTP_TIME_SEC_HI_SEC, s.ptp.sec / 2 ^ 32), (PTP_LIN_LO_LIN, lin s), (PTP_LIN_HI_LIN, lin s / 2 ^ 32)] :=
  .putFs (show [PTP_TIME_NS_NS.key, PTP_TIME_FRAC_FRAC.key, PTP_TIME_SEC_LO_SEC.key, PTP_TIME_SEC_HI_SEC.key, PTP_LIN_LO_LIN.key,
    PTP_LIN_HI_LIN.key].Nodup by decide)

theorem captureStamp_onlyFields (s : State) : OnlyFields s (captureStamp s)
    [(PTP_CSTAMP_CI_CI, s.ptpIo.stamp.2.2), (PTP_CSTAMP_LIN_LO_LIN, s.ptpIo.stamp.1),
      (PTP_CSTAMP_LIN_HI_LIN, s.ptpIo.stamp.1 / 2 ^ 32), (PTP_CSTAMP_LIN_HI_SUBNS, s.ptpIo.stamp.2.1)] :=
  .putFs (show [PTP_CSTAMP_CI_CI.key, PTP_CSTAMP_LIN_LO_LIN.key, PTP_CSTAMP_LIN_HI_LIN.key, PTP_CSTAMP_LIN_HI_SUBNS.key].Nodup
    by decide)

theorem captureTime_out (s : State) : (captureTime s).out = s.out := putFs_out _ s

theorem captureStamp_out (s : State) : (captureStamp s).out = s.out := putFs_out _ s

/-! ### SET and STEP (R223) -/

section
variable {s : State} {neg : Bool} {n : Int}

theorem ptpSet_loads (h : getF s PTP_ADJ_NS_NS < 1000000000) :
    ptpSet s = stepPulses { s with ptp := ⟨stagedSec s, getF s PTP_ADJ_NS_NS, 0⟩ } := if_neg (Nat.not_le.2 h)

theorem ptpSet_rejected (h : 1000000000 ≤ getF s PTP_ADJ_NS_NS) : ptpSet s = putF PTP_STAT_ADJ_REJ 1 s := if_pos h

/-- The nanoseconds that STEP leads to. -/
def steppedNs (neg : Bool) (s : State) : Int :=
  s.ptp.sec * 1000000000 + s.ptp.ns + (if neg then -1 else 1) * (stagedSec s * 1000000000 + getF s PTP_ADJ_NS_NS : Int)

/-- STEP in terms of the nanoseconds that it leads to. -/
theorem ptpStep_eq (neg : Bool) (s : State) : ptpStep neg s =
    if 1000000000 ≤ getF s PTP_ADJ_NS_NS ∨ steppedNs neg s < 0 ∨ 2 ^ 48 * 1000000000 ≤ steppedNs neg s then putF PTP_STAT_ADJ_REJ 1 s
    else stepPulses { s with
      ptp := ⟨(steppedNs neg s).toNat / 1000000000, (steppedNs neg s).toNat % 1000000000, s.ptp.frac⟩ } := by
  have hn : steppedNs neg s = ((s.ptp.sec * 1000000000 + s.ptp.ns : Nat) : Int)
      + (if neg then -((stagedSec s * 1000000000 + getF s PTP_ADJ_NS_NS : Nat) : Int)
        else ((stagedSec s * 1000000000 + getF s PTP_ADJ_NS_NS : Nat) : Int)) := by
    unfold steppedNs
    cases neg
    · simp only [Bool.false_eq_true, if_false]
      omega
    · simp only [if_true]
      omega
  rw [hn]
  rfl

theorem ptpStep_rejected (h : 1000000000 ≤ getF s PTP_ADJ_NS_NS ∨ steppedNs neg s < 0 ∨ 2 ^ 48 * 1000000000 ≤ steppedNs neg s) :
    ptpStep neg s = putF PTP_STAT_ADJ_REJ 1 s := by
  rw [ptpStep_eq, if_pos h]

theorem ptpStep_moves (hns : getF s PTP_ADJ_NS_NS < 1000000000) (h0 : 0 ≤ steppedNs neg s)
    (h : steppedNs neg s < 2 ^ 48 * 1000000000) : ptpStep neg s = stepPulses { s with
      ptp := ⟨(steppedNs neg s).toNat / 1000000000, (steppedNs neg s).toNat % 1000000000, s.ptp.frac⟩ } := by
  rw [ptpStep_eq, if_neg (by omega)]

theorem ptpStep_pulsesOnly (neg : Bool) (s : State) : ∃ p, PulsesOnly { s with ptp := p } (ptpStep neg s) := by
  rw [ptpStep_eq]
  split
  · exact ⟨s.ptp, ⟨rfl⟩⟩
  · exact ⟨_, stepPulses_pulsesOnly _⟩

theorem ptpStep_effect (hns : getF s PTP_ADJ_NS_NS < 1000000000) (h0 : 0 ≤ steppedNs neg s)
    (h : steppedNs neg s < 2 ^ 48 * 1000000000) : ∃ t, exec (.ptpStep neg) s = .next t
      ∧ (t.ptp.sec * 1000000000 + t.ptp.ns : Int) = steppedNs neg s ∧ t.ptp.ns < 1000000000 ∧ t.ptp.frac = s.ptp.frac
      ∧ t.clk = s.clk ∧ t.fab = s.fab := by
  refine ⟨_, congrArg Host.Outcome.next (ptpStep_moves hns h0 h), ?_⟩
  have hp := stepPulses_pulsesOnly { s with
    ptp := ⟨(steppedNs neg s).toNat / 1000000000, (steppedNs neg s).toNat % 1000000000, s.ptp.frac⟩ }
  rw [hp.ptp, hp.clk, hp.fab]
  refine ⟨?_, Nat.mod_lt _ (by decide), rfl, rfl, rfl⟩
  dsimp only
  omega

end

/-! ### The system PLL (R221) -/

/-- ALERT as the PTP tick and the other causes leave it (R221, R355). -/
theorem tickLost_onlyFields (lost : Nat) (s : State) : OnlyFields s (setAlert (putF PTP_STAT_TICK_LOST lost s))
    [(PTP_STAT_TICK_LOST, lost), (LIFE_STATUS_ALERT, b2n (getF s LIFE_FAULT_BOOT != 0 || flag s LIFE_FAULT_PLL
      || flag s LIFE_FAULT_SUPPLY || flag s LIFE_FAULT_THERMAL || lost % 2 != 0))] := by
  have h : getF (putF PTP_STAT_TICK_LOST lost s) PTP_STAT_TICK_LOST = lost % 2 := getF_putF_self PTP_STAT_TICK_LOST lost s
  unfold setAlert putB
  simp only [flag, h, getF_putF_ne (g := PTP_STAT_TICK_LOST) lost s (f := LIFE_FAULT_BOOT) (by decide),
    getF_putF_ne (g := PTP_STAT_TICK_LOST) lost s (f := LIFE_FAULT_PLL) (by decide),
    getF_putF_ne (g := PTP_STAT_TICK_LOST) lost s (f := LIFE_FAULT_SUPPLY) (by decide),
    getF_putF_ne (g := PTP_STAT_TICK_LOST) lost s (f := LIFE_FAULT_THERMAL) (by decide)]
  exact .putF_then s _ _ (by decide)

/-! ### The obligation -/

/-- Settles O39: the two outcomes of an increment (`writeInc_committed`, `writeInc_rejected`), the captured views
(`captureTime_onlyFields`, `captureStamp_onlyFields`), SET and STEP, after which only the event outputs are re-evaluated
(`stepPulses_pulsesOnly`), and the lost tick (`tickLost_onlyFields`). -/
theorem ptpCounter : Obligations.PtpCounter := by
  refine ⟨fun hi s v hv => ⟨fun hlo hhi => ?committed, fun h => ?rejected⟩, fun s => ?time, lin_eq, fun s => ?stamp,
    fun s h => ?set, fun s h => ?setRejected, fun neg s n hn => ⟨fun hns h0 h => ?step, fun h => ?stepRejected⟩,
    fun s => ?lost, fun s => ?relocked⟩
  case committed =>
    refine ⟨_, congrArg Host.Outcome.next (writeInc_committed hv hlo hhi), .putFs ?_⟩
    exact (show [PTP_INC_HI_INC_NS.key, PTP_INC_LO_INC_FRAC.key].Nodup by decide)
  case rejected => exact ⟨_, congrArg Host.Outcome.next (writeInc_rejected hv h), .putF s _ 1⟩
  case time => exact ⟨_, rfl, congrArg _ (captureTime_out s), (captureTime_onlyFields s).emit _ _⟩
  case stamp => exact ⟨_, rfl, congrArg _ (captureStamp_out s), (captureStamp_onlyFields s).emit _ _⟩
  case set =>
    have hp := stepPulses_pulsesOnly { s with ptp := ⟨stagedSec s, getF s PTP_ADJ_NS_NS, 0⟩ }
    exact ⟨_, congrArg Host.Outcome.next (ptpSet_loads h), hp.ptp, hp.clk, hp.fab⟩
  case setRejected => exact ⟨_, congrArg Host.Outcome.next (ptpSet_rejected h), .putF s _ 1⟩
  case step =>
    subst hn
    exact ptpStep_effect hns h0 h
  case stepRejected =>
    subst hn
    exact ⟨_, congrArg Host.Outcome.next (ptpStep_rejected h), .putF s _ 1⟩
  case lost =>
    have hl := tickLost_onlyFields 1 s
    refine ⟨_, rfl, by simpa [b2n] using hl, countTick_lost ?_⟩
    rw [flag, hl.written (PTP_STAT_TICK_LOST, 1) List.mem_cons_self]
    rfl
  case relocked => exact ⟨_, rfl, by simpa using tickLost_onlyFields 0 s⟩

end Sys2Proof.Machine

/-! ## Event outputs, capture inputs and the PTP port (R224, R225, R228, R229, R232, R237) -/

namespace Sys2Proof.Machine

@[simp] theorem pulseOf_putFs (l : List (Fld × Nat)) (s : State) (o : Nat) : pulseOf (putFs l s) o = pulseOf s o := by
  rw [pulseOf, putFs_ptpIo, ← pulseOf]

@[simp] theorem pulseOf_setIf (f : Fld) (b : Bool) (s : State) (o : Nat) : pulseOf (setIf f b s) o = pulseOf s o := by
  rw [setIf_regs]
  rfl

@[simp] theorem lin_putFs (l : List (Fld × Nat)) (s : State) : lin (putFs l s) = lin s := by
  rw [lin, putFs_ptp, ← lin]

theorem pulseOf_updPulse_self (o : Nat) (f : Pulse → Pulse) (s : State) : pulseOf (updPulse o f s) o = f (pulseOf s o) := by
  rw [pulseOf_updPulse, if_pos rfl]

/-! ### Settings put into force (R228) -/

/-- The periods between START and the first edge, by the distance of START from LIN. -/
def gridSteps (p : Nat) (d : Int) : Nat := if p = 0 ∨ 0 ≤ d then 0 else ((-d).toNat + p - 1) / p

theorem gridSteps_of_ahead (p : Nat) {d : Int} (h : 0 ≤ d) : gridSteps p d = 0 := if_pos (.inr h)

/-- The first edge is the first grid point that has not passed. -/
theorem gridSteps_bounds {p : Nat} (hp : 0 < p) (d : Int) : -d ≤ gridSteps p d * p ∧ (gridSteps p d : Int) * p < max 0 (-d) + p := by
  by_cases h : 0 ≤ d
  · rw [gridSteps_of_ahead p h]
    omega
  · rw [gridSteps, if_neg (by omega)]
    have hn : ((-d).toNat : Int) = -d := Int.toNat_of_nonneg (by omega)
    have hlo := Nat.div_mul_le_self ((-d).toNat + p - 1) p
    have hhi := Nat.lt_div_mul_add (a := (-d).toNat + p - 1) hp
    rw [← Int.natCast_mul]
    omega

/-- Whether settings come too late: those of a one-shot that has passed. -/
def pulseLate (p : Nat × Nat × Nat × Bool) (s : State) : Bool := decide (p.2.1 = 0) && decide (linDist p.1 (lin s) < 0)

/-- An output with settings in force. -/
def Pulse.withSettings (t : Pulse) (p : Nat × Nat × Nat × Bool) (k : Nat) (late : Bool) : Pulse := { t with
  armed := !late
  start := p.1
  period := p.2.1
  width := p.2.2.1
  pol := p.2.2.2
  next := (p.1 + k * p.2.1) % 281474976710656
  idx := k
  waiting := none
  stopping := false }

theorem armPulse_eq (o : Nat) (p : Nat × Nat × Nat × Bool) (s : State) : armPulse o p s = setIf (PTPO_CTL_LATE o) (pulseLate p s)
    (updPulse o (fun t => t.withSettings p (gridSteps p.2.1 (linDist p.1 (lin s))) (pulseLate p s)) s) := rfl

theorem pulseOf_armPulse (o : Nat) (p : Nat × Nat × Nat × Bool) (s : State) : pulseOf (armPulse o p s) o
    = (pulseOf s o).withSettings p (gridSteps p.2.1 (linDist p.1 (lin s))) (pulseLate p s) := by
  rw [armPulse_eq, pulseOf_setIf, pulseOf_updPulse_self]

theorem getF_armPulse {o : Nat} {f : Fld} (p : Nat × Nat × Nat × Bool) (s : State) (h : f.key ≠ (PTPO_CTL_LATE o).key) :
    getF (armPulse o p s) f = getF s f := by
  rw [armPulse_eq, getF_setIf_ne _ _ h]
  rfl

theorem getF_armPulse_late {o : Nat} {p : Nat × Nat × Nat × Bool} {s : State} (h : pulseLate p s = true) :
    getF (armPulse o p s) (PTPO_CTL_LATE o) = 1 := by
  rw [armPulse_eq, h]
  exact getF_putF_self (PTPO_CTL_LATE o) 1 _

/-! ### The control register (R228) -/

/-- The bits that a write of PTPO_CTL sets. -/
def pulseFields (o : Nat) (arm pol gate : Bool) : List (Fld × Nat) :=
  [(PTPO_CTL_ARM o, b2n arm), (PTPO_CTL_POL o, b2n pol), (PTPO_CTL_CLAIM_GATE o, b2n gate)]

theorem pulseFields_onlyFields (o : Nat) (arm pol gate : Bool) (s : State) :
    OnlyFields s (putFs (pulseFields o arm pol gate) s) (pulseFields o arm pol gate) := by
  refine .putFs ?_
  simp [pulseFields, Fld.key, PTPO_CTL_ARM, PTPO_CTL_POL, PTPO_CTL_CLAIM_GATE]

theorem getF_pulseFields_arm (o : Nat) (arm pol gate : Bool) (s : State) :
    getF (putFs (pulseFields o arm pol gate) s) (PTPO_CTL_ARM o) = b2n arm := by
  rw [(pulseFields_onlyFields o arm pol gate s).written (PTPO_CTL_ARM o, b2n arm) List.mem_cons_self]
  cases arm <;> rfl

/-- The settings that the registers of an output hold. -/
def pulseSettings (o : Nat) (pol : Bool) (s : State) : Nat × Nat × Nat × Bool :=
  (getF s (PTPO_START_LO_START o) + 2 ^ 32 * getF s (PTPO_START_HI_START o), getF s (PTPO_PERIOD_PERIOD o),
    getF s (PTPO_WIDTH_WIDTH o), pol)

/-- An output that a write of PTPO_CTL stops. -/
def Pulse.disarmed (t : Pulse) : Pulse := { t with
  armed := false
  waiting := none }

section
variable {o : Nat} {s : State} {pol gate : Bool}

section
variable (ho : o < 8) (hf : (pulseOf s o).fall = none)
include ho hf

theorem exec_pulseArm_idle : exec (.pulseArm o true pol gate) s
    = .next (armPulse o (pulseSettings o pol s) (putFs (pulseFields o true pol gate) s)) := by
  change execPulseArm o true pol gate s = _
  rw [execPulseArm, if_pos ho, pulseControl, hf]
  rfl

theorem exec_pulseArm_disarm : exec (.pulseArm o false pol gate) s
    = .next (showPulse o false (updPulse o Pulse.disarmed (putFs (pulseFields o false pol gate) s))) := by
  change execPulseArm o false pol gate s = _
  rw [execPulseArm, if_pos ho, pulseControl, hf]
  rfl

theorem pulseArm_periodic {p w : Nat} (hp : p = getF s (PTPO_PERIOD_PERIOD o))
    (hw : w = getF s (PTPO_START_LO_START o) + 2 ^ 32 * getF s (PTPO_START_HI_START o)) (h : 0 < p) :
    ∃ t k, exec (.pulseArm o true pol gate) s = .next t ∧ getF t (PTPO_CTL_ARM o) = 1 ∧ (pulseOf t o).armed = true
      ∧ (pulseOf t o).start = w ∧ (pulseOf t o).period = p ∧ (pulseOf t o).next = (w + k * p) % 2 ^ 48 ∧ (pulseOf t o).idx = k
      ∧ -linDist w (lin s) ≤ k * p ∧ (0 ≤ linDist w (lin s) → k = 0) ∧ (k : Int) * p < max 0 (-linDist w (lin s)) + p := by
  subst hp hw
  obtain ⟨hlo, hhi⟩ := gridSteps_bounds h (linDist (pulseSettings o pol s).1 (lin s))
  have hlate : pulseLate (pulseSettings o pol s) (putFs (pulseFields o true pol gate) s) = false := by
    have hz : ¬ (pulseSettings o pol s).2.1 = 0 := Nat.pos_iff_ne_zero.1 h
    rw [pulseLate, decide_eq_false hz, Bool.false_and]
  refine ⟨_, _, exec_pulseArm_idle ho hf, ?_, ?_, ?_, ?_, ?_, ?_, hlo, fun hd => gridSteps_of_ahead _ hd, hhi⟩
  · rw [getF_armPulse _ _ (Fld.key_ne_of_bit rfl), getF_pulseFields_arm]
    rfl
  all_goals
    rw [pulseOf_armPulse, hlate, lin_putFs]
    rfl

theorem pulseArm_late {p w : Nat} (hp : p = getF s (PTPO_PERIOD_PERIOD o))
    (hw : w = getF s (PTPO_START_LO_START o) + 2 ^ 32 * getF s (PTPO_START_HI_START o)) (h : p = 0) (hd : linDist w (lin s) < 0) :
    ∃ t, exec (.pulseArm o true pol gate) s = .next t ∧ (pulseOf t o).armed = false ∧ getF t (PTPO_CTL_LATE o) = 1 := by
  subst hp hw
  have hlate : pulseLate (pulseSettings o pol s) (putFs (pulseFields o true pol gate) s) = true := by
    rw [pulseLate, lin_putFs]
    exact Bool.and_eq_true_iff.2 ⟨decide_eq_true h, decide_eq_true hd⟩
  refine ⟨_, exec_pulseArm_idle ho hf, ?_, getF_armPulse_late hlate⟩
  rw [pulseOf_armPulse, hlate]
  rfl

theorem pulseArm_disarm : ∃ t, exec (.pulseArm o false pol gate) s = .next t ∧ (pulseOf t o).armed = false
    ∧ getF t (PTPO_CTL_ARM o) = 0 ∧ t.out.length = s.out.length + 1 := by
  refine ⟨_, exec_pulseArm_disarm ho hf, ?_, getF_pulseFields_arm o false pol gate s, ?_⟩
  · exact congrArg Pulse.armed (pulseOf_updPulse_self o Pulse.disarmed _)
  · exact congrArg (·.length + 1) (putFs_out _ s)

end

/-! ### Edges and falls (R224, R228) -/

/-- What shows on the ball of an output that changes and keeps its polarity. -/
theorem showPulse_out (active : Bool) {f : Pulse → Pulse} (h : (f (pulseOf s o)).pol = (pulseOf s o).pol) :
    (showPulse o active (updPulse o f s)).out
      = ⟨.pulse, [o, if flag s (PTPO_CTL_CLAIM_GATE o) && !(s.pair.drivers && flag s PAIR_STAT_CLAIM) then 2
          else b2n (active != (pulseOf s o).pol)]⟩ :: s.out := by
  rw [← h, ← pulseOf_updPulse_self o f s]
  rfl

/-- An output after its edge. -/
def Pulse.risen (t : Pulse) : Pulse := { t with
  armed := t.period != 0
  fall := if 0 < t.period ∧ t.period ≤ t.width then t.fall else some ((t.next + t.width) % 281474976710656)
  next := (t.next + t.period) % 281474976710656
  idx := t.idx + 1 }

theorem pulseRise_eq (h : 0 < (pulseOf s o).width) : pulseRise o s = showPulse o true (updPulse o Pulse.risen s) :=
  if_neg (Nat.pos_iff_ne_zero.1 h)

theorem pulseEdge_effect (ho : o < 8) (ha : (pulseOf s o).armed = true) (hs : (pulseOf s o).stopping = false)
    (hc : flag s PTP_STAT_COARSE = false) (hd : linDist (pulseOf s o).next (lin s) ≤ 0) (hw : 0 < (pulseOf s o).width) :
    ∃ t, exec (.pulseEdge o) s = .next t
      ∧ (pulseOf t o).next = ((pulseOf s o).next + (pulseOf s o).period) % 2 ^ 48 ∧ (pulseOf t o).idx = (pulseOf s o).idx + 1
      ∧ t.out = ⟨.pulse, [o, if flag s (PTPO_CTL_CLAIM_GATE o) && !(s.pair.drivers && flag s PAIR_STAT_CLAIM) then 2
          else b2n (!(pulseOf s o).pol)]⟩ :: s.out := by
  have he : exec (.pulseEdge o) s = .next (pulseRise o s) := if_pos (by simp [ho, ha, hs, hc, hd])
  have hp : pulseOf (showPulse o true (updPulse o Pulse.risen s)) o = (pulseOf s o).risen := pulseOf_updPulse_self o _ s
  rw [pulseRise_eq hw] at he
  refine ⟨_, he, by rw [hp]; rfl, by rw [hp]; rfl, ?_⟩
  rw [showPulse_out true (f := Pulse.risen) rfl, Bool.true_bne]

/-- An output without a pulse in progress. -/
def Pulse.fallen (t : Pulse) : Pulse := { t with fall := none }

/-- At the end of a pulse the other level shows, and a stop that waited for it takes hold. -/
theorem pulseDown_eq (h : (pulseOf s o).waiting = none) : pulseDown o s = if (pulseOf s o).stopping then
      updPulse o (fun t => { t with
        armed := false
        stopping := false }) (showPulse o false (updPulse o Pulse.fallen s))
    else showPulse o false (updPulse o Pulse.fallen s) := by
  rw [pulseDown, h]
  rfl

theorem pulseFall_effect {e : Nat} (ho : o < 8) (hf : (pulseOf s o).fall = some e) (hd : linDist e (lin s) ≤ 0)
    (hw : (pulseOf s o).waiting = none) : ∃ t, exec (.pulseFall o) s = .next t ∧ (pulseOf t o).fall = none
      ∧ t.out = ⟨.pulse, [o, if flag s (PTPO_CTL_CLAIM_GATE o) && !(s.pair.drivers && flag s PAIR_STAT_CLAIM) then 2
          else b2n (pulseOf s o).pol]⟩ :: s.out := by
  have he : exec (.pulseFall o) s = .next (pulseDown o s) := by
    change execPulseFall o s = _
    rw [execPulseFall, hf]
    exact if_pos (by simp [ho, hd])
  have hp : (pulseOf (showPulse o false (updPulse o Pulse.fallen s)) o).fall = none :=
    congrArg Pulse.fall (pulseOf_updPulse_self o _ s)
  have hout := showPulse_out (o := o) (s := s) false (f := Pulse.fallen) rfl
  rw [Bool.false_bne] at hout
  refine ⟨_, he, ?_, ?_⟩
  · rw [pulseDown_eq hw]
    split
    · rw [pulseOf_updPulse_self]
      exact hp
    · exact hp
  · rw [pulseDown_eq hw]
    split
    · exact hout
    · exact hout

end

/-! ### Capture inputs (R229) -/

section
variable {i : Nat} {s : State} {rise : Bool}

/-- What the registers of a capture input show of its FIFO. -/
def captureFields (i : Nat) (q : List Capture) : List (Fld × Nat) :=
  [(PTPI_STAT_COUNT i, q.length), (PTPI_FIFO_LO_LIN i, (q.headD ⟨0, false⟩).lin),
    (PTPI_FIFO_HI_LIN i, (q.headD ⟨0, false⟩).lin / 2 ^ 32), (PTPI_FIFO_HI_RISE i, b2n (q.headD ⟨0, false⟩).rise)]

/-- A state whose capture input `i` holds a FIFO. -/
def withCaptures (i : Nat) (q : List Capture) (s : State) : State := { s with ptpIo := { s.ptpIo with cap := s.ptpIo.cap.put i q } }

theorem putCaptures_eq (i : Nat) (q : List Capture) (s : State) :
    putCaptures i q s = putFs (captureFields i q) (withCaptures i q s) := rfl

theorem captures_putCaptures (i : Nat) (q : List Capture) (s : State) : captures (putCaptures i q s) i = q := by
  rw [putCaptures_eq, captures, putFs_ptpIo]
  exact AMap.get_put_self _ _ _ _

theorem putCaptures_out (i : Nat) (q : List Capture) (s : State) : (putCaptures i q s).out = s.out := putFs_out _ _

theorem captureFields_onlyFields (i : Nat) (q : List Capture) (s : State) :
    OnlyFields s (putFs (captureFields i q) s) (captureFields i q) := by
  refine .putFs ?_
  simp only [captureFields, List.map_cons, List.map_nil, List.nodup_cons, List.mem_cons, List.not_mem_nil, List.nodup_nil,
    or_false, and_true, not_false_eq_true, Fld.key, PTPI_STAT_COUNT, PTPI_FIFO_LO_LIN, PTPI_FIFO_HI_LIN, PTPI_FIFO_HI_RISE]
  omega

/-- COUNT has room for the 16 entries of a full FIFO. -/
theorem getF_putCaptures_count {q : List Capture} (h : q.length ≤ 16) (s : State) :
    getF (putCaptures i q s) (PTPI_STAT_COUNT i) = q.length := by
  rw [putCaptures_eq, (captureFields_onlyFields i q _).written (PTPI_STAT_COUNT i, q.length) List.mem_cons_self]
  exact Nat.mod_eq_of_lt (Nat.lt_of_le_of_lt h (show 16 < 2 ^ 5 by decide))

section
variable (hi : i < 8) (hen : flag s (PTPI_CTL_EN i) = true) (hc : flag s PTP_STAT_COARSE = false)
  (he : getF s (PTPI_CTL_EDGE i) = 3 ∨ getF s (PTPI_CTL_EDGE i) = (if rise then 1 else 2))
include hi hen hc he

theorem exec_captureEdge : exec (.captureEdge i rise) s
    = if (captures s i).length < 16 then .next (putCaptures i (captures s i ++ [⟨lin s, rise⟩]) s)
      else .next (putF (PTPI_STAT_OVF i) 1 s) := by
  refine if_pos ?_
  obtain h | h := he
  · simp [hi, hen, hc, h]
  · cases rise <;> simp [hi, hen, hc, h]

theorem captureEdge_joins (h : (captures s i).length < 16) : ∃ t, exec (.captureEdge i rise) s = .next t
    ∧ captures t i = captures s i ++ [⟨lin s, rise⟩] ∧ getF t (PTPI_STAT_COUNT i) = (captures s i).length + 1 := by
  have hl : (captures s i ++ [(⟨lin s, rise⟩ : Capture)]).length = (captures s i).length + 1 := List.length_append
  refine ⟨_, (exec_captureEdge hi hen hc he).trans (if_pos h), captures_putCaptures i _ s, ?_⟩
  rw [getF_putCaptures_count (Nat.le_trans (Nat.le_of_eq hl) h), hl]

theorem captureEdge_overflows (h : 16 ≤ (captures s i).length) :
    exec (.captureEdge i rise) s = .next (putF (PTPI_STAT_OVF i) 1 s) :=
  (exec_captureEdge hi hen hc he).trans (if_neg (Nat.not_lt.2 h))

end

theorem exec_captureFifoRead (hi : i < 8) : exec (.captureFifoRead i) s
    = .next (emit .response [0, 0, 0, getF s (PTPI_FIFO_HI_LIN i) + 65536 * getF s (PTPI_FIFO_HI_RISE i)]
        (putCaptures i ((captures s i).drop 1) s)) := if_pos hi

theorem captureFifoRead_effect (hi : i < 8) : ∃ t, exec (.captureFifoRead i) s = .next t ∧ captures t i = (captures s i).drop 1
    ∧ t.out = ⟨.response, [0, 0, 0, getF s (PTPI_FIFO_HI_LIN i) + 65536 * getF s (PTPI_FIFO_HI_RISE i)]⟩ :: s.out :=
  ⟨_, exec_captureFifoRead hi, captures_putCaptures i _ s, congrArg _ (putCaptures_out i _ s)⟩

end

/-! ### The PTP port (R232, R237) -/

section
variable {s : State}

/-- A state whose PTP settings and port are `p`. -/
def withPtp (p : PtpInst) (s : State) : State := { s with fw := { s.fw with ptp := p } }

theorem setPtp_told (p : PtpInst) (s : State) : Told (withPtp p s) (setPtp p s) := by
  unfold setPtp
  extract_lets o fw s1
  split
  · exact Told.refl _
  · exact (Told.refl s1).raiseOwner _ _ _ _

theorem setPtp_fw (p : PtpInst) (s : State) : (setPtp p s).fw.ptp = p := by
  rw [(setPtp_told p s).rest]
  rfl

/-- Fields written before the clock chain is settled anew. -/
theorem getF_refreshClk_putFs {l : List (Fld × Nat)} {f : Fld} {v : Nat} (hk : (l.map (fun p => p.1.key)).Nodup)
    (hm : (f, v) ∈ l) (hf : besideClock f = true) (s : State) : getF (refreshClk (putFs l s)) f = v % 2 ^ f.width :=
  ((refreshClk_clockOnly _).regs f hf).trans ((OnlyFields.putFs hk).written (f, v) hm)

theorem refreshClk_putFs_fw (l : List (Fld × Nat)) (s : State) : (refreshClk (putFs l s)).fw = s.fw :=
  (refreshClk_clockOnly _).fw.trans (putFs_fw l s)

/-- The mapping of REF0 that an Announce writes (R237). -/
def announceFields (c a : Nat) : List (Fld × Nat) := [(CLK_REF0_ANN_CLASS, c), (CLK_REF0_ANN_ACCURACY, a), (CLK_REF0_ANN_ANN_VALID, 1)]

theorem announceFields_nodup (c a : Nat) : ((announceFields c a).map (fun p => p.1.key)).Nodup :=
  show [CLK_REF0_ANN_CLASS.key, CLK_REF0_ANN_ACCURACY.key, CLK_REF0_ANN_ANN_VALID.key].Nodup by decide

/-- The port as a SLAVE of the master that announced itself (R232). -/
def PtpInst.slaveOf (p : PtpInst) (id c a : Nat) : PtpInst := { p with
  portState := 9
  gmId := id
  gmClass := c % 256
  gmAcc := a % 256 }

section
variable (hu : fwUp s = true) (hp : ptpCfg s 0 5 1 = 1)
include hu hp

theorem exec_announce {id c a prio d : Nat} {off : Int} (hm : ptpCfg s 0 4 1 = 0) :
    exec (.ptpMessageRx true id c a prio off d) s
      = .next (refreshClk (putFs (announceFields c a) (setPtp (s.fw.ptp.slaveOf id c a) s))) := by
  have he : exec (.ptpMessageRx true id c a prio off d) s = .next (announce id c a prio s) := if_pos (by simp [hu, hp])
  rw [he, announce, if_neg (by simp [hm])]
  rfl

theorem announce_effect {id c a prio d : Nat} {off : Int} (hm : ptpCfg s 0 4 1 = 0) :
    ∃ t, exec (.ptpMessageRx true id c a prio off d) s = .next t ∧ t.fw.ptp = s.fw.ptp.slaveOf id c a
      ∧ getF t CLK_REF0_ANN_ANN_VALID = 1 ∧ getF t CLK_REF0_ANN_CLASS = c % 256 ∧ getF t CLK_REF0_ANN_ACCURACY = a % 256 := by
  have hget (f : Fld) (v : Nat) (h : (f, v) ∈ announceFields c a) (hf : besideClock f = true) :=
    getF_refreshClk_putFs (announceFields_nodup c a) h hf (setPtp (s.fw.ptp.slaveOf id c a) s)
  refine ⟨_, exec_announce hu hp hm, ?ptp, hget _ 1 ?valid (by decide), hget _ c ?clock (by decide), hget _ a ?accuracy (by decide)⟩
  case ptp => rw [refreshClk_putFs_fw, setPtp_fw]
  all_goals simp [announceFields]

/-- The fields that an Announce timeout clears (R237). -/
def timeoutFields : List (Fld × Nat) := [(CLK_REF0_ANN_ANN_VALID, 0), (CLK_REF0_ANN_SERVO_LOCK, 0)]

theorem exec_announceTimeout : exec .announceTimeout s
    = .next (refreshClk (putFs timeoutFields (setPtp { s.fw.ptp with portState := if ptpCfg s 0 4 1 = 1 then 6 else 4 } s))) :=
  if_pos (by simp [hu, hp])

theorem announceTimeout_effect : ∃ t, exec .announceTimeout s = .next t ∧ getF t CLK_REF0_ANN_ANN_VALID = 0
    ∧ getF t CLK_REF0_ANN_SERVO_LOCK = 0 ∧ t.fw.ptp = { s.fw.ptp with portState := if ptpCfg s 0 4 1 = 1 then 6 else 4 } := by
  refine ⟨_, exec_announceTimeout hu hp, getF_refreshClk_putFs (v := 0) (by decide) (by simp [timeoutFields]) (by decide) _,
    getF_refreshClk_putFs (v := 0) (by decide) (by simp [timeoutFields]) (by decide) _, ?_⟩
  rw [refreshClk_putFs_fw, setPtp_fw]

end

/-! ### A measured offset (R232) -/

/-- The port after a measurement. -/
def PtpInst.measured (p : PtpInst) (off : Int) (d : Nat) : PtpInst := { p with
  offset := ofS 32 off
  pathDelay := d }

/-- The offset in nanoseconds beyond which the counter is stepped. -/
def servoLimit (s : State) : Nat := if s.fw.ptp.cfg.getD 3 0 = 0 then 100000 else s.fw.ptp.cfg.getD 3 0

/-- A measured offset steps the counter or steers INC, and SERVO_LOCK tells which. -/
theorem steerPtp_eq (off : Int) (d : Nat) (s : State) : ∃ t, t.fw.ptp = s.fw.ptp.measured off d
    ∧ steerPtp off d s = refreshClk (putB CLK_REF0_ANN_SERVO_LOCK (decide ((off.natAbs : Int) ≤ servoLimit s)) t) := by
  by_cases h : (servoLimit s : Int) < off.natAbs
  · rw [decide_eq_false (Int.not_le.2 h)]
    have hs : steerPtp off d s = _ := if_pos h
    refine ⟨_, ?_, hs⟩
    obtain ⟨p, hp⟩ := ptpStep_pulsesOnly (decide (0 < off)) (putFs [(PTP_ADJ_NS_NS, off.natAbs % 1000000000),
      (PTP_ADJ_SEC_LO_SEC, off.natAbs / 1000000000), (PTP_ADJ_SEC_HI_SEC, off.natAbs / 1000000000 / 4294967296)]
      (withPtp (s.fw.ptp.measured off d) s))
    refine (congrArg Fw.ptp hp.fw).trans ?_
    exact congrArg Fw.ptp (putFs_fw _ _)
  · rw [decide_eq_true (Int.not_lt.1 h)]
    have hs : steerPtp off d s = _ := if_neg h
    refine ⟨_, ?_, hs⟩
    exact congrArg Fw.ptp (putFs_fw _ _)

theorem measurement_effect {id c a prio d : Nat} {off : Int} (hu : fwUp s = true) (hp : ptpCfg s 0 5 1 = 1)
    (hs : s.fw.ptp.portState = 9) : ∃ t, exec (.ptpMessageRx false id c a prio off d) s = .next t
      ∧ t.fw.ptp = s.fw.ptp.measured off d
      ∧ getF t CLK_REF0_ANN_SERVO_LOCK = b2n (decide ((off.natAbs : Int) ≤ servoLimit s)) := by
  have he : exec (.ptpMessageRx false id c a prio off d) s = .next (steerPtp off d s) := by
    refine (if_pos (by simp [hu, hp])).trans ?_
    exact if_pos hs
  obtain ⟨t, ht, hst⟩ := steerPtp_eq off d s
  rw [hst] at he
  refine ⟨_, he, ?_, ?_⟩
  · rw [(refreshClk_clockOnly _).fw]
    exact ht
  · rw [(refreshClk_clockOnly _).regs _ (by decide)]
    exact getF_putB_self rfl _ t

end

/-! ### The obligation -/

/-- Settles O40: settings put into force at the first grid point ahead (`pulseOf_armPulse`, `gridSteps_bounds`), edges and falls
(`pulseEdge_effect`, `pulseFall_effect`), the capture FIFO (`putCaptures_eq`), and the PTP port, whose fields of REF0 settling
the clock chain leaves alone (`refreshClk_clockOnly`). -/
theorem ptpEventsAndMessages : Obligations.PtpEventsAndMessages := by
  refine ⟨fun o pol gate s p w ho hf hp hw => ⟨pulseArm_periodic ho hf hp hw, pulseArm_late ho hf hp hw⟩,
    fun o pol gate s ho hf => pulseArm_disarm ho hf, fun o s => pulseEdge_effect, fun o s e => pulseFall_effect,
    fun i rise s hi hen hc he => ⟨captureEdge_joins hi hen hc he, fun h => ?overflow⟩, fun i s hi => captureFifoRead_effect hi,
    fun id c a prio off d s hu hp hm => announce_effect hu hp hm, fun id c a prio off d s hu hp hs => measurement_effect hu hp hs,
    fun s => announceTimeout_effect⟩
  case overflow => exact ⟨_, captureEdge_overflows hi hen hc he h, .putF s _ 1⟩

end Sys2Proof.Machine

/-! ## What the clock chain's events write (R236 to R252) -/

namespace Sys2Proof.Machine

/-- Whether a field is none of a list's, and none that telling a seat writes. -/
def apart (l : List Fld) (f : Fld) : Bool := !tellKey f.key && l.all fun g => f.key != g.key

/-- From `s` to `t` nothing happens but that fields of `l` are written, the clock chain's own values and the count of free values
change and seats are told something. -/
structure Writes (l : List Fld) (s t : State) : Prop where
  rest : t = { s with regs := t.regs, clk := t.clk, seats := t.seats, out := t.out, free := t.free }
  regs : ∀ f, apart l f = true → getF t f = getF s f

section
variable {l m : List Fld} {s t u : State}

theorem tellKey_of_apart {f : Fld} (h : apart l f = true) : tellKey f.key = false := by
  simpa using (Bool.and_eq_true_iff.1 h).1

theorem key_ne_of_apart {f g : Fld} (h : apart l f = true) (hg : g ∈ l) : f.key ≠ g.key := by
  simpa using List.all_eq_true.1 (Bool.and_eq_true_iff.1 h).2 g hg

theorem apart_of {f : Fld} (ht : tellKey f.key = false) (hl : ∀ g ∈ l, f.key ≠ g.key) : apart l f = true := by
  simpa [apart, ht] using hl

theorem apart_mono {f : Fld} (hl : l ⊆ m) (h : apart m f = true) : apart l f = true :=
  apart_of (tellKey_of_apart h) fun _ hg => key_ne_of_apart h (hl hg)

theorem Writes.refl (l : List Fld) (s : State) : Writes l s s := ⟨rfl, fun _ _ => rfl⟩

theorem Writes.trans (h : Writes l s t) (k : Writes l t u) : Writes l s u where
  rest := by rw [k.rest, h.rest]
  regs f hf := (k.regs f hf).trans (h.regs f hf)

theorem Writes.mono (h : Writes l s t) (hl : l ⊆ m) : Writes m s t := ⟨h.rest, fun f hf => h.regs f (apart_mono hl hf)⟩

theorem Writes.putF (h : Writes l s t) {f : Fld} (hf : f ∈ l) (v : Nat) : Writes l s (putF f v t) :=
  h.trans ⟨rfl, fun _ hg => getF_putF_ne v t (key_ne_of_apart hg hf)⟩

theorem Writes.putFs (h : Writes l s t) {p : List (Fld × Nat)} (hp : ∀ q ∈ p, q.1 ∈ l) : Writes l s (putFs p t) := by
  induction p generalizing t with
  | nil => exact h
  | cons q p ih => exact ih (h.putF (hp q List.mem_cons_self) q.2) fun x hx => hp x (List.mem_cons_of_mem q hx)

theorem Writes.setIf (h : Writes l s t) {f : Fld} (hf : f ∈ l) (b : Bool) : Writes l s (setIf f b t) := by
  cases b
  · exact h
  · exact h.putF hf 1

theorem Writes.withClk (h : Writes l s t) (c : Clk) : Writes l s { t with clk := c } := h.trans ⟨rfl, fun _ _ => rfl⟩

theorem Told.writes (h : Told s t) (l : List Fld) : Writes l s t :=
  ⟨by rw [h.rest], fun f hf => h.getF f (tellKey_of_apart hf)⟩

theorem Writes.foldl {α : Type} {xs : List α} {g : State → α → State} (h : ∀ x ∈ xs, ∀ t, Writes l t (g t x)) (s : State) :
    Writes l s (xs.foldl g s) := by
  induction xs generalizing s with
  | nil => exact .refl l s
  | cons x xs ih => exact (h x List.mem_cons_self s).trans (ih (fun y hy => h y (List.mem_cons_of_mem x hy)) (g s x))

theorem Writes.flag (h : Writes l s t) {f : Fld} (hf : apart l f = true) : flag t f = Machine.flag s f := by
  rw [Machine.flag, Machine.flag, h.regs f hf]

theorem Writes.pair (h : Writes l s t) : t.pair = s.pair := by rw [h.rest]

end

/-! ### The DPLL's own steps (R244 to R246, R249, R251, R254) -/

/-- The fields that the DPLL's own steps write. -/
def dpllFields : List Fld :=
  [CLK_STAT_STATE, CLK_STAT_SELECTED, CLK_STAT_SWITCHING, CLK_STAT_BLEEDING, CLK_STAT_STEER, CLK_STAT_QL_OUT, CLK_ALARM_HOLDOVER,
    CLK_ALARM_LOST, CLK_HOLDOVER_HO_FREQ, CLK_SYN_NINT_NINT, CLK_SYN_NFRAC_NFRAC]

/-- From `s` to `t` only the DPLL's own steps happen: the build-out and the references in window stay. -/
structure Steered (s t : State) : Prop extends Writes dpllFields s t where
  inWin : t.clk.inWin = s.clk.inWin
  build : t.clk.build = s.clk.build

section
variable {s t u : State}

theorem Steered.refl (s : State) : Steered s s := ⟨.refl _ s, rfl, rfl⟩

theorem Steered.trans (h : Steered s t) (k : Steered t u) : Steered s u :=
  ⟨h.toWrites.trans k.toWrites, k.inWin.trans h.inWin, k.build.trans h.build⟩

theorem Steered.putF (h : Steered s t) {f : Fld} (hf : f ∈ dpllFields) (v : Nat) : Steered s (putF f v t) :=
  ⟨h.toWrites.putF hf v, h.inWin, h.build⟩

theorem Steered.putFs (h : Steered s t) {p : List (Fld × Nat)} (hp : ∀ q ∈ p, q.1 ∈ dpllFields) : Steered s (putFs p t) :=
  ⟨h.toWrites.putFs hp, by rw [putFs_clk, h.inWin], by rw [putFs_clk, h.build]⟩

theorem Steered.fromClk {c : Clk} (h : Steered { s with clk := c } t) (hi : c.inWin = s.clk.inWin) (hb : c.build = s.clk.build) :
    Steered s t := ⟨((Writes.refl _ s).withClk c).trans h.toWrites, h.inWin.trans hi, h.build.trans hb⟩

theorem Told.steered (h : Told s t) : Steered s t := ⟨h.writes _, by rw [h.rest], by rw [h.rest]⟩

theorem clkEvent_told (r : Nat) (s : State) : Told s (clkEvent r s) := (Told.refl s).raiseAll _ _

theorem setRatioRegs_steered (s : State) : Steered s (setRatioRegs s) := by
  unfold setRatioRegs
  extract_lets nom num n
  split
  · exact (Steered.refl s).putFs (by simp [dpllFields])
  · exact (Steered.refl s).putFs (by simp [dpllFields])

theorem setFreq_steered (f : Int) (s : State) : Steered s (setFreq f s) :=
  (setRatioRegs_steered _).fromClk rfl rfl

theorem dpllEntered_steered (st : Nat) (s : State) : Steered s (dpllEntered st s) := by
  unfold dpllEntered
  split
  · exact ((Steered.refl s).putFs (by simp [dpllFields])).trans (setFreq_steered _ _)
  · exact (Steered.refl s).putF (by simp [dpllFields]) 1
  · exact setFreq_steered 0 s
  · exact (Steered.refl _).fromClk rfl rfl
  · exact .refl s

theorem setDpll_steered (st : Nat) (s : State) : Steered s (setDpll st s) := by
  by_cases h : getF s CLK_STAT_STATE = st
  · rw [setDpll, if_pos h]
    exact .refl s
  · rw [setDpll_of_ne h _ rfl]
    have hs : Steered s (putF CLK_STAT_STATE st s) := (Steered.refl s).putF (by simp [dpllFields]) st
    exact ((hs.trans (dpllEntered_steered st _)).putF (by simp [dpllFields]) _).trans (clkEvent_told _ _).steered

theorem loseRefs_steered (s : State) : Steered s (loseRefs s) := by
  unfold loseRefs
  extract_lets st
  split
  · exact setDpll_steered _ s
  · exact .refl s

theorem commitSwitch_steered (r : Nat) (s : State) : Steered s (commitSwitch r s) :=
  (((Steered.refl _).putFs (by simp [dpllFields])).trans (setDpll_steered _ _)).fromClk rfl rfl

theorem selectRef_steered (s : State) : Steered s (selectRef s) := by
  obtain h | h | h | ⟨r, h⟩ := selectRef_cases s <;> rw [h]
  · exact .refl s
  · exact setDpll_steered 0 s
  · exact loseRefs_steered s
  · exact commitSwitch_steered r s

end

/-! ### The fields of the whole chain -/

/-- The fields of a reference that the chain's events write. -/
def refFields (r : Nat) : List Fld := [CLK_REF_STAT_STATE r, CLK_REF_STAT_QL_EFF r, CLK_REF_FREQ_OFFSET r, CLK_REF_STAT_DRIFT_WARN r]

/-- The fields that the clock chain's events write. -/
def chainFields : List Fld := dpllFields ++ [CLK_ALARM_CFG_ERR, CLK_ALARM_SWITCH, CLK_ALARM_DRIFT, CLK_ALARM_OPEN_TMO,
  CLK_ALARM_PPS_LOST, CLK_PHASE_ERR_ERR, CLK_PHASE_ERR_SEQ, CLK_BUILDOUT_B, CLK_STAT_HO_VALID] ++ (List.range 8).flatMap refFields

theorem dpllFields_subset : dpllFields ⊆ chainFields := fun _ h => List.mem_append_left _ (List.mem_append_left _ h)

theorem refFields_subset {r : Nat} (hr : r < 8) : refFields r ⊆ chainFields := fun _ h =>
  List.mem_append_right _ (List.mem_flatMap.2 ⟨r, List.mem_range.2 hr, h⟩)

theorem Steered.chain {s t : State} (h : Steered s t) : Writes chainFields s t := h.toWrites.mono dpllFields_subset

/-- The fields from which a reference's effective level follows (R237, R238). -/
def levelFields (r : Nat) : List Fld :=
  [CLK_REF0_ANN_ANN_VALID, CLK_REF0_ANN_SERVO_LOCK, CLK_REF0_ANN_CLASS, CLK_REF0_ANN_ACCURACY, AES_RX_STAT_GRADE 0, AES_RX_STAT_GRADE 1,
    CLK_AES11_QL_G1_QL, CLK_AES11_QL_G2_QL, CLK_REF_CFG_QL_HOST r, CLK_REF_CFG_QL_HOST 7]
  ++ (List.range 8).flatMap fun e => [CLK_PTPQ_VALID e, CLK_PTPQ_CLASS_MIN e, CLK_PTPQ_CLASS_MAX e, CLK_PTPQ_ACC_MAX e, CLK_PTPQ_QL e]

/-- A reference's settings. -/
def settingFields (r : Nat) : List Fld :=
  [CLK_REF_CFG_EN r, CLK_REF_CFG_WIN r, CLK_REF_TIME_WTR r, CLK_REF_TIME_DQ r, CLK_REF_DIVN_N r, CLK_REF_DIVM_M r, CLK_SEL_FAMILY,
    CLK_XO_TRIM_TRIM]

theorem levelFields_apart : ∀ r < 8, ∀ f ∈ levelFields r, apart chainFields f = true := by decide

theorem settingFields_apart : ∀ r < 8, ∀ f ∈ settingFields r, apart chainFields f = true := by decide

/-! ### Effective levels (R237, R238) -/

section
variable {s t : State} {r : Nat}

theorem ptpQuality_congr (h : ∀ f ∈ levelFields r, getF t f = getF s f) : ptpQuality t = ptpQuality s := by
  have hm (e : Nat) (he : e < 8) (f : Fld)
      (hf : f ∈ [CLK_PTPQ_VALID e, CLK_PTPQ_CLASS_MIN e, CLK_PTPQ_CLASS_MAX e, CLK_PTPQ_ACC_MAX e, CLK_PTPQ_QL e]) :
      getF t f = getF s f := h f (List.mem_append_right _ (List.mem_flatMap.2 ⟨e, List.mem_range.2 he, hf⟩))
  have hc : getF t CLK_REF0_ANN_CLASS = getF s CLK_REF0_ANN_CLASS := h _ (by simp [levelFields])
  have ha : getF t CLK_REF0_ANN_ACCURACY = getF s CLK_REF0_ANN_ACCURACY := h _ (by simp [levelFields])
  unfold ptpQuality
  dsimp only
  rw [List.find?_congr (l := List.range 8) (p₂ := fun e => flag s (CLK_PTPQ_VALID e)
    && getF s (CLK_PTPQ_CLASS_MIN e) ≤ getF s CLK_REF0_ANN_CLASS && getF s CLK_REF0_ANN_CLASS ≤ getF s (CLK_PTPQ_CLASS_MAX e)
    && getF s CLK_REF0_ANN_ACCURACY ≤ getF s (CLK_PTPQ_ACC_MAX e)) fun e he => ?entry]
  case entry =>
    have he := List.mem_range.1 he
    simp only [flag, hc, ha, hm e he (CLK_PTPQ_VALID e) (by simp), hm e he (CLK_PTPQ_CLASS_MIN e) (by simp),
      hm e he (CLK_PTPQ_CLASS_MAX e) (by simp), hm e he (CLK_PTPQ_ACC_MAX e) (by simp)]
  split
  case h_1 e he => exact hm e (List.mem_range.1 (List.mem_of_find?_eq_some he)) _ (by simp)
  case h_2 => rfl

theorem refQl_congr (hp : t.pair = s.pair) (h : ∀ f ∈ levelFields r, getF t f = getF s f) : refQl t r = refQl s r := by
  unfold refQl
  split
  · rw [ptpQuality_congr h, flag, flag, h _ (by simp [levelFields]), h _ (by simp [levelFields]), ← flag, ← flag]
  · rw [h _ (by simp [levelFields]), h _ (by simp [levelFields]), h _ (by simp [levelFields])]
  · rw [h _ (by simp [levelFields]), h _ (by simp [levelFields]), h _ (by simp [levelFields])]
  · rw [hp, h _ (by simp [levelFields])]
  · exact h _ (by simp [levelFields])

variable (h : Writes chainFields s t) (hr : r < 8)
include h hr

theorem Writes.refQl : refQl t r = Machine.refQl s r := refQl_congr h.pair fun f hf => h.regs f (levelFields_apart r hr f hf)

theorem Writes.setting {f : Fld} (hf : f ∈ settingFields r) : getF t f = getF s f := h.regs f (settingFields_apart r hr f hf)

theorem Writes.refBroken : refBroken t r = Machine.refBroken s r := by
  unfold Machine.refBroken clkBase Machine.flag
  rw [h.setting hr (f := CLK_SEL_FAMILY) (by simp [settingFields]), h.setting hr (f := CLK_REF_DIVN_N r) (by simp [settingFields]),
    h.setting hr (f := CLK_REF_DIVM_M r) (by simp [settingFields])]

end

/-! ### The references judged (R236, R237, R241, R242) -/

/-- What settling the chain does to one reference: its level, and its state if it is disabled, broken, new or without a level. -/
def judgeRef (s : State) (r : Nat) : State :=
  let s1 := putF (CLK_REF_STAT_QL_EFF r) (refQl s r) s
  if !flag s (CLK_REF_CFG_EN r) then setRef r 0 s1
  else if refBroken s r then setRef r 0 (putF CLK_ALARM_CFG_ERR 1 s1)
  else if getF s (CLK_REF_STAT_STATE r) = 0 ∨ refQl s r = 15 then setRef r 1 s1
  else s1

/-- The references settled. -/
def judgeRefs (s : State) : State := (List.range 8).foldl judgeRef s

theorem refreshClk_eq (s : State) : refreshClk s
    = putF CLK_STAT_QL_OUT (qlOut (selectRef (judgeRefs s))) (selectRef (judgeRefs s)) := rfl

theorem refreshClk_steered (s : State) : Steered (judgeRefs s) (refreshClk s) :=
  (selectRef_steered _).putF (by simp [dpllFields]) _

/-- The fields that judging a reference writes. -/
def judgeFields (r : Nat) : List Fld := [CLK_ALARM_CFG_ERR, CLK_REF_STAT_STATE r, CLK_REF_STAT_QL_EFF r]

theorem judgeFields_subset {r : Nat} (hr : r < 8) : judgeFields r ⊆ chainFields := by
  intro f hf
  obtain rfl | hf := List.mem_cons.1 hf
  · simp [chainFields]
  · exact refFields_subset hr ((List.cons_subset_cons _ (List.cons_subset_cons _ (List.nil_subset _))) hf)

section
variable {s t : State} {r k : Nat}

theorem setRef_self (h : getF s (CLK_REF_STAT_STATE r) = k) : setRef r k s = s := if_pos h

theorem setRef_writes {l : List Fld} (h : CLK_REF_STAT_STATE r ∈ l) (st : Nat) (s : State) : Writes l s (setRef r st s) := by
  unfold setRef
  split
  · exact .refl l s
  · exact ((Writes.refl l s).putF h st).trans ((clkEvent_told r _).writes l)

theorem setRef_clk (r st : Nat) (s : State) : (setRef r st s).clk = s.clk := by
  unfold setRef
  split
  · rfl
  · rw [(clkEvent_told r _).rest]
    rfl

theorem tellKey_refState : ∀ r < 8, tellKey (CLK_REF_STAT_STATE r).key = false := by decide

theorem getF_setRef (hr : r < 8) {st : Nat} (hst : st < 8) (s : State) : getF (setRef r st s) (CLK_REF_STAT_STATE r) = st := by
  unfold setRef
  split
  case isTrue h => exact h
  case isFalse h =>
    rw [(clkEvent_told r _).getF _ (tellKey_refState r hr), getF_putF_self]
    exact Nat.mod_eq_of_lt hst

theorem judgeRef_writes (r : Nat) (s : State) : Writes (judgeFields r) s (judgeRef s r) := by
  have h1 : Writes (judgeFields r) s (putF (CLK_REF_STAT_QL_EFF r) (refQl s r) s) := (Writes.refl _ s).putF (by simp [judgeFields]) _
  have hm : CLK_REF_STAT_STATE r ∈ judgeFields r := by simp [judgeFields]
  unfold judgeRef
  dsimp only
  split
  · exact h1.trans (setRef_writes hm 0 _)
  · split
    · exact (h1.putF (by simp [judgeFields]) 1).trans (setRef_writes hm 0 _)
    · split
      · exact h1.trans (setRef_writes hm 1 _)
      · exact h1

theorem judgeRef_clk (r : Nat) (s : State) : (judgeRef s r).clk = s.clk := by
  unfold judgeRef
  dsimp only
  split
  · exact setRef_clk _ _ _
  · split
    · exact setRef_clk _ _ _
    · split
      · exact setRef_clk _ _ _
      · rfl

theorem judgeRefs_writes (s : State) : Writes chainFields s (judgeRefs s) :=
  .foldl (fun r hr t => (judgeRef_writes r t).mono (judgeFields_subset (List.mem_range.1 hr))) s

theorem judgeRefs_clk (s : State) : (judgeRefs s).clk = s.clk :=
  List.foldlRecOn (motive := fun t => t.clk = s.clk) _ judgeRef rfl fun t h r _ => (judgeRef_clk r t).trans h

theorem refreshClk_writes (s : State) : Writes chainFields s (refreshClk s) := (judgeRefs_writes s).trans (refreshClk_steered s).chain

theorem refreshClk_inWin (s : State) : (refreshClk s).clk.inWin = s.clk.inWin := by
  rw [(refreshClk_steered s).inWin, judgeRefs_clk]

theorem refreshClk_build (s : State) : (refreshClk s).clk.build = s.clk.build := by
  rw [(refreshClk_steered s).build, judgeRefs_clk]

end

/-! ### A reference that stands -/

/-- A reference that is enabled and whose divisors R236 allows. -/
structure Enabled (s : State) (r : Nat) : Prop where
  lt : r < 8
  en : flag s (CLK_REF_CFG_EN r) = true
  sound : refBroken s r = false

/-- An enabled reference whose state stands when the chain is settled: without a usable level it is UNQUALIFIED already. -/
structure Standing (s : State) (r : Nat) : Prop extends Enabled s r where
  present : getF s (CLK_REF_STAT_STATE r) ≠ 0
  level : refQl s r = 15 → getF s (CLK_REF_STAT_STATE r) = 1

/-- From `s` to `t` the clock chain moves, and reference `r` keeps its state, its offset and its place in the window. -/
structure KeepsRef (r : Nat) (s t : State) : Prop extends Writes chainFields s t where
  state : getF t (CLK_REF_STAT_STATE r) = getF s (CLK_REF_STAT_STATE r)
  offset : getF t (CLK_REF_FREQ_OFFSET r) = getF s (CLK_REF_FREQ_OFFSET r)
  inWin : r ∈ t.clk.inWin ↔ r ∈ s.clk.inWin

section
variable {s t u : State} {r k : Nat}

theorem KeepsRef.refl (r : Nat) (s : State) : KeepsRef r s s := ⟨.refl _ s, rfl, rfl, Iff.rfl⟩

theorem KeepsRef.trans (h : KeepsRef r s t) (k : KeepsRef r t u) : KeepsRef r s u :=
  ⟨h.toWrites.trans k.toWrites, k.state.trans h.state, k.offset.trans h.offset, k.inWin.trans h.inWin⟩

theorem Enabled.moved (h : Enabled s r) (hw : Writes chainFields s t) : Enabled t r where
  lt := h.lt
  en := by rw [flag, hw.setting h.lt (r := r) (by simp [settingFields]), ← flag, h.en]
  sound := by rw [hw.refBroken h.lt, h.sound]

/-- A reference stands where the chain has moved to a state that fits its level. -/
theorem Enabled.standing (h : Enabled s r) (hw : Writes chainFields s t) (hp : getF t (CLK_REF_STAT_STATE r) ≠ 0)
    (hl : refQl s r = 15 → getF t (CLK_REF_STAT_STATE r) = 1) : Standing t r :=
  ⟨h.moved hw, hp, by rwa [hw.refQl h.lt]⟩

theorem KeepsRef.standing (h : KeepsRef r s t) (hs : Standing s r) : Standing t r :=
  hs.toEnabled.standing h.toWrites (h.state ▸ hs.present) fun hq => h.state.trans (hs.level hq)

theorem judgeRef_standing (h : Standing s r) : judgeRef s r = putF (CLK_REF_STAT_QL_EFF r) (refQl s r) s := by
  have hst : getF (putF (CLK_REF_STAT_QL_EFF r) (refQl s r) s) (CLK_REF_STAT_STATE r) = getF s (CLK_REF_STAT_STATE r) :=
    getF_putF_ne _ s (Fld.key_ne_of_bit rfl)
  unfold judgeRef
  dsimp only
  rw [if_neg (by rw [h.en]; decide), if_neg (by rw [h.sound]; decide)]
  split
  case isTrue hc =>
    obtain hz | hq := hc
    · exact absurd hz h.present
    · exact setRef_self (hst.trans (h.level hq))
  case isFalse => rfl

/-- Judging one reference is apart from what is shown of another. -/
theorem judgeFields_apart : ∀ r < 8, ∀ k < 8, k ≠ r → ∀ f ∈ refFields r, apart (judgeFields k) f = true := by decide

theorem dpllFields_apart : ∀ r < 8, ∀ f ∈ refFields r, apart dpllFields f = true := by decide

theorem judgeRef_keepsRef (h : Standing s r) (hk : k < 8) : KeepsRef r s (judgeRef s k) := by
  have hw := judgeRef_writes k s
  have hget (f : Fld) (hf : f ∈ refFields r) (hb : (f.lo % 32 == (CLK_REF_STAT_QL_EFF r).lo % 32) = false) :
      getF (judgeRef s k) f = getF s f := by
    by_cases e : k = r
    · subst e
      rw [judgeRef_standing h]
      exact getF_putF_ne _ s (Fld.key_ne_of_bit hb)
    · exact hw.regs f (judgeFields_apart r h.lt k hk e f hf)
  exact ⟨hw.mono (judgeFields_subset hk), hget _ (by simp [refFields]) rfl, hget _ (by simp [refFields]) rfl, by rw [judgeRef_clk]⟩

/-- A reference's level once it is settled, and what settling another leaves of it. -/
theorem judgeRef_level (h : Standing s r) (hk : k < 8) (hq : getF s (CLK_REF_STAT_QL_EFF r) = refQl s r % 16 ∨ k = r) :
    getF (judgeRef s k) (CLK_REF_STAT_QL_EFF r) = refQl s r % 16 := by
  by_cases e : k = r
  · subst e
    rw [judgeRef_standing h, getF_putF_self]
    rfl
  · rw [(judgeRef_writes k s).regs _ (judgeFields_apart r h.lt k hk e _ (by simp [refFields])), hq.resolve_right e]

theorem judged_keepsRef (h : Standing s r) {l : List Nat} (hl : ∀ k ∈ l, k < 8) : KeepsRef r s (l.foldl judgeRef s) :=
  List.foldlRecOn (motive := KeepsRef r s) l judgeRef (.refl r s) fun _ ht k hk =>
    ht.trans (judgeRef_keepsRef (ht.standing h) (hl k hk))

theorem judged_level (h : Standing s r) {l : List Nat} (hl : ∀ k ∈ l, k < 8) (hr : r ∈ l) :
    getF (l.foldl judgeRef s) (CLK_REF_STAT_QL_EFF r) = refQl s r % 16 := by
  obtain ⟨a, b, rfl⟩ := List.append_of_mem hr
  rw [List.foldl_append, List.foldl_cons]
  have ha := judged_keepsRef h (l := a) fun k hk => hl k (List.mem_append_left _ hk)
  have hs := ha.standing h
  have hq := ha.toWrites.refQl h.lt
  refine (List.foldlRecOn (motive := fun t => KeepsRef r (a.foldl judgeRef s) t ∧ getF t (CLK_REF_STAT_QL_EFF r) = refQl s r % 16)
    b judgeRef ⟨judgeRef_keepsRef hs h.lt, hq ▸ judgeRef_level hs h.lt (.inr rfl)⟩ fun t ⟨ht, hlv⟩ k hk => ?_).2
  have hk8 := hl k (List.mem_append_right _ (List.mem_cons_of_mem _ hk))
  have hqt : refQl t r = refQl s r := (ht.toWrites.refQl h.lt).trans hq
  exact ⟨ht.trans (judgeRef_keepsRef (ht.standing hs) hk8), hqt ▸ judgeRef_level (ht.standing hs) hk8 (.inl (hqt ▸ hlv))⟩

theorem Steered.keepsRef (h : Steered s t) (hr : r < 8) : KeepsRef r s t :=
  ⟨h.chain, h.regs _ (dpllFields_apart r hr _ (by simp [refFields])), h.regs _ (dpllFields_apart r hr _ (by simp [refFields])),
    by rw [h.inWin]⟩

theorem judgeRefs_keepsRef (h : Standing s r) : KeepsRef r s (judgeRefs s) := judged_keepsRef h fun _ => List.mem_range.1

theorem refreshClk_keepsRef (h : Standing s r) : KeepsRef r s (refreshClk s) :=
  (judgeRefs_keepsRef h).trans ((refreshClk_steered s).keepsRef h.lt)

theorem refreshClk_level (h : Standing s r) : getF (refreshClk s) (CLK_REF_STAT_QL_EFF r) = refQl s r % 16 := by
  rw [(refreshClk_steered s).regs _ (dpllFields_apart r h.lt _ (by simp [refFields]))]
  exact judged_level h (fun _ => List.mem_range.1) (List.mem_range.2 h.lt)

/-- A state that fits the level stays when the chain is settled. -/
theorem refreshClk_setRef (h : Enabled s r) {st : Nat} (h0 : st ≠ 0) (h8 : st < 8) (hl : refQl s r = 15 → st = 1) :
    getF (refreshClk (setRef r st s)) (CLK_REF_STAT_STATE r) = st := by
  have hst := getF_setRef h.lt h8 s
  have hw : Writes chainFields s (setRef r st s) := setRef_writes (refFields_subset h.lt (by simp [refFields])) st s
  rw [(refreshClk_keepsRef (h.standing hw (hst.symm ▸ h0) (hst.symm ▸ hl))).state, hst]

end

end Sys2Proof.Machine

/-! ## References: qualification, absence and the averaging of a switch (R236, R240 to R247) -/

namespace Sys2Proof.Machine

/-! ### One reference evaluated (R240, R242, R243) -/

/-- A measured offset against the trimmed XO_IN, in sixteenths of a ppb. -/
def refOffset (s : State) (x : Int) : Int := x + 16 * toS 32 (getF s CLK_XO_TRIM_TRIM)

/-- Whether it lies in the reference's window. -/
def inWindow (s : State) (r : Nat) (x : Int) : Bool := decide ((refOffset s x).natAbs ≤ 16 * getF s (CLK_REF_CFG_WIN r))

/-- The references in window after one was judged. -/
def windowAfter (r : Nat) (w : Bool) (l : List Nat) : List Nat :=
  if w then (if l.contains r then l else r :: l) else l.filter (· != r)

/-- The offset shown and the window noted. -/
def seenRef (r : Nat) (x : Int) (s : State) : State :=
  { putF (CLK_REF_FREQ_OFFSET r) (ofS 32 (refOffset s x)) s with
    clk := { s.clk with inWin := windowAfter r (inWindow s r x) s.clk.inWin } }

/-- The reference's state moved (R242), by the settings of `s`. -/
def movedRef (r : Nat) (w : Bool) (s u : State) : State :=
  match getF s (CLK_REF_STAT_STATE r), w with
  | 1, true => if refQl s r = 15 then u else setRef r (if getF s (CLK_REF_TIME_WTR r) = 0 then 3 else 2) u
  | 2, true => if getF s (CLK_REF_TIME_WTR r) = 0 then setRef r 3 u else u
  | 3, false => setRef r (if getF s (CLK_REF_TIME_DQ r) = 0 then 2 else 4) u
  | 4, true => setRef r 3 u
  | _, _ => u

/-- The drift of the selected reference judged; any other shows no warning (R243). -/
def driftedRef (r : Nat) (off : Int) (s : State) : State :=
  if following s && getF s CLK_STAT_SELECTED == r then
    judgeDrift r { s with clk := { s.clk with drift := (off :: s.clk.drift).take 600 } }
  else putF (CLK_REF_STAT_DRIFT_WARN r) 0 s

section
variable {s t u : State} {r k : Nat}

theorem evalRef_absent (h : getF s (CLK_REF_STAT_STATE r) = 0) (raw : Option Int) : evalRef r raw s = s := if_pos h

theorem evalRef_none (r : Nat) (s : State) : evalRef r none s = s := by
  unfold evalRef
  split <;> rfl

theorem evalRef_some (h : getF s (CLK_REF_STAT_STATE r) ≠ 0) (x : Int) : evalRef r (some x) s
    = driftedRef r (refOffset s x) (movedRef r (inWindow s r x) s (seenRef r x s)) := if_neg h

theorem mem_windowAfter (w : Bool) (l : List Nat) : r ∈ windowAfter r w l ↔ w = true := by
  unfold windowAfter
  cases w
  · simp
  · by_cases h : r ∈ l <;> simp [h]

theorem mem_windowAfter_ne (h : k ≠ r) (w : Bool) (l : List Nat) : r ∈ windowAfter k w l ↔ r ∈ l := by
  unfold windowAfter
  cases w
  · simp [Ne.symm h]
  · by_cases hk : k ∈ l <;> simp [hk, Ne.symm h]

/-! What an evaluation writes. -/

/-- The fields that an evaluation of a reference writes. -/
def evalFields (r : Nat) : List Fld :=
  [CLK_REF_STAT_STATE r, CLK_REF_FREQ_OFFSET r, CLK_REF_STAT_DRIFT_WARN r, CLK_ALARM_DRIFT]

theorem evalFields_subset (hr : r < 8) : evalFields r ⊆ chainFields := by
  have h := refFields_subset hr
  simp only [evalFields, List.cons_subset, List.nil_subset, and_true]
  exact ⟨h (by simp [refFields]), h (by simp [refFields]), h (by simp [refFields]), by simp [chainFields]⟩

theorem seenRef_writes (r : Nat) (x : Int) (s : State) : Writes (evalFields r) s (seenRef r x s) :=
  ((Writes.refl _ s).putF (f := CLK_REF_FREQ_OFFSET r) (by simp [evalFields]) _).withClk _

/-- A reference's move leaves its state or sets it. -/
theorem movedRef_cases (r : Nat) (w : Bool) (s u : State) : movedRef r w s u = u ∨ ∃ st, movedRef r w s u = setRef r st u := by
  unfold movedRef
  split
  · split
    · exact .inl rfl
    · exact .inr ⟨_, rfl⟩
  · split
    · exact .inr ⟨_, rfl⟩
    · exact .inl rfl
  · exact .inr ⟨_, rfl⟩
  · exact .inr ⟨_, rfl⟩
  · exact .inl rfl

theorem movedRef_writes (r : Nat) (w : Bool) (s u : State) : Writes (evalFields r) u (movedRef r w s u) := by
  obtain h | ⟨st, h⟩ := movedRef_cases r w s u
  · rw [h]
    exact .refl _ u
  · rw [h]
    exact setRef_writes (by simp [evalFields]) st u

theorem movedRef_clk (r : Nat) (w : Bool) (s u : State) : (movedRef r w s u).clk = u.clk := by
  obtain h | ⟨st, h⟩ := movedRef_cases r w s u
  · rw [h]
  · rw [h, setRef_clk]

/-- The fields that judging the drift writes. -/
def driftFields (r : Nat) : List Fld := [CLK_REF_STAT_DRIFT_WARN r, CLK_ALARM_DRIFT]

theorem judgeDrift_writes (r : Nat) (s : State) : Writes (driftFields r) s (judgeDrift r s) := by
  unfold judgeDrift
  extract_lets l sl off room toEdge reach rate
  split
  · exact .refl _ s
  · split
    · exact (Writes.refl _ s).putFs (by simp [driftFields])
    · split
      · exact (Writes.refl _ s).putF (by simp [driftFields]) 0
      · exact .refl _ s

theorem judgeDrift_clk (r : Nat) (s : State) : (judgeDrift r s).clk = s.clk := by
  unfold judgeDrift
  extract_lets l sl off room toEdge reach rate
  split
  · rfl
  · split
    · exact putFs_clk _ s
    · split
      · rfl
      · rfl

theorem driftedRef_writes (r : Nat) (off : Int) (s : State) : Writes (driftFields r) s (driftedRef r off s) := by
  unfold driftedRef
  split
  · exact ((Writes.refl _ s).withClk _).trans (judgeDrift_writes r _)
  · exact (Writes.refl _ s).putF (by simp [driftFields]) 0

theorem driftedRef_inWin (r : Nat) (off : Int) (s : State) : (driftedRef r off s).clk.inWin = s.clk.inWin := by
  unfold driftedRef
  split
  · rw [judgeDrift_clk]
  · rfl

theorem evalRef_writes (r : Nat) (raw : Option Int) (s : State) : Writes (evalFields r) s (evalRef r raw s) := by
  by_cases h : getF s (CLK_REF_STAT_STATE r) = 0
  · rw [evalRef_absent h]
    exact .refl _ s
  · cases raw with
    | none =>
      rw [evalRef_none]
      exact .refl _ s
    | some x =>
      rw [evalRef_some h]
      exact ((seenRef_writes r x s).trans (movedRef_writes r _ s _)).trans
        ((driftedRef_writes r _ _).mono (List.subset_cons_of_subset _ (List.subset_cons_of_subset _ (List.Subset.refl _))))

/-! The evaluated reference, and what its evaluation leaves of another. -/

theorem evalFields_apart : ∀ r < 8, ∀ k < 8, k ≠ r → ∀ f ∈ refFields r, apart (evalFields k) f = true := by decide

theorem driftFields_apart : ∀ r < 8, ∀ f ∈ [CLK_REF_STAT_STATE r, CLK_REF_FREQ_OFFSET r], apart (driftFields r) f = true := by decide

theorem offset_apart : ∀ r < 8, apart [CLK_REF_STAT_STATE r] (CLK_REF_FREQ_OFFSET r) = true := by decide

theorem ofS_mod (w : Nat) (i : Int) : ofS w i % 2 ^ w = ofS w i := by
  have h := ofS_cast w i
  have hlt := Int.emod_lt_of_pos i (show (0 : Int) < 2 ^ w by positivity)
  exact Nat.mod_eq_of_lt (by exact_mod_cast h.trans_lt hlt)

theorem evalRef_inWin_ne (h : k ≠ r) (raw : Option Int) (s : State) : r ∈ (evalRef k raw s).clk.inWin ↔ r ∈ s.clk.inWin := by
  by_cases hs : getF s (CLK_REF_STAT_STATE k) = 0
  · rw [evalRef_absent hs]
  · cases raw with
    | none => rw [evalRef_none]
    | some x =>
      rw [evalRef_some hs, driftedRef_inWin, movedRef_clk]
      exact mem_windowAfter_ne h _ _

theorem evalRef_keepsRef (hr : r < 8) (hk : k < 8) (h : k ≠ r) (raw : Option Int) (s : State) : KeepsRef r s (evalRef k raw s) := by
  have hw := evalRef_writes k raw s
  exact ⟨hw.mono (evalFields_subset hk), hw.regs _ (evalFields_apart r hr k hk h _ (by simp [refFields])),
    hw.regs _ (evalFields_apart r hr k hk h _ (by simp [refFields])), evalRef_inWin_ne h raw s⟩

/-- The state that an evaluation leads to from `st`, by the wait-to-restore and disqualify times (R242). -/
def refStateAfter (st wtr dq : Nat) (w : Bool) : Nat :=
  if w then (if st = 1 then (if wtr = 0 then 3 else 2) else if st = 2 then (if wtr = 0 then 3 else 2) else 3)
  else if st = 3 then (if dq = 0 then 2 else 4) else st

theorem refStateAfter_bounds {st : Nat} (h1 : 1 ≤ st) (h4 : st ≤ 4) (wtr dq : Nat) (w : Bool) :
    1 ≤ refStateAfter st wtr dq w ∧ refStateAfter st wtr dq w < 8 := by
  unfold refStateAfter
  split_ifs <;> omega

/-- With a usable level a reference's move is the setting of its next state. -/
theorem movedRef_eq {st : Nat} (hst : getF s (CLK_REF_STAT_STATE r) = st) (hu : getF u (CLK_REF_STAT_STATE r) = st) (h1 : 1 ≤ st)
    (h4 : st ≤ 4) (hq : refQl s r ≠ 15) (w : Bool) :
    movedRef r w s u = setRef r (refStateAfter st (getF s (CLK_REF_TIME_WTR r)) (getF s (CLK_REF_TIME_DQ r)) w) u := by
  have hself {k : Nat} (hk : st = k) : setRef r k u = u := setRef_self (hu.trans hk)
  unfold movedRef refStateAfter
  rw [hst]
  obtain rfl | rfl | rfl | rfl : st = 1 ∨ st = 2 ∨ st = 3 ∨ st = 4 := by omega
  · cases w <;> simp [hq, hself]
  · cases w
    · simp [hself]
    · by_cases hz : getF s (CLK_REF_TIME_WTR r) = 0 <;> simp [hz, hself]
  · cases w <;> simp [hself]
  · cases w <;> simp [hself]

section
variable {st : Nat} {x : Int} (h : Standing s r) (hst : getF s (CLK_REF_STAT_STATE r) = st) (h1 : 1 ≤ st) (h4 : st ≤ 4)
  (hq : refQl s r ≠ 15)
include h

theorem evalRef_offset : getF (evalRef r (some x) s) (CLK_REF_FREQ_OFFSET r) = ofS 32 (refOffset s x) := by
  have hd := driftedRef_writes r (refOffset s x) (movedRef r (inWindow s r x) s (seenRef r x s))
  rw [evalRef_some h.present, hd.regs _ (driftFields_apart r h.lt _ (by simp))]
  have hm : getF (movedRef r (inWindow s r x) s (seenRef r x s)) (CLK_REF_FREQ_OFFSET r)
      = getF (seenRef r x s) (CLK_REF_FREQ_OFFSET r) := by
    obtain he | ⟨k, he⟩ := movedRef_cases r (inWindow s r x) s (seenRef r x s)
    · rw [he]
    · rw [he, (setRef_writes (l := [CLK_REF_STAT_STATE r]) List.mem_cons_self k _).regs _ (offset_apart r h.lt)]
  rw [hm]
  exact (getF_putF_self _ _ s).trans (ofS_mod 32 _)

theorem evalRef_inWin : r ∈ (evalRef r (some x) s).clk.inWin ↔ inWindow s r x = true := by
  rw [evalRef_some h.present, driftedRef_inWin, movedRef_clk]
  exact mem_windowAfter _ _

include hst h1 h4 hq

theorem evalRef_state : getF (evalRef r (some x) s) (CLK_REF_STAT_STATE r)
    = refStateAfter st (getF s (CLK_REF_TIME_WTR r)) (getF s (CLK_REF_TIME_DQ r)) (inWindow s r x) := by
  have hd := driftedRef_writes r (refOffset s x) (movedRef r (inWindow s r x) s (seenRef r x s))
  have hk := key_ne_of_apart (offset_apart r h.lt) List.mem_cons_self
  have hu : getF (seenRef r x s) (CLK_REF_STAT_STATE r) = st := (getF_putF_ne _ s hk.symm).trans hst
  rw [evalRef_some h.present, hd.regs _ (driftFields_apart r h.lt _ (by simp)), movedRef_eq hst hu h1 h4 hq]
  exact getF_setRef h.lt (refStateAfter_bounds h1 h4 _ _ _).2 _

end

/-! ### The evaluation of all references (R240 to R244) -/

theorem evalRefs_cons (hk : k < 8) (y : Option Int) (l : List (Option Int)) (s : State) :
    evalRefs k (y :: l) s = evalRefs (k + 1) l (evalRef k y s) := if_pos hk

theorem evalRefs_end (hk : ¬ k < 8) (l : List (Option Int)) (s : State) : evalRefs k l s = s := by
  cases l with
  | nil => rfl
  | cons y l => exact if_neg hk

theorem evalRefs_writes (k : Nat) (l : List (Option Int)) (s : State) : Writes chainFields s (evalRefs k l s) := by
  induction l generalizing k s with
  | nil => exact .refl _ s
  | cons y l ih =>
    by_cases hk : k < 8
    · rw [evalRefs_cons hk]
      exact ((evalRef_writes k y s).mono (evalFields_subset hk)).trans (ih _ _)
    · rw [evalRefs_end hk]
      exact .refl _ s

/-- Evaluating later references leaves one as it is. -/
theorem evalRefs_keepsRef (hr : r < 8) (hk : r < k) (l : List (Option Int)) (s : State) : KeepsRef r s (evalRefs k l s) := by
  induction l generalizing k s with
  | nil => exact .refl r s
  | cons y l ih =>
    by_cases h8 : k < 8
    · rw [evalRefs_cons h8]
      exact (evalRef_keepsRef hr h8 (by omega) y s).trans (ih (by omega) _)
    · rw [evalRefs_end h8]
      exact .refl r s

/-- A reference with an offset is evaluated once, in its turn. -/
theorem evalRefs_at {l : List (Option Int)} {x : Int} (hr : r < 8) (hk : k ≤ r) (hl : l[r - k]? = some (some x)) (s : State) :
    ∃ v, KeepsRef r s v ∧ KeepsRef r (evalRef r (some x) v) (evalRefs k l s) := by
  induction l generalizing k s with
  | nil => simp at hl
  | cons y l ih =>
    rw [evalRefs_cons (by omega)]
    obtain rfl | hlt := Nat.eq_or_lt_of_le hk
    · rw [Nat.sub_self, List.getElem?_cons_zero] at hl
      rw [Option.some.inj hl]
      exact ⟨s, .refl _ s, evalRefs_keepsRef hr (Nat.lt_succ_self _) l _⟩
    · obtain ⟨v, hv, hve⟩ := ih hlt (by rw [← hl, show r - k = r - (k + 1) + 1 by omega, List.getElem?_cons_succ]) (evalRef k y s)
      exact ⟨v, (evalRef_keepsRef hr (by omega) (by omega) y s).trans hv, hve⟩

theorem KeepsRef.refOffset (h : KeepsRef r s t) (hr : r < 8) (x : Int) : refOffset t x = Machine.refOffset s x := by
  unfold Machine.refOffset
  rw [h.toWrites.setting hr (by simp [settingFields])]

theorem KeepsRef.inWindow (h : KeepsRef r s t) (hr : r < 8) (x : Int) : inWindow t r x = Machine.inWindow s r x := by
  unfold Machine.inWindow
  rw [h.refOffset hr, h.toWrites.setting hr (r := r) (by simp [settingFields])]

theorem refEvalTick_effect {l : List (Option Int)} {x : Int} {st : Nat} (h : Enabled s r) (hq : refQl s r ≠ 15)
    (hl : l[r]? = some (some x)) (hst : getF s (CLK_REF_STAT_STATE r) = st) (h1 : 1 ≤ st) (h4 : st ≤ 4) :
    ∃ t, exec (.refEvalTick l) s = .next t
      ∧ getF t (CLK_REF_FREQ_OFFSET r) = ofS 32 (refOffset s x) ∧ (r ∈ t.clk.inWin ↔ inWindow s r x = true)
      ∧ getF t (CLK_REF_STAT_QL_EFF r) = refQl s r % 16
      ∧ getF t (CLK_REF_STAT_STATE r)
        = refStateAfter st (getF s (CLK_REF_TIME_WTR r)) (getF s (CLK_REF_TIME_DQ r)) (inWindow s r x) := by
  have hs : Standing s r := ⟨h, by omega, fun e => absurd e hq⟩
  obtain ⟨v, huv, hvz⟩ := evalRefs_at (k := 0) h.lt (Nat.zero_le r) hl (refreshClk s)
  have hv : KeepsRef r s v := (refreshClk_keepsRef hs).trans huv
  have hvs : Standing v r := hv.standing hs
  have hqv : refQl v r = refQl s r := hv.toWrites.refQl h.lt
  have hstate : getF (evalRef r (some x) v) (CLK_REF_STAT_STATE r)
      = refStateAfter st (getF s (CLK_REF_TIME_WTR r)) (getF s (CLK_REF_TIME_DQ r)) (inWindow s r x) := by
    rw [evalRef_state hvs (hv.state.trans hst) h1 h4 (hqv ▸ hq), hv.toWrites.setting h.lt (f := CLK_REF_TIME_WTR r)
      (by simp [settingFields]), hv.toWrites.setting h.lt (f := CLK_REF_TIME_DQ r) (by simp [settingFields]), hv.inWindow h.lt]
  have hsz : Writes chainFields s (evalRefs 0 l (refreshClk s)) := (refreshClk_writes s).trans (evalRefs_writes 0 l _)
  have hz : Standing (evalRefs 0 l (refreshClk s)) r := by
    refine h.standing hsz ?_ fun e => absurd e hq
    rw [hvz.state, hstate]
    have := (refStateAfter_bounds h1 h4 (getF s (CLK_REF_TIME_WTR r)) (getF s (CLK_REF_TIME_DQ r)) (inWindow s r x)).1
    omega
  have ht := hvz.trans (refreshClk_keepsRef hz)
  refine ⟨_, rfl, ?_, ?_, ?_, ht.state.trans hstate⟩
  · rw [ht.offset, evalRef_offset hvs, hv.refOffset h.lt]
  · rw [ht.inWin, evalRef_inWin hvs, hv.inWindow h.lt]
  · rw [refreshClk_level hz, hsz.refQl h.lt]

/-! ### Absence and the timers (R241, R242) -/

theorem setIf_clk (f : Fld) (b : Bool) (s : State) : (setIf f b s).clk = s.clk := by rw [setIf_regs]

/-- A reference out of the window, with the alarm of a lost pulse input. -/
def absentRef (r : Nat) (pps : Bool) (s : State) : State :=
  setIf CLK_ALARM_PPS_LOST (r == 6 && pps) { s with clk := { s.clk with inWin := s.clk.inWin.filter (· != r) } }

theorem absentRef_writes (r : Nat) (pps : Bool) (s : State) : Writes chainFields s (absentRef r pps s) :=
  ((Writes.refl _ s).withClk _).setIf (by simp [chainFields]) _

theorem exec_refAbsence {pps : Bool} (hr : r < 8) (h : getF s (CLK_REF_STAT_STATE r) ≠ 0) :
    exec (.refAbsence r pps) s = .next (refreshClk (setRef r 1 (absentRef r pps s))) := if_pos (by simp [hr, h])

theorem refAbsence_effect {pps : Bool} (he : Enabled s r) (h : getF s (CLK_REF_STAT_STATE r) ≠ 0) :
    ∃ t, exec (.refAbsence r pps) s = .next t ∧ getF t (CLK_REF_STAT_STATE r) = 1 ∧ r ∉ t.clk.inWin
      ∧ (r = 6 → pps = true → getF t CLK_ALARM_PPS_LOST = 1) := by
  refine ⟨_, exec_refAbsence he.lt h,
    refreshClk_setRef (he.moved (absentRef_writes r pps s)) (by decide) (by decide) fun _ => rfl, ?window, fun hr hp => ?alarm⟩
  case window =>
    rw [refreshClk_inWin, setRef_clk, absentRef, setIf_clk]
    simp
  case alarm =>
    rw [(refreshClk_clockOnly _).regs _ (by decide), (setRef_clockOnly he.lt 1 _).regs _ (by decide), absentRef, hr, hp]
    exact getF_putF_self CLK_ALARM_PPS_LOST 1 _

theorem refWtrExpiry_effect (he : Enabled s r) (hq : refQl s r ≠ 15) (hs : getF s (CLK_REF_STAT_STATE r) = 2)
    (hw : r ∈ s.clk.inWin) : ∃ t, exec (.refWtrExpiry r) s = .next t ∧ getF t (CLK_REF_STAT_STATE r) = 3 :=
  ⟨_, if_pos (by simp [he.lt, hs, hw]), refreshClk_setRef he (by decide) (by decide) fun e => absurd e hq⟩

theorem refDqExpiry_effect (he : Enabled s r) (hq : refQl s r ≠ 15) (hs : getF s (CLK_REF_STAT_STATE r) = 4) :
    ∃ t, exec (.refDqExpiry r) s = .next t ∧ getF t (CLK_REF_STAT_STATE r) = 2 :=
  ⟨_, if_pos (by simp [he.lt, hs]), refreshClk_setRef he (by decide) (by decide) fun e => absurd e hq⟩

end

end Sys2Proof.Machine

/-! ## Phase events and the build-out (R236, R245 to R248, R250) -/

namespace Sys2Proof.Machine

section
variable {s t u : State} {r : Nat} {d e : Int}

/-- The raw difference of an input's event and its grid point, less the reference's own offset (R236). -/
def inputError (s : State) (r : Nat) (d : Int) : Int :=
  d * bUnit - toS 12 (getF s (CLK_REF_DIVM_REF_OFS r)) * ((16000000000 * 28224000 / (24576 * clkBase s) : Nat) : Int)

theorem exec_refPhaseEvent (hf : following s = true) (hs : getF s CLK_STAT_SELECTED = r) (h1 : 1 ≤ r) (h6 : r ≤ 6) :
    exec (.refPhaseEvent r d) s = .next (phaseEvent r (inputError s r d) s) := by
  refine (if_pos (by simp [hf, hs]; omega)).trans ?_
  rw [if_neg (by omega), if_neg (by omega)]
  rfl

/-- An error added to the sum that is averaged. -/
def averaging (e : Int) (s : State) : State := { s with clk := { s.clk with
  avgSum := s.clk.avgSum + e
  avgN := s.clk.avgN + 1 } }

/-- While a switch is averaged an event only adds its error to the sum (R245). -/
theorem phaseEvent_switching (h : flag s CLK_STAT_SWITCHING = true) :
    phaseEvent r e s = averaging (reduceErr (refPeriod s r) e) (wrap CLK_PHASE_ERR_SEQ 1 s) := by
  unfold phaseEvent
  exact if_pos h

theorem bleed_writes (p : Int) (s : State) : Writes chainFields s (bleed s p) := by
  unfold bleed
  split
  · exact ((Writes.refl _ s).withClk _).putF (by simp [chainFields]) _
  · exact .refl _ s

theorem takeFree_writes (l : List Fld) (s : State) : Writes l s (takeFree s).2 := ⟨rfl, fun _ _ => rfl⟩

theorem phaseEvent_writes (r : Nat) (e : Int) (s : State) : Writes chainFields s (phaseEvent r e s) := by
  have h0 : Writes chainFields s (wrap CLK_PHASE_ERR_SEQ 1 s) := (Writes.refl _ s).putF (by simp [chainFields]) _
  unfold phaseEvent
  extract_lets p e' s0 c s1 err s2 f
  have h2 : Writes chainFields s s2 := (h0.trans (bleed_writes p s0)).putF (by simp [chainFields]) _
  split
  · exact h0.withClk _
  · split
    · exact h2
    · exact (h2.trans (takeFree_writes _ s2)).trans (setFreq_steered _ _).chain

/-! ### The end of a switch (R245 to R247) -/

/-- A state whose build-out is `b` and which goes to no other reference. -/
def withBuild (b : Int) (s : State) : State := { s with clk := { s.clk with
  target := none
  build := b } }

/-- What the end of the averaging writes. -/
def switchFields (b : Int) (keep : Bool) : List (Fld × Nat) :=
  [(CLK_STAT_SWITCHING, 0), (CLK_BUILDOUT_B, ofS 32 (divRne b 28224000)), (CLK_ALARM_SWITCH, 1), (CLK_PHASE_ERR_ERR, 0),
    (CLK_STAT_BLEEDING, b2n (!keep && b != 0))]

/-- The state once the averaging has ended, before the chain is settled. -/
def switched (b : Int) (s : State) : State := putFs (switchFields b (flag s CLK_DPLL_CTL_KEEP)) (withBuild b s)

/-- The keys of these fields. -/
def switchKeys : List Nat :=
  [CLK_STAT_SWITCHING.key, CLK_BUILDOUT_B.key, CLK_ALARM_SWITCH.key, CLK_PHASE_ERR_ERR.key, CLK_STAT_BLEEDING.key]

theorem switched_onlyFields (b : Int) (s : State) :
    OnlyFields (withBuild b s) (switched b s) (switchFields b (flag s CLK_DPLL_CTL_KEEP)) :=
  .putFs (show switchKeys.Nodup by decide)

theorem switched_kept (b : Int) (s : State) {f : Fld} (h : f.key ∉ switchKeys) : getF (switched b s) f = getF s f :=
  (switched_onlyFields b s).getF_of_notMem h

theorem refState_switchKeys : ∀ r < 8, (CLK_REF_STAT_STATE r).key ∉ switchKeys := by decide

theorem switched_writes (b : Int) (s : State) : Writes chainFields s (switched b s) :=
  ((Writes.refl _ s).withClk _).putFs (by simp [switchFields, chainFields, dpllFields])

/-- The average less the user offset (R246). -/
def averagedBuild (s : State) : Int := divRne s.clk.avgSum s.clk.avgN - userErr s s.clk.user

theorem exec_switchAveragingDone (hr : r = getF s CLK_STAT_SELECTED) (hs : flag s CLK_STAT_SWITCHING = true)
    (h2 : 2 ≤ getF s (CLK_REF_STAT_STATE r)) (h1 : 1 ≤ r) (hn : s.clk.avgN ≠ 0) :
    exec .switchAveragingDone s = .next (refreshClk (switched (averagedBuild s) s)) := by
  subst hr
  refine (if_pos hs).trans ?_
  dsimp only
  have h0 : getF s CLK_STAT_SELECTED ≠ 0 := by omega
  rw [if_neg (by omega), if_neg hn, if_neg h0, beq_false_of_ne h0]
  rfl

theorem following_congr (h : getF t CLK_STAT_STATE = getF s CLK_STAT_STATE) : following t = following s := by
  unfold following
  rw [h]

/-- With the forced reference in use a selection changes nothing (R244). -/
theorem selectRef_forced (hs : flag s CLK_STAT_SWITCHING = false) (hm : getF s CLK_SEL_SEL_MODE = 1)
    (hc : isCandidate s (getF s CLK_SEL_FORCE_REF) = true) (hf : following s = true)
    (he : getF s CLK_STAT_SELECTED = getF s CLK_SEL_FORCE_REF) : selectRef s = s := by
  unfold selectRef
  rw [if_neg (by simp [hs]), hm]
  exact (if_pos hc).trans (if_pos (by simp [hf, he]))

/-- What judging the references writes. -/
def judgedFields : List Fld := (List.range 8).flatMap judgeFields

theorem judgeRefs_judged (s : State) : Writes judgedFields s (judgeRefs s) :=
  .foldl (fun r hr t => (judgeRef_writes r t).mono fun _ h => List.mem_flatMap.2 ⟨r, hr, h⟩) s

/-- The chain settled anew with the forced reference in use. -/
theorem refreshClk_forced (h : Standing s r) (hc : 3 ≤ getF s (CLK_REF_STAT_STATE r)) (hs : flag s CLK_STAT_SWITCHING = false)
    (hm : getF s CLK_SEL_SEL_MODE = 1) (hf : getF s CLK_SEL_FORCE_REF = r) (hw : following s = true)
    (he : getF s CLK_STAT_SELECTED = r) : refreshClk s = putF CLK_STAT_QL_OUT (qlOut (judgeRefs s)) (judgeRefs s) := by
  have hj := judgeRefs_judged s
  have hforce : getF (judgeRefs s) CLK_SEL_FORCE_REF = r := by rw [hj.regs CLK_SEL_FORCE_REF (by decide), hf]
  rw [refreshClk_eq, selectRef_forced]
  · rw [hj.flag (f := CLK_STAT_SWITCHING) (by decide), hs]
  · rw [hj.regs CLK_SEL_SEL_MODE (by decide), hm]
  · rw [hforce, isCandidate, (judgeRefs_keepsRef h).state]
    exact decide_eq_true hc
  · rw [following_congr (hj.regs CLK_STAT_STATE (by decide)), hw]
  · rw [hforce, hj.regs CLK_STAT_SELECTED (by decide), he]

section
variable (hr : r = getF s CLK_STAT_SELECTED) (hs : flag s CLK_STAT_SWITCHING = true) (h2 : 2 ≤ getF s (CLK_REF_STAT_STATE r))
  (h1 : 1 ≤ r) (h8 : r < 8) (hn : s.clk.avgN ≠ 0)
include hr hs h2 h1 hn

theorem switchAveragingDone_effect : ∃ t, exec .switchAveragingDone s = .next t ∧ t = refreshClk (switched (averagedBuild s) s)
    ∧ t.clk.build = averagedBuild s ∧ getF t CLK_BUILDOUT_B = ofS 32 (divRne (averagedBuild s) 28224000)
    ∧ getF t CLK_ALARM_SWITCH = 1 := by
  have ho := switched_onlyFields (averagedBuild s) s
  have hc := refreshClk_clockOnly (switched (averagedBuild s) s)
  have hclk : (switched (averagedBuild s) s).clk = (withBuild (averagedBuild s) s).clk := putFs_clk _ _
  refine ⟨_, exec_switchAveragingDone hr hs h2 h1 hn, rfl, ?build, ?shown, ?alarm⟩
  case build =>
    rw [refreshClk_build, hclk]
    rfl
  case shown =>
    rw [hc.regs CLK_BUILDOUT_B (by decide), ho.written (CLK_BUILDOUT_B, ofS 32 (divRne (averagedBuild s) 28224000))
      (List.mem_of_getElem? (i := 1) rfl)]
    exact ofS_mod 32 _
  case alarm =>
    rw [hc.regs CLK_ALARM_SWITCH (by decide), ho.written (CLK_ALARM_SWITCH, 1) (List.mem_of_getElem? (i := 2) rfl)]
    rfl

end

/-- With the reference forced and still qualified the loop closes on it, and B bleeds unless KEEP is set (R247). -/
theorem switched_forced {b : Int} (he : Enabled s r) (hr : r = getF s CLK_STAT_SELECTED) (hm : getF s CLK_SEL_SEL_MODE = 1)
    (hf : getF s CLK_SEL_FORCE_REF = r) (hw : following s = true) (hq : refQl s r ≠ 15) (h3 : 3 ≤ getF s (CLK_REF_STAT_STATE r)) :
    getF (refreshClk (switched b s)) CLK_STAT_SWITCHING = 0
    ∧ getF (refreshClk (switched b s)) CLK_STAT_BLEEDING = if flag s CLK_DPLL_CTL_KEEP = false ∧ b ≠ 0 then 1 else 0 := by
  have hst : getF (switched b s) (CLK_REF_STAT_STATE r) = getF s (CLK_REF_STAT_STATE r) :=
    switched_kept b s (refState_switchKeys r he.lt)
  have hstand : Standing (switched b s) r := he.standing (switched_writes b s) (by omega) fun e => absurd e hq
  have hsw : getF (switched b s) CLK_STAT_SWITCHING = 0 := (switched_onlyFields b s).written (CLK_STAT_SWITCHING, 0) List.mem_cons_self
  have hbl : getF (switched b s) CLK_STAT_BLEEDING = b2n (!flag s CLK_DPLL_CTL_KEEP && b != 0) % 2 ^ 1 :=
    (switched_onlyFields b s).written (CLK_STAT_BLEEDING, _) (List.mem_of_getElem? (i := 4) rfl)
  have hj := judgeRefs_judged (switched b s)
  rw [refreshClk_forced hstand (hst.symm ▸ h3) (by rw [flag, hsw]; rfl) (by rw [switched_kept b s (by decide), hm])
    (by rw [switched_kept b s (by decide), hf])
    (by rw [following_congr (switched_kept b s (by decide)), hw])
    (by rw [switched_kept b s (by decide), hr]),
    getF_putF_ne _ _ (show CLK_STAT_SWITCHING.key ≠ CLK_STAT_QL_OUT.key by decide),
    getF_putF_ne _ _ (show CLK_STAT_BLEEDING.key ≠ CLK_STAT_QL_OUT.key by decide),
    hj.regs CLK_STAT_SWITCHING (by decide), hj.regs CLK_STAT_BLEEDING (by decide)]
  refine ⟨hsw, hbl.trans ?_⟩
  cases hk : flag s CLK_DPLL_CTL_KEEP
  · by_cases hb : b = 0 <;> simp [hb, b2n]
  · simp [b2n]

theorem exec_buildOutBleedDone (h : flag s CLK_STAT_BLEEDING = true) : exec .buildOutBleedDone s
    = .next (putFs [(CLK_STAT_BLEEDING, 0), (CLK_BUILDOUT_B, 0)] { s with clk := { s.clk with build := 0 } }) := if_pos h

/-! ### What no event of the chain reaches -/

/-- The chain's fields lie in the CLK_ registers below CLK_SYN_CTL, or hold the divider ratio. -/
theorem chainFields_keys : ∀ f ∈ chainFields, (0x200C0000 * 32 ≤ f.key ∧ f.key < 0x200C0200 * 32)
    ∨ f.key / 32 = CLK_SYN_NINT_NINT.addr ∨ f.key / 32 = CLK_SYN_NFRAC_NFRAC.addr := by decide

/-- A field with a given key and reset value. -/
def fldAt (k d : Nat) : Fld := ⟨k / 32, k % 32, 0, d, .ro, .por⟩

theorem fldAt_key (k d : Nat) : (fldAt k d).key = k := Nat.div_add_mod' k 32

theorem Writes.beside (h : Writes chainFields s t) {k : Nat} (d : Nat) (hk : k < 0x200C0000 * 32 ∨ 0x200C0200 * 32 ≤ k)
    (hi : k / 32 ≠ CLK_SYN_NINT_NINT.addr) (hf : k / 32 ≠ CLK_SYN_NFRAC_NFRAC.addr) (ht : tellKey k = false) :
    t.regs.get k d = s.regs.get k d := by
  have hg := h.regs (fldAt k d) (apart_of (by rw [fldAt_key, ht]) fun g hg e => by
    rw [fldAt_key] at e
    subst e
    have := chainFields_keys g hg
    omega)
  unfold getF at hg
  rwa [fldAt_key] at hg

/-- An outcome that moves only the clock chain. -/
def Chained (s : State) (o : Host.Outcome State Fault Refusal) : Prop := ∃ t, o = .next t ∧ Writes chainFields s t

theorem Chained.next (h : Writes chainFields s t) : Chained s (.next t) := ⟨t, rfl, h⟩

theorem Chained.ite {p : Prop} [Decidable p] (h : Writes chainFields s t) : Chained s (if p then .next t else .next s) := by
  split
  · exact .next h
  · exact .next (.refl _ s)

theorem exec_openTimeout (h : flag s CLK_STAT_STEER = true) :
    exec .openTimeout s = .next (putF CLK_STAT_STEER 0 (putF CLK_ALARM_OPEN_TMO 1 s)) := by
  have hs : flag (putF CLK_ALARM_OPEN_TMO 1 s) CLK_STAT_STEER = true := (flag_putF_ne 1 s (by decide)).trans h
  have he : setSteer false (putF CLK_ALARM_OPEN_TMO 1 s) = putF CLK_STAT_STEER 0 (putF CLK_ALARM_OPEN_TMO 1 s) := by
    unfold setSteer
    rw [if_neg (by simp), if_pos (by simp [hs])]
  rw [← he]
  exact if_pos h

theorem openTimeout_chained (s : State) : Chained s (exec .openTimeout s) := by
  by_cases h : flag s CLK_STAT_STEER = true
  · rw [exec_openTimeout h]
    exact .next (((Writes.refl _ s).putF (by simp [chainFields]) 1).putF (by simp [chainFields, dpllFields]) 0)
  · exact ⟨s, if_neg h, .refl _ s⟩

theorem setRef_chain (hr : r < 8) (st : Nat) (s : State) : Writes chainFields s (setRef r st s) :=
  setRef_writes (refFields_subset hr (by simp [refFields])) st s

theorem refAbsence_chained (r : Nat) (pps : Bool) (s : State) : Chained s (exec (.refAbsence r pps) s) := by
  by_cases h : r < 8 ∧ getF s (CLK_REF_STAT_STATE r) ≠ 0
  · rw [exec_refAbsence h.1 h.2]
    exact .next (((absentRef_writes r pps s).trans (setRef_chain h.1 1 _)).trans (refreshClk_writes _))
  · exact ⟨s, if_neg (by simpa using h), .refl _ s⟩

theorem refWtrExpiry_chained (r : Nat) (s : State) : Chained s (exec (.refWtrExpiry r) s) := by
  by_cases h : r < 8
  · exact .ite ((setRef_chain h 3 s).trans (refreshClk_writes _))
  · exact ⟨s, if_neg (by simp [h]), .refl _ s⟩

theorem refDqExpiry_chained (r : Nat) (s : State) : Chained s (exec (.refDqExpiry r) s) := by
  by_cases h : r < 8
  · exact .ite ((setRef_chain h 2 s).trans (refreshClk_writes _))
  · exact ⟨s, if_neg (by simp [h]), .refl _ s⟩

theorem refPhaseEvent_chained (r : Nat) (d : Int) (s : State) : Chained s (exec (.refPhaseEvent r d) s) :=
  .ite (phaseEvent_writes r _ s)

theorem switchAveragingDone_chained (s : State) : Chained s (exec .switchAveragingDone s) := by
  by_cases h : flag s CLK_STAT_SWITCHING = true
  · have hs : exec .switchAveragingDone s = _ := if_pos h
    rw [hs]
    dsimp only
    have hw : Writes chainFields s (putF CLK_STAT_SWITCHING 0 { s with clk := { s.clk with target := none } }) :=
      ((Writes.refl _ s).withClk _).putF (by simp [chainFields, dpllFields]) 0
    split
    · exact .next ((hw.trans (loseRefs_steered _).chain).trans (refreshClk_writes _))
    · exact .next (((hw.withClk _).putFs (by simp [chainFields, dpllFields])).trans (refreshClk_writes _))
  · exact ⟨s, if_neg h, .refl _ s⟩

theorem buildOutBleedDone_chained (s : State) : Chained s (exec .buildOutBleedDone s) :=
  .ite (((Writes.refl _ s).withClk _).putFs (by simp [chainFields, dpllFields]))

theorem holdoverHistoryTick_chained (s : State) : Chained s (exec .holdoverHistoryTick s) :=
  .ite (((Writes.refl _ s).withClk _).setIf (by simp [chainFields]) _)

/-- The clock chain's own events. -/
def chainEvent (c : Instr) : Prop :=
  (∃ l, c = Instr.refEvalTick l) ∨ (∃ r p, c = .refAbsence r p) ∨ (∃ r, c = .refWtrExpiry r) ∨ (∃ r, c = .refDqExpiry r)
    ∨ (∃ r d, c = .refPhaseEvent r d) ∨ c = .switchAveragingDone ∨ c = .buildOutBleedDone ∨ c = .dpllLockDetect ∨ c = .dpllUnlockDetect
    ∨ c = .holdoverHistoryTick ∨ c = .openTimeout

theorem chainEvent_chained {c : Instr} (h : chainEvent c) (s : State) : Chained s (exec c s) := by
  obtain ⟨l, rfl⟩ | ⟨r, p, rfl⟩ | ⟨r, rfl⟩ | ⟨r, rfl⟩ | ⟨r, d, rfl⟩ | rfl | rfl | rfl | rfl | rfl | rfl := h
  · exact .next (((refreshClk_writes s).trans (evalRefs_writes 0 l _)).trans (refreshClk_writes _))
  · exact refAbsence_chained r p s
  · exact refWtrExpiry_chained r s
  · exact refDqExpiry_chained r s
  · exact refPhaseEvent_chained r d s
  · exact switchAveragingDone_chained s
  · exact buildOutBleedDone_chained s
  · exact .ite (setDpll_steered 2 s).chain
  · exact .ite (setDpll_steered 1 s).chain
  · exact holdoverHistoryTick_chained s
  · exact openTimeout_chained s

end

/-! ### The obligation -/

/-- Settles O41: settling the chain anew leaves a reference that stands as it is (`refreshClk_keepsRef`), so an evaluation shows what
the reference's own turn gives (`evalRefs_at`, `evalRef_state`), and absence and the timers show what they set (`refreshClk_setRef`);
a switch ends in the averaged build-out (`switchAveragingDone_effect`, `switched_forced`); and every event of the chain writes only
the chain's fields (`chainEvent_chained`). -/
theorem clockReferences : Obligations.ClockReferences := by
  refine ⟨fun l s r x st w hr hen hb hq hl hst h1 h4 hw => ?ticked, fun r pps s hr hen hb h => refAbsence_effect ⟨hr, hen, hb⟩ h,
    fun r s hr hen hb hq hs hw => refWtrExpiry_effect ⟨hr, hen, hb⟩ hq hs hw,
    fun r s hr hen hb hq hs => refDqExpiry_effect ⟨hr, hen, hb⟩ hq hs, fun r d s hf hs h1 h6 hw => ?phase,
    fun s r b hr hs h2 h1 h8 hn hb => ?switch, fun s h => ?bled, fun c s hc => ?chain⟩
  case ticked =>
    subst hw
    exact refEvalTick_effect ⟨hr, hen, hb⟩ hq hl hst.symm h1 h4
  case phase =>
    refine ⟨_, exec_refPhaseEvent hf hs h1 h6, ?_⟩
    rw [phaseEvent_switching hw]
    exact ⟨rfl, .putF s CLK_PHASE_ERR_SEQ _⟩
  case switch =>
    subst hb
    obtain ⟨t, he, rfl, hbuild, hshown, halarm⟩ := switchAveragingDone_effect hr hs h2 h1 hn
    exact ⟨_, he, hbuild, hshown, halarm, fun hm hf hw hen hbr hq h3 => switched_forced ⟨h8, hen, hbr⟩ hr hm hf hw hq h3⟩
  case bled =>
    have hb : OnlyFields s (putFs [(CLK_STAT_BLEEDING, 0), (CLK_BUILDOUT_B, 0)] s) [(CLK_STAT_BLEEDING, 0), (CLK_BUILDOUT_B, 0)] :=
      .putF_then s 0 0 (by decide)
    exact ⟨_, exec_buildOutBleedDone h, rfl, hb⟩
  case chain =>
    obtain ⟨t, ht, hw⟩ := chainEvent_chained hc s
    exact ⟨t, ht, hw.rest, fun k d => hw.beside d⟩

end Sys2Proof.Machine

/-! ## The DPLL: the closed loop, lock, history and the open mode (R248 to R252) -/

namespace Sys2Proof.Machine

section
variable {s t : State} {r : Nat} {d e : Int}

/-! ### A compared event (R248, R250) -/

theorem bleed_off (p : Int) (h : flag s CLK_STAT_BLEEDING = false) : bleed s p = s := if_neg (by simp [h])

/-- The phase error less the build-out and the user offset, in the units that CLK_PHASE_ERR shows. -/
def shownError (s : State) (r : Nat) (e : Int) : Nat :=
  ofS 28 (divRne (reduceErr (refPeriod s r) e - s.clk.build - userErr s s.clk.user) 28224000)

/-- The state once an event's phase error is shown. -/
def phaseShown (r : Nat) (e : Int) (s : State) : State := putF CLK_PHASE_ERR_ERR (shownError s r e) (wrap CLK_PHASE_ERR_SEQ 1 s)

/-- The loop's next offset: a free value within the bounds of R250. -/
def loopStep (s : State) : State :=
  setFreq (clampFreq (takeFree s).2 (toS 32 (Config.freeWord (takeFree s).1).toNat)) (takeFree s).2

theorem phaseEvent_compared (hs : flag s CLK_STAT_SWITCHING = false) (hb : flag s CLK_STAT_BLEEDING = false) :
    phaseEvent r e s = if flag s CLK_STAT_STEER then phaseShown r e s else loopStep (phaseShown r e s) := by
  have hb0 : flag (wrap CLK_PHASE_ERR_SEQ 1 s) CLK_STAT_BLEEDING = false := (flag_putF_ne _ s (by decide)).trans hb
  have hu : userErr (wrap CLK_PHASE_ERR_SEQ 1 s) s.clk.user = userErr s s.clk.user := by
    unfold userErr
    rw [wrap, getF_putF_ne _ s (show CLK_SEL_FAMILY.key ≠ CLK_PHASE_ERR_SEQ.key by decide)]
  have ht : flag (phaseShown r e s) CLK_STAT_STEER = flag s CLK_STAT_STEER :=
    (flag_putF_ne _ _ (by decide)).trans (flag_putF_ne _ s (by decide))
  have hp : putF CLK_PHASE_ERR_ERR (ofS 28 (divRne (reduceErr (refPeriod s r) e - (wrap CLK_PHASE_ERR_SEQ 1 s).clk.build
      - userErr (wrap CLK_PHASE_ERR_SEQ 1 s) (wrap CLK_PHASE_ERR_SEQ 1 s).clk.user) 28224000)) (wrap CLK_PHASE_ERR_SEQ 1 s)
      = phaseShown r e s := by
    rw [wrap_clk, hu]
    rfl
  unfold phaseEvent
  dsimp only
  rw [if_neg (by rw [hs]; decide), bleed_off _ hb0, hp, ht]
  rfl

theorem getF_phaseShown_err (r : Nat) (e : Int) (s : State) : getF (phaseShown r e s) CLK_PHASE_ERR_ERR = shownError s r e :=
  (getF_putF_self _ _ _).trans (ofS_mod 28 _)

theorem getF_phaseShown_seq (r : Nat) (e : Int) (s : State) :
    getF (phaseShown r e s) CLK_PHASE_ERR_SEQ = (getF s CLK_PHASE_ERR_SEQ + 1) % 16 :=
  (getF_putF_ne _ _ (by decide)).trans (getF_putF_self CLK_PHASE_ERR_SEQ _ s)

theorem setRatioRegs_clk (s : State) : (setRatioRegs s).clk = s.clk := by
  unfold setRatioRegs
  extract_lets nom num n
  split
  · exact putFs_clk _ s
  · exact putFs_clk _ s

theorem setFreq_clk (f : Int) (s : State) : (setFreq f s).clk = { s.clk with
    freq := f
    secSum := s.clk.secSum + f
    secN := s.clk.secN + 1 } := setRatioRegs_clk _

theorem loopStep_writes (s : State) : Writes dpllFields s (loopStep s) := (takeFree_writes _ s).trans (setFreq_steered _ _).toWrites

/-- The bound of an offset while the loop follows a reference (R250). -/
theorem clampFreq_bounds (hf : following s = true) (f : Int) : (clampFreq s f).natAbs ≤ 219902325
    ∧ ((clampFreq s f).natAbs : Int) ≤ ppb40 (getF s (CLK_REF_CFG_WIN (getF s CLK_STAT_SELECTED))) := by
  have hst : getF s CLK_STAT_STATE = 1 ∨ getF s CLK_STAT_STATE = 2 := by simpa [following] using hf
  have hw : 0 ≤ ppb40 (getF s (CLK_REF_CFG_WIN (getF s CLK_STAT_SELECTED))) := by
    unfold ppb40
    positivity
  unfold clampFreq clampI
  dsimp only
  rw [if_pos hst]
  generalize ppb40 (getF s (CLK_REF_CFG_WIN (getF s CLK_STAT_SELECTED))) = w at hw ⊢
  split_ifs <;> omega

theorem phaseShown_writes (r : Nat) (e : Int) (s : State) :
    Writes [CLK_PHASE_ERR_ERR, CLK_PHASE_ERR_SEQ] s (phaseShown r e s) :=
  ((Writes.refl _ s).putF (f := CLK_PHASE_ERR_SEQ) (by simp) _).putF (by simp) _

theorem refWin_apart : ∀ r < 8, apart [CLK_PHASE_ERR_ERR, CLK_PHASE_ERR_SEQ] (CLK_REF_CFG_WIN r) = true := by decide

/-- One step of the loop takes a free value and keeps the build-out and the user offset. -/
theorem loopStep_clk (s : State) : (loopStep s).free = s.free + 1 ∧ (loopStep s).clk.build = s.clk.build
    ∧ (loopStep s).clk.user = s.clk.user := by
  unfold loopStep
  rw [setFreq_clk, (setFreq_clockOnly _ _).rest]
  exact ⟨rfl, rfl, rfl⟩

theorem loopStep_bounds (hf : following s = true) : (loopStep s).clk.freq.natAbs ≤ 219902325
    ∧ ((loopStep s).clk.freq.natAbs : Int) ≤ ppb40 (getF s (CLK_REF_CFG_WIN (getF s CLK_STAT_SELECTED))) := by
  unfold loopStep
  rw [setFreq_clk]
  exact clampFreq_bounds (s := (takeFree s).2) hf _

theorem refPhaseEvent_compared (hf : following s = true) (hs : getF s CLK_STAT_SELECTED = r) (h1 : 1 ≤ r) (h6 : r ≤ 6)
    (hw : flag s CLK_STAT_SWITCHING = false) (hb : flag s CLK_STAT_BLEEDING = false) :
    ∃ t, exec (.refPhaseEvent r d) s = .next t ∧ getF t CLK_PHASE_ERR_ERR = shownError s r (inputError s r d)
      ∧ getF t CLK_PHASE_ERR_SEQ = (getF s CLK_PHASE_ERR_SEQ + 1) % 16
      ∧ (flag s CLK_STAT_STEER = true → t.clk = s.clk ∧ t.free = s.free)
      ∧ (flag s CLK_STAT_STEER = false → t.free = s.free + 1 ∧ t.clk.freq.natAbs ≤ 219902325
        ∧ (t.clk.freq.natAbs : Int) ≤ ppb40 (getF s (CLK_REF_CFG_WIN r)) ∧ t.clk.build = s.clk.build ∧ t.clk.user = s.clk.user) := by
  have hp := phaseShown_writes r (inputError s r d) s
  refine ⟨_, exec_refPhaseEvent hf hs h1 h6, ?_⟩
  rw [phaseEvent_compared hw hb]
  cases hst : flag s CLK_STAT_STEER with
  | true => exact ⟨getF_phaseShown_err _ _ s, getF_phaseShown_seq _ _ s, fun _ => ⟨rfl, rfl⟩, fun h => absurd h (by decide)⟩
  | false =>
    have hl := loopStep_writes (phaseShown r (inputError s r d) s)
    obtain ⟨hfree, hbuild, huser⟩ := loopStep_clk (phaseShown r (inputError s r d) s)
    obtain ⟨h200, hwin⟩ := loopStep_bounds ((following_congr (hp.regs CLK_STAT_STATE (by decide))).trans hf)
    rw [hp.regs CLK_STAT_SELECTED (by decide), hs, hp.regs _ (refWin_apart r (by omega))] at hwin
    exact ⟨(hl.regs CLK_PHASE_ERR_ERR (by decide)).trans (getF_phaseShown_err _ _ s),
      (hl.regs CLK_PHASE_ERR_SEQ (by decide)).trans (getF_phaseShown_seq _ _ s), fun h => absurd h (by decide),
      fun _ => ⟨hfree, h200, hwin, hbuild, huser⟩⟩

theorem exec_refPhaseEvent_ignored (h : following s = false ∨ getF s CLK_STAT_SELECTED ≠ r) :
    exec (.refPhaseEvent r d) s = .next s := by
  refine if_neg ?_
  obtain h | h := h
  · simp [h]
  · simp [h]

/-! ### Lock and its loss (R239, R249) -/

theorem exec_dpllLockDetect (h : getF s CLK_STAT_STATE = 1) (hw : flag s CLK_STAT_SWITCHING = false)
    (he : (phaseErr s).natAbs ≤ 16 * getF s CLK_DPLL_CTL_LOCK_NS) : exec .dpllLockDetect s = .next (setDpll 2 s) :=
  if_pos (by simp [h, hw, he])

theorem exec_dpllUnlockDetect (h : getF s CLK_STAT_STATE = 2) (he : 64 * getF s CLK_DPLL_CTL_LOCK_NS < (phaseErr s).natAbs) :
    exec .dpllUnlockDetect s = .next (setDpll 1 s) := if_pos (by simp [h, he])

theorem exec_dpllUnlockDetect_within (he : (phaseErr s).natAbs ≤ 64 * getF s CLK_DPLL_CTL_LOCK_NS) :
    exec .dpllUnlockDetect s = .next s := if_neg (by simp [he])

theorem mem_levelFields {f : Fld} (h : f ∈ levelFields r) : f = CLK_REF_CFG_QL_HOST r ∨ f ∈ levelFields 7 := by
  by_cases hf : f = CLK_REF_CFG_QL_HOST r
  · exact .inl hf
  · refine .inr ?_
    simp only [levelFields, List.cons_append, List.mem_cons, hf, false_or] at h ⊢
    tauto

theorem levelFields_state : ∀ f ∈ levelFields 7, f.key ≠ CLK_STAT_STATE.key := by decide

/-- A reference's level does not depend on the DPLL's state. -/
theorem refQl_putF_state (v r : Nat) (s : State) : refQl (putF CLK_STAT_STATE v s) r = refQl s r := by
  refine refQl_congr rfl fun f hf => getF_putF_ne v s ?_
  obtain rfl | hf := mem_levelFields hf
  · exact Fld.key_ne_of_bit rfl
  · exact levelFields_state f hf

/-- A state whose loop has been LOCKED. -/
def everLocked (s : State) : State := { s with clk := { s.clk with ever := true } }

theorem qlOut_locked (s : State) : qlOut (everLocked (putF CLK_STAT_STATE 2 s))
    = if getF s CLK_STAT_SELECTED = 7 then 15 else refQl s (getF s CLK_STAT_SELECTED) := by
  have hst : getF (everLocked (putF CLK_STAT_STATE 2 s)) CLK_STAT_STATE = 2 := getF_putF_self CLK_STAT_STATE 2 s
  have hse : getF (everLocked (putF CLK_STAT_STATE 2 s)) CLK_STAT_SELECTED = getF s CLK_STAT_SELECTED :=
    getF_putF_ne (g := CLK_STAT_STATE) 2 s (by decide)
  have hq (r : Nat) : refQl (everLocked (putF CLK_STAT_STATE 2 s)) r = refQl s r := refQl_putF_state 2 r s
  unfold qlOut
  rw [hst, hse]
  dsimp only
  rw [hq]
  rfl

theorem setDpll_locked (h : getF s CLK_STAT_STATE ≠ 2) : Told (putF CLK_STAT_QL_OUT (if getF s CLK_STAT_SELECTED = 7 then 15
    else refQl s (getF s CLK_STAT_SELECTED)) (everLocked (putF CLK_STAT_STATE 2 s))) (setDpll 2 s) := by
  rw [setDpll_of_ne h _ rfl, ← qlOut_locked]
  exact clkEvent_told _ _

theorem setDpll_acquiring (h : getF s CLK_STAT_STATE ≠ 1) :
    Told (putF CLK_STAT_QL_OUT (qlOut (putF CLK_STAT_STATE 1 s)) (putF CLK_STAT_STATE 1 s)) (setDpll 1 s) := by
  rw [setDpll_of_ne h _ rfl]
  exact clkEvent_told _ _

theorem dpllLockDetect_effect (h : getF s CLK_STAT_STATE = 1) (hw : flag s CLK_STAT_SWITCHING = false)
    (he : (phaseErr s).natAbs ≤ 16 * getF s CLK_DPLL_CTL_LOCK_NS) :
    ∃ t, exec .dpllLockDetect s = .next t ∧ getF t CLK_STAT_STATE = 2 ∧ t.clk = { s.clk with ever := true }
      ∧ getF t CLK_STAT_QL_OUT = (if getF s CLK_STAT_SELECTED = 7 then 15 else refQl s (getF s CLK_STAT_SELECTED) % 16)
      ∧ getF t CLK_STAT_SELECTED = getF s CLK_STAT_SELECTED := by
  have ht := setDpll_locked (s := s) (by omega)
  refine ⟨_, exec_dpllLockDetect h hw he, ?state, by rw [ht.rest]; rfl, ?level, ?selected⟩
  case state =>
    rw [ht.getF _ (by decide), getF_putF_ne _ _ (by decide)]
    exact getF_putF_self CLK_STAT_STATE 2 s
  case level =>
    rw [ht.getF _ (by decide), getF_putF_self]
    split
    · rfl
    · rfl
  case selected =>
    rw [ht.getF _ (by decide), getF_putF_ne _ _ (by decide)]
    exact getF_putF_ne (g := CLK_STAT_STATE) 2 s (by decide)

theorem dpllUnlockDetect_effect (h : getF s CLK_STAT_STATE = 2) (he : 64 * getF s CLK_DPLL_CTL_LOCK_NS < (phaseErr s).natAbs) :
    ∃ t, exec .dpllUnlockDetect s = .next t ∧ getF t CLK_STAT_STATE = 1 ∧ t.clk = s.clk
      ∧ getF t CLK_STAT_SELECTED = getF s CLK_STAT_SELECTED := by
  have ht := setDpll_acquiring (s := s) (by omega)
  refine ⟨_, exec_dpllUnlockDetect h he, ?state, by rw [ht.rest]; rfl, ?selected⟩
  case state =>
    rw [ht.getF _ (by decide), getF_putF_ne _ _ (by decide)]
    exact getF_putF_self CLK_STAT_STATE 1 s
  case selected =>
    rw [ht.getF _ (by decide), getF_putF_ne _ _ (by decide)]
    exact getF_putF_ne 1 s (by decide)

/-! ### The holdover history (R251) -/

/-- The chain once a second's mean has entered the history. -/
def Clk.remembered (c : Clk) : Clk := { c with
  hist := (divRne c.secSum c.secN :: c.hist).take 32
  lockedSecs := c.lockedSecs + 1
  secSum := 0
  secN := 0 }

theorem exec_holdoverHistoryTick (h : getF s CLK_STAT_STATE = 2) (hw : flag s CLK_STAT_SWITCHING = false)
    (hb : flag s CLK_STAT_BLEEDING = false) (hn : s.clk.secN ≠ 0) : exec .holdoverHistoryTick s
      = .next (setIf CLK_STAT_HO_VALID (decide (10 ≤ s.clk.lockedSecs + 1)) { s with clk := s.clk.remembered }) := by
  refine (if_pos (by simp [h, hw])).trans ?_
  rw [if_neg hn, if_pos (by simp [hb])]
  rfl

theorem holdoverHistoryTick_effect (h : getF s CLK_STAT_STATE = 2) (hw : flag s CLK_STAT_SWITCHING = false)
    (hb : flag s CLK_STAT_BLEEDING = false) (hn : s.clk.secN ≠ 0) : ∃ t, exec .holdoverHistoryTick s = .next t
      ∧ t.clk = s.clk.remembered
      ∧ (9 ≤ s.clk.lockedSecs → OnlyFields s { t with clk := s.clk } [(CLK_STAT_HO_VALID, 1)])
      ∧ (s.clk.lockedSecs < 9 → { t with clk := s.clk } = s) := by
  refine ⟨_, exec_holdoverHistoryTick h hw hb hn, setIf_clk _ _ _, fun h9 => ?valid, fun h9 => ?early⟩
  case valid =>
    rw [decide_eq_true (by omega)]
    exact .putF s CLK_STAT_HO_VALID 1
  case early => rw [decide_eq_false (by omega)]; rfl

end

/-- The order of the listed fields says nothing. -/
theorem OnlyFields.perm {s t : State} {l m : List (Fld × Nat)} (h : OnlyFields s t l) (hp : l.Perm m) : OnlyFields s t m :=
  ⟨h.rest, fun p hm => h.written p (hp.mem_iff.2 hm), fun f hf => h.others f fun p hl => hf p (hp.mem_iff.1 hl)⟩

/-! ### The obligation -/

/-- Settles O42: a compared event shows its error and, in CLOSED mode, takes one bounded step of the loop (`phaseEvent_compared`,
`clampFreq_bounds`); lock and its loss set the DPLL's state and QL_OUT (`setDpll_locked`, `setDpll_acquiring`); a LOCKED second enters
the history (`exec_holdoverHistoryTick`); the open mode times out (`exec_openTimeout`). -/
theorem dpllLoopAndHoldover : Obligations.DpllLoopAndHoldover := by
  refine ⟨fun r d s e hf hs h1 h6 hw hb he => ?compared, fun r d s h => exec_refPhaseEvent_ignored h,
    fun s h hw he => dpllLockDetect_effect h hw he, fun s h he => dpllUnlockDetect_effect h he,
    fun s _ he => exec_dpllUnlockDetect_within he, fun s h hw hb hn => holdoverHistoryTick_effect h hw hb hn, fun s h => ?timeout⟩
  case compared =>
    subst he
    exact refPhaseEvent_compared hf hs h1 h6 hw hb
  case timeout =>
    have ht := OnlyFields.putF_then s (f := CLK_ALARM_OPEN_TMO) (g := CLK_STAT_STEER) 1 0 (by decide)
    exact ⟨_, exec_openTimeout h, ht.perm (.swap _ _ _)⟩

end Sys2Proof.Machine

/-! ## Phase steps, the synthesis PLL and the word clocks (R253 to R258, R260, R294) -/

namespace Sys2Proof.Machine

/-! ### Phase steps (R253, R258) -/

section
variable {s : State}

/-- Values that agree in a field's bits write the same. -/
theorem putF_congr {f : Fld} {v w : Nat} (h : v % 2 ^ f.width = w % 2 ^ f.width) : putF f v s = putF f w s := by
  rw [← putF_mod f v, h, putF_mod]

theorem phaseStep_adds {v : Nat} {n : Int} (hn : n = toS 16 (getF s CLK_PSTEP_STEP) + toS 16 v) (h : n.natAbs ≤ 32767) :
    phaseStep v s = putF CLK_PSTEP_STEP (ofS 16 n) { putF CLK_PSTEP_PS_RATE (bits v 16 4) s with
      clk := { s.clk with user := s.clk.user + toS 16 v } } := by
  subst hn
  exact if_neg (Nat.not_lt.2 h)

theorem phaseStep_refused {v : Nat} {n : Int} (hn : n = toS 16 (getF s CLK_PSTEP_STEP) + toS 16 v) (h : 32767 < n.natAbs) :
    phaseStep v s = putF CLK_ALARM_CFG_ERR 1 (putF CLK_PSTEP_PS_RATE (bits v 16 4) s) := by
  subst hn
  exact if_pos h

/-- The count of steps still to be applied, one step on. -/
def stepsLeft (g : Nat) : Nat := if 0 < toS 16 g then g - 1 else if toS 16 g < 0 then g + 1 else 0

theorem stepsLeft_toS (g : Nat) :
    ofS 16 (if 0 < toS 16 g then toS 16 g - 1 else if toS 16 g < 0 then toS 16 g + 1 else 0) % 2 ^ 16 = stepsLeft g % 2 ^ 16 := by
  unfold stepsLeft
  have hg : toS 16 g = ((g % 65536 : Nat) : Int) ∨ toS 16 g = ((g % 65536 : Nat) : Int) - 65536 := by
    unfold toS
    split
    · exact .inl rfl
    · exact .inr rfl
  unfold ofS
  split
  · omega
  · split
    · omega
    · rfl

theorem exec_phaseStepApply : exec .phaseStepApply s = .next (putF CLK_PSTEP_STEP (stepsLeft (getF s CLK_PSTEP_STEP)) s) :=
  congrArg Host.Outcome.next (putF_congr (stepsLeft_toS _))

/-! ### The band of the PLL (R255) -/

/-- What a search through the first `n` entries of the band table finds: none, or the lowest of those with the largest margin. -/
def IsBest (s : State) (n : Nat) : Option (Nat × Int) → Prop
  | none => ∀ k < n, bandMargin s k = none
  | some (b, x) => b < n ∧ bandMargin s b = some x ∧ ∀ k y, k < n → bandMargin s k = some y → y < x ∨ y = x ∧ b ≤ k

/-- One entry compared with the best so far. -/
def betterBand (s : State) (m : Option (Nat × Int)) (b : Nat) : Option (Nat × Int) :=
  match bandMargin s b, m with
  | some x, none => some (b, x)
  | some x, some y => if y.2 < x then some (b, x) else some y
  | none, m => m

theorem bestBand_eq (s : State) : bestBand s = (List.range 64).foldl (betterBand s) none := rfl

theorem IsBest.next {n : Nat} {m : Option (Nat × Int)} (h : IsBest s n m) : IsBest s (n + 1) (betterBand s m n) := by
  have hk (k : Nat) (h : k < n + 1) : k < n ∨ k = n := by omega
  unfold betterBand
  split
  case h_1 x hx =>
    refine ⟨Nat.lt_succ_self n, hx, fun k y hkn hy => ?_⟩
    obtain hkn | rfl := hk k hkn
    · rw [h k hkn] at hy
      contradiction
    · exact .inr ⟨Option.some.inj (hy.symm.trans hx), Nat.le_refl k⟩
  case h_2 x y hx =>
    obtain ⟨hb, hm, hbest⟩ := h
    split
    case isTrue hlt =>
      refine ⟨Nat.lt_succ_self n, hx, fun k z hkn hz => ?_⟩
      obtain hkn | rfl := hk k hkn
      · have := hbest k z hkn hz
        omega
      · exact .inr ⟨Option.some.inj (hz.symm.trans hx), Nat.le_refl k⟩
    case isFalse hge =>
      refine ⟨Nat.lt_succ_of_lt hb, hm, fun k z hkn hz => ?_⟩
      obtain hkn | rfl := hk k hkn
      · exact hbest k z hkn hz
      · have : z = x := Option.some.inj (hz.symm.trans hx)
        omega
  case h_3 m _ _ hx =>
    cases m with
    | none =>
      intro k hkn
      obtain hkn | rfl := hk k hkn
      · exact h k hkn
      · exact hx
    | some p =>
      obtain ⟨hb, hm, hbest⟩ := h
      refine ⟨Nat.lt_succ_of_lt hb, hm, fun k z hkn hz => ?_⟩
      obtain hkn | rfl := hk k hkn
      · exact hbest k z hkn hz
      · rw [hx] at hz
        contradiction

theorem bestBand_isBest (s : State) : IsBest s 64 (bestBand s) := by
  rw [bestBand_eq]
  generalize 64 = n
  induction n with
  | zero => exact fun k hk => absurd hk (Nat.not_lt_zero k)
  | succ n ih =>
    rw [List.range_succ, List.foldl_append]
    exact ih.next

theorem bestBand_of_best {b : Nat} {x : Int} (hb : b < 64) (hx : bandMargin s b = some x)
    (hbest : ∀ k y, k < 64 → bandMargin s k = some y → y < x ∨ y = x ∧ b ≤ k) : bestBand s = some (b, x) := by
  have h := bestBand_isBest s
  cases hm : bestBand s with
  | none =>
    rw [hm] at h
    rw [h b hb] at hx
    contradiction
  | some p =>
    rw [hm] at h
    obtain ⟨hc, hy, hother⟩ := h
    have h1 := hbest p.1 p.2 hc hy
    have h2 := hother b x hb hx
    have : p = (b, x) := Prod.ext (by omega) (by omega)
    rw [this]

/-- No band of at least 5 MHz of margin is found where there is none. -/
theorem bestBand_lt (h : ∀ k y, k < 64 → bandMargin s k = some y → y < 5000) {p : Nat × Int} (hp : bestBand s = some p) :
    p.2 < 5000 := by
  have hb := bestBand_isBest s
  rw [hp] at hb
  exact h p.1 p.2 hb.1 hb.2.1

/-- A band of at least 5 MHz of margin is found where there is one. -/
theorem le_bestBand (h : ∃ k y, k < 64 ∧ bandMargin s k = some y ∧ 5000 ≤ y) : ∃ p, bestBand s = some p ∧ 5000 ≤ p.2 := by
  obtain ⟨k, y, hk, hy, hle⟩ := h
  have hb := bestBand_isBest s
  cases hm : bestBand s with
  | none =>
    rw [hm] at hb
    rw [hb k hk] at hy
    contradiction
  | some p =>
    rw [hm] at hb
    have := hb.2.2 k y hk hy
    exact ⟨p, rfl, by omega⟩

/-! ### Enabling and locking the PLL (R254, R255) -/

/-- The divider ratio in units of 2^-32 (R254). -/
def synRatio (s : State) : Int :=
  divRne ((if getF s CLK_SEL_FAMILY = 0 then 18874368 else 21676032) * (2 ^ 40 * 1000000000 + s.clk.freq * 1000000000
    - toS 32 (getF s CLK_XO_TRIM_TRIM) * 2 ^ 40) * 2 ^ 32) (100000 * 2 ^ 40 * 1000000000)

/-- The fields of the divider ratio. -/
def ratioFields (r : Int) : List (Fld × Nat) := [(CLK_SYN_NINT_NINT, (r / 2 ^ 32).toNat), (CLK_SYN_NFRAC_NFRAC, (r % 2 ^ 32).toNat)]

theorem setRatioRegs_enabled (h : flag s CLK_SYN_CTL_EN = true) : setRatioRegs s = putFs (ratioFields (synRatio s)) s := by
  unfold setRatioRegs ratioFields synRatio
  rw [if_pos h]
  norm_num

theorem synRatio_putF {f : Fld} (v : Nat) (hf : CLK_SEL_FAMILY.key ≠ f.key) (ht : CLK_XO_TRIM_TRIM.key ≠ f.key) :
    synRatio (putF f v s) = synRatio s := by
  unfold synRatio
  rw [getF_putF_ne v s hf, getF_putF_ne v s ht, putF_clk]

section
variable (he : flag s CLK_SYN_CTL_EN = false)
include he

theorem synEnable_band {b : Nat} {x : Int} (hb : bestBand s = some (b, x)) (hx : 5000 ≤ x) :
    synEnable s = putFs ([(CLK_SYN_CTL_EN, 1), (CLK_SYN_STAT_BAND, b)] ++ ratioFields (synRatio s)) s := by
  have hon : flag (putF CLK_SYN_STAT_BAND b (putF CLK_SYN_CTL_EN 1 s)) CLK_SYN_CTL_EN = true := by
    rw [flag_putF_ne b _ (by decide), flag, getF_putF_self]
    rfl
  unfold synEnable
  rw [if_neg (by rw [he]; decide), hb]
  dsimp only
  rw [if_neg (Int.not_lt.2 hx), setRatioRegs_enabled hon, synRatio_putF b (by decide) (by decide),
    synRatio_putF 1 (by decide) (by decide)]
  rfl

theorem synEnable_fails (h : ∀ p, bestBand s = some p → p.2 < 5000) :
    synEnable s = putF CLK_ALARM_BAND_FAIL 1 (putF CLK_SYN_CTL_EN 1 s) := by
  unfold synEnable
  rw [if_neg (by rw [he]; decide)]
  split
  case h_1 b x hb => exact if_pos (h (b, x) hb)
  case h_2 => rfl

end

theorem exec_synthLock {m : Bool} (he : flag s CLK_SYN_CTL_EN = true)
    (hb : ∃ k y, k < 64 ∧ bandMargin s k = some y ∧ 5000 ≤ y) (hc : flag s CLK_SYN_STAT_COAST = false) :
    exec (.synthLock m) s
      = .next (putFs [(CLK_SYN_STAT_LOCK, 1), (CLK_STAT_SYN_LOCK, 1), (CLK_SYN_STAT_VT_MARGIN, b2n m)] s) := by
  obtain ⟨p, hp, hle⟩ := le_bestBand hb
  exact if_pos (by simp [he, hc, hp, hle])

/-! ### Self-diagnosis and the claim (R292, R294, R312) -/

/-- Whether a key of the register store is one of a list's fields. -/
def keysOf (l : List Fld) (k : Nat) : Prop := k ∈ l.map Fld.key

theorem Within.putF_mem {l : List Fld} {t : State} (h : Within (keysOf l) s t) {f : Fld} (hf : f ∈ l) (v : Nat) :
    Within (keysOf l) s (Machine.putF f v t) := h.trans (.putF (List.mem_map_of_mem hf) v t)

/-- The fields that a change of the pair state writes (R311, R312). -/
def pairStateFields : List Fld := [PAIR_STAT_STATE, PAIR_STAT_BIT_IDENT, PAIR_STAT_PROTECTED]

/-- The fields that giving up the claim writes (R292). -/
def claimFields : List Fld := [PAIR_STAT_CLAIM, LIFE_CNT_RELEASES, LIFE_STATUS_DARK] ++ pairStateFields

/-- The fields that a self-diagnosis cause writes (R294). -/
def diagFields : List Fld := [PAIR_CAUSE_CODE, PAIR_CAUSE_CI16] ++ claimFields

theorem Within.mono_keys {l m : List Fld} {t : State} (h : Within (keysOf l) s t) (hl : l ⊆ m) : Within (keysOf m) s t :=
  h.mono fun _ hk => List.map_subset _ hl hk

theorem Within.getF {l : List Fld} {t : State} (h : Within (keysOf l) s t) {f : Fld} (hf : f.key < 0x20100000 * 32)
    (hl : f.key ∉ l.map Fld.key) : getF t f = Machine.getF s f := h.regs f hf hl

theorem setPairState_within (st : Nat) (s : State) : Within (keysOf pairStateFields) s (setPairState st s) := by
  unfold setPairState
  split
  · exact .refl _ s
  · have h1 := (Within.refl (keysOf pairStateFields) s).putF_mem (f := PAIR_STAT_STATE) (by simp [pairStateFields]) st
    have h2 := h1.putF_mem (f := PAIR_STAT_BIT_IDENT) (by simp [pairStateFields]) (b2n (st == 4))
    exact (h2.putF_mem (f := PAIR_STAT_PROTECTED) (by simp [pairStateFields]) _).trans ((Told.refl _).pairEvent.within _)

/-- The pair side without its drivers (R292). -/
def Pair.driversOff (p : Pair) : Pair := { p with
  drivers := false
  window := false }

/-- A state whose pair side is `p`. -/
def withPair (p : Pair) (s : State) : State := { s with pair := p }

/-- The claim's registers once it is given up, before the pair state follows. -/
def claimDropped (s : State) : State :=
  putF LIFE_STATUS_DARK 1 (bump LIFE_CNT_RELEASES 1
    (withPair s.pair.driversOff (putF PAIR_STAT_PROTECTED 0 (putF PAIR_STAT_CLAIM 0 s))))

theorem dropClaim_eq (s : State) : dropClaim s = setPairState 9 (claimDropped s) := rfl

theorem claimDropped_within (s : State) : Within (keysOf claimFields) (withPair s.pair.driversOff s) (claimDropped s) := by
  have h1 := (Within.refl (keysOf claimFields) (withPair s.pair.driversOff s)).putF_mem (f := PAIR_STAT_CLAIM)
    (by simp [claimFields]) 0
  have h2 := h1.putF_mem (f := PAIR_STAT_PROTECTED) (by simp [claimFields, pairStateFields]) 0
  exact (h2.putF_mem (f := LIFE_CNT_RELEASES) (by simp [claimFields]) _).putF_mem (f := LIFE_STATUS_DARK) (by simp [claimFields]) 1

theorem dropClaim_within (s : State) : Within (keysOf claimFields) (withPair s.pair.driversOff s) (dropClaim s) :=
  (claimDropped_within s).trans ((setPairState_within 9 _).mono_keys (List.subset_append_right _ _))

theorem getF_dropClaim_claim (s : State) : getF (dropClaim s) PAIR_STAT_CLAIM = 0 := by
  have h : getF (claimDropped s) PAIR_STAT_CLAIM = getF (putF PAIR_STAT_PROTECTED 0 (putF PAIR_STAT_CLAIM 0 s)) PAIR_STAT_CLAIM :=
    (getF_putF_ne 1 _ (by decide)).trans (getF_bump_ne 1 _ (by decide))
  rw [dropClaim_eq, (setPairState_within 9 _).getF (by decide) (by decide), h, getF_putF_ne 0 _ (by decide), getF_putF_self]
  rfl

/-- A self-diagnosis cause latched (R294). -/
def diagnosed (code : Nat) (s : State) : State :=
  withPair { s.pair with diag := true } (putF PAIR_CAUSE_CI16 s.fab.ci (putF PAIR_CAUSE_CODE code s))

/-- What a cause beside LIFE_RELEASE (code 9) leads to: a claimant of a pair releases, any other unit reports. -/
def diagTaken (code : Nat) (s : State) : State :=
  if flag s PAIR_STAT_CLAIM && s.pins.pairEn then dropClaim (diagnosed code s) else pairEvent (diagnosed code s)

section
variable {code : Nat} (hc : code ≠ 9)
include hc

theorem selfDiag_told : Told (diagTaken code s) (selfDiag code s) := by
  have h : selfDiag code s = watchLife (diagTaken code) s := by
    unfold selfDiag
    congr 1
    funext x
    dsimp only
    rw [if_neg hc, beq_false_of_ne hc, Bool.or_false]
    rfl
  rw [h]
  exact watchLife_told (diagTaken code) s

theorem selfDiag_claimant (h : flag s PAIR_STAT_CLAIM = true) (hp : s.pins.pairEn = true) :
    Told (dropClaim (diagnosed code s)) (selfDiag code s) := by
  have ht := selfDiag_told (s := s) hc
  rwa [diagTaken, if_pos (by rw [h, hp]; rfl)] at ht

theorem selfDiag_reports (h : (flag s PAIR_STAT_CLAIM && s.pins.pairEn) = false) : Told (diagnosed code s) (selfDiag code s) := by
  have ht := selfDiag_told (s := s) hc
  rw [diagTaken, if_neg (by rw [h]; exact Bool.false_ne_true)] at ht
  exact (Told.refl _).pairEvent.trans ht

/-- A cause changes its own fields and the claim's, and notes itself on the pair side. -/
theorem selfDiag_within : ∃ p : Pair, p.diag = true
    ∧ Within (keysOf claimFields) (withPair p (diagnosed code s)) (selfDiag code s) := by
  by_cases h : (flag s PAIR_STAT_CLAIM && s.pins.pairEn) = true
  · obtain ⟨hf, hp⟩ := Bool.and_eq_true_iff.1 h
    exact ⟨_, rfl, (dropClaim_within (diagnosed code s)).trans ((selfDiag_claimant hc hf hp).within _)⟩
  · exact ⟨_, rfl, (selfDiag_reports hc (Bool.not_eq_true _ ▸ h)).within _⟩

theorem getF_selfDiag {f : Fld} (hf : f.key < 0x20100000 * 32) (hl : f.key ∉ diagFields.map Fld.key) :
    getF (selfDiag code s) f = getF s f := by
  obtain ⟨p, -, h⟩ := selfDiag_within (s := s) hc
  have hne (g : Fld) (hg : g ∈ diagFields) : f.key ≠ g.key := fun e => hl (e ▸ List.mem_map_of_mem hg)
  have hcl : f.key ∉ claimFields.map Fld.key := fun hk => hl (List.map_subset _ (List.subset_append_right _ _) hk)
  rw [h.getF hf hcl]
  exact (getF_putF_ne _ _ (hne PAIR_CAUSE_CI16 (by simp [diagFields]))).trans
    (getF_putF_ne _ _ (hne PAIR_CAUSE_CODE (by simp [diagFields])))

theorem getF_selfDiag_code : getF (selfDiag code s) PAIR_CAUSE_CODE = code % 256 := by
  obtain ⟨p, -, h⟩ := selfDiag_within (s := s) hc
  rw [h.getF (by decide) (by decide)]
  exact (getF_putF_ne _ _ (by decide)).trans (getF_putF_self PAIR_CAUSE_CODE code s)

theorem selfDiag_clk : (selfDiag code s).clk = s.clk := by
  obtain ⟨p, -, h⟩ := selfDiag_within (s := s) hc
  rw [h.rest]
  rfl

theorem selfDiag_diag : (selfDiag code s).pair.diag = true := by
  obtain ⟨p, hp, h⟩ := selfDiag_within (s := s) hc
  rw [h.rest]
  exact hp

theorem selfDiag_releases (h : flag s PAIR_STAT_CLAIM = true) (hp : s.pins.pairEn = true) :
    getF (selfDiag code s) PAIR_STAT_CLAIM = 0 ∧ (selfDiag code s).pair.drivers = false := by
  have ht := selfDiag_claimant hc h hp
  refine ⟨(ht.getF _ (by decide)).trans (getF_dropClaim_claim _), ?_⟩
  rw [ht.rest, (dropClaim_within _).rest]
  rfl

theorem selfDiag_single (hp : s.pins.pairEn = false) :
    getF (selfDiag code s) PAIR_STAT_CLAIM = getF s PAIR_STAT_CLAIM ∧ (selfDiag code s).pair.drivers = s.pair.drivers := by
  have ht := selfDiag_reports (s := s) hc (by rw [hp, Bool.and_false])
  refine ⟨(ht.getF _ (by decide)).trans ?_, by rw [ht.rest]; rfl⟩
  exact (getF_putF_ne _ _ (by decide)).trans (getF_putF_ne _ _ (by decide))

end

/-! ### Lock lost and regained (R257) -/

/-- Writes after writes, no field the same. -/
theorem OnlyFields.append {t u : State} {l m : List (Fld × Nat)} (h : OnlyFields s t l) (k : OnlyFields t u m)
    (hk : ∀ p ∈ l, ∀ q ∈ m, p.1.key ≠ q.1.key) : OnlyFields s u (l ++ m) where
  rest := by rw [k.rest, h.rest]
  written p hp := by
    obtain hp | hp := List.mem_append.1 hp
    · rw [k.others p.1 (hk p hp), h.written p hp]
    · exact k.written p hp
  others f hf := by
    rw [k.others f fun q hq => hf q (List.mem_append_right _ hq), h.others f fun q hq => hf q (List.mem_append_left _ hq)]

/-- ALERT as the PLL's condition and the other causes leave it (R257, R355). -/
theorem pllFault_onlyFields (lost : Nat) (s : State) : OnlyFields s (setAlert (putF LIFE_FAULT_PLL lost s))
    [(LIFE_FAULT_PLL, lost), (LIFE_STATUS_ALERT, b2n (getF s LIFE_FAULT_BOOT != 0 || lost % 2 != 0
      || flag s LIFE_FAULT_SUPPLY || flag s LIFE_FAULT_THERMAL || flag s PTP_STAT_TICK_LOST))] := by
  have h : getF (putF LIFE_FAULT_PLL lost s) LIFE_FAULT_PLL = lost % 2 := getF_putF_self LIFE_FAULT_PLL lost s
  unfold setAlert putB
  simp only [flag, h, getF_putF_ne (g := LIFE_FAULT_PLL) lost s (f := LIFE_FAULT_BOOT) (by decide),
    getF_putF_ne (g := LIFE_FAULT_PLL) lost s (f := PTP_STAT_TICK_LOST) (by decide),
    getF_putF_ne (g := LIFE_FAULT_PLL) lost s (f := LIFE_FAULT_SUPPLY) (by decide),
    getF_putF_ne (g := LIFE_FAULT_PLL) lost s (f := LIFE_FAULT_THERMAL) (by decide)]
  exact .putF_then s _ _ (by decide)

/-- What the loss of lock notes first. -/
def noteFields (x : Bool) : List (Fld × Nat) :=
  [(CLK_SYN_STAT_LOCK, 0), (CLK_STAT_SYN_LOCK, 0), (CLK_SYN_STAT_COAST, 1), (CLK_ALARM_PLL_UNLOCK, 1)]
    ++ if x then [(CLK_ALARM_XO_LOST, 1)] else []

/-- What the loss of lock writes beside the self-diagnosis. -/
def lossFields (x : Bool) (s : State) : List (Fld × Nat) := noteFields x
  ++ [(CLK_SYN_STAT_UNLOCK_CNT, min (getF s CLK_SYN_STAT_UNLOCK_CNT + 1) 65535), (LIFE_FAULT_PLL, 1), (LIFE_STATUS_ALERT, 1)]

/-- The state once the loss of lock stands in the registers. -/
def lossShown (x : Bool) (s : State) : State :=
  setAlert (putF LIFE_FAULT_PLL 1 (bump CLK_SYN_STAT_UNLOCK_CNT 1 (putFs (noteFields x) s)))

theorem lossShown_onlyFields (x : Bool) (s : State) : OnlyFields s (lossShown x s) (lossFields x s) := by
  have h1 : OnlyFields s (putFs (noteFields x) s) (noteFields x) := by
    cases x
    · exact .putFs (show [CLK_SYN_STAT_LOCK.key, CLK_STAT_SYN_LOCK.key, CLK_SYN_STAT_COAST.key, CLK_ALARM_PLL_UNLOCK.key].Nodup
        by decide)
    · exact .putFs (show [CLK_SYN_STAT_LOCK.key, CLK_STAT_SYN_LOCK.key, CLK_SYN_STAT_COAST.key, CLK_ALARM_PLL_UNLOCK.key,
        CLK_ALARM_XO_LOST.key].Nodup by decide)
  have hcnt : getF (putFs (noteFields x) s) CLK_SYN_STAT_UNLOCK_CNT = getF s CLK_SYN_STAT_UNLOCK_CNT :=
    h1.getF_of_notMem (by cases x <;> decide)
  have h2 := h1.snoc CLK_SYN_STAT_UNLOCK_CNT (min (getF (putFs (noteFields x) s) CLK_SYN_STAT_UNLOCK_CNT + 1) 65535)
    (by cases x <;> decide)
  have h3 := h2.append (pllFault_onlyFields 1 _) (by cases x <;> simp [noteFields] <;> decide)
  have hmax : 2 ^ CLK_SYN_STAT_UNLOCK_CNT.width - 1 = 65535 := rfl
  unfold lossShown bump
  simpa [lossFields, hcnt, hmax, b2n] using h3

theorem exec_synthLockLoss {x : Bool} (h : flag s CLK_SYN_STAT_LOCK = true) : ∃ u, Told (lossShown x s) u
    ∧ exec (.synthLockLoss x) s = .next (selfDiag 5 u) := by
  refine ⟨_, ?_, if_pos h⟩
  rw [show lossShown x s = setAlert (putF LIFE_FAULT_PLL 1 (bump CLK_SYN_STAT_UNLOCK_CNT 1 (setIf CLK_ALARM_XO_LOST x
    (putFs [(CLK_SYN_STAT_LOCK, 0), (CLK_STAT_SYN_LOCK, 0), (CLK_SYN_STAT_COAST, 1), (CLK_ALARM_PLL_UNLOCK, 1)] s)))) by
    cases x <;> rfl]
  exact watchLife_told (fun s => setAlert (putF LIFE_FAULT_PLL 1 s)) _

theorem synthLockLoss_effect {x : Bool} (h : flag s CLK_SYN_STAT_LOCK = true) : ∃ t, exec (.synthLockLoss x) s = .next t
    ∧ getF t CLK_SYN_STAT_LOCK = 0 ∧ getF t CLK_STAT_SYN_LOCK = 0 ∧ getF t CLK_SYN_STAT_COAST = 1 ∧ getF t CLK_ALARM_PLL_UNLOCK = 1
    ∧ getF t LIFE_FAULT_PLL = 1 ∧ getF t LIFE_STATUS_ALERT = 1
    ∧ getF t CLK_SYN_STAT_UNLOCK_CNT = min (getF s CLK_SYN_STAT_UNLOCK_CNT + 1) 65535 ∧ getF t PAIR_CAUSE_CODE = 5
    ∧ t.pair.diag = true ∧ (x = true → getF t CLK_ALARM_XO_LOST = 1) ∧ t.clk = s.clk
    ∧ (flag s PAIR_STAT_CLAIM = true → s.pins.pairEn = true → getF t PAIR_STAT_CLAIM = 0 ∧ t.pair.drivers = false)
    ∧ (s.pins.pairEn = false → getF t PAIR_STAT_CLAIM = getF s PAIR_STAT_CLAIM ∧ t.pair.drivers = s.pair.drivers) := by
  obtain ⟨u, hu, he⟩ := exec_synthLockLoss (x := x) h
  have hs := lossShown_onlyFields x s
  have h9 : 5 ≠ 9 := by decide
  have hget {f : Fld} {v : Nat} (hm : (f, v) ∈ lossFields x s) (hf : f.key < 0x20100000 * 32)
      (hl : f.key ∉ diagFields.map Fld.key) : getF (selfDiag 5 u) f = v % 2 ^ f.width := by
    rw [getF_selfDiag h9 hf hl, hu.getF f (tellKey_of_below hf), hs.written (f, v) hm]
  have hclaim : getF u PAIR_STAT_CLAIM = getF s PAIR_STAT_CLAIM := by
    rw [hu.getF _ (by decide)]
    exact hs.getF_of_notMem (by cases x <;> simp [lossFields, noteFields] <;> decide)
  have hpins : u.pins = s.pins := by rw [hu.rest, hs.rest]
  have hpair : u.pair = s.pair := by rw [hu.rest, hs.rest]
  refine ⟨_, he, hget (v := 0) (by simp [lossFields, noteFields]) (by decide) (by decide),
    hget (v := 0) (by simp [lossFields, noteFields]) (by decide) (by decide),
    hget (v := 1) (by simp [lossFields, noteFields]) (by decide) (by decide),
    hget (v := 1) (by simp [lossFields, noteFields]) (by decide) (by decide),
    hget (v := 1) (by simp [lossFields]) (by decide) (by decide), hget (v := 1) (by simp [lossFields]) (by decide) ?alert, ?count,
    getF_selfDiag_code h9, selfDiag_diag h9, fun hx => hget (v := 1) (by simp [lossFields, noteFields, hx]) (by decide) (by decide),
    ?clk, fun hc hp => ?claimant, fun hp => ?single⟩
  case alert => decide
  case count =>
    rw [hget (v := min (getF s CLK_SYN_STAT_UNLOCK_CNT + 1) 65535) (by simp [lossFields]) (by decide) (by decide)]
    exact Nat.mod_eq_of_lt (Nat.lt_of_le_of_lt (Nat.min_le_right _ _) (by decide))
  case clk =>
    rw [selfDiag_clk h9, hu.rest, hs.rest]
  case claimant => exact selfDiag_releases h9 (by rw [flag, hclaim]; exact hc) (by rw [hpins]; exact hp)
  case single =>
    have := selfDiag_single (s := u) h9 (by rw [hpins]; exact hp)
    rwa [hclaim, hpair] at this

theorem b2n_mod_two (b : Bool) : b2n b % 2 ^ 1 = b2n b := by cases b <;> rfl

/-- What the return of lock writes. -/
def relockFields (s : State) : List (Fld × Nat) :=
  [(CLK_SYN_STAT_LOCK, 1), (CLK_STAT_SYN_LOCK, 1), (CLK_SYN_STAT_COAST, 0), (LIFE_FAULT_PLL, 0),
    (LIFE_STATUS_ALERT, b2n (getF s LIFE_FAULT_BOOT != 0 || flag s LIFE_FAULT_SUPPLY || flag s LIFE_FAULT_THERMAL
      || flag s PTP_STAT_TICK_LOST))]

/-- The state once the return of lock stands in the registers. -/
def relockNoted (s : State) : State := putFs [(CLK_SYN_STAT_LOCK, 1), (CLK_STAT_SYN_LOCK, 1), (CLK_SYN_STAT_COAST, 0)] s

theorem exec_synthRelock (h : flag s CLK_SYN_STAT_COAST = true) :
    exec .synthRelock s = .next (watchLife (fun s => setAlert (putF LIFE_FAULT_PLL 0 s)) (relockNoted s)) := if_pos h

theorem relock_onlyFields (s : State) : OnlyFields s (setAlert (putF LIFE_FAULT_PLL 0 (relockNoted s))) (relockFields s) := by
  have h1 : OnlyFields s (relockNoted s) _ :=
    .putFs (show [CLK_SYN_STAT_LOCK.key, CLK_STAT_SYN_LOCK.key, CLK_SYN_STAT_COAST.key].Nodup by decide)
  have hother (f : Fld) (hf : f.key ∉ [CLK_SYN_STAT_LOCK.key, CLK_STAT_SYN_LOCK.key, CLK_SYN_STAT_COAST.key]) := h1.getF_of_notMem hf
  have h2 := h1.append (pllFault_onlyFields 0 _) (by simp; decide)
  simp only [flag, hother LIFE_FAULT_BOOT (by decide), hother LIFE_FAULT_SUPPLY (by decide), hother LIFE_FAULT_THERMAL (by decide),
    hother PTP_STAT_TICK_LOST (by decide)] at h2
  simpa [relockFields, flag] using h2

theorem synthRelock_effect (h : flag s CLK_SYN_STAT_COAST = true) : ∃ t, exec .synthRelock s = .next t
    ∧ getF t CLK_SYN_STAT_LOCK = 1 ∧ getF t CLK_STAT_SYN_LOCK = 1 ∧ getF t CLK_SYN_STAT_COAST = 0 ∧ getF t LIFE_FAULT_PLL = 0
    ∧ getF t LIFE_STATUS_ALERT = b2n (getF s LIFE_FAULT_BOOT != 0 || flag s LIFE_FAULT_SUPPLY || flag s LIFE_FAULT_THERMAL
      || flag s PTP_STAT_TICK_LOST)
    ∧ t.clk = s.clk ∧ t.fab = s.fab ∧ getF t PAIR_STAT_CLAIM = getF s PAIR_STAT_CLAIM := by
  have hs := relock_onlyFields s
  have hu := watchLife_told (fun s => setAlert (putF LIFE_FAULT_PLL 0 s)) (relockNoted s)
  have hget {f : Fld} {v : Nat} (hm : (f, v) ∈ relockFields s) (ht : tellKey f.key = false) :
      getF (watchLife (fun s => setAlert (putF LIFE_FAULT_PLL 0 s)) (relockNoted s)) f = v % 2 ^ f.width :=
    (hu.getF f ht).trans (hs.written (f, v) hm)
  refine ⟨_, exec_synthRelock h, hget (v := 1) (by simp [relockFields]) (by decide), hget (v := 1) (by simp [relockFields]) (by decide),
    hget (v := 0) (by simp [relockFields]) (by decide), hget (v := 0) (by simp [relockFields]) (by decide), ?alert, ?clk, ?fab,
    (hu.getF _ (by decide)).trans (hs.getF_of_notMem (by simp [relockFields]; decide))⟩
  case alert => exact (hget (List.mem_of_getElem? (i := 4) rfl) (by decide)).trans (b2n_mod_two _)
  case clk => rw [hu.rest, hs.rest]
  case fab => rw [hu.rest, hs.rest]

end

/-! ### Calibration and the word clocks (R256, R260) -/

section
variable {s : State}

theorem bandCal_enabled {b r : Nat} (h : flag s CLK_SYN_CTL_EN = true) : bandCal b r s = putF CLK_ALARM_CFG_ERR 1 s := if_pos h

theorem bandCal_disabled {b r : Nat} (h : flag s CLK_SYN_CTL_EN = false) : bandCal b r s
    = putFs [(CLK_CAL_CTL_BAND, b), (CLK_CAL_CTL_RAIL, r), (CLK_CAL_CTL_BUSY, 1), (CLK_CAL_FREQ_VALID, 0)] s :=
  if_neg (by simp [h])

/-- The alignment that a word clock takes from its source's edge (R260). -/
def wcoAlign (w e : Nat) (s : State) : Nat :=
  ((((if getF s (CLK_WCO_CFG_ALIGN_SRC w) = 0 then 0 else e : Nat) : Int) + toS 24 (getF s (CLK_WCO_CFG_OFFSET w)))
    % ((24576 / 2 ^ min (getF s (CLK_WCO_CFG_K w)) 2 : Nat) : Int)).toNat

/-- A state whose word clock `w` stands at `a`. -/
def withAlign (w a : Nat) (s : State) : State := { s with clk := { s.clk with align := s.clk.align.put w a } }

theorem alignWco_eq (w e : Nat) (s : State) : alignWco w e s = withAlign w (wcoAlign w e s) s := by
  unfold alignWco wcoAlign withAlign wcoPeriod
  simp only [Nat.cast_ite]
  rfl

/-- EN of a word clock shares no bits with its other settings. -/
theorem wcoAlign_enabled (w e : Nat) (s : State) : wcoAlign w e (putF (CLK_WCO_CFG_EN w) 1 s) = wcoAlign w e s := by
  unfold wcoAlign
  rw [getF_putF_ne 1 s (Fld.key_ne_of_bit rfl), getF_putF_ne 1 s (Fld.key_ne_of_bit rfl), getF_putF_ne 1 s (Fld.key_ne_of_bit rfl)]

theorem exec_wcoArm {w e : Nat} (hw : w < 2) : exec (.wcoArm w e) s
    = .next (withAlign w (wcoAlign w e s) (putF (CLK_WCO_CFG_EN w) 1 s)) := by
  have h : exec (.wcoArm w e) s = .next (alignWco w e (putF (CLK_WCO_CFG_EN w) 1 s)) := if_pos hw
  rw [h, alignWco_eq, wcoAlign_enabled]

theorem exec_wcoTrackAlign {w e : Nat} (hw : w < 2) (he : flag s (CLK_WCO_CFG_EN w) = true) (ht : flag s (CLK_WCO_CFG_TRACK w) = true)
    (hs : getF s (CLK_WCO_CFG_ALIGN_SRC w) ≠ 0) : exec (.wcoTrackAlign w e) s = .next (withAlign w (wcoAlign w e s) s) := by
  have h : exec (.wcoTrackAlign w e) s = .next (alignWco w e s) := if_pos (by simp [hw, he, ht, hs])
  rw [h, alignWco_eq]

end

/-! ### The obligation -/

/-- Settles O43: phase steps (`phaseStep_adds`, `exec_phaseStepApply`), the search for a band, whose result is the lowest of those
with the largest margin (`bestBand_isBest`), the loss of lock as what the registers show (`lossShown_onlyFields`) followed by the
self-diagnosis, whose cause is latched without a claim too (`selfDiag_told`, log entry 19), its end (`relock_onlyFields`),
calibration, and the word clocks' alignment (`alignWco_eq`). -/
theorem synthesisAndOutputClocks : Obligations.SynthesisAndOutputClocks := by
  refine ⟨fun v s n hn => ⟨fun h => ?adds, fun h => ?refused⟩, fun s n hn => ?apply, fun s b x r he hb hm hx hbest hr => ?band,
    fun s he h => ?fails, fun m s he hb hc => ⟨_, exec_synthLock he hb hc, .putFs ?lock⟩, fun x s h => synthLockLoss_effect h,
    fun s h => synthRelock_effect h,
    fun b r s => ⟨fun h => ⟨_, congrArg Host.Outcome.next (bandCal_enabled h), .putF s _ 1⟩,
      fun h => ⟨_, congrArg Host.Outcome.next (bandCal_disabled h), .putFs ?calStart⟩⟩,
    fun f s h => ⟨_, if_pos h, .putFs ?calDone⟩, fun w e s a p hw hp ha => ?wco⟩
  case adds => exact ⟨_, congrArg Host.Outcome.next (phaseStep_adds hn h), rfl, .putF_then s _ _ (by decide)⟩
  case refused => exact ⟨_, congrArg Host.Outcome.next (phaseStep_refused hn h), .putF_then s _ _ (by decide)⟩
  case apply =>
    subst hn
    exact ⟨_, exec_phaseStepApply, .putF s _ _⟩
  case band =>
    subst hr
    refine ⟨_, congrArg Host.Outcome.next (synEnable_band he (bestBand_of_best hb hm hbest) hx), .putFs ?_⟩
    exact (show [CLK_SYN_CTL_EN.key, CLK_SYN_STAT_BAND.key, CLK_SYN_NINT_NINT.key, CLK_SYN_NFRAC_NFRAC.key].Nodup by decide)
  case fails =>
    exact ⟨_, congrArg Host.Outcome.next (synEnable_fails he fun p hp => bestBand_lt h hp), .putF_then s _ _ (by decide)⟩
  case lock => exact (show [CLK_SYN_STAT_LOCK.key, CLK_STAT_SYN_LOCK.key, CLK_SYN_STAT_VT_MARGIN.key].Nodup by decide)
  case calStart =>
    exact (show [CLK_CAL_CTL_BAND.key, CLK_CAL_CTL_RAIL.key, CLK_CAL_CTL_BUSY.key, CLK_CAL_FREQ_VALID.key].Nodup by decide)
  case calDone => exact (show [CLK_CAL_CTL_BUSY.key, CLK_CAL_FREQ_FREQ.key, CLK_CAL_FREQ_VALID.key].Nodup by decide)
  case wco =>
    subst hp ha
    exact ⟨⟨_, exec_wcoArm hw, rfl, .putF s (CLK_WCO_CFG_EN w) 1⟩, exec_wcoTrackAlign hw⟩

end Sys2Proof.Machine

namespace Sys2Proof.Machine

/-! ## SYS commands (R358, R364, R369, R386) -/

theorem mayCancel_ok {s : State} {n i : Nat} {e : Sched} (hf : s.fab.sched.find i = some e) (ho : e.seat = n ∨ n = 0)
    (hr : rampBegun s e = false) (ht : s.fab.ci + 2 ≤ e.ci) : mayCancel s n i = .ok e := by
  unfold mayCancel
  rw [hf]
  exact step_ok (need_of (by simpa using ho)) <| step_ok (need_of (by simp [hr])) <| step_ok (need_of (by simpa using ht)) rfl

theorem flag_of_ne_zero {s : State} {f : Fld} (h : getF s f ≠ 0) : flag s f = true := by simpa [flag] using h

/-- Settles O1: the checks of each row pass one after another (`step_ok`), so the row answers with its effect; the mute pair that the row has
compared is the one that `muteDone` compares again, and an entry may be cancelled by `mayCancel_ok`. -/
theorem sysCommands : Obligations.SysCommands := by
  refine ⟨fun r s h hl => .row_same h fun q => step_ok (len_of hl) rfl,
    fun r s h hl h1 hp => .row_eq h fun q => step_ok (len_of hl) <| step_ok (need_of ?may) <| step_ok (need_of ?one) rfl,
    fun r s h hl => .row_same h fun q => step_ok (len_of hl) rfl,
    fun r s h hl hp ho hc => .row (putF (LIFE_MUTE_MUTE r.seat) (r.w 0 % 2)) h (fun q => ?mute) fun q => ?muted,
    fun r s e h hl ho hf hs hr ht => .row_eq h fun q => step_ok (len_of hl) <| step_ok ho <| step_ok (mayCancel_ok hf hs hr ht) rfl,
    fun r s h hl => .row_same h fun q => step_ok (len_of hl) rfl⟩
  case may => simpa [flag] using hp
  case one => simpa using h1
  case mute =>
    refine step_ok (len_of hl) <| step_ok (need_of (flag_of_ne_zero hp)) <| step_ok ho <| step_ok (need_of (by simpa using hc)) ?_
    rw [show muteDone r.seat (r.w 0) (r.w 1) (noted q s) = putF (LIFE_MUTE_MUTE r.seat) (r.w 0 % 2) (noted q s) from
      if_pos (by rw [hc, lo32_not32])]
    rfl
  case muted =>
    rw [show r.w 0 % 2 = r.w 0 % 2 ^ (LIFE_MUTE_MUTE r.seat).width from rfl, putF_mod]
    exact .putF _ _ _

end Sys2Proof.Machine

namespace Sys2Proof.Machine

/-! ## SEAT commands of attachment (R348 to R350, R352, R370) -/

/-- A seat attached under a token: its lease, sequence number and event address as SEAT.ATTACH sets them (R348). -/
def attachment (r : FwReq) (tok : Nat) (s : State) : State :=
  putF (DB_STAT_ATTACHED r.seat) 1 (updSeat r.seat (fun t => { t with
    lease := r.w 1, token := tok, expect := some ((r.seq + 1) % 256), evAddr := r.w 4, evPort := r.w 5 }) s)

/-- The seat's former attachment ended, if there is one. -/
def detached (n : Nat) (s : State) : State := if attached s n then endAttach n s else s

section
variable {r : FwReq} {s : State} (hl : r.words.length = 6) (ho : r.only [(5, mask 15 0)] = .ok ())
  (h1 : 100 ≤ r.w 1) (h2 : r.w 1 ≤ 60000) (h3 : r.f 0 0 16 ≤ 1) (h4 : 1 ≤ r.f 0 16 16)
include hl ho h1 h2 h3 h4

theorem fwSeatAttach_fresh (h0 : r.w 2 + 4294967296 * r.w 3 = 0) : fwSeatAttach r s = (do
    let p ← newToken (detached r.seat s)
    .ok (attachment r p.1 p.2, [1, r.w 1, lo32 p.1, hi32 p.1, 65536 * r.seat])) := by
  refine step_ok (len_of hl) <| step_ok ho <| step_ok (need_of (by simp [h0])) <| step_ok (need_of (by simp [h1, h2])) <|
    step_ok (need_of (by simp [h3, h4])) ?_
  simp only [h0, if_true, adopt, List.foldl_nil, List.length_nil, Nat.zero_add]
  rfl

theorem fwSeatAttach_known {tok : Nat} (ht : tok = r.w 2 + 4294967296 * r.w 3) (h0 : tok ≠ 0) (hk : s.fw.tokens.contains tok = true) :
    fwSeatAttach r s = .ok (adopt r.seat (orphanKeys (attachment r tok (detached r.seat s)) tok 0 0xFFFF)
      (attachment r tok (detached r.seat s)), [1, r.w 1, lo32 tok, hi32 tok,
        (orphanKeys (attachment r tok (detached r.seat s)) tok 0 0xFFFF).length + 65536 * r.seat]) := by
  subst ht
  refine step_ok (len_of hl) <| step_ok ho <| step_ok (need_of (by rw [hk, Bool.or_true])) <| step_ok (need_of (by simp [h1, h2])) <|
    step_ok (need_of (by simp [h3, h4])) ?_
  simp only [if_neg h0]
  rfl

end

/-- Settles O2: an attachment starts from the seat's former one ended (`detached`) and is the same `attachment` under a new token
(`fwSeatAttach_fresh`) and under a known one (`fwSeatAttach_known`); the other rows answer once their checks pass. -/
theorem seatAttachment : Obligations.SeatAttachment := by
  refine ⟨fun r s t ws h hl ho h1 h2 h3 h4 h0 hg => replied_row h hg fun q => fwSeatAttach_fresh hl ho h1 h2 h3 h4 h0,
    fun r s tok f h hl ho h1 h2 h3 h4 ht h0 hk hf => ?known,
    fun r s h hl => .row_same h fun q => step_ok (len_of hl) rfl,
    fun r s h hl h0 => .row_eq h fun q => step_ok (len_of hl) ?orphaned,
    fun r s h hl h1 => .row_eq h fun q => step_ok (len_of hl) ?freed,
    fun r s tok keys h hl ho hk ht ha hkeys hr => .row_eq h fun q => ?adopted,
    fun r s all part h hl ho ha hp => .row_same h fun q => step_ok (len_of hl) <| step_ok ho ?listed⟩
  case known =>
    subst hf
    exact answer_row h fun q => fwSeatAttach_known (s := noted q s) hl ho h1 h2 h3 h4 ht h0 hk
  case orphaned => simp [FwReq.only, FwReq.f, h0, need, bits, ok_bind, pure_ok]
  case freed => simp [FwReq.only, FwReq.f, h1, need, bits, ok_bind, pure_ok]
  case adopted =>
    subst ht hkeys
    refine step_ok (len_of hl) <| step_ok ho <| step_ok (need_of (by simpa using hk)) <| step_ok (need_of ?may) <|
      step_ok (need_of ?room) rfl
    case may =>
      split at ha
      · rename_i h0
        rw [if_pos h0, ha, beq_self_eq_true]
      · rename_i h0
        exact (if_neg h0).trans ha
    case room =>
      refine List.all_eq_true.2 fun k _ => ?_
      exact Bool.or_eq_true_iff.2 (.inl (hr k))
  case listed =>
    subst hp ha
    rfl

end Sys2Proof.Machine

namespace Sys2Proof.Machine

/-! ## SEAT commands of objects (R351 to R354, R356, R370) -/

@[simp] theorem quotaRoom_noted (q : List PairEv) (s : State) (n k m : Nat) : quotaRoom (noted q s) n k m = quotaRoom s n k m := rfl
@[simp] theorem owns_noted (q : List PairEv) (s : State) (n k i : Nat) : owns (noted q s) n k i = owns s n k i := rfl

theorem steward_ok {r : FwReq} (h : r.seat = 0) : steward r = .ok () := need_of (by simp [h])

theorem fwSeatBind_ok {r : FwReq} {s : State} (hl : r.words.length = 4) (ho : r.only [(0, mask 5 0), (1, mask 15 0)] = .ok ()) (h0 : r.seat = 0)
    (h2 : r.f 0 2 2 = 2 → r.f 0 4 2 ≤ 1) (h3 : r.f 0 2 2 = 3 → r.f 0 4 2 < nMacs s) (hm : nMacs s ≤ 4) : fwSeatBind r s = .ok (s, []) :=
  step_ok (len_of hl) <| step_ok ho <| step_ok (when_ok fun h => inVariant_of (h3 h) hm) <| step_ok (steward_ok h0) <|
    step_ok (need_of (by simpa [← imp_iff_not_or] using h2)) rfl

theorem exec_seatBind {r : FwReq} {s : State} {o : State × List Nat} (h : Asks r s) (hb : fwSeatBind r s = .ok o) :
    exec (.seatBind r) s = .next (bindAfter r (answer 0x0108 r (fun _ => .ok o) s)) := by
  have hs : (fwUp s && decide (r.seat < 4)) = true := by simp [h.up, h.seat]
  exact (if_pos hs).trans (by rw [hb])

/-- Settles O3: each row's checks pass one after another, so the row answers with its effect; SEAT.BIND replies first and changes the binding
after that (`exec_seatBind`). -/
theorem seatObjects : Obligations.SeatObjects := by
  refine ⟨fun r s h hl ho hi hw ha hr => .row_eq h fun q => step_ok (len_of hl) <| step_ok ho <| step_ok hi <| step_ok (need_of hw) <|
      step_ok (need_of ha) <| step_ok (need_of (by simpa using hr)) rfl,
    fun r s h hl ho hi h0 hr => .row_eq h fun q => step_ok (len_of hl) <| step_ok ho <| step_ok hi <| step_ok (steward_ok h0) <|
      step_ok (need_of ?takes) ?taken,
    fun r s h hl ho hi hw => .row_eq h fun q => step_ok (len_of hl) <| step_ok ho <| step_ok hi <| step_ok (need_of hw) rfl,
    fun r s k h hl ho h0 hk e => .row_eq h fun q => step_ok (len_of hl) <| step_ok ho <| step_ok (steward_ok h0) <|
      step_ok (need_of (by simpa using hk)) (e ▸ rfl),
    fun r s h hl ho h0 h2 h3 hm => exec_seatBind h (fwSeatBind_ok hl ho h0 h2 h3 hm),
    fun r s n h hl ho h0 e => .row_fields h (fun q => step_ok (len_of hl) <| step_ok ho <| step_ok (steward_ok h0) (e ▸ rfl)) ?perms,
    fun r s o h hl ho e hi h0 => .row_eq h fun q => step_ok (len_of hl) <| step_ok ho <| step_ok (e ▸ hi) ?removed,
    fun r s o h hl ho e hi h1 hn hr => .row_eq h fun q => step_ok (len_of hl) <| step_ok ho <| step_ok (e ▸ hi) ?added,
    fun r s o h hl ho e hi h1 hc => .row_same h fun q => step_ok (len_of hl) <| step_ok ho <| step_ok (e ▸ hi) ?kept⟩
  case takes => simpa [h0] using hr
  case taken => rw [h0]; rfl
  case perms => simp [Fld.key, HOST_PERM_REL_OK, HOST_PERM_MUTE_OK, HOST_PERM_CTL_OK]
  case removed =>
    subst e
    simp only [h0, if_true]
    rfl
  case added =>
    subst e
    have hn' : ¬ (seatOf (noted q s) r.seat).subs.contains (r.f 0 0 8, r.f 0 16 16) = true := by simpa using hn
    simp only [h1, Nat.one_ne_zero, if_false, if_neg hn']
    exact step_ok (need_of (decide_eq_true hr)) rfl
  case kept =>
    subst e
    have hc' : (seatOf (noted q s) r.seat).subs.contains (r.f 0 0 8, r.f 0 16 16) = true := hc
    simp only [h1, Nat.one_ne_zero, if_false, if_pos hc']
    rfl

end Sys2Proof.Machine

namespace Sys2Proof.Machine

/-! ## Image staging (R130, R137, R371) -/

/-- IMG.BEGIN's own effect (R130). -/
def stagingBegun (r : FwReq) (s : State) : State :=
  let s0 := match s.fab.session with | some x => dropSession x.seat s | none => s
  let s1 := [0, 1, 2, 3].foldl (fun s n => putFs [(HOST_WIN_WIN_BASE n, 0), (HOST_LIM_WIN_WORDS n, 0)] s) s0
  acquire r 1 0 { s1 with fab := { s1.fab with
    staged := none
    session := some { seat := r.seat, len := r.w 0, id := r.w 1, bytes := [], pieces := [], busy := none, sections := 0, complete := false } } }

/-- Acquiring an object changes what the firmware keeps, and nothing else. -/
theorem acquire_eq (r : FwReq) (k i : Nat) (s : State) : acquire r k i s = { s with fw := (acquire r k i s).fw } := by
  unfold acquire
  split <;> rfl

@[simp] theorem acquire_fab (r : FwReq) (k i : Nat) (s : State) : (acquire r k i s).fab = s.fab := by rw [acquire_eq]

theorem stagingBegun_fab (r : FwReq) (s : State) : (stagingBegun r s).fab.staged = none
    ∧ (stagingBegun r s).fab.session = some ⟨r.seat, r.w 0, r.w 1, [], [], none, 0, false⟩ := by
  unfold stagingBegun
  simp only [acquire_fab]
  exact ⟨trivial, trivial⟩

theorem stagingBytes_le (s : State) (n : Nat) : stagingBytes s n ≤ 3145728 := by
  unfold stagingBytes
  extract_lets all
  have ha : all ≤ 3145728 := by
    unfold all
    split <;> decide
  split
  · exact (Nat.min_le_left _ _).trans ha
  · exact ha

/-- The window of a session, over the staging banks (R130, R353). -/
def windowFields (r : FwReq) (s : State) : List (Fld × Nat) :=
  [(HOST_WIN_WIN_BASE r.seat, partBank s * 131072), (HOST_LIM_WIN_WORDS r.seat, stagingBytes s r.seat / 4)]

theorem windowFields_putFs (r : FwReq) (s t : State) : OnlyFields t (putFs (windowFields r s) t) (windowFields r s) :=
  .putFs (by simp [windowFields, Fld.key, HOST_WIN_WIN_BASE, HOST_LIM_WIN_WORDS])

theorem partBank_le (s : State) : partBank s ≤ 120 := by
  unfold partBank
  split <;> omega

/-- The words of IMG.STATUS (R371): between IMG_STAT, IMAGE_ID and the last refusal, what is staged and how far. -/
def imgStatusWords (s : State) : List Nat :=
  [regWordRaw s FAB_STAT_IMG_STATE.addr, getF s FAB_IMG_ID_IMAGE_ID,
    (match s.fab.session, s.fab.staged with | some y, _ => y.id | none, some i => i.id | none, none => 0),
    (match s.fab.session with
      | some y => min y.sections 255 + 256 * b2n (y.complete && s.fab.staged.isSome)
      | none => 256 * b2n s.fab.staged.isSome),
    s.fab.lastCheck, s.fab.lastOffset]

/-- Settles O4: IMG.BEGIN takes what the sender may begin (`stagingBegun`) and writes the window (`windowFields_putFs`), whose place the bounds of
the staging area give (`stagingBytes_le`, `partBank_le`); the other rows answer once their checks pass. -/
theorem imageStaging : Obligations.ImageStaging := by
  refine ⟨fun r s h hl hs hm h0 h1 hc hp => .row (fun x => putFs (windowFields r x) (stagingBegun r x)) h
      (fun q => step_ok (len_of hl) <| step_ok (audioSide_ok hs) <| step_ok (hm.own' q) <|
        step_ok (need_of (by simp [h0, h1])) <| step_ok (need_of (by simp [hc])) <| step_ok (need_of (decide_eq_true hp)) <|
        step_ok (hm.quota' q) rfl) fun q => ⟨?staged, ?session, ?base, ?words⟩,
    fun r s x h hl hs hm h0 h1 h2 hx hseat hc hb => .row_eq h fun q => step_ok (len_of hl) <| step_ok (audioSide_ok hs) <| step_ok (hm.own' q) <|
      step_ok (need_of (by simp [h0, h1])) <| step_ok (need_of (by simpa using h2)) ?piece,
    fun r s h hl hs hm ho h1 h2 h3 => .row_eq h fun q => step_ok (need_of (by simp [hl])) <| step_ok (len_of hl) <|
      step_ok (audioSide_ok hs) <| step_ok (hm.own' q) <| step_ok ho <| step_ok (need_of (by simp [h1, h2])) <|
      step_ok (need_of (decide_eq_true h3)) <| step_ok (hm.quota' q) rfl,
    fun r s h hl hs hm hc hn => .row_eq h fun q => step_ok (len_of hl) <| step_ok (audioSide_ok hs) <| step_ok (hm.own' q) ?unarmed,
    fun r s i e h hl hs hm hf hc _ => .row_eq h fun q => step_ok (len_of hl) <| step_ok (audioSide_ok hs) <| step_ok (hm.own' q) ?armed,
    fun r s h hl => ⟨imgStatusWords s, .row_same h fun q => step_ok (len_of hl) rfl, rfl, rfl, rfl, rfl, rfl⟩,
    fun r s i e h hl ho hi he => ⟨(portInTerm s (r.f 0 0 13)).getD ((strInTerm s (r.f 0 0 13)).getD 0),
      (portOutTerm s (r.f 0 16 13)).getD ((strOutTerm s (r.f 0 16 13)).getD 0),
      .row_same h fun q => step_ok (len_of hl) <| step_ok ho ?path⟩,
    fun r s h hl h0 hm ho => .row_eq h fun q => step_ok (len_of hl) <| step_ok (steward_ok h0) <| step_ok (hm.own' q) <|
      step_ok ho <| step_ok (hm.quota' q) rfl⟩
  case staged => 
    rw [putFs_fab, (stagingBegun_fab r _).1]
  case session => rw [putFs_fab, (stagingBegun_fab r _).2]
  case base =>
    rw [(windowFields_putFs r _ _).written (HOST_WIN_WIN_BASE r.seat, _) (.head _)]
    exact Nat.mod_eq_of_lt (lt_of_le_of_lt (Nat.mul_le_mul_right _ (partBank_le s)) (show 120 * 131072 < 2 ^ 24 by decide))
  case words =>
    rw [(windowFields_putFs r _ _).written (HOST_LIM_WIN_WORDS r.seat, _) (.tail _ (.head _))]
    exact Nat.mod_eq_of_lt (lt_of_le_of_lt (Nat.div_le_div_right (stagingBytes_le s r.seat)) (show 3145728 / 4 < 2 ^ 23 by decide))
  case piece =>
    rw [noted_fab, hx]
    refine step_ok (need_of (by simp [hseat, hc])) <| step_ok (need_of (by simp [hb])) <| step_ok (hm.quota' q) ?_
    simp only [acquire_fab]
    rfl
  case unarmed =>
    rw [noted_fab, hn]
    refine step_ok (need_of (by simp [hc])) <| step_ok rfl <| step_ok (hm.quota' q) ?_
    simp only [acquire_fab]
    rfl
  case armed =>
    rw [noted_fab, hf]
    exact step_ok hc <| step_ok rfl <| step_ok (hm.quota' q) rfl
  case path =>
    rw [noted_fab, hi]
    dsimp only
    rw [he]
    rfl

end Sys2Proof.Machine

namespace Sys2Proof.Machine

/-! ## Parameters and dynamics (R152, R373, R374) -/

theorem maxDyn_le (s : State) : maxDyn s ≤ 1024 := by unfold maxDyn; split <;> decide

@[simp] theorem acquire_dyn (r : FwReq) (k i : Nat) (s : State) : (acquire r k i s).dyn = s.dyn := by rw [acquire_eq]

/-- Settles O6: each row's checks pass one after another, so the row answers with its effect; acquiring the object leaves the dynamics as they
were (`acquire_dyn`). -/
theorem parametersAndDynamics : Obligations.ParametersAndDynamics := by
  refine ⟨fun r s c h hl hs hm ho h1 h2 ht hp => .row_eq h fun q => step_ok (len_of hl) <| step_ok (audioSide_ok hs) <|
      step_ok (hm.own' q) <| step_ok ho <| step_ok (need_of (decide_eq_true h1)) <| step_ok (need_of (decide_eq_true h2)) <|
      step_ok (need_of (decide_eq_true ht)) <| step_ok hp <| step_ok (hm.quota' q) rfl,
    fun r s c h hl ho h1 h2 hp => answer_row h fun q => step_ok (len_of hl) <| step_ok ho <| step_ok (need_of (decide_eq_true h1)) <|
      step_ok (need_of (decide_eq_true h2)) <| step_ok hp rfl,
    fun r s i rc h hl hi hrc hv hs hm ho hlegal hcap ht hrec hpr hc0 hc1 => .row_eq h fun q => ?stage,
    fun r s i h hl hi hv ho h2 hc => .row_same h fun q => ?read⟩
  case stage =>
    subst hi hrc
    refine step_ok (len_of hl) <| step_ok (inVariant_of hv (maxDyn_le s)) <| step_ok (audioSide_ok hs) <| step_ok (hm.own' q) <|
      step_ok ho <| step_ok (need_of hlegal) <| step_ok (need_of (by simp [hcap])) <| step_ok (need_of (decide_eq_true ht)) <|
      step_ok (need_of (by simpa using hrec)) <| step_ok (need_of (by simp [hcap, hpr, hc0, hc1])) <| step_ok (hm.quota' q) ?_
    simp only [acquire_dyn]
    rfl
  case read =>
    subst hi
    exact step_ok (len_of hl) <| step_ok (inVariant_of hv (maxDyn_le s)) <| step_ok ho <| step_ok (need_of (decide_eq_true h2)) <|
      step_ok (need_of (decide_eq_true hc)) rfl

/-! ### Routes -/

theorem mayOwnAll_noted (q : List PairEv) (s : State) (r : FwReq) (k : Nat) (l : List Nat) (n : Nat) :
    mayOwnAll (noted q s) r k l n = mayOwnAll s r k l n := by
  induction l generalizing n with
  | nil => rfl
  | cons i is ih => simp only [mayOwnAll, ih]; rfl

theorem xpLegal_noted (q : List PairEv) (s : State) (es : List PairWord) (k : Nat) : xpLegal (noted q s) es k = xpLegal s es k := by
  induction es generalizing k with
  | nil => rfl
  | cons e es ih => simp only [xpLegal, ih]; rfl

theorem xpContract_noted (q : List PairEv) (s : State) (es : List PairWord) (k : Nat) : xpContract (noted q s) es k = xpContract s es k := by
  induction es generalizing k with
  | nil => rfl
  | cons e es ih => simp only [xpContract, ih]; rfl

theorem destDefined_ok {s : State} {d : Nat} (h : d < nDests s) : destDefined s d = .ok () := need_of (decide_eq_true h)

/-- Settles O7. -/
theorem routeStaging : Obligations.RouteStaging := by
  refine ⟨fun r s n es ds l h hn hl hs hes hds hm ho h1 hx hc hq hls hlen => .row_eq h fun q => ?stage,
    fun r s d v l h hl hd hv hs hm ho h1 h2 h3 h4 hok hdd hls hlen => .row_eq h fun q => ?dest,
    fun r s d h hl hd hs hm ho hdd => .row_eq h fun q => ?silence,
    fun r s d half all part h hl ho hd hdd hh ha hp => .row_same h fun q => ?read,
    fun r s d v h hl hd hw ho hdd hv => .row_eq h fun q => ?dstat,
    fun r s h hl hs => .row_eq h fun q => step_ok (len_of hl) <| step_ok (audioSide_ok hs) rfl⟩
  case stage =>
    subst hn hes hds hls
    exact step_ok (len_of hl) <| step_ok (audioSide_ok hs) <| step_ok ((mayOwnAll_noted q s r 3 _ 0).trans hm) <| step_ok ho <|
      step_ok (need_of (decide_eq_true h1)) <| step_ok ((xpLegal_noted q s _ 0).trans hx) <| step_ok ((xpContract_noted q s _ 0).trans hc) <|
      step_ok hq <| step_ok (need_of (decide_eq_true hlen)) rfl
  case dest =>
    subst hd hv hls
    exact step_ok (len_of hl) <| step_ok (audioSide_ok hs) <| step_ok (hm.own' q) <| step_ok ho <| step_ok (need_of (by simp [h1, h2])) <|
      step_ok (need_of (by simp [h3, h4])) <| step_ok (need_of hok) <| step_ok (destDefined_ok hdd) <| step_ok (hm.quota' q) <|
      step_ok (need_of (decide_eq_true hlen)) rfl
  case silence =>
    subst hd
    exact step_ok (len_of hl) <| step_ok (audioSide_ok hs) <| step_ok (hm.own' q) <| step_ok ho <| step_ok (destDefined_ok hdd) <|
      step_ok (hm.quota' q) rfl
  case read =>
    subst hp ha hh hd
    exact step_ok (len_of hl) <| step_ok ho <| step_ok (destDefined_ok hdd) rfl
  case dstat =>
    subst hv hd
    refine step_ok (len_of hl) <| step_ok (need_of ?_) <| step_ok ho <| step_ok (destDefined_ok hdd) ?_
    · rcases f_one r 0 16 with h0 | h1
      · simp [h0]
      · simp [h1, hw h1]
    · simp only [beq_iff_eq]
      rfl

end Sys2Proof.Machine

namespace Sys2Proof.Machine

/-! ## ROUTE.COMMIT (R34, R35, R150, R151, R374) -/

theorem flag_of_zero {s : State} {f : Fld} (h : getF s f = 0) : flag s f = false := by simp [flag, h]

@[simp] theorem acquire_rte (r : FwReq) (k i : Nat) (s : State) : (acquire r k i s).rte = s.rte := by rw [acquire_eq]

@[simp] theorem acquireAll_rte (r : FwReq) (k : Nat) (is : List Nat) (s : State) : (acquireAll r k is s).rte = s.rte := by
  unfold acquireAll
  induction is generalizing s with
  | nil => rfl
  | cons i is ih => rw [List.foldl_cons, ih, acquire_rte]

theorem placeXps_noted (q : List PairEv) (s : State) (l used : List Nat) (acc : List (Nat × Nat)) :
    placeXps (noted q s) l used acc = placeXps s l used acc := by
  induction l generalizing used acc with
  | nil => rfl
  | cons v vs ih =>
    unfold placeXps
    simp only [ih]
    rfl

/-- The checks that arming makes first may be made before it. -/
theorem arm_checked {s : State} {r : FwReq} {e : Sched} {f : Nat × Nat × State → FwM} (hs : e.seat = r.seat) {g : Unit → Unit → FwM}
    (h : running s = true → schedConflict s { e with ci := aimed s r e.kind e.ci } = false → g () () = (arm s r e >>= f)) :
    (need (running s) (err eState) >>= fun a => need (!schedConflict s { e with ci := aimed s r e.kind e.ci }) (err eState) >>= g a) =
      (arm s r e >>= f) := by
  cases hr : running s with
  | false => rw [arm_stopped r e hr]; rfl
  | true =>
    cases hc : schedConflict s { e with ci := aimed s r e.kind e.ci } with
    | true =>
      rw [arm_conflict hr (by rw [aimedEntry, ← hs]; exact hc)]
      rfl
    | false => exact h hr hc

/-- ROUTE.COMMIT's members: the request's length, and every check of R361 but those of the arming itself. -/
structure CommitPasses (r : FwReq) (s : State) (pages insts : List Nat) : Prop where
  pages_eq : pages = bytesAt r 3 (r.f 2 8 8)
  insts_eq : insts = halvesAt r (3 + (r.f 2 8 8 + 3) / 4) (r.f 2 16 10)
  len : r.words.length = 3 + (r.f 2 8 8 + 3) / 4 + (r.f 2 16 10 + 1) / 2
  range : insts.all (fun i => decide (i < 1024)) = true
  here : insts.all (fun i => decide (i < maxDyn s)) = true
  active : isStandby s = false
  ownPages : mayOwnAll s r 2 pages 0 = .ok ()
  ownInsts : mayOwnAll s r 4 insts 0 = .ok ()
  reserved : r.only [(2, 1 + mask 15 8 + mask 25 16)] = .ok ()
  freePages : pages.all (fun p => decide (pageTag s p < 64)) = true
  freeInsts : insts.all (fun i => decide (dynTag s i < 64)) = true
  copied : insts.all (fun i => !s.dyn.recopy.contains i) = true
  defPages : pages.all (fun p => (pageCopies s p).isSome) = true
  defInsts : insts.all (fun i => decide (i < s.fab.cal.dynCap)) = true
  roomPages : quotaForAll s r 2 pages = .ok ()
  roomInsts : quotaForAll s r 4 insts = .ok ()

theorem CommitPasses.noted {r : FwReq} {s : State} {pages insts : List Nat} (h : CommitPasses r s pages insts) (q : List PairEv) :
    CommitPasses r (noted q s) pages insts :=
  { h with
    ownPages := (mayOwnAll_noted q s r 2 pages 0).trans h.ownPages
    ownInsts := (mayOwnAll_noted q s r 4 insts 0).trans h.ownInsts }

/-- The entry that ROUTE.COMMIT arms (R374): a safe-load set, or a marker. -/
def commitEntry (r : FwReq) (route : Bool) (pages insts : List Nat) : Sched :=
  ⟨if route || !pages.isEmpty || !insts.isEmpty then 1 else 6, r.seat, r.ci 0, route, pages, insts, [], false⟩

/-- The staged crosspoints at their indexes, and the staged records, in the shadow; the seat's staging lists are empty. -/
def commitRoutes (n : Nat) (t : Seat) (pl : List (Nat × Nat)) (s : State) : State :=
  updSeat n (fun t => { t with routes := [], dests := [] }) { s with rte := { s.rte with
    shadow := pl.foldl (fun m p => m.set p.1 (PairWord.mk' p.2) xpNone) s.rte.shadow
    shRec := t.dests.foldl (fun m p => m.set p.1 (PairWord.mk' p.2) recReset) s.rte.shRec
    held := t.routes } }

section
variable {r : FwReq} {s : State} {pages insts : List Nat} {route : Bool}

theorem fwRouteCommit_eq (h : CommitPasses r s pages insts) (hroute : (r.f 2 0 1 == 1) = route)
    (harmed : route = true → flag s RTE_SL_ROUTE_ARMED = false) (hresync : route = true → flag s RTE_STAT_RESYNC = false)
    {pl : List (Nat × Nat)} (hpl : (if route then placeXps s (seatOf s r.seat).routes [] [] else some []) = some pl) :
    fwRouteCommit r s = (arm s r (commitEntry r route pages insts) >>= fun a =>
      let s1 := acquireAll r 4 insts (acquireAll r 2 pages a.2.2)
      .ok (tagSet a.1 (commitEntry r route pages insts) (if route then commitRoutes r.seat (seatOf s r.seat) pl s1 else s1),
        schedReply a.1 a.2.1)) := by
  obtain ⟨rfl, rfl, hl, h1, h2, hs, hp, hi, ho, h3, h4, h5, h6, h7, h8, h9⟩ := h
  subst hroute
  have ha : ((r.f 2 0 1 == 1) && flag s RTE_SL_ROUTE_ARMED) = false := by simpa using harmed
  have hb : ((r.f 2 0 1 == 1) && flag s RTE_STAT_RESYNC) = false := by simpa using hresync
  unfold fwRouteCommit
  simp only [len_of hl, h1, h2, h3, h4, h5, h6, h7, h8, h9, hp, hi, ho, hpl, ha, hb, audioSide_ok hs, need_of, ok_bind, Bool.not_false,
    Bool.and_true]
  exact arm_checked (e := commitEntry r (r.f 2 0 1 == 1) _ _) rfl fun _ _ => rfl

end

/-- Settles O8: the premises are the checks of the row (`CommitPasses`), under which it arms its one entry and places the staged crosspoints
(`fwRouteCommit_eq`), also where a relayed change is noted (`CommitPasses.noted`). -/
theorem routeCommit : Obligations.RouteCommit := by
  refine ⟨fun r s pages insts e t ws h hp hi hl hr h1 h2 hs hop hoi ho h3 h4 h5 h6 h7 h8 h9 he hg => replied_row h hg fun q => ?set,
    fun r s pages insts e pl t ws h hp hi hl hr h1 h2 hs hop hoi ho h3 h4 ha hb h5 h6 h7 h8 h9 he hpl hg => replied_row h hg fun q => ?routes⟩
  case set =>
    have hc : CommitPasses r s pages insts := ⟨hp, hi, hl, h1, h2, hs, hop, hoi, ho, h3, h4, h5, h6, h7, h8, h9⟩
    have he' : e = commitEntry r false pages insts := by
      rw [he]
      unfold commitEntry
      cases pages <;> cases insts <;> rfl
    rw [fwRouteCommit_eq (route := false) (hc.noted q) (by rw [hr]; rfl) nofun nofun rfl, he']
    rfl
  case routes =>
    have hc : CommitPasses r s pages insts := ⟨hp, hi, hl, h1, h2, hs, hop, hoi, ho, h3, h4, h5, h6, h7, h8, h9⟩
    have he' : e = commitEntry r true pages insts := he
    rw [fwRouteCommit_eq (route := true) (hc.noted q) (by rw [hr]; rfl) (fun _ => flag_of_zero ha) (fun _ => flag_of_zero hb)
      ((placeXps_noted q s _ [] []).trans hpl), he']
    simp only [commitRoutes, acquireAll_rte]
    rfl

end Sys2Proof.Machine

namespace Sys2Proof.Machine

/-! ## PORT buffers and output enables (R168, R171, R174, R375) -/

/-- Settles O10: PORT.CSTAT by its kinds, PORT.OUTEN and PORT.STATUS by its objects: each row's checks pass one after another, so the row answers
with its effect or reports. -/
theorem portBuffersAndEnables : Obligations.PortBuffersAndEnables := by
  refine ⟨fun r s h hl hn h8 hk h0 ho => .row_same h fun q => ?read,
    fun r s v h hl hn h8 hk hs hm ho hv => .row_eq h fun q => ?stage,
    fun r s lanes t ws h hl he hs hla haes hol hoa ho h1 h3 h5 hg => replied_row h hg fun q => ?outen,
    fun r s i h hl hi ho hk hv => .row_same h fun q => ?lane,
    fun r s i h hl hi ho hk hv h8 => .row_same h fun q => ?aes,
    fun r s i h hl hi ho hk hv => .row_same h fun q => ?asrc,
    fun r s i h hl hi ho hk hv => .row_same h fun q => ?group⟩
  case read =>
    refine step_ok (len_of (by rw [if_pos hk, hl])) <| step_ok (inVariant_of hn h8) <| step_ok (if_pos hk) <| step_ok (if_pos hk) <|
      step_ok ho <| step_ok (need_of (by simp [h0])) (if_pos hk)
  case stage =>
    subst hv
    have hk' : ¬ r.f 0 4 2 < 2 := Nat.not_lt.2 hk
    exact step_ok (len_of (by rw [if_neg hk', hl])) <| step_ok (inVariant_of hn h8) <| step_ok ((if_neg hk').trans (audioSide_ok hs)) <|
      step_ok ((if_neg hk').trans (hm.own' q)) <| step_ok ho <| step_ok (need_of (by simp [hk])) <|
      (if_neg hk').trans <| step_ok (hm.quota' q) rfl
  case outen =>
    subst he
    refine step_ok (len_of hl) <| step_ok (need_of ?_) <| step_ok (audioSide_ok hs) <| step_ok (need_of ?_) <| step_ok ho <|
      step_ok (need_of (by simp [h1])) <| step_ok (need_of (by simp [h3])) <| step_ok (need_of (by simp [h5])) rfl
    · rw [Bool.and_eq_true, List.all_eq_true, List.all_eq_true]
      exact ⟨fun b hb => decide_eq_true (hla b hb), fun b hb => decide_eq_true (haes b hb)⟩
    · rw [Bool.and_eq_true]; exact ⟨hol, hoa⟩
  all_goals
    subst hi
    simp only [fwPortStatus, hk]
  case lane => exact step_ok (len_of hl) <| step_ok (inVariant_of hv (nLanes_le s)) <| step_ok ho rfl
  case aes => exact step_ok (len_of hl) <| step_ok (inVariant_of hv h8) <| step_ok ho rfl
  case asrc => exact step_ok (len_of hl) <| step_ok (inVariant_of hv (nAsrc_le s)) <| step_ok ho rfl
  case group => exact step_ok (len_of hl) <| step_ok (inVariant_of hv (nGroups_le s)) <| step_ok ho rfl

end Sys2Proof.Machine

namespace Sys2Proof.Machine

/-! ## AMP commands (R276, R277, R380) -/

/-- Settles O11: each row's checks pass one after another, so the row answers with its effect; AMP.CHANNEL checks the slots
only of a channel that is enabled, and AMP.STATUS of a channel clears its two peaks. -/
theorem amplifierCommands : Obligations.AmplifierCommands := by
  refine ⟨fun r s c l t ws h hl ha hc hd1 hd2 hs hm hw ho hen hle hgo hg => replied_row h hg fun q => ?channel,
    fun r s g t ws h hl ha he hs hm ho hgo hg => replied_row h hg fun q => ?group,
    fun r s h hl ha hs hm ho => .row_eq h fun q => step_ok (len_of hl) <| step_ok (need_of ha) <| step_ok (audioSide_ok hs) <|
      step_ok (hm.own' q) <| step_ok ho <| step_ok (hm.quota' q) rfl,
    fun r s t ws h hl ha hs hb hc hg => replied_row h hg fun q => step_ok (len_of hl) <| step_ok (need_of ha) <|
      step_ok (audioSide_ok hs) <| step_ok (need_of hb) <| step_ok (need_of (by simp [hc])) rfl,
    fun r s h hl ha hs hc => .row_eq h fun q => step_ok (len_of hl) <| step_ok (need_of ha) <| step_ok (audioSide_ok hs) <|
      step_ok (need_of (List.all_eq_true.2 fun c m => (hc c m).1)) <|
      step_ok (need_of (List.all_eq_true.2 fun c m => beq_iff_eq.2 (hc c m).2)) rfl,
    fun r s i h hl ha hi h0 ho => .row_fields h (fun q => ?status) ?peaks,
    fun r s i h hl ha hi h1 h8 ho => .row_same h fun q => ?module⟩
  case channel =>
    subst hle hc
    have h0 : ∀ b : Bool, (r.f 0 5 1 = 1 → b = true) → (r.f 0 5 1 == 0 || b) = true := fun b hb => by
      rcases f_one r 0 5 with h0 | h1
      · rw [h0]; rfl
      · rw [hb h1, Bool.or_true]
    refine step_ok (len_of hl) <| step_ok (need_of ha) <| step_ok (need_of ?_) <| step_ok (audioSide_ok hs) <| step_ok (hm.own' q) <|
      step_ok (need_of hw) <| step_ok ho <| step_ok (need_of (h0 _ fun e => (hen e).1)) <| step_ok (need_of (h0 _ fun e => (hen e).2)) <|
      step_ok (need_of hgo) <| step_ok (hm.quota' q) rfl
    rw [Bool.and_eq_true]
    exact ⟨decide_eq_true (lt_of_lt_of_le hd1 (Nat.le_max_left _ _)), decide_eq_true (lt_of_lt_of_le hd2 (Nat.le_max_left _ _))⟩
  case group =>
    subst he
    exact step_ok (len_of hl) <| step_ok (need_of ha) <| step_ok (audioSide_ok hs) <| step_ok (hm.own' q) <| step_ok ho <|
      step_ok (need_of hgo) <| step_ok (hm.quota' q) rfl
  case status =>
    subst hi
    refine step_ok (len_of hl) <| step_ok (need_of ha) <| step_ok (need_of (by simp [h0])) <| step_ok ho ?_
    simp only [h0]
    rfl
  case peaks => simp [Fld.key, AMP_CH_MEAS_I_PEAK, AMP_CH_MEAS_V_PEAK]
  case module =>
    subst hi
    refine step_ok (len_of hl) <| step_ok (need_of ha) <| step_ok (need_of (by simp [h8])) <| step_ok ho ?_
    simp only [h1]
    rfl

end Sys2Proof.Machine

namespace Sys2Proof.Machine

/-! ## Streams set up (R203, R204, R207, R377) -/

/-- Settles O12: each row's checks pass one after another, the search for the places included, so the row answers with the stream created there. -/
theorem streamSetup : Obligations.StreamSetup := by
  refine ⟨fun r s i fmt pt ch legs es want d tab buf map t h hl hi hlegs hmac hs hm ho hfmt hpt hch hp4 hc1 hc64 hd0 hlen hen hmg hes hdup
      hcls hwant hd hd7 hwd htab hbuf hmap ht => .row_eq h fun q => ?rx,
    fun r s i fmt pt ch map t h hl hi hmac hs hm ho hfmt hpt hch hp4 hc1 hc64 hlen hen hmap ht => .row_eq h fun q => ?tx⟩
  case rx =>
    subst ht hd hwant hes hlegs hfmt hpt hch
    refine step_ok (len_of hl) <| step_ok hi <| step_ok (need_of hmac) <| step_ok (audioSide_ok hs) <| step_ok (hm.own' q) <|
      step_ok ho <| step_ok (need_of (by simp [hp4, hc1, hc64, hd0])) <| step_ok (need_of hlen) <|
      step_ok (need_of (beq_iff_eq.2 hen)) <| step_ok (need_of ?merge) <| step_ok (need_of ?keys) <| step_ok (hm.quota' q) <|
      step_ok (need_of ?room) ?_
    case merge => simpa [and_assoc] using hmg
    case keys =>
      rw [Bool.and_eq_true, beq_iff_eq, Bool.not_eq_true']
      exact ⟨hdup, hcls⟩
    case room =>
      rw [Bool.and_eq_true]
      exact ⟨decide_eq_true hd7, decide_eq_true hwd⟩
    split
    · rename_i tab' buf' map' e1 e2 e3
      obtain rfl : tab' = tab := Option.some.inj (e1.symm.trans htab)
      obtain rfl : buf' = buf := Option.some.inj (e2.symm.trans hbuf)
      obtain rfl : map' = map := Option.some.inj (e3.symm.trans hmap)
      rfl
    · rename_i hno
      exact (hno tab buf map htab hbuf hmap).elim
  case tx =>
    subst ht hfmt hpt hch
    refine step_ok (len_of hl) <| step_ok hi <| step_ok (need_of (decide_eq_true hmac)) <| step_ok (audioSide_ok hs) <|
      step_ok (hm.own' q) <| step_ok ho <| step_ok (need_of ?legal) <| step_ok (need_of (beq_iff_eq.2 hen)) <| step_ok (hm.quota' q) ?_
    case legal =>
      simp only [Bool.and_eq_true]
      exact ⟨⟨⟨decide_eq_true hp4, decide_eq_true hc1⟩, decide_eq_true hc64⟩, decide_eq_true hlen⟩
    rw [show fitSpan (mapSpans (noted q s) true i) 0 2048 _ 1 = some map from hmap]
    rfl

end Sys2Proof.Machine

namespace Sys2Proof.Machine

/-! ## Streams operated (R204, R215, R216, R377) -/

theorem not_or_of_imp {b c : Bool} (h : b = true → c = true) : (!b || c) = true := by
  cases b with
  | false => rfl
  | true => exact h rfl

/-- A stream that exists, is disabled and idle may be deleted. -/
theorem stoppable {n e : Nat} {a : Bool} (h : n ≠ 0) (he : e = 0) (ha : a = false) : (n != 0 && e == 0 && !a) = true := by
  simp [h, he, ha]

/-- Settles O13: each row's checks pass one after another, so the row answers with its effect; a stream that exists and
is disabled and idle may be deleted (`stoppable`). -/
theorem streamOperation : Obligations.StreamOperation := by
  refine ⟨fun r s h hl h0 href ho => .row_same h fun q => step_ok (len_of (by rw [hl, h0])) <| step_ok href <| step_ok ho ?nothing,
    fun r s n tx i e hs t ws h hn h0 hl htx hi href ho hhs hres hex he hn6 hb hq hg => replied_row h hg fun q => ?map,
    fun r s tx en i t ws h hl htx hen hi href hex hq hroom hg => replied_row h hg fun q => ?enable,
    fun r s i e h hl h1 hi href he hex hen ha => .row_eq h fun q => step_ok (len_of hl) <| step_ok href ?deleteTx,
    fun r s i e h hl h0 hi href he hex hen ha => .row_eq h fun q => step_ok (len_of hl) <| step_ok href ?deleteRx,
    fun r s i h hl h1 hi hv ho hw => .row_eq h fun q => step_ok (len_of hl) ?statusTx,
    fun r s i h hl h0 hi hv ho hw => .row_eq h fun q => step_ok (len_of hl) ?statusRx⟩
  case nothing =>
    simp only [h0]
    exact step_ok (need_of rfl) rfl
  case map =>
    subst hhs he htx hi hn
    refine step_ok (len_of hl) <| step_ok href <| step_ok ho <| step_ok (need_of ?zero) <| (if_neg h0).trans <|
      step_ok (need_of hex) <| step_ok (need_of (decide_eq_true hn6)) <| step_ok (need_of ?bind) <| step_ok hq rfl
    case zero => exact List.all_eq_true.2 fun x hx => beq_iff_eq.2 (hres x hx)
    case bind =>
      exact List.all_eq_true.2 fun x hx => not_or_of_imp (hb x hx)
  case enable =>
    subst htx hen hi
    refine step_ok (len_of hl) <| step_ok href <| step_ok (need_of hex) <| step_ok hq <| step_ok (need_of ?_) rfl
    rw [Bool.or_assoc]
    exact not_or_of_imp fun hen => by
      rw [Bool.or_eq_true, beq_iff_eq]
      exact hroom hen
  case deleteTx =>
    subst he hi
    simp only [h1]
    exact step_ok (need_of (stoppable hex hen ha)) rfl
  case deleteRx =>
    subst he hi
    simp only [h0]
    exact step_ok (need_of (stoppable hex hen ha)) rfl
  case statusTx =>
    subst hi
    simp only [h1]
    refine step_ok (inVariant_of hv (nTxs_le s)) <| step_ok (when_ok fun c => audioSide_ok (hw (beq_iff_eq.1 c)).1) <|
      step_ok (need_of (not_or_of_imp fun c => (hw (beq_iff_eq.1 c)).2)) <| step_ok ho ?_
    simp only [beq_iff_eq]
    rfl
  case statusRx =>
    subst hi
    simp only [h0]
    refine step_ok (inVariant_of hv (nRxs_le s)) <| step_ok (when_ok fun c => audioSide_ok (hw (beq_iff_eq.1 c)).1) <|
      step_ok (need_of (not_or_of_imp fun c => (hw (beq_iff_eq.1 c)).2)) <| step_ok ho ?_
    simp only [beq_iff_eq]
    rfl

end Sys2Proof.Machine

namespace Sys2Proof.Machine

/-! ## CLK commands (R236 to R261, R379) -/

/-! ### What a list of writes does to the register store -/

theorem putFs_regs_congr {s t : State} (h : s.regs = t.regs) (l : List (Fld × Nat)) : (putFs l s).regs = (putFs l t).regs := by
  induction l generalizing s t with
  | nil => exact h
  | cons p l ih => exact ih (by simp only [Machine.putF, h])

theorem putFs_append (l m : List (Fld × Nat)) (s : State) : putFs (l ++ m) s = putFs m (putFs l s) := List.foldl_append

/-- A field that a list of writes names once reads what is written, in any state with the registers that the list leaves. -/
theorem getF_of_regs_putFs {s t : State} {l : List (Fld × Nat)} (h : t.regs = (putFs l s).regs)
    (hk : (l.map (fun p => p.1.key)).Nodup) {f : Fld} {v : Nat} (hm : (f, v) ∈ l) : getF t f = v % 2 ^ f.width := by
  have : getF t f = getF (putFs l s) f := by unfold getF; rw [h]
  rw [this, (OnlyFields.putFs hk).written _ hm]

/-! ### The clock outputs (R259 to R261) -/

/-- What CLK.OUTPUT writes of a master clock output. -/
def mclkFields (r : FwReq) (k : Nat) : List (Fld × Nat) :=
  [(CLK_MCLK_CFG_EN k, r.f (2 + k) 0 1), (CLK_MCLK_CFG_MULT k, r.f (2 + k) 1 1), (CLK_MCLK_CFG_K k, r.f (2 + k) 2 2)]

/-- What CLK.OUTPUT writes of a word clock output. -/
def wcoFields (r : FwReq) (k : Nat) : List (Fld × Nat) :=
  [(CLK_WCO_CFG_EN k, r.f (6 + k) 0 1), (CLK_WCO_CFG_K k, r.f (6 + k) 1 2), (CLK_WCO_CFG_ALIGN_SRC k, r.f (6 + k) 3 3),
    (CLK_WCO_CFG_TRACK k, r.f (6 + k) 6 1), (CLK_WCO_CFG_OFFSET k, r.f (6 + k) 8 24)]

/-- What CLK.OUTPUT writes beside: the output enables and the settings of the amplifier's clocks. -/
def enableFields (r : FwReq) : List (Fld × Nat) :=
  [(CLK_OEN_MCLKO, r.f 0 0 4), (CLK_OEN_WCO, r.f 0 4 2), (CLK_OEN_SDMCLK, r.f 0 6 8), (CLK_SDM_CFG_DIV, r.f 8 0 2),
    (CLK_SDM_CFG_EN, r.f 8 2 1), (CLK_CAR_CFG_X16, r.w 9)]

/-- Everything that CLK.OUTPUT writes. -/
def outputFields (r : FwReq) : List (Fld × Nat) :=
  enableFields r ++ (List.range 4).flatMap (mclkFields r) ++ (List.range 2).flatMap (wcoFields r)

/-- A word clock's settings written, and the clock aligned at once where it needs no edge. -/
def wcoSet (r : FwReq) (s : State) (k : Nat) : State :=
  let s1 := putFs (wcoFields r k) s
  if r.f (6 + k) 0 1 = 1 ∧ r.f (6 + k) 3 3 = 0 then alignWco k 0 s1 else s1

theorem wcoSet_regs (r : FwReq) (k : Nat) (s : State) : (wcoSet r s k).regs = (putFs (wcoFields r k) s).regs := by
  unfold wcoSet
  extract_lets s1
  split <;> rfl

theorem foldl_wcoSet_regs (r : FwReq) (ks : List Nat) {s t : State} (h : s.regs = t.regs) :
    (ks.foldl (wcoSet r) s).regs = (putFs (ks.flatMap (wcoFields r)) t).regs := by
  induction ks generalizing s t with
  | nil => exact h
  | cons k ks ih =>
    rw [List.flatMap_cons, putFs_append]
    exact ih ((wcoSet_regs r k s).trans (putFs_regs_congr h _))

theorem foldl_putFs (g : Nat → List (Fld × Nat)) (ks : List Nat) (s : State) :
    ks.foldl (fun s k => putFs (g k) s) s = putFs (ks.flatMap g) s := by
  induction ks generalizing s with
  | nil => rfl
  | cons k ks ih => rw [List.flatMap_cons, putFs_append, ← ih, List.foldl_cons]

/-- CLK.OUTPUT's own effect. -/
def outputsSet (r : FwReq) (s : State) : State :=
  let s2 := (List.range 4).foldl (fun s k => putFs (mclkFields r k) s) (putFs (enableFields r) s)
  let s3 := (List.range 2).foldl (wcoSet r) s2
  { s3 with oenDark := s3.oenDark.filter (· != CLK_OEN_MCLKO.addr) }

theorem outputsSet_regs (r : FwReq) (s : State) : (outputsSet r s).regs = (putFs (outputFields r) s).regs := by
  unfold outputFields
  rw [putFs_append, putFs_append]
  refine foldl_wcoSet_regs r _ ?_
  rw [foldl_putFs]

theorem outputFields_nodup (r : FwReq) : ((outputFields r).map (fun p => p.1.key)).Nodup := by
  have h : (outputFields r).map (fun p => p.1.key) = (outputFields ⟨0, 0, false, []⟩).map (fun p => p.1.key) := rfl
  rw [h]
  decide

theorem getF_outputsSet {r : FwReq} {s : State} {f : Fld} {v : Nat} (hm : (f, v) ∈ outputFields r) (hv : v % 2 ^ f.width = v) :
    getF (outputsSet r s) f = v :=
  (getF_of_regs_putFs (outputsSet_regs r s) (outputFields_nodup r) hm).trans hv

theorem f_mod_width (r : FwReq) (i lo w : Nat) : r.f i lo w % 2 ^ w = r.f i lo w := bits_mod_width _ lo w

theorem getF_outputsSet_mclk {r : FwReq} {s : State} {k : Nat} (hk : k < 4) : getF (outputsSet r s) (CLK_MCLK_CFG_EN k) = r.f (2 + k) 0 1
    ∧ getF (outputsSet r s) (CLK_MCLK_CFG_K k) = r.f (2 + k) 2 2 := by
  refine ⟨getF_outputsSet ?_ (f_mod_width r _ 0 1), getF_outputsSet ?_ (f_mod_width r _ 2 2)⟩ <;>
    interval_cases k <;> simp [outputFields, mclkFields, List.range_succ]

theorem getF_outputsSet_wco {r : FwReq} {s : State} {k : Nat} (hk : k < 2) : getF (outputsSet r s) (CLK_WCO_CFG_EN k) = r.f (6 + k) 0 1
    ∧ getF (outputsSet r s) (CLK_WCO_CFG_OFFSET k) = r.f (6 + k) 8 24 := by
  refine ⟨getF_outputsSet ?_ (f_mod_width r _ 0 1), getF_outputsSet ?_ (f_mod_width r _ 8 24)⟩ <;>
    interval_cases k <;> simp [outputFields, wcoFields, List.range_succ]

/-! ### The obligation -/

/-- Settles O14: each row's checks pass one after another; CLK.OUTPUT writes four master clocks, two word clocks and the enables, whose registers
are those of one list of writes without repetition (`outputsSet_regs`, `outputFields_nodup`). -/
theorem clockCommands : Obligations.ClockCommands := by
  refine ⟨fun r s k h hl hk hm ho h1 hx => .row_eq h fun q => ?ref,
    fun r s h hl hm ho hc hf => .row_eq h fun q => step_ok (len_of hl) <| step_ok (hm.own' q) <| step_ok ho <|
      step_ok (need_of (beq_iff_eq.2 hc)) <| step_ok (need_of (beq_iff_eq.2 hf)) <| step_ok (hm.quota' q) rfl,
    fun r s h hl hm h1 h2 h3 => .row_eq h fun q => step_ok (len_of hl) <| step_ok (hm.own' q) <|
      step_ok (need_of (by simp [h1, h2, h3])) <| step_ok (hm.quota' q) rfl,
    fun r s h hl hm h1 h2 => .row_eq h fun q => step_ok (len_of hl) <| step_ok (hm.own' q) <|
      step_ok (need_of (decide_eq_true h1)) <| step_ok (need_of (flag_of_ne_zero h2)) <| step_ok (hm.quota' q) rfl,
    fun r s h hl hm ho h1 => answer_row h fun q => step_ok (len_of hl) <| step_ok (hm.own' q) <| step_ok ho <|
      step_ok (need_of (decide_eq_true h1)) <| step_ok (hm.quota' q) rfl,
    fun r s e h hl hm ho h1 he => .row_eq h fun q => step_ok (len_of hl) <| step_ok (hm.own' q) <| step_ok ho <|
      step_ok (need_of (decide_eq_true h1)) <| step_ok (hm.quota' q) ?quality,
    fun r s h hl ha hm ho hc hk hw => .row (fun x => outputsSet r (acquire r 15 0 x)) h (fun q => ?output) fun q =>
      ⟨getF_outputsSet (.head _) (f_mod_width r 0 0 4), getF_outputsSet (.tail _ (.head _)) (f_mod_width r 0 4 2),
        getF_outputsSet (.tail _ (.tail _ (.head _))) (f_mod_width r 0 6 8),
        getF_outputsSet (.tail _ (.tail _ (.tail _ (.tail _ (.head _))))) (f_mod_width r 8 2 1),
        fun k hk => getF_outputsSet_mclk hk, fun k hk => getF_outputsSet_wco hk⟩,
    fun r s h hl ho => .row_same h fun q => step_ok (len_of hl) <| step_ok ho rfl⟩
  case ref =>
    subst hk
    refine step_ok (len_of hl) <| step_ok (hm.own' q) <| step_ok ho <| step_ok (need_of (bne_iff_ne.2 h1)) <|
      step_ok (need_of (not_or_of_imp fun hk => ?_)) <| step_ok (need_of (not_or_of_imp fun hk => ?_)) <| step_ok (hm.quota' q) rfl
    all_goals
      obtain ⟨h3, h4, h5⟩ := hx (by simpa using hk)
    · exact (Bool.and_eq_true_iff).2 ⟨decide_eq_true h3, decide_eq_true h4⟩
    · exact bne_iff_ne.2 h5
  case quality =>
    subst he
    split <;> rfl
  case output =>
    refine step_ok (len_of hl) <| step_ok (need_of ?_) <| step_ok (hm.own' q) <| step_ok ho <| step_ok (need_of (beq_iff_eq.2 hc)) <|
      step_ok (need_of (List.all_eq_true.2 fun k h => bne_iff_ne.2 (hk k h))) <|
      step_ok (need_of (List.all_eq_true.2 fun k h => ?_)) <| step_ok (hm.quota' q) rfl
    · simpa [and_assoc] using ha
    · obtain ⟨h1, h2, h3⟩ := hw k h
      rw [Bool.and_eq_true, Bool.and_eq_true]
      exact ⟨⟨bne_iff_ne.2 h1, decide_eq_true h2⟩, decide_eq_true h3⟩

end Sys2Proof.Machine

namespace Sys2Proof.Machine

/-! ## NET commands (R182, R187, R218, R376) -/

theorem inVariant_of_lt {i here most : Nat} (h : i < here) (hm : i < most) : inVariant i here most = .ok () :=
  step_ok (need_of (decide_eq_true hm)) (need_of (decide_eq_true h))

theorem f_lt (r : FwReq) (i lo w : Nat) : r.f i lo w < 2 ^ w := Nat.mod_lt _ (Nat.two_pow_pos w)

/-- What NET.IP writes of a MAC: the source address, the TTL and the tags of the transmit rings (R218). -/
def ipFields (r : FwReq) (m : Nat) : List (Fld × Nat) :=
  [(STR_IP_SRC_IP m, r.w 1), (STR_IPCFG_TTL m, r.f 4 0 8), (MAC_TX_TAG_TCI m 0, r.f 4 16 16),
    (MAC_TX_TAG_TAG_INS m 0, r.f 4 8 1), (MAC_TX_TAG_TCI m 1, r.f 4 16 16), (MAC_TX_TAG_TAG_INS m 1, r.f 4 8 1)]

theorem ipFields_nodup (r : FwReq) (m : Nat) : ((ipFields r m).map (fun p => p.1.key)).Nodup := by
  simp [ipFields, Fld.key, STR_IP_SRC_IP, STR_IPCFG_TTL, MAC_TX_TAG_TCI, MAC_TX_TAG_TAG_INS]
  omega

/-- What NET.PHY writes of a MAC: the polling descriptor and the map of what the PHY reports (R187). -/
def phyFields (r : FwReq) (m : Nat) : List (Fld × Nat) :=
  [(MAC_PHY_PHYAD m, r.f 1 0 5), (MAC_PHY_CL45 m, r.f 1 5 1), (MAC_PHY_DEVAD m, r.f 1 6 5), (MAC_PHY_INTERVAL m, r.f 1 11 5),
    (MAC_PHY_REG m, r.f 1 16 16), (MAC_PHY_MAP_LINK_BIT m, r.f 2 0 4), (MAC_PHY_MAP_SPD_SHIFT m, r.f 2 4 4),
    (MAC_PHY_MAP_CODE0 m, r.f 2 8 3), (MAC_PHY_MAP_CODE1 m, r.f 2 11 3), (MAC_PHY_MAP_CODE2 m, r.f 2 14 3),
    (MAC_PHY_MAP_CODE3 m, r.f 2 17 3)]

theorem phyFields_nodup (r : FwReq) (m : Nat) : ((phyFields r m).map (fun p => p.1.key)).Nodup := by
  simp [phyFields, Fld.key, MAC_PHY_PHYAD, MAC_PHY_CL45, MAC_PHY_DEVAD, MAC_PHY_INTERVAL, MAC_PHY_REG, MAC_PHY_MAP_LINK_BIT,
    MAC_PHY_MAP_SPD_SHIFT, MAC_PHY_MAP_CODE0, MAC_PHY_MAP_CODE1, MAC_PHY_MAP_CODE2, MAC_PHY_MAP_CODE3]
  omega

/-- NET.IP's own effect. -/
def ipSet (r : FwReq) (m : Nat) (s : State) : State :=
  let s1 := putFs (ipFields r m) s
  { s1 with fw := { s1.fw with ip := s1.fw.ip.put m [r.w 1, r.w 2, r.w 3] } }

theorem snapCounters_noted (m : Nat) (q : List PairEv) (s : State) : snapCounters m (noted q s) = noted q (snapCounters m s) := by
  unfold snapCounters
  induction List.range 48 generalizing s with
  | nil => rfl
  | cons i l ih => exact ih (putF (MAC_CNT_COUNT m i) 0 (putF (MAC_SNAP_COUNT m i) (getF s (MAC_CNT_COUNT m i)) s))

/-- Settles O15: each row's checks pass one after another; NET.IP and NET.PHY write lists of fields without repetition (`ipFields_nodup`,
`phyFields_nodup`), and a snapshot reads nothing that a relayed change adds (`snapCounters_noted`). -/
theorem netCommands : Obligations.NetCommands := by
  refine ⟨fun r s m h hl he hv hm ho h1 h2 h3 h4 hen => .row_eq h fun q => ?mac,
    fun r s m h hl he hv hm ho => .row (fun x => ipSet r m (acquire r 11 m x)) h (fun q => ?ip) fun q => ⟨_, rfl, .putFs (ipFields_nodup r m)⟩,
    fun r s m h hl he hv hm ho => .row (fun x => putFs (phyFields r m) (acquire r 11 m x)) h (fun q => ?phy)
      fun q => .putFs (phyFields_nodup r m),
    fun r s b op h hl hb hv hw ho he => answer_row h fun q => ?mdio,
    fun r s m h hl he hv ho h0 => .row_same h fun q => ?counters,
    fun r s m h hl he hv ho h1 hw => .row_eq h fun q => ?snapshot⟩
  case mac =>
    subst he
    refine step_ok (len_of hl) <| step_ok (inVariant_of_lt hv (f_lt r 0 0 2)) <| step_ok (hm.own' q) <| step_ok ho <|
      step_ok (need_of (by simp [h1, h2, h3, h4])) <| step_ok (need_of ?_) <| step_ok (hm.quota' q) rfl
    refine not_or_of_imp fun hf => ?_
    obtain h0 | ⟨e1, e2, e3, e4⟩ := hen
    · rw [flag_noted, flag_of_zero h0] at hf
      cases hf
    · simp [e1, e2, e3, e4]
  case ip =>
    subst he
    exact step_ok (len_of hl) <| step_ok (inVariant_of_lt hv (f_lt r 0 0 2)) <| step_ok (hm.own' q) <| step_ok ho <|
      step_ok (hm.quota' q) rfl
  case phy =>
    subst he
    exact step_ok (len_of hl) <| step_ok (inVariant_of_lt hv (f_lt r 0 0 2)) <| step_ok (hm.own' q) <| step_ok ho <|
      step_ok (hm.quota' q) rfl
  case mdio =>
    subst he hb
    refine step_ok (len_of hl) <| step_ok (need_of (decide_eq_true hv)) <| step_ok (need_of (Bool.or_eq_true_iff.2 hw)) <|
      step_ok ho ?_
    dsimp only
    split <;> rfl
  case counters =>
    subst he
    refine step_ok (len_of hl) <| step_ok (inVariant_of_lt hv (f_lt r 0 0 2)) <| step_ok (need_of (by rw [h0]; rfl)) <| step_ok ho ?_
    simp only [h0, show (0 == 1) = false from rfl, Bool.false_eq_true, if_false]
    rfl
  case snapshot =>
    subst he
    refine step_ok (len_of hl) <| step_ok (inVariant_of_lt hv (f_lt r 0 0 2)) <| step_ok (need_of (not_or_of_imp fun _ => hw)) <| step_ok ho ?_
    simp only [h1, show (1 == 1) = true from rfl, if_true, snapCounters_noted, getF_noted, regWordRaw_noted]
    rfl

end Sys2Proof.Machine

namespace Sys2Proof.Machine

/-! ## TIME commands (R25, R31, R226 to R232, R378) -/

/-- Settles O16: each row's checks pass one after another, so the row answers with its effect. -/
theorem timeCommands : Obligations.TimeCommands := by
  refine ⟨fun r s h hl hv hm ho => .row_eq h fun q => step_ok (len_of hl) <| step_ok (inVariant_of_lt hv (f_lt r 0 0 2)) <|
      step_ok (hm.own' q) <| step_ok ho <| step_ok (hm.quota' q) ?ptp,
    fun r s h hl => .row_same h fun q => step_ok (len_of hl) rfl,
    fun r s h hl hs hm hp h0 hc hn hr => .row (fun x => putF FAB_CPO_CPO_NS (r.w 0) (acquire r 12 0 (acquire r 1 0 x))) h (fun q => ?cpo)
      fun q => .putF _ _ _,
    fun r s t ws h hl hs hm hp hr hg => replied_row h hg fun q => step_ok (len_of hl) <| step_ok (audioSide_ok hs) <|
      step_ok (hm.own' q) <| step_ok (hp.own' q) <| step_ok (need_of hr) <| step_ok (hm.quota' q) <| step_ok (hp.quota' q) rfl,
    fun r s o start h hl he hm ho h3 hst => .row_eq h fun q => ?pulse,
    fun r s i h hl he hm ho => .row (fun x => putFs [(PTPI_CTL_EN i, r.f 0 3 1), (PTPI_CTL_EDGE i, r.f 0 4 2)] (acquire r 14 i x)) h
      (fun q => ?capture) fun q => .putFs ?captureKeys,
    fun r s i h hl he hm ho => .row_eq h fun q => ?capread,
    fun r s m h hl he hv hm ho => .row (fun x => putFs [(PTP_RXLAT_LAT m, r.w 1), (PTP_TXLAT_LAT m, r.w 2)] (acquire r 12 0 x)) h
      (fun q => ?latency) fun q => .putFs ?latencyKeys⟩
  case ptp =>
    rcases f_one r 0 5 with h0 | h1
    · simp only [h0]; rfl
    · simp only [h1]; rfl
  case cpo =>
    exact step_ok (len_of hl) <| step_ok (audioSide_ok hs) <| step_ok (hm.own' q) <| step_ok (hp.own' q) <|
      step_ok (need_of (decide_eq_true h0)) <| step_ok (need_of (beq_iff_eq.2 hc)) <| step_ok (need_of (decide_eq_true hn)) <|
      step_ok (need_of (by simp [hr])) <| step_ok (hm.quota' q) <| step_ok (hp.quota' q) rfl
  case pulse =>
    subst hst he
    exact step_ok (len_of hl) <| step_ok (hm.own' q) <| step_ok ho <| step_ok (need_of (decide_eq_true h3)) <| step_ok (hm.quota' q) rfl
  case capture =>
    subst he
    exact step_ok (len_of hl) <| step_ok (hm.own' q) <| step_ok ho <| step_ok (hm.quota' q) rfl
  case captureKeys => simp [Fld.key, PTPI_CTL_EN, PTPI_CTL_EDGE]
  case capread =>
    subst he
    exact step_ok (len_of hl) <| step_ok (hm.own' q) <| step_ok ho <| step_ok (hm.quota' q) rfl
  case latency =>
    subst he
    exact step_ok (len_of hl) <| step_ok (inVariant_of_lt hv (f_lt r 0 0 2)) <| step_ok (hm.own' q) <| step_ok ho <|
      step_ok (hm.quota' q) rfl
  case latencyKeys =>
    simp [Fld.key, PTP_RXLAT_LAT, PTP_TXLAT_LAT]

end Sys2Proof.Machine

namespace Sys2Proof.Machine

/-! ## DIAG commands (R328, R331, R382) -/

/-- A register of the fabric's page from the tiles' on, below the calendars, has no read of its own. -/
theorem regRead_tilePage {a : Nat} (s : State) (hp : a / 65536 = 0x2004) (hl : 0x1000 ≤ a % 65536) (hh : a % 65536 < 0x4000) :
    regRead a s = if absentReg s a then (0, s) else (readWord s (fieldsAt a), s) := by
  unfold regRead
  simp only [hp]
  congr 1
  rw [if_neg (by omega), if_neg (by omega), if_neg (by omega), if_neg (by omega), if_neg (by omega), if_neg (by omega),
    if_neg (by omega), if_neg (by omega)]

/-- The five registers of a tile that DIAG.COUNTS reports. -/
def tileCounts (n : Nat) (s : State) : List Nat := (List.range 5).map (fun k => (regRead ((TILE_STAT_STATE n).addr + 4 * k) s).1)

theorem tileCounts_noted {n : Nat} (hn : n < 32) (q : List PairEv) (s : State) : tileCounts n (noted q s) = tileCounts n s := by
  refine List.map_congr_left fun k hk => ?_
  have hk : k < 5 := List.mem_range.1 hk
  have ha : (TILE_STAT_STATE n).addr = 0x20041004 + 64 * n := rfl
  rw [ha, regRead_tilePage _ (by omega) (by omega) (by omega), regRead_tilePage _ (by omega) (by omega) (by omega)]
  show (ite (absentReg s _ = true) _ _ : Nat × State).1 = _
  split <;> rfl

theorem only_single {r : FwReq} {i m : Nat} (h : r.w i &&& (4294967295 - m) = 0) : r.only [(i, m)] = .ok () :=
  step_ok (need_of (beq_iff_eq.2 h)) rfl

/-- DIAG.DEBUG's first phase: the nonce drawn and kept (R382). -/
def nonceDrawn (s : State) : State :=
  { (takeFree s).2 with fw := { (takeFree s).2.fw with nonce := some (Config.debugNonce (takeFree s).1).toNat } }

/-- The words of the first phase's reply. -/
def nonceWords (s : State) : List Nat := (List.range 4).map (fun k => bits (Config.debugNonce (takeFree s).1).toNat (32 * k) 32)

/-- DIAG.DEBUG's second phase, its signature good. -/
def debugOpened (s : State) : State := { s with ctl := { s.ctl with debugOpen := true } }

/-- A command with a fixed answer is carried out once, with the STAGE events of its writes queued or with none. -/
theorem answer_of_effect (op : Nat) (r : FwReq) (e : State → State) (ws : List Nat) (s : State) :
    ∃ q, answer op r (fun x => .ok (e x, ws)) s
      = postReply r.seat (op * 65536 + r.seq % 256 * 256 + b2n r.asap) eOk ws (e (noted q s)) := by
  cases hr : relays s with
  | false => exact ⟨[], by rw [answer_of_ok op r (relayed_of_not_relays _ hr), noted_nil]⟩
  | true =>
    have h := relayed_of_relays (f := fun x => .ok (e x, ws)) hr rfl
    split at h
    · exact ⟨[], by rw [answer_of_ok op r h, noted_nil]⟩
    · exact ⟨_, answer_of_ok op r h⟩

/-- A debug row of a seat of a running firmware: the answer, and the nonce spent by a second phase. -/
theorem exec_diagDebug {r : FwReq} {s : State} (h : Asks r s) {g : State → FwM} (hf : ∀ q, fwDiagDebug r (noted q s) = g (noted q s)) :
    exec (.diagDebug r) s = .next (spendNonce r (answer 0x0E05 r g s)) := by
  have hs : (fwUp s && decide (r.seat < 4)) = true := by simp [h.up, h.seat]
  rw [← answer_congr hf]
  exact congrArg Host.Outcome.next (if_pos hs)

/-- Settles O17: each row's checks pass one after another; the counters of a tile read the same while a change is relayed
(`tileCounts_noted`), and DIAG.DEBUG, which spends the nonce with its attempt, answers by its phase (`exec_diagDebug`). -/
theorem diagCommands : Obligations.DiagCommands := by
  refine ⟨fun r s h hl h4 h1 h248 hle hrf => answer_row h fun q => ?read,
    fun r s n h hl hn hv h32 ho hm => .row (fun x => if r.f 0 8 1 = 1 then putFs [(TILE_ECC_CORR_CNT n, 0), (TILE_ECC_UNCORR_CNT n, 0),
      (TILE_SATCNT_STORE_SAT n, 0), (TILE_SATCNT_ACC_SAT n, 0)] (acquire r 1 0 x) else x) h (fun q => ?counts) fun q => ?cleared,
    fun r s f h hl h0 ho h3 h16 hf => answer_row h fun q => ?log,
    fun r s h hl h0 => .row_eq h fun q => step_ok (len_of hl) <| step_ok (steward_ok h0) rfl,
    fun r s h hl h0 ho hv => .row_eq h fun q => step_ok (len_of hl) <| step_ok (steward_ok h0) <| step_ok ho <|
      step_ok (need_of (decide_eq_true hv)) rfl,
    fun r s n h hl h0 hz hn => ?nonce,
    fun r s n h hl h0 h1 ho hn hd => ?opened⟩
  case read =>
    refine step_ok (len_of hl) <| step_ok (need_of (beq_iff_eq.2 h4)) <| step_ok (need_of (by simp [h1, h248, hle])) <|
      step_ok (need_of (List.all_eq_true.2 fun k hk => ?_)) rfl
    rw [hrf k (List.mem_range.1 hk)]
    rfl
  case counts =>
    subst hn
    refine step_ok (len_of hl) <| step_ok (inVariant_of hv h32) <| step_ok (when_ok fun c => (hm (beq_iff_eq.1 c)).own' q) <|
      step_ok ho <| step_ok (when_ok fun c => (hm (beq_iff_eq.1 c)).quota' q) ?_
    simp only [beq_iff_eq]
    exact congrArg (fun ws => Except.ok (_, ws)) (tileCounts_noted (lt_of_lt_of_le hv h32) q s)
  case cleared =>
    split
    · exact .putFs (by simp [Fld.key, TILE_ECC_CORR_CNT, TILE_ECC_UNCORR_CNT, TILE_SATCNT_STORE_SAT, TILE_SATCNT_ACC_SAT]; omega)
    · rfl
  case log =>
    subst hf
    exact step_ok (len_of hl) <| step_ok (steward_ok h0) <| step_ok ho <| step_ok (need_of (by simp [h3, h16])) rfl
  case nonce =>
    subst hn
    refine ⟨nonceDrawn, ?_, fun _ => rfl⟩
    have hf : r.f 0 0 1 = 0 := by unfold FwReq.f; rw [hz]; rfl
    rw [exec_diagDebug h (g := fun x => .ok (nonceDrawn x, nonceWords x)) fun q =>
      step_ok (len_of (by rw [if_pos hf, hl])) <| step_ok (steward_ok h0) <| step_ok (only_single (by rw [hz]; rfl)) ((if_pos hz).trans rfl)]
    exact congrArg Host.Outcome.next (if_neg fun hs => by simp [hl] at hs)
  case opened =>
    have hf : r.f 0 0 1 ≠ 0 := by unfold FwReq.f; rw [h1]; decide
    have hg := exec_diagDebug h (g := fun x => .ok (debugOpened x, [])) fun q =>
      step_ok (len_of (by rw [if_neg hf, hl])) <| step_ok (steward_ok h0) <| step_ok (only_single (by rw [h1]; rfl)) <|
        (if_neg (by rw [h1]; decide)).trans <| step_ok ho <| by
          rw [noted_fw, hn]
          exact step_ok (need_of hd) rfl
    obtain ⟨q, hq⟩ := answer_of_effect 0x0E05 r debugOpened [] s
    refine ⟨_, hg, ?_⟩
    rw [hq, show spendNonce r _ = _ from if_pos ⟨h0, hl, h1⟩]
    refine ⟨?_, rfl⟩
    exact congrArg (fun x : State => x.ctl.debugOpen) (postReply_rest r.seat _ eOk [] (debugOpened (noted q s)))

end Sys2Proof.Machine

namespace Sys2Proof.Machine

/-! ## PAIR commands (R297, R310 to R315, R381) -/

@[simp] theorem acquire_pair (r : FwReq) (k i : Nat) (s : State) : (acquire r k i s).pair = s.pair := by rw [acquire_eq]

@[simp] theorem acquire_pins (r : FwReq) (k i : Nat) (s : State) : (acquire r k i s).pins = s.pins := by rw [acquire_eq]

@[simp] theorem acquire_pwr (r : FwReq) (k i : Nat) (s : State) : (acquire r k i s).pwr = s.pwr := by rw [acquire_eq]

/-- Settles O18: each row's checks pass one after another, so the row answers with its effect; acquiring the object leaves the pair side and the
pins as they were (`acquire_pair`, `acquire_pins`). -/
theorem pairCommands : Obligations.PairCommands := by
  refine ⟨fun r s h hl hm ho h8 h2 h4 h1 => .row_eq h fun q => step_ok (len_of hl) <| step_ok (hm.own' q) <| step_ok ho <|
      step_ok (need_of (bne_iff_ne.2 h8)) <| step_ok (need_of (by simp [h2, h4])) <| step_ok (need_of (beq_iff_eq.2 h1)) <|
      step_ok (hm.quota' q) rfl,
    fun r s h hl => answer_row h fun q => step_ok (len_of hl) rfl,
    fun r s h hl hm hs => .row_eq h fun q => step_ok (len_of hl) <| step_ok (hm.own' q) <| step_ok (need_of (beq_iff_eq.2 hs)) <|
      step_ok (hm.quota' q) ?rejoin,
    fun r s h hl hm hc he hp h0 => .row_eq h fun q => step_ok (len_of hl) <| step_ok (hm.own' q) <|
      step_ok (need_of (Bool.and_eq_true_iff.2 ⟨flag_of_ne_zero hc, he⟩)) <| step_ok (need_of (beq_iff_eq.2 hp)) <|
      step_ok (hm.quota' q) <| step_ok (need_of (beq_iff_eq.2 h0)) ?restate,
    fun r s t ws h hl hm hr hc hs hg => replied_row h hg fun q => step_ok (len_of hl) <| step_ok (hm.own' q) <|
      step_ok (need_of (by simpa using hr)) <| step_ok (need_of (Bool.and_eq_true_iff.2 ⟨flag_of_ne_zero hc, beq_iff_eq.2 hs⟩)) <|
      step_ok (hm.quota' q) rfl,
    fun r s h hl hm => .row_eq h fun q => step_ok (len_of hl) <| step_ok (hm.own' q) <| step_ok (hm.quota' q) rfl⟩
  case rejoin =>
    simp only [acquire_pair, acquire_pins]
    rfl
  case restate =>
    simp only [acquire_pair]
    rfl

/-- Settles O19. -/
theorem powerCommands : Obligations.PowerCommands := by
  refine ⟨fun r s h hl hm ho h3 hw he hh hn hi hc => .row_eq h fun q => ?state,
    fun r s n h hl hn hb hm ho hw => answer_row h fun q => ?banks,
    fun r s h hl hm ho => .row_eq h fun q => step_ok (len_of hl) <| step_ok (hm.own' q) <| step_ok ho <| step_ok (hm.quota' q) rfl,
    fun r s h hl => .row_same h fun q => step_ok (len_of hl) rfl⟩
  case state =>
    refine step_ok (len_of hl) <| step_ok (hm.own' q) <| step_ok ho <| step_ok (need_of (decide_eq_true h3)) <|
      step_ok (need_of (by simpa [imp_iff_not_or] using hw)) <| step_ok (need_of ?here) <| step_ok (need_of ?image) <|
      step_ok (need_of ?claim) <| step_ok (hm.quota' q) ?entered
    case here =>
      have hh : (getF s PWR_STAT_STATE == 0 || getF s PWR_STAT_STATE == 1) = true := by simpa using hh
      have : (s.pwr.entering == 0 && (getF s PWR_STAT_STATE == 0 || getF s PWR_STAT_STATE == 1) && getF s PWR_STAT_STATE != r.w 0) = true := by
        simp only [hh, he, bne_iff_ne.2 hn]; rfl
      exact this
    case image => exact by simpa using hi
    case claim =>
      have hc : flag s PAIR_STAT_CLAIM = false ∨ partnerEligible s = false := hc.imp_left flag_of_zero
      show (!(flag s PAIR_STAT_CLAIM && partnerEligible s)) = true
      rcases hc with hc | hc <;> simp [hc]
    case entered =>
      simp only [acquire_pwr]
      generalize r.w 0 = d at h3
      match d, h3 with
      | 0, _ => rfl
      | 1, _ => rfl
      | 2, _ => rfl
  case banks =>
    subst hn
    exact step_ok (len_of hl) <| step_ok (need_of (decide_eq_true hb)) <| step_ok (hm.own' q) <| step_ok ho <|
      step_ok (need_of (beq_iff_eq.2 hw)) <| step_ok (hm.quota' q) rfl

end Sys2Proof.Machine

namespace Sys2Proof.Machine

/-! ## Power-on and pin reset (R3, R386, R387, R398) -/

/-- A field of a register store with no other parts but those a chip reset leaves. -/
theorem getF_chipReset (m : AMap Nat) (s : State) (f : Fld) : getF (chipReset m s) f = m.get f.key f.reset := rfl

/-- The fields of SYS_CAP and what each shows (R3). -/
def capFields (s : State) : List (Fld × Nat) :=
  [(SYS_CAP_VARIANT, bits (cap s) 0 2), (SYS_CAP_TILES, nTiles s), (SYS_CAP_ASH_BANKS, nBanks s), (SYS_CAP_AMP, b2n (hasAmp s)),
    (SYS_CAP_MACS, nMacs s), (SYS_CAP_SOERI_LANES, nSoeri s), (SYS_CAP_AES3, nAes s)]

/-- The causes a power-on reset records: its own, and a PIN reset that was running (R387). -/
def porCauses (s : State) : List (Fld × Nat) :=
  (SYS_RESET_CAUSE_POR, 1) :: if (s.ctl.boot == .inReset && flag s SYS_RESET_CAUSE_PIN) = true then [(SYS_RESET_CAUSE_PIN, 1)] else []

theorem porCauses_word {s : State} {p : Fld × Nat} (h : p ∈ porCauses s) : p.1.key / 32 = 0x2000000C := by
  unfold porCauses at h
  split at h <;> simp only [List.mem_cons, List.not_mem_nil, or_false] at h
  · rcases h with rfl | rfl <;> rfl
  · subst h
    rfl

theorem capFields_word {s : State} {p : Fld × Nat} (h : p ∈ capFields s) : p.1.key / 32 = 0x20000010 :=
  (show ∀ f ∈ [SYS_CAP_VARIANT, SYS_CAP_TILES, SYS_CAP_ASH_BANKS, SYS_CAP_AMP, SYS_CAP_MACS, SYS_CAP_SOERI_LANES, SYS_CAP_AES3],
    f.key / 32 = 0x20000010 by decide) p.1 (List.mem_map_of_mem (f := Prod.fst) h)

theorem porReset_eq (s : State) : porReset s = putFs (capFields s) (setIf SYS_RESET_CAUSE_PIN
    (s.ctl.boot == .inReset && flag s SYS_RESET_CAUSE_PIN) (putF SYS_RESET_CAUSE_POR 1 (chipReset [] s))) := by
  unfold porReset
  cases s.ctl.boot == .inReset && flag s SYS_RESET_CAUSE_PIN <;> rfl

/-- A power-on reset leaves the empty register store with its causes and the capability word written. -/
theorem porReset_onlyFields (s : State) : OnlyFields (chipReset [] s) (porReset s) (porCauses s ++ capFields s) := by
  have hc : OnlyFields (chipReset [] s) _ (porCauses s) :=
    .putF_setIf (chipReset [] s) (f := SYS_RESET_CAUSE_POR) (g := SYS_RESET_CAUSE_PIN) 1 (by decide) Iff.rfl
  rw [porReset_eq]
  refine hc.append (.putFs (l := capFields s) ?_) fun p hp q hq e => ?_
  · exact (show ([SYS_CAP_VARIANT, SYS_CAP_TILES, SYS_CAP_ASH_BANKS, SYS_CAP_AMP, SYS_CAP_MACS, SYS_CAP_SOERI_LANES,
      SYS_CAP_AES3].map Fld.key).Nodup by decide)
  · have h := capFields_word hq
    rw [← e, porCauses_word hp] at h
    exact absurd h (by decide)

theorem bits_lt (v lo w : Nat) : bits v lo w < 2 ^ w := Nat.mod_lt _ (Nat.two_pow_pos w)

theorem bits_mod (v lo w : Nat) : bits v lo w % 2 ^ w = bits v lo w := Nat.mod_eq_of_lt (bits_lt v lo w)

/-- A power-on reset shows the fuses in SYS_CAP. -/
theorem getF_porReset_cap {s : State} {p : Fld × Nat} (h : p ∈ capFields s) : getF (porReset s) p.1 = p.2 := by
  rw [(porReset_onlyFields s).written p (List.mem_append_right _ h)]
  simp only [capFields, List.mem_cons, List.not_mem_nil, or_false] at h
  rcases h with rfl | rfl | rfl | rfl | rfl | rfl | rfl
  case inr.inr.inr.inl => exact b2n_mod_two _
  all_goals exact bits_mod _ _ _

/-- What a PIN reset keeps of the registers: the fields that only POR clears. -/
def porKept (s : State) : AMap Nat :=
  s.regs.filter (fun p => match fieldOfKey p.1 with | some f => f.cls == .por | none => false)

/-- A key that a filter drops, whatever its value, is not in the store. -/
theorem get_filter_of_dropped {α : Type} {q : Nat × α → Bool} {k : Nat} (m : AMap α) (d : α) (h : ∀ v, q (k, v) = false) :
    AMap.get (m.filter q) k d = d := by
  induction m with
  | nil => rfl
  | cons p m ih =>
    obtain ⟨i, v⟩ := p
    rw [List.filter_cons]
    split
    · next hq =>
      have hi : i ≠ k := fun e => by rw [e, h v] at hq; exact absurd hq (by simp)
      exact (if_neg hi).trans ih
    · exact ih

theorem get_porKept (s : State) (k d : Nat) :
    (porKept s).get k d = if (fieldOfKey k).any (fun g => g.cls == .por) then s.regs.get k d else d := by
  split
  · next h =>
    refine s.regs.get_filter_of_kept d fun _ => ?_
    cases hf : fieldOfKey k with
    | none => simp [hf] at h
    | some f => simpa [hf] using h
  · next h =>
    refine get_filter_of_dropped s.regs d fun _ => ?_
    cases hf : fieldOfKey k with
    | none => rfl
    | some f => simpa [hf] using h

theorem pinReset_eq (s : State) : pinReset s = putF SYS_RESET_CAUSE_PIN 1 (bump LIFE_CNT_PIN_RESETS 1 (chipReset (porKept s) s)) := rfl

/-- Settles O20: both resets are a chip reset, after which a field holds what the kept registers hold for it (`getF_chipReset`), followed by the
writes of the causes and fuses (`porReset_onlyFields`) or of the pin's (`pinReset_eq`, `get_porKept`). -/
theorem powerOnAndPinReset : Obligations.PowerOnAndPinReset := by
  refine ⟨fun s => ?por, fun s => ?pin⟩
  case por =>
    have h := porReset_onlyFields s
    have hcap {f : Fld} {v : Nat} (hm : (f, v) ∈ capFields s) : getF (porReset s) f = v := getF_porReset_cap (p := (f, v)) hm
    have hr : porReset s = chipReset (porReset s).regs s := h.rest
    refine ⟨porReset s, rfl, hr, by rw [hr]; rfl, by rw [hr]; rfl, by rw [hr]; rfl, by rw [hr]; rfl, by rw [hr]; rfl, ?cause,
      hcap ?tiles, hcap ?banks, hcap ?macs, hcap ?aes, hcap ?amp, hcap ?soeri, hcap ?variant, fun f hc hp => ?others⟩
    case cause => exact h.written (SYS_RESET_CAUSE_POR, 1) (by simp [porCauses])
    case others =>
      refine h.others f fun p hm e => ?_
      rcases List.mem_append.1 hm with hm | hm
      · exact hc (e ▸ porCauses_word hm)
      · exact hp (e ▸ capFields_word hm)
    all_goals simp [capFields]
  case pin =>
    have hne : LIFE_CNT_PIN_RESETS.key ≠ SYS_RESET_CAUSE_PIN.key := by decide
    refine ⟨pinReset s, rfl, rfl, rfl, rfl, rfl, rfl, rfl, ?_, ?_, fun f hp hr => ?_⟩
    · rw [pinReset_eq, getF_putF_self]
      rfl
    · rw [pinReset_eq, getF_putF_ne _ _ hne, getF_bump_self, getF_chipReset, get_porKept, if_pos (by decide)]
      rfl
    · rw [pinReset_eq, getF_putF_ne _ _ hp, getF_bump_ne _ _ hr, getF_chipReset, get_porKept]
      rfl

end Sys2Proof.Machine

namespace Sys2Proof.Machine

/-! ## Resets of the control domain, the fabric and a seat (R325, R386, R387, R398) -/

/-! ### A requested CTL reset -/

theorem masterReset_rest (m : Nat) (s : State) : masterReset m s = { s with vsr := (masterReset m s).vsr } := by
  unfold masterReset
  dsimp only
  split <;> rfl

theorem masterResets_rest (l : List Nat) (s : State) : l.foldl (fun s m => masterReset m s) s
    = { s with vsr := (l.foldl (fun s m => masterReset m s) s).vsr } := by
  induction l generalizing s with
  | nil => rfl
  | cons m l ih => rw [List.foldl_cons, ih, masterReset_rest]

/-- A field that a reset clears reads as its reset value. -/
theorem get_clearClasses_cleared {cs : List Cleared} {k : Nat} (m : AMap Nat) (d : Nat) (h : clearedBy cs k = true) :
    (clearClasses cs m).get k d = d := by
  refine get_filter_of_dropped m d fun _ => ?_
  unfold clearedBy at h
  dsimp only
  split
  · next f hf => simpa [hf] using h
  · next hf => simp [hf] at h

/-- What a CTL reset does last: staging dropped, STEER ended, a restate restarted and RESTART raised (R313, R325). -/
def ctlFinished (s : State) : State := irqAll 3 (restartPass (setSteer false (dropStaging s)))

theorem ctlFinished_ctl (s : State) : (ctlFinished s).ctl = s.ctl := by
  rw [ctlFinished, ((Told.refl _).irqAll 3).rest]
  unfold restartPass
  have h : (setSteer false (dropStaging s)).ctl = s.ctl := by
    unfold setSteer
    rw [Bool.false_and, Bool.false_and, if_neg Bool.false_ne_true]
    split <;> rfl
  split <;> exact h

theorem getF_ctlFinished {f : Fld} (s : State) (h : f.key ≠ CLK_STAT_STEER.key) (ht : tellKey f.key = false) :
    getF (ctlFinished s) f = getF s f := by
  rw [ctlFinished, ((Told.refl _).irqAll 3).getF f ht]
  have hs : getF (setSteer false (dropStaging s)) f = getF s f := by
    unfold setSteer
    rw [Bool.false_and, Bool.false_and, if_neg Bool.false_ne_true]
    split
    · exact getF_putF_ne _ _ h
    · rfl
  unfold restartPass
  split <;> exact hs

/-- The fields a CTL reset sets once the control domain is cleared. -/
def ctlRestarted : List (Fld × Nat) := [(LIFE_STATUS_CTL_RESTART, 1), (LIFE_STATUS_BOOT_ROM, 1), (CLK_DPLL_CTL_STEER, 0)]

theorem setIf_ctl (f : Fld) (b : Bool) (s : State) : (setIf f b s).ctl = s.ctl := by rw [setIf_regs]

/-- A CTL reset: the counters advanced, the control domain cleared, the boot ROM on its CTL path, and its end. -/
theorem ctlReset_eq (s : State) : ∃ u, ctlReset s = ctlFinished (putFs ctlRestarted u)
    ∧ u.ctl = { s.ctl with boot := .romCtl, reqWdt := false, reqLock := false, reqSoft := false, kick := none, wram := [] }
    ∧ (∀ f : Fld, clearedBy [.ppc, .ppcs] f.key = true → getF u f = f.reset)
    ∧ getF u SYS_RESET_CAUSE_CTL_COUNT = (getF s SYS_RESET_CAUSE_CTL_COUNT + 1) % 256 := by
  unfold ctlReset
  extract_lets -merge -useContext s1 fail s2 s3 q1 ctl q2 fw q3 net q4 s4
  have h1 : s1 = { s with vsr := s1.vsr } := masterResets_rest _ s
  clear_value s1
  have h2 : s2.ctl = s.ctl := by
    simp only [s2, setIf_ctl, wrap_ctl]
    rw [h1]
  have hc : getF s2 SYS_RESET_CAUSE_CTL_COUNT = (getF s SYS_RESET_CAUSE_CTL_COUNT + 1) % 256 := by
    simp only [s2]
    rw [getF_setIf_ne _ _ (by decide), getF_setIf_ne _ _ (by decide), getF_setIf_ne _ _ (by decide), getF_setIf_ne _ _ (by decide),
      wrap, getF_putF_self, h1]
    rfl
  clear_value s2
  refine ⟨s4, rfl, ?_, fun f hf => get_clearClasses_cleared _ _ hf, (get_clearClasses _ _ (by decide)).trans hc⟩
  change { s2.ctl with boot := .romCtl, reqWdt := false, reqLock := false, reqSoft := false, kick := none, wram := [] } = _
  rw [h2]

/-! ### The FAB reset -/

/-- A session dropped, whoever holds it. -/
def sessionDropped (s : State) : State :=
  match s.fab.session with
  | some x => dropSession x.seat s
  | none => s

theorem sessionDropped_rest (s : State) : sessionDropped s = { s with regs := (sessionDropped s).regs, fab := (sessionDropped s).fab } := by
  unfold sessionDropped
  split
  · next x _ =>
    rw [dropSession_rest]
  · rfl

/-- Pairs put into a register store under other keys leave a key's read alone. -/
theorem get_foldl_put {k d : Nat} (l : AMap Nat) (m : AMap Nat) (h : ∀ p ∈ l, p.1 ≠ k) :
    (l.foldl (fun (m : AMap Nat) p => m.put p.1 p.2) m).get k d = m.get k d := by
  induction l generalizing m with
  | nil => rfl
  | cons p l ih =>
    rw [List.foldl_cons, ih _ fun q hq => h q (List.mem_cons_of_mem p hq)]
    exact AMap.get_put_ne _ _ _ (h p List.mem_cons_self).symm

/-- A field that is not of the stage bus and that a FAB reset clears reads as its reset value after it. -/
theorem getF_fabReset {f : Fld} (quiet : Bool) (s : State) (hc : clearedBy [.ppf] f.key = true) (ht : tellKey f.key = false)
    (hk : ¬ (0x200D0700 ≤ f.key / 32 ∧ f.key / 32 < 0x200D0720)) : getF (fabReset quiet s) f = f.reset := by
  rw [fabReset, (watchLife_told _ s).getF f ht, getF]
  dsimp only
  rw [get_foldl_put]
  · refine AMap.get_of_notMem _ fun p hp e => ?_
    have hp := (List.mem_filter.1 (List.mem_of_mem_filter hp)).2
    unfold clearedBy at hc
    rw [← e] at hc
    split at hc
    · next g hg => simp [hg] at hp hc; exact hp hc
    · simp at hc
  · intro p hp e
    split at hp
    · exact hk (by simpa [e] using (List.mem_filter.1 hp).2)
    · simp at hp

/-- ATTACHED of a seat is cleared by a CTL reset, and set by none of what the reset does beside. -/
theorem attachedKeys : ∀ n < 4, (DB_STAT_ATTACHED n).key ≠ CLK_STAT_STEER.key ∧ tellKey (DB_STAT_ATTACHED n).key = false
    ∧ (DB_STAT_ATTACHED n).key ∉ ctlRestarted.map (fun p => p.1.key) ∧ clearedBy [.ppc, .ppcs] (DB_STAT_ATTACHED n).key = true := by
  decide

/-! ### A SEAT reset -/

/-- The seat as its reset leaves it: as at reset, but for the UDP binding and the mute pair. -/
def seatAsReset (x : Seat) : Seat :=
  { Seat.init with udpPort := x.udpPort, udpSrc := x.udpSrc, udpMask := x.udpMask, udpDropped := x.udpDropped, mutePw := x.mutePw }

/-- The fields of a seat with the reset values. -/
def seatResetFields (n : Nat) : List (Fld × Nat) := (seatFields n).map (fun f => (f, f.reset))

theorem seatResetFields_nodup : ∀ n < 4, ((seatResetFields n).map (fun p => p.1.key)).Nodup := by decide

/-- The attachment ended where there is one. -/
def seatLeft (n : Nat) (s : State) : State := if attached s n then endAttach n s else s

/-- A SEAT reset but for the bound QSPI port: the end of the attachment, the seat as at reset and its fields with their reset values. -/
def seatCleared (n : Nat) (s : State) : State :=
  putFs (seatResetFields n) (updSeat n (fun _ => seatAsReset (seatOf (seatLeft n s) n)) (seatLeft n s))

theorem masterReset_vsr (m : Nat) (s : State) : ∃ v, masterReset m s = { s with vsr := v } := ⟨_, masterReset_rest m s⟩

theorem seatReset_eq (n : Nat) (s : State) : ∃ v q, seatReset n s = { seatCleared n s with vsr := v, qspi := q } := by
  have hc : (seatFields n).foldl (fun s f => putF f f.reset s) (updSeat n (fun _ => seatAsReset (seatOf (seatLeft n s) n))
      (seatLeft n s)) = seatCleared n s := by rw [seatCleared, putFs, seatResetFields, List.foldl_map]
  have hr : seatReset n s = if getF (seatCleared n s) (HOST_BIND_IF n) = 2 then
      masterReset (3 + getF (seatCleared n s) (HOST_BIND_INDEX n))
        { seatCleared n s with qspi := (seatCleared n s).qspi.erase (getF (seatCleared n s) (HOST_BIND_INDEX n)) }
      else seatCleared n s := by
    rw [← hc]
    rfl
  rw [hr]
  generalize seatCleared n s = x
  split
  · obtain ⟨v, hv⟩ := masterReset_vsr (3 + getF x (HOST_BIND_INDEX n)) { x with qspi := x.qspi.erase (getF x (HOST_BIND_INDEX n)) }
    exact ⟨v, _, hv⟩
  · exact ⟨_, _, rfl⟩

theorem seatCleared_rest (n : Nat) (s : State) : ∃ m a, seatCleared n s = { seatLeft n s with regs := m, seats := a } :=
  ⟨_, _, putFs_eq _ _⟩

theorem seatOf_seatCleared (n : Nat) (s : State) : seatOf (seatCleared n s) n = seatAsReset (seatOf (seatLeft n s) n) := by
  rw [seatCleared, seatOf, putFs_seats, ← seatOf, seatOf_updSeat, if_pos rfl]

theorem getF_seatCleared {n : Nat} (hn : n < 4) {f : Fld} (h : (f, 0) ∈ seatResetFields n) (s : State) : getF (seatCleared n s) f = 0 :=
  ((OnlyFields.putFs (seatResetFields_nodup n hn)).written (f, 0) h).trans (Nat.zero_mod _)

/-- The end of an attachment leaves the slot plane, the tiles, the routes, the CI and the image. -/
theorem seatLeft_parts (n : Nat) (s : State) : (seatLeft n s).plane = s.plane ∧ (seatLeft n s).tiles = s.tiles
    ∧ (seatLeft n s).rte = s.rte ∧ (seatLeft n s).fab.ci = s.fab.ci ∧ (seatLeft n s).fab.img = s.fab.img := by
  unfold seatLeft
  split
  · obtain ⟨t, he, ht⟩ := endAttach_told n s
    have hd := dropSession_rest n (updSeat n Seat.detached s)
    rw [he]
    have keep {α : Type} (part : State → α) : part t = _ := congrArg part ht.rest
    have drop {α : Type} (part : State → α) : part (stripped n s) = _ := congrArg part hd
    exact ⟨(keep (·.plane)).trans (drop (·.plane)), (keep (·.tiles)).trans (drop (·.tiles)), (keep (·.rte)).trans (drop (·.rte)),
      (keep (·.fab.ci)).trans (drop (·.fab.ci)), (keep (·.fab.img)).trans (drop (·.fab.img))⟩
  · exact ⟨rfl, rfl, rfl, rfl, rfl⟩

/-- Settles O21: a CTL reset ends in writes that nothing after them undoes (`ctlReset_eq`, `getF_ctlFinished`); a FAB reset clears the fields of its
class but for those that it writes again (`getF_fabReset`); a SEAT reset leaves the seat cleared (`seatReset_eq`,
`getF_seatCleared`). What the resets leave alone is read off their equations. -/
theorem controlFabAndSeatReset : Obligations.ControlFabAndSeatReset := by
  refine ⟨fun s h => ?ctl, fun s h => if_neg (by simp [h]), fun s h => if_pos h, fun q s => ?fab, fun n s hn hr => ?seat⟩
  case ctl =>
    obtain ⟨u, he, hu, hz, hn⟩ := ctlReset_eq s
    have hs : OnlyFields u (putFs ctlRestarted u) ctlRestarted := .putFs (by decide)
    have field {f : Fld} (h : f.key ≠ CLK_STAT_STEER.key) (ht : tellKey f.key = false) :
        getF (ctlReset s) f = getF (putFs ctlRestarted u) f := by rw [he, getF_ctlFinished _ h ht]
    have hctl : (ctlReset s).ctl = u.ctl := by rw [he, ctlFinished_ctl, putFs_ctl]
    rw [hu] at hctl
    refine ⟨ctlReset s, if_pos h, by rw [hctl], by rw [hctl], by rw [hctl], by rw [hctl], by rw [hctl], ?_, ?_, ?_, ?_, ?_, fun n hn => ?_⟩
    · rw [field (by decide) (by decide)]
      exact hs.written (LIFE_STATUS_CTL_RESTART, 1) (by simp [ctlRestarted])
    · rw [field (by decide) (by decide)]
      exact hs.written (LIFE_STATUS_BOOT_ROM, 1) (by simp [ctlRestarted])
    · rw [field (by decide) (by decide), hs.getF_of_notMem (by decide), hz _ (by decide)]
      rfl
    · rw [field (by decide) (by decide), hs.getF_of_notMem (by decide), hn]
    · rw [field (by decide) (by decide)]
      exact hs.written (CLK_DPLL_CTL_STEER, 0) (by simp [ctlRestarted])
    · obtain ⟨hd, ht, hm, hc⟩ := attachedKeys n hn
      rw [attached, flag, field hd ht, hs.getF_of_notMem hm, hz _ hc]
      rfl
  case fab =>
    refine ⟨_, rfl, ?_⟩
    have ht := (watchLife_told _ s).rest (t := fabReset q s)
    have keep {α : Type} (part : State → α) : part (fabReset q s) = _ := congrArg part ht
    have drop {α : Type} (part : State → α) : part (sessionDropped s) = _ := congrArg part (sessionDropped_rest s)
    refine ⟨(keep (·.ptp)).trans (drop (·.ptp)), (keep (·.ptpIo)).trans (drop (·.ptpIo)), (keep (·.clk)).trans (drop (·.clk)),
      (keep (·.ctl)).trans (drop (·.ctl)), keep (·.ash.mem), (keep (·.net)).trans (drop (·.net)),
      (keep (·.fuses)).trans (drop (·.fuses)), keep (·.fab.img), keep (·.fab.cal), keep (·.fab.sched), keep (·.fab.session),
      keep (·.rte), keep (·.dyn), keep (·.plane), ?_, ?_⟩
    · rw [running, flag, getF_fabReset q s (by decide) (by decide) (by decide)]
      rfl
    · exact getF_fabReset q s (by decide) (by decide) (by decide)
  case seat =>
    obtain ⟨v, q, he⟩ := seatReset_eq n s
    have field {f : Fld} (hm : (f, 0) ∈ seatResetFields n) : getF (seatReset n s) f = 0 := by
      have hs : (seatReset n s).regs = (seatCleared n s).regs := by rw [he]
      rw [getF, hs, ← getF, getF_seatCleared hn hm]
    have hseat : seatOf (seatReset n s) n = seatAsReset (seatOf (seatLeft n s) n) := by
      have hs : (seatReset n s).seats = (seatCleared n s).seats := by rw [he]
      rw [seatOf, hs, ← seatOf, seatOf_seatCleared]
    obtain ⟨m, a, hc⟩ := seatCleared_rest n s
    rw [hc] at he
    have keep {α : Type} (part : State → α) : part (seatReset n s) = _ := congrArg part he
    obtain ⟨hplane, htiles, hrte, hci, himg⟩ := seatLeft_parts n s
    refine ⟨seatReset n s, if_pos (by simp [hn, hr]), ?_, by rw [hseat]; rfl, by rw [hseat]; rfl, by rw [hseat]; rfl, by rw [hseat]; rfl,
      by rw [hseat]; rfl, by rw [hseat]; rfl, field ?_, field ?_, field ?_, field ?_, (keep (·.plane)).trans hplane,
      (keep (·.tiles)).trans htiles, (keep (·.rte)).trans hrte, (keep (·.fab.ci)).trans hci, (keep (·.fab.img)).trans himg⟩
    · rw [attached, flag, field (by simp [seatResetFields, seatFields, DB_STAT_ATTACHED])]
      rfl
    all_goals simp [seatResetFields, seatFields, DB_STAT_CMD_BUSY, DB_STAT_REPLY_READY, EV_HEAD_HEAD, EV_TAIL_TAIL]

end Sys2Proof.Machine

namespace Sys2Proof.Machine

/-! ## The link and its budget (R296 to R299) -/

/-! ### The link's modes and budget (R296, R299) -/

/-- A mode's lanes and rate code fit their fields. -/
theorem linkMode_fits (i : Nat) : (linkModes.getD i (4, 0)).1 < 8 ∧ (linkModes.getD i (4, 0)).2 < 4 := by
  by_cases h : i < 12
  · exact (show ∀ i < 12, (linkModes.getD i (4, 0)).1 < 8 ∧ (linkModes.getD i (4, 0)).2 < 4 by decide) i h
  · rw [List.getD_eq_default _ _ (by simpa [linkModes] using h)]
    decide

theorem halfRate_times {r : Nat} (h : r < 4) :
    halfRate r * 50000000 = [16000000000, 12500000000, 10000000000, 6250000000].getD r 0 :=
  (show ∀ r < 4, halfRate r * 50000000 = [16000000000, 12500000000, 10000000000, 6250000000].getD r 0 by decide) r h

/-- A number cut to whole units of `m` lies less than a unit below it. -/
theorem cut_bounds (x d m : Nat) (hd : 0 < d) (hm : 0 < m) : x / d / m * m * d ≤ x ∧ x < (x / d / m * m + m) * d := by
  constructor
  · calc x / d / m * m * d ≤ x / d * d := Nat.mul_le_mul_right d (Nat.div_mul_le_self _ _)
      _ ≤ x := Nat.div_mul_le_self _ _
  · have h : x / d < x / d / m * m + m := by
      have := Nat.lt_div_mul_add (a := x / d) hm
      exact this
    exact (Nat.div_lt_iff_lt_mul hd).1 h

/-- The budget as the registers give the mode; without a link none. -/
def budgetShown (s : State) : Nat :=
  if flag s PAIR_LINK_STAT_UP then budgetOf (getF s PAIR_LINK_STAT_LANES) (getF s PAIR_LINK_STAT_RATE) (fsOf s) else 0

/-- The fields that show the budget, with their values. -/
def budgetFields (s : State) : List (Fld × Nat) :=
  [(PAIR_BUDGET_BUDGET, budgetShown s), (PAIR_LINK_STAT_BELOW_BUDGET, b2n (running s && budgetShown s < recordBytes s))]

theorem setBudget_onlyFields (s : State) : OnlyFields s (setBudget s) (budgetFields s) :=
  .putFs (show ([PAIR_BUDGET_BUDGET, PAIR_LINK_STAT_BELOW_BUDGET].map Fld.key).Nodup by decide)

/-! ### A mode that trains (R297, R298) -/

theorem checkUnit_onlyFields (u : Nat) (s : State) :
    OnlyFields s (checkUnit u s) (if u = getF s PAIR_STAT_UNIT then [(PAIR_STAT_UNIT_CLASH, 1)] else []) := by
  unfold checkUnit setIf
  by_cases h : u = getF s PAIR_STAT_UNIT
  · rw [if_pos (beq_iff_eq.2 h), if_pos h]
    exact .putF s _ 1
  · rw [if_neg (by simpa using h), if_neg h]
    exact .nil s

theorem checkUnit_kept {f : Fld} (u : Nat) (s : State) (h : f.key ≠ PAIR_STAT_UNIT_CLASH.key) : getF (checkUnit u s) f = getF s f :=
  (checkUnit_onlyFields u s).others f fun p hp => by
    split at hp
    · rw [List.mem_singleton.1 hp]
      exact h
    · simp at hp

theorem checkUnit_clash {u : Nat} {s : State} (h : u = getF s PAIR_STAT_UNIT) : getF (checkUnit u s) PAIR_STAT_UNIT_CLASH = 1 := by
  have hc := checkUnit_onlyFields u s
  rw [if_pos h] at hc
  exact hc.written (PAIR_STAT_UNIT_CLASH, 1) List.mem_cons_self

/-- Reporting the image says something over the link at most. -/
theorem reportImage_parts (s : State) : (reportImage s).regs = s.regs ∧ (reportImage s).pair = s.pair := by
  unfold reportImage
  split
  · split <;> exact ⟨rfl, rfl⟩
  · exact ⟨rfl, rfl⟩

/-- The fields of a link that has come up. -/
def linkUpFields (m : Nat × Nat) (d : Nat) : List (Fld × Nat) :=
  [(PAIR_LINK_STAT_TRAINING, 0), (PAIR_LINK_STAT_UP, 1), (PAIR_LINK_STAT_LANES, m.1), (PAIR_LINK_STAT_RATE, m.2),
    (PAIR_LINK_DELAY_DELAY, min d 65535)]

/-- The state with the partner's identity checked and the link in the mode. -/
def linkUpIn (u d : Nat) (m : Nat × Nat) (s : State) : State :=
  putFs (linkUpFields m d) { checkUnit u s with pair := { (checkUnit u s).pair with down := 0 } }

theorem linkUpIn_onlyFields (u d : Nat) (m : Nat × Nat) (s : State) :
    OnlyFields { checkUnit u s with pair := { (checkUnit u s).pair with down := 0 } } (linkUpIn u d m s) (linkUpFields m d) :=
  .putFs (show ([PAIR_LINK_STAT_TRAINING, PAIR_LINK_STAT_UP, PAIR_LINK_STAT_LANES, PAIR_LINK_STAT_RATE,
    PAIR_LINK_DELAY_DELAY].map Fld.key).Nodup by decide)

/-- A field that neither the check of the identity nor the link's coming up writes. -/
theorem getF_linkUpIn {f : Fld} (u d : Nat) (m : Nat × Nat) (s : State) (hc : f.key ≠ PAIR_STAT_UNIT_CLASH.key)
    (hl : f.key ∉ (linkUpFields m d).map (fun p => p.1.key)) : getF (linkUpIn u d m s) f = getF s f := by
  rw [(linkUpIn_onlyFields u d m s).getF_of_notMem hl]
  exact checkUnit_kept u s hc

theorem linkUpIn_parts (u d : Nat) (m : Nat × Nat) (s : State) :
    (linkUpIn u d m s).fab = s.fab ∧ (linkUpIn u d m s).pair = { s.pair with down := 0 } := by
  have h := (linkUpIn_onlyFields u d m s).rest
  have hc := (checkUnit_onlyFields u s).rest
  have hp : (checkUnit u s).pair = s.pair := by rw [hc]
  have hf : (checkUnit u s).fab = s.fab := by rw [hc]
  rw [h]
  exact ⟨hf, congrArg (fun p : Pair => { p with down := 0 }) hp⟩

theorem budgetShown_linkUpIn (u d k : Nat) (s : State) : budgetShown (linkUpIn u d (linkModes.getD k (4, 0)) s)
    = budgetOf (linkModes.getD k (4, 0)).1 (linkModes.getD k (4, 0)).2 (fsOf s) := by
  obtain ⟨h8, h4⟩ := linkMode_fits k
  have hw := (linkUpIn_onlyFields u d (linkModes.getD k (4, 0)) s).written
  generalize linkModes.getD k (4, 0) = m at *
  have hup : flag (linkUpIn u d m s) PAIR_LINK_STAT_UP = true := by
    rw [flag, hw (PAIR_LINK_STAT_UP, 1) (by simp [linkUpFields])]
    rfl
  have hl : getF (linkUpIn u d m s) PAIR_LINK_STAT_LANES = m.1 :=
    (hw (PAIR_LINK_STAT_LANES, m.1) (by simp [linkUpFields])).trans (Nat.mod_eq_of_lt h8)
  have hr : getF (linkUpIn u d m s) PAIR_LINK_STAT_RATE = m.2 :=
    (hw (PAIR_LINK_STAT_RATE, m.2) (by simp [linkUpFields])).trans (Nat.mod_eq_of_lt h4)
  have hf : fsOf (linkUpIn u d m s) = fsOf s := by
    unfold fsOf rmOf
    rw [getF_linkUpIn u d m s (by decide) (by simp [linkUpFields]; decide), getF_linkUpIn u d m s (by decide) (by simp [linkUpFields]; decide)]
  rw [budgetShown, if_pos hup, hl, hr, hf]

/-- A mode that both units offer and that trains becomes the link's mode. -/
theorem exec_linkTraining_up {u l r d : Nat} {s : State} {m : Nat × Nat} (ht : flag s PAIR_LINK_STAT_TRAINING = true)
    (hm : m = linkModes.getD s.pair.train (4, 0)) (ho : offers (nSoeri s) l r m = true) :
    ∃ t, exec (.linkTraining u l r d) s = .next t ∧ t.regs = (setBudget (linkUpIn u d m s)).regs
      ∧ t.pair = (setBudget (linkUpIn u d m s)).pair := by
  subst hm
  have hr := reportImage_parts (setBudget (linkUpIn u d (linkModes.getD s.pair.train (4, 0)) s))
  exact ⟨reportImage (setBudget (linkUpIn u d (linkModes.getD s.pair.train (4, 0)) s)), (if_pos ht).trans (if_pos ho), hr⟩

/-- What the link's registers and the pair then hold. -/
theorem linkTraining_up {u l r d : Nat} {s : State} {m : Nat × Nat} (ht : flag s PAIR_LINK_STAT_TRAINING = true)
    (hm : m = linkModes.getD s.pair.train (4, 0)) (ho : offers (nSoeri s) l r m = true) :
    ∃ t, exec (.linkTraining u l r d) s = .next t ∧ getF t PAIR_LINK_STAT_TRAINING = 0 ∧ getF t PAIR_LINK_STAT_UP = 1
      ∧ getF t PAIR_LINK_STAT_LANES = m.1 ∧ getF t PAIR_LINK_STAT_RATE = m.2 ∧ getF t PAIR_LINK_DELAY_DELAY = min d 65535
      ∧ getF t PAIR_BUDGET_BUDGET = budgetOf m.1 m.2 (fsOf s) % 2 ^ 24 ∧ t.pair = { s.pair with down := 0 }
      ∧ getF t PAIR_LINK_STAT_BELOW_BUDGET = b2n (running s && budgetOf m.1 m.2 (fsOf s) < recordBytes s)
      ∧ (u = getF s PAIR_STAT_UNIT → getF t PAIR_STAT_UNIT_CLASH = 1) := by
  obtain ⟨t, he, hregs, hp⟩ := exec_linkTraining_up (u := u) (d := d) ht hm ho
  obtain ⟨hl, hr⟩ : m.1 < 8 ∧ m.2 < 4 := hm ▸ linkMode_fits _
  have hb : budgetShown (linkUpIn u d m s) = budgetOf m.1 m.2 (fsOf s) := hm ▸ budgetShown_linkUpIn u d s.pair.train s
  have hup := linkUpIn_onlyFields u d m s
  have hset := setBudget_onlyFields (linkUpIn u d m s)
  obtain ⟨hfab, hpair⟩ := linkUpIn_parts u d m s
  have hreg (f : Fld) : getF t f = getF (setBudget (linkUpIn u d m s)) f := by rw [getF, hregs, getF]
  have shown {f : Fld} {v : Nat} (h : (f, v) ∈ linkUpFields m d) (hk : f.key ∉ [PAIR_BUDGET_BUDGET, PAIR_LINK_STAT_BELOW_BUDGET].map Fld.key) :
      getF t f = v % 2 ^ f.width := (hreg f).trans <| (hset.getF_of_notMem hk).trans (hup.written (f, v) h)
  refine ⟨t, he, shown (v := 0) (by simp [linkUpFields]) (by decide), shown (v := 1) (by simp [linkUpFields]) (by decide),
    (shown (by simp [linkUpFields]) (by decide)).trans (Nat.mod_eq_of_lt hl),
    (shown (by simp [linkUpFields]) (by decide)).trans (Nat.mod_eq_of_lt hr),
    (shown (by simp [linkUpFields]) (by decide)).trans (Nat.mod_eq_of_lt (by show _ < 2 ^ 16; omega)), ?budget, ?pair, ?below, fun hu => ?clash⟩
  case budget => rw [hreg, hset.written (PAIR_BUDGET_BUDGET, _) (List.mem_cons_self), hb]; rfl
  case pair =>
    exact hp.trans ((congrArg State.pair hset.rest).trans hpair)
  case below =>
    have hrun : running (linkUpIn u d m s) = running s := by
      rw [running, flag, getF_linkUpIn u d m s (by decide) (by simp [linkUpFields]; decide)]
      rfl
    have hrec : recordBytes (linkUpIn u d m s) = recordBytes s := by rw [recordBytes, hfab]; rfl
    rw [hreg, hset.written (PAIR_LINK_STAT_BELOW_BUDGET, _) (List.mem_cons_of_mem _ List.mem_cons_self), hb, hrun, hrec]
    exact b2n_mod_two _
  case clash =>
    rw [hreg, hset.getF_of_notMem (show _ ∉ [PAIR_BUDGET_BUDGET, PAIR_LINK_STAT_BELOW_BUDGET].map Fld.key by decide),
      hup.getF_of_notMem (by simp [linkUpFields]; decide)]
    exact checkUnit_clash hu

/-- Settles O50: rounding down to whole units leaves less than one of them (`cut_bounds`), a rate in hertz is half of twice it (`halfRate_times`),
and a mode that trains shows its budget (`linkTraining_up`). -/
theorem linkBudget : Obligations.LinkBudget := by
  refine ⟨fun l r fs b x hf hr hb hx => ?cut, by decide, by decide, by decide, fun u l r d s m ht hm ho => ?shown⟩
  case cut =>
    subst hb hx
    rw [budgetOf, if_neg (by omega), halfRate_times hr]
    exact ⟨Nat.mul_mod_left _ _, cut_bounds _ _ _ (by omega) (by decide)⟩
  case shown =>
    obtain ⟨t, he, -, -, -, -, -, hb, -, hw, -⟩ := linkTraining_up (u := u) (d := d) ht hm ho
    exact ⟨t, he, hb, hw⟩

end Sys2Proof.Machine

namespace Sys2Proof.Machine

/-! ## The link's training, records and frames (R296 to R304, R307, R313, R314) -/

/-! ### Training from a place in the order (R297) -/

/-- The link down, training or not, at a place in the order of the modes. -/
def linkDownAt (b i : Nat) (s : State) : State :=
  putFs [(PAIR_LINK_STAT_UP, 0), (PAIR_LINK_STAT_LANES, 0), (PAIR_LINK_STAT_TRAINING, b)] (withPair { s.pair with train := i } s)

theorem linkDownAt_onlyFields (b i : Nat) (s : State) : OnlyFields (withPair { s.pair with train := i } s) (linkDownAt b i s)
    [(PAIR_LINK_STAT_UP, 0), (PAIR_LINK_STAT_LANES, 0), (PAIR_LINK_STAT_TRAINING, b)] :=
  .putFs (show ([PAIR_LINK_STAT_UP, PAIR_LINK_STAT_LANES, PAIR_LINK_STAT_TRAINING].map Fld.key).Nodup by decide)

/-- A link that is down has no budget. -/
theorem linkDownAt_budget (b i : Nat) (s : State) : budgetShown (linkDownAt b i s) = 0 := by
  have h : getF (linkDownAt b i s) PAIR_LINK_STAT_UP = 0 % 2 ^ 1 := (linkDownAt_onlyFields b i s).written (PAIR_LINK_STAT_UP, 0) (by simp)
  rw [budgetShown, if_neg (by rw [flag, h]; decide)]

/-- What the registers and the pair hold once a unit trains from a place in the order, or has no mode left. -/
theorem setBudget_linkDownAt (b i : Nat) (s : State) (hb : b < 2) :
    getF (setBudget (linkDownAt b i s)) PAIR_LINK_STAT_UP = 0 ∧ getF (setBudget (linkDownAt b i s)) PAIR_LINK_STAT_LANES = 0
      ∧ getF (setBudget (linkDownAt b i s)) PAIR_BUDGET_BUDGET = 0 ∧ getF (setBudget (linkDownAt b i s)) PAIR_LINK_STAT_TRAINING = b
      ∧ (setBudget (linkDownAt b i s)).pair = { s.pair with train := i }
      ∧ getF (setBudget (linkDownAt b i s)) PAIR_CNT_RETRAINS = getF s PAIR_CNT_RETRAINS := by
  have hs := setBudget_onlyFields (linkDownAt b i s)
  have hl := linkDownAt_onlyFields b i s
  have apart {f : Fld} (h : f.key ∉ [PAIR_BUDGET_BUDGET, PAIR_LINK_STAT_BELOW_BUDGET].map Fld.key) :
      getF (setBudget (linkDownAt b i s)) f = getF (linkDownAt b i s) f := hs.getF_of_notMem h
  refine ⟨?_, ?_, ?_, ?_, ?_, ?_⟩
  · rw [apart (by decide), hl.written (PAIR_LINK_STAT_UP, 0) (by simp)]
    rfl
  · rw [apart (by decide), hl.written (PAIR_LINK_STAT_LANES, 0) (by simp)]
    rfl
  · rw [hs.written (PAIR_BUDGET_BUDGET, _) List.mem_cons_self, linkDownAt_budget]
    rfl
  · rw [apart (by decide), hl.written (PAIR_LINK_STAT_TRAINING, b) (by simp)]
    exact Nat.mod_eq_of_lt hb
  · rw [hs.rest, hl.rest]
    rfl
  · rw [apart (by decide), hl.getF_of_notMem (show _ ∉ [PAIR_LINK_STAT_UP, PAIR_LINK_STAT_LANES, PAIR_LINK_STAT_TRAINING].map Fld.key by decide)]
    rfl

theorem nextMode_first {s : State} {k i : Nat} (hk : k ≤ i) (hi : i < 12) (ho : offersOwn s (linkModes.getD i (4, 0)) = true)
    (hn : ∀ j, k ≤ j → j < i → offersOwn s (linkModes.getD j (4, 0)) = false) : nextMode s k = some i := by
  unfold nextMode
  rw [List.find?_range_eq_some]
  refine ⟨by simp only [ho, decide_eq_true hk, Bool.and_self], List.mem_range.2 hi, fun j hj => ?_⟩
  by_cases hkj : k ≤ j
  · simp only [hn j hkj hj, Bool.and_false, Bool.not_false]
  · simp only [decide_eq_false hkj, Bool.false_and, Bool.not_false]

theorem nextMode_none {s : State} {k : Nat} (hn : ∀ i, k ≤ i → i < 12 → offersOwn s (linkModes.getD i (4, 0)) = false) :
    nextMode s k = none := by
  unfold nextMode
  rw [List.find?_eq_none]
  intro i hi
  simp only [Bool.and_eq_true, decide_eq_true_eq, not_and, Bool.not_eq_true]
  exact fun hk => hn i hk (List.mem_range.1 hi)

theorem trainFrom_some {s : State} {k i : Nat} (hp : s.pins.pairEn = true) (h : nextMode s k = some i) :
    trainFrom k s = setBudget (linkDownAt 1 i s) := by
  unfold trainFrom
  rw [hp, h]
  rfl

theorem trainFrom_none {s : State} {k : Nat} (hp : s.pins.pairEn = true) (h : nextMode s k = none) :
    trainFrom k s = setBudget (linkDownAt 0 12 s) := by
  unfold trainFrom
  rw [hp, h]
  rfl

/-- Training from a place: the link is down without a budget, and trains in the first mode offered from there, or not at all. -/
theorem trainFrom_effect {s : State} (k : Nat) (hp : s.pins.pairEn = true) :
    getF (trainFrom k s) PAIR_LINK_STAT_UP = 0 ∧ getF (trainFrom k s) PAIR_LINK_STAT_LANES = 0 ∧ getF (trainFrom k s) PAIR_BUDGET_BUDGET = 0
      ∧ (∀ i, k ≤ i → i < 12 → offersOwn s (linkModes.getD i (4, 0)) = true → (∀ j, k ≤ j → j < i → offersOwn s (linkModes.getD j (4, 0)) = false) →
        getF (trainFrom k s) PAIR_LINK_STAT_TRAINING = 1 ∧ (trainFrom k s).pair = { s.pair with train := i })
      ∧ ((∀ i, k ≤ i → i < 12 → offersOwn s (linkModes.getD i (4, 0)) = false) →
        getF (trainFrom k s) PAIR_LINK_STAT_TRAINING = 0 ∧ (trainFrom k s).pair = { s.pair with train := 12 })
      ∧ getF (trainFrom k s) PAIR_CNT_RETRAINS = getF s PAIR_CNT_RETRAINS := by
  have down : ∃ b i, b < 2 ∧ trainFrom k s = setBudget (linkDownAt b i s) := by
    cases h : nextMode s k with
    | none => exact ⟨0, 12, by decide, trainFrom_none hp h⟩
    | some i => exact ⟨1, i, by decide, trainFrom_some hp h⟩
  obtain ⟨b, i, hb, he⟩ := down
  obtain ⟨hu, hl, hx, -, -, hr⟩ := setBudget_linkDownAt b i s hb
  rw [← he] at hu hl hx hr
  refine ⟨hu, hl, hx, fun j hk hj ho hn => ?_, fun hn => ?_, hr⟩
  · rw [trainFrom_some hp (nextMode_first hk hj ho hn)]
    obtain ⟨-, -, -, ht, hq, -⟩ := setBudget_linkDownAt 1 j s (by decide)
    exact ⟨ht, hq⟩
  · rw [trainFrom_none hp (nextMode_none hn)]
    obtain ⟨-, -, -, ht, hq, -⟩ := setBudget_linkDownAt 0 12 s (by decide)
    exact ⟨ht, hq⟩

/-- The commands that train the link from a place in the order. -/
def Trains (c : Instr) (s : State) (k : Nat) : Prop :=
  (c = Instr.trainingModeTimeout ∧ flag s PAIR_LINK_STAT_TRAINING = true ∧ k = s.pair.train + 1)
    ∨ (c = .linkFault ∧ flag s PAIR_LINK_STAT_UP = true ∧ k = s.pair.train) ∨ (c = .retrain ∧ k = 0)
    ∨ (∃ u l r d, c = .linkTraining u l r d ∧ flag s PAIR_LINK_STAT_TRAINING = true
      ∧ offers (nSoeri s) l r (linkModes.getD s.pair.train (4, 0)) = false ∧ k = s.pair.train + 1)

/-- What this unit offers stays with the part's lanes and PAIR_LINK_CFG. -/
theorem offersOwn_congr {s t : State} (hf : t.fuses = s.fuses) (hl : getF t PAIR_LINK_CFG_LANE_EN = getF s PAIR_LINK_CFG_LANE_EN)
    (hr : getF t PAIR_LINK_CFG_RATE_EN = getF s PAIR_LINK_CFG_RATE_EN) (m : Nat × Nat) : offersOwn t m = offersOwn s m := by
  rw [offersOwn, offersOwn, hl, hr, nSoeri, cap, hf]
  rfl

/-- Each of them trains from the state itself, with the fault counted or the partner's identity checked. -/
theorem exec_trains {c : Instr} {s : State} {k : Nat} (h : Trains c s k) : ∃ x, exec c s = .next (trainFrom k x) ∧ x.pins = s.pins
    ∧ x.pair = s.pair ∧ (∀ m, offersOwn x m = offersOwn s m)
    ∧ (c = .linkFault → getF x PAIR_CNT_RETRAINS = min (getF s PAIR_CNT_RETRAINS + 1) 255) := by
  obtain ⟨rfl, ht, rfl⟩ | ⟨rfl, hu, rfl⟩ | ⟨rfl, rfl⟩ | ⟨u, l, r, d, rfl, ht, ho, rfl⟩ := h
  · exact ⟨s, if_pos ht, rfl, rfl, fun _ => rfl, fun h => nomatch h⟩
  · exact ⟨bump PAIR_CNT_RETRAINS 1 s, if_pos hu, rfl, rfl,
      offersOwn_congr rfl (getF_bump_ne 1 s (by decide)) (getF_bump_ne 1 s (by decide)), fun _ => getF_bump_self _ 1 s⟩
  · exact ⟨s, rfl, rfl, rfl, fun _ => rfl, fun h => nomatch h⟩
  · have hc := (checkUnit_onlyFields u s).rest
    exact ⟨checkUnit u s, (if_pos ht).trans (if_neg (by rw [ho]; decide)), by rw [hc], by rw [hc],
      offersOwn_congr (by rw [hc]) (checkUnit_kept u s (by decide)) (checkUnit_kept u s (by decide)), fun h => nomatch h⟩

/-! ### The pair's state and heartbeat (R303, R311, R312) -/

theorem setPairState_writes (st : Nat) (s : State) : Writes pairStateFields s (setPairState st s) := by
  unfold setPairState
  split
  · exact .refl _ s
  · have h := ((Writes.refl pairStateFields s).putF (f := PAIR_STAT_STATE) (by simp [pairStateFields]) st).putF
      (f := PAIR_STAT_BIT_IDENT) (by simp [pairStateFields]) (b2n (st == 4))
    exact (h.putF (f := PAIR_STAT_PROTECTED) (by simp [pairStateFields]) _).trans ((Told.refl _).pairEvent.writes _)

theorem getF_setPairState {st : Nat} (h : st < 16) (s : State) : getF (setPairState st s) PAIR_STAT_STATE = st := by
  unfold setPairState
  split
  · assumption
  · rw [(Told.refl _).pairEvent.getF _ (by decide), setProtected, putB, getF_putF_ne _ _ (by decide), putB, getF_putF_ne _ _ (by decide),
      getF_putF_self]
    exact Nat.mod_eq_of_lt h

/-- The fields that the loss of the heartbeat writes beside HEARTBEAT, before the state follows. -/
def heartFields : List Fld := [PAIR_RESTATE_RUNNING, PAIR_RESTATE_PASS, PAIR_STAT_PROTECTED] ++ chainFields

theorem setProtected_writes {l : List Fld} (h : PAIR_STAT_PROTECTED ∈ l) (s : State) : Writes l s (setProtected s) :=
  (Writes.refl l s).putF h _

theorem dropRestate_writes (s : State) : ∃ p, p.missing = s.pair.missing ∧ Writes heartFields (withPair p s) (dropRestate s) := by
  unfold dropRestate
  split
  · exact ⟨s.pair, rfl, .refl _ s⟩
  · refine ⟨{ s.pair with restate := 0, rsCode := 0, vcis := [] }, rfl, Writes.trans ?_ ((Told.refl _).pairEvent.writes _)⟩
    exact (Writes.refl _ _).putFs (by simp [heartFields])

theorem chain_subset_heart : chainFields ⊆ heartFields := List.subset_append_right _ _

/-- REF7 of a pair without a heartbeat is ABSENT (R241). -/
def ref7Absent (s : State) : State :=
  if getF s (CLK_REF_STAT_STATE 7) = 0 then s
  else refreshClk (setRef 7 1 { s with clk := { s.clk with inWin := s.clk.inWin.filter (· != 7) } })

theorem ref7Absent_writes (s : State) : Writes chainFields s (ref7Absent s) := by
  unfold ref7Absent
  split
  · exact .refl _ s
  · exact (((Writes.refl _ s).withClk _).trans (setRef_chain (by decide) 1 _)).trans (refreshClk_writes _)

/-- The heartbeat lost, before a standby becomes an orphan. -/
def heartLost (s : State) : State := ref7Absent (setProtected (dropRestate (putF PAIR_STAT_HEARTBEAT 0 s)))

theorem heartLost_writes (s : State) : ∃ p, p.missing = s.pair.missing
    ∧ Writes heartFields (withPair p (putF PAIR_STAT_HEARTBEAT 0 s)) (heartLost s) := by
  obtain ⟨p, hm, hw⟩ := dropRestate_writes (putF PAIR_STAT_HEARTBEAT 0 s)
  exact ⟨p, hm, (hw.trans (setProtected_writes (by simp [heartFields]) _)).trans ((ref7Absent_writes _).mono chain_subset_heart)⟩

theorem loseHeartbeat_eq {s : State} (h : flag s PAIR_STAT_HEARTBEAT = true) : loseHeartbeat s = if isStandby (heartLost s) then
    setPairState 8 (withPair { (heartLost s).pair with muteIn := false } (heartLost s)) else heartLost s := by
  unfold loseHeartbeat
  exact if_pos h

/-- After its loss the heartbeat is gone, and a standby is an orphan; the count of missing records stays. -/
theorem loseHeartbeat_effect (s : State) : flag (loseHeartbeat s) PAIR_STAT_HEARTBEAT = false
    ∧ (loseHeartbeat s).pair.missing = s.pair.missing ∧ getF (loseHeartbeat s) PAIR_CNT_REC_MISSING = getF s PAIR_CNT_REC_MISSING
    ∧ (flag s PAIR_STAT_HEARTBEAT = true → isStandby s = true → getF (loseHeartbeat s) PAIR_STAT_STATE = 8) := by
  by_cases h : flag s PAIR_STAT_HEARTBEAT = true
  · obtain ⟨p, hm, hw⟩ := heartLost_writes s
    have hz : flag (heartLost s) PAIR_STAT_HEARTBEAT = false := by
      have h0 : getF (withPair p (putF PAIR_STAT_HEARTBEAT 0 s)) PAIR_STAT_HEARTBEAT = 0 := getF_putF_self PAIR_STAT_HEARTBEAT 0 s
      rw [flag, hw.regs _ (by decide), h0]
      rfl
    have hc : getF (heartLost s) PAIR_CNT_REC_MISSING = getF s PAIR_CNT_REC_MISSING := by
      rw [hw.regs PAIR_CNT_REC_MISSING (by decide)]
      exact getF_putF_ne (f := PAIR_CNT_REC_MISSING) (g := PAIR_STAT_HEARTBEAT) 0 s (by decide)
    have hq : (heartLost s).pair.missing = s.pair.missing := by rw [hw.pair]; exact hm
    have hs : isStandby (heartLost s) = isStandby s := by
      have hst : getF (heartLost s) PAIR_STAT_STATE = getF s PAIR_STAT_STATE := by
        rw [hw.regs PAIR_STAT_STATE (by decide)]
        exact getF_putF_ne (f := PAIR_STAT_STATE) (g := PAIR_STAT_HEARTBEAT) 0 s (by decide)
      have hpin : (heartLost s).pins = s.pins := by
        rw [hw.rest]
        rfl
      rw [isStandby, isStandby, hst, hpin]
    rw [loseHeartbeat_eq h]
    clear hw
    generalize heartLost s = x at *
    split
    · have ho := setPairState_writes 8 (withPair { x.pair with muteIn := false } x)
      exact ⟨(ho.flag (by decide)).trans hz, (congrArg Pair.missing ho.pair).trans hq, (ho.regs _ (by decide)).trans hc,
        fun _ _ => getF_setPairState (by decide) _⟩
    · next hn => exact ⟨hz, hq, hc, fun _ hs' => absurd (hs.trans hs') hn⟩
  · have he : loseHeartbeat s = s := if_neg h
    rw [he]
    exact ⟨by simpa using h, rfl, rfl, fun hf => absurd hf h⟩

/-! ### A record that is missing (R303, R312) -/

/-- The fields that a standby-only cause writes. -/
def faultFields : List Fld := [PAIR_CAUSE_CODE, PAIR_CAUSE_CI16] ++ pairStateFields

theorem standbyFault_hot {s : State} (code : Nat) (h : getF s PAIR_STAT_STATE = 4) : standbyFault code s = setPairState 5
    (putFs [(PAIR_CAUSE_CODE, code), (PAIR_CAUSE_CI16, s.fab.ci)] (withPair { s.pair with rsReq := true, rsCode := 0 } s)) := by
  unfold standbyFault
  exact if_pos h

/-- A standby-only cause touches a hot standby only: it is latched, the unit is UNFIT and asks for a restate. -/
theorem standbyFault_effect {code : Nat} (hc : code < 256) (s : State) :
    (∃ p, p.missing = s.pair.missing ∧ Writes faultFields (withPair p s) (standbyFault code s))
    ∧ (getF s PAIR_STAT_STATE = 4 → getF (standbyFault code s) PAIR_STAT_STATE = 5 ∧ getF (standbyFault code s) PAIR_CAUSE_CODE = code
      ∧ (standbyFault code s).pair.rsReq = true)
    ∧ (getF s PAIR_STAT_STATE ≠ 4 → standbyFault code s = s) := by
  by_cases h : getF s PAIR_STAT_STATE = 4
  · rw [standbyFault_hot code h]
    have hw := (Writes.refl faultFields (withPair { s.pair with rsReq := true, rsCode := 0 } s)).putFs
      (p := [(PAIR_CAUSE_CODE, code), (PAIR_CAUSE_CI16, s.fab.ci)]) (by simp [faultFields])
    have hcode : getF (putFs [(PAIR_CAUSE_CODE, code), (PAIR_CAUSE_CI16, s.fab.ci)]
        (withPair { s.pair with rsReq := true, rsCode := 0 } s)) PAIR_CAUSE_CODE = code :=
      ((OnlyFields.putF_then _ (f := PAIR_CAUSE_CODE) (g := PAIR_CAUSE_CI16) code s.fab.ci (by decide)).written (PAIR_CAUSE_CODE, code)
        List.mem_cons_self).trans (Nat.mod_eq_of_lt hc)
    have hp := hw.pair
    generalize putFs [(PAIR_CAUSE_CODE, code), (PAIR_CAUSE_CI16, s.fab.ci)] (withPair { s.pair with rsReq := true, rsCode := 0 } s) = x at *
    have hs := setPairState_writes 5 x
    exact ⟨⟨{ s.pair with rsReq := true, rsCode := 0 }, rfl, hw.trans (hs.mono (List.subset_append_right _ _))⟩,
      fun _ => ⟨getF_setPairState (by decide) x, (hs.regs _ (by decide)).trans hcode, by rw [hs.pair, hp]; rfl⟩, fun hn => absurd h hn⟩
  · have he : standbyFault code s = s := if_neg h
    rw [he]
    exact ⟨⟨s.pair, rfl, .refl _ s⟩, fun hn => absurd hn h, fun _ => rfl⟩

/-- A record counted as missing. -/
def missCounted (s : State) : State :=
  bump PAIR_CNT_REC_MISSING 1 (withPair { s.pair with missing := s.pair.missing + 1, missNoted := true } s)

theorem getF_missCounted {f : Fld} (s : State) (h : f.key ≠ PAIR_CNT_REC_MISSING.key) : getF (missCounted s) f = getF s f :=
  getF_bump_ne 1 (withPair _ s) h

theorem missCounted_missing (s : State) : (missCounted s).pair.missing = s.pair.missing + 1 := rfl

theorem missCounted_count (s : State) : getF (missCounted s) PAIR_CNT_REC_MISSING = min (getF s PAIR_CNT_REC_MISSING + 1) 65535 :=
  getF_bump_self PAIR_CNT_REC_MISSING 1 (withPair _ s)

theorem recordMiss_eq (s : State) : recordMiss s = if 2 ≤ (standbyFault 0x11 (missCounted s)).pair.missing then
    loseHeartbeat (standbyFault 0x11 (missCounted s)) else standbyFault 0x11 (missCounted s) := rfl

/-- The effects of a missing record on the counts, the heartbeat and the state of a standby. -/
theorem recordMiss_effect (s : State) : getF (recordMiss s) PAIR_CNT_REC_MISSING = min (getF s PAIR_CNT_REC_MISSING + 1) 65535
    ∧ (recordMiss s).pair.missing = s.pair.missing + 1
    ∧ (s.pair.missing = 0 → getF (recordMiss s) PAIR_STAT_HEARTBEAT = getF s PAIR_STAT_HEARTBEAT)
    ∧ (1 ≤ s.pair.missing → flag (recordMiss s) PAIR_STAT_HEARTBEAT = false)
    ∧ (s.pair.missing = 0 → getF s PAIR_STAT_STATE = 4 → getF (recordMiss s) PAIR_STAT_STATE = 5
      ∧ getF (recordMiss s) PAIR_CAUSE_CODE = 0x11 ∧ (recordMiss s).pair.rsReq = true)
    ∧ (1 ≤ s.pair.missing → flag s PAIR_STAT_HEARTBEAT = true → isStandby s = true → getF (recordMiss s) PAIR_STAT_STATE = 8) := by
  obtain ⟨⟨p, hm, hw⟩, hot, cold⟩ := standbyFault_effect (code := 0x11) (by decide) (missCounted s)
  rw [missCounted_missing] at hm
  rw [getF_missCounted s (by decide)] at hot cold
  have hmiss : (standbyFault 0x11 (missCounted s)).pair.missing = s.pair.missing + 1 := by
    rw [hw.pair]
    exact hm
  have hcnt : getF (standbyFault 0x11 (missCounted s)) PAIR_CNT_REC_MISSING = min (getF s PAIR_CNT_REC_MISSING + 1) 65535 := by
    rw [hw.regs _ (by decide)]
    exact missCounted_count s
  have hheart : getF (standbyFault 0x11 (missCounted s)) PAIR_STAT_HEARTBEAT = getF s PAIR_STAT_HEARTBEAT := by
    rw [hw.regs _ (by decide)]
    exact getF_missCounted s (by decide)
  have hstand : isStandby s = true → isStandby (standbyFault 0x11 (missCounted s)) = true := by
    intro h
    obtain ⟨hp, hs⟩ := Bool.and_eq_true_iff.1 h
    have hpin : (standbyFault 0x11 (missCounted s)).pins.pairEn = true := by
      rw [hw.rest]
      exact hp
    by_cases h4 : getF s PAIR_STAT_STATE = 4
    · rw [isStandby, hpin, (hot h4).1]
      decide
    · rw [isStandby, hpin, cold h4, getF_missCounted s (by decide), hs]
      rfl
  rw [recordMiss_eq]
  clear hw cold
  generalize standbyFault 0x11 (missCounted s) = x at *
  rw [hmiss]
  split
  · next h2 =>
    obtain ⟨hz, hm', hc', h8⟩ := loseHeartbeat_effect x
    refine ⟨hc'.trans hcnt, hm'.trans hmiss, fun h => by omega, fun _ => hz, fun h => by omega, fun _ hh hs => h8 ?_ (hstand hs)⟩
    rwa [flag, hheart]
  · next h2 => exact ⟨hcnt, hmiss, fun _ => hheart, fun h => by omega, fun _ h4 => hot h4, fun h => by omega⟩

/-! ### A record that arrives (R298, R301, R303) -/

/-- The fields that a good record's arrival writes. -/
def recordFields : List Fld := [PAIR_SKEW_SKEW, PAIR_STAT_SKEWED] ++ chainFields

/-- A free value taken and the skew written. -/
def skewWritten (k : Int) (s : State) : State := putF PAIR_SKEW_SKEW (ofS 32 k) { s with free := s.free + 1 }

/-- The skew shown and judged, before REF7 takes its phase event. -/
def skewShown (k : Int) (s : State) : State :=
  if decide (16 * getL s PAIR_CFG_SKEW_MAX < k.natAbs) then withPair { s.pair with skewOver := true } (skewWritten k s)
  else putF PAIR_STAT_SKEWED 0 (withPair { s.pair with skewOver := false } (skewWritten k s))

theorem skewWritten_writes (k : Int) (b : Bool) (s : State) : Writes recordFields (withPair { s.pair with skewOver := b } s)
    (withPair { s.pair with skewOver := b } (skewWritten k s)) where
  rest := rfl
  regs f hf := getF_putF_ne (f := f) (g := PAIR_SKEW_SKEW) _ { s with free := s.free + 1 }
    (key_ne_of_apart hf (by simp [recordFields]))

theorem skewShown_writes (k : Int) (s : State) : ∃ b, Writes recordFields (withPair { s.pair with skewOver := b } s) (skewShown k s)
    ∧ (skewShown k s).free = s.free + 1 := by
  unfold skewShown
  split
  · exact ⟨true, skewWritten_writes k true s, rfl⟩
  · exact ⟨false, (skewWritten_writes k false s).putF (f := PAIR_STAT_SKEWED) (by simp [recordFields]) 0, rfl⟩

theorem takeSkew_eq (arrival : Int) (cycle : Nat) (s : State) : ∃ k e, takeSkew arrival cycle s =
    if following (skewShown k s) && getF (skewShown k s) CLK_STAT_SELECTED == 7 then phaseEvent 7 e (skewShown k s)
    else skewShown k s := ⟨_, _, rfl⟩

/-- A phase event takes a free value for a new offset, unless a switch is averaged or the loop steers (R245, R248, R250). -/
theorem phaseEvent_free (r : Nat) (e : Int) (s : State) :
    (phaseEvent r e s).free = s.free + if flag s CLK_STAT_SWITCHING || flag s CLK_STAT_STEER then 0 else 1 := by
  have setFreq_free (f : Int) (x : State) : (setFreq f x).free = x.free := by
    unfold setFreq setRatioRegs
    split
    · exact putFs_free _ _
    · exact putFs_free _ _
  unfold phaseEvent
  extract_lets p e' s0 c s1 err s2 f
  have h1 : s1.free = s.free ∧ flag s1 CLK_STAT_STEER = flag s CLK_STAT_STEER := by
    have h0 : flag s0 CLK_STAT_STEER = flag s CLK_STAT_STEER := flag_putF_ne _ s (by decide)
    simp only [s1]
    unfold bleed
    split
    · exact ⟨rfl, (flag_putF_ne (f := CLK_STAT_STEER) (g := CLK_BUILDOUT_B) _ _ (by decide)).trans h0⟩
    · exact ⟨rfl, h0⟩
  have h2 : flag s2 CLK_STAT_STEER = flag s CLK_STAT_STEER := (flag_putF_ne _ s1 (by decide)).trans h1.2
  have hf : s2.free = s.free := h1.1
  cases hs : flag s CLK_STAT_SWITCHING with
  | true => rfl
  | false =>
    cases ht : flag s CLK_STAT_STEER with
    | true =>
      rw [if_neg Bool.false_ne_true, if_pos (h2.trans ht)]
      exact hf
    | false =>
      rw [if_neg Bool.false_ne_true, if_neg (by rw [h2, ht]; decide), setFreq_free]
      exact congrArg (· + 1) hf

/-- A record's arrival takes one free value, and a second where REF7 steers the loop. -/
theorem takeSkew_effect (arrival : Int) (cycle : Nat) (s : State) :
    (∃ b, Writes recordFields (withPair { s.pair with skewOver := b } s) (takeSkew arrival cycle s))
    ∧ (takeSkew arrival cycle s).free = s.free
      + if following s && getF s CLK_STAT_SELECTED == 7 && !flag s CLK_STAT_SWITCHING && !flag s CLK_STAT_STEER then 2 else 1 := by
  obtain ⟨k, e, he⟩ := takeSkew_eq arrival cycle s
  obtain ⟨b, hw, hf⟩ := skewShown_writes k s
  have keep {f : Fld} (h : f.key ≠ PAIR_SKEW_SKEW.key) (h' : f.key ≠ PAIR_STAT_SKEWED.key) : getF (skewShown k s) f = getF s f := by
    unfold skewShown
    have hk (b : Bool) : getF (withPair { s.pair with skewOver := b } (skewWritten k s)) f = getF s f :=
      getF_putF_ne (g := PAIR_SKEW_SKEW) _ { s with free := s.free + 1 } h
    split
    · exact hk true
    · exact (getF_putF_ne 0 _ h').trans (hk false)
  have hfol : following (skewShown k s) = following s := by
    rw [following, following, keep (by decide) (by decide)]
  have hsel : getF (skewShown k s) CLK_STAT_SELECTED = getF s CLK_STAT_SELECTED := keep (by decide) (by decide)
  have hsw : flag (skewShown k s) CLK_STAT_SWITCHING = flag s CLK_STAT_SWITCHING := by rw [flag, flag, keep (by decide) (by decide)]
  have hst : flag (skewShown k s) CLK_STAT_STEER = flag s CLK_STAT_STEER := by rw [flag, flag, keep (by decide) (by decide)]
  rw [he, hfol, hsel]
  cases hc : following s && getF s CLK_STAT_SELECTED == 7 with
  | false => exact ⟨⟨b, hw⟩, hf⟩
  | true =>
    refine ⟨⟨b, hw.trans ((phaseEvent_writes 7 e _).mono (List.subset_append_right _ _))⟩, ?_⟩
    rw [if_pos rfl, phaseEvent_free, hf, hsw, hst]
    cases flag s CLK_STAT_SWITCHING <;> cases flag s CLK_STAT_STEER <;> rfl

/-- The fields of the restate. -/
def restateFields : List Fld := [PAIR_RESTATE_RUNNING, PAIR_RESTATE_PASS, PAIR_RESTATE_FAILED]

/-- What the restate's progress may do: the restate's fields and the pair's notes of it, but no record or count. -/
def RestateOnly (s t : State) : Prop :=
  ∃ p, p.missing = s.pair.missing ∧ p.last = s.pair.last ∧ Writes restateFields (withPair p s) t ∧ t.free = s.free

theorem RestateOnly.putFs {s : State} {p : Pair} (hm : p.missing = s.pair.missing) (hl : p.last = s.pair.last) {l : List (Fld × Nat)}
    (h : ∀ q ∈ l, q.1 ∈ restateFields) : RestateOnly s (putFs l (withPair p s)) :=
  ⟨p, hm, hl, (Writes.refl _ _).putFs h, putFs_free _ _⟩

theorem RestateOnly.ofPair {s : State} {p : Pair} (hm : p.missing = s.pair.missing) (hl : p.last = s.pair.last) :
    RestateOnly s (withPair p s) := ⟨p, hm, hl, .refl _ _, rfl⟩

theorem RestateOnly.getF {s t : State} (h : RestateOnly s t) {f : Fld} (hf : apart restateFields f = true) :
    Machine.getF t f = Machine.getF s f := by
  obtain ⟨p, -, -, hw, -⟩ := h
  exact hw.regs f hf

theorem RestateOnly.missing {s t : State} (h : RestateOnly s t) : t.pair.missing = s.pair.missing := by
  obtain ⟨p, hm, -, hw, -⟩ := h
  exact (congrArg Pair.missing hw.pair).trans hm

theorem RestateOnly.last {s t : State} (h : RestateOnly s t) : t.pair.last = s.pair.last := by
  obtain ⟨p, -, hl, hw, -⟩ := h
  exact (congrArg Pair.last hw.pair).trans hl

theorem RestateOnly.free {s t : State} (h : RestateOnly s t) : t.free = s.free := by
  obtain ⟨p, -, -, -, hf⟩ := h
  exact hf

theorem RestateOnly.told {s t u : State} (h : RestateOnly s t) (k : Told t u) : RestateOnly s u := by
  obtain ⟨p, hm, hl, hw, hf⟩ := h
  exact ⟨p, hm, hl, hw.trans (k.writes _), by rw [k.rest]; exact hf⟩

theorem judgeRestate_only (s : State) : RestateOnly s (judgeRestate s) := by
  have told (x : State) (k : OutKind) (d : List Nat) : Told x (emit k d (pairEvent x)) := (Told.refl x).pairEvent.emit k d
  unfold judgeRestate
  split
  · split
    · exact RestateOnly.told (.putFs (p := { s.pair with restate := 0, rsCode := 2 }) rfl rfl (by simp [restateFields])) (told _ _ _)
    · split
      · exact RestateOnly.told (.putFs (p := { s.pair with restate := 0, rsCode := 3, suspended := true }) rfl rfl
          (by simp [restateFields])) (told _ _ _)
      · exact RestateOnly.putFs (p := { s.pair with restate := 1, walk := 0, walk0 := 0, allMatch := true })
          (l := [(PAIR_RESTATE_PASS, _)]) rfl rfl (by simp [restateFields])
  · exact ⟨s.pair, rfl, rfl, .refl _ s, rfl⟩

theorem RestateOnly.fromPair {s t : State} {p : Pair} (hm : p.missing = s.pair.missing) (hl : p.last = s.pair.last)
    (h : RestateOnly (withPair p s) t) : RestateOnly s t := by
  obtain ⟨q, hqm, hql, hw, hf⟩ := h
  exact ⟨q, hqm.trans hm, hql.trans hl, hw, hf⟩

theorem verifyDigest_only (r : PairRec) (s : State) : RestateOnly s (verifyDigest r s) := by
  unfold verifyDigest
  split
  · exact RestateOnly.fromPair (p := { s.pair with
      vcis := s.pair.vcis.filter (· != r.ci)
      allMatch := s.pair.allMatch && s.pair.digs.find r.ci == some (r.walk :: r.digest) }) rfl rfl (judgeRestate_only _)
  · exact ⟨s.pair, rfl, rfl, .refl _ s, rfl⟩

/-- The state once a good record's skew is taken and its heartbeat shown, before it is kept or verified. -/
def recordNoted (r : PairRec) (arrival : Int) (cycle : Nat) (s : State) : State :=
  setProtected (putFs [(PAIR_STAT_PARTNER_STATE, r.state), (PAIR_STAT_HEARTBEAT, 1)]
    (takeSkew arrival cycle (checkUnit r.unit (withPair { s.pair with last := some r, missing := 0 } s))))

/-- What a standby does with a claimant's record, and any other unit with its partner's. -/
def recordKept (r : PairRec) (x : State) : State :=
  if r.claim && !flag x PAIR_STAT_CLAIM then
    if x.pair.replay && r.ci ≤ x.fab.ci then x
    else withPair { x.pair with recs := (x.pair.recs.put r.ci r).drop (x.pair.recs.length - 15) } x
  else verifyDigest r x

theorem exec_recordRx {b : List Nat} {a : Int} {s : State} {r : PairRec} (he : s.pins.pairEn = true) (hu : flag s PAIR_LINK_STAT_UP = true)
    (hr : parseRecord s b = some r) (hv : ∀ e ∈ r.events, e.typ ≠ 255) :
    exec (.recordRx b a) s = .next (recordKept r (recordNoted r a (bits (ofBytes ((b.drop 48).take 4)) 0 15) s)) := by
  have hn : ¬ (r.events.any fun e => e.typ == 255) = true := by simpa using hv
  change execRecordRx b a s = _
  rw [execRecordRx, if_neg (by rw [he, hu]; decide), hr]
  exact (if_neg hn).trans (apply_ite Host.Outcome.next _ _ _).symm


/-- The state a good record leaves before it is kept: the skew fields, the clock chain and PROTECTED beside what it shows. -/
theorem recordNoted_effect {r : PairRec} (arrival : Int) (cycle : Nat) (s : State) (h16 : r.state < 16) :
    getF (recordNoted r arrival cycle s) PAIR_STAT_HEARTBEAT = 1 ∧ getF (recordNoted r arrival cycle s) PAIR_STAT_PARTNER_STATE = r.state
    ∧ flag (recordNoted r arrival cycle s) PAIR_STAT_CLAIM = flag s PAIR_STAT_CLAIM
    ∧ (∃ b, (recordNoted r arrival cycle s).pair = { s.pair with last := some r, missing := 0, skewOver := b })
    ∧ (recordNoted r arrival cycle s).fab = s.fab
    ∧ (recordNoted r arrival cycle s).free = s.free
      + (if following s && getF s CLK_STAT_SELECTED == 7 && !flag s CLK_STAT_SWITCHING && !flag s CLK_STAT_STEER then 2 else 1)
    ∧ (r.unit = getF s PAIR_STAT_UNIT → getF (recordNoted r arrival cycle s) PAIR_STAT_UNIT_CLASH = 1) := by
  have kept {f : Fld} (h : f.key ≠ PAIR_STAT_UNIT_CLASH.key) :
      getF (checkUnit r.unit (withPair { s.pair with last := some r, missing := 0 } s)) f = getF s f := checkUnit_kept r.unit _ h
  have hclash : r.unit = getF s PAIR_STAT_UNIT →
      getF (checkUnit r.unit (withPair { s.pair with last := some r, missing := 0 } s)) PAIR_STAT_UNIT_CLASH = 1 :=
    checkUnit_clash (s := withPair { s.pair with last := some r, missing := 0 } s)
  have hrest := (checkUnit_onlyFields r.unit (withPair { s.pair with last := some r, missing := 0 } s)).rest
  unfold recordNoted
  generalize checkUnit r.unit (withPair { s.pair with last := some r, missing := 0 } s) = x at *
  have hpair : x.pair = { s.pair with last := some r, missing := 0 } := by
    rw [hrest]
    rfl
  have hfab : x.fab = s.fab := by
    rw [hrest]
    rfl
  have hfree : x.free = s.free := by
    rw [hrest]
    rfl
  obtain ⟨⟨b, hw⟩, hf⟩ := takeSkew_effect arrival cycle x
  have hfol : following x = following s := by rw [following, following, kept (by decide)]
  have hsel : getF x CLK_STAT_SELECTED = getF s CLK_STAT_SELECTED := kept (by decide)
  have hsw : flag x CLK_STAT_SWITCHING = flag s CLK_STAT_SWITCHING := by rw [flag, flag, kept (by decide)]
  have hst : flag x CLK_STAT_STEER = flag s CLK_STAT_STEER := by rw [flag, flag, kept (by decide)]
  rw [hfree, hfol, hsel, hsw, hst] at hf
  have hclaim : getF (takeSkew arrival cycle x) PAIR_STAT_CLAIM = getF s PAIR_STAT_CLAIM := (hw.regs _ (by decide)).trans (kept (by decide))
  have hcl : r.unit = getF s PAIR_STAT_UNIT → getF (takeSkew arrival cycle x) PAIR_STAT_UNIT_CLASH = 1 :=
    fun hu => (hw.regs _ (by decide)).trans (hclash hu)
  have hp : (takeSkew arrival cycle x).pair = { s.pair with last := some r, missing := 0, skewOver := b } := by
    rw [hw.pair]
    exact congrArg (fun p : Pair => { p with skewOver := b }) hpair
  have hfb : (takeSkew arrival cycle x).fab = s.fab := by
    rw [hw.rest]
    exact hfab
  clear hw
  generalize takeSkew arrival cycle x = y at *
  have hsh : OnlyFields y (putFs [(PAIR_STAT_PARTNER_STATE, r.state), (PAIR_STAT_HEARTBEAT, 1)] y)
      [(PAIR_STAT_PARTNER_STATE, r.state), (PAIR_STAT_HEARTBEAT, 1)] :=
    .putF_then y (f := PAIR_STAT_PARTNER_STATE) (g := PAIR_STAT_HEARTBEAT) r.state 1 (by decide)
  have past {f : Fld} (h : f.key ≠ PAIR_STAT_PROTECTED.key) : getF (setProtected (putFs [(PAIR_STAT_PARTNER_STATE, r.state),
      (PAIR_STAT_HEARTBEAT, 1)] y)) f = getF (putFs [(PAIR_STAT_PARTNER_STATE, r.state), (PAIR_STAT_HEARTBEAT, 1)] y) f :=
    getF_putF_ne _ _ h
  have beside {f : Fld} (h : f.key ∉ [PAIR_STAT_PARTNER_STATE, PAIR_STAT_HEARTBEAT, PAIR_STAT_PROTECTED].map Fld.key) :
      getF (setProtected (putFs [(PAIR_STAT_PARTNER_STATE, r.state), (PAIR_STAT_HEARTBEAT, 1)] y)) f = getF y f := by
    simp only [List.map_cons, List.map_nil, List.mem_cons, List.not_mem_nil, or_false, not_or] at h
    rw [past h.2.2]
    exact hsh.others f (by simp [h.1, h.2.1])
  refine ⟨?_, ?_, ?_, ⟨b, hp⟩, hfb, hf, fun hu => (beside (by decide)).trans (hcl hu)⟩
  · rw [past (by decide)]
    exact hsh.written (PAIR_STAT_HEARTBEAT, 1) (by simp)
  · rw [past (by decide)]
    exact (hsh.written (PAIR_STAT_PARTNER_STATE, r.state) (by simp)).trans (Nat.mod_eq_of_lt h16)
  · rw [flag, beside (by decide), hclaim]
    rfl

/-- Keeping or verifying a record leaves what the record has shown. -/
theorem recordKept_only (r : PairRec) (x : State) : RestateOnly x (recordKept r x) := by
  unfold recordKept
  split
  · split
    · exact ⟨x.pair, rfl, rfl, .refl _ x, rfl⟩
    · exact .ofPair rfl rfl
  · exact verifyDigest_only r x

/-- A claimant's record that is not old is kept by a standby with room for it. -/
theorem recordKept_find {r : PairRec} {x : State} (hr : r.claim = true) (hc : flag x PAIR_STAT_CLAIM = false)
    (hl : x.pair.recs.length ≤ 15) (ho : x.pair.replay = false ∨ x.fab.ci < r.ci) : (recordKept r x).pair.recs.find r.ci = some r := by
  have hn : (x.pair.replay && decide (r.ci ≤ x.fab.ci)) = false := by
    rcases ho with h | h
    · rw [h, Bool.false_and]
    · rw [decide_eq_false (by omega), Bool.and_false]
  rw [recordKept, if_pos (by rw [hr, hc]; rfl), if_neg (by rw [hn]; decide)]
  change AMap.find ((x.pair.recs.put r.ci r).drop (x.pair.recs.length - 15)) r.ci = some r
  rw [Nat.sub_eq_zero_of_le hl, List.drop_zero]
  exact AMap.find_put_self _ _ _

theorem parseRecord_state {s : State} {b : List Nat} {r : PairRec} (h : parseRecord s b = some r) : r.state < 16 := by
  unfold parseRecord at h
  split at h
  · extract_lets body red ni nc want at h
    split at h
    · simp at h
    · rw [← Option.some.inj h]
      exact bits_lt _ 0 4
  · simp at h


/-- What a good record leaves (R303, R311). -/
theorem recordKept_effect {r : PairRec} (a : Int) (cycle : Nat) (s : State) (h16 : r.state < 16) :
    getF (recordKept r (recordNoted r a cycle s)) PAIR_STAT_HEARTBEAT = 1
    ∧ getF (recordKept r (recordNoted r a cycle s)) PAIR_STAT_PARTNER_STATE = r.state
    ∧ (recordKept r (recordNoted r a cycle s)).pair.missing = 0 ∧ (recordKept r (recordNoted r a cycle s)).pair.last = some r
    ∧ (recordKept r (recordNoted r a cycle s)).free = s.free
      + (if following s && getF s CLK_STAT_SELECTED == 7 && !flag s CLK_STAT_SWITCHING && !flag s CLK_STAT_STEER then 2 else 1)
    ∧ (r.claim = true → flag s PAIR_STAT_CLAIM = false → s.pair.recs.length ≤ 15 → s.pair.replay = false ∨ s.fab.ci < r.ci →
      (recordKept r (recordNoted r a cycle s)).pair.recs.find r.ci = some r)
    ∧ (r.unit = getF s PAIR_STAT_UNIT → getF (recordKept r (recordNoted r a cycle s)) PAIR_STAT_UNIT_CLASH = 1) := by
  obtain ⟨hh, hs, hc, ⟨d, hq⟩, hfab, hf, hu⟩ := recordNoted_effect a cycle s h16
  have hk := recordKept_only r (recordNoted r a cycle s)
  refine ⟨(hk.getF (by decide)).trans hh, (hk.getF (by decide)).trans hs, by rw [hk.missing, hq], by rw [hk.last, hq], hk.free.trans hf,
    fun hcl hn h15 ho => recordKept_find hcl (hc.trans hn) (by rwa [hq]) (by rwa [hq, hfab]), fun h => (hk.getF (by decide)).trans (hu h)⟩

/-! ### Frames of the link (R303, R313, R314) -/

theorem exec_linkFrameRx {s : State} (he : s.pins.pairEn = true) (hu : flag s PAIR_LINK_STAT_UP = true) (k : Nat) (w : List Nat) :
    exec (.linkFrameRx true k w) s = .next (takeFrame k (w.map lo32) s) := by
  change execLinkFrameRx true k w s = _
  rw [execLinkFrameRx, if_neg (by rw [he, hu]; decide)]
  rfl

theorem exec_linkFrameRx_bad {s : State} (he : s.pins.pairEn = true) (hu : flag s PAIR_LINK_STAT_UP = true) (k : Nat) (w : List Nat) :
    exec (.linkFrameRx false k w) s = .next (emit .linkFrame [0] s) := by
  change execLinkFrameRx false k w s = _
  rw [execLinkFrameRx, if_neg (by rw [he, hu]; decide)]
  rfl

/-- A resend request is met with what was last sent. -/
theorem resend_record {s : State} {o : Out} {os : List Out} (ho : s.out = o :: os) (hk : o.kind = .record) :
    resend s = bump PAIR_CNT2_RESENDS 1 (emit o.kind o.data s) := by
  unfold resend
  rw [ho, List.find?_cons_of_pos (by simp [hk])]

/-- The state with a restated line taken, before the unit resynchronises. -/
def lineTaken (x : RsLine) (s : State) : State :=
  putF PAIR_RESTATE_RUNNING 1 (withPair { s.pair with rsReq := false, rsCode := 1, rsLines := s.pair.rsLines ++ [x] } s)

/-- The state with the verdict of a restate taken, before the unit's state follows. -/
def verdictTaken (ok : Bool) (s : State) : State :=
  putF PAIR_RESTATE_RUNNING 0 (setIf PAIR_RESTATE_FAILED (!ok)
    (withPair { s.pair with rsReq := false, rsCode := if ok then 2 else 3, rsLines := [] } s))

theorem takeFrame_line {s : State} (h : getF s PAIR_STAT_STATE = 5) (lo hi g a : Nat) (v : List Nat) :
    takeFrame 1 (lo :: hi :: g :: a :: v) s = setPairState 6 (lineTaken ⟨lo + 2 ^ 32 * hi, g, a, v.take 8⟩ s) :=
  if_pos (.inl h)

theorem takeFrame_verdict {s : State} (h : getF s PAIR_STAT_STATE = 6) (v : Nat) :
    takeFrame 3 [v] s = setPairState (if v == 1 then 4 else 5) (verdictTaken (v == 1) s) := if_pos h

/-- Settles O49: training goes to the first mode offered from its place in the order, or down (`trainFrom_effect`), whichever command begins it
(`exec_trains`); a record that is missing or arrives acts through the heartbeat (`recordMiss_effect`, `loseHeartbeat_effect`,
`recordKept_effect`); a frame of a restate is taken in the state that it belongs to (`takeFrame_line`, `takeFrame_verdict`). -/
theorem soeriLink : Obligations.SoeriLink := by
  refine ⟨fun u l r d s m ht hm ho => linkTraining_up ht hm ho, fun c s k hp hc => ?trains,
    fun s h => ⟨_, if_pos h, .putF s _ 1⟩, fun k w s hp hu => ⟨exec_linkFrameRx_bad hp hu k w, fun o os ho hk => ?resend,
      fun i x => exec_linkFrameRx hp hu 2 (i :: x), fun h5 lo hi g a v hv => ?line, fun h6 v => ?verdict⟩,
    fun b a s hp hu hr => ⟨bump PAIR_CNT2_REC_HDR_ERR 1 s, ?badHeader, .putF s _ _⟩, fun b a s r hp hu hr hv => ?record,
    fun s hp hr => ⟨recordMiss s, if_pos (by rw [hp, hr]; rfl), recordMiss_effect s⟩⟩
  case trains =>
    obtain ⟨x, he, hpin, hpair, hown, hcnt⟩ := exec_trains hc
    obtain ⟨hu, hl, hb, hs, hn, hr⟩ := trainFrom_effect k (hpin ▸ hp : x.pins.pairEn = true)
    simp only [hown, hpair] at hs hn
    exact ⟨_, he, hu, hl, hb, hs, hn, fun h => hr.trans (hcnt h)⟩
  case resend =>
    refine ⟨_, exec_linkFrameRx hp hu 0 w, ?_⟩
    change (resend s).out = _ ∧ OnlyFields s { resend s with out := s.out } _
    rw [resend_record ho hk]
    exact ⟨rfl, .putF s PAIR_CNT2_RESENDS _⟩
  case line =>
    refine ⟨_, exec_linkFrameRx hp hu 1 _, ?_⟩
    simp only [List.map_cons]
    rw [takeFrame_line h5, List.take_of_length_le (by simp [hv])]
    generalize RsLine.mk (lo32 lo + 2 ^ 32 * lo32 hi) (lo32 g) (lo32 a) (v.map lo32) = x
    have hs := setPairState_writes 6 (lineTaken x s)
    exact ⟨getF_setPairState (by decide) _, (hs.regs _ (by decide)).trans (getF_putF_self PAIR_RESTATE_RUNNING 1 _),
      congrArg Pair.rsReq hs.pair, congrArg Pair.rsLines hs.pair⟩
  case verdict =>
    refine ⟨_, exec_linkFrameRx hp hu 3 [v], ?_⟩
    simp only [List.map_cons, List.map_nil]
    rw [takeFrame_verdict h6]
    generalize lo32 v = w
    have hs := setPairState_writes (if w == 1 then 4 else 5) (verdictTaken (w == 1) s)
    refine ⟨(hs.regs _ (by decide)).trans (getF_putF_self PAIR_RESTATE_RUNNING 0 _), ?lines,
      (getF_setPairState (by split <;> decide) _).trans (by simp only [beq_iff_eq]),
      fun hv => (hs.regs _ (by decide)).trans ?failed⟩
    case lines =>
      rw [hs.pair]
      cases w == 1 <;> rfl
    case failed =>
      rw [beq_false_of_ne hv]
      exact (getF_putF_ne (f := PAIR_RESTATE_FAILED) (g := PAIR_RESTATE_RUNNING) 0 _ (by decide)).trans (getF_putF_self PAIR_RESTATE_FAILED 1 _)
  case badHeader =>
    change execRecordRx b a s = _
    rw [execRecordRx, if_neg (by rw [hp, hu]; decide), hr]
  case record => exact ⟨_, exec_recordRx hp hu hr hv, recordKept_effect _ _ _ (parseRecord_state hr)⟩

end Sys2Proof.Machine

namespace Sys2Proof.Machine

/-! ## From reset to the firmware (R5, R109, R318, R326 to R332, R387) -/

/-! ### A boot fault, and the straps (R5, R287, R326, R332) -/

theorem bootFault_told (code : Nat) (s : State) : Told (setAlert (putF LIFE_FAULT_BOOT code s)) (bootFault code s) :=
  watchLife_told (fun s => setAlert (putF LIFE_FAULT_BOOT code s)) s

/-- A boot fault shows its code, and ALERT where there is one. -/
theorem bootFault_shown {code : Nat} (hc : code < 256) (s : State) : getF (bootFault code s) LIFE_FAULT_BOOT = code
    ∧ (code ≠ 0 → getF (bootFault code s) LIFE_STATUS_ALERT = 1) := by
  have hf : getF (putF LIFE_FAULT_BOOT code s) LIFE_FAULT_BOOT = code := (getF_putF_self _ _ s).trans (Nat.mod_eq_of_lt hc)
  refine ⟨?_, fun h0 => ?_⟩
  · rw [(bootFault_told code s).getF _ (by decide), setAlert, putB, getF_putF_ne _ _ (by decide), hf]
  · rw [(bootFault_told code s).getF _ (by decide), setAlert, putB, getF_putF_self, hf, bne_iff_ne.2 h0]
    rfl

theorem getF_bootFault {f : Fld} (code : Nat) (s : State) (hf : f.key ≠ LIFE_FAULT_BOOT.key) (ha : f.key ≠ LIFE_STATUS_ALERT.key)
    (ht : tellKey f.key = false) : getF (bootFault code s) f = getF s f := by
  rw [(bootFault_told code s).getF _ ht, setAlert, putB, getF_putF_ne _ _ ha, getF_putF_ne _ _ hf]

theorem bootFault_ctl (code : Nat) (s : State) : (bootFault code s).ctl = s.ctl := by
  rw [(bootFault_told code s).rest]
  rfl

/-- The interface and index of each seat under a SEAT_MAP (R332). -/
def seatBindings : List (List (Nat × Nat)) := [[(1, 0), (1, 1), (1, 2), (1, 3)], [(2, 0), (1, 1), (1, 2), (1, 3)],
  [(2, 0), (2, 1), (1, 2), (1, 3)], [(2, 0), (2, 1), (0, 0), (0, 0)]]

/-- The fields that bind the seats. -/
def bindFields (m : Nat) : List (Fld × Nat) := ((List.range 4).zip (seatBindings.getD m [])).flatMap fun p =>
  [(HOST_BIND_IF p.1, p.2.1), (HOST_BIND_INDEX p.1, p.2.2)]

/-- The fields of the four bindings. -/
def bindFlds : List Fld := [HOST_BIND_IF 0, HOST_BIND_INDEX 0, HOST_BIND_IF 1, HOST_BIND_INDEX 1, HOST_BIND_IF 2, HOST_BIND_INDEX 2,
  HOST_BIND_IF 3, HOST_BIND_INDEX 3]

theorem bindFields_flds : ∀ m < 4, (bindFields m).map Prod.fst = bindFlds := by decide

theorem bindBySeatMap_eq {m : Nat} (hm : m < 4) (s : State) : bindBySeatMap m s = putFs (bindFields m) s :=
  match m, hm with
  | 0, _ => rfl
  | 1, _ => rfl
  | 2, _ => rfl
  | 3, _ => rfl

/-- What a release of reset writes: the straps, the levels of EMUTE_n and CLAIM_IN, the bindings and BOOT_ROM. -/
def strapFields (b m : Nat) (p u : Bool) (s : State) : List (Fld × Nat) :=
  [(SYS_BOOT_STAT_BOOT_SRC, b), (SYS_BOOT_STAT_SEAT_MAP, m), (PAIR_STAT_PAIR_EN, b2n p), (PAIR_STAT_UNIT, b2n u),
    (LIFE_STATUS_EMUTE, b2n s.pins.emuteLow), (PAIR_STAT_CLAIM_IN, b2n s.pins.claimIn)] ++ (bindFields (m % 4) ++ [(LIFE_STATUS_BOOT_ROM, 1)])

/-- The pins with the straps sampled. -/
def strapped (b m : Nat) (p u : Bool) (s : State) : State :=
  { s with pins := { s.pins with bootSrc := b % 4, seatMap := m % 4, pairEn := p, unitId := u } }

/-- The state with reset released, before the boot ROM's path is known. -/
def released (b m : Nat) (p u : Bool) (s : State) : State := putF LIFE_STATUS_BOOT_ROM 1 (sampleStraps b m p u s)

theorem released_onlyFields (b m : Nat) (p u : Bool) (s : State) :
    OnlyFields (strapped b m p u s) (released b m p u s) (strapFields b m p u s) := by
  have hm : m % 4 < 4 := Nat.mod_lt _ (by decide)
  have he : released b m p u s = putFs (strapFields b m p u s) (strapped b m p u s) := by
    rw [released, sampleStraps, bindBySeatMap_eq hm, strapFields, putFs_append, putFs_append]
    rfl
  have hk : (strapFields b m p u s).map Prod.fst = [SYS_BOOT_STAT_BOOT_SRC, SYS_BOOT_STAT_SEAT_MAP, PAIR_STAT_PAIR_EN, PAIR_STAT_UNIT,
      LIFE_STATUS_EMUTE, PAIR_STAT_CLAIM_IN] ++ (bindFlds ++ [LIFE_STATUS_BOOT_ROM]) := by
    rw [strapFields, List.map_append, List.map_append, bindFields_flds _ hm]
    rfl
  rw [he]
  refine .putFs ?_
  have hn : ((strapFields b m p u s).map Prod.fst |>.map Fld.key).Nodup := by
    rw [hk]
    decide
  rwa [List.map_map] at hn

/-- A list is spelt by a function that gives its entries in place. -/
theorem range_map_eq {α : Type} {f : Nat → α} {l : List α} {n : Nat} (hl : l.length = n) (h : ∀ p ∈ (List.range n).zip l, f p.1 = p.2) :
    (List.range n).map f = l := by
  subst hl
  refine List.ext_getElem (by simp) fun i h1 h2 => ?_
  have hm : (i, l[i]) ∈ (List.range l.length).zip l := by
    have := List.getElem_mem (l := (List.range l.length).zip l) (n := i) (by simpa using h2)
    simpa using this
  simpa using h _ hm

theorem released_field {b m : Nat} {p u : Bool} {s : State} {f : Fld} {v : Nat} (h : (f, v) ∈ strapFields b m p u s) :
    getF (released b m p u s) f = v % 2 ^ f.width := (released_onlyFields b m p u s).written (f, v) h

theorem seatBindings_small : ∀ m < 4, (seatBindings.getD m []).length = 4 ∧ ∀ q ∈ seatBindings.getD m [], q.1 < 4 ∧ q.2 < 4 := by decide

/-- The seats bound as SEAT_MAP says. -/
theorem released_bindings (b m : Nat) (p u : Bool) (s : State) : (List.range 4).map (fun n =>
    (getF (released b m p u s) (HOST_BIND_IF n), getF (released b m p u s) (HOST_BIND_INDEX n))) = seatBindings.getD (m % 4) [] := by
  obtain ⟨hl, hs⟩ := seatBindings_small (m % 4) (Nat.mod_lt _ (by decide))
  have hb {f : Fld} {v : Nat} (h : (f, v) ∈ bindFields (m % 4)) : (f, v) ∈ strapFields b m p u s :=
    List.mem_append_right _ (List.mem_append_left _ h)
  refine range_map_eq hl fun q hq => ?_
  obtain ⟨h1, h2⟩ := hs q.2 (List.of_mem_zip hq).2
  refine Prod.ext ((released_field (hb (List.mem_flatMap.2 ⟨q, hq, ?_⟩))).trans (Nat.mod_eq_of_lt h1))
    ((released_field (hb (List.mem_flatMap.2 ⟨q, hq, ?_⟩))).trans (Nat.mod_eq_of_lt h2))
  · exact List.mem_cons_self
  · exact List.mem_cons_of_mem _ List.mem_cons_self

theorem released_pins (b m : Nat) (p u : Bool) (s : State) : (released b m p u s).pins
    = { s.pins with bootSrc := b % 4, seatMap := m % 4, pairEn := p, unitId := u } := by
  rw [(released_onlyFields b m p u s).rest]
  rfl

/-- The boot ROM at a place of its path. -/
def bootAt (x : Boot) (s : State) : State := { s with ctl := { s.ctl with boot := x } }

section
variable {b m : Nat} {p u : Bool} {s : State} (h : s.ctl.boot = .inReset)
include h

theorem exec_resetRelease_cap (hc : s.fuses.capC ≠ not32 s.fuses.cap) :
    exec (.resetRelease b m p u) s = .next (bootFault 1 (bootAt .capFail (released b m p u s))) :=
  (if_neg (not_not.2 h)).trans (if_pos hc)

theorem exec_resetRelease_strap (hc : s.fuses.capC = not32 s.fuses.cap) (hb : b % 4 = 1) (hm : m % 4 = 3) :
    exec (.resetRelease b m p u) s = .next (bootFault 3 (bootAt .strapFail (released b m p u s))) :=
  (if_neg (not_not.2 h)).trans <| (if_neg (not_not.2 hc)).trans (if_pos ⟨hb, hm⟩)

theorem exec_resetRelease_cold (hc : s.fuses.capC = not32 s.fuses.cap) (hn : ¬ (b % 4 = 1 ∧ m % 4 = 3)) :
    exec (.resetRelease b m p u) s = .next (bootAt .romCold (released b m p u s)) :=
  (if_neg (not_not.2 h)).trans <| (if_neg (not_not.2 hc)).trans (if_neg hn)

end

/-! ### The firmware entered (R287, R297, R329) -/

/-- The fields that a single unit's claim and the link's first training write. -/
def entryFields : List Fld := [PAIR_STAT_CLAIM, PAIR_LINK_STAT_UP, PAIR_LINK_STAT_LANES, PAIR_LINK_STAT_TRAINING, PAIR_BUDGET_BUDGET,
  PAIR_LINK_STAT_BELOW_BUDGET] ++ pairStateFields

/-- From `s` to `t` only these fields and the pair's own notes change, and seats are told. -/
def PairOnly (s t : State) : Prop := ∃ p, Writes entryFields (withPair p s) t

theorem PairOnly.refl (s : State) : PairOnly s s := ⟨s.pair, .refl _ s⟩

theorem PairOnly.trans {s t u : State} (h : PairOnly s t) (k : PairOnly t u) : PairOnly s u := by
  obtain ⟨p, hw⟩ := h
  obtain ⟨q, hv⟩ := k
  exact ⟨q, (show Writes entryFields (withPair q s) (withPair q t) from
    ⟨by rw [hw.rest]; rfl, fun f hf => hw.regs f hf⟩).trans hv⟩

theorem PairOnly.ctl {s t : State} (h : PairOnly s t) : t.ctl = s.ctl := by
  obtain ⟨p, hw⟩ := h
  rw [hw.rest]
  rfl

theorem PairOnly.getF {s t : State} (h : PairOnly s t) {f : Fld} (hf : apart entryFields f = true) : Machine.getF t f = Machine.getF s f := by
  obtain ⟨p, hw⟩ := h
  exact hw.regs f hf

theorem OnlyFields.writes {s t : State} {l : List (Fld × Nat)} {m : List Fld} (h : OnlyFields s t l) (hl : ∀ q ∈ l, q.1 ∈ m) : Writes m s t :=
  ⟨by rw [h.rest], fun _ hf => h.others _ fun q hq => key_ne_of_apart hf (hl q hq)⟩

theorem setBudget_pairOnly (b i : Nat) (s : State) : PairOnly s (setBudget (linkDownAt b i s)) :=
  ⟨_, ((linkDownAt_onlyFields b i s).writes (by simp [entryFields])).trans
    ((setBudget_onlyFields (linkDownAt b i s)).writes (by simp [budgetFields, entryFields]))⟩

theorem trainFrom_pairOnly (k : Nat) (s : State) : PairOnly s (trainFrom k s) := by
  cases hp : s.pins.pairEn with
  | false =>
    have he : trainFrom k s = s := by
      unfold trainFrom
      rw [hp]
      rfl
    rw [he]
    exact .refl s
  | true =>
    cases hn : nextMode s k with
    | none => exact trainFrom_none hp hn ▸ setBudget_pairOnly 0 12 s
    | some i => exact trainFrom_some hp hn ▸ setBudget_pairOnly 1 i s

/-- The claim of a single unit, before the lifeline's seats are told. -/
def claimTaken (s : State) : State := setPairState 0 (putF PAIR_STAT_CLAIM 1 (withPair { s.pair with drivers := true } s))

theorem singleClaim_pairOnly (s : State) : PairOnly s (singleClaim s) := by
  unfold singleClaim
  split
  · exact .refl s
  · refine ⟨{ s.pair with drivers := true }, Writes.trans ?_ ((watchLife_told claimTaken s).writes _)⟩
    exact ((Writes.refl entryFields (withPair { s.pair with drivers := true } s)).putF (f := PAIR_STAT_CLAIM) (by simp [entryFields]) 1).trans
      ((setPairState_writes 0 _).mono (List.subset_append_right _ _))

/-- What follows the boot: a boot fault cleared, a single unit's claim and a pair's first training. -/
def begun (s : State) : State :=
  if (singleClaim (bootFault 0 s)).pins.pairEn && !flag (singleClaim (bootFault 0 s)) PAIR_LINK_STAT_UP then
    trainFrom 0 (singleClaim (bootFault 0 s)) else singleClaim (bootFault 0 s)

theorem begun_pairOnly (s : State) : PairOnly (bootFault 0 s) (begun s) := by
  unfold begun
  split
  · exact (singleClaim_pairOnly _).trans (trainFrom_pairOnly 0 _)
  · exact singleClaim_pairOnly _

/-- The image in working RAM and the save area. -/
def saved (x : FwSrc) (s : State) : State :=
  if x = copySrc s then bootStat x s
  else putAshWords (131072 * saveBank s) (bytesToWords (x.bytes s 0 (0xD4 + min (x.len s) 393216))) (bootStat x s)

theorem enterFirmware_eq (x : FwSrc) (s : State) : ∃ c : Ctl, enterFirmware x s
    = begun (putFs [(LIFE_STATUS_BOOT_ROM, 0), (SYS_REMAP_REMAP, 0)] { saved x s with ctl := c })
    ∧ c.boot = .firmware ∧ c.svn = x.word s 0x10 ∧ c.fwVersion = x.word s 0x08 ∧ c.bootPosted = false :=
  ⟨_, rfl, rfl, rfl, rfl, rfl⟩

/-- REMAP has no effect but its own bit (R318). -/
theorem regWrite_remap (v : Nat) (s : State) : (regWrite 0x20000004 v s).2 = putF SYS_REMAP_REMAP v s := by
  have hv : bits (lo32 v) 0 1 % 2 ^ 1 = v % 2 ^ 1 := by
    unfold bits lo32
    omega
  have ha : absentReg s 0x20000004 = false := rfl
  have h1 : isPair 0x20000004 = false := by decide
  have h0 : isPair 0x20000000 = false := by decide
  unfold regWrite
  simp only [ha, h1, h0]
  exact putF_congr (f := SYS_REMAP_REMAP) hv

/-- A confirmed trial sets CONFIRM, and clears TRIAL in the flash selector where it stands there (R330). -/
theorem trialConfirm_eq (s : State) : ∃ c : Ctl, trialConfirm s = { putF SYS_BOOT_STAT_CONFIRM 1 s with ctl := c }
    ∧ c = { s.ctl with flash := c.flash } ∧ (bitOf (selector s) 1 = false → c.flash = s.ctl.flash) := by
  unfold trialConfirm
  dsimp only
  split
  · next hb => exact ⟨_, rfl, rfl, fun hn => by rw [hb] at hn; cases hn⟩
  · exact ⟨s.ctl, rfl, rfl, fun _ => rfl⟩

/-! ### The obligation -/

/-- Settles O23: the release of reset ends with a fuse fault, a strap conflict or the boot ROM (`exec_resetRelease_cap`, `exec_resetRelease_strap`,
`exec_resetRelease_cold`), the straps standing in fields of their own (`released_field`, `released_bindings`); entering the
firmware touches the pair side and the link only (`enterFirmware_eq`, `begun_pairOnly`). -/
theorem bootSequence : Obligations.BootSequence := by
  refine ⟨fun b m p u s hr hc hn => ⟨_, exec_resetRelease_cold hr hc hn, rfl, ?pins, ?rom, ?src, ?map, ?en, ?unit, ?bound⟩,
    fun b m p u s hr hc => ⟨_, exec_resetRelease_cap hr hc, by rw [bootFault_ctl]; rfl, ?capFault⟩,
    fun b m p u s hr hc hb hm => ⟨_, exec_resetRelease_strap hr hc hb hm, by rw [bootFault_ctl]; rfl, ?strapFault⟩,
    fun s hr hf => ⟨_, if_neg ?unfilled, .putF _ _ 1⟩, fun i s h => ?post, fun s h => ?retry, fun s h => if_pos h, fun x s => ⟨_, rfl, ?entered⟩,
    fun v s hp hr => ?remap, fun s h => ?confirm⟩
  case pins => exact released_pins b m p u s
  case rom => exact released_field (v := 1) (by simp [strapFields])
  case src => exact released_field (v := b) (by simp [strapFields])
  case map => exact released_field (v := m) (by simp [strapFields])
  case en => exact (released_field (by simp [strapFields])).trans (b2n_mod_two p)
  case unit => exact (released_field (by simp [strapFields])).trans (b2n_mod_two u)
  case bound => exact released_bindings b m p u s
  case capFault => 
    obtain ⟨hf, ha⟩ := bootFault_shown (code := 1) (by decide) (bootAt .capFail (released b m p u s))
    exact ⟨hf, ha (by decide)⟩
  case strapFault =>
    obtain ⟨hf, ha⟩ := bootFault_shown (code := 3) (by decide) (bootAt .strapFail (released b m p u s))
    exact ⟨hf, ha (by decide)⟩
  case unfilled => simp [flag, hf, hr]
  case post =>
    have he : exec (.bootWindowPost i) s = _ := if_neg (by simp [h])
    cases ha : authentic (stagedSrc s) s with
    | true =>
      rw [ha, if_pos rfl] at he
      refine ⟨_, he, by rw [bootFault_ctl], by rw [bootFault_ctl, Bool.or_true], ?_⟩
      rw [if_pos rfl]
      exact (bootFault_shown (by decide) _).1
    | false =>
      rw [ha, if_neg Bool.false_ne_true] at he
      refine ⟨_, he, by rw [bootFault_ctl], by rw [bootFault_ctl, Bool.or_false], ?_⟩
      rw [if_neg Bool.false_ne_true]
      exact (bootFault_shown (by decide) _).1
  case retry =>
    exact (if_neg (by simp [h])).trans (apply_ite Host.Outcome.next _ _ _).symm
  case entered =>
    obtain ⟨c, he, hb, hsvn, hv, hp⟩ := enterFirmware_eq x s
    have hw : OnlyFields { saved x s with ctl := c } _ [(LIFE_STATUS_BOOT_ROM, 0), (SYS_REMAP_REMAP, 0)] :=
      .putFs (by decide)
    rw [he]
    have hctl : (begun (putFs [(LIFE_STATUS_BOOT_ROM, 0), (SYS_REMAP_REMAP, 0)] { saved x s with ctl := c })).ctl = c := by
      rw [(begun_pairOnly _).ctl, bootFault_ctl, putFs_ctl]
    refine ⟨by rw [hctl, hb], by rw [hctl, hsvn], by rw [hctl, hv], by rw [hctl, hp], ?_, ?_, ?_⟩
    · rw [(begun_pairOnly _).getF (by decide), getF_bootFault _ _ (by decide) (by decide) (by decide)]
      exact hw.written (LIFE_STATUS_BOOT_ROM, 0) (by simp)
    · rw [(begun_pairOnly _).getF (by decide), getF_bootFault _ _ (by decide) (by decide) (by decide)]
      exact hw.written (SYS_REMAP_REMAP, 0) (by simp)
    · rw [(begun_pairOnly _).getF (by decide)]
      exact (bootFault_shown (by decide) _).1
  case remap =>
    have he : exec (.remapWrite v) s = .next (regWrite 0x20000004 v s).2 := congrArg Host.Outcome.next (if_neg (by simp [hp, hr]))
    rw [regWrite_remap] at he
    exact ⟨_, he, .putF s _ v⟩
  case confirm =>
    obtain ⟨c, he, hc, hf⟩ := trialConfirm_eq s
    refine ⟨_, (if_pos (by rw [h]; rfl)).trans (congrArg _ he), ?_, hc, hf⟩
    exact .putF s SYS_BOOT_STAT_CONFIRM 1

end Sys2Proof.Machine

namespace Sys2Proof.Machine

/-! ## Modulation and protection (R265 to R273, R286, R358) -/

/-- A key put twice keeps the second value. -/
theorem put_put_same {α : Type} (m : AMap α) (k : Nat) (v w : α) : (m.put k v).put k w = m.put k w := by
  induction m with
  | nil => simp [Sys2Proof.AMap.put]
  | cons p t ih =>
    obtain ⟨i, x⟩ := p
    simp only [Sys2Proof.AMap.put]
    split
    · simp [Sys2Proof.AMap.put]
    · split
      · simp [Sys2Proof.AMap.put]
      · simp [Sys2Proof.AMap.put, *]

/-! ### A carrier period (R265 to R270) -/

/-- A requantised high time is none, the whole period, or leaves at least a minimum pulse on both sides (R268). -/
theorem shape_bounds (q m : Nat) (v a b : Int) : ∃ h : Nat, (shape q m v a b).1 = h ∧ (shape q m v a b).2 = v + 2 * a - b - h * 2 ^ 36
    ∧ (h = 0 ∨ h = q ∨ m ≤ h ∧ h + m ≤ q) := by
  unfold shape
  extract_lets w h h1 h2
  have hh : 0 ≤ h2 ∧ (h2 = 0 ∨ h2 = q ∨ (m : Int) ≤ h2 ∧ h2 + m ≤ q) := by
    simp only [h2, h1]
    split <;> split <;> omega
  obtain ⟨hn, hb⟩ := hh
  exact ⟨h2.toNat, (Int.toNat_of_nonneg hn).symm, by rw [Int.toNat_of_nonneg hn], by omega⟩

/-- The state with the peaks of a channel raised (R270). -/
def peaked (c i v : Nat) (s : State) : State :=
  putF (AMP_CH_MEAS_V_PEAK c) (max (getF s (AMP_CH_MEAS_V_PEAK c)) (min v 65535))
    (putF (AMP_CH_MEAS_I_PEAK c) (max (getF s (AMP_CH_MEAS_I_PEAK c)) (min i 65535)) s)

/-- Whether a field is none of a channel's peaks. -/
def BesidePeaks (c : Nat) (f : Fld) : Prop := f.key ≠ (AMP_CH_MEAS_I_PEAK c).key ∧ f.key ≠ (AMP_CH_MEAS_V_PEAK c).key

theorem getF_peaked {c : Nat} {f : Fld} (i v : Nat) (s : State) (h : BesidePeaks c f) : getF (peaked c i v s) f = getF s f :=
  (getF_putF_ne _ _ h.2).trans (getF_putF_ne _ s h.1)

/-- Fields outside the channel's peak word. -/
theorem besidePeaks_of {c : Nat} {f : Fld} (h : f.lo < 32 ∧ f.addr ≠ 0x200D0114 + 32 * c) : BesidePeaks c f := by
  obtain ⟨hl, ha⟩ := h
  constructor <;> simp only [Fld.key, AMP_CH_MEAS_I_PEAK, AMP_CH_MEAS_V_PEAK] <;> omega

section
variable {c : Nat} (hc : c < 32) (i v : Nat) (s : State)
include hc

theorem groupX16_peaked : groupX16 (peaked c i v s) (c / 4) = groupX16 s (c / 4) := by
  unfold groupX16 flag
  rw [getF_peaked i v s (besidePeaks_of (f := AMP_MOD_STAT_X16 (c / 4)) (by simp only [AMP_MOD_STAT_X16]; omega)),
    getF_peaked i v s (besidePeaks_of (f := CLK_CAR_CFG_X16) (by simp only [CLK_CAR_CFG_X16]; omega))]

theorem carrierQ_peaked : carrierQ (peaked c i v s) c = carrierQ s c := by rw [carrierQ, groupX16_peaked hc, ← carrierQ]

theorem minQ_peaked : minQ (peaked c i v s) c = minQ s c := by
  unfold minQ quarters
  rw [getF_peaked i v s (besidePeaks_of (f := FAB_TL_STATUS_FAMILY) (by simp only [FAB_TL_STATUS_FAMILY]; omega)),
    getF_peaked i v s (besidePeaks_of (f := AMP_CTL_MIN_PULSE) (by simp only [AMP_CTL_MIN_PULSE]; omega)),
    getF_peaked i v s (besidePeaks_of (f := AMP_MOD_STAT_DT (c / 4)) (by simp only [AMP_MOD_STAT_DT]; omega))]

theorem spanK_peaked : spanK (peaked c i v s) c = spanK s c := by
  unfold spanK rmOf
  rw [groupX16_peaked hc, getF_peaked i v s (besidePeaks_of (f := FAB_TL_STATUS_RM) (by simp only [FAB_TL_STATUS_RM]; omega))]

theorem periodX_peaked : periodX (peaked c i v s) c = periodX s c := by
  have hch : ampCh (peaked c i v s) c = ampCh s c := rfl
  unfold periodX
  rw [hch, spanK_peaked hc, carrierQ_peaked hc, minQ_peaked hc]

theorem threeLevel_peaked : flag (peaked c i v s) (AMP_MOD_STAT_THREE_LEVEL (c / 4)) = flag s (AMP_MOD_STAT_THREE_LEVEL (c / 4)) := by
  rw [flag, flag, getF_peaked i v s (besidePeaks_of (by simp only [AMP_MOD_STAT_THREE_LEVEL]; omega))]

theorem genHigh_peaked : genHigh (peaked c i v s) c = genHigh s c := by
  have hg {f : Fld} (h : f.lo < 32 ∧ f.addr ≠ 0x200D0114 + 32 * c) : getF (peaked c i v s) f = getF s f := getF_peaked i v s (besidePeaks_of h)
  have hclaim := hg (f := PAIR_STAT_CLAIM) (by simp only [PAIR_STAT_CLAIM]; omega)
  have hoen : ampOen (peaked c i v s) = ampOen s := by
    unfold ampOen getL flag
    rw [hg (f := FAB_TL_STATUS_RUNNING) (by simp only [FAB_TL_STATUS_RUNNING]; omega), hg (f := AMP_OEN_OEN) (by simp only [AMP_OEN_OEN]; omega)]
    rfl
  have htrip : tripPresent (peaked c i v s) c = tripPresent s c := by
    unfold tripPresent tripActive ocOn capsF flag
    rw [hclaim, hg (f := AMP_CH_CFG_TRIP_POL c) (by simp only [AMP_CH_CFG_TRIP_POL]; omega),
      hg (f := AMP_CH_PROT_OC_EN c) (by simp only [AMP_CH_PROT_OC_EN]; omega),
      hg (f := AMP_CH_PROT_OC_LIMIT c) (by simp only [AMP_CH_PROT_OC_LIMIT]; omega)]
    rfl
  unfold genHigh driving audible flag
  rw [hoen, htrip, hclaim, hg (f := LIFE_STATUS_DARK) (by simp only [LIFE_STATUS_DARK]; omega),
    hg (f := LIFE_STATUS_MUTED) (by simp only [LIFE_STATUS_MUTED]; omega), hg (f := AMP_CTL_EN) (by simp only [AMP_CTL_EN]; omega),
    hg (f := AMP_CH_CFG_EN c) (by simp only [AMP_CH_CFG_EN]; omega), hg (f := AMP_CH_STAT_STATE c) (by simp only [AMP_CH_STAT_STATE]; omega)]
  rfl

end

/-- What a period leaves in its channel. -/
def AmpCh.period (t : AmpCh) (clipped three : Bool) (a b : Int) : AmpCh :=
  { t with
    idx := t.idx + 1
    clipped := t.clipped || clipped
    a1 := a
    a2 := t.a1
    b1 := if three then b else t.b1
    b2 := if three then t.b1 else t.b2 }

/-- The clip counted, where the period clips for the first time in its span (R268). -/
def clipCounted (c : Nat) (s : State) : State :=
  if (periodX s c).2 && !(ampCh s c).clipped then bump (AMP_CH_STAT_CLIP c) 1 s else s

theorem carrierPeriod_eq (c : Nat) (s : State) : ∃ h b : Nat, ∃ e2 : Int,
    carrierPeriod c s = emit .gate [c, h, b, b2n (genHigh s c)] (updCh c (fun t => t.period (periodX s c).2
      (flag s (AMP_MOD_STAT_THREE_LEVEL (c / 4)))
      (carrierQ s c * 2 ^ 35 + (periodX s c).1 + 2 * (ampCh s c).a1 - (ampCh s c).a2 - h * 2 ^ 36) e2) (clipCounted c s))
    ∧ (h = 0 ∨ h = carrierQ s c ∨ minQ s c ≤ h ∧ h + minQ s c ≤ carrierQ s c)
    ∧ (flag s (AMP_MOD_STAT_THREE_LEVEL (c / 4)) = false → b = carrierQ s c - h) := by
  obtain ⟨h, h1, h2, hb⟩ := shape_bounds (carrierQ s c) (minQ s c) (carrierQ s c * 2 ^ 35 + (periodX s c).1) (ampCh s c).a1 (ampCh s c).a2
  obtain ⟨lb, hlb⟩ : ∃ lb : Int × Int, lb = (if flag s (AMP_MOD_STAT_THREE_LEVEL (c / 4)) then
      shape (carrierQ s c) (minQ s c) (carrierQ s c * 2 ^ 35 - (periodX s c).1) (ampCh s c).b1 (ampCh s c).b2
      else ((carrierQ s c : Int) - h, 0)) := ⟨_, rfl⟩
  refine ⟨h, lb.1.toNat, lb.2, ?_, hb, fun h3 => ?_⟩
  · simp only [carrierPeriod, h1, h2, ← hlb, Int.toNat_natCast]
    rfl
  · rw [hlb, h3]
    show ((carrierQ s c : Int) - h).toNat = _
    omega

theorem clipCounted_fields (c : Nat) (s : State) : OnlyFields s (clipCounted c s)
    (if (periodX s c).2 && !(ampCh s c).clipped then [(AMP_CH_STAT_CLIP c, min (getF s (AMP_CH_STAT_CLIP c) + 1) 65535)] else []) := by
  unfold clipCounted
  split
  · exact OnlyFields.putF s (AMP_CH_STAT_CLIP c) _
  · exact OnlyFields.nil s

theorem clipCounted_rest (c : Nat) (s : State) : (clipCounted c s).out = s.out ∧ (clipCounted c s).amp = s.amp := by
  unfold clipCounted
  split <;> exact ⟨rfl, rfl⟩

theorem peaked_fields (c i v : Nat) (s : State) : OnlyFields s (peaked c i v s)
    [(AMP_CH_MEAS_I_PEAK c, max (getF s (AMP_CH_MEAS_I_PEAK c)) (min i 65535)),
      (AMP_CH_MEAS_V_PEAK c, max (getF s (AMP_CH_MEAS_V_PEAK c)) (min v 65535))] := by
  have hne : (AMP_CH_MEAS_I_PEAK c).key ≠ (AMP_CH_MEAS_V_PEAK c).key := by simp only [Fld.key, AMP_CH_MEAS_I_PEAK, AMP_CH_MEAS_V_PEAK]; omega
  exact OnlyFields.putF_then s (f := AMP_CH_MEAS_I_PEAK c) (g := AMP_CH_MEAS_V_PEAK c)
    (max (getF s (AMP_CH_MEAS_I_PEAK c)) (min i 65535)) (max (getF s (AMP_CH_MEAS_V_PEAK c)) (min v 65535)) hne

theorem besidePeaks_clip (c : Nat) : BesidePeaks c (AMP_CH_STAT_CLIP c) :=
  besidePeaks_of (by simp only [AMP_CH_STAT_CLIP]; omega)

/-- The fields that a carrier period writes: the peaks, and the clip counter where the period clips first (R268, R270). -/
theorem clipCounted_peaked_fields {c : Nat} (hc : c < 32) (i v : Nat) (s : State) : OnlyFields s (clipCounted c (peaked c i v s))
    ([(AMP_CH_MEAS_I_PEAK c, max (getF s (AMP_CH_MEAS_I_PEAK c)) (min i 65535)),
      (AMP_CH_MEAS_V_PEAK c, max (getF s (AMP_CH_MEAS_V_PEAK c)) (min v 65535))] ++
      (if (periodX s c).2 && !(ampCh s c).clipped then [(AMP_CH_STAT_CLIP c, min (getF s (AMP_CH_STAT_CLIP c) + 1) 65535)] else [])) := by
  have h := clipCounted_fields c (peaked c i v s)
  rw [periodX_peaked hc, getF_peaked i v s (besidePeaks_clip c), show ampCh (peaked c i v s) c = ampCh s c from rfl] at h
  refine (peaked_fields c i v s).append h fun p hp q hq => ?_
  obtain ⟨hi, hv⟩ := besidePeaks_clip c
  have hq' : q.1 = AMP_CH_STAT_CLIP c := by
    split at hq
    · rw [List.mem_singleton.1 hq]
    · cases hq
  rw [hq']
  obtain rfl | rfl : p = _ ∨ p = _ := by simpa using hp
  · exact hi.symm
  · exact hv.symm

/-- What leaves the balls, and the channel's own state, do not show in the registers. -/
theorem OnlyFields.drive {s t : State} {l : List (Fld × Nat)} (h : OnlyFields s t l) (c : Nat) (g : AmpCh → AmpCh) (d : List Nat) :
    OnlyFields s { Machine.emit .gate d (updCh c g t) with
      amp := s.amp
      out := s.out } l where
  rest := by
    conv =>
      lhs
      rw [h.rest]
    rfl
  written := h.written
  others := h.others

theorem exec_carrierPeriod {c : Nat} (i v : Nat) {s : State} (hc : c < 32) (ha : hasAmp s = true) (hr : running s = true)
    (he : flag s AMP_CTL_EN = true) (hn : flag s (AMP_CH_CFG_EN c) = true) :
    exec (.carrierPeriod c i v) s = .next (carrierPeriod c (peaked c i v s)) := by
  show execCarrierPeriod c i v s = _
  rw [execCarrierPeriod, ha, hr, he, hn, decide_eq_true hc]
  rfl

/-! ### Trips (R270, R271) -/

/-- A channel changed twice is changed once by both, where neither change leaves it at reset. -/
theorem updCh_updCh {c : Nat} {f g : AmpCh → AmpCh} {s : State} (hf : f (ampCh s c) ≠ .init) (hg : g (f (ampCh s c)) ≠ .init) :
    updCh c g (updCh c f s) = updCh c (fun x => g (f x)) s := by
  have h : ampCh (updCh c f s) c = f (ampCh s c) := AMap.get_set_self s.amp.ch c (f (ampCh s c)) .init
  show { s with amp := { s.amp with ch := (s.amp.ch.set c (f (ampCh s c)) .init).set c (g (ampCh (updCh c f s) c)) .init } } =
    { s with amp := { s.amp with ch := s.amp.ch.set c (g (f (ampCh s c))) .init } }
  rw [h, AMap.set, AMap.set, AMap.set, if_neg hf, if_neg hg, if_neg hg, put_put_same]

/-- A low bit of a word is one of its remainder. -/
theorem bitOf_mod (v : Nat) {c d : Nat} (h : d < c) : bitOf (v % 2 ^ c) d = bitOf v d := by
  have := Nat.testBit_mod_two_pow v c d
  simp only [Nat.testBit_eq_decide_div_mod_eq, decide_eq_true h, Bool.true_and] at this
  exact this

/-- Bit `c` of a word set to `hi`: it is `hi`, and every other bit is as before. -/
theorem bitOf_placed (v c : Nat) (hi : Bool) : bitOf (v - b2n (bitOf v c) * 2 ^ c + b2n hi * 2 ^ c) c = hi
    ∧ ∀ d, d ≠ c → bitOf (v - b2n (bitOf v c) * 2 ^ c + b2n hi * 2 ^ c) d = bitOf v d := by
  obtain ⟨w, hw⟩ : ∃ w, w = v - b2n (bitOf v c) * 2 ^ c + b2n hi * 2 ^ c := ⟨_, rfl⟩
  have hb : b2n (bitOf v c) = v / 2 ^ c % 2 := by
    unfold bitOf
    obtain h | h := Nat.mod_two_eq_zero_or_one (v / 2 ^ c) <;> rw [h] <;> rfl
  have hp : 0 < 2 ^ c := Nat.two_pow_pos c
  have hle : v / 2 ^ c % 2 * 2 ^ c ≤ v := (Nat.mul_le_mul_right _ (Nat.mod_le _ 2)).trans (Nat.div_mul_le_self v (2 ^ c))
  have hdiv : w / 2 ^ c = v / 2 ^ c - v / 2 ^ c % 2 + b2n hi := by
    rw [hw, hb, Nat.add_mul_div_right _ _ hp, Nat.mul_comm, Nat.sub_mul_div]
  have hmod : w % 2 ^ c = v % 2 ^ c := by
    rw [hw, hb, Nat.add_mul_mod_self_right, Nat.mul_comm, Nat.sub_mul_mod (Nat.mul_comm _ _ ▸ hle)]
  have hh : b2n hi < 2 := by cases hi <;> decide
  rw [← hw]
  refine ⟨?_, fun d hd => ?_⟩
  · unfold bitOf
    rw [hdiv, show (v / 2 ^ c - v / 2 ^ c % 2 + b2n hi) % 2 = b2n hi by omega]
    cases hi <;> rfl
  · obtain hlt | hlt := Nat.lt_or_gt_of_ne hd
    · rw [← bitOf_mod v hlt, ← bitOf_mod w hlt, hmod]
    · obtain ⟨k, rfl⟩ : ∃ k, d = c + 1 + k := ⟨d - (c + 1), by omega⟩
      unfold bitOf
      have hhalf : w / 2 ^ c / 2 = v / 2 ^ c / 2 := by
        rw [hdiv]
        generalize v / 2 ^ c = m
        omega
      rw [Nat.pow_add, Nat.pow_succ, ← Nat.div_div_eq_div_mul, ← Nat.div_div_eq_div_mul, hhalf, ← Nat.div_div_eq_div_mul, ← Nat.div_div_eq_div_mul]

theorem tripActive_placed {c : Nat} {s : State} {hi : Bool} (hb : bitOf s.pins.trip c = hi) :
    tripActive s c = true ↔ hi = flag s (AMP_CH_CFG_TRIP_POL c) := by
  rw [tripActive, hb, beq_iff_eq]

/-! ### The end of a hold (R272, R273) -/

/-- The strikes that still count in the last W1 courses. -/
def liveStrikes (c : Nat) (s : State) : List Nat := (ampCh s c).strikes.filter (fun x => s.fab.ci < x + windowW1 s)

/-- Whether one more strike is the third. -/
def thirdStrike (c : Nat) (s : State) : Bool := decide (3 ≤ (liveStrikes c s).length + 1)

/-- The fields of a trip found again, before SHORT (R273). -/
def struckFields (c : Nat) (s : State) : State :=
  bump (AMP_CH_STAT_TRIPS c) 1 (putFs [(AMP_CH_STAT_STRIKES c, min ((liveStrikes c s).length + 1) 3),
    (AMP_CH_STAT_STATE c, if thirdStrike c s then 5 else 4)] s)

/-- What a trip found again shows of its channel before the seats are told (R273). -/
def struck (c : Nat) (s : State) : State :=
  updCh c (fun t => { t with tCi := s.fab.ci, strikes := s.fab.ci :: liveStrikes c s, fresh := false })
    (if thirdStrike c s then putF (AMP_CH_STAT_SHORT c) 1 (struckFields c s) else struckFields c s)

theorem noteEv_eq (e : PairEv) (s : State) : noteEv e s = { s with pair := (noteEv e s).pair } := by
  unfold noteEv
  split <;> rfl

/-- A trip found again is what `struck` shows, with the partner's record and the seats told (R273, R302). -/
theorem tripFound_told (c : Nat) (s : State) : ∃ e, Told (noteEv e (struck c s)) (tripFound c true s) := by
  unfold tripFound
  extract_lets k t l short s1 s2 s3 s4
  refine ⟨⟨5, c, [b2n (t.trip || tripActive s c) + 2 * b2n t.oc]⟩, ?_⟩
  have h : Told s3 s4 := (Told.refl s3).raiseOwner _ _ _ _
  by_cases hs : short = true
  · rw [if_pos hs]
    exact h.raiseAll _ _
  · rw [if_neg hs]
    exact h

theorem getF_struckFields {c : Nat} {s : State} : getF (struckFields c s) (AMP_CH_STAT_STATE c) = (if thirdStrike c s then 5 else 4)
    ∧ getF (struckFields c s) (AMP_CH_STAT_STRIKES c) = min ((liveStrikes c s).length + 1) 3
    ∧ getF (struckFields c s) (AMP_CH_STAT_TRIPS c) = min (getF s (AMP_CH_STAT_TRIPS c) + 1) 255 := by
  have hw : OnlyFields s (putFs [(AMP_CH_STAT_STRIKES c, min ((liveStrikes c s).length + 1) 3),
      (AMP_CH_STAT_STATE c, if thirdStrike c s then 5 else 4)] s) _ :=
    OnlyFields.putFs (by
      simp only [List.map_cons, List.map_nil, List.nodup_cons, List.mem_singleton, List.not_mem_nil, not_false_eq_true, List.nodup_nil,
        and_true, Fld.key, AMP_CH_STAT_STRIKES, AMP_CH_STAT_STATE]
      omega)
  refine ⟨?_, ?_, ?_⟩
  · rw [struckFields, getF_bump_ne _ _ (by simp only [Fld.key, AMP_CH_STAT_STATE, AMP_CH_STAT_TRIPS]; omega),
      hw.written _ (List.mem_cons_of_mem _ (List.mem_singleton_self _))]
    cases thirdStrike c s <;> rfl
  · rw [struckFields, getF_bump_ne _ _ (by simp only [Fld.key, AMP_CH_STAT_STRIKES, AMP_CH_STAT_TRIPS]; omega), hw.written _ List.mem_cons_self]
    exact Nat.mod_eq_of_lt (show _ < 4 by omega)
  · rw [struckFields, getF_bump_self, hw.others _ (by
      simp only [List.mem_cons, List.not_mem_nil, or_false, forall_eq_or_imp, forall_eq, Fld.key,
        AMP_CH_STAT_STRIKES, AMP_CH_STAT_STATE, AMP_CH_STAT_TRIPS]
      omega)]
    rfl

/-- A field of a channel's status word, SHORT aside, after a trip found again. -/
theorem getF_tripFound {c : Nat} (s : State) (hc : c < 32) {f : Fld} (ha : f.addr = 0x200D0110 + 32 * c) (hl : f.lo < 32) (h5 : f.lo ≠ 5) :
    getF (tripFound c true s) f = getF (struckFields c s) f := by
  obtain ⟨e, he⟩ := tripFound_told c s
  have hk : tellKey f.key = false := tellKey_of_below (by rw [Fld.key, ha]; omega)
  rw [he.getF f hk, noteEv_eq e]
  show getF (if thirdStrike c s then putF (AMP_CH_STAT_SHORT c) 1 (struckFields c s) else struckFields c s) f = _
  split
  · exact getF_putF_ne _ _ (by simp only [Fld.key, ha, AMP_CH_STAT_SHORT]; omega)
  · rfl

theorem ampCh_tripFound (c : Nat) (s : State) : ampCh (tripFound c true s) c = { ampCh s c with
    tCi := s.fab.ci
    strikes := s.fab.ci :: liveStrikes c s
    fresh := false } := by
  obtain ⟨e, he⟩ := tripFound_told c s
  have hamp : (tripFound c true s).amp = (struck c s).amp := by rw [he.rest, noteEv_eq e]
  have hch : ampCh (tripFound c true s) c = ampCh (struck c s) c := by rw [ampCh, hamp]; rfl
  rw [hch, struck, ampCh_updCh, if_pos rfl]
  cases thirdStrike c s <;> rfl

theorem getF_tripFound_short {c : Nat} {s : State} (hc : c < 32) (h : thirdStrike c s = true) :
    getF (tripFound c true s) (AMP_CH_STAT_SHORT c) = 1 := by
  obtain ⟨e, he⟩ := tripFound_told c s
  rw [he.getF _ (tellKey_of_below (by simp only [Fld.key, AMP_CH_STAT_SHORT]; omega)), noteEv_eq e]
  show getF (if thirdStrike c s then putF (AMP_CH_STAT_SHORT c) 1 (struckFields c s) else struckFields c s) _ = _
  rw [if_pos h]
  exact getF_putF_self _ _ _

/-- TRIP_HOLD_EXPIRY of a running unit is the end of the hold. -/
theorem exec_tripHoldExpiry {c : Nat} {s : State} (hc : c < 32) (ha : hasAmp s = true) (hr : running s = true) :
    exec (.tripHoldExpiry c) s = .next (tripHold c s) := by
  show execTripHoldExpiry c s = _
  rw [execTripHoldExpiry, ha, hr, decide_eq_true hc]
  rfl

/-- Settles O44: a requantised high time has its bounds (`shape_bounds`), and a carrier period reads nothing of the peaks that its own command
raises (`genHigh_peaked`, `periodX_peaked`); a trip changes its channel twice, which is once by both (`updCh_updCh`); the end of a hold with the
trip present is a strike (`getF_struckFields`, `getF_tripFound`, `ampCh_tripFound`), after which seats are told only. -/
theorem modulationAndProtection : Obligations.ModulationAndProtection := by
  refine ⟨fun c i v s q e hc ha hr hm he hq hd => ?period, fun c l s hc ho => ⟨fun hoc hl => ?tripped, fun h => ?within⟩, fun c hi s hc ha => ?input,
    fun c s hc ha hr h4 hh => ⟨fun hp => ?back, fun n hp hn => ?again⟩, fun c s hc ha hr h => ?hold, fun v s ha => ?clear, fun lo s => ?emute⟩
  case period =>
    subst hq hd
    obtain ⟨h, b, e2, ht, hb, h2⟩ := carrierPeriod_eq c (peaked c i v s)
    rw [genHigh_peaked hc, carrierQ_peaked hc, periodX_peaked hc, threeLevel_peaked hc] at ht
    rw [carrierQ_peaked hc, minQ_peaked hc] at hb
    rw [carrierQ_peaked hc, threeLevel_peaked hc] at h2
    obtain ⟨hout, hamp⟩ := clipCounted_rest c (peaked c i v s)
    have hself : ampCh (clipCounted c (peaked c i v s)) c = ampCh s c := by rw [ampCh, hamp]; rfl
    refine ⟨_, h, b, (exec_carrierPeriod i v hc ha hr hm he).trans (congrArg _ ht), hb, ?_, ?_, ?_, ?_, fun h2l => ⟨h2 h2l, ?_⟩, ?_, fun d hd => ?_⟩
    · exact congrArg (_ :: ·) hout
    · rw [ampCh_emit, ampCh_updCh, if_pos rfl]
      rfl
    · rw [ampCh_emit, ampCh_updCh, if_pos rfl, hself]
      rfl
    · rw [ampCh_emit, ampCh_updCh, if_pos rfl, hself]
      rfl
    · rw [ampCh_emit, ampCh_updCh, if_pos rfl, h2l, hself]
      rfl
    · exact (clipCounted_peaked_fields hc i v s).drive _ _ _
    · rw [ampCh_emit, ampCh_updCh, if_neg hd, ampCh, hamp]
      rfl
  case tripped =>
    have hne : ({ ampCh s c with level := l } : AmpCh) ≠ .init := fun e => absurd (congrArg AmpCh.level e) (show l ≠ 0 by omega)
    have hne' : ({ ampCh s c with
        level := l
        oc := true } : AmpCh) ≠ .init := fun e => absurd (congrArg AmpCh.oc e) (show true ≠ false by decide)
    show execOvercurrentTrip c l s = _
    rw [execOvercurrentTrip, ho, hoc, decide_eq_true hc, decide_eq_true hl, ← updCh_updCh (f := fun x => { x with level := l })
      (g := fun x => { x with oc := true }) hne hne']
    rfl
  case within =>
    show execOvercurrentTrip c l s = _
    rw [execOvercurrentTrip, ho, decide_eq_true hc, if_pos (Bool.and_self true)]
    refine if_neg fun hb => ?_
    obtain ⟨h1, h2⟩ := (Bool.and_eq_true _ _).mp hb
    obtain h | h := h
    · rw [h] at h1
      cases h1
    · exact absurd (of_decide_eq_true h2) (by omega)
  case input =>
    obtain ⟨hb, hbs⟩ := bitOf_placed s.pins.trip c hi
    obtain ⟨v, hv⟩ : ∃ v, v = s.pins.trip - b2n (bitOf s.pins.trip c) * 2 ^ c + b2n hi * 2 ^ c := ⟨_, rfl⟩
    rw [← hv] at hb hbs
    obtain ⟨s1, hs1⟩ : ∃ s1 : State, s1 = { s with pins := { s.pins with trip := v } } := ⟨_, rfl⟩
    have hx : exec (.tripInput c hi) s = if ownTrips s && tripActive s1 c then
        .next (emit .gate [c, 0] (updCh c (fun t => { t with trip := true }) s1)) else .next s1 := by
      show execTripInput c hi s = _
      rw [execTripInput, ha, decide_eq_true hc, hs1, hv]
      rfl
    have ht : tripActive s1 c = true ↔ hi = flag s (AMP_CH_CFG_TRIP_POL c) := by
      rw [tripActive_placed (hi := hi) (by rw [hs1]; exact hb), hs1]
      rfl
    by_cases h : (ownTrips s && tripActive s1 c) = true
    · rw [if_pos h] at hx
      obtain ⟨_, hact⟩ := (Bool.and_eq_true _ _).mp h
      refine ⟨_, hx, ?_, fun d hd => ⟨?_, ?_⟩, fun _ _ => ⟨?_, ?_⟩, fun hne => absurd (ht.1 hact) hne⟩
      · rw [hs1]
        exact hb
      · rw [hs1]
        exact hbs d hd
      · rw [ampCh_emit, ampCh_updCh, if_neg hd, hs1]
        rfl
      · rw [hs1]
        rfl
      · rw [ampCh_emit, ampCh_updCh, if_pos rfl, hs1]
        rfl
    · rw [if_neg h] at hx
      refine ⟨_, hx, by rw [hs1]; exact hb, fun d hd => ⟨by rw [hs1]; exact hbs d hd, by rw [hs1]; rfl⟩,
        fun ho hp => absurd (by rw [ho, ht.2 hp]; rfl) h, fun _ => by rw [hs1]⟩
  case back =>
    refine ⟨_, (exec_tripHoldExpiry hc ha hr).trans (congrArg _ (by rw [tripHold, if_pos ⟨h4, hh⟩, hp, if_neg Bool.false_ne_true])), ?_, ?_⟩
    · exact OnlyFields.putF s (AMP_CH_STAT_STATE c) 2
    · rw [ampCh_putF, ampCh_updCh, if_pos rfl]
  case again =>
    have hlen : n = (liveStrikes c s).length + 1 := hn
    obtain ⟨hst, hsk, htr⟩ := getF_struckFields (c := c) (s := s)
    refine ⟨_, (exec_tripHoldExpiry hc ha hr).trans (congrArg _ (by rw [tripHold, if_pos ⟨h4, hh⟩, if_pos hp])), ?_, ?_, ?_, fun h3 => ?_, ?_, ?_⟩
    · rw [getF_tripFound s hc rfl (by simp only [AMP_CH_STAT_STATE]; omega) (by simp only [AMP_CH_STAT_STATE]; omega), hst, thirdStrike, hlen]
      simp only [decide_eq_true_eq]
    · rw [getF_tripFound s hc rfl (by simp only [AMP_CH_STAT_STRIKES]; omega) (by simp only [AMP_CH_STAT_STRIKES]; omega), hsk, hlen]
    · rw [getF_tripFound s hc rfl (by simp only [AMP_CH_STAT_TRIPS]; omega) (by simp only [AMP_CH_STAT_TRIPS]; omega), htr]
    · exact getF_tripFound_short hc (decide_eq_true (hlen ▸ h3))
    · rw [ampCh_tripFound]
    · rw [ampCh_tripFound, hlen]
      rfl
  case hold =>
    rw [exec_tripHoldExpiry hc ha hr, tripHold, if_neg (by omega)]
  case clear =>
    show Host.Outcome.next (ampClear v s) = _
    rw [ampClear, if_pos ha]
    rfl
  case emute =>
    exact ⟨_, rfl, rfl, OnlyFields.putF s LIFE_STATUS_EMUTE (b2n lo)⟩

end Sys2Proof.Machine

namespace Sys2Proof.Machine

/-! ## The stage bus (R279 to R284)

### Bytes, words and the CRC -/

@[simp] theorem length_bytesOf (v n : Nat) : (bytesOf v n).length = n := by
  induction n generalizing v with
  | zero => rfl
  | succ n ih => rw [bytesOf, List.length_cons, ih]

theorem ofBytes_bytesOf (v n : Nat) : ofBytes (bytesOf v n) = v % 256 ^ n := by
  induction n generalizing v with
  | zero => rw [bytesOf, ofBytes, Nat.pow_zero, Nat.mod_one]
  | succ n ih => rw [bytesOf, ofBytes, ih, Nat.mod_mod, Nat.pow_succ, Nat.mul_comm (256 ^ n), ← Nat.mod_mul]

/-- A word is read back from its four bytes. -/
theorem ofBytes_bytesOf_word {v : Nat} (h : v < 2 ^ 32) : ofBytes (bytesOf v 4) = v := by
  rw [ofBytes_bytesOf]
  exact Nat.mod_eq_of_lt h

@[simp] theorem length_wordsToBytes (ws : List Nat) : (wordsToBytes ws).length = 4 * ws.length := by
  induction ws with
  | nil => rfl
  | cons w ws ih => rw [wordsToBytes, List.flatMap_cons, List.length_append, length_bytesOf, ← wordsToBytes, ih, List.length_cons]; omega

theorem bytesToWords_wordsToBytes {ws : List Nat} (h : ∀ w ∈ ws, w < 2 ^ 32) : bytesToWords (wordsToBytes ws) = ws := by
  induction ws with
  | nil => rfl
  | cons w ws ih =>
    rw [wordsToBytes, List.flatMap_cons, ← wordsToBytes]
    show ofBytes (bytesOf w 4) :: bytesToWords (wordsToBytes ws) = _
    rw [ofBytes_bytesOf_word (h w List.mem_cons_self), ih fun x hx => h x (List.mem_cons_of_mem _ hx)]

theorem crcShift_lt {c : Nat} (h : c < 2 ^ 32) (n : Nat) : crcShift c n < 2 ^ 32 := by
  induction n generalizing c with
  | zero => exact h
  | succ n ih =>
    have hh : c / 2 < 2 ^ 32 := by omega
    refine ih ?_
    split
    · exact Nat.xor_lt_two_pow hh (by decide)
    · exact hh

theorem crcRun_lt (bs : List Nat) {c : Nat} (h : c < 2 ^ 32) : crcRun c bs < 2 ^ 32 := by
  induction bs generalizing c with
  | nil => exact h
  | cons b bs ih => exact ih (crcShift_lt (Nat.xor_lt_two_pow h (by omega)) 8)

theorem crc32c_lt (bs : List Nat) : crc32c bs < 2 ^ 32 := Nat.xor_lt_two_pow (crcRun_lt bs (by decide)) (by decide)

/-! ### A frame is read back as it was sent (R279) -/

/-- The payload of a frame: each word followed by its complement. -/
def paired (ws : List Nat) : List Nat := ws.flatMap (fun w => [w, not32 w])

theorem pairWords_paired (ws : List Nat) : pairWords (paired ws) = some ws := by
  induction ws with
  | nil => rfl
  | cons w ws ih =>
    show (if not32 w = not32 w then (pairWords (paired ws)).map (w :: ·) else none) = _
    rw [if_pos rfl, ih]
    rfl

theorem length_paired (ws : List Nat) : (paired ws).length = 2 * ws.length := by
  induction ws with
  | nil => rfl
  | cons w ws ih =>
    show (paired ws).length + 1 + 1 = _
    rw [ih, List.length_cons]
    omega

theorem paired_lt {ws : List Nat} (h : ∀ w ∈ ws, w < 2 ^ 32) : ∀ x ∈ paired ws, x < 2 ^ 32 := by
  intro x hx
  obtain ⟨w, hw, hx⟩ := List.mem_flatMap.1 hx
  obtain rfl | rfl : x = w ∨ x = not32 w := by simpa using hx
  · exact h x hw
  · exact not32_lt w

/-- The header word of a frame. -/
def mklHeader (a typ sq n : Nat) : Nat := a + 256 * typ + 65536 * (8 * n) + 16777216 * (sq % 256)

/-- What a frame's CRC covers. -/
def mklBody (a typ sq : Nat) (ws : List Nat) : List Nat :=
  bytesOf (mklHeader a typ sq ws.length) 4 ++ (bytesOf (not32 (mklHeader a typ sq ws.length)) 4 ++ wordsToBytes (paired ws))

theorem mklFrame_eq (a typ sq : Nat) (ws : List Nat) :
    mklFrame a typ sq ws = 0xD5 :: (mklBody a typ sq ws ++ bytesOf (crc32c (mklBody a typ sq ws)) 4) := by
  have h : ws.flatMap (fun w => bytesOf w 4 ++ bytesOf (not32 w) 4) = wordsToBytes (paired ws) := by
    rw [wordsToBytes, paired, List.flatMap_assoc]
    rfl
  unfold mklFrame mklBody
  simp only [h, mklHeader, List.append_assoc, List.cons_append]

theorem length_mklBody (a typ sq : Nat) (ws : List Nat) : (mklBody a typ sq ws).length = 8 + 8 * ws.length := by
  simp only [mklBody, List.length_append, length_bytesOf, length_wordsToBytes, length_paired]
  omega

theorem mklParse_mklFrame {a typ : Nat} (sq : Nat) {ws : List Nat} (ha : a < 16) (ht : typ < 256) (hl : ws.length ≤ 8)
    (hw : ∀ w ∈ ws, w < 2 ^ 32) : mklParse (mklFrame a typ sq ws) = some (a, typ, sq % 256, paired ws) := by
  obtain ⟨h, hh⟩ : ∃ h, h = mklHeader a typ sq ws.length := ⟨_, rfl⟩
  have hbits : bits h 16 8 = 8 * ws.length ∧ bits h 4 4 = 0 ∧ bits h 0 4 = a ∧ bits h 8 8 = typ ∧ bits h 24 8 = sq % 256 := by
    simp only [bits, hh, mklHeader]
    omega
  obtain ⟨hn, hr, hA, hT, hS⟩ := hbits
  have hlt : h < 2 ^ 32 := by simp only [hh, mklHeader]; omega
  have hbody : mklBody a typ sq ws = bytesOf h 4 ++ (bytesOf (not32 h) 4 ++ wordsToBytes (paired ws)) := by rw [mklBody, ← hh]
  have hlen := length_mklBody a typ sq ws
  obtain ⟨b, hb⟩ : ∃ b, b = mklBody a typ sq ws := ⟨_, rfl⟩
  rw [← hb] at hbody hlen
  have hf : mklFrame a typ sq ws = 0xD5 :: (b ++ bytesOf (crc32c b) 4) := by rw [mklFrame_eq, hb]
  have h1 : ofBytes (((mklFrame a typ sq ws).drop 1).take 4) = h := by
    rw [hf, hbody]
    exact ofBytes_bytesOf_word hlt
  have h2 : ofBytes (((mklFrame a typ sq ws).drop 5).take 4) = not32 h := by
    rw [hf, hbody]
    exact ofBytes_bytesOf_word (not32_lt h)
  have h3 : ((mklFrame a typ sq ws).drop 1).take (8 + 8 * ws.length) = b := by
    rw [hf, ← hlen]
    exact List.take_left
  have h4 : (mklFrame a typ sq ws).drop (9 + 8 * ws.length) = bytesOf (crc32c b) 4 := by
    rw [hf, show 9 + 8 * ws.length = b.length + 1 by omega, List.drop_succ_cons, List.drop_left]
  have h5 : (mklFrame a typ sq ws).length = 13 + 8 * ws.length := by
    rw [hf, List.length_cons, List.length_append, length_bytesOf, hlen]
    omega
  have h6 : b.drop 8 = wordsToBytes (paired ws) := by rw [hbody]; rfl
  have h7 : (mklFrame a typ sq ws).head? = some 0xD5 := by rw [hf]; rfl
  unfold mklParse
  simp only [h1, hn]
  rw [h3, if_pos ⟨h7, h2, by omega, by omega, h5, hr, by rw [h4]; exact ofBytes_bytesOf_word (crc32c_lt b)⟩, h6,
    bytesToWords_wordsToBytes (paired_lt hw), hA, hT, hS]

/-! ### A module's state (R284) -/

theorem modState_below {m : Nat} (h : m < 8) {f : Fld} (ha : f.addr = 0x200D0700 + 4 * m) (hl : f.lo < 32) : tellKey f.key = false :=
  tellKey_of_below (by rw [Fld.key, ha]; omega)

theorem getF_setMod_self {m st : Nat} (s : State) (hm : m < 8) (hs : st < 8) : getF (setMod m st s) (AMP_MOD_STAT_STATE m) = st := by
  unfold setMod
  split
  · assumption
  · rw [((Told.refl _).raiseOwner 17 m 0x0052 _).getF _ (modState_below hm rfl (Nat.succ_pos 31)), getF_putF_self]
    exact Nat.mod_eq_of_lt hs

theorem getF_setMod_ne {m st : Nat} {f : Fld} (s : State) (hf : tellKey f.key = false) (hne : f.key ≠ (AMP_MOD_STAT_STATE m).key) :
    getF (setMod m st s) f = getF s f := by
  unfold setMod
  split
  · rfl
  · rw [((Told.refl _).raiseOwner 17 m 0x0052 _).getF f hf, getF_putF_ne _ _ hne]

theorem setMod_amp (m st : Nat) (s : State) : (setMod m st s).amp = s.amp := by
  unfold setMod
  split
  · rfl
  · rw [((Told.refl (putF (AMP_MOD_STAT_STATE m) st s)).raiseOwner 17 m 0x0052 [m + 8 * st]).rest]
    rfl

theorem ampMod_setMod (m st : Nat) (s : State) (n : Nat) : ampMod (setMod m st s) n = ampMod s n := by
  rw [ampMod, setMod_amp]
  rfl

/-! ### Frames received (R279, R283, R284) -/

/-- A frame of a module, received whole, is taken. -/
theorem exec_mklFrameRx_frame {m typ : Nat} (sq : Nat) {vs : List Nat} {s : State} (hm : m < 8) (ht : typ < 256) (hl : vs.length ≤ 8)
    (hv : ∀ w ∈ vs, w < 2 ^ 32) (ha : hasAmp s = true) (he : flag s AMP_CTL_EN = true) :
    exec (.mklFrameRx (mklFrame m typ sq vs)) s = .next (mklTake m typ vs s) := by
  show execMklFrameRx _ s = _
  unfold execMklFrameRx
  simp only [ha, he, mklParse_mklFrame sq (show m < 16 by omega) ht hl hv, pairWords_paired, hm]
  rfl

/-- CAPS of a module that was asked is taken. -/
theorem mklTake_caps {m : Nat} {vs : List Nat} {s : State} (hd : flag s AMP_MKL_CFG_DISC_EN = true) (hl : vs.length = 6)
    (hst : getF s (AMP_MOD_STAT_STATE m) = 0 ∨ getF s (AMP_MOD_STAT_STATE m) = 3) (hk : (ampMod s m).asked = true) :
    mklTake m 4 vs s = takeCaps m vs s := by
  unfold mklTake
  simp only [hd, hl, hst, hk, Bool.not_true, if_false, true_and, true_or, if_true, Bool.false_eq_true]

/-- The CONFIG echoed by a FOUND module makes it READY (R284). -/
theorem mklTake_config {m : Nat} {s : State} (hd : flag s AMP_MKL_CFG_DISC_EN = true) (ho : ownTrips s = true)
    (hst : getF s (AMP_MOD_STAT_STATE m) = 1) : mklTake m 6 (ampMod s m).cfg s = setMod m 2 (updMod m (fun t => { t with
      tries := 0
      miss := 0 }) s) := by
  unfold mklTake
  simp only [hd, ho, hst, Bool.not_true, if_false, true_and, if_true, Bool.false_eq_true]

theorem mklTake_status {m : Nat} {ws : List Nat} {s : State} (hd : flag s AMP_MKL_CFG_DISC_EN = true) (hl : ws.length = 2) :
    mklTake m 2 ws s = takeStatus m ws s := by
  unfold mklTake
  simp only [hd, hl, Bool.not_true, if_false, if_true, Bool.false_eq_true]

/-- What CAPS leaves of a module beside its state. -/
def AmpMod.found (t : AmpMod) (caps cfg : List Nat) : AmpMod :=
  { t with
    caps := caps
    asked := false
    due := false
    tries := 0
    miss := 0
    cfg := cfg }

/-- The fields of a module's settled mode (R283). -/
def modeFields (m : Nat) (cfg : List Nat) : List (Fld × Nat) :=
  [(AMP_MOD_STAT_THREE_LEVEL m, bits (cfg.getD 0 0) 0 1), (AMP_MOD_STAT_X16 m, bits (cfg.getD 0 0) 1 1),
    (AMP_MOD_STAT_DT m, bits (cfg.getD 0 0) 8 8)]

theorem modeFields_onlyFields (m : Nat) (cfg : List Nat) (s : State) : OnlyFields s (putFs (modeFields m cfg) s) (modeFields m cfg) :=
  OnlyFields.putFs (by
    simp only [modeFields, List.map_cons, List.map_nil, List.nodup_cons, List.mem_cons, List.not_mem_nil, or_false, not_false_eq_true, List.nodup_nil,
      and_true, Fld.key, AMP_MOD_STAT_THREE_LEVEL, AMP_MOD_STAT_X16, AMP_MOD_STAT_DT]
    omega)

/-- CAPS that settle a mode (R283): the module's mode shows, and it is FOUND. -/
theorem takeCaps_settled {m : Nat} {caps cfg : List Nat} {s : State} (hm : m < 8) (h : settle s caps = some cfg) :
    ampMod (takeCaps m caps s) m = (ampMod s m).found caps cfg ∧ getF (takeCaps m caps s) (AMP_MOD_STAT_STATE m) = 1
      ∧ ∀ p ∈ modeFields m cfg, getF (takeCaps m caps s) p.1 = p.2 % 2 ^ p.1.width := by
  obtain ⟨u, hu⟩ : ∃ u, u = updMod m (fun t => { t with cfg := cfg }) (updMod m (fun t => { t with
      caps := caps
      asked := false
      due := false
      tries := 0
      miss := 0 }) s) := ⟨_, rfl⟩
  have ht : takeCaps m caps s = setMod m 1 (putFs (modeFields m cfg) u) := by
    simp only [takeCaps, h, hu, modeFields]
  have hw := modeFields_onlyFields m cfg u
  rw [ht]
  refine ⟨?_, getF_setMod_self _ hm (by decide), fun p hp => ?_⟩
  · rw [ampMod_setMod, ampMod, hw.rest]
    show ampMod u m = _
    rw [hu, ampMod_updMod, if_pos rfl, ampMod_updMod, if_pos rfl]
    rfl
  · have hb : p.1.addr = 0x200D0700 + 4 * m ∧ p.1.lo < 32 ∧ p.1.lo ≠ 0 := by
      obtain rfl | rfl | rfl : p = _ ∨ p = _ ∨ p = _ := by simpa [modeFields] using hp
      · exact ⟨rfl, show 3 < 32 by decide, show 3 ≠ 0 by decide⟩
      · exact ⟨rfl, show 4 < 32 by decide, show 4 ≠ 0 by decide⟩
      · exact ⟨rfl, show 8 < 32 by decide, show 8 ≠ 0 by decide⟩
    obtain ⟨ha, hl, h0⟩ := hb
    rw [getF_setMod_ne _ (modState_below hm ha hl) (by simp only [Fld.key, ha, AMP_MOD_STAT_STATE]; omega), hw.written p hp]

/-- CAPS that settle nothing (R283): the module is INCOMPAT. -/
theorem takeCaps_unsettled {m : Nat} {caps : List Nat} {s : State} (hm : m < 8) (h : settle s caps = none) :
    ampMod (takeCaps m caps s) m = (ampMod s m).found caps [] ∧ getF (takeCaps m caps s) (AMP_MOD_STAT_STATE m) = 4 := by
  unfold takeCaps
  simp only [h]
  refine ⟨?_, getF_setMod_self _ hm (by decide)⟩
  rw [ampMod_setMod, ampMod_updMod, if_pos rfl, ampMod_updMod, if_pos rfl]
  rfl

/-! ### The management slot (R280, R284) -/

theorem giveUp_kept {m : Nat} {s : State} (h : getF s (AMP_MOD_STAT_STATE m) = 1 → (ampMod s m).tries < 4) : giveUp m s = s :=
  if_neg fun ⟨h1, h4⟩ => absurd (h h1) (by omega)

/-- With no module at four CONFIGs, none is given up. -/
theorem giveUps_kept (l : List Nat) {s : State} (h : ∀ k ∈ l, getF s (AMP_MOD_STAT_STATE k) = 1 → (ampMod s k).tries < 4) :
    l.foldl (fun s m => giveUp m s) s = s := by
  induction l with
  | nil => rfl
  | cons k l ih =>
    rw [List.foldl_cons, giveUp_kept (h k List.mem_cons_self), ih fun j hj => h j (List.mem_cons_of_mem _ hj)]

/-- A module that is given up is ABSENT; the others are as before. -/
theorem giveUp_other {m k : Nat} (s : State) (hm : m < 8) (h : k ≠ m) : getF (giveUp k s) (AMP_MOD_STAT_STATE m) = getF s (AMP_MOD_STAT_STATE m)
    ∧ ampMod (giveUp k s) m = ampMod s m := by
  unfold giveUp
  split
  · refine ⟨?_, by rw [ampMod_setMod, ampMod_updMod, if_neg (Ne.symm h)]⟩
    exact getF_setMod_ne _ (modState_below hm rfl (Nat.succ_pos 31)) (by simp only [Fld.key, AMP_MOD_STAT_STATE]; omega)
  · exact ⟨rfl, rfl⟩

theorem giveUps_others {m : Nat} (l : List Nat) (s : State) (hm : m < 8) (h : m ∉ l) :
    getF (l.foldl (fun s m => giveUp m s) s) (AMP_MOD_STAT_STATE m) = getF s (AMP_MOD_STAT_STATE m)
      ∧ ampMod (l.foldl (fun s m => giveUp m s) s) m = ampMod s m := by
  induction l generalizing s with
  | nil => exact ⟨rfl, rfl⟩
  | cons k l ih =>
    obtain ⟨h1, h2⟩ := ih (giveUp k s) fun hm => h (List.mem_cons_of_mem _ hm)
    obtain ⟨h3, h4⟩ := giveUp_other s hm (fun e => h (e ▸ List.mem_cons_self))
    exact ⟨h1.trans h3, h2.trans h4⟩

theorem range_eight {m : Nat} (hm : m < 8) : List.range 8 = List.range m ++ m :: (List.range (7 - m)).map (m + 1 + ·) := by
  rw [show 8 = m + (8 - m) by omega, List.range_add, show 8 - m = (7 - m) + 1 by omega, List.range_succ_eq_map, List.map_cons, List.map_map]
  simp [Function.comp_def, Nat.add_assoc, Nat.add_comm 1]

/-- A FOUND module with four CONFIGs unanswered is ABSENT after the round. -/
theorem giveUps_absent {m : Nat} (s : State) (hm : m < 8) (h1 : getF s (AMP_MOD_STAT_STATE m) = 1) (h4 : 4 ≤ (ampMod s m).tries) :
    getF ((List.range 8).foldl (fun s m => giveUp m s) s) (AMP_MOD_STAT_STATE m) = 0 := by
  rw [range_eight hm, List.foldl_append, List.foldl_cons]
  obtain ⟨hs, ha⟩ := giveUps_others (List.range m) s hm (by simp)
  rw [(giveUps_others _ _ hm (by simp; omega)).1, giveUp, if_pos ⟨hs.trans h1, by rw [ha]; exact h4⟩]
  exact getF_setMod_self _ hm (by decide)

/-- The module that a slot serves: the lowest FOUND one, or whose DISCOVER is due. -/
def slotModule (s : State) : Option Nat :=
  (List.range 8).find? (fun m => getF s (AMP_MOD_STAT_STATE m) == 1 || (ampMod s m).due)

/-- The frame that a slot sends, with what it notes of its module (R280, R284). -/
def slotSent (s : State) : State :=
  match slotModule s with
  | none => s
  | some m =>
    if getF s (AMP_MOD_STAT_STATE m) = 1 then
      emit .stage (mklFrame m 5 s.amp.seq (ampMod s m).cfg) (updMod m (fun t => { t with tries := t.tries + 1 }) s)
    else
      emit .stage (mklFrame m 3 s.amp.seq []) (updMod m (fun t => { t with due := false, asked := true }) s)

/-- The modules that did not answer, given up. -/
def roundEnded (s : State) : State := (List.range 8).foldl (fun s m => giveUp m s) s

theorem exec_managementSlot {s : State} (hb : busDrives s = true) (hd : flag s AMP_MKL_CFG_DISC_EN = true) :
    exec .managementSlot s = .next (slotSent (roundEnded s)) := by
  show execManagementSlot s = _
  obtain ⟨u, hu⟩ : ∃ u, (List.range 8).foldl (fun s m => giveUp m s) s = u := ⟨_, rfl⟩
  rw [roundEnded, hu]
  unfold execManagementSlot slotSent slotModule
  simp only [hb, hd, Bool.and_self, if_true, hu]
  generalize (List.range 8).find? _ = o
  cases o with
  | none => rfl
  | some m => dsimp only; split <;> rfl

theorem slotModule_lowest {m : Nat} {s : State} (hm : m < 8) (h : getF s (AMP_MOD_STAT_STATE m) = 1 ∨ (ampMod s m).due = true)
    (hk : ∀ k, k < m → getF s (AMP_MOD_STAT_STATE k) ≠ 1 ∧ (ampMod s k).due = false) : slotModule s = some m := by
  have hnone : (List.range m).find? (fun m => getF s (AMP_MOD_STAT_STATE m) == 1 || (ampMod s m).due) = none := by
    rw [List.find?_eq_none]
    intro k hkm
    obtain ⟨h1, h2⟩ := hk k (List.mem_range.1 hkm)
    simp [h1, h2]
  rw [slotModule, range_eight hm, List.find?_append, hnone, Option.none_or, List.find?_cons_of_pos]
  obtain h | h := h <;> simp [h]

/-- A slot writes no register. -/
theorem getF_slotSent (s : State) (f : Fld) : getF (slotSent s) f = getF s f := by
  unfold slotSent
  cases slotModule s with
  | none => rfl
  | some m => dsimp only; split <;> rfl

/-- Settles O45: a frame is read back by the bytes of its words (`mklParse_mklFrame`); what a module's frame does depends on its type
(`takeCaps_settled`, `takeCaps_unsettled`, `mklTake_config`, `mklTake_status`); a management slot gives up the modules that did
not answer and serves the lowest that waits (`giveUps_kept`, `giveUps_absent`, `slotModule_lowest`). -/
theorem stageBus : Obligations.StageBus := by
  refine ⟨fun a typ sq ws ha ht hl hw => ⟨mklParse_mklFrame sq ha ht hl hw, pairWords_paired ws⟩, fun f s ha he hp => ?bad,
    fun m sq vs s hm hl hv ha he hd hst hk => ?caps, fun m sq s hm ha he hd ho hst hl hc => ?config,
    fun m sq w v s hm hw hv ha he hd ho hst => ?status, fun m s hm ho he hd hst => ?slot, fun m s hm ha hd hst => ?due,
    fun m s hm hb hd ht hbelow => ⟨fun hst => ?sendConfig, fun hst hdue => ?sendDiscover⟩, fun m s hm hb hd hst h4 => ?absent⟩
  case bad =>
    refine ⟨bump AMP_MKL_ERR_FRAME_ERR 1 s, ?_, OnlyFields.putF s AMP_MKL_ERR_FRAME_ERR _⟩
    show execMklFrameRx f s = _
    rw [execMklFrameRx, ha, he, hp]
    rfl
  case caps =>
    refine ⟨_, exec_mklFrameRx_frame sq hm (by decide) (by omega) hv ha he, ?_⟩
    rw [mklTake_caps hd hl hst hk]
    cases hs : settle s vs with
    | none =>
      obtain ⟨hmod, hstate⟩ := takeCaps_unsettled hm hs
      exact ⟨by rw [hmod]; rfl, by rw [hmod]; rfl, fun _ h => (by cases h), fun _ => hstate⟩
    | some cfg =>
      obtain ⟨hmod, hstate, hmode⟩ := takeCaps_settled hm hs
      refine ⟨by rw [hmod]; rfl, by rw [hmod]; rfl, fun c hc => ?_, fun h => (by cases h)⟩
      obtain rfl := Option.some.inj hc
      simp only [modeFields, List.mem_cons, List.not_mem_nil, or_false, forall_eq_or_imp, forall_eq] at hmode
      obtain ⟨h3, h16, hdt⟩ := hmode
      exact ⟨by rw [hmod]; rfl, hstate, h3.trans (bits_mod ..), h16.trans (bits_mod ..), hdt.trans (bits_mod ..)⟩
  case config =>
    refine ⟨_, exec_mklFrameRx_frame sq hm (by decide) (by omega) hc ha he, ?_⟩
    rw [mklTake_config hd ho hst]
    exact ⟨getF_setMod_self _ hm (by decide), by rw [ampMod_setMod, ampMod_updMod, if_pos rfl]⟩
  case status =>
    refine ⟨_, exec_mklFrameRx_frame sq hm (by decide) (show 2 ≤ 8 by decide) (by simpa using ⟨hw, hv⟩) ha he, ?_⟩
    rw [mklTake_status hd rfl, takeStatus, hst, ho]
    have hb : (!bitOf ([w, v].getD 0 0) 0) = true ↔ w % 2 = 0 := by
      show (!(w / 2 ^ 0 % 2 == 1)) = true ↔ _
      rw [Nat.pow_zero, Nat.div_one, Bool.not_eq_true', beq_eq_false_iff_ne]
      omega
    by_cases h : w % 2 = 0
    · rw [if_pos ⟨rfl, hb.2 h, rfl⟩, if_pos h, ampMod_setMod, ampMod_updMod, if_pos rfl]
      exact ⟨rfl, rfl, getF_setMod_self _ hm (by decide)⟩
    · rw [if_neg fun ⟨_, hn, _⟩ => h (hb.1 hn), if_neg h, ampMod_updMod, if_pos rfl]
      exact ⟨rfl, rfl, hst⟩
  case slot =>
    subst hm
    have hx : exec .statusSlotEnd s = .next (if 3 ≤ (ampMod s (s.amp.seq % 8)).miss + 1 then
        setMod (s.amp.seq % 8) 3 (updMod (s.amp.seq % 8) (fun t => { t with miss := (ampMod s (s.amp.seq % 8)).miss + 1 }) s)
        else updMod (s.amp.seq % 8) (fun t => { t with miss := (ampMod s (s.amp.seq % 8)).miss + 1 }) s) := by
      show execStatusSlotEnd s = _
      unfold execStatusSlotEnd
      simp only [ho, he, hd, hst]
      rfl
    refine ⟨_, hx, ?_⟩
    by_cases h : 2 ≤ (ampMod s (s.amp.seq % 8)).miss
    · rw [if_pos (by omega), if_pos h, ampMod_setMod, ampMod_updMod, if_pos rfl]
      exact ⟨rfl, getF_setMod_self _ (Nat.mod_lt _ (by decide)) (by decide)⟩
    · rw [if_neg (by omega), if_neg h, ampMod_updMod, if_pos rfl]
      exact ⟨rfl, hst⟩
  case due =>
    show execDiscoverTimer m s = _
    rw [execDiscoverTimer, ha, hd, decide_eq_true hm, if_pos]
    obtain h | h := hst <;> rw [h] <;> rfl
  case sendConfig =>
    rw [exec_managementSlot hb hd, roundEnded, giveUps_kept _ fun k hk => ht k (List.mem_range.1 hk), slotSent,
      slotModule_lowest hm (.inl hst) hbelow]
    dsimp only
    rw [if_pos hst]
  case sendDiscover =>
    rw [exec_managementSlot hb hd, roundEnded, giveUps_kept _ fun k hk => ht k (List.mem_range.1 hk), slotSent,
      slotModule_lowest hm (.inr hdue) hbelow]
    dsimp only
    rw [if_neg hst]
  case absent =>
    refine ⟨_, exec_managementSlot hb hd, ?_⟩
    rw [getF_slotSent]
    exact giveUps_absent s hm hst h4

end Sys2Proof.Machine

namespace Sys2Proof.Machine

/-! ## Requests of masters (R316 to R322)

### Nothing waits -/

/-- Where no command is posted, none is served. -/
theorem servePosted_of_idle (k : Nat) {s : State} (h : ∀ n, n < 4 → flag s (DB_STAT_CMD_BUSY n) = false) : servePosted k s = s := by
  cases k with
  | zero => rfl
  | succ k =>
    have hf : ((List.range 4).map (fun i => (s.fw.turn + 1 + i) % 4)).find? (fun n => flag s (DB_STAT_CMD_BUSY n)) = none := by
      rw [List.find?_eq_none]
      intro n hn
      rw [h n ((mem_turns s.fw.turn n).1 hn)]
      exact Bool.false_ne_true
    unfold servePosted
    simp only [hf, ite_self]

/-- Nothing waits, so nothing follows. -/
theorem settleAll_of_quiescent {s : State} (h : Quiescent s) : settleAll s = s := by
  rw [settleAll, releaseAll_of_none_held h.1, servePosted_of_idle 4 h.2]

/-- A request's effect leaves nothing waiting where nothing waited: its own registers are not the doorbells'. -/
theorem Quiescent.of_regs {s t : State} (h : Quiescent s) (hh : t.vsr.held = [])
    (hr : ∀ n, n < 4 → getF t (DB_STAT_CMD_BUSY n) = getF s (DB_STAT_CMD_BUSY n)) :
    Quiescent t := ⟨hh, fun n hn => by rw [flag, hr n hn]; exact h.2 n hn⟩

/-- A request that its master can issue and that nothing holds back is carried out, and nothing follows. -/
theorem exec_voussoirRequest_now {m id a sz bt : Nat} {w f : Bool} {d : List Nat} {s t : State} (hq : Quiescent s) (hi : canIssue s m = true)
    (hh : heldBack s [] ⟨m, id, w, a, sz, bt, d.map lo32, f⟩ = false) (hp : perform ⟨m, id, w, a, sz, bt, d.map lo32, f⟩ s = t) (ht : Quiescent t) :
    exec (.voussoirRequest m id w a sz bt d f) s = .next t := by
  show Host.Outcome.next (settleAll (request _ s)) = _
  rw [request_now hi (by rw [hq.1]; exact hh), hp, releaseAll_of_none_held ht.1, settleAll_of_quiescent ht]

/-- A master that can issue is not in reset. -/
theorem not_inReset_of_canIssue {m : Nat} {s : State} (h : canIssue s m = true) : s.vsr.inReset.contains m = false := by
  unfold canIssue at h
  simp only [Bool.and_eq_true, Bool.not_eq_true'] at h
  exact h.1.1.1.2

theorem respond_now {m : Nat} {s : State} (h : s.vsr.inReset.contains m = false) (id k : Nat) (d : List Nat) :
    respond m id k d s = emit .response (m :: id :: k :: d) s := by
  rw [respond, h]
  rfl

/-- The state once a target has been granted to a master (R320). -/
def granted (t : BusTgt) (m : Nat) (s : State) : State := { s with vsr := { s.vsr with lastGrant := s.vsr.lastGrant.put (tgtKind t) m } }

/-! ### Requests refused (R321) -/

theorem perform_refused {r : VsrReq} {s : State} {k : Nat}
    (h : busTarget s r.addr = .default ∧ k = 1 ∨ busTarget s r.addr ≠ .default ∧ reaches s r.master r.fetch (busTarget s r.addr) = false ∧ k = 2) :
    perform r s = refuseReq k r (granted (busTarget s r.addr) r.master s) := by
  unfold perform
  obtain ⟨h, rfl⟩ | ⟨h, hn, rfl⟩ := h
  · simp only [h, if_true]
    rfl
  · have hg : reaches (granted (busTarget s r.addr) r.master s) r.master r.fetch (busTarget s r.addr) = false := hn
    simp only [if_neg h]
    rw [if_pos (by rw [Bool.not_eq_true']; exact hg)]
    rfl

theorem vsrLog_room {k : Nat} (hk : k ≠ 5) (w : Bool) (m id a : Nat) {s : State} (h : s.vsr.log.length < 16) :
    vsrLog k w m id a s = { s with vsr := { s.vsr with log := s.vsr.log ++ [⟨k, w, m, id, a⟩] } } := by
  simp only [vsrLog, if_neg hk, if_pos h]

theorem vsrLog_full {k : Nat} (hk : k ≠ 5) (w : Bool) (m id a : Nat) {s : State} (h : 16 ≤ s.vsr.log.length) :
    vsrLog k w m id a s = putF VSR_STAT_OVERFLOW 1 s := by
  simp only [vsrLog, if_neg hk, if_neg (Nat.not_lt.2 h)]

/-! ### Working RAM (R318) -/

theorem putRam_rest (off : Nat) (bs : List Nat) (s : State) :
    putRam off bs s = { s with ctl := { s.ctl with wram := (putRam off bs s).ctl.wram } } := by
  induction bs generalizing off s with
  | nil => rfl
  | cons b bs ih => rw [putRam, ih]

theorem ramByte_putRam_outside (off : Nat) (bs : List Nat) (s : State) {o : Nat} (h : o < off ∨ off + bs.length ≤ o) :
    ramByte (putRam off bs s) o = ramByte s o := by
  induction bs generalizing off s with
  | nil => rfl
  | cons b bs ih =>
    rw [List.length_cons] at h
    rw [putRam, ih (off + 1) _ (by omega)]
    exact AMap.get_set_ne _ _ _ _ (by omega)

theorem ramByte_putRam_inside (off : Nat) (bs : List Nat) (s : State) {i : Nat} (h : i < bs.length) (hb : ∀ b ∈ bs, b < 256) :
    ramByte (putRam off bs s) (off + i) = bs.getD i 0 := by
  induction bs generalizing off s i with
  | nil => cases h
  | cons b bs ih =>
    rw [putRam]
    cases i with
    | zero =>
      rw [ramByte_putRam_outside _ _ _ (.inl (by omega)), ramByte, Nat.add_zero]
      refine (AMap.get_set_self ..).trans ?_
      exact Nat.mod_eq_of_lt (hb b List.mem_cons_self)
    | succ i =>
      have := ih (off + 1) { s with ctl := { s.ctl with wram := s.ctl.wram.set off (b % 256) 0 } } (i := i)
        (by simpa using h) fun x hx => hb x (List.mem_cons_of_mem _ hx)
      rwa [Nat.add_assoc, Nat.add_comm 1] at this

theorem bytesOf_lt (v n : Nat) : ∀ b ∈ bytesOf v n, b < 256 := by
  induction n generalizing v with
  | zero => exact fun _ h => absurd h List.not_mem_nil
  | succ n ih =>
    rintro b hb
    obtain rfl | hb := List.mem_cons.1 hb
    · exact Nat.mod_lt _ (by decide)
    · exact ih _ b hb

theorem wordsToBytes_lt (ws : List Nat) : ∀ b ∈ wordsToBytes ws, b < 256 := by
  intro b hb
  obtain ⟨w, _, hb⟩ := List.mem_flatMap.1 hb
  exact bytesOf_lt w 4 b hb

/-! ### Requests carried out (R317, R318) -/

theorem perform_ram_write {r : VsrReq} {s : State} {off : Nat} (ht : busTarget s r.addr = .ram off)
    (hr : reaches s r.master r.fetch (.ram off) = true)
    (hw : r.write = true) : perform r s = respond r.master r.id 0 []
      (putRam off ((wordsToBytes r.data).take r.bytes) (granted (.ram off) r.master s)) := by
  have hg : reaches (granted (.ram off) r.master s) r.master r.fetch (.ram off) = true := hr
  unfold perform
  simp only [ht]
  rw [if_neg (by simp), if_neg (by rw [Bool.not_eq_true', Bool.not_eq_false]; exact hg)]
  simp only [hw, if_true]
  rfl

theorem perform_ram_read {r : VsrReq} {s : State} {off : Nat} (ht : busTarget s r.addr = .ram off)
    (hr : reaches s r.master r.fetch (.ram off) = true)
    (hw : r.write = false) : perform r s = respond r.master r.id 0 (bytesToWords ((List.range r.bytes).map (fun k => ramByte s (off + k))))
      (granted (.ram off) r.master s) := by
  have hg : reaches (granted (.ram off) r.master s) r.master r.fetch (.ram off) = true := hr
  unfold perform
  simp only [ht]
  rw [if_neg (by simp), if_neg (by rw [Bool.not_eq_true', Bool.not_eq_false]; exact hg)]
  simp only [hw, if_false, Bool.false_eq_true]
  rfl

theorem perform_rom {r : VsrReq} {s : State} {off : Nat} (ht : busTarget s r.addr = .rom off) (hr : reaches s r.master r.fetch (.rom off) = true) :
    perform r s = respond r.master r.id 0 (if r.write then [] else
      (List.range ((r.bytes + 3) / 4)).map (fun k => (Config.bootRom (off / 4 + k)).toNat)) (granted (.rom off) r.master s) := by
  have hg : reaches (granted (.rom off) r.master s) r.master r.fetch (.rom off) = true := hr
  unfold perform
  simp only [ht]
  rw [if_neg (by simp), if_neg (by rw [Bool.not_eq_true', Bool.not_eq_false]; exact hg)]
  rfl

theorem perform_ash {r : VsrReq} {s : State} {x : Nat} (ht : busTarget s r.addr = .ash x) (hr : reaches s r.master r.fetch (.ash x) = true)
    {n : Nat} (hb : 0 < r.bytes) (hn : n = (r.addr + r.bytes - 1) / 32 - r.addr / 32 + 1) :
    perform r s = { s with vsr := { s.vsr with
      outstanding := s.vsr.outstanding ++ [⟨r.master, r.id, r.write, r.addr, n, if r.write then n else 0⟩]
      lastGrant := s.vsr.lastGrant.put 4 r.master } } := by
  have hg : reaches (granted (.ash x) r.master s) r.master r.fetch (.ash x) = true := hr
  unfold perform
  simp only [ht]
  rw [if_neg (by simp), if_neg (by rw [Bool.not_eq_true', Bool.not_eq_false]; exact hg)]
  simp only [if_neg (Nat.pos_iff_ne_zero.1 hb), ← hn]
  rfl

/-- The Birrek reads a register that the map has. -/
theorem perform_reg_read {id a : Nat} {l : List Nat} {f : Bool} {s : State} (ht : busTarget s a = .reg a) (ha : a % 4 = 0) (he : regExists a = true) :
    perform ⟨1, id, false, a, 4, 1, l, f⟩ s =
      respond 1 id 0 [(regRead a (granted (.reg a) 1 s)).1] (regRead a (granted (.reg a) 1 s)).2 := by
  unfold perform
  simp only [ht]
  rw [if_neg (by simp), if_neg (by simp [reaches]), if_neg (by simp [ha]), if_neg (by simp [he])]
  rfl

/-- A request at a tile's window: its words one after another. -/
def atTile (r : VsrReq) (n off : Nat) (u : State) : State :=
  if r.write then
    let x := tileWrites n off (r.data.take ((r.bytes + 3) / 4)) u
    if x.1 then refuseReq 3 r x.2 else respond r.master r.id 0 (if r.write then [] else []) x.2
  else
    let x := tileReads n off ((r.bytes + 3) / 4) u
    if x.2.1 then refuseReq 3 r x.2.2 else respond r.master r.id 0 (if r.write then [] else x.1) x.2.2

theorem perform_tile {r : VsrReq} {s : State} {n off : Nat} (ht : busTarget s r.addr = .tile n off)
    (hr : reaches s r.master r.fetch (.tile n off) = true) : perform r s = atTile r n off (granted (.tile n off) r.master s) := by
  have hg : reaches (granted (.tile n off) r.master s) r.master r.fetch (.tile n off) = true := hr
  unfold perform
  simp only [ht]
  rw [if_neg (by simp), if_neg (by rw [Bool.not_eq_true', Bool.not_eq_false]; exact hg)]
  rfl

/-- One word written into a tile's window. -/
theorem atTile_write {id a v n off : Nat} {f : Bool} {u : State} (h : (tileWinWrite n off (lo32 v) u).1 ≠ .error) :
    atTile ⟨1, id, true, a, 4, 1, [lo32 v], f⟩ n off u = respond 1 id 0 [] (tileWinWrite n off (lo32 v) u).2 := by
  have hv : lo32 (lo32 v) = lo32 v := Nat.mod_mod _ _
  have hx : tileWrites n off [lo32 v] u = (false, (tileWinWrite n off (lo32 v) u).2) := by
    simp only [tileWrites, hv, Bool.false_or]
    exact Prod.ext (beq_eq_false_iff_ne.2 h) rfl
  rw [atTile, if_pos rfl]
  simp only [VsrReq.bytes, List.take, hx]
  rfl

/-- One word read from a tile's window. -/
theorem atTile_read {id a n off x : Nat} {l : List Nat} {f : Bool} {u : State} (h : (tileWinRead n off u).1 = .word x) :
    atTile ⟨1, id, false, a, 4, 1, l, f⟩ n off u = respond 1 id 0 [x] (tileWinRead n off u).2 := by
  have hx : tileReads n off 1 u = ([x], false, (tileWinRead n off u).2) := by simp only [tileReads, h]
  rw [atTile, if_neg Bool.false_ne_true]
  simp only [VsrReq.bytes, hx]
  rfl

/-! ### Master resets (R322) -/

theorem masterReset_inReset (m : Nat) (s : State) :
    m ∈ (masterReset m s).vsr.inReset ↔ (∃ x ∈ s.vsr.outstanding, x.master = m) ∨ m ∈ s.vsr.inReset := by
  unfold masterReset
  by_cases h : s.vsr.outstanding.any (fun t => t.master == m) = true
  · simp only [h, if_true]
    exact iff_of_true List.mem_cons_self (.inl (by simpa using h))
  · simp only [h]
    refine (or_iff_right fun ⟨x, hx, hm⟩ => h ?_).symm
    exact List.any_eq_true.2 ⟨x, hx, by simpa using hm⟩

theorem masterReset_kept (m : Nat) (s : State) : (masterReset m s).vsr.held = s.vsr.held.filter (fun r => r.master != m)
    ∧ (masterReset m s).vsr.outstanding = s.vsr.outstanding := by
  unfold masterReset
  dsimp only
  split <;> exact ⟨rfl, rfl⟩

/-- A CUT record counts, fills the log as far as it has room, and changes nothing else. -/
theorem vsrLog_cut (w : Bool) (m id a : Nat) (s : State) : vsrLog 5 w m id a s = { s with
      regs := (vsrLog 5 w m id a s).regs
      vsr := { s.vsr with log := (vsrLog 5 w m id a s).vsr.log } }
    ∧ (∀ f, f.key ≠ VSR_STAT_CUTS.key → f.key ≠ VSR_STAT_OVERFLOW.key → getF (vsrLog 5 w m id a s) f = getF s f)
    ∧ (s.vsr.log.length < 16 → (vsrLog 5 w m id a s).vsr.log = s.vsr.log ++ [⟨5, w, m, id, a⟩]) := by
  unfold vsrLog
  simp only [if_true]
  by_cases h : s.vsr.log.length < 16
  · rw [if_pos h]
    exact ⟨rfl, fun f hc _ => getF_bump_ne 1 s hc, fun _ => rfl⟩
  · rw [if_neg h]
    exact ⟨rfl, fun f hc ho => (getF_putF_ne _ _ ho).trans (getF_bump_ne 1 s hc), fun hl => absurd hl h⟩

/-- The CUT records of transactions (R322). -/
def cutLog (m : Nat) (l : List Txn) (s : State) : State := l.foldl (fun s t => vsrLog 5 t.write m t.id t.addr s) s

/-- CUT records fill the log as far as it has room, count, and change nothing else. -/
theorem cutLog_effect (m : Nat) (l : List Txn) (s : State) : cutLog m l s = { s with
      regs := (cutLog m l s).regs
      vsr := { s.vsr with log := (cutLog m l s).vsr.log } }
    ∧ (∀ f, f.key ≠ VSR_STAT_CUTS.key → f.key ≠ VSR_STAT_OVERFLOW.key → getF (cutLog m l s) f = getF s f)
    ∧ (s.vsr.log.length + l.length ≤ 16 → (cutLog m l s).vsr.log = s.vsr.log ++ l.map (fun x => ⟨5, x.write, m, x.id, x.addr⟩)) := by
  induction l generalizing s with
  | nil => exact ⟨rfl, fun _ _ _ => rfl, fun _ => (List.append_nil _).symm⟩
  | cons x l ih =>
    obtain ⟨hrest, hregs, hlog⟩ := ih (vsrLog 5 x.write m x.id x.addr s)
    have hs : cutLog m (x :: l) s = cutLog m l (vsrLog 5 x.write m x.id x.addr s) := rfl
    obtain ⟨crest, cregs, clog⟩ := vsrLog_cut x.write m x.id x.addr s
    rw [hs]
    refine ⟨?_, fun f hc ho => (hregs f hc ho).trans (cregs f hc ho), fun hl => ?_⟩
    · rw [hrest, crest]
    · rw [List.length_cons] at hl
      have hc := clog (by omega)
      rw [hlog (by rw [hc, List.length_append, List.length_singleton]; omega), hc, List.map_cons, List.append_assoc, List.singleton_append]

/-- A beat marked as cut, where its master is reset. -/
def markCut (m : Nat) (b : Beat) : Beat := if b.master = m then { b with cut := true } else b

theorem cutMaster_eq {m : Nat} {s : State} (h : m ∈ s.vsr.inReset) {u : State}
    (hu : u = cutLog m (s.vsr.outstanding.filter (fun t => t.master == m)) s) :
    cutMaster m s = { u with
      vsr := { u.vsr with
        outstanding := u.vsr.outstanding.filter (fun t => t.master != m)
        inReset := u.vsr.inReset.filter (· != m) }
      ash := { u.ash with
        queue := u.ash.queue.map (fun p => (p.1, p.2.map (markCut m)))
        merge := u.ash.merge.map (fun p => (p.1, { p.2 with beat := markCut m p.2.beat })) } } := by
  subst hu
  unfold cutMaster
  rw [if_neg (by simpa using h)]
  rfl

theorem cutMaster_of_notMem {m : Nat} {s : State} (h : m ∉ s.vsr.inReset) : cutMaster m s = s := by
  unfold cutMaster
  rw [if_pos (by simpa using h)]

/-- A keyed list whose values are mapped gives the mapped value. -/
theorem get_mapped (g : List Beat → List Beat) (hg : g [] = []) (m : AMap (List Beat)) (k : Nat) :
    Sys2Proof.AMap.get (m.map fun p => (p.1, g p.2)) k [] = g (m.get k []) := by
  induction m with
  | nil => exact hg.symm
  | cons p m ih =>
    simp only [List.map_cons, Sys2Proof.AMap.get]
    split <;> simp_all

/-- A request answered where it was carried out. -/
theorem exec_voussoirRequest_answered {m id a sz bt k : Nat} {w f : Bool} {d ws : List Nat} {s u : State} (hq : Quiescent s)
    (hi : canIssue s m = true) (hh : heldBack s [] ⟨m, id, w, a, sz, bt, d.map lo32, f⟩ = false)
    (hp : perform ⟨m, id, w, a, sz, bt, d.map lo32, f⟩ s = respond m id k ws u)
    (hu : u.vsr.inReset.contains m = false) (hqu : Quiescent u) :
    exec (.voussoirRequest m id w a sz bt d f) s = .next (emit .response (m :: id :: k :: ws) u) :=
  exec_voussoirRequest_now hq hi hh (hp.trans (respond_now hu id k ws)) hqu

/-- A request held behind nothing but what keeps it: it stays. -/
theorem releaseAll_of_one_held {r : VsrReq} {s : State} (h : heldBack s [] r = true) :
    releaseAll { s with vsr := { s.vsr with held := [r] } } = { s with vsr := { s.vsr with held := [r] } } := by
  have hg : grantable { s with vsr := { s.vsr with held := [r] } } = [] := by
    show ([(0, r)].filter fun p => !heldBack { s with vsr := { s.vsr with held := [r] } } ([r].take p.1) p.2) = []
    have : heldBack { s with vsr := { s.vsr with held := [r] } } [] r = true := h
    rw [List.filter_cons_of_neg (by simp [this])]
    rfl
  show releaseHeld 2 _ = _
  rw [releaseHeld, nextGrant, hg]

/-- Settles O51: a request that nothing holds back is carried out at its target and, where nothing else waits, nothing follows
(`exec_voussoirRequest_answered`, `settleAll_of_quiescent`); each target has its equation (`perform_refused` to `perform_tile`).
A cut leaves a record of each transaction (`cutLog_effect`) and marks the queued beats (`cutMaster_eq`). -/
theorem voussoirRequests : Obligations.VoussoirRequests := by
  refine ⟨fun m id w a sz bt d f s k hq hi hh hk => ?refused, fun m id a sz bt d f s off b hq hi hh ht hr hb => ?ramWrite,
    fun m id a sz bt d f s off hq hi hh ht hr => ?ramRead, fun m id w a sz bt d f s off hq hi hh ht hr => ?rom,
    fun m id w a sz bt d f s x n hq hi hh ht hr hb hn => ?ash, fun id a d f s hi hh ht ha he => ?reg, fun id w a v d f s n off hi hh ht => ?tile,
    fun m id w a sz bt d f s hq => ⟨fun hi => ?gated, fun hi hh => ?held⟩, fun m s hm => ?reset, fun m s l hq hm hl => ?cut,
    fun m s hq hm => ?notInReset⟩
  case refused =>
    have hr := not_inReset_of_canIssue hi
    have h5 : k ≠ 5 := by
      obtain ⟨_, rfl⟩ | ⟨_, _, rfl⟩ := hk <;> decide
    obtain ⟨u, hu⟩ : ∃ u, u = granted (busTarget s a) m s := ⟨_, rfl⟩
    have hp : perform ⟨m, id, w, a, sz, bt, d.map lo32, f⟩ s =
        respond m id k (if w then [] else List.replicate ((sz * bt + 3) / 4) 0) (vsrLog k w m id a u) :=
      (perform_refused (r := ⟨m, id, w, a, sz, bt, d.map lo32, f⟩) hk).trans (by rw [hu]; rfl)
    by_cases hl : s.vsr.log.length < 16
    · rw [vsrLog_room h5 w m id a (show u.vsr.log.length < 16 by rw [hu]; exact hl)] at hp
      refine ⟨_, exec_voussoirRequest_answered hq hi hh hp (by rw [hu]; exact hr) (by rw [hu]; exact hq), ?_, fun _ => ⟨?_, ?_⟩,
        fun h => absurd hl (Nat.not_lt.2 h), ?_⟩ <;> rw [hu] <;> rfl
    · rw [vsrLog_full h5 w m id a (show 16 ≤ u.vsr.log.length by rw [hu]; exact Nat.le_of_not_lt hl)] at hp
      have hqu : Quiescent (putF VSR_STAT_OVERFLOW 1 u) := by
        subst hu
        exact hq.of_regs hq.1 fun n hn => getF_putF_ne _ _ (by simp only [Fld.key, VSR_STAT_OVERFLOW, DB_STAT_CMD_BUSY]; omega)
      refine ⟨_, exec_voussoirRequest_answered hq hi hh hp (by rw [hu]; exact hr) hqu, ?_, fun h => absurd h hl, fun _ => ⟨?_, ?_⟩, ?_⟩
      · rw [hu]
        rfl
      · rw [hu]
        rfl
      · rw [hu]
        exact OnlyFields.putF s VSR_STAT_OVERFLOW 1
      · rw [hu]
        rfl
  case ramWrite =>
    subst hb
    have hx := exec_voussoirRequest_answered hq hi hh (perform_ram_write (r := ⟨m, id, true, a, sz, bt, d.map lo32, f⟩) ht hr rfl)
      (by rw [putRam_rest]; exact not_inReset_of_canIssue hi) (by rw [putRam_rest]; exact hq)
    refine ⟨_, hx, ?_, ?_, ?_, fun i hi => ?_, fun o ho => ?_⟩
    · rw [putRam_rest]
      rfl
    · rw [putRam_rest]
      rfl
    · rw [putRam_rest]
      rfl
    · exact ramByte_putRam_inside off _ _ hi fun b hb => wordsToBytes_lt _ b (List.mem_of_mem_take hb)
    · exact ramByte_putRam_outside off _ _ ho
  case ramRead =>
    exact ⟨_, exec_voussoirRequest_answered hq hi hh (perform_ram_read (r := ⟨m, id, false, a, sz, bt, d.map lo32, f⟩) ht hr rfl)
      (not_inReset_of_canIssue hi) hq, rfl, rfl, rfl, rfl⟩
  case rom =>
    exact ⟨_, exec_voussoirRequest_answered hq hi hh (perform_rom (r := ⟨m, id, w, a, sz, bt, d.map lo32, f⟩) ht hr)
      (not_inReset_of_canIssue hi) hq, rfl, rfl, rfl, rfl⟩
  case ash =>
    exact exec_voussoirRequest_now hq hi hh (perform_ash ht hr hb hn) hq
  case reg =>
    refine ⟨_, rfl, ?_⟩
    show Host.Outcome.next (settleAll (request _ s)) = _
    rw [request_now hi hh, perform_reg_read ht ha he]
    rfl
  case tile =>
    refine ⟨_, rfl, fun hw hd hx => ?_, fun x hw hd hx => ?_⟩
    · subst hw hd
      show Host.Outcome.next (settleAll (request _ s)) = _
      rw [List.map_singleton]
      have ho := atTile_write (id := id) (a := a) (f := f) hx
      rw [request_now hi hh, perform_tile ht rfl]
      exact congrArg (fun t => Host.Outcome.next (settleAll (releaseAll t))) ho
    · subst hw hd
      show Host.Outcome.next (settleAll (request _ s)) = _
      rw [List.map_singleton]
      have ho := atTile_read (id := id) (a := a) (l := [lo32 v]) (f := f) hx
      rw [request_now hi hh, perform_tile ht rfl]
      exact congrArg (fun t => Host.Outcome.next (settleAll (releaseAll t))) ho
  case gated =>
    show Host.Outcome.next (settleAll (request _ s)) = _
    rw [request, if_pos (by rw [Bool.not_eq_true']; exact hi), settleAll_of_quiescent hq]
  case held =>
    show Host.Outcome.next (settleAll (request _ s)) = _
    rw [request, if_neg (by rw [Bool.not_eq_true', Bool.not_eq_false]; exact hi), if_pos (by rw [hq.1]; exact hh), hq.1, List.nil_append, settleAll,
      releaseAll_of_one_held hh]
    exact congrArg _ (servePosted_of_idle 4 hq.2)
  case reset =>
    obtain ⟨h1, h2⟩ := masterReset_kept m s
    refine ⟨masterReset m s, ?_, h1, h2, masterReset_rest m s, masterReset_inReset m s⟩
    show Host.Outcome.next (if m ≤ 10 then masterReset m s else s) = _
    rw [if_pos hm]
  case cut =>
    obtain ⟨u, hu⟩ : ∃ u, u = cutLog m l s := ⟨_, rfl⟩
    obtain ⟨hrest, hregs, hlog⟩ := cutLog_effect m l s
    rw [← hu] at hrest hregs hlog
    obtain ⟨t, ht⟩ : ∃ t, t = cutMaster m s := ⟨_, rfl⟩
    have hc := ht.trans (cutMaster_eq hm (hu.trans (by rw [hl])))
    have hqt : Quiescent t := by
      refine hq.of_regs (by rw [hc, hrest]; exact hq.1) fun n hn => ?_
      rw [hc]
      exact hregs _ (by simp only [Fld.key, VSR_STAT_CUTS, DB_STAT_CMD_BUSY]; omega)
        (by simp only [Fld.key, VSR_STAT_OVERFLOW, DB_STAT_CMD_BUSY]; omega)
    have hqueue (k : Nat) : bankQueue t k = (bankQueue s k).map (markCut m) := by
      rw [bankQueue, hc, hrest]
      exact get_mapped (List.map (markCut m)) rfl s.ash.queue k
    refine ⟨t, ?_, ?_, ?_, ?_, ?_, fun hlen => ?_, fun k b hb hbm => ?_, fun k => ?_⟩
    · show Host.Outcome.next (settleAll (cutMaster m s)) = _
      rw [← ht, settleAll_of_quiescent hqt]
    · rw [hc, hrest]
    · rw [hc]
      simp
    · rw [hc, hrest]
    · rw [hc, hrest]
    · rw [hc]
      exact hlog hlen
    · rw [hqueue] at hb
      obtain ⟨x, _, rfl⟩ := List.mem_map.1 hb
      unfold markCut at hbm ⊢
      split
      · rfl
      · rename_i hx
        rw [if_neg hx] at hbm
        exact absurd hbm hx
    · rw [hqueue, List.length_map]
  case notInReset =>
    show Host.Outcome.next (settleAll (cutMaster m s)) = _
    rw [cutMaster_of_notMem hm, settleAll_of_quiescent hq]

end Sys2Proof.Machine

namespace Sys2Proof.Machine

/-! ## QSPI, the release key, the mute pair and the beat (R337 to R339, R355 to R358)

### QSPI headers (R337) -/

/-- The header of a QSPI transaction: opcode, address, word count and check byte. -/
def qspiHead (op a n : Nat) : List Nat := op :: bytesOf a 4 ++ bytesOf n 2 ++ [255 - op]

theorem length_qspiHead (op a n : Nat) : (qspiHead op a n).length = 8 := rfl

/-- What a header spells. -/
theorem qspiHead_reads (op : Nat) {a n : Nat} (b : List Nat) (ha : a < 2 ^ 32) (hn : n ≤ 256) :
    (qspiHead op a n ++ b).headD 0 = op ∧ (qspiHead op a n ++ b).getD 7 0 = 255 - op
      ∧ (qspiHead op a n ++ b).getD 5 0 + 256 * (qspiHead op a n ++ b).getD 6 0 = n
      ∧ ofBytes (((qspiHead op a n ++ b).drop 1).take 4) = a := by
  refine ⟨rfl, rfl, ?_, ofBytes_bytesOf_word ha⟩
  show n % 256 + 256 * (n / 256 % 256) = n
  omega

/-! ### QSPI writes (R337, R339) -/

/-- What the bytes after the header of a write lead to. -/
def qspiBody (p op a n : Nat) (b : List Nat) (s : State) : State :=
  if b.length < 4 * n + 4 then updQspi p (fun _ => ⟨false, false, false, true, false, false⟩) s
  else if 4 * n + 4 < b.length then updQspi p (fun _ => Qspi.init) s
  else if crc32c (qspiHead op a n ++ b.take (4 * n)) ≠ ofBytes (b.drop (4 * n)) then
    updQspi p (fun _ => ⟨false, false, true, false, false, false⟩) s
  else updQspi p (fun _ => ⟨true, false, false, false, false, !(qspiWrites p a (bytesToWords (b.take (4 * n))) s).1⟩)
    (qspiWrites p a (bytesToWords (b.take (4 * n))) s).2

theorem isWriteOp {op : Nat} (h : op = 0x02 ∨ op = 0x32) : (op == 0x02 || op == 0x32) = true := by
  obtain rfl | rfl := h <;> rfl

theorem isReadOp {op : Nat} (h : op = 0x0B ∨ op = 0x6B) : (op == 0x0B || op == 0x6B) = true := by
  obtain rfl | rfl := h <;> rfl

theorem exec_qspiWrite_head {p op a n : Nat} (b : List Nat) {s : State} (hp : qspiOn s p = true) (ho : op = 0x02 ∨ op = 0x32)
    (hb : (qspiOf s p).busy = false) (ha : a < 2 ^ 32) (h1 : 1 ≤ n) (hn : n ≤ 256) :
    exec (.qspiWrite p (qspiHead op a n ++ b)) s = .next (qspiBody p op a n b s) := by
  obtain ⟨hop, h7, hcount, haddr⟩ := qspiHead_reads op b ha hn
  have hlen : (qspiHead op a n ++ b).length = 8 + b.length := by rw [List.length_append, length_qspiHead]
  have htake : (qspiHead op a n ++ b).take (8 + 4 * n) = qspiHead op a n ++ b.take (4 * n) :=
    show (qspiHead op a n ++ b).take ((qspiHead op a n).length + 4 * n) = _ from List.take_length_add_append _
  have hdrop : (qspiHead op a n ++ b).drop (8 + 4 * n) = b.drop (4 * n) :=
    show (qspiHead op a n ++ b).drop ((qspiHead op a n).length + 4 * n) = _ from List.drop_length_add_append _
  have hdata : (qspiHead op a n ++ b).drop 8 = b :=
    show (qspiHead op a n ++ b).drop (qspiHead op a n).length = _ from List.drop_left
  show execQspiWrite p _ s = _
  unfold execQspiWrite qspiBody
  simp only [hop, h7, hcount, haddr, hp, isWriteOp ho, hb, hlen, htake, hdrop, hdata, Bool.not_true, Bool.or_self]
  rw [if_neg Bool.false_ne_true, if_neg Bool.false_ne_true, if_neg (by omega), if_neg (by omega)]
  by_cases hs : b.length < 4 * n + 4
  · rw [if_pos (by omega), if_pos hs]
  · rw [if_neg (by omega), if_neg hs]
    by_cases hl : 4 * n + 4 < b.length
    · rw [if_pos (by omega), if_pos hl]
    · rw [if_neg (by omega), if_neg hl]
      split <;> rfl

theorem exec_qspiWrite_off {p : Nat} {s : State} (h : qspiOn s p = false) (b : List Nat) : exec (.qspiWrite p b) s = .next s := by
  show execQspiWrite p b s = _
  unfold execQspiWrite
  simp only [h, Bool.not_false, Bool.true_or, if_true]

theorem exec_qspiWrite_busy {p : Nat} {b : List Nat} {s : State} (hp : qspiOn s p = true) (ho : b.headD 0 = 0x02 ∨ b.headD 0 = 0x32)
    (hb : (qspiOf s p).busy = true) : exec (.qspiWrite p b) s = .next (updQspi p (fun q => { q with refused := true }) s) := by
  show execQspiWrite p b s = _
  unfold execQspiWrite
  simp only [hp, isWriteOp ho, hb, Bool.not_true, Bool.or_self, Bool.false_eq_true, if_false, if_true]

theorem exec_qspiWrite_check {p : Nat} {b : List Nat} {s : State} (hp : qspiOn s p = true) (ho : b.headD 0 = 0x02 ∨ b.headD 0 = 0x32)
    (hb : (qspiOf s p).busy = false) (hl : 8 ≤ b.length) (h7 : b.getD 7 0 ≠ 255 - b.headD 0) :
    exec (.qspiWrite p b) s = .next (updQspi p (fun _ => ⟨false, false, true, false, false, false⟩) s) := by
  show execQspiWrite p b s = _
  unfold execQspiWrite
  simp only [hp, isWriteOp ho, hb, Bool.not_true, Bool.or_self, Bool.false_eq_true, if_false, if_neg (Nat.not_lt.2 hl), h7, ne_eq,
    not_false_eq_true, true_or, if_true]

/-! ### QSPI reads (R338) -/

/-- The bytes that answer a read, as the host clocks them out. -/
def qspiAnswer (p c : Nat) (bad : Bool) (bs : List Nat) (s : State) : State :=
  emit .response ((3 + p) :: 0 :: 0 :: bs.take c) (updQspi p (fun q => { q with targetErr := bad, cut := decide (c < bs.length) }) s)

theorem exec_qspiRead_head {p op a n : Nat} (c : Nat) {s : State} (hp : qspiOn s p = true) (ho : op = 0x0B ∨ op = 0x6B) (ha : a < 2 ^ 32) (h1 : 1 ≤ n)
    (hn : n ≤ 256) : (∀ ws, (qspiReads p a n s).1 = some ws → exec (.qspiRead p (qspiHead op a n) c) s = .next (qspiAnswer p c false
        (0x5A :: wordsToBytes ws ++ bytesOf (crc32c (qspiHead op a n ++ wordsToBytes ws)) 4) (qspiReads p a n s).2))
    ∧ ((qspiReads p a n s).1 = none → exec (.qspiRead p (qspiHead op a n) c) s = .next (qspiAnswer p c true [0xE5] (qspiReads p a n s).2)) := by
  obtain ⟨hop, h7, hcount, haddr⟩ := qspiHead_reads op [] ha hn
  rw [List.append_nil] at hop h7 hcount haddr
  have hx : exec (.qspiRead p (qspiHead op a n) c) s = (match (qspiReads p a n s).1 with
      | none => .next (qspiAnswer p c true [0xE5] (qspiReads p a n s).2)
      | some ws => .next (qspiAnswer p c false (0x5A :: wordsToBytes ws ++
          bytesOf (crc32c ((qspiHead op a n).take 8 ++ wordsToBytes ws)) 4) (qspiReads p a n s).2)) := by
    show execQspiRead p _ c s = _
    unfold execQspiRead
    simp only [hop, h7, hcount, haddr, hp, isReadOp ho, Bool.not_true, Bool.or_self]
    rw [if_neg Bool.false_ne_true, if_neg (by rw [length_qspiHead]; omega), if_neg (by omega)]
    cases (qspiReads p a n s).1 <;> rfl
  refine ⟨fun ws hw => ?_, fun hw => ?_⟩
  · rw [hx, hw]
    rfl
  · rw [hx, hw]

theorem exec_qspiRead_off {p : Nat} {s : State} (h : qspiOn s p = false) (b : List Nat) (c : Nat) : exec (.qspiRead p b c) s = .next s := by
  show execQspiRead p b c s = _
  unfold execQspiRead
  simp only [h, Bool.not_false, Bool.true_or, if_true]

/-! ### The release keys (R356, R357) -/

theorem exec_lifeReleaseArm {n : Nat} {s : State} (h : viewReach s n = true) (ho : flag s (HOST_PERM_REL_OK n) = true) :
    exec (.lifeReleaseArm n) s = .next (updSeat n (fun x => { x with relArmed := true }) s) := by
  show Host.Outcome.next (if viewReach s n then keyWrite n relKey1 s else s) = _
  rw [if_pos h, keyWrite, if_neg (by rw [ho]; exact Bool.false_ne_true), if_pos rfl]

theorem exec_lifeReleaseKey {n : Nat} {s : State} (h : viewReach s n = true) (ho : flag s (HOST_PERM_REL_OK n) = true) :
    exec (.lifeReleaseKey n) s = .next (if (seatOf s n).relArmed then selfDiag 9 (updSeat n (fun x => { x with relArmed := false }) s)
      else updSeat n (fun x => { x with relArmed := false }) s) := by
  show Host.Outcome.next (if viewReach s n then keyWrite n relKey2 s else s) = _
  rw [if_pos h, keyWrite, if_neg (by rw [ho]; exact Bool.false_ne_true), if_neg (by decide)]
  simp only [true_and]

theorem releaseKeys_refused {n : Nat} {s : State} (h : viewReach s n = false ∨ flag s (HOST_PERM_REL_OK n) = false) :
    exec (.lifeReleaseArm n) s = .next s ∧ exec (.lifeReleaseKey n) s = .next s := by
  have hk (v : Nat) : (if viewReach s n then keyWrite n v s else s) = s := by
    obtain h | h := h
    · rw [if_neg (by rw [h]; exact Bool.false_ne_true)]
    · have hk : keyWrite n v s = s := if_pos (by rw [h]; rfl)
      rw [hk, ite_self]
  exact ⟨congrArg _ (hk relKey1), congrArg _ (hk relKey2)⟩

/-- The cause of LIFE_RELEASE, latched with the course. -/
def releaseNoted (s : State) : State := putF PAIR_CAUSE_CI16 s.fab.ci (putF PAIR_CAUSE_CODE 9 s)

/-- A LIFE_RELEASE gives up the claim that is held, and is reported (R294, R357). -/
theorem selfDiag_release (s : State) : Told (if flag s PAIR_STAT_CLAIM then dropClaim (releaseNoted s) else releaseNoted s) (selfDiag 9 s) := by
  have h := watchLife_told (fun s => if flag s PAIR_STAT_CLAIM then dropClaim (releaseNoted s) else pairEvent (releaseNoted s)) s
  have he : selfDiag 9 s = watchLife (fun s => if flag s PAIR_STAT_CLAIM then dropClaim (releaseNoted s) else pairEvent (releaseNoted s)) s := by
    unfold selfDiag
    congr 1
    funext x
    simp only [if_true, beq_self_eq_true, Bool.or_true, Bool.and_true]
    rfl
  rw [he]
  refine Told.trans ?_ h
  split
  · exact .refl _
  · exact (Told.refl _).pairEvent

theorem relArmed_told {s t : State} (h : Told s t) (n : Nat) : (seatOf t n).relArmed = (seatOf s n).relArmed := by rw [h.seats n]

theorem relArmed_dropClaim (s : State) (n : Nat) : (seatOf (dropClaim s) n).relArmed = (seatOf s n).relArmed := by
  rw [dropClaim_eq]
  unfold setPairState
  split
  · rfl
  · exact relArmed_told (Told.refl _).pairEvent n

theorem relArmed_release (s : State) (n : Nat) : (seatOf (selfDiag 9 s) n).relArmed = (seatOf s n).relArmed := by
  rw [relArmed_told (selfDiag_release s)]
  split
  · rw [relArmed_dropClaim]
    rfl
  · rfl

theorem getF_release_code (s : State) : getF (selfDiag 9 s) PAIR_CAUSE_CODE = 9 := by
  have hn : getF (releaseNoted s) PAIR_CAUSE_CODE = 9 := (getF_putF_ne _ _ (by decide)).trans (getF_putF_self PAIR_CAUSE_CODE 9 s)
  rw [(selfDiag_release s).getF _ (by decide)]
  split
  · exact ((dropClaim_within _).getF (by decide) (by decide)).trans hn
  · exact hn

theorem getF_dropClaim_dark (s : State) : getF (dropClaim s) LIFE_STATUS_DARK = 1 := by
  rw [dropClaim_eq, (setPairState_within 9 _).getF (by decide) (by decide)]
  exact getF_putF_self LIFE_STATUS_DARK 1 _

/-- A LIFE_RELEASE of the claimant: the claim, its drivers and every output (R292, R294). -/
theorem selfDiag_release_claimant {s : State} (h : flag s PAIR_STAT_CLAIM = true) : getF (selfDiag 9 s) PAIR_STAT_CLAIM = 0
    ∧ (selfDiag 9 s).pair.drivers = false ∧ getF (selfDiag 9 s) LIFE_STATUS_DARK = 1 ∧ getF (selfDiag 9 s) PAIR_STAT_STATE = 9 := by
  have ht := selfDiag_release s
  rw [if_pos h] at ht
  refine ⟨(ht.getF _ (by decide)).trans (getF_dropClaim_claim _), ?_, (ht.getF _ (by decide)).trans (getF_dropClaim_dark _),
    (ht.getF _ (by decide)).trans (getF_setPairState (by decide) _)⟩
  rw [ht.rest, (dropClaim_within _).rest]
  rfl

/-! ### The mute pair of a seat (R358) -/

theorem exec_lifeMuteWrite {n : Nat} (v c : Nat) {s : State} (h : viewReach s n = true) (ho : flag s (HOST_PERM_MUTE_OK n) = true) :
    exec (.lifeMuteWrite n v c) s = .next (muteDone n (lo32 v) c
      { s with stage := (s.stage.put (LIFE_MUTE_MUTE n).addr (lo32 v)).erase (LIFE_MUTE_MUTE n).addr }) := by
  have hs : seatMute n false (lo32 v) s = { s with stage := s.stage.put (LIFE_MUTE_MUTE n).addr (lo32 v) } := by
    rw [seatMute, if_pos ho]
    exact stageWord_lo32 _ v s
  show Host.Outcome.next (if viewReach s n then seatMute n true c (seatMute n false (lo32 v) s) else s) = _
  rw [if_pos h, hs, seatMute,
    if_pos (show flag { s with stage := s.stage.put (LIFE_MUTE_MUTE n).addr (lo32 v) } (HOST_PERM_MUTE_OK n) = true from ho),
    muteWrite, if_pos rfl]
  dsimp only
  rw [AMap.get_put_self]

theorem lifeMuteWrite_refused {n : Nat} (v c : Nat) {s : State} (h : viewReach s n = false ∨ flag s (HOST_PERM_MUTE_OK n) = false) :
    exec (.lifeMuteWrite n v c) s = .next s := by
  show Host.Outcome.next (if viewReach s n then seatMute n true c (seatMute n false (lo32 v) s) else s) = _
  obtain h | h := h
  · rw [if_neg (by rw [h]; exact Bool.false_ne_true)]
  · have hs (b : Bool) (v : Nat) : seatMute n b v s = s := if_neg (by rw [h]; exact Bool.false_ne_true)
    rw [hs, hs, ite_self]

theorem lifeMute_key_ne {m n : Nat} (h : m ≠ n) : (LIFE_MUTE_MUTE m).key ≠ (LIFE_MUTE_MUTE n).key := by
  simp only [Fld.key, LIFE_MUTE_MUTE]
  omega

/-- A pair that does not match forces the mute, and sets the seat's MUTE_PW. -/
theorem muteDone_mismatch {n v c : Nat} (s : State) (h : lo32 c ≠ not32 v) : getF (muteDone n v c s) (LIFE_MUTE_MUTE n) = 1
    ∧ getF (muteDone n v c s) LIFE_STATUS_MUTE_PW = 1 ∧ seatOf (muteDone n v c s) n = { seatOf s n with mutePw := true }
    ∧ ∀ m, m ≠ n → getF (muteDone n v c s) (LIFE_MUTE_MUTE m) = getF s (LIFE_MUTE_MUTE m) := by
  have hk (m : Nat) : (LIFE_MUTE_MUTE m).key ≠ LIFE_STATUS_MUTE_PW.key := by
    simp only [Fld.key, LIFE_MUTE_MUTE, LIFE_STATUS_MUTE_PW]
    omega
  rw [muteDone, if_neg h]
  refine ⟨?_, getF_putF_self LIFE_STATUS_MUTE_PW 1 _, ?_, fun m hm => ?_⟩
  · rw [getF_putF_ne _ _ (hk n)]
    exact getF_putF_self (LIFE_MUTE_MUTE n) 1 _
  · exact (seatOf_updSeat n n (fun t => { t with mutePw := true }) s).trans (if_pos rfl)
  · rw [getF_putF_ne _ _ (hk m), getF_putF_ne _ _ (lifeMute_key_ne hm)]
    rfl

/-! ### Words of a port (R333, R335) -/

theorem boundSeat_lt {s : State} {i p n : Nat} (h : boundSeat s i p = some n) : n < 4 := by
  have := List.mem_of_find?_eq_some h
  simp only [List.mem_cons, List.not_mem_nil, or_false] at this
  omega

theorem qspiReadWord_mail {p n a : Nat} {s : State} (hb : boundSeat s 2 p = some n) (ha : a % 4 = 0) (hl : 0x1000 ≤ a) (hu : a < 0x3000) :
    qspiReadWord p a s = (some ((seatOf s n).mail.get (a / 4) 0), s) := by
  have hv : seatViewRead (some n) n a s = ((seatOf s n).mail.get (a / 4) 0, s) := by
    rw [seatViewRead, if_neg (by omega), if_neg (by omega)]
  unfold qspiReadWord
  simp only [ha, hb, hv]
  rw [if_neg (by omega), if_pos (by omega), if_pos hu]

theorem qspiWord_unmapped {p n a v : Nat} {s : State} (hb : boundSeat s 2 p = some n) (ha : a % 4 = 0) (hl : 0x3000 ≤ a) (hu : a < 0x10000) :
    qspiReadWord p a s = (some 0, s) ∧ qspiWriteWord p a v s = (true, s) := by
  constructor
  · unfold qspiReadWord
    simp only [ha, hb]
    rw [if_neg (by omega), if_pos hu, if_neg (by omega)]
  · unfold qspiWriteWord
    simp only [ha, hb]
    rw [if_neg (by omega), if_pos hu, if_neg (by omega)]

/-- A word written into the command area of a seat whose command is not posted. -/
theorem qspiWriteWord_mail {p n a : Nat} (v : Nat) {s : State} (hb : boundSeat s 2 p = some n) (ha : a % 4 = 0) (hl : 0x1000 ≤ a) (hu : a < 0x1400)
    (hq : Quiescent s) : qspiWriteWord p a v s = (true, updSeat n (putMail a [v]) s) := by
  have hn := boundSeat_lt hb
  have hv : seatViewWrite n a v s = updSeat n (putMail a [v]) s := by
    rw [seatViewWrite, if_neg (by omega), if_neg (by omega), if_neg (by omega), if_neg (by omega), if_neg (by omega), if_pos (by omega),
      if_neg (by rw [hq.2 n hn]; exact Bool.false_ne_true)]
  have hqt : Quiescent (updSeat n (putMail a [v]) s) := hq
  unfold qspiWriteWord
  simp only [ha, hb, hv, settleAll_of_quiescent hqt]
  rw [if_neg (by omega), if_pos (by omega), if_pos (by omega)]

/-- Settles O54: a QSPI header is read back whatever follows it (`qspiHead_reads`), so that a write is judged by the bytes after it
(`exec_qspiWrite_head`) and a read by what it found (`exec_qspiRead_head`); the second key is a self-diagnosis that gives up the
claim held (`selfDiag_release`), and the mute pair is judged as soon as both words are in (`exec_lifeMuteWrite`). -/
theorem qspiAndLifeline : Obligations.QspiAndLifeline := by
  refine ⟨fun p op a n ws s h hp ho hb ha hw h1 hn hlt hh => ?write, fun p b s hp ho => ⟨exec_qspiWrite_busy hp ho, exec_qspiWrite_check hp ho⟩,
    fun p s h => ⟨exec_qspiWrite_off h, exec_qspiRead_off h, ?off⟩, fun p op a n s h r c hp ho ha h1 hn hh hr => ?read, fun p n a v s hb ha => ?word,
    fun p s hp => ?status, fun n s hv ho => ?keys, fun n s hn => ⟨releaseKeys_refused, ?expiry⟩, fun n v c s hv ho => ?mute,
    fun n v c s h => lifeMuteWrite_refused v c h, fun s hb hr => ?beat⟩
  case write =>
    obtain rfl : h = qspiHead op a n := hh
    have hd : (wordsToBytes ws).length = 4 * n := by rw [length_wordsToBytes, hw]
    have htake (c : List Nat) : (wordsToBytes ws ++ c).take (4 * n) = wordsToBytes ws := by rw [← hd, List.take_left]
    have hdrop (c : List Nat) : (wordsToBytes ws ++ c).drop (4 * n) = c := by rw [← hd, List.drop_left]
    have hlen (c : Nat) : (wordsToBytes ws ++ bytesOf c 4).length = 4 * n + 4 := by rw [List.length_append, hd, length_bytesOf]
    refine ⟨fun r hr => ?_, fun c hc hne => ?_, fun b hb' => ?_⟩
    · rw [List.append_assoc, exec_qspiWrite_head _ hp ho hb ha h1 hn, qspiBody, if_neg (by rw [hlen]; omega), if_neg (by rw [hlen]; omega),
        htake, hdrop, ofBytes_bytesOf_word (crc32c_lt _), if_neg (fun h => h rfl), bytesToWords_wordsToBytes hlt, ← hr]
    · rw [List.append_assoc, exec_qspiWrite_head _ hp ho hb ha h1 hn, qspiBody, if_neg (by rw [hlen]; omega), if_neg (by rw [hlen]; omega),
        htake, hdrop, ofBytes_bytesOf_word hc, if_pos (Ne.symm hne)]
    · rw [exec_qspiWrite_head _ hp ho hb ha h1 hn, qspiBody, if_pos hb']
  case off =>
    show execQspiStatus p s = _
    rw [execQspiStatus, h]
    rfl
  case read =>
    subst hr
    obtain rfl : h = qspiHead op a n := hh
    obtain ⟨hsome, hnone⟩ := exec_qspiRead_head c hp ho ha h1 hn
    refine ⟨fun ws b hw hb => ?_, hnone⟩
    rw [hb]
    exact hsome ws hw
  case word =>
    refine ⟨qspiReadWord_mail hb ha, qspiWord_unmapped hb ha, fun hl hu hq hv => ⟨_, qspiWriteWord_mail v hb ha hl hu hq, rfl, ?_⟩⟩
    rw [seatOf_updSeat, if_pos rfl]
    show ((seatOf s n).mail.set (a / 4) (lo32 v) 0).get (a / 4) 0 = v
    rw [AMap.get_set_self, lo32_of_lt hv]
  case status =>
    show execQspiStatus p s = _
    rw [execQspiStatus, hp]
    rfl
  case keys =>
    refine ⟨exec_lifeReleaseArm hv ho, fun h => ?_, fun h => ⟨_, (exec_lifeReleaseKey hv ho).trans (congrArg _ (if_pos h)), ?_, getF_release_code _,
      fun hc => selfDiag_release_claimant hc, fun m hm => ?_⟩⟩
    · rw [exec_lifeReleaseKey hv ho, if_neg (by rw [h]; exact Bool.false_ne_true)]
    · rw [relArmed_release, seatOf_updSeat, if_pos rfl]
    · rw [relArmed_release, seatOf_updSeat, if_neg hm]
  case expiry =>
    show Host.Outcome.next (if n < 4 then _ else s) = _
    rw [if_pos hn]
  case mute =>
    refine ⟨fun h => ⟨_, exec_lifeMuteWrite v c hv ho, ?_⟩, fun h => ⟨_, exec_lifeMuteWrite v c hv ho, ?_⟩⟩
    · rw [muteDone, if_pos (by rw [not32_lo32]; exact h), show lo32 v % 2 = v % 2 by unfold lo32; omega]
      exact OnlyFields.putF s (LIFE_MUTE_MUTE n) (v % 2)
    · exact muteDone_mismatch _ (by rw [not32_lo32]; exact h)
  case beat =>
    refine ⟨_, ?_, OnlyFields.putF s LIFE_BEAT_BEAT _⟩
    show execLifeBeatTick s = _
    rw [execLifeBeatTick, hb, hr]
    rfl

end Sys2Proof.Machine
